-- ==== Sys2Proof/Word.lean ====
section
/-!
DEFINITION. The word types of the Aswivis AV8 model: bytes and register words (R10, R11).
-/
namespace Sys2Proof

/-- One byte of memory, of a descriptor or of a message. -/
abbrev Byte := BitVec 8
/-- A 16-bit field. -/
abbrev W16 := BitVec 16
/-- A 32-bit register (R20). -/
abbrev W32 := BitVec 32
/-- A 64-bit register (R20). -/
abbrev W64 := BitVec 64

end Sys2Proof
end

