-- ==== Sys2Proof/Syntax.lean ====
section
/-!
DEFINITION. The commands of the block: one constructor of `Instr` per row of spec/opcode_table.json.
The table gives the rows no fields, so the operands are the model's, read from the rule each row names
(notes/assumptions/2.md). Data that the device reads from outside (host memory, a line, a pin, a sensor)
comes WITH the command that brings it.
-/
namespace Sys2Proof

/-- Whose entry a dispatcher takes: the next entry of a job's graph (R303), or the next task of the
invocation under way of a carrier's network (R418). -/
inductive Work where
  | job (stall : Fin 16) (queue : Fin 8) (seq : W32)
  | net (carrier : Fin 8)
  deriving DecidableEq, Repr

/-- What a tile task's reads met (R240): no bad word, a corrected one, an uncorrectable one of the scratchpad bank, or one
of the accumulator store, by number of the 64-bit word. -/
inductive TaskRead where
  | clean
  | corrected
  | ueScr (word : BitVec 21)
  | ueAcc (word : BitVec 18)
  deriving DecidableEq, Repr

/-- What a command's reads of a memory with SECDED ECC met (R292, R401, R442): no bad word, a corrected one with its word
address, or an uncorrectable one. -/
inductive WordRead where
  | clean
  | corrected (word : W32)
  | bad
  deriving DecidableEq, Repr

/-- As `WordRead`, with the word of an uncorrectable error too: what a unit's reads of its own buffers or of an array's
scratchpad met, by 64-bit word, or its reads of device memory, by 32-byte block (R240, R292, R293, R311). -/
inductive MemRead where
  | clean
  | corrected (word : W32)
  | bad (word : W32)
  deriving DecidableEq, Repr

/-- What the patrol scrub of a refresh window finds in a 32-byte block of the 256 bytes it reads of a channel (R310). -/
structure ScrubFind where
  chan : Fin 64
  block : Fin 8
  bad : Bool
  deriving DecidableEq, Repr

/-- What a feeder's piece met, by the byte of the piece or the scratchpad word it lies in (Table 9-5, R240, R320): nothing; an
uncorrectable memory block; one found when part of it is written; an uncorrectable cache word in a dirty or a clean line; one in
the feeder's own buffers, or in the scratchpad; or a corrected one. -/
inductive PieceErr where
  | none
  | memory (byte : BitVec 12)
  | merge (byte : BitVec 12)
  | cache (byte : BitVec 12)
  | cacheClean (byte : BitVec 12)
  | buffer
  | scr (word : BitVec 21)
  | ceMemory (byte : BitVec 12)
  | ceCache (byte : BitVec 12)
  | ceBuffer
  | ceScr
  deriving DecidableEq, Repr

/-- The three network kinds of Table 12-4. -/
inductive NetKind where
  | ce | eqa | llr
  deriving DecidableEq, Repr

/-- An operand of a pacer arithmetic instruction: a data register, or a memory operand through a
pointer and one of the modes of Table 11-3. -/
inductive PcrOperand where
  | reg (n : BitVec 6)
  | mem (ptr : BitVec 4) (mode : BitVec 3)
  deriving DecidableEq, Repr

/-- A register a scalar, pointer or modifier instruction may write (R372, Table 11-2). -/
inductive PcrReg where
  | d (n : BitVec 6)
  | p (n : BitVec 4)
  | pm (n : BitVec 4)
  | sr | sp | slLo | slHi | ie
  /-- The sticky overflow flag of the cluster's detector, cleared by writing 1 (R382). -/
  | edOvf (det : Fin 4)
  deriving DecidableEq, Repr

/-- What a scalar instruction writes: a value computed by its operation, which the pacer assembler reference fixes, from
the data registers it names (R371, R372); the record or status of a vector's source, which it consumes (R379); or a
detector's overflow flag (R382). -/
inductive PcrSource where
  | value (v : W32) (reads : List (BitVec 6))
  | record (vec : BitVec 5)
  | edOvf (det : Fin 4)
  deriving DecidableEq, Repr

/-- What goes wrong at an exception entry (R386, R401): nothing, an exception raised during the entry with its INFO, or an
uncorrectable error on the instruction fetch. -/
inductive EntryErr where
  | none
  | during (vec : BitVec 5) (info : W64)
  | fetch
  deriving DecidableEq, Repr

/-- The lane-wise 16-bit instructions of R369. -/
inductive LaneOp where
  | add | sub | move
  deriving DecidableEq, Repr

/-- Branches of R375. -/
inductive BranchKind where
  | branch | call | ret
  deriving DecidableEq, Repr

/-- The header fields and payload of a Tether frame (Table 14-5), its CRC already checked. -/
structure TFrame where
  type : Byte
  chan : BitVec 3
  first : Bool
  last : Bool
  retx : Bool
  seq : W16
  len : W16
  ackChan : BitVec 3
  urgent : Bool
  ackValid : Bool
  credChan : BitVec 3
  credValid : Bool
  ackSeq : W16
  sack : W64
  credLimit : W32
  lqPeer : W16
  epoch : W32
  payload : List Byte
  deriving DecidableEq, Repr

/-- One PMBus rail's answer to the poll of R566. -/
structure RailReading where
  answered : Bool
  mv : W16
  current : W16
  temp : Byte
  status : W16
  deriving DecidableEq, Repr

/-- What the checks of a staged groom image found (R588). The image's own layout is Camnov's. -/
structure GroomImage where
  readFault : Bool
  length : W32
  formatOk : Bool
  stepping : W16
  signatureOk : Bool
  secVersion : W32
  digest : BitVec 384
  storeOk : Bool
  deriving DecidableEq, Repr

/-- The PARAM body a peer die sends in training (Table 15-5), and what the phases found. -/
structure GirthParam where
  cls : Byte
  vendor : W16
  format : W16
  caps : W16
  credInit : List W16
  dieId : W64
  nextSeq : BitVec 12
  /-- The eight PING and PONG pairs: PONG arrival, PING launch, responder turnaround, in GRT cycles (R535). -/
  pongs : List (W64 × W64 × W32)
  /-- The faulty lane found in each group: groups 0 and 1 received, then sent. -/
  faulty : List (Option (Fin 32))
  deriving DecidableEq, Repr

/-- The commands: every row of spec/opcode_table.json, in the table's order. -/
inductive Instr where
  | airTick (bad : List (BitVec 12) := [])
  | frameBoundary (bad : List (BitVec 12) := [])
  | symStart (carrier : Fin 8) (slot : BitVec 6) (prevFrame : Bool) (symbol : BitVec 4)
  | deadline (carrier : Fin 8) (slot : BitVec 6) (prevFrame : Bool)
  | refreshOpen (target : BitVec 8) (len : W16) (found : List ScrubFind)
  | refreshWindowEnd (stack : Fin 4)
  | forcedRefresh (stack : Fin 4) (temp : Byte)
  | dvfsOpen (domain unit : BitVec 4) (len : W16)
  | pacerSwap (cluster : Fin 6) (mask : Byte) (bind : Byte)
  | stallSwap (stall : Fin 16)
  | schoolStep (engine : Fin 2) (net : Byte)
  | snapshot (group : Fin 16)
  | timeSync (port : Fin 4)
  | irq (stall : Fin 16) (vector : BitVec 11)
  | refm (iod : Fin 2) (stamp : W64) (present : Bool)
  | refmPps (iod : Fin 2) (stamp : W64) (cycles : W32)
  | ppsEdgeMissing (iod : Fin 2)
  | tenMhzLost (iod : Fin 2)
  | revertTimer (cand : Fin 4)
  | holdLimitReached
  | timeMsgMissing (port : Fin 4)
  | stepNow
  | slewAnyway
  | forceHoldover (on : Bool)
  | atmEpochArm (frame : BitVec 10) (hyper : BitVec 24)
  | gridRestore
  | gaitShadowWrite (index : BitVec 12) (entry : W64)
  | gaitSwapArm (frame : BitVec 10)
  | gaitCopyDone
  | gaitStart
  | gaitStartTimeout
  | capt (source : BitVec 4) (stamp : W64) (rise : Bool)
  | debounceComplete (cluster : Fin 6) (det : Fin 4)
  | captureDeliver (cluster : Fin 6) (det : Fin 4)
  | checkTile (arr : Fin 8) (pass : Bool)
  | tileOverrun (arr : Fin 8)
  | fence (arr : Fin 8) (cause : BitVec 4)
  | fenceCmd (arr : Fin 8)
  | persist (arr : Fin 8)
  | unpersist (arr : Fin 8)
  | reserveLoadDone (arr : Fin 8)
  | fallbackRemap (stall : Fin 16)
  | girthFailWindow (g : Fin 2)
  | cnvRatioFault (iod : Fin 2) (ppb : W32)
  | hnsLoad (replace : Bool)
  | harnessAccepted (readFault regionErr : Bool) (slotErr : BitVec 2) (image : List Byte) (bad : List (Fin 16 × Byte × W16))
  | hnsLoadSeg (stall : Fin 16 := 0)
  | segmentValidated (readFault regionErr : Bool) (slotErr : BitVec 2) (image : List Byte)
  | segmentEdited
  | segmentNoSwapPoint
  | hnsAbort
  | hnsRaiseFloor
  | keyBurn (slot : Fin 2) (confirm : W16)
  | keyBurnDone
  | keyRevoke (slot : Fin 2)
  | stlReset (stall : Fin 16) (confirm : W16)
  | stlMgmtReset (stall : Fin 16) (confirm : W16)
  | stlQuiesce (stall : Fin 16) (on : Bool)
  | quiesceSet (stall : Fin 16)
  | quiesceClr (stall : Fin 16)
  | stallResetStepDone (stall : Fin 16) (bad : Option (Byte × W16))
  | stallResetResume (stall : Fin 16)
  | pstate (port : Fin 2) (fn : BitVec 4) (tag : W16)
  | mrd (port : Fin 2) (fn : BitVec 4) (space : BitVec 2) (hostPort : Fin 2) (tag : W16) (addr : W64)
      (bytes : BitVec 10)
  | mwr (port : Fin 2) (fn : BitVec 4) (space : BitVec 2) (hostPort : Fin 2) (addr : W64) (data : List Byte) (ue : Bool)
  | rrd (port : Fin 2) (fn : BitVec 4) (tag : W16) (addr : BitVec 20) (wide : Bool)
  | rwr (iod : Fin 2) (addr : W16) (data : W64) (wide : Bool)
  | pwr (port : Fin 2) (fn : BitVec 4) (addr : BitVec 20) (data : W64) (wide : Bool)
  | cpl (iod : Fin 2) (tag : W16) (status : BitVec 4) (data : List Byte) (final : Bool)
  | grtRequestTimeout (iod : Fin 2) (tag : W16)
  | queSqTail (stall : Fin 16) (q : Fin 8) (tail : W32)
  | descriptorRead (stall : Fin 16) (q : Fin 8) (readFault : Bool) (desc : List Byte)
  | jobAccepted (stall : Fin 16) (q : Fin 8)
  | queSqResume (stall : Fin 16) (q : Fin 8)
  | queCqHead (stall : Fin 16) (q : Fin 8) (head : W32)
  | jobRunPlace (stall : Fin 16) (q : Fin 8) (seq : W32)
  | commitDone (stall : Fin 16) (q : Fin 8) (mem : MemRead := .clean)
  | completionWrite (stall : Fin 16) (q : Fin 8)
  | cqCoalTimer (stall : Fin 16) (q : Fin 8)
  | tileDispatch (arr : Fin 8) (work : Work)
  | tileTaskEnd (arr : Fin 8) (read : TaskRead) (mem : MemRead := .clean)
  | vectorDispatch (arr : Fin 8) (work : Work)
  | vectorTaskEnd (arr : Fin 8) (cycles : W16) (read : MemRead) (scr : MemRead := .clean)
  | vectorOverrun (arr : Fin 8)
  | thinDispatch (path : Fin 4) (work : Work)
  | thinTaskEnd (path : Fin 4) (cycles : W32) (read : MemRead) (scr mem : MemRead := .clean)
  | gatherEnter (stall : Fin 16) (q : Fin 8) (seq : W32)
  | batchWindowExpiry (stall : Fin 16)
  | transferDispatch (fdr : Fin 16) (stall : Fin 16) (q : Fin 8) (seq : W32)
  | pieceEnd (fdr : Fin 16) (err : PieceErr)
  | mcastHoldExpiry (fdr : Fin 16)
  | runStallDetect (stall : Fin 16) (q : Fin 8) (seq : W32)
  | transferStuck (fdr : Fin 16)
  | quickDismount (arr : Fin 8)
  | dismountSwitch (arr : Fin 8) (ns : W16)
  | dismountFault (arr : Fin 8)
  | contextReturn (arr : Fin 8) (read : MemRead := .clean)
  | stablingDone (arr : Fin 8) (stall : Fin 16) (ns : W32) (ue : Bool)
  | restoreDone (arr : Fin 8) (stall : Fin 16) (ns : W32) (ue : Bool)
  | pcrBfly (core : Fin 48) (xp yp cp : BitVec 4) (xm ym cm : BitVec 3) (conj half : Bool) (read : WordRead)
  | pcrMac (core : Fin 48) (acc : BitVec 2) (x y : PcrOperand) (conj : Bool) (read : WordRead)
  | pcrNarrow (core : Fin 48) (d : BitVec 6) (acc : BitVec 2) (shift : BitVec 6)
  | pcrLoad (core : Fin 48) (d : BitVec 6) (ptr : BitVec 4) (mode : BitVec 3) (vector : Bool) (read : WordRead)
  | pcrStore (core : Fin 48) (d : BitVec 6) (ptr : BitVec 4) (mode : BitVec 3) (vector : Bool)
  | pcrScalar (core : Fin 48) (dst : PcrReg) (src : PcrSource)
  | pcrBranch (core : Fin 48) (kind : BranchKind) (taken : Bool) (target : BitVec 15)
  | pcrRep (core : Fin 48) (count : W16) (bodyEnd : BitVec 15) (cached rot : Bool)
  | pcrBreak (core : Fin 48)
  | pcrWait (core : Fin 48) (mask : W32)
  | pcrWake (core : Fin 48)
  | pcrTime (core : Fin 48) (d : BitVec 6) (lag : Fin 5)
  | pcrTarm (core : Fin 48) (tm : Fin 4) (arm : Bool) (target : W64) (period : BitVec 24) (carry : Bool)
  | pcrXpost (core : Fin 48) (ptr : BitVec 4) (mode : BitVec 3) (len : W32) (word : W32)
  | pcrRte (core : Fin 48)
  | pcrSwi (core : Fin 48) (operand : W32)
  | exceptionEntry (core : Fin 48) (err : EntryErr)
  | pcrTimerExpire (core : Fin 48) (tm : Fin 4)
  | xpostDone (core : Fin 48)
  | pacerRestart (core : Fin 48)
  | bank0LoadDone (core : Fin 48)
  | preloadDone (core : Fin 48) (ue : Bool)
  | samp (iod : Fin 2) (stream : Fin 16) (stamp : W64) (samples : List W32)
  | agcWindow (carrier : Fin 8)
  | agcFreezeEnd (carrier : Fin 8)
  | invocationStart (carrier : Fin 8) (kind : NetKind)
  | decodeBlockEnd (dec : Fin 24) (read : WordRead)
  | reportComplete (carrier : Fin 8)
  | quietPoint (arr : Fin 8)
  | tapProcessDone (engine : Fin 2) (ue : Bool)
  | candidateBuilt (engine : Fin 2) (ue : Bool)
  | installDone (netRec : Fin 32) (ue : Bool)
  | nvWriteStart (netRec : Fin 32)
  | nvPageWriteDone (netRec : Fin 32) (ok : Bool)
  | sclRead (netRec : Fin 32) (offset : BitVec 36)
  | sclWrite (netRec : Fin 32) (offset : BitVec 36)
  | sclWriteTrial (netRec : Fin 32) (offset : BitVec 36)
  | sclRevertNv (netRec : Fin 32)
  | sclRevertInit (netRec : Fin 32)
  | sclHold (netRec : Fin 32)
  | sclRelease (netRec : Fin 32)
  | sclXferDone (netRec : Fin 32)
  | tthTrainPhaseEnd (port : Fin 4) (residual late : Bool) (gain : Byte)
  | tthFastRetrain (port : Fin 4)
  | tthFailedRetry (port : Fin 4)
  | tthCtlRetrain (port : Fin 4)
  | tthFullTrain (port : Fin 4)
  | tthCodewordDecoded (port : Fin 4) (llrs : List (BitVec 8))
  | hello (port : Fin 4) (cls mode timeDir : Byte) (trainId epoch : W32)
  | ready (port : Fin 4)
  | retrainReq (port : Fin 4)
  | disable (port : Fin 4)
  | tthDataFrame (port : Fin 4) (frame : TFrame)
  | tthIdleFrame (port : Fin 4) (frame : TFrame)
  | tthTimeFrame (port : Fin 4) (frame : TFrame)
  | tthDeliver (port : Fin 4) (ch : Fin 8) (ue : Bool)
  | tthCodewordSlot (port : Fin 4) (descs : List (List Byte)) (payload : List Byte)
  | tthRtoExpire (port : Fin 4) (ch : Fin 8)
  | tthTxTail (port : Fin 4) (ch : Fin 8) (tail : W32)
  | tthLqWindow (port : Fin 4) (err sig : W64)
  | tthRcUpdate (port : Fin 4)
  | tthRcSnapshot (port : Fin 4)
  | tthMarkerRx (port : Fin 4) (bits : W64) (late : Bool) (stamp : W64)
  | tthMktSend (port : Fin 4) (stamp : W64)
  | tofs (port : Fin 4) (t1 : W64) (offset : W64) (delay : W32) (valid : Bool)
  | grtFlitRx (g : Fin 2) (lanes : List (List Bool))
  | grtFlitSlot (g : Fin 2)
  | grtReplayTimeout (g : Fin 2)
  | grtRetrain (g : Fin 2) (cause : BitVec 3)
  | grtCtlRetrain (g : Fin 2)
  | grtTrainingPhaseEnd (g : Fin 2) (failCause : BitVec 4) (param : GirthParam)
  | timeSend (g : Fin 2)
  | time (iod : Fin 2) (stamp : W64) (replayed : Bool) (count : W64)
  | tact (iod : Fin 2) (port : Fin 4) (action : BitVec 6) (stamp : W64)
  | sysrefEdge (iod : Fin 2) (stamp : W64)
  | rxcResync (iod : Fin 2)
  | jesdLaneLoss (iod : Fin 2) (lane : BitVec 4) (errors : W32)
  | setAddr (offset : W32)
  | read
  | trlStatus
  | trlSeek (entry : W32)
  | trlNext
  | snapStatus
  | snapSeek (index : W16)
  | snapNext
  | faultSummary
  | smbusUnknown (cmd : Byte) (reason : BitVec 2)
  | pmbusPoll (rails : List RailReading) (tj ts : Byte)
  | railNoAnswer (rail : Fin 8)
  | tapReset
  | extest (die : Fin 3)
  | idcode (die : Fin 3)
  | samplePreload (die : Fin 3) (balls : List Bool) (preload : List Bool)
  | clamp (die : Fin 3)
  | highz (die : Fin 3)
  | fuseRead (die : Fin 3)
  | bistRun (die : Fin 3) (failed : BitVec 8)
  | bistSts (die : Fin 3)
  | bypass (die : Fin 3)
  | groomMismatch (g : Fin 4)
  | comparatorTest (g : Fin 4) (reported : Bool)
  | groomWatchdog (g : Fin 4)
  | groomRestartCmd (g : Fin 4) (confirm : W16)
  | groomRestartStepDone (g : Fin 4) (ok : Bool)
  | grmStage
  | grmStageDone (image : GroomImage)
  | grmApply
  | updateStepTimer
  | grmAbort
  | grmRaiseFloor
  | throttleEnter (sensor : Byte) (temp : Byte)
  | throttleEnd
  | trip (cause : BitVec 4) (sensor : Byte) (value : W16)
  | tripRecovery
  | pwrBudgetWrite (value : W64)
  | migrationForPark (arr : Fin 8)
  | trailWrite (bad : Option (Fin 4096) := none)
  | trlUnfreeze (confirm : W16)
  | trlFreeze
  | powerFail
  | trailSnapshotDone (ok : Bool)
  | powerOn
  | pwrOkRise (testEn : Bool)
  | pwrOkFall
  | crstN (testEn : Bool)
  | wrstN
  | bootRstWarm (confirm : W16)
  | bootRstCold (confirm : W16) (testEn : Bool)
  | bringupPhaseDone (failed : BitVec 8)
  | warmResetStepDone (failed : BitVec 8) (bad : List (Fin 16 × Byte × W16))
  | registerWrite (port : Fin 2) (fn : BitVec 4) (addr : BitVec 20) (data : W64) (wide : Bool)
  | cnvRatioRestored (iod : Fin 2)
  | jesdLaneSync (iod : Fin 2) (lane : BitVec 4)
  | groomMemUe (g : Fin 4)
  | pcrLaneArith (core : Fin 48) (op : LaneOp) (d a b : BitVec 6)
  | channelCommandFault (chan : Fin 64)
  | tthWakeBurstTimer (port : Fin 4)
  deriving DecidableEq, Repr

end Sys2Proof
end

