-- ==== Sys2Proof/Decode.lean ====
section
/-!
DEFINITION. The command that a word spells. spec/opcode_table.json gives no row any bits (every row's
`fields` is empty), so no word spells a command (notes/assumptions/2.md).
-/
namespace Sys2Proof

/-- The command that the `nbits` bits of `w` spell, for the rows that the table gives bits: none has any. -/
def decodeTableWord (_nbits _w : Nat) : Option Instr := none

end Sys2Proof
end

