-- ==== Sys2Proof/Config.lean ====
section
/-!
DEFINITION. What an implementation fixes and the spec leaves open: each is a constant with no body, so that
nothing can be proved about its value.
-/
namespace Sys2Proof

/-- A free value: what the device draws or measures where the spec states no value. Applied to the counter
`State.free`, which every use advances (notes/assumptions/4.md). -/
opaque Config.freeWord : Nat → BitVec 64

/-- The set in which the last-level cache keeps a line, by channel and line number: R312 makes no statement
about the set index function (notes/assumptions/4.md). -/
opaque Config.cacheSet : Nat → Nat → Fin 32768

/-- By how many ULP the fixed results of EXP, RECIP and RSQRT differ from the exact value rounded down (R275):
0 to 3 stand for one less to two more. -/
opaque Config.expOffset : BitVec 32 → Fin 4
opaque Config.recipOffset : BitVec 32 → Fin 4
opaque Config.rsqrtOffset : BitVec 32 → Fin 4

/-- Tap `k` of section `sec` of a linear echo canceller (0 the main one), and the place of a floating section, as training
or adaptation number `n` sets them: R488 states how many there are and no value. -/
opaque Config.echoTap : (n sec k : Nat) → Int
opaque Config.echoDelay : (n sec : Nat) → Fin 15001

/-- Code `k` of the residual canceller's 528 as update number `n` leaves it: R489 states no value. -/
opaque Config.residualCode : (n k : Nat) → Fin 255

/-- By what the CRC of a trail entry with an uncorrectable word differs when it is read, bit 0 apart (R633). -/
opaque Config.trailNoise : BitVec 32 → BitVec 32

/-- The compute die's own VENDOR and DIE_ID in PARAM (Table 15-5): the spec states neither. -/
opaque Config.ownVendor : BitVec 16
opaque Config.ownDieId : BitVec 64

end Sys2Proof
end

