-- ==== Sys2Proof/Machine/Bits.lean ====
section
/-!
DEFINITION. Byte order (R11), saturating counters (R27), serial comparison (R671) and small list helpers.
-/
namespace Sys2Proof.Machine

/-- `n` bytes of `v`, the least significant first (R11). -/
def leBytes : Nat → Nat → List Byte
  | 0, _ => []
  | n + 1, v => BitVec.ofNat 8 v :: leBytes n (v / 256)

/-- The number whose little-endian bytes these are (R11). -/
def leNat : List Byte → Nat
  | [] => 0
  | b :: bs => b.toNat + 256 * leNat bs

/-- The number whose big-endian bytes these are (R101). -/
def beNat (bs : List Byte) : Nat := bs.foldl (fun a b => a * 256 + b.toNat) 0

/-- `n` bytes from offset `off`. -/
def slice (bs : List Byte) (off n : Nat) : List Byte := (bs.drop off).take n

/-- The 8-bit field at an offset. -/
def u8 (bs : List Byte) (off : Nat) : Byte := bs.getD off 0
/-- The 16-bit field at an offset. -/
def u16 (bs : List Byte) (off : Nat) : W16 := BitVec.ofNat 16 (leNat (slice bs off 2))
/-- The 32-bit field at an offset. -/
def u32 (bs : List Byte) (off : Nat) : W32 := BitVec.ofNat 32 (leNat (slice bs off 4))
/-- The 64-bit field at an offset. -/
def u64 (bs : List Byte) (off : Nat) : W64 := BitVec.ofNat 64 (leNat (slice bs off 8))

/-- Whether every byte is 0. -/
def allZero (bs : List Byte) : Bool := bs.all (· == 0)

/-- The bytes of a word, least significant first. -/
def bytesOf {w : Nat} (v : BitVec w) : List Byte := leBytes (w / 8) v.toNat

/-- A list cut or filled with zeros to `n` bytes. -/
def padTo (n : Nat) (bs : List Byte) : List Byte := (bs ++ List.replicate n 0).take n

/-- Bits `[lo + n - 1 : lo]` of a word. -/
def bits {w : Nat} (v : BitVec w) (lo n : Nat) : BitVec n := v.extractLsb' lo n

/-- Bit `i` of a word. -/
def bit {w : Nat} (v : BitVec w) (i : Nat) : Bool := v.getLsbD i

/-- A word with bit `i` set to `b`. -/
def setBit {w : Nat} (v : BitVec w) (i : Nat) (b : Bool) : BitVec w :=
  if b then v ||| BitVec.ofNat w (2 ^ i) else v &&& ~~~ BitVec.ofNat w (2 ^ i)

/-- A field `f` placed at bit `lo` of a `w`-bit register. -/
def place {n : Nat} (w lo : Nat) (f : BitVec n) : BitVec w := (f.setWidth w) <<< lo

/-- A flag placed at bit `lo` of a `w`-bit register. -/
def flag (w lo : Nat) (b : Bool) : BitVec w := place w lo (BitVec.ofBool b)

/-- A saturating counter counts one more (R27, R628). -/
def satInc {w : Nat} (c : BitVec w) : BitVec w := if c = BitVec.allOnes w then c else c + 1

/-- A saturating counter counts `n` more. -/
def satAdd {w : Nat} (c : BitVec w) (n : Nat) : BitVec w :=
  if c.toNat + n < 2 ^ w then BitVec.ofNat w (c.toNat + n) else BitVec.allOnes w

/-- Serial comparison: `a` is later than `b` (R671). -/
def laterThan {w : Nat} (a b : BitVec w) : Bool :=
  decide (0 < (a - b).toNat) && decide ((a - b).toNat < 2 ^ (w - 1))

/-- The serially greater of a held and a received value; an unordered pair keeps the held one (R671). -/
def serialMax {w : Nat} (held got : BitVec w) : BitVec w := if laterThan got held then got else held

/-- How many bits are set. -/
def popcount {w : Nat} (v : BitVec w) : Nat := (List.range w).countP (fun i => v.getLsbD i)

/-- The numbers of the set bits, lowest first. -/
def setBits {w : Nat} (v : BitVec w) : List Nat := (List.range w).filter (fun i => v.getLsbD i)

/-- A list with element `i` replaced. -/
def setAt {α : Type} : List α → Nat → α → List α
  | [], _, _ => []
  | _ :: xs, 0, v => v :: xs
  | x :: xs, i + 1, v => x :: setAt xs i v

/-- The first index at which `p` holds. -/
def firstIdx {α : Type} (p : α → Bool) : List α → Nat → Option Nat
  | [], _ => none
  | x :: xs, i => if p x then some i else firstIdx p xs (i + 1)

/-- Division of integers rounding toward minus infinity. -/
def fdiv (a : Int) (b : Nat) : Int := Int.fdiv a b

/-- The signed value of an integer saturated to `w` bits, and whether it saturated. -/
def clampInt (w : Nat) (x : Int) : Int × Bool :=
  let hi : Int := 2 ^ (w - 1) - 1
  let lo : Int := -(2 ^ (w - 1))
  if x > hi then (hi, true) else if x < lo then (lo, true) else (x, false)

end Sys2Proof.Machine
end

