-- ==== Sys2Proof/Machine/Table.lean ====
section
/-!
DEFINITION. Sparse tables in one canonical form: the keys rise strictly and no entry equals the value an
unlisted key reads as. Every numbered family of units and every memory of the block is held so
(a memory is a table of bytes, a list of `Host.Cell`).
-/
namespace Sys2Proof.Machine

/-- A family of values by number. -/
abbrev Table (α : Type) := List (Nat × α)

/-- The value at key `k`; `d` where the table lists none. -/
def tget {α : Type} (d : α) : Table α → Nat → α
  | [], _ => d
  | (k', v) :: t, k => if k' = k then v else tget d t k

/-- The table with `v` at key `k`, in key order. -/
def tput {α : Type} : Table α → Nat → α → Table α
  | [], k, v => [(k, v)]
  | (k', v') :: t, k, v =>
    if k < k' then (k, v) :: (k', v') :: t
    else if k = k' then (k, v) :: t
    else (k', v') :: tput t k v

/-- The table with nothing at key `k`. -/
def tdel {α : Type} : Table α → Nat → Table α
  | [], _ => []
  | (k', v') :: t, k => if k' = k then tdel t k else (k', v') :: tdel t k

/-- Writing `v` at `k`: the default removes the entry, so that equal tables are equal data. -/
def tset {α : Type} [DecidableEq α] (d : α) (t : Table α) (k : Nat) (v : α) : Table α :=
  if v = d then tdel t k else tput t k v

/-- Changing the value at `k` by `f`. -/
def tmod {α : Type} [DecidableEq α] (d : α) (t : Table α) (k : Nat) (f : α → α) : Table α :=
  tset d t k (f (tget d t k))

/-- Changing the values at every key of a list. -/
def tmods {α : Type} [DecidableEq α] (d : α) (t : Table α) (ks : List Nat) (f : Nat → α → α) : Table α :=
  ks.foldl (fun t k => tmod d t k (f k)) t

/-- The canonical form. -/
def twf {α : Type} [DecidableEq α] (d : α) : Table α → Bool
  | [] => true
  | [(_, v)] => decide (v ≠ d)
  | (k, v) :: (k', v') :: t => decide (v ≠ d) && decide (k < k') && twf d ((k', v') :: t)

/-- `n` bytes of a memory from address `a`; a byte nothing has written reads 0 (notes/assumptions/5.md). -/
def mread (m : Table Byte) (a n : Nat) : List Byte :=
  (List.range n).map (fun i => tget 0 m (a + i))

/-- A memory with the bytes `bs` written from address `a`. -/
def mwrite (m : Table Byte) (a : Nat) (bs : List Byte) : Table Byte :=
  match bs with
  | [] => m
  | b :: bs => mwrite (tset 0 m a b) (a + 1) bs

/-- A memory in canonical form. -/
abbrev Memory.wf (m : Table Byte) : Prop := twf (0 : Byte) m = true

end Sys2Proof.Machine
end

