-- ==== Sys2Proof/Machine/State.lean ====
section
/-!
DEFINITION. The state of the Aswivis AV8, as plain data: every register, buffer, counter, queue and mode the
spec gives the block (INVENTORY.md lists them with their rules), the queue of waiting commands, and the model's
own fields (`now`, `sent`, `free`, and the bookkeeping each structure marks as the model's). Families of units
are sparse tables (`Table`) by unit number. Reset values are the fields' defaults.
-/
namespace Sys2Proof.Machine

/-- Why a command stops the machine. No meaning of this model answers with it: every row has an effect in the
spec, and a command whose precondition does not hold leaves the state as it is (notes/assumptions/3.md). -/
inductive Fault where
  /-- Raised by no meaning; kept so that the type is not empty. Safe: nothing answers with it. -/
  | unreachable
  deriving DecidableEq, Repr

/-- Why a command is refused. -/
inductive Refusal where
  /-- Raised by `exec` for a command whose meaning is not written yet. Safe: the machine stops. -/
  | notModelled (mnemonic : String)
  deriving DecidableEq, Repr

/-- Who a task runs for: a job of a queue of a stall (R171), or the invocation of a carrier's network (R418). -/
inductive Owner where
  | job (stall queue : Nat) (seq : W32)
  | net (carrier : Nat)
  deriving DecidableEq, Repr

/-- What the device sends outside (the model's own record, newest first in `State.sent`). -/
inductive Out where
  /-- A memory write to the host of a stall, on the port of its HOST (R150, R548 MWR). -/
  | mwr (stall : Nat) (addr : W64) (data : List Byte)
  /-- A memory read request to the host of a stall (R548 MRD). -/
  | mrd (stall : Nat) (tag : W16) (addr : W64) (bytes : Nat)
  /-- A raised MSI-X vector: a write of the vector's data to its address (R549). -/
  | msix (stall : Nat) (vector : BitVec 11) (addr : W64) (data : W32)
  /-- A completion of a request that came over girth link `iod` (R548 CPL). -/
  | cpl (iod : Nat) (tag : W16) (status : BitVec 4) (data : List Byte) (final : Bool)
  /-- A register access forwarded to an I/O die (R665). -/
  | rwr (iod : Nat) (tag : W16) (addr : W16) (data : W64) (wide : Bool)
  | rrd (iod : Nat) (tag : W16) (addr : W16) (wide : Bool)
  /-- A TIME message (R550) and a gait action forwarded to an I/O die (R547 TACT). -/
  | time (g : Nat) (stamp : W64) (stepped : Bool) (state : BitVec 3) (holdEst : W32) (corr : W64)
  | tact (g : Nat) (port : Nat) (action : BitVec 6) (stamp : W64)
  /-- A girth flit, 256 bytes (R537), and the bits that each wire of the direction carries of it (R533). -/
  | flit (g : Nat) (bytes : List Byte) (wires : List (Nat × List Bool))
  /-- A Tether frame or marker with the levels it is sent as, or a wake burst (R501, R484 to R486, R492). -/
  | frame (port : Nat) (f : TFrame) (levels : List Int)
  | marker (port : Nat) (mkt : Bool) (levels : List Int)
  | burst (port : Nat)
  /-- A PAM-2 training sequence or retrain preamble goes onto a Tether pair (R492, R493). -/
  | trainSeq (port : Nat)
  /-- What the SMBus target answers: bytes, or a NACK (R565). -/
  | smbus (bytes : List Byte)
  | smbusNack
  /-- What a die's test port shifts out (R567). -/
  | tdo (die : Nat) (bits : List Bool)
  /-- A PMBus VOUT_COMMAND (R566). -/
  | vout (rail : Nat) (mv : W16)
  /-- A pulse of the Tether frame-marker strobe (R519). -/
  | strobe (port : Nat)
  deriving DecidableEq, Repr

/-! ### Assembly and fuses (ch. 2, ch. 3) -/

/-- The fuse map and the owner-key slots (R77, R116). The enabled set is the part's own: the flagship
AV8-M4I2 (notes/assumptions/7.md). -/
structure Fuses where
  arrEn : BitVec 8 := 0xFF
  stackEn : BitVec 4 := 0xF
  iodEn : BitVec 2 := 0x3
  pcrEn : BitVec 48 := BitVec.allOnes 48
  decEn : BitVec 24 := BitVec.allOnes 24
  bad : Bool := false
  burned : BitVec 2 := 0
  revoked : BitVec 2 := 0
  hash0 : BitVec 384 := 0
  hash1 : BitVec 384 := 0
  deriving DecidableEq, Repr

/-- Field fencing of arrays (Tables 2-9, 2-10) and the fence page of the non-volatile bank (R85). -/
structure Fencing where
  fenced : BitVec 8 := 0
  /-- FENCED as ARR_FENCE_STS shows it: set by a fence, stored by a write (RWS). -/
  shown : BitVec 8 := 0
  persisted : BitVec 8 := 0
  lastArray : BitVec 3 := 0
  lastCause : BitVec 4 := 0
  ctlArray : BitVec 3 := 0
  count : W16 := 0
  deriving DecidableEq, Repr

/-! ### The harness image (ch. 3) -/

/-- Table 3-4. -/
structure StallRec where
  stall : Nat
  cls : Nat
  host : Nat
  vf : Nat
  share : Nat
  queues : Nat
  qdepthLog2 : Nat
  gatherWindow : Nat
  thinRows : Nat
  jobAbi : W16
  mvpAllowed : Bool
  memBase : W64
  memSize : W64
  deriving DecidableEq, Repr

/-- Table 3-5. -/
structure ResRec where
  stall : Nat
  arrOwn : BitVec 8
  arrBorrow : BitVec 8
  mvpOwn : BitVec 4
  mvpBorrow : BitVec 4
  fdrOwn : BitVec 16
  fdrBorrow : BitVec 16
  decOwn : BitVec 24
  decBorrow : BitVec 24
  seOwn : BitVec 2
  pcrOwn : BitVec 48
  pcrBorrow : BitVec 48
  deriving DecidableEq, Repr

/-- The memory map record of R107. -/
structure MemRec where
  stall : Nat
  ways : BitVec 16
  channels : W64
  deriving DecidableEq, Repr

/-- The TIME body (Table 3-7), with the defaults of SLEW_LIMIT and STEP_LIMIT applied. -/
structure TimeCfg where
  cand : List Byte := []
  revertive : Bool := false
  holdDrift : W32 := 0
  holdLimit : W32 := 0
  slewLimit : W32 := 123
  stepLimit : W32 := 30720
  slotCode : List Byte := []
  carrierStall : List Byte := []
  deriving DecidableEq, Repr

/-- The binding record of R109, with the stall whose section holds it. -/
structure BindRec where
  bind : Byte
  cluster : Nat
  mask : Byte
  code : W16
  entry : W32
  deriving DecidableEq, Repr

/-- The detector record of R109. -/
structure DetRec where
  cluster : Nat
  det : Nat
  source : Byte
  polarity : Byte
  debounce : Byte
  deriving DecidableEq, Repr

/-- The program of a PACER_CODE section (R390), by its directory index. -/
structure CodeRec where
  index : Nat
  stall : Nat
  data : List Byte
  deriving DecidableEq, Repr

/-- The Tether role record of R110. -/
structure TetherRec where
  port : Nat
  role : Byte
  mode : Byte
  stall : Nat
  timeDir : Byte
  gain : Byte
  deriving DecidableEq, Repr

/-- The clock record of R111. -/
structure ClockRec where
  domain : Nat
  unit : Nat
  pin : Bool
  freq : Nat
  deriving DecidableEq, Repr

/-- The interrupt route of R112. -/
structure RouteRec where
  source : W16
  stall : Nat
  vector : BitVec 11
  deriving DecidableEq, Repr

/-- The fallback record of R113; `enabled` is false for a spare record disabled at acceptance (R117). -/
structure FallRec where
  kind : Nat
  failed : Nat
  stall : Nat
  action : Nat
  replace : Nat
  alsoFenced : BitVec 8
  variant : Nat
  enabled : Bool := true
  deriving DecidableEq, Repr

/-- The budget section of R115. -/
structure Budget where
  stall : Nat
  carriers : Nat
  shedOrder : List Byte
  deadline : Nat
  variants : List (Nat × List Nat)
  deriving DecidableEq, Repr

/-! ### Air time and the gait sequencer (ch. 1) -/

/-- The reference states of Table 1-3. -/
inductive RefState where
  | freerun | acquire | locked | slewing | stepPending | holdover
  deriving DecidableEq, Repr

/-- Qualification progress of one reference (R33, R672): sources 0 and 1 are the PPS and 10 MHz inputs of the I/O
dies, 2 to 5 the Tether ports T0 to T3. -/
structure Candidate where
  qualified : Bool := false
  /-- PPS: the 10 MHz input is present, and an edge was seen. -/
  tenMHz : Bool := false
  seen : Bool := false
  /-- Good intervals, or valid messages, in a row; edges, or messages, missing in a row. -/
  good : Nat := 0
  missed : Nat := 0
  /-- PPS: cycles of the 10 MHz input from the edge the expected times are counted from to the last edge. -/
  cycles : Nat := 0
  /-- The `now` of qualification. -/
  since : Nat := 0
  deriving DecidableEq, Repr

/-- A gait bank: entries by position, and the positions that fail parity (R51, R69). -/
structure GaitBank where
  entries : List W64 := []
  bad : List Nat := []
  deriving DecidableEq, Repr

/-- What the AIR domain keeps across a warm reset (R645), with the `now` of step 2. -/
structure KeptGrid where
  count : Nat
  corr : Int
  state : RefState
  est : Nat
  at2 : Nat
  deriving DecidableEq, Repr

/-- A gait entry from the tick at which it is due until its action takes effect (R50). -/
structure GaitAct where
  entry : W64
  /-- ATM_ABS_TICK at its OFFSET, or for a late entry at the last tick of its frame: the swap tick of a swap (R58). -/
  due : Nat := 0
  /-- The frame in which it acts: HYPER × 1,024 + FRAME, FRAME by the present numbering, and ATM_ABS_TICK at the starts of
  that frame and of the one before. -/
  frames : Nat := 0
  alt : BitVec 10 := 0
  frameAbs : Nat := 0
  prevAbs : Nat := 0
  /-- Its dispatch: ATM_ABS_TICK, FRAME, TICK, and the generation of a carrier's cluster (Table 11-7). -/
  abs : Nat := 0
  frame : BitVec 10 := 0
  tick : BitVec 21 := 0
  gen : Byte := 0
  deriving DecidableEq, Repr

/-- The air clock, the reference machine and the gait sequencer (R28 to R71). -/
structure Air where
  /-- The notification of STEP_PENDING waits for G3 (Table 16-2). -/
  notify : Bool := false
  tick : BitVec 21 := 0
  frame : BitVec 10 := 0
  hyper : BitVec 24 := 0
  abs : W64 := 0
  /-- ATM_ABS_TICK at tick 0 of the current frame, and of the frame before (the model's own). -/
  frameAbs : Nat := 0
  prevAbs : Nat := 0
  /-- The frame's last tick is reached, and the late entries of a shortened frame are queued (R42). -/
  ended : Bool := false
  /-- Frequency correction in force, in 0.01 ppb (R28). -/
  corr : Int := 0
  /-- Correction in force when the present slew began, from which a slew moves by at most 5 ppm (R40). -/
  slewBase : Int := 0
  /-- Corrections of the present or last LOCKED period, newest first, each with its ticks; the `now` since which the
  correction in force holds in LOCKED (R37). -/
  lockHist : List (Nat × Int) := []
  lockSince : Option Nat := none
  /-- Eighths by which immediate steps moved the clock's phase (R674). -/
  phase : BitVec 3 := 0
  phaseErr : Int := 0
  state : RefState := .freerun
  active : Option (Fin 4) := none
  activeReg : BitVec 2 := 0
  cands : Table Candidate := []
  holdExpired : Bool := false
  stepped : Bool := false
  refLost : Bool := false
  epochApplied : Bool := false
  forceHoldover : Bool := false
  epochFrame : BitVec 10 := 0
  epochHyper : BitVec 24 := 0
  epochArm : Bool := false
  holdStart : Option Nat := none
  holdBase : Nat := 0
  /-- The present holdover has reached HOLD_LIMIT and raised its fault (R38). -/
  holdDone : Bool := false
  /-- A step decided and not yet applied: frame boundaries still to pass, the last being its step boundary (R39). -/
  stepIn : Option Nat := none
  /-- The current frame was lengthened or shortened, or the frame before was (R44). -/
  stretched : Bool := false
  prevStretched : Bool := false
  /-- The reference the decided step was measured on is lost (R37). -/
  stepOld : Bool := false
  /-- Steps applied since power-on (the model's own), by which an exchange sees a step in its span (R520). -/
  steps : Nat := 0
  /-- Eighths by which steps have moved the count against the converter clock, modulo 512 (R572), and loads of ATM_EPOCH
  (R550); both the model's own. -/
  shift : BitVec 9 := 0
  loads : Nat := 0
  /-- Numbering supplied and not yet loaded: frames to add to the device's own count, and whether it is ATM_EPOCH's
  (R43). -/
  numbering : Option (Int × Bool) := none
  kept : Option KeptGrid := none
  gaitLate : W16 := 0
  running : Bool := false
  startArmed : Bool := false
  acceptedAt : Option Nat := none
  activeBank : Bool := false
  bank0 : GaitBank := {}
  bank1 : GaitBank := {}
  swapFrame : Option (BitVec 10) := none
  copying : Bool := false
  parityErr : Bool := false
  forcedRefresh : Bool := false
  entryCount : BitVec 13 := 0
  /-- Entries due and not yet issued: late ones of a shortened frame first (R42), then those of the offset (R50). -/
  lateQ : List GaitAct := []
  dueQ : List GaitAct := []
  /-- Actions issued and not yet taken effect at their targets (R50), oldest first. -/
  issued : List GaitAct := []
  deriving DecidableEq, Repr

/-- A debounce in progress (R60, R62): its source, the first sample in eighths of ATM_ABS_TICK, its record, and the
DEBOUNCE in force. -/
structure Pend where
  source : Byte
  at8 : Nat
  record : W64
  debounce : Nat
  deriving DecidableEq, Repr

/-- What an edge detector watches (R59). POLARITY 0: nothing. -/
structure DetCfg where
  source : Byte := 0
  polarity : Byte := 0
  debounce : Byte := 0
  deriving DecidableEq, Repr

/-- One edge detector (R59 to R61): its configuration, that of first samples before ATM_ABS_TICK `from_` (R62), debounces in
progress, its queue and overflow flag. -/
structure Detector where
  cfg : DetCfg := {}
  before : DetCfg := {}
  from_ : Nat := 0
  pends : List Pend := []
  queue : List W64 := []
  ovf : Bool := false
  deriving DecidableEq, Repr

/-- A pacer cluster: program generation (R58), detectors, clock (R398). -/
structure Cluster where
  gen : Byte := 0
  /-- ATM_ABS_TICK of swap ticks (R58) since the frame before the last one, newest first: first samples are judged against
  them (R62). -/
  swaps : List Nat := []
  dets : Table Detector := []
  freq : BitVec 5 := 0
  deriving DecidableEq, Repr

/-! ### The loader (ch. 3) -/

/-- A load in progress: full image or segment, with the checked structure waiting for its warm reset. -/
structure LoadJob where
  segment : Bool
  replace : Bool
  deriving DecidableEq, Repr

/-- A segment accepted into the segment store (R121). -/
structure SegImage where
  stall : Nat
  base : W32
  serial : W32
  bytes : List Byte
  deriving DecidableEq, Repr

/-- The loader's registers (Tables 3-14 to 3-16, R126), image slots and segment in progress. -/
structure Loader where
  src : W64 := 0
  len : W32 := 0
  replace : Bool := false
  state : BitVec 4 := 0
  segState : BitVec 3 := 0
  segStall : BitVec 4 := 0
  slot : Bool := false
  keySlot : Bool := false
  spares : BitVec 8 := 0
  errCode : Byte := 0
  errIndex : BitVec 10 := 0
  errRecord : BitVec 14 := 0
  digest : BitVec 384 := 0
  serial : W32 := 0
  segSerial : Table W32 := []
  floor : W32 := 0
  segFrame : BitVec 10 := 0
  segTick : BitVec 21 := 0
  provHash : List W32 := List.replicate 12 0
  loadCnt : W32 := 0
  /-- A key burn under way: slot and hash (R116). -/
  burning : Option (Nat × BitVec 384) := none
  job : Option LoadJob := none
  /-- The accepted image's bytes, in the image slot that `slot` names. -/
  image : List Byte := []
  /-- A REPLACE image that waits for its warm reset (R119). -/
  nextImage : Option (List Byte) := none
  segs : Table (Option SegImage) := []
  segImage : List Byte := []
  /-- EDITED repeats after a G3 restart (R129). -/
  repeats : Nat := 0
  /-- The count of frames at EDITED, and whether a STALL_SWAP passed by because of uncommitted jobs (R125). -/
  editedAt : Nat := 0
  delayed : Bool := false
  /-- The image slot or segment store was found damaged: the next warm reset leaves EMPTY (R131). -/
  damaged : Bool := false
  deriving DecidableEq, Repr

/-! ### Stalls, queues and jobs (ch. 4, 5, 10) -/

/-- The stall states of Table 4-7. -/
inductive StallState where
  | absent | active | held | faulted | resetting
  deriving DecidableEq, Repr

/-- The journal states of Table 5-9. -/
inductive JState where
  | accepted | running | committing | committed | completed | retired
  deriving DecidableEq, Repr

/-- A journal entry (Table 5-4); its last field is the completion record's SAT flag (R231). -/
structure JEntry where
  desc : List Byte
  seq : W32
  state : JState := .accepted
  runs : Byte := 0
  status : W16 := 0
  acceptTick : W64 := 0
  commitTick : W64 := 0
  arrayNs : W64 := 0
  sat : Bool := false
  deriving DecidableEq, Repr

/-- A queue of a stall: its registers (R199) and its journal (R178). -/
structure Queue where
  sqBase : W64 := 0
  cqBase : W64 := 0
  rd : W32 := 0
  ahead : W32 := 0
  cdone : W32 := 0
  cqHead : W32 := 0
  coal : W32 := 0
  enable : Bool := false
  stopped : Bool := false
  stopKind : BitVec 3 := 0
  stopReason : Byte := 0
  latched : Option W32 := none
  /-- The TAIL that replaced a latched one while a descriptor was being accepted, not yet classified (R181). -/
  newTail : Option W32 := none
  /-- The latest doorbell held while the stall holds its doorbells (R154). -/
  held : Option W32 := none
  /-- A NEW descriptor whose journal entry is written and whose queue line is not yet acknowledged (R186). -/
  accepting : Option (List Byte) := none
  /-- A NEW descriptor read while its journal entry was not free (R186). -/
  waiting : Option (List Byte) := none
  journal : Table (Option JEntry) := []
  sinceIrq : Nat := 0
  coalRunning : Bool := false
  deriving DecidableEq, Repr

/-- A run of an accepted job (R189, R268, R303): its place, what has ended, and what is running. -/
structure Run where
  queue : Nat
  seq : W32
  array : Option Nat := none
  evSet : Nat := 0
  nextTile : Nat := 0
  running : List Nat := []
  nextXfer : Nat := 0
  runningX : List Nat := []
  /-- Tasks with WAIT_EV 0 dispatched, newest first, each with the next transfer at its dispatch (R268). -/
  marks : List (Nat × Nat) := []
  eccTiles : List Nat := []
  overTiles : List Nat := []
  /-- Array a tile that failed on an uncorrectable error must not re-run on (R193). -/
  avoid : Option Nat := none
  /-- The array to which a SHARED stall's fallback record moves it from a fenced one (R82). -/
  moveTo : Option Nat := none
  fail : Option W16 := none
  committing : Bool := false
  /-- Moved out by stabling and waiting for its restore (R343). -/
  stabled : Bool := false
  idleSince : Nat := 0
  deriving DecidableEq, Repr

/-- A thin task waiting in or closed by the gatherer (R286). -/
structure GatherTask where
  queue : Nat
  seq : W32
  tile : Nat
  desc : List Byte
  ready : Nat
  deriving DecidableEq, Repr

/-- A closed batch, with the THIN_ROWS in force when it closed (R286, R291). -/
structure Batch where
  tasks : List GatherTask
  thinRows : Nat
  deriving DecidableEq, Repr

/-- A run in a stable image: its job, its event set and the slots it has parked, counted within the image (R340). -/
structure StabledRun where
  queue : Nat
  seq : W32
  events : W16
  parked : List Nat
  deriving DecidableEq, Repr

/-- A stable image of a stall on an array (R340). -/
structure StableImage where
  array : Nat
  bytes : List (Table Byte)
  slots : List (Table W32)
  sats : List (Table Bool)
  folds : List (Table Nat)
  tb : Table W32
  hf : Table Bool
  runs : List StabledRun
  tokens : Nat
  deriving DecidableEq, Repr

/-- A loss on its way to its change point (R82 steps 4 and 5, R347, Table 2-11): the kind of unit, the failed and the replacing
unit, whether the replacement is ready, and the variant and number of shed carriers evaluated with it. Kind 0: an evaluation
alone (R349). -/
structure Remap where
  kind : Nat
  failed : Nat
  replace : Option Nat
  ready : Bool := false
  eval : Option (W16 × BitVec 4) := none
  deriving DecidableEq, Repr

/-- A stall (Tables 4-11 to 4-14, R163, R199, Tables 10-7, 10-8, R316, R289). -/
structure Stall where
  state : StallState := .absent
  segHold : Bool := false
  quiesce : Bool := false
  carriersLive : Byte := 0
  faultCode : W16 := 0
  faultUnit : Byte := 0
  faultKind : BitVec 4 := 0
  /-- The job whose run raised the latched fault with JOB_FAULT attribution (R194). -/
  faultJob : Option (Nat × W32) := none
  /-- The fault latched when the reset in progress began, and the first raised during it: code, unit, kind (R157). -/
  faultWas : Option (W16 × Byte × BitVec 4) := none
  faultNew : Option (W16 × Byte × BitVec 4) := none
  /-- A QUIESCE write that takes effect when the stall returns to ACTIVE (R167). -/
  quiesceLate : Option Bool := none
  accErr : W16 := 0
  resetCnt : W16 := 0
  /-- Step of the reset in progress, 1 to 5 (Table 4-8); 0 none. -/
  resetStep : Nat := 0
  share : BitVec 10 := 0
  sharePending : Option (BitVec 10) := none
  queues : Table Queue := []
  epoch : W32 := 0
  /-- The control area failed its check (R202). -/
  badJournal : Bool := false
  initialised : Bool := false
  /-- The record under which its control area was initialised (R203). -/
  journalRec : Option StallRec := none
  ansBase : W64 := 0
  ansHead : W32 := 0
  ansWr : W32 := 0
  ansDrop : W16 := 0
  runs : List Run := []
  /-- Closed and open batches of the gatherer (R286), and its counters. -/
  openBatches : List (List GatherTask) := []
  closedBatches : List Batch := []
  gthBatch : W64 := 0
  gthRows : W64 := 0
  gthArray : W64 := 0
  arrNs : W64 := 0
  mvpNs : W64 := 0
  vecNs : W64 := 0
  switchNs : W64 := 0
  stableNs : W64 := 0
  va : W64 := 0
  vp : W64 := 0
  backlogArr : Bool := false
  backlogMvp : Bool := false
  images : Table (Option StableImage) := []
  variant : W16 := 0
  shedK : BitVec 4 := 0
  /-- Losses and evaluations not yet at their change point, in order of detection (R82, R86, R114, R347). -/
  remaps : List Remap := []
  /-- Units lost without replacement, by kind (R114, R347). -/
  uncovered : List (Nat × Nat) := []
  fdrRd : W64 := 0
  fdrWr : W64 := 0
  llcHit : W64 := 0
  llcMiss : W64 := 0
  /-- MSI-X: message address, data and mask by vector (masked when unlisted), pending bits (R149). -/
  msixAddr : Table W64 := []
  msixData : Table W32 := []
  msixOpen : Table Bool := []
  msixPend : Table Bool := []
  /-- Completions, answers and interrupts held while the stall is unreachable, oldest first (R143). -/
  heldOut : List Out := []
  heldIrq : List (BitVec 11) := []
  /-- Arrays on which the stall placed a run in the present accounting period (R333). -/
  placedNow : BitVec 8 := 0
  deriving DecidableEq, Repr

/-- A PCIe port (R141, R143). -/
structure Port where
  linkUp : Bool := false
  vfEnable : Bool := false
  numVfs : BitVec 8 := 0
  deriving DecidableEq, Repr

/-- A PCIe function: Bus Master Enable, the read latch and the held low half of a write (R20, R659). -/
structure Func where
  bme : Bool := false
  latch : Option (Nat × W32) := none
  hold : Option (Nat × W32) := none
  deriving DecidableEq, Repr

/-! ### Arrays, vector engines, paths, feeders and memory (ch. 6 to 9) -/

/-- A tile task or vector task under way. -/
structure Task where
  desc : List Byte
  owner : Owner
  stall : Nat
  tile : Nat
  reserve : Bool
  seed : W64
  freq : Nat
  deriving DecidableEq, Repr

/-- A contributor of a thin task or batch: its job or invocation, tile and descriptor (R288). -/
structure Contrib where
  owner : Owner
  stall : Nat
  tile : Nat
  desc : List Byte
  seed : W64
  ready : Nat
  deriving DecidableEq, Repr

/-- The steps of a quick dismount and of its return (Table 10-3, R339). -/
inductive CtxPhase where
  | main | requested | reserve
  deriving DecidableEq, Repr

/-- A stabling under way on an array: the stall whose image moves, and the stall its tokens are granted to (R334). -/
structure Move where
  holder : Nat
  grantee : Option Nat
  deriving DecidableEq, Repr

/-- A matrix array (Tables 6-6 to 6-10, R237, R260, Table 10-9): both banks, the accumulator store, tokens,
event sets, and the task under way. Memory words with an uncorrectable error are listed by 8-byte word. -/
structure ArrayU where
  main : Table Byte := []
  rsv : Table Byte := []
  acc : Table W32 := []
  sat : Table Bool := []
  /-- Slots left by an undrained folded task, with its M (R217). -/
  fold : Table Nat := []
  ueMain : List Nat := []
  ueRsv : List Nat := []
  ueAcc : List Nat := []
  selfTest : Bool := true
  parked : Bool := false
  /-- Stabling under way (R343). -/
  moving : Option Move := none
  /-- Fence sequence under way: cause (R82). -/
  fencing : Option (BitVec 4) := none
  satSeen : Bool := false
  ceSeen : Bool := false
  ueSeen : Bool := false
  checkFail : Bool := false
  freq : BitVec 5 := 0
  errCode : Byte := 0
  errStall : BitVec 4 := 0
  errBank : Bool := false
  errAddr : BitVec 18 := 0
  rsvStall : Option Nat := none
  tokens : Table (Option Nat) := []
  transit : BitVec 14 := 0
  cycles : W64 := 0
  tasks : W64 := 0
  gated : W64 := 0
  gatedRem : Nat := 0
  eccCe : W16 := 0
  eccUe : W16 := 0
  clampCnt : W32 := 0
  lastUe : Option Nat := none
  run : Option Task := none
  /-- Contributors of a thin task or batch that runs in array form (R287). -/
  batch : List Contrib := []
  ctx : CtxPhase := .main
  parkedMain : List Nat := []
  parkedRsv : List Nat := []
  lastMain : List Nat := []
  lastRsv : List Nat := []
  /-- Whose main-context task the array or its engine took last (R293). -/
  lastOwner : Option Owner := none
  /-- The stall that waits for G1 to grant it tokens that a stabling has freed (R334, R352). -/
  granting : Option Nat := none
  events : Table W16 := []
  dismounts : W64 := 0
  dismountMax : W16 := 0
  /-- Tokens granted or moved in the present accounting period (R334). -/
  movedThisFrame : Bool := false
  deriving DecidableEq, Repr

/-- A vector engine (R266, Table 8-7): six tile buffers, four head-flag registers, the save store. -/
structure VecU where
  tb : Table W32 := []
  hf : Table Bool := []
  saveTb : Table W32 := []
  saveHf : Table Bool := []
  /-- 64-bit words with an uncorrectable error: tile buffers, head flags, and the save store's copies (R292). -/
  ueTb : List Nat := []
  ueHf : List Nat := []
  ueSaveTb : List Nat := []
  ueSaveHf : List Nat := []
  satSeen : Bool := false
  nanSeen : Bool := false
  ceSeen : Bool := false
  ueSeen : Bool := false
  freq : BitVec 5 := 0
  errCode : Byte := 0
  errStall : BitVec 4 := 0
  clampCnt : W32 := 0
  cycles : W64 := 0
  tasks : W64 := 0
  run : Option Task := none
  deriving DecidableEq, Repr

/-- A matrix-vector path (Table 8-8). -/
structure PathU where
  rowBuf : Table Byte := []
  run : List Contrib := []
  rows : BitVec 6 := 0
  out : Bool := false
  ceSeen : Bool := false
  ueSeen : Bool := false
  freq : BitVec 6 := 0
  errCode : Byte := 0
  errStall : BitVec 4 := 0
  cycles : W64 := 0
  tasks : W64 := 0
  bytes : W64 := 0
  lastUe : Option Nat := none
  deriving DecidableEq, Repr

/-- A transfer: its descriptor, owner, stall, index, and the `now` of its dispatch. -/
structure Xfer where
  desc : List Byte
  owner : Owner
  stall : Nat
  index : Nat
  ready : Nat
  deriving DecidableEq, Repr

/-- A transfer or closed multicast group on a feeder, and its next piece. -/
structure FdrJob where
  members : List Xfer
  piece : Nat := 0
  deriving DecidableEq, Repr

/-- A feeder (Table 9-6): the transfer or group whose piece it moves, whether that piece is issued (R310), what waits in order
of dispatch, the stall served last (R315), and the open multicast group with the `now` and the MCAST_HOLD of its first
member (R309). -/
structure Feeder where
  run : Option FdrJob := none
  issued : Bool := false
  queue : List FdrJob := []
  turn : Nat := 15
  group : List Xfer := []
  groupAt : Nat := 0
  groupHold : Nat := 0
  out : Bool := false
  ceSeen : Bool := false
  ueSeen : Bool := false
  errCode : Byte := 0
  errStall : BitVec 4 := 0
  bytes : W64 := 0
  xfers : W64 := 0
  merged : W64 := 0
  mcast : W64 := 0
  lastUe : Option Nat := none
  deriving DecidableEq, Repr

/-- A channel access to which pieces of a stall may still be joined (R308): its 4 KiB window, the `now` of its first piece, and
whether a write has joined it after another piece. -/
structure MergeWin where
  window : Nat
  stall : Nat
  first : Nat
  mixed : Bool
  deriving DecidableEq, Repr

/-- A line of the last-level cache (R312). Data is kept coherent in `Mem.hbm`, so the line holds its tag. -/
structure CacheLine where
  line : Nat
  set : Nat
  way : Nat
  dirty : Bool
  deriving DecidableEq, Repr

/-- A memory stack (R317, R310). -/
structure Stack where
  temp : Byte := 0
  failed : Bool := false
  /-- FAILED as FDR_STACK_STS shows it (RWS). -/
  shown : Bool := false
  forced : W16 := 0
  /-- The `now` at which an open refresh window ends. -/
  window : Option Nat := none
  deriving DecidableEq, Repr

/-- HBM3 memory by (channel, local offset), the cache's tags, and the channels' ECC counters (R296, R317). -/
structure Mem where
  hbm : Table Byte := []
  poison : Table Bool := []
  cache : List CacheLine := []
  /-- Channel accesses of the last 128 NOC cycles (R308). -/
  merge : List MergeWin := []
  ce : Table W16 := []
  ue : Table W16 := []
  hbStacks : Table Stack := []
  scrub : Table (BitVec 22) := []
  deriving DecidableEq, Repr
/-! ### Pacer cores (ch. 11) -/

/-- PCR_STS.STATE (Table 11-12), ABSENT apart: that follows the fuse map. -/
inductive CoreSt where
  | reset | loading | running | waiting | halted | out
  deriving DecidableEq, Repr

/-- A timer of a core (R381). `fired` holds LATE of an expiry not yet consumed; `carried`: it crossed a swap (R397). -/
structure Timer where
  armed : Bool := false
  target : W64 := 0
  period : BitVec 24 := 0
  carry : Bool := false
  gen : Byte := 0
  carried : Bool := false
  fired : Option Bool := none
  deriving DecidableEq, Repr

/-- An instruction bank: its bytes, and its tag, which is the image serial and the BIND (R393). -/
structure CoreBank where
  code : Table Byte := []
  tag : Option (W32 × Byte) := none
  deriving DecidableEq, Repr

/-- A level of the loop stack (R375): body start, first byte after the body, iterations left, L and ROT. -/
structure Level where
  start : Nat
  stop : Nat
  left : Nat
  cached : Bool
  rot : Bool
  deriving DecidableEq, Repr

/-- A transfer posted by XPOST and not ended (R383): the space, offset and length of the core's side, and the word that
names the target and carries the tag. -/
structure Post where
  space : Nat
  offset : Nat
  len : W32
  word : W32
  /-- The start record of the task that posted it. -/
  start : Option W64 := none
  deriving DecidableEq, Repr

/-- A pacer core (R359, R363, R379 to R388, Tables 11-12, 11-13). -/
structure PCore where
  st : CoreSt := .reset
  /-- Active bank: false bank 0. -/
  act : Bool := false
  bank0 : CoreBank := {}
  bank1 : CoreBank := {}
  /-- A preload under way: the tag it will set (R393). -/
  preload : Option (W32 × Byte) := none
  /-- The tag that a load into bank 0 under way will set, with the core's binding (R391). -/
  loadTag : Option (W32 × Byte) := none
  x : Table Byte := []
  y : Table Byte := []
  /-- By physical register (R364); accumulators by 8 × register + 2 × lane + (1 the imaginary part). -/
  d : Table (BitVec 128) := []
  acc : Table (BitVec 48) := []
  p : Table (BitVec 18) := []
  pm : Table W32 := []
  ovf : Bool := false
  ieFlag : Bool := false
  ovfTrap : Bool := false
  srGen : Byte := 0
  sp : BitVec 17 := 0
  slLo : BitVec 17 := 0
  slHi : BitVec 17 := 0
  rrb : BitVec 5 := 0
  ie : W32 := 0
  pc : BitVec 15 := 0
  loops : List Level := []
  /-- A synchronous exception raised and not yet entered: vector and INFO (R384). -/
  sync : Option (BitVec 5 × W64) := none
  /-- Sources of ev (R379): the OVF_TRAP event, CARRIED records, capture records by detector, ended transfers and tasks,
  the operand of SWI. -/
  ovfEv : Bool := false
  carriedQ : List W64 := []
  caps : Table (List W64) := []
  xdone : List W32 := []
  tdone : List W32 := []
  swi : Option W32 := none
  /-- Start records waiting, each with ATM_ABS_TICK of its dispatch (R397). -/
  startQ : List (W64 × Nat) := []
  waitMask : W32 := 0
  timers : Table Timer := []
  posts : List Post := []
  /-- The last start record taken, and the one whose task runs (R387, R395). -/
  lastStart : Option W64 := none
  task : Option W64 := none
  /-- Exception-shadow registers of the first double fault, with its bank and generation (R387, R388). -/
  double : Bool := false
  xsPc : BitVec 15 := 0
  xsBank : Bool := false
  xsSr : W32 := 0
  xsCause : Byte := 0
  xsInfo : W64 := 0
  xsSp : W16 := 0
  xsGen : Byte := 0
  /-- A fetch error: the restart reloads the active bank first (R401). The `now` of the halt. -/
  reload : Bool := false
  haltAt : Nat := 0
  ueSeen : Bool := false
  lastUe : Option Nat := none
  evtDrop : W16 := 0
  tmrCancel : W16 := 0
  tmrCarry : W16 := 0
  swapMiss : W16 := 0
  dblCnt : W16 := 0
  eccCe : W16 := 0
  eccUe : W16 := 0
  busy : W64 := 0
  /-- The count of PCR_BUSY at which a register or memory line not yet at its latency is ready (R372). -/
  ready : Table Nat := []
  deriving DecidableEq, Repr


/-! ### The receive chain (ch. 12) -/

/-- The carrier record (Table 12-3), with its preamble samples. -/
structure CarrierCfg where
  carrier : Nat
  stall : Nat
  fftLog2 : Nat
  symbols : Nat
  streams : Nat
  cp0 : Nat
  cp : Nat
  rxOffset : Int
  laneBase : Nat
  cluster : Nat
  coreMask : BitVec 8
  agcMode : Nat
  agcTarget : Nat
  nbuf : Nat
  xBuf : Nat
  yBuf : Nat
  freezeLen : Nat
  usedSc : Nat
  usersMax : Nat
  layersMax : Nat
  decMask : BitVec 24
  planOff : Nat
  repOff : Nat
  payOff : Nat
  paySlot : Nat
  ringLog2 : Nat
  bitsMask : BitVec 8
  detThresh : Nat
  array : Nat
  preamble : List W32
  inOff : Nat
  llrOff : Nat
  eqOff : Nat
  eqScale : Nat
  mvpMask : BitVec 4
  deriving DecidableEq, Repr

/-- The network record (Table 12-4), with its task list and initial weight set. -/
structure NetCfg where
  net : Nat
  kind : NetKind
  carrier : Nat
  array : Nat
  tasks : List (List Byte)
  wOff : Nat
  wLen : Nat
  init : List Byte
  school : Bool
  deriving DecidableEq, Repr

/-- The code record (Table 12-5), with its base graph (row, column, shift) and scaling table. -/
structure CodeCfg where
  code : Nat
  stall : Nat
  mb : Nat
  nb : Nat
  kb : Nat
  z : Nat
  iMax : Nat
  crc : Nat
  bchT : Nat
  graph : List (Nat × Nat × Nat)
  scale : List Nat
  req : List Int
  deriving DecidableEq, Repr

/-- A user entry of a plan (Table 12-8). -/
structure PlanUser where
  id : W16
  firstSc : Nat
  numSc : Nat
  symMask : W16
  layerFirst : Nat
  layers : Nat
  bits : Nat
  code : Nat
  blocks : Nat
  pay : Nat
  deriving DecidableEq, Repr

/-- A code block of a slot: its user, number, engine, and how it ended. -/
structure BlockRec where
  user : Nat
  block : Nat
  engine : Nat
  ended : Bool := false
  /-- Decoded, and passed (R428). -/
  decoded : Bool := false
  ok : Bool := false
  iters : Nat := 0
  fixed : Nat := 0
  deriving DecidableEq, Repr

/-- A network invocation under way (R418), with the run of its task list. -/
structure Inv where
  kind : NetKind
  net : Nat
  frame : BitVec 10
  slot : Nat
  array : Nat
  run : Run
  deriving DecidableEq, Repr

/-- A slot under way at a carrier (R404, R423, R431). -/
structure SlotRec where
  frame : BitVec 10
  hyper : BitVec 24
  /-- The slot's frame in the present numbering, where numbering was loaded since (R43). -/
  alt : BitVec 10
  slot : Nat
  /-- ATM_ABS_TICK of the slot's first tick, and of its last sample. -/
  start : Nat
  lastSample : W64
  /-- Its symbol-0 SYM_START took effect. -/
  begun : Bool := false
  /-- Streams whose LAST post has ended (R418). -/
  lasts : BitVec 8 := 0
  ce : Bool := false
  eqa : Bool := false
  llr : Bool := false
  /-- 0 a good plan, 2 missing, 3 bad (Table 12-11). -/
  planStatus : Nat := 2
  planId : W32 := 0
  users : List PlanUser := []
  blocks : List BlockRec := []
  /-- EVM and SNR of each user, once measured (R433). -/
  meas : Option (List (Nat × Nat)) := none
  /-- Causes of STATUS 0x10 and above found so far. -/
  causes : List Nat := []
  reset : Bool := false
  noGuarantee : Bool := false
  agcFrozen : Bool := false
  gainSat : Bool := false
  /-- GEN of the symbol-0 start record, and the weight-set generation of the CE invocation (Table 12-9). -/
  gen : Byte := 0
  wset : Option Byte := none
  gainMin : Byte := 0xFF
  gainMax : Byte := 0
  /-- The report header is written, and whether HBM3 acknowledged it. -/
  issued : Bool := false
  done : Bool := false
  deriving DecidableEq, Repr

/-- A stream at ingest (R408 to R411): its gain code, the power and count of the samples of its AGC window, its latest
gained samples for the detector (at most 79, newest last) and the ATM_ABS_TICK of the last. -/
structure StreamRec where
  gain : Byte := 0
  /-- The gain window: the sum of the squares of its gained samples, and how many there are. In SLOT mode the window is a
  slot, named by its first tick, with the window of the slot before it (R409). -/
  power : Nat := 0
  count : Nat := 0
  slotOf : Option Nat := none
  lastPower : Nat := 0
  lastCount : Nat := 0
  lastOf : Option Nat := none
  hist : List W32 := []
  seen : Option Nat := none
  deriving DecidableEq, Repr

/-- A carrier (Table 12-14, R439). -/
structure Carrier where
  shed : Bool := false
  /-- ATM_ABS_TICK of the boundaries at which the carrier was last shed and last returned (R348, R349). -/
  shedFrom : Nat := 0
  liveFrom : Nat := 0
  /-- The replacement of a pacer core or decoder engine of the carrier: (kind, failed, replacement) (R86, R441). -/
  swaps : List (Nat × Nat × Nat) := []
  array : Nat := 0
  frozen : Bool := false
  lastStatus : Byte := 0
  gainSet : W64 := 0
  repHead : W32 := 0
  repSeq : W32 := 0
  slotsCnt : W64 := 0
  blkOk : W64 := 0
  blkFail : W64 := 0
  miss : W32 := 0
  failed : W32 := 0
  noPlan : W32 := 0
  overwrite : W32 := 0
  satCnt : W32 := 0
  streams : Table StreamRec := []
  freezeEnd : Option Nat := none
  /-- The first tick of the slot at whose boundary the gain codes last moved (R409). -/
  gainAt : Option Nat := none
  /-- The detection condition held at the last tick evaluated (R411). -/
  detHeld : Bool := false
  slots : List SlotRec := []
  inv : Option Inv := none
  /-- ATM_ABS_TICK of the start of the first slot that reports (R443). -/
  first : Option Nat := none
  deriving DecidableEq, Repr

/-- The hard decisions of a block that passed on a tap slot (R455). -/
structure Kept where
  carrier : Nat
  start : Nat
  user : Nat
  block : Nat
  bits : List Bool
  deriving DecidableEq, Repr

/-- A decoder engine (R439). -/
structure Decoder where
  kept : List Kept := []
  out : Bool := false
  ueSeen : Bool := false
  blocks : W64 := 0
  iters : W64 := 0
  ce : W16 := 0
  ue : W16 := 0
  lastUe : Option Nat := none
  deriving DecidableEq, Repr

/-! ### Schooling (ch. 13) -/

/-- An engine record (Table 13-2). -/
structure SchoolEng where
  engine : Nat
  nvInterval : Nat
  seed : BitVec 48
  deriving DecidableEq, Repr

/-- A layer record (Table 13-4), with its feedback codes. -/
structure SchoolLayer where
  layer : Nat
  output : Bool
  fbShift : Nat
  wLoc : Nat
  k : Nat
  n : Nat
  xLoc : Nat
  fb : List Int
  deriving DecidableEq, Repr

/-- A network record (Table 13-3), with its layers. Its place in the list is its network record number. -/
structure SchoolCfg where
  net : Nat
  engine : Nat
  ring : Nat
  signal : Nat
  samples : Nat
  hold : Nat
  layers : List SchoolLayer
  tapOff : Nat
  tapRec : Nat
  nOut : Nat
  margin : Nat
  yLoc : Nat
  tLoc : Nat
  tshift : Nat
  rate : Nat
  decay : Nat
  dmax : Nat
  learnTaps : Nat
  trialTaps : Nat
  gain : Nat
  nvPages : Nat
  nvPage : Nat
  saOff : Nat
  saLen : Nat
  layout : W32
  deriving DecidableEq, Repr

/-- The memory actions of R456, with what each does. -/
inductive SchoolAct where
  /-- An install of the candidate, of the committed set, or of a set that the host wrote, which commits it. -/
  | install (cand : Bool)
  | installSet
  /-- The candidate's codes into the set area that is not committed. -/
  | candWrite
  /-- The set of a host operation (Table 13-9): WRITE, WRITE_TRIAL, REVERT_NV or REVERT_INIT. -/
  | copyIn (op : Nat)
  | mirrorLoad
  | nvRead
  /-- The committed set to the host's buffer. -/
  | hostRead
  deriving DecidableEq, Repr

/-- An armed tap (R454): its slot once begun, by the slot's first tick; the status of the slot's report and the users of
its plan once reported. -/
structure TapArm where
  slot : Option Nat := none
  status : Option Nat := none
  users : List PlanUser := []
  deriving DecidableEq, Repr

/-- A schooled network (Tables 13-5, 13-10; R451, R463, R473). `traces` and `mirror` are by place in the layers' codes. -/
structure SchoolNet where
  state : BitVec 3 := 0
  wset : Byte := 0
  taps : Byte := 0
  tap : Option TapArm := none
  /-- The tap buffer and the outcome buffer hold a tap that the engine is processing. -/
  tapBuf : List Byte := []
  outBuf : List Byte := []
  committed : Bool := false
  commitGen : W32 := 0
  /-- HNS_SERIAL and ATM_ABS_TICK at the commit (Table 13-8). -/
  commitSerial : W32 := 0
  commitTick : W64 := 0
  traces : Table Byte := []
  mirror : Table Byte := []
  cand : List Byte := []
  /-- A candidate is to be built, or a host set stands in for it (WRITE_TRIAL). -/
  build : Bool := false
  hostCand : Option (List Byte) := none
  /-- The candidate is in force in the weight set (R465). -/
  candIn : Bool := false
  holdAsked : Bool := false
  sB : Nat := 0
  nB : Nat := 0
  sC : Nat := 0
  nC : Nat := 0
  score : W64 := 0
  nvPending : Bool := false
  /-- A commit came while a copy was being written (R475). -/
  nvAgain : Bool := false
  nvValid : Bool := false
  nvWorn : Bool := false
  nvLast : Option Nat := none
  /-- The copy being written, 0 A or 1 B, its next page, and the bytes. -/
  nvWrite : Option (Nat × Nat × List Byte) := none
  /-- The host operation pending (Table 13-9): its code and buffer; how it ended, 0 or a reason, once its work is done. -/
  xfer : Option (Nat × Nat) := none
  xferEnd : Option Byte := none
  commits : W32 := 0
  rollbacks : W32 := 0
  discards : W32 := 0
  nvWrites : W32 := 0
  tapLost : W32 := 0
  deriving DecidableEq, Repr

/-- A schooling engine (R445, R462, R473). -/
structure SchoolE where
  gen : BitVec 48 := 0
  out : Bool := false
  ueSeen : Bool := false
  lastUe : Option Nat := none
  draws : W64 := 0
  skip : W32 := 0
  cursors : Table Nat := []
  deriving DecidableEq, Repr

/-- The schooling machinery: networks by record, engines, memory actions in the order armed, the non-volatile weight
pages (R466) with their write counts (R469), and SCL_XFER_STS by stall (Table 13-11). -/
structure School where
  nets : Table SchoolNet := []
  engines : Table SchoolE := []
  actions : List (Nat × SchoolAct) := []
  /-- The memory action under way on an array, by array. -/
  running : Table (Option (Nat × SchoolAct)) := []
  pages : Table (List Byte) := []
  pageWrites : Table W32 := []
  /-- Pages whose verification has failed (R469). -/
  badPages : List Nat := []
  /-- Arrays whose present quiet point has been taken (R456). -/
  quiet : List Nat := []
  xferState : Table (BitVec 2) := []
  xferReason : Table Byte := []
  acceptedAt : Nat := 0
  deriving DecidableEq, Repr
/-! ### Tether ports (ch. 14) -/

/-- TTH_STS.STATE (Table 14-12). -/
inductive TthState where
  | disabled | wake | train | up | retrain | failed | noDie
  deriving DecidableEq, Repr

/-- The phases of Table 14-3, with the preamble of a fast retrain (R493). -/
inductive TthPhase where
  | none | wake | echoM | echoS | duplex2 | preamble | duplexM
  deriving DecidableEq, Repr

/-- A transmit descriptor taken and not completed (R507, R510, R514). `sent`: the `now` of its last sending; `due`: to be
retransmitted; `status` 3 for a refused one, which has no SEQ. -/
structure TxFrame where
  slot : W32
  seq : W16
  addr : W64
  len : W16
  flags : Byte
  refused : Bool := false
  sent : Nat := 0
  due : Bool := false
  deriving DecidableEq, Repr

/-- A channel of a port (R507 to R516, R524). -/
structure Chan where
  ctl : W32 := 0
  txBase : W64 := 0
  rxData : W64 := 0
  rxRec : W64 := 0
  tail : W32 := 0
  txRd : W32 := 0
  txDone : W32 := 0
  rxHead : W32 := 0
  rxWr : W32 := 0
  /-- Frames delivered: the record number (R515). -/
  rxCnt : W32 := 0
  txSeq : W16 := 0
  rxSeq : W16 := 0
  unacked : List TxFrame := []
  used : W32 := 0
  limit : W32 := 0
  /-- The serially first SEQ acknowledged so far is `txSeq` less the unacknowledged frames; timer of R510. -/
  timerAt : Option Nat := none
  backoff : Nat := 1
  urgent : Bool := false
  ackDirty : Bool := false
  credDirty : Bool := false
  /-- The credit block due within the first 8 frames after a training (R513). -/
  credUp : Bool := false
  ackSent : Nat := 0
  credSent : Nat := 0
  deriving DecidableEq, Repr

/-- One exchange of the slave (R519, R520): the arrival of the MKT, the sending of the reply MKT, and the message. -/
structure Exchange where
  t2 : Option W64 := none
  t3 : Option W64 := none
  msg : Option (W16 × W64 × Byte × Bool) := none
  /-- Steps applied when T2 was stamped. -/
  steps : Nat := 0
  deriving DecidableEq, Repr

/-- The linear echo canceller (R488): the main section's 512 taps, and the delay and 32 taps of each of four floating
sections; a section not trained has no taps. -/
structure EchoCanc where
  main : List Int := []
  floats : List (Nat × List Int) := []
  deriving DecidableEq, Repr

/-- A Tether port (R479 to R529). -/
structure Tth where
  state : TthState := .disabled
  phase : TthPhase := .none
  full : Bool := false
  mode : BitVec 2 := 0
  master : Bool := false
  /-- In WAKE: bursting, or listening (R492). -/
  bursting : Bool := false
  gain : Byte := 0
  gainSet : Byte := 0
  trainErr : Byte := 0
  rcOff : Bool := false
  rcOffNow : Bool := false
  trainId : W32 := 0
  epoch : W32 := 0
  peerEpoch : Option W32 := none
  helloSent : Bool := false
  /-- The peer's HELLO: class, MODE, TIME_DIR, TRAIN_ID. -/
  hello : Option (Byte × Byte × Byte × W32) := none
  readySent : Bool := false
  readyPeer : Bool := false
  fastFails : Nat := 0
  fullFails : Nat := 0
  failedAt : Nat := 0
  degraded : Bool := false
  rcFrozen : Bool := false
  timeValid : Bool := false
  sessionReset : Bool := false
  lq : W16 := 0
  lqPeer : W16 := 0
  snr : W16 := 0
  lowLq : Nat := 0
  badLq : Nat := 0
  goodLq : Nat := 0
  /-- The linear echo canceller, and the port's own levels that it works on, the newest first (R488, R489). -/
  echo : EchoCanc := {}
  txLevels : List Int := []
  /-- The equaliser's coefficients, named by the free value that stands for them (R492, R493). -/
  eqW : W64 := 0
  /-- The scrambler of the codewords sent, and of those received with how many of a block have been decoded (R486). -/
  txScr : BitVec 23 := 0
  rxScr : BitVec 23 := 0
  rxCw : Nat := 0
  /-- LQ of the last 16 windows of DUPLEX_M, the newest first (R492). -/
  lqRun : List W16 := []
  /-- The residual canceller's 528 weights and their snapshot, none listed for all zero, its generator, and the snapshot's
  LQ (R489). -/
  rcW : List Byte := []
  rcSnap : List Byte := []
  rcGen : W32 := 0
  rcSnapLq : W16 := 0x8000
  rcDrops : Nat := 0
  rcTimes : List Nat := []
  failRun : Nat := 0
  lostMarkers : Nat := 0
  violations : List Nat := []
  /-- Frames decoded whose row has not come yet. -/
  decoded : List TFrame := []
  store : List (Nat × TFrame) := []
  chans : Table Chan := []
  /-- CTRL frames pending: KIND and body (R503). -/
  ctrl : List (Byte × List Byte) := []
  rr : Nat := 0
  ackRot : Nat := 0
  credRot : Nat := 0
  /-- Codeword slots passed, and the next codeword's place in its block. -/
  slots : Nat := 0
  cwIdx : Nat := 0
  /-- TIME_SYNC waiting for its MKT, since this `now`; the block opened by an MKT, sent at this stamp (R518). -/
  syncAt : Option Nat := none
  mktSent : Option W64 := none
  replyDue : Bool := false
  t4 : Option W64 := none
  msgSeq : W16 := 0
  stepsAtMsg : Nat := 0
  exPrev : Exchange := {}
  exCur : Exchange := {}
  /-- The `now` at which the last time message came or was missed, and its INTERVAL (R520). -/
  msgAt : Option Nat := none
  msgInterval : W32 := 0
  rto : W32 := 100
  timeOfs : W32 := 0
  timeDly : W32 := 0
  cw : W64 := 0
  cwFail : W64 := 0
  bchFixed : W64 := 0
  txFrames : W64 := 0
  rxFrames : W64 := 0
  retx : W16 := 0
  dup : W16 := 0
  winErr : W16 := 0
  credErr : W16 := 0
  storeFull : W16 := 0
  retrain : W16 := 0
  trainFail : W16 := 0
  rcRestore : W16 := 0
  timeBad : W16 := 0
  timeSkip : W16 := 0
  storeUe : W16 := 0
  deriving DecidableEq, Repr

/-! ### Girth links, I/O dies, SMBus and the test port (ch. 15) -/

/-- The link states of Table 15-15. -/
inductive GirthState where
  | absent | training | active | retrain | failed
  deriving DecidableEq, Repr

/-- The phases of Table 15-3. -/
inductive GirthPhase where
  | none | clock | pattern | repair | param
  deriving DecidableEq, Repr

/-- A MSG flit in the replay buffer (R539): SEQ, virtual channel, chunks, payload, times sent. -/
structure Flit where
  seq : BitVec 12
  vc : Nat
  chunks : Nat
  payload : List Byte
  sends : Nat := 0
  deriving DecidableEq, Repr

/-- A non-posted request toward an I/O die that waits for its CPL (R548): its tag, and whom it serves. -/
structure Req where
  tag : W16
  /-- A forwarded register access of a host: the port and function to answer, with the host's own tag. -/
  host : Option (Nat × Nat × W16)
  since : Nat
  /-- A read of host memory (R562). -/
  mem : Bool := false
  deriving DecidableEq, Repr

/-- A host request that waits at an I/O die while a link trains: its port, its function and what it asks (R563, R668). -/
inductive HeldReq where
  | mrd (port fn : Nat) (tag : W16) (addr bytes : Nat)
  | mwr (port fn addr : Nat) (data : List Byte) (ue : Bool)
  | rrd (port fn : Nat) (tag : W16) (addr : Nat) (wide : Bool)
  | pwr (port fn addr : Nat) (data : W64) (wide : Bool)
  | pstate (port fn : Nat) (tag : W16)
  deriving DecidableEq, Repr

/-- A message received on a girth link: its flit's SEQ, its virtual channel, its bytes (R546, R547). -/
structure InMsg where
  seq : BitVec 12
  vc : Nat
  bytes : List Byte
  deriving DecidableEq, Repr

/-- A girth link's end at the compute die (Table 15-15, R569, R534 to R545). -/
structure Girth where
  state : GirthState := .absent
  phase : GirthPhase := .none
  full : Bool := true
  /-- The faulty lane that each group's spare replaces: groups 0 and 1 received, then sent (Table 15-3). -/
  faulty : List (Option (Fin 32)) := []
  /-- The lane scramblers sent and received (R533). -/
  txScr : List (BitVec 23) := []
  rxScr : List (BitVec 23) := []
  lat : Byte := 0
  timLate : Bool := false
  failCause : BitVec 4 := 0
  /-- The peer's first PARAM. -/
  peer : Option GirthParam := none
  txFlits : W64 := 0
  rxFlits : W64 := 0
  crcErr : W32 := 0
  replay : W32 := 0
  dup : W32 := 0
  retrain : W32 := 0
  timLateCnt : W32 := 0
  timeAdj : W32 := 0
  hostDrop : W32 := 0
  /-- What R87's window looks at: the `now` since which the link is ACTIVE, its earlier ACTIVE spans of the last second,
  and whether a retrain has started. -/
  activeAt : Option Nat := none
  spans : List (Nat × Nat) := []
  retrained : Bool := false
  /-- Steps and ATM_EPOCH loads that a TIME message has reported, and whether one is due after a retrain (R550). -/
  timeSteps : Nat := 0
  timeLoads : Nat := 0
  timeDue : Bool := false
  /-- The air tick of the last TIME message (R550). -/
  timeAt : Option W64 := none
  failRun : Nat := 0
  txSeq : BitVec 12 := 0
  rxSeq : BitVec 12 := 0
  ackValid : Bool := false
  /-- The last ACK_SEQ taken from the peer. -/
  acked : BitVec 12 := 0xFFF
  buf : List Flit := []
  /-- SEQs still to be resent, in order, and the ACK_SEQ of the NAK that started the replay (R541). -/
  resend : List (BitVec 12) := []
  nakAt : Option (BitVec 12) := none
  nakDue : Bool := false
  ackAt : Nat := 0
  crcTimes : List Nat := []
  used : Table W16 := []
  limit : Table W16 := []
  granted : Table W16 := []
  rr : Nat := 0
  credRot : Nat := 0
  outQ : Table (List (List Byte)) := []
  ctrlQ : List (List Byte) := []
  /-- Messages received and not yet in effect, oldest first. -/
  inQ : List InMsg := []
  reqs : List Req := []
  /-- Requests that wait for one of the outstanding ones to end (R548, R562), and host requests that wait for the link. -/
  reqWait : List (Option (Nat × Nat × W16) × Out) := []
  held : List HeldReq := []
  nextTag : W16 := 0
  deriving DecidableEq, Repr

/-- An I/O die (R550, R551, R556, R570): air count with the `now` at which it was set, converter link, ratio fault (R91),
gait actions not yet in effect. -/
structure Iod where
  count : W64 := 0
  countAt : Nat := 0
  corr : W64 := 0
  refState : BitVec 3 := 0
  holdEst : W32 := 0
  cfg : W32 := 0
  lanes : BitVec 16 := 0
  aligned : Bool := false
  misalign : Bool := false
  /-- SR_MISALIGN as software reads it (W1C). -/
  misSeen : Bool := false
  laneErr : W32 := 0
  /-- Alignment waits for the next SYSREF edge. -/
  realign : Bool := false
  /-- The place modulo 512 eighths of the SYSREF edge that fixed the boundaries, steps taken out, and the boundary's place
  modulo 64 ticks. -/
  sysref : Option (BitVec 9) := none
  lemc : BitVec 6 := 0
  ratioBad : Bool := false
  tacts : List (Nat × BitVec 6 × W64) := []
  deriving DecidableEq, Repr

/-- A TAP of the chain (R567): instruction register, boundary-scan register, and whether covered balls are driven. -/
structure Tap where
  ir : Byte := 0x01
  bsr : List Bool := []
  driven : Bool := false
  highz : Bool := false
  deriving DecidableEq, Repr

/-! ### Grooms, firmware update and power (ch. 16) -/

/-- GRM_STS.STATE (Table 16-10). -/
inductive GroomState where
  | running | restarting | failed | booting
  deriving DecidableEq, Repr

/-- A groom (Table 16-10, R584, R585): `step` is the step of Table 16-3 in progress, 2 to 5, 0 none. -/
structure Groom where
  state : GroomState := .running
  unchecked : Bool := false
  slot : Bool := false
  lastCause : BitVec 4 := 0
  /-- The `now` of the restarts of the last 10 s, newest first. -/
  recent : List Nat := []
  restarts : W32 := 0
  step : Nat := 0
  /-- The restart loads from this slot; it offers a handover record (R589, R590). -/
  loadSlot : Bool := false
  handover : Bool := false
  /-- The boot-store load of this restart failed once (R606). -/
  retried : Bool := false
  /-- Injected mismatches reported in a row while UNCHECKED (R581). -/
  tests : Nat := 0
  /-- An injected test has passed since the update step's resume (R589). -/
  passed : Bool := false
  /-- Updated in the update under way (R591). -/
  updated : Bool := false
  resumedAt : Nat := 0
  deriving DecidableEq, Repr

/-- The groom image update (Tables 16-11, 16-12, R602). `stagedVer` is the SEC_VERSION of the staged image. -/
structure Grm where
  ctlGroom : BitVec 2 := 0
  src : W64 := 0
  len : W32 := 0
  state : BitVec 3 := 0
  step : BitVec 2 := 0
  active : Bool := false
  err : Byte := 0
  digest : BitVec 384 := 0
  digestStaged : BitVec 384 := 0
  version : W32 := 0
  stagedVer : W32 := 0
  floor : W32 := 0
  /-- An update rolls back; grooms still to roll back, next first (R591). -/
  rolling : Bool := false
  rollback : List Nat := []
  deriving DecidableEq, Repr

/-- A PMBus rail's last answer (R566, R603), and milliseconds without one. -/
structure Rail where
  mv : W16 := 0
  current : W16 := 0
  temp : Byte := 0
  status : W16 := 0
  silent : Nat := 0
  faulted : Bool := false
  deriving DecidableEq, Repr

/-- An open DVFS window on a unit: the `now` at which it closes, and whether a change waits in it for the unit's running
tasks to end (R56). -/
structure Win where
  domain : Nat
  unit : Nat
  closes : Nat
  hold : Bool
  deriving DecidableEq, Repr

/-- Energy budget, telemetry and hard limits (R593 to R603). -/
structure Power where
  budget : W64 := 0
  /-- A budget written and not yet in force (R597). -/
  next : Option W64 := none
  refused : Bool := false
  level : BitVec 5 := 0
  short : Bool := false
  active : Bool := false
  energy : W64 := 0
  intEnergy : W64 := 0
  /-- Hundredths of a microjoule not yet in the counters, and frames passed in the interval. -/
  rem : Nat := 0
  intFrames : Nat := 0
  intCnt : W32 := 0
  /-- Energy counted in the current frame; in the last full frames, newest first, at most four; the sum and number of
  full frames at the level in force (R599). -/
  frameE : Nat := 0
  lastE : List Nat := []
  levelSum : Nat := 0
  levelCnt : Nat := 0
  /-- The frame in which the level was set is not a full frame at it (R599). -/
  levelNew : Bool := false
  /-- The levels are evaluated at the next boundary (R605). -/
  reeval : Bool := false
  rails : Table Rail := []
  tj : Byte := 0
  ts : Byte := 0
  throttle : Bool := false
  throttleAt : Nat := 0
  throttleNs : W64 := 0
  tripped : Bool := false
  lastTrip : BitVec 4 := 0
  tripCnt : W32 := 0
  /-- The `now` of the trips of the last hour. -/
  trips : List Nat := []
  /-- Rail level in force, 0 to 2 (Table 16-6), of VDD_ARR and VDD_CORE. -/
  arrLevel : BitVec 2 := 2
  coreLevel : BitVec 2 := 2
  /-- Arrays waiting for their migration before a park (R600). -/
  toPark : BitVec 8 := 0
  windows : List Win := []
  deriving DecidableEq, Repr


/-! ### Faults, the trail and bring-up (ch. 17, 18) -/

/-- An event or fault on its way to the trail (R612, R617). -/
structure Event where
  code : W16
  stall : Option (BitVec 4) := none
  kind : BitVec 4 := 0
  unit : Byte := 0
  data : List Byte := []
  guarantee : Bool := false
  stamp : BitVec 48 := 0
  /-- The interrupt source where the code alone does not name its INSTANCE (Table 17-5). -/
  src : Option W16 := none
  /-- The AON cycle of its detection (R616). -/
  aon : Nat := 0
  deriving DecidableEq, Repr

/-- A trail entry (Table 17-7); its CRC is computed when it is read. -/
structure Entry where
  stamp : BitVec 48
  code : W16
  entry : W32
  trigger : Bool
  guarantee : Bool
  stall : Option (BitVec 4)
  post : Bool
  kind : BitVec 4
  unit : Byte
  rept : W16
  data : List Byte
  /-- A word of it cannot be corrected (R633). -/
  bad : Bool := false
  deriving DecidableEq, Repr

/-- A snapshot page of the non-volatile bank (Table 17-8). -/
structure Snap where
  cause : Byte
  frozen : Bool
  stopped : Bool
  seq : W32
  first : W32
  abs : W64
  lost : W32
  serial : W32
  version : W32
  entries : List Entry
  deriving DecidableEq, Repr

/-- The trail recorder (Table 17-15, R615 to R626). -/
structure Trail where
  entries : Table (Option Entry) := []
  wr : W32 := 0
  frz : W32 := 0
  lost : W32 := 0
  post : BitVec 12 := 256
  mask : BitVec 6 := 0
  frozen : Bool := false
  stopped : Bool := false
  ueSeen : Bool := false
  postLeft : Nat := 0
  queue : List Event := []
  /-- Page 2 and page 3 of the bank: a snapshot, valid or not yet verified. -/
  page2 : Option Snap := none
  page3 : Option Snap := none
  valid : Option Bool := none
  /-- The page that holds a failed write (R621). -/
  failedPage : Option Bool := none
  lastSeq : W32 := 0
  /-- A snapshot being written: its page and content; whether it is the second attempt; whether a cold reset waits. -/
  writing : Option (Bool × Snap) := none
  second : Bool := false
  /-- SNAP_SEQ that the next COLD_START carries (R624). -/
  coldSeq : W32 := 0
  cursor : W32 := 0
  index : W16 := 0
  /-- Writes of trail pages 2 and 3 (R621), by page. -/
  pageWrites : Table W32 := []
  deriving DecidableEq, Repr

/-- The fault registers kept as flags (Table 17-14) and counter snapshots (R627). -/
structure Flt where
  loader : Bool := false
  holdover : Bool := false
  gaitParity : Bool := false
  gaitEdit : Bool := false
  bootStore : Bool := false
  telemetry : Bool := false
  link : Bool := false
  deadlineG : Bool := false
  last : W64 := 0
  cntG : W32 := 0
  cntDev : W32 := 0
  snaps : Table W64 := []
  snapTime : Table W64 := []
  deriving DecidableEq, Repr

/-- What drives a reset in progress. -/
inductive Phase where
  | aon | fuse | clocks | girth | memory | grooms | selftest | empty | restore | running
  deriving DecidableEq, Repr

/-- Pins, reset levels and bring-up (ch. 18). -/
structure Boot where
  vinAon : Bool := false
  pwrOk : Bool := false
  /-- TEST_EN as the cold reset under way found it (R568). -/
  testPin : Bool := false
  phase : Phase := .aon
  bringup : Bool := false
  lastReset : BitVec 2 := 0
  warmCause : BitVec 3 := 0
  fuseFault : Bool := false
  stackFail : BitVec 4 := 0
  warmCnt : W16 := 0
  /-- Step of the warm reset in progress, 1 to 6 (Table 18-7); 0 none. -/
  warmStep : Nat := 0
  warmHeld : Bool := false
  heldCause : BitVec 3 := 0
  /-- A cold reset waits for its snapshot (R623), or the device waits in AON after a power failure (R638). -/
  coldWaiting : Bool := false
  powerFailed : Bool := false
  deriving DecidableEq, Repr

/-! ### The machine -/

/-- The accepted structure: every section's records (R102 to R115). -/
structure Harness where
  stalls : List StallRec := []
  res : List ResRec := []
  mems : List MemRec := []
  gait : List W64 := []
  time : TimeCfg := {}
  binds : List BindRec := []
  dets : List DetRec := []
  codes : List CodeRec := []
  tether : List TetherRec := []
  clocks : List ClockRec := []
  routes : List RouteRec := []
  falls : List FallRec := []
  budgets : List Budget := []
  carriers : List CarrierCfg := []
  nets : List NetCfg := []
  ldpc : List CodeCfg := []
  schoolEngs : List SchoolEng := []
  schoolNets : List SchoolCfg := []
  deriving DecidableEq, Repr

/-- The network records of a stall's segment, in force from the first slot boundary after its swap tick (R441): the stall, the
ATM_ABS_TICK from which they apply, and the records. -/
structure NetNext where
  stall : Nat
  from_ : Nat
  carriers : List CarrierCfg
  nets : List NetCfg
  ldpc : List CodeCfg
  schoolNets : List SchoolCfg
  deriving DecidableEq, Repr


/-- The state of the block. -/
structure State where
  /-- The commands that wait, first in, first out. -/
  pending : List Instr := []
  /-- What the device sent, newest first (the model's own). -/
  sent : List Out := []
  /-- Air ticks since power-on (the model's own): spans of seconds are counted on it. -/
  now : Nat := 0
  /-- How many free values were drawn (the model's own): the argument of `Config.freeWord`. -/
  free : Nat := 0
  fuses : Fuses := {}
  fencing : Fencing := {}
  air : Air := {}
  clusters : Table Cluster := []
  loader : Loader := {}
  /-- Whether a harness is accepted and not EMPTY. -/
  accepted : Bool := false
  hns : Harness := {}
  /-- The running structure merged with a validated segment (R124). -/
  merged : Option Harness := none
  netNext : List NetNext := []
  stalls : Table Stall := [(0, { state := .active })]
  mgmtStall : BitVec 4 := 0
  ports : Table Port := []
  funcs : Table Func := []
  arrays : Table ArrayU := []
  vecs : Table VecU := []
  paths : Table PathU := []
  feeders : Table Feeder := []
  mem : Mem := {}
  cores : Table PCore := []
  tths : Table Tth := []
  girths : Table Girth := []
  iods : Table Iod := []
  /-- The read pointer of the SMBus target (R565), the TAPs by die (0 compute), and TEST_EN at the last cold reset. -/
  smPtr : W32 := 0
  /-- The high half that the SMBus target latched at a low half (R20, R659). -/
  smLatch : Option (Nat × W32) := none
  taps : Table Tap := []
  testEn : Bool := false
  carriers : Table Carrier := []
  decoders : Table Decoder := []
  school : School := {}
  trail : Trail := {}
  flt : Flt := {}
  boot : Boot := {}
  grooms : Table Groom := []
  grm : Grm := {}
  power : Power := {}
  deriving DecidableEq, Repr

/-- The state right after reset: every field at its default (INVENTORY.md lists the values and their sources).
S0 is served and reads ACTIVE before the first acceptance (R134). -/
def State.reset : State := {}

end Sys2Proof.Machine
end

