-- ==== Sys2Proof/Machine/Ops.lean ====
section
/-!
DEFINITION. The named operations over the state: access to each family of units, what the harness says of a
unit, free values, events and faults (R612), interrupts (R112, R143, R149) and what goes to a host.
-/
namespace Sys2Proof.Machine

/-! ### Access to the families of units -/

/-- Rounded-up division. -/
def ceilDiv (a b : Nat) : Nat := (a + b - 1) / b

def getStall (s : State) (i : Nat) : Stall := tget {} s.stalls i
def modStall (s : State) (i : Nat) (f : Stall → Stall) : State := { s with stalls := tmod {} s.stalls i f }
def getArr (s : State) (n : Nat) : ArrayU := tget {} s.arrays n
def modArr (s : State) (n : Nat) (f : ArrayU → ArrayU) : State := { s with arrays := tmod {} s.arrays n f }
def getVec (s : State) (n : Nat) : VecU := tget {} s.vecs n
def modVec (s : State) (n : Nat) (f : VecU → VecU) : State := { s with vecs := tmod {} s.vecs n f }
def getPath (s : State) (m : Nat) : PathU := tget {} s.paths m
def modPath (s : State) (m : Nat) (f : PathU → PathU) : State := { s with paths := tmod {} s.paths m f }
def getFdr (s : State) (n : Nat) : Feeder := tget {} s.feeders n
def modFdr (s : State) (n : Nat) (f : Feeder → Feeder) : State := { s with feeders := tmod {} s.feeders n f }
def getCluster (s : State) (c : Nat) : Cluster := tget {} s.clusters c
def modCluster (s : State) (c : Nat) (f : Cluster → Cluster) : State :=
  { s with clusters := tmod {} s.clusters c f }
def getPort (s : State) (j : Nat) : Port := tget {} s.ports j
def modPort (s : State) (j : Nat) (f : Port → Port) : State := { s with ports := tmod {} s.ports j f }
/-- Function `fn` of port `j` (R141): 0 the physical function, `v` virtual function `v`. -/
def getFunc (s : State) (j fn : Nat) : Func := tget {} s.funcs (16 * j + fn)
def modFunc (s : State) (j fn : Nat) (f : Func → Func) : State :=
  { s with funcs := tmod {} s.funcs (16 * j + fn) f }
def getStack (s : State) (k : Nat) : Stack := tget {} s.mem.hbStacks k
def modStack (s : State) (k : Nat) (f : Stack → Stack) : State :=
  { s with mem := { s.mem with hbStacks := tmod {} s.mem.hbStacks k f } }
def getQueue (st : Stall) (q : Nat) : Queue := tget {} st.queues q
def modQueue (st : Stall) (q : Nat) (f : Queue → Queue) : Stall := { st with queues := tmod {} st.queues q f }
def getCarrier (s : State) (c : Nat) : Carrier := tget {} s.carriers c
def modCarrier (s : State) (c : Nat) (f : Carrier → Carrier) : State :=
  { s with carriers := tmod {} s.carriers c f }
def getDec (s : State) (n : Nat) : Decoder := tget {} s.decoders n
def modDec (s : State) (n : Nat) (f : Decoder → Decoder) : State := { s with decoders := tmod {} s.decoders n f }
def getTth (s : State) (p : Nat) : Tth := tget {} s.tths p
def modTth (s : State) (p : Nat) (f : Tth → Tth) : State := { s with tths := tmod {} s.tths p f }
def getChan (t : Tth) (c : Nat) : Chan := tget {} t.chans c
def modChan (t : Tth) (c : Nat) (f : Chan → Chan) : Tth := { t with chans := tmod {} t.chans c f }
def modAir (s : State) (f : Air → Air) : State := { s with air := f s.air }
def getGroom (s : State) (g : Nat) : Groom := tget {} s.grooms g
def modGroom (s : State) (g : Nat) (f : Groom → Groom) : State := { s with grooms := tmod {} s.grooms g f }

/-- Whether a groom carries its duties (Table 16-2); a trip stops its clock (R595). -/
def groomUp (s : State) (g : Nat) : Bool := decide ((getGroom s g).state = .running) && !s.power.tripped

/-- Whether the telemetry sampler and the hard limits are active: from CLOCKS on (Table 18-5). -/
def sampling (s : State) : Bool := match s.boot.phase with
  | .aon => false
  | .fuse => false
  | _ => true

/-- Nanoseconds of a span of ticks. -/
def ticksNs (n : Nat) : Nat := n * 3125 / 384

/-- PWR_THROTTLE_NS: time throttled, the running span included (R594). -/
def throttledNs (s : State) : W64 :=
  s.power.throttleNs + (if s.power.throttle then BitVec.ofNat 64 (ticksNs (s.now - s.power.throttleAt)) else 0)

/-- Whether no array, vector, thin or feeder task is dispatched now: in the second half of every 2 µs of a throttle, counted
from its begin (R594), in a trip (R595), and from step 1 of a warm reset until its end (R644). 2 µs are 245.76 ticks. -/
def dispatchGated (s : State) : Bool :=
  s.power.tripped || decide (s.boot.warmStep ≠ 0) || (s.power.throttle && decide (12288 ≤ (s.now - s.power.throttleAt) * 100 % 24576))

/-! ### What the accepted harness says -/

def stallRec (s : State) (i : Nat) : Option StallRec := s.hns.stalls.find? (fun r => r.stall == i)
def resRec (s : State) (i : Nat) : Option ResRec := s.hns.res.find? (fun r => r.stall == i)
def memRec (s : State) (i : Nat) : Option MemRec := s.hns.mems.find? (fun r => r.stall == i)
def budgetOf (s : State) (i : Nat) : Option Budget := s.hns.budgets.find? (fun b => b.stall == i)

/-- The role record of a Tether port that exists (R479), and the stall that it serves. -/
def tethRec (s : State) (p : Nat) : Option TetherRec := s.hns.tether.find? (fun r => r.port == p && r.role != 0)
def tethStall (s : State) (p : Nat) : Nat := ((tethRec s p).map (·.stall)).getD 0

/-- Whether a stall is PACED (Table 3-4). -/
def isPaced (s : State) (i : Nat) : Bool := (stallRec s i).any (fun r => r.cls == 1)

/-- The stall that owns a unit, by a bit of its resource record (R106). -/
def ownerBy (s : State) (has : ResRec → Bool) : Option Nat := (s.hns.res.find? has).map (·.stall)

def arrOwner (s : State) (n : Nat) : Option Nat := ownerBy s (fun r => r.arrOwn.getLsbD n)
def mvpOwner (s : State) (n : Nat) : Option Nat := ownerBy s (fun r => r.mvpOwn.getLsbD n)
def fdrOwner (s : State) (n : Nat) : Option Nat := ownerBy s (fun r => r.fdrOwn.getLsbD n)
def decOwner (s : State) (n : Nat) : Option Nat := ownerBy s (fun r => r.decOwn.getLsbD n)
def seOwner (s : State) (n : Nat) : Option Nat := ownerBy s (fun r => r.seOwn.getLsbD n)
def pcrOwner (s : State) (n : Nat) : Option Nat := ownerBy s (fun r => r.pcrOwn.getLsbD n)

/-- The PACED stall that owns or borrows an array (R224). -/
def arrPacedBy (s : State) (n : Nat) : Option Nat :=
  (s.hns.res.find? (fun r => isPaced s r.stall && (r.arrOwn.getLsbD n || r.arrBorrow.getLsbD n))).map (·.stall)

/-- Whether a stall owns or may borrow a unit (R106). -/
def mayUseArr (s : State) (i n : Nat) : Bool :=
  (resRec s i).any (fun r => r.arrOwn.getLsbD n || r.arrBorrow.getLsbD n)
def mayUseMvp (s : State) (i n : Nat) : Bool :=
  (resRec s i).any (fun r => r.mvpOwn.getLsbD n || r.mvpBorrow.getLsbD n)
def mayUseFdr (s : State) (i n : Nat) : Bool :=
  (resRec s i).any (fun r => r.fdrOwn.getLsbD n || r.fdrBorrow.getLsbD n)

/-- The PACED stall that owns carrier `c` (Table 3-7). -/
def carrierStall (s : State) (c : Nat) : Option Nat :=
  match s.hns.time.carrierStall[c]? with
  | some b => if b.toNat < 16 then some b.toNat else none
  | none => none

/-- The slot length of a carrier in ticks (R31); 0 for an absent carrier. -/
def slotLen (s : State) (c : Nat) : Nat :=
  match s.hns.time.slotCode.getD c 0 with
  | 1 => 30720
  | 2 => 61440
  | 3 => 122880
  | _ => 0

/-- Whether an array is enabled, and whether it is out of service by a fence (R78, R85). -/
def arrPresent (s : State) (n : Nat) : Bool := decide (n < 8) && s.fuses.arrEn.getLsbD n
def arrFenced (s : State) (n : Nat) : Bool := s.fencing.fenced.getLsbD n || s.fencing.persisted.getLsbD n
def arrUsable (s : State) (n : Nat) : Bool :=
  arrPresent s n && !s.fencing.fenced.getLsbD n && (getArr s n).fencing.isNone

/-- The frequency a unit runs at, in MHz: the clock record that covers it (unit 0xF covers every unit of its
domain), else the domain's maximum (R111); of several the last holds (DESIGN CHOICE, notes/assumptions/39.md). -/
def clockTarget (s : State) (domain unit maxMHz : Nat) : Nat :=
  match s.hns.clocks.reverse.find? (fun r => r.domain == domain && (r.unit == unit || r.unit == 15)) with
  | some r => r.freq
  | none => maxMHz

/-- Whether a unit is pinned (R111): by any record that covers it (DESIGN CHOICE, notes/assumptions/39.md). -/
def pinned (s : State) (domain unit : Nat) : Bool :=
  s.hns.clocks.any (fun r => r.domain == domain && (r.unit == unit || r.unit == 15) && r.pin)

/-! ### Free values -/

/-- A free value: nothing constrains it. Each draw advances the counter (notes/assumptions/4.md). -/
def draw (s : State) : W64 := Config.freeWord s.free
def drew (s : State) : State := { s with free := s.free + 1 }

/-! ### Reachability and interrupts -/

def getGirth (s : State) (g : Nat) : Girth := tget {} s.girths g
def modGirth (s : State) (g : Nat) (f : Girth → Girth) : State := { s with girths := tmod {} s.girths g f }

/-- The port and function that serve a stall (Table 4-5); S0 is on host A's physical function. -/
def stallPort (s : State) (i : Nat) : Nat := ((stallRec s i).map (·.host)).getD 0
def stallFn (s : State) (i : Nat) : Nat := ((stallRec s i).map (·.vf)).getD 0

/-- The three conditions of R143, each with its flag of STL_STS. -/
def linkDown (s : State) (i : Nat) : Bool :=
  !(getPort s (stallPort s i)).linkUp || decide ((getGirth s (stallPort s i)).state = .failed)
def vfOff (s : State) (i : Nat) : Bool :=
  let p := getPort s (stallPort s i)
  decide (stallFn s i ≠ 0) && (!p.vfEnable || decide (p.numVfs.toNat < stallFn s i))
def bmeOff (s : State) (i : Nat) : Bool := !(getFunc s (stallPort s i) (stallFn s i)).bme

/-- A stall is unreachable while any of them holds (R143). -/
def unreachable (s : State) (i : Nat) : Bool := linkDown s i || vfOff s i || bmeOff s i

/-! ### Messages to the I/O dies (R547, R548) -/

/-- A message: its header chunk (Table 15-6) and its data in chunks of 16 bytes. -/
def message (opc : Byte) (tag : W16) (fn : Nat) (flags : Byte) (bytes : Nat) (addr : W64) (data : List Byte) : List Byte :=
  let chunks := ceilDiv data.length 16
  [opc, BitVec.ofNat 8 chunks] ++ bytesOf tag ++ [BitVec.ofNat 8 fn, flags] ++ leBytes 2 bytes ++ bytesOf addr
    ++ padTo (16 * chunks) data

/-- The pieces of a write, none crossing a 64-byte boundary. -/
def blockPieces : Nat → Nat → List Byte → List (Nat × List Byte)
  | 0, _, _ => []
  | f + 1, a, bs =>
    if bs.isEmpty then [] else let n := 64 - a % 64; (a, bs.take n) :: blockPieces f (a + n) (bs.drop n)

/-- A message waits for a flit on its virtual channel: 0 REQ, 1 RSP, 2 PST, 3 TIM. -/
def sendMsg (s : State) (g vc : Nat) (m : List Byte) : State :=
  let st := (getGirth s g).state
  if st = .absent ∨ st = .failed then s
  else modGirth s g (fun x => { x with outQ := tmod [] x.outQ vc (fun q => q ++ [m]) })

/-- The oldest message received on a girth link with an opcode leaves the link; the last of its flit gives the flit's credit
back (R543, R546). -/
def takeMsg (s : State) (g : Nat) (opc : Byte) : State :=
  modGirth s g (fun x => match x.inQ.find? (fun m => u8 m.bytes 0 == opc) with
    | some m =>
      let rest := x.inQ.erase m
      { x with inQ := rest, granted := if rest.any (fun y => y.seq == m.seq) then x.granted else tmod 0 x.granted m.vc (· + 1) }
    | none => x)

/-- Whether the oldest message received with an opcode waits for one before it: of its own channel, or a posted one before a
request or a completion (R546). -/
def msgBlocked (s : State) (g : Nat) (opc : Byte) : Bool :=
  let q := (getGirth s g).inQ
  match firstIdx (fun m => u8 m.bytes 0 == opc) q 0 with
  | some k =>
    let vc := (q[k]?.map (·.vc)).getD 0
    (q.take k).any (fun y => y.vc == vc || (y.vc == 2 && decide (vc ≤ 1)))
  | none => false

/-- A write to host memory under a stall's function and port. -/
def sendWrite (s : State) (i : Nat) (addr : W64) (data : List Byte) : State :=
  let p := stallPort s i
  (blockPieces (data.length + 1) addr.toNat data).foldl (fun s x =>
    sendMsg s p 2 (message 0x10 0 (stallFn s i) (1 ||| flag 8 2 (p == 1)) x.2.length (BitVec.ofNat 64 x.1) x.2)) s

/-- What goes over a girth link is laid out as its message (Table 15-7). -/
def queueOut (s : State) : Out → State
  | .mwr i a d => sendWrite s i a d
  | .mrd i tag a n =>
    let p := stallPort s i
    sendMsg s p 0 (message 0x01 tag (stallFn s i) (1 ||| flag 8 2 (p == 1)) n a [])
  | .msix i _ a d => sendWrite s i a (bytesOf d)
  | .cpl g tag st d _ => sendMsg s g 1 (message 0x20 tag 0 (place 8 4 st) d.length 0 d)
  | .rwr g tag a d wide => sendMsg s g 0 (message 0x03 tag 0 3 (if wide then 8 else 4) (a.setWidth 64) (leBytes (if wide then 8 else 4) d.toNat))
  | .rrd g tag a wide => sendMsg s g 0 (message 0x02 tag 0 3 (if wide then 8 else 4) (a.setWidth 64) [])
  | .time g t step st h c =>
    sendMsg s g 3 (message 0x30 (flag 16 0 step) 0 0 16 t ([st.setWidth 8, 0, 0, 0] ++ bytesOf h ++ bytesOf c))
  | .tact g p act t => sendMsg s g 3 (message 0x31 (act.setWidth 16) p 0 0 t [])
  | _ => s

/-- The device sends something outside. -/
def emit (s : State) (o : Out) : State := { queueOut s o with sent := o :: s.sent }

/-- A write to a stall's host, held while the stall is unreachable (R143). -/
def toHost (s : State) (i : Nat) (o : Out) : State :=
  if unreachable s i then modStall s i (fun st => { st with heldOut := st.heldOut ++ [o] })
  else emit s o

/-- Reads of host memory in the name of a stall, each with a new TAG and at most 512 bytes (R150, R548, R571); none while the
stall is unreachable (R143). What they return comes with the row that uses it. -/
def hostRead (s : State) (i : Nat) (addr : W64) (n : Nat) : State :=
  if unreachable s i then s
  else (List.range (ceilDiv n 512)).foldl (fun s k =>
    let p := stallPort s i
    let tag := (getGirth s p).nextTag
    emit (modGirth s p (fun x => { x with nextTag := x.nextTag + 1 })) (.mrd i tag (addr + BitVec.ofNat 64 (512 * k)) (min 512 (n - 512 * k)))) s

/-- A raised vector: sent, held pending while masked (R149). -/
def fireVector (s : State) (i : Nat) (v : BitVec 11) : State :=
  let st := getStall s i
  if tget false st.msixOpen v.toNat then
    emit s (.msix i v (tget 0 st.msixAddr v.toNat) (tget 0 st.msixData v.toNat))
  else modStall s i (fun st => { st with msixPend := tset false st.msixPend v.toNat true })

/-- The device raises a vector of a stall; an unreachable stall's interrupts are held (R143, R149). -/
def raiseVector (s : State) (i : Nat) (v : BitVec 11) : State :=
  if unreachable s i then modStall s i (fun st => { st with heldIrq := st.heldIrq ++ [v] })
  else fireVector s i v

/-- A stall reachable again gets what was held for it, in order (R143). -/
def releaseHeld (s : State) (i : Nat) : State :=
  let st := getStall s i
  if unreachable s i || (st.heldOut.isEmpty && st.heldIrq.isEmpty) then s
  else
    let s := modStall s i (fun st => { st with heldOut := [], heldIrq := [] })
    let s := st.heldOut.foldl emit s
    st.heldIrq.foldl (fun s v => fireVector s i v) s

/-- After a change of reachability, every stall's held output is looked at. -/
def releaseAll (s : State) : State := (List.range 16).foldl releaseHeld s

/-! ### Events, faults and their reporting paths (R612) -/

/-- The trail stamp of now (R617), with none of the up to 4 ticks of crossing that R90 allows (DESIGN CHOICE,
notes/assumptions/54.md). -/
def stamp (s : State) : BitVec 48 := s.air.abs.setWidth 48

/-- The interrupt source of a fault or event code (Table 17-5), with its instance. -/
def sourceOf (code : W16) (unit : Byte) (stall : Option (BitVec 4)) : Option W16 :=
  let src (t : Nat) (i : Nat) : Option W16 := some (BitVec.ofNat 16 (t * 256 + i))
  let u := unit.toNat
  if code.toNat / 4096 = 2 then src 0x03 ((stall.getD 0).toNat)
  else if code = 0x1001 || code = 0x1002 || code = 0x100C then src 0x07 u
  else if code = 0x1003 then src 0x08 u
  else if code = 0x1004 then src 0x09 u
  else if code = 0x1005 then src 0x0A u
  else if code = 0x1006 then src 0x06 u
  else if code = 0x1009 then src 0x0B u
  else if code = 0x4001 || code = 0x4002 || code = 0x4003 || code = 0x4004 then src 0x0F u
  else if code = 0x3001 then src 0x05 u
  else if code = 0x0004 || code = 0x5003 then src 0x20 0
  else if code = 0x5004 || code = 0x5005 || code = 0x5006 then src 0x21 0
  else if code = 0x0003 || code = 0x5002 then src 0x22 0
  else if code = 0x4005 || code = 0x4006 || code = 0x4007 then src 0x23 u
  else if code = 0x5007 then src 0x24 u
  else if code = 0x0005 || code = 0x0006 || code = 0x5008 || code = 0x5009 || code = 0x500A then src 0x25 u
  else if code = 0x6001 || code = 0x6003 || code = 0x6004 then src 0x26 0
  else if code = 0x4008 || code = 0x4009 || code = 0x400A then src 0x28 u
  else none

/-- The order of events of one AON cycle (R616): by source, a stall fault's as STL_FAULT; then by CODE, KIND and UNIT. -/
def eventKey (e : Event) : Nat := match e.src.or (sourceOf e.code e.unit e.stall) with
  | some src => src.toNat
  | none => 65536 * (1 + e.code.toNat) + 256 * e.kind.toNat + e.unit.toNat

/-- The cycle of the 25 MHz AON clock (notes/assumptions/64.md). -/
def aonCycle (now : Nat) : Nat := now * 625 / 3072

/-- WARM_RESET and COLD_START come before every event after their reset (R617, R624). -/
def startsTrail (e : Event) : Bool := e.code == 0x0001 || e.code == 0x0002

/-- Events wait in order of detection, those of one AON cycle in the order of R616. -/
def queueEvent (q : List Event) (e : Event) : List Event :=
  let after := q.reverse.takeWhile (fun x => x.aon == e.aon && !startsTrail x && !startsTrail e && decide (eventKey e < eventKey x))
  q.take (q.length - after.length) ++ e :: after.reverse

/-- An event goes to the trail's queue of 64; a full queue or a stopped trail counts it in TRL_LOST (R616, R620). From a
power failure on nothing is recorded (R622). -/
def pushEvent (s : State) (e : Event) : State :=
  let t := s.trail
  if s.boot.powerFailed then s
  else if t.stopped || decide (64 ≤ t.queue.length) then { s with trail := { t with lost := satInc t.lost } }
  else { s with trail := { t with queue := queueEvent t.queue { e with stamp := stamp s, aon := aonCycle s.now } } }

/-- A source is raised under its routes; while a harness is accepted an unrouted source is recorded (R112). -/
def raiseSource (s : State) (src : W16) : State :=
  if !s.accepted then s
  else
    let rs := s.hns.routes.filter (fun r => r.source == src)
    if rs.isEmpty then pushEvent s { code := 0x000B, data := bytesOf src }
    else rs.foldl (fun s r => raiseVector s r.stall r.vector) s

/-- The W1C flags of FLT_DEV_STS that a code sets (Table 17-14). -/
def markFault (f : Flt) (code : W16) (guarantee : Bool) : Flt :=
  let f := if code = 0x5002 then { f with loader := true } else f
  let f := if code = 0x5003 then { f with holdover := true } else f
  let f := if code = 0x5005 then { f with gaitParity := true } else f
  let f := if code = 0x5006 then { f with gaitEdit := true } else f
  let f := if code = 0x500A then { f with bootStore := true } else f
  let f := if code = 0x6003 then { f with telemetry := true } else f
  let f := if code.toNat / 4096 = 4 then { f with link := true } else f
  if code = 0x3001 && guarantee then { f with deadlineG := true, cntG := satInc f.cntG } else f

/-- Whether a code counts as a device, link or power fault (R612, R630). -/
def isDevCode (code : W16) : Bool := decide (4 ≤ code.toNat / 4096) && decide (code.toNat / 4096 ≤ 6)

/-- FLT_LAST of a fault whose trail entry is `entry`, or that was counted in TRL_LOST (R630). -/
def fltLast (code : W16) (entry : W32) (lost : Bool) : W64 :=
  place 64 0 code ||| place 64 16 entry ||| flag 64 48 lost

/-! ### Slots of carriers (R31, R412, R431) -/

def carrierCfg (s : State) (c : Nat) : Option CarrierCfg := s.hns.carriers.find? (fun r => r.carrier == c)

/-- What ATM_ABS_TICK advances by in the current frame (R41, R42). -/
def frameSpan (a : Air) : Nat :=
  if a.stepIn = some 1 then 1228800 + (fdiv a.phaseErr 8).toNat else 1228800

/-- ATM_ABS_TICK at the start of a frame: 0 the frame before, 1 the current one, 2 the next. -/
def frameStart (a : Air) (rel : Nat) : Nat :=
  match rel with
  | 0 => a.prevAbs
  | 1 => a.frameAbs
  | _ => a.frameAbs + frameSpan a

/-- A slot: ATM_ABS_TICK of its first tick, its number, its frame's count modulo 2^34, and FRAME by the present numbering. -/
structure SlotPlace where
  start : Nat
  slot : Nat
  frames : Nat
  alt : BitVec 10
  deriving DecidableEq, Repr

/-- ATM_ABS_TICK of the first tick of a slot of a frame. -/
def slotStart (s : State) (c : Nat) (rel : Nat) (slot : Nat) : Nat := frameStart s.air rel + slot * slotLen s c

/-- A slot of a frame: 0 the frame before, 1 the current one, 2 the next. -/
def slotPlace (s : State) (c rel slot : Nat) : SlotPlace :=
  let n := s.air.hyper.toNat * 1024 + s.air.frame.toNat + 2 ^ 34 + rel - 1
  { start := slotStart s c rel slot, slot := slot, frames := n, alt := BitVec.ofNat 10 n }

/-- Whether a record is that of a slot of a frame. -/
def isSlot (frame : BitVec 10) (slot : Nat) (sl : SlotRec) : Bool := (sl.frame == frame || sl.alt == frame) && sl.slot == slot

/-- The record of a slot, made where none is held; records of slots that never began are forgotten two frames later. -/
def touchPlace (s : State) (c : Nat) (p : SlotPlace) : State :=
  match carrierCfg s c with
  | none => s
  | some cfg =>
    let l := slotLen s c
    if l = 0 ∨ 1228800 ≤ p.slot * l ∨ (getCarrier s c).slots.any (fun sl => sl.start == p.start) = true then s
    else
      modCarrier s c (fun ca => { ca with
        slots := ca.slots.filter (fun sl => sl.begun || decide (s.air.prevAbs ≤ sl.start)) ++ [{
          frame := BitVec.ofNat 10 p.frames, alt := p.alt, hyper := BitVec.ofNat 24 (p.frames / 1024), slot := p.slot,
          start := p.start, lastSample := BitVec.ofInt 64 (p.start + l - 1 + cfg.rxOffset) }] })

/-- The record of a slot of a frame. -/
def touchSlot (s : State) (c : Nat) (rel : Nat) (slot : Nat) : State := touchPlace s c (slotPlace s c rel slot)

/-- The record of the slot under way at a carrier. -/
def touchNow (s : State) (c : Nat) : State :=
  if slotLen s c = 0 then s else touchSlot s c 1 (s.air.tick.toNat / slotLen s c)

/-- The slots under way of some stalls' carriers lose GUARANTEE (R346). -/
def voidSlots (s : State) (p : Nat → Bool) : State :=
  (List.range 8).foldl (fun s c =>
    if (carrierStall s c).any p then
      modCarrier (touchNow s c) c (fun ca => { ca with slots := ca.slots.map (fun sl => { sl with noGuarantee := true }) })
    else s) s

/-- The slots under way lose GUARANTEE where a condition of R346 is broken. -/
def voidWhen (s : State) (broken : Bool) : State :=
  (List.range 8).foldl (fun s c =>
    if (carrierStall s c).isSome then
      modCarrier (touchNow s c) c (fun ca => { ca with slots := ca.slots.map (fun sl => { sl with noGuarantee := sl.noGuarantee || broken }) })
    else s) s

/-- Whether a unit is one of a stall's (R346), by the kinds of Table 17-3. -/
def unitOfStall (s : State) (kind : BitVec 4) (n i : Nat) : Bool :=
  (resRec s i).any (fun r => match kind.toNat with
    | 1 => r.arrOwn.getLsbD n || r.arrBorrow.getLsbD n
    | 2 => r.arrOwn.getLsbD n || r.arrBorrow.getLsbD n
    | 3 => r.mvpOwn.getLsbD n || r.mvpBorrow.getLsbD n
    | 4 => r.fdrOwn.getLsbD n || r.fdrBorrow.getLsbD n
    | 5 => r.pcrOwn.getLsbD n || r.pcrBorrow.getLsbD n
    | 6 => r.decOwn.getLsbD n || r.decBorrow.getLsbD n
    | 7 => r.seOwn.getLsbD n
    | 8 => (memRec s i).any (fun m => (List.range 16).any (fun k => m.channels.getLsbD (16 * n + k)))
    | _ => false)

/-- A fault takes GUARANTEE from the slots of the stalls whose units it touches; FORCED_REFRESH and a throttle take it
from every slot (R346, Table 17-6). -/
def voidFor (s : State) (code : W16) (kind : BitVec 4) (unit : Nat) (stall : Option (BitVec 4)) : State :=
  if code.toNat / 4096 = 1 then voidSlots s (unitOfStall s kind unit)
  else if code.toNat / 4096 = 2 then voidSlots s (fun i => stall == some (BitVec.ofNat 4 i))
  else if code = 0x5004 ∨ code = 0x6001 then voidSlots s (fun _ => true)
  else s

/-- A fault or event is reported: trail, device summary, interrupt source (R612). -/
def report (s : State) (e : Event) : State :=
  let lost := s.trail.stopped || decide (64 ≤ s.trail.queue.length)
  let s := pushEvent s e
  let f := markFault s.flt e.code e.guarantee
  let f := if isDevCode e.code then { f with cntDev := satInc f.cntDev } else f
  let f := if isDevCode e.code && lost then { f with last := fltLast e.code s.trail.wr true } else f
  let s := voidFor { s with flt := f } e.code e.kind e.unit.toNat e.stall
  match e.src.or (sourceOf e.code e.unit e.stall) with
  | some src => raiseSource s src
  | none => s

/-- A corrected error of a unit's memory is an event of the trail: the memory's kind and the word address (Table 17-4). -/
def corrected (s : State) (kind : BitVec 4) (unit : Nat) (word : W32) : State :=
  pushEvent s { code := 0x000A, kind := kind, unit := BitVec.ofNat 8 unit, data := [kind.setWidth 8] ++ bytesOf word }

/-- An event of the trail only, with no source. -/
def note (s : State) (code : W16) (data : List Byte) : State := pushEvent s { code := code, data := data }

/-- OUT_OF_SERVICE of a unit (Table 2-11): its source follows the unit's kind (Table 17-5). -/
def outOfService (s : State) (kind : BitVec 4) (unit : Nat) (last : Byte) : State :=
  let t : Nat := if kind = 3 then 0x09 else if kind = 4 then 0x0A else if kind = 6 then 0x0B else 0
  report s { code := 0x100B, kind := kind, unit := BitVec.ofNat 8 unit, data := [last],
             src := if t = 0 then none else some (BitVec.ofNat 16 (t * 256 + unit)) }

/-! ### Refused accesses (R147, R168) -/

/-- An access that R147 discards is counted. -/
def accErr (s : State) (i : Nat) : State := modStall s i (fun st => { st with accErr := satInc st.accErr })

/-- While S0 is FAULTED or RESETTING the device-management block refuses writes (R168). -/
def mgmtBlocked (s : State) : Bool :=
  decide ((getStall s 0).state = .faulted) || decide ((getStall s 0).state = .resetting)

/-- From step 1 of a warm reset until PHASE reads RUNNING (R646). -/
def restoring (s : State) : Bool := decide (s.boot.warmStep ≠ 0) || decide (s.boot.phase = .restore)

/-- A write by a function discards the low half that it held, unless it is the write of that register's high half (R20). -/
def dropHold (s : State) (port fn : Nat) : State := modFunc s port fn (fun f => { f with hold := none })

/-- A write by a stall's own function outside the common block (R20, R646). -/
def ownWrite (i : Nat) (f : State → State) (s : State) : State :=
  let s := dropHold s (stallPort s i) (stallFn s i)
  if restoring s then s else f s

/-- A write of a register of the device-management block by S0's function (R20, R646, R168). `early`: the register responds
before the first acceptance (R26, R669); one that does not is counted (R147). -/
def mgmtWrite (early : Bool) (f : State → State) (s : State) : State :=
  ownWrite 0 (fun s => if mgmtBlocked s || (!s.accepted && !early) then accErr s 0 else f s) s

/-- A write of a management register that responds from the first acceptance on. -/
def mgmt (f : State → State) (s : State) : State := mgmtWrite false f s
/-- A write of a management register that always responds: HNS_, TRL_, BOOT_RST_CTL and BOOT_WARM_CNT (R26). -/
def mgmtEarly (f : State → State) (s : State) : State := mgmtWrite true f s

/-! ### Accounting (R327 to R330) -/

/-- What a charge is for. -/
inductive ChargeKind where
  | arr | mvp | vec | switch | stable
  deriving DecidableEq, Repr

/-- The advance of a virtual time for a charge (R330); a share of 0 counts as 1. -/
def vAdvance (ns : Nat) (share : BitVec 10) : W64 := BitVec.ofNat 64 (ceilDiv (ns * 1000) (max 1 share.toNat))

/-- A charge of `ns` to a stall: its counter, a SHARED stall's virtual time on a pool unit, and the job's ARRAY_NS
(R327, R328, R330). -/
def chargeStall (st : Stall) (k : ChargeKind) (pool : Bool) (ns : Nat) : Stall :=
  let n := BitVec.ofNat 64 ns
  match k with
  | .arr => { st with arrNs := st.arrNs + n, va := if pool then st.va + vAdvance ns st.share else st.va }
  | .mvp => { st with mvpNs := st.mvpNs + n, vp := if pool then st.vp + vAdvance ns st.share else st.vp }
  | .vec => { st with vecNs := st.vecNs + n }
  | .switch => { st with switchNs := st.switchNs + n }
  | .stable => { st with stableNs := st.stableNs + n }

/-- The journal entry of a job. -/
def modEntry (st : Stall) (q : Nat) (seq : W32) (dLog2 : Nat) (f : JEntry → JEntry) : Stall :=
  modQueue st q (fun qu =>
    let k := seq.toNat % 2 ^ dLog2
    match tget none qu.journal k with
    | some e => if e.seq = seq then { qu with journal := tset none qu.journal k (some (f e)) } else qu
    | none => qu)

/-- The queue depth of a stall as a power of two (Table 3-4). -/
def depthLog2 (s : State) (i : Nat) : Nat := ((stallRec s i).map (·.qdepthLog2)).getD 6

/-- A task's charge, with the share of it that its job's ARRAY_NS takes (R195, R328). -/
def charge (s : State) (i : Nat) (o : Owner) (k : ChargeKind) (pool : Bool) (ns : Nat) : State :=
  let s := modStall s i (fun st => chargeStall st k (pool && !isPaced s i) ns)
  match o, k with
  | .job i q seq, .arr => modStall s i (fun st => modEntry st q seq (depthLog2 s i)
      (fun e => { e with arrayNs := e.arrayNs + BitVec.ofNat 64 ns }))
  | .job i q seq, .mvp => modStall s i (fun st => modEntry st q seq (depthLog2 s i)
      (fun e => { e with arrayNs := e.arrayNs + BitVec.ofNat 64 ns }))
  | _, _ => s

/-- Charge in ns of `c` cycles at `f` MHz (R327). -/
def cyclesNs (c f : Nat) : Nat := ceilDiv (c * 1000) (max 1 f)

end Sys2Proof.Machine
end

