-- ==== Sys2Proof/Machine/Air.lean ====
section
/-!
DEFINITION. Air time (ch. 1): the counters, the reference machine, the gait table and its edits, and the edge
detectors. What a frame boundary does to the rest of the block is in Frame.lean.
-/
namespace Sys2Proof.Machine

/-! ### Counts and stamps -/

/-- HYPER × 1,024 + FRAME. -/
def airFrames (a : Air) : Nat := a.hyper.toNat * 1024 + a.frame.toNat

/-- The device's own count of ticks (R674). -/
def airCount (a : Air) : Nat := airFrames a * 1228800 + a.tick.toNat

/-- FRAME and HYPER set from one count of frames, modulo 2^34. -/
def setFrames (a : Air) (n : Int) : Air :=
  { a with frame := BitVec.ofInt 10 n, hyper := BitVec.ofInt 24 (fdiv n 1024) }

/-- The counters set from one count of ticks (R674). -/
def setCount (a : Air) (n : Int) : Air :=
  { setFrames a (fdiv n 1228800) with tick := BitVec.ofInt 21 (Int.fmod n 1228800) }

/-- An air stamp read as a count of eighths (R520, Table 14-11). -/
def stampCount (w : W64) : Nat :=
  (((bits w 34 24).toNat * 1024 + (bits w 24 10).toNat) * 1228800 + (bits w 3 21).toNat) * 8 + (bits w 0 3).toNat

/-- The air stamp of now (Table 14-11), at eighth 0. -/
def airStamp (a : Air) : W64 := place 64 3 a.tick ||| place 64 24 a.frame ||| place 64 34 a.hyper

/-- ATM_TIME (Table 1-9). -/
def atmTime (a : Air) : W64 := place 64 0 a.tick ||| place 64 21 a.frame ||| place 64 31 a.hyper

/-- A phase error reduced to ±614,400 ticks, in eighths (R39). -/
def reduceErr (x : Int) : Int := Int.fmod (x + 4915200) 9830400 - 4915200

/-! ### Holdover (R37, R38) -/

/-- The holdover estimate in eighths, saturating at 32 bits; 0 outside HOLDOVER (R38, R64). -/
def holdEst (s : State) : Nat :=
  if s.air.state = .holdover then
    match s.air.holdStart with
    | some t0 => min 0xFFFFFFFF (s.air.holdBase + (s.now - t0) * s.hns.time.holdDrift.toNat * 8 / 10 ^ 11)
    | none => 0
  else 0

/-- The first entries of a list of (ticks, correction) that make up `n` ticks. -/
def takeTicks : Nat → List (Nat × Int) → List (Nat × Int)
  | _, [] => []
  | n, (d, c) :: h => if n ≤ d then [(n, c)] else (d, c) :: takeTicks (n - d) h

/-- The correction in force ends its time in LOCKED. -/
def closeLock (now : Nat) (a : Air) : Air :=
  match a.lockSince with
  | some t0 => { a with lockHist := takeTicks (64 * 122880000) ((now - t0, a.corr) :: a.lockHist), lockSince := none }
  | none => a

/-- The mean correction of the last 64 s in LOCKED, or of the whole LOCKED period; the correction in force where no
time was spent in LOCKED (R37). -/
def holdMean (a : Air) : Int :=
  let total := (a.lockHist.map (·.1)).foldl (· + ·) 0
  if total = 0 then a.corr
  else fdiv ((a.lockHist.map (fun h => (h.1 : Int) * h.2)).foldl (· + ·) 0) total

/-- The loop steers the correction: its value is the device's own (R673), a free value (notes/assumptions/4.md), in SLEWING
within 5 ppm of the correction in force when the slew began (R40). -/
def steer (s : State) : State :=
  let c := if s.air.state = .slewing then s.air.slewBase + ((draw s).toNat % 1000001 : Int) - 500000 else (draw s).toInt
  let s := drew s
  modAir s (fun a =>
    if a.state = .locked then { closeLock s.now a with corr := c, lockSince := some s.now } else { a with corr := c })

/-! ### Events of the reference (R69, R612) -/

/-- STATE of Table 1-3. -/
def refCode : RefState → BitVec 3
  | .freerun => 0
  | .acquire => 1
  | .locked => 2
  | .slewing => 3
  | .stepPending => 4
  | .holdover => 5

/-- REF (Table 17-4). -/
def refEvent (s : State) (lost stepped : Bool) : State :=
  report s {
    code := 0x0004
    data := [(refCode s.air.state).setWidth 8, s.air.activeReg.setWidth 8]
      ++ bytesOf (BitVec.ofInt 32 s.air.phaseErr) ++ [flag 8 0 lost ||| flag 8 1 stepped] }

/-! ### Candidates (R33, R34, R672) -/

/-- The source a CAND byte names (Table 3-7): 0 and 1 a PPS, 2 to 5 a Tether port. -/
def candSrc (b : Byte) : Option Nat :=
  if b = 1 then some 0 else if b = 2 then some 1
  else if 4 ≤ b.toNat ∧ b.toNat ≤ 7 then some (b.toNat - 2) else none

/-- The source of candidate `i` of the TIME section. -/
def candOf (s : State) (i : Nat) : Option Nat := (s.hns.time.cand[i]?).bind candSrc

def getCand (s : State) (src : Nat) : Candidate := tget {} s.air.cands src

/-- Whether candidate `i` is qualified. -/
def candQualified (s : State) (i : Nat) : Bool :=
  match candOf s i with
  | some src => (getCand s src).qualified
  | none => false

/-- The highest-priority qualified candidate (R34). -/
def bestCand (s : State) : Option (Fin 4) := [0, 1, 2, 3].find? (fun i : Fin 4 => candQualified s i.val)

/-- The source of the active reference. -/
def activeSrc (s : State) : Option Nat := s.air.active.bind (fun i => candOf s i.val)

/-- The device goes to re-lock on a candidate (R34, R35). -/
def acquire (s : State) (i : Fin 4) : State :=
  modAir s (fun a => { closeLock s.now a with
    state := .acquire, active := some i, activeReg := BitVec.ofNat 2 i.val, holdStart := none, numbering := none,
    stepOld := a.stepIn.isSome })

/-- The device enters HOLDOVER (R37). -/
def enterHold (s : State) : State :=
  modAir s (fun a =>
    let a := closeLock s.now a
    { a with state := .holdover, active := none, corr := holdMean a, holdStart := some s.now, holdBase := 0, holdDone := false })

/-- The active reference is lost: the next candidate, else HOLDOVER (R35, R37). -/
def loseActive (s : State) : State :=
  let s := modAir s (fun a => { a with refLost := true, stepOld := a.stepIn.isSome, active := none })
  let s := match bestCand s with
    | some i => acquire s i
    | none => enterHold s
  refEvent s true false

/-- With no active reference, the highest-priority qualified candidate becomes active (R34); after a warm reset not before
the grid is restored (R645). -/
def evaluateRef (s : State) : State :=
  if s.air.active.isSome || s.air.kept.isSome then s
  else match bestCand s with
    | some i => acquire s i
    | none => s

/-- A candidate's progress changes; a loss or a qualification takes effect. -/
def candUpdate (s : State) (src : Nat) (f : Candidate → Candidate) : State :=
  let c := getCand s src
  let c' := f c
  let c' := if s.air.forceHoldover then { c' with qualified := false, good := 0, missed := 0 } else c'
  let c' := { c' with since := if c'.qualified && !c.qualified then s.now else c'.since }
  let wasActive := decide (activeSrc s = some src)
  let s := modAir s (fun a => { a with cands := tset {} a.cands src c' })
  if c.qualified && !c'.qualified then (if wasActive then loseActive s else s)
  else if !c.qualified && c'.qualified then evaluateRef s
  else s

/-- A candidate is lost: qualification starts afresh (R672). -/
def candLost (c : Candidate) : Candidate := { c with qualified := false, good := 0, missed := 0 }

/-- A PPS edge as the qualification sees it (R33, R672). `n`: cycles since the edge before. -/
def ppsEdge (n : Nat) (c : Candidate) : Candidate :=
  if !c.seen then { c with seen := true, cycles := 0 }
  else if c.qualified then
    let total := c.cycles + n
    let due := (c.missed + 1) * 10000000
    if total ≤ due + 1000 ∧ due ≤ total + 1000 then { c with cycles := 0, missed := 0 } else { c with cycles := total }
  else if 9999999 ≤ n ∧ n ≤ 10000001 ∧ c.tenMHz then
    if 3 ≤ c.good then { c with qualified := true, good := 4, missed := 0, cycles := 0 } else { c with good := c.good + 1 }
  else { c with good := 0 }

/-- Whether a PPS edge counts: it falls in the window of its expected time (R672). -/
def ppsCounts (n : Nat) (c : Candidate) : Bool :=
  let total := c.cycles + n
  let due := (c.missed + 1) * 10000000
  c.qualified && c.seen && decide (total ≤ due + 1000) && decide (due ≤ total + 1000)

/-- A time message of a Tether candidate (R33): valid, or missing or invalid. -/
def tetherMsg (valid linkUp : Bool) (c : Candidate) : Candidate :=
  if valid then
    let g := min 16 (c.good + 1)
    { c with good := g, missed := 0, qualified := c.qualified || (decide (16 ≤ g) && linkUp) }
  else if 3 ≤ c.missed then candLost c
  else { c with good := 0, missed := c.missed + 1 }

/-! ### Re-lock: slew and step (R39 to R43, R673, R674) -/

/-- The clock is LOCKED. A first lock after acceptance lets the sequencer start at the next frame boundary (R648). -/
def enterLocked (s : State) : State :=
  modAir s (fun a => { a with
    state := .locked, lockHist := [], lockSince := some s.now, startArmed := a.startArmed || (s.accepted && !a.running) })

/-- A change of the air clock that may load numbering, `ahead` frames on: the slots under way keep their place in the
present numbering. -/
def renumber (s : State) (f : Air → Air) (ahead : Int := 0) : State :=
  let a := f s.air
  let d : Int := airFrames a - (airFrames s.air + ahead)
  let moved (g : GaitAct) : GaitAct := { g with alt := g.alt + BitVec.ofInt 10 d }
  let a := { a with lateQ := a.lateQ.map moved, dueQ := a.dueQ.map moved, issued := a.issued.map moved }
  if d = 0 then { s with air := a }
  else (List.range 8).foldl (fun s c => modCarrier s c (fun ca => { ca with
    slots := ca.slots.map (fun sl => { sl with alt := sl.alt + BitVec.ofInt 10 d }) })) { s with air := a }

/-- Supplied numbering is loaded now (R43). -/
def loadNumbering (a : Air) : Air :=
  match a.numbering with
  | some (shift, epoch) =>
    let a := { setFrames a (airFrames a + shift) with numbering := none }
    if epoch then { a with epochApplied := true, epochArm := false, loads := a.loads + 1 } else a
  | none => a

/-- An immediate step (R674): the count and the phase move at once; a forward move adds to ATM_ABS_TICK. -/
def immediateStep (a : Air) (e : Int) : Air :=
  let back := fdiv e 8
  let a' := setCount a (airCount a - back)
  let abs := if back < 0 then a.abs + BitVec.ofInt 64 (-back) else a.abs
  loadNumbering { a' with
    phase := a.phase - BitVec.ofInt 3 e, abs := abs, frameAbs := abs.toNat - a'.tick.toNat,
    stepped := true, steps := a'.steps + 1, shift := a.shift - BitVec.ofInt 9 e }

/-- Acting on a phase error (R39). -/
def actOnErr (s : State) (e : Int) : State :=
  if !s.air.running then
    refEvent (enterLocked (modAir s (fun a => immediateStep (closeLock s.now a) e))) false true
  else if e.natAbs ≤ s.hns.time.slewLimit.toNat * 8 then
    if e.natAbs ≤ 16 then enterLocked s
    else modAir s (fun a => { closeLock s.now a with state := .slewing, slewBase := a.corr })
  else if e.natAbs ≤ s.hns.time.stepLimit.toNat * 8 then
    modAir s (fun a => { closeLock s.now a with state := .acquire, stepIn := some 2 })
  else
    let s := modAir s (fun a =>
      let a := closeLock s.now a
      { a with state := .stepPending, corr := holdMean a })
    if groomUp s 3 then raiseSource s 0x2000 else modAir s (fun a => { a with notify := true })

/-- Numbering supplied at a measurement of a re-lock is kept until it loads (R43). -/
def supply (s : State) (num : Option (Int × Bool)) : State :=
  match num with
  | some n => modAir s (fun a => { a with numbering := some n })
  | none => s

/-- An armed ATM_EPOCH at an edge in LOCKED or SLEWING: loaded at once when the frame beginning at the edge has begun,
else at the boundary that begins it (R43). `own`: the device's own count of frames of that frame. -/
def epochAtEdge (s : State) (num : Option (Int × Bool)) (own : Int) : State :=
  match num with
  | some (n, true) =>
    let s := modAir s (fun a => { a with numbering := some (n, true) })
    if own ≤ airFrames s.air then renumber s loadNumbering else s
  | _ => s

/-- A phase measurement of the active reference (R35, R39, R673). -/
def phaseMeasured (s : State) (e : Int) (num : Option (Int × Bool)) (own : Int) : State :=
  let s := modAir s (fun a => { a with phaseErr := e, stepOld := false })
  match s.air.state with
  | .acquire => let s := supply s num; if s.air.stepIn.isSome then s else actOnErr s e
  | .locked => if 16 < e.natAbs then actOnErr (supply s num) e else steer (epochAtEdge s num own)
  | .slewing =>
    let s := epochAtEdge s num own
    if e.natAbs ≤ 16 then steer (enterLocked s) else steer s
  | .stepPending => supply s num
  | _ => s

/-- A TIM message that was ready, `after` ticks after its stamp, more than 17 ticks ago is late (R554). -/
def timLate (s : State) (g : Nat) (stamp : W64) (after : Nat) : State :=
  let late := ((airCount s.air : Int) - stampCount stamp / 8) - after - 17
  if late ≤ 0 then s
  else
    let s := modGirth s g (fun x => { x with timLate := true, timLateCnt := satInc x.timLateCnt })
    report s { code := 0x4007, kind := 0xA, unit := BitVec.ofNat 8 g, data := leBytes 2 (late.toNat + 17) }

/-- REFM with PPS (R553): qualification, then the phase measurement of an edge of the active reference. -/
def execRefmPps (iod : Fin 2) (stamp : W64) (cycles : W32) (s : State) : Host.Outcome State Fault Refusal :=
  if msgBlocked s iod.val 0x34 then .next s else
  let s := timLate (takeMsg s iod.val 0x34) iod.val stamp 0
  let before := getCand s iod.val
  let active := decide (activeSrc s = some iod.val)
  let s := candUpdate s iod.val (ppsEdge cycles.toNat)
  let s := if s.air.active.isNone then evaluateRef s else s
  if active && ppsCounts cycles.toNat before then
    let e := reduceErr (stampCount stamp)
    let own := fdiv ((stampCount stamp : Int) - e) 9830400
    let num := if s.air.epochArm then
        some ((s.air.epochHyper.toNat * 1024 + s.air.epochFrame.toNat : Int) - own, true) else none
    .next (phaseMeasured s e num own)
  else .next s

/-- REFM (R553): presence of the 10 MHz input. -/
def execRefm (iod : Fin 2) (stamp : W64) (present : Bool) (s : State) : Host.Outcome State Fault Refusal :=
  if msgBlocked s iod.val 0x34 then .next s else
  .next (candUpdate (timLate (takeMsg s iod.val 0x34) iod.val stamp 0) iod.val (fun c =>
    if present then { c with tenMHz := true } else { candLost c with tenMHz := false }))

/-- An expected PPS edge did not come (R672); two in a row lose the candidate (R33). -/
def execPpsEdgeMissing (iod : Fin 2) (s : State) : Host.Outcome State Fault Refusal :=
  .next (candUpdate s iod.val (fun c =>
    if !c.qualified then c else if 1 ≤ c.missed then candLost c else { c with missed := c.missed + 1 }))

/-- No 10 MHz edge for 2 µs (R33). -/
def execTenMhzLost (iod : Fin 2) (s : State) : Host.Outcome State Fault Refusal :=
  .next (candUpdate s iod.val (fun c => { candLost c with tenMHz := false }))

/-- With REVERTIVE, a higher-priority candidate qualified for 60 s becomes active (R34). -/
def execRevertTimer (cand : Fin 4) (s : State) : Host.Outcome State Fault Refusal :=
  match s.air.active, candOf s cand.val with
  | some i, some src =>
    let c := getCand s src
    if s.hns.time.revertive && decide (cand.val < i.val) && c.qualified
        && decide (c.since + 60 * 122880000 ≤ s.now) then .next (acquire s cand)
    else .next s
  | _, _ => .next s

/-- The estimate reaches HOLD_LIMIT (R38). -/
def execHoldLimitReached (s : State) : Host.Outcome State Fault Refusal :=
  if s.air.state = .holdover ∧ s.hns.time.holdLimit.toNat * 8 ≤ holdEst s ∧ s.air.holdDone = false then
    .next (report (modAir s (fun a => { a with holdExpired := true, holdDone := true }))
      { code := 0x5003, data := leBytes 4 (holdEst s) })
  else .next s

/-- No time message within its allowance (R520, R33). -/
def execTimeMsgMissing (port : Fin 4) (s : State) : Host.Outcome State Fault Refusal :=
  let t := getTth s port.val
  let gap := t.msgInterval.toNat
  let due := t.msgAt.any (fun a => decide (a + (if gap = 0 then 2457600 else gap + 12288) ≤ s.now))
  if due then
    let s := modTth s port.val (fun t => { t with msgAt := t.msgAt.map (· + (if gap = 0 then 2457600 else gap)) })
    .next (candUpdate s (port.val + 2) (tetherMsg false true))
  else .next s

/-- S0 writes STEP_NOW in STEP_PENDING (R39). -/
def stepNowOp (s : State) : State :=
  if s.air.state = .stepPending then modAir s (fun a => { a with state := .acquire, stepIn := some 2 }) else s
def execStepNow (s : State) : Host.Outcome State Fault Refusal := .next (mgmt stepNowOp s)

/-- S0 writes SLEW_ANYWAY in STEP_PENDING (R39). -/
def slewAnywayOp (s : State) : State :=
  if s.air.state = .stepPending then
    if s.air.phaseErr.natAbs ≤ 16 then enterLocked s else modAir s (fun a => { a with state := .slewing, slewBase := a.corr })
  else s
def execSlewAnyway (s : State) : Host.Outcome State Fault Refusal := .next (mgmt slewAnywayOp s)

/-- FORCE_HOLDOVER: while set, every candidate is lost (R64, Table 1-11). -/
def forceHoldoverOp (s : State) (on : Bool) : State :=
  let s := modAir s (fun a => { a with forceHoldover := on })
  if on then
    let had := (activeSrc s).any (fun src => (getCand s src).qualified)
    let s := modAir s (fun a => { a with cands := tmods {} a.cands (List.range 6) (fun _ c => candLost c) })
    if had then loseActive s else s
  else s
def execForceHoldover (on : Bool) (s : State) : Host.Outcome State Fault Refusal := .next (mgmt (forceHoldoverOp · on) s)

/-- S0 arms ATM_EPOCH (R43, Table 1-12). -/
def epochArmOp (s : State) (frame : BitVec 10) (hyper : BitVec 24) : State :=
  modAir s (fun a => { a with epochFrame := frame, epochHyper := hyper, epochArm := true })
def execAtmEpochArm (frame : BitVec 10) (hyper : BitVec 24) (s : State) : Host.Outcome State Fault Refusal :=
  .next (mgmt (epochArmOp · frame hyper) s)

/-- A time exchange's result (R520): qualification, then the phase measurement. -/
def tetherTime (s : State) (port : Nat) (t1 : W64) (offset : W64) (valid linkUp : Bool) : State :=
  let active := decide (activeSrc s = some (port + 2))
  let s := candUpdate s (port + 2) (tetherMsg valid linkUp)
  let s := if s.air.active.isNone then evaluateRef s else s
  if active && valid then
    let e := reduceErr offset.toInt
    let shift := fdiv (offset.toInt - e) 9830400
    phaseMeasured s e (some (-shift, false)) ((stampCount t1 : Int) / 9830400 + shift)
  else s

/-- The link of a Tether port goes down: its candidate is lost (R33). -/
def tetherCandDown (s : State) (port : Nat) : State := candUpdate s (port + 2) candLost

/-! ### The gait table (R45 to R54, R69) -/

def gOffset (e : W64) : Nat := (bits e 0 21).toNat
def gAction (e : W64) : BitVec 6 := bits e 21 6
def gPeriod (e : W64) : Nat := (bits e 27 3).toNat
def gEdit (e : W64) : Bool := bit e 31
def gPhase (e : W64) : Nat := (bits e 32 7).toNat
def gTarget (e : W64) : Byte := bits e 40 8
def gArg (e : W64) : W16 := bits e 48 16

/-- Whether an entry acts in a frame (Table 1-4). -/
def gActs (e : W64) (frame : BitVec 10) : Bool := decide (frame.toNat % 2 ^ gPeriod e = gPhase e)

def activeGait (a : Air) : GaitBank := if a.activeBank then a.bank1 else a.bank0
def shadowGait (a : Air) : GaitBank := if a.activeBank then a.bank0 else a.bank1
def setShadow (a : Air) (b : GaitBank) : Air := if a.activeBank then { a with bank0 := b } else { a with bank1 := b }

/-- The entries of the active bank with their positions, up to ENTRY_COUNT (R69). -/
def gaitEntries (a : Air) : List (Nat × W64) :=
  ((activeGait a).entries.take a.entryCount.toNat).zipIdx.map (fun x => (x.2, x.1))

/-- Whether position `i` of the active bank fails parity. -/
def gaitBad (a : Air) (i : Nat) : Bool := (activeGait a).bad.contains i

/-- The entries that act at a range of offsets in the present frame, in table order, each with its frame. -/
def gaitDue (a : Air) (p : Nat → Bool) : List GaitAct :=
  ((gaitEntries a).filter (fun x => !gaitBad a x.1 && p (gOffset x.2) && gActs x.2 a.frame)).map (fun x => {
    entry := x.2, due := a.abs.toNat, frames := airFrames a, alt := a.frame, frameAbs := a.frameAbs, prevAbs := a.prevAbs })

/-- Positions of the active bank are found to fail parity (R69). -/
def gaitFail (bad : List (BitVec 12)) (a : Air) : Air :=
  let b := activeGait a
  let b := { b with bad := b.bad ++ (bad.map (·.toNat)).filter (fun i => !b.bad.contains i) }
  if a.activeBank then { a with bank1 := b } else { a with bank0 := b }

/-- The generation of a cluster advances at a swap tick (R58); earlier ones are forgotten once no capture can precede them. -/
def bumpGen (s : State) (c due : Nat) : State :=
  modCluster s c (fun cl => { cl with gen := cl.gen + 1, swaps := due :: cl.swaps.filter (fun t => decide (s.air.prevAbs ≤ t)) })

/-- The clusters whose generation an action advances: that of a PACER_SWAP, those of the stall of a STALL_SWAP (R58). -/
def swapClusters (s : State) (e : W64) : List Nat :=
  if gAction e = 5 then [(gTarget e).toNat]
  else if gAction e = 6 then (List.range 6).filter (fun c => (resRec s (gTarget e).toNat).any (fun r => (List.range 8).any (fun k => r.pcrOwn.getLsbD (8 * c + k))))
  else []

/-- What an entry does at its swap tick itself (R58). -/
def gaitSwapTick (s : State) (g : GaitAct) : State := (swapClusters s g.entry).foldl (fun s c => bumpGen s c g.due) s

/-- Entries of the present tick join the queue of due ones. -/
def gaitQueue (s : State) (late : Bool) (p : Nat → Bool) : State :=
  let gs := gaitDue s.air p
  gs.foldl gaitSwapTick (modAir s (fun a =>
    if late then { a with lateQ := a.lateQ ++ gs } else { a with dueQ := a.dueQ ++ gs }))

/-- The tick at which the sequencer reaches each failing position (R69). -/
def gaitBadAt (a : Air) : List (Nat × Nat) :=
  ((gaitEntries a).foldl (fun (acc : List (Nat × Nat) × Nat) x =>
    if gaitBad a x.1 then (acc.1 ++ [(x.1, acc.2)], acc.2) else (acc.1, gOffset x.2)) ([], 0)).1

/-- The failing positions reached at a range of ticks are discarded, each with its fault (R69). -/
def gaitDiscard (s : State) (p : Nat → Bool) : State :=
  ((gaitBadAt s.air).filter (fun x => p x.2)).foldl (fun s x =>
    report (modAir s (fun a => { a with parityErr := true }))
      { code := 0x5005, data := leBytes 2 x.1 ++ [flag 8 0 s.air.activeBank] }) s

/-- An entry at its dispatch: the tick, and the generation a start record carries (Table 11-7). -/
def dispatched (s : State) (g : GaitAct) : GaitAct :=
  let gen := if gAction g.entry = 1 then ((carrierCfg s (gTarget g.entry).toNat).map (fun r => (getCluster s r.cluster).gen)).getD 0 else 0
  { g with abs := s.air.abs.toNat, frame := s.air.frame, tick := s.air.tick, gen := gen }

/-- Up to four entries are issued, late ones first (R50, R42; notes/assumptions/12.md), none in the added ticks of a lengthened
frame (R41); an issued entry waits to take effect at its target, and a NOP has no effect. -/
def gaitIssue (s : State) : State :=
  if 1228800 ≤ s.air.tick.toNat then s
  else
    let now := ((s.air.lateQ ++ s.air.dueQ).take 4).map (dispatched s)
    modAir s (fun a => { a with
      lateQ := a.lateQ.drop 4, dueQ := a.dueQ.drop (4 - a.lateQ.length),
      gaitLate := satAdd a.gaitLate (min 4 a.lateQ.length),
      issued := a.issued ++ now.filter (fun g => gAction g.entry != 0) })

/-- An action for a unit of an I/O die goes there as a TACT (R547); one that meets a link not ACTIVE is dropped, and the
Tether port counts it (R572). -/
def sendAction (s : State) (g : GaitAct) : State :=
  let p := (gTarget g.entry).toNat
  if gAction g.entry ≠ 9 then s
  else if (getGirth s (p / 2)).state = .active then emit s (.tact (p / 2) p (gAction g.entry) (airStamp s.air))
  else
    let s := modAir s (fun a => { a with issued := a.issued.erase g })
    modTth s p (fun t => { t with timeSkip := satInc t.timeSkip })

/-- The sequencer's work of the current tick (R50). -/
def gaitTick (s : State) : State :=
  if !s.air.running then s
  else
    let t := s.air.tick.toNat
    let s := gaitDiscard s (fun o => o == t)
    let before := s.air.issued.length
    let s := gaitIssue (gaitQueue s false (fun o => o == t))
    (s.air.issued.drop before).foldl sendAction s

/-- ⌊e/8⌋ of a step at its application (R41, R42). -/
def stepTicks (a : Air) : Int := fdiv a.phaseErr 8

/-- The last tick of the current frame (R41, R42). -/
def lastTick (a : Air) : Nat :=
  if a.stepIn = some 1 then (1228799 + stepTicks a).toNat else 1228799

/-- A shortened frame has reached its last tick: its late entries are dispatched from here on (R42). -/
def gaitLateLoad (s : State) : State :=
  if s.air.running && !s.air.ended && decide (s.air.tick.toNat < 1228799) then
    let t := s.air.tick.toNat
    let s := gaitDiscard s (fun o => decide (t < o))
    gaitQueue (modAir s (fun a => { a with ended := true })) true (fun o => decide (t < o))
  else modAir s (fun a => { a with ended := true })

/-- What an action addresses (R67): actions of one class with one target meet. Unit 15 of a domain is all of its units
(R111). -/
def sameTarget (e f : W64) : Bool :=
  let cls (a : BitVec 6) : Nat := match a.toNat with
    | 2 => 1
    | 10 => 6
    | n => n
  cls (gAction e) == cls (gAction f)
    && (if gAction e = 4 then bits (gTarget e) 4 4 == bits (gTarget f) 4 4
          && (bits (gTarget e) 0 4 == bits (gTarget f) 0 4 || bits (gTarget e) 0 4 == 15 || bits (gTarget f) 0 4 == 15)
        else if gAction e = 3 then gTarget e == gTarget f || gTarget e == 0x0F || gTarget f == 0x0F
        else gTarget e == gTarget f)

/-- The entry whose action a command carries out. -/
def issuedAct (s : State) (action : BitVec 6) (target : Byte) (arg : W16 → Bool) : Option GaitAct :=
  s.air.issued.find? (fun g => gAction g.entry == action && gTarget g.entry == target && arg (gArg g.entry))

/-- An action that no issued entry asks for, as one issued now. -/
def actNow (s : State) (action : BitVec 6) (target : Byte) : GaitAct :=
  dispatched s {
    entry := place 64 0 s.air.tick ||| place 64 21 action ||| place 64 40 target, due := s.air.abs.toNat,
    frames := airFrames s.air, alt := s.air.frame, frameAbs := s.air.frameAbs, prevAbs := s.air.prevAbs }

/-- An action taking effect at its target leaves the issued entries (R50); none while an earlier entry of the same tick for
the same target waits (R67). -/
def takeAct (s : State) (action : BitVec 6) (target : Byte) (arg : W16 → Bool) : Option (GaitAct × State) :=
  match issuedAct s action target arg with
  | some g =>
    if (s.air.issued.takeWhile (fun x => x != g)).any (fun x => x.due == g.due && sameTarget x.entry g.entry) then none
    else some (g, modAir s (fun a => { a with issued := a.issued.erase g }))
  | none => let g := actNow s action target; some (g, gaitSwapTick s g)

/-- The entries against which an edit of the shadow bank is judged: the segment's merged ones where one is edited in (R52). -/
def editGait (s : State) : List W64 := match s.merged with
  | some h => if s.loader.segState = 3 ∨ s.loader.segState = 4 then h.gait else s.hns.gait
  | none => s.hns.gait

/-- G3 writes the shadow bank (R52): only the ACTION of an EDIT entry, between NOP and the harness's action. -/
def execGaitShadowWrite (index : BitVec 12) (entry : W64) (s : State) : Host.Outcome State Fault Refusal :=
  let i := index.toNat
  let ok : Bool := match (editGait s)[i]? with
    | some h => s.accepted && !s.air.copying && gEdit h && decide (i < (shadowGait s.air).entries.length)
        && (entry == h || entry == h &&& ~~~ place 64 21 (0x3F : BitVec 6))
    | none => false
  if groomUp s 3 = false then .next s
  else if ok then
    .next (modAir s (fun a =>
      let b := shadowGait a
      setShadow a { entries := setAt b.entries i entry, bad := b.bad.filter (fun j => j != i) }))
  else .next (report s { code := 0x5006, data := leBytes 2 i })

/-- G3 arms a bank swap (R53). -/
def execGaitSwapArm (frame : BitVec 10) (s : State) : Host.Outcome State Fault Refusal :=
  if s.accepted && groomUp s 3 then .next (modAir s (fun a => { a with swapFrame := some frame })) else .next s

/-- The new active bank is copied into the shadow bank (R53). -/
def copyGait (a : Air) : Air := { setShadow a (activeGait a) with copying := false }
def execGaitCopyDone (s : State) : Host.Outcome State Fault Refusal :=
  if s.air.copying then .next (modAir s copyGait) else .next s

/-- The banks exchange roles and the copy begins (R53). -/
def swapBanks (a : Air) : Air :=
  let a := if a.copying then copyGait a else a
  { a with activeBank := !a.activeBank, swapFrame := none, copying := true,
           entryCount := BitVec.ofNat 13 (shadowGait a).entries.length }

/-- The sequencer starts at a frame boundary and dispatches the entries of tick 0 (R648). -/
def execGaitStart (s : State) : Host.Outcome State Fault Refusal :=
  if s.accepted && s.air.startArmed && !s.air.running && decide (s.air.tick = 0) then
    .next (gaitTick (modAir s (fun a => { a with running := true, startArmed := false })))
  else .next s

/-- No lock within 10 s of acceptance: the sequencer may start at the next frame boundary (R648). -/
def execGaitStartTimeout (s : State) : Host.Outcome State Fault Refusal :=
  match s.air.acceptedAt with
  | some t0 =>
    if s.accepted && !s.air.running && decide (t0 + 1228800000 ≤ s.now) then
      .next (modAir s (fun a => { a with startArmed := true }))
    else .next s
  | none => .next s

/-- IRQ (Table 1-5): the vector of the stall's function. -/
def execIrq (stall : Fin 16) (vector : BitVec 11) (s : State) : Host.Outcome State Fault Refusal :=
  match takeAct s 0x0A (BitVec.ofNat 8 stall.val) (fun a => bits a 0 11 == vector) with
  | some (_, s) => if (getStall s stall.val).state = .absent then .next s else .next (raiseVector s stall.val vector)
  | none => .next s

/-! ### Edge detectors (R59 to R62) -/

def getDet (c : Cluster) (d : Nat) : Detector := tget {} c.dets d
def modDet (s : State) (c d : Nat) (f : Detector → Detector) : State :=
  modCluster s c (fun cl => { cl with dets := tmod {} cl.dets d f })

/-- A completed capture enters the queue of 8, or is dropped with the overflow flag (R61). -/
def detPush (d : Detector) (record : W64) : Detector :=
  if d.queue.length < 8 then { d with queue := d.queue ++ [record] } else { d with ovf := true }

/-- An air stamp in eighths of ATM_ABS_TICK: a stamp of the current frame, else of the frame before. -/
def stampEighths (a : Air) (stamp : W64) : Nat :=
  let f := (bits stamp 34 24).toNat * 1024 + (bits stamp 24 10).toNat
  ((if f = airFrames a then a.frameAbs else a.prevAbs) + (bits stamp 3 21).toNat) * 8 + (bits stamp 0 3).toNat

/-- The generation current at a first sample (R62). -/
def genAt (c : Cluster) (at8 : Nat) : Byte := c.gen - BitVec.ofNat 8 (c.swaps.filter (fun t => decide (at8 < 8 * t))).length

/-- The configuration that applies to a first sample (R62). -/
def cfgAt (d : Detector) (at8 : Nat) : DetCfg := if at8 < 8 * d.from_ then d.before else d.cfg

/-- Whether a debounce has held long enough at a moment (R60). -/
def pendDone (p : Pend) (at8 : Nat) : Bool := decide (p.at8 + 8 * p.debounce ≤ at8)

/-- The record of a capture (Table 1-8). -/
def captRecord (stamp : W64) (rise : Bool) (gen : Byte) (n : Nat) : W64 :=
  place 64 0 (bits stamp 0 3) ||| place 64 3 (bits stamp 3 21) ||| place 64 24 (bits stamp 24 10)
    ||| flag 64 34 rise ||| place 64 35 gen ||| place 64 43 (BitVec.ofNat 2 n) ||| flag 64 63 true

/-- A transition of a source as a detector sees it: an opposite level ends a debounce in progress on that source, or completes
it where the level held long enough; a selected polarity starts one (R60, R62, R552). -/
def detSee (n : Nat) (source : Byte) (stamp : W64) (at8 : Nat) (gen : Byte) (rise : Bool) (d : Detector) : Detector :=
  let met := (d.pends.filter (fun p => p.source == source && pendDone p at8)).map (·.record)
  let d := met.foldl detPush { d with pends := d.pends.filter (fun p => p.source != source) }
  let cfg := cfgAt d at8
  if cfg.source == source && (if rise then bit cfg.polarity 0 else bit cfg.polarity 1) then
    { d with pends := d.pends ++ [{ source := source, at8 := at8, debounce := cfg.debounce.toNat, record := captRecord stamp rise gen n }] }
  else d

/-- The I/O die of a detector source (Table 1-7). -/
def sourceIod (src : Byte) : Nat :=
  if src.toNat ≤ 7 then src.toNat / 4 else if src.toNat ≤ 0x0B then src.toNat % 2 else (src.toNat - 0x0C) / 2

/-- CAPT (R552): every detector of every cluster that selects the source sees the transition. -/
def execCapt (source : BitVec 4) (stamp : W64) (rise : Bool) (s : State) : Host.Outcome State Fault Refusal :=
  let src : Byte := source.setWidth 8
  let g := sourceIod src
  if msgBlocked s g 0x32 then .next s else
  let s := timLate (takeMsg s g 0x32) g stamp 0
  let at8 := stampEighths s.air stamp
  .next ((List.range 6).foldl (fun s c => (List.range 4).foldl (fun s n =>
    modDet s c n (detSee n src stamp at8 (genAt (getCluster s c) at8) rise)) s) s)

/-- A transition has held for DEBOUNCE ticks (R60). -/
def execDebounceComplete (cluster : Fin 6) (det : Fin 4) (s : State) : Host.Outcome State Fault Refusal :=
  match (getDet (getCluster s cluster.val) det.val).pends.find? (fun p => pendDone p (s.air.abs.toNat * 8 + 7)) with
  | some p => .next (modDet s cluster.val det.val (fun d => detPush { d with pends := d.pends.erase p } p.record))
  | none => .next s

end Sys2Proof.Machine
end

