-- ==== Sys2Proof/Machine/Crypto.lean ====
section
/-!
DEFINITION. The checks of Table 0-6: CRC-32C, SHA-384 (FIPS 180-4) and ECDSA on P-384 (FIPS 186-5).
-/
namespace Sys2Proof.Machine

/-- `n` bit steps of a reflected CRC register with polynomial `p`. -/
def crcBits {w : Nat} (p : BitVec w) : Nat → BitVec w → BitVec w
  | 0, c => c
  | n + 1, c => crcBits p n (if c.getLsbD 0 then (c >>> 1) ^^^ p else c >>> 1)

/-- CRC-32C: reflected, initial value and final XOR all ones (Table 0-6). -/
def crc32c (bs : List Byte) : W32 :=
  bs.foldl (fun c b => crcBits (0x82F63B78 : W32) 8 (c ^^^ b.setWidth 32)) 0xFFFFFFFF ^^^ 0xFFFFFFFF

/-- A CRC register taking one message bit, most significant first, with polynomial `p`. -/
def crcMsbBit {w : Nat} (p : BitVec w) (c : BitVec w) (b : Bool) : BitVec w :=
  if xor (c.getLsbD (w - 1)) b then (c <<< 1) ^^^ p else c <<< 1

/-- The CRC of a list of bits, most significant first. -/
def crcMsb {w : Nat} (p init : BitVec w) (bs : List Bool) : BitVec w := bs.foldl (crcMsbBit p) init

/-- The greatest `r` with r^`k` at most `v`, found bit by bit from bit `n` − 1 down. -/
def rootBits (k v : Nat) : Nat → Nat → Nat
  | 0, r => r
  | n + 1, r => rootBits k v n (if (r + 2 ^ n) ^ k ≤ v then r + 2 ^ n else r)

/-- The first 64 bits of the fraction of the `k`th root of a prime below 512. -/
def rootFraction (k p : Nat) : W64 := BitVec.ofNat 64 (rootBits k (p * 2 ^ (64 * k)) 69 0)

/-- The primes below 410: the first 80 (FIPS 180-4 takes its constants from them). -/
def shaPrimes : List Nat :=
  ((List.range 410).drop 2).filter (fun n => [2, 3, 5, 7, 11, 13, 17, 19].all (fun d => n == d || n % d != 0))

/-- The exclusive or of a word turned right by each of some amounts. -/
def turned (x : W64) (by_ : List Nat) : W64 := by_.foldl (fun a n => a ^^^ x.rotateRight n) 0

/-- The message words of a block as they are used: the next 16, the one in use first. -/
structure ShaWindow where
  words : List W64

/-- The window one round on: the word that enters is built from those 1, 9 and 14 places behind the front and the front. -/
def ShaWindow.slide (w : ShaWindow) : ShaWindow :=
  let at_ (i : Nat) : W64 := w.words.getD i 0
  let enters := at_ 0 + at_ 9 + (turned (at_ 1) [1, 8] ^^^ at_ 1 >>> 7) + (turned (at_ 14) [19, 61] ^^^ at_ 14 >>> 6)
  { words := w.words.drop 1 ++ [enters] }

/-- A hash value, or the working words of a block, as its upper and lower four. -/
structure ShaValue where
  a : W64
  b : W64
  c : W64
  d : W64
  e : W64
  f : W64
  g : W64
  h : W64

/-- A round with one constant and one message word. -/
def ShaValue.mix (v : ShaValue) (constant word : W64) : ShaValue :=
  let chosen := v.g ^^^ (v.e &&& (v.f ^^^ v.g))
  let carried := (v.a &&& v.b) ||| (v.c &&& (v.a ||| v.b))
  let fresh := constant + word + v.h + chosen + turned v.e [41, 18, 14]
  { a := fresh + carried + turned v.a [39, 34, 28], b := v.a, c := v.b, d := v.c, e := fresh + v.d, f := v.e, g := v.f, h := v.g }

/-- Two values added word by word. -/
def ShaValue.plus (v w : ShaValue) : ShaValue :=
  ⟨v.a + w.a, v.b + w.b, v.c + w.c, v.d + w.d, v.e + w.e, v.f + w.f, v.g + w.g, v.h + w.h⟩

/-- The value after a block of 128 bytes. -/
def ShaValue.absorb (v : ShaValue) (block : List Byte) : ShaValue :=
  let first : ShaWindow := { words := (List.range 16).map (fun i => BitVec.ofNat 64 (beNat (slice block (8 * i) 8))) }
  let last := shaPrimes.foldl (fun (x : ShaValue × ShaWindow) p => (x.1.mix (rootFraction 3 p) (x.2.words.getD 0 0), x.2.slide)) (v, first)
  v.plus last.1

/-- The values after `n` blocks. -/
def ShaValue.absorbAll : Nat → ShaValue → List Byte → ShaValue
  | 0, v, _ => v
  | n + 1, v, bs => ShaValue.absorbAll n (v.absorb (bs.take 128)) (bs.drop 128)

/-- The value that SHA-384 starts from: square roots of the 9th to 16th primes. -/
def shaStart : ShaValue :=
  let r (p : Nat) : W64 := rootFraction 2 p
  ⟨r 23, r 29, r 31, r 37, r 41, r 43, r 47, r 53⟩

/-- `n` bytes of `v`, the most significant first. -/
def beBytes (n v : Nat) : List Byte := (leBytes n v).reverse

/-- SHA-384 of a message (FIPS 180-4): a 1 bit, zeros and the 16-byte bit count fill its last block; the digest is the first
six words. -/
def sha384 (m : List Byte) : BitVec 384 :=
  let fill := 127 - (m.length + 16) % 128
  let v := ShaValue.absorbAll ((m.length + 17 + fill) / 128) shaStart (m ++ 0x80 :: (List.replicate fill 0 ++ beBytes 16 (8 * m.length)))
  v.a ++ v.b ++ v.c ++ v.d ++ v.e ++ v.f

/-! ### ECDSA on P-384 -/

/-- The field prime, the curve's `b`, the group order and the base point (FIPS 186-5). -/
def p384 : Nat := 2 ^ 384 - 2 ^ 128 - 2 ^ 96 + 2 ^ 32 - 1
def p384b : Nat :=
  0xb3312fa7e23ee7e4988e056be3f82d19181d9c6efe8141120314088f5013875ac656398d8a2ed19d2a85c8edd3ec2aef
def p384n : Nat :=
  0xffffffffffffffffffffffffffffffffffffffffffffffffc7634d81f4372ddf581a0db248b0a77aecec196accc52973
def p384x : Nat :=
  0xaa87ca22be8b05378eb1c71ef320ad746e1d3b628ba79b9859f741e082542a385502f25dbf55296c3a545e3872760ab7
def p384y : Nat :=
  0x3617de4a96262c6f5d9e98bf9292dc29f8f41dbd289a147ce9da3113b5f0b8c00a60b1ce1d7e819d7a431d7c90ea0e5f

/-- `b ^ e mod m` over `fuel` bits of the exponent, the lowest first. -/
def powMod (m : Nat) : Nat → Nat → Nat → Nat → Nat
  | 0, _, _, acc => acc
  | fuel + 1, b, e, acc => powMod m fuel (b * b % m) (e / 2) (if e % 2 = 1 then acc * b % m else acc)

/-- The inverse modulo a prime of 384 bits. -/
def invMod (m a : Nat) : Nat := powMod m 384 (a % m) (m - 2) 1

/-- A point of the curve, or the point at infinity. -/
abbrev P384Point := Option (Nat × Nat)

/-- Whether an affine pair is a point of the curve. -/
def onP384 (x y : Nat) : Bool :=
  decide (x < p384) && decide (y < p384) && decide (y * y % p384 = (x * x * x + (p384 - 3) * x + p384b) % p384)

/-- Addition of points. -/
def addP384 : P384Point → P384Point → P384Point
  | none, q => q
  | p, none => p
  | some (x1, y1), some (x2, y2) =>
    if x1 = x2 ∧ (y1 + y2) % p384 = 0 then none
    else
      let l := if x1 = x2 then (3 * x1 * x1 + (p384 - 3)) * invMod p384 (2 * y1) % p384
        else (y2 + p384 - y1) * invMod p384 (x2 + p384 - x1) % p384
      let x3 := (l * l + 2 * p384 - x1 - x2) % p384
      some (x3, (l * (x1 + p384 - x3) + p384 - y1) % p384)

/-- Multiplication of a point over `fuel` bits of the scalar, the lowest first. -/
def mulP384 : Nat → Nat → P384Point → P384Point → P384Point
  | 0, _, _, acc => acc
  | fuel + 1, k, p, acc => mulP384 fuel (k / 2) (addP384 p p) (if k % 2 = 1 then addP384 acc p else acc)

/-- ECDSA verification of a 384-bit digest (R101, FIPS 186-5). -/
def ecdsaVerify (qx qy r sg : Nat) (digest : BitVec 384) : Bool :=
  if !onP384 qx qy || r = 0 || decide (p384n ≤ r) || sg = 0 || decide (p384n ≤ sg) then false
  else
    let w := invMod p384n sg
    let u1 := digest.toNat * w % p384n
    let u2 := r * w % p384n
    match addP384 (mulP384 384 u1 (some (p384x, p384y)) none) (mulP384 384 u2 (some (qx, qy)) none) with
    | none => false
    | some (x, _) => decide (x % p384n = r)

end Sys2Proof.Machine
end

