-- ==== Sys2Proof/Machine/Numbers.lean ====
section
/-!
DEFINITION. Codes, scales, stochastic rounding and its generator (ch. 7), and FP32 arithmetic (R275).
-/
namespace Sys2Proof.Machine

/-- Table 7-2. -/
def scaleMantissa : List Nat :=
  [32768, 31379, 30048, 28774, 27554, 26386, 25268, 24196, 23170, 22188, 21247, 20347, 19484, 18658, 17867, 17109]

/-- The generator value number `j` under seed `seed` (R253). -/
def genValue (seed : W64) (j : Nat) : W64 :=
  let z := seed + (BitVec.ofNat 64 (j + 1)) * 0x9E3779B97F4A7C15
  let z := (z ^^^ (z >>> 30)) * 0xBF58476D1CE4E5B9
  let z := (z ^^^ (z >>> 27)) * 0x94D049BB133111EB
  z ^^^ (z >>> 31)

/-- The draw number of output element (`i`, `j`) of a task with sizes `m` and `n` (R254). -/
def drawOrd (m n i j : Nat) : Nat :=
  let r := i / 32
  let c := j / 32
  32 * r * n + min 32 (m - 32 * r) * (32 * c) + (i - 32 * r) * min 32 (n - 32 * c) + (j - 32 * c)

/-- Seed of a job task (Table 7-4). -/
def jobSeed (stall queue : Nat) (seq : W32) (tile : Nat) : W64 :=
  BitVec.ofNat 64 (stall % 16 * 2 ^ 59 + queue % 8 * 2 ^ 56 + seq.toNat * 2 ^ 24 + tile % 2 ^ 24)

/-- Seed of a network task (Table 7-5). -/
def netSeed (stall carrier net : Nat) (frame : BitVec 10) (slot : BitVec 6) (symbol : BitVec 4) (task : Nat) : W64 :=
  BitVec.ofNat 64 (2 ^ 63 + stall % 16 * 2 ^ 59 + carrier % 8 * 2 ^ 56 + net % 256 * 2 ^ 48
    + frame.toNat * 2 ^ 38 + slot.toNat * 2 ^ 32 + symbol.toNat * 2 ^ 28 + task % 2 ^ 16)

/-- `⌊num × 2^x⌋`, rounded toward minus infinity. -/
def scalePow2 (num x : Int) : Int :=
  if 0 ≤ x then num * 2 ^ x.toNat else fdiv num (2 ^ (-x).toNat)

/-- Step 3 of R250: the result with 32 fraction bits. `x` already holds the exponent of the real result. -/
def requantY (num x : Int) : Int := scalePow2 num (x + 32)

/-- The clamp range of Table 7-3: OUT_FMT 1 is 8-bit, 2 is 4-bit. -/
def codeRange (fmt4 uns : Bool) : Int × Int :=
  match fmt4, uns with
  | false, false => (-127, 127)
  | false, true => (0, 255)
  | true, false => (-7, 7)
  | true, true => (0, 15)

/-- Steps 4 and 5 of R250: the output code and whether it was clamped. -/
def roundCode (y : Int) (rho : Nat) (zp : Nat) (fmt4 uns : Bool) : Int × Bool :=
  let p := fdiv (y + rho) (2 ^ 32) + zp
  let r := codeRange fmt4 uns
  if p < r.1 then (r.1, true) else if r.2 < p then (r.2, true) else (p, false)

/-- Requantisation of a 32-bit sum with scale code `u` and multiplier OUT_SCALE (R250). -/
def requant (a : Int) (u : Nat) (scale : W16) (rho : Nat) (zp : Nat) (fmt4 uns : Bool) : Int × Bool :=
  let e := (bits scale 7 8).toNat
  let m := (bits scale 0 7).toNat
  let y : Int := if e = 0 then 0
    else
      let z : Int := a * (scaleMantissa.getD (u % 16) 0 : Nat) * ((128 + m : Nat) : Int)
      let z := if bit scale 15 then -z else z
      requantY z ((e : Int) - 149 - ((u / 16 : Nat) : Int))
  roundCode y rho zp fmt4 uns

/-- The upper 32 bits of a generator value (R250, step 4). -/
def rhoOf (v : W64) : Nat := v.toNat / 2 ^ 32

/-- The operand of a code (Table 6-2). -/
def operandOf (code : Nat) (four uns : Bool) (zp : Nat) : Int :=
  if uns then (code : Int) - zp
  else if four then (if code < 8 then (code : Int) else (code : Int) - 16)
  else (if code < 128 then (code : Int) else (code : Int) - 256)

/-- Saturation of an accumulator sum (R229). -/
def satSum (x : Int) : Int × Bool :=
  if x > 2147483647 then (2147483647, true) else if x < -2147483647 then (-2147483647, true) else (x, false)

/-! ### FP32 (R275): binary32, round to nearest even, subnormals read and written as zero, one NaN -/

/-- The written NaN. -/
def fpNaN : W32 := 0x7FC00000
def fpExp (x : W32) : Nat := (bits x 23 8).toNat
def fpFrac (x : W32) : Nat := (bits x 0 23).toNat
def fpSign (x : W32) : Bool := bit x 31
def fpIsNaN (x : W32) : Bool := fpExp x == 255 && fpFrac x != 0
def fpIsInf (x : W32) : Bool := fpExp x == 255 && fpFrac x == 0
def fpIsZero (x : W32) : Bool := fpExp x == 0
def fpInf (neg : Bool) : W32 := if neg then 0xFF800000 else 0x7F800000
def fpZero (neg : Bool) : W32 := if neg then 0x80000000 else 0

/-- The significand and exponent of a finite value: its value is `sig × 2^exp`, with sign. -/
def fpSig (x : W32) : Int :=
  if fpIsZero x then 0
  else if fpSign x then -((2 ^ 23 + fpFrac x : Nat) : Int) else ((2 ^ 23 + fpFrac x : Nat) : Int)
def fpE (x : W32) : Int := (fpExp x : Int) - 150

/-- Rounding of the magnitude `m × 2^e` (a non-zero `m`; `sticky` says that more lies below) to nearest even. A subnormal
result is flushed after rounding (R275): at its spacing only a value from 2^-126 - 2^-150 on rounds to a normal one. -/
def fpRoundMag (neg : Bool) (m : Nat) (e : Int) (sticky : Bool) : W32 :=
  let len := m.log2 + 1
  let q : Int := (len : Int) - 24
  -- bring to 24 bits
  let sig := if 0 ≤ q then m / 2 ^ q.toNat else m * 2 ^ (-q).toNat
  let rem := if 0 ≤ q then m % 2 ^ q.toNat else 0
  let half := if 0 < q then 2 ^ (q.toNat - 1) else 0
  let up := decide (0 < q) && (decide (half < rem) || (decide (rem = half) && (sticky || decide (sig % 2 = 1))))
  let sig := if up then sig + 1 else sig
  let eb : Int := e + q + 150 + (if sig = 2 ^ 24 then 1 else 0)
  let frac := if sig = 2 ^ 24 then 0 else sig - 2 ^ 23
  if 255 ≤ eb then fpInf neg
  else if e + q = -150 ∧ 2 ^ 24 - 1 ≤ sig then BitVec.ofNat 32 ((if neg then 2 ^ 31 else 0) + 2 ^ 23)
  else if eb ≤ 0 ∨ e + q ≤ -150 then fpZero neg
  else BitVec.ofNat 32 ((if neg then 2 ^ 31 else 0) + eb.toNat * 2 ^ 23 + frac)

/-- Rounding of the exact value `m × 2^e`; an exact zero takes the sign given. -/
def fpRound (m : Int) (e : Int) (zeroNeg : Bool) : W32 :=
  if m = 0 then fpZero zeroNeg else fpRoundMag (decide (m < 0)) m.natAbs e false

def fpMul (a b : W32) : W32 :=
  if fpIsNaN a || fpIsNaN b then fpNaN
  else
    let s := xor (fpSign a) (fpSign b)
    if fpIsInf a || fpIsInf b then (if fpIsZero a || fpIsZero b then fpNaN else fpInf s)
    else fpRound (fpSig a * fpSig b) (fpE a + fpE b) s

def fpNeg (a : W32) : W32 := if fpIsNaN a then fpNaN else if fpIsZero a then fpZero (!fpSign a) else a ^^^ 0x80000000
def fpAbs (a : W32) : W32 := if fpIsNaN a then fpNaN else if fpIsZero a then fpZero false else a &&& 0x7FFFFFFF

def fpAdd (a b : W32) : W32 :=
  if fpIsNaN a || fpIsNaN b then fpNaN
  else if fpIsInf a then (if fpIsInf b && (fpSign a != fpSign b) then fpNaN else fpInf (fpSign a))
  else if fpIsInf b then fpInf (fpSign b)
  else
    let e := min (fpE a) (fpE b)
    let m := fpSig a * 2 ^ (fpE a - e).toNat + fpSig b * 2 ^ (fpE b - e).toNat
    fpRound m e (fpSign a && fpSign b)

def fpSub (a b : W32) : W32 := if fpIsNaN b then fpNaN else fpAdd a (fpNeg b)

/-- A value with a subnormal read as zero, and a NaN made the one NaN. -/
def fpCanon (a : W32) : W32 := if fpIsNaN a then fpNaN else if fpIsZero a then fpZero (fpSign a) else a

/-- An order key of a value that is no NaN: both zeros are equal. -/
def fpKey (a : W32) : Int :=
  if fpIsZero a then 0 else if fpSign a then -((a &&& 0x7FFFFFFF).toNat : Int) else (a.toNat : Int)
def fpGt (a b : W32) : Bool := !fpIsNaN a && !fpIsNaN b && decide (fpKey b < fpKey a)
def fpEq (a b : W32) : Bool := !fpIsNaN a && !fpIsNaN b && decide (fpKey a = fpKey b)
def fpMax (a b : W32) : W32 := if fpIsNaN a || fpIsNaN b then fpNaN else if fpGt b a then fpCanon b else fpCanon a
def fpMin (a b : W32) : W32 := if fpIsNaN a || fpIsNaN b then fpNaN else if fpGt a b then fpCanon b else fpCanon a

/-- The reciprocal: special cases of R275, else the exact value rounded down plus the device's own offset in ULP. -/
def fpRecip (a : W32) : W32 :=
  if fpIsNaN a then fpNaN
  else if fpIsZero a then fpInf (fpSign a)
  else if fpIsInf a then fpZero (fpSign a)
  else
    let sig := 2 ^ 23 + fpFrac a
    let q := 2 ^ 47 / sig
    let e : Int := -(fpE a) - 47
    let down := fpRoundMag (fpSign a) (if q < 2 ^ 24 then q else q / 2) (if q < 2 ^ 24 then e else e + 1) false
    if fpExp down = 0 ∨ fpExp down = 255 then down
    else fpCanon (down + BitVec.ofNat 32 (Config.recipOffset a).val - 1)

/-- The integer square root by bits, from bit `k`. -/
def sqrtBits : Nat → Nat → Nat → Nat
  | 0, _, r => r
  | k + 1, n, r => sqrtBits k n (if (r + 2 ^ k) * (r + 2 ^ k) ≤ n then r + 2 ^ k else r)

/-- The reciprocal square root, as `fpRecip`. -/
def fpRsqrt (a : W32) : W32 :=
  if fpIsNaN a then fpNaN
  else if fpIsZero a then fpInf (fpSign a)
  else if fpSign a then fpNaN
  else if fpIsInf a then fpZero false
  else
    let odd := fpE a % 2 ≠ 0
    let sig := if odd then 2 * (2 ^ 23 + fpFrac a) else 2 ^ 23 + fpFrac a
    let e := if odd then fpE a - 1 else fpE a
    let r := sqrtBits 40 (2 ^ 80 / sig) 0
    let len := r.log2 + 1
    let down := fpRoundMag false (r / 2 ^ (len - 24)) (-(e / 2) - 40 + ((len - 24 : Nat) : Int)) false
    down + BitVec.ofNat 32 (Config.rsqrtOffset a).val - 1

/-- ln 2 with 160 fraction bits. -/
def ln2Fix : Int := 1013035739299659071135698605846798551586536899366

/-- The Taylor sum of e^r with 160 fraction bits: `k` terms, from term number `i` of value `term`. -/
def expTaylor : Nat → Nat → Int → Int → Int → Int
  | 0, _, _, _, acc => acc
  | k + 1, i, r, term, acc => expTaylor k (i + 1) r (fdiv (term * r) (2 ^ 160 * (i + 1))) (acc + term)

/-- e^A rounded down, for a finite A within the range: the significand of 24 bits and its exponent. -/
def expDown (a : W32) : Nat × Int :=
  let x := scalePow2 (fpSig a) (160 + fpE a)
  let n := Int.fdiv x ln2Fix
  let r := x - n * ln2Fix
  let v := expTaylor 45 0 r (2 ^ 160) 0
  let v := if v < 2 ^ 161 then v else 2 ^ 161 - 1
  ((fdiv v (2 ^ 137)).toNat, n - 23)

/-- EXP: above 88.72 the result is +infinity (R275); else the exact value rounded down plus the device's own
offset in ULP, and a subnormal result is zero. -/
def fpExpo (a : W32) : W32 :=
  if fpIsNaN a then fpNaN
  else if fpIsInf a then (if fpSign a then 0 else fpInf false)
  else if fpGt a 0x42B170A3 then fpInf false
  else if fpGt 0xC2D00000 a then 0
  else
    let d := expDown (fpCanon a)
    let down := fpRoundMag false d.1 d.2 false
    if fpExp down = 0 then 0 else fpCanon (down + BitVec.ofNat 32 (Config.expOffset (fpCanon a)).val - 1)

/-- CVT_IF: the exact product of an INT32 and an FP32, rounded once (Table 8-4). -/
def fpCvtIF (a : Int) (b : W32) : W32 :=
  if fpIsNaN b then fpNaN
  else if fpIsInf b then (if a = 0 then fpNaN else fpInf (xor (decide (a < 0)) (fpSign b)))
  else fpRound (a * fpSig b) (fpE b) (xor (decide (a < 0)) (fpSign b))

/-- An integer divided by a power of two, rounded to nearest even. -/
def rne (m : Int) (k : Nat) : Int :=
  let q := fdiv m (2 ^ k)
  let r := m - q * 2 ^ k
  if k = 0 then m
  else if r > 2 ^ (k - 1) ∨ (r = 2 ^ (k - 1) ∧ q % 2 ≠ 0) then q + 1 else q

/-- CVT_FI: rounded to nearest even, saturating as R229; NaN gives 0 (Table 8-4). -/
def fpCvtFI (a : W32) : Int × Bool :=
  if fpIsNaN a then (0, false)
  else if fpIsInf a then (if fpSign a then (-2147483647, true) else (2147483647, true))
  else
    let v := if 0 ≤ fpE a then fpSig a * 2 ^ (min (fpE a).toNat 200) else rne (fpSig a) (min (-(fpE a)).toNat 200)
    satSum v

/-- Steps 2 and 3 of R250 for an FP32 element (R278); infinities are passed as beyond every range. -/
def requantFp (v : W32) (u : Nat) (scale : W16) (rho zp : Nat) (fmt4 uns : Bool) : Int × Bool :=
  if fpIsNaN v then roundCode 0 0 zp fmt4 uns
  else
    let neg := xor (fpSign v) (bit scale 15)
    let e := (bits scale 7 8).toNat
    if fpIsInf v then
      (let r := codeRange fmt4 uns; if fpSign v then (r.1, true) else (r.2, true))
    else if e = 0 then roundCode 0 rho zp fmt4 uns
    else
      let m := (bits scale 0 7).toNat
      let z : Int := (fpSig v).natAbs * (scaleMantissa.getD (u % 16) 0) * (128 + m)
      let z := if neg then -z else z
      -- f(u) = M × 2^(-15 - u/16); OUT_SCALE = (128 + m) × 2^(E - 134)
      roundCode (requantY z (fpE v - 15 - ((u / 16 : Nat) : Int) + (e : Int) - 134)) rho zp fmt4 uns

end Sys2Proof.Machine
end

