-- ==== Sys2Proof/Machine/Operands.lean ====
section
/-!
DEFINITION. The operand forms of the block's own programs: job descriptors (Table 5-2), tile, vector and thin
task descriptors (Tables 6-3, 8-2, 8-5), transfer descriptors (Table 9-4), scratchpad windows (R223), device
addresses (R296) and a stall's regions.
-/
namespace Sys2Proof.Machine

/-! ### Tile tasks -/

/-- The fields of a tile task descriptor (Table 6-3). -/
structure TileDesc where
  op : Nat
  mode : Bool
  acc : Bool
  drain : Bool
  bank : Bool
  a4 : Bool
  aU : Bool
  b4 : Bool
  bU : Bool
  aZp : Nat
  bZp : Nat
  m : Nat
  n : Nat
  k : Nat
  accBase : Nat
  waitEv : W16
  aAddr : Nat
  aHalf : Bool
  aStride : Nat
  bAddr : Nat
  bHalf : Bool
  bStride : Nat
  outAddr : Nat
  outHalf : Bool
  outTb : Nat
  outFmt : Nat
  outDst : Bool
  outU : Bool
  outZp : Nat
  sig : Nat
  sigValid : Bool
  outStride : Nat
  scaleAddr : Nat
  scaleHalf : Bool
  outScale : W16
  foldOff : Bool
  crcOk : Bool
  reserved : Bool
  deriving DecidableEq, Repr

/-- Whether the CRC-32C at 0x3C covers bytes 0x00 to 0x3B. -/
def descCrcOk (d : List Byte) : Bool := u32 d 0x3C == crc32c (slice d 0 0x3C)

/-- The OP field by which an entry is routed (R267). -/
def entryOp (d : List Byte) : Nat := (u8 d 0).toNat % 16

/-- WAIT_EV, at the same place in every entry of a graph (R227). -/
def entryWait (d : List Byte) : W16 := u16 d 0x0E

/-- SIG_EV with SIG_VALID, at the same place in every entry of a graph (R227). -/
def entrySig (d : List Byte) : Option Nat :=
  let b := u8 d 0x26
  if bit b 4 then some (b.toNat % 16) else none

/-- The flags with the flag of an ended entry set (R303). -/
def signalEv (ev : W16) (sig : Option Nat) : W16 :=
  match sig with
  | some e => setBit ev e true
  | none => ev

/-- Reading a tile task descriptor. -/
def tileDesc (d : List Byte) : TileDesc :=
  let b0 := u8 d 0
  let b1 := u8 d 1
  let w (o : Nat) : Nat := (u32 d o).toNat
  { op := b0.toNat % 16, mode := bit b0 4, acc := bit b0 5, drain := bit b0 6, bank := bit b0 7,
    a4 := bit b1 0, aU := bit b1 1, b4 := bit b1 2, bU := bit b1 3,
    aZp := (u8 d 2).toNat, bZp := (u8 d 3).toNat, m := (u16 d 4).toNat, n := (u16 d 6).toNat,
    k := w 8 % 2 ^ 20, accBase := (u16 d 0x0C).toNat % 512, waitEv := u16 d 0x0E,
    aAddr := w 0x10 % 2 ^ 17, aHalf := bit (u32 d 0x10) 17, aStride := w 0x14 % 2 ^ 18,
    bAddr := w 0x18 % 2 ^ 17, bHalf := bit (u32 d 0x18) 17, bStride := w 0x1C % 2 ^ 18,
    outAddr := w 0x20 % 2 ^ 17, outHalf := bit (u32 d 0x20) 17, outTb := w 0x20 / 2 ^ 18 % 8,
    outFmt := (u8 d 0x24).toNat % 4, outDst := bit (u8 d 0x24) 2, outU := bit (u8 d 0x24) 3,
    outZp := (u8 d 0x25).toNat, sig := (u8 d 0x26).toNat % 16, sigValid := bit (u8 d 0x26) 4,
    outStride := w 0x28 % 2 ^ 18, scaleAddr := w 0x2C % 2 ^ 17, scaleHalf := bit (u32 d 0x2C) 17,
    outScale := u16 d 0x30, foldOff := bit (u8 d 0x34) 0, crcOk := descCrcOk d,
    reserved := decide (b1.toNat / 16 ≠ 0) || decide (w 8 / 2 ^ 20 ≠ 0) || decide ((u16 d 0x0C).toNat / 512 ≠ 0)
      || decide (w 0x10 / 2 ^ 18 ≠ 0) || decide (w 0x14 / 2 ^ 18 ≠ 0) || decide (w 0x18 / 2 ^ 18 ≠ 0)
      || decide (w 0x1C / 2 ^ 18 ≠ 0) || decide (w 0x20 / 2 ^ 21 ≠ 0) || decide ((u8 d 0x24).toNat / 16 ≠ 0)
      || decide ((u16 d 0x26).toNat / 32 ≠ 0) || decide (w 0x28 / 2 ^ 18 ≠ 0) || decide (w 0x2C / 2 ^ 18 ≠ 0)
      || decide (w 0x30 / 2 ^ 16 ≠ 0) || decide (w 0x34 / 2 ≠ 0) || decide (w 0x38 ≠ 0) }

/-- ⌈log₂ m⌉ as a power of two, up to 32. -/
def pow2Up (m : Nat) : Nat :=
  if m ≤ 1 then 1 else if m ≤ 2 then 2 else if m ≤ 4 then 4 else if m ≤ 8 then 8 else if m ≤ 16 then 16 else 32

/-- The folding of a tile task (R216). -/
def tileP (d : TileDesc) : Nat := if d.mode then 2 else 1
def tileKSteps (d : TileDesc) : Nat := ceilDiv d.k (32 * tileP d)
def tileCols (d : TileDesc) : Nat := ceilDiv d.n 32
def tileFolded (d : TileDesc) : Bool := decide (d.m ≤ 16) && !d.foldOff
def tileGroupRows (d : TileDesc) : Nat := if tileFolded d then pow2Up d.m else 32
def tileGroups (d : TileDesc) : Nat := if tileFolded d then 32 / pow2Up d.m else 1
def tileRowBlocks (d : TileDesc) : Nat := if tileFolded d then 1 else ceilDiv d.m 32
def tileT (d : TileDesc) : Nat := tileRowBlocks d * tileCols d
def tileKF (d : TileDesc) : Nat := ceilDiv (tileKSteps d) (tileGroups d)

/-- The cycle count of a tile task (Table 6-4). -/
def tileCycles (d : TileDesc) : Nat :=
  match d.op with
  | 1 => let dd := if d.drain then 32 else 0; 24 + tileT d * max (tileKF d) dd + dd
  | 2 => 24 + 32 * tileT d
  | 3 => 8 + tileT d
  | _ => 8

/-- Block sizes of A and B in bytes (R209). -/
def aBlock (d : TileDesc) : Nat := if d.mode then 1024 else if d.a4 then 512 else 1024
def bBlock (d : TileDesc) : Nat := if d.mode then 1024 else if d.b4 then 512 else 1024

/-- Bytes of an output tile (R213). -/
def outTileBytes (d : TileDesc) : Nat := if d.outFmt = 0 then 4096 else if d.outFmt = 1 then 1024 else 512

/-! ### Scratchpad windows (R222, R223) -/

/-- A stall's window on an array: its tokens in ascending order, or the reserve window. -/
structure Window where
  reserve : Bool
  toks : List Nat
  deriving DecidableEq, Repr

def windowOf (a : ArrayU) (stall : Nat) (reserve : Bool) : Window :=
  { reserve := reserve,
    toks := if reserve then []
      else (List.range 14).filter (fun t => tget none a.tokens t == some stall && !a.transit.getLsbD t) }

def winBytes (w : Window) : Nat := if w.reserve then 2 * 2 ^ 20 else w.toks.length * 2 ^ 20
def winSlots (w : Window) : Nat := if w.reserve then 64 else 32 * w.toks.length
/-- The byte of the bank at window byte `b`. -/
def winByte (w : Window) (b : Nat) : Nat :=
  if w.reserve then b else w.toks.getD (b / 2 ^ 20) 0 * 2 ^ 20 + b % 2 ^ 20
/-- The slot at number `i` of the slot window. -/
def winSlot (w : Window) (i : Nat) : Nat := if w.reserve then 448 + i else 32 * w.toks.getD (i / 32) 0 + i % 32
/-- The window byte of a 64-byte-unit offset in a half. -/
def halfByte (w : Window) (half : Bool) (off : Nat) : Nat := (if half then winBytes w / 2 else 0) + off * 64
/-- Whether `len` bytes from an offset lie within the half. -/
def inHalf (w : Window) (off len : Nat) : Bool := decide (off * 64 + len ≤ winBytes w / 2)

/-- Reading and writing a byte of a bank through a window. -/
def scrGet (a : ArrayU) (w : Window) (b : Nat) : Byte :=
  if w.reserve then tget 0 a.rsv (winByte w b) else tget 0 a.main (winByte w b)
def scrPut (a : ArrayU) (w : Window) (b : Nat) (v : Byte) : ArrayU :=
  if w.reserve then { a with rsv := tset 0 a.rsv (winByte w b) v }
  else { a with main := tset 0 a.main (winByte w b) v }
def scrRead (a : ArrayU) (w : Window) (b n : Nat) : List Byte := (List.range n).map (fun i => scrGet a w (b + i))
def scrWrite (a : ArrayU) (w : Window) (b : Nat) : List Byte → ArrayU
  | [] => a
  | v :: vs => scrWrite (scrPut a w b v) w (b + 1) vs

/-- The regions a tile task touches, as (half, offset in 64-byte units, bytes), A, B, output and scale (R225, R248). -/
def tileRegions (d : TileDesc) : List (Bool × Nat × Nat) :=
  let ks := tileKSteps d
  let elems := 32 * tileP d
  let lastK := d.k - elems * (ks - 1)
  let span (blk rows last four : Nat) : Nat :=
    -- bytes from a block's start to the last code read in it
    if rows = 0 then 0 else (rows - 1) * (blk / 32) + (if four = 1 then (last + 1) / 2 else last)
  let aR := (List.range (ceilDiv d.m 32)).flatMap (fun r => (List.range ks).map (fun j =>
    (d.aHalf, d.aAddr + r * d.aStride + j * (aBlock d / 64),
     span (aBlock d) (min 32 (d.m - 32 * r)) (if j + 1 = ks then lastK else elems) (if d.a4 then 1 else 0))))
  let bR := (List.range (tileCols d)).flatMap (fun c => (List.range ks).map (fun j =>
    (d.bHalf, d.bAddr + c * d.bStride + j * (bBlock d / 64),
     span (bBlock d) (min 32 (d.n - 32 * c)) (if j + 1 = ks then lastK else elems) (if d.b4 then 1 else 0))))
  let drains := d.op == 2 || (d.op == 1 && d.drain)
  let oR := if drains && !d.outDst then
      (List.range (ceilDiv d.m 32)).flatMap (fun r => (List.range (tileCols d)).map (fun c =>
        let rows := min 32 (d.m - 32 * r)
        let cols := min 32 (d.n - 32 * c)
        let esz := outTileBytes d / 32
        (d.outHalf, d.outAddr + r * d.outStride + c * (outTileBytes d / 64),
         (rows - 1) * esz + (if d.outFmt = 0 then 4 * cols else if d.outFmt = 1 then cols else (cols + 1) / 2))))
    else []
  let sR := if drains && d.outFmt != 0 then
      (List.range (tileCols d)).map (fun c => (d.scaleHalf, d.scaleAddr + c * d.bStride, min 32 (d.n - 32 * c)))
    else []
  (if d.op = 1 then aR ++ bR else []) ++ oR ++ sR

/-- The runs of window bytes a task reads from the bank, row by row of each block (R209, R210). -/
def tileReads (d : TileDesc) (w : Window) : List (Nat × Nat) :=
  let ks := tileKSteps d
  let e := 32 * tileP d
  let bytes (four : Bool) (j : Nat) : Nat :=
    let c := min e (d.k - e * j)
    if four then (c + 1) / 2 else c
  let aR := (List.range d.m).flatMap (fun i => (List.range ks).map (fun j =>
    (halfByte w d.aHalf (d.aAddr + i / 32 * d.aStride + j * (aBlock d / 64)) + i % 32 * (aBlock d / 32), bytes d.a4 j)))
  let bR := (List.range d.n).flatMap (fun i => (List.range ks).map (fun j =>
    (halfByte w d.bHalf (d.bAddr + i / 32 * d.bStride + j * (bBlock d / 64)) + i % 32 * (bBlock d / 32), bytes d.b4 j)))
  let drains := d.op == 2 || (d.op == 1 && d.drain)
  let sR := if drains && d.outFmt != 0 then
      (List.range (tileCols d)).map (fun c => (halfByte w d.scaleHalf (d.scaleAddr + c * d.bStride), min 32 (d.n - 32 * c)))
    else []
  (if d.op = 1 then aR ++ bR else []) ++ sR

/-- The runs of window bytes a drain writes, row by row (R213). -/
def tileWrites (d : TileDesc) (w : Window) : List (Nat × Nat) :=
  if (d.op == 2 || (d.op == 1 && d.drain)) && !d.outDst then
    (List.range d.m).flatMap (fun i => (List.range (tileCols d)).map (fun c =>
      let cols := min 32 (d.n - 32 * c)
      (halfByte w d.outHalf (d.outAddr + i / 32 * d.outStride + c * (outTileBytes d / 64)) + i % 32 * (outTileBytes d / 32),
       if d.outFmt = 0 then 4 * cols else if d.outFmt = 1 then cols else (cols + 1) / 2)))
  else []

/-- The slots of a task, by number in the store (R213). -/
def tileSlots (d : TileDesc) (w : Window) : List Nat :=
  if d.op = 0 then [] else (List.range (tileT d)).map (fun t => winSlot w (d.accBase + t))

/-- The zero-point rules of R244. -/
def tileFormatBad (d : TileDesc) : Bool :=
  (!d.aU && d.aZp != 0) || (!d.bU && d.bZp != 0)
  || (d.a4 && d.aU && decide (15 < d.aZp)) || (d.b4 && d.bU && decide (15 < d.bZp))
  || (!d.outU && d.outZp != 0) || (d.outFmt == 2 && d.outU && decide (15 < d.outZp))
  || ((d.outFmt == 1 || d.outFmt == 2) && decide (bits d.outScale 7 8 = 0xFF))

/-- The refusal code of a tile task (Table 6-8, R244), in ascending code; `none` where it runs. `hasRsv`: a
reserve context exists; `isJob`: taken from a job graph (R220). -/
def tileRefusal (d : TileDesc) (a : ArrayU) (w : Window) (isJob hasRsv : Bool) : Option Byte :=
  let noop := d.op == 0
  let matmul := d.op == 1
  let drains := d.op == 2 || (matmul && d.drain)
  if !d.crcOk then some 0x01
  else if decide (3 < d.op) || d.reserved || (d.mode && (!d.a4 || !d.b4)) || (d.outDst && d.outFmt != 0)
      || d.outFmt == 3 then some 0x02
  else if !noop && (decide (d.m = 0) || decide (16384 < d.m) || decide (d.n = 0) || decide (16384 < d.n)
      || (matmul && decide (d.k = 0)) || (isJob && decide (4096 < tileCycles d))
      || (matmul && d.acc && decide (d.accBase + tileT d ≤ winSlots w) && (tileSlots d w).any (fun sl =>
            let f := tget 0 a.fold sl
            decide (f ≠ 0) && (!tileFolded d || decide (f ≠ d.m))))) then some 0x03
  else if !noop && (tileRegions d).any (fun r => !inHalf w r.2.1 r.2.2) then some 0x04
  else if !noop && decide (winSlots w < d.accBase + tileT d) then some 0x05
  else if d.bank && !hasRsv then some 0x06
  else if drains && d.outDst && decide (5 < d.outTb + tileT d - 1) then some 0x07
  else if tileFormatBad d then some 0x08
  else none

/-! ### Vector tasks -/

/-- An operand spec (Table 8-3). -/
structure VSpec where
  tb : Nat
  rowStep : Nat
  colStep : Nat
  row0 : Nat
  col0 : Nat
  tadv : Bool
  deriving DecidableEq, Repr

def vspec (w : W16) : VSpec :=
  { tb := (bits w 0 3).toNat, rowStep := (bits w 3 1).toNat, colStep := (bits w 4 1).toNat,
    row0 := (bits w 5 5).toNat, col0 := (bits w 10 5).toNat, tadv := bit w 15 }

/-- The fields of a vector task descriptor (Table 8-2). -/
structure VecDesc where
  bank : Bool
  vop : Nat
  fp : Bool
  excl : Bool
  seg : Bool
  accum : Bool
  axis : Nat
  count : Nat
  a : VSpec
  b : VSpec
  dst : VSpec
  flagIn : Nat
  flagOut : Nat
  imm : W32
  addr : Nat
  half : Bool
  tstride : Nat
  fmt : Nat
  uns : Bool
  scaleValid : Bool
  zp : Nat
  scaleAddr : Nat
  scaleHalf : Bool
  outScale : W16
  crcOk : Bool
  reserved : Bool
  deriving DecidableEq, Repr

def vecDesc (d : List Byte) : VecDesc :=
  let b2 := u8 d 2
  let w (o : Nat) : Nat := (u32 d o).toNat
  { bank := bit (u8 d 0) 7, vop := (u8 d 1).toNat, fp := bit b2 0, excl := bit b2 1, seg := bit b2 2,
    accum := bit b2 3, axis := b2.toNat / 16 % 4, count := (u8 d 3).toNat % 8,
    a := vspec (u16 d 4), b := vspec (u16 d 6), dst := vspec (u16 d 8),
    flagIn := (u8 d 0x0A).toNat % 4, flagOut := (u8 d 0x0A).toNat / 4 % 4, imm := u32 d 0x10,
    addr := w 0x14 % 2 ^ 17, half := bit (u32 d 0x14) 17, tstride := w 0x18 % 2 ^ 18,
    fmt := (u8 d 0x1C).toNat % 4, uns := bit (u8 d 0x1C) 2, scaleValid := bit (u8 d 0x1C) 3,
    zp := (u8 d 0x1D).toNat, scaleAddr := w 0x20 % 2 ^ 17, scaleHalf := bit (u32 d 0x20) 17,
    outScale := u16 d 0x24, crcOk := descCrcOk d,
    reserved := decide ((u8 d 0).toNat / 16 % 8 ≠ 0) || decide (b2.toNat / 64 ≠ 0)
      || decide ((u8 d 3).toNat / 8 ≠ 0) || decide ((u16 d 0x0A).toNat / 16 ≠ 0) || decide (u16 d 0x0C ≠ 0)
      || decide (w 0x14 / 2 ^ 18 ≠ 0) || decide (w 0x18 / 2 ^ 18 ≠ 0) || decide ((u8 d 0x1C).toNat / 16 ≠ 0)
      || decide (u16 d 0x1E ≠ 0) || decide (w 0x20 / 2 ^ 18 ≠ 0) || decide ((u16 d 0x26).toNat / 32 ≠ 0)
      || !allZero (slice d 0x28 20) }

/-- Cost per tile and types of a vector operation (Table 8-4): INT32 allowed, FP32 allowed, cycles. -/
def vopInfo (vop : Nat) (axis : Nat) : Option (Bool × Bool × Nat) :=
  match vop with
  | 0x01 | 0x02 | 0x03 | 0x04 | 0x05 | 0x06 | 0x07 | 0x08 => some (true, true, 16)
  | 0x09 | 0x0A => some (true, false, 16)
  | 0x0B => some (true, true, 16)
  | 0x0C => some (true, true, 16)
  | 0x10 | 0x11 | 0x12 => some (false, true, 32)
  | 0x18 | 0x19 | 0x1A => some (true, true, 16)
  | 0x20 | 0x21 | 0x22 => some (true, true, 16)
  | 0x28 | 0x29 => some (true, true, if axis = 0 then 48 else 16)
  | 0x30 => some (true, true, 16)
  | 0x31 => some (true, true, 32)
  | 0x32 => some (true, true, 16)
  | 0x33 => some (true, true, 32)
  | 0x34 => some (true, true, 16)
  | 0x35 => some (true, false, 16)
  | _ => none

def isReduce (vop : Nat) : Bool := vop == 0x20 || vop == 0x21 || vop == 0x22
def isScan (vop : Nat) : Bool := vop == 0x28 || vop == 0x29
def isBinary (vop : Nat) : Bool :=
  vop == 1 || vop == 2 || vop == 3 || vop == 4 || vop == 5 || vop == 6 || vop == 0x0B || vop == 0x18 || vop == 0x19
  || vop == 0x1A
def usesA (vop : Nat) : Bool := vop != 0x32 && vop != 0x35
def writesDst (vop : Nat) : Bool := vop != 0x33 && vop != 0x18 && vop != 0x19 && vop != 0x34

/-- The bound C_V of a vector task (R279). -/
def vecCycles (d : VecDesc) : Nat :=
  match vopInfo d.vop d.axis with
  | some i => 8 + d.count * i.2.2 + (if isReduce d.vop then 8 else 0)
  | none => 8

/-- Bytes of one tile of codes or words in the scratchpad. -/
def vecTileBytes (d : VecDesc) : Nat := if d.fmt = 0 then 4096 else if d.fmt = 1 then 1024 else 512

/-- The refusal code of a vector task (Table 8-6); `none` where it runs. -/
def vecRefusal (d : VecDesc) (w : Window) (isJob hasRsv : Bool) : Option Byte :=
  let specBad (sp : VSpec) : Bool := sp.tb == 6
  let rangeBad (sp : VSpec) : Bool := sp.tb != 7 && (if sp.tadv then decide (5 < sp.tb + d.count - 1) else decide (5 < sp.tb))
  let mem := d.vop == 0x32 || d.vop == 0x33
  let typeBad : Bool := match vopInfo d.vop d.axis with
    | none => true
    | some i => if d.fp then !i.2.1 else !i.1
  if !d.crcOk then some 0x01
  else if typeBad || d.reserved || (isReduce d.vop && (d.seg || d.excl)) || specBad d.a || specBad d.b
      || specBad d.dst || (writesDst d.vop && d.dst.tb == 7) || (isScan d.vop && decide (1 < d.count) && !d.dst.tadv)
      || (mem && d.fmt == 3) || d.axis == 3 || (d.bank && !hasRsv) then some 0x02
  else if decide (d.count = 0) || decide (6 < d.count) || (isJob && decide (3200 < vecCycles d)) then some 0x03
  else if mem && ((List.range d.count).any (fun t =>
        !inHalf w (d.addr + t * d.tstride) (vecTileBytes d)
        || (d.vop == 0x33 && d.fmt != 0 && d.scaleValid && !inHalf w (d.scaleAddr + t) 32))) then some 0x04
  else if (usesA d.vop && rangeBad d.a) || (isBinary d.vop && rangeBad d.b) || (writesDst d.vop && rangeBad d.dst)
      then some 0x07
  else if mem && ((!d.uns && d.zp != 0) || (d.fmt == 2 && d.uns && decide (15 < d.zp))
      || (d.vop == 0x33 && d.fmt != 0 && decide (bits d.outScale 7 8 = 0xFF))) then some 0x08
  else none

/-! ### Thin tasks -/

/-- The fields of a thin task descriptor (Table 8-5). -/
structure ThinDesc where
  a4 : Bool
  aU : Bool
  b4 : Bool
  bU : Bool
  aZp : Nat
  bZp : Nat
  m : Nat
  n : Nat
  k : Nat
  outFmt : Nat
  outU : Bool
  gather : Bool
  outZp : Nat
  a : Nat
  w : Nat
  aStride : Nat
  outScale : W16
  out : Nat
  outStride : Nat
  stage : Nat
  crcOk : Bool
  reserved : Bool
  deriving DecidableEq, Repr

def thinDesc (d : List Byte) : ThinDesc :=
  let b1 := u8 d 1
  { a4 := bit b1 0, aU := bit b1 1, b4 := bit b1 2, bU := bit b1 3, aZp := (u8 d 2).toNat, bZp := (u8 d 3).toNat,
    m := (u8 d 4).toNat % 64, n := (u16 d 6).toNat, k := (u32 d 8).toNat % 2 ^ 20,
    outFmt := (u8 d 0x0C).toNat % 4, outU := bit (u8 d 0x0C) 2, gather := bit (u8 d 0x0C) 3,
    outZp := (u8 d 0x0D).toNat, a := (u64 d 0x10).toNat, w := (u64 d 0x18).toNat, aStride := (u32 d 0x20).toNat,
    outScale := u16 d 0x24, out := (u64 d 0x28).toNat, outStride := (u32 d 0x30).toNat,
    stage := (u32 d 0x34).toNat % 2 ^ 18, crcOk := descCrcOk d,
    reserved := decide ((u8 d 0).toNat / 16 ≠ 0) || decide (b1.toNat / 16 ≠ 0) || decide ((u16 d 4).toNat / 64 ≠ 0)
      || decide ((u32 d 8).toNat / 2 ^ 20 ≠ 0) || decide ((u8 d 0x0C).toNat / 16 ≠ 0)
      || decide ((u16 d 0x26).toNat / 32 ≠ 0) || decide ((u32 d 0x34).toNat / 2 ^ 18 ≠ 0) || decide (u32 d 0x38 ≠ 0) }

/-- The tile-task fields that give a thin task's weight package its layout and products (R282). -/
def thinMode1 (d : ThinDesc) : Bool := d.a4 && d.b4
def thinKSteps (d : ThinDesc) : Nat := ceilDiv d.k (if thinMode1 d then 64 else 32)
def thinBBlock (d : ThinDesc) : Nat := if thinMode1 d then 1024 else if d.b4 then 512 else 1024
/-- Bytes streamed (R285). -/
def thinBytes (d : ThinDesc) : Nat := ceilDiv d.n 32 * (thinKSteps d * thinBBlock d + 64)
/-- C_P for `rows` rows (R285). -/
def thinCycles (d : ThinDesc) (rows : Nat) : Nat :=
  48 + ceilDiv rows (if d.b4 then 16 else 32) * ceilDiv (thinBytes d) 256
/-- Row bytes of A, and the row-buffer bytes of R283. -/
def thinARow (d : ThinDesc) : Nat := if d.a4 then (d.k + 1) / 2 else d.k
def thinRowBuf (d : ThinDesc) (rows : Nat) : Nat := ceilDiv (rows * d.k * (if d.a4 then 4 else 8)) 8
/-- Bytes of an output row. -/
def thinOutRow (d : ThinDesc) : Nat := if d.outFmt = 0 then 4 * d.n else if d.outFmt = 1 then d.n else (d.n + 1) / 2

/-- The refusal code of a thin task (Table 8-6, R283). `inRegion a n`: within MEM_SIZE and outside the control
area and stable slots; `inOut a n`: within the job's work area. -/
def thinRefusal (d : ThinDesc) (isJob : Bool) (inRegion inOut : Nat → Nat → Bool) : Option Byte :=
  if !d.crcOk then some 0x01
  else if d.reserved || d.outFmt == 3 then some 0x02
  else if decide (d.m = 0) || decide (32 < d.m) || decide (d.n = 0) || decide (16384 < d.n) || decide (d.k = 0)
      || decide (16384 < d.k) || decide (131072 < thinRowBuf d d.m) || (isJob && decide (5120 < thinCycles d d.m))
      then some 0x03
  else if decide (d.a % 64 ≠ 0) || decide (d.w % 64 ≠ 0) || decide (d.out % 64 ≠ 0) || decide (d.aStride % 64 ≠ 0)
      || decide (d.outStride % 64 ≠ 0) || !inRegion d.w (thinBytes d)
      || (List.range d.m).any (fun i => !inRegion (d.a + i * d.aStride) (thinARow d)
            || !inOut (d.out + i * d.outStride) (thinOutRow d)) then some 0x04
  else if (!d.aU && d.aZp != 0) || (!d.bU && d.bZp != 0) || (d.a4 && d.aU && decide (15 < d.aZp))
      || (d.b4 && d.bU && decide (15 < d.bZp)) || (!d.outU && d.outZp != 0)
      || (d.outFmt == 2 && d.outU && decide (15 < d.outZp))
      || (d.outFmt != 0 && decide (bits d.outScale 7 8 = 0xFF)) then some 0x08
  else none

/-! ### Transfers -/

/-- The fields of a transfer descriptor (Table 9-4). -/
structure XferDesc where
  kind : Nat
  mcast : Bool
  fence : Bool
  bank : Bool
  noAlloc : Bool
  waitEv : W16
  sig : Option Nat
  gate : Nat
  src : Nat
  dst : Nat
  rowBytes : Nat
  rows : Nat
  srcStride : Nat
  dstStride : Nat
  hold : Nat
  crcOk : Bool
  reserved : Bool
  deriving DecidableEq, Repr

def xferDesc (d : List Byte) : XferDesc :=
  let b0 := u8 d 0
  { kind := b0.toNat % 16, mcast := bit b0 4, fence := bit b0 5, bank := bit b0 6, noAlloc := bit b0 7,
    waitEv := u16 d 2, sig := if bit (u8 d 4) 4 then some ((u8 d 4).toNat % 16) else none,
    gate := leNat (slice d 5 3), src := (u64 d 8).toNat, dst := (u64 d 0x10).toNat, rowBytes := (u32 d 0x18).toNat,
    rows := (u32 d 0x1C).toNat, srcStride := (u32 d 0x20).toNat, dstStride := (u32 d 0x24).toNat,
    hold := (u16 d 0x28).toNat, crcOk := descCrcOk d,
    reserved := u8 d 1 != 0 || decide ((u8 d 4).toNat / 32 ≠ 0) || !allZero (slice d 0x2A 18) }

/-- Whether the source and the destination of a kind are memory, or scratchpad. -/
def xferSrcMem (k : Nat) : Bool := k == 1 || k == 3 || k == 4
def xferDstMem (k : Nat) : Bool := k == 2 || k == 3
def xferSrcScr (k : Nat) : Bool := k == 2
def xferDstScr (k : Nat) : Bool := k == 1

/-- The refusal code of a transfer (Table 9-9, R302). -/
def xferRefusal (d : XferDesc) (w : Window) (inRegion inWork : Nat → Nat → Bool) : Option Byte :=
  let scrOk (f stride : Nat) (i : Nat) : Bool :=
    decide ((f % 2 ^ 17) * 64 + i * stride + d.rowBytes ≤ winBytes w / 2) && decide (f < 2 ^ 18)
  let idx := List.range (if d.rows ≤ 65536 then d.rows else 0)
  if !d.crcOk then some 0x01
  else if decide (d.kind = 0) || decide (5 < d.kind) || (d.mcast && d.kind != 1) || d.reserved then some 0x02
  else if d.kind == 5 then none
  else if decide (d.rowBytes < 64) || decide (4194304 < d.rowBytes) || decide (d.rowBytes % 64 ≠ 0)
      || decide (d.rows = 0) || decide (65536 < d.rows) || decide (d.srcStride % 64 ≠ 0)
      || decide (d.dstStride % 64 ≠ 0) || decide (16777216 < d.rowBytes * d.rows) then some 0x03
  else if (xferSrcMem d.kind && idx.any (fun i => !inRegion (d.src + i * d.srcStride) d.rowBytes))
      || (xferDstMem d.kind && idx.any (fun i => !inWork (d.dst + i * d.dstStride) d.rowBytes))
      || (xferSrcScr d.kind && idx.any (fun i => !scrOk d.src d.srcStride i))
      || (xferDstScr d.kind && idx.any (fun i => !scrOk d.dst d.dstStride i)) then some 0x04
  else none

/-! ### Job descriptors (Table 5-2) -/

structure JobDesc where
  seq : W32
  abi : W16
  overlap : Bool
  dep : Option (Nat × W32)
  irqNow : Bool
  tiles : Nat
  graph : Nat
  args : Nat
  argsLen : Nat
  workLen : Nat
  work : Nat
  commit : Nat
  user : W32
  reserved : Bool
  crcOk : Bool
  deriving DecidableEq, Repr

def jobDesc (d : List Byte) : JobDesc :=
  let f := u8 d 6
  { seq := u32 d 0, abi := u16 d 4, overlap := bit f 0,
    dep := if bit f 1 then some ((u8 d 7).toNat % 8, u32 d 8) else none, irqNow := bit f 2,
    tiles := (u32 d 0x0C).toNat, graph := (u64 d 0x10).toNat, args := (u64 d 0x18).toNat,
    argsLen := (u32 d 0x20).toNat, workLen := (u32 d 0x24).toNat, work := (u64 d 0x28).toNat,
    commit := (u64 d 0x30).toNat, user := u32 d 0x38,
    reserved := decide (f.toNat / 8 ≠ 0) || decide ((u8 d 7).toNat / 8 ≠ 0), crcOk := descCrcOk d }

/-! ### Device addresses (R296) -/

/-- The memory key of channel `c`, local offset `y`. -/
def chanKey (c y : Nat) : Nat := c * 2 ^ 30 + y

/-- The memory key of a device address. -/
def devKey (d : Nat) : Nat :=
  let x := d % 2 ^ 36
  let g := d / 2 ^ 36 % 64
  let w := d / 2 ^ 42 % 8
  chanKey (g * 2 ^ w + (x / 4096) % 2 ^ w) (x / 2 ^ (12 + w) * 4096 + x % 4096)

/-- The channel of a device address. -/
def devChan (d : Nat) : Nat := devKey d / 2 ^ 30

/-- The device address of region offset `x` of a stall (R297). -/
def regionAddr (s : State) (i x : Nat) : Nat := ((stallRec s i).map (·.memBase.toNat)).getD 0 + x

def regionSize (s : State) (i : Nat) : Nat := ((stallRec s i).map (·.memSize.toNat)).getD 0

/-- The arrays for each of which a stall has a stable slot: those it owns or may use from the pool (R341). -/
def stableArrays (s : State) (i : Nat) : List Nat :=
  (List.range 8).filter (fun n => (resRec s i).any (fun r =>
    r.arrOwn.getLsbD n || (!isPaced s i && r.arrBorrow.getLsbD n)))
def stableSlots (s : State) (i : Nat) : Nat := (stableArrays s i).length

/-- The region offset of a stall's stable slot for array `n` (R341). -/
def stableSlotAt (s : State) (i n : Nat) : Nat :=
  regionSize s i - ((stableArrays s i).takeWhile (fun m => m != n)).length * 2 ^ 24 - 2 ^ 24

/-- Whether `len` bytes at region offset `x` lie within MEM_SIZE, outside the control area (R177) and the stable
slots (R341). -/
def inRegion (s : State) (i x len : Nat) : Bool :=
  decide (8 * 2 ^ 20 ≤ x) && decide (x + len ≤ regionSize s i - stableSlots s i * 2 ^ 24)

end Sys2Proof.Machine
end

