-- ==== Sys2Proof/Machine/Matrix.lean ====
section
/-!
DEFINITION. What a tile task computes: the physical step, folding, accumulation, drain and gating (ch. 6, 7).
-/
namespace Sys2Proof.Machine

/-- The code at element `p` of a row of codes that begins at window byte `b`. -/
def codeAt (a : ArrayU) (w : Window) (b p : Nat) (four : Bool) : Nat :=
  if four then
    let v := (scrGet a w (b + p / 2)).toNat
    if p % 2 = 0 then v % 16 else v / 16
  else (scrGet a w (b + p)).toNat

/-- Operand A of row `i` at depth `kk`; 0 where padded (R209, R210). -/
def aOperand (a : ArrayU) (w : Window) (d : TileDesc) (i kk : Nat) : Int :=
  if d.m ≤ i ∨ d.k ≤ kk then 0
  else
    let e := 32 * tileP d
    let b := halfByte w d.aHalf (d.aAddr + i / 32 * d.aStride + kk / e * (aBlock d / 64)) + i % 32 * (aBlock d / 32)
    operandOf (codeAt a w b (kk % e) d.a4) d.a4 d.aU d.aZp

/-- Operand B of column `j` at depth `kk`; 0 where padded. -/
def bOperand (a : ArrayU) (w : Window) (d : TileDesc) (j kk : Nat) : Int :=
  if d.n ≤ j ∨ d.k ≤ kk then 0
  else
    let e := 32 * tileP d
    let b := halfByte w d.bHalf (d.bAddr + j / 32 * d.bStride + kk / e * (bBlock d / 64)) + j % 32 * (bBlock d / 32)
    operandOf (codeAt a w b (kk % e) d.b4) d.b4 d.bU d.bZp

/-- The sum one K step adds to element (`i`, `j`) (R205). -/
def stepSum (a : ArrayU) (w : Window) (d : TileDesc) (i j step : Nat) : Int :=
  let e := 32 * tileP d
  (List.range (min e (d.k - e * step))).foldl
    (fun s p => s + aOperand a w d i (e * step + p) * bOperand a w d j (e * step + p)) 0

/-- The saturating additions of the K steps of a group, in ascending step (R228, R229). -/
def accumulate (a : ArrayU) (w : Window) (d : TileDesc) (i j : Nat) (steps : List Nat) (start : Int) : Int × Bool :=
  steps.foldl (fun v st => let r := satSum (v.1 + stepSum a w d i j st); (r.1, v.2 || r.2)) (start, false)

/-- The K steps of group `g` (R217). -/
def groupSteps (d : TileDesc) (g : Nat) : List Nat :=
  (List.range (tileKSteps d)).filter (fun j => j % tileGroups d == g)

/-- A table without the entries of one slot. -/
def clearSlot {α : Type} (t : Table α) (slot : Nat) : Table α :=
  t.filter (fun e => e.1 / 1024 != slot)

/-- The stored element (`i`, `j`) of a slot. -/
def accGet (a : ArrayU) (slot i j : Nat) : Int := (tget 0 a.acc (slot * 1024 + 32 * i + j)).toInt

/-- One output tile of a MATMUL written into its slot (R212, R217, R228). Answers the array and whether an
addition saturated. -/
def matmulTile (a : ArrayU) (w : Window) (d : TileDesc) (t : Nat) : ArrayU × Bool :=
  let slot := winSlot w (d.accBase + t)
  let r := t / tileCols d
  let c := t % tileCols d
  let rows := min (tileGroupRows d) (d.m - 32 * r)
  let cols := min 32 (d.n - 32 * c)
  let old := a
  let a := if d.acc then a
    else { a with acc := clearSlot a.acc slot, sat := tset false a.sat slot false, fold := tset 0 a.fold slot 0 }
  let cells := (List.range (tileGroups d)).flatMap (fun g => (List.range rows).flatMap (fun i =>
    (List.range cols).map (fun j => (g, i, j))))
  let out := cells.foldl (fun (x : ArrayU × Bool) gij =>
    let g := gij.1
    let i := gij.2.1
    let j := gij.2.2
    let row := g * tileGroupRows d + i
    let start := if d.acc then accGet old slot row j else 0
    let v := accumulate old w d (32 * r + i) (32 * c + j) (groupSteps d g) start
    ({ x.1 with acc := tset 0 x.1.acc (slot * 1024 + 32 * row + j) (BitVec.ofInt 32 v.1) }, x.2 || v.2)) (a, false)
  let a := out.1
  let a := if out.2 then { a with sat := tset false a.sat slot true } else a
  ({ a with fold := if tileFolded d && !d.drain then tset 0 a.fold slot d.m else a.fold }, out.2)

/-- The element of a slot as a drain sees it: the partial sums added in ascending group (R217). Answers the value
and whether the addition saturated. -/
def drainElem (a : ArrayU) (d : TileDesc) (slot i j : Nat) : Int × Bool :=
  if tileFolded d then
    (List.range (tileGroups d)).foldl (fun v g =>
      if g = 0 then (accGet a slot i j, false)
      else let r := satSum (v.1 + accGet a slot (g * tileGroupRows d + i) j); (r.1, v.2 || r.2)) (0, false)
  else (accGet a slot i j, false)

/-- What a task puts out: the array, the tile buffers' words, the clamps counted, whether an addition saturated, and whether a
drained slot's SAT flag was set (R231). -/
structure DrainOut where
  arr : ArrayU
  tb : List (Nat × W32) := []
  clamps : Nat := 0
  sat : Bool := false
  marked : Bool := false
  deriving DecidableEq, Repr

/-- One output element drained (R213, R214, R250). -/
def drainOne (w : Window) (d : TileDesc) (seed : W64) (t slot : Nat) (o : DrainOut) (ij : Nat × Nat) : DrainOut :=
  let i := ij.1
  let j := ij.2
  let r := t / tileCols d
  let c := t % tileCols d
  let v := drainElem o.arr d slot i j
  let o := if v.2 then { o with sat := true, arr := { o.arr with sat := tset false o.arr.sat slot true } } else o
  if d.outDst then { o with tb := o.tb ++ [((d.outTb + t) * 1024 + 32 * i + j, BitVec.ofInt 32 v.1)] }
  else
    let base := halfByte w d.outHalf (d.outAddr + r * d.outStride + c * (outTileBytes d / 64))
    if d.outFmt = 0 then
      { o with arr := scrWrite o.arr w (base + (32 * i + j) * 4) (bytesOf (BitVec.ofInt 32 v.1)) }
    else
      let u := (scrGet o.arr w (halfByte w d.scaleHalf (d.scaleAddr + c * d.bStride) + j)).toNat
      let rho := rhoOf (genValue seed (drawOrd d.m d.n (32 * r + i) (32 * c + j)))
      let q := requant v.1 u d.outScale rho d.outZp (d.outFmt == 2) d.outU
      let o := if q.2 then { o with clamps := o.clamps + 1 } else o
      if d.outFmt = 1 then { o with arr := scrPut o.arr w (base + 32 * i + j) (BitVec.ofInt 8 q.1) }
      else
        let at_ := base + (32 * i + j) / 2
        let nib := BitVec.ofInt 4 q.1
        let b := if j % 2 = 0 then nib.setWidth 8
          else (scrGet o.arr w at_ &&& 0x0F) ||| (nib.setWidth 8 <<< 4)
        { o with arr := scrPut o.arr w at_ b }

/-- One output tile drained: rows in order, columns in order, real elements only (R214). -/
def drainTile (w : Window) (d : TileDesc) (seed : W64) (o : DrainOut) (t : Nat) : DrainOut :=
  let slot := winSlot w (d.accBase + t)
  let r := t / tileCols d
  let c := t % tileCols d
  let rows := min (if tileFolded d then d.m else 32) (d.m - 32 * r)
  let cols := min 32 (d.n - 32 * c)
  let o := { o with marked := o.marked || tget false o.arr.sat slot }
  let o := ((List.range rows).flatMap (fun i => (List.range cols).map (fun j => (i, j)))).foldl
    (drainOne w d seed t slot) o
  { o with arr := { o.arr with fold := tset 0 o.arr.fold slot 0 } }

/-- How many DPU-cycles of one tile are gated (R233). -/
def gatedTile (a : ArrayU) (w : Window) (d : TileDesc) (t : Nat) : Nat :=
  let e := 32 * tileP d
  let r := t / tileCols d
  let c := t % tileCols d
  let ks (step : Nat) := (List.range e).map (fun p => e * step + p)
  let rowLive (i step : Nat) : Bool := (ks step).any (fun kk => aOperand a w d i kk != 0)
  let colLive (j step : Nat) : Bool := (ks step).any (fun kk => bOperand a w d j kk != 0)
  (List.range (tileKF d * tileGroups d)).foldl (fun n step =>
    let rows := (List.range (tileGroupRows d)).countP (fun i => rowLive (32 * r + i) step)
    let cols := (List.range 32).countP (fun j => colLive (32 * c + j) step)
    n + (tileGroupRows d * 32 - rows * cols)) 0

/-- A tile task carried out whole on its array (R212). -/
def runTile (a : ArrayU) (w : Window) (d : TileDesc) (seed : W64) : DrainOut :=
  let ts := List.range (tileT d)
  let drainAll (a : ArrayU) (sat : Bool) : DrainOut := ts.foldl (drainTile w d seed) { arr := a, sat := sat }
  match d.op with
  | 1 =>
    let gated := ts.foldl (fun n t => n + gatedTile a w d t) 0
    let m := ts.foldl (fun (x : ArrayU × Bool) t => let y := matmulTile x.1 w d t; (y.1, x.2 || y.2)) (a, false)
    let a := { m.1 with gated := m.1.gated + BitVec.ofNat 64 ((m.1.gatedRem + gated) / 1024),
                        gatedRem := (m.1.gatedRem + gated) % 1024 }
    if d.drain then drainAll a m.2 else { arr := a, sat := m.2 }
  | 2 => drainAll a false
  | 3 =>
    { arr := ts.foldl (fun a t =>
        let slot := winSlot w (d.accBase + t)
        { a with acc := clearSlot a.acc slot, sat := tset false a.sat slot false, fold := tset 0 a.fold slot 0 }) a }
  | _ => { arr := a }

end Sys2Proof.Machine
end

