-- ==== Sys2Proof/Machine/Memory.lean ====
section
/-!
DEFINITION. Device memory through the last-level cache (R296, R304, R311, R312). Memory is kept coherent: the
cache holds tags, ages and dirty marks, and the bytes live in `Mem.hbm`.
-/
namespace Sys2Proof.Machine

/-- Bytes at a device address. -/
def devRead (s : State) (a n : Nat) : List Byte :=
  (List.range n).map (fun i => tget 0 s.mem.hbm (devKey (a + i)))

/-- The 32-byte blocks of `n` bytes at a device address that the bytes cover whole. -/
def wholeBlocks (a n : Nat) : List Nat :=
  let first := (a + 31) / 32
  let last := (a + n) / 32
  (List.range (last - first)).map (fun i => devKey ((first + i) * 32) / 32)

/-- Every 32-byte block that `n` bytes at a device address touch. -/
def touchedBlocks (a n : Nat) : List Nat :=
  if n = 0 then [] else (List.range ((a + n - 1) / 32 - a / 32 + 1)).map (fun i => devKey ((a / 32 + i) * 32) / 32)

/-- Bytes written at a device address, one by one. -/
def devPut (m : Table Byte) (a : Nat) : List Byte → Table Byte
  | [] => m
  | b :: bs => devPut (tset 0 m (devKey a) b) (a + 1) bs

/-- A write to memory: a block covered whole loses its poison (Table 9-5). -/
def devWrite (s : State) (a : Nat) (bs : List Byte) : State :=
  { s with mem := { s.mem with
    hbm := devPut s.mem.hbm a bs,
    poison := (wholeBlocks a bs.length).foldl (fun p b => tdel p b) s.mem.poison } }

/-- Whether a read meets a poisoned block. -/
def devPoisoned (s : State) (a n : Nat) : Bool := (touchedBlocks a n).any (fun b => tget false s.mem.poison b)

/-- The stall whose region holds a memory key (R148, R296). -/
def keyStall (s : State) (key : Nat) : Option (BitVec 4) :=
  ((List.range 16).find? (fun i => (stallRec s i).any (fun r =>
    let b := r.memBase.toNat
    let w := b / 2 ^ 42 % 8
    let c := key / 2 ^ 30
    let x := (key % 2 ^ 30 / 4096 * 2 ^ w + c % 2 ^ w) * 4096 + key % 4096
    decide (c / 2 ^ w = b / 2 ^ 36 % 64) && decide (b % 2 ^ 36 ≤ x) && decide (x < b % 2 ^ 36 + r.memSize.toNat)))).map (BitVec.ofNat 4)

/-- An uncorrectable block is poisoned, counted on its channel and recorded with the stall (Table 9-5, R320): its unit and
FDR_EVENT are the feeder's that met it (Table 17-5); else its stack's, with no source (notes/assumptions/27.md). -/
def poisonKey (s : State) (stall : Option (BitVec 4)) (key : Nat) (fdr : Option Nat := none) : State :=
  let c := key / 2 ^ 30
  let s := { s with mem := { s.mem with poison := tset false s.mem.poison (key / 32) true,
                                         ue := tmod 0 s.mem.ue c satInc } }
  report s { code := 0x100D, stall := stall, kind := if fdr.isSome then 4 else 8, unit := BitVec.ofNat 8 (fdr.getD (c / 16)),
             src := fdr.map (fun f => BitVec.ofNat 16 (0x0A00 + f)), data := [BitVec.ofNat 8 c] ++ leBytes 4 (key % 2 ^ 30 / 32) }

def poisonBlock (s : State) (i : Nat) (a : Nat) (fdr : Option Nat := none) : State :=
  poisonKey s (some (BitVec.ofNat 4 i)) (devKey a) fdr

/-- A corrected error of memory is counted on its channel and recorded (Table 9-5, R317). -/
def correctedKey (s : State) (key : Nat) : State :=
  let c := key / 2 ^ 30
  corrected { s with mem := { s.mem with ce := tmod 0 s.mem.ce c satInc } } 8 (c / 16) (BitVec.ofNat 32 (key % 2 ^ 30 / 8))

/-- What a stall's reads of memory blocks met (Table 9-5): a corrected block, or one that is poisoned now. -/
def memMet (s : State) (i : Nat) (mem : MemRead) (blocks : List Nat) : State :=
  match mem with
  | .clean => s
  | .corrected b => if blocks.contains b.toNat then correctedKey s (32 * b.toNat) else s
  | .bad b => if blocks.contains b.toNat then poisonKey s (some (BitVec.ofNat 4 i)) (32 * b.toNat) else s

/-- An uncorrectable error found in the accepted image slot (1) or the segment store (2): the loader fault; the next warm
reset leaves the device EMPTY (R131). -/
def slotDamaged (s : State) (which : BitVec 2) : State :=
  if (which = 1 ∨ which = 2) ∧ s.accepted = true then
    report { s with loader := { s.loader with damaged := true } } { code := 0x5002, data := [which.setWidth 8] }
  else s

/-- What a memory key of the loader region holds (R121, R298): 1 the accepted image slot, 2 the segment store with a
segment in it, 0 anything else. -/
def loaderPart (s : State) (key : Nat) : BitVec 2 :=
  let c := key / 2 ^ 30
  let x := (key % 2 ^ 30 / 4096 * 16 + c) * 4096 + key % 4096
  let at_ := x - 16352 * 2 ^ 20
  if 16 ≤ c ∨ x < 16352 * 2 ^ 20 then 0
  else if at_ < 24 * 2 ^ 20 then (if decide (12 * 2 ^ 20 ≤ at_) = s.loader.slot then 1 else 0)
  else if at_ < 28 * 2 ^ 20 ∧ s.loader.segs ≠ [] then 2 else 0

/-- Whether the stack of a device address has failed. -/
def devFailed (s : State) (a : Nat) : Bool := (getStack s (devChan a / 16)).failed

/-! ### The cache's tags (R312) -/

/-- The line number of a memory key. -/
def lineOf (key : Nat) : Nat := key / 128
def setOf (line : Nat) : Nat := (Config.cacheSet (line / 2 ^ 23) (line % 2 ^ 23)).val

/-- The ways in which a stall allocates. -/
def stallWays (s : State) (i : Nat) : List Nat := setBits (((memRec s i).map (·.ways)).getD 0)

/-- A line allocated in one of the ways: a free way of its set, else that of the oldest line of these ways in the
set. The list is in order of use, the most recent first. -/
def cacheAlloc (cs : List CacheLine) (line : Nat) (ways : List Nat) (dirty : Bool) : List CacheLine :=
  let set := setOf line
  let used := cs.filter (fun l => l.set == set)
  match ways.find? (fun w => !used.any (fun l => l.way == w)) with
  | some w => { line := line, set := set, way := w, dirty := dirty } :: cs
  | none =>
    match (used.filter (fun l => ways.contains l.way)).getLast? with
    | some v => { line := line, set := set, way := v.way, dirty := dirty } :: cs.filter (fun l => l.line != v.line)
    | none => cs

/-- One access of a stall to a line: a hit moves it to the front, a miss allocates unless NO_ALLOC. Answers the
cache and whether it hit. -/
def cacheTouch (cs : List CacheLine) (line : Nat) (ways : List Nat) (write alloc : Bool) : List CacheLine × Bool :=
  match cs.find? (fun l => l.line == line) with
  | some l => ({ l with dirty := l.dirty || write } :: cs.filter (fun l' => l'.line != line), true)
  | none => (if alloc then cacheAlloc cs line ways write else cs, false)

/-- The lines that `n` bytes at a device address touch. -/
def touchedLines (a n : Nat) : List Nat :=
  if n = 0 then [] else (List.range ((a + n - 1) / 128 - a / 128 + 1)).map (fun i => lineOf (devKey ((a / 128 + i) * 128)))

/-- An access of a stall to `n` bytes, counted in its hit and miss counters (R316). -/
def cacheAccess (s : State) (i : Nat) (a n : Nat) (write alloc : Bool) : State :=
  let ways := stallWays s i
  (touchedLines a n).foldl (fun s l =>
    let r := cacheTouch s.mem.cache l ways write alloc
    let s := { s with mem := { s.mem with cache := r.1 } }
    modStall s i (fun st => if r.2 then { st with llcHit := st.llcHit + 1 } else { st with llcMiss := st.llcMiss + 1 })) s

/-- The lines of a stall's region. -/
def lineInRegion (s : State) (i : Nat) (l : CacheLine) : Bool := keyStall s (128 * l.line) == some (BitVec.ofNat 4 i)

/-- A stall's dirty lines are written back, then its lines invalidated (R159 step 3, R319). -/
def cacheFlushStall (s : State) (i : Nat) : State :=
  { s with mem := { s.mem with cache := s.mem.cache.filter (fun l => !lineInRegion s i l) } }

/-- Every line written back and invalidated (R321). -/
def cacheFlush (s : State) : State := { s with mem := { s.mem with cache := [] } }

/-! ### A stall's region -/

/-- Reading region bytes for a stall's task, transfer or path: through the cache. -/
def regionRead (s : State) (i x n : Nat) : List Byte := devRead s (regionAddr s i x) n

/-- A stall's write to its region: cache, memory and the byte counter. -/
def regionWrite (s : State) (i x : Nat) (bs : List Byte) (alloc : Bool) : State :=
  let s := cacheAccess s i (regionAddr s i x) bs.length true alloc
  devWrite s (regionAddr s i x) bs

/-- A read of a stall accounted in the cache's counters. -/
def regionTouch (s : State) (i x n : Nat) (alloc : Bool) : State := cacheAccess s i (regionAddr s i x) n false alloc

/-- Whether a read of region bytes fails: poison, or a failed stack (Table 9-5). -/
def regionBad (s : State) (i x n : Nat) : Bool :=
  devPoisoned s (regionAddr s i x) n || (List.range (ceilDiv n 4096 + 1)).any (fun j =>
    devFailed s (regionAddr s i (x + min (j * 4096) (n - 1))))

end Sys2Proof.Machine
end

