-- ==== Sys2Proof/Machine/Thin.lean ====
section
/-!
DEFINITION. What a thin task computes: from memory for a job (R281, R282, R284, R288), with A and OUT in the reserve
bank for a network (R419).
-/
namespace Sys2Proof.Machine

/-- A byte of a stall's region. -/
def regionByte (s : State) (i x : Nat) : Byte := tget 0 s.mem.hbm (devKey (regionAddr s i x))

/-- The code number `p` of a row that begins at offset `x` of a space. -/
def rowCode (rd : Nat → Byte) (x p : Nat) (four : Bool) : Nat :=
  if four then (let v := (rd (x + p / 2)).toNat; if p % 2 = 0 then v % 16 else v / 16)
  else (rd (x + p)).toNat

/-- Where column block `c`'s blocks begin in the weight package (R249). -/
def thinBlockAt (d : ThinDesc) (c : Nat) : Nat := d.w + c * (thinKSteps d * thinBBlock d + 64)

/-- The 32-bit sum of output element (`r`, `j`) (R284): A from `ra`, W from `rw`. -/
def thinSum (ra rw : Nat → Byte) (d : ThinDesc) (r j : Nat) : Int :=
  let e := if thinMode1 d then 64 else 32
  (List.range d.k).foldl (fun acc kk =>
    let a := operandOf (rowCode ra (d.a + r * d.aStride) kk d.a4) d.a4 d.aU d.aZp
    let at_ := thinBlockAt d (j / 32) + kk / e * thinBBlock d + j % 32 * (thinBBlock d / 32)
    let b := operandOf (rowCode rw at_ (kk % e) d.b4) d.b4 d.bU d.bZp
    acc + a * b) 0

/-- The output code of an element with its column's scale code (R284). -/
def thinCode (ra rw : Nat → Byte) (d : ThinDesc) (seed : W64) (r j : Nat) : Int × Bool :=
  let seg := thinBlockAt d (j / 32) + thinKSteps d * thinBBlock d
  let u := rowCode rw seg (j % 32) false
  requant (thinSum ra rw d r j) u d.outScale (rhoOf (genValue seed (drawOrd d.m d.n r j))) d.outZp (d.outFmt == 2) d.outU

/-- The bytes of output row `r`, and how many elements were clamped (R282). -/
def thinRow (ra rw : Nat → Byte) (d : ThinDesc) (seed : W64) (r : Nat) : List Byte × Nat :=
  match d.outFmt with
  | 0 => ((List.range d.n).flatMap (fun j => bytesOf (BitVec.ofInt 32 (thinSum ra rw d r j))), 0)
  | 1 =>
    let cs := (List.range d.n).map (thinCode ra rw d seed r)
    (cs.map (fun c => BitVec.ofInt 8 c.1), cs.countP (·.2))
  | _ =>
    let cs := (List.range d.n).map (thinCode ra rw d seed r)
    ((List.range ((d.n + 1) / 2)).map (fun p =>
      let lo : BitVec 4 := BitVec.ofInt 4 (cs.getD (2 * p) (0, false)).1
      let hi : BitVec 4 := if 2 * p + 1 < d.n then BitVec.ofInt 4 (cs.getD (2 * p + 1) (0, false)).1 else 0
      hi ++ lo), cs.countP (·.2))

/-- A job contributor's output rows written to its OUT (R287, R288). -/
def thinWrite (s : State) (i : Nat) (d : ThinDesc) (seed : W64) : State :=
  (List.range d.m).foldl (fun t r => regionWrite t i (d.out + r * d.outStride)
    (thinRow (regionByte s i) (regionByte s i) d seed r).1 true) s

/-- A write of bytes to a reserve bank: words covered whole lose their error (R240). -/
def rsvWrite (a : ArrayU) (off : Nat) (bs : List Byte) : ArrayU :=
  { a with rsv := mwrite a.rsv off bs,
           ueRsv := a.ueRsv.filter (fun w => !(decide (off ≤ 8 * w) && decide (8 * w + 8 ≤ off + bs.length))) }

/-- A network thin task's output rows written into the reserve bank of array `n` (R419). -/
def thinWriteNet (s : State) (i n : Nat) (d : ThinDesc) (seed : W64) : State :=
  let bank := (getArr s n).rsv
  let rows := (List.range d.m).map (fun r => (d.out + r * d.outStride,
    (thinRow (fun x => tget 0 bank x) (regionByte s i) d seed r).1))
  modArr s n (fun a => rows.foldl (fun a x => rsvWrite a x.1 x.2) a)

/-- Whether a thin task's reads from memory fail (R293, Table 9-5). -/
def thinBad (s : State) (i : Nat) (d : ThinDesc) (net : Bool) : Bool :=
  regionBad s i d.w (thinBytes d)
    || (!net && (List.range d.m).any (fun r => regionBad s i (d.a + r * d.aStride) (thinARow d)))

/-! ### Array form (R287) -/

/-- The MATMUL task of one column block of a batch in array form, its rows and weights staged (R287, R216). -/
def batchTile (d : ThinDesc) (rows c : Nat) : TileDesc :=
  let base := tileDesc []
  { base with
    op := 1, mode := thinMode1 d, drain := true, a4 := d.a4, aU := d.aU, b4 := d.b4, bU := d.bU, aZp := d.aZp, bZp := d.bZp,
    m := rows, n := min 32 (d.n - 32 * c), k := d.k, outFmt := d.outFmt, outU := d.outU, outZp := d.outZp,
    outScale := d.outScale, bAddr := 65536 }
/-- The cycles of a batch's MATMUL tasks, one per column block (R218). -/
def batchCycles (d : ThinDesc) (rows : Nat) : Nat :=
  ((List.range (ceilDiv d.n 32)).map (fun c => tileCycles (batchTile d rows c))).sum

end Sys2Proof.Machine
end

