-- ==== Sys2Proof/Machine/Runs.lean ====
section
/-!
DEFINITION. Runs of accepted jobs and of network invocations: whose they are, their graph entries and transfers, and which
entry is next and eligible (R227, R301, R303, R305).
-/
namespace Sys2Proof.Machine

/-! ### Owners and runs -/

/-- The stall an owner's work runs for. -/
def ownerStall (s : State) : Owner → Nat
  | .job i _ _ => i
  | .net c => (carrierStall s c).getD 0

/-- The owner a command's work operand names. -/
def workOwner : Work → Owner
  | .job i q seq => .job i.val q.val seq
  | .net c => .net c.val

def isRun (q : Nat) (seq : W32) (r : Run) : Bool := r.queue == q && r.seq == seq

/-- The run of an owner. -/
def getRun (s : State) : Owner → Option Run
  | .job i q seq => (getStall s i).runs.find? (isRun q seq)
  | .net c => (getCarrier s c).inv.map (·.run)

/-- A change of an owner's run. -/
def modRun (s : State) (o : Owner) (f : Run → Run) : State :=
  match o with
  | .job i q seq => modStall s i (fun st => { st with runs := st.runs.map (fun r => if isRun q seq r then f r else r) })
  | .net c => modCarrier s c (fun ca => { ca with inv := ca.inv.map (fun v => { v with run := f v.run }) })

/-- A job's run is forgotten. -/
def dropRun (s : State) (i q : Nat) (seq : W32) : State :=
  modStall s i (fun st => { st with runs := st.runs.filter (fun r => !isRun q seq r) })

/-- The journal entry of a job. -/
def jobEntry (s : State) (i q : Nat) (seq : W32) : Option JEntry :=
  match tget none (getQueue (getStall s i) q).journal (seq.toNat % 2 ^ depthLog2 s i) with
  | some e => if e.seq = seq then some e else none
  | none => none

/-- The descriptor of an accepted job. -/
def jobOf (s : State) (i q : Nat) (seq : W32) : Option JobDesc := (jobEntry s i q seq).map (fun e => jobDesc e.desc)

def setEntry (s : State) (i q : Nat) (seq : W32) (f : JEntry → JEntry) : State :=
  modStall s i (fun st => modEntry st q seq (depthLog2 s i) f)

/-- The network of an invocation. -/
def netOf (s : State) (n : Nat) : Option NetCfg := s.hns.nets.find? (fun r => r.net == n)

/-- How many entries the owner's graph has. -/
def graphLen (s : State) : Owner → Nat
  | .job i q seq => ((jobOf s i q seq).map (·.tiles)).getD 0
  | .net c => (((getCarrier s c).inv.bind (fun v => netOf s v.net)).map (·.tasks.length)).getD 0

/-- Entry `t` of the owner's graph (R211, R267, R418); nothing where memory cannot give it (Table 9-5). -/
def graphEntry (s : State) (o : Owner) (t : Nat) : List Byte :=
  match o with
  | .job i q seq => match jobOf s i q seq with
    | some d => if regionBad s i (d.graph + 64 * t) 64 then [] else regionRead s i (d.graph + 64 * t) 64
    | none => []
  | .net c => (((getCarrier s c).inv.bind (fun v => netOf s v.net)).map (fun n => n.tasks.getD t [])).getD []

/-- The transfers of a job's argument block (R301); one that cannot be read where memory does not give their number. -/
def xferCount (s : State) : Owner → Nat
  | .job i q seq => match jobOf s i q seq with
    | some d => if d.argsLen = 0 then 0 else if regionBad s i d.args 8 then 1 else leNat (regionRead s i d.args 4)
    | none => 0
  | .net _ => 0

/-- Whether the list reaches beyond ARGS_LEN, or COUNT beyond 65,536 (R301). -/
def xferListBad (s : State) : Owner → Bool
  | .job i q seq => match jobOf s i q seq with
    | some d => decide (d.argsLen ≠ 0) && !regionBad s i d.args 8 && (decide (d.argsLen < 8 + 64 * xferCount s (.job i q seq))
        || decide (65536 < xferCount s (.job i q seq)))
    | none => false
  | .net _ => false

/-- Descriptor `j` of that list; nothing where memory cannot give it (Table 9-5). -/
def xferEntry (s : State) (o : Owner) (j : Nat) : List Byte :=
  match o with
  | .job i q seq => match jobOf s i q seq with
    | some d => if regionBad s i d.args 8 || regionBad s i (d.args + 8 + 64 * j) 64 then []
      else regionRead s i (d.args + 8 + 64 * j) 64
    | none => []
  | .net _ => []

/-! ### Event sets (R303) -/

def evKey (o : Owner) (r : Run) : Nat := match o with | .job .. => r.evSet | .net _ => 15
def evGet (s : State) (n set : Nat) : W16 := tget 0 (getArr s n).events set
def evMod (s : State) (n set : Nat) (f : W16 → W16) : State :=
  modArr s n (fun a => { a with events := tmod 0 a.events set f })

/-! ### Eligibility -/

/-- Whether a stall's work is dispatched (Table 4-7); a trip stops it (R595). -/
def stallRuns (s : State) (i : Nat) : Bool :=
  match (getStall s i).state with
  | .active => !s.power.tripped
  | .held => !s.power.tripped
  | _ => false

/-- Whether a transfer has ended. -/
def xferEnded (r : Run) (j : Nat) : Bool := decide (j < r.nextXfer) && !r.runningX.contains j

/-- Whether a graph entry below `t` has not ended. -/
def openBelow (r : Run) (t : Nat) : Bool := decide (r.nextTile < t) || r.running.any (fun x => decide (x < t))

/-- Whether an unended layer fence holds entry `t` (R305). -/
def fenceHolds (s : State) (o : Owner) (r : Run) (t : Nat) : Bool :=
  (List.range (xferCount s o)).any (fun j => !xferEnded r j &&
    (let x := xferDesc (xferEntry s o j); x.fence && decide (x.gate ≤ t)))

/-- The state of a job's commit as others see it: still to commit, or the status it committed with. -/
def committedStatus (s : State) (i q : Nat) (seq : W32) : Option W16 :=
  match jobEntry s i q seq with
  | some e => match e.state with
    | .accepted => none
    | .running => none
    | .committing => none
    | _ => some e.status
  | none => if laterThan seq (getQueue (getStall s i) q).ahead then none else some 0

/-- Whether the start conditions of R176 hold: dependency committed, and predecessor committed without OVERLAP. -/
def mayStart (s : State) (i q : Nat) (seq : W32) (d : JobDesc) : Bool :=
  (match d.dep with
   | some (dq, ds) => (committedStatus s i dq ds).isSome
   | none => true)
  && (d.overlap || (committedStatus s i q (seq - 1)).isSome)

/-- Whether the job's dependency committed with a failure (Table 5-10). -/
def depFailed (s : State) (i : Nat) (d : JobDesc) : Bool :=
  match d.dep with
  | some (dq, ds) => (committedStatus s i dq ds).any (fun st => st != 0)
  | none => false

/-- The next graph entry of an owner's run, where it is eligible (R227, R303, R305). -/
def nextEntry (s : State) (o : Owner) : Option (Run × List Byte) :=
  match getRun s o with
  | none => none
  | some r =>
    match r.array with
    | none => none
    | some n =>
      let d := graphEntry s o r.nextTile
      let starts : Bool := match o with
        | .job i q seq => ((jobOf s i q seq).map (fun j => mayStart s i q seq j && !depFailed s i j)).getD false
        | .net _ => true
      if stallRuns s (ownerStall s o) && r.fail.isNone && !r.committing && !r.stabled
          && decide (r.nextTile < graphLen s o) && starts
          && decide (evGet s n (evKey o r) &&& entryWait d = entryWait d)
          && !fenceHolds s o r r.nextTile
      then some (r, d) else none

/-- Kinds of graph entry (R267). -/
def opIsTile (op : Nat) : Bool := decide (op ≤ 3)
def opIsVec (op : Nat) : Bool := op == 8
def opIsThin (op : Nat) : Bool := op == 9

/-- Whether a stall has a run on array `n` with an eligible entry of a kind. -/
def hasEligible (s : State) (i n : Nat) (p : List Byte → Bool) : Bool :=
  (getStall s i).runs.any (fun r => r.array == some n &&
    (match nextEntry s (.job i r.queue r.seq) with
     | some x => p x.2
     | none => false))

/-- Whether array `n` has an eligible entry of the reserve context: of an invocation, or of a job of the stall that owns
the context (R326, R335). -/
def hasReserve (s : State) (n : Nat) : Bool :=
  (match (getArr s n).rsvStall with
   | some i => hasEligible s i n (fun d => bit (u8 d 0) 7 && !opIsThin (entryOp d))
   | none => false) ||
  (List.range 8).any (fun c => match (getCarrier s c).inv with
    | some v => v.array == n && (nextEntry s (.net c)).isSome
    | none => false)

end Sys2Proof.Machine
end

