-- ==== Sys2Proof/Machine/Service.lean ====
section
/-!
DEFINITION. The order in which units serve stalls (R323 to R326): the units' clocks, the gatherer (R286), what waits for arrays,
paths and feeders, whose turn it is, and the backlog of R330.
-/
namespace Sys2Proof.Machine

/-! ### Frequencies -/

/-- A unit's clock in MHz: the field in units of 50 MHz, the harness target where no level has changed it. -/
def unitMHz {w : Nat} (s : State) (domain unit max : Nat) (f : BitVec w) : Nat :=
  if f = 0 then clockTarget s domain unit max else f.toNat * 50

def arrMHz (s : State) (n : Nat) : Nat := unitMHz s 1 n 1250 (getArr s n).freq
def vecMHz (s : State) (n : Nat) : Nat := unitMHz s 2 n 1000 (getVec s n).freq
def mvpMHz (s : State) (m : Nat) : Nat := unitMHz s 3 m 1600 (getPath s m).freq
def pcrMHz (s : State) (c : Nat) : Nat := unitMHz s 4 c 1200 (getCluster s c).freq
def decMHz (s : State) (g : Nat) : Nat := clockTarget s 5 g 900
def nocMHz (s : State) : Nat := clockTarget s 6 0 1500

/-! ### The gatherer (R286, R287) -/

/-- Whether a path of a stall is in service. -/
def anyPath (s : State) (i : Nat) : Bool := (List.range 4).any (fun m => mayUseMvp s i m && !(getPath s m).out)

/-- A stall's THIN_ROWS (Table 3-4). -/
def thinRowsOf (s : State) (i : Nat) : Nat := ((stallRec s i).map (·.thinRows)).getD 0

/-- Whether a thin task or batch of `rows` rows runs on a path, by the THIN_ROWS that governs it (R287, R291). -/
def routesPath (s : State) (i thinRows rows : Nat) : Bool :=
  isPaced s i || (decide (rows < thinRows) && (stallRec s i).any (·.mvpAllowed) && anyPath s i)

/-- Whether a thin task enters its stall's gatherer (R286). -/
def gathers (s : State) (i : Nat) (d : ThinDesc) : Bool :=
  d.gather && !isPaced s i && (stallRec s i).any (fun r => decide (r.gatherWindow ≠ 0))

/-- Whether two thin tasks have equal gather keys. -/
def sameKey (x y : List Byte) : Bool :=
  let a := thinDesc x
  let b := thinDesc y
  a.w == b.w && a.n == b.n && a.k == b.k && u32 x 0x34 == u32 y 0x34 && slice x 1 3 == slice y 1 3
    && a.outFmt == b.outFmt && a.outU == b.outU && a.outZp == b.outZp && a.outScale == b.outScale

def batchRows (b : List GatherTask) : Nat := (b.map (fun g => (thinDesc g.desc).m)).sum

/-- A batch closes under a THIN_ROWS, and is counted (R289). -/
def closeBatch (thinRows : Nat) (st : Stall) (b : List GatherTask) : Stall :=
  { st with closedBatches := st.closedBatches ++ [{ tasks := b, thinRows := thinRows }], gthBatch := st.gthBatch + 1,
            gthRows := st.gthRows + BitVec.ofNat 64 (batchRows b) }

/-- A contributor joins the open batch of its key, or closes it and opens the next; 32 rows close a batch. -/
def joinBatch (thinRows : Nat) (st : Stall) (g : GatherTask) : Stall :=
  let d := thinDesc g.desc
  let here (b : List GatherTask) : Bool := b.any (fun x => sameKey x.desc g.desc)
  let open_ (st : Stall) (b : List GatherTask) : Stall :=
    if 32 ≤ batchRows b then closeBatch thinRows st b else { st with openBatches := st.openBatches ++ [b] }
  match st.openBatches.find? here with
  | none => open_ st [g]
  | some b =>
    let st := { st with openBatches := st.openBatches.erase b }
    if batchRows b + d.m ≤ 32 ∧ thinRowBuf d (batchRows b + d.m) ≤ 131072 then open_ st (b ++ [g])
    else open_ (closeBatch thinRows st b) [g]

/-- The order of contributors (R286): when they became ready, then queue, SEQ and tile. -/
def gatherBefore (x y : GatherTask) : Bool :=
  decide (x.ready < y.ready) || (decide (x.ready = y.ready) && (decide (x.queue < y.queue) || (decide (x.queue = y.queue)
    && (laterThan y.seq x.seq || (decide (x.seq = y.seq) && decide (x.tile < y.tile))))))

/-- A contributor put into its place in a list in that order. -/
def gatherInsert (g : GatherTask) : List GatherTask → List GatherTask
  | [] => [g]
  | x :: xs => if gatherBefore g x then g :: x :: xs else x :: gatherInsert g xs

/-- Contributors of one key re-enter the gatherer with their original ready times, in order with those of the open batch
(R291). -/
def reenter (thinRows : Nat) (st : Stall) (gs : List GatherTask) : Stall :=
  match gs with
  | [] => st
  | g :: _ =>
    let mine := (st.openBatches.find? (fun b => b.any (fun x => sameKey x.desc g.desc))).getD []
    ((mine ++ gs).foldl (fun l x => gatherInsert x l) []).foldl (joinBatch thinRows) { st with openBatches := st.openBatches.erase mine }

/-- The gather window in ticks (R286). -/
def gatherTicks (s : State) (i : Nat) : Nat := ceilDiv (((stallRec s i).map (·.gatherWindow)).getD 0 * 12288) 100

/-- Batches whose window has passed since their first contributor was ready close; `all`: every open one does. -/
def expireBatches (s : State) (i : Nat) (all : Bool) : State :=
  let t := gatherTicks s i
  let due (b : List GatherTask) : Bool := all || b.any (fun g => decide (g.ready + t ≤ s.now))
  let bs := (getStall s i).openBatches.filter (fun b => !b.isEmpty)
  modStall s i (fun st => (bs.filter due).foldl (closeBatch (thinRowsOf s i)) { st with openBatches := bs.filter (fun b => !due b) })

/-- The rows a batch's contributors bring. -/
def contribRows (cs : List Contrib) : Nat := (cs.map (fun c => (thinDesc c.desc).m)).sum

def toContrib (i : Nat) (g : GatherTask) : Contrib :=
  { owner := .job i g.queue g.seq, stall := i, tile := g.tile, desc := g.desc, seed := jobSeed i g.queue g.seq g.tile, ready := g.ready }

/-- The closed batch whose first contributor is a job's task. -/
def batchOf (s : State) (i q : Nat) (seq : W32) : Option Batch :=
  (getStall s i).closedBatches.find? (fun b => match b.tasks.head? with
    | some g => g.queue == q && g.seq == seq
    | none => false)

def dropBatch (s : State) (i : Nat) (b : Batch) : State :=
  modStall s i (fun st => { st with closedBatches := st.closedBatches.erase b })

/-- The closed batches of a stall that may start on a path, or those in array form (R287); none while G0 restarts (Table 16-2). -/
def batchesFor (s : State) (i : Nat) (path : Bool) : List Batch :=
  if !groomUp s 0 then [] else (getStall s i).closedBatches.filter (fun b => !b.tasks.isEmpty && routesPath s i b.thinRows (batchRows b.tasks) == path)

/-- Whether an eligible thin entry is one that does not gather, and runs on a path or in array form. -/
def thinFor (s : State) (i : Nat) (path : Bool) (d : List Byte) : Bool :=
  opIsThin (entryOp d) && !gathers s i (thinDesc d) && routesPath s i (thinRowsOf s i) (thinDesc d).m == path

/-- Cycles from dispatch to end: the bound of R285, with the row reads of R419, or more where memory is waited for. -/
def thinTaskCycles (cs : List Contrib) (cycles : Nat) : Nat :=
  match cs with
  | [] => cycles
  | c :: _ =>
    let d := thinDesc c.desc
    let extra := match c.owner with
      | .net _ => ceilDiv (d.m * d.k * (if d.a4 then 4 else 8)) 2048
      | _ => 0
    max cycles (thinCycles d (contribRows cs) + extra)

/-- A charge divided among contributors by their rows, the remainder to the first (R288). -/
def chargeContribs (s : State) (cs : List Contrib) (k : ChargeKind) (pool : Bool) (ns : Nat) : State :=
  let total := max 1 (contribRows cs)
  let part (c : Contrib) : Nat := ns * (thinDesc c.desc).m / total
  let left := ns - (cs.map part).sum
  (cs.zipIdx.foldl (fun s x => charge s x.1.stall x.1.owner k pool (part x.1 + (if x.2 = 0 then left else 0))) s)

/-! ### Arrays (R323, R330) -/

def poolArr (s : State) (n : Nat) : Bool := (arrOwner s n).isNone
def poolMvp (s : State) (m : Nat) : Bool := (mvpOwner s m).isNone

/-- The stall served next among candidates (R323, R330): the PACED one, the owner, else the one of least virtual time, ties to
the lowest number. -/
def servedFirst (s : State) (owner : Option Nat) (v : Stall → W64) (cands : List Nat) : Option Nat :=
  match cands.find? (isPaced s) with
  | some i => some i
  | none => match cands.find? (fun i => decide (owner = some i)) with
    | some i => some i
    | none => cands.foldl (fun best i => match best with
        | none => some i
        | some b => if laterThan (v (getStall s b)) (v (getStall s i)) then some i else some b) none

/-- Whether a stall holds a main window on an array it may use. -/
def hasWindowOn (s : State) (i n : Nat) : Bool := mayUseArr s i n && !(windowOf (getArr s n) i false).toks.isEmpty

/-- Whether a stall has work for an array's main context: a tile task, a thin task in array form, or a batch in array form. -/
def arrayWork (s : State) (i n : Nat) : Bool :=
  hasEligible s i n (fun d => (opIsTile (entryOp d) && !bit (u8 d 0) 7) || thinFor s i false d)
    || (stallRuns s i && hasWindowOn s i n && !(batchesFor s i false).isEmpty)

/-- The stall served next on an array's main context, and on its vector engine. -/
def pickArr (s : State) (n : Nat) : Option Nat :=
  servedFirst s (arrOwner s n) (·.va) ((List.range 16).filter (fun i => arrayWork s i n))
def pickVec (s : State) (n : Nat) : Option Nat :=
  servedFirst s (arrOwner s n) (·.va) ((List.range 16).filter (fun i =>
    hasEligible s i n (fun d => opIsVec (entryOp d) && !bit (u8 d 0) 7)))

/-! ### Paths (R323, R326, R419) -/

/-- The lowest path of a carrier's MVP_MASK that is in service (R419). -/
def carrierPath (s : State) (c : Nat) : Option Nat :=
  match carrierCfg s c with
  | none => none
  | some r => (List.range 4).find? (fun m => r.mvpMask.getLsbD m && !(getPath s m).out)

/-- When the slot of a carrier's invocation ended. -/
def invSlotEnd (s : State) (c : Nat) : Nat :=
  match (getCarrier s c).inv with
  | none => 0
  | some v => (((getCarrier s c).slots.find? (isSlot v.frame v.slot)).map (·.lastSample.toNat)).getD 0

/-- The carrier whose invocation's thin task goes next on a path: that of the slot that ended first, ties to the lower carrier
(R326, R420). -/
def netNext (s : State) (m : Nat) : Option Nat :=
  ((List.range 8).filter (fun c => decide (carrierPath s c = some m) && (nextEntry s (.net c)).any (fun x => opIsThin (entryOp x.2)))).foldl
    (fun best c => match best with
      | none => some c
      | some b => if invSlotEnd s c < invSlotEnd s b then some c else some b) none

/-- Whether a stall has work of jobs for the paths: a closed batch, or a thin task that does not gather. -/
def pathWork (s : State) (i : Nat) : Bool :=
  (stallRuns s i && !(batchesFor s i true).isEmpty)
  || (getStall s i).runs.any (fun r => (nextEntry s (.job i r.queue r.seq)).any (fun x => thinFor s i true x.2))

/-- The stall of jobs served next on a path; invocations go before (`netNext`). -/
def pickPath (s : State) (m : Nat) : Option Nat :=
  servedFirst s (mvpOwner s m) (·.vp) ((List.range 16).filter (fun i => mayUseMvp s i m && pathWork s i))

/-! ### Feeders (R300, R310, R315, R319, R323) -/

/-- The array whose window a transfer's scratchpad side names: that of its run. -/
def xferArray (s : State) (x : Xfer) : Option Nat :=
  let k := (xferDesc x.desc).kind
  if xferSrcScr k || xferDstScr k then (getRun s x.owner).bind (·.array) else none

/-- Whether a transfer waits for a stabling to end (R319). -/
def xferWaits (s : State) (x : Xfer) : Bool :=
  let k := (xferDesc x.desc).kind
  (xferSrcScr k || xferDstScr k) && (match xferArray s x with
    | some n => (getArr s n).moving.any (fun m => m.holder == x.stall)
    | none => true)

/-- The pieces of a transfer: for each row, its parts between 4 KiB boundaries of the memory side, as (row, offset in
the row, length) (R300). -/
def rowPieces (at_ len : Nat) : List (Nat × Nat) :=
  let first := at_ / 4096
  let last := (at_ + len - 1) / 4096
  (List.range (last - first + 1)).map (fun k =>
    let lo := max at_ ((first + k) * 4096)
    let hi := min (at_ + len) ((first + k + 1) * 4096)
    (lo - at_, hi - lo))
def piecesOf (x : XferDesc) : List (Nat × Nat × Nat) :=
  (List.range x.rows).flatMap (fun i =>
    let at_ := if xferSrcMem x.kind then x.src + i * x.srcStride else x.dst + i * x.dstStride
    (rowPieces at_ x.rowBytes).map (fun p => (i, p.1, p.2)))

/-- The memory sides of a piece, as region offsets. -/
def pieceMem (d : XferDesc) (p : Nat × Nat × Nat) : List Nat :=
  (if xferSrcMem d.kind then [d.src + p.1 * d.srcStride + p.2.1] else [])
    ++ (if xferDstMem d.kind then [d.dst + p.1 * d.dstStride + p.2.1] else [])

/-- Whether bytes of a stall's region lie on a stack whose refresh window is open (R310). -/
def refreshing (s : State) (i x : Nat) : Bool := (getStack s (devChan (regionAddr s i x) / 16)).window.isSome

/-- Whether the next piece of a job meets an open window. -/
def pieceRefreshing (s : State) (j : FdrJob) : Bool :=
  match j.members with
  | [] => false
  | x :: _ => match (piecesOf (xferDesc x.desc))[j.piece]? with
    | some p => (pieceMem (xferDesc x.desc) p).any (refreshing s x.stall)
    | none => false

/-- The stall of a job, and whether it may go on now. -/
def jobStall (j : FdrJob) : Nat := (j.members.head?.map (·.stall)).getD 0
def jobReady (s : State) (j : FdrJob) : Bool := !j.members.any (xferWaits s)

/-- The stall whose piece a feeder moves next: the PACED stall, the SHARED owner, else the pool's users one piece each in turn
(R315, R323). -/
def feederTurn (s : State) (f : Nat) : Option Nat :=
  let x := getFdr s f
  let ready := (x.queue.filter (jobReady s)).map jobStall
  match ready.find? (isPaced s) with
  | some i => some i
  | none => match ready.find? (fun i => decide (fdrOwner s f = some i)) with
    | some i => some i
    | none => ((List.range 16).map (fun k => (x.turn + 1 + k) % 16)).find? (fun i => ready.contains i)

/-- A free feeder takes its next piece: of the job of that stall that was dispatched first. The piece is issued unless a refresh
window is open (R310). -/
def nextPiece (s : State) (f : Nat) : State :=
  if (getFdr s f).run.isSome || (getFdr s f).out then s
  else match feederTurn s f with
    | none => s
    | some i => match (getFdr s f).queue.find? (fun j => jobStall j == i && jobReady s j) with
      | none => s
      | some j => modFdr s f (fun x => { x with run := some j, queue := x.queue.erase j, turn := i, issued := !pieceRefreshing s j })

/-- Whether the feeder's piece waits for memory: for the end of a refresh window (R310). -/
def waitsMem (s : State) (f : Nat) : Bool :=
  (getFdr s f).run.any (fun j => !(getFdr s f).issued && pieceRefreshing s j)

/-- Feeders that had nothing they could move look again. -/
def wakeFeeders (s : State) : State := (List.range 16).foldl nextPiece s

def enqueue (s : State) (f : Nat) (g : List Xfer) : State :=
  nextPiece (modFdr s f (fun x => { x with queue := x.queue ++ [{ members := g }] })) f

/-- Transfers queued on a feeder: dispatched and not begun (Table 9-6, R300). -/
def queuedXfers (x : Feeder) : Nat := ((x.queue.filter (fun j => j.piece == 0)).map (·.members.length)).sum

/-- The lowest feeder in service of a stall: what the device's own transfers for it run on (R300, notes/assumptions/26.md). -/
def devFeeder (s : State) (i : Nat) : Option Nat := (List.range 16).find? (fun f => mayUseFdr s i f && !(getFdr s f).out)

/-- Transfers of the device for a stall, counted on that feeder and in the stall's counters (R300, R316). -/
def countDev (s : State) (i xfers rd wr : Nat) : State :=
  let s := match devFeeder s i with
    | some f => modFdr s f (fun x => { x with xfers := x.xfers + BitVec.ofNat 64 xfers, bytes := x.bytes + BitVec.ofNat 64 (max rd wr) })
    | none => s
  modStall s i (fun st => { st with fdrRd := st.fdrRd + BitVec.ofNat 64 rd, fdrWr := st.fdrWr + BitVec.ofNat 64 wr })

/-! ### Merging (R308) -/

/-- 128 NOC cycles in whole ticks. -/
def mergeTicks (s : State) : Nat := 128 * 12288 / (100 * max 1 (nocMHz s))

/-- A piece of a stall reaches a channel within a 4 KiB window: it joins the open access there, or opens one. A read does not join an
access that a write has joined after another piece. Answers whether it joined. -/
def mergeAccess (s : State) (i win : Nat) (write : Bool) : State × Bool :=
  let live := s.mem.merge.filter (fun w => decide (s.now ≤ w.first + mergeTicks s))
  let put (ws : List MergeWin) : State := { s with mem := { s.mem with merge := ws } }
  match live.find? (fun w => w.window == win && w.stall == i && (write || !w.mixed)) with
  | some w => (put ((if write then { w with mixed := true } else w) :: live.erase w), true)
  | none => (put ({ window := win, stall := i, first := s.now, mixed := false } :: live.filter (fun w => !(w.window == win && w.stall == i))), false)

/-! ### Backlog (R330) -/

/-- Whether a job of the journal is ready and has no array (R333). -/
def waitsForPlace (s : State) (i : Nat) : Bool :=
  (getStall s i).runs.any (fun r => r.array.isNone && !r.committing && r.fail.isNone
    && ((jobOf s i r.queue r.seq).any (fun d => mayStart s i r.queue r.seq d)))

/-- Backlog on arrays: an eligible entry for a pool array, or a run that waits for placement. -/
def isBacklogArr (s : State) (i : Nat) : Bool :=
  waitsForPlace s i || (List.range 8).any (fun n => poolArr s n && arrayWork s i n)

/-- Backlog on paths, likewise. -/
def isBacklogMvp (s : State) (i : Nat) : Bool :=
  waitsForPlace s i || ((List.range 4).any (fun m => poolMvp s m && mayUseMvp s i m) && pathWork s i)

/-- The serially least of a list of virtual times. -/
def leastV : List W64 → Option W64
  | [] => none
  | v :: vs => match leastV vs with
    | none => some v
    | some w => if laterThan v w then some w else some v

def sharedStalls (s : State) : List Nat :=
  (List.range 16).filter (fun i => decide ((getStall s i).state ≠ .absent) && !isPaced s i)

/-- A stall that becomes backlogged on a kind is brought up to the least of those already backlogged (R330). -/
def refreshBacklog (s : State) : State :=
  (sharedStalls s).foldl (fun s i =>
    let st := getStall s i
    let ba := isBacklogArr s i
    let bm := isBacklogMvp s i
    let others := (sharedStalls s).filter (fun j => j != i)
    let ga := leastV ((others.filter (fun j => (getStall s j).backlogArr)).map (fun j => (getStall s j).va))
    let gm := leastV ((others.filter (fun j => (getStall s j).backlogMvp)).map (fun j => (getStall s j).vp))
    modStall s i (fun x => { x with
      backlogArr := ba, backlogMvp := bm,
      va := if ba && !st.backlogArr then (match ga with | some g => serialMax x.va g | none => x.va) else x.va,
      vp := if bm && !st.backlogMvp then (match gm with | some g => serialMax x.vp g | none => x.vp) else x.vp })) s

end Sys2Proof.Machine
end

