-- ==== Sys2Proof/Machine/Tasks.lean ====
section
/-!
DEFINITION. What dispatching and ending an entry do to its run, how tasks are aborted and charged (R327), how a run is displaced
(R268), and the stall fault (R155 to R157).
-/
namespace Sys2Proof.Machine

/-! ### Dispatch and end of an entry -/

/-- Dispatching an entry consumes its WAIT_EV flags; the first of a run makes the job RUNNING (R189, R303). -/
def beginEntry (s : State) (o : Owner) (r : Run) (n : Nat) (d : List Byte) : State :=
  let s := evMod s n (evKey o r) (fun ev => ev &&& ~~~ entryWait d)
  let s := modRun s o (fun x => { x with
    nextTile := x.nextTile + 1, running := x.running ++ [x.nextTile],
    marks := if entryWait d = 0 then (x.nextTile, x.nextXfer) :: x.marks else x.marks })
  match o with
  | .job i q seq => setEntry s i q seq (fun e =>
      if e.state = .accepted then { e with state := .running, runs := satInc e.runs } else e)
  | .net _ => s

/-- A job run leaves its array: its event set is released (R303). -/
def leaveArray (s : State) (o : Owner) : State := modRun s o (fun r => { r with array := none, evSet := 0 })

/-- Transfers that leave a feeder: of what it moves, of its queue and of its open group (R159, R319). -/
def abortFeeder (s : State) (n : Nat) (p : Xfer → Bool) : State :=
  let keep (j : FdrJob) : FdrJob := { j with members := j.members.filter (fun x => !p x) }
  nextPiece (modFdr s n (fun f => { f with
    run := (f.run.map keep).filter (fun j => !j.members.isEmpty),
    queue := (f.queue.map keep).filter (fun j => !j.members.isEmpty),
    group := f.group.filter (fun x => !p x) })) n

/-- Transfers leave every feeder. -/
def dropXfers (s : State) (p : Xfer → Bool) : State := (List.range 16).foldl (fun s n => abortFeeder s n p) s

/-- A job's transfers leave the feeders, and its thin tasks the gatherer. -/
def dropWork (s : State) (i q : Nat) (seq : W32) : State :=
  let stays (g : GatherTask) : Bool := !(g.queue == q && g.seq == seq)
  modStall (dropXfers s (fun x => x.owner == .job i q seq)) i (fun st => { st with
    openBatches := (st.openBatches.map (·.filter stays)).filter (fun b => !b.isEmpty),
    closedBatches := (st.closedBatches.map (fun b => { b with tasks := b.tasks.filter stays })).filter (fun b => !b.tasks.isEmpty) })

/-- A job ends its run with a status and enters COMMITTING; nothing of it runs on (R189, R193, R319). -/
def toCommitting (s : State) (i q : Nat) (seq : W32) (status : W16) : State :=
  let s := leaveArray (dropWork s i q seq) (.job i q seq)
  let s := modRun s (.job i q seq) (fun r => { r with
    committing := true, fail := if status = 0 then none else some status, running := [], runningX := [] })
  setEntry s i q seq (fun e => { e with state := .committing, status := status })

/-- A job run whose every entry and transfer has ended goes to COMMITTING (R189); an invocation whose last entry has
ended is over (R418). -/
def finishRun (s : State) (o : Owner) : State :=
  match getRun s o with
  | none => s
  | some r =>
    if r.committing || !r.running.isEmpty || !r.runningX.isEmpty || decide (r.nextTile < graphLen s o)
        || decide (r.nextXfer < xferCount s o) then s
    else match o with
      | .job i q seq => toCommitting s i q seq 0
      | .net c =>
        modCarrier s c (fun ca => match ca.inv with
          | none => ca
          | some v => { ca with
              inv := none,
              slots := ca.slots.map (fun sl =>
                if isSlot v.frame v.slot sl then
                  match v.kind with
                  | .ce => { sl with ce := true }
                  | .eqa => { sl with eqa := true }
                  | .llr => { sl with llr := true }
                else sl) })

/-- An entry ends: it leaves the run's running entries and sets its SIG_EV (R303). -/
def endEntry (s : State) (o : Owner) (n t : Nat) (d : List Byte) : State :=
  match getRun s o with
  | none => s
  | some r =>
    if !r.running.contains t then s else
    let s := evMod s n (evKey o r) (fun ev => signalEv ev (entrySig d))
    let s := modRun s o (fun x => { x with running := x.running.filter (fun y => y != t), idleSince := s.now })
    finishRun s o

/-! ### Aborts and displacement -/

/-- Cycles an aborted task ran: the spec states no value, only that it is charged (R327); a free value up to the bound
(notes/assumptions/4.md). -/
def ranCycles (s : State) (bound : Nat) : Nat := (draw s).toNat % (bound + 1)

/-- The running tile task of an array, or batch in array form, is aborted after `c` cycles: charged, and never drained (R82, R155,
R327). How many DPU-cycles were gated the spec does not state. -/
def abortTileAfter (s : State) (n c : Nat) : State :=
  match (getArr s n).run with
  | none => s
  | some t =>
    let cs := (getArr s n).batch
    let g := ranCycles s (1024 * c)
    let s := modArr (drew s) n (fun a => { a with
      run := none, batch := [], cycles := a.cycles + BitVec.ofNat 64 c,
      gated := a.gated + BitVec.ofNat 64 ((a.gatedRem + g) / 1024), gatedRem := (a.gatedRem + g) % 1024 })
    let ns := cyclesNs c t.freq
    if cs.isEmpty then charge s t.stall t.owner .arr (poolArr s n) ns else chargeContribs s cs .arr (poolArr s n) ns

/-- The bound of what an array runs. -/
def runBound (a : ArrayU) : Nat :=
  match a.run, a.batch with
  | none, _ => 0
  | some t, [] => tileCycles (tileDesc t.desc)
  | some _, c :: cs => batchCycles (thinDesc c.desc) (contribRows (c :: cs))

def abortTile (s : State) (n : Nat) : State :=
  if (getArr s n).run.isNone then s else abortTileAfter (drew s) n (ranCycles s (runBound (getArr s n)))

/-- The running vector task of an engine is aborted after `c` cycles, and charged. -/
def abortVecAfter (s : State) (n c : Nat) : State :=
  match (getVec s n).run with
  | none => s
  | some t =>
    let s := modVec s n (fun v => { v with run := none, cycles := v.cycles + BitVec.ofNat 64 c })
    charge s t.stall t.owner .vec (poolArr s n) (cyclesNs c t.freq)

def abortVec (s : State) (n : Nat) : State :=
  match (getVec s n).run with
  | none => s
  | some t => abortVecAfter (drew s) n (ranCycles s (vecCycles (vecDesc t.desc)))

/-- A path's task or batch is aborted, and charged for the cycles it ran, waits included. -/
def abortPathRun (s : State) (m : Nat) : State :=
  match (getPath s m).run with
  | [] => s
  | cs =>
    let c := ranCycles s (2 ^ 32 - 1)
    let s := modPath (drew s) m (fun p => { p with run := [], rows := 0, cycles := p.cycles + BitVec.ofNat 64 c })
    chargeContribs s cs .mvp (poolMvp s m) (cyclesNs c (mvpMHz s m))

/-- The path stops on a stall's work; the contributors of a batch are all of one stall (R286). -/
def abortPath (s : State) (m i : Nat) : State :=
  if (getPath s m).run.any (fun c => c.stall == i) then abortPathRun s m else s

/-- The first unfinished entry of a run. -/
def firstOpen (r : Run) : Nat := r.running.foldl min r.nextTile

/-- Where a displaced run resumes: the latest entry with WAIT_EV 0 that precedes its first unfinished one, with the transfer
that was next when it was dispatched, or an earlier one that has not ended (R268, notes/assumptions/21.md). -/
def resumePoint (r : Run) : Nat × Nat :=
  let m := (r.marks.find? (fun m => decide (m.1 < firstOpen r))).getD (0, 0)
  (m.1, r.runningX.foldl min m.2)

/-- A job run is displaced from its array and waits for another (R268). -/
def displaceRun (s : State) (i q : Nat) (seq : W32) : State :=
  match getRun s (.job i q seq) with
  | none => s
  | some r =>
    let p := resumePoint r
    modRun (leaveArray (dropWork s i q seq) (.job i q seq)) (.job i q seq) (fun x => { x with
      nextTile := p.1, nextXfer := p.2, running := [], runningX := [], stabled := false,
      marks := x.marks.filter (fun m => decide (m.1 < p.1)), idleSince := s.now })

/-- A job executes again from its last commit: ACCEPTED, with nothing of it done (R197, R353). -/
def rerunJob (s : State) (i q : Nat) (seq : W32) : State :=
  let s := modRun (leaveArray (dropWork s i q seq) (.job i q seq)) (.job i q seq) (fun x => { x with
    nextTile := 0, nextXfer := 0, running := [], runningX := [], stabled := false, marks := [], idleSince := s.now })
  setEntry s i q seq (fun e => if e.state = .running ∨ e.state = .committing then { e with state := .accepted, status := 0 } else e)

/-- A task of a job failed on an uncorrectable error on array `n`: re-run once on another array, then the job fails
with TILE_ECC (R193). -/
def eccFail (s : State) (i q : Nat) (seq : W32) (t : Nat) (n : Option Nat) : State :=
  match getRun s (.job i q seq) with
  | none => s
  | some r =>
    if r.eccTiles.contains t then toCommitting s i q seq 0x0101
    else
      let s := displaceRun s i q seq
      modRun s (.job i q seq) (fun x => { x with eccTiles := t :: x.eccTiles, avoid := n })

/-- A slot fails for a cause (Table 12-11); a fault of the stall's units leaves no GUARANTEE (R346). -/
def addCause (cause : Nat) (sl : SlotRec) : SlotRec :=
  if sl.issued || sl.done then sl
  else { sl with causes := sl.causes ++ [cause], noGuarantee := sl.noGuarantee || (cause != 0x13 && cause != 0x15) }

/-- A slot of a carrier fails for a cause. -/
def failSlot (s : State) (c : Nat) (frame : BitVec 10) (slot : Nat) (cause : Nat) : State :=
  modCarrier s c (fun ca => { ca with slots := ca.slots.map (fun sl => if isSlot frame slot sl then addCause cause sl else sl) })

/-- An invocation fails: its slot is failed for the cause and the invocation ends. -/
def failInv (s : State) (c : Nat) (cause : Nat) : State :=
  match (getCarrier s c).inv with
  | none => s
  | some v => modCarrier (failSlot s c v.frame v.slot cause) c (fun ca => { ca with inv := none })

/-- Everything a stall runs is aborted, and its gatherer emptied (R155 step 2, R159 step 2, R291). -/
def abortStall (s : State) (i : Nat) : State :=
  let s := (List.range 8).foldl (fun s n =>
    let s := if (getArr s n).run.any (fun t => t.stall == i) then abortTile s n else s
    if (getVec s n).run.any (fun t => t.stall == i) then abortVec s n else s) s
  let s := (List.range 4).foldl (fun s m => abortPath s m i) s
  let s := dropXfers s (fun x => x.stall == i)
  modStall s i (fun st => { st with
    openBatches := [], closedBatches := [], runs := st.runs.map (fun r => { r with running := [], runningX := [] }) })

/-- Every slot under way of a stall's carriers fails with STALL; `reset`: by a stall reset (R155, R162). -/
def failStallSlots (s : State) (i : Nat) (reset : Bool) : State :=
  (List.range 8).foldl (fun s c =>
    if carrierStall s c = some i then
      modCarrier (touchNow s c) c (fun ca => { ca with
        inv := none, slots := ca.slots.map (fun sl => let sl := addCause 0x14 sl; { sl with reset := sl.reset || reset }) })
    else s) s

/-! ### Stall faults (R155 to R157) -/

/-- A stall fault (R155): latched, recorded, its work aborted. In FAULTED it is only recorded (R156); in RESETTING it is
latched for the end of the reset (R157). `job`: the job it is attributed to (R193). -/
def stallFault (s : State) (i : Nat) (code : W16) (kind : BitVec 4) (unit : Nat) (data : List Byte)
    (job : Option (Nat × W32)) : State :=
  let st := getStall s i
  match st.state with
  | .absent => s
  | .faulted => pushEvent s { code := 0x000C, stall := some (BitVec.ofNat 4 i), data := bytesOf code }
  | .resetting =>
    let f := (code, BitVec.ofNat 8 unit, kind)
    let s := modStall s i (fun st => if st.faultNew.isSome then st
      else { st with
        faultNew := some f, faultCode := code, faultKind := kind, faultUnit := BitVec.ofNat 8 unit,
        faultJob := if st.faultWas.isSome then st.faultJob else job })
    report s { code := code, stall := some (BitVec.ofNat 4 i), kind := kind, unit := BitVec.ofNat 8 unit, data := data }
  | _ =>
    let s := modStall s i (fun st => { st with
      state := .faulted, faultCode := code, faultKind := kind, faultUnit := BitVec.ofNat 8 unit, faultJob := job })
    let s := cacheFlushStall (failStallSlots (abortStall s i) i false) i
    report s { code := code, stall := some (BitVec.ofNat 4 i), kind := kind, unit := BitVec.ofNat 8 unit, data := data }

/-- TILE_DESC of an owner's entry (Table 17-4): refusal code, index, job SEQ and queue. -/
def descFault (s : State) (o : Owner) (code : Byte) (index : Nat) (kind : BitVec 4) (unit : Nat) : State :=
  match o with
  | .job i q seq => stallFault s i 0x2001 kind unit
      ([code] ++ leBytes 3 index ++ bytesOf seq ++ [BitVec.ofNat 8 q]) (some (q, seq))
  | .net c => stallFault s (ownerStall s (.net c)) 0x2001 kind unit ([code] ++ leBytes 3 index ++ leBytes 5 0) none

/-- The seed of an owner's entry `t` (Tables 7-4 and 7-5, R421). -/
def entrySeed (s : State) (o : Owner) (t : Nat) : W64 :=
  match o with
  | .job i q seq => jobSeed i q seq t
  | .net c => match (getCarrier s c).inv with
    | some v => netSeed (ownerStall s o) c v.net v.frame (BitVec.ofNat 6 v.slot) 0xF t
    | none => 0

/-- A region offset within a job's work area (R172, R283, R302). -/
def inWork (s : State) (o : Owner) (x len : Nat) : Bool :=
  match o with
  | .job i q seq => match jobOf s i q seq with
    | some d => decide (d.work ≤ x) && decide (x + len ≤ d.work + d.workLen)
    | none => false
  | .net _ => false

/-- The task of an owner fails on an uncorrectable error: a job follows R193, an invocation fails its slot (R84). -/
def failOwner (s : State) (o : Owner) (t : Nat) (avoid : Option Nat) : State :=
  match o with
  | .job i q seq => eccFail s i q seq t avoid
  | .net c => failInv s c 0x16

def ownerSeq : Owner → W32
  | .job _ _ seq => seq
  | .net _ => 0

/-- A job's completion carries SAT (R231, R274). -/
def markSat (s : State) (o : Owner) (sat : Bool) : State :=
  match o with
  | .job i q seq => if sat then setEntry s i q seq (fun e => { e with sat := true }) else s
  | .net _ => s

/-- Whether a contributor's entry is still running: its run was not displaced meanwhile. -/
def stillRuns (s : State) (c : Contrib) : Bool := (getRun s c.owner).any (fun r => r.running.contains c.tile)

/-- Whether a contributor came through its stall's gatherer (R286). -/
def gathered (s : State) (c : Contrib) : Bool :=
  match c.owner with
  | .job i _ _ => (thinDesc c.desc).gather && !isPaced s i
  | .net _ => false

/-- Contributors re-enter their stall's gatherer with their original ready times (R291). -/
def regather (s : State) (cs : List Contrib) : State :=
  match cs with
  | [] => s
  | c :: _ =>
    let gs : List GatherTask := (cs.filter (fun x => gathered s x && stillRuns s x)).filterMap (fun x => match x.owner with
      | .job _ q seq => some { queue := q, seq := seq, tile := x.tile, desc := x.desc, ready := x.ready }
      | .net _ => none)
    modStall s c.stall (fun st => reenter (thinRowsOf s c.stall) st gs)

/-- Whether two moments lie within 10 s (R80, R293, R320). -/
def within10s (last : Option Nat) (now : Nat) : Bool :=
  match last with
  | some t => decide (now ≤ t + 1228800000)
  | none => false

end Sys2Proof.Machine
end

