-- ==== Sys2Proof/Machine/Fence.lean ====
section
/-!
DEFINITION. Fences, fallback maps, carrier shedding (R80 to R86, R92 to R94, R114, R347 to R349) and the loads of
reserve banks (R224, R407, R422).
-/
namespace Sys2Proof.Machine

/-! ### Weight sets and reserve banks -/

/-- The set area of a schooled network: its byte in the stall's region (R450). -/
def setArea (r : SchoolCfg) (wLen : Nat) (second : Bool) : Nat :=
  r.saOff + 4096 + (if second then ceilDiv wLen 4096 * 4096 else 0)

/-- The record number of a schooled network. -/
def schoolRec (s : State) (net : Nat) : Option Nat := firstIdx (fun r => r.net == net) s.hns.schoolNets 0

def getNet (s : State) (r : Nat) : SchoolNet := tget {} s.school.nets r
def modNet (s : State) (r : Nat) (f : SchoolNet → SchoolNet) : State :=
  { s with school := { s.school with nets := tmod {} s.school.nets r f } }

/-- Entering LEARN clears the baseline score and the tap count (R453). -/
def enterLearn (x : SchoolNet) : SchoolNet := { x with state := 1, taps := 0, sB := 0, nB := 0 }

/-- A schooled network whose array is lost (R465, R475): a trial ends without a count, no candidate stays in force, and the
tap of a slot that was reported from the lost array is lost. -/
def lostNet (x : SchoolNet) : SchoolNet :=
  let gone := x.tap.any (fun t => t.status.isSome)
  let x := { x with
    candIn := false, tap := if gone then none else x.tap, tapLost := if gone then satInc x.tapLost else x.tapLost }
  if x.state = 3 then enterLearn { x with cand := [], tapBuf := [], outBuf := [] } else x

/-- Schooling on an array that is lost: its networks, and the memory action under way, which waits again. -/
def schoolLost (s : State) (n : Nat) : State :=
  let s := (List.range 32).foldl (fun s r =>
    if (s.hns.schoolNets[r]?).any (fun cfg => s.hns.nets.any (fun x => x.net == cfg.net && (getCarrier s x.carrier).array == n)) then
      modNet s r lostNet
    else s) s
  match tget none s.school.running n with
  | some a => { s with school := { s.school with running := tdel s.school.running n, actions := a :: s.school.actions } }
  | none => s

/-- Where the committed weight set of a network lies in its stall's region, where one is committed (R422, R450). -/
def netArea (s : State) (n : NetCfg) : Option Nat :=
  (schoolRec s n.net).bind (fun r => (s.hns.schoolNets[r]?).bind (fun cfg =>
    let x := getNet s r
    if x.state = 0 then none else some (setArea cfg n.wLen x.committed)))

/-- The committed weight set of a network, or the set of INIT_OFF where none is committed (R422). -/
def netWeights (s : State) (n : NetCfg) : List Byte :=
  match netArea s n with
  | some a => regionRead s ((carrierStall s n.carrier).getD 0) a n.wLen
  | none => n.init

/-- The networks of carriers whose tasks run on array `n`. -/
def netsOn (s : State) (n : Nat) : List NetCfg := s.hns.nets.filter (fun x => (getCarrier s x.carrier).array == n)

/-- A network's weights moved into the reserve bank of array `n`, by a transfer for its stall (R224, R300). Words that memory
cannot give are uncorrectable in the bank (notes/assumptions/26.md). -/
def loadNet (s : State) (n : Nat) (x : NetCfg) : State :=
  let i := (carrierStall s x.carrier).getD 0
  let bs := netWeights s x
  let bad := match netArea s x with
    | some a => (List.range (ceilDiv bs.length 8)).filter (fun k => regionBad s i (a + 8 * k) 8)
    | none => []
  let s := match netArea s x with
    | some a => regionTouch s i a bs.length true
    | none => s
  modArr (countDev s i 1 bs.length 0) n (fun a =>
    let a := rsvWrite a (x.wOff * 64) bs
    { a with ueRsv := (bad.map (x.wOff * 8 + ·)).filter (fun w => !a.ueRsv.contains w) ++ a.ueRsv })

/-- The reserve bank of array `n` loaded from the bound networks (R224): other bytes are zero. A candidate in force is
dropped with it (R465). -/
def loadReserve (s : State) (n : Nat) : State :=
  (netsOn s n).foldl (fun s x => loadNet s n x) (modArr s n (fun a => { a with rsv := [], ueRsv := [] }))

/-! ### Carriers of a stall -/

def stallCarriers (s : State) (i : Nat) : List Nat :=
  (List.range 8).filter (fun c => decide (carrierStall s c = some i) && decide (slotLen s c ≠ 0))

/-- The core that takes the place of core `n` of a carrier (Table 2-11). -/
def swapped (ca : Carrier) (kind n : Nat) : Nat :=
  ca.swaps.foldl (fun n x => if x.1 = kind ∧ x.2.1 = n then x.2.2 else n) n

/-- The cores of a carrier, in stream order (Table 12-3). -/
def carrierCores (s : State) (c : Nat) : List Nat :=
  match carrierCfg s c with
  | some r => (setBits r.coreMask).map (fun k => swapped (getCarrier s c) 2 (8 * r.cluster + k))
  | none => []

/-- Whether a carrier's tasks use a unit (R114): kind 1 array, 2 pacer core, 3 decoder engine. -/
def carrierUses (s : State) (c kind unit : Nat) : Bool :=
  match carrierCfg s c with
  | none => false
  | some r =>
    if kind = 1 then (getCarrier s c).array == unit
    else if kind = 2 then (carrierCores s c).contains unit
    else (setBits r.decMask).any (fun n => swapped (getCarrier s c) 3 n == unit)

/-- Whether now is a slot boundary of one of a stall's carriers. -/
def atSlotBoundary (s : State) (i : Nat) : Bool :=
  (stallCarriers s i).any (fun c => s.air.tick.toNat % slotLen s c == 0)

/-- Whether every carrier bound to an array has reported its latest ended slot, and none runs an invocation (R456). -/
def quietArr (s : State) (n : Nat) : Bool :=
  (List.range 8).all (fun c =>
    let ca := getCarrier s c
    (carrierCfg s c).isNone || ca.array != n
      || (ca.inv.isNone && ca.slots.all (fun sl => sl.done || decide (s.air.abs.toNat < sl.lastSample.toNat)
        || !ca.first.any (fun f => decide (f ≤ sl.start)))))

/-! ### The stages of a slot's network work (R418) -/

def netFor (s : State) (c : Nat) (k : NetKind) : Option NetCfg := s.hns.nets.find? (fun n => n.carrier == c && n.kind == k)

/-- The stages of a slot: a carrier without a network of a kind passes that stage at once (R418). -/
def postsIn (cfg : CarrierCfg) (sl : SlotRec) : Bool := (List.range cfg.streams).all (fun a => sl.lasts.getLsbD a)
def ceEnded (s : State) (c : Nat) (cfg : CarrierCfg) (sl : SlotRec) : Bool :=
  postsIn cfg sl && (sl.ce || (netFor s c .ce).isNone)
def eqaEnded (s : State) (c : Nat) (cfg : CarrierCfg) (sl : SlotRec) : Bool :=
  ceEnded s c cfg sl && (sl.eqa || (netFor s c .eqa).isNone)
def llrEnded (s : State) (c : Nat) (cfg : CarrierCfg) (sl : SlotRec) : Bool :=
  eqaEnded s c cfg sl && (sl.llr || (netFor s c .llr).isNone)

/-- Whether a slot's work goes on: reported neither, nor cut, nor stopped by a lost unit, a core or network fault or a
stopped stall. -/
def slotRuns (sl : SlotRec) : Bool :=
  sl.begun && !sl.issued && !sl.done
    && sl.causes.all (fun x => x != 0x11 && x != 0x12 && x != 0x14 && x != 0x16)

def kindCode : NetKind → Nat
  | .ce => 0
  | .eqa => 1
  | .llr => 2

/-- The invocation a slot is eligible for (R418). -/
def slotKind (s : State) (c : Nat) (cfg : CarrierCfg) (sl : SlotRec) : Option NetKind :=
  if !slotRuns sl || !postsIn cfg sl then none
  else if !ceEnded s c cfg sl then some .ce
  else if !eqaEnded s c cfg sl then some .eqa
  else if !llrEnded s c cfg sl then some .llr
  else none

/-! ### Fallback records and evaluation (R114, R347) -/

/-- Whether a stall may replace a failed unit by another: it is enabled, unfenced, and the stall owns or borrows it (R114). -/
def mayReplace (s : State) (i kind n : Nat) : Bool :=
  if kind = 1 then arrUsable s n && mayUseArr s i n
  else (resRec s i).any (fun r =>
    if kind = 2 then s.fuses.pcrEn.getLsbD n && (r.pcrOwn ||| r.pcrBorrow).getLsbD n
    else s.fuses.decEn.getLsbD n && (r.decOwn ||| r.decBorrow).getLsbD n)

/-- The first record that applies to a failed unit of a stall (R114). -/
def fallRec (s : State) (kind failed i : Nat) : Option FallRec :=
  s.hns.falls.find? (fun r => r.kind == kind && r.failed == failed && r.stall == i && r.enabled
    && (setBits r.alsoFenced).all (fun n => !arrUsable s n)
    && (r.action != 1 || mayReplace s i kind r.replace))

/-- WCET[k] of a variant (R115). -/
def wcetOf (b : Budget) (var : Nat) (k : Nat) : Nat :=
  match b.variants.find? (fun v => v.1 == var) with
  | some v => v.2.getD k 0xFFFFFFFF
  | none => 0xFFFFFFFF

/-- The least number of carriers to shed under a variant; every carrier where none qualifies (R347). -/
def shedFor (b : Budget) (var : Nat) : Nat :=
  ((List.range b.carriers).find? (fun k => decide (wcetOf b var k ≤ b.deadline))).getD b.carriers

/-- How many carriers, first of SHED_ORDER first, cover every carrier that uses a unit lost without a record. -/
def shedLost (s : State) (i : Nat) (b : Budget) : Nat :=
  (List.range b.carriers).foldl (fun k j =>
    let c := (b.shedOrder.getD j 0xFF).toNat
    if (getStall s i).uncovered.any (fun u => carrierUses s c u.1 u.2) then j + 1 else k) 0

/-- The variant and the number of carriers to shed (R347): of the record chosen, else of the variant in force with the carriers
of every unit lost without one (R114). -/
def evalStall (s : State) (i : Nat) (rec_ : Option FallRec) : Option (W16 × BitVec 4) :=
  (budgetOf s i).map (fun b => match rec_ with
    | some r => (BitVec.ofNat 16 r.variant, BitVec.ofNat 4 (shedFor b r.variant))
    | none =>
      let v := (getStall s i).variant
      (v, BitVec.ofNat 4 (max (shedFor b v.toNat) (shedLost s i b))))

/-- A stall is evaluated again without a loss (R349). -/
def evaluateStall (s : State) (i : Nat) : State :=
  match evalStall s i none with
  | some e => modStall s i (fun st => { st with remaps := st.remaps ++ [{ kind := 0, failed := 0, replace := none, ready := true, eval := some e }] })
  | none => s

/-- A unit is lost to a stall: the fallback record chosen, or the loss without one, and the evaluation (R114, R347). -/
def loseOne (s : State) (i kind failed : Nat) : State :=
  match fallRec s kind failed i with
  | some r =>
    let rep := if r.action = 1 then some r.replace else none
    modStall s i (fun st => { st with remaps := st.remaps ++ [{
      kind := kind, failed := failed, replace := rep, ready := rep.isNone, eval := evalStall s i (some r) }] })
  | none =>
    let s := modStall s i (fun st => { st with uncovered := (kind, failed) :: st.uncovered })
    modStall s i (fun st => { st with remaps := st.remaps ++ [{
      kind := kind, failed := failed, replace := none, ready := true, eval := evalStall s i none }] })

/-- A loss, and anew the losses that the lost unit was to replace (R93). -/
def loseUnit (s : State) (i kind failed : Nat) : State :=
  let again := ((getStall s i).remaps.filter (fun r => r.kind == kind && r.replace == some failed)).map (·.failed)
  let s := modStall s i (fun st => { st with remaps := st.remaps.filter (fun r => !(r.kind == kind && r.replace == some failed)) })
  again.foldl (fun s f => loseOne s i kind f) (loseOne s i kind failed)

/-- The PACED stalls that own or may borrow a unit: kind 1 array, 2 pacer core, 3 decoder engine (R106, R347). -/
def losers (s : State) (kind n : Nat) : List Nat :=
  (List.range 16).filter (fun i => isPaced s i && (resRec s i).any (fun r =>
    if kind = 1 then (r.arrOwn ||| r.arrBorrow).getLsbD n
    else if kind = 2 then (r.pcrOwn ||| r.pcrBorrow).getLsbD n
    else (r.decOwn ||| r.decBorrow).getLsbD n))

/-- The carriers' shed state follows the variant and count in force; each change is recorded (R348, R353). -/
def applyShed (s : State) (i : Nat) (v : W16) (k : BitVec 4) : State :=
  match budgetOf s i with
  | none => s
  | some b =>
    let s := modStall s i (fun st => { st with variant := v, shedK := k })
    (List.range b.carriers).foldl (fun s j =>
      let c := (b.shedOrder.getD j 0xFF).toNat
      let shed := decide (j < k.toNat)
      if (getCarrier s c).shed = shed then s
      else
        let at_ := s.air.abs.toNat
        let s := modCarrier s c (fun ca => if shed then { ca with shed := true, shedFrom := at_ }
          else { ca with shed := false, liveFrom := at_ })
        let s := modStall s i (fun st => { st with carriersLive := setBit st.carriersLive c (!shed) })
        note s 0x0008 [if shed then 2 else 3, BitVec.ofNat 8 c, BitVec.ofNat 8 i, k.setWidth 8]) s

/-- Slots that ended before now and wait for an invocation on a lost array fail: their tasks would have run on it (R84). -/
def failWaiting (s : State) (c : Nat) : State :=
  match carrierCfg s c with
  | none => s
  | some cfg => modCarrier s c (fun ca => { ca with slots := ca.slots.map (fun sl =>
      if decide (sl.start + slotLen s c < s.air.abs.toNat) && (slotKind s c cfg sl).isSome then addCause 0x11 sl else sl) })

/-- A ready replacement takes over (R82 step 5, Table 2-11): carriers move to the new array, or to the new core or
engine. -/
def applyRemap (s : State) (i : Nat) (r : Remap) : State :=
  match r.replace with
  | none => s
  | some n =>
    (stallCarriers s i).foldl (fun s c =>
      if carrierUses s c r.kind r.failed then
        if r.kind = 1 then modCarrier (failWaiting s c) c (fun ca => { ca with array := n })
        else modCarrier s c (fun ca => { ca with swaps := ca.swaps ++ [(r.kind, r.failed, n)] })
      else s) s

/-- The losses that stay when the ready ones are applied; an evaluation before an applied one no longer counts (R352). -/
def laterRemaps : List Remap → List Remap
  | [] => []
  | r :: rs =>
    let rest := laterRemaps rs
    if r.ready then rest else { r with eval := if rs.any (·.ready) then none else r.eval } :: rest

/-- FALLBACK_REMAP (R82 step 5, R347): at a slot boundary of the stall's carriers each ready replacement takes over, and the
latest of their evaluations comes into force. -/
def remapOp (s : State) (i : Nat) : State :=
  let ready := (getStall s i).remaps.filter (·.ready)
  let s := ready.foldl (fun s r => applyRemap s i r) s
  let s := modStall s i (fun st => { st with remaps := laterRemaps st.remaps })
  match ready.getLast?.bind (·.eval) with
  | some (v, k) => applyShed s i v k
  | none => s

def execFallbackRemap (stall : Fin 16) (s : State) : Host.Outcome State Fault Refusal :=
  if atSlotBoundary s stall.val && groomUp s 1 then .next (remapOp s stall.val) else .next s

/-- A reserve-bank load for a fallback array ends (R82 step 4): the array has a reserve context of the stall and holds
the networks that move to it. -/
def reserveLoaded (s : State) (n : Nat) : State :=
  let waits (i : Nat) (r : Remap) : Bool := r.kind == 1 && r.replace == some n && !r.ready && (devFeeder s i).isSome
  let movers := (List.range 16).filter (fun i => (getStall s i).remaps.any (waits i))
  movers.foldl (fun s i =>
    let rs := (getStall s i).remaps.filter (waits i)
    let nets := s.hns.nets.filter (fun x => rs.any (fun r => carrierUses s x.carrier 1 r.failed))
    let s := nets.foldl (fun s x => loadNet s n x) s
    let s := modArr s n (fun a => { a with rsvStall := some i })
    modStall s i (fun st => { st with
      remaps := st.remaps.map (fun r => if r.kind == 1 && r.replace == some n then { r with ready := true } else r) })) s

def execReserveLoadDone (arr : Fin 8) (s : State) : Host.Outcome State Fault Refusal :=
  if arrUsable s arr.val then .next (reserveLoaded s arr.val) else .next s

/-! ### Fences (R80 to R85) -/

/-- Job runs placed on an array. -/
def runsOn (s : State) (n : Nat) : List (Nat × Nat × W32) :=
  (List.range 16).flatMap (fun i => ((getStall s i).runs.filter (fun r => r.array == some n)).map (fun r => (i, r.queue, r.seq)))

/-- A stall with no array left that it owns or may borrow stops (R92). -/
def checkNoArray (s : State) (n : Nat) : State :=
  (List.range 16).foldl (fun s i =>
    if mayUseArr s i n && (List.range 8).all (fun m => !mayUseArr s i m || !arrUsable s m)
        && decide ((getStall s i).state ≠ .absent) then
      stallFault s i 0x2004 1 n [] none
    else s) s

/-- A fence (Table 2-8): the array stops, is isolated, its uncommitted work returns for re-execution, for a SHARED stall where
its fallback map says, and the map is set in motion for each PACED stall that owns or borrows the array. -/
def fenceOp (s : State) (n : Nat) (cause : BitVec 4) : State :=
  if !arrUsable s n then s
  else
    let batch := (getArr s n).batch
    let lowered := (getArr s n).parked || decide ((getArr s n).freq ≠ 0 ∧ (getArr s n).freq.toNat * 50 < clockTarget s 1 n 1250)
    let s := { s with power := { s.power with
      reeval := s.power.reeval || lowered, windows := s.power.windows.filter (fun w => !(w.domain == 1 && w.unit == n)) } }
    let s := abortVec (abortTile s n) n
    let s := { s with fencing := { s.fencing with
      fenced := setBit s.fencing.fenced n true, shown := setBit s.fencing.shown n true, lastArray := BitVec.ofNat 3 n, lastCause := cause,
      count := satInc s.fencing.count } }
    let s := report s { code := 0x1002, kind := 1, unit := BitVec.ofNat 8 n, data := [cause.setWidth 8] }
    let s := regather s batch
    let to_ (i : Nat) : Option Nat := if isPaced s i then none else (fallRec s 1 n i).bind (fun r => if r.action = 1 then some r.replace else none)
    let s := (runsOn s n).foldl (fun s x =>
      modRun (displaceRun s x.1 x.2.1 x.2.2) (.job x.1 x.2.1 x.2.2) (fun r => { r with moveTo := to_ x.1 })) s
    let s := modArr s n (fun a => { a with
      main := [], rsv := [], acc := [], sat := [], fold := [], ueMain := [], ueRsv := [], ueAcc := [],
      tokens := [], transit := 0, events := [], ctx := .main, moving := none, granting := none, parkedMain := [], parkedRsv := [],
      lastMain := [], lastRsv := [], lastOwner := none })
    let s := (List.range 8).foldl (fun s c =>
      let ca := getCarrier s c
      if (carrierCfg s c).isSome && ca.array == n then failInv s c 0x11 else s) s
    let s := (losers s 1 n).foldl (fun s i => loseUnit s i 1 n) s
    refreshBacklog (wakeFeeders (checkNoArray (schoolLost s n) n))

/-- An uncorrectable word of the reserve bank met by an engine, the report unit or a posted transfer (R240, R442): counted on the array, whose second within
10 s fences it (R80). -/
def bankUe (s : State) (n i w : Nat) : State :=
  let again := within10s (getArr s n).lastUe s.now
  let s := modArr s n (fun a => { a with
    errCode := 0x10, errStall := BitVec.ofNat 4 i, errBank := true, errAddr := BitVec.ofNat 18 w,
    ueSeen := true, eccUe := satInc a.eccUe, lastUe := some s.now })
  let s := report s { code := 0x1001, stall := some (BitVec.ofNat 4 i), kind := 1, unit := BitVec.ofNat 8 n, data := [0x10] }
  if again then fenceOp s n 1 else s

def execFence (arr : Fin 8) (cause : BitVec 4) (s : State) : Host.Outcome State Fault Refusal :=
  .next (fenceOp s arr.val cause)

/-- ARR_FENCE_CTL.FENCE by S0 (R80). -/
def fenceCmdOp (n : Nat) (s : State) : State :=
  fenceOp { s with fencing := { s.fencing with ctlArray := BitVec.ofNat 3 n } } n 4

def execFenceCmd (arr : Fin 8) (s : State) : Host.Outcome State Fault Refusal :=
  .next (mgmt (fenceCmdOp arr.val) s)

/-- ARR_FENCE_CTL.PERSIST and UNPERSIST (R85), each recorded (Table 17-4). -/
def persistOp (s : State) (n : Nat) (on : Bool) : State :=
  let s := { s with fencing := { s.fencing with
    ctlArray := BitVec.ofNat 3 n, persisted := setBit s.fencing.persisted n on } }
  note s 0x0011 [BitVec.ofNat 8 n, if on then 1 else 2]
def execPersist (arr : Fin 8) (s : State) : Host.Outcome State Fault Refusal := .next (mgmt (persistOp · arr.val true) s)
def execUnpersist (arr : Fin 8) (s : State) : Host.Outcome State Fault Refusal := .next (mgmt (persistOp · arr.val false) s)

/-- A check tile (R81): between tasks, on a PACED stall's array only at a quiet point in the main context; a mismatch
fences the array with cause 0x2. -/
def execCheckTile (arr : Fin 8) (pass : Bool) (s : State) : Host.Outcome State Fault Refusal :=
  let n := arr.val
  let a := getArr s n
  if arrUsable s n && a.run.isNone && !a.parked && decide (a.ctx = .main)
      && ((arrPacedBy s n).isNone || (quietArr s n && !hasReserve s n)) then
    if pass then .next s
    else .next (fenceOp (modArr s n (fun a => { a with checkFail := true })) n 2)
  else .next s

/-- A second overrun of a tile fails its job with TILE_OVERRUN and fences nothing (R194); the first fences the array
with cause 0x3 and marks the tile. -/
def overrun (s : State) (n : Nat) (o : Owner) (t : Nat) : State :=
  match o with
  | .job i q seq =>
    if (getRun s o).any (fun r => r.overTiles.contains t) then toCommitting s i q seq 0x0104
    else fenceOp (modRun s o (fun r => { r with overTiles := t :: r.overTiles })) n 3
  | .net c => fenceOp (failInv s c 0x16) n 3

/-- What an array's task has run when it is found not ended at 8,192 cycles: for a batch in array form that is one of its MATMUL
tasks, after as many whole ones as the model leaves open. -/
def overrunCycles (s : State) (n : Nat) : Nat :=
  8192 + (if (getArr s n).batch.isEmpty then 0 else ranCycles s (runBound (getArr s n)))

/-- TILE_OVERRUN (Table 6-8); the other contributors of a batch in array form are gathered again (R291). -/
def execTileOverrun (arr : Fin 8) (s : State) : Host.Outcome State Fault Refusal :=
  let n := arr.val
  match (getArr s n).run with
  | none => .next s
  | some t =>
    let c := overrunCycles s n
    let s := drew s
    let addr : BitVec 18 := (draw s).setWidth 18
    let s := modArr (drew s) n (fun a => { a with
      errCode := 0x20, errStall := BitVec.ofNat 4 t.stall, errBank := t.reserve, errAddr := addr })
    let s := report s { code := 0x1001, stall := some (BitVec.ofNat 4 t.stall), kind := 1, unit := BitVec.ofNat 8 n,
                        data := [0x20] ++ leBytes 3 t.tile ++ bytesOf (ownerSeq t.owner) }
    let again := (getRun s t.owner).any (fun r => r.overTiles.contains t.tile)
    let others := (getArr s n).batch.filter (fun c => !(again && c.owner == t.owner))
    .next (overrun (regather (abortTileAfter s n c) others) n t.owner t.tile)

/-- A vector task that has not ended at 6,400 VEC cycles fences its array (R279). -/
def execVectorOverrun (arr : Fin 8) (s : State) : Host.Outcome State Fault Refusal :=
  match (getVec s arr.val).run with
  | none => .next s
  | some t => .next (overrun (abortVecAfter s arr.val 6400) arr.val t.owner t.tile)

end Sys2Proof.Machine
end

