-- ==== Sys2Proof/Machine/Jobs.lean ====
section
/-!
DEFINITION. Queues, acceptance, placement, commit and completion of jobs (ch. 5, R333).
-/
namespace Sys2Proof.Machine

/-! ### Answers (R183) -/

/-- An answer record written to the answer ring, or dropped where its 256 slots are full. -/
def answer (s : State) (i q : Nat) (kind reason : Byte) (value : W32) (mismatch : Bool) (acceptTick : W64)
    (orig : W16) : State :=
  let st := getStall s i
  if 256 ≤ (st.ansWr - st.ansHead).toNat then modStall s i (fun st => { st with ansDrop := satInc st.ansDrop })
  else
    let m := st.ansWr
    let flags : Byte := flag 8 0 (bit m 8) ||| flag 8 1 mismatch
    let rec32 := bytesOf value ++ [kind, BitVec.ofNat 8 q, reason, flags] ++ bytesOf acceptTick
      ++ bytesOf (getQueue st q).ahead ++ bytesOf orig ++ leBytes 2 0 ++ bytesOf s.air.abs
    let s := modStall s i (fun st => { st with ansWr := st.ansWr + 1 })
    let s := toHost s i (.mwr i (st.ansBase + BitVec.ofNat 64 (32 * (m.toNat % 256))) rec32)
    raiseSource s (BitVec.ofNat 16 (0x200 + i))

/-! ### Doorbells (R181) -/

def stallActive (s : State) (i : Nat) : Bool := decide ((getStall s i).state = .active)

/-- Whether queue `q` exists in stall `i`. -/
def hasQueue (s : State) (i q : Nat) : Bool := (stallRec s i).any (fun r => decide (q < r.queues))

/-- A doorbell acted on: the TAIL replaces a latched one, or is answered as a repeat or out of range. -/
def doorbell (s : State) (i q : Nat) (tail : W32) : State :=
  let t := (tail - (getQueue (getStall s i) q).rd).toNat
  if t = 0 ∨ 2 ^ 31 < t then
    answer (modStall s i (fun st => modQueue st q (fun x => { x with latched := none }))) i q 1 0 tail false 0 0xFFFF
  else if t ≤ 2 ^ depthLog2 s i then modStall s i (fun st => modQueue st q (fun x => { x with latched := some tail }))
  else answer (modStall s i (fun st => modQueue st q (fun x => { x with latched := none }))) i q 6 0 tail false 0 0xFFFF

/-- A write of QUE_SQ_TAIL: acted on, or kept while the stall holds its doorbells (R154) or G0 restarts (Table 16-2). While a
descriptor is being accepted it replaces the latched one and is classified after it (R181). -/
def tailOp (s : State) (i q : Nat) (tail : W32) : State :=
  let x := getQueue (getStall s i) q
  if !hasQueue s i q then s
  else if stallActive s i && groomUp s 0 then
    if x.accepting.isSome || x.waiting.isSome then
      modStall s i (fun st => modQueue st q (fun x => { x with latched := none, newTail := some tail }))
    else doorbell s i q tail
  else modStall s i (fun st => modQueue st q (fun x => { x with held := some tail }))

def execQueSqTail (stall : Fin 16) (q : Fin 8) (tail : W32) (s : State) : Host.Outcome State Fault Refusal :=
  .next (ownWrite stall.val (fun s => tailOp s stall.val q.val tail) s)

/-! ### Acceptance (R185, R186) -/

/-- Refusal reasons of Table 5-8, the first that fails. -/
def jobRefusal (s : State) (i : Nat) (desc : List Byte) : Option Byte :=
  let d := jobDesc desc
  let st := getStall s i
  let inReg (x n : Nat) : Bool := decide (n = 0) || inRegion s i x n
  let head := regionRead s i d.commit 8
  let cnt := leNat (head.take 4)
  let ext := (List.range (min cnt 64)).map (fun k =>
    let b := regionRead s i (d.commit + 8 + 16 * k) 16
    (leNat (slice b 0 4), leNat (slice b 4 8), leNat (slice b 12 4)))
  let spans := [(d.graph, 64 * d.tiles), (d.args, d.argsLen), (d.work, d.workLen), (d.commit, 8 + 16 * cnt)]
  let meets (a b : Nat × Nat) : Bool := a.2 != 0 && b.2 != 0 && decide (a.1 < b.1 + b.2) && decide (b.1 < a.1 + a.2)
  let dsts := ext.map (fun e => (e.2.1, e.2.2))
  if !d.crcOk then some 1
  else if decide (some d.abi ≠ (stallRec s i).map (·.jobAbi)) then some 2
  else if spans.any (fun x => !inReg x.1 x.2) || ext.any (fun e => !inReg e.2.1 e.2.2 || decide (d.workLen < e.1 + e.2.2))
    then some 3
  else if d.graph % 256 != 0 || d.args % 64 != 0 || decide (2 ^ 20 < d.argsLen) || d.workLen % 4096 != 0
      || d.work % 4096 != 0 || d.commit % 64 != 0
      || ext.any (fun e => e.2.2 % 64 != 0 || e.2.2 == 0 || decide (0xFFFFF000 < e.2.2)) then some 4
  else if (match d.dep with
      | some (dq, ds) => !hasQueue s i dq || (getQueue st dq).journal.isEmpty
          || decide (2 ^ 31 ≤ ((getQueue st dq).ahead - ds).toNat)
      | none => false) then some 5
  else if decide (64 < cnt) || regionBad s i d.commit (8 + 16 * min cnt 64)
      || dsts.any (fun a => spans.any (meets a))
      || (List.range dsts.length).any (fun k => (dsts.drop (k + 1)).any (meets (dsts.getD k (0, 0)))) then some 6
  else if d.reserved || leNat (slice head 4 4) != 0 || d.tiles == 0 || decide (16777216 < d.tiles) then some 7
  else none

/-- Whether a journal entry is free (R186). -/
def entryFree (qu : Queue) (k : Nat) : Bool :=
  match tget none qu.journal k with
  | none => true
  | some e => decide (e.state = .retired)

/-- Acceptance step 1: the journal entry is written ACCEPTED (R186). -/
def acceptStep1 (s : State) (i q : Nat) (desc : List Byte) : State :=
  let seq := u32 desc 0
  modStall s i (fun st => modQueue st q (fun x => { x with
    accepting := some desc, waiting := none,
    journal := tset none x.journal (seq.toNat % 2 ^ depthLog2 s i) (some { desc := desc, seq := seq, acceptTick := s.air.abs }) }))

/-- A latched TAIL that RD has reached is done. -/
def unlatch (x : Queue) : Queue := if x.latched = some x.rd then { x with latched := none } else x

/-- A descriptor answered and consumed; GAP and REFUSED stop the queue (R187). -/
def consume (s : State) (i q : Nat) (stop : Option (BitVec 3 × Byte)) : State :=
  modStall s i (fun st => modQueue st q (fun x =>
    let x := unlatch { x with rd := x.rd + 1 }
    match stop with
    | some (k, r) => { x with stopped := true, stopKind := k, stopReason := r }
    | none => x))

/-- Whether the queue reads descriptors now (R185). -/
def readsDesc (s : State) (i q : Nat) : Bool :=
  let x := getQueue (getStall s i) q
  hasQueue s i q && stallActive s i && groomUp s 0 && x.enable && !x.stopped && x.latched.isSome
    && decide (x.latched ≠ some x.rd) && x.accepting.isNone && x.waiting.isNone && !unreachable s i

/-- A descriptor read from slot RD is classified by Table 5-7. -/
def classify (s : State) (i q : Nat) (desc : List Byte) : State :=
  let x := getQueue (getStall s i) q
  let seq := u32 desc 0
  let g := (seq - x.ahead).toNat
  let k := seq.toNat % 2 ^ depthLog2 s i
  if g = 1 then
    match jobRefusal s i desc with
    | some r => answer (consume s i q (some (5, r))) i q 5 r seq false 0 0xFFFF
    | none =>
      if entryFree x k then acceptStep1 s i q desc
      else modStall s i (fun st => modQueue st q (fun x => { x with waiting := some desc }))
  else if 2 ≤ g ∧ g ≤ 2 ^ 31 then answer (consume s i q (some (4, 0))) i q 4 0 seq false 0 0xFFFF
  else
    match jobEntry s i q seq with
    | some e =>
      if (x.ahead - seq).toNat < 2 ^ depthLog2 s i then
        answer (consume s i q none) i q 2 0 seq (decide (e.desc ≠ desc)) e.acceptTick
          (match e.state with
           | .accepted => 0xFFFF
           | .running => 0xFFFF
           | .committing => 0xFFFF
           | _ => e.status)
      else answer (consume s i q none) i q 3 0 seq false 0 0xFFFF
    | none => answer (consume s i q none) i q 3 0 seq false 0 0xFFFF

/-- The host address of a queue's submission slot RD (R179). -/
def sqSlot (s : State) (i q : Nat) : W64 :=
  let x := getQueue (getStall s i) q
  x.sqBase + BitVec.ofNat 64 (64 * (x.rd.toNat % 2 ^ depthLog2 s i))

/-- The descriptor in slot RD is read. A failed host read leaves RD and waits for the next doorbell (R202). -/
def execDescriptorRead (stall : Fin 16) (q : Fin 8) (readFault : Bool) (desc : List Byte) (s : State) :
    Host.Outcome State Fault Refusal :=
  if !readsDesc s stall.val q.val then .next s
  else
    let s := hostRead s stall.val (sqSlot s stall.val q.val) 64
    if readFault then .next (modStall s stall.val (fun st => modQueue st q.val (fun x => { x with latched := none })))
    else .next (classify s stall.val q.val (padTo 64 desc))

/-- A job fails before its commit: its dependency failed (Table 5-10). -/
def failDependents (s : State) (i : Nat) : State :=
  ((getStall s i).runs.filter (fun r => !r.committing)).foldl (fun s r =>
    match jobOf s i r.queue r.seq with
    | some d => if depFailed s i d && decide (r.nextTile = 0) then toCommitting s i r.queue r.seq 0x0103 else s
    | none => s) s

/-- The queue line is acknowledged: the job is accepted (R186). -/
def acceptOp (s : State) (i q : Nat) (desc : List Byte) : State :=
  let seq := u32 desc 0
  let s := modStall s i (fun st => modQueue st q (fun x => unlatch { x with
    accepting := none, ahead := seq, rd := x.rd + 1 }))
  let s := modStall s i (fun st => { st with runs := st.runs ++ [{ queue := q, seq := seq, idleSince := s.now }] })
  let s := refreshBacklog (failDependents s i)
  match (getQueue (getStall s i) q).newTail with
  | some t => tailOp (modStall s i (fun st => modQueue st q (fun x => { x with newTail := none }))) i q t
  | none => s

def execJobAccepted (stall : Fin 16) (q : Fin 8) (s : State) : Host.Outcome State Fault Refusal :=
  match (getQueue (getStall s stall.val) q.val).accepting with
  | some d => if groomUp s 0 then .next (acceptOp s stall.val q.val d) else .next s
  | none => .next s

/-- QUE_SQ_CTL.RESUME (R187); that it clears STOP_KIND and STOP_REASON too is the model's choice (notes/assumptions/16.md). -/
def resumeOp (s : State) (i q : Nat) : State :=
  modStall s i (fun st => modQueue st q (fun x => { x with stopped := false, stopKind := 0, stopReason := 0 }))
def execQueSqResume (stall : Fin 16) (q : Fin 8) (s : State) : Host.Outcome State Fault Refusal :=
  .next (ownWrite stall.val (fun s => resumeOp s stall.val q.val) s)

/-! ### Consumed completions (R182, R189) -/

/-- Entries whose completion the driver has consumed are RETIRED. -/
def retire (head : W32) (j : Table (Option JEntry)) : Table (Option JEntry) :=
  j.map (fun x => (x.1, x.2.map (fun e =>
    if e.state = .completed ∧ laterThan head e.seq then { e with state := .retired } else e)))

/-- A queue that waits for a journal entry accepts the descriptor it holds once the entry is free (R186). -/
def releaseSlot (s : State) (i q : Nat) : State :=
  let x := getQueue (getStall s i) q
  match x.waiting with
  | some d => if stallActive s i && groomUp s 0 && entryFree x ((u32 d 0).toNat % 2 ^ depthLog2 s i) then acceptStep1 s i q d else s
  | none => s

/-- QUE_CQ_HEAD: written past CDONE it is treated as CDONE (R201). -/
def cqHeadOp (s : State) (i q : Nat) (head : W32) : State :=
  let x := getQueue (getStall s i) q
  let h := if laterThan head x.cdone then x.cdone else head
  releaseSlot (modStall s i (fun st => modQueue st q (fun x => { x with cqHead := h, journal := retire h x.journal }))) i q

def execQueCqHead (stall : Fin 16) (q : Fin 8) (head : W32) (s : State) : Host.Outcome State Fault Refusal :=
  .next (ownWrite stall.val (fun s => cqHeadOp s stall.val q.val head) s)

/-- What a stall's queues held back happens: held doorbells and a free slot (R154). -/
def resumeQueues (s : State) (i : Nat) : State :=
  (List.range 8).foldl (fun s q =>
    let s := match (getQueue (getStall s i) q).held with
      | some t => tailOp (modStall s i (fun st => modQueue st q (fun x => { x with held := none }))) i q t
      | none => s
    releaseSlot s i q) s

/-! ### Placement (R332, R333) -/

/-- W_JOB in MiB, which is tokens (R332). -/
def wJob (s : State) (i : Nat) : Nat :=
  match (((stallRec s i).map StallRec.jobAbi).getD 0).toNat / 4096 with
  | 0 => 14
  | w => w

def heldTokens (a : ArrayU) (i : Nat) : List Nat := (List.range 14).filter (fun t => decide (tget none a.tokens t = some i))
def freeTokens (a : ArrayU) : List Nat := (List.range 14).filter (fun t => (tget none a.tokens t).isNone && !a.transit.getLsbD t)

/-- Tokens granted to a stall, lowest first. -/
def grantTokens (s : State) (n i : Nat) (ts : List Nat) : State :=
  modArr s n (fun a => { a with tokens := ts.foldl (fun t k => tset none t k (some i)) a.tokens })

/-- Whether an array takes work of a stall's jobs: not while the stall's own image leaves it (R343). -/
def takesRuns (s : State) (n i : Nat) : Bool :=
  arrUsable s n && !(getArr s n).parked && !(getArr s n).moving.any (fun m => m.holder == i) && !s.power.toPark.getLsbD n && decide ((runsOn s n).length < 15)

/-- The array with the fewest placed runs, then the lowest number. -/
def leastPlaced (s : State) (ns : List Nat) : Option Nat :=
  ns.foldl (fun best n => match best with
    | none => some n
    | some b => if (runsOn s n).length < (runsOn s b).length then some n else some b) none

/-- Whether a stall can have a run on an array: it owns it, holds tokens there, or finds enough free (R333). -/
def roomOn (s : State) (i n : Nat) : Bool :=
  decide (arrOwner s n = some i)
    || (poolArr s n && !isPaced s i && (!(heldTokens (getArr s n) i).isEmpty || decide (wJob s i ≤ (freeTokens (getArr s n)).length)))

/-- Where a ready run goes (R333), first the array that a fallback map moves it to (R82); the array an uncorrectable error is
to be avoided on is left out while the stall has another (R193). -/
def placeFor (s : State) (i : Nat) (avoid moveTo : Option Nat) : Option Nat :=
  let all := (List.range 8).filter (fun n => takesRuns s n i && mayUseArr s i n)
  let ok := match avoid with
    | some a => if (List.range 8).any (fun n => n != a && arrUsable s n && mayUseArr s i n) then all.filter (· != a) else all
    | none => all
  let owned := ok.filter (fun n => decide (arrOwner s n = some i))
  let pool := if isPaced s i then [] else ok.filter (fun n => poolArr s n)
  match moveTo.bind (fun n => if ok.contains n && roomOn s i n then some n else none) with
  | some n => some n
  | none =>
  match leastPlaced s owned with
  | some n => some n
  | none => match leastPlaced s (pool.filter (fun n => !(heldTokens (getArr s n) i).isEmpty)) with
    | some n => some n
    | none => pool.find? (fun n => decide (wJob s i ≤ (freeTokens (getArr s n)).length))

/-- The lowest event set of an array that no placed run uses (R303). -/
def freeSet (s : State) (n : Nat) : Nat :=
  let used := (runsOn s n).map (fun x => ((getRun s (.job x.1 x.2.1 x.2.2)).map (·.evSet)).getD 15)
  ((List.range 15).find? (fun k => !used.contains k)).getD 14

/-- A run is placed on array `n`: tokens of a pool array are granted, and its event set is cleared. -/
def placeOn (s : State) (i q : Nat) (seq : W32) (n : Nat) : State :=
  let a := getArr s n
  let s := if poolArr s n && (heldTokens a i).isEmpty then grantTokens s n i ((freeTokens a).take (wJob s i)) else s
  let k := freeSet s n
  let s := evMod s n k (fun _ => 0)
  let s := modStall s i (fun st => { st with placedNow := setBit st.placedNow n true })
  modRun s (.job i q seq) (fun r => { r with array := some n, evSet := k, moveTo := none, idleSince := s.now })

def execJobRunPlace (stall : Fin 16) (q : Fin 8) (seq : W32) (s : State) : Host.Outcome State Fault Refusal :=
  let i := stall.val
  match getRun s (.job i q.val seq), jobOf s i q.val seq with
  | some r, some d =>
    if stallRuns s i && groomUp s 1 && r.array.isNone && !r.committing && !r.stabled && mayStart s i q.val seq d then
      if depFailed s i d then .next (toCommitting s i q.val seq 0x0103)
      else match placeFor s i r.avoid r.moveTo with
        | some n => .next (refreshBacklog (placeOn s i q.val seq n))
        | none => .next (refreshBacklog s)
    else .next s
  | _, _ => .next s

/-! ### Commit and completion (R190, R191) -/

/-- The job of a queue that commits next: the first not yet COMMITTED from CDONE on. -/
def nextCommit (s : State) (i q : Nat) : Option JEntry :=
  let x := getQueue (getStall s i) q
  let n := (x.ahead - x.cdone).toNat + 1
  let before (seq : W32) : Bool := match jobEntry s i q seq with
    | some e => (match e.state with
      | .accepted => true
      | .running => true
      | .committing => true
      | _ => false)
    | none => false
  ((List.range (min n (2 ^ depthLog2 s i))).find? (fun k => before (x.cdone + BitVec.ofNat 32 k))).bind
    (fun k => jobEntry s i q (x.cdone + BitVec.ofNat 32 k))

/-- The extents of a job's commit list: source in the region, destination, length (R175). -/
def commitList (s : State) (i : Nat) (d : JobDesc) : List (Nat × Nat × Nat) :=
  (List.range (min (leNat (regionRead s i d.commit 4)) 64)).map (fun k =>
    let b := regionRead s i (d.commit + 8 + 16 * k) 16
    (d.work + leNat (slice b 0 4), leNat (slice b 4 8), leNat (slice b 12 4)))

/-- Extents copied in list order, with NO_ALLOC, by transfers of the device (R190, R300, R304). -/
def copyExtents (s : State) (i : Nat) (ext : List (Nat × Nat × Nat)) : State :=
  let n := (ext.map (·.2.2)).sum
  ext.foldl (fun s e => regionWrite (regionTouch s i e.1 e.2.2 false) i e.2.1 (regionRead s i e.1 e.2.2) false)
    (countDev s i ext.length n n)

/-- The job is written COMMITTED (R190, Table 5-9); a failure copies no extent. -/
def commitOp (s : State) (i q : Nat) (e : JEntry) : State :=
  let s := if e.status = 0 then copyExtents s i (commitList s i (jobDesc e.desc)) else s
  let s := setEntry s i q e.seq (fun x => { x with state := .committed, commitTick := s.air.abs })
  refreshBacklog (failDependents (dropRun s i q e.seq) i)

/-- Whether a commit copy reads a block that memory cannot give (Table 9-5). -/
def commitBad (s : State) (i : Nat) (e : JEntry) : Bool :=
  e.status == 0 && (commitList s i (jobDesc e.desc)).any (fun x => regionBad s i x.1 x.2.2)

/-- The key under which a failed commit copy is kept among a run's failed tasks: above every tile and transfer index. -/
def commitKey : Nat := 2 ^ 25

/-- A commit whose copy fails, as a tile task on an uncorrectable error (Table 9-5, R193): the job executes once more, then it
fails with TILE_ECC (notes/assumptions/17.md). -/
def commitFail (s : State) (i q : Nat) (e : JEntry) : State :=
  if (getRun s (.job i q e.seq)).any (fun r => r.eccTiles.contains commitKey) then toCommitting s i q e.seq 0x0101
  else
    let s := modRun s (.job i q e.seq) (fun r => { r with committing := false, eccTiles := commitKey :: r.eccTiles })
    refreshBacklog (rerunJob s i q e.seq)

def execCommitDone (stall : Fin 16) (q : Fin 8) (s : State) (mem : MemRead := .clean) : Host.Outcome State Fault Refusal :=
  match nextCommit s stall.val q.val with
  | some e =>
    if e.state = .committing ∧ stallRuns s stall.val ∧ (e.status ≠ 0 ∨ (devFeeder s stall.val).isSome = true) then
      let s := if e.status = 0 then memMet s stall.val mem ((commitList s stall.val (jobDesc e.desc)).flatMap (fun x =>
        touchedBlocks (regionAddr s stall.val x.1) x.2.2)) else s
      if commitBad s stall.val e then .next (commitFail s stall.val q.val e) else .next (commitOp s stall.val q.val e)
    else .next s
  | none => .next s

/-- The completion record (Table 5-5). -/
def completionRecord (q dLog2 : Nat) (e : JEntry) : List Byte :=
  let d := jobDesc e.desc
  let flags : Byte := flag 8 0 (bit e.seq dLog2) ||| flag 8 1 (decide (1 < e.runs.toNat)) ||| flag 8 2 e.sat
  bytesOf e.seq ++ bytesOf e.status ++ [flags, BitVec.ofNat 8 q] ++ bytesOf e.acceptTick ++ bytesOf e.commitTick
    ++ leBytes 4 (min e.arrayNs.toNat 0xFFFFFFFF) ++ bytesOf d.user

/-- The completion interrupt of a queue is raised (R184). -/
def completionIrq (s : State) (i q : Nat) : State :=
  raiseSource (modStall s i (fun st => modQueue st q (fun x => { x with sinceIrq := 0, coalRunning := false })))
    (BitVec.ofNat 16 (0x100 + 8 * i + q))

/-- One completion more: the interrupt on COUNT or IRQ_NOW, else the timer runs (R184). -/
def countCompletion (s : State) (i q : Nat) (now : Bool) : State :=
  let x := getQueue (getStall s i) q
  let count := max 1 (bits x.coal 0 8).toNat
  if now || decide (count ≤ x.sinceIrq + 1) then completionIrq s i q
  else modStall s i (fun st => modQueue st q (fun x => { x with
    sinceIrq := x.sinceIrq + 1, coalRunning := decide ((bits x.coal 8 16).toNat ≠ 0) }))

/-- The completion record is written, the entry COMPLETED, and CDONE moved (R191). -/
def completeOp (s : State) (i q : Nat) (e : JEntry) : State :=
  let k := depthLog2 s i
  let x := getQueue (getStall s i) q
  let s := emit s (.mwr i (x.cqBase + BitVec.ofNat 64 (32 * (e.seq.toNat % 2 ^ k))) (completionRecord q k e))
  let s := setEntry s i q e.seq (fun y => { y with state := .completed })
  let s := modStall s i (fun st => modQueue st q (fun y => { y with cdone := e.seq + 1 }))
  countCompletion s i q (jobDesc e.desc).irqNow

def execCompletionWrite (stall : Fin 16) (q : Fin 8) (s : State) : Host.Outcome State Fault Refusal :=
  let x := getQueue (getStall s stall.val) q.val
  match jobEntry s stall.val q.val x.cdone with
  | some e =>
    if e.state = .committed ∧ groomUp s 0 ∧ (unreachable s stall.val = false) then .next (completeOp s stall.val q.val e)
    else .next s
  | none => .next s

def execCqCoalTimer (stall : Fin 16) (q : Fin 8) (s : State) : Host.Outcome State Fault Refusal :=
  if (getQueue (getStall s stall.val) q.val).coalRunning then .next (completionIrq s stall.val q.val) else .next s

/-! ### Control areas (R177, R203) -/

/-- The control area of a stall is initialised with a new EPOCH, non-zero, from the entropy source (R198, R203). -/
def initControl (s : State) (i : Nat) : State :=
  let e : W32 := (draw s).setWidth 32
  let s := drew s
  modStall s i (fun st => { st with
    epoch := if e = 0 then 1 else e, badJournal := false, initialised := true, runs := [],
    queues := (List.range (((stallRec s i).map (·.queues)).getD 0)).foldl (fun t q => tmod {} t q (fun x => { x with
      rd := 0, ahead := 0xFFFFFFFF, cdone := 0, latched := none, newTail := none, accepting := none, waiting := none, journal := [],
      sinceIrq := 0, coalRunning := false })) st.queues })

/-- One queue is rebuilt from its journal: unaccepted writes are dropped, and a job interrupted before COMMITTING becomes
ACCEPTED again; one in COMMITTING keeps its status, and its commit restarts (R189, R190). -/
def restoreQueue (x : Queue) : Queue :=
  { x with latched := none, newTail := none, accepting := none, waiting := none, sinceIrq := 0, coalRunning := false,
           journal := x.journal.filterMap (fun y => match y.2 with
             | none => none
             | some e =>
               if laterThan e.seq x.ahead then none
               else some (y.1, some (match e.state with
                 | .running => { e with state := .accepted, status := 0 }
                 | _ => e))) }

/-- The runs to make again: every job of the journal before COMMITTED, in queue and journal order; one in COMMITTING has only
its commit left. -/
def requeued (s : State) (st : Stall) : List Run :=
  st.queues.flatMap (fun qx => qx.2.journal.filterMap (fun y => match y.2 with
    | some e =>
      if e.state = .accepted then some { queue := qx.1, seq := e.seq, idleSince := s.now }
      else if e.state = .committing then
        some { queue := qx.1, seq := e.seq, committing := true, fail := if e.status = 0 then none else some e.status, idleSince := s.now }
      else none
    | none => none))

/-- The queue registers and runs are rebuilt from the control area; a job whose run raised the latched fault commits
JOB_FAULT (R194, R203). -/
def restoreControl (s : State) (i : Nat) (job : Option (Nat × W32)) : State :=
  let s := modStall s i (fun st => { st with
    queues := tmods {} st.queues (List.range 8) (fun _ => restoreQueue) })
  let s := modStall s i (fun st => { st with runs := requeued s st, openBatches := [], closedBatches := [] })
  match job with
  | none => s
  | some (q, seq) =>
    if (getRun s (.job i q seq)).isNone then s
    else
      let s := toCommitting s i q seq 0x0102
      match nextCommit s i q with
      | some e => if e.seq = seq then commitOp s i q e else s
      | none => s

end Sys2Proof.Machine
end

