-- ==== Sys2Proof/Machine/Units.lean ====
section
/-!
DEFINITION. Frequencies of the units (R88, R111), the energy budget's levels (R598) and the DVFS windows in which
they act (R56, R601).
-/
namespace Sys2Proof.Machine

/-! ### Budget levels (Table 16-7) -/

/-- Whether an array is excluded from every level (R598). -/
def arrExcluded (s : State) (n : Nat) : Bool :=
  pinned s 1 n || (arrPacedBy s n).isSome || !arrUsable s n
    || s.hns.falls.any (fun r => r.enabled && r.kind == 1 && r.action == 1 && r.replace == n && isPaced s r.stall)

def sharedOwned (s : State) (n : Nat) : Bool := (arrOwner s n).any (fun i => !isPaced s i)

/-- Whether the active gait bank holds a DVFS_OPEN for a unit. -/
def hasWindow (s : State) (domain unit : Nat) : Bool :=
  (gaitEntries s.air).any (fun x => gAction x.2 == 4 && (gTarget x.2).toNat / 16 == domain
    && ((gTarget x.2).toNat % 16 == unit || (gTarget x.2).toNat % 16 == 15))

/-- Arrays of a kind that a level may change, highest number first. -/
def levelArrays (s : State) (pool : Bool) : List Nat :=
  (List.range 8).reverse.filter (fun n => arrPresent s n && !arrExcluded s n && (if pool then poolArr s n else sharedOwned s n))

/-- The arrays whose park a level first brings in, of those that are not excluded (levels 6 to 21). -/
def levelPark (s : State) (level : Nat) : Option Nat :=
  if 6 ≤ level ∧ level ≤ 13 then (levelArrays s true)[level - 6]?
  else if 14 ≤ level ∧ level ≤ 21 then (levelArrays s false)[level - 14]?
  else none

/-- The arrays parked at a level. -/
def parkedAt (s : State) (level : Nat) : List Nat := (List.range (level + 1)).filterMap (levelPark s)

/-- Frequency wanted of each unit at a level. -/
def arrWant (s : State) (level n : Nat) : Nat :=
  let base := clockTarget s 1 n 1250
  if arrExcluded s n then base
  else if poolArr s n then (if 2 ≤ level then min base 800 else if 1 ≤ level then min base 1000 else base)
  else if sharedOwned s n && decide (3 ≤ level) then min base 800
  else base
def vecWant (s : State) (level n : Nat) : Nat :=
  let base := clockTarget s 2 n 1000
  if arrExcluded s n || pinned s 2 n then base
  else if 4 ≤ level ∧ (arrWant s level n ≠ clockTarget s 1 n 1250) then min base 500 else base
def mvpWant (s : State) (level m : Nat) : Nat :=
  let base := clockTarget s 3 m 1600
  if pinned s 3 m || s.hns.res.any (fun r => isPaced s r.stall && (r.mvpOwn.getLsbD m || r.mvpBorrow.getLsbD m)) then base
  else if 5 ≤ level then min base 800 else base

/-- Whether a level changes a unit that can be changed, beyond the level below it (R598). -/
def levelChanges (s : State) (level : Nat) : Bool :=
  if level = 0 then true
  else if level ≤ 3 then (List.range 8).any (fun n => arrPresent s n && hasWindow s 1 n && arrWant s level n != arrWant s (level - 1) n)
  else if level = 4 then (List.range 8).any (fun n => arrPresent s n && hasWindow s 2 n && vecWant s 4 n != vecWant s 3 n)
  else if level = 5 then (List.range 4).any (fun m => hasWindow s 3 m && mvpWant s 5 m != mvpWant s 4 m)
  else match levelPark s level with
    | some n => hasWindow s 1 n
    | none => false

/-- Whether a unit differs from what the level in force wants. -/
def pendingChange (s : State) (domain unit : Nat) : Bool :=
  let l := s.power.level.toNat
  if domain = 1 then
    arrPresent s unit && arrUsable s unit
      && (arrMHz s unit != arrWant s l unit || (getArr s unit).parked != (parkedAt s l).contains unit)
  else if domain = 2 then arrPresent s unit && vecMHz s unit != vecWant s l unit
  else if domain = 3 then mvpMHz s unit != mvpWant s l unit
  else false

/-! ### Rail levels (Table 16-6) -/

/-- The lowest level of VDD_ARR that supports a frequency. -/
def arrRail (f : Nat) : BitVec 2 := if f ≤ 800 then 0 else if f ≤ 1000 then 1 else 2
/-- The lowest level of VDD_CORE that supports a frequency of a domain with a maximum. -/
def coreRail (f max : Nat) : BitVec 2 := if f * 100 ≤ 64 * max then 0 else if f * 100 ≤ 80 * max then 1 else 2

def maxLevel (ls : List (BitVec 2)) : BitVec 2 := ls.foldl (fun a b => if a.toNat < b.toNat then b else a) 0

/-- The levels that the frequencies in force need. -/
def arrLevelFor (s : State) : BitVec 2 :=
  maxLevel (((List.range 8).filter (arrPresent s)).map (fun n => arrRail (arrMHz s n)))
def coreLevelFor (s : State) : BitVec 2 :=
  maxLevel (((List.range 8).filter (arrPresent s)).map (fun n => coreRail (vecMHz s n) 1000)
    ++ (List.range 4).map (fun m => coreRail (mvpMHz s m) 1600)
    ++ (List.range 6).map (fun c => coreRail (pcrMHz s c) 1200)
    ++ (List.range 6).map (fun g => coreRail (decMHz s g) 900) ++ [coreRail (nocMHz s) 1500])

def railMv (arr : Bool) (l : BitVec 2) : W16 :=
  if l = 0 then (if arr then 620 else 650) else if l = 1 then (if arr then 700 else 720) else 800

def getRail (s : State) (r : Nat) : Rail := tget {} s.power.rails r

/-- The rails follow the units' frequencies, by VOUT_COMMAND; a silent rail is not changed (R566, R601, R606). -/
def settleRails (s : State) : State :=
  let a := arrLevelFor s
  let c := coreLevelFor s
  let s := if a = s.power.arrLevel || (getRail s 0).faulted then s
    else emit { s with power := { s.power with arrLevel := a } } (.vout 0 (railMv true a))
  if c = s.power.coreLevel || (getRail s 1).faulted then s
  else emit { s with power := { s.power with coreLevel := c } } (.vout 1 (railMv false c))

/-- Whether a unit's change raises a voltage (R56). -/
def raisesVolt (s : State) (domain unit : Nat) : Bool :=
  let l := s.power.level.toNat
  if domain = 1 then decide (s.power.arrLevel.toNat < (arrRail (arrWant s l unit)).toNat)
  else if domain = 2 then decide (s.power.coreLevel.toNat < (coreRail (vecWant s l unit) 1000).toNat)
  else if domain = 3 then decide (s.power.coreLevel.toNat < (coreRail (mvpWant s l unit) 1600).toNat)
  else false

/-- Whether a change that raises a voltage finds its rail silent (R606). -/
def railSilent (s : State) (domain : Nat) : Bool := if domain = 1 then (getRail s 0).faulted else (getRail s 1).faulted

/-! ### Windows -/

/-- Whether a unit runs a task. -/
def unitBusy (s : State) (domain unit : Nat) : Bool :=
  if domain = 1 then (getArr s unit).run.isSome
  else if domain = 2 then (getVec s unit).run.isSome
  else if domain = 3 then !(getPath s unit).run.isEmpty
  else false

/-- Whether dispatch to a unit is held for a change in its window (R56). -/
def dvfsHold (s : State) (domain unit : Nat) : Bool :=
  s.power.windows.any (fun w => w.domain == domain && w.unit == unit && w.hold)

/-- The level's setting is made on a unit. An array with placed runs parks only after their migration (R600). -/
def applyUnit (s : State) (domain unit : Nat) : State :=
  let l := s.power.level.toNat
  let s :=
    if domain = 1 then
      let park := (parkedAt s l).contains unit && (runsOn s unit).isEmpty
      let stay := (getArr s unit).parked && (parkedAt s l).contains unit
      { modArr s unit (fun a => { a with freq := BitVec.ofNat 5 (arrWant s l unit / 50), parked := park || stay }) with
        power := { s.power with toPark := if park then setBit s.power.toPark unit false else s.power.toPark } }
    else if domain = 2 then modVec s unit (fun v => { v with freq := BitVec.ofNat 5 (vecWant s l unit / 50) })
    else if domain = 3 then modPath s unit (fun p => { p with freq := BitVec.ofNat 6 (mvpWant s l unit / 50) })
    else s
  settleRails { s with power := { s.power with
    windows := s.power.windows.map (fun w => if w.domain = domain ∧ w.unit = unit then { w with hold := false } else w) } }

/-- Whether a refresh window is open on a stack. -/
def refreshOpen (s : State) : Bool := (List.range 4).any (fun k => (getStack s k).window.isSome)

/-- A held change is made once the unit is idle (R56, R605); on the NOC not while a refresh window is open (R67). -/
def settleUnit (s : State) (domain unit : Nat) : State :=
  if dvfsHold s domain unit && !unitBusy s domain unit && !(decide (domain = 6) && refreshOpen s) then applyUnit s domain unit else s

/-- The units a DVFS_OPEN targets (R48). -/
def dvfsUnits (s : State) (domain unit : Nat) : List Nat :=
  let all := if domain = 1 ∨ domain = 2 then (List.range 8).filter (arrPresent s)
    else if domain = 3 then List.range 4 else if domain = 4 ∨ domain = 5 then List.range 6 else if domain = 6 then [0] else []
  if unit = 15 then all else all.filter (· == unit)

/-- A DVFS window opens (R56): a pending change that it is long enough for is made, or waits for running tasks. -/
def openWindow (s : State) (domain len : Nat) (unit : Nat) : State :=
  let need := if raisesVolt s domain unit then 7373 else 1229
  let hold := groomUp s 2 && pendingChange s domain unit && decide (need ≤ len)
    && !(raisesVolt s domain unit && railSilent s domain)
  let s := { s with power := { s.power with
    windows := { domain := domain, unit := unit, closes := s.now + len, hold := hold } :: s.power.windows } }
  settleUnit s domain unit

def execDvfsOpen (domain unit : BitVec 4) (len : W16) (s : State) : Host.Outcome State Fault Refusal :=
  match takeAct s 4 (domain ++ unit) (fun a => a == len) with
  | some (_, s) => .next ((dvfsUnits s domain.toNat unit.toNat).foldl (fun s u => openWindow s domain.toNat len.toNat u) s)
  | none => .next s

/-- Windows that have closed are gone, and a change not begun in them is not made (R56). -/
def closeWindows (s : State) : State :=
  { s with power := { s.power with windows := s.power.windows.filter (fun w => decide (s.now < w.closes)) } }

end Sys2Proof.Machine
end

