-- ==== Sys2Proof/Machine/Vector.lean ====
section
/-!
DEFINITION. What a vector task computes (ch. 8, sections 2 and 3). Tile positions are taken in ascending order,
each reading the buffers as they stood before it (notes/assumptions/20.md).
-/
namespace Sys2Proof.Machine

/-- A word of a tile buffer, and the element an operand spec selects (R272). -/
def tbGet (v : VecU) (tb i j : Nat) : W32 := tget 0 v.tb (tb * 1024 + 32 * (i % 32) + j % 32)
def specTb (sp : VSpec) (t : Nat) : Nat := if sp.tadv then sp.tb + t else sp.tb
def specGet (v : VecU) (sp : VSpec) (imm : W32) (t i j : Nat) : W32 :=
  if sp.tb = 7 then imm else tbGet v (specTb sp t) (sp.row0 + sp.rowStep * i) (sp.col0 + sp.colStep * j)
def flagAt (v : VecU) (reg t i j : Nat) : Bool := tget false v.hf (reg * 6144 + 1024 * t + 32 * i + j)

/-- What a vector task has put out so far. -/
structure VOut where
  vec : VecU
  arr : ArrayU
  sat : Bool := false
  nan : Bool := false
  clamps : Nat := 0
  deriving DecidableEq, Repr

/-- A word written to a destination element; a NaN of an FP32 operation is noted. -/
def vPut (o : VOut) (key : Nat) (x : W32) (isFp : Bool) : VOut :=
  { o with vec := { o.vec with tb := tset 0 o.vec.tb key x }, nan := o.nan || (isFp && fpIsNaN x) }
def vKey (sp : VSpec) (t i j : Nat) : Nat := specTb sp t * 1024 + 32 * ((sp.row0 + i) % 32) + (sp.col0 + j) % 32

/-- An INT32 result, saturated as R229 (R274). -/
def intRes (x : Int) : W32 × Bool := let r := satSum x; (BitVec.ofInt 32 r.1, r.2)

/-- The element-wise operations with a value (Table 8-4): the result and whether it saturated. -/
def vElem (d : VecDesc) (dd a b : W32) (f : Bool) : W32 × Bool :=
  let ai := a.toInt
  let bi := b.toInt
  let fp (x : W32) : W32 × Bool := (x, false)
  match d.vop with
  | 0x01 => if d.fp then fp (fpAdd a b) else intRes (ai + bi)
  | 0x02 => if d.fp then fp (fpSub a b) else intRes (ai - bi)
  | 0x03 => if d.fp then fp (fpMul a b) else intRes (ai * bi)
  | 0x04 => if d.fp then fp (fpAdd dd (fpMul a b)) else intRes (dd.toInt + ai * bi)
  | 0x05 => if d.fp then fp (fpMax a b) else fp (if ai < bi then b else a)
  | 0x06 => if d.fp then fp (fpMin a b) else fp (if bi < ai then b else a)
  | 0x07 => if d.fp then fp (fpAbs a) else intRes ai.natAbs
  | 0x08 => if d.fp then fp (fpNeg a) else intRes (-ai)
  | 0x09 => intRes (ai * 2 ^ (d.imm.toNat % 32))
  | 0x0A => fp (BitVec.ofInt 32 (fdiv ai (2 ^ (d.imm.toNat % 32))))
  | 0x0B => fp (fpCvtIF ai b)
  | 0x0C => let r := fpCvtFI a; (BitVec.ofInt 32 r.1, r.2)
  | 0x10 => fp (fpExpo a)
  | 0x11 => fp (fpRecip a)
  | 0x12 => fp (fpRsqrt a)
  | 0x1A => let x := if f then a else b; fp (if d.fp then fpCanon x else x)
  | 0x35 => fp (if f then 1 else 0)
  | _ => fp a

/-- Whether an operation's results are FP32 values. -/
def fpResult (d : VecDesc) : Bool :=
  d.vop == 0x0B || d.vop == 0x10 || d.vop == 0x11 || d.vop == 0x12
  || (d.fp && d.vop != 0x0C && d.vop != 0x30 && d.vop != 0x31 && d.vop != 0x32 && d.vop != 0x33)

/-- The cells of a tile, row-major. -/
def cells32 : List (Nat × Nat) := (List.range 32).flatMap (fun i => (List.range 32).map (fun j => (i, j)))

/-- One tile position of an element-wise operation, COPY or TRANSPOSE. -/
def vTileElem (d : VecDesc) (o : VOut) (t : Nat) : VOut :=
  let v := o.vec
  cells32.foldl (fun o ij =>
    let i := ij.1
    let j := ij.2
    let a := if d.vop = 0x31 then specGet v d.a d.imm t j i else specGet v d.a d.imm t i j
    let b := specGet v d.b d.imm t i j
    let key := vKey d.dst t i j
    let r := vElem d (tget 0 v.tb key) a b (flagAt v d.flagIn t i j)
    let o := vPut o key r.1 (fpResult d)
    { o with sat := o.sat || r.2 }) o

/-- One tile position of a comparison or FLAGSET: the FLAG_OUT bits. -/
def vTileFlag (d : VecDesc) (o : VOut) (t : Nat) : VOut :=
  let v := o.vec
  cells32.foldl (fun o ij =>
    let a := specGet v d.a d.imm t ij.1 ij.2
    let b := specGet v d.b d.imm t ij.1 ij.2
    let r : Bool := match d.vop with
      | 0x18 => if d.fp then fpGt a b else decide (b.toInt < a.toInt)
      | 0x19 => if d.fp then fpEq a b else decide (a = b)
      | _ => if d.fp then !fpIsZero a else decide (a ≠ 0)
    { o with vec := { o.vec with hf := tset false o.vec.hf (d.flagOut * 6144 + 1024 * t + 32 * ij.1 + ij.2) r } }) o

/-- The combining operation of reductions and scans (R276, R277). -/
def vCombine (d : VecDesc) (x y : W32) : W32 × Bool :=
  let op : Nat := if d.vop = 0x20 ∨ d.vop = 0x28 then 0 else if d.vop = 0x22 then 2 else 1
  if d.fp then ((if op = 0 then fpAdd x y else if op = 1 then fpMax x y else fpMin x y), false)
  else if op = 0 then intRes (x.toInt + y.toInt)
  else if op = 1 then ((if x.toInt < y.toInt then y else x), false)
  else ((if y.toInt < x.toInt then y else x), false)

/-- The element sequences of R276 with the place each result of a reduction goes to: (positions, row, column). -/
def vSequences (d : VecDesc) : List (List (Nat × Nat × Nat) × Nat × Nat) :=
  let ts := List.range d.count
  match d.axis with
  | 1 => (List.range 32).map (fun i =>
      (ts.flatMap (fun t => (List.range 32).map (fun j => (t, i, j))), i, 0))
  | 2 => (List.range 32).map (fun j =>
      (ts.flatMap (fun t => (List.range 32).map (fun i => (t, i, j))), 0, j))
  | _ => [(ts.flatMap (fun t => cells32.map (fun ij => (t, ij.1, ij.2))), 0, 0)]

/-- The DST element of a sequence's result. -/
def reduceKey (d : VecDesc) (i j : Nat) : Nat :=
  match d.axis with
  | 1 => d.dst.tb * 1024 + 32 * i + d.dst.col0
  | 2 => d.dst.tb * 1024 + 32 * d.dst.row0 + j
  | _ => d.dst.tb * 1024 + 32 * d.dst.row0 + d.dst.col0

/-- A reduction (R276): one DST element per sequence. -/
def vReduce (d : VecDesc) (o : VOut) : VOut :=
  let v := o.vec
  (vSequences d).foldl (fun o sq =>
    let key := reduceKey d sq.2.1 sq.2.2
    let xs := sq.1.map (fun p => specGet v d.a d.imm p.1 p.2.1 p.2.2)
    let xs := if d.accum then tget 0 v.tb key :: xs else xs
    match xs with
    | [] => o
    | x :: rest =>
      let r := rest.foldl (fun (acc : W32 × Bool) y => let z := vCombine d acc.1 y; (z.1, acc.2 || z.2)) (x, false)
      let o := vPut o key r.1 (fpResult d)
      { o with sat := o.sat || r.2 }) o

/-- The identity of a scan (R277). -/
def scanIdentity (d : VecDesc) : W32 :=
  if d.vop = 0x28 then 0 else if d.fp then fpInf true else 0x80000001

/-- The fold of a scan so far: its value, whether the addition that formed it saturated, and whether it has begun. -/
structure ScanAcc where
  value : W32 := 0
  sat : Bool := false
  begun : Bool := false

/-- One place of a scan (R277): the fold before it is the exclusive output, the fold with it the inclusive one; only a fold that
is put out counts as saturated (R274). -/
def scanStep (d : VecDesc) (v : VecU) (st : VOut × ScanAcc) (p : Nat × Nat × Nat) : VOut × ScanAcc :=
  let o := st.1
  let x := specGet v d.a d.imm p.1 p.2.1 p.2.2
  let fresh := !st.2.begun || (d.seg && flagAt v d.flagIn p.1 p.2.1 p.2.2)
  let before : W32 × Bool := if fresh then (scanIdentity d, false) else (st.2.value, st.2.sat)
  let r := if fresh && !d.seg && !d.excl then ((if d.fp then fpCanon x else x), false) else vCombine d before.1 x
  let out := if d.excl then before else r
  let o := vPut o (vKey d.dst p.1 p.2.1 p.2.2) out.1 (fpResult d)
  ({ o with sat := o.sat || out.2 }, { value := r.1, sat := r.2, begun := true })

/-- A scan (R277): each sequence's running fold and its outputs. -/
def vScan (d : VecDesc) (o : VOut) : VOut :=
  (vSequences d).foldl (fun x sq => (sq.1.foldl (scanStep d o.vec) (x, {})).1) o

/-- One tile position of VLOAD (R278). -/
def vLoad (w : Window) (d : VecDesc) (o : VOut) (t : Nat) : VOut :=
  let base := halfByte w d.half (d.addr + t * d.tstride)
  cells32.foldl (fun o ij =>
    let e := 32 * ij.1 + ij.2
    let x : W32 := match d.fmt with
      | 0 => BitVec.ofNat 32 (leNat (scrRead o.arr w (base + 4 * e) 4))
      | 1 => BitVec.ofInt 32 (operandOf (codeAt' o.arr w base e false) false d.uns d.zp)
      | _ => BitVec.ofInt 32 (operandOf (codeAt' o.arr w base e true) true d.uns d.zp)
    vPut o (vKey d.dst t ij.1 ij.2) x false) o
where
  /-- The code number `e` of a tile of codes. -/
  codeAt' (a : ArrayU) (w : Window) (b e : Nat) (four : Bool) : Nat :=
    if four then
      let v := (scrGet a w (b + e / 2)).toNat
      if e % 2 = 0 then v % 16 else v / 16
    else (scrGet a w (b + e)).toNat

/-- One tile position of VSTORE (R278). -/
def vStore (w : Window) (d : VecDesc) (seed : W64) (o : VOut) (t : Nat) : VOut :=
  let base := halfByte w d.half (d.addr + t * d.tstride)
  let v := o.vec
  cells32.foldl (fun o ij =>
    let e := 32 * ij.1 + ij.2
    let x := specGet v d.a d.imm t ij.1 ij.2
    if d.fmt = 0 then { o with arr := scrWrite o.arr w (base + 4 * e) (bytesOf x) }
    else
      let u := if d.scaleValid then (scrGet o.arr w (halfByte w d.scaleHalf (d.scaleAddr + t) + ij.2)).toNat else 0
      let rho := rhoOf (genValue seed (1024 * t + e))
      let q := if d.fp then requantFp x u d.outScale rho d.zp (d.fmt == 2) d.uns
        else requant x.toInt u d.outScale rho d.zp (d.fmt == 2) d.uns
      let o := if q.2 then { o with clamps := o.clamps + 1 } else o
      if d.fmt = 1 then { o with arr := scrPut o.arr w (base + e) (BitVec.ofInt 8 q.1) }
      else
        let nib := BitVec.ofInt 4 q.1
        let b := if e % 2 = 0 then nib.setWidth 8
          else (scrGet o.arr w (base + e / 2) &&& 0x0F) ||| (nib.setWidth 8 <<< 4)
        { o with arr := scrPut o.arr w (base + e / 2) b }) o

/-! ### The words a vector task reads and writes (R292)

Words of the tile buffers are numbered from 0, two elements each; those of the head-flag registers from 3,072, 64 flags each. -/

/-- The elements an operand spec selects over the task's tiles. -/
def specKeys (d : VecDesc) (sp : VSpec) : List Nat :=
  if sp.tb = 7 then [] else (List.range d.count).flatMap (fun t => cells32.map (fun ij =>
    specTb sp t * 1024 + 32 * ((sp.row0 + sp.rowStep * ij.1) % 32) + (sp.col0 + sp.colStep * ij.2) % 32))

/-- The elements a task writes. -/
def dstKeys (d : VecDesc) : List Nat :=
  if isReduce d.vop then (vSequences d).map (fun sq => reduceKey d sq.2.1 sq.2.2)
  else if writesDst d.vop then (List.range d.count).flatMap (fun t => cells32.map (fun ij => vKey d.dst t ij.1 ij.2))
  else []

def hfWords (d : VecDesc) (reg : Nat) : List Nat :=
  (List.range d.count).flatMap (fun t => (List.range 16).map (fun k => 3072 + 96 * reg + 16 * t + k))

/-- The words read: of A, B, the DST elements of FMA and of an accumulating reduction, and FLAG_IN. -/
def vecReadWords (d : VecDesc) : List Nat :=
  ((if usesA d.vop then specKeys d d.a else []) ++ (if isBinary d.vop then specKeys d d.b else [])
    ++ (if d.vop = 4 ∨ (isReduce d.vop = true ∧ d.accum = true) then dstKeys d else [])).map (· / 2)
  ++ (if d.vop = 0x1A ∨ d.vop = 0x35 ∨ (isScan d.vop = true ∧ d.seg = true) then hfWords d d.flagIn else [])

/-- Failed words of an engine, those of the head flags from 3,072 on. -/
def vecWordsUe (v : VecU) : List Nat := v.ueTb ++ v.ueHf.map (3072 + ·)
def listEngineUe (v : VecU) (w : Nat) : VecU :=
  if (vecWordsUe v).contains w then v
  else if w < 3072 then { v with ueTb := w :: v.ueTb } else { v with ueHf := (w - 3072) :: v.ueHf }

/-- Tile-buffer words that elements written cover whole lose their error. -/
def clearTb (v : VecU) (keys : List Nat) : VecU :=
  { v with ueTb := v.ueTb.filter (fun w => !(keys.contains (2 * w) && keys.contains (2 * w + 1))) }

/-- What a task's writes clear: tile-buffer words covered whole, and the head-flag words of a comparison or FLAGSET. -/
def clearEngine (v : VecU) (d : VecDesc) : VecU :=
  let hf := if d.vop = 0x18 ∨ d.vop = 0x19 ∨ d.vop = 0x34 then hfWords d d.flagOut else []
  let v := clearTb v (dstKeys d)
  { v with ueHf := v.ueHf.filter (fun w => !hf.contains (3072 + w)) }

/-- A vector task carried out whole (R273 to R278). -/
def runVector (vec : VecU) (a : ArrayU) (w : Window) (d : VecDesc) (seed : W64) : VOut :=
  let o : VOut := { vec := vec, arr := a }
  let ts := List.range d.count
  if isReduce d.vop then vReduce d o
  else if isScan d.vop then vScan d o
  else match d.vop with
    | 0x18 | 0x19 | 0x34 => ts.foldl (vTileFlag d) o
    | 0x32 => ts.foldl (vLoad w d) o
    | 0x33 => ts.foldl (vStore w d seed) o
    | _ => ts.foldl (vTileElem d) o

end Sys2Proof.Machine
end

