-- ==== Sys2Proof/Machine/VectorPaths.lean ====
section
/-!
DEFINITION. Vector tasks (R271, R279), the gatherer (R286), thin tasks on the matrix-vector paths (R283, R285, R419).
-/
namespace Sys2Proof.Machine

/-! ### Stabling under way -/

/-- Whether work of stall `i` on array `n` has still to end: a task on the array or its engine, a thin task of a run placed there, or a
piece that a feeder moves to or from it (R319, R343). -/
def stallBusyOn (s : State) (n i : Nat) : Bool :=
  let here (c : Contrib) : Bool := c.stall == i && (getRun s c.owner).any (fun r => r.array == some n)
  (getArr s n).run.any (fun t => t.stall == i) || (getVec s n).run.any (fun t => t.stall == i)
    || (List.range 4).any (fun m => (getPath s m).run.any here) || (List.range 8).any (fun k => (getArr s k).batch.any here)
    || (List.range 16).any (fun f => (getFdr s f).run.any (fun j => j.members.any (fun x => x.stall == i && xferArray s x == some n)))

/-- Once a moving stall's tasks have ended its tokens are in transit (R343). -/
def settleMove (s : State) (n : Nat) : State :=
  match (getArr s n).moving with
  | none => s
  | some m =>
    if stallBusyOn s n m.holder then s
    else modArr s n (fun a => { a with transit := (heldTokens a m.holder).foldl (fun t k => setBit t k true) a.transit })
def settleMoves (s : State) : State := (List.range 8).foldl settleMove s

/-! ### Vector tasks -/

/-- The context an entry names by its BANK bit. -/
def entryBank (d : List Byte) : Bool := bit (u8 d 0) 7

/-- Whether a stall owns the reserve context of array `n` (R224). -/
def ownsReserve (s : State) (i n : Nat) : Bool := decide ((getArr s n).rsvStall = some i)

/-- Whether an array's context admits an entry now: the main context, or the reserve context after its switch. -/
def ctxAdmits (a : ArrayU) (bank : Bool) : Bool :=
  if bank then decide (a.ctx = .reserve) else decide (a.ctx = .main)

/-- Whether a fence, a park, a change in a window or a stabling keeps an array or its engine from dispatching. -/
def arrReady (s : State) (n domain : Nat) (i : Nat) : Bool :=
  arrUsable s n && !(getArr s n).parked && !dvfsHold s domain n
    && !((getArr s n).moving.any (fun m => m.holder == i))

def execVectorDispatch (arr : Fin 8) (work : Work) (s : State) : Host.Outcome State Fault Refusal :=
  if dispatchGated s then .next s else
  let n := arr.val
  let o := workOwner work
  let i := ownerStall s o
  match nextEntry s o with
  | none => .next s
  | some (r, d) =>
    let bank := entryBank d
    if r.array = some n ∧ opIsVec (entryOp d) = true ∧ (getVec s n).run = none ∧ arrReady s n 2 i = true then
      let w := windowOf (getArr s n) i bank
      match vecRefusal (vecDesc d) w (match o with | .job .. => true | .net _ => false) (ownsReserve s i n) with
      | some code =>
        let s := modVec s n (fun v => { v with errCode := code, errStall := BitVec.ofNat 4 i })
        .next (descFault s o code r.nextTile 2 n)
      | none =>
        if ctxAdmits (getArr s n) bank && (bank || decide (pickVec s n = some i)) then
          let t : Task := { desc := d, owner := o, stall := i, tile := r.nextTile, reserve := bank,
                            seed := entrySeed s o r.nextTile, freq := vecMHz s n }
          let s := modVec (beginEntry s o r n d) n (fun v => { v with run := some t })
          .next (refreshBacklog (if bank then s else modArr s n (fun a => { a with lastOwner := some o })))
        else .next s
    else .next s

/-- Words of a bank that a run of window bytes covers whole. -/
def bankWords (w : Window) (b len : Nat) : List Nat :=
  (List.range (len / 8 + 1)).filterMap (fun k =>
    let x := (b + 7) / 8 * 8 + 8 * k
    if x + 8 ≤ b + len then some (winByte w x / 8) else none)

/-- Words of a bank that a run of window bytes touches. -/
def bankTouch (w : Window) (b len : Nat) : List Nat :=
  if len = 0 then [] else (List.range ((b + len - 1) / 8 - b / 8 + 1)).map (fun k => winByte w (8 * (b / 8 + k)) / 8)

/-- Failed words of a bank are cleared by whole writes (R240). -/
def clearUe (a : ArrayU) (reserve : Bool) (ws : List Nat) : ArrayU :=
  if reserve then { a with ueRsv := a.ueRsv.filter (fun x => !ws.contains x) }
  else { a with ueMain := a.ueMain.filter (fun x => !ws.contains x) }

/-- The scratchpad runs a vector task reads, and those it writes (R278). -/
def vecReads (d : VecDesc) (w : Window) : List (Nat × Nat) :=
  if d.vop = 0x32 then (List.range d.count).map (fun t => (halfByte w d.half (d.addr + t * d.tstride), vecTileBytes d))
  else if d.vop = 0x33 && d.fmt != 0 && d.scaleValid then
    (List.range d.count).map (fun t => (halfByte w d.scaleHalf (d.scaleAddr + t), 32))
  else []
def vecWrites (d : VecDesc) (w : Window) : List (Nat × Nat) :=
  if d.vop = 0x33 then (List.range d.count).map (fun t => (halfByte w d.half (d.addr + t * d.tstride), vecTileBytes d)) else []

/-- An uncorrectable scratchpad word fails the task that reads it; a second within 10 s fences the array (R80, R240). -/
def arrUe (s : State) (n : Nat) (o : Owner) (t i : Nat) (bank : Bool) (code : Byte) (addr : Nat) : State :=
  let again := within10s (getArr s n).lastUe s.now
  let s := modArr s n (fun a => { a with
    errCode := code, errStall := BitVec.ofNat 4 i, errBank := bank, errAddr := BitVec.ofNat 18 addr,
    ueSeen := true, eccUe := satInc a.eccUe, lastUe := some s.now })
  let s := report s { code := 0x1001, stall := some (BitVec.ofNat 4 i), kind := 1, unit := BitVec.ofNat 8 n,
                      data := [code] ++ leBytes 3 t ++ bytesOf (ownerSeq o) }
  let s := failOwner s o t (some n)
  if again then fenceOp s n 1 else s

/-- A corrected word of an array's memories: counted, and CE_SEEN (R237, R240). -/
def arrCe (s : State) (n : Nat) : State := modArr s n (fun a => { a with ceSeen := true, eccCe := satInc a.eccCe })

/-- A failed word stays listed until a write covers it whole (R240); code 0x11 names the accumulator store. -/
def listUe (a : ArrayU) (reserve : Bool) (code : Byte) (x : Nat) : ArrayU :=
  if code = 0x11 then { a with ueAcc := if a.ueAcc.contains x then a.ueAcc else x :: a.ueAcc }
  else if reserve then { a with ueRsv := if a.ueRsv.contains x then a.ueRsv else x :: a.ueRsv }
  else { a with ueMain := if a.ueMain.contains x then a.ueMain else x :: a.ueMain }

/-- The failed word among those read: one listed, or the one the command names. -/
def metWord (words listed : List Nat) (read : MemRead) : Option Nat :=
  words.find? (fun x => listed.contains x || (match read with | .bad w => decide (x = w.toNat) | _ => false))

/-- An uncorrectable scratchpad word read by a unit other than the array's tile task fails the reader as one (R240). -/
def scrUe (s : State) (n : Nat) (o : Owner) (t i : Nat) (bank : Bool) (x : Nat) : State :=
  arrUe (modArr s n (fun a => listUe a bank 0x10 x)) n o t i bank 0x10 (x / 8)

/-- VECTOR_TASK_END (R279): what it computed is written, it is charged, and its flag is set; or a word that it read of its engine or
of the scratchpad was uncorrectable (R240, R293). A corrected word sets CE_SEEN; of the engine it is recorded (R292). -/
def execVectorTaskEnd (arr : Fin 8) (cycles : W16) (read : MemRead) (s : State) (scr : MemRead := .clean) : Host.Outcome State Fault Refusal :=
  let n := arr.val
  match (getVec s n).run with
  | none => .next s
  | some t =>
    let d := vecDesc t.desc
    let c := min cycles.toNat (vecCycles d)
    let a := getArr s n
    let w := windowOf a t.stall t.reserve
    let badScr := metWord ((vecReads d w).flatMap (fun r => bankTouch w r.1 r.2)) (if t.reserve then a.ueRsv else a.ueMain) scr
    let badVec := metWord (vecReadWords d) (vecWordsUe (getVec s n)) read
    let s := modVec s n (fun v => { v with run := none, cycles := v.cycles + BitVec.ofNat 64 c, tasks := v.tasks + 1 })
    let s := charge s t.stall t.owner .vec false (cyclesNs c t.freq)
    let s := match read with
      | .corrected x => corrected (modVec s n (fun v => { v with ceSeen := true })) 2 n x
      | _ => s
    let s := match scr with
      | .corrected _ => if (vecReads d w).isEmpty then s else arrCe s n
      | _ => s
    let s := match badVec, badScr with
      | some x, _ =>
        let s := modVec s n (fun v => { listEngineUe v x with errCode := 0x10, errStall := BitVec.ofNat 4 t.stall, ueSeen := true })
        let s := report s { code := 0x1003, stall := some (BitVec.ofNat 4 t.stall), kind := 2, unit := BitVec.ofNat 8 n,
                            data := [0x10] ++ leBytes 3 t.tile ++ bytesOf (ownerSeq t.owner) }
        failOwner s t.owner t.tile (some n)
      | none, some x => scrUe s n t.owner t.tile t.stall t.reserve x
      | none, none =>
        let o := runVector (getVec s n) (getArr s n) w d t.seed
        let s := modVec s n (fun _ => { clearEngine o.vec d with
          satSeen := o.vec.satSeen || o.sat, nanSeen := o.vec.nanSeen || o.nan, clampCnt := satAdd o.vec.clampCnt o.clamps })
        let s := modArr s n (fun _ => clearUe o.arr t.reserve ((vecWrites d w).flatMap (fun r => bankWords w r.1 r.2)))
        endEntry (markSat s t.owner o.sat) t.owner n t.tile t.desc
    .next (refreshBacklog (settleMoves (settleUnit s 2 n)))

/-! ### The gatherer (R286) -/

/-- Checks of a job's thin task at dispatch (R283). -/
def jobThinRefusal (s : State) (o : Owner) (d : ThinDesc) : Option Byte :=
  thinRefusal d true (inRegion s (ownerStall s o)) (inWork s o)

/-- The lowest path a stall may use: where its thin tasks' refusals are latched. -/
def errPath (s : State) (i : Nat) : Nat := ((List.range 4).find? (fun m => mayUseMvp s i m)).getD 0

def refuseThin (s : State) (o : Owner) (code : Byte) (t m : Nat) : State :=
  descFault (modPath s m (fun p => { p with errCode := code, errStall := BitVec.ofNat 4 (ownerStall s o) })) o code t 3 m

/-- The runs of a stall whose next entry may enter the gatherer now, but those that come after (`q`, `seq`) in the order of
ties (R286). -/
def entersBefore (s : State) (i q : Nat) (seq : W32) : Bool :=
  (getStall s i).runs.any (fun r => (decide (r.queue < q) || (decide (r.queue = q) && laterThan seq r.seq))
    && (nextEntry s (.job i r.queue r.seq)).any (fun x => opIsThin (entryOp x.2) && gathers s i (thinDesc x.2)))

/-- A thin task becomes ready and joins a batch (R286); batches whose window has passed have closed before. -/
def execGatherEnter (stall : Fin 16) (q : Fin 8) (seq : W32) (s : State) : Host.Outcome State Fault Refusal :=
  let i := stall.val
  let o : Owner := .job i q.val seq
  match nextEntry s o with
  | none => .next s
  | some (r, d) =>
    let td := thinDesc d
    if opIsThin (entryOp d) && gathers s i td && !entersBefore s i q.val seq then
      match jobThinRefusal s o td with
      | some code => .next (refuseThin s o code r.nextTile (errPath s i))
      | none =>
        let s := beginEntry (expireBatches s i false) o r (r.array.getD 0) d
        .next (refreshBacklog (modStall s i (fun st =>
          joinBatch (thinRowsOf s i) st { queue := q.val, seq := seq, tile := r.nextTile, desc := d, ready := s.now })))
    else .next s

def execBatchWindowExpiry (stall : Fin 16) (s : State) : Host.Outcome State Fault Refusal :=
  .next (refreshBacklog (expireBatches s stall.val false))

/-! ### Paths -/

/-- A path starts on contributors' rows: they are read into its row buffer (R283). -/
def startPath (s : State) (m : Nat) (cs : List Contrib) (rows : List Byte) : State :=
  modPath s m (fun p => { p with run := cs, rows := BitVec.ofNat 6 (contribRows cs), rowBuf := mwrite [] 0 rows })

/-- A job contributor's rows of A. -/
def rowsOf (s : State) (c : Contrib) : List Byte :=
  let d := thinDesc c.desc
  (List.range d.m).flatMap (fun r => regionRead s c.stall (d.a + r * d.aStride) (thinARow d))

def execThinDispatch (path : Fin 4) (work : Work) (s : State) : Host.Outcome State Fault Refusal :=
  if dispatchGated s then .next s else
  let m := path.val
  let o := workOwner work
  let i := ownerStall s o
  let free := (getPath s m).run.isEmpty && !(getPath s m).out && !dvfsHold s 3 m
  match work with
  | .net c =>
    match nextEntry s o with
    | none => .next s
    | some (r, d) =>
      if free && opIsThin (entryOp d) && decide (netNext s m = some c.val) then
        match thinRefusal (thinDesc d) false (fun _ _ => true) (fun _ _ => true) with
        | some code => .next (refuseThin s o code r.nextTile m)
        | none =>
          let n := (getCarrier s c.val).array
          let k : Contrib := { owner := o, stall := i, tile := r.nextTile, desc := d, seed := entrySeed s o r.nextTile, ready := s.now }
          let td := thinDesc d
          let rows := (List.range td.m).flatMap (fun j => mread (getArr s n).rsv (td.a + j * td.aStride) (thinARow td))
          .next (startPath (beginEntry s o r n d) m [k] rows)
      else .next s
  | .job _ q seq =>
    if !(free && (netNext s m).isNone && mayUseMvp s i m && decide (pickPath s m = some i)) then .next s
    else match batchOf s i q.val seq with
      | some b =>
        let cs := b.tasks.map (toContrib i)
        if stallRuns s i && (batchesFor s i true).contains b then
          .next (refreshBacklog (startPath (dropBatch s i b) m cs (cs.flatMap (rowsOf s))))
        else .next s
      | none =>
        match nextEntry s o with
        | none => .next s
        | some (r, d) =>
          if thinFor s i true d then
            match jobThinRefusal s o (thinDesc d) with
            | some code => .next (refuseThin s o code r.nextTile m)
            | none =>
              let k : Contrib := { owner := o, stall := i, tile := r.nextTile, desc := d, seed := entrySeed s o r.nextTile, ready := s.now }
              .next (refreshBacklog (startPath (beginEntry s o r (r.array.getD 0) d) m [k] (rowsOf s k)))
          else .next s

/-- A thin contributor ends: its output is written and its flag set. -/
def endContrib (s : State) (c : Contrib) : State :=
  if !stillRuns s c then s
  else match c.owner with
    | .job .. =>
      let n := ((getRun s c.owner).bind (·.array)).getD 0
      endEntry (thinWrite s c.stall (thinDesc c.desc) c.seed) c.owner n c.tile c.desc
    | .net k =>
      let n := (getCarrier s k).array
      endEntry (thinWriteNet s c.stall n (thinDesc c.desc) c.seed) c.owner n c.tile c.desc

/-- The runs of region bytes a contributor's rows are read from: none of a network's, whose A lies in the reserve bank. -/
def rowRuns (c : Contrib) : List (Nat × Nat) :=
  let d := thinDesc c.desc
  match c.owner with
  | .job .. => (List.range d.m).map (fun r => (d.a + r * d.aStride, thinARow d))
  | .net _ => []

/-- The runs of region bytes that a task or batch reads: its weights once, and its contributors' rows. -/
def memRuns (cs : List Contrib) : List (Nat × Nat) :=
  match cs with
  | [] => []
  | c :: _ => ((thinDesc c.desc).w, thinBytes (thinDesc c.desc)) :: cs.flatMap rowRuns

/-- Whether a contributor's reads from memory fail. -/
def contribBad (s : State) (c : Contrib) : Bool :=
  thinBad s c.stall (thinDesc c.desc) (match c.owner with | .job .. => false | .net _ => true)

/-- The accesses of those reads: the cache, the stall's counters, and the channel accesses that feeders' pieces may join
(R283, R308, R312, R316). -/
def touchRuns (s : State) (i : Nat) (runs : List (Nat × Nat)) : State :=
  runs.foldl (fun s x =>
    let s := regionTouch s i x.1 x.2 true
    let s := modStall s i (fun st => { st with fdrRd := st.fdrRd + BitVec.ofNat 64 x.2 })
    (rowPieces x.1 x.2).foldl (fun s p => (mergeAccess s i (regionAddr s i (x.1 + p.1) / 4096) false).1) s) s

/-- The bytes a contributor's output writes to memory from a path. -/
def countOut (s : State) (c : Contrib) : State :=
  modStall s c.stall (fun st => { st with fdrWr := st.fdrWr + BitVec.ofNat 64 ((thinDesc c.desc).m * thinOutRow (thinDesc c.desc)) })

/-- The failed word of the reserve bank that a network's thin task reads as its rows (R240). -/
def netBad (a : ArrayU) (d : ThinDesc) (scr : MemRead) : Option Nat :=
  metWord ((List.range d.m).flatMap (fun r => bankTouch { reserve := true, toks := [] } (d.a + r * d.aStride) (thinARow d))) a.ueRsv scr

/-- One contributor at the end of its task or batch: it fails where `ue` or its reads did, or its output is written. -/
def contribEnd (s : State) (c : Contrib) (ue : Bool) (scr : MemRead) (avoid : Option Nat) : State :=
  if !stillRuns s c then s
  else if ue || contribBad s c then failOwner s c.owner c.tile avoid
  else match c.owner with
    | .job .. => endContrib s c
    | .net k =>
      let n := (getCarrier s k).array
      match netBad (getArr s n) (thinDesc c.desc) scr with
      | some x => scrUe s n c.owner c.tile c.stall true x
      | none => endContrib (match scr with | .corrected _ => arrCe s n | _ => s) c

/-- A path's second uncorrectable error within 10 s takes it out of service (R293). -/
def pathUe (s : State) (m i t : Nat) (o : Owner) : State :=
  let again := within10s (getPath s m).lastUe s.now
  let s := modPath s m (fun p => { p with errCode := 0x10, errStall := BitVec.ofNat 4 i, ueSeen := true, lastUe := some s.now })
  let s := report s { code := 0x1004, stall := some (BitVec.ofNat 4 i), kind := 3, unit := BitVec.ofNat 8 m,
                      data := [0x10] ++ leBytes 3 t ++ bytesOf (ownerSeq o) }
  if again then outOfService (modPath s m (fun p => { p with out := true })) 3 m 0x10 else s

/-- THIN_TASK_END, with what its reads of the row and weight buffers, of the reserve bank and of memory met (R285, R292, R293,
Table 9-5). Where the path leaves service its batch is gathered again (R291). -/
def execThinTaskEnd (path : Fin 4) (cycles : W32) (read : MemRead) (s : State) (scr mem : MemRead := .clean) : Host.Outcome State Fault Refusal :=
  let m := path.val
  match (getPath s m).run with
  | [] => .next s
  | c :: rest =>
    let cs := c :: rest
    let n := thinTaskCycles cs cycles.toNat
    let s := modPath s m (fun p => { p with
      run := [], rows := 0, cycles := p.cycles + BitVec.ofNat 64 n, tasks := p.tasks + 1,
      bytes := p.bytes + BitVec.ofNat 64 (thinBytes (thinDesc c.desc)) })
    let s := chargeContribs s cs .mvp (poolMvp s m) (cyclesNs n (mvpMHz s m))
    let s := touchRuns s c.stall (memRuns cs)
    let s := memMet s c.stall mem ((memRuns cs).flatMap (fun x => touchedBlocks (regionAddr s c.stall x.1) x.2))
    let s := match read with
      | .clean => s
      | .corrected w => corrected (modPath s m (fun p => { p with ceSeen := true })) 3 m w
      | .bad _ => pathUe s m c.stall c.tile c.owner
    let ue : Bool := match read with
      | .bad _ => true
      | _ => false
    let again := if ue && (getPath s m).out then cs.filter (gathered s) else []
    let s := (cs.filter (fun x => !again.contains x)).foldl (fun s x =>
      contribEnd (match x.owner with
        | .job .. => if ue then s else countOut s x
        | .net _ => s) x ue scr none) (regather s again)
    .next (refreshBacklog (settleMoves (settleUnit s 3 m)))

end Sys2Proof.Machine
end

