-- ==== Sys2Proof/Machine/Arrays.lean ====
section
/-!
DEFINITION. Array tile tasks (R206, R218, R225, R240), batches in array form (R287), quick dismount and return
(R335 to R339), stabling and restore (R340 to R343).
-/
namespace Sys2Proof.Machine

/-! ### Stabling begins -/

/-- A stabling begins: dispatch to the stall on the array stops (R343). -/
def beginMove (s : State) (n holder : Nat) (grantee : Option Nat) : State :=
  settleMove (modArr s n (fun a => { a with moving := some { holder := holder, grantee := grantee } })) n

/-! ### Tile tasks -/

/-- The bank offset of a place in a half, in 64-byte units, where the place lies in the window. -/
def bankOffset (w : Window) (half : Bool) (off : Nat) : Option Nat :=
  if halfByte w half off < winBytes w then some (winByte w (halfByte w half off) / 64) else none

/-- ADDR of ARR_ERR for a refusal (Table 6-7): where the first region outside the window begins, or the slot of ACC_BASE. Where that
is no place of the array, and for other codes, the spec states no value. -/
def refusalAddr (d : TileDesc) (w : Window) (code : Byte) : Option Nat :=
  if code = 4 then ((tileRegions d).find? (fun r => !inHalf w r.2.1 r.2.2)).bind (fun r => bankOffset w r.1 r.2.1)
  else if code = 5 ∧ d.accBase < winSlots w then some (winSlot w d.accBase)
  else none

/-- An array refuses an entry: the code is latched, and the stall faults (R225, R240). -/
def refuseArr (s : State) (o : Owner) (code : Byte) (t n : Nat) (bank : Bool) (addr : Option Nat) : State :=
  let a : BitVec 18 := match addr with
    | some x => BitVec.ofNat 18 x
    | none => (draw s).setWidth 18
  let s := if addr.isNone then drew s else s
  let s := modArr s n (fun x => { x with errCode := code, errStall := BitVec.ofNat 4 (ownerStall s o), errBank := bank, errAddr := a })
  descFault s o code t 1 n

/-- The bank with a batch's rows staged as A blocks and one column block of W as B blocks (R209, R287): what the gating
counter sees. -/
def stagedBank (s : State) (cs : List Contrib) (d : ThinDesc) (c : Nat) : ArrayU :=
  let t := batchTile d (contribRows cs) c
  let e := 32 * tileP t
  let rowLen (j : Nat) : Nat := let q := min e (d.k - e * j); if d.a4 then (q + 1) / 2 else q
  let step := if d.a4 then e / 2 else e
  let rows := cs.flatMap (fun x => let y := thinDesc x.desc
    (List.range y.m).map (fun r => (x.stall, y.a + r * y.aStride)))
  let m := rows.zipIdx.foldl (fun m x => (List.range (tileKSteps t)).foldl (fun m j =>
    mwrite m (j * aBlock t + x.2 * (aBlock t / 32)) (regionRead s x.1.1 (x.1.2 + j * step) (rowLen j))) m) ([] : Table Byte)
  let i := (cs.head?.map (·.stall)).getD 0
  { main := mwrite m (65536 * 64) (regionRead s i (thinBlockAt d c) (thinKSteps d * thinBBlock d)) }

/-- DPU-cycles gated over a batch in array form (R233). -/
def batchGated (s : State) (cs : List Contrib) (d : ThinDesc) : Nat :=
  let w : Window := { reserve := false, toks := List.range 14 }
  ((List.range (ceilDiv d.n 32)).map (fun c => gatedTile (stagedBank s cs d c) w (batchTile d (contribRows cs) c) 0)).sum

/-- A closed batch, or a thin task that did not gather, starts in array form: its staging region must lie in the window
(R287, R225). -/
def dispatchBatch (s : State) (n : Nat) (o : Owner) (cs : List Contrib) (batch : Bool) : State :=
  match cs with
  | [] => s
  | c :: _ =>
    let d := thinDesc c.desc
    let w := windowOf (getArr s n) c.stall false
    let half := decide (2 ^ 17 ≤ d.stage)
    if !inHalf w (d.stage % 2 ^ 17) 262144 then refuseArr s o 4 c.tile n false (bankOffset w half (d.stage % 2 ^ 17))
    else
      let t : Task := { desc := c.desc, owner := o, stall := c.stall, tile := c.tile, reserve := false, seed := c.seed, freq := arrMHz s n }
      let s := if batch then modStall s c.stall (fun st => { st with gthArray := st.gthArray + 1 }) else s
      modArr s n (fun a => { a with run := some t, batch := cs, lastOwner := some o })

def execTileDispatch (arr : Fin 8) (work : Work) (s : State) : Host.Outcome State Fault Refusal :=
  if dispatchGated s then .next s else
  let n := arr.val
  let o := workOwner work
  let i := ownerStall s o
  let ready := arrReady s n 1 i && (getArr s n).run.isNone
  let turn (bank : Bool) : Bool := ctxAdmits (getArr s n) bank && (bank || decide (pickArr s n = some i))
  let batch : Option Batch := match work with
    | .job _ q seq => (batchOf s i q.val seq).bind (fun b => if (batchesFor s i false).contains b then some b else none)
    | .net _ => none
  match batch with
  | some b =>
    if ready && stallRuns s i && hasWindowOn s i n && turn false then
      .next (refreshBacklog (dispatchBatch (dropBatch s i b) n o (b.tasks.map (toContrib i)) true))
    else .next s
  | none =>
    match nextEntry s o with
    | none => .next s
    | some (r, d) =>
      if !(ready && decide (r.array = some n)) then .next s
      else if d.isEmpty then .next (refreshBacklog (failOwner s o r.nextTile none))
      else if opIsThin (entryOp d) then
        match work with
        | .net _ => .next s
        | .job _ q seq =>
          if !thinFor s i false d || !turn false then .next s
          else match jobThinRefusal s o (thinDesc d) with
            | some code => .next (refuseThin s o code r.nextTile (errPath s i))
            | none =>
              let g : GatherTask := { queue := q.val, seq := seq, tile := r.nextTile, desc := d, ready := s.now }
              .next (refreshBacklog (dispatchBatch (beginEntry s o r n d) n o [toContrib i g] false))
      else if opIsVec (entryOp d) then .next s
      else
        let td := tileDesc d
        let w := windowOf (getArr s n) i td.bank
        match tileRefusal td (getArr s n) w (match o with | .job .. => true | .net _ => false) (ownsReserve s i n) with
        | some code => .next (refuseArr s o code r.nextTile n td.bank (refusalAddr td w code))
        | none =>
          if turn td.bank then
            let t : Task := { desc := d, owner := o, stall := i, tile := r.nextTile, reserve := td.bank,
                              seed := entrySeed s o r.nextTile, freq := arrMHz s n }
            let sl := tileSlots td w
            .next (refreshBacklog (modArr (beginEntry s o r n d) n (fun a =>
              if td.bank then { a with run := some t, lastRsv := sl } else { a with run := some t, lastMain := sl, lastOwner := some o })))
          else .next s

/-- Words of the accumulator store of a slot, and those an operation writes whole or reads (R228, R240). -/
def slotWords (sl : Nat) : List Nat := (List.range 512).map (fun k => 512 * sl + k)
def accReads (d : TileDesc) (w : Window) : List Nat :=
  if d.op = 2 ∨ (d.op = 1 ∧ d.acc = true) then (tileSlots d w).flatMap slotWords else []
def accWrites (d : TileDesc) (w : Window) : List Nat :=
  if d.op = 3 ∨ (d.op = 1 ∧ d.acc = false) then (tileSlots d w).flatMap slotWords else []

/-- The failed word that a task's reads meet: one the command names, or one listed and still unwritten (R240). -/
def taskUe (a : ArrayU) (w : Window) (d : TileDesc) (reserve : Bool) (read : TaskRead) : Option (Byte × Nat) :=
  let scr := (tileReads d w).flatMap (fun r => bankTouch w r.1 r.2)
  let acc := accReads d w
  let listed := if reserve then a.ueRsv else a.ueMain
  match scr.find? (fun x => listed.contains x || decide (read = .ueScr (BitVec.ofNat 21 x))) with
  | some x => some (0x10, x)
  | none =>
    match acc.find? (fun x => a.ueAcc.contains x || decide (read = .ueAcc (BitVec.ofNat 18 x))) with
    | some x => some (0x11, x)
    | none => none

/-- The failed word that a batch in array form met: of its staging region, or of the accumulator store. -/
def batchUe (w : Window) (at_ : Nat) (read : TaskRead) : Option (Byte × Nat) :=
  match read with
  | .ueScr x => if (bankTouch w at_ 262144).contains x.toNat then some (0x10, x.toNat) else none
  | .ueAcc x => some (0x11, x.toNat)
  | _ => none

/-- The transfers of a batch in array form (R300): its rows and weights staged, its outputs copied out. -/
def countBatch (s : State) (i : Nat) (cs : List Contrib) : State :=
  let rd := ((memRuns cs).map (·.2)).sum
  let wr := (cs.map (fun c => (thinDesc c.desc).m * thinOutRow (thinDesc c.desc))).sum
  let cols := match cs with
    | [] => 0
    | c :: _ => ceilDiv (thinDesc c.desc).n 32
  (memRuns cs).foldl (fun s x => regionTouch s i x.1 x.2 true) (countDev s i (2 * cs.length + cols) rd wr)

/-- Elements clamped when a contributor's rows drain (R252). -/
def thinClamps (s : State) (c : Contrib) : Nat :=
  let d := thinDesc c.desc
  ((List.range d.m).map (fun r => (thinRow (regionByte s c.stall) (regionByte s c.stall) d c.seed r).2)).sum

/-- A batch in array form ends: contributors' outputs are copied out; the staging region holds what was staged last, which
the spec does not state. -/
def endBatch (s : State) (n : Nat) (t : Task) (cs : List Contrib) (read : TaskRead) (mem : MemRead) : State :=
  let d := thinDesc t.desc
  let c := batchCycles d (contribRows cs)
  let g := batchGated s cs d
  let w := windowOf (getArr s n) t.stall false
  let at_ := halfByte w (decide (2 ^ 17 ≤ d.stage)) (d.stage % 2 ^ 17)
  let s := modArr s n (fun a => { a with
    run := none, batch := [], cycles := a.cycles + BitVec.ofNat 64 c, tasks := a.tasks + BitVec.ofNat 64 (ceilDiv d.n 32),
    gated := a.gated + BitVec.ofNat 64 ((a.gatedRem + g) / 1024), gatedRem := (a.gatedRem + g) % 1024 })
  let s := chargeContribs s cs .arr (poolArr s n) (cyclesNs c t.freq)
  let s := countBatch s t.stall cs
  let s := memMet s t.stall mem ((memRuns cs).flatMap (fun x => touchedBlocks (regionAddr s t.stall x.1) x.2))
  let free := s.free
  let s := modArr { s with free := free + 32768 } n (fun a =>
    clearUe ((List.range 32768).foldl (fun a k => scrWrite a w (at_ + 8 * k) (bytesOf (Config.freeWord (free + k)))) a)
      false (bankWords w at_ 262144))
  match batchUe w at_ read with
  | some (code, x) =>
    let s := modArr s n (fun a => listUe a false code x)
    let others := (cs.drop 1).filter (stillRuns s)
    let s := others.foldl (fun s c => failOwner s c.owner c.tile (some n)) s
    arrUe s n t.owner t.tile t.stall false code (if code = 0x11 then x / 512 else x / 8)
  | none =>
    let k := ((cs.filter (fun c => !contribBad s c)).map (thinClamps s)).sum
    cs.foldl (fun s c => contribEnd s c false .clean (some n)) (modArr s n (fun a => { a with clampCnt := satAdd a.clampCnt k }))

/-- DPU-cycles gated by a task that did not end well: the spec states no number; at most every DPU in every cycle. -/
def gatedFree (s : State) (n c : Nat) : State :=
  let g := ranCycles s (1024 * c)
  modArr (drew s) n (fun a => { a with
    gated := a.gated + BitVec.ofNat 64 ((a.gatedRem + g) / 1024), gatedRem := (a.gatedRem + g) % 1024 })

/-- A tile task ends: its slots, outputs and tile buffers are written (R212, R218), or it fails on an uncorrectable word. -/
def endTile (s : State) (n : Nat) (t : Task) (read : TaskRead) : State :=
  let d := tileDesc t.desc
  let c := tileCycles d
  let a := getArr s n
  let w := windowOf a t.stall t.reserve
  let s := modArr s n (fun a => { a with run := none, cycles := a.cycles + BitVec.ofNat 64 c, tasks := a.tasks + 1 })
  let s := charge s t.stall t.owner .arr (poolArr s n) (cyclesNs c t.freq)
  match taskUe a w d t.reserve read with
  | some (code, x) =>
    let s := modArr (gatedFree s n c) n (fun a => listUe a t.reserve code x)
    arrUe s n t.owner t.tile t.stall t.reserve code (if code = 0x11 then x / 512 else x / 8)
  | none =>
    let o := runTile (getArr s n) w d t.seed
    let s := modArr s n (fun _ =>
      let a := clearUe o.arr t.reserve ((tileWrites d w).flatMap (fun r => bankWords w r.1 r.2))
      { a with
        ueAcc := a.ueAcc.filter (fun x => !(accWrites d w).contains x),
        satSeen := a.satSeen || o.sat, clampCnt := satAdd a.clampCnt o.clamps })
    let s := modVec s n (fun v => clearTb { v with tb := o.tb.foldl (fun t x => tset 0 t x.1 x.2) v.tb } (o.tb.map (·.1)))
    endEntry (markSat s t.owner (o.sat || o.marked)) t.owner n t.tile t.desc

/-- TILE_TASK_END: of a tile task, or of a batch or thin task in array form, with what its reads met (R218, R240, Table 9-5). -/
def execTileTaskEnd (arr : Fin 8) (read : TaskRead) (s : State) (mem : MemRead := .clean) : Host.Outcome State Fault Refusal :=
  let n := arr.val
  match (getArr s n).run with
  | none => .next s
  | some t =>
    let s := if read = .corrected then arrCe s n else s
    let s := match (getArr s n).batch with
      | [] => endTile s n t read
      | cs => endBatch s n t cs read mem
    .next (refreshBacklog (settleMoves (settleUnit s 1 n)))

/-! ### Quick dismount and return -/

/-- The reserve context requests the array: main dispatch stops (R335, Table 10-3 step 1). -/
def execQuickDismount (arr : Fin 8) (s : State) : Host.Outcome State Fault Refusal :=
  let n := arr.val
  if arrUsable s n && decide ((getArr s n).ctx = .main) && hasReserve s n && (getArr s n).rsvStall.isSome then
    .next (modArr s n (fun a => { a with ctx := .requested }))
  else .next s

/-- Whether both units of an array have ended their tasks (step 2). -/
def bothIdle (s : State) (n : Nat) : Bool := (getArr s n).run.isNone && (getVec s n).run.isNone

/-- Time of steps 3 to 6, and of a return, in ns (R337, R339). -/
def switchNs (s : State) (n : Nat) : Nat := ceilDiv (992000 * vecMHz s n + 62000 * arrMHz s n) (max 1 (arrMHz s n * vecMHz s n))
def returnNs (s : State) (n : Nat) : Nat := ceilDiv (32000 * vecMHz s n + 62000 * arrMHz s n) (max 1 (arrMHz s n * vecMHz s n))

/-- Steps 3 to 6 of Table 10-3: the outgoing task's slots are parked, the engine saved, the reserve context selected. The
operand is the time from the request. -/
def execDismountSwitch (arr : Fin 8) (ns : W16) (s : State) : Host.Outcome State Fault Refusal :=
  let n := arr.val
  if decide ((getArr s n).ctx = .requested) && bothIdle s n then
    let t := switchNs s n
    let took := max ns.toNat t
    let s := modVec s n (fun v => { v with saveTb := v.tb, saveHf := v.hf, ueSaveTb := v.ueTb, ueSaveHf := v.ueHf })
    let s := modArr s n (fun a => { a with
      ctx := .reserve, parkedMain := a.lastMain, parkedRsv := [], dismounts := a.dismounts + 1,
      dismountMax := if a.dismountMax.toNat < took then BitVec.ofNat 16 (min took 0xFFFF) else a.dismountMax })
    match (getArr s n).rsvStall with
    | some i => .next (modStall s i (fun st => chargeStall st .switch false t))
    | none => .next s
  else .next s

/-- The carriers whose networks run on an array fail their slots for a cause (R84, R353). -/
def failCarriersOn (s : State) (n cause : Nat) : State :=
  (List.range 8).foldl (fun s c =>
    match (getCarrier s c).inv with
    | some v => if v.array = n then failInv s c cause else s
    | none => s) s

/-- A dismount whose steps 3 to 6 overrun raises the dismount fault; the array is fenced with cause 0x2 (R353). -/
def execDismountFault (arr : Fin 8) (s : State) : Host.Outcome State Fault Refusal :=
  let n := arr.val
  if decide ((getArr s n).ctx = .requested) && bothIdle s n then
    let s := report s { code := 0x100C, kind := 1, unit := BitVec.ofNat 8 n, data := [2] }
    let s := failCarriersOn s n 0x11
    .next (fenceOp s n 2)
  else .next s

/-- The main-context job of an array whose engine came back with a bad word (R293): it fails at the return and resumes by R268. -/
def saveUe (s : State) (n : Nat) (w : Nat) : State :=
  match (getArr s n).lastOwner with
  | some (.job i q seq) =>
    match getRun s (.job i q seq) with
    | none => s
    | some r =>
      if r.array != some n then s
      else
        let s := modVec s n (fun v => { listEngineUe v w with errCode := 0x10, errStall := BitVec.ofNat 4 i, ueSeen := true })
        let s := report s { code := 0x1003, stall := some (BitVec.ofNat 4 i), kind := 2, unit := BitVec.ofNat 8 n,
                            data := [0x10] ++ leBytes 3 (firstOpen r) ++ bytesOf seq }
        displaceRun s i q seq
  | _ => s

/-- The reserve context has nothing eligible or running: slots are parked, the engine restored, the main context resumes
(R339); `read` is what reading the save store met. -/
def execContextReturn (arr : Fin 8) (s : State) (read : MemRead := .clean) : Host.Outcome State Fault Refusal :=
  let n := arr.val
  if decide ((getArr s n).ctx = .reserve) && bothIdle s n && !hasReserve s n then
    let t := returnNs s n
    let s := modVec s n (fun v => { v with tb := v.saveTb, hf := v.saveHf, ueTb := v.ueSaveTb, ueHf := v.ueSaveHf })
    let s := modArr s n (fun a => { a with ctx := .main, parkedRsv := a.lastRsv, parkedMain := [] })
    let s := match (getArr s n).rsvStall with
      | some i => modStall s i (fun st => chargeStall st .switch false t)
      | none => s
    .next (refreshBacklog (match read with
      | .clean => s
      | .corrected w => corrected (modVec s n (fun v => { v with ceSeen := true })) 2 n w
      | .bad w => if w.toNat < 3456 then saveUe s n w.toNat else s))
  else .next s

/-! ### Stabling and restore -/

/-- A token's bank bytes and slots read zero (R232). -/
def zeroTokens (a : ArrayU) (ts : List Nat) : ArrayU :=
  { a with
    main := a.main.filter (fun x => !ts.contains (x.1 / 2 ^ 20)),
    acc := a.acc.filter (fun x => !ts.contains (x.1 / 32768)),
    sat := a.sat.filter (fun x => !ts.contains (x.1 / 32)),
    fold := a.fold.filter (fun x => !ts.contains (x.1 / 32)),
    ueMain := a.ueMain.filter (fun x => !ts.contains (x / 131072)),
    ueAcc := a.ueAcc.filter (fun x => !ts.contains (x / 16384)) }

/-- Tokens given up by a stall. -/
def dropTokens (a : ArrayU) (ts : List Nat) : ArrayU :=
  { a with tokens := ts.foldl (fun t k => tset none t k none) a.tokens,
           transit := ts.foldl (fun t k => setBit t k false) a.transit }

/-- Job runs of a stall on an array. -/
def stallRunsOn (s : State) (i n : Nat) : List Run := (getStall s i).runs.filter (fun r => r.array == some n)

/-- The slots a run has parked, counted within the tokens `ts` (R340). -/
def parkedIn (a : ArrayU) (ts : List Nat) (o : Owner) : List Nat :=
  let at_ (sl : Nat) : Option Nat := (firstIdx (fun t => t == sl / 32) ts 0).map (fun k => 32 * k + sl % 32)
  if a.lastOwner = some o then a.parkedMain.filterMap at_ else []

/-- The image of a stall's main-context state on an array (R340), its slots counted within the window. -/
def makeImage (s : State) (n i : Nat) (ts : List Nat) : StableImage :=
  let a := getArr s n
  let v := getVec s n
  { array := n, tokens := ts.length,
    bytes := ts.map (fun t => (a.main.filter (fun x => x.1 / 2 ^ 20 == t)).map (fun x => (x.1 % 2 ^ 20, x.2))),
    slots := ts.map (fun t => (a.acc.filter (fun x => x.1 / 32768 == t)).map (fun x => (x.1 % 32768, x.2))),
    sats := ts.map (fun t => (a.sat.filter (fun x => x.1 / 32 == t)).map (fun x => (x.1 % 32, x.2))),
    folds := ts.map (fun t => (a.fold.filter (fun x => x.1 / 32 == t)).map (fun x => (x.1 % 32, x.2))),
    tb := v.tb, hf := v.hf,
    runs := (stallRunsOn s i n).map (fun r =>
      { queue := r.queue, seq := r.seq, events := evGet s n r.evSet, parked := parkedIn a ts (.job i r.queue r.seq) }) }

/-- Bytes of an image (R340). -/
def imageBytes (tokens : Nat) : Nat := tokens * 1152 * 1024 + 32 * 1024

/-- The image as it lies in the stable slot (R340): the tokens' bank bytes and slots, then the tail. The order within the tail is the
model's choice (notes/assumptions/25.md). -/
def imageData (img : StableImage) : List Byte :=
  let word (t : Table W32) (k : Nat) : List Byte := bytesOf (tget 0 t k)
  let body := (List.range img.tokens).flatMap (fun k =>
    (List.range (2 ^ 20)).map (tget 0 (img.bytes.getD k [])) ++ (List.range 32768).flatMap (word (img.slots.getD k [])))
  let flags (g : Nat → Bool) (n : Nat) : List Byte :=
    (List.range n).map (fun b => BitVec.ofNat 8 (((List.range 8).map (fun k => if g (8 * b + k) then 2 ^ k else 0)).sum))
  let runs := img.runs.flatMap (fun r => [BitVec.ofNat 8 r.queue] ++ bytesOf r.seq ++ bytesOf r.events
    ++ flags (fun k => r.parked.contains k) 56)
  let tail := (List.range 6144).flatMap (word img.tb) ++ flags (tget false img.hf) 3072
    ++ (List.range img.tokens).flatMap (fun k => flags (tget false (img.sats.getD k [])) 4) ++ runs
  let all := body ++ padTo (32768 - 4) tail
  all ++ bytesOf (crc32c all)

/-- The next holder of a pool array that waits to be parked (R600). -/
def nextMigrant (s : State) (n : Nat) : Option Nat :=
  (List.range 16).find? (fun i => !(stallRunsOn s i n).isEmpty)

/-- The feeders in service that a stall may use. -/
def stallFeeders (s : State) (i : Nat) : Nat := (List.range 16).countP (fun f => mayUseFdr s i f && !(getFdr s f).out)

/-- Whether a word of the tokens' memories, or of the engine, is uncorrectable: the image that holds it is discarded (R353). -/
def imageUe (s : State) (n : Nat) (ts : List Nat) : Bool :=
  let a := getArr s n
  a.ueMain.any (fun x => ts.contains (x / 131072)) || a.ueAcc.any (fun x => ts.contains (x / 16384))
    || !(vecWordsUe (getVec s n)).isEmpty

/-- Tokens that a stabling has freed are granted to the stall that waits for them; while G1 restarts the grant waits (R334, R352). -/
def grantFreed (s : State) (n : Nat) : State :=
  match (getArr s n).granting with
  | none => s
  | some w =>
    if !groomUp s 1 then s
    else modArr (grantTokens s n w ((freeTokens (getArr s n)).take (wJob s w))) n (fun a => { a with granting := none })

/-- STABLING_DONE: the image is written, its tokens zeroed and freed or granted; an uncorrectable error discards the image
and its runs execute again (R343, R353). -/
def stablingDone (s : State) (n i ns : Nat) (ue : Bool) (grantee : Option Nat) : State :=
  let ts := heldTokens (getArr s n) i
  let img := makeImage s n i ts
  let size := imageBytes ts.length
  let bad := ue || imageUe s n ts
  let rs := stallRunsOn s i n
  let s := modStall s i (fun st => chargeStall st .stable false (max ns (ceilDiv size (384 * max 1 (stallFeeders s i)))))
  let s := countDev s i 1 0 size
  let s := rs.foldl (fun s r => if bad then rerunJob s i r.queue r.seq else
    modRun (displaceRun s i r.queue r.seq) (.job i r.queue r.seq) (fun r => { r with stabled := true })) s
  let s := if bad then s
    else modStall (regionWrite s i (stableSlotAt s i n) (imageData img) false) i (fun st => { st with
      images := tset none st.images n (some img) })
  let s := modArr s n (fun a => { dropTokens (zeroTokens a ts) ts with moving := none, granting := grantee })
  let s := match grantee with
    | some w => note (grantFreed s n) 0x0008 [1, BitVec.ofNat 8 n, BitVec.ofNat 8 i, BitVec.ofNat 8 w]
    | none => s
  let s := if s.power.toPark.getLsbD n then
      (match nextMigrant s n with
       | some j => beginMove s n j none
       | none => s)
    else s
  wakeFeeders s

/-- Stabling pauses while the reserve context has the array (R352), and moves through the stall's feeders (R343). -/
def execStablingDone (arr : Fin 8) (stall : Fin 16) (ns : W32) (ue : Bool) (s : State) : Host.Outcome State Fault Refusal :=
  match (getArr s arr.val).moving with
  | some m =>
    if m.holder = stall.val ∧ stallBusyOn s arr.val stall.val = false ∧ (getArr s arr.val).ctx = .main
        ∧ (devFeeder s stall.val).isSome = true then
      .next (refreshBacklog (stablingDone s arr.val stall.val ns.toNat ue m.grantee))
    else .next s
  | none => .next s

/-- An image's tokens written back into the tokens a stall holds, position by position (R343). -/
def putImage (a : ArrayU) (img : StableImage) (ts : List Nat) : ArrayU :=
  ts.zipIdx.foldl (fun a x =>
    { a with
      main := (img.bytes.getD x.2 []).foldl (fun t y => tset 0 t (x.1 * 2 ^ 20 + y.1) y.2) a.main,
      acc := (img.slots.getD x.2 []).foldl (fun t y => tset 0 t (x.1 * 32768 + y.1) y.2) a.acc,
      sat := (img.sats.getD x.2 []).foldl (fun t y => tset false t (x.1 * 32 + y.1) y.2) a.sat,
      fold := (img.folds.getD x.2 []).foldl (fun t y => tset 0 t (x.1 * 32 + y.1) y.2) a.fold }) a

/-- Each restored run gets a free event set with its flags, and resumes at the entry that R268 gave it (R303, R343). -/
def resumeImage (s : State) (n i : Nat) (img : StableImage) (ts : List Nat) : State :=
  img.runs.foldl (fun s e =>
    match getRun s (.job i e.queue e.seq) with
    | none => s
    | some r =>
      if !r.stabled then s
      else
        let k := freeSet s n
        let s := evMod s n k (fun _ => e.events)
        let s := modArr s n (fun a => { a with parkedMain := a.parkedMain ++ e.parked.map (fun p => 32 * ts.getD (p / 32) 0 + p % 32) })
        modRun s (.job i e.queue e.seq) (fun r => { r with array := some n, evSet := k, stabled := false, idleSince := s.now })) s

/-- Which image of a stall a restore to array `n` writes back: its own, else the first. -/
def pickImage (st : Stall) (n : Nat) : Option StableImage :=
  match tget none st.images n with
  | some i => some i
  | none => (st.images.findSome? (·.2))

/-- A restore: the image is checked first; one whose CRC fails is discarded and its runs execute again (R343, R353). -/
def restoreDone (s : State) (n i ns : Nat) (ue : Bool) (img : StableImage) : State :=
  let size := imageBytes img.tokens
  let bad := ue || regionBad s i (stableSlotAt s i img.array) size
  let s := modStall s i (fun st => { chargeStall st .stable false (max ns (ceilDiv size 320)) with
    images := tset none st.images img.array none })
  let s := countDev s i 1 size 0
  if bad then
    img.runs.foldl (fun s e =>
      match getRun s (.job i e.queue e.seq) with
      | some r => if r.stabled then rerunJob s i e.queue e.seq else s
      | none => s) s
  else
    let s := if (heldTokens (getArr s n) i).isEmpty then grantTokens s n i ((freeTokens (getArr s n)).take img.tokens) else s
    let ts := heldTokens (getArr s n) i
    let s := modArr s n (fun a => putImage a img ts)
    let reserve := decide ((getArr s n).ctx = .reserve)
    let s := modVec s n (fun v => if reserve then { v with saveTb := img.tb, saveHf := img.hf, ueSaveTb := [], ueSaveHf := [] }
      else { v with tb := img.tb, hf := img.hf, ueTb := [], ueHf := [] })
    wakeFeeders (resumeImage s n i img ts)

/-- RESTORE_DONE: on an array the stall may use, with its tokens there or enough free ones that G1 grants, and room for its
runs. -/
def execRestoreDone (arr : Fin 8) (stall : Fin 16) (ns : W32) (ue : Bool) (s : State) : Host.Outcome State Fault Refusal :=
  let n := arr.val
  let i := stall.val
  match pickImage (getStall s i) n with
  | none => .next s
  | some img =>
    let a := getArr s n
    let held := (heldTokens a i).length
    if arrUsable s n && mayUseArr s i n && !a.moving.any (fun m => m.holder == i) && !a.parked && stallRuns s i
        && (devFeeder s i).isSome && !s.power.toPark.getLsbD n
        && (held == img.tokens || (groomUp s 1 && held == 0 && decide (img.tokens ≤ (freeTokens a).length)))
        && decide ((runsOn s n).length + img.runs.length ≤ 15) then
      .next (refreshBacklog (restoreDone s n i ns.toNat ue img))
    else .next s

/-- G1 starts moving the runs off an array that G2 will park (R600). -/
def execMigrationForPark (arr : Fin 8) (s : State) : Host.Outcome State Fault Refusal :=
  let n := arr.val
  match nextMigrant s n with
  | some i =>
    if s.power.toPark.getLsbD n && groomUp s 1 && (getArr s n).moving.isNone then .next (beginMove s n i none) else .next s
  | none => .next s

end Sys2Proof.Machine
end

