-- ==== Sys2Proof/Machine/Feeders.lean ====
section
/-!
DEFINITION. Transfers (R300 to R309), multicast groups, refresh windows (R310, R55) and memory faults (R311, R320, R86).
-/
namespace Sys2Proof.Machine

/-! ### Dispatch -/

/-- The next transfer of a job's run, where it is eligible (R303, R305). -/
def nextXferOf (s : State) (o : Owner) : Option (Run × Nat × List Byte) :=
  match getRun s o with
  | none => none
  | some r =>
    match r.array with
    | none => none
    | some n =>
      let d := xferEntry s o r.nextXfer
      let x := xferDesc d
      let earlier := List.range r.nextXfer
      if stallRuns s (ownerStall s o) && r.fail.isNone && !r.committing && !r.stabled
          && decide (r.nextXfer < xferCount s o)
          && decide (evGet s n (evKey o r) &&& x.waitEv = x.waitEv) && !openBelow r (min x.gate (graphLen s o))
          && (!x.fence || r.runningX.isEmpty)
          && earlier.all (fun j => xferEnded r j || !(xferDesc (xferEntry s o j)).fence)
      then some (r, n, d) else none

/-- The scratchpad context a transfer names (R221): the reserve bank only of a stall that owns the reserve context. -/
def xferWindow (s : State) (i n : Nat) (x : XferDesc) : Window := windowOf (getArr s n) i x.bank

/-- Dispatching a transfer consumes its flags (R303). -/
def beginXfer (s : State) (o : Owner) (r : Run) (n : Nat) (x : XferDesc) : State :=
  let s := evMod s n (evKey o r) (fun ev => ev &&& ~~~ x.waitEv)
  modRun s o (fun y => { y with nextXfer := y.nextXfer + 1, runningX := y.runningX ++ [y.nextXfer] })

/-- A transfer ends: its flag is set (R303). -/
def endXfer (s : State) (x : Xfer) : State :=
  match getRun s x.owner with
  | none => s
  | some r =>
    if !r.runningX.contains x.index then s
    else
      let d := xferDesc x.desc
      let s := match r.array with
        | some n => evMod s n (evKey x.owner r) (fun ev => signalEv ev d.sig)
        | none => s
      finishRun (modRun s x.owner (fun y => { y with runningX := y.runningX.filter (· != x.index), idleSince := s.now })) x.owner

/-- Whether two LOADs may share a group (R309). -/
def sameGroup (a b : Xfer) : Bool :=
  let x := xferDesc a.desc
  let y := xferDesc b.desc
  a.stall == b.stall && x.src == y.src && x.rowBytes == y.rowBytes && x.rows == y.rows && x.srcStride == y.srcStride

/-- The group of a feeder closes and waits for the feeder (R309). -/
def closeGroup (s : State) (f : Nat) : State :=
  match (getFdr s f).group with
  | [] => s
  | g => enqueue (modFdr s f (fun x => { x with group := [] })) f g

/-- A LOAD joins the open group of a feeder, or opens one, whose hold is its own; the eighth member closes it (R309). -/
def joinGroup (s : State) (f : Nat) (e : Xfer) : State :=
  let first := (getFdr s f).group.isEmpty
  let s := modFdr s f (fun y => { y with
    group := y.group ++ [e], groupAt := if first then s.now else y.groupAt,
    groupHold := if first then (xferDesc e.desc).hold else y.groupHold })
  if 8 ≤ (getFdr s f).group.length then closeGroup s f else s

/-- A transfer's entry among a run's failed tasks: above every tile index. -/
def xferKey (j : Nat) : Nat := 2 ^ 24 + j

def execTransferDispatch (fdr : Fin 16) (stall : Fin 16) (q : Fin 8) (seq : W32) (s : State) : Host.Outcome State Fault Refusal :=
  if dispatchGated s then .next s else
  let f := fdr.val
  let i := stall.val
  let o : Owner := .job i q.val seq
  match nextXferOf s o with
  | none => .next s
  | some (r, n, d) =>
    let x := xferDesc d
    let fe := getFdr s f
    let scr := xferSrcScr x.kind || xferDstScr x.kind
    if fe.out || !mayUseFdr s i f || decide (32 ≤ queuedXfers fe + fe.group.length)
        || (scr && (getArr s n).moving.any (fun m => m.holder == i)) then .next s
    else if d.isEmpty then .next (refreshBacklog (eccFail s i q.val seq (xferKey r.nextXfer) none))
    else
      let code : Option Byte := if xferListBad s o then some 0x03
        else match xferRefusal x (xferWindow s i n x) (inRegion s i) (inWork s o) with
          | some c => some c
          | none => if scr && x.bank && !ownsReserve s i n then some 0x04 else none
      match code with
      | some c =>
        let s := modFdr s f (fun y => { y with errCode := c, errStall := BitVec.ofNat 4 i })
        .next (descFault s o c r.nextXfer 4 f)
      | none =>
        let e : Xfer := { desc := d, owner := o, stall := i, index := r.nextXfer, ready := s.now }
        if x.mcast && !(fe.group.isEmpty || fe.group.any (sameGroup e)) then .next s
        else
          let s := beginXfer s o r n x
          .next (refreshBacklog (
            if x.kind = 5 then endXfer (modFdr s f (fun y => { y with xfers := y.xfers + 1 })) e
            else if x.mcast then joinGroup s f e else enqueue s f [e]))

/-- MCAST_HOLD of the group's first member has passed since it was dispatched (R309). -/
def execMcastHoldExpiry (fdr : Fin 16) (s : State) : Host.Outcome State Fault Refusal :=
  let fe := getFdr s fdr.val
  if fe.groupHold * 12288 ≤ (s.now - fe.groupAt + 1) * 100000 then .next (closeGroup s fdr.val) else .next s

/-! ### Pieces -/

/-- Window byte of a scratchpad side's row. -/
def scrSide (w : Window) (a stride i : Nat) : Nat := halfByte w (decide (a / 2 ^ 17 % 2 = 1)) (a % 2 ^ 17) + i * stride

/-- A piece written into a scratchpad. -/
def scrPiece (s : State) (n : Nat) (w : Window) (b : Nat) (bs : List Byte) : State :=
  modArr s n (fun a => clearUe (scrWrite a w b bs) w.reserve (bankWords w b bs.length))

/-- A transfer fails as a tile task on an uncorrectable error does (Table 9-5, R193). -/
def failXfer (s : State) (x : Xfer) : State :=
  match x.owner with
  | .job i q seq =>
    if (getRun s x.owner).any (fun r => r.runningX.contains x.index) then eccFail s i q seq (xferKey x.index) (xferArray s x) else s
  | .net _ => s

/-- A piece that met an error: the code latched and recorded; a second buffer error within 10 s, like STUCK, takes the
feeder out of service (R320). -/
def pieceFault (s : State) (f i : Nat) (code : Byte) (a : Nat) : State :=
  let s := modFdr s f (fun x => { x with errCode := code, errStall := BitVec.ofNat 4 i, ueSeen := true })
  report s { code := 0x1005, stall := some (BitVec.ofNat 4 i), kind := 4, unit := BitVec.ofNat 8 f,
             data := [code, BitVec.ofNat 8 (devChan a)] ++ leBytes 8 a }

/-- A feeder leaves service; its transfers are reissued on the stall's lowest other feeder in service (Table 2-11). -/
def feederOut (s : State) (f : Nat) (last : Byte) : State :=
  let fe := getFdr s f
  let js := fe.run.toList ++ fe.queue ++ (if fe.group.isEmpty then [] else [{ members := fe.group }])
  let s := modFdr s f (fun x => { x with out := true, run := none, queue := [], group := [] })
  let s := outOfService s 4 f last
  js.foldl (fun s j => match devFeeder s (jobStall j) with
    | some k => enqueue s k (j.members.map (fun x => { x with ready := s.now }))
    | none => modFdr s f (fun x => { x with queue := x.queue ++ [{ members := j.members }] })) s

/-- What a piece does for one member (R304, R309). -/
def movePiece (s : State) (x : Xfer) (p : Nat × Nat × Nat) : State :=
  let d := xferDesc x.desc
  let n := (xferArray s x).getD 0
  let w := xferWindow s x.stall n d
  let src := d.src + p.1 * d.srcStride + p.2.1
  let dst := d.dst + p.1 * d.dstStride + p.2.1
  match d.kind with
  | 1 => scrPiece s n w (scrSide w d.dst d.dstStride p.1 + p.2.1) (regionRead s x.stall src p.2.2)
  | 2 => regionWrite s x.stall dst (scrRead (getArr s n) w (scrSide w d.src d.srcStride p.1 + p.2.1) p.2.2) (!d.noAlloc)
  | 3 => regionWrite s x.stall dst (regionRead s x.stall src p.2.2) (!d.noAlloc)
  | _ => s

/-- The scratchpad words that a STORE's piece reads (R240). -/
def pieceScr (s : State) (x : Xfer) (p : Nat × Nat × Nat) : List Nat :=
  let d := xferDesc x.desc
  if d.kind == 2 then
    bankTouch (xferWindow s x.stall ((xferArray s x).getD 0) d) (scrSide (xferWindow s x.stall ((xferArray s x).getD 0) d) d.src d.srcStride p.1 + p.2.1) p.2.2
  else []

/-- The transfer under way has moved its last piece: every member ends. -/
def feederDone (s : State) (f : Nat) (g : List Xfer) : State :=
  let s := modFdr s f (fun x => { x with run := none, xfers := x.xfers + BitVec.ofNat 64 g.length,
                                         mcast := x.mcast + BitVec.ofNat 64 (g.length - 1) })
  nextPiece (g.foldl endXfer s) f

/-- A corrected error met by a feeder sets CE_SEEN (Table 9-6). -/
def feederCe (s : State) (f : Nat) : State := modFdr s f (fun x => { x with ceSeen := true })

/-- The cache line of a device address, where it is present. -/
def cachedLine (s : State) (a : Nat) : Option CacheLine := s.mem.cache.find? (fun l => l.line == lineOf (devKey a))
def dropLine (s : State) (a : Nat) : State :=
  { s with mem := { s.mem with cache := s.mem.cache.filter (fun l => l.line != lineOf (devKey a)) } }

/-- The four blocks of a dirty line, written back poisoned (Table 9-5); the line is gone (notes/assumptions/27.md). -/
def poisonLine (s : State) (i a f : Nat) : State :=
  (List.range 4).foldl (fun s k => poisonBlock s i (a / 128 * 128 + 32 * k) (some f)) (dropLine s a)

/-- The device addresses of the memory sides of a piece: read, and written. -/
def pieceSrc (s : State) (x : Xfer) (p : Nat × Nat × Nat) : Option Nat :=
  let d := xferDesc x.desc
  if xferSrcMem d.kind then some (regionAddr s x.stall (d.src + p.1 * d.srcStride + p.2.1)) else none
def pieceDst (s : State) (x : Xfer) (p : Nat × Nat × Nat) : Option Nat :=
  let d := xferDesc x.desc
  if xferDstMem d.kind then some (regionAddr s x.stall (d.dst + p.1 * d.dstStride + p.2.1)) else none

/-- What an error that a piece met does to memory and the cache, and to the counts of corrected ones (Table 9-5). -/
def pieceMet (s : State) (f : Nat) (x : Xfer) (p : Nat × Nat × Nat) (err : PieceErr) : State :=
  let i := x.stall
  let at_ (side : Option Nat) (b : BitVec 12) (g : Nat → State) : State := match side with
    | some a => if b.toNat < p.2.2 then g (a + b.toNat) else s
    | none => s
  let src := pieceSrc s x p
  let dst := pieceDst s x p
  match err with
  | .memory b => at_ src b (fun a => poisonBlock s i a (some f))
  | .merge b => at_ dst b (fun a =>
      if (wholeBlocks (dst.getD 0) p.2.2).contains (devKey a / 32) then s else poisonBlock s i a (some f))
  | .cache b => at_ src b (fun a => if (cachedLine s a).any (·.dirty) then poisonLine s i a f else s)
  | .cacheClean b => at_ src b (fun a => if (cachedLine s a).any (fun l => !l.dirty) then dropLine s a else s)
  | .ceMemory b => at_ src b (fun a => feederCe (correctedKey s (devKey a)) f)
  | .ceCache b => at_ src b (fun a => feederCe (corrected s 8 (devChan a / 16) (BitVec.ofNat 32 (devKey a % 2 ^ 30 / 8))) f)
  | .ceBuffer => feederCe (corrected s 4 f (BitVec.ofNat 32 (p.2.1 / 8))) f
  | .ceScr => if (pieceScr s x p).isEmpty then s else arrCe s ((xferArray s x).getD 0)
  | _ => s

/-- The code of a piece that failed: UE_LLC for a dirty line, UE_MEM for memory that cannot be read or a buffer (Table 9-9). -/
def pieceCode (before s : State) (x : Xfer) (p : Nat × Nat × Nat) (err : PieceErr) : Option Byte :=
  let d := xferDesc x.desc
  let dirty : Bool := match err, pieceSrc before x p with
    | .cache b, some a => decide (b.toNat < p.2.2) && (cachedLine before (a + b.toNat)).any (·.dirty)
    | _, _ => false
  if err = .buffer then some 0x10
  else if dirty then some 0x11
  else if xferSrcMem d.kind && regionBad s x.stall (d.src + p.1 * d.srcStride + p.2.1) p.2.2 then some 0x10
  else none

/-- The failed scratchpad word that a piece reads. -/
def pieceScrBad (s : State) (x : Xfer) (p : Nat × Nat × Nat) (err : PieceErr) : Option Nat :=
  let a := getArr s ((xferArray s x).getD 0)
  metWord (pieceScr s x p) (if (xferDesc x.desc).bank then a.ueRsv else a.ueMain) (match err with
    | .scr w => .bad (w.setWidth 32)
    | _ => .clean)

/-- A piece moved (R304, R308, R312, R316): its channel accesses, the cache and the counters, and what it does for each member. -/
def pieceDone (s : State) (f : Nat) (x : Xfer) (g : List Xfer) (p : Nat × Nat × Nat) : State :=
  let i := x.stall
  let d := xferDesc x.desc
  let merge (s : State) (side : Option Nat) (write : Bool) : State := match side with
    | some a =>
      let m := mergeAccess s i (a / 4096) write
      if m.2 then modFdr m.1 f (fun y => { y with merged := y.merged + 1 }) else m.1
    | none => s
  let s := merge (merge s (pieceSrc s x p) false) (pieceDst s x p) true
  let s := if xferSrcMem d.kind then regionTouch s i (d.src + p.1 * d.srcStride + p.2.1) p.2.2 (!d.noAlloc) else s
  let s := modStall s i (fun st => { st with
    fdrRd := if xferSrcMem d.kind then st.fdrRd + BitVec.ofNat 64 p.2.2 else st.fdrRd,
    fdrWr := if xferDstMem d.kind then st.fdrWr + BitVec.ofNat 64 p.2.2 else st.fdrWr })
  let s := g.foldl (fun s y => movePiece s y p) s
  modFdr s f (fun y => { y with bytes := y.bytes + BitVec.ofNat 64 (p.2.2 * g.length) })

/-- PIECE_END: the feeder's piece ends, with what it met; then the feeder takes its next piece (R300, R315). A piece that a refresh
window keeps from being issued has not ended (R310, R319). -/
def execPieceEnd (fdr : Fin 16) (err : PieceErr) (s : State) : Host.Outcome State Fault Refusal :=
  let f := fdr.val
  match (getFdr s f).run with
  | none => .next s
  | some j =>
    match j.members with
    | [] => .next s
    | x :: rest =>
      let g := x :: rest
      let ps := piecesOf (xferDesc x.desc)
      if waitsMem s f || (getFdr s f).out then .next s
      else match ps[j.piece]? with
      | none => .next (refreshBacklog (settleMoves (feederDone s f g)))
      | some p =>
        let before := s
        let s := pieceMet s f x p err
        match pieceCode before s x p err, pieceScrBad s x p err with
        | some code, _ =>
          let again := decide (err = .buffer) && within10s (getFdr s f).lastUe s.now
          let s := pieceFault s f x.stall code ((pieceSrc s x p).getD ((pieceDst s x p).getD 0))
          let s := if err = .buffer then modFdr s f (fun y => { y with lastUe := some s.now }) else s
          if again then .next (refreshBacklog (settleMoves (feederOut s f code)))
          else .next (refreshBacklog (settleMoves (nextPiece (g.foldl failXfer (modFdr s f (fun y => { y with run := none }))) f)))
        | none, some w =>
          let s := modFdr s f (fun y => { y with run := none })
          .next (refreshBacklog (settleMoves (nextPiece
            (scrUe s ((xferArray s x).getD 0) x.owner (xferKey x.index) x.stall (xferDesc x.desc).bank w) f)))
        | none, none =>
          let s := pieceDone s f x g p
          if j.piece + 1 < ps.length then
            .next (settleMoves (nextPiece (modFdr s f (fun y => { y with run := none, queue := { j with piece := j.piece + 1 } :: y.queue })) f))
          else .next (refreshBacklog (settleMoves (feederDone s f g)))

/-- A job run with entries left, none running and none eligible for 1 ms (R306). -/
def execRunStallDetect (stall : Fin 16) (q : Fin 8) (seq : W32) (s : State) : Host.Outcome State Fault Refusal :=
  let o : Owner := .job stall.val q.val seq
  match getRun s o with
  | none => .next s
  | some r =>
    if r.array.isSome && !r.committing && r.fail.isNone && !r.stabled && r.running.isEmpty && r.runningX.isEmpty
        && (decide (r.nextTile < graphLen s o) || decide (r.nextXfer < xferCount s o))
        && (nextEntry s o).isNone && (nextXferOf s o).isNone && stallRuns s stall.val
        && decide (r.idleSince + 122880 ≤ s.now) then
      .next (refreshBacklog (descFault s o 0x05 r.nextXfer 4 0))
    else .next s

/-- A transfer not ended 1 ms after its dispatch, with pieces outstanding (Table 9-9, R320). -/
def execTransferStuck (fdr : Fin 16) (s : State) : Host.Outcome State Fault Refusal :=
  let f := fdr.val
  let fe := getFdr s f
  match ((fe.run.toList ++ fe.queue).flatMap (·.members)).find? (fun x => decide (x.ready + 122880 ≤ s.now)) with
  | none => .next s
  | some x =>
    if fe.out then .next s
    else
      let d := xferDesc x.desc
      let a := regionAddr s x.stall (if xferSrcMem d.kind then d.src else d.dst)
      .next (refreshBacklog (settleMoves (feederOut (pieceFault s f x.stall 0x20 a) f 0x20)))

/-! ### Refresh (R310, R55) -/

def stackPresent (s : State) (k : Nat) : Bool := decide (k < 4) && s.fuses.stackEn.getLsbD k && !(getStack s k).failed

/-- A window opens on a stack: refresh, scrub of 256 bytes per channel, and the temperature read (R310, R564). The
reading is the sensor's, which no rule states. -/
def openRefresh (s : State) (len : Nat) (k : Nat) : State :=
  let t : Byte := (draw s).setWidth 8
  let hot := decide (85 < t.toNat) || decide (85 < (getStack s k).temp.toNat)
  let s := voidWhen (modStack (drew s) k (fun st => { st with window := some (s.now + len), temp := t })) hot
  { s with mem := { s.mem with scrub := tmods 0 s.mem.scrub ((List.range 16).map (16 * k + ·)) (fun _ x => x + 1) } }

/-- A block that the scrub of the window just opened finds: corrected, or poisoned (R310). -/
def scrubFind (s : State) (f : ScrubFind) : State :=
  let key := chanKey f.chan.val ((tget 0 s.mem.scrub f.chan.val - 1).toNat * 256 + 32 * f.block.val)
  if f.bad then slotDamaged (poisonKey s (keyStall s key) key) (loaderPart s key) else correctedKey s key

def execRefreshOpen (target : BitVec 8) (len : W16) (found : List ScrubFind) (s : State) : Host.Outcome State Fault Refusal :=
  match takeAct s 3 target (fun a => a == len) with
  | some (_, s) =>
    let ks := (if target = 0x0F then List.range 4 else [target.toNat]).filter (stackPresent s)
    let s := ks.foldl (fun s k => openRefresh s len.toNat k) s
    .next ((found.filter (fun f => ks.contains (f.chan.val / 16))).foldl scrubFind s)
  | none => .next s

/-- Pieces that waited for a window and no longer do are issued (R310). -/
def issueWaiting (s : State) : State :=
  (List.range 16).foldl (fun s f =>
    if (getFdr s f).run.any (fun j => !pieceRefreshing s j) then modFdr s f (fun x => { x with issued := true }) else s) s

def execRefreshWindowEnd (stack : Fin 4) (s : State) : Host.Outcome State Fault Refusal :=
  match (getStack s stack.val).window with
  | some t => if t ≤ s.now then .next (issueWaiting (modStack s stack.val (fun st => { st with window := none }))) else .next s
  | none => .next s

/-- A refresh outside the windows is counted; the fault is raised when the flag passes from clear to set. One inside an open
window, or in the added ticks of a lengthened frame, is no forced one (R55). -/
def execForcedRefresh (stack : Fin 4) (temp : Byte) (s : State) : Host.Outcome State Fault Refusal :=
  let k := stack.val
  if stackPresent s k then
    let was := s.air.forcedRefresh
    let s := voidWhen (modStack s k (fun st => { st with temp := temp })) (decide (85 < temp.toNat))
    if decide (1228800 ≤ s.air.tick.toNat) || (getStack s k).window.isSome then .next s else
    let s := modStack s k (fun st => { st with forced := satInc st.forced })
    let s := modAir s (fun a => { a with forcedRefresh := true })
    if was then .next s
    else .next (report s { code := 0x5004, kind := 8, unit := BitVec.ofNat 8 k, data := [BitVec.ofNat 8 k, temp] })
  else .next s

/-! ### Loss of a stack (R86, Table 2-11) -/

/-- Whether a stall's channels include one of a stack's. -/
def onStack (s : State) (i k : Nat) : Bool :=
  (memRec s i).any (fun m => (List.range 16).any (fun c => m.channels.getLsbD (16 * k + c)))

def execChannelCommandFault (chan : Fin 64) (s : State) : Host.Outcome State Fault Refusal :=
  let k := chan.val / 16
  if !stackPresent s k then .next s
  else
    let s := report (modStack s k (fun st => { st with failed := true, shown := true }))
      { code := 0x5007, kind := 8, unit := BitVec.ofNat 8 k, data := [BitVec.ofNat 8 k, BitVec.ofNat 8 chan.val] }
    let s := { s with mem := { s.mem with cache := s.mem.cache.filter (fun l => l.line / 2 ^ 23 / 16 != k) } }
    .next (((List.range 16).filter (fun i => onStack s i k)).foldl (fun s i =>
      stallFault s i 0x2003 8 k [BitVec.ofNat 8 k] none) s)

end Sys2Proof.Machine
end

