-- ==== Sys2Proof/Machine/Frame.lean ====
section
/-!
DEFINITION. The air tick and the frame boundary: gait dispatch (R50), steps and numbering (R41 to R43), the swap of
gait banks (R66), the accounting period of the shares (R329 to R334) and the energy budget (R597 to R600).
-/
namespace Sys2Proof.Machine

/-! ### The accounting period (R329 to R334) -/

/-- A share that waits comes into force (R329). -/
def latchShares (s : State) : State :=
  (List.range 16).foldl (fun s i => modStall s i (fun st =>
    match st.sharePending with
    | some p => { st with share := p, sharePending := none }
    | none => st)) s

/-- Stalls that are not backlogged on a kind are set to the least virtual time of those that are (R331). -/
def levelV (s : State) : State :=
  let st := sharedStalls s
  let least (b : Stall → Bool) (v : Stall → W64) := leastV ((st.filter (fun i => b (getStall s i))).map (fun i => v (getStall s i)))
  let va := least (·.backlogArr) (·.va)
  let vp := least (·.backlogMvp) (·.vp)
  st.foldl (fun s i => modStall s i (fun x =>
    { x with va := if x.backlogArr then x.va else va.getD x.va, vp := if x.backlogMvp then x.vp else vp.getD x.vp })) s

/-- A stall that placed no run on a pool array for a whole period, and has none there, loses its tokens (R333). -/
def loseTokens (s : State) : State :=
  (List.range 8).foldl (fun s n =>
    if !poolArr s n then s
    else (List.range 16).foldl (fun s i =>
      let ts := heldTokens (getArr s n) i
      if ts.isEmpty || (getStall s i).placedNow.getLsbD n || !(stallRunsOn s i n).isEmpty || (getArr s n).moving.any (fun m => m.holder == i) then s
      else modArr s n (fun a => dropTokens (zeroTokens a ts) ts)) s) s

/-- Tokens a waiting stall needs: those of its image, else W_JOB. -/
def needTokens (s : State) (w : Nat) : Nat :=
  match (getStall s w).images.findSome? (·.2) with
  | some i => i.tokens
  | none => wJob s w

/-- The holder to displace on a pool array for a waiting stall: the one with the greatest virtual time, serially greater
than the waiting stall's, that holds enough tokens (R334). -/
def holderFor (s : State) (n w : Nat) : Option Nat :=
  let va (i : Nat) := (getStall s i).va
  ((List.range 16).filter (fun h => h != w && laterThan (va h) (va w)
      && decide (needTokens s w ≤ (heldTokens (getArr s n) h).length) && decide (1 ≤ (heldTokens (getArr s n) h).length))).foldl
    (fun b h => match b with
      | none => some h
      | some g => if laterThan (va h) (va g) then some h else some g) none

/-- G1 moves tokens to a waiting stall, on each pool array where it may run and a holder is found, never on one that a PACED
stall holds (R334, R352). -/
def moveFor (s : State) (w : Nat) : State :=
  (List.range 8).foldl (fun s n =>
    if poolArr s n && mayUseArr s w n && arrUsable s n && !(getArr s n).parked && !(getArr s n).movedThisFrame
        && (getArr s n).moving.isNone && decide ((getArr s n).ctx = .main) then
      match holderFor s n w with
      | some h => beginMove (modArr s n (fun a => { a with movedThisFrame := true })) n h (some w)
      | none => s
    else s) s

/-- Waiting stalls in serially ascending virtual time; ties go to the lower number. -/
def byV (s : State) : Nat → List Nat → List Nat
  | 0, _ => []
  | f + 1, ws =>
    match ws with
    | [] => []
    | w :: rest =>
      let m := rest.foldl (fun m i => if laterThan (getStall s m).va (getStall s i).va then i else m) w
      m :: byV s f (ws.filter (fun i => i != m))

/-- Token moves of a frame boundary (R334). -/
def moveTokens (s : State) : State :=
  if !groomUp s 1 then s
  else (byV s 16 ((sharedStalls s).filter (waitsForPlace s))).foldl moveFor s

/-- The accounting period ends and the next begins. -/
def newPeriod (s : State) : State :=
  let s := levelV (refreshBacklog (latchShares s))
  let s := loseTokens s
  let s := (List.range 16).foldl (fun s i => modStall s i (fun st => { st with placedNow := 0 })) s
  let s := (List.range 8).foldl (fun s n => modArr s n (fun a => { a with movedThisFrame := false })) s
  moveTokens s

/-! ### The energy budget (R597 to R600) -/

def budgetE (w : W64) : Nat := (bits w 0 32).toNat
def budgetInt (w : W64) : Nat := (bits w 32 12).toNat
def budgetCap (w : W64) : Nat := (bits w 48 12).toNat

/-- The next level above, or below, that changes a unit (R598, R599). -/
def levelUp (s : State) (l : Nat) : Option Nat := (List.range 22).find? (fun k => decide (l < k) && levelChanges s k)
def levelDown (s : State) (l : Nat) : Option Nat := (List.range l).reverse.find? (fun k => levelChanges s k)

/-- A level comes into force: the units' changes wait for their windows, and arrays to be parked for their migration. -/
def setLevel (s : State) (l : Nat) : State :=
  let park := (parkedAt s l).filter (fun n => !(getArr s n).parked && !(runsOn s n).isEmpty)
  { s with power := { s.power with
    level := BitVec.ofNat 5 l, levelSum := 0, levelCnt := 0, levelNew := true, toPark := park.foldl (fun b n => setBit b n true) 0 } }

/-- SHORT follows the projection at the highest level; its first setting is a fault (Table 17-4). -/
def setShort (s : State) (b : Bool) : State :=
  let was := s.power.short
  let s := { s with power := { s.power with short := b } }
  if b && !was then report s { code := 0x6004, data := [s.power.level.setWidth 8] } else s

/-- Energy in units of 10 nJ, mean power as energy over frames of 10 ms (R599). -/
def evaluateBudget (s : State) (first : Bool) : State :=
  let p := s.power
  let (sum, cnt) := if first || p.levelCnt = 0 then (p.lastE.sum, max 1 p.lastE.length) else (p.levelSum, p.levelCnt)
  let e := budgetE p.budget * 10 ^ 8
  let projected := cnt * (p.intEnergy.toNat * 100 + p.rem) + sum * (budgetInt p.budget * 100 - p.intFrames)
  let above := decide (cnt * e < projected)
  let capped := decide (budgetCap p.budget ≠ 0 ∧ budgetCap p.budget * cnt * 10 ^ 6 < sum)
  let l := p.level.toNat
  let s := { s with power := { p with reeval := false } }
  if above || capped then
    match levelUp s l with
    | some k => setShort (setLevel s k) (above && (levelUp s k).isNone)
    | none => setShort s above
  else if projected * 100 < 92 * cnt * e && decide (0 < l) then
    match levelDown s l with
    | some k => setShort (setLevel s k) false
    | none => setShort s false
  else setShort s false

/-- The budget's work at a frame boundary: a written budget and a completed interval begin a new one (R597). -/
def budgetBoundary (s : State) : State :=
  let p := s.power
  let p := { p with
    lastE := (p.frameE :: p.lastE).take 4, levelSum := if p.levelNew then 0 else p.levelSum + p.frameE,
    levelCnt := if p.levelNew then 0 else p.levelCnt + 1, levelNew := false, frameE := 0 }
  match p.next with
  | some w =>
    if budgetE w = 0 then
      setLevel { s with power := { p with budget := w, next := none, active := false, short := false, intEnergy := 0, intFrames := 0 } } 0
    else
      let s := { s with power := { p with budget := w, next := none, active := true, intEnergy := 0, intFrames := 0 } }
      if groomUp s 2 then evaluateBudget s true else s
  | none =>
    if !p.active then { s with power := p }
    else
      let p := { p with intFrames := p.intFrames + 1 }
      let done := decide (budgetInt p.budget * 100 ≤ p.intFrames)
      let p := if done then { p with intFrames := 0, intEnergy := 0, intCnt := satInc p.intCnt } else p
      let s := { s with power := p }
      if groomUp s 2 && (done || p.reeval || (decide (p.levelCnt ≠ 0) && decide (p.levelCnt % 4 = 0))) then evaluateBudget s done else s

/-! ### Tick and boundary -/

/-- Ticks by which a shortened frame's skipped end advances the absolute count (R42). -/
def skipped (a : Air) : Nat := if a.stepIn = some 1 then 1228799 - a.tick.toNat else 0

/-- Whether supplied numbering loads at the coming boundary: a step boundary, or one of a re-lock without a step (R43). -/
def loadsNumbering (a : Air) : Bool :=
  decide (a.stepIn = some 1) || (decide (a.stepIn = none) && decide (a.state ≠ .acquire) && decide (a.state ≠ .stepPending))

/-- The counters pass into the next frame: a step is applied at its boundary, and supplied numbering is loaded there
(R41 to R44). -/
def nextFrame (s : State) : State :=
  let applied := decide (s.air.stepIn = some 1)
  let loads := loadsNumbering s.air
  let moved := BitVec.ofInt 9 (8 * stepTicks s.air)
  let s := renumber s (ahead := 1) (fun a =>
    let a' := setFrames a ((airFrames a : Int) + 1)
    let abs := a.abs + 1 + BitVec.ofNat 64 (skipped a)
    let a' := { a' with
      tick := 0, abs := abs, prevAbs := a.frameAbs, frameAbs := abs.toNat, ended := false,
      prevStretched := a.stretched || applied,
      stretched := decide (a.stepIn = some 2),
      stepIn := match a.stepIn with | some 2 => some 1 | _ => none }
    if loads then loadNumbering a' else a')
  if applied then
    let s := modAir s (fun a => { a with stepped := true, steps := a.steps + 1, shift := a.shift - moved })
    let s := if s.air.state = .acquire && !s.air.stepOld then enterLocked s else s
    refEvent (modAir s (fun a => { a with stepOld := false })) false true
  else s

/-- The device's work of a frame boundary. The frame being left ends with its late entries; then the banks exchange, the
counters pass, and the entries of tick 0 are dispatched (R66). -/
def boundary (s : State) : State :=
  let n := (airFrames s.air + 1) % 1024
  let num := match s.air.numbering with
    | some (shift, _) => if loadsNumbering s.air then (((airFrames s.air : Int) + 1 + shift) % 1024).toNat else n
    | none => n
  let s := if s.air.swapFrame.any (fun f => f.toNat == num) then modAir s swapBanks else s
  let s := nextFrame s
  let s := newPeriod s
  let s := budgetBoundary s
  gaitTick s

/-- One period of the air clock: at the frame's last tick, the boundary. `bad`: positions of the active bank whose parity is
found to fail (R69). -/
def airTick (bad : List (BitVec 12)) (s : State) : State :=
  let s := modAir (closeWindows { s with now := s.now + 1 }) (gaitFail bad)
  let s :=
    if s.air.ended || decide (lastTick s.air ≤ s.air.tick.toNat) then boundary (if s.air.ended then s else gaitLateLoad s)
    else
      let s := modAir s (fun a => { a with tick := a.tick + 1, abs := a.abs + 1 })
      let s := if s.air.stepIn = some 1 ∧ lastTick s.air ≤ s.air.tick.toNat then gaitLateLoad s else s
      gaitTick s
  (List.range 8).foldl settleMove s

end Sys2Proof.Machine
end

