-- ==== Sys2Proof/Machine/Ldpc.lean ====
section
/-!
DEFINITION. Forward error correction: layered min-sum LDPC decoding (R427), the concatenated BCH code (R429) and the
information field with its CRC (R428). A base-graph entry of shift σ joins check row Z·r + t to bit
Z·c + (t + σ) mod Z, as R497 states for the Tether code (notes/assumptions/30.md).
-/
namespace Sys2Proof.Machine

/-- A quasi-cyclic code as the engine runs it: base graph (row, column, shift), scaling byte by iteration and layer. -/
structure QcCode where
  mb : Nat
  nb : Nat
  z : Nat
  graph : List (Nat × Nat × Nat)
  alpha : Nat → Nat → Nat
  iMax : Nat

/-- A value saturated to −`m` to `m`. -/
def satSym (m x : Int) : Int := if m < x then m else if x < -m then -m else x

/-- The edges of check row `t` of a layer: the bit, and the number of the edge's check message. -/
def rowEdges (c : QcCode) (layer t : Nat) : List (Nat × Nat) :=
  (c.graph.zipIdx.filter (fun x => x.1.1 == layer)).map (fun x => (c.z * x.1.2.1 + (t + x.1.2.2) % c.z, x.2 * c.z + t))

/-- The two least magnitudes of a row and the place of the first least (R427). -/
def twoLeast (ms : List Nat) : Nat × Nat × Nat :=
  let m1 := ms.foldl min 63
  let i := (firstIdx (fun m => m == m1) ms 0).getD 0
  let rest := ms.eraseIdx i
  (m1, if rest.isEmpty then m1 else rest.foldl min 63, i)

/-- One check row: posteriors and messages after it. A sign product counts 0 as positive, and a
message holds at most 63 in magnitude, as 7 bits do (notes/assumptions/30.md). -/
def checkRow (alpha : Nat) (es : List (Nat × Nat)) (p r : Array Int) : Array Int × Array Int :=
  let qs := es.map (fun e => satSym 511 (p.getD e.1 0 - r.getD e.2 0))
  let least := twoLeast (qs.map (fun q => min q.natAbs 63))
  let negs := qs.countP (fun q => decide (q < 0))
  (es.zip qs).zipIdx.foldl (fun pr x =>
    let e := x.1.1
    let q := x.1.2
    let mag : Int := (min 63 ((if x.2 = least.2.2 then least.2.1 else least.1) * alpha / 32) : Nat)
    let odd := (negs + (if q < 0 then 1 else 0)) % 2 = 1
    let m := if odd then -mag else mag
    (pr.1.setIfInBounds e.1 (satSym 511 (q + m)), pr.2.setIfInBounds e.2 m)) (p, r)

/-- One iteration: every layer in base-row order, every check row of it. -/
def ldpcPass (c : QcCode) (it : Nat) (pr : Array Int × Array Int) : Array Int × Array Int :=
  (List.range c.mb).foldl (fun pr l =>
    (List.range c.z).foldl (fun pr t => checkRow (c.alpha it l) (rowEdges c l t) pr.1 pr.2) pr) pr

/-- Hard decisions. -/
def hardBits (p : Array Int) : List Bool := p.toList.map (fun x => decide (x < 0))

/-- Whether every check holds. -/
def syndromeZero (c : QcCode) (p : Array Int) : Bool :=
  (List.range c.mb).all (fun l => (List.range c.z).all (fun t =>
    (rowEdges c l t).countP (fun e => decide (p.getD e.1 0 < 0)) % 2 == 0))

/-- Iterations from number `it` on, until the syndrome is zero and `ok` holds of the decisions: the decisions, the
iterations run, and whether the syndrome is zero. -/
def ldpcRun (c : QcCode) (ok : List Bool → Bool) : Nat → Nat → Array Int × Array Int → List Bool × Nat × Bool
  | 0, it, pr => (hardBits pr.1, it, syndromeZero c pr.1)
  | f + 1, it, pr =>
    let pr' := ldpcPass c it pr
    if syndromeZero c pr'.1 && ok (hardBits pr'.1) then (hardBits pr'.1, it + 1, true)
    else ldpcRun c ok f (it + 1) pr'

/-- A block decoded from its LLRs (R427). -/
def ldpcDecode (c : QcCode) (ok : List Bool → Bool) (llrs : List Int) : List Bool × Nat × Bool :=
  ldpcRun c ok c.iMax 0 ((llrs.take (c.nb * c.z)).toArray, Array.replicate (c.graph.length * c.z) 0)

/-! ### BCH over GF(2^13), primitive polynomial x^13 + x^4 + x^3 + x + 1 (R429) -/

def gfDouble (a : Nat) : Nat := if 2 * a < 8192 then 2 * a else (2 * a) ^^^ 0x201B
def gfMulBits : Nat → Nat → Nat → Nat → Nat
  | 0, _, _, acc => acc
  | f + 1, a, b, acc => gfMulBits f (gfDouble a) (b / 2) (if b % 2 = 1 then acc ^^^ a else acc)
def gfMul (a b : Nat) : Nat := gfMulBits 13 a b 0
def gfPowBits : Nat → Nat → Nat → Nat → Nat
  | 0, _, _, acc => acc
  | f + 1, a, e, acc => gfPowBits f (gfMul a a) (e / 2) (if e % 2 = 1 then gfMul acc a else acc)
def gfPow (a e : Nat) : Nat := gfPowBits 13 a (e % 8191) 1
def gfInv (a : Nat) : Nat := gfPow a 8190

/-- The syndromes S_1 to S_2t of a word whose first bit has the highest degree. -/
def bchSyndromes (t : Nat) (word : List Bool) : List Nat :=
  (List.range (2 * t)).map (fun j =>
    let a := gfPow 2 (j + 1)
    word.foldl (fun acc b => gfMul acc a ^^^ (if b then 1 else 0)) 0)

/-- Sum of two polynomials, the second times `k` and x^m. -/
def polyAdd (p q : List Nat) (k m : Nat) : List Nat :=
  let q' := List.replicate m 0 ++ q.map (gfMul k)
  (List.range (max p.length q'.length)).map (fun i => p.getD i 0 ^^^ q'.getD i 0)

/-- The state of the Berlekamp–Massey recursion. -/
structure BmState where
  c : List Nat := [1]
  b : List Nat := [1]
  l : Nat := 0
  m : Nat := 1
  d : Nat := 1

def bmStep (s : List Nat) (x : BmState) (n : Nat) : BmState :=
  let d := (List.range (x.l + 1)).foldl (fun acc i => acc ^^^ gfMul (x.c.getD i 0) (if i ≤ n then s.getD (n - i) 0 else 0)) 0
  if d = 0 then { x with m := x.m + 1 }
  else
    let c' := polyAdd x.c x.b (gfMul d (gfInv x.d)) x.m
    if 2 * x.l ≤ n then { c := c', b := x.c, l := n + 1 - x.l, m := 1, d := d }
    else { x with c := c', m := x.m + 1 }

/-- The value of a polynomial. -/
def polyAt (p : List Nat) (a : Nat) : Nat := p.foldr (fun c acc => gfMul acc a ^^^ c) 0

/-- A word corrected of up to `t` errors, with how many were corrected; more errors leave it as it is. -/
def bchCorrect (t : Nat) (word : List Bool) : List Bool × Option Nat :=
  let s := bchSyndromes t word
  if s.all (· == 0) then (word, some 0)
  else
    let x := (List.range (2 * t)).foldl (bmStep s) {}
    let n := word.length
    let at_ := (List.range n).filter (fun i => polyAt x.c (gfPow 2 (8191 - (n - 1 - i) % 8191)) == 0)
    if x.l ≤ t ∧ at_.length = x.l then
      (word.zipIdx.map (fun b => if at_.contains b.2 then !b.1 else b.1), some x.l)
    else (word, none)

/-! ### The information field (R428) -/

/-- Bits packed into bytes, the first the most significant; the last byte is filled with zeros. -/
def packBits (bs : List Bool) : List Byte :=
  (List.range (ceilDiv' bs.length 8)).map (fun i => BitVec.ofNat 8 ((List.range 8).foldl (fun acc j =>
    2 * acc + (if bs.getD (8 * i + j) false then 1 else 0)) 0))
where ceilDiv' (a b : Nat) : Nat := (a + b - 1) / b

/-- The bits of a word, the most significant first. -/
def bitsMsb {w : Nat} (v : BitVec w) : List Bool := (List.range w).map (fun i => v.getLsbD (w - 1 - i))

/-- The CRC bits that should follow a payload: 1 CRC-16, 2 CRC-24, 3 CRC-32C. -/
def crcField (kind : Nat) (payload : List Bool) : List Bool :=
  match kind with
  | 1 => bitsMsb (crcMsb (0x1021 : BitVec 16) 0xFFFF payload)
  | 2 => bitsMsb (crcMsb (0x864CFB : BitVec 24) 0 payload)
  | 3 => (bytesOf (crc32c (packBits payload))).flatMap bitsMsb
  | _ => []

def crcLen (kind : Nat) : Nat := match kind with | 1 => 16 | 2 => 24 | 3 => 32 | _ => 0

/-- Payload bits of a block of a code. -/
def payloadBits (c : CodeCfg) : Nat := c.kb * c.z - crcLen c.crc - 13 * c.bchT

/-- Whether the CRC of an information field matches; with no CRC it does. -/
def infoCrcOk (c : CodeCfg) (info : List Bool) : Bool :=
  decide (crcLen c.crc + 13 * c.bchT ≤ c.kb * c.z)
    && decide ((info.drop (payloadBits c)).take (crcLen c.crc) = crcField c.crc (info.take (payloadBits c)))

/-- The code of a record as the engine runs it. -/
def qcOf (c : CodeCfg) : QcCode :=
  { mb := c.mb, nb := c.nb, z := c.z, graph := c.graph, iMax := c.iMax,
    alpha := fun it l => c.scale.getD (it * c.mb + l) 0 % 64 }

/-- What an engine makes of a block: payload bytes, whether it passed, iterations, and bits corrected. -/
structure BlockResult where
  payload : List Byte
  /-- The final hard decisions, one per code column bit. -/
  bits : List Bool
  passed : Bool
  iters : Nat
  fixed : Nat
  deriving DecidableEq, Repr

/-- A block decoded (R427 to R429): in concatenated mode the LDPC stops on the syndrome alone, and the BCH corrects the
information field before the CRC is checked. -/
def decodeBlock (c : CodeCfg) (llrs : List Int) : BlockResult :=
  let info (bs : List Bool) := bs.take (c.kb * c.z)
  let r := ldpcDecode (qcOf c) (fun bs => c.bchT != 0 || infoCrcOk c (info bs)) llrs
  let fx := if c.bchT = 0 then (info r.1, some 0) else bchCorrect c.bchT (info r.1)
  { payload := packBits (fx.1.take (payloadBits c)), bits := fx.1 ++ r.1.drop (c.kb * c.z),
    passed := if c.crc = 0 then r.2.2 && infoCrcOk c fx.1 else infoCrcOk c fx.1,
    iters := r.2.1, fixed := fx.2.getD 0 }

end Sys2Proof.Machine
end

