-- ==== Sys2Proof/Machine/Line.lean ====
section
/-!
DEFINITION. What the wires carry: the additive scrambler of R486 and R533, a Tether frame as bytes, codeword and line
levels (R484 to R486, R497, R498, R500), the linear echo canceller's estimate (R488), and a girth flit on its lanes (R533,
R534).
-/
namespace Sys2Proof.Machine

/-! ### The scrambler of generator x^23 + x^18 + 1 (R486, R533) -/

/-- The bit that a register sends next: its x^23 stage, bit 22 (DESIGN CHOICE, notes/assumptions/61.md). -/
def scrOut (r : BitVec 23) : Bool := r.getLsbD 22

/-- The register one unit interval on: x^23 + x^18 enters at the low end. -/
def scrNext (r : BitVec 23) : BitVec 23 := (r <<< 1) ||| BitVec.ofNat 23 (xor (r.getLsbD 22) (r.getLsbD 17)).toNat

/-- `n` bits of the sequence, and the register after them. -/
def scrRun : Nat → BitVec 23 → List Bool × BitVec 23
  | 0, r => ([], r)
  | n + 1, r => let x := scrRun n (scrNext r); (scrOut r :: x.1, x.2)

/-- Reload values of the two directions (R486). -/
def scrMaster : BitVec 23 := 0x155555
def scrSlave : BitVec 23 := 0x6AAAAA

/-! ### Frames as bytes (Table 14-5) -/

/-- The frame that 1,060 bytes hold. -/
def frameOf (b : List Byte) : TFrame :=
  { type := u8 b 0, chan := bits (u8 b 1) 0 3, first := bit (u8 b 1) 3, last := bit (u8 b 1) 4, retx := bit (u8 b 1) 5,
    seq := u16 b 2, len := u16 b 4, ackChan := bits (u8 b 6) 0 3, urgent := bit (u8 b 6) 6, ackValid := bit (u8 b 6) 7,
    credChan := bits (u8 b 7) 0 3, credValid := bit (u8 b 7) 7, ackSeq := u16 b 8, sack := u64 b 0x0C,
    credLimit := u32 b 0x14, lqPeer := u16 b 0x18, epoch := u32 b 0x1C, payload := slice b 0x20 1024 }

/-- The 1,060 bytes of a frame, its CRC-32C last. -/
def tthFrameBytes (f : TFrame) : List Byte :=
  let b := [f.type, f.chan.setWidth 8 ||| flag 8 3 f.first ||| flag 8 4 f.last ||| flag 8 5 f.retx]
    ++ bytesOf f.seq ++ bytesOf f.len
    ++ [f.ackChan.setWidth 8 ||| flag 8 6 f.urgent ||| flag 8 7 f.ackValid, f.credChan.setWidth 8 ||| flag 8 7 f.credValid]
    ++ bytesOf f.ackSeq ++ [0, 0] ++ bytesOf f.sack ++ bytesOf f.credLimit ++ bytesOf f.lqPeer ++ [0, 0] ++ bytesOf f.epoch
    ++ padTo 1024 f.payload
  b ++ bytesOf (crc32c b)

/-! ### BCH and LDPC parity (R429, R497, R498) -/

/-- A polynomial over GF(2^13), lowest degree first, times x + `a`. -/
def polyRoot (p : List Nat) (a : Nat) : List Nat :=
  (List.range (p.length + 1)).map (fun i => (if i = 0 then 0 else p.getD (i - 1) 0) ^^^ gfMul (p.getD i 0) a)

/-- The generator of the code that corrects `t` errors: the product of the minimal polynomials of the odd powers
α to α^(2t−1), each with its 13 conjugates, highest degree first without its leading 1 (R429). -/
def bchGenerator (t : Nat) : List Bool :=
  let roots := (List.range t).flatMap (fun i => (List.range 13).map (fun j => gfPow 2 ((2 * i + 1) * 2 ^ j)))
  (((roots.foldl polyRoot [1]).map (fun c => c % 2 == 1)).reverse).drop 1

/-- The parity bits of a word, the first of the highest degree. -/
def bchParity (t : Nat) (data : List Bool) : List Bool :=
  let g := bchGenerator t
  data.foldl (fun r b =>
    let top := xor b (r.headD false)
    let r' := r.drop 1 ++ [false]
    if top then List.zipWith xor r' g else r') (List.replicate g.length false)

/-- The base graph of R497. -/
def tethGraph : List (Nat × Nat × Nat) :=
  (List.range 8).flatMap (fun r => (List.range 34).filterMap (fun c =>
      if (c + 3 * r) % 8 < 4 then some (r, c, (17 * r * c + 29 * c + 71 * r + 5) % 256) else none))
  ++ [(0, 34, 1), (4, 34, 0), (7, 34, 1)]
  ++ (List.range 7).flatMap (fun j => [(j, 35 + j, 0), (j + 1, 35 + j, 0)])

def tethCode : QcCode := { mb := 8, nb := 42, z := 256, graph := tethGraph, alpha := fun _ _ => 26, iMax := 10 }

/-- A column of 256 bits, bit `k` of the column in bit `k` of the word. -/
def columnOf (bs : List Bool) : BitVec 256 :=
  BitVec.ofNat 256 ((bs.zipIdx).foldl (fun n x => if x.1 then n + 2 ^ x.2 else n) 0)
def columnBits (c : BitVec 256) : List Bool := (List.range 256).map (fun k => c.getLsbD k)

/-- What the information columns give check row block `r`: bit `t` sums the bits (t + σ) mod 256 of its entries. -/
def rowSum (cols : List (BitVec 256)) (r : Nat) : BitVec 256 :=
  (tethGraph.filter (fun e => e.1 == r && decide (e.2.1 < 34))).foldl (fun a e => a ^^^ (cols.getD e.2.1 0).rotateRight e.2.2) 0

/-- Parity columns 35 on: each makes the check rows before it hold, given column 34. -/
def parityChain (sums : List (BitVec 256)) (p34 : BitVec 256) : List (BitVec 256) :=
  ((List.range 7).foldl (fun (x : List (BitVec 256) × BitVec 256) j =>
    let own : BitVec 256 := if j = 0 then p34.rotateRight 1 else if j = 4 then p34 else 0
    let p := sums.getD j 0 ^^^ own ^^^ x.2
    (x.1 ++ [p], p)) ([], 0)).1

/-- The 10,752 bits of the codeword of an information field. The eight rows together hold column 34 once unshifted and
twice shifted by 1, and every later column twice, so column 34 is the sum of the rows' information sums. -/
def ldpcEncode (info : List Bool) : List Bool :=
  let cols := (List.range 34).map (fun c => columnOf ((info.drop (256 * c)).take 256))
  let sums := (List.range 8).map (rowSum cols)
  let p34 := sums.foldl (· ^^^ ·) 0
  info ++ columnBits p34 ++ (parityChain sums p34).flatMap columnBits

/-- The information field of a frame (Table 14-4). -/
def infoField (f : TFrame) : List Bool :=
  let b := (tthFrameBytes f).flatMap bitsMsb
  let word (d : List Bool) : List Bool := d ++ bchParity 6 d
  word (b.take 4240) ++ word (b.drop 4240) ++ List.replicate 68 false

/-- The codeword of a frame. -/
def codewordOf (f : TFrame) : List Bool := ldpcEncode (infoField f)

/-! ### Levels (R484 to R486) -/

/-- The level index of a group's value: the `i` with i xor (i >> 1) = g. -/
def grayIndex (g : Nat) : Nat := g ^^^ g / 2 ^^^ g / 4 ^^^ g / 8

/-- The amplitude of a group of bits, first most significant, in units of the outer level ÷ (M − 1). -/
def levelOf (group : List Bool) : Int :=
  2 * (grayIndex (group.foldl (fun n b => 2 * n + b.toNat) 0) : Int) - (2 ^ group.length - 1)

/-- The first `n` symbols of bits, `b` bits a symbol, bit 0 first. -/
def levelsOf (b : Nat) : Nat → List Bool → List Int
  | 0, _ => []
  | n + 1, bs => levelOf (bs.take b) :: levelsOf b n (bs.drop b)

/-- A codeword scrambled from a register and mapped, and the register after it. -/
def lineLevels (b : Nat) (r : BitVec 23) (code : List Bool) : List Int × BitVec 23 :=
  let x := scrRun 10752 r
  (levelsOf b (10752 / b) (List.zipWith xor code x.1), x.2)

/-- The marker pattern (R485). -/
def markerWord : W64 := 0x8F3AD2156C0BE749

/-- A marker's 64 levels, the pattern complemented in an MKT, at the outer levels and unscrambled. -/
def markerLevels (b : Nat) (mkt : Bool) : List Int :=
  (bitsMsb markerWord).map (fun x => if xor x mkt then 2 ^ b - 1 else -(2 ^ b - 1))

/-- Bits per symbol of a MODE (Table 14-2). -/
def modeBits (mode : BitVec 2) : Nat := mode.toNat + 1

/-- LLRs with the scrambler taken out: the sign turns where the sequence holds 1. -/
def descramble (seq : List Bool) (llrs : List Int) : List Int :=
  List.zipWith (fun b x => if b then min 127 (-x) else x) seq llrs

/-- A decoded codeword (R499): the frame, where its CRC holds, and the bits that the two BCH words corrected. -/
def decodeFrame (seq : List Bool) (llrs : List (BitVec 8)) : Option TFrame × Nat :=
  let ls := (descramble seq (llrs.map BitVec.toInt)).zipIdx.map (fun x => if 8636 ≤ x.2 ∧ x.2 < 8704 then (127 : Int) else x.1)
  let r := (ldpcDecode tethCode (fun _ => true) ls).1
  let wa := bchCorrect 6 (r.take 4318)
  let wb := bchCorrect 6 ((r.drop 4318).take 4318)
  let b := packBits (wa.1.take 4240 ++ wb.1.take 4240)
  (if crc32c (b.take 0x420) = u32 b 0x420 then some (frameOf b) else none, wa.2.getD 0 + wb.2.getD 0)

/-! ### The linear echo canceller (R488) -/

/-- What a section at a delay makes of the port's own levels, the newest first. -/
def sectionSum (taps : List Int) (levels : List Int) : Int := (List.zipWith (· * ·) taps levels).foldl (· + ·) 0

/-- The estimate that the canceller subtracts: the main section over the newest 512 levels, each floating section over the
32 levels at its delay. -/
def echoEstimate (e : EchoCanc) (levels : List Int) : Int :=
  e.floats.foldl (fun a f => a + sectionSum f.2 (levels.drop f.1)) (sectionSum e.main levels)

/-- The canceller as training or adaptation number `n` leaves it. The spec states no tap and no place: each is a free
value, a place at most 15,000 symbols. -/
def echoDrawn (n : Nat) : EchoCanc :=
  { main := (List.range 512).map (Config.echoTap n 0),
    floats := (List.range 4).map (fun k => ((Config.echoDelay n k).val, (List.range 32).map (Config.echoTap n (k + 1)))) }

/-- The canceller adapted: the floating sections stay where training placed them. -/
def echoAdapted (n : Nat) (e : EchoCanc) : EchoCanc :=
  { main := (List.range e.main.length).map (Config.echoTap n 0),
    floats := e.floats.zipIdx.map (fun x => (x.1.1, (List.range 32).map (Config.echoTap n (x.2 + 1)))) }

/-! ### The residual canceller (R489) -/

/-- The 528 codes that update number `n` leaves, each in −127 to 127. -/
def residualDrawn (n : Nat) : List Byte := (List.range 528).map (fun k => BitVec.ofInt 8 ((Config.residualCode n k).val - 127))

/-- Hidden unit `h` over the 32 newest levels, clipped to 0 to 127. -/
def residualUnit (w : List Byte) (levels : List Int) (h : Nat) : Int :=
  max 0 (min 127 (sectionSum ((List.range 32).map (fun k => (w.getD (32 * h + k) 0).toInt)) levels))

/-- The network's one output over its 16 hidden units; codes not listed are 0. -/
def residualOut (w : List Byte) (levels : List Int) : Int :=
  sectionSum ((List.range 16).map (fun h => (w.getD (512 + h) 0).toInt)) ((List.range 16).map (residualUnit w levels))

/-! ### Girth lanes (R533, R534) -/

/-- The registers of the 64 lanes at the first unit interval after a training. -/
def laneStart : List (BitVec 23) := (List.range 64).map (fun l => 0x7FFFFF ^^^ BitVec.ofNat 23 l)

/-- The bits that the 64 lanes XOR in `n` unit intervals, lane 0 of the first interval first, and the registers after. -/
def laneRun : Nat → List (BitVec 23) → List Bool × List (BitVec 23)
  | 0, rs => ([], rs)
  | n + 1, rs => let x := laneRun n (rs.map scrNext); (rs.map scrOut ++ x.1, x.2)

/-- Flit bits: bit 8b + k is bit k of byte b. -/
def flitBits (bytes : List Byte) : List Bool := bytes.flatMap (fun b => (List.range 8).map (fun k => b.getLsbD k))

/-- What each data lane sends in the 32 unit intervals of a flit: lane l carries flit bit 64u + l in interval u. -/
def laneBits (rs : List (BitVec 23)) (bytes : List Byte) : List (List Bool) :=
  let line := List.zipWith xor (flitBits bytes) (laneRun 32 rs).1
  (List.range 64).map (fun l => (List.range 32).map (fun u => line.getD (64 * u + l) false))

/-- The bytes of flit bits. -/
def flitOf (bs : List Bool) : List Byte :=
  (List.range 256).map (fun b => BitVec.ofNat 8 ((List.range 8).foldl (fun n k => n + (bs.getD (8 * b + k) false).toNat * 2 ^ k) 0))

/-- The flit that the lanes' bits hold, the sequences taken out. -/
def flitFrom (rs : List (BitVec 23)) (lanes : List (List Bool)) : List Byte :=
  let line := (List.range 32).flatMap (fun u => (List.range 64).map (fun l => (lanes.getD l []).getD u false))
  flitOf (List.zipWith xor line (laneRun 32 rs).1)

/-- The wire of its group that carries data lane `l`: wire 32 is the group's spare. From the faulty lane of the group on, every
lane shifts up by one (Table 15-3). -/
def laneWire (faulty : Option (Fin 32)) (l : Nat) : Nat :=
  match faulty with
  | some f => if f.val ≤ l % 32 then l % 32 + 1 else l % 32
  | none => l % 32

/-- The wires of one direction, 33 to a group, with what each sends in a flit. -/
def flitWires (faulty : List (Option (Fin 32))) (rs : List (BitVec 23)) (bytes : List Byte) : List (Nat × List Bool) :=
  (laneBits rs bytes).zipIdx.map (fun x => (33 * (x.2 / 32) + laneWire (faulty.getD (x.2 / 32) none) x.2, x.1))

end Sys2Proof.Machine
end

