-- ==== Sys2Proof/Machine/PacerCore.lean ====
section
/-!
DEFINITION. Pacer cores (ch. 11): registers and spaces, loads and preloads (R390 to R393), swaps (R394 to R397), double
faults and restarts (R387 to R389), timers, captures, and exception entry (R384 to R386).
-/
namespace Sys2Proof.Machine

def getCore (s : State) (n : Nat) : PCore := tget {} s.cores n
def modCore (s : State) (n : Nat) (f : PCore → PCore) : State := { s with cores := tmod {} s.cores n f }

/-! ### Slots and the cores of a carrier -/

/-- The stream of a carrier that a core serves. -/
def streamOf (s : State) (c n : Nat) : Option Nat := firstIdx (fun m => m == n) (carrierCores s c) 0

/-- Whether a slot is over: the grid has reached the boundary at its end (R31). -/
def slotOver (s : State) (c : Nat) (frame : BitVec 10) (slot : Nat) : Bool :=
  let d := (s.air.frame - frame).toNat
  if d = 0 then decide ((slot + 1) * slotLen s c ≤ s.air.tick.toNat) else decide (d < 512)

/-- A start record's carrier, slot and the frame of that slot (Table 11-7). -/
def recCarrier (r : W64) : Nat := (bits r 0 3).toNat
def recSlot (r : W64) : Nat := (bits r 3 6).toNat
def recFrame (r : W64) : BitVec 10 := if bit r 13 then bits r 14 10 - 1 else bits r 14 10

/-- The task of a start record is reported failed with CORE_FAULT (Table 12-11). -/
def failRec (s : State) (r : W64) : State := failSlot s (recCarrier r) (recFrame r) (recSlot r) 0x12

/-! ### Programs (R390) -/

/-- The record of a binding, and its code, of the stall that owns the core. -/
def bindRec (s : State) (b : Byte) : Option BindRec := s.hns.binds.find? (fun r => r.bind == b)
def codeRec (s : State) (n : Nat) (r : BindRec) : Option CodeRec :=
  s.hns.codes.find? (fun x => x.index == r.code.toNat && some x.stall == pcrOwner s n)

/-- Fields of a PACER_CODE body (Table 11-10). -/
def codeLen (d : List Byte) : Nat := (u32 d 0).toNat
def codeBank (d : List Byte) : List Byte := slice d 0x40 (codeLen d)
def up64 (n : Nat) : Nat := ceilDiv n 64 * 64
def codeX (d : List Byte) : List Byte := slice d (up64 (0x40 + codeLen d)) (u32 d 8).toNat
def codeY (d : List Byte) : List Byte := slice d (up64 (up64 (0x40 + codeLen d) + (u32 d 8).toNat)) (u32 d 12).toNat

/-- Whether a binding names a core (R109). -/
def bindNames (r : BindRec) (n : Nat) : Bool := decide (r.cluster = n / 8) && r.mask.getLsbD (n % 8)

/-- The lowest BIND of a structure that names a core (R396). -/
def bindOf (h : Harness) (n : Nat) : Option BindRec :=
  (h.binds.filter (fun r => bindNames r n)).foldl (fun b r => match b with
    | none => some r
    | some x => if r.bind.toNat < x.bind.toNat then some r else some x) none

/-- The lowest BIND that names a core. -/
def lowestBind (s : State) (n : Nat) : Option BindRec := bindOf s.hns n

/-- The serial of the image or segment that holds a stall's records. -/
def imageSerial (s : State) (i : Nat) : W32 := tget 0 s.loader.segSerial i
def coreSerial (s : State) (n : Nat) : W32 := imageSerial s ((pcrOwner s n).getD 0)

def actBank (c : PCore) : CoreBank := if c.act then c.bank1 else c.bank0
def inactBank (c : PCore) : CoreBank := if c.act then c.bank0 else c.bank1
def setAct (c : PCore) (b : CoreBank) : PCore := if c.act then { c with bank1 := b } else { c with bank0 := b }
def setInact (c : PCore) (b : CoreBank) : PCore := if c.act then { c with bank0 := b } else { c with bank1 := b }

/-- The program of a tag: the running structure's, or that of the segment being loaded (R393, R396). -/
def tagCode (s : State) (n : Nat) (t : W32 × Byte) : Option CodeRec :=
  let h := if t.1 = coreSerial s n then s.hns else s.merged.getD s.hns
  (h.binds.find? (fun r => r.bind == t.2)).bind
    (fun r => h.codes.find? (fun x => x.index == r.code.toNat && some x.stall == pcrOwner s n))

/-- A bank that holds a binding's program under a tag. -/
def bankOf (s : State) (n : Nat) (t : W32 × Byte) : CoreBank :=
  match tagCode s n t with
  | some x => { code := mwrite [] 0 (codeBank x.data), tag := some t }
  | none => { tag := some t }

/-- The registers of R366, and the program counter at the binding's ENTRY (R392). -/
def startProgram (s : State) (n : Nat) : State :=
  let gen := (getCluster s (n / 8)).gen
  modCore s n (fun c =>
    let r := (actBank c).tag.bind (fun t => bindRec s t.2)
    let d := ((r.bind (codeRec s n)).map (·.data)).getD []
    { c with
      st := .running, d := [], acc := [], p := [], pm := [], rrb := 0, ie := 0, ovfEv := false, swi := none, sync := none,
      sp := BitVec.ofNat 17 (u32 d 0x14).toNat, slLo := BitVec.ofNat 17 (u32 d 0x10).toNat,
      slHi := BitVec.ofNat 17 (u32 d 0x14).toNat, ieFlag := false, ovfTrap := false, srGen := gen,
      pc := BitVec.ofNat 15 ((r.map (·.entry.toNat)).getD 0), loops := [], waitMask := 0, task := none, ready := [] })

/-- The gait's swap entries that name a core. -/
def namesCore (s : State) (n : Nat) (e : W64) : Bool :=
  gAction e == 5 && (gTarget e).toNat == n / 8 && (gArg e).getLsbD (n % 8)
    && (bindRec s (bits (gArg e) 8 8)).any (fun r => bindNames r n)

/-- The binding of the first PACER_SWAP that names a core and acts after the current tick, within 128 frames (R393). -/
def nextSwap (s : State) (n : Nat) : Option Byte :=
  let es := (gaitEntries s.air).filter (fun x => !gaitBad s.air x.1 && namesCore s n x.2)
  ((List.range 129).findSome? (fun k =>
    (es.find? (fun x => gActs x.2 (s.air.frame + BitVec.ofNat 10 k)
      && (decide (k ≠ 0) || decide (s.air.tick.toNat < gOffset x.2)))).map (·.2))).map (fun e => bits (gArg e) 8 8)

/-- The inactive bank is preloaded for the next swap (R393); a later preload replaces an earlier (R400). -/
def startPreload (s : State) (n : Nat) : State :=
  match nextSwap s n with
  | some b => modCore s n (fun c => { setInact c { inactBank c with tag := none } with preload := some (coreSerial s n, b) })
  | none => modCore s n (fun c => { c with preload := none })

/-- A preload that finds the wanted program under way or in the bank changes nothing (R393). -/
def refreshPreload (s : State) (n : Nat) : State :=
  let want := (nextSwap s n).map (fun b => (coreSerial s n, b))
  let c := getCore s n
  if want = c.preload.or (inactBank c).tag then s else startPreload s n

/-- A load into bank 0 begins for the lowest binding, or for the binding given; a core without one stays in reset. -/
def beginLoad (s : State) (n : Nat) (b : Option BindRec) : State :=
  match b with
  | some r => modCore s n (fun c => { c with st := .loading, loadTag := some (coreSerial s n, r.bind), preload := none })
  | none => modCore s n (fun c => { c with st := .reset, loadTag := none, preload := none })

/-- Timers, queues and memories of a core cleared (Table 4-9, R402). -/
def clearCore (c : PCore) : PCore :=
  { st := .reset, ovf := false, evtDrop := c.evtDrop, tmrCancel := c.tmrCancel, tmrCarry := c.tmrCarry,
    swapMiss := c.swapMiss, dblCnt := c.dblCnt, eccCe := c.eccCe, eccUe := c.eccUe, busy := c.busy, lastUe := c.lastUe,
    double := c.double, xsPc := c.xsPc, xsBank := c.xsBank, xsSr := c.xsSr, xsCause := c.xsCause, xsInfo := c.xsInfo,
    xsSp := c.xsSp, xsGen := c.xsGen, ueSeen := c.ueSeen }

/-- BANK0_LOAD_DONE: bank image, X and Y images, the rest of X and Y zero; bank 0 becomes active, the program starts and
the preload begins (R391, R392, R393). A replacement loaded is ready (Table 2-11). -/
def bank0Loaded (s : State) (n : Nat) (t : W32 × Byte) : State :=
  let d := (((bindRec s t.2).bind (codeRec s n)).map (·.data)).getD []
  let s := modCore s n (fun c => { c with
    act := false, bank0 := bankOf s n t, bank1 := {}, loadTag := none, x := mwrite [] 0 (codeX d), y := mwrite [] 0 (codeY d) })
  let s := startPreload (startProgram s n) n
  (List.range 16).foldl (fun s i => modStall s i (fun st => { st with
    remaps := st.remaps.map (fun r => if r.kind == 2 && r.replace == some n then { r with ready := true } else r) })) s

def execBank0LoadDone (core : Fin 48) (s : State) : Host.Outcome State Fault Refusal :=
  let c := getCore s core.val
  match c.loadTag with
  | some t => if c.st = .loading then .next (bank0Loaded s core.val t) else .next s
  | none => .next s

/-! ### Uncorrectable errors and double faults -/

/-- A core leaves service until cold reset (R401, Table 2-11). -/
def coreOut (s : State) (n : Nat) (last : Byte) : State :=
  let s := modCore s n (fun c => { c with st := .out })
  let s := outOfService s 5 n last
  (losers s 2 n).foldl (fun s i => loseUnit s i 2 n) s

/-- An uncorrectable error of a core: space 0 X, 1 Y, 2 C, 3 the inactive bank (Table 17-4); two within 10 s take it out
of service. -/
def coreUe (s : State) (n : Nat) (space : Byte) (off : Nat) : State :=
  let again := within10s (getCore s n).lastUe s.now
  let s := modCore s n (fun c => { c with eccUe := satInc c.eccUe, ueSeen := true, lastUe := some s.now })
  let s := report s { code := 0x1007, kind := 5, unit := BitVec.ofNat 8 n, stall := (pcrOwner s n).map (BitVec.ofNat 4),
                      data := [space] ++ leBytes 2 off ++ [(getCluster s (n / 8)).gen] }
  if again then coreOut s n space else s

/-- PRELOAD_DONE: the inactive bank holds the binding, and its tag is set; an uncorrectable error voids the tag and the
preload is repeated (R393, R401). -/
def execPreloadDone (core : Fin 48) (ue : Bool) (s : State) : Host.Outcome State Fault Refusal :=
  let n := core.val
  match (getCore s n).preload with
  | some t =>
    if ue then .next (coreUe (modCore s n (fun c => setInact c { inactBank c with tag := none })) n 3 0)
    else .next (modCore s n (fun c => { setInact c (bankOf s n t) with preload := none }))
  | none => .next s

/-- The word of sr (Table 11-2). -/
def srOf (c : PCore) : W32 := flag 32 0 c.ovf ||| flag 32 1 c.ieFlag ||| flag 32 2 c.ovfTrap ||| place 32 8 c.srGen

/-- A double fault (R387, R388): shadow registers while none is latched, halt, source and trail, and the slot of the last
start record failed. -/
def doubleFault (s : State) (n : Nat) (cause : Byte) (info : W64) (reload : Bool) : State :=
  let c := getCore s n
  let gen := (getCluster s (n / 8)).gen
  let s := modCore s n (fun c =>
    let c := { c with st := .halted, dblCnt := satInc c.dblCnt, reload := reload, haltAt := s.now, sync := none, task := none }
    if c.double then c
    else { c with double := true, xsPc := c.pc, xsBank := c.act, xsSr := srOf c, xsCause := cause, xsInfo := info,
                  xsSp := c.sp.setWidth 16, xsGen := gen })
  let s := report s { code := 0x1006, kind := 5, unit := BitVec.ofNat 8 n, stall := (pcrOwner s n).map (BitVec.ofNat 4),
                      data := [cause, gen] ++ leBytes 2 c.pc.toNat ++ leBytes 2 c.sp.toNat }
  match c.lastStart with
  | some r => failRec s r
  | none => s

/-- The restart time of a halted core has come (R389). -/
def restartDue (s : State) (c : PCore) : Bool :=
  match c.lastStart with
  | some r => slotOver s (recCarrier r) (recFrame r) (recSlot r)
  | none => decide (c.haltAt + s.air.tick.toNat < s.now)

def noTimers (c : PCore) : PCore := { c with timers := [], carriedQ := [] }

/-- PACER_RESTART (R389): from ENTRY of the active bank, timers cancelled, records of the failed slot discarded; the events
that no queue or timer stands behind are zeroed with ev (R366). -/
def execPacerRestart (core : Fin 48) (s : State) : Host.Outcome State Fault Refusal :=
  let n := core.val
  let c := getCore s n
  if decide (c.st = .halted) && restartDue s c then
    let s := match c.reload, (actBank c).tag with
      | true, some t => modCore s n (fun c => { setAct c (bankOf s n t) with reload := false })
      | _, _ => s
    let s := modCore s n (fun c => { noTimers c with
      xdone := [], tdone := [],
      startQ := match c.lastStart with
        | some r => c.startQ.filter (fun x => recCarrier x.1 != recCarrier r || recSlot x.1 != recSlot r || recFrame x.1 != recFrame r)
        | none => c.startQ })
    .next (startProgram s n)
  else .next s

/-! ### Swaps (R394 to R397) -/

/-- A CARRIED event: the timer, its target and its generation at arming (Table 11-8); the layout of this INFO is not
stated, so it is a free value (notes/assumptions/4.md). -/
def addCarried (s : State) (n : Nat) : State :=
  modCore (drew s) n (fun c => { c with carriedQ := c.carriedQ ++ [draw s], tmrCarry := satInc c.tmrCarry })

/-- A timer across a swap tick (Table 11-11). -/
def swapTimer (s : State) (n : Nat) (tm : Nat) : State :=
  let t := tget {} (getCore s n).timers tm
  let put (s : State) (t : Timer) : State := modCore s n (fun c => { c with timers := tset {} c.timers tm t })
  let cancel (s : State) : State := modCore s n (fun c => { c with tmrCancel := satInc c.tmrCancel })
  if t.carry then
    let s := if t.fired.isSome then addCarried s n else s
    put s (if t.armed then { t with fired := none, carried := true } else {})
  else
    let s := if t.fired.isSome then cancel s else s
    put (if t.armed then cancel s else s) {}

/-- The banks of a core exchange at a swap tick: the running task and the records dispatched before it fail, timers and
events follow Table 11-11, and the new program starts (R395, R397). -/
def flipCore (s : State) (n : Nat) (at_ : Nat) : State :=
  let c := getCore s n
  let s := match c.task with
    | some r => failRec s r
    | none => s
  let old := c.startQ.filter (fun x => decide (x.2 < at_))
  let s := old.foldl (fun s x => failRec s x.1) s
  let s := modCore s n (fun c => { c with
    act := !c.act, startQ := c.startQ.filter (fun x => !decide (x.2 < at_)), evtDrop := satAdd c.evtDrop old.length,
    reload := false })
  let s := (List.range 4).foldl (fun s tm => swapTimer s n tm) s
  startPreload (startProgram s n) n

/-- Whether a PACER_SWAP acts on a core: its binding names the core, and the stall is not RESETTING (R394, R162). -/
def swapsCore (s : State) (n : Nat) (b : Byte) : Bool :=
  (bindRec s b).any (fun r => bindNames r n)
    && (match pcrOwner s n with
        | some i => decide ((getStall s i).state ≠ .resetting)
        | none => false)

/-- Whether a STALL_SWAP is the one an armed segment waits for (R124). -/
def segArmed (s : State) (g : GaitAct) : Bool :=
  s.loader.segState == 4 && s.loader.segStall.toNat == (gTarget g.entry).toNat
    && s.loader.segFrame == g.alt && s.loader.segTick == BitVec.ofNat 21 (gOffset g.entry)

/-- A swap on one core: a flip where the inactive bank holds the binding, else a missed swap (R394). -/
def swapCore (s : State) (n : Nat) (b : Byte) (at_ : Nat) : State :=
  let c := getCore s n
  if c.st = .out ∨ c.st = .loading then s
  else if (inactBank c).tag = some (coreSerial s n, b) then flipCore s n at_
  else
    let s := modCore s n (fun c => { c with swapMiss := satInc c.swapMiss })
    let s := report s { code := 0x1008, kind := 5, unit := BitVec.ofNat 8 n, stall := (pcrOwner s n).map (BitVec.ofNat 4),
                           data := [b, (getCluster s (n / 8)).gen] }
    startPreload s n

/-- A replacement whose swap point has come: a spare core loads its binding into bank 0, an engine takes over (Table
2-11). -/
def swapPoint (s : State) (i : Nat) (p : Remap → Bool) : State :=
  ((getStall s i).remaps.filter (fun r => !r.ready && r.kind != 1 && p r)).foldl (fun s r =>
    match r.replace with
    | some n =>
      if r.kind = 2 ∧ (lowestBind s r.failed).isSome = true then
        if (getCore s n).st = .loading then s else beginLoad s n (lowestBind s r.failed)
      else modStall s i (fun st => { st with remaps := st.remaps.map (fun x => if x = r then { x with ready := true } else x) })
    | none => s) s

/-- Whether a replaced unit belongs to a cluster: the core's own, or that of a carrier that uses the engine. -/
def unitOfCluster (s : State) (cl : Nat) (r : Remap) : Bool :=
  if r.kind = 2 then decide (r.failed / 8 = cl)
  else (List.range 8).any (fun c => (carrierCfg s c).any (fun x => x.cluster == cl) && carrierUses s c 3 r.failed)

/-- PACER_SWAP (R394): skipped on the cores of a stall that is RESETTING (R162). -/
def execPacerSwap (cluster : Fin 6) (mask : Byte) (bind : Byte) (s : State) : Host.Outcome State Fault Refusal :=
  let arg (a : W16) : Bool := a == mask.setWidth 16 ||| (bind.setWidth 16 <<< 8)
  match takeAct s 5 (BitVec.ofNat 8 cluster.val) arg with
  | some (g, s) =>
    let s := (List.range 16).foldl (fun s i => swapPoint s i (unitOfCluster s cluster.val)) s
    .next ((setBits mask).foldl (fun s k =>
      if swapsCore s (8 * cluster.val + k) bind then swapCore s (8 * cluster.val + k) bind g.due else s) s)
  | none => .next s

/-! ### Events (R379 to R382, Table 11-8) -/

/-- The event bits of ev. -/
def evOf (c : PCore) : W32 :=
  let t (k : Nat) : Bool := (tget {} c.timers k).fired.isSome
  let cap (k : Nat) : Bool := !(tget [] c.caps k).isEmpty
  flag 32 4 c.ovfEv ||| flag 32 5 (!c.carriedQ.isEmpty) ||| flag 32 6 (t 0) ||| flag 32 7 (t 1) ||| flag 32 8 (t 2)
    ||| flag 32 9 (t 3) ||| flag 32 10 (cap 0) ||| flag 32 11 (cap 1) ||| flag 32 12 (cap 2) ||| flag 32 13 (cap 3)
    ||| flag 32 14 (!c.startQ.isEmpty) ||| flag 32 15 (!c.xdone.isEmpty) ||| flag 32 16 (!c.tdone.isEmpty)
    ||| flag 32 17 c.swi.isSome

/-- The event of a vector is consumed: its INFO, and the core without it. A start record taken is the task that runs. The
INFO of a timer has no stated layout: `fr` stands for it. -/
def consumeEv (c : PCore) (v : Nat) (fr : W64) : W64 × PCore :=
  if v = 4 then (0, { c with ovfEv := false })
  else if v = 5 then (c.carriedQ.headD 0, { c with carriedQ := c.carriedQ.drop 1 })
  else if 6 ≤ v ∧ v ≤ 9 then
    (fr, { c with timers := tmod {} c.timers (v - 6) (fun t => if t.armed then { t with fired := none } else {}) })
  else if 10 ≤ v ∧ v ≤ 13 then ((tget [] c.caps (v - 10)).headD 0, { c with caps := tmod [] c.caps (v - 10) (fun q => q.drop 1) })
  else if v = 14 then
    let r := c.startQ.head?.map (·.1)
    (r.getD 0, { c with startQ := c.startQ.drop 1, lastStart := r, task := r })
  else if v = 15 then ((c.xdone.headD 0).setWidth 64, { c with xdone := c.xdone.drop 1 })
  else if v = 16 then ((c.tdone.headD 0).setWidth 64, { c with tdone := c.tdone.drop 1 })
  else if v = 17 then ((c.swi.getD 0).setWidth 64, { c with swi := none })
  else (0, c)

/-- The swap tick that waits for its flip at a core: of an issued PACER_SWAP that will flip it, or of the armed segment's
STALL_SWAP that keeps it (R395, R396). -/
def swapWaiting (s : State) (n : Nat) : Option Nat :=
  let c := getCore s n
  let tagged (b : Byte) : Bool := decide (c.st ≠ .out) && decide (c.st ≠ .loading) && (inactBank c).tag == some (coreSerial s n, b)
  (s.air.issued.find? (fun g =>
    (gAction g.entry == 5 && (gTarget g.entry).toNat == n / 8 && (gArg g.entry).getLsbD (n % 8)
        && swapsCore s n (bits (gArg g.entry) 8 8) && tagged (bits (gArg g.entry) 8 8))
      || (gAction g.entry == 6 && pcrOwner s n == some (gTarget g.entry).toNat && segArmed s g
        && (s.merged.bind (fun h => bindOf h n)).any (fun r => tagged r.bind)))).map (·.due)

/-- The events that the program of a core may take: from a swap tick on no timer's, and no start record dispatched since
(R397). -/
def evReady (s : State) (n : Nat) : W32 :=
  let c := getCore s n
  match swapWaiting s n with
  | some t =>
    evOf c &&& ~~~ (place 32 6 (0xF : BitVec 4) ||| flag 32 14 (c.startQ.head?.any (fun x => decide (t ≤ x.2))))
  | none => evOf c

/-- The vector to take: a synchronous one, else the lowest enabled one of `ev` (R379, R384). -/
def pendingVec (c : PCore) (ev : W32) : Option Nat :=
  match c.sync with
  | some (v, _) => some v.toNat
  | none =>
    if c.ieFlag then (List.range 28).findSome? (fun k => if (ev &&& c.ie).getLsbD (k + 4) then some (k + 4) else none) else none

/-- Whether the push of an exception frame is valid (R386). -/
def pushOk (c : PCore) : Bool :=
  decide (c.sp.toNat % 16 = 0) && decide (c.sp.toNat ≤ c.slHi.toNat) && decide (c.slLo.toNat + 32 ≤ c.sp.toNat)
    && decide (c.slHi.toNat ≤ 65536) && decide (c.slLo.toNat ≤ c.slHi.toNat)

/-- The exception frame (Table 11-9). -/
def frameBytes (c : PCore) (v : Nat) (gen : Byte) (info : W64) : List Byte :=
  leBytes 4 c.pc.toNat ++ bytesOf (srOf c) ++ [BitVec.ofNat 8 v, gen, BitVec.ofNat 8 c.loops.length, c.rrb.setWidth 8]
    ++ [0, 0, 0, 0] ++ bytesOf info ++ leBytes 2 c.sp.toNat ++ List.replicate 6 0

/-- The exception is entered: the frame pushed, IE cleared, the vector's entry next; 10 cycles (R385). -/
def enterVec (c : PCore) (v : Nat) (gen : Byte) (info : W64) : PCore :=
  { c with
    x := mwrite c.x (c.sp.toNat - 32) (frameBytes c v gen info), sp := c.sp - 32, ieFlag := false, sync := none,
    pc := BitVec.ofNat 15 (8 * v), busy := c.busy + 10 }

def execExceptionEntry (core : Fin 48) (err : EntryErr) (s : State) : Host.Outcome State Fault Refusal :=
  let n := core.val
  let c := getCore s n
  if c.st ≠ .running then .next s
  else match err with
    | .fetch =>
      let s := coreUe s n 2 c.pc.toNat
      if (getCore s n).st = .out then .next s else .next (doubleFault (drew s) n 0x80 (draw s) true)
    | .during v info =>
      if (pendingVec c (evReady s n)).isSome then .next (doubleFault s n (v.setWidth 8 ||| 0x80) info false) else .next s
    | .none =>
      match pendingVec c (evReady s n) with
      | none => .next s
      | some v =>
        let fr := draw s
        let (info, c') := match c.sync with
          | some (_, i) => (i, c)
          | none => consumeEv c v fr
        let s := drew s
        if pushOk c then .next (modCore s n (fun _ => enterVec c' v (getCluster s (n / 8)).gen info))
        else .next (doubleFault s n (BitVec.ofNat 8 v) info false)

/-! ### Timers, waking, captures and posted transfers -/

/-- A timer's expiry sets its event, or a CARRIED event where it crossed a swap; LATE where a forward advance passed the
target (R381, R397). -/
def timerExpire (s : State) (n tm : Nat) (late : Bool) : State :=
  let t := tget {} (getCore s n).timers tm
  let t' := { t with armed := decide (t.period ≠ 0), target := t.target + t.period.setWidth 64 }
  if t.carried then
    addCarried (modCore s n (fun c => { c with timers := tset {} c.timers tm (if t'.armed then t' else {}) })) n
  else modCore s n (fun c => { c with timers := tset {} c.timers tm { t' with fired := some late } })

def execPcrTimerExpire (core : Fin 48) (tm : Fin 4) (s : State) : Host.Outcome State Fault Refusal :=
  let t := tget {} (getCore s core.val).timers tm.val
  if t.armed && decide (t.target.toNat ≤ s.air.abs.toNat) && (t.carried || (swapWaiting s core.val).isNone) then
    .next (timerExpire s core.val tm.val (decide (t.target.toNat + 5 < s.air.abs.toNat)))
  else .next s

/-- WAIT ends once a masked event is pending (R379); every result is at its latency by the 4 cycles of waking. -/
def execPcrWake (core : Fin 48) (s : State) : Host.Outcome State Fault Refusal :=
  let c := getCore s core.val
  if decide (c.st = .waiting) && (evReady s core.val &&& c.waitMask != 0) then
    .next (modCore s core.val (fun c => { c with st := .running, waitMask := 0, ready := [] }))
  else .next s

/-- Whether a core takes captures of a detector: enabled by ie, or by the mask of its WAIT (R382). -/
def takesCap (c : PCore) (d : Nat) : Bool :=
  (decide (c.st = .running) && c.ie.getLsbD (10 + d)) || (decide (c.st = .waiting) && (c.ie ||| c.waitMask).getLsbD (10 + d))

/-- A core takes the oldest record of a detector (R382). How many it holds before its program reads them is not stated: the
model keeps all (DESIGN CHOICE, notes/assumptions/35.md). -/
def execCaptureDeliver (cluster : Fin 6) (det : Fin 4) (s : State) : Host.Outcome State Fault Refusal :=
  match (getDet (getCluster s cluster.val) det.val).queue with
  | [] => .next s
  | r :: rest =>
    match (List.range 8).find? (fun k => takesCap (getCore s (8 * cluster.val + k)) det.val) with
    | some k =>
      let s := modDet s cluster.val det.val (fun d => { d with queue := rest })
      .next (modCore s (8 * cluster.val + k) (fun c => { c with caps := tmod [] c.caps det.val (fun q => q ++ [r]) }))
    | none => .next s

/-! ### Start records (R380, R414) -/

/-- A record in a core's start queue of 16; at a full queue it is dropped and its task fails. -/
def pushStart (s : State) (n : Nat) (r : W64) (at_ : Nat) : State :=
  if (getCore s n).startQ.length < 16 then modCore s n (fun c => { c with startQ := c.startQ ++ [(r, at_)] })
  else failRec (modCore s n (fun c => { c with evtDrop := satInc c.evtDrop })) r

end Sys2Proof.Machine
end

