-- ==== Sys2Proof/Machine/Pacer.lean ====
section
/-!
DEFINITION. The instructions of a pacer core (R359 to R383): addressing modes, arithmetic, loads and stores, loop control,
waits, timers and posted transfers.
-/
namespace Sys2Proof.Machine

/-! ### Issue, latency and the program counter -/

/-- Resources with a latency (R372): data registers, accumulators, 16-byte memory lines. -/
def rD (n : Nat) : Nat := n
def rAcc (n : Nat) : Nat := 64 + n
def rLine (space off : Nat) : Nat := 128 + 4096 * space + off / 16

/-- An instruction issues: it waits for the resources it reads, costs its issue cycles, and its results are ready at their
latency (Table 11-5). PCR_BUSY counts the cycles. -/
def issue (c : PCore) (reads : List Nat) (cost : Nat) (results : List (Nat × Nat)) : PCore :=
  let t := reads.foldl (fun t r => max t (tget 0 c.ready r)) c.busy.toNat
  let live := c.ready.filter (fun x => decide (t + cost < x.2))
  { c with
    busy := BitVec.ofNat 64 (t + cost),
    ready := results.foldl (fun m r => tset 0 m r.1 (t + r.2)) live }

/-- The word at a bank offset. -/
def bankWord (c : PCore) (off : Nat) : W32 := u32 (mread (actBank c).code off 4) 0
/-- The format of the instruction at an offset, and its words (Table 11-4). -/
def formatAt (c : PCore) (off : Nat) : Nat := (bits (bankWord c off) 28 4).toNat
def wordsAt (c : PCore) (off : Nat) : Nat := if 3 ≤ formatAt c off ∧ formatAt c off ≤ 5 then 2 else 1

/-- The end of a body: back to its start, or the level pops (R375, R378). -/
def loopBack : Nat → PCore → PCore
  | 0, c => c
  | f + 1, c =>
    match c.loops with
    | [] => c
    | l :: rest =>
      if l.stop ≠ c.pc.toNat then c
      else if 1 < l.left then
        { c with pc := BitVec.ofNat 15 l.start, loops := { l with left := l.left - 1 } :: rest,
                 rrb := if l.rot then c.rrb + 1 else c.rrb }
      else loopBack f { c with loops := rest }

/-- The next instruction in order. -/
def nextPc (c : PCore) : PCore := loopBack 5 { c with pc := c.pc + BitVec.ofNat 15 (4 * wordsAt c c.pc.toNat) }

/-- Whether the instruction is fetched from the loop cache (R376). -/
def fromCache (c : PCore) : Bool :=
  match c.loops with
  | l :: _ => l.cached && decide (l.start ≤ c.pc.toNat) && decide (c.pc.toNat < l.stop)
  | [] => false

/-- A synchronous exception of the instruction at hand (R384); the entry follows at the boundary after it. -/
def raise (c : PCore) (v : BitVec 5) (info : W64) : PCore := { nextPc c with sync := some (v, info) }
/-- ILLEGAL, with the instruction words. -/
def illegal (c : PCore) : PCore :=
  raise c 0 ((if wordsAt c c.pc.toNat = 2 then (bankWord c (c.pc.toNat + 4)).setWidth 64 <<< 32 else 0)
    ||| (bankWord c c.pc.toNat).setWidth 64)

/-- An instruction of a running core (R371): a reserved format is ILLEGAL, and the program counter moves on. `fr` stands
for an INFO whose layout is not stated. -/
def instr (s : State) (n : Nat) (f : W64 → PCore → PCore) : State :=
  let c := getCore s n
  if c.st ≠ .running ∨ c.sync.isSome = true then s
  else if 6 ≤ formatAt c c.pc.toNat then modCore s n (fun c => issue (illegal c) [] 1 [])
  else modCore (drew s) n (f (draw s))

/-! ### Saturation (R257, R258) -/

/-- A narrowing to 16 bits by a shift, with whether it saturated. -/
def narrow16 (x : Int) (sh : Nat) : BitVec 16 × Bool := let r := clampInt 16 (fdiv x (2 ^ sh)); (BitVec.ofInt 16 r.1, r.2)

/-- A saturation sets OVF, and raises OVF_TRAP where it is enabled (R365). -/
def saturated (c : PCore) (b : Bool) : PCore := if b then { c with ovf := true, ovfEv := c.ovfEv || c.ovfTrap } else c

/-! ### Registers and memories (R359 to R364) -/

/-- The physical data register of a number (R364). -/
def physD (c : PCore) (n : BitVec 6) : Nat :=
  if n.toNat < 32 then n.toNat else 32 + (n.toNat - 32 + 32 - c.rrb.toNat) % 32
def getD (c : PCore) (n : BitVec 6) : BitVec 128 := tget 0 c.d (physD c n)
def setD (c : PCore) (n : BitVec 6) (v : BitVec 128) : PCore := { c with d := tset 0 c.d (physD c n) v }
def ptr (c : PCore) (n : BitVec 4) : BitVec 18 := tget 0 c.p n.toNat
def pmod (c : PCore) (n : BitVec 4) : W32 := tget 0 c.pm n.toNat

/-- A place in one of the spaces. -/
structure Place where
  space : Nat
  off : Nat
  deriving DecidableEq, Repr

/-- The address of a memory operand (Table 11-3), before any update. -/
def place18 (c : PCore) (n : BitVec 4) (mode : BitVec 3) : Place :=
  let p := ptr c n
  let off := if mode = 5 then bits p 0 16 + bits (pmod c n) 0 16 else bits p 0 16
  { space := (bits p 16 2).toNat, off := off.toNat }

/-- Whether an access of `z` bytes is aligned, in its space, and allowed (R362). -/
def placeOk (p : Place) (z : Nat) (write : Bool) : Bool :=
  decide (p.off % z = 0) && (p.space == 0 || p.space == 1 || (p.space == 2 && !write && decide (p.off < 32768)))

/-- Bits `[b+3:4]` in reversed order. -/
def revBits (b x : Nat) : Nat := (List.range b).foldl (fun r i => 2 * r + x / 2 ^ (4 + i) % 2) 0

/-- The offset after a mode's update (Table 11-3, R368). -/
def updateOff (off : W16) (m : W32) (mode : BitVec 3) (z : Nat) : W16 :=
  let step := bits m 0 16
  let len := (bits m 16 16).toNat
  if mode = 1 then off + BitVec.ofNat 16 z
  else if mode = 2 then off - BitVec.ofNat 16 z
  else if mode = 3 then
    if len = 0 then off + step
    else
      let k := ((List.range 17).find? (fun k => decide (len ≤ 2 ^ k))).getD 16
      let base : Int := off.toNat / 2 ^ k * 2 ^ k
      let x : Int := off.toNat + step.toInt
      BitVec.ofInt 16 (if base + len ≤ x then x - len else if x < base then x + len else x)
  else if mode = 4 then
    let b := min 12 (len % 32)
    let sum := (revBits b off.toNat + revBits b step.toNat) % 2 ^ b
    let back := (List.range b).foldl (fun r i => r + sum / 2 ^ i % 2 * 2 ^ (b + 3 - i)) 0
    BitVec.ofNat 16 (off.toNat / 2 ^ (b + 4) * 2 ^ (b + 4) + off.toNat % 16 + back)
  else off

/-- The pointer after its mode's update, its space unchanged (R367). -/
def updatePtr (c : PCore) (n : BitVec 4) (mode : BitVec 3) (z : Nat) : PCore :=
  let p := ptr c n
  { c with p := tset 0 c.p n.toNat ((bits p 16 2).setWidth 18 <<< 16 ||| (updateOff (bits p 0 16) (pmod c n) mode z).setWidth 18) }

def spaceOf (c : PCore) (space : Nat) : Table Byte := if space = 0 then c.x else if space = 1 then c.y else (actBank c).code
def readBytes (c : PCore) (p : Place) (n : Nat) : List Byte := mread (spaceOf c p.space) p.off n
def writeBytes (c : PCore) (p : Place) (bs : List Byte) : PCore :=
  if p.space = 0 then { c with x := mwrite c.x p.off bs } else if p.space = 1 then { c with y := mwrite c.y p.off bs } else c
def readVec (c : PCore) (p : Place) : BitVec 128 := BitVec.ofNat 128 (leNat (readBytes c p 16))

/-- Component `k` of a vector: lane `k / 2`, real then imaginary. -/
def comp (v : BitVec 128) (k : Nat) : Int := (bits v (16 * k) 16).toInt
/-- A vector of eight components. -/
def ofComps (f : Nat → BitVec 16) : BitVec 128 := (List.range 8).foldl (fun r k => r ||| place 128 (16 * k) (f k)) 0

/-! ### Arithmetic (R369, R370) -/

/-- A negated 16-bit component, saturated. -/
def neg16 (x : Int) : Int × Bool := if x = -32768 then (32767, true) else (-x, false)

/-- A saturating addition into an accumulator. -/
def addAcc (a : Int × Bool) (x : Int) : Int × Bool := let r := clampInt 48 (a.1 + x); (r.1, a.2 || r.2)

/-- One lane of the complex multiply-accumulate: both parts, and whether anything saturated. -/
def macLane (re im : Int) (x y : BitVec 128) (l : Nat) (conj : Bool) : Int × Int × Bool :=
  let xr := comp x (2 * l)
  let xi := comp x (2 * l + 1)
  let yr := comp y (2 * l)
  let n := if conj then neg16 (comp y (2 * l + 1)) else (comp y (2 * l + 1), false)
  let r := addAcc (addAcc (re, false) (xr * yr)) (-(xi * n.1))
  let i := addAcc (addAcc (im, false) (xr * n.1)) (xi * yr)
  (r.1, i.1, r.2 || i.2 || n.2)

def accAt (c : PCore) (a k : Nat) : Int := (tget 0 c.acc (8 * a + k)).toInt

/-- The complex multiply-accumulate into an accumulator. -/
def macAll (c : PCore) (a : Nat) (x y : BitVec 128) (conj : Bool) : PCore :=
  (List.range 4).foldl (fun c l =>
    let r := macLane (accAt c a (2 * l)) (accAt c a (2 * l + 1)) x y l conj
    saturated { c with acc := tset 0 (tset 0 c.acc (8 * a + 2 * l) (BitVec.ofInt 48 r.1)) (8 * a + 2 * l + 1) (BitVec.ofInt 48 r.2.1) }
      r.2.2) c

/-- One lane of a butterfly: the four results, and whether anything saturated. -/
def bflyLane (a b w : BitVec 128) (l : Nat) (conj half : Bool) : BitVec 16 × BitVec 16 × BitVec 16 × BitVec 16 × Bool :=
  let h := if half then 1 else 0
  let br := comp b (2 * l)
  let bi := comp b (2 * l + 1)
  let wr := comp w (2 * l)
  let n := if conj then neg16 (comp w (2 * l + 1)) else (comp w (2 * l + 1), false)
  let tr := narrow16 (br * wr - bi * n.1) 15
  let ti := narrow16 (br * n.1 + bi * wr) 15
  let ar := comp a (2 * l)
  let ai := comp a (2 * l + 1)
  let pr := narrow16 (ar + tr.1.toInt) h
  let pi := narrow16 (ai + ti.1.toInt) h
  let mr := narrow16 (ar - tr.1.toInt) h
  let mi := narrow16 (ai - ti.1.toInt) h
  (pr.1, pi.1, mr.1, mi.1, n.2 || tr.2 || ti.2 || pr.2 || pi.2 || mr.2 || mi.2)

/-! ### Instructions -/

/-- Modes 6 and 7 are refused (Table 11-3). -/
def modeBad (m : BitVec 3) : Bool := decide (6 ≤ m.toNat)

/-- BFLY (R370): a TRIPLE instruction, executed only from the loop cache (R374). -/
def bfly (xp yp cp : BitVec 4) (xm ym cm : BitVec 3) (conj half ue : Bool) (fr : W64) (c : PCore) : PCore :=
  let px := place18 c xp xm
  let py := place18 c yp ym
  let pc := place18 c cp cm
  if !fromCache c || modeBad xm || modeBad ym || modeBad cm then issue (illegal c) [] 1 []
  else if !(placeOk px 16 true && placeOk py 16 true && placeOk pc 16 false && px.space == 0 && py.space == 1 && pc.space == 2) then
    issue (raise c 1 fr) [] 1 []
  else if ue then issue (raise c 3 fr) [] 1 []
  else
    let a := readVec c px
    let b := readVec c py
    let w := readVec c pc
    let rs := (List.range 4).map (fun l => bflyLane a b w l conj half)
    let half1 (k : Nat) : BitVec 16 := let r := rs.getD (k / 2) (0, 0, 0, 0, false); if k % 2 = 0 then r.1 else r.2.1
    let half2 (k : Nat) : BitVec 16 := let r := rs.getD (k / 2) (0, 0, 0, 0, false); if k % 2 = 0 then r.2.2.1 else r.2.2.2.1
    let c' := writeBytes (writeBytes c px (bytesOf (ofComps half1))) py (bytesOf (ofComps half2))
    let c' := saturated c' (rs.any (fun r => r.2.2.2.2))
    let c' := updatePtr (updatePtr (updatePtr c' xp xm 16) yp ym 16) cp cm 16
    issue (nextPc c') [rLine 0 px.off, rLine 1 py.off] 1 [(rLine 0 px.off, 4), (rLine 1 py.off, 4)]

/-- An uncorrectable word read is counted and recorded (R401). -/
def dataUe (s : State) (n : Nat) (space off : Nat) : State :=
  if (getCore s n).sync.any (fun x => x.1 == 3) then coreUe s n (BitVec.ofNat 8 space) off else s

/-- What the ECC of an instruction's data did beside its value: an uncorrectable error is recorded where it is not an
exception already pending, and a corrected one is counted and recorded (R401). -/
def withEcc (before after : State) (n : Nat) (read : WordRead) (space off : Nat) : State :=
  match read with
  | .clean => after
  | .bad => if (getCore before n).sync.isNone then dataUe after n space off else after
  | .corrected w =>
    if (getCore before n).st = .running ∧ (getCore before n).sync = none then
      corrected (modCore after n (fun c => { c with eccCe := satInc c.eccCe })) 5 n w
    else after

def execPcrBfly (core : Fin 48) (xp yp cp : BitVec 4) (xm ym cm : BitVec 3) (conj half : Bool) (read : WordRead) (s : State) :
    Host.Outcome State Fault Refusal :=
  let a := place18 (getCore s core.val) xp xm
  .next (withEcc s (instr s core.val (bfly xp yp cp xm ym cm conj half (decide (read = .bad)))) core.val read a.space a.off)

/-- A read of C by an instruction that is not fetched from the loop cache (R360, R374). -/
def readsC (c : PCore) (a : Place) : Bool := a.space == 2 && !fromCache c

/-- An arithmetic operand: its value, what it reads, and whether its access is refused or fails. -/
def operand (c : PCore) : PcrOperand → BitVec 128 × List Nat × Bool × Bool
  | .reg n => (getD c n, [rD (physD c n)], true, true)
  | .mem p m => (readVec c (place18 c p m), [rLine (place18 c p m).space (place18 c p m).off],
      !modeBad m && !readsC c (place18 c p m), placeOk (place18 c p m) 16 false)
def operandPtr (c : PCore) : PcrOperand → PCore
  | .reg _ => c
  | .mem p m => updatePtr c p m 16

def isMem : PcrOperand → Bool
  | .mem _ _ => true
  | .reg _ => false

/-- The place of the first memory operand. -/
def operandPlace (c : PCore) : PcrOperand → PcrOperand → Place
  | .mem p m, _ => place18 c p m
  | .reg _, .mem p m => place18 c p m
  | .reg _, .reg _ => { space := 0, off := 0 }

/-- Two memory operands are the dual-memory mode: the first from X, the second from Y (R371). -/
def dualOk (c : PCore) : PcrOperand → PcrOperand → Bool
  | .mem p m, .mem q k => (place18 c p m).space == 0 && (place18 c q k).space == 1
  | _, _ => true

/-- The complex multiply-accumulate (R369). -/
def mac (acc : BitVec 2) (x y : PcrOperand) (conj ue : Bool) (fr : W64) (c : PCore) : PCore :=
  let ox := operand c x
  let oy := operand c y
  if !(ox.2.2.1 && oy.2.2.1) then issue (illegal c) [] 1 []
  else if !(ox.2.2.2 && oy.2.2.2 && dualOk c x y) then issue (raise c 1 fr) [] 1 []
  else if ue && (isMem x || isMem y) then issue (raise c 3 fr) [] 1 []
  else issue (nextPc (operandPtr (operandPtr (macAll c acc.toNat ox.1 oy.1 conj) x) y)) (ox.2.1 ++ oy.2.1) 1
    [(rAcc acc.toNat, 3)]

def execPcrMac (core : Fin 48) (acc : BitVec 2) (x y : PcrOperand) (conj : Bool) (read : WordRead) (s : State) :
    Host.Outcome State Fault Refusal :=
  let a := operandPlace (getCore s core.val) x y
  .next (withEcc s (instr s core.val (mac acc x y conj (decide (read = .bad)))) core.val read a.space a.off)

/-- The narrowing move (R369): a count above 47 is a reserved value. -/
def narrowMove (d : BitVec 6) (acc : BitVec 2) (shift : BitVec 6) (_ : W64) (c : PCore) : PCore :=
  if 47 < shift.toNat then issue (illegal c) [] 1 []
  else
    let r (k : Nat) := narrow16 (accAt c acc.toNat k) shift.toNat
    let c' := saturated (setD c d (ofComps (fun k => (r k).1))) ((List.range 8).any (fun k => (r k).2))
    issue (nextPc c') [rAcc acc.toNat] 1 [(rD (physD c d), 2)]

def execPcrNarrow (core : Fin 48) (d : BitVec 6) (acc : BitVec 2) (shift : BitVec 6) (s : State) :
    Host.Outcome State Fault Refusal :=
  .next (instr s core.val (narrowMove d acc shift))

/-- A load (R362): a scalar goes to lane 0 and leaves the other lanes. -/
def load (d : BitVec 6) (p : BitVec 4) (mode : BitVec 3) (vector ue : Bool) (fr : W64) (c : PCore) : PCore :=
  let z := if vector then 16 else 4
  let a := place18 c p mode
  if modeBad mode || readsC c a then issue (illegal c) [] 1 []
  else if !placeOk a z false then issue (raise c 1 fr) [] 1 []
  else if ue then issue (raise c 3 fr) [] 1 []
  else
    let v := if vector then readVec c a
      else ((getD c d) >>> 32 <<< 32) ||| BitVec.ofNat 128 (leNat (readBytes c a 4))
    issue (nextPc (updatePtr (setD c d v) p mode z)) [rLine a.space a.off] 1 [(rD (physD c d), 2)]

def execPcrLoad (core : Fin 48) (d : BitVec 6) (ptr : BitVec 4) (mode : BitVec 3) (vector : Bool) (read : WordRead) (s : State) :
    Host.Outcome State Fault Refusal :=
  let a := place18 (getCore s core.val) ptr mode
  .next (withEcc s (instr s core.val (load d ptr mode vector (decide (read = .bad)))) core.val read a.space a.off)

/-- A store, written after two cycles; C refuses writes (R362). -/
def store (d : BitVec 6) (p : BitVec 4) (mode : BitVec 3) (vector : Bool) (fr : W64) (c : PCore) : PCore :=
  let z := if vector then 16 else 4
  let a := place18 c p mode
  if modeBad mode then issue (illegal c) [] 1 []
  else if !placeOk a z true then issue (raise c 1 fr) [] 1 []
  else issue (nextPc (updatePtr (writeBytes c a ((bytesOf (getD c d)).take z)) p mode z)) [rD (physD c d)] 1
    [(rLine a.space a.off, 2)]

def execPcrStore (core : Fin 48) (d : BitVec 6) (ptr : BitVec 4) (mode : BitVec 3) (vector : Bool) (s : State) :
    Host.Outcome State Fault Refusal :=
  .next (instr s core.val (store d ptr mode vector))

/-- A 64-bit value written to a destination: whole into a data register's low half, else its low bits. -/
def writeReg (c : PCore) (dst : PcrReg) (v : W64) (wide : Bool) : PCore :=
  let w : W32 := v.setWidth 32
  match dst with
  | .d n => setD c n (if wide then ((getD c n) >>> 64 <<< 64) ||| v.setWidth 128 else ((getD c n) >>> 32 <<< 32) ||| w.setWidth 128)
  | .p n => { c with p := tset 0 c.p n.toNat (w.setWidth 18) }
  | .pm n => { c with pm := tset 0 c.pm n.toNat w }
  | .sr => { c with ovf := bit w 0 && c.ovf, ieFlag := bit w 1, ovfTrap := bit w 2 }
  | .sp => { c with sp := w.setWidth 17 }
  | .slLo => { c with slLo := w.setWidth 17 }
  | .slHi => { c with slHi := w.setWidth 17 }
  | .ie => { c with ie := w &&& 0xFFFFFFF0 }
  | .edOvf _ => c

/-- What a scalar instruction's source gives: the value, and the core with a consumed event. -/
def scalarSource (s : State) (n : Nat) (c : PCore) (fr : W64) : PcrSource → W64 × PCore
  | .value v _ => (v.setWidth 64, c)
  | .record v => consumeEv c v.toNat fr
  | .edOvf d => (if (getDet (getCluster s (n / 8)) d.val).ovf then 1 else 0, c)

def isWide : PcrSource → Bool
  | .value .. => false
  | _ => true
def sourceReads (c : PCore) : PcrSource → List Nat
  | .value _ rs => rs.map (fun r => rD (physD c r))
  | _ => []

/-- A scalar, pointer or modifier instruction (R372): one cycle, and its result is there at once. -/
def scalar (s : State) (n : Nat) (dst : PcrReg) (src : PcrSource) (fr : W64) (c : PCore) : PCore :=
  let (v, c') := scalarSource s n c fr src
  issue (nextPc (writeReg c' dst v (isWide src))) (sourceReads c src) 1 []

/-- The detector's flag is cleared by writing 1 (R382). -/
def clearDetOvf (s : State) (n : Nat) (dst : PcrReg) (src : PcrSource) : State :=
  match dst, src with
  | .edOvf d, .value v _ => if bit v 0 then modDet s (n / 8) d.val (fun x => { x with ovf := false }) else s
  | _, _ => s

def execPcrScalar (core : Fin 48) (dst : PcrReg) (src : PcrSource) (s : State) : Host.Outcome State Fault Refusal :=
  let c := getCore s core.val
  let s' := instr s core.val (scalar s core.val dst src)
  if decide (c.st = .running) && c.sync.isNone && decide (formatAt c c.pc.toNat < 6) then .next (clearDetOvf s' core.val dst src)
  else .next s'

/-- A branch, call or return: a taken one pops every level whose body does not hold the target (R375). -/
def branch (kind : BranchKind) (taken : Bool) (target : BitVec 15) (_ : W64) (c : PCore) : PCore :=
  if taken || decide (kind = .ret) then
    issue { c with pc := target, loops := c.loops.filter (fun l => decide (l.start ≤ target.toNat) && decide (target.toNat < l.stop)) } [] 3 []
  else issue (nextPc c) [] 1 []

def execPcrBranch (core : Fin 48) (kind : BranchKind) (taken : Bool) (target : BitVec 15) (s : State) :
    Host.Outcome State Fault Refusal :=
  .next (instr s core.val (branch kind taken target))

/-- How many instructions a body holds, up to 17. -/
def bodyCount (c : PCore) (stop : Nat) : Nat → Nat → Nat
  | 0, _ => 0
  | f + 1, off => if stop ≤ off then 0 else 1 + bodyCount c stop f (off + 4 * wordsAt c off)

/-- REP (R375 to R378). -/
def rep (count : W16) (bodyEnd : BitVec 15) (cached rot : Bool) (_ : W64) (c : PCore) : PCore :=
  let start := c.pc.toNat + 4 * wordsAt c c.pc.toNat
  let body := bodyCount c bodyEnd.toNat 17 start
  if fromCache c || (cached && decide (16 < body)) || (rot && c.loops.any (·.rot)) then issue (illegal c) [] 1 []
  else if 4 ≤ c.loops.length then issue (raise c 2 (c.pc.setWidth 64)) [] 1 []
  else
    let l : Level := { start := start, stop := bodyEnd.toNat, left := if count = 0 then 65536 else count.toNat, cached := cached, rot := rot }
    issue { c with pc := BitVec.ofNat 15 start, loops := l :: c.loops, rrb := if rot then 0 else c.rrb } []
      (if cached then 1 + body else 1) []

def execPcrRep (core : Fin 48) (count : W16) (bodyEnd : BitVec 15) (cached rot : Bool) (s : State) :
    Host.Outcome State Fault Refusal :=
  .next (instr s core.val (rep count bodyEnd cached rot))

/-- BREAK leaves the innermost level (R375). -/
def breakLoop (_ : W64) (c : PCore) : PCore := issue (nextPc { c with loops := c.loops.drop 1 }) [] 1 []
def execPcrBreak (core : Fin 48) (s : State) : Host.Outcome State Fault Refusal := .next (instr s core.val breakLoop)

/-- WAIT (R379): the core sleeps until a masked event is pending; the task that ran has ended. -/
def wait (mask : W32) (_ : W64) (c : PCore) : PCore :=
  let c := issue (nextPc { c with task := none }) [] 1 []
  if evOf c &&& mask != 0 then c else { c with st := .waiting, waitMask := mask }
def execPcrWait (core : Fin 48) (mask : W32) (s : State) : Host.Outcome State Fault Refusal := .next (instr s core.val (wait mask))

/-- TIME (R373): the core's copy of ATM_ABS_TICK, which lags by at most 4 ticks. -/
def time (s : State) (d : BitVec 6) (lag : Fin 5) (_ : W64) (c : PCore) : PCore :=
  issue (nextPc (writeReg c (.d d) (s.air.abs - BitVec.ofNat 64 (min lag.val s.air.abs.toNat)) true)) [] 2 [(rD (physD c d), 2)]
def execPcrTime (core : Fin 48) (d : BitVec 6) (lag : Fin 5) (s : State) : Host.Outcome State Fault Refusal :=
  .next (instr s core.val (time s d lag))

/-- TARM (R381): arms, replaces or disarms a timer; a target already reached expires at once, LATE. An event already set
waits for its consumption (R379). -/
def tarm (s : State) (n : Nat) (tm : Fin 4) (arm : Bool) (target : W64) (period : BitVec 24) (carry : Bool) (_ : W64) (c : PCore) : PCore :=
  let t : Timer := if arm then { armed := true, target := target, period := period, carry := carry, gen := (getCluster s (n / 8)).gen } else {}
  let t := { t with fired := (tget {} c.timers tm.val).fired }
  let t := if arm && decide (target.toNat ≤ s.air.abs.toNat) then
      { t with armed := decide (period ≠ 0), target := target + period.setWidth 64, fired := some true } else t
  issue (nextPc { c with timers := tset {} c.timers tm.val t }) [] 2 []
def execPcrTarm (core : Fin 48) (tm : Fin 4) (arm : Bool) (target : W64) (period : BitVec 24) (carry : Bool) (s : State) :
    Host.Outcome State Fault Refusal :=
  .next (instr s core.val (tarm s core.val tm arm target period carry))

/-! ### Posted transfers (R383, R415, R416, Table 12-7) -/

def postFmt (w : W32) : Nat := (bits w 1 2).toNat
def postShift (w : W32) : Nat := (bits w 3 4).toNat
def postCarrier (w : W32) : Nat := (bits w 8 3).toNat
def postOffset (w : W32) : Nat := (bits w 11 16).toNat * 64

/-- Bytes on the window's side. -/
def postWindowLen (w : W32) (len : Nat) : Nat :=
  let half := (postFmt w = 1 ∧ bit w 0 = false) ∨ (postFmt w = 2 ∧ bit w 0 = true)
  if postFmt w = 0 then len else if half then len / 2 else len * 2

/-- Whether a post is allowed: its length, its format, its core side, a carrier that the core serves, and a target within
the 2 MiB reserve window. -/
def postOk (s : State) (n : Nat) (a : Place) (len w : W32) : Bool :=
  decide (len.toNat % 16 = 0) && decide (16 ≤ len.toNat) && decide (len.toNat ≤ 32768) && postFmt w != 3 && decide (postShift w ≤ 8)
    && placeOk a 16 false && a.space != 2 && decide (a.off + len.toNat ≤ 65536) && (streamOf s (postCarrier w) n).isSome
    && decide (postOffset w + postWindowLen w len.toNat ≤ 2 * 2 ^ 20)

def xpost (s : State) (n : Nat) (p : BitVec 4) (mode : BitVec 3) (len w : W32) (fr : W64) (c : PCore) : PCore :=
  let a := place18 c p mode
  if modeBad mode then issue (illegal c) [] 2 []
  else if !postOk s n a len w then issue (raise c 1 fr) [] 2 []
  else
    let post : Post := { space := a.space, offset := a.off, len := len, word := w, start := c.task.or c.lastStart }
    issue (nextPc (updatePtr { c with posts := c.posts ++ [post] } p mode 16)) [] 2 []

def execPcrXpost (core : Fin 48) (ptr : BitVec 4) (mode : BitVec 3) (len : W32) (word : W32) (s : State) :
    Host.Outcome State Fault Refusal :=
  .next (instr s core.val (xpost s core.val ptr mode len word))

/-- Pack and unpack of little-endian 16-bit components and 8-bit codes, each with whether it saturated (R416). -/
def packBytes (sh : Nat) : List Byte → List Byte × Bool
  | a :: b :: rest =>
    let x := fdiv ((b ++ a : BitVec 16).toInt) (2 ^ sh)
    let y := if x > 127 then (127, true) else if x < -127 then (-127, true) else (x, false)
    let r := packBytes sh rest
    (BitVec.ofInt 8 y.1 :: r.1, y.2 || r.2)
  | _ => ([], false)
def unpackBytes (sh : Nat) : List Byte → List Byte × Bool
  | a :: rest =>
    let y := clampInt 16 (a.toInt * 2 ^ sh)
    let r := unpackBytes sh rest
    (bytesOf (BitVec.ofInt 16 y.1) ++ r.1, y.2 || r.2)
  | [] => ([], false)
def convert (w : W32) (bs : List Byte) : List Byte × Bool :=
  if postFmt w = 1 then packBytes (postShift w) bs else if postFmt w = 2 then unpackBytes (postShift w) bs else (bs, false)

/-- XPOST_DONE: the oldest posted transfer moves its bytes and sets XDONE; LAST completes the stream's input of its slot
(R383, R415, R418). One that meets an uncorrectable word of the reserve bank moves nothing and fails its slot (R240,
notes/assumptions/62.md). -/
def postDone (s : State) (n : Nat) (x : Post) : State :=
  let w := x.word
  let arr := (getCarrier s (postCarrier w)).array
  let c := getCore s n
  let wl := postWindowLen w x.len.toNat
  let src := if bit w 0 then mread (getArr s arr).rsv (postOffset w) wl else readBytes c { space := x.space, off := x.offset } x.len.toNat
  let bad := if bit w 0 then (getArr s arr).ueRsv.find? (fun k => decide (postOffset w / 8 ≤ k) && decide (k < (postOffset w + wl) / 8)) else none
  let done (c : PCore) : PCore := { c with posts := c.posts.drop 1, xdone := c.xdone ++ [(bits w 27 5).setWidth 32] }
  match bad with
  | some k =>
    let s := bankUe (modCore s n done) arr ((pcrOwner s n).getD 0) k
    match x.start with
    | some rec => failSlot s (recCarrier rec) (recFrame rec) (recSlot rec) 0x16
    | none => s
  | none =>
  let r := convert w src
  let s := modCore s n (fun c =>
    let c := if bit w 0 then writeBytes c { space := x.space, off := x.offset } r.1 else c
    done (saturated c r.2))
  let s := if bit w 0 || !arrUsable s arr then s
    else modArr s arr (fun a =>
      let first := ceilDiv (postOffset w) 8
      let last := (postOffset w + wl) / 8
      { a with rsv := mwrite a.rsv (postOffset w) r.1, ueRsv := a.ueRsv.filter (fun k => !(decide (first ≤ k) && decide (k < last))) })
  if bit w 7 && !bit w 0 then
    match x.start, streamOf s (postCarrier w) n with
    | some rec, some st => modCarrier s (postCarrier w) (fun ca => { ca with slots := ca.slots.map (fun sl =>
        if isSlot (recFrame rec) (recSlot rec) sl then { sl with lasts := setBit sl.lasts st true } else sl) })
    | _, _ => s
  else s

def execXpostDone (core : Fin 48) (s : State) : Host.Outcome State Fault Refusal :=
  match (getCore s core.val).posts with
  | x :: _ => .next (postDone s core.val x)
  | [] => .next s

/-! ### RTE, SWI, lane arithmetic -/

/-- RTE (R385): PC, sr and sp from the frame. A stored sp of 0 stands for 65,536 (Table 11-10). -/
def rte (_ : W64) (c : PCore) : PCore :=
  let f := mread c.x c.sp.toNat 32
  let sr := u32 f 4
  let sp := (u16 f 0x18).toNat
  { c with
    pc := BitVec.ofNat 15 (u32 f 0).toNat, ovf := bit sr 0, ieFlag := bit sr 1, ovfTrap := bit sr 2, srGen := bits sr 8 8,
    sp := if sp = 0 then 65536 else BitVec.ofNat 17 sp, busy := c.busy + 4 }
def execPcrRte (core : Fin 48) (s : State) : Host.Outcome State Fault Refusal := .next (instr s core.val rte)

/-- SWI sets the event of vector 17 with its operand (R384). -/
def swiOp (operand : W32) (_ : W64) (c : PCore) : PCore := issue (nextPc { c with swi := some operand }) [] 1 []
def execPcrSwi (core : Fin 48) (operand : W32) (s : State) : Host.Outcome State Fault Refusal := .next (instr s core.val (swiOp operand))

/-- A lane-wise add, subtract or move of eight 16-bit components; sums saturate (R369). -/
def laneArith (op : LaneOp) (d a b : BitVec 6) (_ : W64) (c : PCore) : PCore :=
  let x := getD c a
  let y := getD c b
  let r (k : Nat) : BitVec 16 × Bool := match op with
    | .add => narrow16 (comp x k + comp y k) 0
    | .sub => narrow16 (comp x k - comp y k) 0
    | .move => (bits x (16 * k) 16, false)
  let c' := saturated (setD c d (ofComps (fun k => (r k).1))) ((List.range 8).any (fun k => (r k).2))
  let reads := match op with
    | .move => [rD (physD c a)]
    | _ => [rD (physD c a), rD (physD c b)]
  issue (nextPc c') reads 1 []
def execPcrLaneArith (core : Fin 48) (op : LaneOp) (d a b : BitVec 6) (s : State) : Host.Outcome State Fault Refusal :=
  .next (instr s core.val (laneArith op d a b))

end Sys2Proof.Machine
end

