-- ==== Sys2Proof/Machine/Receive.lean ====
section
/-!
DEFINITION. The receive chain up to decoding (ch. 12): gain, detection and ingest (R408 to R413, R558), symbol starts
and slot plans (R414, R423, R424), invocations (R418 to R422) and decoding (R425 to R430, R442). A SAMP command brings
the converter's samples; the device applies the gain in force (R408), so that a slot's record knows what it saturated.
-/
namespace Sys2Proof.Machine

/-! ### Converter links of a carrier -/

def getIod (s : State) (d : Nat) : Iod := tget {} s.iods d
def modIod (s : State) (d : Nat) (f : Iod → Iod) : State := { s with iods := tmod {} s.iods d f }

/-- Streams per lane (Table 15-8). -/
def splOf (io : Iod) : Nat := match (bits io.cfg 0 2).toNat with | 0 => 1 | 1 => 2 | _ => 4

/-- The I/O die of a carrier's streams, and its lanes. -/
def carrierIod (cfg : CarrierCfg) : Nat := cfg.laneBase / 16
def carrierLanes (s : State) (cfg : CarrierCfg) : List Nat :=
  (List.range cfg.streams).map (fun a => (cfg.laneBase % 16 + a) / splOf (getIod s (carrierIod cfg)))

/-- Whether the converter link of a carrier is up (R91, R442, R557, Table 2-11). -/
def linkOk (s : State) (cfg : CarrierCfg) : Bool :=
  let d := carrierIod cfg
  let io := getIod s d
  (carrierLanes s cfg).all (fun l => io.lanes.getLsbD l) && bit io.cfg 2 && io.aligned && !io.misalign && !io.ratioBad
    && (decide ((getGirth s d).state = .active) || decide ((getGirth s d).state = .retrain))

def modSlots (s : State) (c : Nat) (p : SlotRec → Bool) (f : SlotRec → SlotRec) : State :=
  modCarrier s c (fun ca => { ca with slots := ca.slots.map (fun sl => if p sl then f sl else sl) })

/-- The slots under way of the carriers of an I/O die whose link is down fail with LINK (R442). -/
def linkLost (s : State) (d : Nat) : State :=
  (List.range 8).foldl (fun s c => match carrierCfg s c with
    | some cfg =>
      if carrierIod cfg = d ∧ linkOk s cfg = false then modSlots (touchNow s c) c (fun _ => true) (addCause 0x13) else s
    | none => s) s

/-! ### Gain (R408) -/

def gainMantissa : List Nat := [16384, 17355, 18383, 19472, 20626, 21848, 23143, 24514, 25968, 27506, 29135, 30862]

/-- A component scaled by a gain code, with whether it saturated. -/
def gained (g : Byte) (x : Int) : Int × Bool :=
  clampInt 16 (fdiv (x * gainMantissa.getD (g.toNat % 12) 0 * 2 ^ (g.toNat / 12)) 16384)

/-- The components of a complex element: the real part lies in the low half. -/
def reOf (w : W32) : Int := (bits w 0 16).toInt
def imOf (w : W32) : Int := (bits w 16 16).toInt
def complexOf (re im : Int) : W32 := (BitVec.ofInt 16 im).setWidth 32 <<< 16 ||| (BitVec.ofInt 16 re).setWidth 32

/-- A gained sample and how many of its components saturated. -/
def gainSample (g : Byte) (w : W32) : W32 × Nat :=
  let a := gained g (reOf w)
  let b := gained g (imOf w)
  (complexOf a.1 b.1, (if a.2 then 1 else 0) + (if b.2 then 1 else 0))

/-! ### Where a sample lies (R412) -/

/-- ATM_ABS_TICK of a stamp of the current frame or of the frame before. -/
def stampAbs (s : State) (stamp : W64) : Nat :=
  frameStart s.air (if bits stamp 24 10 = s.air.frame then 1 else 0) + (bits stamp 3 21).toNat

/-- The frame, slot and slot sample of the sample at tick `t`; none in the added ticks of a lengthened frame. -/
def sampleAt (s : State) (c : Nat) (cfg : CarrierCfg) (t : Nat) : Option (Nat × Nat × Nat) :=
  let x : Int := (t : Int) - cfg.rxOffset
  let l := slotLen s c
  let rel := if x < frameStart s.air 1 then 0 else if x < frameStart s.air 2 then 1 else 2
  let off := (x - frameStart s.air rel).toNat
  if l = 0 ∨ x < frameStart s.air 0 ∨ 1228800 ≤ off then none else some (rel, off / l, off % l)

/-- The symbol and the useful sample that a slot sample is; none in a cyclic prefix or beyond the last symbol. -/
def usefulAt (cfg : CarrierCfg) (k : Nat) : Option (Nat × Nat) :=
  let n := 2 ^ cfg.fftLog2
  let sym := if k < cfg.cp0 + n then 0 else 1 + (k - cfg.cp0 - n) / (cfg.cp + n)
  let pos := if k < cfg.cp0 + n then k else (k - cfg.cp0 - n) % (cfg.cp + n)
  let cp := if sym = 0 then cfg.cp0 else cfg.cp
  if cfg.symbols ≤ sym ∨ pos < cp then none else some (sym, pos - cp)

/-- A useful sample written to X or Y of its stream's core. -/
def ingest (cfg : CarrierCfg) (p : PCore) (sym pos : Nat) (w : W32) : PCore :=
  let n := 2 ^ cfg.fftLog2
  let b := sym % cfg.nbuf
  if pos < n / 2 then { p with x := mwrite p.x (cfg.xBuf + b * 2 * n + 4 * pos) (bytesOf w) }
  else { p with y := mwrite p.y (cfg.yBuf + b * 2 * n + 4 * (pos - n / 2)) (bytesOf w) }

/-! ### Detection (R411) -/

def complexNorm (re im : Int) : Nat := (re * re + im * im).toNat

/-- Whether the condition holds for windows of 64 gained samples, one of each stream. -/
def detects (cfg : CarrierCfg) (ws : List (List W32)) : Bool :=
  let corr := ws.foldl (fun acc w => (w.zip cfg.preamble).foldl (fun (acc : Int × Int) x =>
    (acc.1 + reOf x.1 * reOf x.2 + imOf x.1 * imOf x.2, acc.2 + imOf x.1 * reOf x.2 - reOf x.1 * imOf x.2)) acc) ((0, 0) : Int × Int)
  let energy (w : List W32) : Nat := w.foldl (fun acc x => acc + complexNorm (reOf x) (imOf x)) 0
  decide (cfg.detThresh * (ws.foldl (fun acc w => acc + energy w) 0) * energy cfg.preamble
    ≤ 256 * complexNorm corr.1 corr.2)

def getStream (ca : Carrier) (a : Nat) : StreamRec := tget {} ca.streams a
def modStream (ca : Carrier) (a : Nat) (f : StreamRec → StreamRec) : Carrier :=
  { ca with streams := tmod {} ca.streams a f }

/-- A slot of the tick `t` marked. -/
def markAt (s : State) (c : Nat) (cfg : CarrierCfg) (t : Nat) (f : SlotRec → SlotRec) : State :=
  match sampleAt s c cfg t with
  | some (rel, slot, _) => modSlots (touchSlot s c rel slot) c (fun sl => sl.start == slotStart s c rel slot) f
  | none => s

/-- The detector at one tick: the first tick at which the condition holds is the detection tick; in BURST mode it
freezes the gain for FREEZE_LEN ticks, one freeze at a time. -/
def detectTick (s : State) (c : Nat) (cfg : CarrierCfg) (t : Nat) (holds : Bool) : State :=
  let ca := getCarrier s c
  let s := modCarrier s c (fun ca => { ca with detHeld := holds })
  if holds && !ca.detHeld then
    let s := markAt s c cfg t (fun sl => { sl with agcFrozen := true })
    if cfg.agcMode = 2 ∧ ca.frozen = false then
      modCarrier s c (fun ca => { ca with frozen := true, freezeEnd := some (t + cfg.freezeLen) })
    else s
  else s

/-- The 16 ticks from `t0` evaluated, once every stream's samples of them are in and 64 samples stand behind each. -/
def detect (s : State) (c : Nat) (cfg : CarrierCfg) (t0 : Nat) : State :=
  let ca := getCarrier s c
  let recs := (List.range cfg.streams).map (getStream ca)
  if cfg.detThresh = 0 ∨ cfg.preamble.isEmpty = true ∨ recs.any (fun r => r.seen != some (t0 + 15)) = true then s
  else (List.range 16).foldl (fun s k =>
    if recs.all (fun r => decide (79 ≤ r.hist.length + k)) then
      detectTick s c cfg (t0 + k) (detects cfg (recs.map (fun r => (r.hist.drop (r.hist.length + k - 79)).take 64)))
    else s) s

/-! ### SAMP (R412, R558) -/

/-- A gained sample's square joins the window of its slot (R409). -/
def addLevel (r : StreamRec) (start : Option Nat) (norm : Nat) : StreamRec :=
  match start with
  | none => r
  | some st =>
    if r.slotOf == some st then { r with power := r.power + norm, count := r.count + 1 }
    else { r with lastPower := r.power, lastCount := r.count, lastOf := r.slotOf, power := norm, count := 1, slotOf := some st }

/-- A gained sample's square joins the window of 64 samples; a full one begins anew (R409). -/
def addWindow (r : StreamRec) (norm : Nat) : StreamRec :=
  if 64 ≤ r.count then { r with power := norm, count := 1 } else { r with power := r.power + norm, count := r.count + 1 }

/-- The first tick of the slot of a sample. -/
def sampleSlot (s : State) (c : Nat) (cfg : CarrierCfg) (t : Nat) : Option Nat :=
  (sampleAt s c cfg t).map (fun x => slotStart s c x.1 x.2.1)

/-- The samples of stream `a` of a carrier, from tick `t0`. -/
def sampOp (s : State) (c : Nat) (cfg : CarrierCfg) (a t0 : Nat) (samples : List W32) : State :=
  let g := (getStream (getCarrier s c) a).gain
  let xs := samples.map (gainSample g)
  let sat := xs.foldl (fun n x => n + x.2) 0
  let s := modCarrier s c (fun ca => { modStream ca a (fun r =>
    let r := xs.zipIdx.foldl (fun r x =>
      let norm := complexNorm (reOf x.1.1) (imOf x.1.1)
      if cfg.agcMode = 2 then addWindow r norm else addLevel r (sampleSlot s c cfg (t0 + x.2)) norm) r
    { r with
      hist := let h := (if r.seen == some (t0 - 1) then r.hist else []) ++ xs.map (·.1)
              h.drop (h.length - 79),
      seen := some (t0 + 15) }) with satCnt := satAdd ca.satCnt sat })
  let s := xs.zipIdx.foldl (fun s x =>
    let s := markAt s c cfg (t0 + x.2) (fun sl => { sl with
      gainMin := if g < sl.gainMin then g else sl.gainMin, gainMax := if sl.gainMax < g then g else sl.gainMax,
      gainSat := sl.gainSat || x.1.2 != 0 })
    match (sampleAt s c cfg (t0 + x.2)).bind (fun p => usefulAt cfg p.2.2), (carrierCores s c)[a]? with
    | some (sym, pos), some n => modCore s n (fun p => ingest cfg p sym pos x.1.1)
    | _, _ => s) s
  detect s c cfg t0

/-- SAMP (R558): 16 samples of a converter stream. Before acceptance samples are discarded (R443); while the carrier's
link is down they are lost, and the slot fails with LINK (R442). -/
def execSamp (iod : Fin 2) (stream : Fin 16) (stamp : W64) (samples : List W32) (s : State) : Host.Outcome State Fault Refusal :=
  let x := 16 * iod.val + stream.val
  if msgBlocked s iod.val 0x33 then .next s else
  let s := timLate (takeMsg s iod.val 0x33) iod.val stamp 16
  if !s.accepted then .next s
  else match s.hns.carriers.find? (fun r => decide (r.laneBase ≤ x) && decide (x < r.laneBase + r.streams)) with
    | none => .next s
    | some cfg =>
      if linkOk s cfg then .next (sampOp s cfg.carrier cfg (x - cfg.laneBase) (stampAbs s stamp) samples)
      else .next (markAt s cfg.carrier cfg (stampAbs s stamp) (addCause 0x13))

/-! ### AGC (R409, R410) -/

/-- Whether the level of a window lies at most `q` quarter-dB above 32,767², or at least: P = 40·log₁₀(S / (n·32,767²)). -/
def levelAtMost (sum n : Nat) (q : Int) : Bool :=
  let full := n * 32767 ^ 2
  if 0 ≤ q then decide (sum ^ 40 ≤ full ^ 40 * 10 ^ q.toNat) else decide (sum ^ 40 * 10 ^ (-q).toNat ≤ full ^ 40)
def levelAtLeast (sum n : Nat) (q : Int) : Bool :=
  let full := n * 32767 ^ 2
  if 0 ≤ q then decide (full ^ 40 * 10 ^ q.toNat ≤ sum ^ 40) else decide (full ^ 40 ≤ sum ^ 40 * 10 ^ (-q).toNat)

/-- The change of a gain code: (−T − P) ÷ 2 steps toward zero, at most 12, where |P + T| exceeds 4 quarter-dB. -/
def agcSteps (sum n target : Nat) : Int :=
  let up := (List.range 13).countP (fun (k : Nat) => k != 0 && levelAtMost sum n (-(target : Int) - 2 * (k : Int)))
  let down := (List.range 13).countP (fun (k : Nat) => k != 0 && levelAtLeast sum n (-(target : Int) + 2 * (k : Int)))
  if !levelAtLeast sum n (-(target : Int) - 4) then up
  else if !levelAtMost sum n (-(target : Int) + 4) then -(down : Int)
  else 0

def moveGain (g : Byte) (d : Int) : Byte := BitVec.ofNat 8 (min 95 ((g.toNat : Int) + d).toNat)

/-- The first tick of the current slot, and of the one before it. -/
def slotNow (s : State) (c : Nat) : Nat := slotStart s c 1 (s.air.tick.toNat / slotLen s c)
def slotBefore (s : State) (c : Nat) : Nat :=
  let k := s.air.tick.toNat / slotLen s c
  if k = 0 then slotStart s c 0 (1228800 / slotLen s c - 1) else slotStart s c 1 (k - 1)

/-- The gain code after a window's level (R410); an empty window moves nothing. -/
def levelGain (cfg : CarrierCfg) (g : Byte) (power count : Nat) : Byte :=
  if count = 0 then g else moveGain g (agcSteps power count cfg.agcTarget)

/-- The end of a gain window (R409): a slot boundary in MANUAL and SLOT mode, 64 samples in BURST. -/
def agcStream (cfg : CarrierCfg) (ca : Carrier) (before : Nat) (a : Nat) : StreamRec :=
  let r := getStream ca a
  if cfg.agcMode = 0 then { r with gain := bits ca.gainSet (8 * a) 8 }
  else if cfg.agcMode = 1 then
    if r.slotOf = some before then { r with gain := levelGain cfg r.gain r.power r.count }
    else if r.lastOf = some before then { r with gain := levelGain cfg r.gain r.lastPower r.lastCount }
    else r
  else { r with gain := if ca.frozen then r.gain else levelGain cfg r.gain r.power r.count, power := 0, count := 0 }

def execAgcWindow (carrier : Fin 8) (s : State) : Host.Outcome State Fault Refusal :=
  let c := carrier.val
  match carrierCfg s c with
  | none => .next s
  | some cfg =>
    let now := slotNow s c
    let before := slotBefore s c
    let ended := if cfg.agcMode = 2 then (List.range cfg.streams).all (fun a => decide (64 ≤ (getStream (getCarrier s c) a).count))
      else (getCarrier s c).gainAt != some now
    if ended then
      .next (modCarrier s c (fun ca => (List.range cfg.streams).foldl (fun x a => modStream x a (fun _ => agcStream cfg ca before a))
        { ca with gainAt := if cfg.agcMode = 2 then ca.gainAt else some now }))
    else .next s

/-- FREEZE_LEN ticks after a detection the gain adapts again (R409). -/
def execAgcFreezeEnd (carrier : Fin 8) (s : State) : Host.Outcome State Fault Refusal :=
  match (getCarrier s carrier.val).freezeEnd with
  | some t =>
    if t ≤ s.air.abs.toNat then
      .next (modCarrier s carrier.val (fun ca => { ca with
        frozen := false, freezeEnd := none,
        streams := ca.streams.map (fun x => (x.1, { x.2 with power := 0, count := 0 })) }))
    else .next s
  | none => .next s

/-! ### Slot plans (R423, R424) -/

def codeOf (s : State) (c code : Nat) : Option CodeCfg :=
  s.hns.ldpc.find? (fun r => r.code == code && decide (carrierStall s c = some r.stall))

/-- The ring entry of a slot (R423, R431). -/
def ringEntry (s : State) (c : Nat) (cfg : CarrierCfg) (sl : SlotRec) : Nat :=
  (sl.frame.toNat * (1228800 / max 1 (slotLen s c)) + sl.slot) % 2 ^ cfg.ringLog2

def planUser (p : List Byte) (u : Nat) : PlanUser :=
  let b := slice p (0x20 + 32 * u) 32
  { id := u16 b 0, firstSc := (u16 b 2).toNat, numSc := (u16 b 4).toNat, symMask := u16 b 6,
    layerFirst := (u8 b 8).toNat, layers := (u8 b 9).toNat, bits := (u8 b 0xA).toNat, code := (u8 b 0xB).toNat,
    blocks := (u16 b 0xC).toNat, pay := (u32 b 0x10).toNat }

def planCrcOk (p : List Byte) : Bool :=
  u32 p 0x1C == crc32c (slice p 0 0x1C ++ slice p 0x20 (32 * min (u8 p 3).toNat 31))

/-- Payload bytes of a block. -/
def blockBytes (c : CodeCfg) : Nat := ceilDiv (payloadBits c) 8

/-- Positions of a user (R425). -/
def userPositions (u : PlanUser) : Nat := popcount u.symMask * u.numSc * u.layers * u.bits

/-- Whether a user entry keeps the field rules of Table 12-8. -/
def planUserOk (s : State) (c : Nat) (cfg : CarrierCfg) (p : List Byte) (n : Nat) : Bool :=
  let u := planUser p n
  let b := slice p (0x20 + 32 * n) 32
  decide (u.firstSc + u.numSc ≤ cfg.usedSc) && (u.symMask >>> cfg.symbols == 0)
    && decide (u.layerFirst < cfg.layersMax) && decide (1 ≤ u.layers) && decide (u.layers + u.layerFirst ≤ cfg.layersMax)
    && (u.bits == 2 || u.bits == 4 || u.bits == 6 || u.bits == 8) && cfg.bitsMask.getLsbD (u.bits / 2 - 1)
    && decide (u.blocks ≤ 256) && decide (u.pay % 64 = 0) && allZero (slice b 0xE 2) && allZero (slice b 0x14 12)
    && (match codeOf s c u.code with
        | some cd => decide (u.blocks * (cd.nb * cd.z) ≤ userPositions u)
            && decide (u.pay + u.blocks * blockBytes cd ≤ cfg.paySlot)
        | none => false)

/-- The payload of a user as offsets in the slice. -/
def paySpan (s : State) (c : Nat) (u : PlanUser) : Nat × Nat :=
  (u.pay, u.pay + u.blocks * (((codeOf s c u.code).map blockBytes).getD 0))
def spansMeet (x y : Nat × Nat) : Bool := decide (x.1 < x.2) && decide (y.1 < y.2) && decide (x.1 < y.2) && decide (y.1 < x.2)
def spansClash : List (Nat × Nat) → Bool
  | [] => false
  | x :: xs => xs.any (spansMeet x) || spansClash xs

/-- Whether a plan is good (R424). -/
def planOk (s : State) (c : Nat) (cfg : CarrierCfg) (p : List Byte) : Bool :=
  let n := (u8 p 3).toNat
  let us := (List.range n).map (planUser p)
  decide (n ≤ cfg.usersMax) && allZero (slice p 8 20) && (List.range n).all (planUserOk s c cfg p)
    && decide (us.foldl (fun k u => k + u.blocks) 0 ≤ 256) && !spansClash (us.map (paySpan s c))

/-- The blocks of a slot dealt round-robin to the enabled engines (R426). -/
def dealBlocks (engines : List Nat) (us : List PlanUser) : List BlockRec :=
  ((us.zipIdx.flatMap (fun u => (List.range u.1.blocks).map (fun b => (u.2, b)))).zipIdx).map (fun x =>
    { user := x.1.1, block := x.1.2, engine := engines.getD (x.2 % max 1 engines.length) 24 })

def enabledDecs (s : State) (cfg : CarrierCfg) : List Nat := (setBits cfg.decMask).filter (fun n => s.fuses.decEn.getLsbD n)

/-- The slot's plan read and judged (R423, R424). A plan that cannot be read is missing. -/
def readPlan (s : State) (c i : Nat) (cfg : CarrierCfg) (sl : SlotRec) : SlotRec :=
  let x := cfg.planOff + 1024 * ringEntry s c cfg sl
  let p := regionRead s i x 1024
  if regionBad s i x 1024 || !planCrcOk p || bits (u16 p 0) 0 10 != sl.frame || (u8 p 2).toNat != sl.slot
      || bits (u16 p 0) 10 6 != 0 then { sl with planStatus := 2 }
  else
    let n := (u8 p 3).toNat
    let sl := { sl with planId := u32 p 4 }
    if planOk s c cfg p then
      let us := (List.range n).map (planUser p)
      { sl with planStatus := 0, users := us, blocks := dealBlocks (enabledDecs s cfg) us }
    else { sl with planStatus := 3 }

/-! ### Symbol starts (R414, R443) -/

/-- Whether a slot belongs to the time a carrier is shed (R348, R349). -/
def slotShed (ca : Carrier) (start : Nat) : Bool :=
  decide (ca.shedFrom ≤ start) && (ca.shed || decide (start < ca.liveFrom))

/-- A core of a carrier that holds its program (R391). -/
def coreHolds (c : PCore) : Bool :=
  decide (c.st = .running) || decide (c.st = .waiting) || decide (c.st = .halted)

/-- Whether the carrier's programs are loaded (R443); the reserve banks are loaded with acceptance. -/
def carrierLoaded (s : State) (c : Nat) : Bool :=
  (carrierCores s c).all (fun n => coreHolds (getCore s n) || decide ((getCore s n).st = .out))

/-- The conditions that hold over every slot of a device (R346): no FORCED_REFRESH, no stack above 85 °C, no throttle. -/
def calm (s : State) : Bool :=
  !s.air.forcedRefresh && !s.power.throttle && (List.range 4).all (fun k => decide ((getStack s k).temp.toNat ≤ 85))

/-- What every slot's happenings find at a carrier: a link down, a stall stopped (Table 12-11). -/
def slotCauses (s : State) (i : Nat) (cfg : CarrierCfg) : List Nat :=
  let st := (getStall s i).state
  (if linkOk s cfg then [] else [0x13]) ++ (if decide (st = .faulted) || decide (st = .resetting) then [0x14] else [])

/-- What a slot that is not of a shed carrier finds lost: a core while it receives, its array once an invocation is due on it
(R84, Table 2-11). -/
def lostCauses (s : State) (c : Nat) (cfg : CarrierCfg) (sl : SlotRec) : List Nat :=
  (if (slotKind s c cfg sl).isSome && !arrUsable s (getCarrier s c).array then [0x11] else [])
    ++ (if !postsIn cfg sl && (carrierCores s c).any (fun n => decide ((getCore s n).st = .out)) then [0x11] else [])

def judgeSlot (s : State) (c i : Nat) (cfg : CarrierCfg) (start : Nat) : State :=
  let resetting := decide ((getStall s i).state = .resetting)
  modSlots s c (fun sl => sl.start == start) (fun sl =>
    let cs := slotCauses s i cfg ++ (if !sl.begun && slotShed (getCarrier s c) start then [] else lostCauses s c cfg sl)
    let sl := cs.foldl (fun sl x => addCause x sl) sl
    { sl with reset := sl.reset || resetting, noGuarantee := sl.noGuarantee || !calm s })

/-- The slot that a gait action names: of the frame in which its entry acts, or of the one before (R49). -/
def actPlace (s : State) (c : Nat) (g : GaitAct) (slot : Nat) (prev : Bool) : SlotPlace :=
  let back := if prev then 1 else 0
  { start := (if prev then g.prevAbs else g.frameAbs) + slot * slotLen s c, slot := slot,
    frames := g.frames + 2 ^ 34 - back, alt := g.alt - BitVec.ofNat 10 back }

/-- A slot begins at its symbol-0 SYM_START: its plan is read (R423), and its start record's GEN kept. -/
def beginSlot (s : State) (c i : Nat) (cfg : CarrierCfg) (p : SlotPlace) (gen : Byte) : State :=
  let s := touchPlace s c p
  modSlots s c (fun sl => sl.start == p.start && !sl.begun) (fun sl => { readPlan s c i cfg sl with begun := true, gen := gen })

/-- The first slot to report is that of the first symbol-0 SYM_START after the loads (R443). -/
def markFirst (s : State) (c start : Nat) : State :=
  if (getCarrier s c).first.isNone && carrierLoaded s c then
    modCarrier s c (fun ca => { ca with first := some start, slots := ca.slots.filter (fun sl => decide (start ≤ sl.start)) })
  else s

/-- The start record of a symbol (Table 11-7), of its entry's dispatch. -/
def startRecord (c : Nat) (g : GaitAct) (slot : BitVec 6) (prev : Bool) (symbol : BitVec 4) : W64 :=
  place 64 0 (BitVec.ofNat 3 c) ||| place 64 3 slot ||| place 64 9 symbol ||| flag 64 13 prev ||| place 64 14 g.frame
    ||| place 64 24 g.gen ||| place 64 32 g.tick ||| flag 64 63 true

/-- Start records for a carrier's cores: a core without a program loses its task. -/
def pushStarts (s : State) (c : Nat) (r : W64) (at_ : Nat) : State :=
  (carrierCores s c).foldl (fun s n =>
    if coreHolds (getCore s n) then pushStart s n r at_
    else if (getCore s n).st = .out then s else failRec s r) s

/-! ### Taps of schooling (R454 to R456) -/

def modTap (s : State) (r : Nat) (f : TapArm → TapArm) : State := modNet s r (fun x => { x with tap := x.tap.map f })

/-- The schooled networks of a carrier with an armed tap that a condition picks. -/
def armedTaps (s : State) (c : Nat) (p : TapArm → Bool) : List Nat :=
  (List.range 32).filter (fun r => (s.hns.schoolNets[r]?).any (fun cfg => (netOf s cfg.net).any (fun n => n.carrier == c))
    && (getNet s r).tap.any p)

/-- The tap slot of an armed tap is the first slot whose symbol-0 SYM_START comes after it; a shed carrier's is lost. -/
def tapStart (s : State) (c start : Nat) (shed : Bool) : State :=
  (armedTaps s c (fun t => t.slot.isNone)).foldl (fun s r =>
    if shed then modNet s r (fun x => { x with tap := none, tapLost := satInc x.tapLost })
    else modTap s r (fun t => { t with slot := some start })) s

/-- A tap slot is reported. -/
def tapReported (s : State) (c start status : Nat) (us : List PlanUser) : State :=
  (armedTaps s c (fun t => t.slot == some start)).foldl (fun s r =>
    modTap s r (fun t => { t with status := some status, users := us })) s

/-- Whether a slot is a tap slot of an OUTCOME network. -/
def outcomeTap (s : State) (c start : Nat) : Bool :=
  (armedTaps s c (fun t => t.slot == some start)).any (fun r => (s.hns.schoolNets[r]?).any (fun cfg => cfg.signal == 2))

/-- The decisions of a block that passed are kept, up to 16 KiB an engine (R455). -/
def keepBits (s : State) (e : Nat) (k : Kept) : State :=
  modDec s e (fun d =>
    if d.kept.foldl (fun n x => n + ceilDiv x.bits.length 8) (ceilDiv k.bits.length 8) ≤ 16384 then { d with kept := d.kept ++ [k] }
    else d)

/-- SYM_START (R414): NOP for a slot of a shed carrier (R348), and while the stall is stopped (R155). -/
def execSymStart (carrier : Fin 8) (slot : BitVec 6) (prevFrame : Bool) (symbol : BitVec 4) (s : State) :
    Host.Outcome State Fault Refusal :=
  let c := carrier.val
  match takeAct s 1 (BitVec.ofNat 8 c) (fun a => bits a 0 6 == slot && bit a 6 == prevFrame && bits a 7 4 == symbol),
      carrierCfg s c, carrierStall s c with
  | some (g, s), some cfg, some i =>
    let p := actPlace s c g slot.toNat prevFrame
    let s := if symbol = 0 then markFirst s c p.start else s
    let ca := getCarrier s c
    let begun := ca.slots.any (fun sl => sl.start == p.start && sl.begun)
    if !begun && slotShed ca p.start then .next (if symbol = 0 then tapStart s c p.start true else s)
    else
      let s := if symbol = 0 ∧ ca.first.any (fun f => decide (f ≤ p.start)) = true then tapStart (beginSlot s c i cfg p g.gen) c p.start false else s
      let s := judgeSlot s c i cfg p.start
      if stallRuns s i then .next (pushStarts s c (startRecord c g slot prevFrame symbol) g.abs) else .next s
  | some (_, s), _, _ => .next s
  | none, _, _ => .next s

/-- An array's next quiet point may begin: an invocation has run, or a report is complete (R456). -/
def unquiet (s : State) (n : Nat) : State := { s with school := { s.school with quiet := s.school.quiet.filter (fun x => x != n) } }

/-! ### Invocations (R418, R420, R422) -/

/-- The eligible invocations on an array, as (end of slot, carrier, kind) in the order of R420. -/
def eligibleInvs (s : State) (n : Nat) : List (Nat × Nat × Nat × SlotRec × NetKind) :=
  (List.range 8).flatMap (fun c => match carrierCfg s c with
    | some cfg =>
      if (getCarrier s c).array = n then (getCarrier s c).slots.filterMap (fun sl =>
        (slotKind s c cfg sl).map (fun k => (sl.start + slotLen s c, c, kindCode k, sl, k)))
      else []
    | none => [])

def invBefore (x y : Nat × Nat × Nat × SlotRec × NetKind) : Bool :=
  decide (x.1 < y.1) || (decide (x.1 = y.1) && (decide (x.2.1 < y.2.1) || (decide (x.2.1 = y.2.1) && decide (x.2.2.1 < y.2.2.1))))

/-- The invocation dispatched next on an array (R420). -/
def nextInv (s : State) (n : Nat) : Option (Nat × Nat × Nat × SlotRec × NetKind) :=
  (eligibleInvs s n).foldl (fun b x => match b with
    | none => some x
    | some y => if invBefore x y then some x else some y) none

/-- INVOCATION_START: the run of the network's task list under event set 15 (R303, R418); CE fixes the slot's weight-set
generation (R422). -/
def execInvocationStart (carrier : Fin 8) (kind : NetKind) (s : State) : Host.Outcome State Fault Refusal :=
  let c := carrier.val
  let n := (getCarrier s c).array
  match nextInv s n, netFor s c kind, carrierStall s c with
  | some (_, c', _, sl, k), some net, some i =>
    if c' = c ∧ k = kind ∧ arrUsable s n = true ∧ stallRuns s i = true ∧ tget none s.school.running n = none
        ∧ (List.range 8).all (fun x => (getCarrier s x).inv.isNone || (getCarrier s x).array != n) = true then
      let w : Byte := ((schoolRec s net.net).map (fun r => (getNet s r).wset)).getD 0
      let s := evMod (unquiet s n) n 15 (fun _ => 0)
      let s := if kind = .ce then modSlots s c (fun x => x.start == sl.start) (fun x => { x with wset := some w }) else s
      .next (modCarrier s c (fun ca => { ca with inv := some {
        kind := kind, net := net.net, frame := sl.frame, slot := sl.slot, array := n,
        run := { queue := 0, seq := 0, array := some n, evSet := 15, idleSince := s.now } } }))
    else .next s
  | _, _, _ => .next s

/-! ### The LLR and EQ fields (R425, R433) -/

/-- The data points of a user, as (symbol, subcarrier, layer) in the order of R425. -/
def userPoints (u : PlanUser) : List (Nat × Nat × Nat) :=
  (setBits u.symMask).flatMap (fun sy => (List.range u.numSc).flatMap (fun k => (List.range u.layers).map (fun l =>
    (sy, u.firstSc + k, u.layerFirst + l))))

/-- The place of a data point in a field. -/
def pointIndex (cfg : CarrierCfg) (p : Nat × Nat × Nat) : Nat := (p.1 * cfg.usedSc + p.2.1) * cfg.layersMax + p.2.2

/-- Reserve-bank bytes of the LLRs of block `b` of a user. -/
def blockPlaces (cfg : CarrierCfg) (u : PlanUser) (n b : Nat) : List Nat :=
  (((userPoints u).flatMap (fun p => (List.range u.bits).map (fun j => cfg.llrOff * 64 + pointIndex cfg p * 8 + j))).drop (b * n)).take n

def rsvByte (a : ArrayU) (x : Nat) : Int := (tget 0 a.rsv x).toInt

/-- The levels of an axis (R433). -/
def axisD (bits : Nat) : Nat := match bits with | 2 => 46341 | 4 => 20724 | 6 => 10112 | _ => 5026
def axisLevels (scale bits : Nat) : List Int :=
  let m := 2 ^ (bits / 2)
  (List.range m).map (fun (i : Nat) => fdiv (2 * scale * (2 * (i : Int) - m + 1) * axisD bits + 65536) 131072)

/-- The nearest level, ties to the lower. -/
def nearest : List Int → Int → Int
  | [], _ => 0
  | [a], _ => a
  | a :: as, y => let r := nearest as y; if (y - a).natAbs ≤ (y - r).natAbs then a else r

/-- The number of n from 1 to 1,023 with 10^n ≤ (r ÷ e)^160: ⌊160·log₁₀(r ÷ e)⌋ clamped to 0 to 1,023. -/
def snrOf (r e : Nat) : Nat :=
  if e = 0 then 1023
  else
    let rr := r ^ 160
    let ee := e ^ 160
    (List.range 1023).countP (fun n => decide (10 ^ (n + 1) * ee ≤ rr))

/-- EVM and SNR of a user, and the field words that could not be read (R433, R442). With every reference level 0 the
rule states no EVM: `fr` stands for it. -/
def userMeas (cfg : CarrierCfg) (a : ArrayU) (u : PlanUser) (fr : Nat) : Nat × Nat × List Nat :=
  let levels := axisLevels cfg.eqScale u.bits
  let places := ((userPoints u).filter (fun p => p.2.1 != 0)).map (fun p => cfg.eqOff * 64 + pointIndex cfg p * 2)
  let isBad (x : Nat) : Bool := a.ueRsv.contains (x / 8)
  let good := places.filter (fun x => !isBad x)
  let er := good.foldl (fun (acc : Nat × Nat) x => [x, x + 1].foldl (fun (acc : Nat × Nat) y =>
    let v := rsvByte a y
    let l := nearest levels v
    (acc.1 + ((v - l) * (v - l)).toNat, acc.2 + (l * l).toNat)) acc) (0, 0)
  let bad := ((places.filter isBad).map (· / 8)).eraseDups
  if good.isEmpty then (0, 0, bad)
  else (if er.2 = 0 then fr % 65536 else min 65535 (sqrtBits 64 (100000000 * er.1 / er.2) 0), snrOf er.2 er.1, bad)

/-- The report unit's measurement of a slot's users; an unreadable field word counts on the array (R240, R442). -/
def measure (s : State) (c i : Nat) (cfg : CarrierCfg) (sl : SlotRec) : State :=
  let n := (getCarrier s c).array
  let fr := (draw s).toNat
  let ms := sl.users.map (fun u => userMeas cfg (getArr s n) u fr)
  let s := (ms.flatMap (·.2.2)).eraseDups.foldl (fun s w => bankUe s n i w) s
  modSlots (drew s) c (fun x => x.start == sl.start) (fun x => { x with meas := some (ms.map (fun m => (m.1, m.2.1))) })

/-! ### Decoding (R426 to R430) -/

/-- The engine that decodes a block dealt to engine `e`; whether it is in service (R426, Table 2-11). -/
def decFor (ca : Carrier) (b : BlockRec) : Nat := swapped ca 3 b.engine
def decServes (s : State) (e : Nat) : Bool := decide (e < 24) && s.fuses.decEn.getLsbD e && !(getDec s e).out
def blockLost (s : State) (ca : Carrier) (b : BlockRec) : Bool := !b.ended && !decServes s (decFor ca b)

/-- Whether every block of a slot has ended, or has no engine. -/
def blocksEnded (s : State) (ca : Carrier) (sl : SlotRec) : Bool := sl.blocks.all (fun b => b.ended || blockLost s ca b)

/-- The slots of a carrier whose blocks are eligible. -/
def decodable (s : State) (c : Nat) : List SlotRec :=
  match carrierCfg s c with
  | some cfg => (getCarrier s c).slots.filter (fun sl => slotRuns sl && llrEnded s c cfg sl)
  | none => []

/-- The block an engine decodes: of the slot that ended first, in dealing order. -/
def engineBlock (s : State) (e : Nat) : Option (Nat × SlotRec × BlockRec) :=
  ((List.range 8).flatMap (fun c => (decodable s c).filterMap (fun sl =>
    (sl.blocks.find? (fun b => !b.ended && decFor (getCarrier s c) b == e)).map (fun b => (c, sl, b))))).foldl (fun best x =>
      match best with
      | none => some x
      | some y => if x.2.1.start + slotLen s x.1 < y.2.1.start + slotLen s y.1 then some x else some y) none

/-- A decoder engine leaves service (R442, Table 2-11). -/
def decOut (s : State) (e : Nat) : State :=
  let s := modDec s e (fun d => { d with out := true })
  let s := outOfService s 6 e 0
  (losers s 3 e).foldl (fun s i => loseUnit s i 3 e) s

/-- An uncorrectable error in an engine's buffers: the second within 10 s takes it out of service (R442). -/
def decUe (s : State) (e c user block : Nat) : State :=
  let again := within10s (getDec s e).lastUe s.now
  let s := modDec s e (fun d => { d with ueSeen := true, ue := satInc d.ue, lastUe := some s.now })
  let s := report s { code := 0x1009, kind := 6, unit := BitVec.ofNat 8 e,
                      data := [BitVec.ofNat 8 c, BitVec.ofNat 8 user, BitVec.ofNat 8 block] }
  if again then decOut s e else s

/-- A block's record after its end. -/
def setBlock (s : State) (c : Nat) (sl : SlotRec) (b : BlockRec) (f : BlockRec → BlockRec) : State :=
  modSlots s c (fun x => x.start == sl.start) (fun x => { x with
    blocks := x.blocks.map (fun y => if y.user = b.user ∧ y.block = b.block then f y else y) })

/-- The report unit's figures are taken once the slot's last block has ended (R433). -/
def settleSlot (s : State) (c i : Nat) (cfg : CarrierCfg) (start : Nat) : State :=
  match (getCarrier s c).slots.find? (fun sl => sl.start == start) with
  | some sl => if sl.meas.isNone && blocksEnded s (getCarrier s c) sl then measure s c i cfg sl else s
  | none => s

/-- An engine ends a block: its payload is written (R428, R431), and its record kept. -/
def blockEnd (s : State) (e c i : Nat) (cfg : CarrierCfg) (sl : SlotRec) (b : BlockRec) (ue : Bool) : State :=
  let n := (getCarrier s c).array
  match sl.users[b.user]?, (sl.users[b.user]?).bind (fun u => codeOf s c u.code) with
  | some u, some code =>
    let places := blockPlaces cfg u (code.nb * code.z) b.block
    match places.find? (fun x => (getArr s n).ueRsv.contains (x / 8)) with
    | some x => bankUe (setBlock s c sl b (fun y => { y with ended := true })) n i (x / 8)
    | none =>
      let r := decodeBlock code (places.map (rsvByte (getArr s n)))
      let s := modDec s e (fun d => { d with blocks := d.blocks + 1, iters := d.iters + BitVec.ofNat 64 r.iters })
      if ue then decUe (setBlock s c sl b (fun y => { y with ended := true })) e c b.user b.block
      else
        let s := if r.passed && outcomeTap s c sl.start then
            keepBits s e { carrier := c, start := sl.start, user := b.user, block := b.block, bits := r.bits } else s
        let s := regionWrite s i (cfg.payOff + cfg.paySlot * ringEntry s c cfg sl + u.pay + b.block * blockBytes code) r.payload false
        setBlock s c sl b (fun y => { y with ended := true, decoded := true, ok := r.passed, iters := r.iters, fixed := r.fixed })
  | _, _ => s

/-- DECODE_BLOCK_END with what the reads of the engine's buffers met: a corrected word is counted (R439). -/
def execDecodeBlockEnd (dec : Fin 24) (read : WordRead) (s : State) : Host.Outcome State Fault Refusal :=
  let e := dec.val
  match engineBlock s e with
  | none => .next s
  | some (c, sl, b) =>
    match carrierCfg s c, carrierStall s c with
    | some cfg, some i =>
      if decServes s e && stallRuns s i && arrUsable s (getCarrier s c).array then
        let s := match read with
          | .corrected _ => modDec s e (fun d => { d with ce := satInc d.ce })
          | _ => s
        .next (settleSlot (blockEnd s e c i cfg sl b (decide (read = .bad))) c i cfg sl.start)
      else .next s
    | _, _ => .next s

end Sys2Proof.Machine
end

