-- ==== Sys2Proof/Machine/Tether.lean ====
section
/-!
DEFINITION. Tether ports (ch. 14): training, link quality and the residual canceller (R487 to R496), decoding (R497 to
R499), frames sent and received (R500 to R516), and time transfer (R518 to R522).
-/
namespace Sys2Proof.Machine

/-! ### The channels' send side (R507, R509 to R511, R514) -/

def chanOn (c : Chan) : Bool := bit c.ctl 0
def txLog2 (c : Chan) : Nat := (bits c.ctl 1 5).toNat
def rxLog2 (c : Chan) : Nat := (bits c.ctl 6 5).toNat
/-- Credits of a frame (R511). -/
def creditsOf (len : W16) : Nat := ceilDiv len.toNat 64
/-- UNA: the oldest unacknowledged SEQ (R507). -/
def unaOf (c : Chan) : W16 := ((c.unacked.find? (fun f => !f.refused)).map (·.seq)).getD c.txSeq
/-- DATA frames of a port that are unacknowledged (R507). -/
def outstanding (t : Tth) : Nat :=
  (List.range 8).foldl (fun n c => n + (getChan t c).unacked.countP (fun f => !f.refused)) 0

/-- A descriptor completed: STATUS and SEQ into the ring, then TTH_TX_DONE, and the source where IRQ is set (R514, R517). A
refused descriptor has no SEQ: what its field takes is free. -/
def completeTx (s : State) (p c : Nat) (f : TxFrame) (status : W16) : State :=
  let ch := getChan (getTth s p) c
  let i := tethStall s p
  let seq : W16 := if f.refused then (draw s).setWidth 16 else f.seq
  let s := if f.refused then drew s else s
  let at_ := ch.txBase + BitVec.ofNat 64 (32 * (f.slot.toNat % 2 ^ txLog2 ch) + 0x10)
  let s := toHost s i (.mwr i at_ (bytesOf status ++ bytesOf seq))
  let s := modTth s p (fun t => modChan t c (fun x => { x with txDone := x.txDone + 1 }))
  if bit f.flags 2 then raiseSource s (BitVec.ofNat 16 (0x0D00 + 8 * p + c)) else s

/-- The leading descriptors that `p` ends, completed in ring order. -/
def completeWhile (s : State) (p c : Nat) (ends : TxFrame → Option W16) : Nat → State
  | 0 => s
  | n + 1 => match (getChan (getTth s p) c).unacked with
    | [] => s
    | f :: fs => match ends f with
      | none => s
      | some st =>
        let s := modTth s p (fun t => modChan t c (fun x => { x with unacked := fs }))
        completeWhile (completeTx s p c f st) p c ends n

/-- Descriptors completed up to an acknowledged SEQ (R509); refused ones complete once those before them have. -/
def ackUpTo (s : State) (p c : Nat) (ack : Option W16) : State :=
  completeWhile s p c (fun f =>
    if f.refused then some 3
    else match ack with
      | some a => if (a - f.seq).toNat < 32768 then some 1 else none
      | none => none) (getChan (getTth s p) c).unacked.length

/-- The retransmission timer restarts while frames are unacknowledged and the port is UP (R510). -/
def restartTimer (s : State) (p c : Nat) : State :=
  modTth s p (fun t => modChan t c (fun x => { x with
    timerAt := if t.state = .up ∧ x.unacked.any (fun f => !f.refused) then some s.now else none }))

/-- Ticks of a channel's current timeout, in hundredths (R510). -/
def timeout100 (t : Tth) (c : Chan) : Nat := (bits t.rto 0 14).toNat * c.backoff * 12288

/-- An acknowledgement block (R509, R510). -/
def ackBlock (s : State) (p c : Nat) (a : W16) (sack : W64) : State :=
  let old := unaOf (getChan (getTth s p) c)
  let s := ackUpTo s p c (some a)
  let s := if unaOf (getChan (getTth s p) c) = old then s
    else restartTimer (modTth s p (fun t => modChan t c (fun x => { x with backoff := 1 }))) p c
  modTth s p (fun t =>
    let ch := getChan t c
    let late (f : TxFrame) : Bool :=
      !f.refused && decide (timeout100 t ch < (s.now - f.sent) * 400)
        && (List.range 64).any (fun k => bit sack k && (let d := (a + 2 + BitVec.ofNat 16 k - f.seq).toNat
          decide (0 < d) && decide (d < 32768)))
    modChan t c (fun x => { x with unacked := x.unacked.map (fun f => if late f then { f with due := true } else f) }))

/-! ### Sessions (R504 to R506) -/

/-- Every channel at the start of a session, its unacknowledged descriptors completed with PEER_RESET (R505). -/
def resetChans (s : State) (p : Nat) : State :=
  let s := (List.range 8).foldl (fun s c =>
    let s := completeWhile s p c (fun f => some (if f.refused then 3 else 2)) (getChan (getTth s p) c).unacked.length
    modTth s p (fun t => modChan t c (fun x => { x with
      txSeq := 0, rxSeq := 0, used := 0, limit := 0, timerAt := none, backoff := 1, urgent := false, ackDirty := true, credDirty := true }))) s
  modTth s p (fun t => { t with store := [] })

/-- The session ends (R505). -/
def endSession (s : State) (p : Nat) (epoch : W32) : State :=
  let s := modTth (resetChans s p) p (fun t => { t with peerEpoch := some epoch, sessionReset := true })
  report s { code := 0x4002, kind := 9, unit := BitVec.ofNat 8 p, data := bytesOf epoch }

/-- The LINK_EPOCH of a valid frame: learnt where none is known, else a change ends the session. -/
def seeEpoch (s : State) (p : Nat) (epoch : W32) : State :=
  match (getTth s p).peerEpoch with
  | none => modTth s p (fun t => { t with peerEpoch := some epoch })
  | some e => if e = epoch then s else endSession s p epoch

/-- What every valid frame's header does (R496, R502, R505, R509, R511). -/
def rxHeader (s : State) (p : Nat) (f : TFrame) : State :=
  let s := seeEpoch s p f.epoch
  let s := modTth s p (fun t => { t with lqPeer := f.lqPeer, decoded := t.decoded.erase f })
  let s := if f.ackValid then ackBlock s p f.ackChan.toNat f.ackSeq f.sack else s
  if f.credValid then
    modTth s p (fun t => modChan t f.credChan.toNat (fun x => { x with limit := serialMax x.limit f.credLimit }))
  else s

/-! ### Training (R480, R490 to R495) -/

/-- A port on a present, linked I/O die that is neither disabled nor silenced. -/
def portAlive (s : State) (p : Nat) : Bool :=
  (tethRec s p).isSome && decide ((getTth s p).state ≠ .disabled) && decide ((getTth s p).state ≠ .noDie)

/-- Whether a block has last been sent 8 frames ago or more: it is sent again, so that every enabled channel's blocks go out
within 16 frames (R502, notes/assumptions/43.md). -/
def staleBlock (t : Tth) (c : Chan) (sentAt : Nat) : Bool := chanOn c && decide (sentAt + 8 ≤ t.slots)

/-- The acknowledgement and credit blocks of the next frame (R502): the channel with an urgent acknowledgement, else the
one changed and least recently sent, else the next enabled one. -/
def pickChan (t : Tth) (urgent dirty : Chan → Bool) (sentAt : Chan → Nat) (rot : Nat) : Option Nat :=
  let cs := List.range 8
  match cs.find? (fun c => urgent (getChan t c)) with
  | some c => some c
  | none =>
    let ds := cs.filter (fun c => dirty (getChan t c))
    match ds.find? (fun c => ds.all (fun k => decide (sentAt (getChan t c) ≤ sentAt (getChan t k)))) with
    | some c => some c
    | none => (cs.map (fun k => (rot + k) % 8)).find? (fun c => chanOn (getChan t c))

/-- The SACK field of a channel: bit i for SEQ ACK_SEQ + 2 + i held in the store. -/
def sackOf (t : Tth) (c : Nat) : W64 :=
  BitVec.ofNat 64 ((List.range 64).foldl (fun m k =>
    if t.store.any (fun x => x.1 == c && x.2.seq == (getChan t c).rxSeq + 1 + BitVec.ofNat 16 k) then m + 2 ^ k else m) 0)

/-- A ROLE 0x3 port whose HELLOs have not yet decided who is master. -/
def undecided (s : State) (p : Nat) : Bool :=
  decide ((getTth s p).phase = .wake) && (tethRec s p).any (fun r => r.role == 3)

/-- The reload values of the port's two directions (R486); both ends of an undecided pair send as masters do
(notes/assumptions/61.md). -/
def txSeed (s : State) (p : Nat) : BitVec 23 := if undecided s p || (getTth s p).master then scrMaster else scrSlave
def rxSeed (s : State) (p : Nat) : BitVec 23 := if undecided s p || !(getTth s p).master then scrMaster else scrSlave

/-- Bits per symbol on the line now: PAM-2 in WAKE, the MODE's else (R483, R492). -/
def lineBits (t : Tth) : Nat := if t.phase = .wake then 1 else modeBits t.mode

/-- Levels go out: the echo cancellers work on the newest 15,032 of them (R488). -/
def sendLevels (t : Tth) (levels : List Int) : Tth := { t with txLevels := (levels.reverse ++ t.txLevels).take 15032 }

/-- A frame goes out as a codeword (R484, R486). -/
def sendCodeword (s : State) (p : Nat) (f : TFrame) : State :=
  let t := getTth s p
  let x := lineLevels (lineBits t) t.txScr (codewordOf f)
  emit (modTth s p (fun t => { sendLevels t x.1 with txScr := x.2 })) (.frame p f x.1)

/-- A marker goes out, and the scrambler is reloaded (R485, R486). -/
def sendMarker (s : State) (p : Nat) (mkt : Bool) : State :=
  let seed := txSeed s p
  let ls := markerLevels (lineBits (getTth s p)) mkt
  emit (modTth s p (fun t => { sendLevels t ls with txScr := seed })) (.marker p mkt ls)

/-- A frame sent with its acknowledgement and credit blocks. -/
def sendFrame (s : State) (p : Nat) (f : TFrame) : State :=
  let t := getTth s p
  let ac := pickChan t (·.urgent) (fun c => c.ackDirty && chanOn c || staleBlock t c c.ackSent) (·.ackSent) t.ackRot
  let up := (List.range 8).find? (fun c => (getChan t c).credUp && chanOn (getChan t c))
  let cc := up <|> pickChan t (fun c => c.urgent && chanOn c) (fun c => c.credDirty && chanOn c || staleBlock t c c.credSent) (·.credSent) t.credRot
  let f := { f with lqPeer := t.lq, epoch := t.epoch }
  let f := match ac with
    | some c => { f with ackChan := BitVec.ofNat 3 c, ackValid := true, urgent := (getChan t c).urgent,
                         ackSeq := (getChan t c).rxSeq - 1, sack := sackOf t c }
    | none => f
  let f := match cc with
    | some c => { f with credChan := BitVec.ofNat 3 c, credValid := true,
                         credLimit := (getChan t c).rxHead + BitVec.ofNat 32 (2 ^ rxLog2 (getChan t c)) }
    | none => f
  let s := modTth s p (fun t =>
    let t := match ac with
      | some c => modChan { t with ackRot := (c + 1) % 8 } c (fun x => { x with urgent := false, ackDirty := false, ackSent := t.slots })
      | none => t
    match cc with
    | some c => modChan { t with credRot := (c + 1) % 8 } c (fun x => { x with credDirty := false, credUp := false, credSent := t.slots })
    | none => t)
  sendCodeword (modTth s p (fun t => { t with txFrames := t.txFrames + 1 })) p f

/-- A frame of a type with nothing in it. -/
def emptyFrame (type : Byte) (payload : List Byte) : TFrame :=
  { type := type, chan := 0, first := false, last := false, retx := false, seq := 0, len := 0, ackChan := 0, urgent := false,
    ackValid := false, credChan := 0, credValid := false, ackSeq := 0, sack := 0, credLimit := 0, lqPeer := 0, epoch := 0,
    payload := padTo 1024 payload }

/-- The HELLO body (R503): KIND, class, MODE, TIME_DIR, TRAIN_ID. -/
def helloBody (s : State) (p : Nat) : List Byte :=
  let t := getTth s p
  [1, 1, t.mode.setWidth 8, ((tethRec s p).map (·.timeDir)).getD 0] ++ bytesOf t.trainId

/-- A wake burst with its HELLO codeword, scrambled as the first of a block (R492, notes/assumptions/61.md). -/
def wakeBurst (s : State) (p : Nat) : State :=
  let seed := txSeed s p
  let s := emit (modTth s p (fun t => { t with bursting := true, helloSent := true, txScr := seed })) (.burst p)
  sendFrame s p (emptyFrame 3 (helloBody s p))

/-- Retransmission timers stop while a port is not UP (R495). -/
def stopTimers (cs : Table Chan) : Table Chan := tmods {} cs (List.range 8) (fun _ x => { x with timerAt := none })

/-- A training begins: GAIN and RC_OFF of the registers come into force, timers stop, and a Tether candidate's link is
down (R490, R491, R495, R33). -/
def beginTraining (s : State) (p : Nat) (full : Bool) : State :=
  let s := if (getTth s p).state = .up then tetherCandDown s p else s
  modTth s p (fun t => { t with
    full := full, gain := if t.gainSet = 0 then t.gain else t.gainSet, rcOffNow := t.rcOff, rcFrozen := false,
    readySent := false, readyPeer := false, lostMarkers := 0, failRun := 0, rcDrops := 0, lowLq := 0, badLq := 0, goodLq := 0,
    violations := [], syncAt := none, mktSent := none, replyDue := false, cwIdx := 0, rxCw := 0, ctrl := [],
    chans := stopTimers t.chans })

/-- Full training from WAKE, with a new TRAIN_ID (R492). -/
def startFull (s : State) (p : Nat) : State :=
  let s := beginTraining s p true
  let s := modTth (drew s) p (fun t => { t with
    state := .wake, phase := .wake, trainId := (draw s).setWidth 32, hello := none, helloSent := false, rcW := [], rcSnap := [],
    rcSnapLq := 0x8000 })
  wakeBurst s p

/-- A fast retrain (R493): the end that starts it sends the preamble. -/
def startFast (s : State) (p : Nat) (own : Bool) : State :=
  let s := beginTraining s p false
  let s := if own then emit s (.trainSeq p) else s
  modTth s p (fun t => { t with state := .retrain, phase := .preamble, retrain := satInc t.retrain })

/-- A training failed (R494, R527). -/
def failTraining (s : State) (p : Nat) (code : Byte) : State :=
  let t := getTth s p
  let s := modTth s p (fun t => { t with trainErr := code, trainFail := satInc t.trainFail })
  let s := report s { code := 0x0009, kind := 9, unit := BitVec.ofNat 8 p, data := [code, if t.full then 1 else 2] ++ bytesOf t.lq,
                      src := some (BitVec.ofNat 16 (0x0F00 + p)) }
  if t.full then
    if 2 ≤ t.fullFails then
      let s := modTth s p (fun t => { t with state := .failed, phase := .none, fullFails := t.fullFails + 1, failedAt := s.now })
      report s { code := 0x4001, kind := 9, unit := BitVec.ofNat 8 p, data := [code] }
    else startFull (modTth s p (fun t => { t with fullFails := t.fullFails + 1 })) p
  else if 2 ≤ t.fastFails then startFull (modTth s p (fun t => { t with fastFails := 0 })) p
  else startFast (modTth s p (fun t => { t with fastFails := t.fastFails + 1 })) p true

/-- Training ends in UP: every enabled channel's credit block is due, and timers run (R494, R510, R513). -/
def enterUp (s : State) (p : Nat) : State :=
  let t := getTth s p
  let s := pushEvent s { code := 0x0009, kind := 9, unit := BitVec.ofNat 8 p, data := [0, if t.full then 1 else 2] ++ bytesOf t.lq }
  let s := modTth s p (fun t => { t with state := .up, phase := .none, fastFails := 0, fullFails := 0 })
  (List.range 8).foldl (fun s c =>
    restartTimer (modTth s p (fun t => modChan t c (fun x => { x with credUp := chanOn x }))) p c) s

/-- The linear canceller is refined or adapted to values of which no statement is made (R488). -/
def adaptEcho (s : State) (p : Nat) : State := modTth (drew s) p (fun t => { t with echo := echoAdapted s.free t.echo })

/-- The phase after one that ended well. -/
def nextPhase (s : State) (p : Nat) (gain : Byte) : State :=
  let t := getTth s p
  let agc (s : State) : State := if t.gainSet = 0 then modTth s p (fun t => { t with gain := gain }) else s
  let go (s : State) (ph : TthPhase) : State := modTth s p (fun t => { t with phase := ph, rxCw := 0, lqRun := [] })
  let sends (s : State) (on : Bool) : State := if on then emit s (.trainSeq p) else s
  -- The end that sent in an echo phase has trained its canceller, the other its equaliser (R488, R492).
  let sender (s : State) : State := modTth (drew s) p (fun t => { t with echo := echoDrawn s.free })
  let listener (s : State) : State := modTth (drew (agc s)) p (fun t => { t with eqW := draw s })
  match t.phase with
  | .none => s
  | .wake => if t.hello.isSome && t.helloSent then modTth (sends (go s .echoM) t.master) p (fun t => { t with state := .train, bursting := false })
      else failTraining s p 1
  | .echoM => sends (go (if t.master then sender s else listener s) .echoS) (!t.master)
  | .echoS => sends (go (if t.master then listener s else sender s) .duplex2) true
  | .duplex2 => modTth (go (adaptEcho s p) .duplexM) p (fun t => { t with ctrl := t.ctrl ++ [(2, [])] })
  | .preamble => modTth (go (agc s) .duplexM) p (fun t => { t with ctrl := t.ctrl ++ [(2, [])] })
  | .duplexM =>
    if t.lqRun.isEmpty || decide (t.lqRun.foldl (fun (n : Int) x => n + x.toInt) 0 < 48 * t.lqRun.length) then failTraining s p 3
    else if t.readySent && t.readyPeer then enterUp s p else failTraining s p 6

/-- The failure found at the end of a phase (Table 14-13): the echo's residual after an echo phase, or its bound exceeded;
WAKE's failure is its missing HELLO. -/
def tthPhaseFails (ph : TthPhase) (residual late : Bool) : Option Byte := match ph with
  | .none => none
  | .wake => none
  | .echoM => if residual then some 5 else if late then some 6 else none
  | .echoS => if residual then some 5 else if late then some 6 else none
  | _ => if late then some 6 else none

/-- A training phase ends on its duration or its bound (`late`): whether the echo's residual is too large, and the gain that
acquisition AGC came to (R491, R492). -/
def execTthTrainPhaseEnd (port : Fin 4) (residual late : Bool) (gain : Byte) (s : State) : Host.Outcome State Fault Refusal :=
  let p := port.val
  if !portAlive s p || decide ((getTth s p).phase = .none) then .next s
  else match tthPhaseFails (getTth s p).phase residual late with
    | some code => .next (failTraining s p code)
    | none => .next (nextPhase s p gain)

/-- A fast retrain of a port in UP (R494). -/
def fastRetrain (s : State) (p : Nat) (own : Bool) : State := if (getTth s p).state = .up then startFast s p own else s

/-- TTH_FAST_RETRAIN: the peer's preamble. -/
def execTthFastRetrain (port : Fin 4) (s : State) : Host.Outcome State Fault Refusal := .next (fastRetrain s port.val false)

/-- A FAILED port retries full training once per second (R494). -/
def execTthFailedRetry (port : Fin 4) (s : State) : Host.Outcome State Fault Refusal :=
  let t := getTth s port.val
  if t.state = .failed ∧ 122880000 ≤ s.now - t.failedAt then .next (startFull s port.val) else .next s

/-- TTH_CTL.RETRAIN (R494). -/
def ctlRetrainOp (p : Nat) (s : State) : State := fastRetrain s p true
def execTthCtlRetrain (port : Fin 4) (s : State) : Host.Outcome State Fault Refusal := .next (ownWrite (tethStall s port.val) (ctlRetrainOp port.val) s)

/-- TTH_CTL.FULL_TRAIN, which S0 alone may write (R523). -/
def fullTrainOp (p : Nat) (s : State) : State := if portAlive s p then startFull s p else s
def execTthFullTrain (port : Fin 4) (s : State) : Host.Outcome State Fault Refusal := .next (mgmt (fullTrainOp port.val) s)

/-- In WAKE the burst or the listening time ends (R492). -/
def execTthWakeBurstTimer (port : Fin 4) (s : State) : Host.Outcome State Fault Refusal :=
  let p := port.val
  if (getTth s p).phase = .wake then
    if (getTth s p).bursting then .next (modTth s p (fun t => { t with bursting := false })) else .next (wakeBurst s p)
  else .next s

/-! ### Codewords received (R499) -/

/-- The scrambler at the first bit of the next codeword to be decoded: reloaded at each block's marker. -/
def rxScrAt (s : State) (p : Nat) : BitVec 23 := if (getTth s p).rxCw = 0 then rxSeed s p else (getTth s p).rxScr

/-- What a decoded codeword leaves: a frame whose CRC holds waits for its row; 64 failures in a row start a fast retrain (R494).
The receiver's scrambler is then at `scr`; a block has 16 codewords, a wake burst one. -/
def codewordEnd (s : State) (p : Nat) (scr : BitVec 23) (r : Option TFrame × Nat) : State :=
  let s := modTth s p (fun t => { t with
    rxScr := scr, rxCw := if t.phase = .wake then 0 else (t.rxCw + 1) % 16, cw := t.cw + 1, bchFixed := t.bchFixed + BitVec.ofNat 64 r.2 })
  match r.1 with
  | some f => modTth s p (fun t => { t with decoded := t.decoded ++ [f], failRun := 0 })
  | none =>
    let s := modTth s p (fun t => { t with cwFail := t.cwFail + 1, failRun := t.failRun + 1 })
    if 64 ≤ (getTth s p).failRun then fastRetrain s p true else s

/-- A codeword decoded from the LLRs of its scrambled bits (R484–R486, R499). -/
def execTthCodewordDecoded (port : Fin 4) (llrs : List (BitVec 8)) (s : State) : Host.Outcome State Fault Refusal :=
  let p := port.val
  if !portAlive s p || decide ((getTth s p).state = .failed) then .next s
  else
    let x := scrRun 10752 (rxScrAt s p)
    .next (codewordEnd s p x.2 (decodeFrame x.1 llrs))

/-! ### CTRL frames (R503) -/

/-- The header of a decoded CTRL frame of a kind, where one waits. -/
def ctrlHeader (s : State) (p : Nat) (kind : Byte) : State :=
  match (getTth s p).decoded.find? (fun f => f.type == 3 && u8 f.payload 0 == kind) with
  | some f => rxHeader s p f
  | none => s

/-- Who masters a link between two devices (R480); none where the TRAIN_IDs are equal. -/
def masterOf (mine peer : Byte) (myId peerId : W32) : Option Bool :=
  if mine = 1 ∧ peer ≠ 1 then some true
  else if peer = 1 ∧ mine ≠ 1 then some false
  else if myId = peerId then none
  else some (decide (peerId.toNat < myId.toNat))

/-- The peer's HELLO (R492, R503, R480). -/
def execHello (port : Fin 4) (cls mode timeDir : Byte) (trainId epoch : W32) (s : State) : Host.Outcome State Fault Refusal :=
  let p := port.val
  match tethRec s p with
  | none => .next s
  | some r =>
    if !portAlive s p then .next s
    else
      let s := seeEpoch (ctrlHeader s p 1) p epoch
      if (getTth s p).phase ≠ .wake then .next s
      else if mode ≠ (getTth s p).mode.setWidth 8 then .next (failTraining s p 2)
      else if (cls == 1) != (r.role == 3) then .next (failTraining s p 4)
      else
        let m := if r.role = 3 then masterOf r.timeDir timeDir (getTth s p).trainId trainId else some true
        match m with
        | some m => .next (modTth s p (fun t => { t with hello := some (cls, mode, timeDir, trainId), master := m }))
        | none => .next (modTth (drew s) p (fun t => { t with trainId := (draw s).setWidth 32, hello := none, helloSent := false }))

/-- The peer is ready (R492). -/
def execReady (port : Fin 4) (s : State) : Host.Outcome State Fault Refusal :=
  if portAlive s port.val then
    .next (modTth (ctrlHeader s port.val 2) port.val (fun t => { t with readyPeer := t.readyPeer || decide (t.phase = .duplexM) }))
  else .next s

/-- The peer asks for a retrain (R494). -/
def execRetrainReq (port : Fin 4) (s : State) : Host.Outcome State Fault Refusal :=
  if portAlive s port.val then .next (fastRetrain (ctrlHeader s port.val 3) port.val false) else .next s

/-- The peer announces that its port is being disabled (R503): its header counts, and its markers will be lost. -/
def execDisable (port : Fin 4) (s : State) : Host.Outcome State Fault Refusal :=
  if portAlive s port.val then .next (ctrlHeader s port.val 4) else .next s

/-! ### DATA received (R508, R512, R515, R516) -/

/-- A peer violation: 16 within 1 ms start a fast retrain (R494). -/
def violation (s : State) (p : Nat) : State :=
  let s := modTth s p (fun t => { t with violations := (s.now :: t.violations.filter (fun x => decide (s.now - x < 122880))).take 16 })
  if 16 ≤ (getTth s p).violations.length then fastRetrain s p true else s

/-- Credits that the channel's store holds. -/
def storedUnits (t : Tth) (c : Nat) : Nat :=
  (t.store.filter (fun x => x.1 == c)).foldl (fun n x => n + creditsOf x.2.len) 0

/-- Whether the credits granted cover a frame: what is written, stored and new stays within RX_HEAD + 2^RX_LOG2. -/
def covered (t : Tth) (c : Nat) (f : TFrame) : Bool :=
  let ch := getChan t c
  chanOn ch && decide ((ch.rxHead + BitVec.ofNat 32 (2 ^ rxLog2 ch)
    - (ch.rxWr + BitVec.ofNat 32 (storedUnits t c + creditsOf f.len))).toNat < 2 ^ 31)

/-- A DATA frame under Table 14-6. -/
def dataFrame (s : State) (p : Nat) (f : TFrame) : State :=
  let t := getTth s p
  let c := f.chan.toNat
  let d := (f.seq - (getChan t c).rxSeq).toNat
  if 32768 ≤ d ∨ d < 4096 ∧ t.store.any (fun x => x.1 == c && x.2.seq == f.seq) then
    modTth s p (fun t => modChan { t with dup := satInc t.dup } c (fun x => { x with urgent := true }))
  else if 4096 ≤ d then violation (modTth s p (fun t => { t with winErr := satInc t.winErr })) p
  else if !covered t c f then violation (modTth s p (fun t => { t with credErr := satInc t.credErr })) p
  else if 4096 ≤ t.store.length then modTth s p (fun t => { t with storeFull := satInc t.storeFull })
  else modTth s p (fun t => modChan { t with store := t.store ++ [(c, f)] } c (fun x => { x with ackDirty := true }))

def execTthDataFrame (port : Fin 4) (frame : TFrame) (s : State) : Host.Outcome State Fault Refusal :=
  if (getTth s port.val).state = .up then .next (dataFrame (rxHeader s port.val frame) port.val frame) else .next s

/-- An IDLE frame: its header alone (R502). -/
def execTthIdleFrame (port : Fin 4) (frame : TFrame) (s : State) : Host.Outcome State Fault Refusal :=
  if portAlive s port.val then .next (rxHeader s port.val frame) else .next s

/-- Whether the port's host traffic flows (R143, R516, R526). -/
def hostOpen (s : State) (p : Nat) : Bool :=
  !unreachable s (tethStall s p) && decide ((getGirth s (p / 2)).state = .active)

/-- The receive record (Table 14-9). -/
def rxRecord (ch : Chan) (f : TFrame) : List Byte :=
  bytesOf ch.rxWr ++ bytesOf f.len
    ++ [flag 8 0 f.first ||| flag 8 1 f.last ||| flag 8 2 (decide (ch.rxCnt.toNat / 2 ^ rxLog2 ch % 2 = 1)), 0] ++ bytesOf f.seq
    ++ List.replicate 6 0

/-- The next frame in order is issued to the host: payload with its wrap, record, counts, source (R515 to R517). -/
def deliverFrame (s : State) (p c : Nat) (f : TFrame) : State :=
  let ch := getChan (getTth s p) c
  let i := tethStall s p
  let ring := 2 ^ rxLog2 ch
  let unit := ch.rxWr.toNat % ring
  let data := padTo f.len.toNat f.payload
  let room := 64 * (ring - unit)
  let s := toHost s i (.mwr i (ch.rxData + BitVec.ofNat 64 (64 * unit)) (data.take room))
  let s := if (data.drop room).isEmpty then s else toHost s i (.mwr i ch.rxData (data.drop room))
  let s := toHost s i (.mwr i (ch.rxRec + BitVec.ofNat 64 (16 * (ch.rxCnt.toNat % ring))) (rxRecord ch f))
  let s := modTth s p (fun t => modChan { t with store := t.store.erase (c, f), rxFrames := t.rxFrames + 1 } c (fun x => { x with
    rxWr := x.rxWr + BitVec.ofNat 32 (creditsOf f.len), rxCnt := x.rxCnt + 1, rxSeq := x.rxSeq + 1, ackDirty := true }))
  if f.last then raiseSource s (BitVec.ofNat 16 (0x0E00 + 8 * p + c)) else s

/-- Delivery of the next frame in order, or its loss to an uncorrectable error in the store (R516, R527). -/
def execTthDeliver (port : Fin 4) (ch : Fin 8) (ue : Bool) (s : State) : Host.Outcome State Fault Refusal :=
  let p := port.val
  let c := ch.val
  let t := getTth s p
  match t.store.find? (fun x => x.1 == c && x.2.seq == (getChan t c).rxSeq) with
  | none => .next s
  | some (_, f) =>
    if !hostOpen s p then .next s
    else if ue then
      let s := modTth s p (fun t => modChan { t with store := t.store.erase (c, f), storeUe := satInc t.storeUe } c
        (fun x => { x with ackDirty := true }))
      .next (report s { code := 0x4004, kind := 9, unit := BitVec.ofNat 8 p, data := [BitVec.ofNat 8 c] ++ bytesOf f.seq })
    else .next (deliverFrame s p c f)

/-! ### Frames sent (R501, R507, R510, R511, R514) -/

/-- A descriptor's LEN and ADDR are valid (Table 14-8). -/
def txOk (d : List Byte) : Bool := decide (1 ≤ (u16 d 8).toNat) && decide ((u16 d 8).toNat ≤ 1024) && (u64 d 0).toNat % 64 == 0

/-- Whether a channel has a descriptor to take. -/
def txWaiting (c : Chan) : Bool := chanOn c && decide (c.tail ≠ c.txRd)

/-- Whether a channel may send its next new frame (R507, R511). -/
def maySend (t : Tth) (c : Chan) (d : List Byte) : Bool :=
  txWaiting c && txOk d && decide ((c.txSeq - unaOf c).toNat < 4096) && decide (outstanding t < 4096)
    && (let room := (c.limit - c.used).toNat
        decide (creditsOf (u16 d 8) ≤ room) && decide (room < 2 ^ 31))

/-- The next descriptor of a channel is refused, in its turn in the ring (R514). -/
def refuseTx (s : State) (p c : Nat) (d : List Byte) : State :=
  let ch := getChan (getTth s p) c
  if txWaiting ch && !txOk d then
    ackUpTo (modTth s p (fun t => modChan t c (fun x => { x with
      txRd := x.txRd + 1,
      unacked := x.unacked ++ [{ slot := x.txRd, seq := 0, addr := u64 d 0, len := u16 d 8, flags := u8 d 0x0A, refused := true }] })))
      p c none
  else s

/-- The retransmission due: the lowest channel, and within it the serially lowest sequence (R501). -/
def retxDue (t : Tth) : Option (Nat × TxFrame) :=
  (List.range 8).findSome? (fun c => ((getChan t c).unacked.find? (fun f => f.due)).map (fun f => (c, f)))

/-- A DATA frame of a descriptor, its payload read from the host buffer. -/
def dataOf (c : Nat) (f : TxFrame) (retx : Bool) (payload : List Byte) : TFrame :=
  { emptyFrame 1 (payload.take f.len.toNat) with
    chan := BitVec.ofNat 3 c, first := bit f.flags 0, last := bit f.flags 1, retx := retx, seq := f.seq, len := f.len }

/-- The SEQ of the message that a reply answers: that of the exchange under way, or, where it is not decoded yet, the one
after the last (R519). -/
def answered (t : Tth) : W16 := match t.exCur.msg, t.exPrev.msg with
  | some m, _ => m.1
  | none, some m => m.1 + 1
  | none, none => 0

/-- The TIME frame of a block that opened with an MKT (Table 14-10, R518, R519). -/
def timeFrame (s : State) (p : Nat) (mkt : W64) : State :=
  let t := getTth s p
  let reply := ((tethRec s p).map (·.timeDir)).getD 0 == 2
  let stepped := decide (t.stepsAtMsg ≠ s.air.steps)
  let t4 : Option W64 := if reply then none else t.t4
  let body := bytesOf mkt ++ bytesOf (t4.getD 0) ++ leBytes 4 0
    ++ [(refCode s.air.state).setWidth 8, flag 8 0 t4.isSome ||| flag 8 1 stepped ||| flag 8 2 reply]
    ++ (if reply then bytesOf (answered t) else [0, 0]) ++ leBytes 4 (holdEst s)
  let s := modTth s p (fun t => { t with msgSeq := t.msgSeq + 1, stepsAtMsg := s.air.steps, t4 := if reply then t.t4 else none })
  sendFrame s p { emptyFrame 2 body with seq := t.msgSeq }

/-- A new frame of channel `c`. -/
def sendNew (s : State) (p c : Nat) (d payload : List Byte) : State :=
  let ch := getChan (getTth s p) c
  let f : TxFrame := { slot := ch.txRd, seq := ch.txSeq, addr := u64 d 0, len := u16 d 8, flags := u8 d 0x0A, sent := s.now }
  let s := modTth s p (fun t => modChan { t with rr := (c + 1) % 8 } c (fun x => { x with
    txRd := x.txRd + 1, txSeq := x.txSeq + 1, used := x.used + BitVec.ofNat 32 (creditsOf f.len), unacked := x.unacked ++ [f] }))
  sendFrame (restartTimer s p c) p (dataOf c f false payload)

/-- A retransmission (R510). -/
def resend (s : State) (p c : Nat) (f : TxFrame) (payload : List Byte) : State :=
  let s := modTth s p (fun t => modChan { t with retx := satInc t.retx } c (fun x => { x with
    unacked := x.unacked.map (fun y => if y = f then { y with due := false, sent := s.now } else y) }))
  sendFrame (restartTimer s p c) p (dataOf c f true payload)

/-- The first frame of R501 that applies. -/
def chooseFrame (s : State) (p : Nat) (descs : List (List Byte)) (payload : List Byte) : State :=
  let t := getTth s p
  let idle (s : State) : State := sendFrame s p (emptyFrame 0 [])
  match (if t.cwIdx = 2 then t.mktSent else none), t.ctrl with
  | some m, _ => timeFrame s p m
  | none, (k, b) :: rest =>
    sendFrame (modTth s p (fun t => { t with ctrl := rest, readySent := t.readySent || k == 2 })) p (emptyFrame 3 (k :: b))
  | none, [] =>
    if t.state ≠ .up ∨ hostOpen s p = false then idle s
    else match retxDue t with
      | some (c, f) => resend s p c f payload
      | none =>
        let s := (List.range 8).foldl (fun s c => refuseTx s p c (descs.getD c [])) s
        let t' := getTth s p
        match ((List.range 8).map (fun k => (t.rr + k) % 8)).find? (fun c =>
            decide ((getChan t' c).txRd = (getChan t c).txRd) && maySend t' (getChan t' c) (descs.getD c [])) with
        | some c => sendNew s p c (descs.getD c []) payload
        | none => idle s

/-- Whether the next marker is an MKT (R518, R519): an action took effect at least 1 µs ago, or an MKT has arrived at a
slave. -/
def syncDue (s : State) (p : Nat) : Bool := (getTth s p).syncAt.any (fun a => decide (12288 ≤ (s.now - a) * 100))
def mktDue (s : State) (p : Nat) : Bool :=
  let t := getTth s p
  decide (t.state = .up) && t.cwIdx == 0 && t.mktSent.isNone && (syncDue s p || t.replyDue)

/-- A codeword slot of a port that drives full duplex at its MODE (R485, R501). `descs` is each channel's next descriptor,
and `payload` the host buffer of the frame sent. A marker that is to be an MKT comes first. -/
def execTthCodewordSlot (port : Fin 4) (descs : List (List Byte)) (payload : List Byte) (s : State) :
    Host.Outcome State Fault Refusal :=
  let p := port.val
  let t := getTth s p
  if t.state ≠ .up ∧ t.phase ≠ .duplexM ∨ mktDue s p = true then .next s
  else
    let s := if t.cwIdx = 0 ∧ t.mktSent.isNone then sendMarker s p false else s
    let s := chooseFrame s p descs payload
    let s := if t.state = .up then adaptEcho s p else s
    .next (modTth s p (fun t => { t with
      slots := t.slots + 1, cwIdx := (t.cwIdx + 1) % 16, mktSent := if t.cwIdx = 2 then none else t.mktSent }))

/-- A channel's timer expires (R510): the oldest unacknowledged frame is due again and the timeout doubles. -/
def execTthRtoExpire (port : Fin 4) (ch : Fin 8) (s : State) : Host.Outcome State Fault Refusal :=
  let p := port.val
  let c := ch.val
  let t := getTth s p
  match (getChan t c).timerAt with
  | none => .next s
  | some at_ =>
    if t.state = .up ∧ timeout100 t (getChan t c) ≤ (s.now - at_) * 100 then
      .next (modTth s p (fun t => modChan t c (fun x => { x with
        unacked := (match firstIdx (fun f => !f.refused) x.unacked 0 with
          | some k => x.unacked.zipIdx.map (fun y => if y.2 = k then { y.1 with due := true } else y.1)
          | none => x.unacked),
        backoff := min 64 (2 * x.backoff), timerAt := some s.now })))
    else .next s

/-- A transmit doorbell (R514), classified as in R181 with the ring's depth. -/
def txTailOp (s : State) (p c : Nat) (tail : W32) : State :=
  let ch := getChan (getTth s p) c
  let t := (tail - ch.txRd).toNat
  if 1 ≤ t ∧ t ≤ 2 ^ txLog2 ch then modTth s p (fun x => modChan x c (fun y => { y with tail := tail })) else s

def execTthTxTail (port : Fin 4) (ch : Fin 8) (tail : W32) (s : State) : Host.Outcome State Fault Refusal :=
  if (tethRec s port.val).isSome then .next (ownWrite (tethStall s port.val) (fun s => txTailOp s port.val ch.val tail) s) else .next s

/-! ### Link quality and the residual canceller (R489, R490, R496) -/

def lqThreshold (mode : BitVec 2) : Nat := match mode.toNat with | 1 => 224 | 2 => 320 | _ => 416

/-- The canceller's guard (R489): four windows in a row 1.0 dB below the snapshot restore it; eight restores in 1 s freeze
the canceller. -/
def rcGuard (s : State) (p : Nat) : State :=
  let t := getTth s p
  if t.rcFrozen || t.rcOffNow then s
  else
    let drops := if t.lq.toInt ≤ t.rcSnapLq.toInt - 16 then t.rcDrops + 1 else 0
    if drops < 4 then modTth s p (fun t => { t with rcDrops := drops })
    else
      let times := s.now :: t.rcTimes.filter (fun x => decide (s.now - x < 122880000))
      let s := modTth s p (fun t => { t with rcW := t.rcSnap, rcDrops := 0, rcRestore := satInc t.rcRestore, rcTimes := times })
      if 8 ≤ times.length then
        report (modTth s p (fun t => { t with rcFrozen := true, rcTimes := [] })) { code := 0x4003, kind := 9, unit := BitVec.ofNat 8 p }
      else s

/-- A window of 65,536 data symbols ends, with the mean squared error and level (R496). -/
def execTthLqWindow (port : Fin 4) (err sig : W64) (s : State) : Host.Outcome State Fault Refusal :=
  let p := port.val
  let t := getTth s p
  if t.state ≠ .up ∧ t.phase ≠ .duplexM then .next s
  else
    let snr := snrOf sig.toNat err.toNat
    let lq : Int := (snr : Int) - lqThreshold t.mode
    let s := modTth s p (fun t =>
      let low := if lq < 24 then min 16 (t.lowLq + 1) else 0
      let good := if lq < 24 then 0 else min 16 (t.goodLq + 1)
      { t with
        snr := BitVec.ofNat 16 snr, lq := BitVec.ofInt 16 lq, lowLq := low, goodLq := good,
        badLq := if lq < 0 then t.badLq + 1 else 0, lqRun := (BitVec.ofInt 16 lq :: t.lqRun).take 16,
        degraded := if 16 ≤ low then true else if 16 ≤ good then false else t.degraded })
    if t.state ≠ .up then .next s
    else
      let s := rcGuard s p
      .next (if 16 ≤ (getTth s p).badLq then fastRetrain s p true else s)

/-- The canceller learns in UP and in the training phases that train it (R489, R490). -/
def rcRuns (t : Tth) : Bool :=
  (decide (t.state = .up) || decide (t.phase = .duplex2) || decide (t.phase = .duplexM)) && !t.rcOffNow && !t.rcFrozen

/-- Every 64 symbols the weights, and the generator of their rounding, move to values of which no statement is made (R489). -/
def execTthRcUpdate (port : Fin 4) (s : State) : Host.Outcome State Fault Refusal :=
  if rcRuns (getTth s port.val) then
    .next (modTth (drew s) port.val (fun t => { t with rcW := residualDrawn s.free, rcGen := (draw s).setWidth 32 }))
  else .next s

/-- Every 2^20 symbols (R489). -/
def execTthRcSnapshot (port : Fin 4) (s : State) : Host.Outcome State Fault Refusal :=
  let t := getTth s port.val
  if t.state = .up ∧ t.rcSnapLq.toInt ≤ t.lq.toInt then
    .next (modTth s port.val (fun t => { t with rcSnap := t.rcW, rcSnapLq := t.lq }))
  else .next s

/-! ### Markers and time transfer (R485, R487, R518 to R522) -/

/-- TIME_DIR of a port. -/
def timeDir (s : State) (p : Nat) : Byte := ((tethRec s p).map (·.timeDir)).getD 0

/-- A time marker arrives at a stamp (R519, R522). -/
def mktArrives (s : State) (p : Nat) (stamp : W64) : State :=
  let s := emit s (.strobe p)
  if timeDir s p = 2 then
    modTth s p (fun t => { t with exPrev := t.exCur, exCur := { t2 := some stamp, steps := s.air.steps }, replyDue := true })
  else if timeDir s p = 1 then modTth s p (fun t => { t with t4 := some stamp })
  else s

/-- A marker's place is reached (R487): its 64 bits, whether it was found late, and the stamp of its first symbol. -/
def execTthMarkerRx (port : Fin 4) (bits : W64) (late : Bool) (stamp : W64) (s : State) : Host.Outcome State Fault Refusal :=
  let p := port.val
  if (getTth s p).state ≠ .up then .next s
  else
    let wrong := popcount (bits ^^^ markerWord)
    if !late && (decide (wrong ≤ 4) || decide (60 ≤ wrong)) then
      let s := modTth s p (fun t => { t with lostMarkers := 0 })
      .next (if 60 ≤ wrong then mktArrives s p stamp else s)
    else
      let s := modTth s p (fun t => { t with lostMarkers := t.lostMarkers + 1 })
      .next (if 2 ≤ (getTth s p).lostMarkers then fastRetrain s p true else s)

/-- The action TIME_SYNC takes effect at a port (R518, R526). -/
def timeSyncOp (s : State) (p : Nat) : State :=
  let t := getTth s p
  if t.state ≠ .up ∨ t.syncAt.isSome then modTth s p (fun t => { t with timeSkip := satInc t.timeSkip })
  else modTth s p (fun t => { t with syncAt := some s.now })

def execTimeSync (port : Fin 4) (s : State) : Host.Outcome State Fault Refusal :=
  let p := port.val
  match takeAct s 9 (BitVec.ofNat 8 p) (fun _ => true) with
  | some (_, s) =>
    let s := modIod s (p / 2) (fun d => match firstIdx (fun x => x.1 == p && x.2.1 == 9) d.tacts 0 with
      | some k => { d with tacts := d.tacts.eraseIdx k }
      | none => d)
    if (tethRec s p).isSome then .next (timeSyncOp s p) else .next s
  | none => .next s

/-- The next marker is an MKT (R518, R519): one that begins at least 1 µs after the action, or the first after an MKT
arrived at a slave. -/
def execTthMktSend (port : Fin 4) (stamp : W64) (s : State) : Host.Outcome State Fault Refusal :=
  let p := port.val
  let t := getTth s p
  let asked := syncDue s p
  if mktDue s p then
    let s := modTth s p (fun t => { t with mktSent := some stamp, syncAt := if asked then none else t.syncAt, replyDue := false })
    let s := if t.replyDue then modTth s p (fun t => { t with exCur := { t.exCur with t3 := some stamp } }) else s
    .next (sendMarker s p true)
  else .next s

/-- What the slave makes of exchange `n` when message `n` + 1 arrives with `t4` and its flags (R520): twice the offset and
twice the delay, and whether the exchange is valid. -/
def exchangeOf (steps : Nat) (x : Exchange) (seq : W16) (t4 : W64) (t4Valid stepped : Bool) : Option (Int × Int × Bool) :=
  match x.t2, x.t3, x.msg with
  | some t2, some t3, some (n, t1, st, stp) =>
    let a : Int := stampCount t2 - stampCount t1
    let b : Int := stampCount t4 - stampCount t3
    some (a - b, a + b, t4Valid && seq == n + 1 && !stepped && !stp && decide (x.steps = steps)
      && decide (0 ≤ a + b) && decide (a + b ≤ 11808) && (st == 2 || st == 3 || st == 5))
  | _, _, _ => none

/-- A TIME frame (R519, R520, R522). -/
def execTthTimeFrame (port : Fin 4) (frame : TFrame) (s : State) : Host.Outcome State Fault Refusal :=
  let p := port.val
  if (getTth s p).state ≠ .up then .next s
  else
    let s := rxHeader s p frame
    let b := frame.payload
    let fl := u8 b 0x15
    if timeDir s p = 0 then .next (modTth s p (fun t => { t with timeBad := satInc t.timeBad }))
    else if timeDir s p = 2 ∧ bit fl 2 = false then
      let t := getTth s p
      let s := match exchangeOf s.air.steps t.exPrev frame.seq (u64 b 8) (bit fl 0) (bit fl 1) with
        | some (o, d, ok) => modTth s p (fun t => { t with
            timeOfs := BitVec.ofInt 32 (fdiv o 2), timeDly := BitVec.ofInt 32 (fdiv d 2), timeValid := ok })
        | none => modTth s p (fun t => { t with timeValid := false })
      let s := modTth s p (fun t => { t with msgAt := some s.now, msgInterval := u32 b 0x10 })
      .next (modTth s p (fun t => { t with exCur := { t.exCur with msg := some (frame.seq, u64 b 0, u8 b 0x14, bit fl 1) } }))
    else .next s

/-- An I/O die reports a time exchange (R520, R547): a valid one is a valid time message of the candidate and its offset the
phase error. -/
def execTofs (port : Fin 4) (t1 : W64) (offset : W64) (delay : W32) (valid : Bool) (s : State) : Host.Outcome State Fault Refusal :=
  let p := port.val
  if msgBlocked s (p / 2) 0x35 then .next s else
  let s := takeMsg s (p / 2) 0x35
  let s := modTth s p (fun t => { t with timeOfs := offset.setWidth 32, timeDly := delay, timeValid := valid })
  .next (tetherTime s p t1 offset valid (decide ((getTth s p).state = .up)))

/-! ### Ports at acceptance and at the loss of their I/O die (R481, R504, R528, R87) -/

/-- A non-zero session identifier (R504). -/
def newEpoch (s : State) (p : Nat) : State :=
  let e : W32 := (draw s).setWidth 32
  modTth (drew s) p (fun t => { t with epoch := if e = 0 then 1 else e })

/-- A port of an accepted harness starts full training; one of ROLE 0 is disabled. -/
def startPort (s : State) (p : Nat) : State :=
  match tethRec s p with
  | none => modTth s p (fun t => { t with state := .disabled, phase := .none })
  | some r =>
    if (getGirth s (p / 2)).state = .active ∨ (getGirth s (p / 2)).state = .retrain then
      let s := if (getTth s p).epoch = 0 then newEpoch s p else s
      startFull (modTth s p (fun t => { t with mode := bits r.mode 0 2, gainSet := r.gain, master := r.role != 3 })) p
    else modTth s p (fun t => { t with state := .noDie, phase := .none, mode := bits r.mode 0 2, gainSet := r.gain })

/-- A port whose I/O die is lost drives no signal, and the store on the die is lost (R481, R506). -/
def silencePort (s : State) (p : Nat) : State :=
  if (tethRec s p).isNone then s
  else
    let s := if (getTth s p).state = .up then tetherCandDown s p else s
    modTth s p (fun t => { t with
      state := .noDie, phase := .none, store := [], chans := stopTimers t.chans })

/-- DISABLE goes out three times before a port is disabled by the harness (R503). -/
def disablePort (s : State) (p : Nat) : State :=
  let s := if (getTth s p).state = .up then
      (List.range 3).foldl (fun s _ => sendFrame s p (emptyFrame 3 [4])) (tetherCandDown s p) else s
  modTth s p (fun t => { t with state := .disabled, phase := .none })

/-- A warm reset: a port with a session fast-retrains, another trains in full (R528); one whose I/O die is lost stays silent,
and one whose die is back starts anew. -/
def warmPort (s : State) (p : Nat) : State :=
  if (tethRec s p).isNone then s
  else if (getGirth s (p / 2)).state ≠ .active then silencePort s p
  else if (getTth s p).state = .noDie then startPort s p
  else if (getTth s p).peerEpoch.isSome then startFast s p true else startFull s p

end Sys2Proof.Machine
end

