-- ==== Sys2Proof/Machine/Girth.lean ====
section
/-!
DEFINITION. Girth links (R533 to R546), the time channel (R550 to R554), and the converter links of the I/O dies (R91,
R555 to R558, R570, R573).
-/
namespace Sys2Proof.Machine

/-- Receive buffers that the compute die advertises, by channel (R544). -/
def ownCredits (vc : Nat) : W16 := match vc with | 0 => 64 | 1 => 128 | 2 => 128 | _ => 32
/-- What an I/O die must advertise at least (R544). -/
def leastCredits (vc : Nat) : Nat := match vc with | 0 => 32 | 1 => 64 | 2 => 64 | _ => 16

/-! ### Failure and retrain (R87, R535, R536) -/

/-- The slots under way of an I/O die's carriers lose samples now: those not fully received report LINK (R572). -/
def samplesLost (s : State) (d : Nat) : State :=
  (List.range 8).foldl (fun s c => match carrierCfg s c with
    | some cfg =>
      if carrierIod cfg = d then
        modSlots (touchNow s c) c (fun sl => decide (s.air.abs.toNat ≤ sl.lastSample.toNat)) (addCause 0x13)
      else s
    | none => s) s

/-- The link leaves ACTIVE: its span of the last second is kept for R87's window. -/
def leaveActive (now : Nat) (x : Girth) : Girth :=
  let old := x.spans.filter (fun p => decide (now - p.2 < 122880000))
  { x with activeAt := none, spans := match x.activeAt with | some a => old ++ [(a, now)] | none => old }

/-- The link is declared failed (R87): its Tether ports fall silent, its PPS candidate is lost and its carriers stop. -/
def girthFail (s : State) (g : Nat) (cause : BitVec 4) : State :=
  let s := modGirth s g (fun x => { leaveActive s.now x with
    state := .failed, phase := .none, failCause := cause, buf := [], resend := [], nakAt := none, nakDue := false,
    outQ := [], ctrlQ := [], inQ := [], reqs := [], reqWait := [] })
  let s := silencePort (silencePort s (2 * g)) (2 * g + 1)
  let s := candUpdate s g candLost
  let s := linkLost s g
  report s { code := 0x4006, kind := 0xA, unit := BitVec.ofNat 8 g, data := [cause.setWidth 8] }

/-- A retrain begins (R534, R536). -/
def startRetrain (s : State) (g : Nat) (cause : Byte) : State :=
  let s := modGirth (samplesLost s g) g (fun x => { leaveActive s.now x with
    state := .retrain, phase := .clock, full := false, retrained := true, retrain := satInc x.retrain, crcTimes := [] })
  report s { code := 0x4005, kind := 0xA, unit := BitVec.ofNat 8 g, data := [cause] }

/-- A retrain for a cause of R536. -/
def retrainOp (s : State) (g : Nat) (cause : Byte) : State :=
  if (getGirth s g).state = .active then startRetrain s g cause else s

def execGrtRetrain (g : Fin 2) (cause : BitVec 3) (s : State) : Host.Outcome State Fault Refusal :=
  .next (retrainOp s g.val (cause.setWidth 8))

/-- GRT_CTL.RETRAIN (R536). -/
def grtCtlOp (g : Nat) (s : State) : State := retrainOp s g 5
def execGrtCtlRetrain (g : Fin 2) (s : State) : Host.Outcome State Fault Refusal := .next (mgmt (grtCtlOp g.val) s)

/-- Full training begins (R534, R574). -/
def startGirth (s : State) (g : Nat) : State :=
  if s.fuses.iodEn.getLsbD g then modGirth s g (fun x => { x with
    state := .training, phase := .clock, full := true, peer := none, txSeq := 0, rxSeq := 0, ackValid := false, acked := 0xFFF,
    buf := [], resend := [], nakAt := none, nakDue := false, used := [], limit := [], granted := [], outQ := [], ctrlQ := [],
    inQ := [], reqs := [], reqWait := [], activeAt := none, spans := [], retrained := false, failRun := 0, crcTimes := [] })
  else s

/-- Whether 1 s that ends now holds no 100 ms span of ACTIVE (R87). -/
def windowBare (now : Nat) (x : Girth) : Bool :=
  let spans := x.spans ++ (match x.activeAt with | some a => [(a, now)] | none => [])
  x.retrained && spans.all (fun p => decide (min p.2 now < max p.1 (now - 122880000) + 12288000))

/-- R87's second case holds at this moment. -/
def girthWindow (s : State) (g : Nat) : State :=
  let x := getGirth s g
  if (x.state = .active ∨ x.state = .retrain) ∧ windowBare s.now x = true then girthFail s g 6 else s

/-! ### Sequence and replay (R539 to R542) -/

/-- An acknowledged SEQ: every flit up to it leaves the replay buffer (R539, R542). -/
def ackFlits (now : Nat) (a : BitVec 12) (x : Girth) : Girth :=
  if laterThan a x.acked then
    let gone (q : BitVec 12) : Bool := decide ((a - q).toNat < 2048)
    { x with acked := a, ackAt := now, buf := x.buf.filter (fun f => !gone f.seq), resend := x.resend.filter (fun q => !gone q) }
  else x

/-- Every unacknowledged flit is resent, in order, before any new one (R541). -/
def startReplay (now : Nat) (nak : Option (BitVec 12)) (x : Girth) : Girth :=
  { x with resend := x.buf.map (·.seq), nakAt := nak, replay := satInc x.replay, ackAt := now }

/-- A NAK (R541): one that repeats the NAK of the replay under way is ignored. -/
def takeNak (now : Nat) (a : BitVec 12) (x : Girth) : Girth :=
  if !x.resend.isEmpty && x.nakAt == some a then x else if x.buf.isEmpty then x else startReplay now (some a) x

/-- No advance of ACK_SEQ for 512 GRT cycles with flits unacknowledged (R541). 256 ns are 31.46 ticks. -/
def execGrtReplayTimeout (g : Fin 2) (s : State) : Host.Outcome State Fault Refusal :=
  let x := getGirth s g.val
  if x.state = .active ∧ x.buf.isEmpty = false ∧ x.resend.isEmpty = true ∧ 256000 ≤ (s.now - x.ackAt) * 8138 then
    .next (modGirth s g.val (startReplay s.now none))
  else .next s

/-! ### Training phases (R534, R535, R544) -/

/-- CLASS, FORMAT and the receive buffers of a peer's PARAM are acceptable (R534, R544). -/
def paramOk (m : GirthParam) : Bool :=
  m.cls == 2 && m.format == 1 && (List.range 4).all (fun v => decide (leastCredits v ≤ (m.credInit.getD v 0).toNat))

/-- A retrain's PARAM names the same die (R535). -/
def sameDie (a b : GirthParam) : Bool := a.cls == b.cls && a.vendor == b.vendor && a.caps == b.caps && a.dieId == b.dieId

/-- LAT: the mean of the eight halves of arrival less launch less turnaround, rounded down (R535). -/
def latencyOf (m : GirthParam) : Byte :=
  BitVec.ofNat 8 (m.pongs.foldl (fun n x => n + (x.1 - x.2.1 - x.2.2.setWidth 64).toNat) 0 / 16)

/-- The link is ACTIVE: after full training with fresh sequences and credits, after a retrain with a resend from the
peer's NEXT_SEQ (R535, R539, R543). A TIME message with STEP follows a retrain (R550, R572). -/
def linkActive (s : State) (g : Nat) (m : GirthParam) : State :=
  let x := getGirth s g
  let s := modGirth s g (fun x => { x with
    state := .active, phase := .none, txScr := laneStart, rxScr := laneStart, lat := latencyOf m, failRun := 0, activeAt := some s.now, timeDue := !x.full, ackAt := s.now })
  if x.full then modGirth s g (fun x => { x with
      peer := some m, txSeq := 0, rxSeq := 0, ackValid := false, acked := 0xFFF, used := [],
      limit := (List.range 4).foldl (fun t v => tset 0 t v (m.credInit.getD v 0)) [],
      granted := (List.range 4).foldl (fun t v => tset 0 t v (ownCredits v)) [] })
  else
    let s := modGirth s g (fun x => ackFlits s.now (m.nextSeq - 1) x)
    samplesLost (modGirth s g (fun x => { x with resend := x.buf.map (·.seq), nakAt := none })) g

/-- A training failed (R87): a full one at once, a retrain after three in a row. -/
def trainingFailed (s : State) (g : Nat) (cause : BitVec 4) : State :=
  let x := getGirth s g
  if x.full ∨ cause = 4 then girthFail s g cause
  else if 2 ≤ x.failRun then girthFail s g 6
  else startRetrain (modGirth s g (fun x => { x with failRun := x.failRun + 1 })) g 3

/-- What can go wrong in a phase of itself: the clocks, the lanes, or its bound (R534). -/
def phaseCause (ph : GirthPhase) (cause : BitVec 4) : Bool := match ph with
  | .none => false
  | .clock => cause == 1 || cause == 5
  | .param => cause == 5
  | _ => cause == 2 || cause == 5

/-- The compute die's PARAM body (Table 15-5). -/
def ownParam (x : Girth) : List Byte :=
  [1, 1] ++ bytesOf Config.ownVendor ++ leBytes 2 1 ++ leBytes 2 0 ++ (List.range 4).flatMap (fun v => bytesOf (ownCredits v))
    ++ bytesOf Config.ownDieId ++ bytesOf (x.rxSeq.setWidth 16 : W16)

/-- A PING body with the launch count of a free value (R538). -/
def pingBody (n : Nat) : List Byte := [2, 0, 0, 0, 0, 0, 0, 0] ++ bytesOf (Config.freeWord n)

/-- PARAM begins: the faulty lanes are replaced, PARAM and eight PINGs wait, and the lane scramblers are loaded
(notes/assumptions/46.md). -/
def beginParam (s : State) (g : Nat) (faulty : List (Option (Fin 32))) : State :=
  modGirth { s with free := s.free + 8 } g (fun x => { x with
    phase := .param, faulty := faulty, txScr := laneStart, rxScr := laneStart,
    ctrlQ := ownParam x :: (List.range 8).map (fun k => pingBody (s.free + k)) })

/-- The end of a training phase (Table 15-3): `failCause` is what went wrong in it, `param` what the peer's PARAM and the
measurements gave. -/
def girthPhaseEnd (s : State) (g : Nat) (failCause : BitVec 4) (param : GirthParam) : State :=
  let x := getGirth s g
  if x.state ≠ .training ∧ x.state ≠ .retrain then s
  else if phaseCause x.phase failCause then trainingFailed s g failCause
  else match x.phase with
    | .none => s
    | .clock => modGirth s g (fun x => { x with phase := .pattern })
    | .pattern => modGirth s g (fun x => { x with phase := .repair })
    | .repair => beginParam s g param.faulty
    | .param =>
      if !paramOk param then trainingFailed s g 3
      else if !x.full && !(x.peer.any (sameDie param)) then trainingFailed s g 4
      else linkActive s g param

/-! ### Flits received (R537, R540 to R543) -/

/-- The CRC of a flit's bytes 0x00 to 0xFD (R537). -/
def flitCrc (b : List Byte) : W16 := crcMsb (0x1021 : BitVec 16) 0xFFFF ((b.take 254).flatMap bitsMsb)

/-- The messages in a payload's chunks (R547). -/
def messagesIn : Nat → List Byte → List (List Byte)
  | 0, _ => []
  | n + 1, b =>
    if b.length < 16 then []
    else let len := 16 + 16 * (bits (u8 b 1) 0 3).toNat; b.take len :: messagesIn n (b.drop len)

/-- A MSG flit with a good CRC (R540). -/
def takeFlit (x : Girth) (b : List Byte) : Girth :=
  let d := (bits (u16 b 2) 0 12 - x.rxSeq).toNat
  let vc := (bits (u8 b 1) 0 2).toNat
  if d = 0 then
    let ms := messagesIn 15 (slice b 0x0E (16 * (bits (u8 b 1) 2 4).toNat))
    { x with
      rxSeq := x.rxSeq + 1, ackValid := true, granted := if ms.isEmpty then tmod 0 x.granted vc (· + 1) else x.granted,
      inQ := x.inQ ++ ms.map (fun m => { seq := x.rxSeq, vc := vc, bytes := m }) }
  else if d < 2048 then { x with nakDue := true }
  else { x with dup := satInc x.dup }

/-- What every flit with a good CRC carries: acknowledgement, NAK and credit (R541, R542). -/
def flitFields (now : Nat) (x : Girth) (b : List Byte) : Girth :=
  let w := u16 b 4
  let a := bits w 0 12
  let x := if bit w 15 || bit w 14 then ackFlits now a x else x
  let x := if bit w 14 then takeNak now a x else x
  if bit (u8 b 6) 7 then
    let vc := (bits (u8 b 6) 0 2).toNat
    { x with limit := tmod 0 x.limit vc (fun l => serialMax l (u16 b 8)) }
  else x

/-- The PONG to a PING: its launch count and the turnaround, which is the device's to take (R538). -/
def answerPing (s : State) (g : Nat) (flit : List Byte) : State :=
  drew (modGirth s g (fun x => { x with
    ctrlQ := x.ctrlQ ++ [[3, 0, 0, 0, 0, 0, 0, 0] ++ slice flit 0x16 8 ++ bytesOf ((draw s).setWidth 32 : W32)] }))

/-- A flit arrives on the data lanes (R533, R536, R538, R540). Before ACTIVE only a PING of PARAM counts. -/
def execGrtFlitRx (g : Fin 2) (lanes : List (List Bool)) (s : State) : Host.Outcome State Fault Refusal :=
  let g := g.val
  if (getGirth s g).phase = .param then
    let flit := flitFrom (getGirth s g).rxScr lanes
    let s := modGirth s g (fun x => { x with rxScr := (laneRun 32 x.rxScr).2 })
    .next (if flitCrc flit = u16 flit 0xFE ∧ bits (u8 flit 0) 0 2 = 2 ∧ u8 flit 0x0E = 2 then answerPing s g flit else s)
  else if (getGirth s g).state ≠ .active then .next s
  else
    let flit := flitFrom (getGirth s g).rxScr lanes
    let s := modGirth s g (fun x => { x with rxFlits := x.rxFlits + 1, rxScr := (laneRun 32 x.rxScr).2 })
    if flitCrc flit ≠ u16 flit 0xFE then
      let s := modGirth s g (fun x => { x with
        crcErr := satInc x.crcErr, nakDue := true,
        crcTimes := (s.now :: x.crcTimes.filter (fun t => decide (s.now - t < 12288))).take 64 })
      .next (if 64 ≤ (getGirth s g).crcTimes.length then startRetrain s g 2 else s)
    else
      let s := modGirth s g (fun x => flitFields s.now x flit)
      match (bits (u8 flit 0) 0 2).toNat with
      | 1 => .next (modGirth s g (fun x => takeFlit x flit))
      | 2 =>
        match (u8 flit 0x0E).toNat with
        | 2 => .next (answerPing s g flit)
        | 4 => .next (startRetrain s g 4)
        | _ => .next s
      | _ => .next s

/-! ### Flits sent (R537, R539, R541, R543, R545) -/

/-- A flit's 256 bytes: type, channel and chunks, SEQ, payload, with the acknowledgement and credit of now. -/
def flitBytes (x : Girth) (type : Byte) (vcch : Byte) (seq : W16) (payload : List Byte) : List Byte :=
  let ack : W16 := (x.rxSeq - 1).setWidth 16 ||| flag 16 14 x.nakDue ||| flag 16 15 x.ackValid
  let head := [type, vcch] ++ bytesOf seq ++ bytesOf ack ++ [BitVec.ofNat 8 (x.credRot % 4) ||| 0x80, 0]
    ++ bytesOf (tget 0 x.granted (x.credRot % 4)) ++ [0, 0, 0, 0] ++ padTo 240 payload
  head ++ bytesOf (flitCrc head)

/-- A flit goes out; its NAK and credit block are sent with it. -/
def putFlit (s : State) (g : Nat) (bytes : List Byte) : State :=
  let x := getGirth s g
  emit (modGirth s g (fun x => { x with
    nakDue := false, credRot := (x.credRot + 1) % 4, txFlits := x.txFlits + 1, txScr := (laneRun 32 x.txScr).2 }))
    (.flit g bytes (flitWires (x.faulty.drop 2) x.txScr bytes))

/-- The first messages of a queue that fit 15 chunks. -/
def fitMessages : Nat → List (List Byte) → List (List Byte)
  | _, [] => []
  | room, m :: ms => if m.length ≤ room then m :: fitMessages (room - m.length) ms else []

/-- Whether a channel may send a new flit (R539, R543). -/
def vcReady (x : Girth) (vc : Nat) : Bool :=
  let room := (tget 0 x.limit vc - tget 0 x.used vc).toNat
  !(tget [] x.outQ vc).isEmpty && decide (1 ≤ room) && decide (room < 2 ^ 15) && decide (x.buf.length < 128)

/-- A new MSG flit of a channel. -/
def sendVc (s : State) (g vc : Nat) : State :=
  let x := getGirth s g
  let q := tget [] x.outQ vc
  let ms := fitMessages 240 q
  let payload := ms.flatten
  let f : Flit := { seq := x.txSeq, vc := vc, chunks := payload.length / 16, payload := payload, sends := 1 }
  let bytes := flitBytes x 1 (BitVec.ofNat 8 (vc + 4 * f.chunks)) (x.txSeq.setWidth 16) payload
  let s := modGirth s g (fun x => { x with
    outQ := tset [] x.outQ vc (q.drop ms.length), txSeq := x.txSeq + 1, used := tmod 0 x.used vc (· + 1), buf := x.buf ++ [f],
    ackAt := if x.buf.isEmpty then s.now else x.ackAt, rr := if vc = 3 then x.rr else vc })
  putFlit s g bytes

/-- A flit sent again (R541), or a retrain where it would be its fourth sending (R536). -/
def sendReplay (s : State) (g : Nat) (q : BitVec 12) : State :=
  let x := getGirth s g
  match x.buf.find? (fun f => f.seq == q) with
  | none => modGirth s g (fun x => { x with resend := x.resend.drop 1 })
  | some f =>
    if 3 ≤ f.sends then startRetrain s g 1
    else
      let bytes := flitBytes x 5 (BitVec.ofNat 8 (f.vc + 4 * f.chunks)) (q.setWidth 16) f.payload
      let s := modGirth s g (fun x => { x with
        resend := x.resend.drop 1, nakAt := if x.resend.length ≤ 1 then none else x.nakAt,
        buf := x.buf.map (fun y => if y.seq = q then { y with sends := y.sends + 1 } else y) })
      putFlit s g bytes

/-- The channels of the round robin after the last served: RSP, PST, REQ. -/
def rrOrder (last : Nat) : List Nat := match last with | 1 => [2, 0, 1] | 2 => [0, 1, 2] | _ => [1, 2, 0]

/-- A flit slot begins (R545); in PARAM only CTRL and IDLE flits go out. -/
def execGrtFlitSlot (g : Fin 2) (s : State) : Host.Outcome State Fault Refusal :=
  let g := g.val
  let x := getGirth s g
  if x.phase = .param then match x.ctrlQ with
    | b :: rest => .next (putFlit (modGirth s g (fun x => { x with ctrlQ := rest })) g (flitBytes x 2 0 0 b))
    | [] => .next (putFlit s g (flitBytes x 0 0 0 []))
  else if x.state ≠ .active then .next s
  else match x.resend, x.ctrlQ with
    | q :: _, _ => .next (sendReplay s g q)
    | [], b :: rest => .next (putFlit (modGirth s g (fun x => { x with ctrlQ := rest })) g (flitBytes x 2 0 0 b))
    | [], [] =>
      match (if vcReady x 3 then some 3 else (rrOrder x.rr).find? (vcReady x)) with
      | some vc => .next (sendVc s g vc)
      | none => .next (putFlit s g (flitBytes x 0 0 0 []))

/-! ### The time channel (R550, R551) -/

/-- Whether a TIME message reports a step, an ATM_EPOCH load or a retrain (R550). -/
def timeStep (s : State) (g : Nat) : Bool :=
  let x := getGirth s g
  x.timeDue || decide (x.timeSteps ≠ s.air.steps) || decide (x.timeLoads ≠ s.air.loads)

/-- A TIME message goes out on one of its occasions (R550). -/
def execTimeSend (g : Fin 2) (s : State) : Host.Outcome State Fault Refusal :=
  let g := g.val
  let step := timeStep s g
  let regular := decide (s.air.tick.toNat % 1024 = 0) && (getGirth s g).timeAt != some s.air.abs
  if (getGirth s g).state = .active ∧ (step || regular) = true then
    let s' := modGirth s g (fun x => { x with timeAt := some s.air.abs, timeDue := false, timeSteps := s.air.steps, timeLoads := s.air.loads })
    .next (emit s' (.time g (airStamp s.air) step (refCode s.air.state) (BitVec.ofNat 32 (holdEst s)) (BitVec.ofInt 64 s.air.corr)))
  else .next s

/-- A TIME message arrives at an I/O die whose count reads `count` (R551). -/
def execTime (iod : Fin 2) (stamp : W64) (replayed : Bool) (count : W64) (s : State) : Host.Outcome State Fault Refusal :=
  if replayed then .next s
  else
    let e := BitVec.ofNat 64 (stampCount stamp) + BitVec.ofNat 64 (((getGirth s iod.val).lat.toNat * 49152 + 50000) / 100000)
    let s := modIod s iod.val (fun d => { d with
      count := e, countAt := s.now, corr := BitVec.ofInt 64 s.air.corr, refState := refCode s.air.state,
      holdEst := BitVec.ofNat 32 (holdEst s) })
    .next (if 1 < (count - e).toInt.natAbs then modGirth s iod.val (fun x => { x with timeAdj := satInc x.timeAdj }) else s)

/-- A TACT arrives (R547): the action waits to take effect at its unit; one that meets a link not ACTIVE is dropped and
counted (R572). -/
def execTact (iod : Fin 2) (port : Fin 4) (action : BitVec 6) (stamp : W64) (s : State) : Host.Outcome State Fault Refusal :=
  if (getGirth s iod.val).state = .active then
    .next (modIod s iod.val (fun d => { d with tacts := d.tacts ++ [(port.val, action, stamp)] }))
  else
    let s := match issuedAct s action (BitVec.ofNat 8 port.val) (fun _ => true) with
      | some a => modAir s (fun x => { x with issued := x.issued.erase a })
      | none => s
    .next (modTth s port.val (fun t => { t with timeSkip := satInc t.timeSkip }))

/-! ### Converter links (R91, R556, R557, R570, R573) -/

/-- The place of an edge modulo 512 eighths, steps of the air clock taken out (R572). -/
def sysrefPlace (s : State) (stamp : W64) : BitVec 9 := BitVec.ofNat 9 (stampCount stamp) - s.air.shift

/-- A SYSREF edge fixes the LEMC boundaries, or is held against them (R556, R557). -/
def execSysrefEdge (iod : Fin 2) (stamp : W64) (s : State) : Host.Outcome State Fault Refusal :=
  let d := iod.val
  let io := getIod s d
  let place := sysrefPlace s stamp
  if bit io.cfg 2 = false then .next s
  else
    let fixed := (io.realign || io.sysref.isNone) && !io.misalign
    if fixed then
      .next (modIod s d (fun io => { io with
        sysref := some place, realign := false, aligned := true,
        lemc := BitVec.ofNat 6 ((stampCount stamp + 7) / 8 + (bits io.cfg 8 6).toNat) }))
    else
      let off := (place - io.sysref.getD 0).toNat
      if 4 < off ∧ off < 508 then
        let s := modIod s d (fun io => { io with misalign := true, misSeen := true })
        .next (linkLost (report s { code := 0x4008, kind := 0xC, unit := BitVec.ofNat 8 d, data := [BitVec.ofNat 8 d] }) d)
      else .next s

/-- RXC_LINK_CFG.RESYNC: alignment waits for the next SYSREF edge (R556, R557). -/
def resyncOp (d : Nat) (s : State) : State :=
  linkLost (modIod s d (fun io => { io with misalign := false, realign := true, aligned := false, sysref := none })) d
def execRxcResync (iod : Fin 2) (s : State) : Host.Outcome State Fault Refusal := .next (mgmt (resyncOp iod.val) s)

/-- A converter lane loses synchronisation (R573), after header and CRC errors that RXC_LANE_ERR counts (R570). -/
def execJesdLaneLoss (iod : Fin 2) (lane : BitVec 4) (errors : W32) (s : State) : Host.Outcome State Fault Refusal :=
  let d := iod.val
  let s := modIod s d (fun io => { io with
    lanes := setBit io.lanes lane.toNat false, laneErr := satAdd io.laneErr errors.toNat })
  let s := report s { code := 0x4009, kind := 0xC, unit := BitVec.ofNat 8 d, data := [lane.setWidth 8] }
  .next (linkLost s d)

/-- A converter lane gains synchronisation (R570). -/
def execJesdLaneSync (iod : Fin 2) (lane : BitVec 4) (s : State) : Host.Outcome State Fault Refusal :=
  .next (modIod s iod.val (fun io => { io with lanes := setBit io.lanes lane.toNat true }))

/-- The converter clock's ratio to air time has been off by more than 1 ppm for 1 ms (R91). -/
def execCnvRatioFault (iod : Fin 2) (ppb : W32) (s : State) : Host.Outcome State Fault Refusal :=
  let d := iod.val
  if (getIod s d).ratioBad then .next s
  else
    let s := modIod s d (fun io => { io with ratioBad := true })
    let s := report s { code := 0x400A, kind := 0xC, unit := BitVec.ofNat 8 d, data := [BitVec.ofNat 8 d] ++ bytesOf ppb }
    .next (linkLost s d)

def execCnvRatioRestored (iod : Fin 2) (s : State) : Host.Outcome State Fault Refusal :=
  .next (modIod s iod.val (fun io => { io with ratioBad := false }))

end Sys2Proof.Machine
end

