-- ==== Sys2Proof/Machine/Reports.lean ====
section
/-!
DEFINITION. Slot reports of carriers (R431 to R436): what a report holds, when it is written, the DEADLINE entry and
the end of a report.
-/
namespace Sys2Proof.Machine

/-! ### What a report holds (Tables 12-9 to 12-12) -/

/-- Whether a slot's frame is lengthened or shortened (R44). -/
def slotStepped (a : Air) (sl : SlotRec) : Bool := if a.frameAbs ≤ sl.start then a.stretched else a.prevStretched

def blocksOf (sl : SlotRec) (u : Nat) : List BlockRec := sl.blocks.filter (fun b => b.user == u)
def passedOf (bs : List BlockRec) : Nat := bs.countP (·.ok)

/-- The signal quality of user `u`: SNR less the REQ of its code (R433). -/
def userLq (s : State) (c : Nat) (u : PlanUser) (snr : Nat) : Int :=
  (snr : Int) - (((codeOf s c u.code).map (fun r => r.req.getD (u.bits / 2 - 1) 0)).getD 0)

/-- Bit b: block b failed or was not decoded. -/
def failMask (bs : List BlockRec) : Nat := (bs.filter (fun b => !b.ok)).foldl (fun m b => m + 2 ^ b.block) 0

/-- A user record. -/
def userRecord (s : State) (c : Nat) (sl : SlotRec) (n : Nat) (u : PlanUser) : List Byte :=
  let bs := blocksOf sl n
  let m := (sl.meas.getD []).getD n (0, 0)
  bytesOf u.id ++ leBytes 2 u.blocks ++ leBytes 2 (passedOf bs) ++ leBytes 2 (min 65535 (bs.foldl (fun k b => k + b.fixed) 0))
    ++ leBytes 2 m.1 ++ leBytes 2 m.2 ++ bytesOf (BitVec.ofInt 16 (userLq s c u m.2))
    ++ [BitVec.ofNat 8 (bs.foldl (fun k b => max k b.iters) 0), 0]
    ++ leBytes 4 u.pay ++ leBytes 4 (u.blocks * (((codeOf s c u.code).map blockBytes).getD 0)) ++ leBytes 8 0
    ++ leBytes 32 (failMask bs)

/-- The least LQ of a slot's users; 0x8000 if none. -/
def leastLq (s : State) (c : Nat) (sl : SlotRec) : BitVec 16 :=
  let qs := sl.users.zipIdx.map (fun x => userLq s c x.1 ((sl.meas.getD []).getD x.2 (0, 0)).2)
  match qs with
  | [] => 0x8000
  | q :: qs => BitVec.ofInt 16 (qs.foldl min q)

/-- Whether a report overwrites one not yet consumed (R436). -/
def overwrites (cfg : CarrierCfg) (ca : Carrier) : Bool :=
  let d := (ca.repSeq - ca.repHead).toNat
  decide (2 ^ cfg.ringLog2 ≤ d) && decide (d < 2 ^ 31)

def hasGuarantee (s : State) (sl : SlotRec) : Bool := !sl.noGuarantee && calm s && !slotStepped s.air sl

/-- The flags (Table 12-12). -/
def reportFlags (s : State) (cfg : CarrierCfg) (ca : Carrier) (sl : SlotRec) (status : Nat) : BitVec 16 :=
  flag 16 0 (slotStepped s.air sl) ||| flag 16 1 sl.reset
    ||| flag 16 2 (decide (16 ≤ status) && sl.blocks.any (·.decoded)) ||| flag 16 3 (hasGuarantee s sl)
    ||| flag 16 4 sl.agcFrozen ||| flag 16 5 sl.gainSat ||| flag 16 6 (overwrites cfg ca)

/-- The report header. GEN of a slot without a symbol-0 start record, and WSET of one without a CE invocation, are stated
nowhere: `fr` stands for them. Without a sample the gain codes are those in force. -/
def reportHeader (s : State) (c : Nat) (cfg : CarrierCfg) (sl : SlotRec) (status : Nat) (fr : W64) (users : List Byte) : List Byte :=
  let ca := getCarrier s c
  let gains := (List.range cfg.streams).map (fun a => (getStream ca a).gain.toNat)
  let none' := sl.gainMax < sl.gainMin
  let gmin := if none' then gains.foldl min 255 else sl.gainMin.toNat
  let gmax := if none' then gains.foldl max 0 else sl.gainMax.toNat
  let h := leBytes 2 sl.frame.toNat ++ [BitVec.ofNat 8 sl.slot, BitVec.ofNat 8 c] ++ leBytes 4 sl.hyper.toNat
    ++ bytesOf ca.repSeq ++ [BitVec.ofNat 8 status, BitVec.ofNat 8 sl.users.length]
    ++ bytesOf (reportFlags s cfg ca sl status) ++ bytesOf sl.lastSample ++ bytesOf s.air.abs ++ bytesOf sl.planId
    ++ leBytes 2 sl.blocks.length ++ leBytes 2 (passedOf sl.blocks) ++ bytesOf (leastLq s c sl)
    ++ [if sl.begun then sl.gen else bits fr 0 8, sl.wset.getD (bits fr 8 8), BitVec.ofNat 8 gmin, BitVec.ofNat 8 gmax]
    ++ leBytes 14 0
  h ++ bytesOf (crc32c (h ++ users))

/-- The code of a failed slot's fault (Table 17-4). -/
def statusCode (status : Nat) : Option W16 :=
  match status with
  | 0x10 => some 0x3001
  | 0x11 => some 0x3002
  | 0x12 => some 0x3003
  | 0x13 => some 0x3004
  | 0x16 => some 0x3005
  | _ => none

/-! ### Writing a report (R431, R436) -/

/-- What a report counts at its carrier. -/
def countReport (cfg : CarrierCfg) (sl : SlotRec) (status : Nat) (ca : Carrier) : Carrier :=
  let ok := passedOf sl.blocks
  { ca with
    lastStatus := BitVec.ofNat 8 status, repSeq := ca.repSeq + 1, slotsCnt := ca.slotsCnt + 1,
    blkOk := ca.blkOk + BitVec.ofNat 64 ok, blkFail := ca.blkFail + BitVec.ofNat 64 (sl.blocks.length - ok),
    miss := if status = 0x10 then satInc ca.miss else ca.miss,
    failed := if 0x11 ≤ status then satInc ca.failed else ca.failed,
    noPlan := if status = 2 then satInc ca.noPlan else ca.noPlan,
    overwrite := if overwrites cfg ca then satInc ca.overwrite else ca.overwrite }

/-- A slot's report is written: user records, then the header; a failed slot is a carrier fault (R434, R442). -/
def issueReport (s : State) (c i : Nat) (cfg : CarrierCfg) (start status : Nat) : State :=
  let s := match (getCarrier s c).slots.find? (fun sl => sl.start == start) with
    | some sl => if sl.meas.isNone then measure s c i cfg sl else s
    | none => s
  match (getCarrier s c).slots.find? (fun sl => sl.start == start) with
  | none => s
  | some sl =>
    let users := sl.users.zipIdx.flatMap (fun x => userRecord s c sl x.2 x.1)
    let head := reportHeader s c cfg sl status (draw s) users
    let g := hasGuarantee s sl
    let x := cfg.repOff + 2048 * ringEntry s c cfg sl
    let s := regionWrite (regionWrite (drew s) i (x + 64) users false) i x head false
    let s := tapReported (modCarrier s c (countReport cfg sl status)) c start status sl.users
    let s := modSlots s c (fun y => y.start == start) (fun y => { y with issued := true })
    match statusCode status with
    | some code => report s {
        code := code, stall := some (BitVec.ofNat 4 i), kind := 0xD, unit := BitVec.ofNat 8 c, guarantee := g,
        data := leBytes 2 sl.frame.toNat ++ [BitVec.ofNat 8 sl.slot, BitVec.ofNat 8 status] ++ leBytes 2 (passedOf sl.blocks) }
    | none => s

/-- The causes that apply to a slot now: what was found, and a block whose engine is lost (R432, Table 12-11). -/
def allCauses (s : State) (c : Nat) (sl : SlotRec) : List Nat :=
  sl.causes ++ (if sl.blocks.any (blockLost s (getCarrier s c)) then [0x11] else [])

/-- The lowest cause; a slot not complete at its DEADLINE without another cause has missed it. -/
def cutStatus (causes : List Nat) : Nat := match causes with
  | [] => 0x10
  | x :: xs => xs.foldl min x

/-- A slot cut at its DEADLINE (R434): its invocation and blocks stop, and its report is written. -/
def cutSlot (s : State) (c i : Nat) (cfg : CarrierCfg) (start : Nat) (guarantee : Bool) : State :=
  match (getCarrier s c).slots.find? (fun sl => sl.start == start) with
  | none => s
  | some sl =>
    if sl.issued || sl.done then s
    else
      let s := modCarrier s c (fun ca => { ca with
        inv := ca.inv.filter (fun v => !isSlot v.frame v.slot sl) })
      let s := if guarantee then s else modSlots s c (fun x => x.start == start) (fun x => { x with noGuarantee := true })
      issueReport s c i cfg start (cutStatus (allCauses s c sl))

/-- Unreported slots of a carrier that began before a moment. -/
def earlierSlots (ca : Carrier) (start : Nat) : List Nat :=
  (ca.slots.filter (fun sl => decide (sl.start < start) && !sl.issued && !sl.done && ca.first.any (fun f => decide (f ≤ sl.start)))).map (·.start)

/-- DEADLINE (R434): slots whose own DEADLINE was lost are cut first, without GUARANTEE (Table 17-6); the report of a
shed carrier's slot is written with SHED (R432). A complete slot's record is forgotten. -/
def execDeadline (carrier : Fin 8) (slot : BitVec 6) (prevFrame : Bool) (s : State) : Host.Outcome State Fault Refusal :=
  let c := carrier.val
  match takeAct s 2 (BitVec.ofNat 8 c) (fun a => bits a 0 6 == slot && bit a 6 == prevFrame), carrierCfg s c, carrierStall s c with
  | some (g, s), some cfg, some i =>
    let p := actPlace s c g slot.toNat prevFrame
    let start := p.start
    if (getCarrier s c).first.any (fun f => decide (f ≤ start)) then
      let s := (earlierSlots (getCarrier s c) start).foldl (fun s x => cutSlot s c i cfg x false) s
      let s := judgeSlot (touchPlace s c p) c i cfg start
      match (getCarrier s c).slots.find? (fun sl => sl.start == start) with
      | none => .next s
      | some sl =>
        if sl.done then .next (modCarrier s c (fun ca => { ca with slots := ca.slots.filter (fun x => x.start != start) }))
        else if !sl.begun && slotShed (getCarrier s c) start then
          .next (cutSlot (modSlots s c (fun x => x.start == start) (addCause 0x15)) c i cfg start true)
        else .next (cutSlot s c i cfg start sl.begun)
    else .next s
  | some (_, s), _, _ => .next s
  | none, _, _ => .next s

/-- The slot whose report is due first. -/
def firstDue (ca : Carrier) : Option SlotRec :=
  (ca.slots.filter (fun sl => !sl.done && ca.first.any (fun f => decide (f ≤ sl.start)))).foldl (fun b x => match b with
    | none => some x
    | some y => if x.start < y.start then some x else some y) none

/-- Whether a slot's report is due: its blocks have ended and no cause stands (R431, R433). -/
def reportDue (s : State) (c : Nat) (cfg : CarrierCfg) (sl : SlotRec) : Bool :=
  slotRuns sl && llrEnded s c cfg sl && blocksEnded s (getCarrier s c) sl && (allCauses s c sl).isEmpty

def okStatus (sl : SlotRec) : Nat :=
  if sl.planStatus ≠ 0 then sl.planStatus else if sl.blocks.all (·.ok) then 0 else 1

/-- REPORT_COMPLETE (R431, R435): reports complete in slot order. A slot whose blocks have all ended has its report
written and acknowledged; one cut at its DEADLINE is acknowledged. The carrier's report source is raised. -/
def execReportComplete (carrier : Fin 8) (s : State) : Host.Outcome State Fault Refusal :=
  let c := carrier.val
  match carrierCfg s c, carrierStall s c, firstDue (getCarrier s c) with
  | some cfg, some i, some sl =>
    let src : W16 := BitVec.ofNat 16 (0x0400 + c)
    let s := unquiet s (getCarrier s c).array
    if sl.issued then
      .next (raiseSource (modCarrier s c (fun ca => { ca with slots := ca.slots.filter (fun x => x.start != sl.start) })) src)
    else if reportDue s c cfg sl then
      let s := issueReport s c i cfg sl.start (okStatus sl)
      .next (raiseSource (modSlots s c (fun x => x.start == sl.start) (fun x => { x with done := true })) src)
    else .next s
  | _, _, _ => .next s

end Sys2Proof.Machine
end

