-- ==== Sys2Proof/Machine/School.lean ====
section
/-!
DEFINITION. Schooling (ch. 13): steps, taps and quiet points (R452 to R458), the local rule and the generator (R459 to
R462), trial and commit (R463 to R465), the non-volatile weight bank (R466 to R470) and the host's operations (R471,
R472).
-/
namespace Sys2Proof.Machine

/-! ### Access -/

def getSe (s : State) (e : Nat) : SchoolE := tget {} s.school.engines e
def modSe (s : State) (e : Nat) (f : SchoolE → SchoolE) : State :=
  { s with school := { s.school with engines := tmod {} s.school.engines e f } }
def modSchool (s : State) (f : School → School) : State := { s with school := f s.school }

/-- A network record with the network it schools. -/
def schoolCfg (s : State) (r : Nat) : Option (SchoolCfg × NetCfg) :=
  (s.hns.schoolNets[r]?).bind (fun cfg => (netOf s cfg.net).map (fun n => (cfg, n)))

/-- The network records of an engine. -/
def recordsOf (s : State) (e : Nat) : List Nat :=
  (List.range 32).filter (fun r => (s.hns.schoolNets[r]?).any (fun cfg => cfg.engine == e))

def netStall (s : State) (n : NetCfg) : Nat := (carrierStall s n.carrier).getD 0
def netArray (s : State) (n : NetCfg) : Nat := (getCarrier s n.carrier).array

/-- The byte of the region at which a set area begins: the committed one, or the other (R450). -/
def areaOf (s : State) (r : Nat) (cfg : SchoolCfg) (n : NetCfg) (committed : Bool) : Nat :=
  setArea cfg n.wLen (if committed then (getNet s r).committed else !(getNet s r).committed)
def areaRead (s : State) (r : Nat) (cfg : SchoolCfg) (n : NetCfg) (committed : Bool) : List Byte :=
  regionRead s (netStall s n) (areaOf s r cfg n committed) n.wLen
def areaWrite (s : State) (r : Nat) (cfg : SchoolCfg) (n : NetCfg) (committed : Bool) (bs : List Byte) : State :=
  regionWrite s (netStall s n) (areaOf s r cfg n committed) bs false

/-- Every schooled code's place: layer, K position and column, in the order of R460. -/
def places (cfg : SchoolCfg) : List (SchoolLayer × Nat × Nat) :=
  cfg.layers.flatMap (fun l => (List.range l.k).flatMap (fun k => (List.range l.n).map (fun i => (l, k, i))))

/-- The offset of a code in the weight set: its weight package's blocks of 1,024 bytes and scale segments (R249). -/
def placeCode (p : SchoolLayer × Nat × Nat) : Nat :=
  let ks := ceilDiv p.1.k 32
  p.1.wLoc + p.2.2 / 32 * (ks * 1024 + 64) + p.2.1 / 32 * 1024 + p.2.2 % 32 * 32 + p.2.1 % 32

/-- The schooled codes of a set, by place. -/
def codesOf (cfg : SchoolCfg) (set : List Byte) : List Byte :=
  let a := set.toArray
  (places cfg).map (fun p => a.getD (placeCode p) 0)

/-- A table by place from a list. -/
def byPlace (bs : List Byte) : Table Byte := (bs.zipIdx.filter (fun x => x.1 != 0)).map (fun x => (x.2, x.1))

/-- SCL_EVENT of a network record (Table 17-5). -/
def sclSource (r : Nat) : W16 := BitVec.ofNat 16 (0x0C00 + r)

/-- The event of a schooling happening (Table 17-4). -/
def schoolEvent (s : State) (r : Nat) (cfg : SchoolCfg) (n : NetCfg) (what : Byte) : State :=
  report s { code := 7, stall := some (BitVec.ofNat 4 (netStall s n)), kind := 7, unit := BitVec.ofNat 8 cfg.engine,
             src := some (sclSource r),
             data := [what, BitVec.ofNat 8 cfg.net] ++ bytesOf (getNet s r).commitGen }

/-- SCL_XFER_STS of a stall (Table 13-11). -/
def xferSts (s : State) (i : Nat) (st : BitVec 2) (reason : Byte) : State :=
  modSchool s (fun y => { y with xferState := tset 0 y.xferState i st, xferReason := tset 0 y.xferReason i reason })

/-- SCL_XFER_STS reaches DONE, or REFUSED for a reason, which raises SCL_EVENT (Table 17-5). -/
def xferEnds (s : State) (r i : Nat) (reason : Byte) : State :=
  raiseSource (xferSts s i (if reason = 0 then 2 else 3) reason) (sclSource r)

/-! ### States (Table 13-5) -/

/-- Entering INSTALL_BACK. -/
def enterBack (x : SchoolNet) : SchoolNet := { x with state := 4, taps := 0 }

/-- HELD is entered, and a pending HOLD has done its work. -/
def enterHeld (x : SchoolNet) : SchoolNet :=
  { x with state := 5, taps := 0, holdAsked := false, tap := none, tapBuf := [], outBuf := [], build := false,
           xferEnd := if x.holdAsked then some 0 else x.xferEnd }

/-- LEARN, or HELD where a HOLD waits for it or the engine is out of service (R476). -/
def learnOrHold (out : Bool) (x : SchoolNet) : SchoolNet := if x.holdAsked || out then enterHeld x else enterLearn x

/-- Actions of a network, armed or under way on its array. -/
def hasAction (s : State) (r : Nat) : Bool :=
  s.school.actions.any (fun a => a.1 == r) || s.school.running.any (fun x => x.2.any (fun a => a.1 == r))
def arm (s : State) (r : Nat) (a : SchoolAct) : State := modSchool s (fun x => { x with actions := x.actions ++ [(r, a)] })
def dropActions (s : State) (r : Nat) (p : SchoolAct → Bool) : State :=
  let goes (a : Nat × SchoolAct) : Bool := a.1 == r && p a.2
  modSchool s (fun x => { x with
    actions := x.actions.filter (fun a => !goes a), running := x.running.filter (fun y => !y.2.any goes) })

/-- The actions of a candidate: its write and its install. -/
def ofCandidate : SchoolAct → Bool
  | .candWrite => true
  | .install c => c
  | _ => false

/-- Whether an engine is still processing a tap or building a candidate (R452). -/
def seBusy (s : State) (e : Nat) : Option Nat :=
  (recordsOf s e).find? (fun r => !(getNet s r).tapBuf.isEmpty || (getNet s r).build)

/-! ### Copies of the bank (R466 to R470) -/

/-- A weight copy's header over a set (Table 13-8). -/
def copyBytes (s : State) (r : Nat) (cfg : SchoolCfg) (n : NetCfg) (set : List Byte) : List Byte :=
  let x := getNet s r
  let h := leBytes 4 0x54455357 ++ [BitVec.ofNat 8 cfg.net, BitVec.ofNat 8 n.carrier, BitVec.ofNat 8 (netStall s n), 0]
    ++ bytesOf cfg.layout ++ leBytes 4 n.wLen ++ bytesOf x.commitGen ++ bytesOf x.commitSerial ++ bytesOf x.commitTick
    ++ leBytes 28 0
  h ++ bytesOf (crc32c (h ++ set)) ++ set

/-- Whether a copy's identity is that of a network; whether its CRC holds. -/
def copyHeaderOk (cfg : SchoolCfg) (n : NetCfg) (bs : List Byte) : Bool :=
  u32 bs 0 == 0x54455357 && u8 bs 4 == BitVec.ofNat 8 cfg.net && u32 bs 8 == cfg.layout && u32 bs 0xC == BitVec.ofNat 32 n.wLen
def copyCrcOk (n : NetCfg) (bs : List Byte) : Bool :=
  u32 bs 0x3C == crc32c (slice bs 0 0x3C ++ slice bs 0x40 n.wLen)

/-- The bytes of copy A (0) or B (1) in the bank. -/
def bankCopy (s : State) (cfg : SchoolCfg) (c : Nat) : List Byte :=
  (List.range cfg.nvPages).flatMap (fun k => padTo 65536 (tget [] s.school.pages (cfg.nvPage + c * cfg.nvPages + k)))

def bankCopyOk (s : State) (cfg : SchoolCfg) (n : NetCfg) (c : Nat) : Bool :=
  decide (cfg.nvPages ≠ 0) && copyHeaderOk cfg n (bankCopy s cfg c) && copyCrcOk n (bankCopy s cfg c)

/-- The copy chosen by R470: valid, and of the serially later COMMIT_GEN. -/
def chosenCopy (s : State) (cfg : SchoolCfg) (n : NetCfg) : Option (List Byte) :=
  let a := bankCopy s cfg 0
  let b := bankCopy s cfg 1
  match bankCopyOk s cfg n 0, bankCopyOk s cfg n 1 with
  | true, true => some (if laterThan (u32 b 0x10) (u32 a 0x10) then b else a)
  | true, false => some a
  | false, true => some b
  | false, false => none

/-- Whether a page of a network's copies has reached its end (R469). -/
def pagesWorn (s : State) (cfg : SchoolCfg) : Bool :=
  (List.range (2 * cfg.nvPages)).any (fun k => let p := cfg.nvPage + k
    s.school.badPages.contains p || decide (1000000 ≤ (tget (0 : W32) s.school.pageWrites p).toNat))

/-- The 4 KiB header of a school area, which the device alone writes: its layout is not stated, so its bytes are free
values (notes/assumptions/4.md). -/
def writeAreaHeader (s : State) (cfg : SchoolCfg) (n : NetCfg) : State :=
  let bs := (List.range 512).flatMap (fun k => bytesOf (Config.freeWord (s.free + k)))
  regionWrite { s with free := s.free + 512 } (netStall s n) cfg.saOff bs false

/-- A network prepared anew (R477): the set of R470 in both areas, SET0 committed, mirror loaded, traces zero. -/
def reinitNet (s : State) (r : Nat) : State :=
  match schoolCfg s r with
  | none => s
  | some (cfg, n) =>
    let copy := chosenCopy s cfg n
    let set := match copy with
      | some c => slice c 0x40 n.wLen
      | none => padTo n.wLen n.init
    let old := getNet s r
    let s := modNet (dropActions s r (fun _ => true)) r (fun _ => {
      state := if (getSe s cfg.engine).out then 5 else 1, commitGen := (copy.map (fun c => u32 c 0x10)).getD 0, mirror := byPlace (codesOf cfg set),
      commitSerial := (copy.map (fun c => u32 c 0x14)).getD s.loader.serial, commitTick := (copy.map (fun c => u64 c 0x18)).getD s.air.abs,
      nvValid := copy.isSome, nvWorn := old.nvWorn || pagesWorn s cfg, nvLast := old.nvLast, nvWrite := old.nvWrite })
    let s := areaWrite (areaWrite s r cfg n true set) r cfg n false set
    writeAreaHeader s cfg n

/-- Every ring cursor of an engine at its lowest record (R477): an unlisted cursor stands for it. -/
def resetCursors (s : State) (e : Nat) : State := modSe s e (fun x => { x with cursors := [] })

/-- The generator set from SEED, or from the entropy source (R462). -/
def seedEngine (s : State) (e : Nat) : State :=
  match s.hns.schoolEngs.find? (fun x => x.engine == e) with
  | none => s
  | some x =>
    if x.seed = 0 then modSe (drew s) e (fun y => { y with gen := (draw s).setWidth 48 })
    else modSe s e (fun y => { y with gen := x.seed })

/-- What a reset makes of a network: taps, actions, processing and candidates discarded; the committed set, whose header is
checked, loaded; LEARN (R465, R475 to R477). `zero`: engine memory is zeroed too, as at a warm reset. -/
def resetNet (s : State) (r : Nat) (zero : Bool) : State :=
  match schoolCfg s r with
  | none => s
  | some (cfg, n) =>
    if (getNet s r).state = 0 then s else
    let s := dropActions s r (fun _ => true)
    let s := if (getNet s r).xfer.isSome then xferSts s (netStall s n) 0 0 else s
    if regionBad s (netStall s n) cfg.saOff 4096 || regionBad s (netStall s n) (areaOf s r cfg n true) n.wLen then reinitNet s r
    else
      let set := areaRead s r cfg n true
      modNet s r (fun x =>
        let x := { x with
          tap := none, tapBuf := [], outBuf := [], cand := [], build := false, hostCand := none, candIn := false,
          holdAsked := false, sC := 0, nC := 0, mirror := byPlace (codesOf cfg set), xfer := none, xferEnd := none,
          traces := if zero then [] else x.traces }
        if (getSe s cfg.engine).out then { x with state := 5 } else enterLearn x)

/-! ### Steps (R452 to R454) -/

/-- The records of a ring of an engine. -/
def ringOf (s : State) (e ring : Nat) : List Nat :=
  (recordsOf s e).filter (fun r => (s.hns.schoolNets[r]?).any (fun cfg => cfg.ring == ring))

/-- The record after `r` in a ring, wrapping. -/
def nextInRing (rs : List Nat) (r : Nat) : Nat := (rs.find? (fun x => decide (r < x))).getD (rs.headD 0)

/-- What a step does in a network's state (Table 13-5). -/
def stepNet (s : State) (r : Nat) : State :=
  match (getNet s r).state.toNat with
  | 1 => modNet s r (fun x => { x with tap := some {} })
  | 2 => arm s r (.install true)
  | 3 => modNet s r (fun x => { x with tap := some {} })
  | 4 => arm s r (.install false)
  | _ => s

/-- SCHOOL_STEP, its ARG a network index (Table 1-5): skipped while the owner is RESETTING (R162), and, counted, while the
engine is busy or the network has a tap or an action armed. A skipped step leaves the cursor. -/
def execSchoolStep (engine : Fin 2) (net : Byte) (s : State) : Host.Outcome State Fault Refusal :=
  let e := engine.val
  match takeAct s 7 (BitVec.ofNat 8 e) (fun a => bits a 0 8 == net), s.hns.schoolNets.find? (fun n => n.net == net.toNat), seOwner s e with
  | some (_, s), some cfg, some i =>
    if (getStall s i).state = .resetting ∨ cfg.engine ≠ e then .next s
    else
      let rs := ringOf s e cfg.ring
      let r := tget (rs.headD 0) (getSe s e).cursors cfg.ring
      if (seBusy s e).isSome || (getNet s r).tap.isSome || hasAction s r then
        .next (modSe s e (fun x => { x with skip := satInc x.skip }))
      else
        .next (modSe (stepNet s r) e (fun x => { x with cursors := tput x.cursors cfg.ring (nextInRing rs r) }))
  | some (_, s), _, _ => .next s
  | none, _, _ => .next s

/-! ### Quiet points (R456) -/

/-- The code position that a sample's code `j` is, in a tap slot's plan (R425): user, block and column. -/
def planPlace (s : State) (c : Nat) (us : List PlanUser) (k sy l j : Nat) : Option (Nat × Nat × Nat) :=
  (us.zipIdx).findSome? (fun x =>
    let u := x.1
    if u.symMask.getLsbD sy && decide (u.firstSc ≤ k) && decide (k < u.firstSc + u.numSc) && decide (u.layerFirst ≤ l)
        && decide (l < u.layerFirst + u.layers) && decide (j < u.bits) then
      (codeOf s c u.code).bind (fun code =>
        let n := code.nb * code.z
        let before := (setBits u.symMask).countP (fun y => decide (y < sy))
        let at_ := (((before * u.numSc + (k - u.firstSc)) * u.layers) + (l - u.layerFirst)) * u.bits + j
        if n = 0 ∨ u.blocks ≤ at_ / n then none else some (x.2, at_ / n, at_ % n))
    else none)

/-- The outcome of code `j` of a sample: its decided bit, where its block passed and was kept (R456). -/
def outcomeBit (s : State) (c start : Nat) (us : List PlanUser) (k sy l j : Nat) : Option Bool :=
  (planPlace s c us k sy l j).bind (fun p =>
    ((List.range 24).findSome? (fun e => (getDec s e).kept.find? (fun x =>
      x.carrier == c && x.start == start && x.user == p.1 && x.block == p.2.1))).map (fun x => x.bits.getD p.2.2 false))

/-- The outcome buffer: for each sample a byte of bits and a byte of valid codes. -/
def outcomes (s : State) (cfg : SchoolCfg) (c start : Nat) (us : List PlanUser) (buf : List Byte) : List Byte :=
  (List.range cfg.samples).flatMap (fun p =>
    let b := slice buf (p * cfg.tapRec) 8
    let bs := (List.range 8).map (fun j => if u8 b 4 = 1 then
      outcomeBit s c start us (u16 b 0).toNat (u8 b 2).toNat (u8 b 3).toNat j else none)
    [BitVec.ofNat 8 ((bs.zipIdx).foldl (fun m x => if x.1 = some true then m + 2 ^ x.2 else m) 0),
     BitVec.ofNat 8 ((bs.zipIdx).foldl (fun m x => if x.1.isSome then m + 2 ^ x.2 else m) 0)])

/-- An armed tap whose slot is reported: copied, or lost where the slot failed or had no plan, or the area cannot be
read. -/
def takeTap (s : State) (r : Nat) (cfg : SchoolCfg) (n : NetCfg) (start status : Nat) (us : List PlanUser) : State :=
  let a := getArr s (netArray s n)
  let len := cfg.samples * cfg.tapRec
  let bad := a.ueRsv.any (fun w => decide (cfg.tapOff * 8 ≤ w) && decide (8 * w < cfg.tapOff * 64 + len))
  if status = 2 ∨ status = 3 ∨ 16 ≤ status ∨ bad = true then
    modNet s r (fun x => { x with tap := none, tapLost := satInc x.tapLost })
  else
    let buf := mread a.rsv (cfg.tapOff * 64) len
    modNet s r (fun x => { x with
      tap := none, tapBuf := buf, outBuf := if cfg.signal = 2 then outcomes s cfg n.carrier start us buf else [] })

/-- Every armed tap of an array's networks whose slot is reported. -/
def takeTaps (s : State) (n : Nat) : State :=
  (List.range 32).foldl (fun s r => match schoolCfg s r, (getNet s r).tap with
    | some (cfg, net), some { slot := some start, status := some st, users := us } =>
      if netArray s net = n then takeTap s r cfg net start st us else s
    | _, _ => s) s

/-- The buffer of a host operation lies in the region outside the control area, the stable slots and every school area
(R472). -/
def bufferOk (s : State) (i off len : Nat) : Bool :=
  decide (off % 4096 = 0) && inRegion s i off len
    && s.hns.schoolNets.all (fun x => (netOf s x.net).all (fun n => netStall s n != i
        || decide (off + len ≤ x.saOff) || decide (x.saOff + x.saLen ≤ off)))

/-- The set of a host operation, or why it is refused: WRITE and WRITE_TRIAL from the buffer, REVERT_NV from the bank,
REVERT_INIT from the harness. -/
def hostSet (s : State) (cfg : SchoolCfg) (n : NetCfg) (op off : Nat) : List Byte ⊕ Byte :=
  if op = 4 then match chosenCopy s cfg n with
    | some c => .inl (slice c 0x40 n.wLen)
    | none => .inr 5
  else if op = 5 then .inl (padTo n.wLen n.init)
  else
    let b := regionRead s (netStall s n) off (64 + n.wLen)
    if regionBad s (netStall s n) off (64 + n.wLen) then .inr 3
    else if !copyHeaderOk cfg n b then .inr 2 else if !copyCrcOk n b then .inr 3 else .inl (slice b 0x40 n.wLen)

/-- The committed set is to be installed again, outside INSTALL_BACK: a baseline is taken under it (R463). -/
def armBack (s : State) (r : Nat) : State :=
  let a := (r, SchoolAct.install false)
  if s.school.actions.contains a || s.school.running.any (fun x => x.2 == some a) then s else arm s r (.install false)

/-- A network's set area could not be read: re-initialised from R470 (R476), and its set installed. How a host operation
abandoned so ends is not stated: a free value stands for it. -/
def areaFault (s : State) (r : Nat) (cfg : SchoolCfg) (n : NetCfg) : State :=
  let s := report s { code := 0x100A, stall := some (BitVec.ofNat 4 (netStall s n)), kind := 7, unit := BitVec.ofNat 8 cfg.engine,
                      src := some (sclSource r), data := [BitVec.ofNat 8 cfg.net] ++ bytesOf (getNet s r).commitGen }
  let x := getNet s r
  let fr := bits (draw s) 0 8
  let s := modNet (reinitNet (drew s) r) r (fun y => { y with xfer := x.xfer, xferEnd := if x.xfer.isSome then some fr else none })
  armBack s r

/-- A host operation that ends a trial discards the candidate; one in force goes back by INSTALL_BACK. -/
def endCandidate (s : State) (r : Nat) : State :=
  let x := getNet s r
  if x.state = 2 ∨ x.state = 3 then
    modNet (dropActions s r ofCandidate) r (fun y =>
      let y := { y with tap := none, tapBuf := [], outBuf := [], cand := [] }
      if y.candIn then enterBack y else enterLearn y)
  else s

/-- Schooled codes written over a set area, the other bytes kept (R460). -/
def writeCodes (s : State) (r : Nat) (cfg : SchoolCfg) (n : NetCfg) (codes : List Byte) : State :=
  let base := areaOf s r cfg n false
  ((places cfg).zip codes).foldl (fun s x => regionWrite s (netStall s n) (base + placeCode x.1) [x.2] false) s

/-- A memory action carried out at a quiet point; an install ends with INSTALL_DONE. -/
def runAction (s : State) (n : Nat) (r : Nat) (cfg : SchoolCfg) (net : NetCfg) (a : SchoolAct) : State :=
  let i := netStall s net
  let x := getNet s r
  let readBad := regionBad s i (areaOf s r cfg net true) net.wLen
  match a with
  | .install c => modSchool s (fun y => { y with running := tput y.running n (some (r, .install c)) })
  | .installSet => modSchool s (fun y => { y with running := tput y.running n (some (r, .installSet)) })
  | .candWrite => writeCodes s r cfg net x.cand
  | .mirrorLoad =>
    if readBad then areaFault s r cfg net
    else modNet s r (fun y => { y with mirror := byPlace (codesOf cfg (areaRead s r cfg net true)) })
  | .nvRead =>
    if readBad then areaFault s r cfg net
    else
      let bytes := copyBytes s r cfg net (areaRead s r cfg net true)
      let gen (c : Nat) : W32 := u32 (bankCopy s cfg c) 0x10
      let c := if !bankCopyOk s cfg net 0 then 0 else if !bankCopyOk s cfg net 1 then 1 else if laterThan (gen 0) (gen 1) then 1 else 0
      modNet s r (fun y => { y with nvWrite := some (c, 0, bytes) })
  | .hostRead =>
    if readBad then areaFault s r cfg net
    else
      let bytes := copyBytes s r cfg net (areaRead s r cfg net true)
      modNet (regionWrite s i ((x.xfer.map (·.2)).getD 0) bytes false) r (fun y => { y with xferEnd := some 0 })
  | .copyIn op =>
    match hostSet s cfg net op ((x.xfer.map (·.2)).getD 0) with
    | .inr reason => modNet s r (fun y => { y with xferEnd := some reason })
    | .inl set =>
      if op = 3 then modNet s r (fun y => { y with hostCand := some set, xferEnd := some 0 })
      else arm (areaWrite (endCandidate s r) r cfg net false set) r .installSet

/-- The first armed action of a network on an array. -/
def nextAction (s : State) (n : Nat) : Option (Nat × Nat × SchoolCfg × NetCfg × SchoolAct) :=
  (s.school.actions.zipIdx).findSome? (fun x => match schoolCfg s x.1.1 with
    | some (cfg, net) => if netArray s net = n then some (x.2, x.1.1, cfg, net, x.1.2) else none
    | none => none)

/-- A quiet point of an array begins (R456): its carriers have reported, and no invocation is eligible or runs. Taps are
copied, and one memory action is carried out. -/
def execQuietPoint (arr : Fin 8) (s : State) : Host.Outcome State Fault Refusal :=
  let n := arr.val
  if quietArr s n && (nextInv s n).isNone && arrUsable s n && !s.school.quiet.contains n then
    let s := takeTaps (modSchool s (fun y => { y with quiet := n :: y.quiet })) n
    let s := (List.range 24).foldl (fun s e => modDec s e (fun d => { d with
      kept := d.kept.filter (fun k => (getCarrier s k.carrier).array != n) })) s
    match tget none s.school.running n, nextAction s n with
    | none, some (k, r, cfg, net, a) =>
      .next (runAction (modSchool s (fun y => { y with actions := y.actions.eraseIdx k })) n r cfg net a)
    | _, _ => .next s
  else .next s

/-! ### Installs and commits (R457, R464) -/

/-- A commit: the other area becomes the committed one, the mirror takes its codes (R464, R471). -/
def commitNet (s : State) (r : Nat) (cfg : SchoolCfg) (n : NetCfg) (codes : List Byte) : State :=
  let s := modNet s r (fun x => { x with
    committed := !x.committed, mirror := byPlace codes, commitGen := x.commitGen + 1, nvPending := true, nvAgain := x.nvWrite.isSome,
    commitSerial := s.loader.serial, commitTick := s.air.abs, commits := satInc x.commits, cand := [], candIn := false })
  schoolEvent (writeAreaHeader s cfg n) r cfg n 1

/-- INSTALL_DONE: the set is in the weight set and WSET increments; what follows depends on the state. -/
def execInstallDone (netRec : Fin 32) (ue : Bool) (s : State) : Host.Outcome State Fault Refusal :=
  let r := netRec.val
  match schoolCfg s r with
  | none => .next s
  | some (cfg, net) =>
    let n := netArray s net
    match tget none s.school.running n with
    | some (r', a) =>
      if r' ≠ r then .next s
      else
        let s := modSchool s (fun y => { y with running := tdel y.running n })
        let committed := decide (a = .install false)
        if ue || regionBad s (netStall s net) (areaOf s r cfg net committed) net.wLen then .next (areaFault s r cfg net)
        else
          let set := areaRead s r cfg net committed
          let s := modArr s n (fun x => rsvWrite x (net.wOff * 64) set)
          let s := modNet s r (fun x => { x with wset := x.wset + 1 })
          match a with
          | .install true => .next (modNet s r (fun x => { x with state := 3, taps := 0, sC := 0, nC := 0, candIn := true }))
          | .install false => .next (modNet s r (fun x => if x.state = 5 then { x with candIn := false } else learnOrHold (getSe s cfg.engine).out { x with candIn := false }))
          | _ => .next (modNet (commitNet s r cfg net (codesOf cfg set)) r (fun x =>
              learnOrHold (getSe s cfg.engine).out { x with traces := [], xferEnd := some 0 }))
    | none => .next s

/-! ### The generator and the local rule (R459 to R462) -/

/-- One draw: 16 bits and the state after it. -/
def next16 (g : BitVec 48) : Nat × BitVec 48 :=
  let s := g + 0x9E3779B97F4B
  let z := (s ^^^ (s >>> 21)) * 0x5851F42D4C95
  let z := z ^^^ (z >>> 29)
  ((z >>> 32).toNat, s)

/-- sr(a, s) with the draw u. -/
def srInt (a : Int) (sh u : Nat) : Int := fdiv (a * 2 ^ (16 - sh) + u) 65536

/-- What an engine's work carries along: generator, draws made, traces. -/
structure Work16 where
  gen : BitVec 48
  draws : Nat
  traces : Table Byte

def s8 (bs : List Byte) (off : Nat) : Int := (u8 bs off).toInt

/-- The error vector of a sample, each value with whether it is counted (R459). -/
def errorVec (cfg : SchoolCfg) (b : List Byte) (out : List Byte) : List (Int × Bool) :=
  (List.range cfg.nOut).map (fun j =>
    let y := s8 b (cfg.yLoc + j)
    if cfg.signal = 1 then (s8 b (cfg.tLoc + j) - y, true)
    else if (u8 out 1).getLsbD j then
      let sg : Int := if (u8 out 0).getLsbD j then -1 else 1
      (sg * max 0 ((cfg.margin : Int) - sg * y), true)
    else (0, false))

/-- The projected error of a layer (R460). -/
def deltaOf (cfg : SchoolCfg) (l : SchoolLayer) (e : List Int) : List Int :=
  if l.output then e
  else (List.range l.n).map (fun i =>
    satSym 254 (fdiv (((List.range cfg.nOut).foldl (fun acc j => acc + l.fb.getD (i * cfg.nOut + j) 0 * e.getD j 0) 0)) (2 ^ l.fbShift)))

/-- One training sample: every trace moves by a rounded product, in the order of the places. -/
def trainSample (cfg : SchoolCfg) (b : List Byte) (e : List Int) (w : Work16) : Work16 :=
  let ds := cfg.layers.map (fun l => (l.layer, deltaOf cfg l e))
  (places cfg).zipIdx.foldl (fun w x =>
    let p := x.1
    let d := ((ds.find? (fun y => y.1 == p.1.layer)).map (fun y => y.2.getD p.2.2 0)).getD 0
    let u := next16 w.gen
    let t := satSym 127 ((tget 0 w.traces x.2).toInt + srInt (d * s8 b (p.1.xLoc + p.2.1)) cfg.tshift u.1)
    { gen := u.2, draws := w.draws + 1, traces := tset 0 w.traces x.2 (BitVec.ofInt 8 t) }) w

/-- A tap processed: traces, and the sum and number of the held-out error squares. -/
def processTap (cfg : SchoolCfg) (x : SchoolNet) (w : Work16) : Work16 × Nat × Nat :=
  (List.range cfg.samples).foldl (fun acc p =>
    let b := slice x.tapBuf (p * cfg.tapRec) cfg.tapRec
    if u8 b 4 ≠ 1 then acc
    else
      let e := errorVec cfg b (slice x.outBuf (2 * p) 2)
      if p % cfg.hold = cfg.hold - 1 then
        (acc.1, acc.2.1 + e.foldl (fun n v => if v.2 then n + (v.1 * v.1).toNat else n) 0, acc.2.2 + e.countP (·.2))
      else if x.state = 1 then (trainSample cfg b (e.map (·.1)) acc.1, acc.2)
      else acc) (w, 0, 0)

/-- SCL_NET_SCORE of a trial: ⌊256 × S ÷ n⌋ of both, saturating; with n of 0 the rule states no value (`fr`). -/
def scoreOf (x : SchoolNet) (fr : W64) : W64 :=
  let q (sq n : Nat) (f : W32) : W32 := if n = 0 then f else BitVec.ofNat 32 (min 0xFFFFFFFF (256 * sq / n))
  place 64 0 (q x.sB x.nB (bits fr 0 32)) ||| place 64 32 (q x.sC x.nC (bits fr 32 32))

/-- The end of a trial (R464): commit, or the committed set is to be installed again. -/
def endTrial (s : State) (r : Nat) (cfg : SchoolCfg) (n : NetCfg) : State :=
  let fr := draw s
  let s := modNet (drew s) r (fun x => { x with score := scoreOf x fr })
  let x := getNet s r
  if 0 < x.nB ∧ 0 < x.nC ∧ x.sC * x.nB * 256 ≤ x.sB * x.nC * (256 - cfg.gain) then
    modNet (commitNet s r cfg n x.cand) r (learnOrHold (getSe s cfg.engine).out)
  else
    let s := modNet s r (fun x => { enterBack x with rollbacks := satInc x.rollbacks, cand := [] })
    schoolEvent s r cfg n 2

/-- A network of an engine that leaves service: HELD, its committed set in force (R476). -/
def outNet (s : State) (r : Nat) : State :=
  let x := getNet s r
  let s := modNet (dropActions s r ofCandidate) r (fun y => enterHeld { y with cand := [] })
  if x.candIn then armBack s r else s

/-- An uncorrectable error in engine memory (R476): the network's traces are zeroed, its mirror reloaded, LEARN; the
second within 10 s takes the engine out of service, its networks HELD. -/
def engineUe (s : State) (e r : Nat) (cfg : SchoolCfg) (n : NetCfg) : State :=
  let again := within10s (getSe s e).lastUe s.now
  let s := modSe s e (fun x => { x with ueSeen := true, lastUe := some s.now })
  let s := report s { code := 0x100A, stall := some (BitVec.ofNat 4 (netStall s n)), kind := 7, unit := BitVec.ofNat 8 e,
                      src := some (sclSource r), data := [BitVec.ofNat 8 cfg.net] ++ bytesOf (getNet s r).commitGen }
  let back := (getNet s r).candIn
  let s := modNet (dropActions s r ofCandidate) r (fun x =>
    enterLearn { x with traces := [], tapBuf := [], outBuf := [], cand := [], build := false })
  let s := arm s r .mirrorLoad
  let s := if back then armBack s r else s
  if again then
    let s := outOfService (modSe s e (fun x => { x with out := true })) 7 e 0
    (recordsOf s e).foldl outNet s
  else s

/-- TAP_PROCESS_DONE: the engine has processed a tap of its first network that holds one. -/
def execTapProcessDone (engine : Fin 2) (ue : Bool) (s : State) : Host.Outcome State Fault Refusal :=
  let e := engine.val
  match (recordsOf s e).find? (fun r => !(getNet s r).tapBuf.isEmpty) with
  | none => .next s
  | some r =>
    match schoolCfg s r with
    | none => .next s
    | some (cfg, n) =>
      if ue then .next (engineUe s e r cfg n)
      else
        let x := getNet s r
        let o := processTap cfg x { gen := (getSe s e).gen, draws := 0, traces := x.traces }
        let s := modSe s e (fun y => { y with gen := o.1.gen, draws := y.draws + BitVec.ofNat 64 o.1.draws })
        let s := modNet s r (fun (y : SchoolNet) =>
          let y : SchoolNet := { y with traces := o.1.traces, tapBuf := [], outBuf := [], taps := y.taps + 1 }
          if decide (y.state = 1) then { y with sB := y.sB + o.2.1, nB := y.nB + o.2.2, build := decide (cfg.learnTaps ≤ y.taps.toNat) }
          else { y with sC := y.sC + o.2.1, nC := y.nC + o.2.2 })
        let y := getNet s r
        if y.state = (3 : BitVec 3) ∧ cfg.trialTaps ≤ y.taps.toNat then .next (endTrial s r cfg n) else .next s

/-- A candidate built (R460): codes, traces after their decay, and whether a change exceeds DMAX. -/
def buildCodes (cfg : SchoolCfg) (x : SchoolNet) (w : Work16) : Work16 × List Byte × Bool :=
  (places cfg).zipIdx.foldl (fun acc y =>
    let m := (tget 0 x.mirror y.2).toInt
    let t := (tget 0 x.traces y.2).toInt
    let room := if 0 < t then 127 - m else 127 + m
    let u := next16 acc.1.gen
    let c := m + srInt (t * room * cfg.rate) 16 u.1
    let v := next16 u.2
    ({ gen := v.2, draws := acc.1.draws + 2, traces := tset 0 acc.1.traces y.2 (BitVec.ofInt 8 (srInt (t * cfg.decay) 8 v.1)) },
      acc.2.1 ++ [BitVec.ofInt 8 c], acc.2.2 || decide ((cfg.dmax : Int) < (c - m).natAbs))) (w, [], false)

/-- CANDIDATE_BUILT: discarded, or armed to be written and installed; a set that the host wrote for trial stands in its
place. -/
def execCandidateBuilt (engine : Fin 2) (ue : Bool) (s : State) : Host.Outcome State Fault Refusal :=
  let e := engine.val
  match (recordsOf s e).find? (fun r => (getNet s r).build) with
  | none => .next s
  | some r =>
    match schoolCfg s r with
    | none => .next s
    | some (cfg, n) =>
      if ue then .next (engineUe s e r cfg n)
      else
        let x := getNet s r
        let o := buildCodes cfg x { gen := (getSe s e).gen, draws := 0, traces := x.traces }
        let s := modSe s e (fun y => { y with gen := o.1.gen, draws := y.draws + BitVec.ofNat 64 o.1.draws })
        let s := modNet s r (fun y => { y with traces := o.1.traces, build := false, hostCand := none })
        match x.hostCand with
        | some set => .next (arm (modNet s r (fun y => { y with state := 2, taps := 0, cand := codesOf cfg set })) r .candWrite)
        | none =>
          if o.2.2 then
            .next (schoolEvent (modNet s r (fun y => enterLearn { y with discards := satInc y.discards })) r cfg n 3)
          else .next (arm (modNet s r (fun y => { y with state := 2, taps := 0, cand := o.2.1 })) r .candWrite)

/-! ### Writing the bank (R468, R469) -/

/-- NV_WRITE_START: a pending commit whose interval has passed arms the read of its source. -/
def execNvWriteStart (netRec : Fin 32) (s : State) : Host.Outcome State Fault Refusal :=
  let r := netRec.val
  match schoolCfg s r with
  | none => .next s
  | some (cfg, _) =>
    let x := getNet s r
    let secs := ((s.hns.schoolEngs.find? (fun y => y.engine == cfg.engine)).map (·.nvInterval)).getD 600
    if x.nvPending && !x.nvWorn && decide (cfg.nvPages ≠ 0) && x.nvWrite.isNone
        && decide (max (x.nvLast.getD 0) s.school.acceptedAt + secs * 122880000 ≤ s.now)
        && !s.school.actions.any (fun a => a.1 == r && a.2 == .nvRead) then .next (arm s r .nvRead)
    else .next s

/-- NV_PAGE_WRITE_DONE: a page is written, verified and counted. A page that fails, or that has reached its end, ends the
network's writes. A trail snapshot comes first. -/
def execNvPageWriteDone (netRec : Fin 32) (ok : Bool) (s : State) : Host.Outcome State Fault Refusal :=
  let r := netRec.val
  match schoolCfg s r, (getNet s r).nvWrite with
  | some (cfg, n), some (c, k, bytes) =>
    if s.trail.writing.isSome then .next s
    else
      let page := cfg.nvPage + c * cfg.nvPages + k
      let count := satInc (tget (0 : W32) s.school.pageWrites page)
      let s := modSchool s (fun y => { y with
        pages := tset [] y.pages page (if ok then padTo 65536 (bytes.drop (65536 * k)) else []), pageWrites := tset 0 y.pageWrites page count })
      let worn := !ok || decide (1000000 ≤ count.toNat)
      let s := if ok then s else modSchool s (fun y => { y with badPages := page :: y.badPages })
      let last := ok && decide (cfg.nvPages ≤ k + 1)
      let s := modNet s r (fun x => { x with
        nvWrite := if last || worn then none else some (c, k + 1, bytes),
        nvPending := if last then x.nvAgain else x.nvPending,
        nvAgain := if last then false else x.nvAgain,
        nvWorn := x.nvWorn || worn,
        nvWrites := if last then satInc x.nvWrites else x.nvWrites,
        nvLast := if last then some s.now else x.nvLast })
      let s := modNet s r (fun x => { x with nvValid := bankCopyOk s cfg n 0 || bankCopyOk s cfg n 1 })
      let s := if last then schoolEvent s r cfg n 4 else s
      .next (if worn then schoolEvent s r cfg n 5 else s)
  | _, _ => .next s

/-! ### Host operations (R471, R472) -/

/-- HOLD (Table 13-9): at once from LEARN, else after INSTALL_BACK. -/
def holdNet (s : State) (r : Nat) : State :=
  let x := getNet s r
  if x.state = 5 then modNet s r (fun y => { y with xferEnd := some 0 })
  else
    let s := modNet s r (fun y => { y with holdAsked := true })
    if x.state = 1 then modNet s r enterHeld
    else if x.state = 4 then s
    else modNet (dropActions s r ofCandidate) r (fun y => enterBack { y with tap := none, tapBuf := [], outBuf := [], cand := [] })

/-- RELEASE: HELD ends, where the engine serves. -/
def releaseNet (s : State) (r : Nat) (cfg : SchoolCfg) : State :=
  modNet s r (fun y =>
    let y := { y with xferEnd := some 0 }
    if y.state = 5 ∧ (getSe s cfg.engine).out = false then enterLearn y else y)

/-- An operation of SCL_XFER on a network: refused BUSY or RANGE at once, else pending. -/
def sclOp (s : State) (r op off : Nat) : State :=
  match schoolCfg s r with
  | none => s
  | some (cfg, n) =>
    let i := netStall s n
    let buffered := op = 1 ∨ op = 2 ∨ op = 3
    if (getNet s r).state = 0 then s
    else if (getNet s r).xfer.isSome then xferEnds s r i 1
    else if buffered ∧ bufferOk s i off (64 + n.wLen) = false then xferEnds s r i 4
    else
      let s := modNet (xferSts s i 1 0) r (fun x => { x with xfer := some (op, off), xferEnd := none })
      if op = 1 then arm s r .hostRead
      else if op = 3 then arm s r (.copyIn 3)
      else if op = 6 then holdNet s r
      else if op = 7 then releaseNet s r cfg
      else arm s r (.copyIn op)

/-- A write of SCL_XFER by the function of the network's stall (R20). -/
def sclWrite (s : State) (r op off : Nat) : State :=
  ownWrite (((schoolCfg s r).map (fun x => netStall s x.2)).getD 0) (fun s => sclOp s r op off) s

def execSclRead (netRec : Fin 32) (offset : BitVec 36) (s : State) : Host.Outcome State Fault Refusal :=
  .next (sclWrite s netRec.val 1 offset.toNat)
def execSclWrite (netRec : Fin 32) (offset : BitVec 36) (s : State) : Host.Outcome State Fault Refusal :=
  .next (sclWrite s netRec.val 2 offset.toNat)
def execSclWriteTrial (netRec : Fin 32) (offset : BitVec 36) (s : State) : Host.Outcome State Fault Refusal :=
  .next (sclWrite s netRec.val 3 offset.toNat)
def execSclRevertNv (netRec : Fin 32) (s : State) : Host.Outcome State Fault Refusal := .next (sclWrite s netRec.val 4 0)
def execSclRevertInit (netRec : Fin 32) (s : State) : Host.Outcome State Fault Refusal := .next (sclWrite s netRec.val 5 0)
def execSclHold (netRec : Fin 32) (s : State) : Host.Outcome State Fault Refusal := .next (sclWrite s netRec.val 6 0)
def execSclRelease (netRec : Fin 32) (s : State) : Host.Outcome State Fault Refusal := .next (sclWrite s netRec.val 7 0)

/-- SCL_XFER_DONE: an operation whose work has ended reads DONE or REFUSED (Table 13-11). -/
def execSclXferDone (netRec : Fin 32) (s : State) : Host.Outcome State Fault Refusal :=
  let r := netRec.val
  match schoolCfg s r, (getNet s r).xfer, (getNet s r).xferEnd with
  | some (_, n), some _, some reason =>
    .next (modNet (xferEnds s r (netStall s n) reason) r (fun x => { x with xfer := none, xferEnd := none }))
  | _, _, _ => .next s

end Sys2Proof.Machine
end

