-- ==== Sys2Proof/Machine/Stalls.lean ====
section
/-!
DEFINITION. Holding, resetting and resuming a stall (R154 to R167, R203), and what a stall reset shares with a warm
reset.
-/
namespace Sys2Proof.Machine

/-! ### The hold (R154, R167) -/

/-- The state follows the two reasons to hold; on leaving HELD, held doorbells are acted on. -/
def settleHold (s : State) (i : Nat) : State :=
  let st := getStall s i
  match st.state with
  | .active => if st.segHold || st.quiesce then modStall s i (fun x => { x with state := .held }) else s
  | .held =>
    if st.segHold || st.quiesce then s
    else resumeQueues (modStall s i (fun x => { x with state := .active })) i
  | _ => s

/-- QUIESCE written (R163): in FAULTED and RESETTING it takes effect when the stall returns to ACTIVE (R167). -/
def quiesceOp (i : Nat) (on : Bool) (s : State) : State :=
  match (getStall s i).state with
  | .absent => s
  | .faulted => modStall s i (fun x => { x with quiesceLate := some on })
  | .resetting => modStall s i (fun x => { x with quiesceLate := some on })
  | _ => settleHold (modStall s i (fun x => { x with quiesce := on })) i

def execStlQuiesce (stall : Fin 16) (on : Bool) (s : State) : Host.Outcome State Fault Refusal :=
  .next (ownWrite stall.val (quiesceOp stall.val on) s)

/-- STL_MGMT_CTL keeps the stall it addressed (Table 4-15). -/
def addressed (i : Nat) (s : State) : State := { s with mgmtStall := BitVec.ofNat 4 i }

def execQuiesceSet (stall : Fin 16) (s : State) : Host.Outcome State Fault Refusal :=
  .next (mgmt (fun s => quiesceOp stall.val true (addressed stall.val s)) s)
def execQuiesceClr (stall : Fin 16) (s : State) : Host.Outcome State Fault Refusal :=
  .next (mgmt (fun s => quiesceOp stall.val false (addressed stall.val s)) s)

/-! ### Outcomes of the loader (R117, R124, R131) -/

/-- A load's outcome is recorded (R131, Table 17-4): 1 full, 2 segment, 3 restore. -/
def loadEvent (s : State) (serial : W32) (code kind : Byte) (stall : Nat) : State :=
  report s { code := 0x0003, data := bytesOf serial ++ [code, kind, BitVec.ofNat 8 stall] }

/-- HNS_ERR (Table 3-16). -/
def setErr (s : State) (code : Byte) (index record : Nat) : State :=
  { s with loader := { s.loader with errCode := code, errIndex := BitVec.ofNat 10 index, errRecord := BitVec.ofNat 14 record } }

/-- The SERIAL of an image; where no header was read it is unknown: a free value. -/
def serialOf (s : State) (image : List Byte) : W32 × State :=
  if image.length < 0x14 then ((draw s).setWidth 32, drew s) else (u32 image 0x10, s)

/-- A segment in progress fails: shadow edits are discarded, the hold ends, and the outcome is recorded (R124). -/
def segFail (s : State) (code : Byte) (index record : Nat) : State :=
  let i := s.loader.segStall.toNat
  let x := serialOf s s.loader.segImage
  let s := setErr x.2 code index record
  let s := if 3 ≤ s.loader.segState.toNat then modAir s (fun a => { copyGait a with swapFrame := none }) else s
  let s := if 2 ≤ s.loader.segState.toNat then
      (List.range 48).foldl (fun s n => if pcrOwner s n = some i ∧ (getCore s n).st ≠ .out ∧ (getCore s n).st ≠ .loading
        then startPreload s n else s) s
    else s
  let s := { s with merged := none, loader := { s.loader with segState := 0, job := none, segImage := [], repeats := 0, delayed := false } }
  let s := settleHold (modStall s i (fun st => { st with segHold := false })) i
  loadEvent s x.1 code 2 i

/-- A pending segment before SWAPPED, of a stall or of any, is aborted with 0x21 (R128, R166). -/
def abortSegment (s : State) (p : Nat → Bool) : State :=
  if decide (s.loader.segState ≠ 0) && decide (s.loader.segState.toNat < 5) && p s.loader.segStall.toNat
    then segFail s 0x21 0x3FF 0x3FFF else s

/-! ### Starting a reset (R158, R166) -/

/-- A stall reset starts: one in progress merges, and during a warm reset it is absorbed. -/
def startReset (i : Nat) (s : State) : State :=
  let st := getStall s i
  match st.state with
  | .absent => s
  | .resetting => s
  | _ =>
    if s.boot.warmStep ≠ 0 then s
    else
      let s := abortSegment s (fun j => j == i)
      let s := modStall s i (fun x => { x with
        state := .resetting, resetStep := 1, faultNew := none,
        faultWas := if x.faultCode = 0 then none else some (x.faultCode, x.faultUnit, x.faultKind) })
      failStallSlots s i true

/-- A reset asked for with its confirm code (Tables 4-14, 4-15). -/
def resetOp (i : Nat) (confirm : W16) (s : State) : State := if confirm = 0x5A3C then startReset i s else s

def execStlReset (stall : Fin 16) (confirm : W16) (s : State) : Host.Outcome State Fault Refusal :=
  .next (ownWrite stall.val (resetOp stall.val confirm) s)
def execStlMgmtReset (stall : Fin 16) (confirm : W16) (s : State) : Host.Outcome State Fault Refusal :=
  .next (mgmt (fun s => resetOp stall.val confirm (addressed stall.val s)) s)

/-! ### Clearing (Table 4-9) -/

/-- The failed core whose place core `n` takes for a carrier of stall `i` (Table 2-11). -/
def replacedBy (s : State) (i n : Nat) : Option Nat :=
  (stallCarriers s i).findSome? (fun c =>
    ((getCarrier s c).swaps.find? (fun x => x.1 == 2 && x.2.2 == n)).map (fun x => x.2.1))

/-- The cores of a stall: those it owns and those that stand in for one; a core out of service is left alone. -/
def stallCores (s : State) (i : Nat) : List Nat :=
  (List.range 48).filter (fun n => (decide (pcrOwner s n = some i) || (replacedBy s i n).isSome)
    && s.fuses.pcrEn.getLsbD n && decide ((getCore s n).st ≠ .out))

/-- The accumulator slots of the reserve context, or those of the main context, read zero. -/
def zeroSlots (a : ArrayU) (reserve : Bool) : ArrayU :=
  let keep (slot : Nat) : Bool := if reserve then decide (slot < 448) else decide (448 ≤ slot)
  { a with acc := a.acc.filter (fun x => keep (x.1 / 1024)), sat := a.sat.filter (fun x => keep x.1),
           fold := a.fold.filter (fun x => keep x.1), ueAcc := a.ueAcc.filter (fun w => keep (w / 512)) }

/-- What a stall's reset clears on array `n`: all of the main context of an owned array, its own tokens elsewhere, its
reserve context, and a stabling of its work (R139, R160, R166). -/
def clearArray (s : State) (i n : Nat) : State :=
  let own := decide (arrOwner s n = some i)
  let rsv := decide ((getArr s n).rsvStall = some i)
  let inRsv := decide ((getArr s n).ctx = .reserve)
  let s := modArr s n (fun a =>
    let a := if a.moving.any (fun m => m.holder == i) then
      { a with moving := none, transit := (heldTokens a i).foldl (fun t k => setBit t k false) a.transit } else a
    let a := zeroTokens a (heldTokens a i)
    let a := if own then { zeroSlots a false with main := [], ueMain := [], parkedMain := [] } else a
    if rsv then { zeroSlots a true with rsv := [], ueRsv := [], parkedRsv := [], events := tset 0 a.events 15 0 } else a)
  if own then
    modVec s n (fun v =>
      let v := if inRsv || !rsv then { v with saveTb := [], saveHf := [], ueSaveTb := [], ueSaveHf := [] } else v
      if inRsv && !rsv then v else { v with tb := [], hf := [], ueTb := [], ueHf := [] })
  else s

/-- Edge-capture queues and overflow flags of the clusters a stall owns (Table 4-9). -/
def clearCaptures (s : State) (i : Nat) : State :=
  (List.range 6).foldl (fun s c =>
    if (List.range 8).any (fun k => decide (pcrOwner s (8 * c + k) = some i)) then
      modCluster s c (fun cl => { cl with dets := tmods {} cl.dets (List.range 4) (fun _ d => { d with queue := [], ovf := false }) })
    else s) s

/-- The network records of a stall. -/
def stallNets (s : State) (i : Nat) : List Nat :=
  (List.range 32).filter (fun r => (schoolCfg s r).any (fun x => netStall s x.2 == i))

/-- The volatile state of a stall is cleared (Table 4-9); its dirty lines are written back. `zero`: traces too, as at a
warm reset. -/
def clearStall (s : State) (i : Nat) (zero : Bool) : State :=
  let s := (List.range 8).foldl (fun s n => clearArray s i n) s
  let s := (stallCores s i).foldl (fun s n => modCore s n clearCore) s
  let s := clearCaptures s i
  let s := (stallNets s i).foldl (fun s r => resetNet s r zero) s
  let s := cacheFlushStall s i
  let s := (List.range 4).foldl (fun s p => if (tethRec s p).any (fun r => r.stall == i) then
    modTth s p (fun t => { t with chans := tmods {} t.chans (List.range 8) (fun _ x => { x with tail := x.txRd }) }) else s) s
  let others := (sharedStalls s).filter (fun j => j != i)
  let va := leastV ((others.filter (fun j => (getStall s j).backlogArr)).map (fun j => (getStall s j).va))
  let vp := leastV ((others.filter (fun j => (getStall s j).backlogMvp)).map (fun j => (getStall s j).vp))
  modStall s i (fun x =>
    let f := x.faultNew.getD (0, 0, 0)
    { x with
      runs := [], openBatches := [], closedBatches := [], images := [], va := va.getD 0, vp := vp.getD 0,
      faultCode := f.1, faultUnit := f.2.1, faultKind := f.2.2, accErr := 0, quiesce := false,
      queues := tmods {} x.queues (List.range 8) (fun _ q => { q with latched := none, newTail := none, accepting := none, waiting := none, stopped := false, stopKind := 0, stopReason := 0 }) })

/-- Loads into bank 0 begin (R161): a core that stands in for another gets that core's program. -/
def beginLoads (s : State) (i : Nat) : State :=
  (stallCores s i).foldl (fun s n => beginLoad s n (lowestBind s ((replacedBy s i n).getD n))) s

/-! ### The steps (Table 4-8) -/

/-- The journal check found the control area bad (R202). -/
def journalBad (s : State) (i : Nat) (x : Byte × W16) : State :=
  stallFault (modStall s i (fun st => { st with badJournal := true, runs := [] })) i 0x2002 14 x.1.toNat ([x.1] ++ bytesOf x.2) none

/-- Step 4 ends: journal re-read, reserve banks loaded. -/
def restoreStall (s : State) (i : Nat) (bad : Option (Byte × W16)) : State :=
  let s := match bad with
    | some x => journalBad s i x
    | none => restoreControl s i (getStall s i).faultJob
  let s := modStall s i (fun st => { st with faultJob := none })
  (List.range 8).foldl (fun s n => if (getArr s n).rsvStall = some i then loadReserve s n else s) s

/-- A step of the sequence ends, its action done, and the next begins; step 4 ends once its loads have. -/
def resetStepDone (s : State) (i : Nat) (bad : Option (Byte × W16)) : State :=
  let next (s : State) (n : Nat) : State := modStall s i (fun x => { x with resetStep := n })
  match (getStall s i).resetStep with
  | 1 => next s 2
  | 2 =>
    let s := (stallCores s i).foldl (fun s n => modCore s n (fun c => { c with st := .reset, loadTag := none, preload := none })) s
    next (abortStall s i) 3
  | 3 => next (beginLoads (clearStall s i false) i) 4
  | 4 =>
    if (stallCores s i).any (fun n => decide ((getCore s n).st = .loading)) then s
    else next (restoreStall s i bad) 5
  | _ => s

def execStallResetStepDone (stall : Fin 16) (bad : Option (Byte × W16)) (s : State) : Host.Outcome State Fault Refusal :=
  if (getStall s stall.val).state = .resetting ∧ groomUp s 1 = true then .next (resetStepDone s stall.val bad) else .next s

/-! ### Resuming (R157, R159 step 5) -/

/-- Whether a fault's cause persists (R157). -/
def persists (s : State) (i : Nat) (f : W16 × Byte × BitVec 4) : Bool :=
  if f.1 = 0x2003 then (getStack s f.2.1.toNat).failed && onStack s i f.2.1.toNat
  else if f.1 = 0x2004 then (List.range 8).any (fun m => mayUseArr s i m) && (List.range 8).all (fun m => !mayUseArr s i m || !arrUsable s m)
  else if f.1 = 0x2002 then (getStall s i).badJournal
  else false

/-- The stall returns to ACTIVE, to HELD where something holds it, or to FAULTED. -/
def resumeState (s : State) (i : Nat) : State :=
  let st := getStall s i
  let f := match st.faultWas with
    | some f => if persists s i f then some f else st.faultNew
    | none => st.faultNew
  match f with
  | some f => modStall s i (fun x => { x with
      state := .faulted, faultCode := f.1, faultUnit := f.2.1, faultKind := f.2.2, faultWas := none, faultNew := none, resetStep := 0 })
  | none =>
    let s := modStall s i (fun x => { x with
      state := .active, faultWas := none, faultNew := none, resetStep := 0,
      quiesce := x.quiesceLate.getD x.quiesce, quiesceLate := none })
    let s := settleHold s i
    if (getStall s i).state = .active then resumeQueues s i else s

/-- The stall reset ends and is counted; the stall is evaluated again (R349). -/
def resumeStall (s : State) (i : Nat) : State :=
  let s := modStall (resumeState s i) i (fun x => { x with resetCnt := satInc x.resetCnt })
  refreshBacklog (if isPaced s i then evaluateStall s i else s)

/-- Whether a stall may resume now: a SHARED stall at once, a PACED one at a slot boundary of its carriers (R159). -/
def resumesNow (s : State) (i : Nat) : Bool :=
  !isPaced s i || (stallCarriers s i).isEmpty || (s.air.running && atSlotBoundary s i)

def execStallResetResume (stall : Fin 16) (s : State) : Host.Outcome State Fault Refusal :=
  let i := stall.val
  if (getStall s i).state = .resetting ∧ (getStall s i).resetStep = 5 ∧ groomUp s 1 = true ∧ (resumesNow s i = true) then .next (resumeStall s i)
  else .next s

end Sys2Proof.Machine
end

