-- ==== Sys2Proof/Machine/Grooms.lean ====
section
/-!
DEFINITION. Grooms: lockstep, watchdogs and restarts (R579 to R586), image update (R587 to R592); the energy budget's
register and the telemetry (R566, R597); throttle and trip (R593 to R595).
-/
namespace Sys2Proof.Machine

/-! ### A full load that fails (R117, R131) -/

/-- A full load fails with a code of Table 3-17: the device keeps what it has. -/
def fullFail (s : State) (image : List Byte) (code : Byte) (index record : Nat) : State :=
  let x := serialOf s image
  let s := setErr x.2 code index record
  loadEvent { s with loader := { s.loader with state := 15, job := none } } x.1 code 1 0

/-! ### Restarts (R584, R585) -/

/-- Restarts of a groom in the last 10 s (R585). -/
def recentOf (s : State) (g : Nat) : List Nat := (getGroom s g).recent.filter (fun t => decide (s.now - t < 1228800000))

/-- GRM_DEV_STS.DEGRADED (R602). -/
def degraded (s : State) : Bool :=
  (List.range 4).any (fun g => (getGroom s g).unchecked || decide ((getGroom s g).state = .failed))

/-- The restart of a groom is recorded (Table 17-4): resumed, or left FAILED. -/
def groomEvent (s : State) (g : Nat) (failed : Bool) : State :=
  report s { code := 0x0005, kind := 0xB, unit := BitVec.ofNat 8 g,
             data := [(getGroom s g).lastCause.setWidth 8, flag 8 0 failed] }

/-- A groom is left FAILED (R585). -/
def groomFailed (s : State) (g : Nat) : State :=
  groomEvent (modGroom s g (fun x => { x with state := .failed, step := 0, handover := false })) g true

/-- An update's outcome (R606). -/
def updateEvent (s : State) : State :=
  report s { code := 0x0006, kind := 0xB, unit := s.grm.step.setWidth 8,
             data := [s.grm.state.setWidth 8, s.grm.err] ++ bytesOf s.grm.stagedVer }

/-- What the duties of a groom that restarts lose at once: a full load before APPLY fails (Table 16-2), shadow edits that no
swap has armed are discarded (R54) and a segment repeats EDITED once (R129). -/
def duties (s : State) (g : Nat) : State :=
  if g = 1 ∧ s.loader.job.any (fun j => !j.segment) = true then fullFail s [] 0x21 0x3FF 0x3FFF
  else if g = 3 then
    let s := if s.air.swapFrame.isNone then modAir s copyGait else s
    if 1 ≤ s.loader.segState.toNat ∧ s.loader.segState.toNat ≤ 3 then
      if 1 ≤ s.loader.repeats then abortSegment s (fun _ => true)
      else { s with loader := { s.loader with repeats := s.loader.repeats + 1, segState := if s.loader.segState = 3 then 2 else s.loader.segState } }
    else s
  else s

/-- A restart begins (Table 16-3): outputs are blocked, and the ninth within 10 s leaves the groom FAILED (R585). It loads
from `slot`. -/
def beginRestart (s : State) (g : Nat) (cause : BitVec 4) (slot handover : Bool) : State :=
  let recent := recentOf s g
  if 8 ≤ recent.length then
    let s := groomFailed (modGroom s g (fun x => { x with lastCause := cause })) g
    duties (report s { code := 0x5009, kind := 0xB, unit := BitVec.ofNat 8 g, data := [BitVec.ofNat 8 recent.length] }) g
  else
    let s := modGroom s g (fun x => { x with
      state := .restarting, step := 2, lastCause := cause, recent := s.now :: recent, restarts := satInc x.restarts,
      loadSlot := slot, handover := handover, retried := false, passed := false })
    duties s g

/-- The grooms of a list restart one after another from the active slot without handover; after the last the update is
ROLLED_BACK (R591). One that is left FAILED is passed over. -/
def rollNext : List Nat → BitVec 4 → State → State
  | [], _, s => updateEvent { s with grm := { s.grm with state := 6, err := 8, rolling := false, rollback := [] } }
  | g :: rest, cause, s =>
    let s := { s with grm := { s.grm with step := BitVec.ofNat 2 g, rolling := true, rollback := rest } }
    let s := beginRestart (modGroom s g (fun x => { x with updated := false })) g cause s.grm.active false
    if (getGroom s g).state = .failed then rollNext rest 6 s else s

/-- The update rolls back (R591): the groom at fault, then those already updated, last first. -/
def rollBack (s : State) (g : Nat) (cause : BitVec 4) : State :=
  rollNext (g :: (List.range 4).filter (fun k => k != g && (getGroom s k).updated)) cause s

/-- Whether a groom was updated in the update under way, or is being updated (R591). -/
def inUpdate (s : State) (g : Nat) : Bool :=
  s.grm.state == 3 && ((getGroom s g).updated || (getGroom s g).handover)

/-- A fault restart, or one that S0 asked for. -/
def faultRestart (s : State) (g : Nat) (cause : BitVec 4) : State :=
  if inUpdate s g then rollBack s g cause else beginRestart s g cause s.grm.active false

/-- The comparator reports a mismatch (R579); an UNCHECKED groom's is untrusted (R582). -/
def execGroomMismatch (g : Fin 4) (s : State) : Host.Outcome State Fault Refusal :=
  if groomUp s g.val then .next (faultRestart s g.val (if (getGroom s g.val).unchecked then 4 else 1)) else .next s

/-- The watchdog expires (R583). -/
def execGroomWatchdog (g : Fin 4) (s : State) : Host.Outcome State Fault Refusal :=
  if groomUp s g.val then .next (faultRestart s g.val 2) else .next s

/-- An uncorrectable error in groom memory (R606). -/
def execGroomMemUe (g : Fin 4) (s : State) : Host.Outcome State Fault Refusal :=
  if groomUp s g.val then .next (faultRestart s g.val 3) else .next s

/-- GRM_CTL.RESTART with its confirm code (R585): the 10 s count is cleared, and a FAILED groom leaves FAILED. -/
def groomCmdOp (g : Nat) (confirm : W16) (s : State) : State :=
  let s := { s with grm := { s.grm with ctlGroom := BitVec.ofNat 2 g } }
  if confirm = 0x6B1D ∧ ((getGroom s g).state = .running ∨ (getGroom s g).state = .failed) then
    faultRestart (modGroom s g (fun x => { x with recent := [] })) g 5
  else s
def execGroomRestartCmd (g : Fin 4) (confirm : W16) (s : State) : Host.Outcome State Fault Refusal :=
  .next (mgmt (groomCmdOp g.val confirm) s)

/-- The injected mismatch of every 16 ms (R581): four reported in a row clear UNCHECKED. -/
def execComparatorTest (g : Fin 4) (reported : Bool) (s : State) : Host.Outcome State Fault Refusal :=
  let g := g.val
  let x := getGroom s g
  let e : Event := { code := 0x5008, kind := 0xB, unit := BitVec.ofNat 8 g }
  if groomUp s g = false then .next s
  else if reported then
    let s := modGroom s g (fun x => { x with
      passed := true, tests := if x.unchecked then x.tests + 1 else 0, unchecked := x.unchecked && decide (x.tests < 3) })
    .next (if x.unchecked && decide (3 ≤ x.tests) then pushEvent s e else s)
  else .next (report (modGroom s g (fun x => { x with unchecked := true, tests := 0 })) e)

/-! ### Update (R588 to R592) -/

/-- A step of the update: a restart from the inactive slot with a handover record (R589). -/
def updateStep (s : State) (g : Nat) : State :=
  let s := { s with grm := { s.grm with step := BitVec.ofNat 2 g } }
  if groomUp s g ∨ (getGroom s g).state = .failed then
    let s := beginRestart s g 6 (!s.grm.active) true
    if (getGroom s g).state = .failed then rollBack s g 6 else s
  else s

/-- The roll-back goes on where groom `g` was restarting for it (R591). -/
def rollOn (was s : State) (g : Nat) : State :=
  if was.grm.rolling && was.grm.step == BitVec.ofNat 2 g then rollNext s.grm.rollback 6 s else s

/-- A groom resumes: its duties go on where they paused (Table 16-2). -/
def groomResumes (s : State) (g : Nat) : State :=
  let s := groomEvent (modGroom s g (fun x => { x with
    state := .running, step := 0, slot := x.loadSlot, handover := false, updated := x.updated || x.handover, resumedAt := s.now })) g false
  let s := if g = 1 then (List.range 8).foldl grantFreed s else s
  let s := if g = 3 ∧ s.air.notify = true then raiseSource (modAir s (fun a => { a with notify := false })) 0x2000 else s
  if g = 0 then (List.range 16).foldl (fun s i => if stallActive s i then resumeQueues s i else s) s
  else s

/-- A step of a restart ends (Table 16-3, R591, R606). `ok` false: the load failed its check, or the groom did not come
through the step. -/
def execGroomRestartStepDone (g : Fin 4) (ok : Bool) (s : State) : Host.Outcome State Fault Refusal :=
  let g := g.val
  let x := getGroom s g
  if x.state ≠ .restarting ∨ x.step = 0 then .next s
  else if !ok then
    if x.step = 4 ∧ x.retried = false then .next (modGroom s g (fun x => { x with retried := true }))
    else if inUpdate s g then .next (rollBack s g x.lastCause)
    else if x.step = 4 then
      .next (rollOn s (report (groomFailed s g)
        { code := 0x500A, kind := 0xB, unit := BitVec.ofNat 8 g, data := [flag 8 0 x.loadSlot] }) g)
    else .next s
  else if x.step < 5 then .next (modGroom s g (fun x => { x with step := x.step + 1 }))
  else .next (rollOn s (groomResumes s g) g)

/-- Whether an update, a load or a segment keeps STAGE and APPLY from starting (Table 16-4 BUSY). -/
def updateBusy (s : State) : Bool :=
  s.grm.state == 1 || s.grm.state == 3 || s.loader.job.isSome || decide (s.loader.segState ≠ 0)

/-- A refused STAGE is a failure (R588); a refused APPLY, and an update under way, keep the state. -/
def grmBusy (s : State) (stage : Bool) : State :=
  updateEvent { s with grm := { s.grm with err := 7, state := if s.grm.state = 1 ∨ s.grm.state = 3 ∨ stage = false then s.grm.state else 5 } }

/-- GRM_UPD_CTL.STAGE (R588). -/
def stageOp (s : State) : State :=
  if updateBusy s then grmBusy s true
  else
    let s := if s.grm.len.toNat ≤ 2097152 then hostRead s 0 s.grm.src s.grm.len.toNat else s
    { s with grm := { s.grm with state := 1, err := 0 } }
def execGrmStage (s : State) : Host.Outcome State Fault Refusal := .next (mgmt stageOp s)

/-- What the staging of an image finds first (R588, Table 16-4); 0 for nothing. -/
def stageError (s : State) (m : GroomImage) : Byte :=
  if m.readFault then 1
  else if m.length = 0 ∨ 2097152 < m.length.toNat then 2
  else if !m.formatOk || m.stepping != 0x0B00 then 3
  else if !m.signatureOk then 4
  else if m.secVersion.toNat < s.grm.floor.toNat then 5
  else if !m.storeOk then 6
  else 0

/-- Staging ends (R588). -/
def execGrmStageDone (image : GroomImage) (s : State) : Host.Outcome State Fault Refusal :=
  if s.grm.state ≠ 1 then .next s
  else
    let e := stageError s image
    if e = 0 then
      .next (updateEvent { s with grm := { s.grm with state := 2, err := 0, digestStaged := image.digest, stagedVer := image.secVersion } })
    else .next (updateEvent { s with grm := { s.grm with state := 5, err := e } })

/-- GRM_UPD_CTL.APPLY (R589): the update begins with G3. -/
def applyOp (s : State) : State :=
  if updateBusy s then grmBusy s false
  else if s.grm.state = 2 then
    let s := { s with grm := { s.grm with state := 3, err := 0, rollback := [] } }
    updateStep ((List.range 4).foldl (fun s g => modGroom s g (fun x => { x with updated := false })) s) 3
  else s
def execGrmApply (s : State) : Host.Outcome State Fault Refusal := .next (mgmt applyOp s)

/-- 16 ms after an updated groom resumed, and one injected test passed, the next step begins or the update is done
(R589); a step that waited for another restart begins. -/
def execUpdateStepTimer (s : State) : Host.Outcome State Fault Refusal :=
  let g := s.grm.step.toNat
  let x := getGroom s g
  if s.grm.state ≠ 3 ∨ s.grm.rolling = true then .next s
  else if x.state = .running ∧ x.updated = true ∧ x.passed = true ∧ 1966080 ≤ s.now - x.resumedAt then
    if g = 0 then
      .next (updateEvent { s with grm := { s.grm with
        state := 4, active := !s.grm.active, digest := s.grm.digestStaged, version := s.grm.stagedVer } })
    else .next (updateStep s (g - 1))
  else if x.updated = false ∧ (x.state = .running ∨ x.state = .failed) then .next (updateStep s g)
  else .next s

/-- GRM_UPD_CTL.ABORT: a staged image is abandoned before APPLY (Table 16-4). -/
def grmAbortOp (s : State) : State :=
  if s.grm.state = 1 ∨ s.grm.state = 2 then updateEvent { s with grm := { s.grm with state := 5, err := 9 } } else s
def execGrmAbort (s : State) : Host.Outcome State Fault Refusal := .next (mgmt grmAbortOp s)

/-- GRM_UPD_CTL.RAISE_FLOOR (R592); GRM_FLOOR is never lowered. -/
def grmFloorOp (s : State) : State :=
  { s with grm := { s.grm with floor := if s.grm.floor.toNat < s.grm.version.toNat then s.grm.version else s.grm.floor } }
def execGrmRaiseFloor (s : State) : Host.Outcome State Fault Refusal := .next (mgmt grmFloorOp s)

/-! ### Budget and telemetry (R566, R573, R597) -/

/-- A write of PWR_BUDGET: in force at the next frame boundary, or refused. -/
def budgetOp (value : W64) (s : State) : State :=
  let n := budgetInt' value
  if budgetEnergy value ≠ 0 ∧ (n = 0 ∨ 3600 < n) then { s with power := { s.power with refused := true } }
  else { s with power := { s.power with next := some (value &&& 0x0FFF0FFFFFFFFFFF), refused := false } }
where
  budgetEnergy (w : W64) : Nat := (bits w 0 32).toNat
  budgetInt' (w : W64) : Nat := (bits w 32 12).toNat
def execPwrBudgetWrite (value : W64) (s : State) : Host.Outcome State Fault Refusal := .next (mgmt (budgetOp value) s)

/-- One rail's answer, or one more millisecond without one. -/
def pollRail (r : RailReading) (x : Rail) : Rail :=
  if r.answered then { mv := r.mv, current := r.current, temp := r.temp, status := r.status }
  else { x with silent := x.silent + 1 }

/-- Energy of a sample over 1 ms in units of 10 nJ: mV × 10 mA, by the rail's last good sample (Table 17-6). -/
def railEnergy (x : Rail) : Nat := x.mv.toNat * x.current.toNat

/-- The millisecond's telemetry (R566, R597): rails, hottest sensors and the energy they add. -/
def execPmbusPoll (rails : List RailReading) (tj ts : Byte) (s : State) : Host.Outcome State Fault Refusal :=
  let p := s.power
  if !sampling s then .next s else
  let polled := rails.zipIdx.foldl (fun t x => tmod {} t x.2 (pollRail x.1)) p.rails
  let e := ((List.range 8).map (fun k => railEnergy (tget {} polled k))).sum
  let all := p.rem + e
  .next { s with power := { p with
    rails := polled, tj := tj, ts := ts, frameE := p.frameE + e, rem := all % 100,
    energy := p.energy + BitVec.ofNat 64 (all / 100), intEnergy := p.intEnergy + BitVec.ofNat 64 (all / 100) } }

/-- A rail has not answered for 10 ms (R573): the telemetry fault, and no voltage change on it (R606). -/
def execRailNoAnswer (rail : Fin 8) (s : State) : Host.Outcome State Fault Refusal :=
  let r := rail.val
  if 10 ≤ (getRail s r).silent ∧ (getRail s r).faulted = false ∧ sampling s = true then
    .next (report { s with power := { s.power with rails := tmod {} s.power.rails r (fun x => { x with faulted := true }) } }
      { code := 0x6003, kind := 0xF, unit := BitVec.ofNat 8 r, data := [BitVec.ofNat 8 (0x40 + r)] })
  else .next s

/-! ### Hard limits (R593 to R595) -/

/-- A sensor reaches its throttle limit (R594). -/
def execThrottleEnter (sensor temp : Byte) (s : State) : Host.Outcome State Fault Refusal :=
  if s.power.throttle || !sampling s then .next s
  else
    .next (report { s with power := { s.power with throttle := true, throttleAt := s.now } }
      { code := 0x6001, data := [sensor, temp] })

/-- Throttle ends (R593). -/
def execThrottleEnd (s : State) : Host.Outcome State Fault Refusal :=
  let p := s.power
  if p.throttle then
    .next { voidWhen s true with power := { p with throttle := false, throttleNs := p.throttleNs + BitVec.ofNat 64 (ticksNs (s.now - p.throttleAt)) } }
  else .next s

/-- A girth link stops without a failure of its own (R595): its I/O die behaves as for a failed link. -/
def stopLink (s : State) (g : Nat) : State :=
  let s := modGirth s g (fun x => if x.state = .absent then x else { leaveActive s.now x with
    state := .failed, phase := .none, buf := [], resend := [], nakAt := none, nakDue := false,
    outQ := [], ctrlQ := [], inQ := [], reqs := [], reqWait := [] })
  let s := silencePort (silencePort s (2 * g)) (2 * g + 1)
  linkLost (candUpdate s g candLost) g

/-- A trip limit is reached (R595): clocks stop, the links stop and the trip is recorded, which freezes the trail. -/
def execTrip (cause : BitVec 4) (sensor : Byte) (value : W16) (s : State) : Host.Outcome State Fault Refusal :=
  if s.power.tripped || !sampling s then .next s
  else
    let p := s.power
    let s := { s with power := { p with
      tripped := true, lastTrip := cause, tripCnt := satInc p.tripCnt,
      trips := s.now :: p.trips.filter (fun t => decide (s.now - t < 442368000000)) } }
    .next (stopLink (stopLink (report s { code := 0x6002, data := [cause.setWidth 8, sensor] ++ bytesOf value }) 0) 1)

end Sys2Proof.Machine
end

