-- ==== Sys2Proof/Machine/Harness.lean ====
section
/-!
DEFINITION. The harness image: its layout (R98 to R101), its sections (R102 to R115, R390, R405, R448) and the checks
of steps 1 to 9 of the full load (R117).
-/
namespace Sys2Proof.Machine

/-- An error of the loader (Table 3-16): code, directory index, record index. -/
structure LoadErr where
  code : Byte
  index : Nat := 0x3FF
  record : Nat := 0x3FFF
  deriving DecidableEq, Repr

/-- The error where a condition is broken. -/
def need (ok : Bool) (e : LoadErr) : Option LoadErr := if ok then none else some e

/-- The error at the first element of a list that breaks a condition. -/
def needAll {α : Type} (xs : List α) (ok : α → Bool) (code : Byte) (index : Nat) : Option LoadErr :=
  (firstIdx (fun x => !ok x) xs 0).map (fun k => { code := code, index := index, record := k })

/-- The error at the first element that breaks a condition on those before it and itself. -/
def needEach {α : Type} (xs : List α) (ok : List α → α → Bool) (code : Byte) (index : Nat) : Option LoadErr :=
  ((List.range xs.length).find? (fun k => !((xs[k]?).all (ok (xs.take k))))).map (fun k => { code := code, index := index, record := k })

/-- The first error of a list of checks. -/
def firstErr (xs : List (Option LoadErr)) : Option LoadErr := xs.findSome? id

/-! ### Header, directory and signature block (R98 to R101) -/

/-- A section: its type, directory index, offset, length and CRC (R100). -/
structure Sec where
  type : Nat
  index : Nat
  flags : Nat
  offset : Nat
  len : Nat
  crc : W32
  deriving DecidableEq, Repr

def imageLen (b : List Byte) : Nat := (u32 b 8).toNat
def imageCount (b : List Byte) : Nat := (u16 b 0x0C).toNat
def imageSegment (b : List Byte) : Bool := u8 b 6 == 2
def imageSerialNo (b : List Byte) : W32 := u32 b 0x10
def imageBase (b : List Byte) : W32 := u32 b 0x14
def signedRegion (b : List Byte) : List Byte := b.take (imageLen b - 208)
def sigBlock (b : List Byte) : List Byte := slice b (imageLen b - 208) 208

/-- The directory (R100). -/
def imageSecs (b : List Byte) : List Sec :=
  (List.range (imageCount b)).map (fun k =>
    let e := slice b (128 + 16 * k) 16
    { type := (u16 e 0).toNat, index := k, flags := (u16 e 2).toNat, offset := (u32 e 4).toNat, len := (u32 e 8).toNat, crc := u32 e 12 })

def secBody (b : List Byte) (x : Sec) : List Byte := slice b x.offset x.len

/-- The body of the one section of a type; empty where there is none. -/
def bodyOf (b : List Byte) (ty : Nat) : List Byte :=
  match (imageSecs b).find? (fun x => x.type == ty) with
  | some x => secBody b x
  | none => []

def indexOf (b : List Byte) (ty : Nat) : Nat :=
  match (imageSecs b).find? (fun x => x.type == ty) with
  | some x => x.index
  | none => 0x3FF

def secCount (b : List Byte) (ty : Nat) : Nat := (imageSecs b).countP (fun x => x.type == ty)

/-! ### Lists of records (R103) -/

/-- A list of records that opens a body: its records, and what follows them. -/
structure RecList where
  ok : Bool
  recs : List (List Byte)
  rest : List Byte
  deriving DecidableEq, Repr

def recList (size : Nat) (body : List Byte) : RecList :=
  let n := leNat (body.take 4)
  let ok := decide (8 ≤ body.length) && decide ((u16 body 4).toNat = size) && decide (u16 body 6 = 0) && decide (8 + n * size ≤ body.length)
  if ok then { ok := true, recs := (List.range n).map (fun k => slice body (8 + size * k) size), rest := body.drop (8 + n * size) }
  else { ok := false, recs := [], rest := [] }

def recsOf (b : List Byte) (ty size : Nat) : List (List Byte) := (recList size (bodyOf b ty)).recs

def nat8 (r : List Byte) (o : Nat) : Nat := (u8 r o).toNat
def nat16 (r : List Byte) (o : Nat) : Nat := (u16 r o).toNat
def nat32 (r : List Byte) (o : Nat) : Nat := (u32 r o).toNat
def nat64 (r : List Byte) (o : Nat) : Nat := (u64 r o).toNat

/-! ### The sections' records -/

def stallRecOf (r : List Byte) : StallRec :=
  { stall := nat8 r 0, cls := nat8 r 1, host := nat8 r 2, vf := nat8 r 3, share := nat16 r 4, queues := nat8 r 6,
    qdepthLog2 := nat8 r 7, gatherWindow := nat16 r 8, thinRows := nat16 r 0x0A, jobAbi := u16 r 0x0C,
    mvpAllowed := bit (u8 r 0x0E) 0, memBase := u64 r 0x10, memSize := u64 r 0x18 }

def resRecOf (r : List Byte) : ResRec :=
  { stall := nat8 r 0, arrOwn := u8 r 4, arrBorrow := u8 r 5, mvpOwn := bits (u8 r 6) 0 4, mvpBorrow := bits (u8 r 7) 0 4,
    fdrOwn := u16 r 8, fdrBorrow := u16 r 0x0A, decOwn := bits (u32 r 0x0C) 0 24, decBorrow := bits (u32 r 0x10) 0 24,
    seOwn := bits (u8 r 0x14) 0 2, pcrOwn := bits (u64 r 0x18) 0 48, pcrBorrow := bits (u64 r 0x20) 0 48 }

def memRecOf (r : List Byte) : MemRec := { stall := nat8 r 0, ways := u16 r 2, channels := u64 r 8 }

/-- The bank of a GAIT body, up to its first END or 4,096 entries (R46), END left out. -/
def gaitOf (body : List Byte) : List W64 :=
  (((List.range (min 4096 (body.length / 8))).map (fun k => u64 body (8 * k))).takeWhile (fun e => gAction e != 0x3F))

/-- TIME, with the defaults of SLEW_LIMIT and STEP_LIMIT (Table 3-7). -/
def timeOf (t : List Byte) : TimeCfg :=
  { cand := slice t 0 4, revertive := u8 t 4 == 1, holdDrift := u32 t 8, holdLimit := u32 t 0x0C,
    slewLimit := if u32 t 0x10 = 0 then 123 else u32 t 0x10, stepLimit := if u32 t 0x14 = 0 then 30720 else u32 t 0x14,
    slotCode := slice t 0x18 8, carrierStall := slice t 0x20 8 }

def bindRecOf (r : List Byte) : BindRec :=
  { bind := u8 r 0, cluster := nat8 r 1, mask := u8 r 2, code := u16 r 4, entry := u32 r 8 }
def detRecOf (r : List Byte) : DetRec :=
  { cluster := nat8 r 0, det := nat8 r 1, source := u8 r 2, polarity := u8 r 3, debounce := u8 r 4 }
def tetherRecOf (r : List Byte) : TetherRec :=
  { port := nat8 r 0, role := u8 r 1, mode := u8 r 2, stall := nat8 r 3, timeDir := u8 r 4, gain := u8 r 5 }
def clockRecOf (r : List Byte) : ClockRec :=
  { domain := nat8 r 0, unit := nat8 r 1, pin := bit (u8 r 2) 0, freq := nat16 r 4 }
def routeRecOf (r : List Byte) : RouteRec := { source := u16 r 0, stall := nat8 r 2, vector := bits (u16 r 4) 0 11 }
def fallRecOf (r : List Byte) : FallRec :=
  { kind := nat8 r 0, failed := nat8 r 1, stall := nat8 r 2, action := nat8 r 3, replace := nat8 r 4, alsoFenced := u8 r 6, variant := nat16 r 8 }

/-- PACED_BUDGET (R115). -/
def budgetOfBody (b : List Byte) : Budget :=
  { stall := nat8 b 0, carriers := nat8 b 1, shedOrder := slice b 4 8, deadline := nat32 b 0x0C,
    variants := (List.range (nat16 b 2)).map (fun k =>
      let v := slice b (24 + 36 * k) 36
      (nat16 v 0, (List.range 8).map (fun j => nat32 v (4 + 4 * j)))) }

/-- The two lists of PACER_BIND (R109). -/
def bindLists (body : List Byte) : RecList × RecList :=
  let a := recList 16 body
  (a, recList 8 a.rest)

/-- The three lists of NETWORK_BIND (R405). -/
def networkLists (body : List Byte) : RecList × RecList × RecList :=
  let a := recList 96 body
  let b := recList 32 a.rest
  (a, b, recList 32 b.rest)

def carrierCfgOf (time : TimeCfg) (body r : List Byte) : CarrierCfg :=
  { carrier := nat8 r 0, stall := ((time.carrierStall[nat8 r 0]?).map (·.toNat)).getD 0xFF, fftLog2 := nat8 r 1,
    symbols := nat8 r 2, streams := nat8 r 3, cp0 := nat16 r 4, cp := nat16 r 6, rxOffset := (u16 r 8).toInt,
    laneBase := nat8 r 0x0A, cluster := nat8 r 0x0B, coreMask := u8 r 0x0C, agcMode := nat8 r 0x0D,
    agcTarget := nat8 r 0x0E, nbuf := nat8 r 0x0F, xBuf := nat16 r 0x10, yBuf := nat16 r 0x12, freezeLen := nat32 r 0x14,
    usedSc := nat16 r 0x18, usersMax := nat8 r 0x1A, layersMax := nat8 r 0x1B, decMask := bits (u32 r 0x1C) 0 24,
    planOff := nat64 r 0x20, repOff := nat64 r 0x28, payOff := nat64 r 0x30, paySlot := nat32 r 0x38,
    ringLog2 := nat8 r 0x3C, bitsMask := u8 r 0x3D, detThresh := nat8 r 0x3E, array := nat8 r 0x3F,
    preamble := if u32 r 0x40 = 0 then [] else (List.range 64).map (fun k => u32 body (nat32 r 0x40 + 4 * k)),
    inOff := nat32 r 0x44, llrOff := nat32 r 0x48, eqOff := nat32 r 0x4C, eqScale := nat8 r 0x50,
    mvpMask := bits (u8 r 0x51) 0 4 }

def netKindOf (k : Byte) : NetKind := if k = 1 then .ce else if k = 2 then .eqa else .llr

def netCfgOf (body r : List Byte) : NetCfg :=
  { net := nat8 r 0, kind := netKindOf (u8 r 1), carrier := nat8 r 2, array := nat8 r 3,
    tasks := (List.range (nat16 r 8)).map (fun k => slice body (nat32 r 4 + 64 * k) 64),
    wOff := nat32 r 0x0C, wLen := nat32 r 0x10, init := slice body (nat32 r 0x14) (nat32 r 0x10), school := u8 r 0x1C == 1 }

def codeCfgOf (stall : Nat) (body r : List Byte) : CodeCfg :=
  { code := nat8 r 0, stall := stall, mb := nat8 r 1, nb := nat8 r 2, kb := nat8 r 3, z := nat16 r 4, iMax := nat8 r 8,
    crc := nat8 r 9, bchT := nat8 r 0x0A,
    graph := (List.range (nat16 r 6)).map (fun k =>
      let e := u32 body (nat32 r 0x0C + 4 * k)
      ((bits e 0 8).toNat, (bits e 8 8).toNat, (bits e 16 9).toNat)),
    scale := (slice body (nat32 r 0x10) (nat8 r 8 * nat8 r 1)).map (·.toNat),
    req := (List.range 4).map (fun k => (u16 r (0x14 + 2 * k)).toInt) }

/-- The three lists of SCHOOL_CFG (R448). -/
def schoolLists (body : List Byte) : RecList × RecList × RecList :=
  let a := recList 16 body
  let b := recList 64 a.rest
  (a, b, recList 32 b.rest)

def schoolEngOf (r : List Byte) : SchoolEng :=
  { engine := nat8 r 0, nvInterval := nat16 r 2, seed := BitVec.ofNat 48 (leNat (slice r 4 6)) }

def schoolLayerOf (body : List Byte) (nOut : Nat) (r : List Byte) : SchoolLayer :=
  { layer := nat8 r 1, output := bit (u8 r 2) 0, fbShift := nat8 r 3, wLoc := nat32 r 4, k := nat16 r 8, n := nat16 r 0x0A,
    xLoc := nat16 r 0x0C,
    fb := if bit (u8 r 2) 0 then [] else (slice body (nat32 r 0x10) (nat16 r 0x0A * nOut)).map (·.toInt) }

def schoolCfgOf (body : List Byte) (layers : List (List Byte)) (r : List Byte) : SchoolCfg :=
  { net := nat8 r 0, engine := nat8 r 1, ring := nat8 r 2, signal := nat8 r 3, samples := nat16 r 4, hold := nat8 r 6,
    layers := (layers.filter (fun l => u8 l 0 == u8 r 0)).map (schoolLayerOf body (nat8 r 0x0E)),
    tapOff := nat32 r 8, tapRec := nat16 r 0x0C, nOut := nat8 r 0x0E, margin := nat8 r 0x0F, yLoc := nat16 r 0x10,
    tLoc := nat16 r 0x12, tshift := nat8 r 0x14, rate := nat8 r 0x15, decay := nat8 r 0x16, dmax := nat8 r 0x17,
    learnTaps := nat8 r 0x18, trialTaps := nat8 r 0x19, gain := nat8 r 0x1A, nvPages := nat8 r 0x1B, nvPage := nat8 r 0x1C,
    saOff := nat64 r 0x20, saLen := nat32 r 0x28, layout := u32 r 0x2C }

/-- The stalls a section's programs and codes serve: the segment's, or every PACED stall of a full image. -/
def sectionStalls (b : List Byte) : List Nat :=
  if imageSegment b then [nat8 b 7]
  else ((recsOf b 1 32).map stallRecOf).filterMap (fun r => if r.cls = 1 then some r.stall else none)

/-- What an image says. A segment has no TIME section of its own: `time` is then the running structure's. -/
def harnessOf (b : List Byte) (time : TimeCfg) : Harness :=
  let body4 := bodyOf b 4
  let t := if imageSegment b then time else timeOf (bodyOf b 5)
  let binds := bindLists (bodyOf b 6)
  let nb := bodyOf b 0x0D
  let nets := networkLists nb
  let sb := bodyOf b 0x0E
  let school := schoolLists sb
  { stalls := (recsOf b 1 32).map stallRecOf,
    res := (recsOf b 2 48).map resRecOf,
    mems := (recsOf b 3 16).map memRecOf,
    gait := gaitOf body4,
    time := t,
    binds := binds.1.recs.map bindRecOf,
    dets := binds.2.recs.map detRecOf,
    codes := (sectionStalls b).flatMap (fun i => ((imageSecs b).filter (fun x => x.type == 7)).map (fun x =>
      { index := x.index, stall := i, data := secBody b x })),
    tether := (recsOf b 8 8).map tetherRecOf,
    clocks := (recsOf b 9 8).map clockRecOf,
    routes := (recsOf b 0x0A 8).map routeRecOf,
    falls := (recsOf b 0x0B 16).map fallRecOf,
    budgets := ((imageSecs b).filter (fun x => x.type == 0x0C)).map (fun x => budgetOfBody (secBody b x)),
    carriers := nets.1.recs.map (carrierCfgOf t nb),
    nets := nets.2.1.recs.map (netCfgOf nb),
    ldpc := (sectionStalls b).flatMap (fun i => nets.2.2.recs.map (codeCfgOf i nb)),
    schoolEngs := school.1.recs.map schoolEngOf,
    schoolNets := school.2.1.recs.map (schoolCfgOf sb school.2.2.recs) }

/-! ### Steps 1 to 8 (Table 3-12) -/

/-- Step 1: the length written and the length of the image (R126, R127). -/
def stepCopy (len : W32) (max : Nat) (readFault : Bool) (b : List Byte) : Option LoadErr :=
  if readFault then some { code := 0x01 }
  else need (decide (256 ≤ len.toNat) && decide (len.toNat ≤ max) && decide (imageLen b = len.toNat)) { code := 0x02 }

/-- Step 2: the header (R99). SEG_STALL or BASE_SERIAL of a full image that is not 0 has 0x04 (DESIGN CHOICE,
notes/assumptions/38.md). -/
def stepHeader (segment : Bool) (b : List Byte) : Option LoadErr := firstErr [
  need (u32 b 0 == 0x534E5248) { code := 0x03 },
  need (u16 b 4 == 1 && u8 b 6 == (if segment then 2 else 1) && u16 b 0x0E == 128 && (segment || (u8 b 7 == 0 && imageBase b == 0))) { code := 0x04 },
  need (u32 b 0x7C == crc32c (b.take 0x7C ++ slice b 128 (16 * imageCount b))) { code := 0x05 }]

/-- Bodies in directory order, apart, each aligned, within the signed region; what lies between is 0 (R98, R100),
and so are the bytes before the first and after the last (DESIGN CHOICE, notes/assumptions/38.md). -/
def placedFrom (b : List Byte) : Nat → List Sec → Option LoadErr
  | at_, [] => need (allZero (slice b at_ (imageLen b - 208 - at_))) { code := 0x06 }
  | at_, x :: xs =>
    if x.flags != 0 || x.offset % 64 != 0 || x.len % 8 != 0 || decide (x.offset < at_)
        || decide (imageLen b - 208 < x.offset + x.len) || !allZero (slice b at_ (x.offset - at_)) then
      some { code := 0x06, index := x.index }
    else placedFrom b (x.offset + x.len) xs

/-- The counts of Table 3-3 in a full image: least and most. -/
def fullCount (paced : Nat) (ty : Nat) : Nat × Nat :=
  if ty = 6 ∨ ty = 0x0B ∨ ty = 0x0D ∨ ty = 0x0E then (0, 1)
  else if ty = 7 then (0, 256)
  else if ty = 0x0C then (paced, paced)
  else (1, 1)

/-- The counts of Table 3-3 in a segment. -/
def segCount (paced : Nat) (ty : Nat) : Nat × Nat :=
  if ty ≤ 4 then (1, 1)
  else if ty = 7 then (0, 64)
  else if ty = 6 ∨ ty = 0x0A ∨ ty = 0x0B ∨ ty = 0x0D ∨ ty = 0x0E then (0, 1)
  else if ty = 0x0C then (paced, paced)
  else (0, 0)

/-- Step 3: placement, types and counts (R98, R102). -/
def stepDirectory (segment : Bool) (b : List Byte) : Option LoadErr :=
  let n := imageCount b
  let paced := ((recsOf b 1 32).map stallRecOf).countP (fun r => r.cls == 1)
  let count := if segment then segCount paced else fullCount paced
  firstErr [
    need (decide (1 ≤ n) && decide (n ≤ 512) && decide (128 + 16 * n ≤ imageLen b - 208)) { code := 0x06 },
    placedFrom b (128 + 16 * n) (imageSecs b),
    ((imageSecs b).find? (fun x => x.type == 0 || decide (0x0E < x.type)
        || decide ((count x.type).2 < ((imageSecs b).take (x.index + 1)).countP (fun y => y.type == x.type)))).map
      (fun x => { code := 0x07, index := x.index }),
    need ((List.range 14).all (fun k => decide ((count (k + 1)).1 ≤ secCount b (k + 1)))) { code := 0x07 }]

/-- Step 4: every section's CRC. -/
def stepSections (b : List Byte) : Option LoadErr :=
  ((imageSecs b).find? (fun x => crc32c (secBody b x) != x.crc)).map (fun x => { code := 0x08, index := x.index })

/-- The key slot whose hash is that of the image's key (R116). -/
def keySlotOf (f : Fuses) (b : List Byte) : Option Bool :=
  let h := sha384 (slice (sigBlock b) 0x10 96)
  let live (k : Nat) : Bool := f.burned.getLsbD k && !f.revoked.getLsbD k
  if live 0 && h == f.hash0 then some false else if live 1 && h == f.hash1 then some true else none

/-- Step 5: an acceptable slot matches; with no slot BURNED there is no key at all (R132);
with every burned slot revoked none matches (DEDUCED, notes/assumptions/38.md). -/
def stepKey (f : Fuses) (b : List Byte) : Option LoadErr :=
  if f.burned = 0 then some { code := 0x09 }
  else need (keySlotOf f b).isSome { code := 0x0A }

/-- The SHA-384 digest of the signed region (R101). -/
def digestOf (b : List Byte) : BitVec 384 := sha384 (signedRegion b)

/-- Step 6: ECDSA over P-384 (R101). -/
def stepSignature (b : List Byte) : Option LoadErr :=
  let g := sigBlock b
  let num (o : Nat) : Nat := beNat (slice g o 48)
  need (u32 g 0 == 0x47495348 && ecdsaVerify (num 0x10) (num 0x40) (num 0x70) (num 0xA0) (digestOf b)) { code := 0x0B }

/-- Step 7: the floor (R133). -/
def stepSerial (floor : W32) (b : List Byte) : Option LoadErr :=
  need (decide (floor.toNat ≤ (imageSerialNo b).toNat)) { code := 0x0C }

/-- Step 8: stepping and the checker's flags (R122). -/
def stepChecker (b : List Byte) : Option LoadErr := firstErr [
  need (u16 b 0x18 == 0x0B00) { code := 0x0D },
  need (bits (u32 b 0x30) 0 10 == 0x3FF) { code := 0x0E }]

/-- Steps 1 to 8, with the step at which the load failed. -/
def stepsToChecker (s : State) (segment : Bool) (readFault : Bool) (b : List Byte) : Option (Nat × LoadErr) :=
  let step (n : Nat) (e : Unit → Option LoadErr) : Unit → Option (Nat × LoadErr) := fun _ => (e ()).map (fun x => (n, x))
  [step 1 (fun _ => stepCopy s.loader.len (if segment then 2 ^ 18 else 12 * 2 ^ 20) readFault b),
   step 2 (fun _ => stepHeader segment b), step 3 (fun _ => stepDirectory segment b), step 4 (fun _ => stepSections b),
   step 5 (fun _ => stepKey s.fuses b), step 6 (fun _ => stepSignature b), step 7 (fun _ => stepSerial s.loader.floor b),
   step 8 (fun _ => stepChecker b)].findSome? (fun f => f ())

/-! ### Step 9: the units an image names (R4, R74, R78, R117) -/

/-- A unit named: kind 1 array, 2 stack, 3 I/O die, 4 pacer core, 5 decoder engine, and the section and record that name
it. -/
structure Named where
  kind : Nat
  unit : Nat
  sec : Nat
  record : Nat
  deriving DecidableEq, Repr

/-- The I/O die of a time candidate (Table 3-7). -/
def candIod (c : Byte) : Option Nat :=
  if c = 1 then some 0 else if c = 2 then some 1 else if 4 ≤ c.toNat ∧ c.toNat ≤ 7 then some ((c.toNat - 4) / 2) else none

/-- The number of units of a kind. -/
def namedLimit (kind : Nat) : Nat := match kind with | 1 => 8 | 2 => 4 | 3 => 2 | 4 => 48 | _ => 24

/-- Units of a kind that each record of a list names. -/
def namedBy {α : Type} (kind sec : Nat) (xs : List α) (us : α → List Nat) : List Named :=
  xs.zipIdx.flatMap (fun x => (us x.1).map (fun u => { kind := kind, unit := u, sec := sec, record := x.2 }))

/-- The unit kind of a fallback record (R113). -/
def fallKind (k : Nat) : Nat := if k = 1 then 1 else if k = 2 then 4 else 5

/-- The unit that each fallback record says has failed. -/
def namedFalls (xs : List FallRec) : List Named :=
  (xs.zipIdx.filter (fun x => decide (1 ≤ x.1.kind ∧ x.1.kind ≤ 3))).map (fun x =>
    { kind := fallKind x.1.kind, unit := x.1.failed, sec := 0x0B, record := x.2 })

/-- The units of a kind that an interrupt source names (Table 17-5). -/
def routeNames (kind : Nat) (source : W16) : List Nat :=
  let t := (bits source 8 8).toNat
  let u := (bits source 0 8).toNat
  match kind with
  | 1 => if t = 7 ∨ t = 8 then [u] else []
  | 2 => if t = 0x24 then [u] else []
  | 3 => if t = 0x23 ∨ t = 0x28 then [u] else if t = 0x0D ∨ t = 0x0E then [u / 16] else if t = 0x0F then [u / 2] else []
  | 4 => if t = 6 then [u] else []
  | _ => if t = 0x0B then [u] else []

/-- Units that a structure names outside the REQ fields; a spare, named only as REPLACE, is not among them, nor is a number
that no unit of the kind has. The arrays of ALSO_FENCED are not counted as named (DESIGN CHOICE,
notes/assumptions/39.md). A PACER_SWAP acts on cores that its binding names (R394). -/
def namedUnits (h : Harness) : List Named :=
  (namedBy 3 1 h.stalls (fun r => [r.host])
  ++ namedBy 1 2 h.res (fun r => setBits (r.arrOwn ||| r.arrBorrow))
  ++ namedBy 4 2 h.res (fun r => setBits (r.pcrOwn ||| r.pcrBorrow))
  ++ namedBy 5 2 h.res (fun r => setBits (r.decOwn ||| r.decBorrow))
  ++ namedBy 2 3 h.mems (fun m => (List.range 4).filter (fun k => (List.range 16).any (fun c => m.channels.getLsbD (16 * k + c))))
  ++ namedBy 2 4 h.gait (fun e => if gAction e = 3 then [(gTarget e).toNat] else [])
  ++ namedBy 1 4 h.gait (fun e =>
      let t := (gTarget e).toNat
      if gAction e = 4 ∧ (t / 16 = 1 ∨ t / 16 = 2) then [t % 16] else [])
  ++ namedBy 3 4 h.gait (fun e => if gAction e = 9 then [(gTarget e).toNat / 2] else [])
  ++ (namedBy 3 5 h.time.cand (fun c => (candIod c).toList)).map (fun (x : Named) => { x with record := 0x3FFF })
  ++ namedBy 4 6 h.binds (fun b => (setBits b.mask).map (8 * b.cluster + ·))
  ++ namedBy 3 6 h.dets (fun d => [sourceIod d.source])
  ++ namedBy 3 8 h.tether (fun t => if t.role = 0 then [] else [t.port / 2])
  ++ namedBy 1 9 h.clocks (fun c => if c.domain = 1 ∨ c.domain = 2 then [c.unit] else [])
  ++ namedBy 1 0x0A h.routes (fun r => routeNames 1 r.source)
  ++ namedBy 2 0x0A h.routes (fun r => routeNames 2 r.source)
  ++ namedBy 3 0x0A h.routes (fun r => routeNames 3 r.source)
  ++ namedBy 4 0x0A h.routes (fun r => routeNames 4 r.source)
  ++ namedBy 5 0x0A h.routes (fun r => routeNames 5 r.source)
  ++ namedFalls h.falls
  ++ namedBy 1 0x0D h.carriers (fun c => [c.array])
  ++ namedBy 4 0x0D h.carriers (fun c => (setBits c.coreMask).map (8 * c.cluster + ·))
  ++ namedBy 5 0x0D h.carriers (fun c => setBits c.decMask)
  ++ namedBy 3 0x0D h.carriers (fun c => (List.range c.streams).map (fun a => (c.laneBase + a) / 16))).filter
    (fun x => decide (x.unit < namedLimit x.kind))

/-- Whether the fuse map provides a unit. -/
def provides (f : Fuses) (kind unit : Nat) : Bool :=
  match kind with
  | 1 => decide (unit < 8) && f.arrEn.getLsbD unit
  | 2 => decide (unit < 4) && f.stackEn.getLsbD unit
  | 3 => decide (unit < 2) && f.iodEn.getLsbD unit
  | 4 => decide (unit < 48) && f.pcrEn.getLsbD unit
  | _ => decide (unit < 24) && f.decEn.getLsbD unit

/-- Whether the REQ fields of an image name a unit (Table 3-2). -/
def required (b : List Byte) (kind unit : Nat) : Bool :=
  match kind with
  | 1 => (u8 b 0x1A).getLsbD unit
  | 2 => (u8 b 0x1B).getLsbD unit
  | 3 => (u8 b 0x1C).getLsbD unit
  | 4 => (u64 b 0x20).getLsbD unit
  | _ => (u32 b 0x28).getLsbD unit

/-! What an I/O die announces (Table 15-5). -/
def hasPcie (caps : W16) : Bool := bit caps 0
def hasTiming (caps : W16) : Bool := bit caps 1
def hasStrobes (caps : W16) : Bool := bit caps 2
def tetherPorts (caps : W16) : Nat := (bits caps 3 2).toNat
def jesdLanes (caps : W16) : Nat := (bits caps 5 5).toNat

/-- Every function of an I/O die that a harness names is announced (R530); `caps` gives a die's CAPS. -/
def announced (caps : Nat → W16) (b : List Byte) (h : Harness) : Option LoadErr :=
  let tether (p : Nat) : Bool := decide (p % 2 < tetherPorts (caps (p / 2)))
  let source (x : Byte) : Bool :=
    let n := x.toNat
    let c := caps (sourceIod x)
    if n ≤ 7 then hasStrobes c else if n ≤ 9 then decide (0 < jesdLanes c) else if n ≤ 11 then hasTiming c else tether (n - 12)
  firstErr [
    needAll h.stalls (fun r => hasPcie (caps r.host)) 0x0F (indexOf b 1),
    need (h.time.cand.all (fun c => match candIod c with
      | some d => if c.toNat ≤ 2 then hasTiming (caps d) else tether (c.toNat - 4)
      | none => true)) { code := 0x0F, index := indexOf b 5 },
    needAll h.dets (fun d => source d.source) 0x0F (indexOf b 6),
    needAll h.tether (fun t => t.role == 0 || tether t.port) 0x0F (indexOf b 8),
    needAll h.carriers (fun c => decide (c.streams = 0)
      || decide ((c.laneBase % 16 + c.streams - 1) / 4 < jesdLanes (caps (c.laneBase / 16)))) 0x0F (indexOf b 0x0D)]

/-- Step 9: required units are present, and every unit named elsewhere is required. -/
def stepFit (f : Fuses) (caps : Nat → W16) (b : List Byte) (h : Harness) : Option LoadErr := firstErr [
  announced caps b h,
  need ((List.range 5).all (fun k => (List.range 48).all (fun u => !required b (k + 1) u || provides f (k + 1) u))) { code := 0x0F },
  ((namedUnits h).find? (fun x => !required b x.kind x.unit)).map (fun x => { code := 0x0F, index := indexOf b x.sec, record := x.record })]

/-- A segment names no unit that the fuse map does not provide (R4, R78). -/
def segFit (f : Fuses) (b : List Byte) (h : Harness) : Option LoadErr :=
  ((namedUnits h).find? (fun x => !provides f x.kind x.unit)).map (fun x => { code := 0x0F, index := indexOf b x.sec, record := x.record })

/-- Fallback records whose spare is absent or fused off are disabled and counted (R117). -/
def dropSpares (f : Fuses) (h : Harness) : Harness × Nat :=
  let gone (r : FallRec) : Bool := r.action == 1 && !provides f (fallKind r.kind) r.replace
  ({ h with falls := h.falls.map (fun r => if gone r then { r with enabled := false } else r) }, h.falls.countP gone)

end Sys2Proof.Machine
end

