-- ==== Sys2Proof/Machine/HarnessChecks.lean ====
section
/-!
DEFINITION. Step 10 of the full load: the loader's checks of Table 3-13, in ascending bit order, on a full image or on
the result of a merge (R117, R122, R124).
-/
namespace Sys2Proof.Machine

/-! ### Bit 0: encodings (R103 to R115, Tables 3-4 to 13-4) -/

def between (lo x hi : Nat) : Bool := decide (lo ≤ x) && decide (x ≤ hi)

/-- Strictly rising. -/
def rising : List Nat → Bool
  | [] => true
  | [_] => true
  | a :: b :: xs => decide (a < b) && rising (b :: xs)

def definedIn (h : Harness) (i : Nat) : Bool := h.stalls.any (fun r => r.stall == i)
def pacedIn (h : Harness) (i : Nat) : Bool := h.stalls.any (fun r => r.stall == i && r.cls == 1)

def encStall (r : List Byte) : Bool :=
  between 0 (nat8 r 0) 15 && between 1 (nat8 r 1) 2 && between 0 (nat8 r 2) 1
    && (if nat8 r 0 = 0 then nat8 r 3 == 0 && nat8 r 1 == 2 && nat8 r 2 == 0 else between 1 (nat8 r 3) 15)
    && (if nat8 r 1 = 2 then between 1 (nat16 r 4) 1000 else nat16 r 4 == 0)
    && between 1 (nat8 r 6) 8 && between 6 (nat8 r 7) 12 && between 0 (nat16 r 8) 10000 && between 0 (nat16 r 0x0A) 32
    && nat8 r 0x0E / 2 == 0 && nat8 r 0x0F == 0 && nat64 r 0x10 % 2 ^ 21 == 0 && nat64 r 0x18 % 2 ^ 21 == 0
    && decide (2 ^ 26 ≤ nat64 r 0x18)

def encRes (r : List Byte) : Bool :=
  allZero (slice r 1 3) && nat8 r 6 / 16 == 0 && nat8 r 7 / 16 == 0 && nat8 r 0x0F == 0 && nat8 r 0x13 == 0
    && nat8 r 0x14 / 4 == 0 && allZero (slice r 0x15 3) && allZero (slice r 0x1E 2) && allZero (slice r 0x26 2) && allZero (slice r 0x28 8)

def encMem (r : List Byte) : Bool := nat8 r 1 == 0 && allZero (slice r 4 4)

def encBind (r : List Byte) : Bool :=
  between 0 (nat8 r 1) 5 && nat8 r 3 == 0 && nat16 r 6 == 0 && allZero (slice r 0x0C 4)

def encDet (r : List Byte) : Bool :=
  between 0 (nat8 r 0) 5 && between 0 (nat8 r 1) 3 && between 0 (nat8 r 2) 15 && between 1 (nat8 r 3) 3 && allZero (slice r 5 3)

/-- In a record of ROLE 0x0 the loader judges none of MODE, STALL, TIME_DIR and GAIN (R110). -/
def encTether (r : List Byte) : Bool :=
  between 0 (nat8 r 0) 3 && between 0 (nat8 r 1) 3 && nat16 r 6 == 0
    && (nat8 r 1 == 0 || (between 1 (nat8 r 2) 3 && between 0 (nat8 r 4) 2))

def encClock (r : List Byte) : Bool := nat8 r 2 / 2 == 0 && nat8 r 3 == 0 && nat16 r 6 == 0
def encRoute (r : List Byte) : Bool := between 0 (nat8 r 2) 15 && nat8 r 3 == 0 && between 0 (nat16 r 4) 2047 && nat16 r 6 == 0

def kindUnits (k : Nat) : Nat := if k = 1 then 8 else if k = 2 then 48 else 24

def encFall (h : Harness) (r : List Byte) : Bool :=
  let f := fallRecOf r
  between 1 f.kind 3 && decide (f.failed < kindUnits f.kind) && definedIn h f.stall && between 1 f.action 2
    && (f.action == 2 || decide (f.replace < kindUnits f.kind)) && nat8 r 5 == 0 && nat8 r 7 == 0 && allZero (slice r 0x0A 6)
    && (!pacedIn h f.stall || h.budgets.any (fun b => b.stall == f.stall && b.variants.any (fun v => v.1 == f.variant)))

/-- The carriers of a stall (Table 3-7). -/
def carriersIn (h : Harness) (i : Nat) : List Nat :=
  (List.range 8).filter (fun c => (h.time.carrierStall.getD c 0xFF).toNat == i && (h.time.slotCode.getD c 0) != 0)

/-- PACED_BUDGET (R115): head, order of shedding, variants and padding. -/
def encBudget (h : Harness) (b : List Byte) : Bool :=
  let x := budgetOfBody b
  let n := x.carriers
  let order := (x.shedOrder.take n).map (·.toNat)
  pacedIn h x.stall && decide (24 + 36 * nat16 b 2 ≤ b.length) && between 0 n 8 && allZero (slice b 0x10 8)
    && n == (carriersIn h x.stall).length && (carriersIn h x.stall).all (fun c => order.contains c)
    && (x.shedOrder.drop n).all (· == 0xFF) && x.variants.any (fun v => v.1 == 0)
    && x.variants.all (fun v => (v.2.drop (max 1 n)).all (· == 0xFFFFFFFF))
    && (List.range (nat16 b 2)).all (fun k => nat16 b (24 + 36 * k + 2) == 0) && allZero (b.drop (24 + 36 * nat16 b 2))

def encTime (h : Harness) (t : List Byte) : Bool :=
  t.length == 48
    && (slice t 0 4).all (fun c => c == 0 || (candIod c).isSome) && between 0 (nat8 t 4) 1 && allZero (slice t 5 3)
    && decide (nat32 t 0x14 ≤ 614400) && allZero (slice t 0x28 8)
    && (List.range 8).all (fun c => between 0 (nat8 t (0x18 + c)) 3
        && (if nat8 t (0x18 + c) = 0 then nat8 t (0x20 + c) == 0xFF else pacedIn h (nat8 t (0x20 + c))))

def encGait (body : List Byte) : Bool :=
  (List.range (min 4096 (body.length / 8))).all (fun k => let e := u64 body (8 * k); !bit e 30 && !bit e 39)
    && allZero (body.drop (8 * min 4096 ((gaitOf body).length + 1)))

def encCarrier (h : Harness) (body r : List Byte) : Bool :=
  let c := carrierCfgOf h.time body r
  between 0 c.carrier 7 && pacedIn h c.stall && between 8 c.fftLog2 12 && between 1 c.symbols 14
    && (c.nbuf == 2 || c.nbuf == 4) && c.symbols % c.nbuf == 0 && between 1 c.streams 8
    && decide (-2048 ≤ c.rxOffset) && decide (c.rxOffset ≤ 2047) && decide (c.laneBase + c.streams ≤ 32) && between 0 c.cluster 5
    && popcount c.coreMask == c.streams && between 0 c.agcMode 2 && c.xBuf % 16 == 0 && c.yBuf % 16 == 0
    && between 1 c.usedSc (2 ^ c.fftLog2) && between 1 c.usersMax 31 && between 1 c.layersMax 4 && nat8 r 0x1F == 0
    && c.planOff % 4096 == 0 && c.repOff % 4096 == 0 && c.payOff % 4096 == 0 && c.paySlot % 64 == 0 && between 4 c.ringLog2 10
    && nat8 r 0x3D / 16 == 0 && between 0 c.array 7 && decide (nat32 r 0x40 = 0 ∨ nat32 r 0x40 + 256 ≤ body.length)
    && between 1 c.eqScale 127 && nat8 r 0x51 / 16 == 0 && nat16 r 0x52 == 0 && allZero (slice r 0x5C 4)

def encNet (body r : List Byte) : Bool :=
  between 1 (nat8 r 1) 3 && between 0 (nat8 r 2) 7 && between 0 (nat8 r 3) 7 && nat32 r 4 % 64 == 0 && between 1 (nat16 r 8) 4096
    && nat16 r 0x0A == 0 && nat32 r 0x10 % 64 == 0 && decide (nat32 r 4 + 64 * nat16 r 8 ≤ body.length)
    && decide (nat32 r 0x14 + nat32 r 0x10 ≤ body.length) && between 0 (nat8 r 0x1C) 1 && allZero (slice r 0x1D 3)

def encCode (body r : List Byte) : Bool :=
  let c := codeCfgOf 0 body r
  between 0 c.code 63 && between 1 c.mb 64 && between 2 c.nb 96 && between 1 c.kb (c.nb - 1) && between 2 c.z 384
    && between 1 (nat16 r 6) 2048 && between 1 c.iMax 32 && between 0 c.crc 3 && between 0 c.bchT 12 && nat8 r 0x0B == 0
    && allZero (slice r 0x1C 4) && decide (nat32 r 0x0C + 4 * nat16 r 6 ≤ body.length)
    && decide (nat32 r 0x10 + c.iMax * c.mb ≤ body.length)
    && c.scale.all (fun a => decide (a < 64)) && c.graph.all (fun e => decide (e.1 < c.mb) && decide (e.2.1 < c.nb) && decide (e.2.2 < c.z))
    && rising (c.graph.map (fun e => 256 * e.1 + e.2.1))

def encEngine (r : List Byte) : Bool :=
  between 0 (nat8 r 0) 1 && nat8 r 1 == 0 && between 600 (nat16 r 2) 65535 && allZero (slice r 0x0A 6)

def encSchool (r : List Byte) : Bool :=
  between 0 (nat8 r 1) 1 && between 0 (nat8 r 2) 15 && between 1 (nat8 r 3) 2 && between 1 (nat16 r 4) 64 && between 2 (nat8 r 6) 16
    && between 1 (nat8 r 7) 8 && nat16 r 0x0C % 64 == 0 && between 64 (nat16 r 0x0C) 8192 && between 1 (nat8 r 0x0E) 64
    && (nat8 r 3 == 1 || (nat8 r 0x0E == 8 && nat16 r 0x12 == 0)) && between 0 (nat8 r 0x0F) 127 && between 0 (nat8 r 0x14) 16
    && between 1 (nat8 r 0x17) 127 && between 1 (nat8 r 0x18) 255 && between 1 (nat8 r 0x19) 64 && between 0 (nat8 r 0x1A) 64
    && allZero (slice r 0x1D 3) && nat64 r 0x20 % 4096 == 0 && allZero (slice r 0x30 16)

def encLayer (body : List Byte) (nets : List (List Byte)) (r : List Byte) : Bool :=
  let nOut := ((nets.find? (fun n => u8 n 0 == u8 r 0)).map (fun n => nat8 n 0x0E)).getD 0
  between 0 (nat8 r 1) 7 && nat8 r 2 / 2 == 0 && between 0 (nat8 r 3) 15 && nat32 r 4 % 64 == 0 && between 1 (nat16 r 8) 4096
    && between 1 (nat16 r 0x0A) 256 && nat16 r 0x0E == 0 && allZero (slice r 0x14 12)
    && (if bit (u8 r 2) 0 then nat32 r 0x10 == 0 else decide (nat32 r 0x10 + nat16 r 0x0A * nOut ≤ body.length))

/-- A section of one record list: the list, each record, and what follows. -/
def encSection (b : List Byte) (ty size : Nat) (ok : List Byte → Bool) : Option LoadErr :=
  if secCount b ty = 0 then none
  else
    let l := recList size (bodyOf b ty)
    let ix := indexOf b ty
    firstErr [need l.ok { code := 0x10, index := ix }, needAll l.recs ok 0x10 ix, need (allZero l.rest) { code := 0x10, index := ix }]

/-- One of several lists of a section. -/
def encList (l : RecList) (ix : Nat) (ok : List Byte → Bool) : Option LoadErr :=
  firstErr [need l.ok { code := 0x10, index := ix }, needAll l.recs ok 0x10 ix]

/-- Check bit 0: the sections of an image, against the structure they make. -/
def checkEncoding (b : List Byte) (h : Harness) : Option LoadErr :=
  let ix := indexOf b
  let own := (recsOf b 1 32).map (nat8 · 0)
  let at_ (ty : Nat) (ok : Bool) : Option LoadErr := need (secCount b ty == 0 || ok) { code := 0x10, index := ix ty }
  let bl := bindLists (bodyOf b 6)
  let nb := bodyOf b 0x0D
  let nl := networkLists nb
  let sb := bodyOf b 0x0E
  let sl := schoolLists sb
  let stalls (ty : Nat) (rs : List (List Byte)) : List (Option LoadErr) := [
    needEach (rs.map (nat8 · 0)) (fun before i => own.contains i && !before.contains i) 0x10 (ix ty), at_ ty (rs.length == own.length)]
  let inOrder (ty : Nat) (ks : List Nat) : Option LoadErr := needEach ks (fun before k => before.all (fun y => decide (y < k))) 0x10 (ix ty)
  let vfs := (recsOf b 1 32).map (fun r => 16 * nat8 r 2 + nat8 r 3)
  firstErr [
    encSection b 1 32 encStall,
    needEach (own.zip vfs) (fun before x => before.all (fun y => decide (y.1 < x.1) && y.2 != x.2)) 0x10 (ix 1),
    at_ 1 (imageSegment b || own.head? == some 0),
    encSection b 2 48 encRes, firstErr (stalls 2 (recsOf b 2 48)),
    encSection b 3 16 encMem, firstErr (stalls 3 (recsOf b 3 16)),
    at_ 4 (encGait (bodyOf b 4)),
    at_ 5 (encTime h (bodyOf b 5)),
    at_ 1 (decide (h.stalls.countP (fun r => r.cls == 1) ≤ 8)
      && h.stalls.all (fun r => r.cls != 1 || !(carriersIn h r.stall).isEmpty)),
    if secCount b 6 = 0 then none else firstErr [encList bl.1 (ix 6) encBind, encList bl.2 (ix 6) encDet,
      needEach (bl.1.recs.map (u8 · 0)) (fun before x => !before.contains x) 0x10 (ix 6), at_ 6 (allZero bl.2.rest)],
    encSection b 8 8 encTether, needEach ((recsOf b 8 8).map (nat8 · 0)) (fun before p => decide (p < 4) && !before.contains p) 0x10 (ix 8), at_ 8 ((recsOf b 8 8).length == 4),
    encSection b 9 8 encClock,
    encSection b 0x0A 8 encRoute,
    encSection b 0x0B 16 (encFall h),
    ((imageSecs b).find? (fun x => x.type == 0x0C && !encBudget h (secBody b x))).map (fun x => { code := 0x10, index := x.index }),
    at_ 0x0C (h.stalls.all (fun r => h.budgets.countP (fun x => x.stall == r.stall) == (if r.cls = 1 then 1 else 0))),
    if secCount b 0x0D = 0 then none else firstErr [encList nl.1 (ix 0x0D) (encCarrier h nb), encList nl.2.1 (ix 0x0D) (encNet nb),
      encList nl.2.2 (ix 0x0D) (encCode nb),
      inOrder 0x0D (nl.1.recs.map (nat8 · 0)), inOrder 0x0D (nl.2.1.recs.map (nat8 · 0)), inOrder 0x0D (nl.2.2.recs.map (nat8 · 0))],
    if secCount b 0x0E = 0 then none else firstErr [encList sl.1 (ix 0x0E) encEngine, encList sl.2.1 (ix 0x0E) encSchool,
      encList sl.2.2 (ix 0x0E) (encLayer sb sl.2.1.recs),
      inOrder 0x0E (sl.2.1.recs.map (nat8 · 0)), inOrder 0x0E (sl.2.2.recs.map (fun r => 8 * nat8 r 0 + nat8 r 1))]]

/-- An error at a record of a merged list, numbered as the image numbers its own; a retained record has no number there. -/
def inImage {α : Type} [DecidableEq α] (own xs : List α) (r : Option LoadErr) : Option LoadErr :=
  r.map (fun e => if own = xs then e
    else { e with record := ((xs[e.record]?).bind (fun x => firstIdx (fun y => decide (y = x)) own 0)).getD 0x3FFF })

/-! ### Bit 1: ownership (R106) -/

/-- Owners of a unit in a structure. -/
def ownersIn (h : Harness) (has : ResRec → Bool) : List Nat := (h.res.filter has).map (·.stall)
def resOf (h : Harness) (i : Nat) (p : ResRec → Bool) : Bool := h.res.any (fun r => r.stall == i && p r)

/-- The rules of R106 for one unit. -/
def unitRules (h : Harness) (own borrow : ResRec → Bool) (pacedOnly : Bool) : Bool :=
  let os := ownersIn h own
  let bs := ownersIn h borrow
  decide (os.length ≤ 1) && (!pacedOnly || (os ++ bs).all (pacedIn h)) && decide ((bs.filter (pacedIn h)).length ≤ 1)
    && ((bs.filter (pacedIn h)).isEmpty || os.all (fun i => !pacedIn h i))

/-- The stall that owns a cluster: the owner of its first owned core. -/
def clusterOwner (h : Harness) (c : Nat) : Option Nat :=
  (List.range 8).findSome? (fun k => (ownersIn h (fun r => r.pcrOwn.getLsbD (8 * c + k))).head?)

/-- The stall of a carrier, and of the carrier of a network. -/
def carrierOwner (h : Harness) (c : Nat) : Option Nat :=
  match h.time.carrierStall[c]? with
  | some b => if b.toNat < 16 then some b.toNat else none
  | none => none
def netCarrier (h : Harness) (net : Nat) : Option Nat := (h.nets.find? (fun n => n.net == net)).map (·.carrier)
def engineOwner (h : Harness) (e : Nat) : Option Nat := (ownersIn h (fun r => r.seOwn.getLsbD e)).head?

def ownArr (i : Nat) (h : Harness) (n : Nat) : Bool := resOf h i (fun r => r.arrOwn.getLsbD n || r.arrBorrow.getLsbD n)

/-- The borrow fields of a SHARED stall name only units that no stall owns (R137). -/
def poolOnly (h : Harness) (r : ResRec) : Bool :=
  pacedIn h r.stall || h.res.all (fun o => (r.arrBorrow &&& o.arrOwn) == 0 && (r.mvpBorrow &&& o.mvpOwn) == 0
    && (r.fdrBorrow &&& o.fdrOwn) == 0 && (r.decBorrow &&& o.decOwn) == 0 && (r.pcrBorrow &&& o.pcrOwn) == 0)

/-- Check bit 1, with what R109, R137, R300, R406 and R449 name under it. -/
def checkOwnership (b : List Byte) (h : Harness) : Option LoadErr :=
  let all (h : Harness) (n : Nat) (own borrow : ResRec → Nat → Bool) (p : Bool) : Bool :=
    (List.range n).all (fun u => unitRules h (fun r => own r u) (fun r => borrow r u) p)
  let rules (h : Harness) : Bool :=
    all h 8 (fun r u => r.arrOwn.getLsbD u) (fun r u => r.arrBorrow.getLsbD u) false
      && all h 4 (fun r u => r.mvpOwn.getLsbD u) (fun r u => r.mvpBorrow.getLsbD u) false
      && all h 16 (fun r u => r.fdrOwn.getLsbD u) (fun r u => r.fdrBorrow.getLsbD u) false
      && all h 24 (fun r u => r.decOwn.getLsbD u) (fun r u => r.decBorrow.getLsbD u) true
      && all h 48 (fun r u => r.pcrOwn.getLsbD u) (fun r u => r.pcrBorrow.getLsbD u) true
      && all h 2 (fun r u => r.seOwn.getLsbD u) (fun _ _ => false) true
  let o := harnessOf b h.time
  let ix := indexOf b
  firstErr [
    inImage o.res h.res (needEach h.res (fun before r => rules { h with res := before ++ [r] }) 0x11 (ix 2)),
    inImage o.res h.res (needAll h.res (fun r => poolOnly h r && (r.fdrOwn ||| r.fdrBorrow) != 0) 0x11 (ix 2)),
    inImage o.binds h.binds (needAll h.binds (fun r => (setBits r.mask).all (fun k =>
      match clusterOwner h r.cluster with
      | some i => resOf h i (fun x => x.pcrOwn.getLsbD (8 * r.cluster + k))
      | none => false)) 0x11 (ix 6)),
    inImage o.dets h.dets (needAll h.dets (fun d => (clusterOwner h d.cluster).isSome) 0x11 (ix 6)),
    inImage o.carriers h.carriers (needAll h.carriers (fun c => ownArr c.stall h c.array
      && (setBits c.coreMask).all (fun k => resOf h c.stall (fun r => r.pcrOwn.getLsbD (8 * c.cluster + k)))
      && (setBits c.decMask).all (fun k => resOf h c.stall (fun r => r.decOwn.getLsbD k))
      && (setBits c.mvpMask).all (fun k => resOf h c.stall (fun r => r.mvpOwn.getLsbD k || r.mvpBorrow.getLsbD k))) 0x11 (ix 0x0D)),
    inImage o.schoolNets h.schoolNets (needAll h.schoolNets (fun n => match (netCarrier h n.net).bind (carrierOwner h) with
      | some i => decide (engineOwner h n.engine = some i)
      | none => true) 0x11 (ix 0x0E))]

/-! ### Bit 2: memory (R107, R297, R298, R341) -/

def zoneW (base : Nat) : Nat := 2 ^ (base / 2 ^ 42 % 8)
def zoneG (base : Nat) : Nat := base / 2 ^ 36 % 64
def zoneX (base : Nat) : Nat := base % 2 ^ 36
/-- First channel of a region, and its channel-local range (R297). -/
def zoneFirst (base : Nat) : Nat := zoneG base * zoneW base
def localRange (r : StallRec) : Nat × Nat :=
  let w := zoneW r.memBase.toNat
  (zoneX r.memBase.toNat / w, (zoneX r.memBase.toNat + r.memSize.toNat) / w)

def regionChannels (r : StallRec) : W64 := BitVec.ofNat 64 ((2 ^ zoneW r.memBase.toNat - 1) * 2 ^ zoneFirst r.memBase.toNat)

/-- Stable slots of a stall (R341). -/
def stableIn (h : Harness) (i : Nat) : Nat :=
  (List.range 8).countP (fun n => resOf h i (fun r => r.arrOwn.getLsbD n || (!pacedIn h i && r.arrBorrow.getLsbD n)))

/-- Whether a span of a stall's region lies outside the control area and the stable slots. -/
def spanIn (h : Harness) (i x len : Nat) : Bool :=
  match h.stalls.find? (fun r => r.stall == i) with
  | some r => decide (2 ^ 23 ≤ x) && decide (x + len + stableIn h i * 2 ^ 24 ≤ r.memSize.toNat)
  | none => false

/-- R107 and R297 for one stall and those before it. -/
def regionOk (f : Fuses) (h : Harness) (before : List StallRec) (r : StallRec) : Bool :=
  let base := r.memBase.toNat
  let w := zoneW base
  let rg := localRange r
  let ch := regionChannels r
  match h.mems.find? (fun m => m.stall == r.stall) with
  | none => false
  | some m =>
    decide (base / 2 ^ 45 = 0) && decide (base / 2 ^ 42 % 8 ≤ 6) && decide (zoneFirst base + w ≤ 64)
      && decide (zoneX base + r.memSize.toNat ≤ w * 2 ^ 30) && m.channels == ch && m.channels != 0 && m.ways != 0
      && (List.range 4).all (fun k => (List.range 16).all (fun c => !m.channels.getLsbD (16 * k + c) || f.stackEn.getLsbD k))
      && (r.cls != 1 || decide (2 ≤ w))
      && (decide (16 ≤ zoneFirst base) || decide (rg.2 ≤ 1022 * 2 ^ 20))
      && decide (2 ^ 23 + stableIn h r.stall * 2 ^ 24 + 2 ^ 21 ≤ r.memSize.toNat)
      && before.all (fun x => (regionChannels x &&& ch) == 0
          || decide ((localRange x).2 ≤ rg.1) || decide (rg.2 ≤ (localRange x).1))
      && before.all (fun y => (r.cls != 1 && y.cls != 1) || h.mems.all (fun x => x.stall != y.stall
          || ((x.channels &&& m.channels) == 0 && (x.ways &&& m.ways) == 0)))

/-- A carrier's rings lie in its stall's region (R406). -/
def ringsOk (h : Harness) (c : CarrierCfg) : Bool :=
  let n := 2 ^ c.ringLog2
  spanIn h c.stall c.planOff (n * 1024) && spanIn h c.stall c.repOff (n * 2048) && spanIn h c.stall c.payOff (n * c.paySlot)

/-- The layout of a school area (R450). -/
def areaOk (h : Harness) (n : SchoolCfg) : Bool :=
  match h.nets.find? (fun x => x.net == n.net) with
  | none => true
  | some x => decide (4096 + 2 * (ceilDiv x.wLen 4096 * 4096) ≤ n.saLen) && spanIn h ((carrierOwner h x.carrier).getD 16) n.saOff n.saLen

def checkMemory (f : Fuses) (b : List Byte) (h : Harness) : Option LoadErr :=
  let o := harnessOf b h.time
  firstErr [
    inImage o.stalls h.stalls (needEach h.stalls (regionOk f h) 0x12 (indexOf b 3)),
    inImage o.carriers h.carriers (needAll h.carriers (ringsOk h) 0x12 (indexOf b 0x0D)),
    inImage o.schoolNets h.schoolNets (needAll h.schoolNets (areaOk h) 0x12 (indexOf b 0x0E))]

/-! ### Bits 3 and 4: the gait (R46, R55) -/

/-- Units of a domain (R48). -/
def domainUnits (d : Nat) : Nat := match d with
  | 1 => 8 | 2 => 8 | 3 => 4 | 4 => 6 | 5 => 6 | 6 => 1 | _ => 0

/-- Action, TARGET and ARG ranges (Table 1-5). -/
def gaitEntryOk (e : W64) : Bool :=
  let t := (gTarget e).toNat
  let a := (gArg e).toNat
  decide (gOffset e < 1228800) && decide (gPhase e < 2 ^ gPeriod e) &&
  (match (gAction e).toNat with
   | 0 => t == 0 && a == 0
   | 1 => decide (t < 8) && decide (a < 2 ^ 11) && decide (a / 128 % 16 ≤ 13)
   | 2 => decide (t < 8) && decide (a < 128)
   | 3 => (decide (t < 4) || t == 15) && decide (120 ≤ a)
   | 4 => decide (t % 16 < domainUnits (t / 16)) || (t % 16 == 15 && decide (domainUnits (t / 16) ≠ 0))
   | 5 => decide (t < 6)
   | 6 => between 1 t 15 && a == 0
   | 7 => decide (t < 2) && decide (a < 256)
   | 8 => decide (t < 16) && a == 0
   | 9 => decide (t < 4) && a == 0
   | 10 => decide (t < 16) && decide (a < 2048)
   | _ => false)

/-- An entry after those before it: offsets do not decrease, and at most 16 entries share one (R46). -/
def gaitNext (before : List W64) (e : W64) : Bool :=
  (before.getLast?).all (fun x => decide (gOffset x ≤ gOffset e))
    && (before.length < 16 || ((before[before.length - 16]?).all (fun x => decide (gOffset x ≠ gOffset e))))

/-- Offsets do not decrease, and at most 16 entries share one (R46). -/
def gaitOrder (g : List W64) : Bool :=
  ((g.zip (g.drop 1)).all (fun x => decide (gOffset x.1 ≤ gOffset x.2)))
    && ((g.zip (g.drop 16)).all (fun x => decide (gOffset x.1 ≠ gOffset x.2)))

/-- A body that ends with neither END nor 4,096 entries is no bank (R46). -/
def gaitEnds (body : List Byte) : Bool :=
  let n := (gaitOf body).length
  n == 4096 || (decide (8 * n + 8 ≤ body.length) && gTarget (u64 body (8 * n)) == 0 && gArg (u64 body (8 * n)) == 0)

def checkGait (b : List Byte) (h : Harness) : Option LoadErr :=
  let ix := indexOf b 4
  firstErr [inImage (gaitOf (bodyOf b 4)) h.gait (needEach h.gait (fun before e => gaitEntryOk e && gaitNext before e) 0x13 ix),
    need (gaitEnds (bodyOf b 4)) { code := 0x13, index := ix }]

/-- Offsets at which a stack's windows open in a frame. -/
def refreshAt (g : List W64) (k : Nat) (frame : Nat) : List Nat :=
  (g.filter (fun e => gAction e == 3 && (gTarget e == 15 || (gTarget e).toNat == k) && gActs e (BitVec.ofNat 10 frame))).map gOffset

/-- No two windows of a present stack are issued more than 3,840 ticks apart, across the frame wrap (R55). -/
def refreshOk (g : List W64) (k : Nat) : Bool :=
  (List.range 128).all (fun f =>
    let xs := refreshAt g k f ++ (refreshAt g k (f + 1)).head?.toList.map (· + 1228800)
    decide (2 ≤ xs.length) && (refreshAt g k f).head?.isSome && decide (1228800 ≤ xs.getLastD 0)
      && (xs.zip (xs.drop 1)).all (fun x => decide (x.2 ≤ x.1 + 3840)))

def checkPlacement (f : Fuses) (b : List Byte) (h : Harness) : Option LoadErr :=
  need ((List.range 4).all (fun k => !f.stackEn.getLsbD k || refreshOk h.gait k)) { code := 0x14, index := indexOf b 4 }

/-! ### Bit 5: clocks and Tether roles (R110, R111, R479) -/

/-- The range of a domain in MHz (Table 2-12). -/
def domainRange (d : Nat) : Nat × Nat := match d with
  | 1 => (600, 1250) | 2 => (500, 1000) | 3 => (800, 1600) | 4 => (600, 1200) | 5 => (450, 900) | 6 => (750, 1500) | _ => (1, 0)

def clockOk (c : ClockRec) : Bool :=
  c.freq % 50 == 0 && between (domainRange c.domain).1 c.freq (domainRange c.domain).2
    && (decide (c.unit < domainUnits c.domain) || c.unit == 15)

def tetherOk (f : Fuses) (h : Harness) (t : TetherRec) : Bool :=
  let named := h.time.cand.contains (BitVec.ofNat 8 (4 + t.port))
  (t.role == 0 || f.iodEn.getLsbD (t.port / 2)) && (!named || (t.timeDir == 2 && t.role != 0))
    && (t.role == 0 || definedIn h t.stall)
    && ((t.role != 0 && t.timeDir == 1) || h.gait.all (fun e => gAction e != 9 || (gTarget e).toNat != t.port))

def checkClockTether (f : Fuses) (b : List Byte) (h : Harness) : Option LoadErr :=
  let o := harnessOf b h.time
  firstErr [
    inImage o.clocks h.clocks (needAll h.clocks clockOk 0x15 (indexOf b 9)),
    inImage o.tether h.tether (needAll h.tether (tetherOk f h) 0x15 (indexOf b 8))]

/-! ### Bit 6: interrupt routes (R112, Table 17-5) -/

/-- The stall that owns an interrupt source besides S0; none: S0 alone. The outer none: no such source. -/
def sourceOwner (h : Harness) (src : W16) : Option (Option Nat) :=
  let u := src.toNat % 256
  let own (n : Nat) (p : ResRec → Bool) : Option (Option Nat) := if u < n then some (ownersIn h p).head? else none
  let device (n : Nat) : Option (Option Nat) := if u < n then some none else none
  match src.toNat / 256 with
  | 1 => if u < 128 then some (some (u / 8)) else none
  | 2 => if u < 16 then some (some u) else none
  | 3 => if u < 16 then some (some u) else none
  | 4 => if u < 8 then some (carrierOwner h u) else none
  | 5 => if u < 8 then some (carrierOwner h u) else none
  | 6 => own 48 (fun r => r.pcrOwn.getLsbD u)
  | 7 => own 8 (fun r => r.arrOwn.getLsbD u)
  | 8 => own 8 (fun r => r.arrOwn.getLsbD u)
  | 9 => own 4 (fun r => r.mvpOwn.getLsbD u)
  | 10 => own 16 (fun r => r.fdrOwn.getLsbD u)
  | 11 => own 24 (fun r => r.decOwn.getLsbD u)
  | 12 => (h.schoolNets[u]?).map (fun n => engineOwner h n.engine)
  | 13 => if u < 32 then some (tethStall h (u / 8)) else none
  | 14 => if u < 32 then some (tethStall h (u / 8)) else none
  | 15 => if u < 4 then some (tethStall h u) else none
  | 0x23 => device 2 | 0x24 => device 4 | 0x25 => device 4 | 0x28 => device 2
  | 0x20 => device 1 | 0x21 => device 1 | 0x22 => device 1 | 0x26 => device 1 | 0x27 => device 1
  | _ => none
where
  /-- The stall served by a Tether port. -/
  tethStall (h : Harness) (p : Nat) : Option Nat := (h.tether.find? (fun t => t.port == p && t.role != 0)).map (·.stall)

def routeOk (h : Harness) (before : List RouteRec) (r : RouteRec) : Bool :=
  let same := before.filter (fun x => x.source == r.source)
  definedIn h r.stall && (same.isEmpty || (same.length == 1 && same.all (fun x => (x.stall == 0) != (r.stall == 0))))
    && (match sourceOwner h r.source with
        | none => false
        | some o => r.stall == 0 || decide (o = some r.stall))

def checkRoutes (b : List Byte) (h : Harness) : Option LoadErr :=
  inImage (harnessOf b h.time).routes h.routes (needEach h.routes (routeOk h) 0x16 (indexOf b 0x0A))

/-! ### Bit 7: budgets (R115) -/

def budgetOk (x : Budget) : Bool := (x.variants.find? (fun v => v.1 == 0)).any (fun v => decide (v.2.getD 0 0 ≤ x.deadline))
def checkBudget (b : List Byte) : Option LoadErr :=
  ((imageSecs b).find? (fun x => x.type == 0x0C && !budgetOk (budgetOfBody (secBody b x)))).map (fun x =>
    { code := 0x17, index := x.index,
      record := (firstIdx (fun v => decide (v.1 = 0)) (budgetOfBody (secBody b x)).variants 0).getD 0x3FFF })

/-! ### Bit 9: contents (R390, R406, R419, R449) -/

/-- The PACER_CODE layout (R390). -/
def codeBodyOk (d : List Byte) : Bool :=
  let len := nat32 d 0
  let base := nat32 d 4
  let x := nat32 d 8
  let y := nat32 d 0x0C
  let up (n : Nat) : Nat := ceilDiv n 64 * 64
  between 256 len 32768 && len % 8 == 0 && base % 16 == 0 && between 0x100 base len && decide (x ≤ 65536) && x % 16 == 0
    && decide (y ≤ 65536) && y % 16 == 0 && nat32 d 0x10 % 16 == 0 && nat32 d 0x14 % 16 == 0
    && decide (nat32 d 0x10 + 32 ≤ nat32 d 0x14) && decide (nat32 d 0x14 ≤ 65536) && u16 d 0x18 == 1 && between 0 (nat8 d 0x1A) 4
    && allZero (slice d 0x1B 37) && decide (up (up (0x40 + len) + x) + y ≤ d.length)

/-- A binding names a program of its stall, with its ENTRY below COEF_BASE and aligned. -/
def bindOk (h : Harness) (r : BindRec) : Bool :=
  match h.codes.find? (fun c => c.index == r.code.toNat && clusterOwner h r.cluster == some c.stall) with
  | some c => decide (r.entry.toNat < nat32 c.data 4) && r.entry.toNat % 4 == 0
  | none => false

/-- A PACER_SWAP names a binding of its cluster (R394). -/
def swapOk (h : Harness) (e : W64) : Bool :=
  gAction e != 5 || h.binds.any (fun r => r.bind == bits (gArg e) 8 8 && decide (r.cluster = (gTarget e).toNat))

/-- A thin task of a network (R419). -/
def netThinOk (h : Harness) (i : Nat) (d : List Byte) : Bool :=
  let t := thinDesc d
  !t.gather && t.a % 64 == 0 && t.out % 64 == 0 && spanIn h i t.w (thinBytes t)
    && (List.range t.m).all (fun k => decide (t.a + k * t.aStride + thinARow t ≤ 2 ^ 21)
        && decide (t.out + k * t.outStride + thinOutRow t ≤ 2 ^ 21))

/-- The task list of a network (R406). -/
def netTasksOk (h : Harness) (n : NetCfg) : Bool :=
  let i := (carrierOwner h n.carrier).getD 16
  n.tasks.all (fun d =>
    let op := entryOp d
    if op ≤ 3 ∨ op = 8 then bit (u8 d 0) 7
    else if op = 9 then netThinOk h i d && h.carriers.any (fun c => c.carrier == n.carrier && c.mvpMask != 0)
    else false)

/-- Areas of a carrier lie within the reserve window; the LLR and EQ fields have the sizes of R425 and R433. -/
def carrierAreasOk (c : CarrierCfg) : Bool :=
  let points := c.symbols * c.usedSc * c.layersMax
  decide (c.inOff * 64 < 2 ^ 21) && decide (c.llrOff * 64 + 8 * points ≤ 2 ^ 21) && decide (c.eqOff * 64 + 2 * points ≤ 2 ^ 21)

/-- The rules of R406 for the carriers and networks. -/
def networksOk (h : Harness) : Bool :=
  (List.range 8).all (fun c => (h.carriers.countP (fun x => x.carrier == c)) == (if (carrierOwner h c).isSome then 1 else 0))
    && h.nets.all (fun n => h.nets.countP (fun x => x.carrier == n.carrier && decide (x.kind = n.kind)) == 1
        && h.carriers.any (fun c => c.carrier == n.carrier && c.array == n.array)
        && decide (n.wOff * 64 + n.wLen ≤ 2 ^ 21))
    && h.carriers.all carrierAreasOk

/-- NV pages of a network: room for the set, both copies in pages 4 to 127 (R466). -/
def nvPagesOk (h : Harness) (n : SchoolCfg) : Bool :=
  n.nvPages == 0 ||
  (match h.nets.find? (fun x => x.net == n.net) with
   | some x => decide (ceilDiv (x.wLen + 64) 65536 ≤ n.nvPages)
   | none => false) && decide (4 ≤ n.nvPage) && decide (n.nvPage + 2 * n.nvPages ≤ 128)
    && h.schoolNets.all (fun m => m.net == n.net || m.nvPages == 0 || decide (m.nvPage + 2 * m.nvPages ≤ n.nvPage)
        || decide (n.nvPage + 2 * n.nvPages ≤ m.nvPage))

/-- Bytes of a layer's weight package (R249). -/
def packageBytes (l : SchoolLayer) : Nat := ceilDiv l.n 32 * (ceilDiv l.k 32 * 1024 + 64)

/-- Engine memory of a network (R451). -/
def engineBytes (n : SchoolCfg) : Nat :=
  2 * (n.layers.map (fun l => l.k * l.n)).sum + n.samples * n.tapRec + 2 * n.samples

/-- The rules of R449 for one network. -/
def schoolOk (h : Harness) (n : SchoolCfg) : Bool :=
  let outLen := if n.signal = 1 then n.tLoc + n.nOut else 0
  h.nets.any (fun x => x.net == n.net && x.school && n.layers.all (fun l => decide (l.wLoc + packageBytes l ≤ x.wLen)))
    && h.schoolEngs.countP (fun e => e.engine == n.engine) == 1
    && n.layers.map (·.layer) == List.range n.layers.length && decide (1 ≤ n.layers.length)
    && n.layers.map (·.output) == (List.range n.layers.length).map (fun k => k + 1 == n.layers.length)
    && (n.layers.getLast?).any (fun l => l.n == n.nOut)
    && decide (n.yLoc + n.nOut ≤ n.tapRec) && decide (outLen ≤ n.tapRec) && n.layers.all (fun l => decide (l.xLoc + l.k ≤ n.tapRec))
    && decide (n.tapOff * 64 + n.samples * n.tapRec ≤ 2 ^ 21) && nvPagesOk h n

/-- SCHOOL_STEP entries name, by its network index, a network record of their engine (R449, Table 1-5). -/
def schoolStepsOk (h : Harness) : Bool :=
  h.gait.all (fun e => gAction e != 7 || h.schoolNets.any (fun n => n.net == (gArg e).toNat && n.engine == (gTarget e).toNat))

/-- LAYERS of each network record equals its layer records. -/
def layersOk (b : List Byte) : Bool :=
  let sl := schoolLists (bodyOf b 0x0E)
  sl.2.1.recs.all (fun r => sl.2.2.recs.countP (fun l => u8 l 0 == u8 r 0) == nat8 r 7)

def checkContent (b : List Byte) (h : Harness) : Option LoadErr :=
  let o := harnessOf b h.time
  firstErr [
  ((imageSecs b).find? (fun x => x.type == 7 && !codeBodyOk (secBody b x))).map (fun x => { code := 0x18, index := x.index }),
  inImage o.binds h.binds (needAll h.binds (bindOk h) 0x18 (indexOf b 6)),
  inImage o.gait h.gait (needAll h.gait (swapOk h) 0x18 (indexOf b 4)),
  inImage o.nets h.nets (needAll h.nets (netTasksOk h) 0x18 (indexOf b 0x0D)),
  need (networksOk h) { code := 0x18, index := indexOf b 0x0D },
  inImage o.schoolNets h.schoolNets (needAll h.schoolNets (schoolOk h) 0x18 (indexOf b 0x0E)),
  need (h.nets.all (fun n => !n.school || h.schoolNets.countP (fun x => x.net == n.net) == 1) && schoolStepsOk h && layersOk b
    && (List.range 2).all (fun e => decide (((h.schoolNets.filter (fun n => n.engine == e)).map engineBytes).sum ≤ 2 ^ 20))
    && h.schoolEngs.all (fun e => h.schoolEngs.countP (fun x => x.engine == e.engine) == 1)) { code := 0x18, index := indexOf b 0x0E }]

/-- Step 10: the checks that the loader repeats. -/
def stepRules (f : Fuses) (b : List Byte) (h : Harness) : Option LoadErr :=
  [fun _ => checkEncoding b h, fun _ => checkOwnership b h, fun _ => checkMemory f b h, fun _ => checkGait b h,
   fun _ => checkPlacement f b h, fun _ => checkClockTether f b h, fun _ => checkRoutes b h, fun _ => checkBudget b,
   fun (_ : Unit) => checkContent b h].findSome? (fun c => c ())

/-- Steps 9 and 10 of a full load. -/
def stepsFull (f : Fuses) (caps : Nat → W16) (b : List Byte) (h : Harness) : Option (Nat × LoadErr) :=
  match stepFit f caps b h with
  | some e => some (9, e)
  | none => (stepRules f b h).map (fun e => (10, e))

/-! ### Gait ownership and the merge of a segment (R118, R123, R124) -/

/-- The stall that owns a gait entry (R118). -/
def gaitOwner (h : Harness) (e : W64) : Nat :=
  let t := (gTarget e).toNat
  match (gAction e).toNat with
  | 1 => (carrierOwner h t).getD 0
  | 2 => (carrierOwner h t).getD 0
  | 5 => (clusterOwner h t).getD 0
  | 7 => (engineOwner h t).getD 0
  | 10 => t
  | _ => 0

/-- Entries merged by offset; at equal offsets the retained ones come first (R124). -/
def mergeGait : Nat → List W64 → List W64 → List W64
  | 0, xs, ys => xs ++ ys
  | _, [], ys => ys
  | _, xs, [] => xs
  | f + 1, x :: xs, y :: ys => if gOffset x ≤ gOffset y then x :: mergeGait f xs (y :: ys) else y :: mergeGait f (x :: xs) ys

/-- Records put in order of a key. -/
def insertBy {α : Type} (k : α → Nat) (x : α) : List α → List α
  | [] => [x]
  | y :: ys => if k x < k y then x :: y :: ys else y :: insertBy k x ys
def mergeBy {α : Type} (k : α → Nat) (xs ys : List α) : List α := ys.foldl (fun acc y => insertBy k y acc) xs

/-- A stall's carriers, networks, codes and schooled networks replaced (R405, R441). -/
def mergeNets (old : Harness) (i : Nat) (cs : List CarrierCfg) (ns : List NetCfg) (ls : List CodeCfg) (sn : List SchoolCfg) : Harness :=
  let mine (c : Nat) : Bool := carrierOwner old c == some i
  { old with
    carriers := mergeBy (·.carrier) (old.carriers.filter (fun r => r.stall != i)) cs,
    nets := mergeBy (·.net) (old.nets.filter (fun r => !mine r.carrier)) ns,
    ldpc := old.ldpc.filter (fun r => r.stall != i) ++ ls,
    schoolNets := mergeBy (·.net) (old.schoolNets.filter (fun r => !(netCarrier old r.net).any mine)) sn }

/-- The running structure with a stall's part replaced by its segment's. -/
def mergeHarness (old new : Harness) (i : Nat) : Harness :=
  { mergeNets old i new.carriers new.nets new.ldpc new.schoolNets with
    stalls := mergeBy (·.stall) (old.stalls.filter (fun r => r.stall != i)) new.stalls,
    res := mergeBy (·.stall) (old.res.filter (fun r => r.stall != i)) new.res,
    mems := mergeBy (·.stall) (old.mems.filter (fun r => r.stall != i)) new.mems,
    gait := mergeGait 8192 (old.gait.filter (fun e => gaitOwner old e != i)) new.gait,
    binds := old.binds.filter (fun r => clusterOwner old r.cluster != some i) ++ new.binds,
    dets := old.dets.filter (fun r => clusterOwner old r.cluster != some i) ++ new.dets,
    codes := old.codes.filter (fun r => r.stall != i) ++ new.codes,
    routes := old.routes.filter (fun r => r.stall != i) ++ new.routes,
    falls := old.falls.filter (fun r => r.stall != i) ++ new.falls,
    budgets := old.budgets.filter (fun r => r.stall != i) ++ new.budgets,
    schoolEngs := old.schoolEngs.filter (fun r => engineOwner old r.engine != some i) ++ new.schoolEngs }

/-- What a segment may not change of its stall (R123). -/
def sameShape (a b : StallRec) : Bool :=
  a.cls == b.cls && a.host == b.host && a.vf == b.vf && a.queues == b.queues && a.qdepthLog2 == b.qdepthLog2
    && a.memBase == b.memBase && a.memSize == b.memSize

/-- Units a segment owns that another stall owned before. -/
def takesUnits (old new : Harness) (i : Nat) : Bool :=
  new.res.any (fun r => old.res.any (fun o => o.stall != i &&
    ((r.arrOwn &&& o.arrOwn) != 0 || (r.mvpOwn &&& o.mvpOwn) != 0 || (r.fdrOwn &&& o.fdrOwn) != 0
      || (r.decOwn &&& o.decOwn) != 0 || (r.seOwn &&& o.seOwn) != 0 || (r.pcrOwn &&& o.pcrOwn) != 0)))

/-- Whether a borrow field breaks R106 against another stall's fields: the unit is owned where it may not be, or two PACED stalls
may borrow it. -/
def borrowBreaks {w : Nat} (paced other : Bool) (borrow own' borrow' : BitVec w) : Bool :=
  ((borrow &&& own') != 0 && (!paced || other)) || (paced && other && (borrow &&& borrow') != 0)

/-- Units a segment borrows that R106 does not let its stall borrow. -/
def badBorrows (old new : Harness) (i : Nat) : Bool :=
  let p := pacedIn old i
  new.res.any (fun r => old.res.any (fun o =>
    let q := pacedIn old o.stall
    o.stall != i && (borrowBreaks p q r.arrBorrow o.arrOwn o.arrBorrow || borrowBreaks p q r.mvpBorrow o.mvpOwn o.mvpBorrow
      || borrowBreaks p q r.fdrBorrow o.fdrOwn o.fdrBorrow || borrowBreaks p q r.decBorrow o.decOwn o.decBorrow
      || borrowBreaks p q r.pcrBorrow o.pcrOwn o.pcrBorrow)))

/-- The scope of a segment (R123, Table 3-3): its own entries, own routes, own fallback records. -/
def segScope (s : State) (b : List Byte) (new : Harness) : Option LoadErr :=
  let i := nat8 b 7
  let mine (c : Nat) : Bool := clusterOwner { s.hns with res := s.hns.res.filter (fun r => r.stall != i) ++ new.res } c == some i
  let ok : Bool := between 1 i 15 && definedIn s.hns i
    && decide ((tget 0 s.loader.segSerial i).toNat < (imageSerialNo b).toNat)
    && new.stalls.all (fun r => r.stall == i && s.hns.stalls.any (fun o => o.stall == i && sameShape o r))
    && new.res.all (fun r => r.stall == i) && new.mems.all (fun r => r.stall == i)
    && new.routes.all (fun r => r.stall == i) && new.falls.all (fun r => r.stall == i) && new.budgets.all (fun r => r.stall == i)
    && new.carriers.all (fun r => r.stall == i) && new.nets.all (fun r => carrierOwner s.hns r.carrier == some i)
    && !takesUnits s.hns new i && !badBorrows s.hns new i
    && new.binds.all (fun r => mine r.cluster) && new.dets.all (fun d => mine d.cluster)
    && new.gait.all (fun e => gaitOwner { s.hns with res := s.hns.res.filter (fun r => r.stall != i) ++ new.res } e == i)
  firstErr [need ok { code := 0x1C }, need (imageBase b == s.loader.serial) { code := 0x1D }]

/-- A segment names an array that is fenced (R130). -/
def segFenced (s : State) (new : Harness) : Bool :=
  new.res.any (fun r => (List.range 8).any (fun n => (r.arrOwn.getLsbD n || r.arrBorrow.getLsbD n) && s.fencing.fenced.getLsbD n))

end Sys2Proof.Machine
end

