-- ==== Sys2Proof/Machine/Apply.lean ====
section
/-!
DEFINITION. Applying an accepted structure (step 11 of R117, R647): stalls and their journals (R169, R203), gait banks
(R51), clocks (R111), arrays and reserve banks (R224), carriers (R443), detectors, schooled networks (R475, R477), and
what losses that are already there do to it (R114, R349).
-/
namespace Sys2Proof.Machine

/-- The CAPS of an I/O die (R530); a die whose link never trained announces nothing. -/
def capsOf (s : State) (d : Nat) : W16 := ((getGirth s d).peer.map (·.caps)).getD 0

/-! ### Records that change (R119) and journals that are live -/

/-- The fields of a stall record that R119 names differ. -/
def recChanged (a b : StallRec) : Bool :=
  a.cls != b.cls || a.host != b.host || a.vf != b.vf || a.queues != b.queues || a.qdepthLog2 != b.qdepthLog2
    || a.jobAbi != b.jobAbi || a.memBase != b.memBase || a.memSize != b.memSize

/-- Whether a stall holds accepted, uncommitted jobs that can be read (R119, R202). -/
def uncommitted (s : State) (i : Nat) : Bool :=
  !(getStall s i).badJournal && (getStall s i).queues.any (fun q => q.2.journal.any (fun y => match y.2 with
    | some e => !laterThan e.seq q.2.ahead && (match e.state with
      | .accepted => true
      | .running => true
      | .committing => true
      | _ => false)
    | none => false))

/-- JOURNAL_LIVE (R119): a stall that holds uncommitted jobs changes or is absent. -/
def journalLive (s : State) (h : Harness) : Bool :=
  s.hns.stalls.any (fun o => uncommitted s o.stall && !h.stalls.any (fun r => r.stall == o.stall && !recChanged o r))

/-! ### Memory whose owner changes (R152) -/

/-- The stall whose region holds a place of memory, given as channel and channel-local offset. -/
def placeOwner (h : Harness) (key : Nat) : Option Nat :=
  (h.stalls.find? (fun r => (regionChannels r).getLsbD (key / 2 ^ 30) && decide ((localRange r).1 ≤ key % 2 ^ 30)
    && decide (key % 2 ^ 30 < (localRange r).2))).map (·.stall)

/-- Blocks that leave a stall's region read zero (R152). -/
def zeroMoved (s : State) (old new : Harness) : State :=
  let gone (key : Nat) : Bool := match placeOwner old key with
    | some i => decide (placeOwner new key ≠ some i)
    | none => false
  { s with mem := { s.mem with
    hbm := s.mem.hbm.filter (fun x => !gone x.1), poison := s.mem.poison.filter (fun x => !gone (32 * x.1)) } }

/-! ### Stalls -/

/-- Faults of a stall that stand when it opens: a lost stack of its channels, or no array left (R86, R92, R297). -/
def standingFaults (s : State) (i : Nat) : State :=
  let held (f : W16 × Byte × BitVec 4) : Bool := (getStall s i).faultWas.any (fun w => w.1 == f.1 && persists s i w)
  let s := (List.range 4).foldl (fun s k =>
    if (getStack s k).failed && onStack s i k && !held (0x2003, 0, 0) then stallFault s i 0x2003 8 k [BitVec.ofNat 8 k] none else s) s
  let mine := (List.range 8).filter (mayUseArr s i)
  if !mine.isEmpty && mine.all (fun n => !arrUsable s n) && !held (0x2004, 0, 0) then
    stallFault s i 0x2004 1 (mine.headD 0) [] none
  else s

/-- A stall of the structure opens (R169): its journal is kept and checked where its record is unchanged, and
initialised otherwise (R202, R203). One that the structure does not define is ABSENT; the vectors of its function stay. -/
def openStall (s : State) (i : Nat) (bad : Option (Byte × W16)) : State :=
  match stallRec s i with
  | none => modStall s i (fun x => {
      msixAddr := x.msixAddr, msixData := x.msixData, msixOpen := x.msixOpen, msixPend := x.msixPend })
  | some r =>
    let kept := (getStall s i).journalRec.any (fun o => !recChanged o r)
    let live := (stallCarriers s i).foldl (fun (b : Byte) c => setBit b c true) 0
    let s := modStall s i (fun x => { x with
      state := .resetting, resetStep := 5, faultNew := none, share := BitVec.ofNat 10 r.share, sharePending := none,
      journalRec := some r, variant := 0, shedK := 0, remaps := [], uncovered := [], carriersLive := live })
    let s := if kept then (match bad with
        | some b => journalBad s i b
        | none => restoreControl s i (getStall s i).faultJob)
      else initControl s i
    let s := standingFaults (modStall s i (fun x => { x with faultJob := none })) i
    resumeState s i

def openStalls (s : State) (bad : List (Fin 16 × Byte × W16)) : State :=
  (List.range 16).foldl (fun s i => openStall s i ((bad.find? (fun x => x.1.val == i)).map (·.2))) s

/-! ### Arrays, clocks, carriers, detectors -/

/-- The tokens of an owned array are its owner's; those of a pool array stay with SHARED stalls that may borrow it (R332). -/
def setTokens (s : State) (n : Nat) : State :=
  match arrOwner s n with
  | some i =>
    let others := (List.range 14).filter (fun t => (tget none (getArr s n).tokens t).any (fun j => j != i))
    modArr s n (fun a => { zeroTokens a others with tokens := (List.range 14).foldl (fun t k => tset none t k (some i)) [], transit := 0 })
  | none =>
    let gone := (List.range 14).filter (fun t => (tget none (getArr s n).tokens t).any (fun j => isPaced s j || !mayUseArr s j n))
    modArr s n (fun a => dropTokens (zeroTokens a gone) gone)

/-- Every array's tokens, and the stall of its reserve context (R224). -/
def openArrays (s : State) : State :=
  (List.range 8).foldl (fun s n =>
    if arrUsable s n then setTokens (modArr s n (fun a => { a with rsvStall := arrPacedBy s n })) n
    else modArr s n (fun a => { a with rsvStall := none, tokens := [] })) s

/-- The reserve banks are loaded (R224, R407). -/
def loadReserves (s : State) : State :=
  (List.range 8).foldl (fun s n => if (getArr s n).rsvStall.isSome then loadReserve s n else s) s

/-- Every unit runs at its harness target (R111); the levels of the budget are evaluated anew. -/
def setClocks (s : State) : State :=
  let s := (List.range 8).foldl (fun s n => modVec (modArr s n (fun a => { a with freq := 0, parked := false })) n (fun v => { v with freq := 0 })) s
  let s := (List.range 4).foldl (fun s m => modPath s m (fun p => { p with freq := 0 })) s
  let s := (List.range 6).foldl (fun s c => modCluster s c (fun cl => { cl with freq := 0 })) s
  settleRails { s with power := { s.power with
    level := 0, levelSum := 0, levelCnt := 0, levelNew := true, toPark := 0, windows := [], reeval := s.power.active } }

/-- A carrier begins anew (R443). -/
def openCarrier (s : State) (c : Nat) : State :=
  match carrierCfg s c with
  | none => modCarrier s c (fun ca => { repHead := ca.repHead, gainSet := ca.gainSet })
  | some cfg => modCarrier s c (fun ca => {
      array := cfg.array, repHead := ca.repHead, gainSet := ca.gainSet,
      streams := tmods {} [] (List.range cfg.streams) (fun a _ => { gain := if cfg.agcMode = 0 then bits ca.gainSet (8 * a) 8 else 0 }) })

def openCarriers (s : State) : State := (List.range 8).foldl openCarrier s

/-- The detectors take their configuration, at a swap tick for first samples from it on; a debounce in progress and queued
captures stay (R62). -/
def setDetectors (s : State) (swap : Option Nat) (p : Nat → Bool) : State :=
  (List.range 6).foldl (fun s c =>
    if p c then (List.range 4).foldl (fun s n =>
      let r := s.hns.dets.find? (fun d => d.cluster == c && d.det == n)
      let cfg : DetCfg := { source := (r.map (·.source)).getD 0, polarity := (r.map (·.polarity)).getD 0, debounce := (r.map (·.debounce)).getD 0 }
      modDet s c n (fun d => { d with
        cfg := cfg, before := if swap.isSome then d.cfg else cfg, from_ := swap.getD 0 })) s
    else s) s

/-! ### Losses that the structure meets (R114, R347, R349) -/

/-- Units of a PACED stall out of service and not replaced yet: kind 1 arrays, 2 pacer cores, 3 decoder engines. -/
def lostUnits (s : State) (i : Nat) : List (Nat × Nat) :=
  let mine (k u : Nat) : Bool := (losers s k u).contains i && !(stallCarriers s i).any (fun c => (getCarrier s c).swaps.any (fun x => x.1 == k && x.2.1 == u))
  ((List.range 8).filter (fun n => !arrUsable s n && mine 1 n)).map (fun n => (1, n))
    ++ ((List.range 48).filter (fun n => decide ((getCore s n).st = .out) && mine 2 n)).map (fun n => (2, n))
    ++ ((List.range 24).filter (fun n => (getDec s n).out && mine 3 n)).map (fun n => (3, n))

/-- The losses of a stall that stand, with their evaluations, or the evaluation alone (R347, R349). -/
def standingLosses (s : State) (i : Nat) : State :=
  match lostUnits s i with
  | [] => evaluateStall s i
  | us => us.foldl (fun s u => loseUnit s i u.1 u.2) s

/-- At acceptance the fallback map of units already lost is in force when the stall's loads begin (R78); its evaluation waits
for the change point. -/
def coverLosses (s : State) (i : Nat) : State :=
  if !isPaced s i then s
  else
    let s := standingLosses s i
    let s := (getStall s i).remaps.foldl (fun s r => applyRemap s i r) s
    modStall s i (fun st => { st with remaps := (st.remaps.getLast?.toList).map (fun r => { kind := 0, failed := 0, replace := none, ready := true, eval := r.eval }) })

/-- At a segment's swap tick the losses are met again, each at its change point (R349); the STALL_SWAP is the swap point of
cores and engines (Table 2-11). -/
def coverSegment (s : State) (i : Nat) : State :=
  if isPaced s i then swapPoint (standingLosses s i) i (fun _ => true) else s

/-! ### Schooled networks across structures (R475, R477) -/

/-- Whether a schooled network is the same in two structures in what would re-initialise it (R475). -/
def sameSchool (old new : Harness) (o r : SchoolCfg) : Bool :=
  let wlen (h : Harness) (net : Nat) := (h.nets.find? (fun n => n.net == net)).map (·.wLen)
  o.net == r.net && o.layout == r.layout && o.layers == r.layers && o.saOff == r.saOff && decide (wlen old o.net = wlen new r.net)

/-- The old record number of a network that stays. -/
def oldRecord (old new : Harness) (r : SchoolCfg) : Option Nat := firstIdx (fun o => sameSchool old new o r) old.schoolNets 0

/-- Records are renumbered after the new structure's order. What stays of a network moves with it; actions of the others
are dropped. -/
def renumberSchool (s : State) (old : Harness) : State :=
  let back := s.hns.schoolNets.map (oldRecord old s.hns)
  let dest (r : Nat) : Option Nat := firstIdx (fun b => b == some r) back 0
  { s with school := { s.school with
    nets := back.zipIdx.foldl (fun t x => match x.1 with
      | some o => tset {} t x.2 (getNet s o)
      | none => match firstIdx (fun o => some o.net == (s.hns.schoolNets[x.2]?).map (·.net)) old.schoolNets 0 with
        | some o => tset {} t x.2 { nvLast := (getNet s o).nvLast }
        | none => t) [],
    actions := s.school.actions.filterMap (fun a => (dest a.1).map (fun r => (r, a.2))),
    running := s.school.running.filterMap (fun x => match x.2 with
      | some a => (dest a.1).map (fun r => (x.1, some (r, a.2)))
      | none => none) } }

/-- Networks prepared anew: every one, or those that `p` names (R477). -/
def prepareSchool (s : State) (p : Nat → Bool) : State :=
  (List.range s.hns.schoolNets.length).foldl (fun s r => if p r then reinitNet s r else s) s

/-! ### The whole structure -/

/-- Steps 11 and 12: the structure, its gait in both banks (R51), and every unit it names. `school`: what becomes of the
schooled networks. -/
def applyHarness (s : State) (h : Harness) (bad : List (Fin 16 × Byte × W16)) (school : State → State) : State :=
  let g : GaitBank := { entries := h.gait }
  let s := { s with hns := h, merged := none, netNext := [], accepted := true }
  let s := modAir s (fun a => { a with
    bank0 := g, bank1 := g, activeBank := false, swapFrame := none, copying := false, entryCount := BitVec.ofNat 13 h.gait.length })
  let s := openCarriers (openArrays (setClocks s))
  let s := setDetectors s none (fun _ => true)
  let s := openStalls s bad
  let s := (List.range 16).foldl coverLosses s
  let s := school s
  let s := loadReserves s
  let s := (List.range 16).foldl beginLoads s
  { s with boot := { s.boot with phase := .running, bringup := false } }

/-- The registers of an accepted image (R126, R133): a load is counted, a restore is not. -/
def imageRegs (s : State) (image : List Byte) (dropped : Nat) (kind : Byte) : State :=
  let serial := imageSerialNo image
  { s with loader := { s.loader with
    state := 12, segState := 0, job := none, nextImage := none, image := image, damaged := false,
    digest := digestOf image, serial := serial,
    segSerial := (List.range 16).foldl (fun t i => tset 0 t i serial) [],
    spares := BitVec.ofNat 8 (min 255 dropped), keySlot := (keySlotOf s.fuses image).getD s.loader.keySlot,
    loadCnt := if kind = 1 then satInc s.loader.loadCnt else s.loader.loadCnt } }

/-- Engines seeded, cursors at the lowest record (R477). -/
def startEngines (s : State) : State := (List.range 2).foldl (fun s e => resetCursors (seedEngine s e) e) s

/-- The first acceptance after a cold reset, or one from EMPTY (R647). -/
def acceptFirst (s : State) (image : List Byte) (h : Harness) (dropped : Nat) (bad : List (Fin 16 × Byte × W16)) : State :=
  let s := imageRegs { s with loader := { s.loader with slot := false, segs := [] } } image dropped 1
  let s := applyHarness s h bad (fun s => startEngines (prepareSchool s (fun _ => true)))
  let s := { s with school := { s.school with acceptedAt := s.now } }
  let s := (List.range 4).foldl startPort s
  let s := modAir s (fun a => { a with acceptedAt := some s.now, startArmed := h.time.cand.all (· == 0) })
  loadEvent (evaluateRef s) (imageSerialNo image) 0 1 0

end Sys2Proof.Machine
end

