-- ==== Sys2Proof/Machine/Loader.lean ====
section
/-!
DEFINITION. The loader: full loads (R117, R119), segments from STAGED to SWAPPED (R123 to R130), ABORT and RAISE_FLOOR
(R126), key slots (R116), and the start of a warm reset that a REPLACE asks for (R119, R654).
-/
namespace Sys2Proof.Machine

/-! ### A warm reset is asked for (R640, R652, R654) -/

/-- The device stays TRIPPED: three trips within the last hour (R595). -/
def tripLocked (s : State) : Bool := s.power.tripped && decide (3 ≤ (s.power.trips.filter (fun t => decide (s.now - t < 442368000000))).length)

/-- TRIPPED ends, which raises PWR (R595, Table 17-5). -/
def tripEnd (s : State) : State :=
  if s.power.tripped then raiseSource { s with power := { s.power with tripped := false } } 0x2600 else s

/-- A warm reset starts at step 1; before phase 7 it is held, and during another it merges with it (R654). A cold reset
that waits for its snapshot, and a power failure, supersede it. -/
def warmRequest (s : State) (cause : BitVec 3) : State :=
  if s.boot.warmStep ≠ 0 ∨ s.boot.powerFailed = true ∨ s.boot.coldWaiting = true ∨ tripLocked s = true then s
  else if s.boot.bringup || !s.boot.pwrOk then { s with boot := { s.boot with warmHeld := true, heldCause := cause } }
  else
    let s := if s.loader.job.any (fun j => !j.segment) then fullFail s [] 0x21 0x3FF 0x3FFF else s
    let s := abortSegment s (fun _ => true)
    let s := tripEnd s
    { s with boot := { s.boot with warmStep := 1, warmCause := cause, lastReset := 3, warmCnt := satInc s.boot.warmCnt, warmHeld := false } }

/-! ### Starting a load (R117, R128, R132, R643) -/

/-- Whether a load, a segment, a bring-up, a reset or a groom update keeps a load from starting. -/
def loaderBusy (s : State) : Bool :=
  s.loader.job.isSome || s.loader.segState != 0 || s.loader.nextImage.isSome || s.grm.state == 3
    || s.boot.bringup || decide (s.boot.warmStep ≠ 0) || !(decide (s.boot.phase = .empty) || decide (s.boot.phase = .running))

/-- A load that does not begin: what runs stays as it is. Its header was not read, so its SERIAL is a free value. -/
def refuseLoad (s : State) (code kind : Byte) : State :=
  loadEvent (setErr (drew s) code 0x3FF 0x3FFF) ((draw s).setWidth 32) code kind 0

/-- The loader region, or the groom that loads, is lost (Table 18-6). -/
def loaderDead (s : State) : Bool := !s.fuses.stackEn.getLsbD 0 || (getStack s 0).failed || decide ((getGroom s 1).state = .failed)

/-- HNS_LEN bytes are read from HNS_SRC in S0's host memory (Table 3-12 step 1, Table 3-13 STAGED). -/
def readImage (s : State) : State :=
  if 256 ≤ s.loader.len.toNat ∧ s.loader.len.toNat ≤ 12582912 then hostRead s 0 s.loader.src s.loader.len.toNat else s

/-- HNS_CTL.LOAD with REPLACE as it stands. -/
def loadCmd (replace : Bool) (s : State) : State :=
  let s := { s with loader := { s.loader with replace := replace } }
  if loaderBusy s then refuseLoad s 0x22 1
  else if s.accepted && !replace then refuseLoad s 0x1B 1
  else if s.fuses.burned = 0 then refuseLoad s 0x09 1
  else if loaderDead s then refuseLoad s 0x19 1
  else { readImage s with loader := { s.loader with job := some { segment := false, replace := replace && s.accepted }, state := 1 } }

def execHnsLoad (replace : Bool) (s : State) : Host.Outcome State Fault Refusal := .next (mgmtEarly (loadCmd replace) s)

/-- The steps of a full load after the copy (Table 3-12): it fails, waits for the warm reset of a REPLACE, or is accepted. -/
def fullLoad (s : State) (replace readFault regionErr : Bool) (image : List Byte) (bad : List (Fin 16 × Byte × W16)) : State :=
  let fail (e : LoadErr) : State := fullFail s image e.code e.index e.record
  if regionErr then fail { code := 0x19 }
  else match stepsToChecker s false readFault image with
    | some (_, e) => fail e
    | none =>
      let h := harnessOf image s.hns.time
      match stepsFull s.fuses (capsOf s) image h with
      | some (_, e) => fail e
      | none =>
        let d := dropSpares s.fuses h
        if replace then
          if journalLive s d.1 then fail { code := 0x1A }
          else warmRequest { s with loader := { s.loader with state := 11, job := none, nextImage := some image } } 3
        else if loaderDead s then fail { code := 0x19 }
        else acceptFirst s image d.1 d.2 bad

/-- HARNESS_ACCEPTED (R117): what the host read brought, whether the loader region failed during the load, what the device
found of its accepted image, and the control areas that fail their check (R202). G1 loads. -/
def execHarnessAccepted (readFault regionErr : Bool) (slotErr : BitVec 2) (image : List Byte) (bad : List (Fin 16 × Byte × W16))
    (s : State) : Host.Outcome State Fault Refusal :=
  match s.loader.job with
  | some j =>
    if j.segment || !groomUp s 1 then .next s
    else .next (fullLoad (slotDamaged s slotErr) j.replace readFault regionErr image bad)
  | none => .next s

/-! ### Segments (R123 to R130) -/

/-- HNS_CTL.LOAD_SEG. `stall`: the STALL that the header at HNS_SRC names, for the checks before the image is read (R128). -/
def segCmd (stall : BitVec 4) (s : State) : State :=
  if loaderBusy s then refuseLoad s 0x22 2
  else if loaderDead s then refuseLoad s 0x19 2
  else { readImage s with loader := { s.loader with
    job := some { segment := true, replace := false }, segState := 1, segStall := stall, segImage := [], repeats := 0, delayed := false } }

def execHnsLoadSeg (s : State) (stall : Fin 16 := 0) : Host.Outcome State Fault Refusal :=
  .next (mgmtEarly (segCmd (BitVec.ofNat 4 stall.val)) s)

/-- The segment store with a segment of `n` bytes of stall `i` (R127). -/
def storeFits (s : State) (i n : Nat) : Bool :=
  decide (((List.range 16).map (fun j => if j = i then 0 else ((tget none s.loader.segs j).map (·.bytes.length)).getD 0)).sum + n ≤ 2 ^ 22)

/-- Cores that a stall keeps across a segment, and that have a program in it. -/
def keptCores (s : State) (h : Harness) (i : Nat) : List (Nat × Byte) :=
  (List.range 48).filterMap (fun n =>
    if pcrOwner s n = some i ∧ resOf h i (fun r => r.pcrOwn.getLsbD n) = true then (bindOf h n).map (fun r => (n, r.bind)) else none)

/-- The merged bank stays within R46. -/
def bankFits (g : List W64) : Bool := decide (g.length ≤ 4096) && gaitOrder g

/-- The running structure with the network records that wait for their slot boundary. -/
def boundHarness (s : State) : Harness :=
  s.netNext.foldl (fun h x => mergeNets h x.stall x.carriers x.nets x.ldpc x.schoolNets) s.hns

/-- VALIDATED: the checks of a segment against the running structure, and the merged structure (R123, R124, R130). -/
def segCheck (s : State) (image : List Byte) : LoadErr ⊕ Harness :=
  let new := (dropSpares s.fuses (harnessOf image s.hns.time)).1
  let i := nat8 image 7
  let h := mergeHarness (boundHarness s) new i
  match firstErr [segScope s image new, segFit s.fuses image new, need (storeFits s i image.length) { code := 0x02 },
      need (!segFenced s new) { code := 0x23 }, checkGait image new, need (bankFits h.gait) { code := 0x1E }] with
  | some e => .inl e
  | none => match stepRules s.fuses image h with
    | some e => .inl e
    | none => .inr h

/-- A validated segment: its stall's cores preload its programs (R396). -/
def segValid (s : State) (image : List Byte) (h : Harness) : State :=
  let i := nat8 image 7
  let serial := imageSerialNo image
  let s := { s with merged := some h, loader := { s.loader with segState := 2 } }
  (keptCores s h i).foldl (fun s x => modCore s x.1 (fun c =>
    if c.st = .out then c else { setInact c { inactBank c with tag := none } with preload := some (serial, x.2) })) s

def execSegmentValidated (readFault regionErr : Bool) (slotErr : BitVec 2) (image : List Byte) (s : State) :
    Host.Outcome State Fault Refusal :=
  if s.loader.job.any (·.segment) && s.loader.segState == 1 && groomUp s 1 then
    let s := slotDamaged s slotErr
    let s := { s with loader := { s.loader with segImage := image, segStall := BitVec.ofNat 4 (nat8 image 7) } }
    if regionErr then .next (segFail s 0x19 0x3FF 0x3FFF)
    else match stepsToChecker s true readFault image with
      | some (_, e) => .next (segFail s e.code e.index e.record)
      | none => match segCheck s image with
        | .inl e => .next (segFail s e.code e.index e.record)
        | .inr h => .next (segValid s image h)
  else .next s

/-- The next STALL_SWAP of a stall that acts at least `lead` and at most `span` ticks ahead: frames from the current one,
and the offset (R124). -/
def swapTick (s : State) (i lead span : Nat) : Option (Nat × Nat) :=
  let es := (gaitEntries s.air).filter (fun x => !gaitBad s.air x.1 && gAction x.2 == 6 && (gTarget x.2).toNat == i)
  (List.range (span / 1228800 + 2)).findSome? (fun k =>
    (es.find? (fun x => gActs x.2 (s.air.frame + BitVec.ofNat 10 k)
      && decide (s.air.tick.toNat + lead ≤ 1228800 * k + gOffset x.2)
      && decide (1228800 * k + gOffset x.2 ≤ s.air.tick.toNat + span))).map (fun x => (k, gOffset x.2)))

/-- Ticks of 128 frames, in which a swap tick is searched for (R124). -/
def searchSpan : Nat := 128 * 1228800

/-- The swap is armed at a qualifying STALL_SWAP, and doorbells are held from here (R124); where none qualifies the
segment stays EDITED. -/
def armSwap (s : State) (lead span : Nat) : State :=
  let i := s.loader.segStall.toNat
  match swapTick s i lead span with
  | none => { s with loader := { s.loader with segState := 3 } }
  | some (k, off) =>
    let f := s.air.frame + BitVec.ofNat 10 k
    let s := { s with loader := { s.loader with segState := 4, segFrame := f, segTick := BitVec.ofNat 21 off } }
    let s := modAir s (fun a => { a with swapFrame := some (f + 1) })
    settleHold (modStall s i (fun st => { st with segHold := true })) i

/-- Whether a fence has taken an array that the pending segment names (R130). -/
def segNowFenced (s : State) : Bool := segFenced s (harnessOf s.loader.segImage s.hns.time)

/-- SEGMENT_EDITED (R124): G3 has written the merged bank into the shadow bank; COPYING makes it wait (R53). -/
def execSegmentEdited (s : State) : Host.Outcome State Fault Refusal :=
  match s.merged with
  | none => .next s
  | some h =>
    if s.loader.segState = 2 ∧ s.air.copying = false ∧ groomUp s 3 = true then
      let i := s.loader.segStall.toNat
      let serial := imageSerialNo s.loader.segImage
      if segNowFenced s then .next (segFail s 0x23 0x3FF 0x3FFF)
      else if (keptCores s h i).any (fun x => decide ((getCore s x.1).st ≠ .out) && decide ((inactBank (getCore s x.1)).tag ≠ some (serial, x.2))) then
        .next (segFail s 0x21 0x3FF 0x3FFF)
      else
        let s := modAir s (fun a => { setShadow a { entries := h.gait } with swapFrame := none })
        .next (armSwap { s with loader := { s.loader with segState := 3, editedAt := airCount s.air, delayed := false } } 12288 searchSpan)
    else .next s

/-- SEGMENT_NO_SWAP_POINT (R124, R125): no swap tick qualifies within 128 frames. -/
def execSegmentNoSwapPoint (s : State) : Host.Outcome State Fault Refusal :=
  if s.loader.segState = 3 then .next (segFail s (if s.loader.delayed then 0x20 else 0x1F) 0x3FF 0x3FFF) else .next s

/-! ### The swap (R124, R125, R396) -/

/-- A stall's entries do nothing more in the bank that ends with this frame; those issued after the swap tick and not yet
in effect are dropped. -/
def suppressGait (s : State) (i : Nat) (old : Harness) (off : Nat) : State :=
  let mine (e : W64) : Bool := gaitOwner old e == i
  let nop (e : W64) : W64 := if mine e then e &&& ~~~ place 64 21 (0x3F : BitVec 6) else e
  modAir s (fun a =>
    let b : GaitBank := { activeGait a with entries := (activeGait a).entries.map nop }
    { a with
      bank0 := if a.activeBank then a.bank0 else b, bank1 := if a.activeBank then b else a.bank1,
      lateQ := a.lateQ.filter (fun g => !mine g.entry), dueQ := a.dueQ.filter (fun g => !mine g.entry),
      issued := a.issued.filter (fun g => !(mine g.entry && decide (off < gOffset g.entry))) })

/-- A core across the swap of its stall: kept and preloaded, it flips; new, it starts from bank 0; taken away, it halts
(R396); every other core's preload follows the new gait bank (R393). -/
def swapCoreOwner (s : State) (old : Harness) (i n : Nat) (at_ : Nat) : State :=
  let had := resOf old i (fun r => r.pcrOwn.getLsbD n)
  let has := resOf s.hns i (fun r => r.pcrOwn.getLsbD n)
  let c := getCore s n
  if c.st = .out then s
  else if had && has then
    match bindOf s.hns n with
    | some r => if c.st ≠ .loading && decide ((inactBank c).tag = some (coreSerial s n, r.bind)) then flipCore s n at_ else refreshPreload s n
    | none => refreshPreload s n
  else if has then
    match bindOf s.hns n with
    | some r => bank0Loaded s n (coreSerial s n, r.bind)
    | none => s
  else if had then modCore s n clearCore
  else if c.st = .reset ∨ c.st = .loading then s
  else refreshPreload s n

/-- Cache lines of other stalls in the ways that a PACED stall gains are written back and invalidated (R319). -/
def gainWays (s : State) (old : Harness) (i : Nat) : State :=
  let ways (h : Harness) : BitVec 16 := ((h.mems.find? (fun m => m.stall == i)).map (·.ways)).getD 0
  if !isPaced s i then s
  else
    let gained := ways s.hns &&& ~~~ ways old
    { s with mem := { s.mem with cache := s.mem.cache.filter (fun l => !(gained.getLsbD l.way) || lineInRegion s i l) } }

/-- Work of other stalls on an array that the stall now owns leaves it. -/
def leaveOwned (s : State) (i : Nat) : State :=
  (List.range 8).foldl (fun s n =>
    if arrOwner s n = some i then
      (runsOn s n).foldl (fun s x => if x.1 = i then s else displaceRun s x.1 x.2.1 x.2.2) s
    else s) s

/-- A segment's carriers: one whose ARRAY changed moves; a trial in progress becomes INSTALL_BACK (R475). -/
def moveCarriers (s : State) (old : Harness) (i : Nat) : State :=
  (List.range 8).foldl (fun s c =>
    if carrierStall s c = some i then
      match carrierCfg s c, old.carriers.find? (fun r => r.carrier == c) with
      | some r, some o => if r.array = o.array then s else modCarrier s c (fun ca => { ca with array := r.array })
      | some _, none => openCarrier s c
      | none, some _ => openCarrier s c
      | none, none => s
    else s) s

/-- The schooled networks of the stall after its segment: one that is unchanged keeps its state, a trial in progress
becomes INSTALL_BACK; the others are prepared anew (R475, R477). -/
def swapSchool (s : State) (old : Harness) (i : Nat) : State :=
  let s := renumberSchool s old
  let mine (r : Nat) : Bool := (schoolCfg s r).any (fun x => netStall s x.2 == i)
  let fresh (r : Nat) : Bool := mine r && (s.hns.schoolNets[r]?).any (fun x => (oldRecord old s.hns x).isNone)
  let s := prepareSchool s fresh
  (List.range s.hns.schoolNets.length).foldl (fun s r =>
    if mine r && !fresh r && decide ((getNet s r).state = 3) then endCandidate s r else s) s

/-- The arrays whose reserve bank changes with the segment: their networks or the stall of the reserve context. -/
def reloadOf (s : State) (old : Harness) (was : State) : State :=
  (List.range 8).foldl (fun s n =>
    let rsv := arrPacedBy s n
    let same := decide ((getArr was n).rsvStall = rsv) && decide (netsOn was n = netsOn s n) && decide (old.nets = s.hns.nets)
    if !arrUsable s n || same then s
    else
      let s := modArr s n (fun a => { a with rsvStall := rsv, rsv := if rsv.isNone then [] else a.rsv })
      if rsv.isSome then loadReserve s n else s) s

/-- The first tick from now on at which a slot of each of a stall's carriers begins (R441, notes/assumptions/63.md). -/
def slotBoundary (s : State) (i : Nat) : Nat :=
  let l := (List.range 8).foldl (fun l c => if carrierStall s c = some i then max l (slotLen s c) else l) 1
  s.air.frameAbs + ceilDiv s.air.tick.toNat l * l

/-- A segment's network records as they wait. -/
def netNextOf (s : State) (h : Harness) (i : Nat) : NetNext :=
  let mine (c : Nat) : Bool := carrierOwner h c == some i
  { stall := i, from_ := slotBoundary s i, carriers := h.carriers.filter (fun r => r.stall == i),
    nets := h.nets.filter (fun r => mine r.carrier), ldpc := h.ldpc.filter (fun r => r.stall == i),
    schoolNets := h.schoolNets.filter (fun r => (netCarrier h r.net).any mine) }

/-- Network records come into force: carriers, schooled networks and reserve banks follow them (R441). -/
def applyNets (s : State) (x : NetNext) : State :=
  let was := s
  let old := s.hns
  let s := { s with hns := mergeNets old x.stall x.carriers x.nets x.ldpc x.schoolNets }
  reloadOf (swapSchool (moveCarriers s old x.stall) old x.stall) old was

/-- The network records whose slot boundary has come. -/
def settleNets (s : State) : State :=
  let due (x : NetNext) : Bool := decide (x.from_ ≤ s.air.abs.toNat)
  (s.netNext.filter due).foldl applyNets { s with netNext := s.netNext.filter (fun x => !due x) }

/-- SWAPPED and ACCEPTED (R124, R125): the segment's records are in force, those of its networks from the next slot boundary
on; its cores swap, it is stored, and doorbells are acted on again. -/
def swapSegment (s : State) (h : Harness) (at_ : Nat) (off : Nat) : State :=
  let was := s
  let old := s.hns
  let image := s.loader.segImage
  let serial := imageSerialNo image
  let i := s.loader.segStall.toNat
  let s := suppressGait s i old off
  let s := expireBatches s i true
  let s := { s with
    hns := { h with carriers := old.carriers, nets := old.nets, ldpc := old.ldpc, schoolNets := old.schoolNets },
    netNext := s.netNext.filter (fun x => x.stall != i) ++ [netNextOf s h i], merged := none, loader := { s.loader with
    segState := 0, job := none, segImage := [], repeats := 0, delayed := false,
    segSerial := tset 0 s.loader.segSerial i serial,
    segs := tset none s.loader.segs i (some { stall := i, base := imageBase image, serial := serial, bytes := image }),
    loadCnt := satInc s.loader.loadCnt } }
  let s := modStall s i (fun st => { st with
    journalRec := stallRec s i, remaps := [], uncovered := [],
    sharePending := (stallRec s i).bind (fun r => if r.cls = 2 ∧ BitVec.ofNat 10 r.share ≠ st.share then some (BitVec.ofNat 10 r.share) else none) })
  let s := gainWays (leaveOwned s i) old i
  let s := (List.range 8).foldl setTokens s
  let s := setDetectors s (some at_) (fun c => decide (clusterOwner h c = some i))
  let s := coverSegment s i
  let s := reloadOf s old was
  let s := settleNets ((List.range 48).foldl (fun s n => swapCoreOwner s old i n at_) s)
  let s := settleHold (modStall s i (fun st => { st with segHold := false })) i
  loadEvent (refreshBacklog s) serial 0 2 i

/-- The STALL_SWAP that a segment waits for: it goes on, or, with JOB_ABI changed and jobs uncommitted, waits for a later
one within its 128 frames (R125). -/
def segSwap (s : State) (h : Harness) (at_ : Nat) (off : Nat) : State :=
  let i := s.loader.segStall.toNat
  let abi (h : Harness) := (h.stalls.find? (fun r => r.stall == i)).map (·.jobAbi)
  if segNowFenced s then segFail s 0x23 0x3FF 0x3FFF
  else if abi s.hns ≠ abi h ∧ uncommitted s i = true then
    let s := modAir s (fun a => { a with swapFrame := none })
    armSwap { s with loader := { s.loader with delayed := true } } 1 (searchSpan - (airCount s.air - s.loader.editedAt))
  else swapSegment s h at_ off

/-- STALL_SWAP (R58, R86, R124): the generations of the stall's clusters advance, replacements whose swap point it is take
over, and an armed segment is applied. -/
def execStallSwap (stall : Fin 16) (s : State) : Host.Outcome State Fault Refusal :=
  let i := stall.val
  match takeAct s 6 (BitVec.ofNat 8 i) (fun _ => true) with
  | some (g, s) =>
    let s := swapPoint s i (fun _ => true)
    match s.merged with
    | some h => if segArmed s g then .next (segSwap s h g.due (gOffset g.entry)) else .next s
    | none => .next s
  | none => .next s

/-! ### ABORT, RAISE_FLOOR and keys (R116, R126, R133) -/

/-- HNS_CTL.ABORT: a load before its APPLY, or a segment before ARMED. -/
def loadAbort (s : State) : State :=
  if s.loader.job.any (fun j => !j.segment) then fullFail s [] 0x21 0x3FF 0x3FFF
  else if 1 ≤ s.loader.segState.toNat ∧ s.loader.segState.toNat ≤ 3 then segFail s 0x21 0x3FF 0x3FFF
  else s
def execHnsAbort (s : State) : Host.Outcome State Fault Refusal := .next (mgmtEarly loadAbort s)

/-- HNS_CTL.RAISE_FLOOR: HNS_FLOOR takes HNS_SERIAL; it is never lowered. -/
def floorOp (s : State) : State :=
  { s with loader := { s.loader with floor := if s.loader.floor.toNat < s.loader.serial.toNat then s.loader.serial else s.loader.floor } }
def execHnsRaiseFloor (s : State) : Host.Outcome State Fault Refusal := .next (mgmtEarly floorOp s)

/-- A slot's burn begins with the hash that HNS_PROV_HASH holds; a BURNED slot is refused (R116), and a second
BURN while one runs is ignored (DESIGN CHOICE, notes/assumptions/38.md). -/
def burnOp (slot : Nat) (confirm : W16) (s : State) : State :=
  if confirm = 0xA5C3 ∧ s.fuses.burned.getLsbD slot = false ∧ s.loader.burning = none then
    { s with loader := { s.loader with burning := some (slot, BitVec.ofNat 384 (beNat (s.loader.provHash.flatMap bytesOf))) } }
  else s
def execKeyBurn (slot : Fin 2) (confirm : W16) (s : State) : Host.Outcome State Fault Refusal := .next (mgmtEarly (burnOp slot.val confirm) s)

def execKeyBurnDone (s : State) : Host.Outcome State Fault Refusal :=
  match s.loader.burning with
  | some (k, h) => .next { s with
      loader := { s.loader with burning := none },
      fuses := { s.fuses with
        burned := setBit s.fuses.burned k true, hash0 := if k = 0 then h else s.fuses.hash0, hash1 := if k = 1 then h else s.fuses.hash1 } }
  | none => .next s

/-- REVOKE of a slot other than the one that signed the accepted image (R116), with no CONFIRM and on an unburned slot too
(DESIGN CHOICE, notes/assumptions/38.md). -/
def revokeOp (slot : Nat) (s : State) : State :=
  if s.accepted && decide (s.loader.keySlot.toNat = slot) then s
  else { s with fuses := { s.fuses with revoked := setBit s.fuses.revoked slot true } }
def execKeyRevoke (slot : Fin 2) (s : State) : Host.Outcome State Fault Refusal := .next (mgmtEarly (revokeOp slot.val) s)

end Sys2Proof.Machine
end

