-- ==== Sys2Proof/Machine/Trail.lean ====
section
/-!
DEFINITION. The trail recorder (R615 to R620, Tables 17-7, 17-14, 17-15), its snapshots (R621 to R624, R633) and the SMBus
commands that read it (R626).
-/
namespace Sys2Proof.Machine

/-! ### Entries (Table 17-7) -/

/-- The bytes of an entry; one with a word that cannot be corrected reads with a CRC that fails (R633), by a free value. -/
def entryBytes (e : Entry) : List Byte :=
  let body := bytesOf e.stamp ++ bytesOf e.code ++ bytesOf e.entry
    ++ [flag 8 0 e.trigger ||| flag 8 1 e.guarantee ||| flag 8 2 e.stall.isSome ||| flag 8 3 e.post,
        (e.stall.getD 0).setWidth 8, e.kind.setWidth 8, e.unit]
    ++ bytesOf e.rept ++ padTo 10 e.data
  body ++ bytesOf (if e.bad then crc32c body ^^^ (Config.trailNoise e.entry ||| 1) else crc32c body)

def trailAt (t : Trail) (n : W32) : Option Entry := tget none t.entries (n.toNat % 4096)

/-- Whether a code freezes the trail (R619). -/
def isTrigger (t : Trail) (e : Event) : Bool :=
  let k := e.code.toNat / 4096
  (e.code == 0x3001 && e.guarantee) || e.code == 0x5002 || e.code == 0x5007 || e.code == 0x5009 || e.code == 0x500A
    || e.code == 0x4006 || e.code == 0x6002 || e.code == 0x0010
    || (decide (1 ≤ k ∧ k ≤ 6) && t.mask.getLsbD (k - 1))

/-- Whether two stamps lie within one second (R618, R635). -/
def near (a b : BitVec 48) : Bool := decide ((a - b).toNat ≤ 122880000) || decide ((b - a).toNat ≤ 122880000)

def mergesWith (e : Event) (x : Entry) : Bool :=
  x.code == e.code && x.stall == e.stall && x.kind == e.kind && x.unit == e.unit && near e.stamp x.stamp
    && (e.code != 0x3001 || x.guarantee == e.guarantee)

/-- The latest of the last 16 entries with which an event merges, none across a WARM_RESET (R618). -/
def mergeTarget (t : Trail) (e : Event) : Nat → Nat → Option Nat
  | 0, _ => none
  | f + 1, k =>
    match trailAt t (t.wr - BitVec.ofNat 32 k) with
    | some x =>
      if x.entry ≠ t.wr - BitVec.ofNat 32 k ∨ x.code = 0x0001 then none
      else if mergesWith e x && !x.bad then some k
      else mergeTarget t e f (k + 1)
    | none => none

/-- A new entry takes the next number. -/
def newEntry (t : Trail) (e : Event) (trigger post : Bool) : Trail :=
  { t with
    entries := tset none t.entries (t.wr.toNat % 4096) (some {
      stamp := e.stamp, code := e.code, entry := t.wr, trigger := trigger, guarantee := e.guarantee, stall := e.stall,
      post := post, kind := e.kind, unit := e.unit, rept := 0, data := e.data })
    wr := t.wr + 1 }

/-- FLT_LAST of a fault written as, or merged into, an entry (R630). -/
def setLast (s : State) (code : W16) (entry : W32) (lost : Bool) : State :=
  if isDevCode code then { s with flt := { s.flt with last := fltLast code entry lost } } else s

/-- The recorder stops: later events count as lost (R620). -/
def stopTrail (s : State) : State := raiseSource { s with trail := { s.trail with stopped := true } } 0x2700

/-- One event is recorded (R617 to R620). -/
def recordEvent (s : State) (e : Event) : State :=
  let t := s.trail
  if t.stopped then setLast { s with trail := { t with lost := satInc t.lost } } e.code t.wr true
  else if t.frozen then
    let s := setLast { s with trail := { newEntry t e false true with postLeft := t.postLeft - 1 } } e.code t.wr false
    if t.postLeft ≤ 1 then stopTrail s else s
  else if isTrigger t e then
    let s := { s with trail := { newEntry t e true false with frz := t.wr, frozen := true, postLeft := t.post.toNat } }
    let s := raiseSource (setLast s e.code t.wr false) 0x2700
    if t.post = 0 then stopTrail s else s
  else
    match (if e.code = 0x0001 ∨ e.code = 0x0002 then none else mergeTarget t e 16 1) with
    | some k =>
      let n := t.wr - BitVec.ofNat 32 k
      setLast { s with trail := { t with
        entries := tmod none t.entries (n.toNat % 4096) (fun x => x.map (fun x =>
          { x with rept := satInc x.rept, guarantee := x.guarantee || e.guarantee })) } } e.code n false
    | none => setLast { s with trail := newEntry t e false false } e.code t.wr false

/-- The next queued event is written (R615). -/
def trailWrite (s : State) : State :=
  match s.trail.queue with
  | [] => s
  | e :: rest => recordEvent { s with trail := { s.trail with queue := rest } } e

/-- A word of a written entry that cannot be corrected sets UE_SEEN; the entry's CRC fails from then on (R633). -/
def trailUe (s : State) (slot : Nat) : State :=
  if (tget none s.trail.entries slot).isNone then s
  else { s with trail := { s.trail with
    entries := tmod none s.trail.entries slot (fun x => x.map (fun x => { x with bad := true })), ueSeen := true } }

def execTrailWrite (s : State) (bad : Option (Fin 4096) := none) : Host.Outcome State Fault Refusal :=
  .next (trailWrite (match bad with
    | some k => trailUe s k.val
    | none => s))

/-- Every queued event is written. -/
def drainTrail : Nat → State → State
  | 0, s => s
  | f + 1, s => if s.trail.queue.isEmpty then s else drainTrail f (trailWrite s)

/-- TRL_CTL.UNFREEZE (R620): the UNFREEZE entry is written, and recording resumes. -/
def unfreezeOp (s : State) : State :=
  if !s.trail.frozen then s
  else
    let s := drainTrail 64 s
    let t := s.trail
    { s with trail := { newEntry t { code := 0x000F, data := bytesOf t.frz ++ bytesOf t.lost, stamp := stamp s } false false with
      frozen := false, stopped := false, postLeft := 0 } }

def unfreezeCmdOp (confirm : W16) (s : State) : State := if confirm = 0x3C96 then unfreezeOp s else s
def execTrlUnfreeze (confirm : W16) (s : State) : Host.Outcome State Fault Refusal :=
  .next (mgmtEarly (unfreezeCmdOp confirm) s)

/-- TRL_CTL.FREEZE (R620). -/
def freezeOp (s : State) : State := note s 0x0010 []
def execTrlFreeze (s : State) : Host.Outcome State Fault Refusal := .next (mgmtEarly freezeOp s)

/-! ### Snapshots (R621 to R624, R633) -/

/-- ENTRY of the oldest entry held. -/
def oldestEntry (t : Trail) : W32 := t.wr - BitVec.ofNat 32 ((List.range 4096).countP (fun k => (tget none t.entries k).isSome))

/-- The page not holding the valid snapshot. -/
def freePage (t : Trail) : Bool := match t.valid with
  | some p => !p
  | none => false

def nextSeq (x : W32) : W32 := if x + 1 = 0 then 1 else x + 1

/-- A snapshot of the last 512 entries (Table 17-8). -/
def makeSnap (s : State) (cause : Byte) : Snap :=
  let t := s.trail
  let held := (t.wr - oldestEntry t).toNat
  let n := min 512 held
  { cause := cause, frozen := t.frozen, stopped := t.stopped, seq := nextSeq t.lastSeq, first := t.wr - BitVec.ofNat 32 n,
    abs := s.air.abs, lost := t.lost, serial := s.loader.serial, version := s.grm.version,
    entries := (List.range n).filterMap (fun k => trailAt t (t.wr - BitVec.ofNat 32 n + BitVec.ofNat 32 k)) }

def snapBytes (x : Snap) : List Byte :=
  let head := leBytes 4 0x534C5254 ++ [x.cause, flag 8 0 x.frozen ||| flag 8 1 x.stopped] ++ leBytes 2 x.entries.length
    ++ bytesOf x.seq ++ bytesOf x.first ++ bytesOf x.abs ++ bytesOf x.lost ++ bytesOf x.serial ++ bytesOf x.version
    ++ List.replicate 24 0
  let es := x.entries.flatMap entryBytes
  head ++ bytesOf (crc32c (head ++ es)) ++ es

/-- A snapshot write begins on the page that is not valid, erased of a failed write (R621). -/
def beginSnap (s : State) (cause : Byte) : State :=
  let p := freePage s.trail
  let s := { s with trail := { s.trail with failedPage := if s.trail.failedPage = some p then none else s.trail.failedPage } }
  let x := makeSnap s cause
  { s with trail := { s.trail with writing := some (p, x), second := false } }

def validSnap (t : Trail) : Option Snap := match t.valid with
  | some false => t.page2
  | some true => t.page3
  | none => none

/-- A snapshot page write verifies: it is the valid snapshot and the former page is erased. -/
def snapGood (t : Trail) (p : Bool) (x : Snap) : Trail :=
  { t with
    page2 := if p then none else some x, page3 := if p then some x else none,
    valid := some p, lastSeq := x.seq, writing := none, failedPage := none, coldSeq := x.seq }

/-! ### SMBus commands (Table 17-9) -/

def smAnswer (s : State) (bs : List Byte) : State := emit s (.smbus (padTo 32 bs))

/-- TRL_STS (Table 17-15). -/
def trlSts (t : Trail) : W32 :=
  flag 32 0 t.frozen ||| flag 32 1 t.stopped ||| flag 32 2 t.valid.isSome ||| flag 32 3 (t.valid == some true) ||| flag 32 4 t.ueSeen

def execTrlStatus (s : State) : Host.Outcome State Fault Refusal :=
  let t := s.trail
  .next (smAnswer s (bytesOf (trlSts t) ++ bytesOf t.wr ++ bytesOf t.frz ++ bytesOf t.lost ++ bytesOf t.cursor
    ++ bytesOf (oldestEntry t) ++ bytesOf s.air.abs))

def execTrlSeek (entry : W32) (s : State) : Host.Outcome State Fault Refusal :=
  let t := s.trail
  let c := if entry = 0xFFFFFFFF then oldestEntry t else if entry = 0xFFFFFFFE then t.frz else entry
  .next { s with trail := { t with cursor := c } }

/-- Whether an ENTRY is held: serially from the oldest to before TRL_WR. -/
def entryHeld (t : Trail) (c : W32) : Bool := decide ((c - oldestEntry t).toNat < (t.wr - oldestEntry t).toNat)

def execTrlNext (s : State) : Host.Outcome State Fault Refusal :=
  let t := s.trail
  let c := t.cursor
  if c = t.wr || laterThan c t.wr then .next (smAnswer s [])
  else
    let c := if entryHeld t c then c else oldestEntry t
    match trailAt t c with
    | some e => .next (smAnswer { s with trail := { t with cursor := c + 1 } } (entryBytes e))
    | none => .next (smAnswer { s with trail := { t with cursor := c } } [])

def execSnapStatus (s : State) : Host.Outcome State Fault Refusal :=
  match validSnap s.trail with
  | some x => .next (smAnswer s ((snapBytes x).take 32))
  | none => .next (smAnswer s [])

/-- An SMBus command NACKed (R565, R573). -/
def smNack (s : State) (cmd reason : Byte) : State := note (emit s .smbusNack) 0x000D [cmd, reason]

def execSnapSeek (index : W16) (s : State) : Host.Outcome State Fault Refusal :=
  if index.toNat ≤ 511 then .next { s with trail := { s.trail with index := index } } else .next (smNack s 0x14 3)

def execSnapNext (s : State) : Host.Outcome State Fault Refusal :=
  match (validSnap s.trail).bind (fun x => x.entries[s.trail.index.toNat]?) with
  | some e => .next (smAnswer { s with trail := { s.trail with index := s.trail.index + 1 } } (entryBytes e))
  | none => .next (smAnswer s [])

end Sys2Proof.Machine
end

