-- ==== Sys2Proof/Machine/Boot.lean ====
section
/-!
DEFINITION. Power, cold bring-up and resets (ch. 18): power-on and power-good (R637, R638, R640), power failure and trail
snapshots (R621 to R624, R633), cold bring-up (R642, R643), warm reset (R132, R197, R644, R645) and trip recovery (R595).
-/
namespace Sys2Proof.Machine

/-! ### Trail snapshots and power failure (R622, R623, R638) -/

/-- A non-volatile weight write in progress is abandoned: its page holds no copy's bytes (R469). -/
def abandonNv (s : State) : State :=
  (List.range 32).foldl (fun s r => match schoolCfg s r, (getNet s r).nvWrite with
    | some (cfg, _), some (c, k, _) =>
      let s := modSchool s (fun y => { y with pages := tset [] y.pages (cfg.nvPage + c * cfg.nvPages + k) [] })
      modNet s r (fun x => { x with nvWrite := none })
    | _, _ => s) s

/-- From the detection of a power failure (R622): POWER_FAIL is written, recording stops, and the snapshot begins; one of a
cold reset that is under way continues (R632). -/
def powerFailure (s : State) : State :=
  let s := if s.trail.stopped then s else pushEvent s { code := 0x000E }
  let s := abandonNv (drainTrail 65 s)
  let s := if s.boot.powerFailed || s.trail.writing.isSome then s else beginSnap s 1
  { s with boot := { s.boot with
    powerFailed := true, phase := .aon, bringup := false, warmStep := 0, warmHeld := false, coldWaiting := false } }

/-- POWER_FAIL (R622): the package supply is lost; the hold-up finishes the snapshot. -/
def execPowerFail (s : State) : Host.Outcome State Fault Refusal :=
  if s.boot.vinAon then
    let s := powerFailure s
    .next { s with boot := { s.boot with vinAon := false, pwrOk := false } }
  else .next s

/-- PWR_OK falls with VIN_AON in range (R638): as on power failure, and the device waits in AON. -/
def execPwrOkFall (s : State) : Host.Outcome State Fault Refusal :=
  if s.boot.pwrOk then
    let s := powerFailure s
    .next { s with boot := { s.boot with pwrOk := false } }
  else .next s

/-- VIN_AON rises into range (R640, Table 18-4): everything volatile is at its cold-reset value, the trail is empty with its
snapshot kept, and recording begins with COLD_START (R624, R634). -/
def powerOn (s : State) : State :=
  let t := s.trail
  let s' : State := {
    pending := s.pending, sent := s.sent, now := s.now, free := s.free,
    fuses := { s.fuses with bad := false }, fencing := { persisted := s.fencing.persisted },
    loader := { floor := s.loader.floor },
    school := { pages := s.school.pages, pageWrites := s.school.pageWrites, badPages := s.school.badPages },
    trail := { page2 := t.page2, page3 := t.page3, valid := t.valid, failedPage := t.failedPage, lastSeq := t.lastSeq,
               pageWrites := t.pageWrites },
    grm := { active := s.grm.active, digest := s.grm.digest, digestStaged := s.grm.digestStaged, version := s.grm.version,
             floor := s.grm.floor },
    boot := { vinAon := true, lastReset := 1 } }
  pushEvent s' { code := 0x0002, data := leBytes 4 0 }

/-- Power that returns during a snapshot lets it complete; a cold reset follows (R632). -/
def execPowerOn (s : State) : Host.Outcome State Fault Refusal :=
  if s.boot.vinAon then .next s
  else if s.trail.writing.isSome then .next { s with boot := { s.boot with vinAon := true } }
  else .next (powerOn s)

/-- The reset of a cold reset (Table 18-4): what is not kept is at its reset value; COLD_START carries the SNAP_SEQ of the
snapshot just written; bring-up begins with FUSE (R642). -/
def coldStart (s : State) (last : BitVec 2) : State :=
  let seq := s.trail.coldSeq
  let was := s
  let s := powerOn (abandonNv s)
  let s := { s with
    taps := was.taps, testEn := was.boot.testPin,
    grooms := (List.range 4).foldl (fun t g => tset {} t g { state := .booting, slot := was.grm.active }) [],
    trail := { s.trail with queue := [] },
    boot := { vinAon := true, pwrOk := true, phase := .fuse, bringup := true, lastReset := last, testPin := was.boot.testPin } }
  pushEvent s { code := 0x0002, data := bytesOf seq }

/-- PWR_OK rises with CRST_N high (R637, R638): cold bring-up begins, at once or when the snapshot under way is written.
The bring-up that follows power-on is the cold reset whose COLD_START stands in the trail already. -/
def execPwrOkRise (testEn : Bool) (s : State) : Host.Outcome State Fault Refusal :=
  if s.boot.vinAon = false ∨ s.boot.pwrOk = true then .next s
  else
    let s := { s with boot := { s.boot with pwrOk := true, testPin := testEn } }
    if s.trail.writing.isSome then .next { s with boot := { s.boot with coldWaiting := true } }
    else if s.boot.powerFailed then .next (coldStart s 2)
    else .next { s with
      testEn := testEn,
      grooms := (List.range 4).foldl (fun t g => tset {} t g { state := .booting, slot := s.grm.active }) [],
      boot := { s.boot with phase := .fuse, bringup := true } }

/-- A cold reset with power present (R623, R640): the snapshot is written first. It supersedes a warm reset (R654). -/
def coldRequest (s : State) (testEn : Bool) : State :=
  if s.boot.pwrOk = false ∨ s.boot.coldWaiting = true then s
  else
    let s := if s.trail.writing.isSome then s else beginSnap s 2
    { s with boot := { s.boot with coldWaiting := true, warmStep := 0, warmHeld := false, testPin := testEn } }

def execCrstN (testEn : Bool) (s : State) : Host.Outcome State Fault Refusal := .next (coldRequest s testEn)

/-- Whether BOOT_RST_CTL is available (R652). -/
def rstAvailable (s : State) : Bool := match s.boot.phase with
  | .empty => true
  | .running => true
  | .restore => true
  | _ => false

/-- BOOT_RST_CTL.COLD with the confirm code (R652). -/
def rstColdOp (confirm : W16) (testEn : Bool) (s : State) : State :=
  if confirm = 0x7E15 ∧ rstAvailable s = true then coldRequest s testEn else s
def execBootRstCold (confirm : W16) (testEn : Bool) (s : State) : Host.Outcome State Fault Refusal :=
  .next (mgmtEarly (rstColdOp confirm testEn) s)

/-- A snapshot page write ends (R621, R633): verified, it becomes the snapshot; a cold reset's is written once more after a
failure, and then passed over. -/
def execTrailSnapshotDone (ok : Bool) (s : State) : Host.Outcome State Fault Refusal :=
  match s.trail.writing with
  | none => .next s
  | some (p, x) =>
    let s := { s with trail := { s.trail with pageWrites := tmod 0 s.trail.pageWrites (if p then 3 else 2) satInc } }
    let onward (s : State) : State := if s.boot.coldWaiting then coldStart s 2 else s
    if ok then .next (onward { s with trail := snapGood s.trail p x })
    else if x.cause = 2 ∧ s.trail.second = false then .next { s with trail := { s.trail with second := true } }
    else .next (onward { s with trail := { s.trail with writing := none, failedPage := some p, coldSeq := 0 } })

/-! ### Warm reset: what it clears (Table 18-4, Table 18-7) -/

/-- The air clock after step 2 (R70, R645): counts from 0 in FREERUN; the correction, the PPS qualification and the kept
grid stay. -/
def airReset (s : State) : Air :=
  let a := s.air
  let kept : KeptGrid := match a.kept with
    | some k => { k with count := k.count + (s.now - k.at2), at2 := s.now }
    | none => { count := airCount a, corr := a.corr, state := a.state, est := holdEst s, at2 := s.now }
  { corr := a.corr, phase := a.phase, cands := a.cands.filter (fun c => decide (c.1 < 2)),
    steps := a.steps, loads := a.loads, shift := a.shift - BitVec.ofNat 9 (8 * airCount a), kept := some kept }

/-- What a stall keeps: its queues and journals, its ring bases and its vectors. Held answers are lost and counted (R143). -/
def warmStall (x : Stall) : Stall :=
  let answers := x.heldOut.countP (fun o => match o with
    | .mwr _ a _ => decide ((a - x.ansBase).toNat < 8192)
    | _ => false)
  let latched : Option (W16 × Byte × BitVec 4) :=
    if x.faultCode ≠ 0 then some (x.faultCode, x.faultUnit, x.faultKind) else x.faultWas
  { state := if x.state = .absent then .absent else .resetting, faultWas := latched, faultJob := x.faultJob,
    resetCnt := x.resetCnt, share := x.share, epoch := x.epoch, badJournal := x.badJournal, initialised := x.initialised,
    journalRec := x.journalRec, ansBase := x.ansBase, ansHead := x.ansHead, ansWr := x.ansWr,
    ansDrop := BitVec.ofNat 16 (min 0xFFFF (x.ansDrop.toNat + answers)),
    msixAddr := x.msixAddr, msixData := x.msixData, msixOpen := x.msixOpen, msixPend := x.msixPend,
    queues := tmods {} x.queues (List.range 8) (fun _ q => { q with
      latched := none, newTail := none, held := none, accepting := none, waiting := none, stopped := false, stopKind := 0, stopReason := 0,
      sinceIrq := 0, coalRunning := false }) }

/-- The stalls' volatile state (R160, R197), each as by a stall reset. -/
def warmStalls (s : State) : State :=
  (List.range 16).foldl (fun s i =>
    let x := getStall s i
    let s := if (stallRec s i).isSome then clearStall s i true else s
    modStall s i (fun _ => warmStall x)) s

/-- A warm reset ends an image update that runs, and staging (R607). -/
def warmGrm (g : Grm) : Grm :=
  { g with ctlGroom := 0, src := 0, len := 0, rolling := false, rollback := [],
           err := if g.state = 3 then 9 else g.err, state := if g.state = 3 then 5 else if g.state = 1 then 0 else g.state }

/-- Step 2 (R644, Table 18-4): the compute-die logic outside AON and AIR is reset; the RWS fields and what the manual keeps
stay. -/
def warmClear (s : State) (cause : BitVec 3) : State :=
  let s := warmStalls s
  let abs := s.air.abs
  let l := s.loader
  let s := { s with
    air := airReset s, mgmtStall := 0, merged := none,
    clusters := tmods {} s.clusters (List.range 6) (fun _ c => { c with swaps := [], freq := 0, dets := [] }),
    loader := { l with
      src := 0, len := 0, replace := false, segState := 0, segStall := 0, errCode := 0, errIndex := 0, errRecord := 0, segFrame := 0, segTick := 0,
      provHash := List.replicate 12 0, job := none, segImage := [], repeats := 0, delayed := false },
    fencing := { s.fencing with ctlArray := 0 },
    funcs := tmods {} s.funcs (List.range 32) (fun _ f => { f with latch := none, hold := none }),
    arrays := (List.range 8).foldl (fun t n => tset {} t n { selfTest := (getArr s n).selfTest }) [],
    vecs := [],
    paths := (List.range 4).foldl (fun t m => tset {} t m { out := (getPath s m).out }) [],
    feeders := (List.range 16).foldl (fun t n => tset {} t n { out := (getFdr s n).out }) [],
    mem := { s.mem with cache := [], merge := [], hbStacks := tmods {} s.mem.hbStacks (List.range 4) (fun _ k => { k with window := none }) },
    cores := (List.range 48).foldl (fun t n => tset {} t n { st := if (getCore s n).st = .out then .out else .reset }) [],
    girths := tmods {} s.girths (List.range 2) (fun _ x => { x with
      timLate := false, txFlits := 0, rxFlits := 0, crcErr := 0, replay := 0, dup := 0, retrain := 0, timLateCnt := 0, timeAdj := 0, hostDrop := 0 }),
    carriers := (List.range 8).foldl (fun t c => tset {} t c { repHead := (getCarrier s c).repHead }) [],
    decoders := (List.range 24).foldl (fun t n => tset {} t n { out := (getDec s n).out }) [],
    school := { s.school with
      nets := tmods {} s.school.nets (List.range 32) (fun _ x => { x with
        wset := 0, score := 0, commits := 0, rollbacks := 0, discards := 0, nvWrites := 0, tapLost := 0 }),
      engines := (List.range 2).foldl (fun t e => tset {} t e { out := (getSe s e).out }) [],
      actions := [], running := [], quiet := [], xferState := [], xferReason := [] },
    flt := { last := s.flt.last, cntG := s.flt.cntG, cntDev := s.flt.cntDev },
    grooms := tmods {} s.grooms (List.range 4) (fun _ g => {
      state := .restarting, unchecked := g.unchecked, slot := g.slot, lastCause := g.lastCause, restarts := g.restarts }),
    grm := warmGrm s.grm,
    power := { s.power with refused := false, windows := [], toPark := 0 },
    boot := { s.boot with warmCause := cause } }
  pushEvent s { code := 0x0001, data := bytesOf abs ++ [cause.setWidth 8] }

/-- Step 1 (R644): dispatch stops, running tasks are aborted, dirty lines are written back. -/
def warmQuiesce (s : State) : State :=
  cacheFlush ((List.range 16).foldl (fun s i => if (stallRec s i).isSome then abortStall s i else s) s)

/-- Whether a girth link still trains. -/
def girthTraining (s : State) : Bool := (List.range 2).any (fun g => decide ((getGirth s g).state = .training))

/-- A stack fails its training (Table 18-6); the channel at fault is the device's to say: a free value. -/
def stackTrainFail (s : State) (k : Nat) : State :=
  let chan : Byte := BitVec.ofNat 8 (16 * k + (draw s).toNat % 16)
  let s := drew s
  report { modStack s k (fun x => { x with failed := true, shown := true }) with boot := { s.boot with stackFail := setBit s.boot.stackFail k true } }
    { code := 0x5007, kind := 8, unit := BitVec.ofNat 8 k, data := [BitVec.ofNat 8 k, chan] }

def stacksFail (s : State) (failed : BitVec 8) : State :=
  (List.range 4).foldl (fun s k => if failed.getLsbD k && s.fuses.stackEn.getLsbD k && !(getStack s k).failed then stackTrainFail s k else s) s

/-- Grooms resume from the active slot; one that failed its load twice is left FAILED (R606, R607). -/
def groomsBoot (s : State) (failed : BitVec 8) : State :=
  (List.range 4).foldl (fun s g =>
    let s := modGroom s g (fun x => { x with state := .running, slot := s.grm.active, step := 0, recent := [] })
    if failed.getLsbD g then
      report (groomFailed s g) { code := 0x500A, kind := 0xB, unit := BitVec.ofNat 8 g, data := [flag 8 0 s.grm.active] }
    else s) s

/-! ### Cold bring-up (R642, R643, Table 18-6) -/

/-- EMPTY is reached; a warm reset that was held begins (R654). -/
def reachEmpty (s : State) : State :=
  let s := { s with boot := { s.boot with phase := .empty, bringup := false } }
  if s.boot.warmHeld then warmRequest s s.boot.heldCause else s

/-- Fence records are applied before the self-test (R85, R96). -/
def applyFences (s : State) : State :=
  (List.range 8).foldl (fun s n => if s.fencing.persisted.getLsbD n && arrPresent s n then fenceOp s n 6 else s) s

/-- The self-test ends on every array tested (R96, R241): banks and slots zero; a failure fences with cause 0x5. -/
def selfTestDone (s : State) (failed : BitVec 8) : State :=
  (List.range 8).foldl (fun s n =>
    let s := modArr s n (fun a =>
      if arrPresent s n && !s.fencing.persisted.getLsbD n then
        { a with selfTest := false, main := [], rsv := [], acc := [], sat := [], fold := [], ueMain := [], ueRsv := [], ueAcc := [] }
      else { a with selfTest := false })
    if failed.getLsbD n && arrUsable s n then fenceOp s n 5 else s) s

/-- A phase of Table 18-5 ends and the next begins. `failed` names what failed in it: bit 0 the fuse map, bit k a stack, a
groom or an array. -/
def phaseDone (s : State) (failed : BitVec 8) : State :=
  let go (s : State) (p : Phase) : State := { s with boot := { s.boot with phase := p } }
  match s.boot.phase with
  | .fuse =>
    if s.boot.fuseFault then s
    else if failed.getLsbD 0 then
      report { s with fuses := { s.fuses with bad := true }, boot := { s.boot with fuseFault := true } } { code := 0x5001 }
    else go s .clocks
  | .clocks => go (startGirth (startGirth s 0) 1) .girth
  | .girth => if girthTraining s then s else go s .memory
  | .memory => go (stacksFail s failed) .grooms
  | .grooms => go (applyFences (groomsBoot s failed)) .selftest
  | .selftest => reachEmpty (selfTestDone s failed)
  | _ => s

def execBringupPhaseDone (failed : BitVec 8) (s : State) : Host.Outcome State Fault Refusal :=
  if s.boot.bringup = true ∧ s.power.tripped = false ∧ s.boot.coldWaiting = false then .next (phaseDone s failed) else .next s

/-! ### Restore (R132, R644, R647, R648, R656) -/

/-- The device is left EMPTY by a warm reset (R132, R656): only S0 exists; journals stay in their regions. -/
def leaveEmpty (s : State) : State :=
  let s := (List.range 16).foldl (fun s i => modStall s i (fun x => { x with
    state := if i = 0 then .active else .absent, faultWas := none, faultJob := none })) s
  { s with
    accepted := false, hns := {}, netNext := [],
    air := { s.air with bank0 := {}, bank1 := {}, entryCount := 0 },
    boot := { s.boot with phase := .empty, warmStep := 0 } }

/-- The accepted image is not what HNS_DIGEST says, or is damaged: EMPTY, with CODE 0x24 RESTORE (R131, R132). -/
def restoreFails (s : State) : State :=
  let serial := imageSerialNo s.loader.image
  let s := leaveEmpty s
  let s := { s with loader := { s.loader with state := 0, digest := 0, image := [], damaged := false, segs := [] } }
  loadEvent (setErr s 0x24 0x3FF 0x3FFF) serial 0x24 3 0

/-- Schooled networks that the structure changes are prepared anew; the generators are seeded again (R462, R477). -/
def restoreSchool (old : Harness) (s : State) : State :=
  let s := renumberSchool s old
  startEngines (prepareSchool s (fun r => (s.hns.schoolNets[r]?).any (fun x => (oldRecord old s.hns x).isNone)))

/-- The sequencer starts at the first frame boundary after the reset (R648). -/
def warmEnd (s : State) : State :=
  let s := modAir s (fun a => { a with startArmed := true })
  { s with boot := { s.boot with warmStep := 0 } }

/-- The Tether ports of a new structure: one whose record changed opens a new session, or is disabled (R503, R528). -/
def restorePort (old : State) (s : State) (p : Nat) : State :=
  if tethRec old p = tethRec s p then s
  else if (tethRec s p).isNone then disablePort s p
  else startPort (newEpoch (resetChans s p) p) p

/-- Step 6 for a REPLACE (R119, R152). -/
def restoreNew (s : State) (image : List Byte) (bad : List (Fin 16 × Byte × W16)) : State :=
  let was := s
  let d := dropSpares s.fuses (harnessOf image s.hns.time)
  let s := zeroMoved s s.hns d.1
  let s := imageRegs { s with loader := { s.loader with slot := !s.loader.slot, segs := [] } } image d.2 1
  let s := applyHarness s d.1 bad (restoreSchool was.hns)
  let s := { s with school := { s.school with acceptedAt := s.now } }
  let s := (List.range 4).foldl (restorePort was) s
  loadEvent (warmEnd s) (imageSerialNo image) 0 1 0

/-- The accepted structure: the image, then each stored segment built on it, in ascending stall order (R132). -/
def storedHarness (s : State) : Harness :=
  let base := (dropSpares s.fuses (harnessOf s.loader.image s.hns.time)).1
  s.loader.segs.foldl (fun h x => match x.2 with
    | some g => if g.base = s.loader.serial then mergeHarness h (dropSpares s.fuses (harnessOf g.bytes h.time)).1 x.1 else h
    | none => h) base

/-- Step 6 for the accepted image (R132); `mismatch`: the check against HNS_DIGEST fails. -/
def restoreSame (s : State) (mismatch : Bool) (bad : List (Fin 16 × Byte × W16)) : State :=
  if mismatch || s.loader.damaged || digestOf s.loader.image != s.loader.digest then restoreFails s
  else
    let old := s.hns
    let h := storedHarness s
    let s := { s with loader := { s.loader with
      state := 12, segs := s.loader.segs.filter (fun x => x.2.any (fun g => g.base == s.loader.serial)) } }
    loadEvent (warmEnd (applyHarness s h bad (restoreSchool old))) s.loader.serial 0 3 0

/-- A step of Table 18-7 ends, its action done. `failed`: in step 4 the stacks, in step 5 the grooms that fail, in step 6 bit 0
the digest check; `bad`: control areas that fail their check. -/
def warmStepDone (s : State) (failed : BitVec 8) (bad : List (Fin 16 × Byte × W16)) : State :=
  let go (s : State) (n : Nat) : State := { s with boot := { s.boot with warmStep := n } }
  match s.boot.warmStep with
  | 1 => go { warmQuiesce s with boot := { s.boot with phase := .restore } } 2
  | 2 => go (startGirth (startGirth (warmClear s s.boot.warmCause) 0) 1) 3
  | 3 => if girthTraining s then s else go ((List.range 4).foldl warmPort s) 4
  | 4 => go (stacksFail s failed) 5
  | 5 =>
    let s := groomsBoot s failed
    if s.accepted || s.loader.nextImage.isSome then go s 6 else leaveEmpty s
  | 6 => match s.loader.nextImage with
    | some image => restoreNew s image bad
    | none => restoreSame s (failed.getLsbD 0) bad
  | _ => s

def execWarmResetStepDone (failed : BitVec 8) (bad : List (Fin 16 × Byte × W16)) (s : State) : Host.Outcome State Fault Refusal :=
  if s.power.tripped = true ∨ s.boot.coldWaiting = true then .next s else .next (warmStepDone s failed bad)

/-! ### Requests for a warm reset (R595, R637, R640, R652) -/

def execWrstN (s : State) : Host.Outcome State Fault Refusal := .next (warmRequest s 4)

/-- BOOT_RST_CTL.WARM with the confirm code (R652). -/
def rstWarmOp (confirm : W16) (s : State) : State :=
  if confirm = 0x7E15 ∧ rstAvailable s = true then warmRequest s 1 else s
def execBootRstWarm (confirm : W16) (s : State) : Host.Outcome State Fault Refusal := .next (mgmtEarly (rstWarmOp confirm) s)

/-- The warm reset of a trip before acceptance repeats phases 3 to 7 (R654). -/
def tripBoot (s : State) : State :=
  let s := if s.loader.job.any (fun j => !j.segment) then fullFail s [] 0x21 0x3FF 0x3FFF else s
  let s := warmClear s 2
  startGirth (startGirth { s with boot := { s.boot with
    phase := .girth, bringup := true, warmStep := 0, lastReset := 3, warmCnt := satInc s.boot.warmCnt, warmHeld := false } } 0) 1

/-- TRIP_RECOVERY (R595): ten seconds in range have passed; a warm reset follows, unless this was the third trip within an
hour. One that was under way starts again. -/
def execTripRecovery (s : State) : Host.Outcome State Fault Refusal :=
  if s.power.tripped = false ∨ tripLocked s = true then .next s
  else
    let s := tripEnd s
    if !s.accepted then .next (tripBoot s)
    else if s.boot.warmStep ≠ 0 then .next { s with boot := { s.boot with warmStep := 1, warmCause := 2 } }
    else .next (warmRequest s 2)

/-! ### The kept grid returns (R645) -/

/-- At tick 30,720 after the reset: an immediate step onto the kept grid, its numbering loaded; then HOLDOVER or FREERUN. -/
def gridRestore (s : State) (k : KeptGrid) : State :=
  let now := k.count + (s.now - k.at2)
  let e := reduceErr ((airCount s.air - now : Int) * 8)
  let own := airCount s.air - fdiv e 8
  let shift : Int := fdiv (now : Int) 1228800 - fdiv own 1228800
  let s := modAir s (fun a => { immediateStep { a with state := .acquire, phaseErr := e, numbering := some (shift, false) } e with kept := none })
  let s := refEvent s false true
  let held : Bool := match k.state with
    | .locked => true
    | .slewing => true
    | .holdover => true
    | _ => false
  if held then modAir s (fun a => { a with state := .holdover, holdStart := some k.at2, holdBase := if k.state = .holdover then k.est else 0, holdDone := false })
  else modAir s (fun a => { a with state := .freerun })

def execGridRestore (s : State) : Host.Outcome State Fault Refusal :=
  match s.air.kept with
  | some k => if 30720 ≤ s.air.abs.toNat then .next (gridRestore s k) else .next s
  | none => .next s

end Sys2Proof.Machine
end

