-- ==== Sys2Proof/Machine/Flags.lean ====
section
/-!
DEFINITION. The status registers as a reader sees them: each word computed from the state, by the field tables of the
chapters. H fields read 0 until a harness is accepted (R19).
-/
namespace Sys2Proof.Machine

/-! ### Common block (Tables 2-3 to 2-6, 3-15, 18-10) -/

/-- The fuse map is read in the FUSE phase (R642, R650). -/
def fusesRead (s : State) : Bool := match s.boot.phase with
  | .aon => false
  | .fuse => s.boot.fuseFault
  | _ => true

def bootDesig (f : Fuses) : W32 :=
  BitVec.ofNat 32 (popcount f.arrEn + 2 ^ 4 * popcount f.stackEn + 2 ^ 8 * popcount f.iodEn + 2 ^ 12 * popcount f.pcrEn
    + 2 ^ 18 * popcount f.decEn)
def bootDies (f : Fuses) : W32 := place 32 0 f.arrEn ||| place 32 8 f.stackEn ||| place 32 12 f.iodEn

/-- BOOT_IDCODE, and the compute die's IDCODE (R567, R661). -/
def idcodeWord : W32 := 0xBA800C77

def phaseCode : Phase → BitVec 4
  | .aon => 0
  | .fuse => 1
  | .clocks => 2
  | .girth => 3
  | .memory => 4
  | .grooms => 5
  | .selftest => 6
  | .empty => 7
  | .restore => 8
  | .running => 9

def bootSts (s : State) : W32 :=
  let b := s.boot
  place 32 0 (phaseCode b.phase) ||| place 32 4 b.lastReset ||| place 32 6 b.warmCause ||| flag 32 9 b.fuseFault
    ||| place 32 10 b.stackFail ||| flag 32 14 s.air.running

def hnsSts (l : Loader) : W32 :=
  place 32 0 l.state ||| place 32 4 l.segState ||| place 32 7 l.segStall ||| flag 32 11 l.slot ||| flag 32 12 l.keySlot
    ||| place 32 13 l.spares

/-- HNS_DIGEST*k*: the digest's bytes 4k to 4k + 3. -/
def digestWord (d : BitVec 384) (k : Nat) : W32 := u32 (leBytes 48 d.toNat).reverse (4 * k)

/-- A digest with the bytes of word `k` replaced. -/
def digestPut (d : BitVec 384) (k : Nat) (w : W32) : BitVec 384 :=
  let b := (leBytes 48 d.toNat).reverse
  BitVec.ofNat 384 (beNat (b.take (4 * k) ++ bytesOf w ++ b.drop (4 * k + 4)))

/-! ### Air time (Tables 1-10, 1-13) -/

def atmRefSts (s : State) : W32 :=
  let a := s.air
  let qual : BitVec 4 := (List.range 4).foldl (fun q i => setBit q i (candQualified s i)) 0
  place 32 0 (refCode a.state) ||| place 32 3 a.activeReg ||| place 32 5 qual ||| flag 32 9 a.holdExpired ||| flag 32 10 a.stepped
    ||| flag 32 11 a.refLost ||| flag 32 12 a.epochApplied

def atmGaitSts (s : State) : W32 :=
  let a := s.air
  flag 32 0 a.running ||| flag 32 1 a.activeBank ||| flag 32 2 a.swapFrame.isSome ||| flag 32 3 a.copying ||| flag 32 4 a.parityErr
    ||| flag 32 5 a.forcedRefresh ||| place 32 6 a.entryCount

def atmEpoch (a : Air) : W64 := place 64 0 a.epochFrame ||| place 64 10 a.epochHyper ||| flag 64 63 a.epochArm

/-! ### Stalls (Tables 4-11 to 4-16, 10-7, 10-8) -/

def stallCode : StallState → BitVec 3
  | .absent => 0
  | .active => 1
  | .held => 2
  | .faulted => 3
  | .resetting => 4

def stlSts (s : State) (i : Nat) : W32 :=
  let x := getStall s i
  place 32 0 (stallCode x.state) ||| flag 32 3 (linkDown s i) ||| flag 32 4 (vfOff s i) ||| flag 32 5 (bmeOff s i)
    ||| flag 32 6 x.segHold ||| flag 32 7 x.quiesce ||| place 32 8 x.carriersLive ||| flag 32 16 (degraded s)

def stlCfg (s : State) (i : Nat) : W32 := match stallRec s i with
  | none => 0
  | some r => BitVec.ofNat 32 (r.cls % 4 + 4 * (r.host % 2) + 8 * (r.vf % 16) + 2 ^ 7 * (getStall s i).share.toNat
      + 2 ^ 17 * (r.queues % 16) + 2 ^ 21 * (r.qdepthLog2 % 16)) ||| flag 32 25 r.mvpAllowed

def stlFault (x : Stall) : W32 := place 32 0 x.faultCode ||| place 32 16 x.faultUnit ||| place 32 24 x.faultKind

def stlSummary (s : State) : W64 :=
  (List.range 16).foldl (fun w i =>
    let x := getStall s i
    if x.state = .absent then w else w ||| place 64 (4 * i) (stallCode x.state) ||| flag 64 (4 * i + 3) (unreachable s i)) 0

def schSts (s : State) (i : Nat) : W32 :=
  let x := getStall s i
  let moving := (List.range 8).any (fun n => (getArr s n).moving.any (fun m => m.holder == i))
  let placed : BitVec 8 := (List.range 8).foldl (fun w n => setBit w n (!(heldTokens (getArr s n) i).isEmpty)) 0
  flag 32 0 x.backlogArr ||| flag 32 1 x.backlogMvp ||| flag 32 2 moving ||| place 32 3 (BitVec.ofNat 4 x.images.length)
    ||| place 32 7 placed ||| place 32 15 (x.sharePending.getD 0) ||| flag 32 25 x.sharePending.isSome

def schPaced (x : Stall) : W32 := place 32 0 x.variant ||| place 32 16 x.shedK

/-- QUE_SQ_STS (Table 5-13). -/
def queSts (x : Queue) : W32 :=
  flag 32 0 x.stopped ||| place 32 1 x.stopKind ||| place 32 4 x.stopReason ||| flag 32 12 x.waiting.isSome ||| flag 32 13 (x.latched.isSome || x.newTail.isSome || x.held.isSome)

/-! ### Arrays, vector engines, paths, feeders (Tables 6-6 to 6-10, 8-7, 8-8, 9-6, 10-9) -/

/-- An H field: 0 until a harness is accepted. -/
def hField {w : Nat} (s : State) (n : Nat) : BitVec w := if s.accepted then BitVec.ofNat w n else 0

def arrState (s : State) (n : Nat) : BitVec 3 :=
  let a := getArr s n
  if !arrPresent s n then 0
  else if s.fencing.fenced.getLsbD n then 6
  else if a.selfTest then 7
  else if a.moving.isSome then 4
  else if a.parked then 5
  else if a.ctx = .reserve then 3
  else if a.run.isSome then 2
  else 1

def arrSts (s : State) (n : Nat) : W32 :=
  let a := getArr s n
  let cur : BitVec 4 := BitVec.ofNat 4 ((a.run.map (·.stall)).getD ((a.batch.head?.map (·.stall)).getD 0))
  let freq : BitVec 5 := hField s (arrMHz s n / 50)
  place 32 0 (arrState s n) ||| place 32 3 cur ||| flag 32 7 a.satSeen ||| flag 32 8 a.ceSeen ||| flag 32 9 a.ueSeen
    ||| flag 32 10 a.checkFail ||| place 32 11 freq
    ||| flag 32 16 (s.power.windows.any (fun w => w.domain == 1 && w.unit == n))

def arrErr (a : ArrayU) : W32 := place 32 0 a.errCode ||| place 32 8 a.errStall ||| flag 32 12 a.errBank ||| place 32 13 a.errAddr

def arrCtx (s : State) (n : Nat) : W32 :=
  let a := getArr s n
  let valid : BitVec 14 := (List.range 14).foldl (fun w t => setBit w t ((tget none a.tokens t).isSome && !a.transit.getLsbD t)) 0
  place 32 0 valid ||| (match a.rsvStall with
    | some i => place 32 14 (BitVec.ofNat 4 i) ||| flag 32 18 true
    | none => 0)

def arrToken (a : ArrayU) : W64 :=
  (List.range 14).foldl (fun (w : W64) t => w ||| place 64 (4 * t) (BitVec.ofNat 4 ((tget none a.tokens t).getD 0))) 0

/-- SCH_LEDGER (R338, Table 10-9); while a change of context waits for its switch, the slots it parks count in both classes. -/
def schLedger (s : State) (n : Nat) : W64 :=
  let a := getArr s n
  let toMain := if a.ctx = .requested ∧ bothIdle s n = true then a.lastMain.length else 0
  let toRsv := if a.ctx = .reserve ∧ bothIdle s n = true ∧ hasReserve s n = false then a.lastRsv.length else 0
  let held := ((List.range 14).filter (fun t => (tget none a.tokens t).isSome && !a.transit.getLsbD t)).length
  let moving := popcount a.transit
  let free := 14 - held - moving
  let rsv := if a.rsvStall.isSome then 64 else 0
  BitVec.ofNat 64 ((32 * held - a.parkedMain.length) + 2 ^ 10 * (rsv - a.parkedRsv.length) + 2 ^ 20 * (32 * free + (64 - rsv))
    + 2 ^ 30 * (a.parkedMain.length + a.parkedRsv.length + toMain + toRsv) + 2 ^ 40 * held + 2 ^ 44 * moving + 2 ^ 48 * free)

/-- Two 16-bit counters in one word. -/
def pair16 (lo hi : W16) : W32 := place 32 0 lo ||| place 32 16 hi

def vecSts (s : State) (n : Nat) : W32 :=
  let v := getVec s n
  let st : BitVec 2 := if s.fencing.fenced.getLsbD n then 3 else if v.run.isSome then 1
    else if (getArr s n).ctx = .requested ∧ (getArr s n).run = none then 2 else 0
  let freq : BitVec 5 := hField s (vecMHz s n / 50)
  place 32 0 st ||| place 32 2 (BitVec.ofNat 4 ((v.run.map (·.stall)).getD 0)) ||| flag 32 6 v.satSeen ||| flag 32 7 v.nanSeen
    ||| flag 32 8 v.ceSeen ||| flag 32 9 v.ueSeen ||| place 32 10 freq

/-- An error word of CODE and STALL (Tables 8-6, 9-9). -/
def errWord (code : Byte) (stall : BitVec 4) : W32 := place 32 0 code ||| place 32 8 stall

/-- Whether a path's task waits on memory: one of the 4 KiB windows it reads lies on a stack whose refresh window is open (R310). -/
def pathWaits (s : State) (m : Nat) : Bool :=
  (memRuns (getPath s m).run).any (fun x => (rowPieces x.1 x.2).any (fun p =>
    refreshing s (((getPath s m).run.head?.map (·.stall)).getD 0) (x.1 + p.1)))

def mvpSts (s : State) (m : Nat) : W32 :=
  let p := getPath s m
  let st : BitVec 2 := if p.out then 3 else if p.run.isEmpty then 0 else if pathWaits s m then 2 else 1
  let freq : BitVec 6 := hField s (mvpMHz s m / 50)
  place 32 0 st ||| place 32 2 (BitVec.ofNat 4 ((p.run.head?.map (·.stall)).getD 0)) ||| place 32 6 p.rows ||| flag 32 12 p.ceSeen
    ||| flag 32 13 p.ueSeen ||| place 32 14 freq

def fdrSts (s : State) (n : Nat) : W32 :=
  let f := getFdr s n
  let st : BitVec 2 := if f.out then 3 else if waitsMem s n then 2 else if f.run.isSome then 1 else 0
  place 32 0 st ||| place 32 2 (BitVec.ofNat 4 ((f.run.map jobStall).getD 0))
    ||| place 32 6 (BitVec.ofNat 6 (queuedXfers f)) ||| flag 32 12 (!f.group.isEmpty) ||| flag 32 13 f.ceSeen ||| flag 32 14 f.ueSeen

def stackSts (x : Stack) : W32 := place 32 0 x.temp ||| flag 32 8 x.shown ||| place 32 16 x.forced

/-! ### Pacer cores (Tables 11-12 to 11-14) -/

def coreCode : CoreSt → BitVec 3
  | .reset => 1
  | .loading => 2
  | .running => 3
  | .waiting => 4
  | .halted => 5
  | .out => 6

def tagBind (b : CoreBank) : Byte := (b.tag.map (·.2)).getD 0

def pcrSts (s : State) (n : Nat) : W32 :=
  let c := getCore s n
  let st : BitVec 3 := if s.fuses.pcrEn.getLsbD n then coreCode c.st else 0
  place 32 0 st ||| flag 32 3 c.act ||| place 32 4 (tagBind (actBank c)) ||| place 32 12 (tagBind (inactBank c))
    ||| flag 32 20 (inactBank c).tag.isSome ||| flag 32 21 c.ovf ||| flag 32 22 c.double ||| flag 32 23 c.ueSeen
    ||| place 32 24 (BitVec.ofNat 4 (min 15 c.startQ.length))

def pcrDbl (c : PCore) : W64 :=
  place 64 0 c.xsPc ||| flag 64 15 c.xsBank ||| place 64 16 c.xsCause ||| place 64 24 c.xsSp ||| place 64 40 c.xsGen
    ||| place 64 48 (c.xsSr.setWidth 16)

def cluSts (s : State) (c : Nat) : W32 :=
  let x := getCluster s c
  let ovf : BitVec 4 := (List.range 4).foldl (fun w d => setBit w d (getDet x d).ovf) 0
  let owned : BitVec 8 := (List.range 8).foldl (fun w k => setBit w k (pcrOwner s (8 * c + k)).isSome) 0
  let freq : BitVec 5 := hField s (pcrMHz s c / 50)
  place 32 0 x.gen ||| place 32 8 ovf ||| place 32 12 owned ||| place 32 20 freq

/-! ### Receive chain and schooling (Tables 12-14, 13-10, 13-11) -/

/-- The carrier whose block an engine decodes. -/
def decCarrier (s : State) (n : Nat) : Option Nat :=
  (List.range 8).find? (fun c => (getCarrier s c).slots.any (fun sl => sl.llr && !sl.done && sl.blocks.any (fun b => b.engine == n && !b.ended)))

def decSts (s : State) (n : Nat) : W32 :=
  let d := getDec s n
  let st : BitVec 2 := if d.out then 2 else if (decCarrier s n).isSome then 1 else 0
  place 32 0 st ||| place 32 2 (BitVec.ofNat 3 ((decCarrier s n).getD 0)) ||| flag 32 5 d.ueSeen

def rxcSts (s : State) (c : Nat) : W32 := match carrierCfg s c, carrierStall s c with
  | some cfg, some i =>
    let ca := getCarrier s c
    let st : BitVec 2 := if ca.shed then 2 else if (getStall s i).state = .active then 1 else 3
    place 32 0 st ||| place 32 2 (BitVec.ofNat 3 ca.array) ||| place 32 5 (BitVec.ofNat 2 cfg.agcMode) ||| flag 32 7 ca.frozen
      ||| place 32 8 ca.lastStatus ||| flag 32 16 (linkOk s cfg)
  | _, _ => 0

def gainCur (ca : Carrier) : W64 :=
  (List.range 8).foldl (fun (w : W64) a => w ||| place 64 (8 * a) (tget {} ca.streams a).gain) 0

def sclSts (s : State) (e : Nat) : W32 :=
  let x := getSe s e
  let busy := seBusy s e
  let st : BitVec 2 := if x.out then 2 else if busy.isSome then 1 else 0
  place 32 0 st ||| place 32 2 (BitVec.ofNat 5 (busy.getD 0)) ||| flag 32 7 x.ueSeen

def sclNetSts (s : State) (r : Nat) : W32 :=
  let x := getNet s r
  place 32 0 x.state ||| place 32 3 x.wset ||| place 32 11 x.taps ||| flag 32 19 (x.tap.isSome || hasAction s r) ||| flag 32 20 x.nvPending
    ||| flag 32 21 x.nvValid ||| flag 32 22 x.nvWorn

/-! ### Tether and girth (Tables 14-12, 15-15, R524, R569, R570) -/

def tthCode : TthState → BitVec 3
  | .disabled => 0
  | .wake => 1
  | .train => 2
  | .up => 3
  | .retrain => 4
  | .failed => 5
  | .noDie => 6

def tthSts (t : Tth) : W32 :=
  place 32 0 (tthCode t.state) ||| place 32 3 t.mode ||| flag 32 5 t.master ||| flag 32 6 t.degraded ||| flag 32 7 t.rcFrozen
    ||| flag 32 8 t.timeValid ||| flag 32 9 t.sessionReset ||| place 32 10 t.gain ||| place 32 18 t.trainErr

def girthCode : GirthState → BitVec 3
  | .absent => 0
  | .training => 1
  | .active => 2
  | .retrain => 3
  | .failed => 4

/-- SPARES: the spare of a group is in use. -/
def spareBits (faulty : List (Option (Fin 32))) : BitVec 4 :=
  BitVec.ofNat 4 ((List.range 4).foldl (fun n k => if (faulty.getD k none).isSome then n + 2 ^ k else n) 0)

def grtSts (x : Girth) : W32 :=
  place 32 0 (girthCode x.state) ||| place 32 3 (spareBits x.faulty) ||| place 32 7 x.lat ||| flag 32 15 x.timLate ||| place 32 16 x.failCause

def grtPeer (x : Girth) : W64 := match x.peer with
  | some p => place 64 0 p.vendor ||| place 64 16 p.caps ||| place 64 32 p.format
  | none => 0

def linkSts (io : Iod) : W32 := place 32 0 io.lanes ||| flag 32 16 io.aligned ||| flag 32 17 io.misSeen

/-! ### Grooms, power, faults (Tables 16-10 to 16-12, R603, 17-14) -/

def groomCode : GroomState → BitVec 2
  | .running => 0
  | .restarting => 1
  | .failed => 2
  | .booting => 3

def grmSts (s : State) (g : Nat) : W32 :=
  let x := getGroom s g
  place 32 0 (groomCode x.state) ||| flag 32 2 x.unchecked ||| flag 32 3 x.slot ||| place 32 4 x.lastCause
    ||| place 32 8 (BitVec.ofNat 4 (min 8 (recentOf s g).length))

def grmUpdSts (s : State) : W32 :=
  let g := s.grm
  place 32 0 g.state ||| place 32 3 g.step ||| flag 32 5 (g.active && fusesRead s) ||| place 32 6 g.err

def budgetSts (p : Power) : W32 := place 32 0 p.level ||| flag 32 5 p.short ||| flag 32 6 p.active ||| flag 32 7 p.refused

def limitSts (p : Power) : W32 := flag 32 0 p.throttle ||| flag 32 1 p.tripped ||| place 32 2 p.lastTrip

def railWord (r : Rail) : W64 := place 64 0 r.mv ||| place 64 16 r.current ||| place 64 32 r.temp ||| place 64 40 r.status

def fltDevSts (s : State) : W32 :=
  let f := s.flt
  flag 32 0 s.boot.fuseFault ||| flag 32 1 f.loader ||| flag 32 2 f.holdover ||| flag 32 3 s.air.forcedRefresh ||| flag 32 4 f.gaitParity
    ||| flag 32 5 f.gaitEdit ||| flag 32 6 ((List.range 4).any (fun k => (getStack s k).shown))
    ||| flag 32 7 ((List.range 4).any (fun g => (getGroom s g).unchecked))
    ||| flag 32 8 ((List.range 4).any (fun g => decide ((getGroom s g).state = .failed)))
    ||| flag 32 9 f.bootStore ||| flag 32 10 s.power.throttle ||| flag 32 11 s.power.tripped ||| flag 32 12 f.telemetry
    ||| flag 32 13 s.power.short ||| flag 32 14 ((List.range 2).any (fun g => decide ((getGirth s g).state = .failed)))
    ||| flag 32 15 f.link ||| flag 32 16 f.deadlineG ||| flag 32 17 s.trail.frozen ||| flag 32 18 (degraded s)

end Sys2Proof.Machine
end

