-- ==== Sys2Proof/Machine/Regs.lean ====
section
/-!
DEFINITION. The registers of BAR0 by offset (ch. 19), apart from the management block: what each reads and what a write of it
does by its field types (R18, R19, Table 0-5). A register's `write` gets both halves of a 64-bit register at once (R20).
-/
namespace Sys2Proof.Machine

/-- A register: its width, what it reads, the stored low half that a write of the high half alone keeps (R20), and the
effect of a write. -/
structure Reg where
  wide : Bool
  value : W64
  low : W32
  write : W64 → State → State

/-- A 32-bit or 64-bit register of RO fields: a write does nothing. -/
def regRo (v : W32) : Reg := { wide := false, value := v.setWidth 64, low := 0, write := fun _ s => s }
def regRo64 (v : W64) : Reg := { wide := true, value := v, low := 0, write := fun _ s => s }
/-- A register that a write changes. -/
def regRw (v : W32) (f : W32 → State → State) : Reg := { wide := false, value := v.setWidth 64, low := 0, write := fun w => f (w.setWidth 32) }
def regRw64 (v : W64) (f : W64 → State → State) : Reg := { wide := true, value := v, low := v.setWidth 32, write := f }

/-- The register at an offset of a block, and whether the offset is its high half (R659). -/
def regIn (rs : List (Nat × Reg)) (off : Nat) : Option (Reg × Bool) :=
  match rs.find? (fun x => x.1 == off || (x.2.wide && x.1 + 4 == off)) with
  | some x => some (x.2, x.1 != off)
  | none => none

/-- A flag that a written 1 clears (W1C). -/
def w1c {w : Nat} (old : Bool) (v : BitVec w) (i : Nat) : Bool := old && !bit v i

/-! ### The common block (Table 19-2) -/

def commonRegs (s : State) (s0 : Bool) : List (Nat × Reg) :=
  let f (w : W32) : W32 := if fusesRead s then w else 0
  let put (k : Nat) (w : W32) (s : State) : State :=
    if s0 then { s with loader := { s.loader with digest := digestPut s.loader.digest k w } } else s
  [(0x00, regRo (f (bootDesig s.fuses))), (0x04, regRo (f (bootDies s.fuses))),
   (0x08, regRo64 (if fusesRead s then s.fuses.pcrEn.setWidth 64 else 0)), (0x10, regRo (f (s.fuses.decEn.setWidth 32))),
   (0x14, regRo (f idcodeWord)), (0x18, regRo 0x0B00), (0x20, regRo (bootSts s)), (0x28, regRo64 (atmTime s.air)),
   (0x30, regRo64 s.air.abs), (0x40, regRo (hnsSts s.loader)), (0x44, regRo s.loader.serial)]
  ++ (List.range 12).map (fun k => (0x80 + 4 * k, regRw (digestWord s.loader.digest k) (put k)))

/-! ### The STL_ block (Table 19-3) -/

/-- STL_CTL (Table 4-14). -/
def stlCtl (i : Nat) (w : W32) (s : State) : State :=
  let s := if bit w 0 then resetOp i (bits w 16 16) s else s
  quiesceOp i (bit w 1) s

/-- The SCH_ registers, which S0 reads of every stall (R350). -/
def schRegs (s : State) (i : Nat) : List (Nat × Reg) :=
  let x := getStall s i
  [(0x100, regRo (schSts s i)), (0x104, regRo (schPaced x)), (0x108, regRo64 x.arrNs), (0x110, regRo64 x.mvpNs),
   (0x118, regRo64 x.vecNs), (0x120, regRo64 x.switchNs), (0x128, regRo64 x.stableNs), (0x130, regRo64 x.va), (0x138, regRo64 x.vp)]

def stlRegs (s : State) (i : Nat) : List (Nat × Reg) :=
  let x := getStall s i
  [(0x000, regRo (stlSts s i)), (0x004, regRo (stlCfg s i)), (0x008, regRo (stlFault x)),
   (0x00C, regRw (flag 32 1 (x.quiesceLate.getD x.quiesce)) (stlCtl i)), (0x010, regRo (x.accErr.setWidth 32)),
   (0x014, regRw (x.resetCnt.setWidth 32) (fun w s => modStall s i (fun x => { x with resetCnt := w.setWidth 16 })))]
  ++ schRegs s i
  ++ [(0x200, regRo64 x.gthBatch), (0x208, regRo64 x.gthRows), (0x210, regRo64 x.gthArray),
      (0x240, regRo64 x.fdrRd), (0x248, regRo64 x.fdrWr), (0x250, regRo64 x.llcHit), (0x258, regRo64 x.llcMiss)]

/-! ### The QUE_ block and MSI-X (Table 19-4, R149, R199) -/

/-- QUE_SQ_CTL (Table 5-12). -/
def sqCtl (i q : Nat) (w : W32) (s : State) : State :=
  let s := modStall s i (fun x => modQueue x q (fun y => { y with enable := bit w 0 }))
  if bit w 1 then resumeOp s i q else s

def queueRegs (s : State) (i q : Nat) : List (Nat × Reg) :=
  let x := getQueue (getStall s i) q
  let put (f : Queue → Queue) (s : State) : State := modStall s i (fun st => modQueue st q f)
  [(0x00, regRw64 x.sqBase (fun w => put (fun y => { y with sqBase := w }))),
   (0x08, regRw64 x.cqBase (fun w => put (fun y => { y with cqBase := w }))),
   (0x10, regRw 0 (fun w s => tailOp s i q w)), (0x14, regRo x.rd), (0x18, regRo x.ahead),
   (0x1C, regRw x.cqHead (fun w s => cqHeadOp s i q w)), (0x20, regRo x.cdone),
   (0x24, regRw x.coal (fun w => put (fun y => { y with coal := w &&& 0x00FFFFFF }))),
   (0x28, regRw (flag 32 0 x.enable) (sqCtl i q)), (0x2C, regRo (queSts x))]

def answerRegs (s : State) (i : Nat) : List (Nat × Reg) :=
  let x := getStall s i
  [(0x800, regRw64 x.ansBase (fun w s => modStall s i (fun x => { x with ansBase := w }))),
   (0x808, regRw x.ansHead (fun w s => modStall s i (fun x => { x with ansHead := w }))), (0x80C, regRo x.ansWr),
   (0x810, regRw (x.ansDrop.setWidth 32) (fun w s => modStall s i (fun x => { x with ansDrop := w.setWidth 16 }))),
   (0x814, regRo x.epoch)]

def queRegs (s : State) (i x : Nat) : Option (Reg × Bool) :=
  if x < 0x800 then if hasQueue s i (x / 0x100) then regIn (queueRegs s i (x / 0x100)) (x % 0x100) else none
  else regIn (answerRegs s i) x

/-- A vector is unmasked: one held pending is raised (R149). -/
def unmask (i v : Nat) (s : State) : State :=
  let s := modStall s i (fun x => { x with msixOpen := tset false x.msixOpen v true })
  if tget false (getStall s i).msixPend v then
    raiseVector (modStall s i (fun x => { x with msixPend := tset false x.msixPend v false })) i (BitVec.ofNat 11 v)
  else s

/-- The MSI-X table and the pending-bit array: entry *v* of address, data and mask. -/
def msixRegs (s : State) (i x : Nat) : Option (Reg × Bool) :=
  let st := getStall s i
  if x < 0x8000 then
    let v := x / 16
    let a := tget 0 st.msixAddr v
    let put (w : W64) (s : State) : State := modStall s i (fun x => { x with msixAddr := tset 0 x.msixAddr v w })
    regIn [(0, regRw (a.setWidth 32) (fun w => put (place 64 0 w ||| (a >>> 32) <<< 32))),
           (4, regRw ((a >>> 32).setWidth 32) (fun w => put (place 64 32 w ||| place 64 0 (a.setWidth 32)))),
           (8, regRw (tget 0 st.msixData v) (fun w s => modStall s i (fun x => { x with msixData := tset 0 x.msixData v w }))),
           (12, regRw (flag 32 0 (!tget false st.msixOpen v)) (fun w s =>
             if bit w 0 then modStall s i (fun x => { x with msixOpen := tset false x.msixOpen v false }) else unmask i v s))] (x % 16)
  else if x < 0x8100 then
    let k := (x - 0x8000) / 4
    regIn [(0, regRo ((List.range 32).foldl (fun w b => setBit w b (tget false st.msixPend (32 * k + b))) 0))] (x % 4)
  else none

/-! ### Units (Table 19-6) -/

def arrRegs (s : State) (n : Nat) : List (Nat × Reg) :=
  let a := getArr s n
  let v := getVec s n
  let clearArr (w : W32) (s : State) : State := modArr s n (fun a => { a with
    satSeen := w1c a.satSeen w 7, ceSeen := w1c a.ceSeen w 8, ueSeen := w1c a.ueSeen w 9, checkFail := w1c a.checkFail w 10 })
  let clearVec (w : W32) (s : State) : State := modVec s n (fun v => { v with
    satSeen := w1c v.satSeen w 6, nanSeen := w1c v.nanSeen w 7, ceSeen := w1c v.ceSeen w 8, ueSeen := w1c v.ueSeen w 9 })
  [(0x000, regRw (arrSts s n) clearArr), (0x004, regRo (arrErr a)), (0x008, regRo (arrCtx s n)), (0x010, regRo64 (arrToken a)),
   (0x018, regRo64 a.cycles), (0x020, regRo64 a.tasks), (0x028, regRo64 a.gated), (0x030, regRo (pair16 a.eccCe a.eccUe)),
   (0x034, regRo a.clampCnt), (0x040, regRo64 (schLedger s n)), (0x048, regRo64 a.dismounts),
   (0x050, regRo (a.dismountMax.setWidth 32)),
   (0x800, regRw (vecSts s n) clearVec), (0x804, regRo (errWord v.errCode v.errStall)), (0x808, regRo v.clampCnt),
   (0x810, regRo64 v.cycles), (0x818, regRo64 v.tasks)]

def pathRegs (s : State) (m : Nat) : List (Nat × Reg) :=
  let p := getPath s m
  [(0x00, regRw (mvpSts s m) (fun w s => modPath s m (fun p => { p with ceSeen := w1c p.ceSeen w 12, ueSeen := w1c p.ueSeen w 13 }))),
   (0x04, regRo (errWord p.errCode p.errStall)), (0x08, regRo64 p.cycles), (0x10, regRo64 p.tasks), (0x18, regRo64 p.bytes)]

def feederRegs (s : State) (n : Nat) : List (Nat × Reg) :=
  let f := getFdr s n
  [(0x00, regRw (fdrSts s n) (fun w s => modFdr s n (fun f => { f with ceSeen := w1c f.ceSeen w 13, ueSeen := w1c f.ueSeen w 14 }))),
   (0x04, regRo (errWord f.errCode f.errStall)), (0x08, regRo64 f.bytes), (0x10, regRo64 f.xfers), (0x18, regRo64 f.merged),
   (0x20, regRo64 f.mcast)]

def coreRegs (s : State) (n : Nat) : List (Nat × Reg) :=
  let c := getCore s n
  let h (x : W16) : Reg := regRo (x.setWidth 32)
  [(0x000, regRw (pcrSts s n) (fun w s => modCore s n (fun c => { c with double := w1c c.double w 22, ueSeen := w1c c.ueSeen w 23 }))),
   (0x008, regRo64 (pcrDbl c)), (0x010, regRo64 c.xsInfo), (0x018, regRo64 c.busy), (0x020, h c.evtDrop), (0x024, h c.tmrCancel),
   (0x028, h c.tmrCarry), (0x02C, h c.swapMiss), (0x030, h c.dblCnt), (0x034, regRo (pair16 c.eccCe c.eccUe))]

def decRegs (s : State) (n : Nat) : List (Nat × Reg) :=
  let d := getDec s n
  [(0x00, regRw (decSts s n) (fun w s => modDec s n (fun d => { d with ueSeen := w1c d.ueSeen w 5 }))), (0x04, regRo (pair16 d.ce d.ue)),
   (0x08, regRo64 d.blocks), (0x10, regRo64 d.iters)]

def seRegs (s : State) (e : Nat) : List (Nat × Reg) :=
  let x := getSe s e
  [(0x00, regRw (sclSts s e) (fun w s => modSe s e (fun x => { x with ueSeen := w1c x.ueSeen w 7 }))), (0x08, regRo64 x.draws),
   (0x10, regRo x.skip)]

def netRegs (s : State) (r : Nat) : List (Nat × Reg) :=
  let x := getNet s r
  [(0x00, regRo (sclNetSts s r)), (0x04, regRo x.commitGen), (0x08, regRo64 x.score), (0x10, regRo x.commits), (0x14, regRo x.rollbacks),
   (0x18, regRo x.discards), (0x1C, regRo x.nvWrites), (0x20, regRo x.tapLost)]

/-- The stall of a network record's carrier. -/
def recordStall (s : State) (r : Nat) : Option Nat := (schoolCfg s r).map (fun x => netStall s x.2)

/-- A write of SCL_XFER by stall `i` (Tables 13-9, 13-11): OP 0 starts nothing; a record that is not the stall's is out of
range. -/
def sclXfer (i : Nat) (w : W64) (s : State) : State :=
  let r := (bits w 0 5).toNat
  let op := (bits w 5 3).toNat
  if op = 0 then s
  else if recordStall s r = some i then sclOp s r op (bits w 8 36).toNat
  else xferEnds s r i 4

def xferRegs (s : State) (i : Nat) : List (Nat × Reg) :=
  [(0x0, regRw64 0 (sclXfer i)),
   (0x8, regRo (place 32 0 (tget 0 s.school.xferState i) ||| place 32 2 (tget 0 s.school.xferReason i)))]

def carrierRegs (s : State) (c : Nat) : List (Nat × Reg) :=
  let x := getCarrier s c
  [(0x000, regRo (rxcSts s c)), (0x008, regRw64 x.gainSet (fun w s => modCarrier s c (fun x => { x with gainSet := w }))),
   (0x010, regRo64 (gainCur x)), (0x018, regRw x.repHead (fun w s => modCarrier s c (fun x => { x with repHead := w }))),
   (0x01C, regRo x.repSeq), (0x020, regRo64 x.slotsCnt), (0x028, regRo64 x.blkOk), (0x030, regRo64 x.blkFail), (0x038, regRo x.miss),
   (0x03C, regRo x.failed), (0x040, regRo x.noPlan), (0x044, regRo x.overwrite), (0x048, regRo x.satCnt)]

/-! ### The registers of an I/O die (Table 19-9): a write of them acts at the die -/

/-- TTH_CTL (Table 14-14). -/
def tthCtl (p : Nat) (w : W32) (s : State) : State :=
  let s := modTth s p (fun t => { t with rcOff := bit w 2 })
  let s := if bit w 0 then ctlRetrainOp p s else s
  if bit w 1 then fullTrainOp p s else s

def tthRegs (s : State) (p : Nat) : List (Nat × Reg) :=
  let t := getTth s p
  let h (x : W16) : Reg := regRo (x.setWidth 32)
  [(0x000, regRw (tthSts t) (fun w s => modTth s p (fun t => { t with sessionReset := w1c t.sessionReset w 9 }))),
   (0x004, regRw (flag 32 2 t.rcOff) (tthCtl p)), (0x008, regRo (pair16 t.lq t.lqPeer)), (0x00C, h t.snr),
   (0x010, regRw (t.gainSet.setWidth 32) (fun w s => modTth s p (fun t => { t with gainSet := w.setWidth 8 }))),
   (0x014, regRw t.rto (fun w s => modTth s p (fun t => { t with rto := w &&& 0x3FFF }))), (0x018, regRo t.timeOfs),
   (0x01C, regRo t.timeDly), (0x020, regRo64 t.cw), (0x028, regRo64 t.cwFail), (0x030, regRo64 t.bchFixed), (0x038, regRo64 t.txFrames),
   (0x040, regRo64 t.rxFrames), (0x048, h t.retx), (0x04C, h t.dup), (0x050, h t.winErr), (0x054, h t.credErr), (0x058, h t.storeFull),
   (0x05C, h t.retrain), (0x060, h t.trainFail), (0x064, h t.rcRestore), (0x068, h t.timeBad), (0x06C, h t.timeSkip), (0x070, h t.storeUe)]

/-- A channel's registers (R524). A change of what LIMIT is computed from makes its credit due (R502, R512). -/
def chanRegs (s : State) (p c : Nat) : List (Nat × Reg) :=
  let x := getChan (getTth s p) c
  let put (f : Chan → Chan) (s : State) : State := modTth s p (fun t => modChan t c f)
  [(0x00, regRw x.ctl (fun w => put (fun y => { y with ctl := w &&& 0x7FF, credDirty := true }))),
   (0x08, regRw64 x.txBase (fun w => put (fun y => { y with txBase := w }))),
   (0x10, regRw64 x.rxData (fun w => put (fun y => { y with rxData := w }))),
   (0x18, regRw64 x.rxRec (fun w => put (fun y => { y with rxRec := w }))),
   (0x20, regRw 0 (fun w s => txTailOp s p c w)), (0x24, regRo x.txDone),
   (0x28, regRw x.rxHead (fun w => put (fun y => { y with rxHead := w, credDirty := true }))), (0x2C, regRo x.rxWr),
   (0x30, regRo (pair16 x.txSeq x.rxSeq))]

/-- The sub-block of a Tether port. -/
def portRegs (s : State) (p x : Nat) : Option (Reg × Bool) :=
  if x < 0x800 then regIn (tthRegs s p) x
  else if x < 0xC00 then regIn (chanRegs s p ((x - 0x800) / 0x80)) ((x - 0x800) % 0x80)
  else none

/-- RXC_LINK_CFG (R570): the first SYSREF edge after ENABLE or RESYNC fixes the boundaries (R556). -/
def linkCfg (d : Nat) (w : W32) (s : State) : State :=
  let was := bit (getIod s d).cfg 2
  let s := modIod s d (fun io => { io with cfg := w &&& 0xBFFF })
  if bit w 14 then resyncOp d s
  else if bit w 2 && !was then linkLost (modIod s d (fun io => { io with realign := true, aligned := false, sysref := none })) d
  else linkLost s d

def linkRegs (s : State) (d : Nat) : List (Nat × Reg) :=
  let io := getIod s d
  [(0x00, regRw io.cfg (linkCfg d)),
   (0x04, regRw (linkSts io) (fun w s => modIod s d (fun io => { io with misSeen := w1c io.misSeen w 17 }))), (0x08, regRo io.laneErr)]

/-- The register space of I/O die `d`: its own identity, its two ports and its converter link. -/
def iodReg (s : State) (d x : Nat) : Option (Reg × Bool) :=
  if x < 0x1000 then none
  else if x < 0x3000 then portRegs s (2 * d + (x / 0x1000 - 1)) (x % 0x1000)
  else if x < 0x4000 then regIn (linkRegs s d) (x % 0x1000)
  else none

/-! ### Forwarding to an I/O die (R548, R665, R668) -/

/-- Whether an access to a register of I/O die `d` is refused, and whether it waits for the link. -/
def iodGone (s : State) (d : Nat) : Bool :=
  !s.fuses.iodEn.getLsbD d || decide ((getGirth s d).state = .failed) || decide ((getGirth s d).state = .absent)
def iodWaits (s : State) (d : Nat) : Bool :=
  decide ((getGirth s d).state = .training) || decide ((getGirth s d).state = .retrain)

/-- A read of host memory, and a request under another TAG. -/
def isMrd : Out → Bool
  | .mrd .. => true
  | _ => false
def retag (t : W16) : Out → Out
  | .mrd i _ a n => .mrd i t a n
  | .rwr g _ a d w => .rwr g t a d w
  | .rrd g _ a w => .rrd g t a w
  | o => o

/-- Whether a request may go out: at most 1,024 are outstanding on a link, and 768 reads of host memory (R548, R562). -/
def mayRequest (x : Girth) (o : Out) : Bool :=
  decide (x.reqs.length < 1024) && (!isMrd o || decide (x.reqs.countP (·.mem) < 768))

/-- A request goes out under a TAG that no outstanding one holds. -/
def sendReq (s : State) (d : Nat) (host : Option (Nat × Nat × W16)) (o : Out) : State :=
  let x := getGirth s d
  let t := (((List.range 1025).map (fun k => x.nextTag + BitVec.ofNat 16 k)).find? (fun t => x.reqs.all (fun r => r.tag != t))).getD x.nextTag
  emit (modGirth s d (fun x => { x with nextTag := t + 1, reqs := x.reqs ++ [{ tag := t, host := host, since := s.now, mem := isMrd o }] }))
    (retag t o)

/-- A request toward I/O die `d`, which waits for its CPL; one beyond what may be outstanding waits its turn. -/
def request (s : State) (d : Nat) (host : Option (Nat × Nat × W16)) (o : Out) : State :=
  let x := getGirth s d
  if x.reqWait.isEmpty && mayRequest x o then sendReq s d host o
  else modGirth s d (fun x => { x with reqWait := x.reqWait ++ [(host, o)] })

/-- An outstanding request ends, and the first one waiting may go out. -/
def dropReq (s : State) (g : Nat) (tag : W16) : State :=
  let s := modGirth s g (fun x => { x with reqs := x.reqs.filter (fun r => r.tag != tag) })
  match (getGirth s g).reqWait with
  | (h, o) :: rest => if mayRequest (getGirth s g) o then sendReq (modGirth s g (fun x => { x with reqWait := rest })) g h o else s
  | [] => s

/-- A register of I/O die `d` as the compute die shows it: a write goes out as an RWR to the die's offset `x`. -/
def forwarded (d x : Nat) (r : Reg × Bool) : Reg × Bool :=
  let at_ : W16 := BitVec.ofNat 16 (if r.2 then x - 4 else x)
  ({ r.1 with write := fun w s => request s d none (.rwr d 0 at_ w r.1.wide) }, r.2)

/-- The I/O-die offset of byte `x` of port `p`'s sub-block. -/
def portOff (p x : Nat) : Nat := 0x1000 + 0x1000 * (p % 2) + x

/-! ### The unit block (Table 19-5) -/

/-- A sub-block: what stands at the offset, which stalls' windows show it, and whether it is a pool unit (R138). -/
structure SubBlock where
  reg : Option (Reg × Bool)
  shown : Nat → Bool
  pool : Bool

/-- A unit of one owner. -/
def unitBlock (rs : List (Nat × Reg)) (x : Nat) (owner : Option Nat) : SubBlock :=
  { reg := regIn rs x, shown := fun i => decide (owner = some i), pool := owner.isNone }

/-- TTH_GAIN_SET and FULL_TRAIN are not the served stall's to write: such a write is discarded and counted (R523). -/
def stallPortReg (s : State) (i p x : Nat) : Option (Reg × Bool) :=
  match portRegs s p x with
  | none => none
  | some r =>
    let f := forwarded (p / 2) (portOff p x) r
    if x = 0x010 then some ({ f.1 with write := fun _ s => accErr s i }, false)
    else if x = 0x004 then
      let act (w : W64) (s : State) : State := f.1.write (w &&& ~~~2) (if bit w 1 then accErr s i else s)
      some ({ f.1 with write := act }, false)
    else some f

/-- The port's registers in S0's mirror: TTH_GAIN_SET and TTH_CTL alone can be written (R523, R663). -/
def mirrorPortReg (s : State) (p x : Nat) : Option (Reg × Bool) :=
  match portRegs s p x with
  | none => none
  | some r => if x = 0x010 ∨ x = 0x004 then some (forwarded (p / 2) (portOff p x) r) else some ({ r.1 with write := fun _ s => accErr s 0 }, r.2)

/-- The port whose sub-block an offset of the unit block lies in. -/
def portAt (y : Nat) : Option Nat := if 0x24000 ≤ y ∧ y < 0x28000 then some ((y - 0x24000) / 0x1000) else none

/-- What stands at offset `y` of the unit block, for the window of a stall or, without one, for the mirror. -/
def subBlock (s : State) (who : Option Nat) (y : Nat) : Option SubBlock :=
  let present (b : Bool) (x : SubBlock) : Option SubBlock := if b then some x else none
  if y < 0x8000 then let n := y / 0x1000; present (arrPresent s n) (unitBlock (arrRegs s n) (y % 0x1000) (arrOwner s n))
  else if y < 0x9000 then let m := (y - 0x8000) / 0x400; some (unitBlock (pathRegs s m) (y % 0x400) (mvpOwner s m))
  else if y < 0xA000 then let n := (y - 0x9000) / 0x100; some (unitBlock (feederRegs s n) (y % 0x100) (fdrOwner s n))
  else if y < 0x10000 then none
  else if y < 0x16000 then
    let n := (y - 0x10000) / 0x200; present (s.fuses.pcrEn.getLsbD n) (unitBlock (coreRegs s n) (y % 0x200) (pcrOwner s n))
  else if y < 0x16180 then
    let c := (y - 0x16000) / 0x40
    present ((List.range 8).any (fun k => s.fuses.pcrEn.getLsbD (8 * c + k))) {
           reg := regIn [(0, regRo (cluSts s c))] (y % 0x40), pool := false,
           shown := fun i => (List.range 8).any (fun k => decide (pcrOwner s (8 * c + k) = some i)) }
  else if y < 0x18000 then none
  else if y < 0x18600 then
    let n := (y - 0x18000) / 0x40; present (s.fuses.decEn.getLsbD n) (unitBlock (decRegs s n) (y % 0x40) (decOwner s n))
  else if y < 0x19000 then none
  else if y < 0x19200 then let e := (y - 0x19000) / 0x100; some (unitBlock (seRegs s e) (y % 0x100) (seOwner s e))
  else if y < 0x1A000 then none
  else if y < 0x1A800 then
    let r := (y - 0x1A000) / 0x40
    match schoolCfg s r with
    | some x => some (unitBlock (netRegs s r) (y % 0x40) (seOwner s x.1.engine))
    | none => none
  else if y < 0x1A80C then
    match who with
    | some i => some { reg := regIn (xferRegs s i) (y - 0x1A800), pool := false,
                       shown := fun i => (List.range 2).any (fun e => decide (seOwner s e = some i)) }
    | none => none
  else if y < 0x20000 then none
  else if y < 0x22000 then
    let c := (y - 0x20000) / 0x400
    match carrierCfg s c with
    | some _ => some { reg := regIn (carrierRegs s c) (y % 0x400), pool := false, shown := fun i => decide (carrierStall s c = some i) }
    | none => none
  else match portAt y with
    | some p =>
      let x := y % 0x1000
      if iodGone s (p / 2) then none
      else some { reg := (match who with | some i => stallPortReg s i p x | none => mirrorPortReg s p x), pool := true,
                  shown := fun i => (tethRec s p).any (fun r => r.stall == i) }
    | none => none

/-- A register in the window of stall `i`. -/
def windowReg (s : State) (i y : Nat) : Option (Reg × Bool) :=
  match subBlock s (some i) y with
  | some b => if b.shown i then b.reg else none
  | none => none

/-- A register in S0's mirror: a write of a unit that is not a pool unit is discarded and counted (R663). -/
def mirrorReg (s : State) (y : Nat) : Option (Reg × Bool) :=
  match subBlock s none y with
  | some b => b.reg.map (fun r => if b.pool then r else ({ r.1 with write := fun _ s => accErr s 0 }, r.2))
  | none => none

end Sys2Proof.Machine
end

