-- ==== Sys2Proof/Machine/Manage.lean ====
section
/-!
DEFINITION. The management block (Table 19-7), accesses to BAR0 by offset (R20, R147, R646, R658 to R669), the REGISTER_WRITE
command, and counter snapshots (R627).
-/
namespace Sys2Proof.Machine

/-! ### The management block, page by page (Table 19-7) -/

/-- HNS_CTL (Table 3-14): REPLACE is stored, then the actions in bit order. -/
def hnsCtl (w : W32) (s : State) : State :=
  let s := { s with loader := { s.loader with replace := bit w 1 } }
  let s := if bit w 0 then loadCmd (bit w 1) s else s
  let s := if bit w 2 then segCmd ((draw s).setWidth 4) (drew s) else s
  let s := if bit w 3 then loadAbort s else s
  if bit w 4 then floorOp s else s

/-- HNS_PROV_CTL (R116). -/
def provCtl (w : W32) (s : State) : State :=
  let slot := if bit w 2 then 1 else 0
  let s := if bit w 0 then burnOp slot (bits w 16 16) s else s
  if bit w 1 then revokeOp slot s else s

def hnsRegs (s : State) : List (Nat × Reg) :=
  let l := s.loader
  let put (f : Loader → Loader) (s : State) : State := { s with loader := f s.loader }
  let key : W32 := if fusesRead s then place 32 0 s.fuses.burned ||| place 32 2 s.fuses.revoked else 0
  [(0x00, regRw (flag 32 1 l.replace) hnsCtl),
   (0x04, regRw (place 32 0 l.errCode ||| place 32 8 l.errIndex ||| place 32 18 l.errRecord)
     (fun w => put (fun l => { l with errCode := l.errCode &&& ~~~ bits w 0 8 }))),
   (0x08, regRw64 l.src (fun w => put (fun l => { l with src := w }))), (0x10, regRw l.len (fun w => put (fun l => { l with len := w }))),
   (0x14, regRo (if fusesRead s then l.floor else 0)), (0x18, regRo l.loadCnt),
   (0x1C, regRo (place 32 0 l.segFrame ||| place 32 10 l.segTick)), (0x20, regRo key), (0x24, regRw 0 provCtl)]
  ++ (List.range 12).map (fun k => (0x40 + 4 * k, regRw (l.provHash.getD k 0) (fun w => put (fun l => { l with provHash := setAt l.provHash k w }))))
  ++ (List.range 16).map (fun k => (0x80 + 4 * k, regRo (tget 0 l.segSerial k)))

/-- ATM_REF_CTL (Table 1-11). -/
def refCtl (w : W32) (s : State) : State :=
  let s := forceHoldoverOp s (bit w 0)
  if bit w 2 then slewAnywayOp s else if bit w 1 then stepNowOp s else s

/-- ATM_EPOCH (Table 1-12). -/
def epochPut (w : W64) (s : State) : State :=
  modAir s (fun a => { a with epochFrame := bits w 0 10, epochHyper := bits w 10 24, epochArm := bit w 63 })

def atmRegs (s : State) : List (Nat × Reg) :=
  let a := s.air
  let clearRef (w : W32) (s : State) : State := modAir s (fun a => { a with
    holdExpired := w1c a.holdExpired w 9, stepped := w1c a.stepped w 10, refLost := w1c a.refLost w 11,
    epochApplied := w1c a.epochApplied w 12 })
  let clearGait (w : W32) (s : State) : State := modAir (voidWhen s (a.forcedRefresh && bit w 5)) (fun a => { a with
    parityErr := w1c a.parityErr w 4, forcedRefresh := w1c a.forcedRefresh w 5 })
  [(0x00, regRw (atmRefSts s) clearRef), (0x04, regRw (flag 32 0 a.forceHoldover) refCtl), (0x08, regRw (atmGaitSts s) clearGait),
   (0x0C, regRo (a.gaitLate.setWidth 32)), (0x10, regRw64 (atmEpoch a) epochPut), (0x18, regRo (BitVec.ofInt 32 a.phaseErr)),
   (0x1C, regRo (BitVec.ofNat 32 (holdEst s)))]

/-- BOOT_RST_CTL (R652): COLD supersedes WARM (R654). -/
def rstCtl (w : W32) (s : State) : State :=
  if bit w 1 then rstColdOp (bits w 16 16) s.boot.testPin s else if bit w 0 then rstWarmOp (bits w 16 16) s else s

/-- ARR_FENCE_CTL (Table 2-10): the actions in bit order. -/
def fenceCtl (w : W32) (s : State) : State :=
  let n := (bits w 0 3).toNat
  let s := { s with fencing := { s.fencing with ctlArray := bits w 0 3 } }
  let s := if bit w 3 then fenceOp s n 4 else s
  let s := if bit w 4 then persistOp s n true else s
  if bit w 5 then persistOp s n false else s

def bootRegs (s : State) : List (Nat × Reg) :=
  let f := s.fencing
  [(0x00, regRw 0 rstCtl),
   (0x04, regRw (s.boot.warmCnt.setWidth 32) (fun w s => { s with boot := { s.boot with warmCnt := w.setWidth 16 } })),
   (0x10, regRw (place 32 0 f.shown ||| place 32 8 f.persisted ||| place 32 16 f.lastArray ||| place 32 19 f.lastCause)
     (fun w s => { s with fencing := { s.fencing with shown := bits w 0 8, lastArray := bits w 16 3, lastCause := bits w 19 4 } })),
   (0x14, regRw (place 32 0 f.ctlArray) fenceCtl),
   (0x18, regRw (f.count.setWidth 32) (fun w s => { s with fencing := { s.fencing with count := w.setWidth 16 } }))]

/-- STL_MGMT_CTL (Table 4-15): the actions in bit order. -/
def mgmtCtl (w : W32) (s : State) : State :=
  let i := (bits w 0 4).toNat
  let s := addressed i s
  let s := if bit w 4 then resetOp i (bits w 16 16) s else s
  let s := if bit w 5 then quiesceOp i true s else s
  if bit w 6 then quiesceOp i false s else s

def stlMgmtRegs (s : State) : List (Nat × Reg) :=
  [(0x00, regRw (place 32 0 s.mgmtStall) mgmtCtl), (0x08, regRo64 (stlSummary s))]

/-- GRM_CTL (Table 16-11). -/
def grmCtl (w : W32) (s : State) : State :=
  if bit w 2 then groomCmdOp (bits w 0 2).toNat (bits w 16 16) s else { s with grm := { s.grm with ctlGroom := bits w 0 2 } }

/-- GRM_UPD_CTL (Table 16-12): the actions in bit order. -/
def grmUpdCtl (w : W32) (s : State) : State :=
  let s := if bit w 0 then stageOp s else s
  let s := if bit w 1 then applyOp s else s
  let s := if bit w 2 then grmAbortOp s else s
  if bit w 3 then grmFloorOp s else s

def grmRegs (s : State) : List (Nat × Reg) :=
  let g := s.grm
  let v (w : W32) : W32 := if fusesRead s then w else 0
  (List.range 4).map (fun k => (4 * k, regRw (grmSts s k) (fun w s => modGroom s k (fun x => { x with unchecked := bit w 2, lastCause := bits w 4 4 }))))
  ++ [(0x10, regRo (flag 32 0 (degraded s))), (0x14, regRw (place 32 0 g.ctlGroom) grmCtl), (0x18, regRw 0 grmUpdCtl),
      (0x1C, regRo (grmUpdSts s)), (0x20, regRw64 g.src (fun w s => { s with grm := { s.grm with src := w } })),
      (0x28, regRw g.len (fun w s => { s with grm := { s.grm with len := w } })), (0x2C, regRo (v g.version)), (0x30, regRo (v g.floor))]
  ++ (List.range 4).map (fun k => (0x40 + 4 * k, regRw (getGroom s k).restarts (fun w s => modGroom s k (fun x => { x with restarts := w }))))
  ++ (List.range 12).map (fun k => (0x80 + 4 * k, regRo (v (digestWord g.digest k))))
  ++ (List.range 12).map (fun k => (0xC0 + 4 * k, regRo (v (digestWord g.digestStaged k))))

def pwrRegs (s : State) : List (Nat × Reg) :=
  let p := s.power
  let put (f : Power → Power) (s : State) : State := { s with power := f s.power }
  [(0x00, regRw64 (p.next.getD p.budget) budgetOp),
   (0x08, regRw (budgetSts p) (fun w => put (fun p => { p with refused := w1c p.refused w 7 }))),
   (0x0C, regRw (limitSts p) (fun w => put (fun p => { p with lastTrip := bits w 2 4 }))),
   (0x10, regRo64 p.energy), (0x18, regRo64 p.intEnergy), (0x20, regRo p.intCnt), (0x24, regRo (place 32 0 p.tj ||| place 32 8 p.ts)),
   (0x28, regRw p.tripCnt (fun w => put (fun p => { p with tripCnt := w }))), (0x30, regRo64 (throttledNs s))]
  ++ (List.range 8).map (fun k => (0x40 + 8 * k, regRo64 (railWord (tget {} p.rails k))))

/-- FLT_DEV_STS (Table 17-14): a written 1 clears a W1C bit. -/
def clearFlt (w : W32) (s : State) : State :=
  { s with flt := { s.flt with
    loader := w1c s.flt.loader w 1, holdover := w1c s.flt.holdover w 2, gaitParity := w1c s.flt.gaitParity w 4,
    gaitEdit := w1c s.flt.gaitEdit w 5, bootStore := w1c s.flt.bootStore w 9, telemetry := w1c s.flt.telemetry w 12,
    link := w1c s.flt.link w 15, deadlineG := w1c s.flt.deadlineG w 16 } }

def fltRegs (s : State) : List (Nat × Reg) :=
  let f := s.flt
  let put (g : Flt → Flt) (s : State) : State := { s with flt := g s.flt }
  [(0x00, regRw (fltDevSts s) clearFlt), (0x04, regRw f.cntG (fun w => put (fun f => { f with cntG := w }))),
   (0x08, regRw64 f.last (fun w => put (fun f => { f with last := w &&& 0x0001FFFFFFFFFFFF }))),
   (0x10, regRw f.cntDev (fun w => put (fun f => { f with cntDev := w })))]

/-- FLT_SNAP and FLT_SNAP_TIME, by group. -/
def snapReg (s : State) (x : Nat) : Option (Reg × Bool) :=
  let g := x / 0x100
  let y := x % 0x100
  if y < 0x80 then regIn [(0, regRo64 (tget 0 s.flt.snaps (16 * g + y / 8)))] (y % 8)
  else regIn [(0x80, regRo64 (tget 0 s.flt.snapTime g))] y

/-- TRL_CTL (R620): UNFREEZE, then FREEZE. -/
def trlCtl (w : W32) (s : State) : State :=
  let s := if bit w 0 then unfreezeCmdOp (bits w 16 16) s else s
  if bit w 1 then freezeOp s else s

def trlRegs (s : State) : List (Nat × Reg) :=
  let t := s.trail
  let put (f : Trail → Trail) (s : State) : State := { s with trail := f s.trail }
  [(0x00, regRw (trlSts t) (fun w => put (fun t => { t with ueSeen := w1c t.ueSeen w 4 }))), (0x04, regRo t.wr), (0x08, regRo t.frz),
   (0x0C, regRo t.lost), (0x10, regRw (t.post.setWidth 32) (fun w => put (fun t => { t with post := bits w 0 12 }))),
   (0x14, regRw (place 32 1 t.mask) (fun w => put (fun t => { t with mask := bits w 1 6 }))), (0x18, regRw 0 trlCtl)]

def grtRegs (s : State) (g : Nat) : List (Nat × Reg) :=
  let x := getGirth s g
  let sts (w : W32) (s : State) : State := modGirth s g (fun x => { x with timLate := w1c x.timLate w 15, failCause := bits w 16 4 })
  [(0x00, regRw (grtSts x) sts), (0x04, regRw 0 (fun w s => if bit w 0 then grtCtlOp g s else s)), (0x08, regRo64 (grtPeer x)),
   (0x10, regRo64 ((x.peer.map (·.dieId)).getD 0)), (0x18, regRo64 x.txFlits), (0x20, regRo64 x.rxFlits), (0x28, regRo x.crcErr),
   (0x2C, regRo x.replay), (0x30, regRo x.dup), (0x34, regRo x.retrain), (0x38, regRo x.timLateCnt), (0x3C, regRo x.timeAdj),
   (0x40, regRo x.hostDrop)]

def fdrMgmtReg (s : State) (x : Nat) : Option (Reg × Bool) :=
  let put (f : Mem → Mem) (s : State) : State := { s with mem := f s.mem }
  if x < 0x100 then
    let c := x / 4
    if !s.fuses.stackEn.getLsbD (c / 16) then none else
    regIn [(0, regRw (pair16 (tget 0 s.mem.ce c) (tget 0 s.mem.ue c)) (fun w => put (fun m => { m with
      ce := tset 0 m.ce c (bits w 0 16), ue := tset 0 m.ue c (bits w 16 16) })))] (x % 4)
  else if x < 0x110 then
    let k := (x - 0x100) / 4
    if s.fuses.stackEn.getLsbD k then
      regIn [(0, regRw (stackSts (getStack s k)) (fun w s => modStack s k (fun y => { y with shown := bit w 8, forced := bits w 16 16 })))] (x % 4)
    else none
  else none

/-- A word of a read-only window of the trail: a write is discarded and counted (R625). -/
def regWindow (v : W32) : Reg := { regRo v with write := fun _ s => accErr s 0 }

/-- A word of the trail buffer window, and of the snapshot window (R625). -/
def bufWord (t : Trail) (x : Nat) : W32 := match tget none t.entries (x / 32) with
  | some e => u32 (entryBytes e) (x % 32)
  | none => 0
def nvWord (t : Trail) (x : Nat) : W32 := match validSnap t with
  | some p => u32 (snapBytes p) x
  | none => 0

/-- The register at offset `x` of the management block. -/
def mgmtReg (s : State) (x : Nat) : Option (Reg × Bool) :=
  let y := x % 0x1000
  if 0x40000 ≤ x then mirrorReg s (x - 0x40000)
  else if 0x20000 ≤ x then regIn [(0, regWindow (bufWord s.trail (x - 0x20000)))] (x % 4)
  else if 0x18000 ≤ x then if x < 0x18000 + 16448 then regIn [(0, regWindow (nvWord s.trail ((x - 0x18000) / 4 * 4)))] (x % 4) else none
  else if 0x11000 ≤ x then none
  else if 0x10000 ≤ x then
    if x % 0x100 < 0x40 then regIn (schRegs s (y / 0x100)) (0x100 + x % 0x100) else none
  else match x / 0x1000 with
    | 0 => regIn (hnsRegs s) y
    | 1 => regIn (atmRegs s) y
    | 2 => regIn (bootRegs s) y
    | 3 => regIn (stlMgmtRegs s) y
    | 4 => regIn (grmRegs s) y
    | 5 => regIn (pwrRegs s) y
    | 6 => regIn (fltRegs s) y
    | 7 => snapReg s y
    | 8 => regIn (trlRegs s) y
    | 9 => if y < 0x200 ∧ s.fuses.iodEn.getLsbD (y / 0x100) = true then regIn (grtRegs s (y / 0x100)) (y % 0x100) else none
    | 10 =>
      let d := y / 0x40
      if y < 0x80 ∧ iodGone s d = false then (regIn (linkRegs s d) (y % 0x40)).map (forwarded d (0x3000 + y % 0x40)) else none
    | 11 => fdrMgmtReg s y
    | _ => none

/-! ### Windows (R142, R646, R658, R669) -/

/-- The masters of Table 4-4: a host by its port, and the management controller on the SMBus target. -/
inductive Master where
  | host (port : Nat)
  | controller
  deriving DecidableEq, Repr

/-- Table 4-4: host A reaches S0, which is served before the first acceptance too (R134), and a host every stall with its
HOST; the controller reaches none. The test port is no master (R140). -/
def reaches (s : State) : Master → Nat → Bool
  | .host port, i => (decide (port = 0) && decide (i = 0)) || s.hns.stalls.any (fun r => r.stall == i && r.host == port)
  | .controller, _ => false

/-- The SR-IOV capability of each physical function (R141). -/
def totalVfs : Nat := 15
def initialVfs : Nat := 15
def firstVfOffset : Nat := 1
def vfStride : Nat := 1

/-- The Routing ID of a function of a port, from that of the port's physical function (R141). -/
def routingId (pf : W16) (fn : Nat) : W16 :=
  if fn = 0 then pf else pf + BitVec.ofNat 16 (firstVfOffset + (fn - 1) * vfStride)

/-- Device ID (Table 4-5) and class code (R141) of a function. -/
def deviceId (port fn : Nat) : W16 := if fn ≠ 0 then 0xA808 else if port = 0 then 0xA800 else 0xA801
def classCode : BitVec 24 := 0x120000

/-- The stall that a function serves (Table 4-5): S0 for IOD0's physical function, none for IOD1's, and for virtual function
`v` the stall with the port's HOST and VF `v`. -/
def fnStall (s : State) (port fn : Nat) : Option Nat :=
  if fn = 0 then (if reaches s (.host port) 0 && decide (port = 0) then some 0 else none)
  else if totalVfs < fn then none
  else (s.hns.stalls.find? (fun r => reaches s (.host port) r.stall && r.host == port && r.vf == fn)).map (·.stall)

/-- The smallest power of two not less than a number. -/
def powerOver (n : Nat) : Nat := if n ≤ 1 then 1 else 2 ^ (Nat.log2 (n - 1) + 1)

/-- The size of BAR2 of a function (R148): by S0's MEM_SIZE, or by the largest MEM_SIZE that the port's virtual functions
serve. -/
def bar2Size (s : State) (port fn : Nat) : Nat :=
  if fn = 0 then (if port = 0 then powerOver (regionSize s 0) else 0)
  else powerOver (((s.hns.stalls.filter (fun r => r.host == port && r.vf != 0)).map (fun r => r.memSize.toNat)).foldl max 0)

/-- What responds before the first acceptance besides the common block (R26, R669). -/
def earlyOffset (off : Nat) : Bool :=
  (decide (0x10000 ≤ off) && decide (off < 0x20000)) || (decide (0x80000 ≤ off) && decide (off < 0x81000))
    || (decide (0x82000 ≤ off) && decide (off < 0x82008)) || (decide (0x88000 ≤ off) && decide (off < 0x89000))
    || (decide (0x98000 ≤ off) && decide (off < 0xC0000))

/-- The register at an offset of a function's BAR0 window; `none` where R147 holds. -/
def regAt (s : State) (who : Option Nat) (off : Nat) : Option (Reg × Bool) :=
  if off < 0x10000 then regIn (commonRegs s (who == some 0)) off
  else match who with
    | none => none
    | some i =>
      if !s.accepted && !earlyOffset off then none
      else if off < 0x20000 then regIn (stlRegs s i) (off - 0x10000)
      else if off < 0x30000 then queRegs s i (off - 0x20000)
      else if off < 0x40000 then msixRegs s i (off - 0x30000)
      else if off < 0x80000 then windowReg s i (off - 0x40000)
      else if i = 0 then mgmtReg s (off - 0x80000)
      else none

/-- An access that R147 discards counts for the function's stall. -/
def countErr (s : State) : Option Nat → State
  | some i => accErr s i
  | none => s

/-! ### Writes (R20, R659) -/

/-- A 32-bit write, `held` being the low half held until now: a low half of a 64-bit register is held, a high half takes the
held or the stored low half with it. -/
def write32 (s : State) (who : Option Nat) (port fn off : Nat) (w : W32) (held : Option (Nat × W32)) : State :=
  match regAt s who off with
  | none => countErr s who
  | some (r, false) => if r.wide then modFunc s port fn (fun f => { f with hold := some (off, w) }) else r.write (w.setWidth 64) s
  | some (r, true) =>
    let low : W32 := match held with
      | some (o, l) => if o + 4 = off then l else r.low
      | none => r.low
    r.write (place 64 0 low ||| place 64 32 w) s

/-- A write of 4 or 8 bytes by a function: a held low half is used or discarded. 8 bytes on 32-bit registers are two writes,
the lower first. -/
def writeBar0 (s : State) (port fn off : Nat) (data : W64) (wide : Bool) : State :=
  let who := fnStall s port fn
  let held := (getFunc s port fn).hold
  let s := modFunc s port fn (fun f => { f with hold := none })
  if restoring s && decide (0x10000 ≤ off) then s
  else if decide (off % (if wide then 8 else 4) ≠ 0) then countErr s who
  else if decide (who = some 0) && decide (0x80000 ≤ off) && mgmtBlocked s then accErr s 0
  else if wide then
    match regAt s who off with
    | some (r, false) =>
      if r.wide then r.write data s
      else write32 (write32 s who port fn off (data.setWidth 32) none) who port fn (off + 4) ((data >>> 32).setWidth 32) none
    | _ => write32 (write32 s who port fn off (data.setWidth 32) none) who port fn (off + 4) ((data >>> 32).setWidth 32) none
  else write32 s who port fn off (data.setWidth 32) held

/-- REGISTER_WRITE (R18): a write acts by the field types of the register at the offset. -/
def execRegisterWrite (port : Fin 2) (fn : BitVec 4) (addr : BitVec 20) (data : W64) (wide : Bool) (s : State) :
    Host.Outcome State Fault Refusal :=
  .next (writeBar0 s port.val fn.toNat addr.toNat data wide)

/-! ### Reads (R20, R659) -/

/-- A 32-bit read: the low half of a 64-bit register latches its high half. -/
def read32 (s : State) (who : Option Nat) (port fn off : Nat) : W32 × State :=
  match regAt s who off with
  | none => (0, countErr s who)
  | some (r, false) =>
    if r.wide then (r.value.setWidth 32, modFunc s port fn (fun f => { f with latch := some (off, (r.value >>> 32).setWidth 32) }))
    else (r.value.setWidth 32, s)
  | some (r, true) => match (getFunc s port fn).latch with
    | some (o, v) => if o + 4 = off then (v, modFunc s port fn (fun f => { f with latch := none })) else ((r.value >>> 32).setWidth 32, s)
    | none => ((r.value >>> 32).setWidth 32, s)

/-- A read of 4 or 8 bytes by a function. -/
def readBar0 (s : State) (port fn off : Nat) (wide : Bool) : W64 × State :=
  let who := fnStall s port fn
  let two (s : State) : W64 × State :=
    let a := read32 s who port fn off
    let b := read32 a.2 who port fn (off + 4)
    (place 64 0 a.1 ||| place 64 32 b.1, b.2)
  if restoring s && decide (0x10000 ≤ off) then (0, s)
  else if decide (off % (if wide then 8 else 4) ≠ 0) then (0, countErr s who)
  else if wide then
    match regAt s who off with
    | some (r, false) => if r.wide then (r.value, s) else two s
    | _ => two s
  else let a := read32 s who port fn off; (a.1.setWidth 64, a.2)

/-! ### SNAPSHOT (R627, Table 17-11) -/

/-- A signed value in 64 bits. -/
def sx {w : Nat} (v : BitVec w) : W64 := v.signExtend 64
def zx {w : Nat} (v : BitVec w) : W64 := v.setWidth 64

/-- The values of a counter group. -/
def groupValues (s : State) (g : Nat) : List W64 :=
  if g = 0 then
    [s.air.abs, BitVec.ofInt 64 s.air.phaseErr, BitVec.ofNat 64 (holdEst s), zx s.air.gaitLate, s.power.energy, s.power.intEnergy,
     throttledNs s, place 64 0 s.power.tj ||| place 64 8 s.power.ts, zx s.trail.wr, zx s.trail.lost, zx (fltDevSts s), zx s.flt.cntG]
  else if g ≤ 8 then
    let x := getCarrier s (g - 1)
    [x.slotsCnt, x.blkOk, x.blkFail, zx x.miss, zx x.failed, zx x.noPlan, zx x.overwrite, zx x.satCnt, zx x.repSeq, gainCur x]
  else if g ≤ 12 then
    let t := getTth s (g - 9)
    [t.cw, t.cwFail, t.bchFixed, t.txFrames, t.rxFrames, zx t.retx, zx t.dup, zx (pair16 t.lq t.lqPeer), zx t.snr, sx t.timeOfs, sx t.timeDly]
  else if g = 13 then
    let half (k : Nat) : List W64 :=
      let x := getGirth s k
      [x.txFlits, x.rxFlits, zx x.crcErr, zx x.replay, zx x.retrain, zx x.timeAdj]
    half 0 ++ [0, 0] ++ half 1
  else if g = 14 then (List.range 8).map (fun n => (getArr s n).cycles) ++ (List.range 8).map (fun n => (getArr s n).gated)
  else (List.range 16).map (fun i => (getStall s i).arrNs)

/-- The group is copied within one tick, with ATM_TIME. -/
def takeSnapshot (s : State) (g : Nat) : State :=
  let vs := groupValues s g
  { s with flt := { s.flt with
    snaps := (List.range 16).foldl (fun t k => tset 0 t (16 * g + k) (vs.getD k 0)) s.flt.snaps,
    snapTime := tset 0 s.flt.snapTime g (atmTime s.air) } }

def execSnapshot (group : Fin 16) (s : State) : Host.Outcome State Fault Refusal :=
  match takeAct s 8 (BitVec.ofNat 8 group.val) (fun _ => true) with
  | some (_, s) => .next (takeSnapshot s group.val)
  | none => .next s

end Sys2Proof.Machine
end

