-- ==== Sys2Proof/Machine/Messages.lean ====
section
/-!
DEFINITION. Messages between the dies (R547 to R549, R563, R572): port state (R143, R144), the BAR2 window (R148, R177, R312,
R341, R450), register messages (R665, R668), completions and time-outs.
-/
namespace Sys2Proof.Machine

/-! ### Port state (R143, R144, R563) -/

/-- Every MSI-X entry of a function returns to masked, and its pending bits are cleared (R144). -/
def maskVectors (s : State) (i : Nat) : State := modStall s i (fun x => { x with msixOpen := [], msixPend := [] })

/-- A Function Level Reset (R144). -/
def flrOp (s : State) (port fn : Nat) : State :=
  let s := match fnStall s port fn with
    | some i => startReset i (maskVectors s i)
    | none => s
  if fn = 0 then modPort s port (fun p => { p with vfEnable := false }) else s

/-- A conventional reset of a port: its configuration spaces are reset; no stall is (R144). -/
def portReset (s : State) (port : Nat) : State :=
  let s := (List.range 16).foldl (fun s i => if stallPort s i = port then maskVectors s i else s) s
  let s := (List.range 16).foldl (fun s fn => modFunc s port fn (fun f => { f with bme := false })) s
  modPort s port (fun p => { p with vfEnable := false, numVfs := 0 })

/-- PSTATE (Table 15-7): the port's and the function's state, then an FLR or conventional reset event; what became reachable
gets what was held for it. -/
def pstateOp (s : State) (port fn : Nat) (tag : W16) : State :=
  let s := modPort s port (fun _ => { linkUp := bit tag 0, vfEnable := bit tag 1, numVfs := (bits tag 8 4).setWidth 8 })
  let s := modFunc s port fn (fun f => { f with bme := bit tag 2 })
  let s := if bit tag 3 then flrOp s port fn else s
  let s := if bit tag 4 then portReset s port else s
  releaseAll s

def linkActiveNow (s : State) (g : Nat) : Bool := decide ((getGirth s g).state = .active)

/-- A host request waits at the I/O die of a link. -/
def hold (s : State) (g : Nat) (h : HeldReq) : State := modGirth s g (fun x => { x with held := x.held ++ [h] })

/-- A PSTATE is sent once the link is ACTIVE (R572). -/
def pstateReq (s : State) (port fn : Nat) (tag : W16) : State :=
  if linkActiveNow s port then pstateOp (takeMsg s port 0x13) port fn tag else hold s port (.pstate port fn tag)

def execPstate (port : Fin 2) (fn : BitVec 4) (tag : W16) (s : State) : Host.Outcome State Fault Refusal :=
  if msgBlocked s port.val 0x13 then .next s else .next (pstateReq s port.val fn.toNat tag)

/-- A host request that meets a girth link not ACTIVE: one that is FAILED aborts or discards it and counts it; else it waits
at the I/O die (R563, R574). One whose message another precedes has not come yet (R546). -/
def hostRequest (s : State) (g : Nat) (opc : Byte) (h : HeldReq) (f : State → State) : State :=
  if linkActiveNow s g then (if msgBlocked s g opc then s else f (takeMsg s g opc))
  else if (getGirth s g).state = .failed then modGirth s g (fun x => { x with hostDrop := satInc x.hostDrop })
  else hold s g h

/-! ### What BAR2 shows (R148, R177, R341) -/

/-- Table 5-9. -/
def jstateCode : JState → Byte
  | .accepted => 1
  | .running => 2
  | .committing => 3
  | .committed => 4
  | .completed => 5
  | .retired => 6

/-- A journal entry (Table 5-4). -/
def journalBytes (e : JEntry) : List Byte :=
  let tail := bytesOf e.seq ++ [jstateCode e.state, e.runs] ++ bytesOf e.status ++ bytesOf e.acceptTick ++ bytesOf e.commitTick
    ++ bytesOf e.arrayNs ++ List.replicate 28 0
  padTo 64 e.desc ++ tail ++ bytesOf (crc32c tail)

/-- The stall line (Table 5-3): its last fields in the widths of Table 3-4 after EPOCH, and 0 up to the CRC; both are the
model's reading (notes/assumptions/16.md). -/
def stallLine (epoch : W32) (r : StallRec) : List Byte :=
  let b := padTo 60 (bytesOf (0x4C4E524A : W32) ++ bytesOf epoch ++ [BitVec.ofNat 8 r.queues, BitVec.ofNat 8 r.qdepthLog2]
    ++ bytesOf r.jobAbi)
  b ++ bytesOf (crc32c b)

/-- A queue line (Table 5-3). Its STOP byte holds the KIND of the stopping answer, 0 for none, by the model's choice
(notes/assumptions/16.md). -/
def queueLine (x : Queue) : List Byte :=
  let b := padTo 60 (bytesOf x.ahead ++ bytesOf x.rd ++ bytesOf x.cdone ++ [x.stopKind.setWidth 8, x.stopReason])
  b ++ bytesOf (crc32c b)

/-- Byte `x` of the control area; `none` where the manual states no content: what lies between the lines and the journals,
entries never held, and an area that failed its check. -/
def ctlByte (st : Stall) (r : StallRec) (x : Nat) : Option Byte :=
  if 0x500000 ≤ x then some 0
  else if st.badJournal || !st.initialised then none
  else if x < 0x40 then (stallLine st.epoch r)[x]?
  else if x < 0x40 + 64 * r.queues then (queueLine (getQueue st ((x - 0x40) / 64)))[x % 64]?
  else if x < 0x100000 then none
  else
    let q := (x - 0x100000) / 0x80000
    let k := (x - 0x100000) % 0x80000 / 128
    match tget none (getQueue st q).journal k with
    | some e => (journalBytes e)[x % 128]?
    | none => none

/-- Whether a region offset lies in a stable slot (R341). -/
def inStable (s : State) (i x : Nat) : Bool := decide (regionSize s i - stableSlots s i * 2 ^ 24 ≤ x)

/-- Whether a region offset lies in a school area of the stall (R450). -/
def inSchool (s : State) (i x : Nat) : Bool :=
  (List.range s.hns.schoolNets.length).any (fun r => match schoolCfg s r with
    | some (cfg, n) => decide (netStall s n = i) && decide (cfg.saOff ≤ x) && decide (x < cfg.saOff + cfg.saLen)
    | none => false)

/-- A byte of a stall's window within MEM_SIZE; `none`: no content is stated (a stable image's layout, a byte that cannot be
read). -/
def bar2Byte (s : State) (i x : Nat) : Option Byte :=
  if x < 0x800000 then (stallRec s i).bind (fun r => ctlByte (getStall s i) r x)
  else if inStable s i x || regionBad s i x 1 then none
  else some (tget 0 s.mem.hbm (devKey (regionAddr s i x)))

/-- Bytes read, a free value for each that has no stated content. -/
def bar2Bytes (s : State) (i : Nat) : Nat → Nat → List Byte × State
  | _, 0 => ([], s)
  | x, n + 1 =>
    let r := bar2Bytes s i (x + 1) n
    if regionSize s i ≤ x then (0 :: r.1, r.2)
    else match bar2Byte s i x with
      | some b => (b :: r.1, r.2)
      | none => ((draw r.2).setWidth 8 :: r.1, drew r.2)

/-- The lines of an access are looked up without allocating (R312). -/
def bar2Touch (s : State) (i x n : Nat) (write : Bool) : State :=
  { s with mem := { s.mem with
    cache := (touchedLines (regionAddr s i x) n).foldl (fun c l => (cacheTouch c l [] write false).1) s.mem.cache } }

/-- A BAR2 read: what it answers, and the state after it. -/
def bar2Read (s : State) (port fn x n : Nat) : List Byte × State :=
  let zeros := List.replicate n 0
  if restoring s then (zeros, s)
  else match fnStall s port fn with
    | none => (zeros, s)
    | some i =>
      if (stallRec s i).isNone then (zeros, accErr s i)
      else
        let r := bar2Bytes s i x n
        let s := bar2Touch r.2 i x n false
        (r.1, if regionSize s i < x + n then accErr s i else s)

/-- A BAR2 write within one 64-byte block; `ue`: it found an uncorrectable error where it merges into a block (Table 9-5). -/
def bar2Write (s : State) (port fn x : Nat) (bs : List Byte) (ue : Bool) : State :=
  if restoring s then s
  else match fnStall s port fn with
    | none => s
    | some i =>
      if (stallRec s i).isNone || decide (x < 0x800000) || decide (regionSize s i < x + bs.length) || inStable s i x || inSchool s i x
        then accErr s i
      else
        let a := regionAddr s i x
        let s := bar2Touch (devWrite s a bs) i x bs.length true
        if ue && (a % 32 != 0 || bs.length % 32 != 0) then poisonBlock s i (if a % 32 = 0 then a + bs.length else a) else s

/-! ### Memory messages (R548) -/

/-- The stall in whose name a Tether engine of I/O die `g` may reach host memory (R548). -/
def engineStall (s : State) (g fn hostPort : Nat) : Option Nat :=
  ((List.range 2).filterMap (fun k => (tethRec s (2 * g + k)).map (·.stall))).find?
    (fun i => decide (stallPort s i = hostPort) && decide (stallFn s i = fn))

/-- The completions of a read, none crossing a 64-byte boundary (Table 15-7). -/
def sendCpls (s : State) (g : Nat) (tag : W16) (addr : Nat) (bs : List Byte) : State :=
  let ps := blockPieces (bs.length + 1) addr bs
  ps.zipIdx.foldl (fun s x => emit s (.cpl g tag 0 x.1.2 (x.2 + 1 == ps.length))) s

/-- A host's read and write of its BAR2 window. -/
def windowRead (s : State) (g fn : Nat) (tag : W16) (addr n : Nat) : State :=
  hostRequest s g 0x01 (.mrd g fn tag addr n) (fun s =>
    let r := bar2Read s g fn addr n
    sendCpls r.2 g tag addr r.1)
def windowWrite (s : State) (g fn addr : Nat) (data : List Byte) (ue : Bool) : State :=
  hostRequest s g 0x10 (.mwr g fn addr data ue) (fun s => bar2Write s g fn addr data ue)

/-- A memory read request: of the BAR2 window, or of host memory by a Tether engine. -/
def execMrd (port : Fin 2) (fn : BitVec 4) (space : BitVec 2) (hostPort : Fin 2) (tag : W16) (addr : W64) (bytes : BitVec 10)
    (s : State) : Host.Outcome State Fault Refusal :=
  let g := port.val
  if space = 0 then .next (windowRead s g fn.toNat tag addr.toNat bytes.toNat)
  else if space = 1 ∧ linkActiveNow s g = true ∧ msgBlocked s g 0x01 = false then
    match engineStall s g fn.toNat hostPort.val with
    | some i =>
      if unreachable s i then .next s
      else .next (request (takeMsg s g 0x01) (stallPort s i) (some (g, fn.toNat, tag)) (.mrd i 0 addr bytes.toNat))
    | none => .next (emit (takeMsg s g 0x01) (.cpl g tag 2 [] true))
  else .next s

/-- A posted memory write: to the BAR2 window, or to host memory by a Tether engine. -/
def execMwr (port : Fin 2) (fn : BitVec 4) (space : BitVec 2) (hostPort : Fin 2) (addr : W64) (data : List Byte) (ue : Bool)
    (s : State) : Host.Outcome State Fault Refusal :=
  let g := port.val
  if space = 0 then .next (windowWrite s g fn.toNat addr.toNat data ue)
  else if space = 1 ∧ linkActiveNow s g = true ∧ msgBlocked s g 0x10 = false then
    match engineStall s g fn.toNat hostPort.val with
    | some i => .next (toHost (takeMsg s g 0x10) i (.mwr i addr data))
    | none => .next (takeMsg s g 0x10)
  else .next s

/-! ### Register messages (R548, R665, R668) -/

/-- The I/O die to which an access of a function is forwarded. -/
def forwardedTo (s : State) (who : Option Nat) (off : Nat) : Option Nat :=
  let port (y : Nat) : Option Nat := (portAt y).map (· / 2)
  if restoring s || !s.accepted || who.isNone || decide (off < 0x40000) then none
  else if off < 0x80000 then port (off - 0x40000)
  else if who ≠ some 0 then none
  else if 0xC0000 ≤ off then port (off - 0xC0000)
  else if 0x8A000 ≤ off ∧ off < 0x8A080 then some ((off - 0x8A000) / 0x40)
  else none

/-- A register read: answered by a CPL. One forwarded over a link that trains waits (R668). -/
def registerRead (s : State) (g fn : Nat) (tag : W16) (addr : Nat) (wide : Bool) : State :=
  let h := HeldReq.rrd g fn tag addr wide
  hostRequest s g 0x02 h (fun s => match (forwardedTo s (fnStall s g fn) addr).filter (iodWaits s) with
    | some d => hold s d h
    | none =>
      let r := readBar0 s g fn addr wide
      emit r.2 (.cpl g tag 0 (leBytes (if wide then 8 else 4) r.1.toNat) true))
def execRrd (port : Fin 2) (fn : BitVec 4) (tag : W16) (addr : BitVec 20) (wide : Bool) (s : State) :
    Host.Outcome State Fault Refusal := .next (registerRead s port.val fn.toNat tag addr.toNat wide)

/-- A write of an I/O-die register takes effect at the die (Table 19-9). -/
def iodWrite (s : State) (d x : Nat) (data : W64) (wide : Bool) : State :=
  let narrow (s : State) (x : Nat) (w : W32) : State := match iodReg s d x with
    | some (r, false) => if r.wide then s else r.write (w.setWidth 64) s
    | _ => s
  match iodReg s d x with
  | some (r, false) =>
    if r.wide then (if wide then r.write data s else s)
    else if wide then narrow (narrow s x (data.setWidth 32)) (x + 4) ((data >>> 32).setWidth 32)
    else r.write data s
  | _ => s

/-- RWR arrives at an I/O die. -/
def execRwr (iod : Fin 2) (addr : W16) (data : W64) (wide : Bool) (s : State) : Host.Outcome State Fault Refusal :=
  if linkActiveNow s iod.val then .next (iodWrite s iod.val addr.toNat data wide) else .next s

/-- A posted register write of a host (R548). -/
def registerWrite (s : State) (g fn addr : Nat) (data : W64) (wide : Bool) : State :=
  hostRequest s g 0x11 (.pwr g fn addr data wide) (fun s => writeBar0 s g fn addr data wide)
def execPwr (port : Fin 2) (fn : BitVec 4) (addr : BitVec 20) (data : W64) (wide : Bool) (s : State) :
    Host.Outcome State Fault Refusal := .next (registerWrite s port.val fn.toNat addr.toNat data wide)

/-! ### Host requests that waited for a link (R563, R572, R574, R668) -/

/-- A request that waited is forwarded, or aborted by a link that failed. -/
def runHeld (s : State) : HeldReq → State
  | .mrd g fn tag a n => windowRead s g fn tag a n
  | .mwr g fn a bs ue => windowWrite s g fn a bs ue
  | .rrd g fn tag a wide => registerRead s g fn tag a wide
  | .pwr g fn a w wide => registerWrite s g fn a w wide
  | .pstate g fn tag => pstateReq s g fn tag

/-- What waited for a link goes on, in order, once the link is ACTIVE or FAILED. -/
def settleHeld (s : State) (g : Nat) : State :=
  let x := getGirth s g
  if x.state = .active ∨ x.state = .failed then x.held.foldl runHeld (modGirth s g (fun y => { y with held := [] })) else s

/-- A training phase of a girth link ends (Table 15-3). -/
def execGrtTrainingPhaseEnd (g : Fin 2) (failCause : BitVec 4) (param : GirthParam) (s : State) :
    Host.Outcome State Fault Refusal := .next (settleHeld (girthPhaseEnd s g.val failCause param) g.val)

/-- R87's second case is checked. -/
def execGirthFailWindow (g : Fin 2) (s : State) : Host.Outcome State Fault Refusal :=
  .next (settleHeld (girthWindow s g.val) g.val)

/-! ### Completions (R548) -/

/-- A completion for the requester behind a request of the compute die. -/
def answerReq (s : State) (r : Req) (status : BitVec 4) (data : List Byte) (final : Bool) : State :=
  match r.host with
  | some (g, _, tag) => emit s (.cpl g tag status data final)
  | none => s

/-- A CPL arrives on girth link `iod`: the final one ends its request. -/
def execCpl (iod : Fin 2) (tag : W16) (status : BitVec 4) (data : List Byte) (final : Bool) (s : State) :
    Host.Outcome State Fault Refusal :=
  let g := iod.val
  if linkActiveNow s g && !msgBlocked s g 0x20 then
    match (getGirth s g).reqs.find? (fun r => r.tag == tag) with
    | some r =>
      let s := takeMsg s g 0x20
      let s := if final then dropReq s g tag else s
      .next (answerReq s r status data final)
    | none => .next (takeMsg s g 0x20)
  else .next s

/-- 100 ms without the final CPL: the request is completed with TIMEOUT. -/
def execGrtRequestTimeout (iod : Fin 2) (tag : W16) (s : State) : Host.Outcome State Fault Refusal :=
  let g := iod.val
  match (getGirth s g).reqs.find? (fun r => r.tag == tag) with
  | some r => if 12288000 ≤ s.now - r.since then .next (answerReq (dropReq s g tag) r 3 [] true) else .next s
  | none => .next s

end Sys2Proof.Machine
end

