-- ==== Sys2Proof/Machine/Smbus.lean ====
section
/-!
DEFINITION. The SMBus target's register view (R145, R565, R664, Tables 15-12, 17-9, 19-8) and the test port (R567, R568,
Table 15-14).
-/
namespace Sys2Proof.Machine

/-! ### The SMBus view -/

/-- The offsets of Table 19-8, as ranges. -/
def smRanges : List (Nat × Nat) :=
  [(0x0000, 0x0048), (0x81000, 0x81004), (0x83008, 0x83010), (0x86000, 0x86014), (0x87000, 0x87088), (0x88000, 0x88010),
   (0x84000, 0x84014), (0x8402C, 0x84030), (0x84080, 0x840B0), (0x8500C, 0x85020), (0x85024, 0x8502C), (0x85030, 0x85038),
   (0x85040, 0x85080)]

/-- The word at a word-aligned offset of the view; every other offset reads 0. The target latches the high half of a 64-bit
register as a function does (R20, R659). -/
def smWord (s : State) (y : Nat) : W32 × State :=
  if smRanges.any (fun r => decide (r.1 ≤ y) && decide (y < r.2)) then
    match regAt s (some 0) y with
    | some (r, false) => (r.value.setWidth 32, if r.wide then { s with smLatch := some (y, (r.value >>> 32).setWidth 32) } else s)
    | some (r, true) => match s.smLatch with
      | some (o, v) => if o + 4 = y then (v, { s with smLatch := none }) else ((r.value >>> 32).setWidth 32, s)
      | none => ((r.value >>> 32).setWidth 32, s)
    | none => (0, s)
  else (0, s)

/-- 32 bytes of the view from an offset, in ascending offset. -/
def smView (s : State) (y : Nat) : List Byte × State :=
  let words := if y % 4 = 0 then 8 else 9
  let r := (List.range words).foldl (fun (x : List Byte × State) k =>
    let w := smWord x.2 (y / 4 * 4 + 4 * k)
    (x.1 ++ bytesOf w.1, w.2)) ([], s)
  (slice r.1 (y % 4) 32, r.2)

/-- SET_ADDR. -/
def execSetAddr (offset : W32) (s : State) : Host.Outcome State Fault Refusal := .next { s with smPtr := offset }

/-- READ: 32 bytes from the pointer, which then advances by 32. -/
def execRead (s : State) : Host.Outcome State Fault Refusal :=
  let r := smView s s.smPtr.toNat
  .next (smAnswer { r.2 with smPtr := s.smPtr + 32 } r.1)

/-- FAULT_SUMMARY (Table 17-9). -/
def faultSummary (s : State) : List Byte :=
  bytesOf (fltDevSts s) ++ bytesOf s.flt.last ++ bytesOf (trlSts s.trail) ++ bytesOf (limitSts s.power) ++ bytesOf s.power.tripCnt
    ++ bytesOf (flag 32 0 (degraded s)) ++ bytesOf ((stlSummary s).setWidth 32)
def execFaultSummary (s : State) : Host.Outcome State Fault Refusal := .next (smAnswer s (faultSummary s))

/-- A command byte not listed, a wrong PEC or a protocol error: NACKed, and recorded (R565, R573). -/
def execSmbusUnknown (cmd : Byte) (reason : BitVec 2) (s : State) : Host.Outcome State Fault Refusal :=
  .next (smNack s cmd (reason.setWidth 8))

/-! ### The test port -/

def getJtag (s : State) (d : Nat) : Tap := tget {} s.taps d
def modJtag (s : State) (d : Nat) (f : Tap → Tap) : State := { s with taps := tmod {} s.taps d f }

/-- Whether a die is in the chain: 0 the compute die, 1 and 2 the I/O dies. -/
def inChain (s : State) (d : Nat) : Bool := decide (d = 0) || s.fuses.iodEn.getLsbD (d - 1)

/-- The bits of a word as they are shifted out, the least significant first. -/
def bitsOf {w : Nat} (v : BitVec w) : List Bool := (List.range w).map (fun k => v.getLsbD k)

/-- An instruction of a present die: its code is loaded, and the covered balls are driven or released. -/
def tapLoad (s : State) (d : Nat) (ir : Byte) (driven highz : Bool) : State :=
  modJtag s d (fun t => { t with ir := ir, driven := driven, highz := highz })

/-- BYPASS: one bit, 0 when captured, stands between TDI and TDO. -/
def tapBypass (s : State) (d : Nat) : State := emit (tapLoad s d 0xFF false false) (.tdo d [false])

/-- What a present die's TAP does; a die not in the chain does nothing. -/
def tapAt (s : State) (d : Nat) (f : State → State) : Host.Outcome State Fault Refusal := if inChain s d then .next (f s) else .next s

/-- A private instruction: the compute die's alone, and only with TEST_EN; else it acts as BYPASS (R568). -/
def tapPrivate (s : State) (d : Nat) (f : State → State) : Host.Outcome State Fault Refusal :=
  tapAt s d (fun s => if s.testEn && decide (d = 0) then f s else tapBypass s d)

/-- Test-Logic-Reset. -/
def execTapReset (s : State) : Host.Outcome State Fault Refusal :=
  .next ((List.range 3).foldl (fun s d => if inChain s d then tapLoad s d 0x01 false false else s) s)

def execExtest (die : Fin 3) (s : State) : Host.Outcome State Fault Refusal := tapAt s die.val (fun s => tapLoad s die.val 0x00 true false)

/-- IDCODE: the compute die's is BOOT_IDCODE; an I/O die's is its builder's, a free value. -/
def execIdcode (die : Fin 3) (s : State) : Host.Outcome State Fault Refusal :=
  tapAt s die.val (fun s =>
    if die.val = 0 then emit (tapLoad s 0 0x01 false false) (.tdo 0 (bitsOf idcodeWord))
    else emit (drew (tapLoad s die.val 0x01 false false)) (.tdo die.val (bitsOf ((draw s).setWidth 32 : W32))))

/-- SAMPLE/PRELOAD: what the covered balls hold is shifted out while the register is preloaded. -/
def execSamplePreload (die : Fin 3) (balls preload : List Bool) (s : State) : Host.Outcome State Fault Refusal :=
  tapAt s die.val (fun s =>
    emit (modJtag (tapLoad s die.val 0x02 false false) die.val (fun t => { t with bsr := preload })) (.tdo die.val balls))

/-- CLAMP: the balls hold the register's values while TDI bypasses to TDO. -/
def execClamp (die : Fin 3) (s : State) : Host.Outcome State Fault Refusal :=
  tapAt s die.val (fun s => emit (tapLoad s die.val 0x03 true false) (.tdo die.val [false]))

def execHighz (die : Fin 3) (s : State) : Host.Outcome State Fault Refusal :=
  tapAt s die.val (fun s => emit (tapLoad s die.val 0x04 false true) (.tdo die.val [false]))

/-- FUSE_READ: the fuse map of Tables 2-3 to 2-6, in their order. -/
def execFuseRead (die : Fin 3) (s : State) : Host.Outcome State Fault Refusal :=
  tapPrivate s die.val (fun s => emit (tapLoad s 0 0x20 false false) (.tdo 0 (bitsOf (bootDesig s.fuses) ++ bitsOf (bootDies s.fuses)
    ++ bitsOf (s.fuses.pcrEn.setWidth 64) ++ bitsOf (s.fuses.decEn.setWidth 32))))

/-- BIST_RUN: the self-test of R241, with the arrays that fail it. -/
def execBistRun (die : Fin 3) (failed : BitVec 8) (s : State) : Host.Outcome State Fault Refusal :=
  tapPrivate s die.val (fun s => selfTestDone (tapLoad s 0 0x21 false false) failed)

/-- BIST_STS: ARR_STS of every array, MA0 first. -/
def execBistSts (die : Fin 3) (s : State) : Host.Outcome State Fault Refusal :=
  tapPrivate s die.val (fun s => emit (tapLoad s 0 0x22 false false) (.tdo 0 ((List.range 8).flatMap (fun n => bitsOf (arrSts s n)))))

def execBypass (die : Fin 3) (s : State) : Host.Outcome State Fault Refusal := tapAt s die.val (fun s => tapBypass s die.val)

end Sys2Proof.Machine
end

