-- ==== Sys2Proof/Machine/Tick.lean ====
section
/-!
DEFINITION. The period of the air clock as a command: the tick of Frame.lean, and the network records that come into force at
it (R441).
-/
namespace Sys2Proof.Machine

def execAirTick (s : State) (bad : List (BitVec 12) := []) : Host.Outcome State Fault Refusal := .next (settleNets (airTick bad s))

/-- The boundary itself, at the frame's last tick. -/
def execFrameBoundary (s : State) (bad : List (BitVec 12) := []) : Host.Outcome State Fault Refusal :=
  if s.air.ended || decide (lastTick s.air ≤ s.air.tick.toNat) then .next (settleNets (airTick bad s)) else .next s

end Sys2Proof.Machine
end

