-- ==== Sys2Proof/Machine/Dispatch.lean ====
section
/-!
DEFINITION. The dispatch of commands: one arm per constructor of `Instr`, each one direct call of its meaning.
-/
namespace Sys2Proof.Machine

/-- The effect of a command on everything but the queue. -/
def exec (i : Instr) (s : State) : Host.Outcome State Fault Refusal :=
  match i with
  | .airTick a1 => Sys2Proof.Machine.execAirTick s a1
  | .frameBoundary a1 => Sys2Proof.Machine.execFrameBoundary s a1
  | .symStart a1 a2 a3 a4 => Sys2Proof.Machine.execSymStart a1 a2 a3 a4 s
  | .deadline a1 a2 a3 => Sys2Proof.Machine.execDeadline a1 a2 a3 s
  | .refreshOpen a1 a2 a3 => Sys2Proof.Machine.execRefreshOpen a1 a2 a3 s
  | .refreshWindowEnd a1 => Sys2Proof.Machine.execRefreshWindowEnd a1 s
  | .forcedRefresh a1 a2 => Sys2Proof.Machine.execForcedRefresh a1 a2 s
  | .dvfsOpen a1 a2 a3 => Sys2Proof.Machine.execDvfsOpen a1 a2 a3 s
  | .pacerSwap a1 a2 a3 => Sys2Proof.Machine.execPacerSwap a1 a2 a3 s
  | .stallSwap a1 => Sys2Proof.Machine.execStallSwap a1 s
  | .schoolStep a1 a2 => Sys2Proof.Machine.execSchoolStep a1 a2 s
  | .snapshot a1 => Sys2Proof.Machine.execSnapshot a1 s
  | .timeSync a1 => Sys2Proof.Machine.execTimeSync a1 s
  | .irq a1 a2 => Sys2Proof.Machine.execIrq a1 a2 s
  | .refm a1 a2 a3 => Sys2Proof.Machine.execRefm a1 a2 a3 s
  | .refmPps a1 a2 a3 => Sys2Proof.Machine.execRefmPps a1 a2 a3 s
  | .ppsEdgeMissing a1 => Sys2Proof.Machine.execPpsEdgeMissing a1 s
  | .tenMhzLost a1 => Sys2Proof.Machine.execTenMhzLost a1 s
  | .revertTimer a1 => Sys2Proof.Machine.execRevertTimer a1 s
  | .holdLimitReached => Sys2Proof.Machine.execHoldLimitReached s
  | .timeMsgMissing a1 => Sys2Proof.Machine.execTimeMsgMissing a1 s
  | .stepNow => Sys2Proof.Machine.execStepNow s
  | .slewAnyway => Sys2Proof.Machine.execSlewAnyway s
  | .forceHoldover a1 => Sys2Proof.Machine.execForceHoldover a1 s
  | .atmEpochArm a1 a2 => Sys2Proof.Machine.execAtmEpochArm a1 a2 s
  | .gridRestore => Sys2Proof.Machine.execGridRestore s
  | .gaitShadowWrite a1 a2 => Sys2Proof.Machine.execGaitShadowWrite a1 a2 s
  | .gaitSwapArm a1 => Sys2Proof.Machine.execGaitSwapArm a1 s
  | .gaitCopyDone => Sys2Proof.Machine.execGaitCopyDone s
  | .gaitStart => Sys2Proof.Machine.execGaitStart s
  | .gaitStartTimeout => Sys2Proof.Machine.execGaitStartTimeout s
  | .capt a1 a2 a3 => Sys2Proof.Machine.execCapt a1 a2 a3 s
  | .debounceComplete a1 a2 => Sys2Proof.Machine.execDebounceComplete a1 a2 s
  | .captureDeliver a1 a2 => Sys2Proof.Machine.execCaptureDeliver a1 a2 s
  | .checkTile a1 a2 => Sys2Proof.Machine.execCheckTile a1 a2 s
  | .tileOverrun a1 => Sys2Proof.Machine.execTileOverrun a1 s
  | .fence a1 a2 => Sys2Proof.Machine.execFence a1 a2 s
  | .fenceCmd a1 => Sys2Proof.Machine.execFenceCmd a1 s
  | .persist a1 => Sys2Proof.Machine.execPersist a1 s
  | .unpersist a1 => Sys2Proof.Machine.execUnpersist a1 s
  | .reserveLoadDone a1 => Sys2Proof.Machine.execReserveLoadDone a1 s
  | .fallbackRemap a1 => Sys2Proof.Machine.execFallbackRemap a1 s
  | .girthFailWindow a1 => Sys2Proof.Machine.execGirthFailWindow a1 s
  | .cnvRatioFault a1 a2 => Sys2Proof.Machine.execCnvRatioFault a1 a2 s
  | .hnsLoad a1 => Sys2Proof.Machine.execHnsLoad a1 s
  | .harnessAccepted a1 a2 a3 a4 a5 => Sys2Proof.Machine.execHarnessAccepted a1 a2 a3 a4 a5 s
  | .hnsLoadSeg a1 => Sys2Proof.Machine.execHnsLoadSeg s a1
  | .segmentValidated a1 a2 a3 a4 => Sys2Proof.Machine.execSegmentValidated a1 a2 a3 a4 s
  | .segmentEdited => Sys2Proof.Machine.execSegmentEdited s
  | .segmentNoSwapPoint => Sys2Proof.Machine.execSegmentNoSwapPoint s
  | .hnsAbort => Sys2Proof.Machine.execHnsAbort s
  | .hnsRaiseFloor => Sys2Proof.Machine.execHnsRaiseFloor s
  | .keyBurn a1 a2 => Sys2Proof.Machine.execKeyBurn a1 a2 s
  | .keyBurnDone => Sys2Proof.Machine.execKeyBurnDone s
  | .keyRevoke a1 => Sys2Proof.Machine.execKeyRevoke a1 s
  | .stlReset a1 a2 => Sys2Proof.Machine.execStlReset a1 a2 s
  | .stlMgmtReset a1 a2 => Sys2Proof.Machine.execStlMgmtReset a1 a2 s
  | .stlQuiesce a1 a2 => Sys2Proof.Machine.execStlQuiesce a1 a2 s
  | .quiesceSet a1 => Sys2Proof.Machine.execQuiesceSet a1 s
  | .quiesceClr a1 => Sys2Proof.Machine.execQuiesceClr a1 s
  | .stallResetStepDone a1 a2 => Sys2Proof.Machine.execStallResetStepDone a1 a2 s
  | .stallResetResume a1 => Sys2Proof.Machine.execStallResetResume a1 s
  | .pstate a1 a2 a3 => Sys2Proof.Machine.execPstate a1 a2 a3 s
  | .mrd a1 a2 a3 a4 a5 a6 a7 => Sys2Proof.Machine.execMrd a1 a2 a3 a4 a5 a6 a7 s
  | .mwr a1 a2 a3 a4 a5 a6 a7 => Sys2Proof.Machine.execMwr a1 a2 a3 a4 a5 a6 a7 s
  | .rrd a1 a2 a3 a4 a5 => Sys2Proof.Machine.execRrd a1 a2 a3 a4 a5 s
  | .rwr a1 a2 a3 a4 => Sys2Proof.Machine.execRwr a1 a2 a3 a4 s
  | .pwr a1 a2 a3 a4 a5 => Sys2Proof.Machine.execPwr a1 a2 a3 a4 a5 s
  | .cpl a1 a2 a3 a4 a5 => Sys2Proof.Machine.execCpl a1 a2 a3 a4 a5 s
  | .grtRequestTimeout a1 a2 => Sys2Proof.Machine.execGrtRequestTimeout a1 a2 s
  | .queSqTail a1 a2 a3 => Sys2Proof.Machine.execQueSqTail a1 a2 a3 s
  | .descriptorRead a1 a2 a3 a4 => Sys2Proof.Machine.execDescriptorRead a1 a2 a3 a4 s
  | .jobAccepted a1 a2 => Sys2Proof.Machine.execJobAccepted a1 a2 s
  | .queSqResume a1 a2 => Sys2Proof.Machine.execQueSqResume a1 a2 s
  | .queCqHead a1 a2 a3 => Sys2Proof.Machine.execQueCqHead a1 a2 a3 s
  | .jobRunPlace a1 a2 a3 => Sys2Proof.Machine.execJobRunPlace a1 a2 a3 s
  | .commitDone a1 a2 a3 => Sys2Proof.Machine.execCommitDone a1 a2 s a3
  | .completionWrite a1 a2 => Sys2Proof.Machine.execCompletionWrite a1 a2 s
  | .cqCoalTimer a1 a2 => Sys2Proof.Machine.execCqCoalTimer a1 a2 s
  | .tileDispatch a1 a2 => Sys2Proof.Machine.execTileDispatch a1 a2 s
  | .tileTaskEnd a1 a2 a3 => Sys2Proof.Machine.execTileTaskEnd a1 a2 s a3
  | .vectorDispatch a1 a2 => Sys2Proof.Machine.execVectorDispatch a1 a2 s
  | .vectorTaskEnd a1 a2 a3 a4 => Sys2Proof.Machine.execVectorTaskEnd a1 a2 a3 s a4
  | .vectorOverrun a1 => Sys2Proof.Machine.execVectorOverrun a1 s
  | .thinDispatch a1 a2 => Sys2Proof.Machine.execThinDispatch a1 a2 s
  | .thinTaskEnd a1 a2 a3 a4 a5 => Sys2Proof.Machine.execThinTaskEnd a1 a2 a3 s a4 a5
  | .gatherEnter a1 a2 a3 => Sys2Proof.Machine.execGatherEnter a1 a2 a3 s
  | .batchWindowExpiry a1 => Sys2Proof.Machine.execBatchWindowExpiry a1 s
  | .transferDispatch a1 a2 a3 a4 => Sys2Proof.Machine.execTransferDispatch a1 a2 a3 a4 s
  | .pieceEnd a1 a2 => Sys2Proof.Machine.execPieceEnd a1 a2 s
  | .mcastHoldExpiry a1 => Sys2Proof.Machine.execMcastHoldExpiry a1 s
  | .runStallDetect a1 a2 a3 => Sys2Proof.Machine.execRunStallDetect a1 a2 a3 s
  | .transferStuck a1 => Sys2Proof.Machine.execTransferStuck a1 s
  | .quickDismount a1 => Sys2Proof.Machine.execQuickDismount a1 s
  | .dismountSwitch a1 a2 => Sys2Proof.Machine.execDismountSwitch a1 a2 s
  | .dismountFault a1 => Sys2Proof.Machine.execDismountFault a1 s
  | .contextReturn a1 a2 => Sys2Proof.Machine.execContextReturn a1 s a2
  | .stablingDone a1 a2 a3 a4 => Sys2Proof.Machine.execStablingDone a1 a2 a3 a4 s
  | .restoreDone a1 a2 a3 a4 => Sys2Proof.Machine.execRestoreDone a1 a2 a3 a4 s
  | .pcrBfly a1 a2 a3 a4 a5 a6 a7 a8 a9 a10 => Sys2Proof.Machine.execPcrBfly a1 a2 a3 a4 a5 a6 a7 a8 a9 a10 s
  | .pcrMac a1 a2 a3 a4 a5 a6 => Sys2Proof.Machine.execPcrMac a1 a2 a3 a4 a5 a6 s
  | .pcrNarrow a1 a2 a3 a4 => Sys2Proof.Machine.execPcrNarrow a1 a2 a3 a4 s
  | .pcrLoad a1 a2 a3 a4 a5 a6 => Sys2Proof.Machine.execPcrLoad a1 a2 a3 a4 a5 a6 s
  | .pcrStore a1 a2 a3 a4 a5 => Sys2Proof.Machine.execPcrStore a1 a2 a3 a4 a5 s
  | .pcrScalar a1 a2 a3 => Sys2Proof.Machine.execPcrScalar a1 a2 a3 s
  | .pcrBranch a1 a2 a3 a4 => Sys2Proof.Machine.execPcrBranch a1 a2 a3 a4 s
  | .pcrRep a1 a2 a3 a4 a5 => Sys2Proof.Machine.execPcrRep a1 a2 a3 a4 a5 s
  | .pcrBreak a1 => Sys2Proof.Machine.execPcrBreak a1 s
  | .pcrWait a1 a2 => Sys2Proof.Machine.execPcrWait a1 a2 s
  | .pcrWake a1 => Sys2Proof.Machine.execPcrWake a1 s
  | .pcrTime a1 a2 a3 => Sys2Proof.Machine.execPcrTime a1 a2 a3 s
  | .pcrTarm a1 a2 a3 a4 a5 a6 => Sys2Proof.Machine.execPcrTarm a1 a2 a3 a4 a5 a6 s
  | .pcrXpost a1 a2 a3 a4 a5 => Sys2Proof.Machine.execPcrXpost a1 a2 a3 a4 a5 s
  | .pcrRte a1 => Sys2Proof.Machine.execPcrRte a1 s
  | .pcrSwi a1 a2 => Sys2Proof.Machine.execPcrSwi a1 a2 s
  | .exceptionEntry a1 a2 => Sys2Proof.Machine.execExceptionEntry a1 a2 s
  | .pcrTimerExpire a1 a2 => Sys2Proof.Machine.execPcrTimerExpire a1 a2 s
  | .xpostDone a1 => Sys2Proof.Machine.execXpostDone a1 s
  | .pacerRestart a1 => Sys2Proof.Machine.execPacerRestart a1 s
  | .bank0LoadDone a1 => Sys2Proof.Machine.execBank0LoadDone a1 s
  | .preloadDone a1 a2 => Sys2Proof.Machine.execPreloadDone a1 a2 s
  | .samp a1 a2 a3 a4 => Sys2Proof.Machine.execSamp a1 a2 a3 a4 s
  | .agcWindow a1 => Sys2Proof.Machine.execAgcWindow a1 s
  | .agcFreezeEnd a1 => Sys2Proof.Machine.execAgcFreezeEnd a1 s
  | .invocationStart a1 a2 => Sys2Proof.Machine.execInvocationStart a1 a2 s
  | .decodeBlockEnd a1 a2 => Sys2Proof.Machine.execDecodeBlockEnd a1 a2 s
  | .reportComplete a1 => Sys2Proof.Machine.execReportComplete a1 s
  | .quietPoint a1 => Sys2Proof.Machine.execQuietPoint a1 s
  | .tapProcessDone a1 a2 => Sys2Proof.Machine.execTapProcessDone a1 a2 s
  | .candidateBuilt a1 a2 => Sys2Proof.Machine.execCandidateBuilt a1 a2 s
  | .installDone a1 a2 => Sys2Proof.Machine.execInstallDone a1 a2 s
  | .nvWriteStart a1 => Sys2Proof.Machine.execNvWriteStart a1 s
  | .nvPageWriteDone a1 a2 => Sys2Proof.Machine.execNvPageWriteDone a1 a2 s
  | .sclRead a1 a2 => Sys2Proof.Machine.execSclRead a1 a2 s
  | .sclWrite a1 a2 => Sys2Proof.Machine.execSclWrite a1 a2 s
  | .sclWriteTrial a1 a2 => Sys2Proof.Machine.execSclWriteTrial a1 a2 s
  | .sclRevertNv a1 => Sys2Proof.Machine.execSclRevertNv a1 s
  | .sclRevertInit a1 => Sys2Proof.Machine.execSclRevertInit a1 s
  | .sclHold a1 => Sys2Proof.Machine.execSclHold a1 s
  | .sclRelease a1 => Sys2Proof.Machine.execSclRelease a1 s
  | .sclXferDone a1 => Sys2Proof.Machine.execSclXferDone a1 s
  | .tthTrainPhaseEnd a1 a2 a3 a4 => Sys2Proof.Machine.execTthTrainPhaseEnd a1 a2 a3 a4 s
  | .tthFastRetrain a1 => Sys2Proof.Machine.execTthFastRetrain a1 s
  | .tthFailedRetry a1 => Sys2Proof.Machine.execTthFailedRetry a1 s
  | .tthCtlRetrain a1 => Sys2Proof.Machine.execTthCtlRetrain a1 s
  | .tthFullTrain a1 => Sys2Proof.Machine.execTthFullTrain a1 s
  | .tthCodewordDecoded a1 a2 => Sys2Proof.Machine.execTthCodewordDecoded a1 a2 s
  | .hello a1 a2 a3 a4 a5 a6 => Sys2Proof.Machine.execHello a1 a2 a3 a4 a5 a6 s
  | .ready a1 => Sys2Proof.Machine.execReady a1 s
  | .retrainReq a1 => Sys2Proof.Machine.execRetrainReq a1 s
  | .disable a1 => Sys2Proof.Machine.execDisable a1 s
  | .tthDataFrame a1 a2 => Sys2Proof.Machine.execTthDataFrame a1 a2 s
  | .tthIdleFrame a1 a2 => Sys2Proof.Machine.execTthIdleFrame a1 a2 s
  | .tthTimeFrame a1 a2 => Sys2Proof.Machine.execTthTimeFrame a1 a2 s
  | .tthDeliver a1 a2 a3 => Sys2Proof.Machine.execTthDeliver a1 a2 a3 s
  | .tthCodewordSlot a1 a2 a3 => Sys2Proof.Machine.execTthCodewordSlot a1 a2 a3 s
  | .tthRtoExpire a1 a2 => Sys2Proof.Machine.execTthRtoExpire a1 a2 s
  | .tthTxTail a1 a2 a3 => Sys2Proof.Machine.execTthTxTail a1 a2 a3 s
  | .tthLqWindow a1 a2 a3 => Sys2Proof.Machine.execTthLqWindow a1 a2 a3 s
  | .tthRcUpdate a1 => Sys2Proof.Machine.execTthRcUpdate a1 s
  | .tthRcSnapshot a1 => Sys2Proof.Machine.execTthRcSnapshot a1 s
  | .tthMarkerRx a1 a2 a3 a4 => Sys2Proof.Machine.execTthMarkerRx a1 a2 a3 a4 s
  | .tthMktSend a1 a2 => Sys2Proof.Machine.execTthMktSend a1 a2 s
  | .tofs a1 a2 a3 a4 a5 => Sys2Proof.Machine.execTofs a1 a2 a3 a4 a5 s
  | .grtFlitRx a1 a2 => Sys2Proof.Machine.execGrtFlitRx a1 a2 s
  | .grtFlitSlot a1 => Sys2Proof.Machine.execGrtFlitSlot a1 s
  | .grtReplayTimeout a1 => Sys2Proof.Machine.execGrtReplayTimeout a1 s
  | .grtRetrain a1 a2 => Sys2Proof.Machine.execGrtRetrain a1 a2 s
  | .grtCtlRetrain a1 => Sys2Proof.Machine.execGrtCtlRetrain a1 s
  | .grtTrainingPhaseEnd a1 a2 a3 => Sys2Proof.Machine.execGrtTrainingPhaseEnd a1 a2 a3 s
  | .timeSend a1 => Sys2Proof.Machine.execTimeSend a1 s
  | .time a1 a2 a3 a4 => Sys2Proof.Machine.execTime a1 a2 a3 a4 s
  | .tact a1 a2 a3 a4 => Sys2Proof.Machine.execTact a1 a2 a3 a4 s
  | .sysrefEdge a1 a2 => Sys2Proof.Machine.execSysrefEdge a1 a2 s
  | .rxcResync a1 => Sys2Proof.Machine.execRxcResync a1 s
  | .jesdLaneLoss a1 a2 a3 => Sys2Proof.Machine.execJesdLaneLoss a1 a2 a3 s
  | .setAddr a1 => Sys2Proof.Machine.execSetAddr a1 s
  | .read => Sys2Proof.Machine.execRead s
  | .trlStatus => Sys2Proof.Machine.execTrlStatus s
  | .trlSeek a1 => Sys2Proof.Machine.execTrlSeek a1 s
  | .trlNext => Sys2Proof.Machine.execTrlNext s
  | .snapStatus => Sys2Proof.Machine.execSnapStatus s
  | .snapSeek a1 => Sys2Proof.Machine.execSnapSeek a1 s
  | .snapNext => Sys2Proof.Machine.execSnapNext s
  | .faultSummary => Sys2Proof.Machine.execFaultSummary s
  | .smbusUnknown a1 a2 => Sys2Proof.Machine.execSmbusUnknown a1 a2 s
  | .pmbusPoll a1 a2 a3 => Sys2Proof.Machine.execPmbusPoll a1 a2 a3 s
  | .railNoAnswer a1 => Sys2Proof.Machine.execRailNoAnswer a1 s
  | .tapReset => Sys2Proof.Machine.execTapReset s
  | .extest a1 => Sys2Proof.Machine.execExtest a1 s
  | .idcode a1 => Sys2Proof.Machine.execIdcode a1 s
  | .samplePreload a1 a2 a3 => Sys2Proof.Machine.execSamplePreload a1 a2 a3 s
  | .clamp a1 => Sys2Proof.Machine.execClamp a1 s
  | .highz a1 => Sys2Proof.Machine.execHighz a1 s
  | .fuseRead a1 => Sys2Proof.Machine.execFuseRead a1 s
  | .bistRun a1 a2 => Sys2Proof.Machine.execBistRun a1 a2 s
  | .bistSts a1 => Sys2Proof.Machine.execBistSts a1 s
  | .bypass a1 => Sys2Proof.Machine.execBypass a1 s
  | .groomMismatch a1 => Sys2Proof.Machine.execGroomMismatch a1 s
  | .comparatorTest a1 a2 => Sys2Proof.Machine.execComparatorTest a1 a2 s
  | .groomWatchdog a1 => Sys2Proof.Machine.execGroomWatchdog a1 s
  | .groomRestartCmd a1 a2 => Sys2Proof.Machine.execGroomRestartCmd a1 a2 s
  | .groomRestartStepDone a1 a2 => Sys2Proof.Machine.execGroomRestartStepDone a1 a2 s
  | .grmStage => Sys2Proof.Machine.execGrmStage s
  | .grmStageDone a1 => Sys2Proof.Machine.execGrmStageDone a1 s
  | .grmApply => Sys2Proof.Machine.execGrmApply s
  | .updateStepTimer => Sys2Proof.Machine.execUpdateStepTimer s
  | .grmAbort => Sys2Proof.Machine.execGrmAbort s
  | .grmRaiseFloor => Sys2Proof.Machine.execGrmRaiseFloor s
  | .throttleEnter a1 a2 => Sys2Proof.Machine.execThrottleEnter a1 a2 s
  | .throttleEnd => Sys2Proof.Machine.execThrottleEnd s
  | .trip a1 a2 a3 => Sys2Proof.Machine.execTrip a1 a2 a3 s
  | .tripRecovery => Sys2Proof.Machine.execTripRecovery s
  | .pwrBudgetWrite a1 => Sys2Proof.Machine.execPwrBudgetWrite a1 s
  | .migrationForPark a1 => Sys2Proof.Machine.execMigrationForPark a1 s
  | .trailWrite a1 => Sys2Proof.Machine.execTrailWrite s a1
  | .trlUnfreeze a1 => Sys2Proof.Machine.execTrlUnfreeze a1 s
  | .trlFreeze => Sys2Proof.Machine.execTrlFreeze s
  | .powerFail => Sys2Proof.Machine.execPowerFail s
  | .trailSnapshotDone a1 => Sys2Proof.Machine.execTrailSnapshotDone a1 s
  | .powerOn => Sys2Proof.Machine.execPowerOn s
  | .pwrOkRise a1 => Sys2Proof.Machine.execPwrOkRise a1 s
  | .pwrOkFall => Sys2Proof.Machine.execPwrOkFall s
  | .crstN a1 => Sys2Proof.Machine.execCrstN a1 s
  | .wrstN => Sys2Proof.Machine.execWrstN s
  | .bootRstWarm a1 => Sys2Proof.Machine.execBootRstWarm a1 s
  | .bootRstCold a1 a2 => Sys2Proof.Machine.execBootRstCold a1 a2 s
  | .bringupPhaseDone a1 => Sys2Proof.Machine.execBringupPhaseDone a1 s
  | .warmResetStepDone a1 a2 => Sys2Proof.Machine.execWarmResetStepDone a1 a2 s
  | .registerWrite a1 a2 a3 a4 a5 => Sys2Proof.Machine.execRegisterWrite a1 a2 a3 a4 a5 s
  | .cnvRatioRestored a1 => Sys2Proof.Machine.execCnvRatioRestored a1 s
  | .jesdLaneSync a1 a2 => Sys2Proof.Machine.execJesdLaneSync a1 a2 s
  | .groomMemUe a1 => Sys2Proof.Machine.execGroomMemUe a1 s
  | .pcrLaneArith a1 a2 a3 a4 a5 => Sys2Proof.Machine.execPcrLaneArith a1 a2 a3 a4 a5 s
  | .channelCommandFault a1 => Sys2Proof.Machine.execChannelCommandFault a1 s
  | .tthWakeBurstTimer a1 => Sys2Proof.Machine.execTthWakeBurstTimer a1 s

end Sys2Proof.Machine
end

