-- ==== Sys2Proof/Safety.lean ====
section
/-!
DEFINITION. The words in which the statements speak of a step: what a safe step is, the invariant, and what a command leaves
alone.
-/
namespace Sys2Proof

open Machine

/-- A step that answers a next state. -/
def Safe (s : State) : Prop := ∃ t, step s = .next t

/-- The invariant: device memory is in its canonical form, and no burn of a slot that is already BURNED runs (R116). -/
def Inv (s : State) : Prop :=
  Memory.wf s.mem.hbm ∧ ∀ k h, s.loader.burning = some (k, h) → s.fuses.burned.getLsbD k = false

/-- Both states hold the same compute units, their memories and contents. -/
def UnitsKept (s t : State) : Prop :=
  t.arrays = s.arrays ∧ t.vecs = s.vecs ∧ t.paths = s.paths ∧ t.feeders = s.feeders ∧ t.mem = s.mem ∧ t.cores = s.cores
    ∧ t.decoders = s.decoders ∧ t.clusters = s.clusters ∧ t.school = s.school

/-- Both states hold the same assembly, harness, ports and power state. -/
def PartKept (s t : State) : Prop :=
  t.pending = s.pending ∧ t.fuses = s.fuses ∧ t.fencing = s.fencing ∧ t.hns = s.hns ∧ t.accepted = s.accepted ∧ t.loader = s.loader
    ∧ t.boot = s.boot ∧ t.power = s.power ∧ t.grooms = s.grooms ∧ t.grm = s.grm ∧ t.ports = s.ports ∧ t.funcs = s.funcs

/-- R80 to R82 (Table 2-8), R193. A fence of an array in service: the array is stopped and isolated, its memories and tokens are
lost, and no job run stays placed on it; the fence is counted with its array and cause. Nothing of device memory and no
memory of another array changes. -/
def FencesArray (s t : State) (n : Nat) (cause : BitVec 4) : Prop :=
  t.fencing.fenced = setBit s.fencing.fenced n true ∧ t.fencing.lastArray = BitVec.ofNat 3 n ∧ t.fencing.lastCause = cause
    ∧ t.fencing.count = satInc s.fencing.count ∧ t.fencing.persisted = s.fencing.persisted
    ∧ (getArr t n).run = none ∧ (getVec t n).run = none ∧ (getArr t n).main = [] ∧ (getArr t n).acc = [] ∧ (getArr t n).tokens = []
    ∧ (∀ i, i < 16 → ∀ r ∈ (getStall t i).runs, r.array ≠ some n)
    ∧ (∀ m, m ≠ n → (getArr t m).main = (getArr s m).main ∧ (getArr t m).tokens = (getArr s m).tokens)
    ∧ t.mem.hbm = s.mem.hbm ∧ t.cores = s.cores

/-- `s` once a half write that the function of stall `i` held is dropped, as any other write of it drops it (R20). -/
def unheld (s : State) (i : Nat) : State := dropHold s (stallPort s i) (stallFn s i)

/-- The device-management block takes S0's writes: S0 is neither FAULTED nor RESETTING and no warm reset restores, and a register that
responds only from the first acceptance on has had it (R26, R168, R646, R669). -/
def MgmtOpen (s : State) : Prop := mgmtBlocked s = false ∧ restoring s = false ∧ s.accepted = true
def MgmtOpenEarly (s : State) : Prop := mgmtBlocked s = false ∧ restoring s = false

/-- A pacer core is about to execute an instruction: it runs, no exception is pending at it, and the instruction under its
program counter is of a defined format (R371, R384, Table 11-4). -/
def Issues (s : State) (n : Nat) : Prop :=
  (getCore s n).st = .running ∧ (getCore s n).sync = none ∧ formatAt (getCore s n) (getCore s n).pc.toNat < 6

/-- Nothing but one core and the draws of free values separates `t` from `s`. -/
def CoreOnly (s t : State) (n : Nat) : Prop :=
  (∀ m, m ≠ n → getCore t m = getCore s m) ∧ t = { s with cores := t.cores, free := t.free }

/-- The next instruction in order, where no block repeat is open (R375). -/
def pcAfter (c : PCore) : BitVec 15 := c.pc + BitVec.ofNat 15 (4 * wordsAt c c.pc.toNat)

/-- `s`, but for what reporting a fault or an event may change, which is as in `t`: what has gone out and what waits for a
host or a peer die, the trail, the fault summary, and the GUARANTEE marks of slots (R143, R346, R612). -/
def told (s t : State) : State :=
  { s with sent := t.sent, stalls := t.stalls, girths := t.girths, carriers := t.carriers, trail := t.trail, flt := t.flt }

/-- Nothing but reporting separates `t` from `s`. -/
def ToldOnly (s t : State) : Prop := t = told s t

/-- The commands in which device memory may change: those that move data or commit it, those in which a network record comes into
force, those that an access to a window or a register makes or that let one that waited go on, and those that begin or end a
reset or a load (R148, R152, R172, R203, R341, R441, R563). -/
def mayWriteMemory : Instr → Bool
  | .airTick .. => true
  | .frameBoundary .. => true
  | .tileTaskEnd .. => true
  | .thinTaskEnd .. => true
  | .pieceEnd .. => true
  | .commitDone .. => true
  | .decodeBlockEnd .. => true
  | .deadline .. => true
  | .reportComplete .. => true
  | .quietPoint .. => true
  | .installDone .. => true
  | .tapProcessDone .. => true
  | .stablingDone .. => true
  | .stallResetStepDone .. => true
  | .harnessAccepted .. => true
  | .stallSwap .. => true
  | .powerOn .. => true
  | .pwrOkRise .. => true
  | .trailSnapshotDone .. => true
  | .warmResetStepDone .. => true
  | .tripRecovery .. => true
  | .registerWrite .. => true
  | .mrd .. => true
  | .mwr .. => true
  | .rrd .. => true
  | .rwr .. => true
  | .pwr .. => true
  | .grtTrainingPhaseEnd .. => true
  | .girthFailWindow .. => true
  | _ => false

end Sys2Proof
end

