-- ==== Sys2Proof/Certificates/Slice0/Obligations.lean ====
section
/-!
DEFINITION. The statements for the provers: what each command and the block do, by the rules of spec/.
-/
open Sys2Proof Sys2Proof.Machine

/-- The block takes commands first in, first out: a step with a command at the front of the queue is that command with the queue's
rest. On an empty queue it idles, which is the model's choice (notes/assumptions/1.md). -/
def Obligations.StepRunsFront : Prop := ∀ (c : Instr) (s : State) (rest : List Instr),
  step { s with pending := c :: rest } = exec c { s with pending := rest } ∧ step { s with pending := [] } = .next { s with pending := [] }

/-- R19, R29, R30, R35, R51, R58, R116, R126. Right after reset: nothing is accepted, the air counters read 0 in FREERUN, the
registers that the spec resets to 0 do, and the invariant holds. That nothing waits in the queue and that no byte of memory is
listed are the model's (notes/assumptions/1.md, notes/assumptions/5.md). -/
def Obligations.ResetMeetsInvariant : Prop :=  Inv State.reset ∧ State.reset.accepted = false ∧ State.reset.air.tick = 0 ∧ State.reset.air.frame = 0 ∧ State.reset.air.hyper = 0
    ∧ State.reset.air.abs = 0 ∧ State.reset.air.state = .freerun ∧ State.reset.loader.errCode = 0 ∧ State.reset.loader.loadCnt = 0
    ∧ State.reset.trail.wr = 0 ∧ State.reset.trail.frozen = false ∧ State.reset.fencing.fenced = 0
    ∧ State.reset.pending = [] ∧ State.reset.mem.hbm = []

/-- R116. From every state that meets the invariant the step answers a next state, and that state meets it: device memory keeps its
canonical form, and no slot that is BURNED is burned again. -/
def Obligations.StepKeepsInvariant : Prop := ∀ (s : State), Inv s → ∃ t, step s = .next t ∧ Inv t

/-- R3, R78, R116, R126, R592. What no command takes back: the units of the fuse map stay what they are; a BURNED or REVOKED bit is
never cleared and the hash of a BURNED slot never changes; HNS_FLOOR and GRM_FLOOR never fall. No command touches the queue. -/
def Obligations.FusesAndFloorsLast : Prop := ∀ (c : Instr) (s : State), Inv s → ∃ t, exec c s = .next t
  ∧ t.fuses.arrEn = s.fuses.arrEn ∧ t.fuses.stackEn = s.fuses.stackEn ∧ t.fuses.iodEn = s.fuses.iodEn ∧ t.fuses.pcrEn = s.fuses.pcrEn
  ∧ t.fuses.decEn = s.fuses.decEn
  ∧ (∀ k, s.fuses.burned.getLsbD k = true → t.fuses.burned.getLsbD k = true)
  ∧ (∀ k, s.fuses.revoked.getLsbD k = true → t.fuses.revoked.getLsbD k = true)
  ∧ (s.fuses.burned.getLsbD 0 = true → t.fuses.hash0 = s.fuses.hash0) ∧ (s.fuses.burned.getLsbD 1 = true → t.fuses.hash1 = s.fuses.hash1)
  ∧ s.loader.floor.toNat ≤ t.loader.floor.toNat ∧ s.grm.floor.toNat ≤ t.grm.floor.toNat ∧ t.pending = s.pending

/-- R148, R152, R172, R341. Which commands may change a byte of device memory: every other command leaves every byte as it was. -/
def Obligations.MemoryFrame : Prop := ∀ (c : Instr) (s : State), mayWriteMemory c = false →
  ∃ t, exec c s = .next t ∧ t.mem.hbm = s.mem.hbm ∧ ∀ key, tget 0 t.mem.hbm key = tget 0 s.mem.hbm key

/-- R364. Registers of a number below 32 never rotate; one from 32 to 63 is the physical register 32 + ((n − 32 − rrb) mod 32), read
and written; and with rrb incremented a value written to one from 32 to 62 is read as the next. -/
def Obligations.RegistersRotate : Prop := ∀ (c : PCore) (n : BitVec 6) (v : BitVec 128),
  (n.toNat < 32 → getD c n = tget 0 c.d n.toNat ∧ setD c n v = { c with d := tset 0 c.d n.toNat v }) ∧
  (32 ≤ n.toNat → getD c n = tget 0 c.d (32 + (((n.toNat : Int) - 32 - (c.rrb.toNat : Int)) % 32).toNat)
    ∧ setD c n v = { c with d := tset 0 c.d (32 + (((n.toNat : Int) - 32 - (c.rrb.toNat : Int)) % 32).toNat) v }) ∧
  (32 ≤ n.toNat → n.toNat ≤ 62 → getD { setD c n v with rrb := c.rrb + 1 } (n + 1) = v)

/-- R544. The compute die advertises 64, 128, 128 and 32 credits; an I/O die that advertises fewer than 32, 64, 64 and 16 fails
training, and one that advertises enough has its link ACTIVE, after which the requests that waited for the link go on (R574). -/
def Obligations.GirthCreditsAdvertised : Prop := ∀ (s : State) (g : Fin 2) (param : GirthParam),
  (getGirth s g.val).state = .training ∨ (getGirth s g.val).state = .retrain → (getGirth s g.val).phase = .param →
  ((∃ v, v < 4 ∧ (param.credInit.getD v 0).toNat < ([32, 64, 64, 16] : List Nat).getD v 0) →
    ∃ t, exec (.grtTrainingPhaseEnd g 0 param) s = .next t ∧ (getGirth t g.val).state ≠ .active
      ∧ ((getGirth s g.val).full = true → (getGirth t g.val).state = .failed) ∧ UnitsKept s t) ∧
  ((∀ v, v < 4 → ([32, 64, 64, 16] : List Nat).getD v 0 ≤ (param.credInit.getD v 0).toNat) → param.cls = 2 → param.format = 1 →
    (getGirth s g.val).full = true → ∃ u, exec (.grtTrainingPhaseEnd g 0 param) s = .next ((getGirth s g.val).held.foldl runHeld u)
      ∧ (getGirth u g.val).state = .active ∧ (getGirth u g.val).held = []
      ∧ (∀ v, v < 4 → tget 0 (getGirth u g.val).granted v = ([64, 128, 128, 32] : List W16).getD v 0
        ∧ tget 0 (getGirth u g.val).limit v = param.credInit.getD v 0)
      ∧ (∀ h, h ≠ g.val → getGirth u h = getGirth s h) ∧ u = { s with girths := u.girths })

/-- R29. Outside a lengthened or shortened frame AIR_TICK counts TICK and ATM_ABS_TICK on by one within a frame; at tick 1,228,799
it is the frame boundary: TICK returns to 0, FRAME counts on, and HYPER with it where FRAME passes from 1,023 to 0. R29, R66.
FRAME_BOUNDARY at the last tick of an ordinary frame returns TICK to 0 and counts FRAME on; an armed bank swap of that frame
takes place (R53, R66), and a decided step comes one boundary nearer (R39). -/
def Obligations.AirClockAndFrames : Prop :=
  (∀ (s : State) (bad : List (BitVec 12)), s.air.stepIn = none → s.air.ended = false → s.air.numbering = none →
  (s.air.tick.toNat < 1228799 → ∃ t, exec (.airTick bad) s = .next t ∧ t.air.tick = s.air.tick + 1 ∧ t.air.frame = s.air.frame
    ∧ t.air.hyper = s.air.hyper ∧ t.air.abs = s.air.abs + 1 ∧ t.now = s.now + 1) ∧
  (s.air.tick.toNat = 1228799 → ∃ t, exec (.airTick bad) s = .next t ∧ t.air.tick = 0 ∧ t.air.frame = s.air.frame + 1
    ∧ t.air.hyper = (if s.air.frame = 1023 then s.air.hyper + 1 else s.air.hyper) ∧ t.air.abs = s.air.abs + 1 ∧ t.now = s.now + 1)) ∧
  (∀ (s : State) (bad : List (BitVec 12)), s.air.tick.toNat = 1228799 → s.air.ended = false →
  s.air.stepIn ≠ some 1 → s.air.numbering = none →
  ∃ t, exec (.frameBoundary bad) s = .next t ∧ t.air.tick = 0 ∧ t.air.frame = s.air.frame + 1 ∧ t.air.abs = s.air.abs + 1
    ∧ (s.air.stepIn = some 2 → t.air.stepIn = some 1)
    ∧ (s.air.swapFrame = some (s.air.frame + 1) → t.air.activeBank = (!s.air.activeBank) ∧ t.air.copying = true)
    ∧ (s.air.swapFrame = none → t.air.activeBank = s.air.activeBank))

/-- R33, R553, R672 (Table 1-2). How the commands of the references qualify and lose a candidate; a message acts when none that must
be taken before it waits (R546). -/
def Obligations.CandidateQualification : Prop := ∀ s : State,
  (∀ iod : Fin 2, ∃ t, exec (.tenMhzLost iod) s = .next t ∧ (getCand t iod.val).qualified = false
    ∧ (getCand t iod.val).tenMHz = false ∧ UnitsKept s t ∧ PartKept s t) ∧
  (∀ (iod : Fin 2) stamp, msgBlocked s iod.val 0x34 = false →
    (∃ t, exec (.refm iod stamp true) s = .next t ∧ (getCand t iod.val).tenMHz = true ∧ UnitsKept s t ∧ PartKept s t) ∧
    (∃ t, exec (.refm iod stamp false) s = .next t ∧ (getCand t iod.val).qualified = false ∧ (getCand t iod.val).tenMHz = false
      ∧ UnitsKept s t ∧ PartKept s t)) ∧
  (∀ iod : Fin 2, (getCand s iod.val).qualified = true → ∃ t, exec (.ppsEdgeMissing iod) s = .next t
    ∧ (getCand t iod.val).qualified = (!s.air.forceHoldover && decide ((getCand s iod.val).missed = 0)) ∧ UnitsKept s t ∧ PartKept s t) ∧
  (∀ port : Fin 4, ((getTth s port.val).msgInterval ≠ 0 → ∃ a, (getTth s port.val).msgAt = some a ∧ a + (getTth s port.val).msgInterval.toNat + 12288 ≤ s.now) →
    ((getTth s port.val).msgInterval = 0 → ∃ a, (getTth s port.val).msgAt = some a ∧ a + 2457600 ≤ s.now) →
    ∃ t, exec (.timeMsgMissing port) s = .next t
      ∧ (3 ≤ (getCand s (port.val + 2)).missed → (getCand t (port.val + 2)).qualified = false)
      ∧ ((getCand s (port.val + 2)).missed < 3 → s.air.forceHoldover = false →
          (getCand t (port.val + 2)).missed = (getCand s (port.val + 2)).missed + 1) ∧ UnitsKept s t ∧ PartKept s t) ∧
  (∀ (iod : Fin 2) stamp (cycles : W32), msgBlocked s iod.val 0x34 = false → (getCand s iod.val).seen = true →
    (getCand s iod.val).qualified = false → (getCand s iod.val).tenMHz = true → 9999999 ≤ cycles.toNat → cycles.toNat ≤ 10000001 →
    3 ≤ (getCand s iod.val).good → s.air.forceHoldover = false →
    ∃ t, exec (.refmPps iod stamp cycles) s = .next t ∧ (getCand t iod.val).qualified = true ∧ UnitsKept s t ∧ PartKept s t) ∧
  (∀ (port : Fin 4) t1 offset delay, msgBlocked s (port.val / 2) 0x35 = false → s.air.forceHoldover = false →
    (getTth s port.val).state = .up → 15 ≤ (getCand s (port.val + 2)).good →
    ∃ t, exec (.tofs port t1 offset delay true) s = .next t ∧ (getCand t (port.val + 2)).qualified = true
      ∧ (getTth t port.val).timeOfs = offset.setWidth 32 ∧ (getTth t port.val).timeDly = delay ∧ UnitsKept s t ∧ PartKept s t)

/-- R34. With REVERTIVE set, REVERT_TIMER moves the reference to a higher-priority candidate that has stayed qualified for 60 s,
through re-lock (ACQUIRE). R38. When the holdover estimate of a holdover first reaches HOLD_LIMIT, HOLD_EXPIRED is set and the
holdover fault is raised; the counters stay. R39, R43, R64. S0's commands to the reference: STEP_NOW and SLEW_ANYWAY act in
STEP_PENDING, FORCE_HOLDOVER loses every candidate, ATM_EPOCH is armed. -/
def Obligations.ReferenceStatesAndCommands : Prop :=
  (∀ (s : State) (cand i : Fin 4) (src : Nat), s.air.active = some i → cand.val < i.val →
  candOf s cand.val = some src → s.hns.time.revertive = true → (getCand s src).qualified = true →
  (getCand s src).since + 60 * 122880000 ≤ s.now →
  ∃ t, exec (.revertTimer cand) s = .next t ∧ t.air.active = some cand ∧ t.air.state = .acquire ∧ UnitsKept s t ∧ PartKept s t) ∧
  (∀ s : State, s.air.state = .holdover → s.hns.time.holdLimit.toNat * 8 ≤ holdEst s →
  s.air.holdDone = false →
  ∃ t, exec .holdLimitReached s = .next t ∧ t.air.holdExpired = true ∧ t.flt.holdover = true ∧ t.air.tick = s.air.tick
    ∧ t.air.state = .holdover ∧ UnitsKept s t ∧ PartKept s t) ∧
  (∀ s : State, MgmtOpen s →
  (s.air.state = .stepPending → ∃ t, exec .stepNow s = .next t ∧ t.air.state = .acquire ∧ t.air.stepIn = some 2 ∧ UnitsKept s t
    ∧ PartKept (unheld s 0) t) ∧
  (s.air.state = .stepPending → 16 < s.air.phaseErr.natAbs →
    ∃ t, exec .slewAnyway s = .next t ∧ t.air.state = .slewing ∧ t.air.stepIn = s.air.stepIn ∧ UnitsKept s t ∧ PartKept (unheld s 0) t) ∧
  (∃ t, exec (.forceHoldover true) s = .next t ∧ t.air.forceHoldover = true
    ∧ (∀ src, src < 6 → (getCand t src).qualified = false) ∧ UnitsKept s t ∧ PartKept (unheld s 0) t) ∧
  (∃ t, exec (.forceHoldover false) s = .next t ∧ t.air.forceHoldover = false ∧ t.air.cands = s.air.cands ∧ UnitsKept s t
    ∧ PartKept (unheld s 0) t) ∧
  (∀ frame hyper, ∃ t, exec (.atmEpochArm frame hyper) s = .next t ∧ t.air.epochArm = true ∧ t.air.epochFrame = frame
    ∧ t.air.epochHyper = hyper ∧ t.air.cands = s.air.cands ∧ UnitsKept s t ∧ PartKept (unheld s 0) t))

/-- R20, R26, R168, R646. While S0 is FAULTED or RESETTING the management block refuses writes: the command is counted for S0, and
beside a half write that its function held, which any write drops, nothing else changes. -/
def Obligations.ManagementRefused : Prop := ∀ s : State, mgmtBlocked s = true → restoring s = false → ∀ c : Instr,
  c ∈ [Instr.stepNow, .slewAnyway, .forceHoldover true, .forceHoldover false, .hnsLoad false, .hnsLoad true, .hnsLoadSeg 0, .hnsAbort,
       .hnsRaiseFloor, .grmStage, .grmApply, .grmAbort, .grmRaiseFloor, .trlFreeze] →
  exec c s = .next (accErr (unheld s 0) 0)

/-- R52, R53. G3's work on the gait banks. A write of the ACTION of an EDIT entry, to NOP or to the harness's action, changes that
entry of the shadow bank and nothing else; a forbidden write changes no entry and is the gait edit fault. A bank swap is armed
for a frame, and the end of the copy clears COPYING with the shadow bank equal to the active one. R648. The sequencer starts at
the first frame boundary after its start is armed; without a lock for 10 s after acceptance the start is armed in FREERUN. -/
def Obligations.GaitBanksAndSequencer : Prop :=
  (∀ s : State,
  (groomUp s 3 = true → ∀ (index : BitVec 12) entry h, s.accepted = true → s.air.copying = false → (editGait s)[index.toNat]? = some h → gEdit h = true →
    index.toNat < (shadowGait s.air).entries.length → (entry = h ∨ entry = h &&& ~~~ place 64 21 (0x3F : BitVec 6)) →
    ∃ t, exec (.gaitShadowWrite index entry) s = .next t ∧ (shadowGait t.air).entries[index.toNat]? = some entry
      ∧ (∀ j, j ≠ index.toNat → (shadowGait t.air).entries[j]? = (shadowGait s.air).entries[j]?)
      ∧ activeGait t.air = activeGait s.air ∧ t = { s with air := t.air }) ∧
  (groomUp s 3 = true → ∀ (index : BitVec 12) entry, (s.air.copying = true ∨ ∀ h, (editGait s)[index.toNat]? = some h → gEdit h = false) →
    ∃ t, exec (.gaitShadowWrite index entry) s = .next t ∧ t.flt.gaitEdit = true ∧ ToldOnly s t) ∧
  (∀ frame, groomUp s 3 = true → s.accepted = true →
    ∃ t, exec (.gaitSwapArm frame) s = .next t ∧ t.air.swapFrame = some frame ∧ t = { s with air := { s.air with swapFrame := some frame } }) ∧
  (s.air.copying = true → ∃ t, exec .gaitCopyDone s = .next t ∧ t.air.copying = false ∧ shadowGait t.air = activeGait s.air
    ∧ activeGait t.air = activeGait s.air ∧ t = { s with air := t.air })) ∧
  (∀ s : State,
  (s.accepted = true → s.air.startArmed = true → s.air.running = false → s.air.tick = 0 →
    ∃ t, exec .gaitStart s = .next t ∧ t.air.running = true ∧ t.air.startArmed = false ∧ t.air.tick = 0 ∧ t.air.frame = s.air.frame
      ∧ t.air.abs = s.air.abs ∧ t.hns = s.hns ∧ t.accepted = true ∧ t.mem = s.mem ∧ t.arrays = s.arrays ∧ t.cores = s.cores) ∧
  (∀ t0, s.accepted = true → s.air.running = false → s.air.acceptedAt = some t0 → t0 + 10 * 122880000 ≤ s.now →
    ∃ t, exec .gaitStartTimeout s = .next t ∧ t = { s with air := { s.air with startArmed := true } }))

/-- R50, R67. An action command carries out the first entry issued for it, which leaves the issued ones and nothing else changes;
while an entry of the same tick for the same target stands before it, none takes effect and the state stays. An action that no
entry asks for acts as one issued now, by the model's choice (notes/assumptions/12.md). R47 (Table 1-5), R143, R149. An IRQ
action raises the vector of the stall's function: sent where the vector is unmasked, pending where it is masked, held while the
stall is unreachable. R59, R60, R62, R552 (Table 1-8). A transition that an I/O die reports starts a debounce in every detector
whose configuration at that sample selects its source and its polarity, with the detector's DEBOUNCE and the capture record of
Table 1-8, ends one under way on that source that has not held long enough, and leaves detectors that watch other sources alone.
R60, R61. A transition that has held for DEBOUNCE ticks becomes a capture record: it enters the detector's queue of eight, and a
record that finds the queue full is dropped with the overflow flag set. -/
def Obligations.GaitEventsAndCaptures : Prop :=
  (∀ (s : State) action target arg,
  (∀ g, issuedAct s action target arg = some g →
    ((∀ x ∈ s.air.issued.takeWhile (fun x => x != g), ¬ (x.due = g.due ∧ sameTarget x.entry g.entry = true)) →
      takeAct s action target arg = some (g, { s with air := { s.air with issued := s.air.issued.erase g } })) ∧
    ((∃ x ∈ s.air.issued.takeWhile (fun x => x != g), x.due = g.due ∧ sameTarget x.entry g.entry = true) → takeAct s action target arg = none)) ∧
  (issuedAct s action target arg = none → takeAct s action target arg = some (actNow s action target, gaitSwapTick s (actNow s action target))) ∧
  (∀ (stall : Fin 16) (vector : BitVec 11), takeAct s 0x0A (BitVec.ofNat 8 stall.val) (fun a => bits a 0 11 == vector) = none →
    exec (.irq stall vector) s = .next s)) ∧
  (∀ (s : State) (stall : Fin 16) (vector : BitVec 11) g u,
  takeAct s 0x0A (BitVec.ofNat 8 stall.val) (fun a => bits a 0 11 == vector) = some (g, u) → (getStall s stall.val).state ≠ .absent →
  (unreachable s stall.val = true → ∃ t, exec (.irq stall vector) s = .next t
    ∧ (getStall t stall.val).heldIrq = (getStall s stall.val).heldIrq ++ [vector] ∧ t = { u with stalls := t.stalls }) ∧
  (unreachable s stall.val = false → tget false (getStall s stall.val).msixOpen vector.toNat = false →
    ∃ t, exec (.irq stall vector) s = .next t ∧ tget false (getStall t stall.val).msixPend vector.toNat = true
    ∧ t = { u with stalls := t.stalls }) ∧
  (unreachable s stall.val = false → tget false (getStall s stall.val).msixOpen vector.toNat = true →
    ∃ t, exec (.irq stall vector) s = .next t
    ∧ t.sent = .msix stall.val vector (tget 0 (getStall s stall.val).msixAddr vector.toNat)
        (tget 0 (getStall s stall.val).msixData vector.toNat) :: s.sent
    ∧ ToldOnly u t)) ∧
  ((∀ (s : State) (source : BitVec 4) (stamp : W64) (rise : Bool) (cluster : Fin 6) (det : Fin 4) d at8,
    d = getDet (getCluster s cluster.val) det.val → at8 = stampEighths s.air stamp → msgBlocked s (sourceIod (source.setWidth 8)) 0x32 = false →
    ∃ t, exec (.capt source stamp rise) s = .next t ∧ ToldOnly { s with clusters := t.clusters } t ∧
      (d.pends = [] → (cfgAt d at8).source = source.setWidth 8 → bit (cfgAt d at8).polarity (if rise then 0 else 1) = true →
        (getDet (getCluster t cluster.val) det.val).queue = d.queue ∧ (getDet (getCluster t cluster.val) det.val).pends =
          [{ source := source.setWidth 8, at8 := at8, debounce := (cfgAt d at8).debounce.toNat,
             record := captRecord stamp rise (genAt (getCluster s cluster.val) at8) det.val }]) ∧
      (∀ p, d.pends = [p] → p.source = source.setWidth 8 → at8 < p.at8 + 8 * p.debounce → bit (cfgAt d at8).polarity (if rise then 0 else 1) = false →
        (getDet (getCluster t cluster.val) det.val).pends = [] ∧ (getDet (getCluster t cluster.val) det.val).queue = d.queue) ∧
      ((∀ p ∈ d.pends, p.source ≠ source.setWidth 8) → (cfgAt d at8).source ≠ source.setWidth 8 → getDet (getCluster t cluster.val) det.val = d)) ∧
  (∀ (stamp : W64) (rise : Bool) (gen : Byte) (n : Fin 4),
    bits (captRecord stamp rise gen n.val) 0 3 = bits stamp 0 3 ∧ bits (captRecord stamp rise gen n.val) 3 21 = bits stamp 3 21
    ∧ bits (captRecord stamp rise gen n.val) 24 10 = bits stamp 24 10 ∧ bit (captRecord stamp rise gen n.val) 34 = rise
    ∧ bits (captRecord stamp rise gen n.val) 35 8 = gen ∧ bits (captRecord stamp rise gen n.val) 43 2 = BitVec.ofNat 2 n.val
    ∧ bits (captRecord stamp rise gen n.val) 45 18 = 0 ∧ bit (captRecord stamp rise gen n.val) 63 = true)) ∧
  (∀ (s : State) (cluster : Fin 6) (det : Fin 4) p d,
  d = getDet (getCluster s cluster.val) det.val → d.pends = [p] → p.at8 + 8 * p.debounce ≤ s.air.abs.toNat * 8 →
  ∃ t, exec (.debounceComplete cluster det) s = .next t ∧ (getDet (getCluster t cluster.val) det.val).pends = []
    ∧ (d.queue.length < 8 → (getDet (getCluster t cluster.val) det.val).queue = d.queue ++ [p.record]
        ∧ (getDet (getCluster t cluster.val) det.val).ovf = d.ovf)
    ∧ (8 ≤ d.queue.length → (getDet (getCluster t cluster.val) det.val).queue = d.queue ∧ (getDet (getCluster t cluster.val) det.val).ovf = true)
    ∧ t = { s with clusters := t.clusters })

/-- R300, R303, R309. Dispatch of an eligible transfer: its flags are consumed, it counts as dispatched and running, and the feeder
runs it or queues it; a multicast LOAD opens the feeder's group instead, and a SIGNAL ends at once. No memory byte changes.
R309. When the hold of a multicast group's first member ends the group is closed: it runs on its feeder or waits in its queue as
one. R306, R320. The two watches over transfers. A job run that had entries left, none running and none eligible for 1 ms stops
its stall with the EVENT stall fault; a transfer not ended 1 ms after its dispatch takes its feeder out of service. -/
def Obligations.TransfersDispatchAndWatch : Prop :=
  (∀ (s : State) (fdr stall : Fin 16) (q : Fin 8) (seq : W32) r n d,
  dispatchGated s = false → nextXferOf s (.job stall.val q.val seq) = some (r, n, d) → d ≠ [] → (getFdr s fdr.val).out = false →
  mayUseFdr s stall.val fdr.val = true → queuedXfers (getFdr s fdr.val) + (getFdr s fdr.val).group.length < 32 →
  (getArr s n).moving = none → xferListBad s (.job stall.val q.val seq) = false →
  xferRefusal (xferDesc d) (xferWindow s stall.val n (xferDesc d)) (inRegion s stall.val) (inWork s (.job stall.val q.val seq)) = none →
  ((xferDesc d).bank = true → ownsReserve s stall.val n = true) →
  ((xferDesc d).kind ≠ 5 → (xferDesc d).mcast = false → ∃ t, exec (.transferDispatch fdr stall q seq) s = .next t
    ∧ evGet t n (evKey (.job stall.val q.val seq) r) = evGet s n (evKey (.job stall.val q.val seq) r) &&& ~~~ (xferDesc d).waitEv
    ∧ getRun t (.job stall.val q.val seq) = some { r with nextXfer := r.nextXfer + 1, runningX := r.runningX ++ [r.nextXfer] }
    ∧ (∃ j ∈ (getFdr t fdr.val).run.toList ++ (getFdr t fdr.val).queue, j.piece = 0 ∧ j.members =
        [{ desc := d, owner := .job stall.val q.val seq, stall := stall.val, index := r.nextXfer, ready := s.now }])
    ∧ t.mem = s.mem ∧ t.vecs = s.vecs ∧ t.paths = s.paths ∧ t.cores = s.cores ∧ PartKept s t) ∧
  ((xferDesc d).kind ≠ 5 → (xferDesc d).mcast = true → (getFdr s fdr.val).group = [] →
    ∃ t, exec (.transferDispatch fdr stall q seq) s = .next t
    ∧ (getFdr t fdr.val).group = [{ desc := d, owner := .job stall.val q.val seq, stall := stall.val, index := r.nextXfer, ready := s.now }]
    ∧ (getFdr t fdr.val).groupAt = s.now ∧ (getFdr t fdr.val).groupHold = (xferDesc d).hold
    ∧ (getFdr t fdr.val).run = (getFdr s fdr.val).run ∧ (getFdr t fdr.val).queue = (getFdr s fdr.val).queue ∧ t.mem = s.mem ∧ PartKept s t) ∧
  ((xferDesc d).kind = 5 → (xferDesc d).mcast = false → ∃ t, exec (.transferDispatch fdr stall q seq) s = .next t
    ∧ (getFdr t fdr.val).xfers = (getFdr s fdr.val).xfers + 1 ∧ t.mem.hbm = s.mem.hbm ∧ t.cores = s.cores)) ∧
  (∀ (s : State) (fdr : Fin 16) e rest, (getFdr s fdr.val).group = e :: rest →
  (getFdr s fdr.val).groupHold * 12288 ≤ (s.now - (getFdr s fdr.val).groupAt) * 100000 →
  ∃ t, exec (.mcastHoldExpiry fdr) s = .next t ∧ (getFdr t fdr.val).group = []
    ∧ (∃ j ∈ (getFdr t fdr.val).run.toList ++ (getFdr t fdr.val).queue, j.piece = 0 ∧ j.members = e :: rest)
    ∧ (∀ g, g ≠ fdr.val → getFdr t g = getFdr s g) ∧ t = { s with feeders := t.feeders }) ∧
  (∀ s : State,
  (∀ (stall : Fin 16) (q : Fin 8) (seq : W32) r, getRun s (.job stall.val q.val seq) = some r → r.array.isSome = true → r.committing = false →
    r.fail = none → r.stabled = false → r.running = [] → r.runningX = [] →
    (r.nextTile < graphLen s (.job stall.val q.val seq) ∨ r.nextXfer < xferCount s (.job stall.val q.val seq)) →
    nextEntry s (.job stall.val q.val seq) = none → nextXferOf s (.job stall.val q.val seq) = none →
    (getStall s stall.val).state = .active → s.power.tripped = false → r.idleSince + 122880 ≤ s.now →
    ∃ t, exec (.runStallDetect stall q seq) s = .next t ∧ (getStall t stall.val).state = .faulted ∧ (getStall t stall.val).faultCode = 0x2001
      ∧ t.mem.hbm = s.mem.hbm) ∧
  (∀ (fdr : Fin 16), (∃ j ∈ (getFdr s fdr.val).run.toList ++ (getFdr s fdr.val).queue, ∃ x ∈ j.members, x.ready + 122880 ≤ s.now) →
    (getFdr s fdr.val).out = false →
    ∃ t, exec (.transferStuck fdr) s = .next t ∧ (getFdr t fdr.val).out = true ∧ (getFdr t fdr.val).run = none
      ∧ (getFdr t fdr.val).errCode = 0x20 ∧ t.mem.hbm = s.mem.hbm ∧ t.cores = s.cores ∧ PartKept s t))

/-- R300, R304, R316. A piece of a STORE moves its bytes from the scratchpad to its place in the stall's region: exactly these bytes
of device memory change, the feeder counts them, and the transfer's next piece waits for its turn or runs. R300, R304. A piece
of a LOAD writes a scratchpad and no byte of device memory. -/
def Obligations.PiecesMove : Prop :=
  (∀ (s : State) (fdr : Fin 16) j x p d n a,
  (getFdr s fdr.val).run = some j → j.members = [x] → d = xferDesc x.desc → d.kind = 2 → (piecesOf d)[j.piece]? = some p →
  j.piece + 1 < (piecesOf d).length → waitsMem s fdr.val = false → (getFdr s fdr.val).out = false → pieceScrBad s x p .none = none →
  n = (xferArray s x).getD 0 → a = regionAddr s x.stall (d.dst + p.1 * d.dstStride + p.2.1) →
  ∃ t, exec (.pieceEnd fdr .none) s = .next t
    ∧ t.mem.hbm = devPut s.mem.hbm a (scrRead (getArr s n) (xferWindow s x.stall n d)
        (scrSide (xferWindow s x.stall n d) d.src d.srcStride p.1 + p.2.1) p.2.2)
    ∧ (∀ k, (∀ b, b < p.2.2 → devKey (a + b) ≠ k) → tget 0 t.mem.hbm k = tget 0 s.mem.hbm k)
    ∧ { j with piece := j.piece + 1 } ∈ (getFdr t fdr.val).run.toList ++ (getFdr t fdr.val).queue
    ∧ (getFdr t fdr.val).bytes = (getFdr s fdr.val).bytes + BitVec.ofNat 64 p.2.2
    ∧ t.cores = s.cores ∧ t.paths = s.paths ∧ PartKept s t) ∧
  (∀ (s : State) (fdr : Fin 16) j x rest p,
  (getFdr s fdr.val).run = some j → j.members = x :: rest → (∀ y ∈ x :: rest, (xferDesc y.desc).kind = 1) →
  (piecesOf (xferDesc x.desc))[j.piece]? = some p → j.piece + 1 < (piecesOf (xferDesc x.desc)).length → waitsMem s fdr.val = false →
  (getFdr s fdr.val).out = false →
  regionBad s x.stall ((xferDesc x.desc).src + p.1 * (xferDesc x.desc).srcStride + p.2.1) p.2.2 = false →
  ∃ t, exec (.pieceEnd fdr .none) s = .next t ∧ t.mem.hbm = s.mem.hbm ∧ t.mem.poison = s.mem.poison
    ∧ { j with piece := j.piece + 1 } ∈ (getFdr t fdr.val).run.toList ++ (getFdr t fdr.val).queue ∧ t.cores = s.cores ∧ PartKept s t)

/-- R55, R310, R311. Refresh of a stack: a window is open until its end, when what waited for it is issued; a block that its scrub
finds is corrected and counted, or counted and poisoned; a refresh outside the windows is counted, and the fault is raised when
the flag passes from clear to set. R56, R601. A DVFS window opens on a unit for its length; a change the level wants of an idle
array is made in a window that is long enough for it, while G2 runs. -/
def Obligations.RefreshAndFrequencyWindows : Prop :=
  (∀ (s : State) (stack : Fin 4), stackPresent s stack.val = true →
  (∀ (len : W16) g u, takeAct s 3 (BitVec.ofNat 8 stack.val) (fun a => a == len) = some (g, u) →
    (∃ t, exec (.refreshOpen (BitVec.ofNat 8 stack.val) len []) s = .next t ∧ (getStack t stack.val).window = some (s.now + len.toNat)
      ∧ t.mem.hbm = s.mem.hbm ∧ t.arrays = s.arrays ∧ t.cores = s.cores) ∧
    (∀ f : ScrubFind, f.chan.val / 16 = stack.val → ∃ t, exec (.refreshOpen (BitVec.ofNat 8 stack.val) len [f]) s = .next t
      ∧ (getStack t stack.val).window = some (s.now + len.toNat) ∧ t.mem.hbm = s.mem.hbm
      ∧ (f.bad = false → tget 0 t.mem.ce f.chan.val = satInc (tget 0 s.mem.ce f.chan.val) ∧ t.mem.poison = s.mem.poison)
      ∧ (f.bad = true → tget 0 t.mem.ue f.chan.val = satInc (tget 0 s.mem.ue f.chan.val)
          ∧ tget false t.mem.poison (chanKey f.chan.val ((tget 0 s.mem.scrub f.chan.val).toNat * 256 + 32 * f.block.val) / 32) = true))) ∧
  (∀ (len : W16) g u, takeAct s 3 0x0F (fun a => a == len) = some (g, u) →
    ∃ t, exec (.refreshOpen 0x0F len []) s = .next t ∧ (getStack t stack.val).window = some (s.now + len.toNat)) ∧
  (∀ e, (getStack s stack.val).window = some e → e ≤ s.now →
    ∃ t, exec (.refreshWindowEnd stack) s = .next t ∧ (getStack t stack.val).window = none
      ∧ (∀ k, k ≠ stack.val → getStack t k = getStack s k)
      ∧ (∀ f, getFdr t f = { getFdr s f with issued := (getFdr t f).issued })
      ∧ t = { s with mem := { s.mem with hbStacks := t.mem.hbStacks }, feeders := t.feeders }) ∧
  (∀ temp, s.air.tick.toNat < 1228800 → (getStack s stack.val).window = none → ∃ t, exec (.forcedRefresh stack temp) s = .next t
    ∧ t.air.forcedRefresh = true ∧ (getStack t stack.val).forced = satInc (getStack s stack.val).forced ∧ t.mem.hbm = s.mem.hbm
    ∧ UnitsKept { s with mem := t.mem } t ∧ PartKept s t) ∧
  (∀ chan : Fin 64, chan.val / 16 = stack.val → ∃ t, exec (.channelCommandFault chan) s = .next t ∧ (getStack t stack.val).failed = true
    ∧ (∀ l ∈ t.mem.cache, l.line / 2 ^ 23 / 16 ≠ stack.val) ∧ t.mem.hbm = s.mem.hbm
    ∧ (∀ i, i < 16 → onStack s i stack.val = true → (getStall s i).state = .active → (getStall t i).state = .faulted))) ∧
  (∀ (s : State) (unit : BitVec 4) (len : W16) g u,
  takeAct s 4 ((1 : BitVec 4) ++ unit) (fun a => a == len) = some (g, u) → unit.toNat < 8 → arrPresent s unit.toNat = true →
  (∃ t, exec (.dvfsOpen 1 unit len) s = .next t ∧ t.mem = s.mem ∧ t.cores = s.cores ∧ t.vecs = s.vecs ∧ t.paths = s.paths
    ∧ (∀ n, n ≠ unit.toNat → getArr t n = getArr s n)
    ∧ (∃ w ∈ t.power.windows, w.domain = 1 ∧ w.unit = unit.toNat ∧ w.closes = s.now + len.toNat)) ∧
  (groomUp s 2 = true → pendingChange s 1 unit.toNat = true → raisesVolt s 1 unit.toNat = false → 1229 ≤ len.toNat →
    (getArr s unit.toNat).run = none →
    ∃ t, exec (.dvfsOpen 1 unit len) s = .next t
      ∧ (getArr t unit.toNat).freq = BitVec.ofNat 5 (arrWant s s.power.level.toNat unit.toNat / 50)))

/-- R80 to R82. A FENCE, and S0's fence command, fence an array in service; an array already out of service stays as it is. R85,
R26. PERSIST writes the array's fence record and UNPERSIST erases it; both are recorded, and neither fences or releases an array
now. R81. A check tile that agrees leaves everything as it is; one that disagrees fences the array with cause 0x2. On an array
of a PACED stall it runs at a quiet point, in the main context. R80, R194, R279. An overrun of a job's tile or vector task
fences the array with cause 0x3; the second overrun of the same tile fails its job with TILE_OVERRUN and fences nothing. -/
def Obligations.FencesIsolate : Prop :=
  (∀ (s : State) (arr : Fin 8),
  (arrUsable s arr.val = true → ∀ cause, ∃ t, exec (.fence arr cause) s = .next t ∧ FencesArray s t arr.val cause) ∧
  (arrUsable s arr.val = true → MgmtOpen s →
    ∃ t, exec (.fenceCmd arr) s = .next t ∧ FencesArray s t arr.val 4 ∧ t.fencing.ctlArray = BitVec.ofNat 3 arr.val) ∧
  (arrUsable s arr.val = false → ∀ cause, exec (.fence arr cause) s = .next s)) ∧
  (∀ (s : State) (arr : Fin 8), MgmtOpen s →
  (∃ t, exec (.persist arr) s = .next t ∧ t.fencing.persisted = setBit s.fencing.persisted arr.val true
    ∧ t.fencing.fenced = s.fencing.fenced ∧ t = { told s t with fencing := t.fencing, funcs := t.funcs }) ∧
  (∃ t, exec (.unpersist arr) s = .next t ∧ t.fencing.persisted = setBit s.fencing.persisted arr.val false
    ∧ t.fencing.fenced = s.fencing.fenced ∧ t = { told s t with fencing := t.fencing, funcs := t.funcs })) ∧
  (∀ (s : State) (arr : Fin 8), arrUsable s arr.val = true → (getArr s arr.val).run = none →
  (getArr s arr.val).parked = false → (getArr s arr.val).ctx = .main →
  (arrPacedBy s arr.val = none ∨ (quietArr s arr.val = true ∧ hasReserve s arr.val = false)) →
  exec (.checkTile arr true) s = .next s ∧
  (∃ t, exec (.checkTile arr false) s = .next t ∧ (getArr t arr.val).checkFail = true ∧ FencesArray s t arr.val 2)) ∧
  (∀ (s : State) (arr : Fin 8) (i q : Nat) (seq : W32) r, arrUsable s arr.val = true →
  getRun s (.job i q seq) = some r →
  (∀ task, (getArr s arr.val).run = some task → task.owner = .job i q seq →
    (r.overTiles.contains task.tile = false → ∃ t, exec (.tileOverrun arr) s = .next t ∧ t.fencing.lastCause = 3
      ∧ t.fencing.fenced = setBit s.fencing.fenced arr.val true ∧ (getArr t arr.val).run = none ∧ (getArr t arr.val).errCode = 0x20
      ∧ ((getArr s arr.val).batch = [] → (getArr t arr.val).cycles = (getArr s arr.val).cycles + 8192) ∧ t.mem.hbm = s.mem.hbm) ∧
    (r.overTiles.contains task.tile = true → ∃ t r', exec (.tileOverrun arr) s = .next t ∧ t.fencing = s.fencing
      ∧ (getArr t arr.val).run = none ∧ getRun t (.job i q seq) = some r' ∧ r'.committing = true ∧ r'.fail = some 0x0104
      ∧ r'.array = none ∧ t.mem.hbm = s.mem.hbm)) ∧
  (∀ task, (getVec s arr.val).run = some task → task.owner = .job i q seq →
    (r.overTiles.contains task.tile = false → ∃ t, exec (.vectorOverrun arr) s = .next t ∧ t.fencing.lastCause = 3
      ∧ t.fencing.fenced = setBit s.fencing.fenced arr.val true ∧ (getVec t arr.val).run = none
      ∧ (getVec t arr.val).cycles = (getVec s arr.val).cycles + 6400 ∧ t.mem.hbm = s.mem.hbm) ∧
    (r.overTiles.contains task.tile = true → ∃ t r', exec (.vectorOverrun arr) s = .next t ∧ t.fencing = s.fencing
      ∧ (getVec t arr.val).run = none ∧ getRun t (.job i q seq) = some r' ∧ r'.committing = true ∧ r'.fail = some 0x0104
      ∧ t.mem.hbm = s.mem.hbm)))

/-- R82, R114, R347. The fallback map: the end of a reserve-bank load makes the replacements by that array ready, for each stall
that has a feeder in service to load it; at a slot boundary of the stall a ready replacement takes over: the carriers that used
the lost array move to it, no other does, and the variant and shed count of its evaluation come into force. -/
def Obligations.FallbackTakesOver : Prop := ∀ s : State,
  (∀ arr : Fin 8, arrUsable s arr.val = true → ∃ t, exec (.reserveLoadDone arr) s = .next t
    ∧ (∀ i, i < 16 → (devFeeder s i).isSome = true → ∀ r ∈ (getStall t i).remaps, r.kind = 1 → r.replace = some arr.val → r.ready = true)
    ∧ (∀ m, m ≠ arr.val → getArr t m = getArr s m) ∧ t.mem.hbm = s.mem.hbm
    ∧ t = { s with arrays := t.arrays, stalls := t.stalls, feeders := t.feeders, mem := t.mem }) ∧
  (∀ (stall : Fin 16) r m, atSlotBoundary s stall.val = true → groomUp s 1 = true → (getStall s stall.val).remaps = [r] → r.ready = true →
    r.kind = 1 → r.replace = some m → ∃ t, exec (.fallbackRemap stall) s = .next t ∧ (getStall t stall.val).remaps = []
    ∧ (∀ c ∈ stallCarriers s stall.val, (getCarrier s c).array = r.failed → (carrierCfg s c).isSome = true → (getCarrier t c).array = m)
    ∧ (∀ c, (getCarrier s c).array ≠ r.failed → (getCarrier t c).array = (getCarrier s c).array)
    ∧ (∀ v k, r.eval = some (v, k) → (budgetOf s stall.val).isSome = true →
        (getStall t stall.val).variant = v ∧ (getStall t stall.val).shedK = k)
    ∧ UnitsKept s t ∧ t.fencing = s.fencing ∧ t.hns = s.hns)

/-- R206, R225, R227, R303, R323. Dispatch of an eligible array tile task, of a job or of a network invocation, that passes its
checks and is served next: the array runs it under its seed, its flags are consumed, and its run counts it as dispatched. No
memory byte and no other array changes. One that a check refuses latches its code and faults its stall. A closed batch routed to
an array runs in array form (R287). R212, R218, R231. A tile task that meets no uncorrectable word ends: the array is idle, the
task and its cycles are counted, its banks, slots and tile buffers hold what the operation computes, and device memory is not
touched. R240, R193. A tile task that meets an uncorrectable word ends in an error: code and counter are latched, its banks and
slots keep their bytes, and the word stays listed. -/
def Obligations.TileTasksRun : Prop :=
  (∀ (s : State) (arr : Fin 8), dispatchGated s = false → (getArr s arr.val).run = none →
  (∀ (work : Work) r d, nextEntry s (workOwner work) = some (r, d) → arrReady s arr.val 1 (ownerStall s (workOwner work)) = true →
    r.array = some arr.val → d ≠ [] → opIsThin (entryOp d) = false → opIsVec (entryOp d) = false →
    (∀ i q seq, work = .job i q seq → batchOf s i.val q.val seq = none) →
    (tileRefusal (tileDesc d) (getArr s arr.val) (windowOf (getArr s arr.val) (ownerStall s (workOwner work)) (tileDesc d).bank)
        (match workOwner work with | .job .. => true | .net _ => false) (ownsReserve s (ownerStall s (workOwner work)) arr.val) = none →
      ctxAdmits (getArr s arr.val) (tileDesc d).bank = true →
      ((tileDesc d).bank = true ∨ pickArr s arr.val = some (ownerStall s (workOwner work))) →
      ∃ t task r', exec (.tileDispatch arr work) s = .next t ∧ (getArr t arr.val).run = some task
        ∧ task.desc = d ∧ task.owner = workOwner work ∧ task.tile = r.nextTile ∧ task.reserve = (tileDesc d).bank
        ∧ task.seed = entrySeed s (workOwner work) r.nextTile
        ∧ getRun t (workOwner work) = some r' ∧ r'.nextTile = r.nextTile + 1 ∧ r'.running = r.running ++ [r.nextTile]
        ∧ evGet t arr.val (evKey (workOwner work) r) = evGet s arr.val (evKey (workOwner work) r) &&& ~~~ entryWait d
        ∧ (∀ m, m ≠ arr.val → getArr t m = getArr s m) ∧ t.mem = s.mem ∧ t.vecs = s.vecs ∧ t.cores = s.cores ∧ PartKept s t) ∧
    (∀ code, tileRefusal (tileDesc d) (getArr s arr.val) (windowOf (getArr s arr.val) (ownerStall s (workOwner work)) (tileDesc d).bank)
        (match workOwner work with | .job .. => true | .net _ => false) (ownsReserve s (ownerStall s (workOwner work)) arr.val) = some code →
      (getStall s (ownerStall s (workOwner work))).state = .active → ∃ t, exec (.tileDispatch arr work) s = .next t
        ∧ (getArr t arr.val).errCode = code ∧ (getStall t (ownerStall s (workOwner work))).state = .faulted ∧ t.mem.hbm = s.mem.hbm)) ∧
  (∀ (stall : Fin 16) (q : Fin 8) (seq : W32) b g rest, batchOf s stall.val q.val seq = some b → b.tasks = g :: rest →
    (batchesFor s stall.val false).contains b = true → arrReady s arr.val 1 stall.val = true → stallRuns s stall.val = true →
    hasWindowOn s stall.val arr.val = true → (getArr s arr.val).ctx = .main → pickArr s arr.val = some stall.val →
    inHalf (windowOf (getArr s arr.val) stall.val false) ((thinDesc g.desc).stage % 2 ^ 17) 262144 = true →
    ∃ t task, exec (.tileDispatch arr (.job stall q seq)) s = .next t ∧ (getArr t arr.val).run = some task ∧ task.desc = g.desc
      ∧ (getArr t arr.val).batch = b.tasks.map (toContrib stall.val) ∧ (getStall t stall.val).gthArray = (getStall s stall.val).gthArray + 1
      ∧ (getArr t arr.val).main = (getArr s arr.val).main ∧ (∀ m, m ≠ arr.val → getArr t m = getArr s m) ∧ t.mem = s.mem ∧ PartKept s t)) ∧
  (∀ (s : State) (arr : Fin 8) task mem, (getArr s arr.val).run = some task → (getArr s arr.val).batch = [] →
  taskUe (getArr s arr.val) (windowOf (getArr s arr.val) task.stall task.reserve) (tileDesc task.desc) task.reserve .clean = none →
  ∃ t a o, exec (.tileTaskEnd arr .clean mem) s = .next t
    ∧ a = { getArr s arr.val with
        run := none, cycles := (getArr s arr.val).cycles + BitVec.ofNat 64 (tileCycles (tileDesc task.desc)), tasks := (getArr s arr.val).tasks + 1 }
    ∧ o = runTile a (windowOf (getArr s arr.val) task.stall task.reserve) (tileDesc task.desc) task.seed
    ∧ (getArr t arr.val).run = none ∧ (getArr t arr.val).main = o.arr.main ∧ (getArr t arr.val).rsv = o.arr.rsv
    ∧ (getArr t arr.val).acc = o.arr.acc ∧ (getArr t arr.val).cycles = o.arr.cycles ∧ (getArr t arr.val).tasks = o.arr.tasks
    ∧ (getVec t arr.val).tb = o.tb.foldl (fun b x => tset 0 b x.1 x.2) (getVec s arr.val).tb
    ∧ (∀ m, m ≠ arr.val → (getArr t m).main = (getArr s m).main ∧ (getArr t m).rsv = (getArr s m).rsv ∧ (getArr t m).acc = (getArr s m).acc
        ∧ (getArr t m).run = (getArr s m).run ∧ (getArr t m).tokens = (getArr s m).tokens)
    ∧ t.mem = s.mem ∧ t.cores = s.cores) ∧
  (∀ (s : State) (arr : Fin 8) task read mem code x, (getArr s arr.val).run = some task →
  (getArr s arr.val).batch = [] → within10s (getArr s arr.val).lastUe s.now = false →
  taskUe (getArr s arr.val) (windowOf (getArr s arr.val) task.stall task.reserve) (tileDesc task.desc) task.reserve read = some (code, x) →
  ∃ t, exec (.tileTaskEnd arr read mem) s = .next t ∧ (getArr t arr.val).run = none ∧ (getArr t arr.val).errCode = code
    ∧ (getArr t arr.val).ueSeen = true ∧ (getArr t arr.val).eccUe = satInc (getArr s arr.val).eccUe
    ∧ (code = 0x11 → (getArr t arr.val).ueAcc.contains x = true)
    ∧ (code ≠ 0x11 → (if task.reserve then (getArr t arr.val).ueRsv else (getArr t arr.val).ueMain).contains x = true)
    ∧ (getArr t arr.val).main = (getArr s arr.val).main ∧ (getArr t arr.val).acc = (getArr s arr.val).acc
    ∧ t.fencing = s.fencing ∧ t.mem.hbm = s.mem.hbm)

/-- R271, R303, R323. Dispatch of an eligible vector task that passes its checks and is served next: the engine runs it under its
seed and its flags are consumed. R274, R278, R279. A vector task that meets no uncorrectable word ends: the engine holds what
the operation computes, and the task is counted with at most the cycles of its bound. R240, R292, R401. A corrected error
changes no result: it sets CE_SEEN of the array, engine or path whose memory held it, and is counted where the unit has a
counter. -/
def Obligations.VectorTasksRun : Prop :=
  (∀ (s : State) (arr : Fin 8) (work : Work) r d, dispatchGated s = false →
  nextEntry s (workOwner work) = some (r, d) → arrReady s arr.val 2 (ownerStall s (workOwner work)) = true → (getVec s arr.val).run = none →
  r.array = some arr.val → opIsVec (entryOp d) = true →
  vecRefusal (vecDesc d) (windowOf (getArr s arr.val) (ownerStall s (workOwner work)) (entryBank d))
    (match workOwner work with | .job .. => true | .net _ => false) (ownsReserve s (ownerStall s (workOwner work)) arr.val) = none →
  ctxAdmits (getArr s arr.val) (entryBank d) = true →
  (entryBank d = true ∨ pickVec s arr.val = some (ownerStall s (workOwner work))) →
  ∃ t task, exec (.vectorDispatch arr work) s = .next t ∧ (getVec t arr.val).run = some task
    ∧ task.desc = d ∧ task.owner = workOwner work ∧ task.tile = r.nextTile ∧ task.seed = entrySeed s (workOwner work) r.nextTile
    ∧ evGet t arr.val (evKey (workOwner work) r) = evGet s arr.val (evKey (workOwner work) r) &&& ~~~ entryWait d
    ∧ (∀ m, m ≠ arr.val → getVec t m = getVec s m) ∧ t.mem = s.mem ∧ t.cores = s.cores ∧ PartKept s t) ∧
  (∀ (s : State) (arr : Fin 8) (cycles : W16) task w, (getVec s arr.val).run = some task →
  w = windowOf (getArr s arr.val) task.stall task.reserve →
  metWord (vecReadWords (vecDesc task.desc)) (vecWordsUe (getVec s arr.val)) .clean = none →
  metWord ((vecReads (vecDesc task.desc) w).flatMap (fun r => bankTouch w r.1 r.2))
    (if task.reserve then (getArr s arr.val).ueRsv else (getArr s arr.val).ueMain) .clean = none →
  ∃ t v o, exec (.vectorTaskEnd arr cycles .clean .clean) s = .next t
    ∧ v = { getVec s arr.val with
        run := none, tasks := (getVec s arr.val).tasks + 1,
        cycles := (getVec s arr.val).cycles + BitVec.ofNat 64 (min cycles.toNat (vecCycles (vecDesc task.desc))) }
    ∧ o = runVector v (getArr s arr.val) w (vecDesc task.desc) task.seed
    ∧ (getVec t arr.val).run = o.vec.run ∧ (getVec t arr.val).tb = o.vec.tb ∧ (getVec t arr.val).hf = o.vec.hf
    ∧ (getVec t arr.val).cycles = o.vec.cycles ∧ (getArr t arr.val).main = o.arr.main ∧ (getArr t arr.val).rsv = o.arr.rsv
    ∧ (∀ m, m ≠ arr.val → getVec t m = getVec s m) ∧ t.mem = s.mem ∧ t.cores = s.cores) ∧
  (∀ (s : State) (word : W32) (mem : MemRead),
  (∀ (arr : Fin 8) task, (getArr s arr.val).run = some task → (getArr s arr.val).batch = [] → (getArr s arr.val).ueMain = [] →
    (getArr s arr.val).ueRsv = [] → (getArr s arr.val).ueAcc = [] → ∃ t, exec (.tileTaskEnd arr .corrected mem) s = .next t
      ∧ (getArr t arr.val).run = none ∧ (getArr t arr.val).ceSeen = true ∧ (getArr t arr.val).eccCe = satInc (getArr s arr.val).eccCe) ∧
  (∀ (arr : Fin 8) cycles task, (getVec s arr.val).run = some task →
    ∃ t, exec (.vectorTaskEnd arr cycles (.corrected word) .clean) s = .next t ∧ (getVec t arr.val).ceSeen = true
      ∧ (getVec t arr.val).tasks = (getVec s arr.val).tasks + 1) ∧
  (∀ (path : Fin 4) cycles, (getPath s path.val).run ≠ [] → ∃ t, exec (.thinTaskEnd path cycles (.corrected word) .clean mem) s = .next t
    ∧ (getPath t path.val).ceSeen = true ∧ (getPath t path.val).run = []) ∧
  (∀ (core : Fin 48) d p m v, (getCore s core.val).st = .running → (getCore s core.val).sync = none →
    ∃ t u, exec (.pcrLoad core d p m v (.corrected word)) s = .next t ∧ exec (.pcrLoad core d p m v .clean) s = .next u
      ∧ (getCore t core.val).eccCe = satInc (getCore s core.val).eccCe
      ∧ { getCore t core.val with eccCe := 0 } = { getCore u core.val with eccCe := 0 }))

/-- R286. A ready thin task with GATHER joins its stall's gatherer in the order of ties: its run counts it as dispatched, and it
stands in an open or a closed batch; the end of the gather window closes every batch that is due. -/
def Obligations.GathererCollects : Prop := ∀ s : State,
  (∀ (stall : Fin 16) (q : Fin 8) (seq : W32) r d n, nextEntry s (.job stall.val q.val seq) = some (r, d) → r.array = some n →
    opIsThin (entryOp d) = true → gathers s stall.val (thinDesc d) = true → entersBefore s stall.val q.val seq = false →
    jobThinRefusal s (.job stall.val q.val seq) (thinDesc d) = none →
    ∃ t g r', exec (.gatherEnter stall q seq) s = .next t
      ∧ ((∃ b ∈ (getStall t stall.val).openBatches, g ∈ b) ∨ (∃ b ∈ (getStall t stall.val).closedBatches, g ∈ b.tasks))
      ∧ g.queue = q.val ∧ g.seq = seq ∧ g.tile = r.nextTile ∧ g.desc = d ∧ g.ready = s.now
      ∧ getRun t (.job stall.val q.val seq) = some r' ∧ r'.nextTile = r.nextTile + 1
      ∧ t = { s with arrays := t.arrays, stalls := t.stalls }) ∧
  (∀ stall : Fin 16, ∃ t, exec (.batchWindowExpiry stall) s = .next t
    ∧ (∀ b ∈ (getStall t stall.val).openBatches, b ∈ (getStall s stall.val).openBatches ∧ ∀ g ∈ b, s.now < g.ready + gatherTicks s stall.val)
    ∧ (∀ b ∈ (getStall s stall.val).openBatches, (∃ g ∈ b, g.ready + gatherTicks s stall.val ≤ s.now) →
        ∃ c ∈ (getStall t stall.val).closedBatches, c.tasks = b)
    ∧ t = { s with stalls := t.stalls })

/-- R283, R285, R287, R323, R326. A closed batch that is routed to a path starts on it, its rows in the row buffer, when its stall
is served next there; the thin task of an invocation goes before jobs' tasks. The end of a thin task frees the path and counts
it. R335 to R339. A quick dismount: a reserve task stops main dispatch (step 1); with both units idle the switch saves the
engine, parks the outgoing slots and selects the reserve context (steps 3 to 6); the return restores the engine and the main
context. R340 to R343, R600. Stabling ends with the image written to the stall's stable slot and the stall's tokens freed; a
restore puts the stall's runs back on an array; the migration off an array to be parked begins with its first holder. -/
def Obligations.ThinTasksAndContexts : Prop :=
  (∀ (s : State) (path : Fin 4),
  (dispatchGated s = false → (getPath s path.val).run = [] → (getPath s path.val).out = false → dvfsHold s 3 path.val = false →
    (∀ (stall : Fin 16) (q : Fin 8) (seq : W32) b, netNext s path.val = none → mayUseMvp s stall.val path.val = true →
      pickPath s path.val = some stall.val → batchOf s stall.val q.val seq = some b → stallRuns s stall.val = true →
      (batchesFor s stall.val true).contains b = true →
      ∃ t, exec (.thinDispatch path (.job stall q seq)) s = .next t ∧ (getPath t path.val).run = b.tasks.map (toContrib stall.val)
        ∧ (getPath t path.val).rows = BitVec.ofNat 6 (contribRows (b.tasks.map (toContrib stall.val)))
        ∧ (getPath t path.val).rowBuf = mwrite [] 0 ((b.tasks.map (toContrib stall.val)).flatMap (rowsOf s))
        ∧ (∀ m, m ≠ path.val → getPath t m = getPath s m) ∧ t.mem = s.mem ∧ t.arrays = s.arrays ∧ PartKept s t) ∧
    (∀ (carrier : Fin 8) r d, nextEntry s (.net carrier.val) = some (r, d) → opIsThin (entryOp d) = true →
      netNext s path.val = some carrier.val → thinRefusal (thinDesc d) false (fun _ _ => true) (fun _ _ => true) = none →
      ∃ t c, exec (.thinDispatch path (.net carrier)) s = .next t ∧ (getPath t path.val).run = [c] ∧ c.owner = .net carrier.val
        ∧ c.tile = r.nextTile ∧ c.desc = d ∧ (∀ m, m ≠ path.val → getPath t m = getPath s m) ∧ t.mem = s.mem ∧ PartKept s t)) ∧
  (∀ (cycles : W32) c rest, (getPath s path.val).run = c :: rest →
    ∃ t, exec (.thinTaskEnd path cycles .clean .clean .clean) s = .next t ∧ (getPath t path.val).run = [] ∧ (getPath t path.val).rows = 0
      ∧ (getPath t path.val).tasks = (getPath s path.val).tasks + 1
      ∧ (getPath t path.val).bytes = (getPath s path.val).bytes + BitVec.ofNat 64 (thinBytes (thinDesc c.desc))
      ∧ ((∀ n, (getArr s n).ueRsv = []) → ∀ m, m ≠ path.val → getPath t m = getPath s m) ∧ t.cores = s.cores)) ∧
  (∀ (s : State) (arr : Fin 8),
  (arrUsable s arr.val = true → (getArr s arr.val).ctx = .main → hasReserve s arr.val = true → (getArr s arr.val).rsvStall.isSome = true →
    ∃ t, exec (.quickDismount arr) s = .next t ∧ (getArr t arr.val).ctx = .requested ∧ (getArr t arr.val).main = (getArr s arr.val).main
      ∧ (∀ m, m ≠ arr.val → getArr t m = getArr s m) ∧ t = { s with arrays := t.arrays }) ∧
  (∀ ns, (getArr s arr.val).ctx = .requested → bothIdle s arr.val = true →
    ∃ t, exec (.dismountSwitch arr ns) s = .next t ∧ (getArr t arr.val).ctx = .reserve
      ∧ (getArr t arr.val).dismounts = (getArr s arr.val).dismounts + 1
      ∧ (getArr t arr.val).parkedMain = (getArr s arr.val).lastMain
      ∧ (getVec t arr.val).saveTb = (getVec s arr.val).tb ∧ (getVec t arr.val).saveHf = (getVec s arr.val).hf
      ∧ (getArr t arr.val).main = (getArr s arr.val).main ∧ t = { s with arrays := t.arrays, vecs := t.vecs, stalls := t.stalls }) ∧
  ((getArr s arr.val).ctx = .requested → bothIdle s arr.val = true → arrUsable s arr.val = true →
    ∃ t, exec (.dismountFault arr) s = .next t ∧ t.fencing.fenced = setBit s.fencing.fenced arr.val true ∧ t.fencing.lastCause = 2
      ∧ t.mem.hbm = s.mem.hbm) ∧
  ((getArr s arr.val).ctx = .reserve → bothIdle s arr.val = true → hasReserve s arr.val = false →
    ∃ t, exec (.contextReturn arr .clean) s = .next t ∧ (getArr t arr.val).ctx = .main ∧ (getVec t arr.val).tb = (getVec s arr.val).saveTb
      ∧ (getVec t arr.val).hf = (getVec s arr.val).saveHf ∧ (getArr t arr.val).parkedRsv = (getArr s arr.val).lastRsv
      ∧ (getArr t arr.val).main = (getArr s arr.val).main ∧ t = { s with arrays := t.arrays, vecs := t.vecs, stalls := t.stalls })) ∧
  (∀ (s : State) (arr : Fin 8),
  (∀ (stall : Fin 16) ns, (getArr s arr.val).moving = some { holder := stall.val, grantee := none } → stallBusyOn s arr.val stall.val = false →
    (getArr s arr.val).ctx = .main → (devFeeder s stall.val).isSome = true → s.power.toPark.getLsbD arr.val = false →
    imageUe s arr.val (heldTokens (getArr s arr.val) stall.val) = false →
    ∃ t img, exec (.stablingDone arr stall ns false) s = .next t
      ∧ img = makeImage s arr.val stall.val (heldTokens (getArr s arr.val) stall.val)
      ∧ tget none (getStall t stall.val).images arr.val = some img
      ∧ t.mem.hbm = devPut s.mem.hbm (regionAddr s stall.val (stableSlotAt s stall.val arr.val)) (imageData img)
      ∧ (getArr t arr.val).moving = none ∧ heldTokens (getArr t arr.val) stall.val = []
      ∧ (∀ r ∈ (getStall t stall.val).runs, r.array ≠ some arr.val)
      ∧ (∀ m, m ≠ arr.val → getArr t m = getArr s m)
      ∧ t = { s with arrays := t.arrays, stalls := t.stalls, feeders := t.feeders, mem := t.mem }) ∧
  (∀ (stall : Fin 16) ns img, pickImage (getStall s stall.val) arr.val = some img → arrUsable s arr.val = true →
    mayUseArr s stall.val arr.val = true → (getArr s arr.val).moving = none → (getArr s arr.val).parked = false →
    stallRuns s stall.val = true → (devFeeder s stall.val).isSome = true → s.power.toPark.getLsbD arr.val = false →
    ((heldTokens (getArr s arr.val) stall.val).length = img.tokens ∨
      (groomUp s 1 = true ∧ heldTokens (getArr s arr.val) stall.val = [] ∧ img.tokens ≤ (freeTokens (getArr s arr.val)).length)) →
    (runsOn s arr.val).length + img.runs.length ≤ 15 →
    regionBad s stall.val (stableSlotAt s stall.val img.array) (imageBytes img.tokens) = false →
    ∃ t, exec (.restoreDone arr stall ns false) s = .next t ∧ tget none (getStall t stall.val).images img.array = none
      ∧ (∀ e ∈ img.runs, ∀ r, getRun t (.job stall.val e.queue e.seq) = some r → r.stabled = false)
      ∧ (∀ m, m ≠ arr.val → getArr t m = getArr s m)
      ∧ t = { s with arrays := t.arrays, vecs := t.vecs, stalls := t.stalls, feeders := t.feeders }) ∧
  (∀ i, nextMigrant s arr.val = some i → s.power.toPark.getLsbD arr.val = true → groomUp s 1 = true → (getArr s arr.val).moving = none →
    ∃ t, exec (.migrationForPark arr) s = .next t ∧ (getArr t arr.val).moving = some { holder := i, grantee := none }
      ∧ t = { s with arrays := t.arrays }))

/-- R181, R154. A doorbell of an ACTIVE stall: a TAIL in range replaces the latched one; a repeat and a TAIL out of range are
answered and leave nothing latched. While a descriptor is being accepted the TAIL waits for it, and while the stall holds its
doorbells it is kept. R185, R186 (Table 5-7), R187, R202. A descriptor read from slot RD of the ring: the next SEQ that passes
its checks is written to a free journal entry as ACCEPTED; one that fails a check is REFUSED and a later SEQ is a GAP, and both
stop the queue; a failed host read leaves RD and waits for the next doorbell. -/
def Obligations.DoorbellsAndDescriptors : Prop :=
  (∀ (s : State) (stall : Fin 16) (q : Fin 8) (tail : W32), hasQueue s stall.val q.val = true →
  restoring s = false →
  (stallActive s stall.val = true → groomUp s 0 = true → (getQueue (getStall s stall.val) q.val).accepting = none →
    (getQueue (getStall s stall.val) q.val).waiting = none →
    (0 < (tail - (getQueue (getStall s stall.val) q.val).rd).toNat →
      (tail - (getQueue (getStall s stall.val) q.val).rd).toNat ≤ 2 ^ min 31 (depthLog2 s stall.val) →
      ∃ t, exec (.queSqTail stall q tail) s = .next t ∧ (getQueue (getStall t stall.val) q.val).latched = some tail
        ∧ (∀ p, p ≠ q.val → getQueue (getStall t stall.val) p = getQueue (getStall s stall.val) p)
        ∧ (∀ j, j ≠ stall.val → getStall t j = getStall s j) ∧ t = { s with stalls := t.stalls, funcs := t.funcs }) ∧
    (((tail - (getQueue (getStall s stall.val) q.val).rd).toNat = 0 ∨ 2 ^ depthLog2 s stall.val < (tail - (getQueue (getStall s stall.val) q.val).rd).toNat
        ∨ 2 ^ 31 < (tail - (getQueue (getStall s stall.val) q.val).rd).toNat) →
      ((getStall s stall.val).ansWr - (getStall s stall.val).ansHead).toNat < 256 →
      ∃ t, exec (.queSqTail stall q tail) s = .next t ∧ (getQueue (getStall t stall.val) q.val).latched = none
        ∧ (getStall t stall.val).ansWr = (getStall s stall.val).ansWr + 1
        ∧ (getQueue (getStall t stall.val) q.val).rd = (getQueue (getStall s stall.val) q.val).rd
        ∧ t = { told s t with funcs := t.funcs })) ∧
  (stallActive s stall.val = true → groomUp s 0 = true → (getQueue (getStall s stall.val) q.val).accepting.isSome = true →
    ∃ t, exec (.queSqTail stall q tail) s = .next t ∧ (getQueue (getStall t stall.val) q.val).latched = none
      ∧ (getQueue (getStall t stall.val) q.val).newTail = some tail ∧ t = { s with stalls := t.stalls, funcs := t.funcs }) ∧
  (stallActive s stall.val = false ∨ groomUp s 0 = false → ∃ t, exec (.queSqTail stall q tail) s = .next t
    ∧ (getQueue (getStall t stall.val) q.val).held = some tail ∧ (getQueue (getStall t stall.val) q.val).latched = (getQueue (getStall s stall.val) q.val).latched
    ∧ (∀ j, j ≠ stall.val → getStall t j = getStall s j) ∧ t = { s with stalls := t.stalls, funcs := t.funcs })) ∧
  (∀ (s : State) (stall : Fin 16) (q : Fin 8) (desc : List Byte), readsDesc s stall.val q.val = true →
  (u32 (padTo 64 desc) 0 = (getQueue (getStall s stall.val) q.val).ahead + 1 → jobRefusal s stall.val (padTo 64 desc) = none →
    entryFree (getQueue (getStall s stall.val) q.val) ((u32 (padTo 64 desc) 0).toNat % 2 ^ depthLog2 s stall.val) = true →
    ∃ t e, exec (.descriptorRead stall q false desc) s = .next t ∧ (getQueue (getStall t stall.val) q.val).accepting = some (padTo 64 desc)
      ∧ jobEntry t stall.val q.val (u32 (padTo 64 desc) 0) = some e ∧ e.state = .accepted ∧ e.desc = padTo 64 desc ∧ e.acceptTick = s.air.abs
      ∧ (getQueue (getStall t stall.val) q.val).ahead = (getQueue (getStall s stall.val) q.val).ahead
      ∧ (getQueue (getStall t stall.val) q.val).rd = (getQueue (getStall s stall.val) q.val).rd
      ∧ (∀ j, j ≠ stall.val → getStall t j = getStall s j) ∧ ToldOnly s t) ∧
  (∀ reason, u32 (padTo 64 desc) 0 = (getQueue (getStall s stall.val) q.val).ahead + 1 → jobRefusal s stall.val (padTo 64 desc) = some reason →
    ∃ t, exec (.descriptorRead stall q false desc) s = .next t ∧ (getQueue (getStall t stall.val) q.val).stopped = true
      ∧ (getQueue (getStall t stall.val) q.val).stopKind = 5 ∧ (getQueue (getStall t stall.val) q.val).stopReason = reason
      ∧ (getQueue (getStall t stall.val) q.val).rd = (getQueue (getStall s stall.val) q.val).rd + 1
      ∧ (getQueue (getStall t stall.val) q.val).ahead = (getQueue (getStall s stall.val) q.val).ahead ∧ ToldOnly s t) ∧
  (2 ≤ (u32 (padTo 64 desc) 0 - (getQueue (getStall s stall.val) q.val).ahead).toNat →
    (u32 (padTo 64 desc) 0 - (getQueue (getStall s stall.val) q.val).ahead).toNat ≤ 2 ^ 31 →
    ∃ t, exec (.descriptorRead stall q false desc) s = .next t ∧ (getQueue (getStall t stall.val) q.val).stopped = true
      ∧ (getQueue (getStall t stall.val) q.val).stopKind = 4 ∧ (getQueue (getStall t stall.val) q.val).ahead = (getQueue (getStall s stall.val) q.val).ahead
      ∧ ToldOnly s t) ∧
  (∃ t, exec (.descriptorRead stall q true desc) s = .next t ∧ (getQueue (getStall t stall.val) q.val).latched = none
    ∧ (getQueue (getStall t stall.val) q.val).rd = (getQueue (getStall s stall.val) q.val).rd ∧ ToldOnly s t))

/-- R186, R187, R333. The acknowledged queue line makes the job accepted: AHEAD is its SEQ, RD moves on, and it has a run to place.
RESUME clears STOPPED. A ready run goes to the array R333 picks, with a clear event set; a run whose dependency failed goes to
COMMITTING with 0x0103 instead. -/
def Obligations.JobAcceptedAndPlaced : Prop := ∀ (s : State) (stall : Fin 16) (q : Fin 8),
  (∀ d, (getQueue (getStall s stall.val) q.val).accepting = some d → groomUp s 0 = true →
    (getQueue (getStall s stall.val) q.val).newTail = none → ∃ t, exec (.jobAccepted stall q) s = .next t ∧ (getQueue (getStall t stall.val) q.val).ahead = u32 d 0
      ∧ (getQueue (getStall t stall.val) q.val).rd = (getQueue (getStall s stall.val) q.val).rd + 1
      ∧ (getQueue (getStall t stall.val) q.val).accepting = none
      ∧ (∃ r ∈ (getStall t stall.val).runs, r.queue = q.val ∧ r.seq = u32 d 0) ∧ t = { s with stalls := t.stalls, feeders := t.feeders }) ∧
  (restoring s = false → ∃ t, exec (.queSqResume stall q) s = .next t ∧ (getQueue (getStall t stall.val) q.val).stopped = false
    ∧ (getQueue (getStall t stall.val) q.val).rd = (getQueue (getStall s stall.val) q.val).rd
    ∧ (∀ p, p ≠ q.val → getQueue (getStall t stall.val) p = getQueue (getStall s stall.val) p)
    ∧ (∀ j, j ≠ stall.val → getStall t j = getStall s j) ∧ t = { s with stalls := t.stalls, funcs := t.funcs }) ∧
  (∀ seq r d, getRun s (.job stall.val q.val seq) = some r → jobOf s stall.val q.val seq = some d → stallRuns s stall.val = true →
    groomUp s 1 = true → r.array = none → r.committing = false → r.stabled = false → mayStart s stall.val q.val seq d = true →
    (∀ n, depFailed s stall.val d = false → placeFor s stall.val r.avoid r.moveTo = some n →
      ∃ t r', exec (.jobRunPlace stall q seq) s = .next t ∧ getRun t (.job stall.val q.val seq) = some r' ∧ r'.array = some n
        ∧ evGet t n r'.evSet = 0 ∧ (∀ m, m ≠ n → getArr t m = getArr s m) ∧ t = { s with arrays := t.arrays, stalls := t.stalls }) ∧
    (depFailed s stall.val d = true → ∃ t r', exec (.jobRunPlace stall q seq) s = .next t
      ∧ getRun t (.job stall.val q.val seq) = some r' ∧ r'.committing = true ∧ r'.fail = some 0x0103
      ∧ t = { s with stalls := t.stalls, feeders := t.feeders }))

/-- R189, R190 (Table 5-9). The job of a queue that commits next is written COMMITTED with its tick, and its run is over. One that
succeeded has its extents copied, by the device's own transfers on a feeder in service; one that failed copies no byte of
memory. R182, R184, R191. Completions: the record is written to the completion ring, the entry becomes COMPLETED and CDONE moves
past it; consumed completions retire their entries; the coalescing time ends with the interrupt's count started afresh. -/
def Obligations.CommitsAndCompletions : Prop :=
  (∀ (s : State) (stall : Fin 16) (q : Fin 8) e, nextCommit s stall.val q.val = some e →
  e.state = .committing → stallRuns s stall.val = true → (e.status ≠ 0 ∨ (devFeeder s stall.val).isSome = true) →
  commitBad s stall.val e = false →
  ∃ t e', exec (.commitDone stall q .clean) s = .next t ∧ jobEntry t stall.val q.val e.seq = some e' ∧ e'.state = .committed
    ∧ e'.commitTick = s.air.abs ∧ e'.status = e.status ∧ getRun t (.job stall.val q.val e.seq) = none
    ∧ (e.status ≠ 0 → t.mem.hbm = s.mem.hbm)
    ∧ (e.status = 0 → t.mem.hbm = (copyExtents s stall.val (commitList s stall.val (jobDesc e.desc))).mem.hbm)
    ∧ t.arrays = s.arrays ∧ t.cores = s.cores ∧ PartKept s t) ∧
  (∀ (s : State) (stall : Fin 16) (q : Fin 8),
  (∀ e, jobEntry s stall.val q.val (getQueue (getStall s stall.val) q.val).cdone = some e → e.state = .committed → groomUp s 0 = true →
    unreachable s stall.val = false →
    ∃ t e', exec (.completionWrite stall q) s = .next t ∧ jobEntry t stall.val q.val e.seq = some e' ∧ e'.state = .completed
      ∧ (getQueue (getStall t stall.val) q.val).cdone = e.seq + 1
      ∧ .mwr stall.val ((getQueue (getStall s stall.val) q.val).cqBase + BitVec.ofNat 64 (32 * (e.seq.toNat % 2 ^ depthLog2 s stall.val)))
          (completionRecord q.val (depthLog2 s stall.val) e) ∈ t.sent
      ∧ ToldOnly s t) ∧
  (∀ head, restoring s = false → (getQueue (getStall s stall.val) q.val).waiting = none → laterThan head (getQueue (getStall s stall.val) q.val).cdone = false →
    ∃ t, exec (.queCqHead stall q head) s = .next t ∧ (getQueue (getStall t stall.val) q.val).cqHead = head
      ∧ (getQueue (getStall t stall.val) q.val).journal = retire head (getQueue (getStall s stall.val) q.val).journal
      ∧ (∀ j, j ≠ stall.val → getStall t j = getStall s j) ∧ t = { s with stalls := t.stalls, funcs := t.funcs }) ∧
  ((getQueue (getStall s stall.val) q.val).coalRunning = true →
    ∃ t, exec (.cqCoalTimer stall q) s = .next t ∧ (getQueue (getStall t stall.val) q.val).coalRunning = false
      ∧ (getQueue (getStall t stall.val) q.val).sinceIrq = 0 ∧ (getQueue (getStall t stall.val) q.val).journal = (getQueue (getStall s stall.val) q.val).journal
      ∧ ToldOnly s t))

/-- R154, R163, R164, R167. QUIESCE: set, an ACTIVE stall becomes HELD; cleared, a HELD stall that no segment holds becomes ACTIVE
again; in FAULTED and RESETTING it waits for the return to ACTIVE. S0's commands do the same and keep the stall addressed. -/
def Obligations.QuiesceHoldsStall : Prop := ∀ (s : State) (stall : Fin 16),
  ((getStall s stall.val).state = .active →
    (restoring s = false → ∃ t, exec (.stlQuiesce stall true) s = .next t ∧ (getStall t stall.val).state = .held ∧ (getStall t stall.val).quiesce = true
      ∧ (getStall t stall.val).queues = (getStall s stall.val).queues ∧ (∀ j, j ≠ stall.val → getStall t j = getStall s j)
      ∧ t = { s with stalls := t.stalls, funcs := t.funcs }) ∧
    (MgmtOpen s → ∃ t, exec (.quiesceSet stall) s = .next t ∧ (getStall t stall.val).state = .held
      ∧ (getStall t stall.val).quiesce = true ∧ (∀ j, j ≠ stall.val → getStall t j = getStall s j)
      ∧ t = { s with stalls := t.stalls, mgmtStall := BitVec.ofNat 4 stall.val, funcs := t.funcs })) ∧
  ((getStall s stall.val).state = .held → (getStall s stall.val).segHold = false →
    (restoring s = false → ∃ t, exec (.stlQuiesce stall false) s = .next t ∧ (getStall t stall.val).state = .active ∧ (getStall t stall.val).quiesce = false
      ∧ UnitsKept s t ∧ PartKept (unheld s stall.val) t) ∧
    (MgmtOpen s → ∃ t, exec (.quiesceClr stall) s = .next t ∧ (getStall t stall.val).state = .active
      ∧ (getStall t stall.val).quiesce = false ∧ t.mgmtStall = BitVec.ofNat 4 stall.val ∧ UnitsKept s t ∧ PartKept (unheld s 0) t)) ∧
  (∀ on, restoring s = false → (getStall s stall.val).state = .faulted ∨ (getStall s stall.val).state = .resetting →
    ∃ t, exec (.stlQuiesce stall on) s = .next t ∧ (getStall t stall.val).quiesceLate = some on
      ∧ (getStall t stall.val).state = (getStall s stall.val).state ∧ t = { s with stalls := t.stalls, funcs := t.funcs })

/-- R158, R159, R166 (Tables 4-8, 4-14, 4-15). A stall reset starts with the confirm code and from step 1; without the code nothing
happens; one in progress takes a second request in. (No segment is pending: a pending one of the stall is aborted too.) R159
(Table 4-8), R161. The steps of a stall reset follow one another; step 2 stops the stall's cores and work, step 3 clears its
volatile state, and step 4 waits for its loads. R157, R159 step 5, R167. A reset that no fault and no hold stands against
resumes the stall ACTIVE, at once where it is SHARED and at a slot boundary of its carriers where it is PACED, and is counted; a
fault during the reset leaves it FAULTED. -/
def Obligations.StallResetRuns : Prop :=
  (∀ (s : State) (stall : Fin 16), s.loader.segState = 0 →
  ((getStall s stall.val).state = .active ∨ (getStall s stall.val).state = .held ∨ (getStall s stall.val).state = .faulted →
    (restoring s = false → ∃ t, exec (.stlReset stall 0x5A3C) s = .next t ∧ (getStall t stall.val).state = .resetting ∧ (getStall t stall.val).resetStep = 1
      ∧ (getStall t stall.val).queues = (getStall s stall.val).queues ∧ (∀ j, j ≠ stall.val → getStall t j = getStall s j)
      ∧ t = { s with stalls := t.stalls, carriers := t.carriers, funcs := t.funcs }) ∧
    (MgmtOpen s → ∃ t, exec (.stlMgmtReset stall 0x5A3C) s = .next t ∧ (getStall t stall.val).state = .resetting
      ∧ (getStall t stall.val).resetStep = 1 ∧ (∀ j, j ≠ stall.val → getStall t j = getStall s j)
      ∧ t = { s with stalls := t.stalls, carriers := t.carriers, mgmtStall := BitVec.ofNat 4 stall.val, funcs := t.funcs })) ∧
  ((getStall s stall.val).state = .resetting → restoring s = false → exec (.stlReset stall 0x5A3C) s = .next (unheld s stall.val)) ∧
  (∀ confirm, confirm ≠ 0x5A3C → restoring s = false → exec (.stlReset stall confirm) s = .next (unheld s stall.val))) ∧
  (∀ (s : State) (stall : Fin 16) bad, (getStall s stall.val).state = .resetting → groomUp s 1 = true →
  ((getStall s stall.val).resetStep = 1 → ∃ t, exec (.stallResetStepDone stall bad) s = .next t ∧ (getStall t stall.val).resetStep = 2
    ∧ (getStall t stall.val).state = .resetting ∧ (∀ j, j ≠ stall.val → getStall t j = getStall s j) ∧ t = { s with stalls := t.stalls }) ∧
  ((getStall s stall.val).resetStep = 2 → ∃ t, exec (.stallResetStepDone stall bad) s = .next t ∧ (getStall t stall.val).resetStep = 3
    ∧ (∀ n ∈ stallCores s stall.val, (getCore t n).st = .reset)
    ∧ (∀ n, n < 8 → ∀ task, (getArr t n).run = some task → task.stall ≠ stall.val)
    ∧ (getStall t stall.val).openBatches = [] ∧ (getStall t stall.val).closedBatches = [] ∧ t.mem = s.mem ∧ PartKept s t) ∧
  ((getStall s stall.val).resetStep = 3 → ∃ t, exec (.stallResetStepDone stall bad) s = .next t ∧ (getStall t stall.val).resetStep = 4
    ∧ (getStall t stall.val).runs = [] ∧ (getStall t stall.val).images = [] ∧ (getStall t stall.val).quiesce = false
    ∧ (∀ n, n < 8 → arrOwner s n = some stall.val → (getArr t n).main = [])
    ∧ PartKept s t) ∧
  ((getStall s stall.val).resetStep = 4 → (∃ n ∈ stallCores s stall.val, (getCore s n).st = .loading) →
    exec (.stallResetStepDone stall bad) s = .next s) ∧
  ((getStall s stall.val).resetStep = 4 → (∀ n ∈ stallCores s stall.val, (getCore s n).st ≠ .loading) →
    ∃ t, exec (.stallResetStepDone stall bad) s = .next t ∧ (getStall t stall.val).resetStep = 5)) ∧
  (∀ (s : State) (stall : Fin 16), (getStall s stall.val).state = .resetting →
  (getStall s stall.val).resetStep = 5 → groomUp s 1 = true → resumesNow s stall.val = true → (getStall s stall.val).faultWas = none →
  ((getStall s stall.val).faultNew = none → (getStall s stall.val).quiesceLate = none → (getStall s stall.val).quiesce = false →
    (getStall s stall.val).segHold = false →
    ∃ t, exec (.stallResetResume stall) s = .next t ∧ (getStall t stall.val).state = .active ∧ (getStall t stall.val).resetStep = 0
      ∧ (getStall t stall.val).resetCnt = satInc (getStall s stall.val).resetCnt ∧ UnitsKept s t ∧ PartKept s t) ∧
  (∀ f, (getStall s stall.val).faultNew = some f →
    ∃ t, exec (.stallResetResume stall) s = .next t ∧ (getStall t stall.val).state = .faulted ∧ (getStall t stall.val).faultCode = f.1
      ∧ (getStall t stall.val).resetCnt = satInc (getStall s stall.val).resetCnt ∧ UnitsKept s t ∧ PartKept s t))

/-- R143, R144, R563. A port-state message: the port's link, VF Enable and NumVFs and the function's BME become what it says; a
conventional reset clears them; an FLR starts the reset of the function's stall. -/
def Obligations.PortStateTakesEffect : Prop := ∀ (s : State) (port : Fin 2) (fn : BitVec 4) (tag : W16), linkActiveNow s port.val = true →
  msgBlocked s port.val 0x13 = false →
  (bit tag 3 = false → bit tag 4 = false → ∃ t, exec (.pstate port fn tag) s = .next t
    ∧ getPort t port.val = { linkUp := bit tag 0, vfEnable := bit tag 1, numVfs := (bits tag 8 4).setWidth 8 }
    ∧ (getFunc t port.val fn.toNat).bme = bit tag 2 ∧ (∀ p, p ≠ port.val → getPort t p = getPort s p) ∧ UnitsKept s t
    ∧ t.hns = s.hns ∧ t.air = s.air) ∧
  (bit tag 3 = false → bit tag 4 = true → ∃ t, exec (.pstate port fn tag) s = .next t ∧ (getPort t port.val).vfEnable = false
    ∧ (getPort t port.val).numVfs = 0 ∧ (∀ f, f < 16 → (getFunc t port.val f).bme = false) ∧ UnitsKept s t) ∧
  (∀ i, bit tag 3 = true → bit tag 4 = false → s.boot.warmStep = 0 → s.loader.segState = 0 → fnStall s port.val fn.toNat = some i →
    (getStall s i).state = .active →
    ∃ t, exec (.pstate port fn tag) s = .next t ∧ (getStall t i).state = .resetting ∧ (getStall t i).msixOpen = [] ∧ UnitsKept s t)

/-- R148, R177, R341, R548, R563. A host write to its stall's memory window changes exactly the bytes it names; one into the control
area changes no byte and is counted; one that meets a link in training waits for it. A Tether engine's write goes to its stall's
host. R148, R548. A host read within one 64-byte block of its stall's memory window is answered with the bytes of device memory;
it changes no byte. A Tether engine's read goes out in the name of its stall; one that no Tether stall of the die may make is
aborted. -/
def Obligations.HostWindowAccess : Prop :=
  (∀ (s : State) (port : Fin 2) (fn : BitVec 4) (hostPort : Fin 2) (addr : W64) (data : List Byte),
  (∀ i, linkActiveNow s port.val = true → msgBlocked s port.val 0x10 = false → restoring s = false → fnStall s port.val fn.toNat = some i →
    (stallRec s i).isSome = true →
    (0x800000 ≤ addr.toNat → addr.toNat + data.length ≤ regionSize s i → inStable s i addr.toNat = false → inSchool s i addr.toNat = false →
      ∃ t, exec (.mwr port fn 0 hostPort addr data false) s = .next t ∧ t.mem.hbm = devPut s.mem.hbm (regionAddr s i addr.toNat) data
        ∧ (∀ k, (∀ j, j < data.length → devKey (regionAddr s i addr.toNat + j) ≠ k) → tget 0 t.mem.hbm k = tget 0 s.mem.hbm k)
        ∧ t.arrays = s.arrays ∧ t.cores = s.cores ∧ PartKept s t) ∧
    (addr.toNat < 0x800000 → ∃ t, exec (.mwr port fn 0 hostPort addr data false) s = .next t ∧ t.mem = s.mem
      ∧ (getStall t i).accErr = satInc (getStall s i).accErr ∧ UnitsKept s t ∧ PartKept s t)) ∧
  ((getGirth s port.val).state = .training → ∃ t, exec (.mwr port fn 0 hostPort addr data false) s = .next t
    ∧ (getGirth t port.val).held = (getGirth s port.val).held ++ [.mwr port.val fn.toNat addr.toNat data false] ∧ t = { s with girths := t.girths }) ∧
  (∀ i, linkActiveNow s port.val = true → msgBlocked s port.val 0x10 = false → engineStall s port.val fn.toNat hostPort.val = some i →
    unreachable s i = false → ∃ t, exec (.mwr port fn 1 hostPort addr data false) s = .next t ∧ .mwr i addr data ∈ t.sent ∧ ToldOnly s t)) ∧
  (∀ (s : State) (port : Fin 2) (fn : BitVec 4) (hostPort : Fin 2) (tag : W16) (addr : W64) (n : BitVec 10),
  linkActiveNow s port.val = true → msgBlocked s port.val 0x01 = false →
  (∀ i, restoring s = false → fnStall s port.val fn.toNat = some i → (stallRec s i).isSome = true → 0 < n.toNat →
    addr.toNat % 64 + n.toNat ≤ 64 → 0x800000 ≤ addr.toNat → addr.toNat + n.toNat ≤ regionSize s i →
    (∀ j, j < n.toNat → inStable s i (addr.toNat + j) = false ∧ regionBad s i (addr.toNat + j) 1 = false) →
    ∃ t, exec (.mrd port fn 0 hostPort tag addr n) s = .next t
      ∧ .cpl port.val tag 0 ((List.range n.toNat).map (fun j => tget 0 s.mem.hbm (devKey (regionAddr s i (addr.toNat + j))))) true ∈ t.sent
      ∧ t.mem.hbm = s.mem.hbm ∧ t.mem.poison = s.mem.poison ∧ t.arrays = s.arrays ∧ t.cores = s.cores ∧ PartKept s t) ∧
  (∀ i, engineStall s port.val fn.toNat hostPort.val = some i → unreachable s i = false → (getGirth s (stallPort s i)).reqWait = [] →
    mayRequest (getGirth s (stallPort s i)) (.mrd i 0 addr n.toNat) = true →
    ∃ t tag', exec (.mrd port fn 1 hostPort tag addr n) s = .next t ∧ .mrd i tag' addr n.toNat ∈ t.sent
      ∧ (∃ r ∈ (getGirth t (stallPort s i)).reqs, r.tag = tag' ∧ r.host = some (port.val, fn.toNat, tag)) ∧ ToldOnly s t) ∧
  (engineStall s port.val fn.toNat hostPort.val = none → ∃ t, exec (.mrd port fn 1 hostPort tag addr n) s = .next t
    ∧ .cpl port.val tag 2 [] true ∈ t.sent ∧ ToldOnly s t))

/-- R547, R548. Completions: a final one ends the outstanding request it names and is passed on to the requester behind it; a
request with no final completion within 100 ms is completed with TIMEOUT. R18, R20, R548, R646, R659. Register accesses, of any
register that stands at the offset. A write of 4 bytes to a 32-bit register, and one of 8 bytes to a 64-bit register, act as the
register's fields say; the low half of a 64-bit register is held. A host's posted write does what its function's write does; a
read is answered with the value; a write that reaches an I/O die writes the die's register. TRL_FRZ_CTL is one such: a write
stores POST and nothing else. R627 (Table 17-11), R50. SNAPSHOT copies the sixteen values of a counter group into FLT_SNAP with
ATM_TIME, and leaves the other groups alone. -/
def Obligations.RegistersAndRequests : Prop :=
  (∀ (s : State) (iod : Fin 2) (tag : W16) req, (getGirth s iod.val).reqs.find? (fun r => r.tag == tag) = some req →
  (∀ status data, linkActiveNow s iod.val = true → msgBlocked s iod.val 0x20 = false →
    (∃ t, exec (.cpl iod tag status data true) s = .next t
      ∧ ((getGirth s iod.val).reqWait = [] → ∀ r ∈ (getGirth t iod.val).reqs, r.tag ≠ tag)
      ∧ (∀ g fn' tag', req.host = some (g, fn', tag') → .cpl g tag' status data true ∈ t.sent) ∧ ToldOnly s t) ∧
    (∃ t, exec (.cpl iod tag status data false) s = .next t
      ∧ (getGirth t iod.val).reqs = (getGirth s iod.val).reqs
      ∧ (∀ g fn' tag', req.host = some (g, fn', tag') → .cpl g tag' status data false ∈ t.sent) ∧ ToldOnly s t)) ∧
  (req.since + 12288000 ≤ s.now → ∃ t, exec (.grtRequestTimeout iod tag) s = .next t
    ∧ ((getGirth s iod.val).reqWait = [] → ∀ r ∈ (getGirth t iod.val).reqs, r.tag ≠ tag)
    ∧ (∀ g fn' tag', req.host = some (g, fn', tag') → .cpl g tag' 3 [] true ∈ t.sent) ∧ ToldOnly s t)) ∧
  (∀ (s : State) (port : Fin 2) (fn : BitVec 4) (off : BitVec 20) (data : W64) r,
  ((0x10000 ≤ off.toNat → restoring s = false) → (fnStall s port.val fn.toNat = some 0 → 0x80000 ≤ off.toNat → mgmtBlocked s = false) →
    (off.toNat % 4 = 0 → regAt (dropHold s port.val fn.toNat) (fnStall s port.val fn.toNat) off.toNat = some (r, false) → r.wide = false →
      exec (.registerWrite port fn off data false) s = .next (r.write (data.setWidth 32 |>.setWidth 64) (dropHold s port.val fn.toNat))) ∧
    (off.toNat % 8 = 0 → regAt (dropHold s port.val fn.toNat) (fnStall s port.val fn.toNat) off.toNat = some (r, false) → r.wide = true →
      exec (.registerWrite port fn off data true) s = .next (r.write data (dropHold s port.val fn.toNat)) ∧
      ∃ t, exec (.registerWrite port fn off data false) s = .next t
        ∧ (getFunc t port.val fn.toNat).hold = some (off.toNat, data.setWidth 32) ∧ t = { s with funcs := t.funcs }) ∧
    (linkActiveNow s port.val = true → msgBlocked s port.val 0x11 = false → off.toNat % 4 = 0 →
      regAt (dropHold (takeMsg s port.val 0x11) port.val fn.toNat) (fnStall s port.val fn.toNat) off.toNat = some (r, false) → r.wide = false →
      exec (.pwr port fn off data false) s = .next (r.write (data.setWidth 32 |>.setWidth 64) (dropHold (takeMsg s port.val 0x11) port.val fn.toNat)))) ∧
  (∀ tag, (0x10000 ≤ off.toNat → restoring s = false) → linkActiveNow s port.val = true → msgBlocked s port.val 0x02 = false → off.toNat % 4 = 0 →
    forwardedTo (takeMsg s port.val 0x02) (fnStall s port.val fn.toNat) off.toNat = none →
    regAt (takeMsg s port.val 0x02) (fnStall s port.val fn.toNat) off.toNat = some (r, false) → r.wide = false →
    ∃ t, exec (.rrd port fn tag off false) s = .next t ∧ .cpl port.val tag 0 (leBytes 4 (r.value.setWidth 32).toNat) true ∈ t.sent ∧ ToldOnly s t) ∧
  (∀ (iod : Fin 2) (addr : W16) wide, linkActiveNow s iod.val = true → iodReg s iod.val addr.toNat = some (r, false) → r.wide = wide →
    exec (.rwr iod addr data wide) s = .next (r.write data s)) ∧
  (MgmtOpen s → fnStall s 0 0 = some 0 → ∃ t, exec (.registerWrite 0 0 0x88010 data false) s = .next t ∧ t.trail.post = bits data 0 12
    ∧ t = { s with trail := { s.trail with post := bits data 0 12 }, funcs := t.funcs })) ∧
  (∀ (s : State) (group : Fin 16) g u,
  takeAct s 8 (BitVec.ofNat 8 group.val) (fun _ => true) = some (g, u) →
  ∃ t, exec (.snapshot group) s = .next t
    ∧ (∀ k, k < 16 → tget 0 t.flt.snaps (16 * group.val + k) = (groupValues u group.val).getD k 0)
    ∧ (∀ x, x / 16 ≠ group.val → tget 0 t.flt.snaps x = tget 0 s.flt.snaps x)
    ∧ tget 0 t.flt.snapTime group.val = atmTime u.air
    ∧ t = { s with air := u.air, flt := { s.flt with snaps := t.flt.snaps, snapTime := t.flt.snapTime } })

/-- R408, R412, R443, R558. Samples of a converter stream over a link that is up: each useful sample, with the stream's gain
applied, is written to its place in X or Y of the stream's core, and no other core changes. Before acceptance they are
discarded. R409, R410. The end of a gain window, a slot boundary in MANUAL and SLOT mode and 64 samples of every stream in
BURST: every stream of the carrier has the gain of its mode, in MANUAL the code that is set; the end of a freeze lets the gain
adapt again. -/
def Obligations.SamplesAndGain : Prop :=
  (∀ (s : State) (iod : Fin 2) (stream : Fin 16) (stamp : W64) (samples : List W32),
  msgBlocked s iod.val 0x33 = false →
  (∀ cfg n, s.accepted = true → s.hns.carriers.find? (fun r => decide (r.laneBase ≤ 16 * iod.val + stream.val)
      && decide (16 * iod.val + stream.val < r.laneBase + r.streams)) = some cfg → linkOk s cfg = true →
    (carrierCores s cfg.carrier)[16 * iod.val + stream.val - cfg.laneBase]? = some n →
    ∃ t, exec (.samp iod stream stamp samples) s = .next t
      ∧ getCore t n = (samples.zipIdx).foldl (fun p x =>
          match (sampleAt s cfg.carrier cfg (stampAbs s stamp + x.2)).bind (fun y => usefulAt cfg y.2.2) with
          | some (sym, pos) => ingest cfg p sym pos
              (gainSample (getStream (getCarrier s cfg.carrier) (16 * iod.val + stream.val - cfg.laneBase)).gain x.1).1
          | none => p) (getCore s n)
      ∧ (∀ m, m ≠ n → getCore t m = getCore s m) ∧ t.mem = s.mem ∧ t.arrays = s.arrays ∧ PartKept s t) ∧
  (s.accepted = false → ∃ t, exec (.samp iod stream stamp samples) s = .next t ∧ ToldOnly s t)) ∧
  (∀ (s : State) (carrier : Fin 8),
  (∀ cfg, carrierCfg s carrier.val = some cfg →
    (cfg.agcMode = 2 ∧ (∀ a, a < cfg.streams → 64 ≤ (getStream (getCarrier s carrier.val) a).count)) ∨
      (cfg.agcMode ≠ 2 ∧ (getCarrier s carrier.val).gainAt ≠ some (slotNow s carrier.val)) →
    ∃ t, exec (.agcWindow carrier) s = .next t
      ∧ (∀ a, a < cfg.streams → getStream (getCarrier t carrier.val) a = agcStream cfg (getCarrier s carrier.val) (slotBefore s carrier.val) a)
      ∧ (cfg.agcMode = 0 → ∀ a, a < cfg.streams → (getStream (getCarrier t carrier.val) a).gain = bits (getCarrier s carrier.val).gainSet (8 * a) 8)
      ∧ (getCarrier t carrier.val).slots = (getCarrier s carrier.val).slots ∧ (∀ c, c ≠ carrier.val → getCarrier t c = getCarrier s c)
      ∧ t = { s with carriers := t.carriers }) ∧
  (∀ at_, (getCarrier s carrier.val).freezeEnd = some at_ → at_ ≤ s.air.abs.toNat → ∃ t, exec (.agcFreezeEnd carrier) s = .next t
    ∧ (getCarrier t carrier.val).frozen = false ∧ (getCarrier t carrier.val).freezeEnd = none
    ∧ (∀ c, c ≠ carrier.val → getCarrier t c = getCarrier s c) ∧ t = { s with carriers := t.carriers }))

/-- R49, R50, R380, R414, R423. SYM_START, while the stall runs: of a later symbol, every core of the carrier that holds its program
and has room gets the symbol's start record, of its entry's dispatch, at the end of its start queue; of symbol 0, the slot that
the entry names begins. For a slot of a shed carrier it is a NOP (R348). R303, R418, R420, R422. The invocation dispatched next
on an array that is free begins: the carrier runs its network's task list under event set 15, cleared; a CE invocation fixes the
slot's weight-set generation. -/
def Obligations.SymbolsAndInvocations : Prop :=
  (∀ (s : State) (carrier : Fin 8) (slot : BitVec 6) prevFrame (symbol : BitVec 4) cfg i g u p,
  takeAct s 1 (BitVec.ofNat 8 carrier.val) (fun a => bits a 0 6 == slot && bit a 6 == prevFrame && bits a 7 4 == symbol) = some (g, u) →
  p = actPlace s carrier.val g slot.toNat prevFrame → carrierCfg s carrier.val = some cfg → carrierStall s carrier.val = some i →
  (stallRuns s i = true → symbol ≠ 0 → slotShed (getCarrier s carrier.val) p.start = false → (carrierCores s carrier.val).Nodup →
    ∃ t, exec (.symStart carrier slot prevFrame symbol) s = .next t
      ∧ (∀ n ∈ carrierCores s carrier.val, coreHolds (getCore s n) = true → (getCore s n).startQ.length < 16 →
          (getCore t n).startQ = (getCore s n).startQ ++ [(startRecord carrier.val g slot prevFrame symbol, g.abs)])
      ∧ (∀ n, n ∉ carrierCores s carrier.val → getCore t n = getCore s n)
      ∧ (∀ c, c ≠ carrier.val → getCarrier t c = getCarrier s c) ∧ t = { s with air := u.air, cores := t.cores, carriers := t.carriers }) ∧
  (∀ f, symbol = 0 → (getCarrier s carrier.val).first = some f → f ≤ p.start → slotShed (getCarrier s carrier.val) p.start = false →
    slotLen s carrier.val ≠ 0 → slot.toNat * slotLen s carrier.val < 1228800 →
    ∃ t, exec (.symStart carrier slot prevFrame symbol) s = .next t
      ∧ (∃ sl ∈ (getCarrier t carrier.val).slots, sl.start = p.start ∧ sl.begun = true)
      ∧ (∀ n, n ∉ carrierCores s carrier.val → getCore t n = getCore s n)
      ∧ (∀ c, c ≠ carrier.val → getCarrier t c = getCarrier s c)
      ∧ t = { s with air := u.air, cores := t.cores, carriers := t.carriers, school := t.school }) ∧
  (symbol ≠ 0 → slotShed (getCarrier s carrier.val) p.start = true →
    (∀ sl ∈ (getCarrier s carrier.val).slots, sl.start = p.start → sl.begun = false) →
    exec (.symStart carrier slot prevFrame symbol) s = .next u)) ∧
  (∀ (s : State) (carrier : Fin 8) (kind : NetKind) at_ kc sl net i,
  nextInv s (getCarrier s carrier.val).array = some (at_, carrier.val, kc, sl, kind) → netFor s carrier.val kind = some net →
  carrierStall s carrier.val = some i → arrUsable s (getCarrier s carrier.val).array = true → stallRuns s i = true →
  tget none s.school.running (getCarrier s carrier.val).array = none →
  (∀ c, c < 8 → (getCarrier s c).inv = none ∨ (getCarrier s c).array ≠ (getCarrier s carrier.val).array) →
  ∃ t v, exec (.invocationStart carrier kind) s = .next t ∧ (getCarrier t carrier.val).inv = some v ∧ v.kind = kind ∧ v.net = net.net
    ∧ v.frame = sl.frame ∧ v.slot = sl.slot ∧ v.run.array = some (getCarrier s carrier.val).array ∧ v.run.nextTile = 0
    ∧ evGet t (getCarrier s carrier.val).array 15 = 0
    ∧ (∀ c, c ≠ carrier.val → getCarrier t c = getCarrier s c) ∧ t = { s with arrays := t.arrays, carriers := t.carriers, school := t.school })

/-- R427, R428, R431. A decoder engine ends the block it decodes: the payload is written to its place in the stall's region, exactly
these bytes of memory change, and the engine counts the block. R49, R50, R432, R434. DEADLINE of a slot that is not complete and
to which no other cause applies: the slot is cut and reported with DEADLINE_MISS, which is counted. R431, R435, R436. Reports
complete in slot order: that of a slot whose blocks have all ended is written with its status and counted; the slot of one
already written at its DEADLINE is forgotten. -/
def Obligations.BlocksAndReports : Prop :=
  (∀ (s : State) (dec : Fin 24) c sl b cfg i u code, engineBlock s dec.val = some (c, sl, b) →
  carrierCfg s c = some cfg → carrierStall s c = some i → decServes s dec.val = true → stallRuns s i = true →
  arrUsable s (getCarrier s c).array = true → sl.users[b.user]? = some u → codeOf s c u.code = some code →
  (getArr s (getCarrier s c).array).ueRsv = [] →
  ∃ t r, exec (.decodeBlockEnd dec .clean) s = .next t
    ∧ r = decodeBlock code ((blockPlaces cfg u (code.nb * code.z) b.block).map (rsvByte (getArr s (getCarrier s c).array)))
    ∧ t.mem.hbm = devPut s.mem.hbm (regionAddr s i (cfg.payOff + cfg.paySlot * ringEntry s c cfg sl + u.pay + b.block * blockBytes code)) r.payload
    ∧ (∀ k, (∀ j, j < r.payload.length →
          devKey (regionAddr s i (cfg.payOff + cfg.paySlot * ringEntry s c cfg sl + u.pay + b.block * blockBytes code) + j) ≠ k) →
        tget 0 t.mem.hbm k = tget 0 s.mem.hbm k)
    ∧ (getDec t dec.val).blocks = (getDec s dec.val).blocks + 1 ∧ t.arrays = s.arrays ∧ t.cores = s.cores ∧ PartKept s t) ∧
  (∀ (s : State) (carrier : Fin 8) (slot : BitVec 6) prevFrame cfg i sl f g u p,
  takeAct s 2 (BitVec.ofNat 8 carrier.val) (fun a => bits a 0 6 == slot && bit a 6 == prevFrame) = some (g, u) →
  p = actPlace s carrier.val g slot.toNat prevFrame → carrierCfg s carrier.val = some cfg → carrierStall s carrier.val = some i →
  (getCarrier s carrier.val).first = some f → f ≤ p.start →
  (getCarrier s carrier.val).slots.find? (fun x => x.start == p.start) = some sl →
  earlierSlots (getCarrier s carrier.val) p.start = [] → slotCauses s i cfg = [] → lostCauses s carrier.val cfg sl = [] → sl.begun = true →
  sl.issued = false → sl.done = false → sl.causes = [] → sl.blocks = [] → (sl.meas.isSome = true ∨ sl.users = []) →
  ∃ t, exec (.deadline carrier slot prevFrame) s = .next t ∧ (getCarrier t carrier.val).lastStatus = 0x10
    ∧ (getCarrier t carrier.val).miss = satInc (getCarrier s carrier.val).miss ∧ (getCarrier t carrier.val).repSeq = (getCarrier s carrier.val).repSeq + 1
    ∧ (getCarrier t carrier.val).slotsCnt = (getCarrier s carrier.val).slotsCnt + 1
    ∧ (∀ x ∈ (getCarrier t carrier.val).slots, x.start = sl.start → x.issued = true) ∧ t.arrays = s.arrays ∧ t.cores = s.cores ∧ PartKept s t) ∧
  (∀ (s : State) (carrier : Fin 8) cfg i sl, carrierCfg s carrier.val = some cfg →
  carrierStall s carrier.val = some i → firstDue (getCarrier s carrier.val) = some sl →
  (getCarrier s carrier.val).slots.find? (fun x => x.start == sl.start) = some sl → (sl.meas.isSome = true ∨ sl.users = []) →
  (sl.issued = true → ∃ t, exec (.reportComplete carrier) s = .next t ∧ (∀ x ∈ (getCarrier t carrier.val).slots, x.start ≠ sl.start)
    ∧ (getCarrier t carrier.val).repSeq = (getCarrier s carrier.val).repSeq ∧ t = { told s t with school := t.school }) ∧
  (sl.issued = false → reportDue s carrier.val cfg sl = true → okStatus sl = 0 → ∃ t, exec (.reportComplete carrier) s = .next t
    ∧ (getCarrier t carrier.val).lastStatus = 0 ∧ (getCarrier t carrier.val).repSeq = (getCarrier s carrier.val).repSeq + 1
    ∧ (getCarrier t carrier.val).slotsCnt = (getCarrier s carrier.val).slotsCnt + 1
    ∧ (getCarrier t carrier.val).miss = (getCarrier s carrier.val).miss
    ∧ (∀ x ∈ (getCarrier t carrier.val).slots, x.start = sl.start → x.issued = true ∧ x.done = true)
    ∧ t.arrays = s.arrays ∧ t.cores = s.cores ∧ PartKept s t))

/-- R359, R371. The frame of the pacer instructions: an instruction changes its own core and nothing else of the block, but for the
detector flag that a scalar instruction may clear (R382). -/
def Obligations.PacerInstructionFrame : Prop := ∀ (s : State) (core : Fin 48) (i : Instr),
  ((∃ acc x y conj, i = .pcrMac core acc x y conj .clean) ∨ (∃ xp yp cp xm ym cm conj half, i = .pcrBfly core xp yp cp xm ym cm conj half .clean)
    ∨ (∃ d acc sh, i = .pcrNarrow core d acc sh) ∨ (∃ d p m v, i = .pcrLoad core d p m v .clean) ∨ (∃ d p m v, i = .pcrStore core d p m v)
    ∨ (∃ d src, (∀ det, d ≠ .edOvf det) ∧ i = .pcrScalar core d src) ∨ (∃ k tk tg, i = .pcrBranch core k tk tg)
    ∨ (∃ n e ca r, i = .pcrRep core n e ca r) ∨ i = .pcrBreak core ∨ (∃ m, i = .pcrWait core m) ∨ (∃ d l, i = .pcrTime core d l)
    ∨ (∃ tm arm tg p ca, i = .pcrTarm core tm arm tg p ca) ∨ (∃ p m l w, i = .pcrXpost core p m l w) ∨ i = .pcrRte core
    ∨ (∃ o, i = .pcrSwi core o) ∨ (∃ op d a b, i = .pcrLaneArith core op d a b)) →
  ∃ t, exec i s = .next t ∧ CoreOnly s t core.val

/-- R257, R369. Arithmetic of a pacer core, lane by lane: the complex multiply-accumulate adds saturated products to its
accumulator, the narrowing move shifts, truncates and saturates, and a lane-wise instruction saturates its sums. The other
registers and the memories stay, and the program counter moves to the next instruction. R370, R374. A butterfly fetched from the
loop cache, its operands aligned in X, Y and C: both memories get the four lanes' results, and no data register changes. -/
def Obligations.PacerArithmetic : Prop :=
  (∀ (s : State) (core : Fin 48), Issues s core.val → (getCore s core.val).loops = [] →
  (∀ (acc : BitVec 2) a b conj, ∃ t, exec (.pcrMac core acc (.reg a) (.reg b) conj .clean) s = .next t
    ∧ (∀ l, l < 4 → accAt (getCore t core.val) acc.toNat (2 * l)
        = (macLane (accAt (getCore s core.val) acc.toNat (2 * l)) (accAt (getCore s core.val) acc.toNat (2 * l + 1))
            (getD (getCore s core.val) a) (getD (getCore s core.val) b) l conj).1
      ∧ accAt (getCore t core.val) acc.toNat (2 * l + 1)
        = (macLane (accAt (getCore s core.val) acc.toNat (2 * l)) (accAt (getCore s core.val) acc.toNat (2 * l + 1))
            (getD (getCore s core.val) a) (getD (getCore s core.val) b) l conj).2.1)
    ∧ (getCore t core.val).d = (getCore s core.val).d ∧ (getCore t core.val).x = (getCore s core.val).x ∧ (getCore t core.val).y = (getCore s core.val).y
    ∧ (getCore t core.val).p = (getCore s core.val).p ∧ (getCore t core.val).pc = pcAfter (getCore s core.val) ∧ CoreOnly s t core.val) ∧
  (∀ d (acc : BitVec 2) (shift : BitVec 6), shift.toNat ≤ 47 → ∃ t, exec (.pcrNarrow core d acc shift) s = .next t
    ∧ (∀ k, k < 8 → comp (getD (getCore t core.val) d) k = (clampInt 16 (fdiv (accAt (getCore s core.val) acc.toNat k) (2 ^ shift.toNat))).1)
    ∧ (getCore t core.val).acc = (getCore s core.val).acc ∧ (getCore t core.val).x = (getCore s core.val).x
    ∧ (getCore t core.val).pc = pcAfter (getCore s core.val) ∧ CoreOnly s t core.val) ∧
  (∀ d a b, ∃ t, exec (.pcrLaneArith core .add d a b) s = .next t
    ∧ (∀ k, k < 8 → comp (getD (getCore t core.val) d) k
        = (clampInt 16 (comp (getD (getCore s core.val) a) k + comp (getD (getCore s core.val) b) k)).1)
    ∧ (getCore t core.val).acc = (getCore s core.val).acc ∧ (getCore t core.val).pc = pcAfter (getCore s core.val) ∧ CoreOnly s t core.val) ∧
  (∀ d a b, ∃ t, exec (.pcrLaneArith core .sub d a b) s = .next t
    ∧ (∀ k, k < 8 → comp (getD (getCore t core.val) d) k
        = (clampInt 16 (comp (getD (getCore s core.val) a) k - comp (getD (getCore s core.val) b) k)).1) ∧ CoreOnly s t core.val) ∧
  (∀ d a b, ∃ t, exec (.pcrLaneArith core .move d a b) s = .next t
    ∧ getD (getCore t core.val) d = getD (getCore s core.val) a ∧ (getCore t core.val).ovf = (getCore s core.val).ovf ∧ CoreOnly s t core.val)) ∧
  (∀ (s : State) (core : Fin 48) (xp yp cp : BitVec 4) conj half, Issues s core.val →
  fromCache (getCore s core.val) = true →
  placeOk (place18 (getCore s core.val) xp 0) 16 true = true → placeOk (place18 (getCore s core.val) yp 0) 16 true = true →
  placeOk (place18 (getCore s core.val) cp 0) 16 false = true → (place18 (getCore s core.val) xp 0).space = 0 →
  (place18 (getCore s core.val) yp 0).space = 1 → (place18 (getCore s core.val) cp 0).space = 2 →
  ∃ t a b w, exec (.pcrBfly core xp yp cp 0 0 0 conj half .clean) s = .next t
    ∧ a = readVec (getCore s core.val) (place18 (getCore s core.val) xp 0) ∧ b = readVec (getCore s core.val) (place18 (getCore s core.val) yp 0)
    ∧ w = readVec (getCore s core.val) (place18 (getCore s core.val) cp 0)
    ∧ (∀ l, l < 4 →
        comp (readVec (getCore t core.val) (place18 (getCore s core.val) xp 0)) (2 * l) = (bflyLane a b w l conj half).1.toInt
        ∧ comp (readVec (getCore t core.val) (place18 (getCore s core.val) xp 0)) (2 * l + 1) = (bflyLane a b w l conj half).2.1.toInt
        ∧ comp (readVec (getCore t core.val) (place18 (getCore s core.val) yp 0)) (2 * l) = (bflyLane a b w l conj half).2.2.1.toInt
        ∧ comp (readVec (getCore t core.val) (place18 (getCore s core.val) yp 0)) (2 * l + 1) = (bflyLane a b w l conj half).2.2.2.1.toInt)
    ∧ (getCore t core.val).d = (getCore s core.val).d ∧ (getCore t core.val).acc = (getCore s core.val).acc ∧ CoreOnly s t core.val)

/-- R359, R360, R362, R367. Loads and stores through a pointer: an aligned vector load of X or Y takes sixteen bytes and leaves
memory alone; one of C outside a loop-cache body is ILLEGAL; an aligned vector store writes exactly its sixteen bytes; a store
to C and a misaligned access change neither memory nor registers and raise ADDRESS. -/
def Obligations.PacerLoadStore : Prop := ∀ (s : State) (core : Fin 48) (d : BitVec 6) (p : BitVec 4), Issues s core.val → (getCore s core.val).loops = [] →
  ((place18 (getCore s core.val) p 0).space = 2 → ∃ t info, exec (.pcrLoad core d p 0 true .clean) s = .next t
    ∧ (getCore t core.val).sync = some (0, info) ∧ (getCore t core.val).d = (getCore s core.val).d ∧ CoreOnly s t core.val) ∧
  (placeOk (place18 (getCore s core.val) p 0) 16 false = true → (place18 (getCore s core.val) p 0).space ≠ 2 →
    ∃ t, exec (.pcrLoad core d p 0 true .clean) s = .next t
    ∧ getD (getCore t core.val) d = readVec (getCore s core.val) (place18 (getCore s core.val) p 0)
    ∧ (getCore t core.val).x = (getCore s core.val).x ∧ (getCore t core.val).y = (getCore s core.val).y
    ∧ (getCore t core.val).pc = pcAfter (getCore s core.val) ∧ CoreOnly s t core.val) ∧
  (placeOk (place18 (getCore s core.val) p 0) 16 true = true → (place18 (getCore s core.val) p 0).space = 0 →
    ∃ t, exec (.pcrStore core d p 0 true) s = .next t
    ∧ readVec (getCore t core.val) (place18 (getCore s core.val) p 0) = getD (getCore s core.val) d
    ∧ (∀ k, (k < (place18 (getCore s core.val) p 0).off ∨ (place18 (getCore s core.val) p 0).off + 16 ≤ k) →
        tget 0 (getCore t core.val).x k = tget 0 (getCore s core.val).x k)
    ∧ (getCore t core.val).y = (getCore s core.val).y ∧ (getCore t core.val).d = (getCore s core.val).d
    ∧ (getCore t core.val).pc = pcAfter (getCore s core.val) ∧ CoreOnly s t core.val) ∧
  (∀ v, placeOk (place18 (getCore s core.val) p 0) (if v then 16 else 4) true = false → ∃ t info, exec (.pcrStore core d p 0 v) s = .next t
    ∧ (getCore t core.val).sync = some (1, info) ∧ (getCore t core.val).x = (getCore s core.val).x ∧ (getCore t core.val).y = (getCore s core.val).y
    ∧ (getCore t core.val).d = (getCore s core.val).d ∧ CoreOnly s t core.val)

/-- R372, R373, R384. Scalar instructions: a value reaches the register named and no other; TIME reads the core's copy of
ATM_ABS_TICK, at most four ticks old; SWI sets the event of vector 17 with its operand. R375 to R378. Control flow: a taken
branch sets the program counter and keeps only the levels that hold the target; an untaken one goes on; REP pushes a level over
the body after it; BREAK leaves the innermost level. -/
def Obligations.PacerScalarsAndControl : Prop :=
  (∀ (s : State) (core : Fin 48), Issues s core.val → (getCore s core.val).loops = [] →
  (∀ (n : BitVec 4) v reads, ∃ t, exec (.pcrScalar core (.p n) (.value v reads)) s = .next t ∧ ptr (getCore t core.val) n = v.setWidth 18
    ∧ (∀ m, m ≠ n → ptr (getCore t core.val) m = ptr (getCore s core.val) m) ∧ (getCore t core.val).d = (getCore s core.val).d
    ∧ (getCore t core.val).pm = (getCore s core.val).pm ∧ (getCore t core.val).pc = pcAfter (getCore s core.val) ∧ CoreOnly s t core.val) ∧
  (∀ (n : BitVec 4) v reads, ∃ t, exec (.pcrScalar core (.pm n) (.value v reads)) s = .next t ∧ pmod (getCore t core.val) n = v
    ∧ (getCore t core.val).p = (getCore s core.val).p ∧ (getCore t core.val).d = (getCore s core.val).d ∧ CoreOnly s t core.val) ∧
  (∀ (n : BitVec 6) v reads, ∃ t, exec (.pcrScalar core (.d n) (.value v reads)) s = .next t
    ∧ bits (getD (getCore t core.val) n) 0 32 = v ∧ bits (getD (getCore t core.val) n) 32 96 = bits (getD (getCore s core.val) n) 32 96
    ∧ (getCore t core.val).p = (getCore s core.val).p ∧ CoreOnly s t core.val) ∧
  (∀ (d : BitVec 6) (lag : Fin 5), lag.val ≤ s.air.abs.toNat → ∃ t, exec (.pcrTime core d lag) s = .next t
    ∧ bits (getD (getCore t core.val) d) 0 64 = s.air.abs - BitVec.ofNat 64 lag.val ∧ (getCore t core.val).pc = pcAfter (getCore s core.val)
    ∧ CoreOnly s t core.val) ∧
  (∀ operand, ∃ t, exec (.pcrSwi core operand) s = .next t ∧ (getCore t core.val).swi = some operand ∧ (getCore t core.val).d = (getCore s core.val).d
    ∧ (getCore t core.val).pc = pcAfter (getCore s core.val) ∧ CoreOnly s t core.val)) ∧
  (∀ (s : State) (core : Fin 48), Issues s core.val →
  (∀ target, ∃ t, exec (.pcrBranch core .branch true target) s = .next t ∧ (getCore t core.val).pc = target
    ∧ (getCore t core.val).loops = (getCore s core.val).loops.filter (fun l => decide (l.start ≤ target.toNat) && decide (target.toNat < l.stop))
    ∧ (getCore t core.val).d = (getCore s core.val).d ∧ (getCore t core.val).sp = (getCore s core.val).sp ∧ CoreOnly s t core.val) ∧
  (∀ target, (getCore s core.val).loops = [] → ∃ t, exec (.pcrBranch core .branch false target) s = .next t
    ∧ (getCore t core.val).pc = pcAfter (getCore s core.val) ∧ (getCore t core.val).loops = [] ∧ CoreOnly s t core.val) ∧
  (∀ (count : W16) bodyEnd, (getCore s core.val).loops = [] → ∃ t l, exec (.pcrRep core count bodyEnd false false) s = .next t
    ∧ (getCore t core.val).loops = [l] ∧ l.stop = bodyEnd.toNat ∧ l.left = (if count = 0 then 65536 else count.toNat)
    ∧ l.start = (getCore s core.val).pc.toNat + 4 * wordsAt (getCore s core.val) (getCore s core.val).pc.toNat
    ∧ (getCore t core.val).pc = BitVec.ofNat 15 l.start ∧ (getCore t core.val).d = (getCore s core.val).d ∧ CoreOnly s t core.val) ∧
  (∀ l, (getCore s core.val).loops = [l] → ∃ t, exec (.pcrBreak core) s = .next t ∧ (getCore t core.val).loops = []
    ∧ (getCore t core.val).pc = pcAfter (getCore s core.val) ∧ CoreOnly s t core.val))

/-- R379, R381, R383, R395. Waiting, timers and posts: WAIT with no masked event pending puts the core to sleep; a masked event
wakes it; TARM arms the timer named, and its expiry sets its event; a post that R383 allows waits with the core's others, and
its end sets XDONE. R385, R386, R387 (Table 11-9). Exceptions: an entry whose push is valid saves pc, sr and sp in the frame,
clears IE and goes to the vector; RTE reloads them from the frame; an entry whose push is not valid is a double fault, which
halts the core and latches its shadow registers. -/
def Obligations.PacerWaitsAndExceptions : Prop :=
  (∀ (s : State) (core : Fin 48),
  (∀ mask, Issues s core.val → evOf (getCore s core.val) &&& mask = 0 → ∃ t, exec (.pcrWait core mask) s = .next t
    ∧ (getCore t core.val).st = .waiting ∧ (getCore t core.val).waitMask = mask ∧ (getCore t core.val).d = (getCore s core.val).d ∧ CoreOnly s t core.val) ∧
  ((getCore s core.val).st = .waiting → evReady s core.val &&& (getCore s core.val).waitMask ≠ 0 → ∃ t, exec (.pcrWake core) s = .next t
    ∧ (getCore t core.val).st = .running ∧ (getCore t core.val).pc = (getCore s core.val).pc ∧ evOf (getCore t core.val) = evOf (getCore s core.val)
    ∧ CoreOnly s t core.val) ∧
  (∀ (tm : Fin 4) target period carry, Issues s core.val → s.air.abs.toNat < target.toNat → ∃ t, exec (.pcrTarm core tm true target period carry) s = .next t
    ∧ (tget {} (getCore t core.val).timers tm.val).armed = true ∧ (tget {} (getCore t core.val).timers tm.val).target = target
    ∧ (tget {} (getCore t core.val).timers tm.val).fired = (tget {} (getCore s core.val).timers tm.val).fired ∧ (∀ k, k ≠ tm.val → tget {} (getCore t core.val).timers k = tget {} (getCore s core.val).timers k)
    ∧ CoreOnly s t core.val) ∧
  (∀ tm : Fin 4, (tget {} (getCore s core.val).timers tm.val).armed = true → (tget {} (getCore s core.val).timers tm.val).carried = false →
    (tget {} (getCore s core.val).timers tm.val).target.toNat ≤ s.air.abs.toNat → swapWaiting s core.val = none →
    ∃ t, exec (.pcrTimerExpire core tm) s = .next t ∧ (tget {} (getCore t core.val).timers tm.val).fired.isSome = true
      ∧ (tget {} (getCore t core.val).timers tm.val).armed = decide ((tget {} (getCore s core.val).timers tm.val).period ≠ 0) ∧ CoreOnly s t core.val) ∧
  (∀ p len word, Issues s core.val → postOk s core.val (place18 (getCore s core.val) p 0) len word = true → ∃ t x, exec (.pcrXpost core p 0 len word) s = .next t
    ∧ (getCore t core.val).posts = (getCore s core.val).posts ++ [x] ∧ x.len = len ∧ x.word = word
    ∧ x.offset = (place18 (getCore s core.val) p 0).off ∧ CoreOnly s t core.val) ∧
  (∀ x rest, (getCore s core.val).posts = x :: rest →
    (bit x.word 0 = true → (getArr s (getCarrier s (postCarrier x.word)).array).ueRsv = []) → ∃ t, exec (.xpostDone core) s = .next t ∧ (getCore t core.val).posts = rest
    ∧ (getCore t core.val).xdone = (getCore s core.val).xdone ++ [(bits x.word 27 5).setWidth 32]
    ∧ (∀ m, m ≠ core.val → getCore t m = getCore s m) ∧ t = { s with cores := t.cores, arrays := t.arrays, carriers := t.carriers })) ∧
  (∀ (s : State) (core : Fin 48),
  (∀ (v : BitVec 5) info, (getCore s core.val).st = .running → (getCore s core.val).sync = some (v, info) → pushOk (getCore s core.val) = true →
    ∃ t, exec (.exceptionEntry core .none) s = .next t ∧ (getCore t core.val).pc = BitVec.ofNat 15 (8 * v.toNat)
      ∧ (getCore t core.val).sp = (getCore s core.val).sp - 32 ∧ (getCore t core.val).ieFlag = false ∧ (getCore t core.val).sync = none
      ∧ (getCore t core.val).x = mwrite (getCore s core.val).x ((getCore s core.val).sp.toNat - 32)
          (frameBytes (getCore s core.val) v.toNat (getCluster s (core.val / 8)).gen info)
      ∧ (getCore t core.val).d = (getCore s core.val).d ∧ CoreOnly s t core.val) ∧
  (Issues s core.val → ∃ t, exec (.pcrRte core) s = .next t
    ∧ (getCore t core.val).pc = BitVec.ofNat 15 (u32 (mread (getCore s core.val).x (getCore s core.val).sp.toNat 32) 0).toNat
    ∧ (getCore t core.val).ovf = bit (u32 (mread (getCore s core.val).x (getCore s core.val).sp.toNat 32) 4) 0
    ∧ (getCore t core.val).ieFlag = bit (u32 (mread (getCore s core.val).x (getCore s core.val).sp.toNat 32) 4) 1
    ∧ (getCore t core.val).x = (getCore s core.val).x ∧ (getCore t core.val).d = (getCore s core.val).d ∧ CoreOnly s t core.val) ∧
  (∀ (v : BitVec 5) info, (getCore s core.val).st = .running → (getCore s core.val).sync = some (v, info) → pushOk (getCore s core.val) = false →
    (getCore s core.val).double = false → ∃ t, exec (.exceptionEntry core .none) s = .next t ∧ (getCore t core.val).st = .halted
      ∧ (getCore t core.val).double = true ∧ (getCore t core.val).xsPc = (getCore s core.val).pc ∧ (getCore t core.val).xsSr = srOf (getCore s core.val)
      ∧ (getCore t core.val).xsCause = BitVec.ofNat 8 v.toNat ∧ (getCore t core.val).xsInfo = info
      ∧ (getCore t core.val).dblCnt = satInc (getCore s core.val).dblCnt ∧ (getCore t core.val).x = (getCore s core.val).x
      ∧ (∀ m, m ≠ core.val → getCore t m = getCore s m)))

/-- R389, R391, R393, R394. Programs: a load into bank 0 starts the program at its binding's ENTRY with its X and Y images; a
preload ends with the inactive bank's tag; a halted core restarts from ENTRY with its timers cancelled; a swap flips a core
whose preload matches and counts a missed swap at one whose does not. R382. A queued capture goes to the lowest core of its
cluster that takes it, and leaves the queue. -/
def Obligations.PacerProgramsAndCaptures : Prop :=
  (∀ (s : State) (core : Fin 48),
  (∀ tag r code, (getCore s core.val).loadTag = some tag → (getCore s core.val).st = .loading → bindRec s tag.2 = some r →
    codeRec s core.val r = some code → tagCode s core.val tag = some code → ∃ t, exec (.bank0LoadDone core) s = .next t
      ∧ (getCore t core.val).st = .running ∧ (getCore t core.val).act = false ∧ (getCore t core.val).pc = BitVec.ofNat 15 r.entry.toNat
      ∧ (getCore t core.val).bank0.tag = some tag ∧ (getCore t core.val).bank0.code = mwrite [] 0 (codeBank code.data)
      ∧ (getCore t core.val).x = mwrite [] 0 (codeX code.data) ∧ (getCore t core.val).y = mwrite [] 0 (codeY code.data)
      ∧ (∀ m, m ≠ core.val → getCore t m = getCore s m) ∧ t = { s with cores := t.cores, stalls := t.stalls }) ∧
  (∀ tag, (getCore s core.val).preload = some tag → ∃ t, exec (.preloadDone core false) s = .next t ∧ (inactBank (getCore t core.val)).tag = some tag
      ∧ actBank (getCore t core.val) = actBank (getCore s core.val) ∧ (getCore t core.val).preload = none
      ∧ (∀ m, m ≠ core.val → getCore t m = getCore s m) ∧ t = { s with cores := t.cores }) ∧
  ((getCore s core.val).st = .halted → restartDue s (getCore s core.val) = true → ∃ t, exec (.pacerRestart core) s = .next t
      ∧ (getCore t core.val).st = .running ∧ (getCore t core.val).timers = [] ∧ (getCore t core.val).double = (getCore s core.val).double
      ∧ (∀ m, m ≠ core.val → getCore t m = getCore s m) ∧ t = { s with cores := t.cores }) ∧
  (∀ bind r stall (cl : Fin 6) g u, cl.val = core.val / 8 →
    takeAct s 5 (BitVec.ofNat 8 cl.val) (fun a => a == (BitVec.setWidth 16 (BitVec.ofNat 8 (2 ^ (core.val % 8)) : Byte) ||| (BitVec.setWidth 16 bind <<< 8))) = some (g, u) →
    bindRec s bind = some r → bindNames r core.val = true → pcrOwner s core.val = some stall → (getStall s stall).state ≠ .resetting →
    (getCore s core.val).st = .running → (∀ i, i < 16 → (getStall s i).remaps = []) →
    (∃ t, exec (.pacerSwap cl (BitVec.ofNat 8 (2 ^ (core.val % 8))) bind) s = .next t
      ∧ t.clusters = u.clusters
      ∧ ((inactBank (getCore s core.val)).tag = some (coreSerial s core.val, bind) → (getCore t core.val).act = !(getCore s core.val).act)
      ∧ ((inactBank (getCore s core.val)).tag ≠ some (coreSerial s core.val, bind) → (getCore t core.val).act = (getCore s core.val).act
          ∧ (getCore t core.val).swapMiss = satInc (getCore s core.val).swapMiss)
      ∧ (∀ m, m ≠ core.val → getCore t m = getCore s m) ∧ t.mem = s.mem))) ∧
  (∀ (s : State) (cluster : Fin 6) (det : Fin 4) record rest k,
  (getDet (getCluster s cluster.val) det.val).queue = record :: rest →
  (List.range 8).find? (fun k => takesCap (getCore s (8 * cluster.val + k)) det.val) = some k →
  ∃ t, exec (.captureDeliver cluster det) s = .next t ∧ (getDet (getCluster t cluster.val) det.val).queue = rest
    ∧ tget [] (getCore t (8 * cluster.val + k)).caps det.val = tget [] (getCore s (8 * cluster.val + k)).caps det.val ++ [record]
    ∧ (∀ m, m ≠ 8 * cluster.val + k → getCore t m = getCore s m) ∧ t = { s with cores := t.cores, clusters := t.clusters })

/-- R50, R452, R453 (Table 13-5). A schooling step acts on the network at its ring's cursor: in LEARN and in TRIAL it arms a tap, in
INSTALL the install of the candidate and in INSTALL_BACK that of the committed set, and the cursor moves on; while the engine is
busy or the network has a tap or an action armed the step is skipped and counted. -/
def Obligations.SchoolStepActs : Prop := ∀ (s : State) (engine : Fin 2) (net : Byte) cfg i r g u,
  takeAct s 7 (BitVec.ofNat 8 engine.val) (fun a => bits a 0 8 == net) = some (g, u) →
  s.hns.schoolNets.find? (fun n => n.net == net.toNat) = some cfg → seOwner s engine.val = some i → (getStall s i).state ≠ .resetting → cfg.engine = engine.val →
  r = tget ((ringOf s engine.val cfg.ring).headD 0) (getSe s engine.val).cursors cfg.ring →
  (seBusy s engine.val = none → (getNet s r).tap = none → hasAction s r = false →
    ((getNet s r).state = 1 ∨ (getNet s r).state = 3 → ∃ t, exec (.schoolStep engine net) s = .next t ∧ (getNet t r).tap = some {}
      ∧ tget ((ringOf s engine.val cfg.ring).headD 0) (getSe t engine.val).cursors cfg.ring = nextInRing (ringOf s engine.val cfg.ring) r
      ∧ (∀ x, x ≠ r → getNet t x = getNet s x) ∧ t.school.actions = s.school.actions ∧ t = { s with air := u.air, school := t.school }) ∧
    ((getNet s r).state = 2 ∨ (getNet s r).state = 4 → ∃ t, exec (.schoolStep engine net) s = .next t
      ∧ t.school.actions = s.school.actions ++ [(r, .install (decide ((getNet s r).state = 2)))]
      ∧ t.school.nets = s.school.nets ∧ t = { s with air := u.air, school := t.school })) ∧
  ((seBusy s engine.val).isSome = true ∨ (getNet s r).tap.isSome = true ∨ hasAction s r = true → ∃ t, exec (.schoolStep engine net) s = .next t
    ∧ (getSe t engine.val).skip = satInc (getSe s engine.val).skip ∧ (getSe t engine.val).cursors = (getSe s engine.val).cursors
    ∧ t.school.nets = s.school.nets ∧ t.school.actions = s.school.actions ∧ t = { s with air := u.air, school := t.school })

/-- R456. A quiet point: with no memory action armed, the armed tap of a reported slot with a plan is copied from the reserve bank
to the engine and no byte of memory changes; an armed install begins on the array. R457, R463. The end of an install whose set
could be read: the set stands in the weight set, WSET is one more, and the network goes to TRIAL for a candidate, back to LEARN
for the committed set. No byte of memory changes. -/
def Obligations.QuietPointsAndInstalls : Prop :=
  (∀ (s : State) (arr : Fin 8), quietArr s arr.val = true → nextInv s arr.val = none →
  arrUsable s arr.val = true → tget none s.school.running arr.val = none → s.school.quiet.contains arr.val = false →
  (∀ r cfg net start status us, r < 32 → s.school.actions = [] → schoolCfg s r = some (cfg, net) → netArray s net = arr.val →
    (getNet s r).tap = some { slot := some start, status := some status, users := us } → status < 2 → (getArr s arr.val).ueRsv = [] →
    ∃ t, exec (.quietPoint arr) s = .next t ∧ (getNet t r).tap = none
      ∧ (getNet t r).tapBuf = mread (getArr s arr.val).rsv (cfg.tapOff * 64) (cfg.samples * cfg.tapRec)
      ∧ t.mem = s.mem ∧ t.arrays = s.arrays ∧ t.cores = s.cores ∧ PartKept s t) ∧
  (∀ k r cfg net, nextAction s arr.val = some (k, r, cfg, net, .install true) → (∀ x, x < 32 → (getNet s x).tap = none) →
    ∃ t, exec (.quietPoint arr) s = .next t ∧ tget none t.school.running arr.val = some (r, .install true)
      ∧ t.school.actions = s.school.actions.eraseIdx k ∧ t.mem = s.mem ∧ t.arrays = s.arrays ∧ PartKept s t)) ∧
  (∀ (s : State) (netRec : Fin 32) cfg net, schoolCfg s netRec.val = some (cfg, net) →
  (tget none s.school.running (netArray s net) = some (netRec.val, .install true) →
    regionBad s (netStall s net) (areaOf s netRec.val cfg net false) net.wLen = false →
    ∃ t, exec (.installDone netRec false) s = .next t ∧ (getNet t netRec.val).state = 3 ∧ (getNet t netRec.val).taps = 0
      ∧ (getNet t netRec.val).wset = (getNet s netRec.val).wset + 1
      ∧ (getArr t (netArray s net)).rsv = (rsvWrite (getArr s (netArray s net)) (net.wOff * 64) (areaRead s netRec.val cfg net false)).rsv
      ∧ tget none t.school.running (netArray s net) = none ∧ t.mem = s.mem ∧ t = { s with school := t.school, arrays := t.arrays }) ∧
  (tget none s.school.running (netArray s net) = some (netRec.val, .install false) → (getNet s netRec.val).holdAsked = false →
    (getNet s netRec.val).state ≠ 5 → (getSe s cfg.engine).out = false →
    regionBad s (netStall s net) (areaOf s netRec.val cfg net true) net.wLen = false →
    ∃ t, exec (.installDone netRec false) s = .next t ∧ (getNet t netRec.val).state = 1 ∧ (getNet t netRec.val).candIn = false
      ∧ (getNet t netRec.val).wset = (getNet s netRec.val).wset + 1
      ∧ (getArr t (netArray s net)).rsv = (rsvWrite (getArr s (netArray s net)) (net.wOff * 64) (areaRead s netRec.val cfg net true)).rsv
      ∧ t.mem = s.mem ∧ t = { s with school := t.school, arrays := t.arrays }))

/-- R459 to R461. The engine has processed a tap of a network in LEARN: the traces move by the local rule, the tap is counted, the
generator has drawn, and a candidate is to be built once LEARN_TAPS taps are in. R460. A candidate is built from mirror and
traces: one within DMAX is armed to be written and goes to INSTALL; one beyond it is discarded, counted, and the network learns
on; a set that the host wrote for trial stands in its place. -/
def Obligations.TapsAndCandidates : Prop :=
  (∀ (s : State) (engine : Fin 2) r cfg n o, (recordsOf s engine.val).find? (fun r => !(getNet s r).tapBuf.isEmpty) = some r →
  schoolCfg s r = some (cfg, n) → (getNet s r).state = 1 →
  o = processTap cfg (getNet s r) { gen := (getSe s engine.val).gen, draws := 0, traces := (getNet s r).traces } →
  ∃ t, exec (.tapProcessDone engine false) s = .next t ∧ (getNet t r).traces = o.1.traces ∧ (getNet t r).tapBuf = []
    ∧ (getNet t r).taps = (getNet s r).taps + 1 ∧ (getNet t r).state = 1
    ∧ (getNet t r).build = decide (cfg.learnTaps ≤ ((getNet s r).taps + 1).toNat)
    ∧ (getNet t r).sB = (getNet s r).sB + o.2.1 ∧ (getNet t r).nB = (getNet s r).nB + o.2.2
    ∧ (getSe t engine.val).gen = o.1.gen ∧ (∀ x, x ≠ r → getNet t x = getNet s x) ∧ t = { s with school := t.school }) ∧
  (∀ (s : State) (engine : Fin 2) r cfg n o, (recordsOf s engine.val).find? (fun r => (getNet s r).build) = some r →
  schoolCfg s r = some (cfg, n) →
  o = buildCodes cfg (getNet s r) { gen := (getSe s engine.val).gen, draws := 0, traces := (getNet s r).traces } →
  ((getNet s r).hostCand = none → o.2.2 = false → ∃ t, exec (.candidateBuilt engine false) s = .next t ∧ (getNet t r).state = 2
    ∧ (getNet t r).cand = o.2.1 ∧ (getNet t r).traces = o.1.traces ∧ (getNet t r).build = false
    ∧ t.school.actions = s.school.actions ++ [(r, .candWrite)] ∧ t = { s with school := t.school }) ∧
  ((getNet s r).hostCand = none → o.2.2 = true → ∃ t, exec (.candidateBuilt engine false) s = .next t ∧ (getNet t r).state = 1
    ∧ (getNet t r).discards = satInc (getNet s r).discards ∧ (getNet t r).committed = (getNet s r).committed
    ∧ t.school.actions = s.school.actions ∧ t = { told s t with school := t.school }) ∧
  (∀ set, (getNet s r).hostCand = some set → ∃ t, exec (.candidateBuilt engine false) s = .next t ∧ (getNet t r).state = 2
    ∧ (getNet t r).hostCand = none ∧ (getNet t r).cand = codesOf cfg set ∧ t.school.actions = s.school.actions ++ [(r, .candWrite)] ∧ t = { s with school := t.school }))

/-- R468, R469. The non-volatile copy: a pending commit whose interval has passed arms the read of its source. A page written and
verified holds its 64 KiB of the copy, and every write of a page is counted; a page that fails, or has reached its end, ends the
network's writes, and the last page of a copy ends it. A trail snapshot under way goes first. R20, R471, R472 (Tables 13-9 to
13-11). Host operations on a network: one at a time, a second is REFUSED BUSY. A READ, WRITE or WRITE_TRIAL whose buffer lies in
range, and a REVERT, become pending with their memory action armed, in any state; HOLD takes a network in LEARN to HELD, RELEASE
takes it back; the end of an operation is shown as DONE or REFUSED. -/
def Obligations.WeightBankAndHostOps : Prop :=
  (∀ (s : State) (netRec : Fin 32) cfg n, schoolCfg s netRec.val = some (cfg, n) →
  ((getNet s netRec.val).nvPending = true → (getNet s netRec.val).nvWorn = false → cfg.nvPages ≠ 0 → (getNet s netRec.val).nvWrite = none →
    max ((getNet s netRec.val).nvLast.getD 0) s.school.acceptedAt
      + ((s.hns.schoolEngs.find? (fun y => y.engine == cfg.engine)).map (·.nvInterval)).getD 600 * 122880000 ≤ s.now →
    (∀ a ∈ s.school.actions, a ≠ (netRec.val, .nvRead)) →
    ∃ t, exec (.nvWriteStart netRec) s = .next t ∧ t.school.actions = s.school.actions ++ [(netRec.val, .nvRead)] ∧ t.school.nets = s.school.nets
      ∧ t = { s with school := t.school }) ∧
  (∀ c k bytes ok page count worn, (getNet s netRec.val).nvWrite = some (c, k, bytes) → page = cfg.nvPage + c * cfg.nvPages + k →
    count = satInc (tget (0 : W32) s.school.pageWrites page) → worn = (!ok || decide (1000000 ≤ count.toNat)) →
    (s.trail.writing = none → ∃ t, exec (.nvPageWriteDone netRec ok) s = .next t
      ∧ (ok = true → tget [] t.school.pages page = padTo 65536 (bytes.drop (65536 * k)))
      ∧ (∀ p, p ≠ page → tget [] t.school.pages p = tget [] s.school.pages p)
      ∧ tget 0 t.school.pageWrites page = count
      ∧ (getNet t netRec.val).nvWrite = (if (ok && decide (cfg.nvPages ≤ k + 1)) || worn then none else some (c, k + 1, bytes))
      ∧ (getNet t netRec.val).nvWorn = ((getNet s netRec.val).nvWorn || worn)
      ∧ (getNet t netRec.val).nvWrites = (if ok && decide (cfg.nvPages ≤ k + 1) then satInc (getNet s netRec.val).nvWrites else (getNet s netRec.val).nvWrites)
      ∧ t = { told s t with school := t.school }) ∧
    (s.trail.writing.isSome = true → exec (.nvPageWriteDone netRec ok) s = .next s))) ∧
  (∀ (s : State) (netRec : Fin 32) cfg n, schoolCfg s netRec.val = some (cfg, n) → (getNet s netRec.val).state ≠ 0 →
  restoring s = false →
  ((getNet s netRec.val).xfer = none →
    (∀ off : BitVec 36, bufferOk s (netStall s n) off.toNat (64 + n.wLen) = true →
      (∃ t, exec (.sclRead netRec off) s = .next t ∧ tget 0 t.school.xferState (netStall s n) = 1 ∧ (getNet t netRec.val).xfer = some (1, off.toNat)
        ∧ t.school.actions = s.school.actions ++ [(netRec.val, .hostRead)] ∧ t = { s with school := t.school, funcs := t.funcs }) ∧
      (∃ t, exec (.sclWrite netRec off) s = .next t ∧ (getNet t netRec.val).xfer = some (2, off.toNat)
        ∧ t.school.actions = s.school.actions ++ [(netRec.val, .copyIn 2)] ∧ t = { s with school := t.school, funcs := t.funcs }) ∧
      (∃ t, exec (.sclWriteTrial netRec off) s = .next t ∧ (getNet t netRec.val).xfer = some (3, off.toNat)
        ∧ t.school.actions = s.school.actions ++ [(netRec.val, .copyIn 3)] ∧ t = { s with school := t.school, funcs := t.funcs })) ∧
    (∀ off : BitVec 36, bufferOk s (netStall s n) off.toNat (64 + n.wLen) = false → ∃ t, exec (.sclRead netRec off) s = .next t
      ∧ tget 0 t.school.xferState (netStall s n) = 3 ∧ tget 0 t.school.xferReason (netStall s n) = 4 ∧ t.school.nets = s.school.nets
      ∧ t = { told s t with school := t.school, funcs := t.funcs }) ∧
    ((∃ t, exec (.sclRevertNv netRec) s = .next t ∧ (getNet t netRec.val).xfer = some (4, 0)
        ∧ t.school.actions = s.school.actions ++ [(netRec.val, .copyIn 4)] ∧ t = { s with school := t.school, funcs := t.funcs }) ∧
      (∃ t, exec (.sclRevertInit netRec) s = .next t ∧ (getNet t netRec.val).xfer = some (5, 0)
        ∧ t.school.actions = s.school.actions ++ [(netRec.val, .copyIn 5)] ∧ t = { s with school := t.school, funcs := t.funcs }) ∧
      ((getNet s netRec.val).state = 1 → ∃ t, exec (.sclHold netRec) s = .next t ∧ (getNet t netRec.val).state = 5 ∧ (getNet t netRec.val).xferEnd = some 0
        ∧ (getNet t netRec.val).committed = (getNet s netRec.val).committed ∧ t = { s with school := t.school, funcs := t.funcs })) ∧
    ((getNet s netRec.val).state = 5 → (getSe s cfg.engine).out = false → ∃ t, exec (.sclRelease netRec) s = .next t
      ∧ (getNet t netRec.val).state = 1 ∧ (getNet t netRec.val).xferEnd = some 0 ∧ t = { s with school := t.school, funcs := t.funcs })) ∧
  ((getNet s netRec.val).xfer.isSome = true → ∃ t, exec (.sclHold netRec) s = .next t ∧ tget 0 t.school.xferState (netStall s n) = 3
    ∧ tget 0 t.school.xferReason (netStall s n) = 1 ∧ t.school.nets = s.school.nets ∧ t = { told s t with school := t.school, funcs := t.funcs }) ∧
  (∀ x reason, (getNet s netRec.val).xfer = some x → (getNet s netRec.val).xferEnd = some reason → ∃ t, exec (.sclXferDone netRec) s = .next t
    ∧ tget 0 t.school.xferState (netStall s n) = (if reason = 0 then 2 else 3) ∧ tget 0 t.school.xferReason (netStall s n) = reason
    ∧ (getNet t netRec.val).xfer = none ∧ t.school.actions = s.school.actions ∧ t = { told s t with school := t.school }))

/-- R480, R491 to R494, R503, R513, R523. Training: what starts a fast and a full training, the order of the phases, what fails a
phase and what a failed training does, and what the peer's HELLO, READY and RETRAIN_REQ do. Other ports and the compute units
are not touched. -/
def Obligations.TetherTrains : Prop := ∀ (s : State) (port : Fin 4),
  ((getTth s port.val).state = .up → (tethRec s port.val).isSome = true → restoring s = false →
    (∃ t, exec (.tthFastRetrain port) s = .next t ∧ (getTth t port.val).state = .retrain ∧ (getTth t port.val).phase = .preamble
      ∧ (getTth t port.val).retrain = satInc (getTth s port.val).retrain
      ∧ (∀ q, q ≠ port.val → getTth t q = getTth s q) ∧ UnitsKept s t ∧ t.hns = s.hns) ∧
    (∃ t, exec (.tthCtlRetrain port) s = .next t ∧ (getTth t port.val).state = .retrain ∧ (getTth t port.val).phase = .preamble
      ∧ (getTth t port.val).retrain = satInc (getTth s port.val).retrain
      ∧ (∀ q, q ≠ port.val → getTth t q = getTth s q) ∧ UnitsKept s t ∧ t.hns = s.hns) ∧
    (∃ t, exec (.retrainReq port) s = .next t ∧ (getTth t port.val).state = .retrain ∧ (getTth t port.val).phase = .preamble
      ∧ (getTth t port.val).retrain = satInc (getTth s port.val).retrain
      ∧ (∀ q, q ≠ port.val → getTth t q = getTth s q) ∧ UnitsKept s t ∧ t.hns = s.hns)) ∧
  ((getTth s port.val).state ≠ .up → exec (.tthFastRetrain port) s = .next s
    ∧ (restoring s = false → exec (.tthCtlRetrain port) s = .next (unheld s (tethStall s port.val)))
    ∧ (portAlive s port.val = true → ∃ t, exec (.retrainReq port) s = .next t ∧ (getTth t port.val).state = (getTth s port.val).state
        ∧ (getTth t port.val).phase = (getTth s port.val).phase ∧ UnitsKept s t)) ∧
  (MgmtOpen s → portAlive s port.val = true → ∃ t, exec (.tthFullTrain port) s = .next t
    ∧ (getTth t port.val).state = .wake ∧ (getTth t port.val).phase = .wake ∧ (getTth t port.val).bursting = true
    ∧ (getTth t port.val).hello = none ∧ (getTth t port.val).peerEpoch = (getTth s port.val).peerEpoch
    ∧ (∀ q, q ≠ port.val → getTth t q = getTth s q) ∧ UnitsKept s t) ∧
  ((getTth s port.val).state = .failed →
    (122880000 ≤ s.now - (getTth s port.val).failedAt → ∃ t, exec (.tthFailedRetry port) s = .next t
      ∧ (getTth t port.val).state = .wake ∧ (getTth t port.val).phase = .wake ∧ UnitsKept s t) ∧
    (s.now - (getTth s port.val).failedAt < 122880000 → exec (.tthFailedRetry port) s = .next s)) ∧
  ((getTth s port.val).phase = .wake → ∃ t, exec (.tthWakeBurstTimer port) s = .next t
    ∧ (getTth t port.val).bursting = !(getTth s port.val).bursting ∧ (getTth t port.val).phase = .wake
    ∧ (∀ q, q ≠ port.val → getTth t q = getTth s q) ∧ UnitsKept s t) ∧
  (∀ gain residual late, portAlive s port.val = true →
    ((getTth s port.val).phase = .wake → (getTth s port.val).hello.isSome = true → (getTth s port.val).helloSent = true →
      ∃ t, exec (.tthTrainPhaseEnd port residual late gain) s = .next t ∧ (getTth t port.val).phase = .echoM ∧ (getTth t port.val).state = .train
        ∧ (∀ q, q ≠ port.val → getTth t q = getTth s q) ∧ UnitsKept s t) ∧
    ((getTth s port.val).phase = .echoM → ∃ t, exec (.tthTrainPhaseEnd port false false gain) s = .next t ∧ (getTth t port.val).phase = .echoS
      ∧ (getTth t port.val).gain = (if (getTth s port.val).master = false ∧ (getTth s port.val).gainSet = 0 then gain else (getTth s port.val).gain)) ∧
    ((getTth s port.val).phase = .echoS → ∃ t, exec (.tthTrainPhaseEnd port false false gain) s = .next t ∧ (getTth t port.val).phase = .duplex2
      ∧ (getTth t port.val).gain = (if (getTth s port.val).master = true ∧ (getTth s port.val).gainSet = 0 then gain else (getTth s port.val).gain)) ∧
    ((getTth s port.val).phase = .duplex2 ∨ (getTth s port.val).phase = .preamble → ∃ t, exec (.tthTrainPhaseEnd port residual false gain) s = .next t
      ∧ (getTth t port.val).phase = .duplexM ∧ (getTth t port.val).ctrl = (getTth s port.val).ctrl ++ [(2, [])]) ∧
    ((getTth s port.val).phase = .duplexM → (getTth s port.val).lqRun ≠ [] →
      48 * ((getTth s port.val).lqRun.length : Int) ≤ (getTth s port.val).lqRun.foldl (fun n x => n + x.toInt) 0 →
      ((getTth s port.val).readySent = true → (getTth s port.val).readyPeer = true → ∃ t, exec (.tthTrainPhaseEnd port residual false gain) s = .next t ∧ (getTth t port.val).state = .up ∧ (getTth t port.val).phase = .none
        ∧ (getTth t port.val).fullFails = 0 ∧ (getTth t port.val).fastFails = 0
        ∧ (∀ c, c < 8 → (getChan (getTth t port.val) c).credUp = chanOn (getChan (getTth s port.val) c)) ∧ UnitsKept s t) ∧
      ((getTth s port.val).readySent = false ∨ (getTth s port.val).readyPeer = false → ∃ t, exec (.tthTrainPhaseEnd port residual false gain) s = .next t
        ∧ (getTth t port.val).trainErr = 6 ∧ (getTth t port.val).trainFail = satInc (getTth s port.val).trainFail)) ∧
    ((getTth s port.val).phase = .duplexM → (getTth s port.val).lqRun = [] ∨
      (getTth s port.val).lqRun.foldl (fun n x => n + x.toInt) 0 < 48 * ((getTth s port.val).lqRun.length : Int) → ∃ t, exec (.tthTrainPhaseEnd port residual false gain) s = .next t
      ∧ (getTth t port.val).trainErr = 3 ∧ (getTth t port.val).trainFail = satInc (getTth s port.val).trainFail)) ∧
  (∀ residual late gain, portAlive s port.val = true → (getTth s port.val).phase = .wake →
    (getTth s port.val).hello = none ∨ (getTth s port.val).helloSent = false →
    ∃ t, exec (.tthTrainPhaseEnd port residual late gain) s = .next t ∧ (getTth t port.val).trainErr = 1
      ∧ (getTth t port.val).trainFail = satInc (getTth s port.val).trainFail ∧ UnitsKept s t) ∧
  (∀ residual late gain code, portAlive s port.val = true →
    ((getTth s port.val).phase = .echoM ∨ (getTth s port.val).phase = .echoS) ∧ residual = true ∧ code = 5 ∨
      ((getTth s port.val).phase = .echoM ∨ (getTth s port.val).phase = .echoS) ∧ residual = false ∧ late = true ∧ code = 6 ∨
      ((getTth s port.val).phase = .duplex2 ∨ (getTth s port.val).phase = .duplexM ∨ (getTth s port.val).phase = .preamble)
        ∧ late = true ∧ code = 6 →
    ∃ t, exec (.tthTrainPhaseEnd port residual late gain) s = .next t ∧ (getTth t port.val).trainErr = code
      ∧ (getTth t port.val).trainFail = satInc (getTth s port.val).trainFail
      ∧ ((getTth s port.val).full = true → 2 ≤ (getTth s port.val).fullFails →
          (getTth t port.val).state = .failed ∧ (getTth t port.val).phase = .none ∧ (getTth t port.val).failedAt = s.now)
      ∧ ((getTth s port.val).full = true → (getTth s port.val).fullFails < 2 →
          (getTth t port.val).state = .wake ∧ (getTth t port.val).fullFails = (getTth s port.val).fullFails + 1)
      ∧ ((getTth s port.val).full = false → 2 ≤ (getTth s port.val).fastFails →
          (getTth t port.val).state = .wake ∧ (getTth t port.val).fastFails = 0)
      ∧ ((getTth s port.val).full = false → (getTth s port.val).fastFails < 2 →
          (getTth t port.val).state = .retrain ∧ (getTth t port.val).fastFails = (getTth s port.val).fastFails + 1)
      ∧ (∀ q, q ≠ port.val → getTth t q = getTth s q) ∧ UnitsKept s t) ∧
  (∀ r cls mode dir id epoch, tethRec s port.val = some r → portAlive s port.val = true → (getTth s port.val).phase = .wake →
    (mode ≠ (getTth s port.val).mode.setWidth 8 → ∃ t, exec (.hello port cls mode dir id epoch) s = .next t ∧ (getTth t port.val).trainErr = 2
      ∧ UnitsKept s t) ∧
    (mode = (getTth s port.val).mode.setWidth 8 → (cls == 1) ≠ (r.role == 3) → ∃ t, exec (.hello port cls mode dir id epoch) s = .next t
      ∧ (getTth t port.val).trainErr = 4 ∧ UnitsKept s t) ∧
    (mode = (getTth s port.val).mode.setWidth 8 → cls ≠ 1 → r.role ≠ 3 → ∃ t, exec (.hello port cls mode dir id epoch) s = .next t
      ∧ (getTth t port.val).hello = some (cls, mode, dir, id) ∧ (getTth t port.val).master = true ∧ UnitsKept s t) ∧
    (mode = (getTth s port.val).mode.setWidth 8 → cls = 1 → r.role = 3 → r.timeDir = 1 → dir ≠ 1 →
      ∃ t, exec (.hello port cls mode dir id epoch) s = .next t ∧ (getTth t port.val).hello = some (cls, mode, dir, id)
        ∧ (getTth t port.val).master = true) ∧
    (mode = (getTth s port.val).mode.setWidth 8 → cls = 1 → r.role = 3 → r.timeDir ≠ 1 → dir = 1 →
      ∃ t, exec (.hello port cls mode dir id epoch) s = .next t ∧ (getTth t port.val).hello = some (cls, mode, dir, id)
        ∧ (getTth t port.val).master = false) ∧
    (mode = (getTth s port.val).mode.setWidth 8 → cls = 1 → r.role = 3 → (r.timeDir = 1 ↔ dir = 1) → (getTth s port.val).trainId ≠ id →
      ∃ t, exec (.hello port cls mode dir id epoch) s = .next t ∧ (getTth t port.val).hello = some (cls, mode, dir, id)
        ∧ (getTth t port.val).master = decide (id.toNat < (getTth s port.val).trainId.toNat)) ∧
    (mode = (getTth s port.val).mode.setWidth 8 → cls = 1 → r.role = 3 → (r.timeDir = 1 ↔ dir = 1) → (getTth s port.val).trainId = id →
      ∃ t, exec (.hello port cls mode dir id epoch) s = .next t ∧ (getTth t port.val).hello = none
        ∧ (getTth t port.val).helloSent = false ∧ UnitsKept s t)) ∧
  (portAlive s port.val = true → ∃ t, exec (.ready port) s = .next t
    ∧ (getTth t port.val).readyPeer = ((getTth s port.val).readyPeer || decide ((getTth s port.val).phase = .duplexM))
    ∧ (getTth t port.val).phase = (getTth s port.val).phase ∧ (∀ q, q ≠ port.val → getTth t q = getTth s q) ∧ UnitsKept s t)

/-- R486, R496, R499, R502 to R505, R509, R511. What a port takes in before the frame's own content: a codeword, its scrambling
taken out, is decoded, waits for its row and is counted; every valid header gives the peer's link quality, the session, the
acknowledgements and the credit. A DISABLE is its header alone. R508, R512 (Table 14-6), R515, R516, R527. A DATA frame of a
port in UP, after its header: a repeat is counted and dropped, one outside the window or the credit is counted as a violation,
one that fits is stored; the next stored frame in order is delivered to an open host and to no other, and an uncorrectable error
in the store loses the stored copy alone. -/
def Obligations.TetherReceives : Prop :=
  (∀ (s : State) (port : Fin 4), portAlive s port.val = true →
  (∀ llrs, (getTth s port.val).state ≠ .failed →
    (∀ f, (decodeFrame (scrRun 10752 (rxScrAt s port.val)).1 llrs).1 = some f → ∃ t, exec (.tthCodewordDecoded port llrs) s = .next t
      ∧ (getTth t port.val).decoded = (getTth s port.val).decoded ++ [f] ∧ (getTth t port.val).failRun = 0
      ∧ (getTth t port.val).cw = (getTth s port.val).cw + 1 ∧ (getTth t port.val).cwFail = (getTth s port.val).cwFail
      ∧ (getTth t port.val).rxScr = (scrRun 10752 (rxScrAt s port.val)).2
      ∧ (∀ q, q ≠ port.val → getTth t q = getTth s q) ∧ UnitsKept s t ∧ t.sent = s.sent) ∧
    ((decodeFrame (scrRun 10752 (rxScrAt s port.val)).1 llrs).1 = none → ∃ t, exec (.tthCodewordDecoded port llrs) s = .next t
      ∧ (getTth t port.val).cw = (getTth s port.val).cw + 1 ∧ (getTth t port.val).cwFail = (getTth s port.val).cwFail + 1
      ∧ (getTth t port.val).decoded = (getTth s port.val).decoded
      ∧ (getTth t port.val).state = (if 63 ≤ (getTth s port.val).failRun ∧ (getTth s port.val).state = .up then .retrain
          else (getTth s port.val).state)
      ∧ (∀ q, q ≠ port.val → getTth t q = getTth s q) ∧ UnitsKept s t)) ∧
  (∀ frame, ∃ t, exec (.tthIdleFrame port frame) s = .next t
    ∧ (getTth t port.val).lqPeer = frame.lqPeer ∧ (getTth t port.val).peerEpoch = some frame.epoch
    ∧ (getTth t port.val).decoded = (getTth s port.val).decoded.erase frame
    ∧ (∀ e, (getTth s port.val).peerEpoch = some e → e ≠ frame.epoch → (getTth t port.val).store = []
        ∧ (getTth t port.val).sessionReset = true
        ∧ ∀ c, c < 8 → (getChan (getTth t port.val) c).txSeq = 0 ∧ (getChan (getTth t port.val) c).rxSeq = 0
          ∧ (getChan (getTth t port.val) c).unacked = [] ∧ (getChan (getTth t port.val) c).used = 0)
    ∧ ((getTth s port.val).peerEpoch = none ∨ (getTth s port.val).peerEpoch = some frame.epoch →
        (getTth t port.val).store = (getTth s port.val).store
        ∧ (∀ c, (getChan (getTth t port.val) c).txSeq = (getChan (getTth s port.val) c).txSeq
          ∧ (getChan (getTth t port.val) c).rxSeq = (getChan (getTth s port.val) c).rxSeq
          ∧ (getChan (getTth t port.val) c).used = (getChan (getTth s port.val) c).used)
        ∧ (frame.credValid = true → (getChan (getTth t port.val) frame.credChan.toNat).limit
            = serialMax (getChan (getTth s port.val) frame.credChan.toNat).limit frame.credLimit))
    ∧ (frame.ackValid = true → ∀ f, (getChan (getTth t port.val) frame.ackChan.toNat).unacked.head? = some f →
        f.refused = false ∧ 32768 ≤ (frame.ackSeq - f.seq).toNat)
    ∧ (∀ q, q ≠ port.val → getTth t q = getTth s q) ∧ UnitsKept s t) ∧
  (∀ f, (getTth s port.val).decoded.find? (fun f => f.type == 3 && u8 f.payload 0 == 4) = some f →
    ∃ t, exec (.disable port) s = .next t ∧ exec (.tthIdleFrame port f) s = .next t) ∧
  ((getTth s port.val).decoded.find? (fun f => f.type == 3 && u8 f.payload 0 == 4) = none → exec (.disable port) s = .next s)) ∧
  (∀ (s : State) (port : Fin 4),
  (∀ frame, (getTth s port.val).state = .up →
    ((32768 ≤ (frame.seq - (getChan (getTth (rxHeader s port.val frame) port.val) frame.chan.toNat).rxSeq).toNat ∨
        ((frame.seq - (getChan (getTth (rxHeader s port.val frame) port.val) frame.chan.toNat).rxSeq).toNat < 4096 ∧
          (getTth (rxHeader s port.val frame) port.val).store.any (fun x => x.1 == frame.chan.toNat && x.2.seq == frame.seq) = true) →
      ∃ t, exec (.tthDataFrame port frame) s = .next t ∧ (getTth t port.val).dup = satInc (getTth s port.val).dup
        ∧ (getChan (getTth t port.val) frame.chan.toNat).urgent = true ∧ UnitsKept s t) ∧
    (4096 ≤ (frame.seq - (getChan (getTth (rxHeader s port.val frame) port.val) frame.chan.toNat).rxSeq).toNat →
      (frame.seq - (getChan (getTth (rxHeader s port.val frame) port.val) frame.chan.toNat).rxSeq).toNat < 32768 →
      ∃ t, exec (.tthDataFrame port frame) s = .next t ∧ (getTth t port.val).winErr = satInc (getTth s port.val).winErr
        ∧ (getTth t port.val).store = (getTth (rxHeader s port.val frame) port.val).store ∧ UnitsKept s t) ∧
    ((frame.seq - (getChan (getTth (rxHeader s port.val frame) port.val) frame.chan.toNat).rxSeq).toNat < 4096 →
      (getTth (rxHeader s port.val frame) port.val).store.any (fun x => x.1 == frame.chan.toNat && x.2.seq == frame.seq) = false →
      (covered (getTth (rxHeader s port.val frame) port.val) frame.chan.toNat frame = false →
        ∃ t, exec (.tthDataFrame port frame) s = .next t ∧ (getTth t port.val).credErr = satInc (getTth s port.val).credErr
          ∧ (getTth t port.val).store = (getTth (rxHeader s port.val frame) port.val).store ∧ UnitsKept s t) ∧
      (covered (getTth (rxHeader s port.val frame) port.val) frame.chan.toNat frame = true →
        (4096 ≤ (getTth (rxHeader s port.val frame) port.val).store.length → ∃ t, exec (.tthDataFrame port frame) s = .next t
          ∧ (getTth t port.val).storeFull = satInc (getTth s port.val).storeFull
          ∧ (getTth t port.val).store = (getTth (rxHeader s port.val frame) port.val).store ∧ UnitsKept s t) ∧
        ((getTth (rxHeader s port.val frame) port.val).store.length < 4096 → ∃ t, exec (.tthDataFrame port frame) s = .next t
          ∧ (getTth t port.val).store = (getTth (rxHeader s port.val frame) port.val).store ++ [(frame.chan.toNat, frame)]
          ∧ (getTth t port.val).state = .up ∧ (getChan (getTth t port.val) frame.chan.toNat).ackDirty = true
          ∧ (∀ q, q ≠ port.val → getTth t q = getTth s q) ∧ UnitsKept s t))))) ∧
  (∀ (ch : Fin 8) k f, (getTth s port.val).store.find? (fun x => x.1 == ch.val && x.2.seq == (getChan (getTth s port.val) ch.val).rxSeq)
      = some (k, f) →
    (hostOpen s port.val = false → ∀ ue, exec (.tthDeliver port ch ue) s = .next s) ∧
    (hostOpen s port.val = true →
      (∃ t, exec (.tthDeliver port ch false) s = .next t ∧ (getTth t port.val).store = (getTth s port.val).store.erase (ch.val, f)
        ∧ (getTth t port.val).rxFrames = (getTth s port.val).rxFrames + 1
        ∧ (getChan (getTth t port.val) ch.val).rxSeq = (getChan (getTth s port.val) ch.val).rxSeq + 1
        ∧ (getChan (getTth t port.val) ch.val).rxCnt = (getChan (getTth s port.val) ch.val).rxCnt + 1
        ∧ (getChan (getTth t port.val) ch.val).rxWr = (getChan (getTth s port.val) ch.val).rxWr + BitVec.ofNat 32 ((f.len.toNat + 63) / 64)
        ∧ (∀ q, q ≠ port.val → getTth t q = getTth s q) ∧ UnitsKept s t) ∧
      (∃ t, exec (.tthDeliver port ch true) s = .next t ∧ (getTth t port.val).store = (getTth s port.val).store.erase (ch.val, f)
        ∧ (getTth t port.val).storeUe = satInc (getTth s port.val).storeUe
        ∧ (getChan (getTth t port.val) ch.val).rxSeq = (getChan (getTth s port.val) ch.val).rxSeq ∧ UnitsKept s t))))

/-- R484 to R486, R501, R507, R510, R511, R514. Every codeword slot of a driving port whose next marker is no time marker sends one
frame, scrambled from the register as it stands (reloaded after a marker) and mapped to levels: a TIME frame that is due, else a
pending CTRL frame, else the retransmission due, else the next new frame that window and credit allow, else an idle one. A
doorbell within the ring moves TAIL; a channel's expired timer makes its oldest unacknowledged frame due and doubles the
timeout. -/
def Obligations.TetherSends : Prop := ∀ (s : State) (port : Fin 4),
  (∀ descs payload, (getTth s port.val).state = .up ∨ (getTth s port.val).phase = .duplexM → mktDue s port.val = false →
    ∃ t, exec (.tthCodewordSlot port descs payload) s = .next t
      ∧ (∃ f, t.sent.head? = some (.frame port.val f (lineLevels (lineBits (getTth s port.val))
            (if (getTth s port.val).cwIdx = 0 ∧ (getTth s port.val).mktSent = none then txSeed s port.val else (getTth s port.val).txScr)
            (codewordOf f)).1))
      ∧ (getTth t port.val).slots = (getTth s port.val).slots + 1 ∧ (getTth t port.val).cwIdx = ((getTth s port.val).cwIdx + 1) % 16
      ∧ (getTth t port.val).txFrames = (getTth s port.val).txFrames + 1
      ∧ (∀ m, (getTth s port.val).cwIdx = 2 → (getTth s port.val).mktSent = some m →
          (getTth t port.val).mktSent = none ∧ (getTth t port.val).msgSeq = (getTth s port.val).msgSeq + 1
          ∧ (getTth t port.val).ctrl = (getTth s port.val).ctrl)
      ∧ ((getTth s port.val).cwIdx ≠ 2 ∨ (getTth s port.val).mktSent = none →
          (∀ k b rest, (getTth s port.val).ctrl = (k, b) :: rest → (getTth t port.val).ctrl = rest
            ∧ (getTth t port.val).readySent = ((getTth s port.val).readySent || k == 2)
            ∧ (getTth t port.val).retx = (getTth s port.val).retx) ∧
          ((getTth s port.val).ctrl = [] → (getTth s port.val).state = .up → hostOpen s port.val = true →
            (∀ c f, retxDue (getTth s port.val) = some (c, f) → (getTth t port.val).retx = satInc (getTth s port.val).retx
              ∧ (getChan (getTth t port.val) c).txSeq = (getChan (getTth s port.val) c).txSeq) ∧
            (retxDue (getTth s port.val) = none →
              ((∀ c, c < 8 → txWaiting (getChan (getTth s port.val) c) = false) → ∀ c,
                (getChan (getTth t port.val) c).txSeq = (getChan (getTth s port.val) c).txSeq
                ∧ (getChan (getTth t port.val) c).txRd = (getChan (getTth s port.val) c).txRd) ∧
              (∀ c, c < 8 → (∀ k, k < 8 → k ≠ c → txWaiting (getChan (getTth s port.val) k) = false) →
                maySend (getTth s port.val) (getChan (getTth s port.val) c) (descs.getD c []) = true →
                (getChan (getTth t port.val) c).txRd = (getChan (getTth s port.val) c).txRd + 1
                ∧ (getChan (getTth t port.val) c).txSeq = (getChan (getTth s port.val) c).txSeq + 1
                ∧ (getChan (getTth t port.val) c).used = (getChan (getTth s port.val) c).used
                  + BitVec.ofNat 32 (((u16 (descs.getD c []) 8).toNat + 63) / 64)))))
      ∧ (∀ q, q ≠ port.val → getTth t q = getTth s q) ∧ UnitsKept s t) ∧
  (∀ (ch : Fin 8) tail, (tethRec s port.val).isSome = true →
    (1 ≤ (tail - (getChan (getTth s port.val) ch.val).txRd).toNat →
      restoring s = false → (tail - (getChan (getTth s port.val) ch.val).txRd).toNat ≤ 2 ^ (bits (getChan (getTth s port.val) ch.val).ctl 1 5).toNat →
      ∃ t, exec (.tthTxTail port ch tail) s = .next t
        ∧ getChan (getTth t port.val) ch.val = { getChan (getTth s port.val) ch.val with tail := tail }
        ∧ (∀ q, q ≠ port.val → getTth t q = getTth s q) ∧ UnitsKept s t ∧ t.sent = s.sent) ∧
    (tail = (getChan (getTth s port.val) ch.val).txRd ∨
        2 ^ (bits (getChan (getTth s port.val) ch.val).ctl 1 5).toNat < (tail - (getChan (getTth s port.val) ch.val).txRd).toNat →
      restoring s = false → exec (.tthTxTail port ch tail) s = .next (unheld s (tethStall s port.val)))) ∧
  (∀ (ch : Fin 8) a, (getChan (getTth s port.val) ch.val).timerAt = some a → (getTth s port.val).state = .up →
    ((bits (getTth s port.val).rto 0 14).toNat * (getChan (getTth s port.val) ch.val).backoff * 12288 ≤ (s.now - a) * 100 →
      ∃ t, exec (.tthRtoExpire port ch) s = .next t
        ∧ (getChan (getTth t port.val) ch.val).backoff = min 64 (2 * (getChan (getTth s port.val) ch.val).backoff)
        ∧ (getChan (getTth t port.val) ch.val).timerAt = some s.now
        ∧ (∀ f fs, (getChan (getTth s port.val) ch.val).unacked = f :: fs → f.refused = false →
            (getChan (getTth t port.val) ch.val).unacked = { f with due := true } :: fs)
        ∧ (∀ q, q ≠ port.val → getTth t q = getTth s q) ∧ UnitsKept s t ∧ t.sent = s.sent) ∧
    ((s.now - a) * 100 < (bits (getTth s port.val).rto 0 14).toNat * (getChan (getTth s port.val) ch.val).backoff * 12288 →
      exec (.tthRtoExpire port ch) s = .next s))

/-- R489, R490, R496. A window's level and error give the SNR and the link quality; 16 windows in a row below or above the margin
set and clear DEGRADED; four windows a decibel below the snapshot restore the canceller. Its weights, of which no statement is
made, change only while it learns. R485 to R487, R494, R518 to R520, R522, R526. Time transfer: a marker within four bits is a
marker, its complement a time marker, which a slave stamps as T2 and a master as T4; two lost in a row retrain. TIME_SYNC on a
port in UP waits for its marker, which opens a block after a microsecond; on another port it is counted as skipped. A TIME frame
at a port of no direction is counted, and at a slave it ends the exchange before and begins the next. -/
def Obligations.TetherQualityAndTime : Prop :=
  (∀ (s : State) (port : Fin 4),
  (∀ err sig, (getTth s port.val).state = .up → ∃ t, exec (.tthLqWindow port err sig) s = .next t
    ∧ (getTth t port.val).snr = BitVec.ofNat 16 (snrOf sig.toNat err.toNat)
    ∧ (getTth t port.val).lq = BitVec.ofInt 16 ((snrOf sig.toNat err.toNat : Int) - lqThreshold (getTth s port.val).mode)
    ∧ ((snrOf sig.toNat err.toNat : Int) - lqThreshold (getTth s port.val).mode < 24 → 15 ≤ (getTth s port.val).lowLq →
        (getTth t port.val).degraded = true)
    ∧ (24 ≤ (snrOf sig.toNat err.toNat : Int) - lqThreshold (getTth s port.val).mode → 15 ≤ (getTth s port.val).goodLq →
        (getTth t port.val).degraded = false)
    ∧ ((snrOf sig.toNat err.toNat : Int) - lqThreshold (getTth s port.val).mode < 0 → 15 ≤ (getTth s port.val).badLq →
        (getTth t port.val).state = .retrain)
    ∧ ((0 ≤ (snrOf sig.toNat err.toNat : Int) - lqThreshold (getTth s port.val).mode ∨ (getTth s port.val).badLq < 15) →
        (getTth t port.val).state = .up)
    ∧ ((getTth s port.val).rcFrozen = false → (getTth s port.val).rcOffNow = false → (getTth s port.val).rcDrops = 3 →
        (BitVec.ofInt 16 ((snrOf sig.toNat err.toNat : Int) - lqThreshold (getTth s port.val).mode)).toInt
          ≤ (getTth s port.val).rcSnapLq.toInt - 16 →
        (getTth t port.val).rcW = (getTth s port.val).rcSnap ∧ (getTth t port.val).rcRestore = satInc (getTth s port.val).rcRestore)
    ∧ (∀ q, q ≠ port.val → getTth t q = getTth s q) ∧ UnitsKept s t) ∧
  (rcRuns (getTth s port.val) = true → ∃ t, exec (.tthRcUpdate port) s = .next t
    ∧ (∃ w g, w.length = 528 ∧ (∀ x ∈ w, -127 ≤ x.toInt) ∧ getTth t port.val = { getTth s port.val with rcW := w, rcGen := g }) ∧ (∀ q, q ≠ port.val → getTth t q = getTth s q) ∧ UnitsKept s t
    ∧ t.sent = s.sent) ∧
  (rcRuns (getTth s port.val) = false → exec (.tthRcUpdate port) s = .next s) ∧
  ((getTth s port.val).state = .up →
    ((getTth s port.val).rcSnapLq.toInt ≤ (getTth s port.val).lq.toInt → ∃ t, exec (.tthRcSnapshot port) s = .next t
      ∧ getTth t port.val = { getTth s port.val with rcSnap := (getTth s port.val).rcW, rcSnapLq := (getTth s port.val).lq }
      ∧ (∀ q, q ≠ port.val → getTth t q = getTth s q) ∧ UnitsKept s t) ∧
    ((getTth s port.val).lq.toInt < (getTth s port.val).rcSnapLq.toInt → exec (.tthRcSnapshot port) s = .next s))) ∧
  (∀ (s : State) (port : Fin 4),
  (∀ bs stamp, (getTth s port.val).state = .up →
    (popcount (bs ^^^ 0x8F3AD2156C0BE749) ≤ 4 → ∃ t, exec (.tthMarkerRx port bs false stamp) s = .next t
      ∧ getTth t port.val = { getTth s port.val with lostMarkers := 0 } ∧ (∀ q, q ≠ port.val → getTth t q = getTth s q) ∧ UnitsKept s t) ∧
    (60 ≤ popcount (bs ^^^ 0x8F3AD2156C0BE749) → timeDir s port.val = 2 → ∃ t, exec (.tthMarkerRx port bs false stamp) s = .next t
      ∧ (getTth t port.val).exCur.t2 = some stamp ∧ (getTth t port.val).exPrev = (getTth s port.val).exCur
      ∧ (getTth t port.val).replyDue = true ∧ (∀ q, q ≠ port.val → getTth t q = getTth s q) ∧ UnitsKept s t) ∧
    (60 ≤ popcount (bs ^^^ 0x8F3AD2156C0BE749) → timeDir s port.val = 1 → ∃ t, exec (.tthMarkerRx port bs false stamp) s = .next t
      ∧ (getTth t port.val).t4 = some stamp ∧ (getTth t port.val).exCur = (getTth s port.val).exCur ∧ UnitsKept s t) ∧
    (∀ late, late = true ∨ (4 < popcount (bs ^^^ 0x8F3AD2156C0BE749) ∧ popcount (bs ^^^ 0x8F3AD2156C0BE749) < 60) →
      ∃ t, exec (.tthMarkerRx port bs late stamp) s = .next t
        ∧ (getTth t port.val).state = (if 1 ≤ (getTth s port.val).lostMarkers then .retrain else .up)
        ∧ (∀ q, q ≠ port.val → getTth t q = getTth s q) ∧ UnitsKept s t)) ∧
  (∀ g u, takeAct s 9 (BitVec.ofNat 8 port.val) (fun _ => true) = some (g, u) → (tethRec s port.val).isSome = true →
    ((getTth s port.val).state = .up → (getTth s port.val).syncAt = none → ∃ t, exec (.timeSync port) s = .next t
      ∧ getTth t port.val = { getTth s port.val with syncAt := some s.now } ∧ (∀ q, q ≠ port.val → getTth t q = getTth s q) ∧ UnitsKept s t) ∧
    ((getTth s port.val).state ≠ .up ∨ (getTth s port.val).syncAt.isSome = true → ∃ t, exec (.timeSync port) s = .next t
      ∧ getTth t port.val = { getTth s port.val with timeSkip := satInc (getTth s port.val).timeSkip } ∧ UnitsKept s t)) ∧
  (∀ a stamp, (getTth s port.val).state = .up → (getTth s port.val).cwIdx = 0 → (getTth s port.val).mktSent = none →
    (getTth s port.val).replyDue = false → (getTth s port.val).syncAt = some a →
    (12288 ≤ (s.now - a) * 100 → ∃ t, exec (.tthMktSend port stamp) s = .next t ∧ (getTth t port.val).mktSent = some stamp
      ∧ (getTth t port.val).syncAt = none
      ∧ t.sent.head? = some (.marker port.val true (markerLevels (lineBits (getTth s port.val)) true))
      ∧ (getTth t port.val).txScr = txSeed s port.val ∧ UnitsKept s t) ∧
    ((s.now - a) * 100 < 12288 → exec (.tthMktSend port stamp) s = .next s)) ∧
  (∀ frame, (getTth s port.val).state = .up →
    (timeDir s port.val = 0 → ∃ t, exec (.tthTimeFrame port frame) s = .next t
      ∧ (getTth t port.val).timeBad = satInc (getTth s port.val).timeBad ∧ (getTth t port.val).timeOfs = (getTth s port.val).timeOfs
      ∧ UnitsKept s t) ∧
    (timeDir s port.val = 2 → bit (u8 frame.payload 0x15) 2 = false →
      ∃ t, exec (.tthTimeFrame port frame) s = .next t
        ∧ (getTth t port.val).exCur.msg = some (frame.seq, u64 frame.payload 0, u8 frame.payload 0x14, bit (u8 frame.payload 0x15) 1)
        ∧ (∀ o d ok, exchangeOf s.air.steps (getTth s port.val).exPrev frame.seq (u64 frame.payload 8) (bit (u8 frame.payload 0x15) 0)
            (bit (u8 frame.payload 0x15) 1) = some (o, d, ok) →
            (getTth t port.val).timeOfs = BitVec.ofInt 32 (fdiv o 2) ∧ (getTth t port.val).timeDly = BitVec.ofInt 32 (fdiv d 2)
            ∧ (getTth t port.val).timeValid = ok)
        ∧ (∀ q, q ≠ port.val → getTth t q = getTth s q) ∧ UnitsKept s t)))

/-- R87, R533 to R536, R541, R543, R544. Girth links: what starts a retrain, the order of the training phases, what makes a link
ACTIVE with fresh sequences and the advertised credit, and what fails it, with its Tether ports silent. Host requests that
waited for the link go on, in order, once it is ACTIVE or failed. -/
def Obligations.GirthTrainsAndFails : Prop := ∀ (s : State) (g : Fin 2),
  ((getGirth s g.val).state = .active →
    (∀ cause, ∃ t, exec (.grtRetrain g cause) s = .next t ∧ (getGirth t g.val).state = .retrain ∧ (getGirth t g.val).phase = .clock
      ∧ (getGirth t g.val).full = false ∧ (getGirth t g.val).retrain = satInc (getGirth s g.val).retrain
      ∧ (getGirth t g.val).buf = (getGirth s g.val).buf ∧ (getGirth t g.val).rxSeq = (getGirth s g.val).rxSeq
      ∧ UnitsKept s t ∧ PartKept s t) ∧
    (MgmtOpen s → ∃ t, exec (.grtCtlRetrain g) s = .next t ∧ (getGirth t g.val).state = .retrain
      ∧ (getGirth t g.val).retrain = satInc (getGirth s g.val).retrain ∧ UnitsKept s t ∧ PartKept (unheld s 0) t)) ∧
  ((getGirth s g.val).state ≠ .active → (∀ cause, exec (.grtRetrain g cause) s = .next s)
    ∧ (MgmtOpen s → exec (.grtCtlRetrain g) s = .next (unheld s 0))) ∧
  ((getGirth s g.val).state = .active ∨ (getGirth s g.val).state = .retrain →
    (windowBare s.now (getGirth s g.val) = true → ∃ t, exec (.girthFailWindow g) s = .next ((getGirth s g.val).held.foldl runHeld t)
      ∧ (getGirth t g.val).state = .failed ∧ (getGirth t g.val).held = []
      ∧ (getGirth t g.val).failCause = 6 ∧ (getGirth t g.val).buf = [] ∧ (getGirth t g.val).inQ = []
      ∧ (∀ p, p / 2 = g.val → (tethRec s p).isSome = true → (getTth t p).state = .noDie) ∧ UnitsKept s t ∧ PartKept s t) ∧
    (windowBare s.now (getGirth s g.val) = false →
      ((getGirth s g.val).state = .retrain → exec (.girthFailWindow g) s = .next s) ∧
      ((getGirth s g.val).state = .active → ∃ t, exec (.girthFailWindow g) s = .next ((getGirth s g.val).held.foldl runHeld t)
        ∧ getGirth t g.val = { getGirth s g.val with held := [] } ∧ (∀ h, h ≠ g.val → getGirth t h = getGirth s h)
        ∧ t = { s with girths := t.girths }))) ∧
  ((getGirth s g.val).state = .active → (getGirth s g.val).buf ≠ [] → (getGirth s g.val).resend = [] →
    (256000 ≤ (s.now - (getGirth s g.val).ackAt) * 8138 → ∃ t, exec (.grtReplayTimeout g) s = .next t
      ∧ (getGirth t g.val).resend = (getGirth s g.val).buf.map (·.seq) ∧ (getGirth t g.val).replay = satInc (getGirth s g.val).replay
      ∧ (getGirth t g.val).buf = (getGirth s g.val).buf ∧ t = { s with girths := t.girths }) ∧
    ((s.now - (getGirth s g.val).ackAt) * 8138 < 256000 → exec (.grtReplayTimeout g) s = .next s)) ∧
  ((getGirth s g.val).state = .training ∨ (getGirth s g.val).state = .retrain → ∀ param,
    ((getGirth s g.val).phase = .clock → ∃ t, exec (.grtTrainingPhaseEnd g 0 param) s = .next t ∧ (getGirth t g.val).phase = .pattern
      ∧ t = { s with girths := t.girths }) ∧
    ((getGirth s g.val).phase = .pattern → ∃ t, exec (.grtTrainingPhaseEnd g 0 param) s = .next t ∧ (getGirth t g.val).phase = .repair
      ∧ t = { s with girths := t.girths }) ∧
    ((getGirth s g.val).phase = .repair → ∃ t, exec (.grtTrainingPhaseEnd g 0 param) s = .next t ∧ (getGirth t g.val).phase = .param
      ∧ (getGirth t g.val).faulty = param.faulty ∧ (getGirth t g.val).txScr = laneStart ∧ (getGirth t g.val).rxScr = laneStart
      ∧ (getGirth t g.val).ctrlQ.head? = some (ownParam (getGirth s g.val)) ∧ (getGirth t g.val).ctrlQ.length = 9
      ∧ (∀ b ∈ (getGirth t g.val).ctrlQ.drop 1, b.take 8 = [2, 0, 0, 0, 0, 0, 0, 0])
      ∧ t = { s with girths := t.girths, free := t.free }) ∧
    ((getGirth s g.val).phase = .param → paramOk param = true → (getGirth s g.val).full = true →
      ∃ t, exec (.grtTrainingPhaseEnd g 0 param) s = .next ((getGirth s g.val).held.foldl runHeld t)
        ∧ (getGirth t g.val).state = .active ∧ (getGirth t g.val).phase = .none ∧ (getGirth t g.val).lat = latencyOf param
        ∧ (getGirth t g.val).txScr = laneStart ∧ (getGirth t g.val).rxScr = laneStart ∧ (getGirth t g.val).txSeq = 0 ∧ (getGirth t g.val).rxSeq = 0 ∧ (getGirth t g.val).peer = some param
        ∧ (∀ v, v < 4 → tget 0 (getGirth t g.val).limit v = param.credInit.getD v 0 ∧ tget 0 (getGirth t g.val).used v = 0
            ∧ tget 0 (getGirth t g.val).granted v = ([64, 128, 128, 32] : List W16).getD v 0)
        ∧ t = { s with girths := t.girths }) ∧
    ((getGirth s g.val).phase = .param → paramOk param = true → (getGirth s g.val).full = false →
      (∀ p, (getGirth s g.val).peer = some p → sameDie param p = true →
        ∃ t, exec (.grtTrainingPhaseEnd g 0 param) s = .next ((getGirth s g.val).held.foldl runHeld t) ∧ (getGirth t g.val).state = .active
          ∧ (getGirth t g.val).txSeq = (getGirth s g.val).txSeq ∧ (getGirth t g.val).rxSeq = (getGirth s g.val).rxSeq
          ∧ (getGirth t g.val).timeDue = true ∧ (getGirth t g.val).resend = (getGirth t g.val).buf.map (·.seq)
          ∧ UnitsKept s t ∧ PartKept s t) ∧
      ((∀ p, (getGirth s g.val).peer = some p → sameDie param p = false) → ∃ t,
        exec (.grtTrainingPhaseEnd g 0 param) s = .next ((getGirth s g.val).held.foldl runHeld t)
        ∧ (getGirth t g.val).state = .failed ∧ (getGirth t g.val).failCause = 4)) ∧
    (∀ cause, (getGirth s g.val).phase = .clock ∧ (cause = 1 ∨ cause = 5) ∨
        ((getGirth s g.val).phase = .pattern ∨ (getGirth s g.val).phase = .repair) ∧ (cause = 2 ∨ cause = 5) ∨
        (getGirth s g.val).phase = .param ∧ cause = 5 →
      ((getGirth s g.val).full = true → ∃ t, exec (.grtTrainingPhaseEnd g cause param) s = .next ((getGirth s g.val).held.foldl runHeld t)
        ∧ (getGirth t g.val).state = .failed ∧ (getGirth t g.val).failCause = cause ∧ UnitsKept s t ∧ PartKept s t) ∧
      ((getGirth s g.val).full = false → 2 ≤ (getGirth s g.val).failRun →
        ∃ t, exec (.grtTrainingPhaseEnd g cause param) s = .next ((getGirth s g.val).held.foldl runHeld t) ∧ (getGirth t g.val).state = .failed ∧ (getGirth t g.val).failCause = 6
          ∧ UnitsKept s t ∧ PartKept s t) ∧
      ((getGirth s g.val).full = false → (getGirth s g.val).failRun < 2 →
        ∃ t, exec (.grtTrainingPhaseEnd g cause param) s = .next t ∧ (getGirth t g.val).state = .retrain
          ∧ (getGirth t g.val).failRun = (getGirth s g.val).failRun + 1 ∧ UnitsKept s t ∧ PartKept s t)))

/-- R533, R536 to R543, R545. Flits, read from the lanes with the scrambling taken out: one with a bad CRC is counted, asked for
again and changes nothing else, and 64 in 100 µs retrain; a MSG flit in sequence is taken, a later one is asked for again and a
repeat is dropped; an acknowledgement empties the replay buffer. Every slot of an ACTIVE link sends one flit on its wires: a
replay, else a CTRL flit, else a new flit that credit and buffer allow, else an idle one; a fourth sending retrains instead. In
PARAM a PING is answered and only CTRL and IDLE flits go out; before, flits count for nothing. -/
def Obligations.GirthFlits : Prop := ∀ (s : State) (g : Fin 2),
  ((getGirth s g.val).state = .active → (getGirth s g.val).phase = .none →
  (∀ lanes flit, flitFrom (getGirth s g.val).rxScr lanes = flit → flitCrc flit ≠ u16 flit 0xFE → ∃ t, exec (.grtFlitRx g lanes) s = .next t
    ∧ (getGirth t g.val).crcErr = satInc (getGirth s g.val).crcErr ∧ (getGirth t g.val).nakDue = true
    ∧ (getGirth t g.val).rxFlits = (getGirth s g.val).rxFlits + 1 ∧ (getGirth t g.val).rxScr = (laneRun 32 (getGirth s g.val).rxScr).2
    ∧ (getGirth t g.val).rxSeq = (getGirth s g.val).rxSeq
    ∧ (getGirth t g.val).inQ = (getGirth s g.val).inQ ∧ (getGirth t g.val).buf = (getGirth s g.val).buf
    ∧ (getGirth t g.val).state = (if 63 ≤ ((getGirth s g.val).crcTimes.filter (fun x => decide (s.now - x < 12288))).length then .retrain
        else .active)
    ∧ UnitsKept s t ∧ PartKept s t) ∧
  (∀ lanes flit, flitFrom (getGirth s g.val).rxScr lanes = flit → flitCrc flit = u16 flit 0xFE →
    (bits (u8 flit 0) 0 2 = 1 → ∃ t, exec (.grtFlitRx g lanes) s = .next t
      ∧ (bits (u16 flit 2) 0 12 = (getGirth s g.val).rxSeq → (getGirth t g.val).rxSeq = (getGirth s g.val).rxSeq + 1
          ∧ (getGirth t g.val).inQ = (getGirth s g.val).inQ ++ (messagesIn 15 (slice flit 0x0E (16 * (bits (u8 flit 1) 2 4).toNat))).map
              (fun m => { seq := (getGirth s g.val).rxSeq, vc := (bits (u8 flit 1) 0 2).toNat, bytes := m })
          ∧ tget 0 (getGirth t g.val).granted (bits (u8 flit 1) 0 2).toNat = tget 0 (getGirth s g.val).granted (bits (u8 flit 1) 0 2).toNat
            + (if messagesIn 15 (slice flit 0x0E (16 * (bits (u8 flit 1) 2 4).toNat)) = [] then 1 else 0))
      ∧ (0 < (bits (u16 flit 2) 0 12 - (getGirth s g.val).rxSeq).toNat → (bits (u16 flit 2) 0 12 - (getGirth s g.val).rxSeq).toNat < 2048 →
          (getGirth t g.val).nakDue = true ∧ (getGirth t g.val).rxSeq = (getGirth s g.val).rxSeq
          ∧ (getGirth t g.val).inQ = (getGirth s g.val).inQ)
      ∧ (2048 ≤ (bits (u16 flit 2) 0 12 - (getGirth s g.val).rxSeq).toNat → (getGirth t g.val).dup = satInc (getGirth s g.val).dup
          ∧ (getGirth t g.val).rxSeq = (getGirth s g.val).rxSeq ∧ (getGirth t g.val).inQ = (getGirth s g.val).inQ)
      ∧ t = { s with girths := t.girths }) ∧
    (bits (u8 flit 0) 0 2 = 2 → u8 flit 0x0E = 4 → ∃ t, exec (.grtFlitRx g lanes) s = .next t ∧ (getGirth t g.val).state = .retrain
      ∧ UnitsKept s t ∧ PartKept s t) ∧
    (bits (u8 flit 0) 0 2 = 2 → u8 flit 0x0E = 2 → ∃ t, exec (.grtFlitRx g lanes) s = .next t
      ∧ (∃ w : W32, (getGirth t g.val).ctrlQ = (getGirth s g.val).ctrlQ ++ [[3, 0, 0, 0, 0, 0, 0, 0] ++ slice flit 0x16 8 ++ bytesOf w]) ∧ UnitsKept s t ∧ PartKept s t) ∧
    ((bit (u16 flit 4) 14 = true ∨ bit (u16 flit 4) 15 = true) → laterThan (bits (u16 flit 4) 0 12) (getGirth s g.val).acked = true →
      ∃ t, exec (.grtFlitRx g lanes) s = .next t ∧ (getGirth t g.val).acked = bits (u16 flit 4) 0 12
        ∧ ∀ f ∈ (getGirth t g.val).buf, f ∈ (getGirth s g.val).buf ∧ 2048 ≤ (bits (u16 flit 4) 0 12 - f.seq).toNat)) ∧
  (∀ q rest f, (getGirth s g.val).resend = q :: rest → (getGirth s g.val).buf.find? (fun f => f.seq == q) = some f →
    (f.sends < 3 → ∃ t, exec (.grtFlitSlot g) s = .next t ∧ (getGirth t g.val).resend = rest
      ∧ (getGirth t g.val).txFlits = (getGirth s g.val).txFlits + 1 ∧ (getGirth t g.val).txSeq = (getGirth s g.val).txSeq
      ∧ { f with sends := f.sends + 1 } ∈ (getGirth t g.val).buf 
      ∧ (∃ bytes, t.sent.head? = some (.flit g.val bytes (flitWires ((getGirth s g.val).faulty.drop 2) (getGirth s g.val).txScr bytes)))
      ∧ (getGirth t g.val).txScr = (laneRun 32 (getGirth s g.val).txScr).2 ∧ t = { s with girths := t.girths, sent := t.sent }) ∧
    (3 ≤ f.sends → ∃ t, exec (.grtFlitSlot g) s = .next t ∧ (getGirth t g.val).state = .retrain ∧ UnitsKept s t ∧ PartKept s t)) ∧
  (∀ q rest, (getGirth s g.val).resend = q :: rest → (getGirth s g.val).buf.find? (fun f => f.seq == q) = none →
    ∃ t, exec (.grtFlitSlot g) s = .next t ∧ getGirth t g.val = { getGirth s g.val with resend := rest }
      ∧ t = { s with girths := t.girths }) ∧
  (∀ b rest, (getGirth s g.val).resend = [] → (getGirth s g.val).ctrlQ = b :: rest → ∃ t, exec (.grtFlitSlot g) s = .next t
    ∧ (getGirth t g.val).ctrlQ = rest ∧ (getGirth t g.val).txFlits = (getGirth s g.val).txFlits + 1
    ∧ (getGirth t g.val).txSeq = (getGirth s g.val).txSeq 
      ∧ (∃ bytes, t.sent.head? = some (.flit g.val bytes (flitWires ((getGirth s g.val).faulty.drop 2) (getGirth s g.val).txScr bytes)))
      ∧ (getGirth t g.val).txScr = (laneRun 32 (getGirth s g.val).txScr).2 ∧ t = { s with girths := t.girths, sent := t.sent }) ∧
  ((getGirth s g.val).resend = [] → (getGirth s g.val).ctrlQ = [] →
    (∀ v, v < 4 → vcReady (getGirth s g.val) v = true → (v = 3 ∨ ∀ w, w < 4 → w ≠ v → vcReady (getGirth s g.val) w = false) →
      ∃ t, exec (.grtFlitSlot g) s = .next t ∧ (getGirth t g.val).txSeq = (getGirth s g.val).txSeq + 1
        ∧ (getGirth t g.val).buf.length = (getGirth s g.val).buf.length + 1
        ∧ tget 0 (getGirth t g.val).used v = tget 0 (getGirth s g.val).used v + 1
        ∧ (getGirth t g.val).txFlits = (getGirth s g.val).txFlits + 1 
      ∧ (∃ bytes, t.sent.head? = some (.flit g.val bytes (flitWires ((getGirth s g.val).faulty.drop 2) (getGirth s g.val).txScr bytes)))
      ∧ (getGirth t g.val).txScr = (laneRun 32 (getGirth s g.val).txScr).2 ∧ t = { s with girths := t.girths, sent := t.sent }) ∧
    ((∀ v, v < 4 → vcReady (getGirth s g.val) v = false) → ∃ t, exec (.grtFlitSlot g) s = .next t
      ∧ (getGirth t g.val).txSeq = (getGirth s g.val).txSeq ∧ (getGirth t g.val).buf = (getGirth s g.val).buf
      ∧ (getGirth t g.val).txFlits = (getGirth s g.val).txFlits + 1 
      ∧ (∃ bytes, t.sent.head? = some (.flit g.val bytes (flitWires ((getGirth s g.val).faulty.drop 2) (getGirth s g.val).txScr bytes)))
      ∧ (getGirth t g.val).txScr = (laneRun 32 (getGirth s g.val).txScr).2 ∧ t = { s with girths := t.girths, sent := t.sent }))) ∧
  ((getGirth s g.val).phase = .param →
    (∀ lanes flit, flitFrom (getGirth s g.val).rxScr lanes = flit → ∃ t, exec (.grtFlitRx g lanes) s = .next t
      ∧ (getGirth t g.val).rxScr = (laneRun 32 (getGirth s g.val).rxScr).2 ∧ (getGirth t g.val).rxFlits = (getGirth s g.val).rxFlits
      ∧ (flitCrc flit = u16 flit 0xFE → bits (u8 flit 0) 0 2 = 2 → u8 flit 0x0E = 2 → ∃ w : W32,
          (getGirth t g.val).ctrlQ = (getGirth s g.val).ctrlQ ++ [[3, 0, 0, 0, 0, 0, 0, 0] ++ slice flit 0x16 8 ++ bytesOf w])
      ∧ (flitCrc flit ≠ u16 flit 0xFE ∨ bits (u8 flit 0) 0 2 ≠ 2 ∨ u8 flit 0x0E ≠ 2 → (getGirth t g.val).ctrlQ = (getGirth s g.val).ctrlQ)
      ∧ t = { s with girths := t.girths, free := t.free }) ∧
    (∃ t bytes, exec (.grtFlitSlot g) s = .next t ∧ (getGirth t g.val).ctrlQ = (getGirth s g.val).ctrlQ.drop 1
      ∧ t.sent.head? = some (.flit g.val bytes (flitWires ((getGirth s g.val).faulty.drop 2) (getGirth s g.val).txScr bytes))
      ∧ bits (u8 bytes 0) 0 2 = (if (getGirth s g.val).ctrlQ = [] then 0 else 2)
      ∧ (getGirth t g.val).txScr = (laneRun 32 (getGirth s g.val).txScr).2 ∧ t = { s with girths := t.girths, sent := t.sent })) ∧
  ((getGirth s g.val).phase ≠ .param → (getGirth s g.val).state ≠ .active →
    (∀ lanes, exec (.grtFlitRx g lanes) s = .next s) ∧ exec (.grtFlitSlot g) s = .next s)

/-- R91, R547, R550, R551, R556, R557, R570, R572, R573. The time channel and the converter links: a TIME message goes out at a
multiple of 1,024 ticks or after a step and sets the I/O die's count, a TACT waits at its unit; a SYSREF edge fixes the
boundaries or, more than half a tick off them, is a misalignment that RESYNC alone ends; lane and ratio faults and their ends. -/
def Obligations.TimeChannelAndConverters : Prop := ∀ (s : State) (d : Fin 2),
  ((getGirth s d.val).state = .active → (timeStep s d.val || (decide (s.air.tick.toNat % 1024 = 0) && (getGirth s d.val).timeAt != some s.air.abs)) = true →
    ∃ t, exec (.timeSend d) s = .next t
      ∧ t.sent.head? = some (.time d.val (airStamp s.air) (timeStep s d.val) (refCode s.air.state) (BitVec.ofNat 32 (holdEst s))
        (BitVec.ofInt 64 s.air.corr))
      ∧ timeStep t d.val = false ∧ (getGirth t d.val).timeAt = some s.air.abs ∧ t = { s with girths := t.girths, sent := t.sent }) ∧
  ((getGirth s d.val).state ≠ .active ∨ (timeStep s d.val || (decide (s.air.tick.toNat % 1024 = 0) && (getGirth s d.val).timeAt != some s.air.abs)) = false →
    exec (.timeSend d) s = .next s) ∧
  (∀ stamp count, ∃ t, exec (.time d stamp false count) s = .next t
    ∧ (getIod t d.val).count = BitVec.ofNat 64 (stampCount stamp) + BitVec.ofNat 64 (((getGirth s d.val).lat.toNat * 49152 + 50000) / 100000)
    ∧ (getGirth t d.val).timeAdj = (if 1 < (count - (getIod t d.val).count).toInt.natAbs then satInc (getGirth s d.val).timeAdj
        else (getGirth s d.val).timeAdj)
    ∧ (getIod t d.val).refState = refCode s.air.state ∧ (∀ q, q ≠ d.val → getIod t q = getIod s q) ∧ UnitsKept s t ∧ PartKept s t) ∧
  (∀ stamp count, exec (.time d stamp true count) s = .next s) ∧
  (∀ port action stamp, ((getGirth s d.val).state = .active → ∃ t, exec (.tact d port action stamp) s = .next t
      ∧ (getIod t d.val).tacts = (getIod s d.val).tacts ++ [(port.val, action, stamp)] ∧ t = { s with iods := t.iods }) ∧
    ((getGirth s d.val).state ≠ .active → ∃ t, exec (.tact d port action stamp) s = .next t
      ∧ (getTth t port.val).timeSkip = satInc (getTth s port.val).timeSkip ∧ UnitsKept s t ∧ PartKept s t)) ∧
  (∀ stamp, bit (getIod s d.val).cfg 2 = true →
    ((getIod s d.val).misalign = false → ((getIod s d.val).realign = true ∨ (getIod s d.val).sysref = none) →
      ∃ t, exec (.sysrefEdge d stamp) s = .next t ∧ (getIod t d.val).sysref = some (sysrefPlace s stamp) ∧ (getIod t d.val).aligned = true
        ∧ (getIod t d.val).realign = false
        ∧ (getIod t d.val).lemc = BitVec.ofNat 6 ((stampCount stamp + 7) / 8 + (bits (getIod s d.val).cfg 8 6).toNat)
        ∧ (∀ q, q ≠ d.val → getIod t q = getIod s q) ∧ t = { s with iods := t.iods }) ∧
    (∀ r, (getIod s d.val).sysref = some r → (getIod s d.val).realign = false ∨ (getIod s d.val).misalign = true →
      (4 < (sysrefPlace s stamp - r).toNat → (sysrefPlace s stamp - r).toNat < 508 → ∃ t, exec (.sysrefEdge d stamp) s = .next t
        ∧ (getIod t d.val).misalign = true ∧ (getIod t d.val).misSeen = true ∧ (getIod t d.val).sysref = some r
        ∧ UnitsKept s t ∧ PartKept s t) ∧
      ((sysrefPlace s stamp - r).toNat ≤ 4 ∨ 508 ≤ (sysrefPlace s stamp - r).toNat → exec (.sysrefEdge d stamp) s = .next s))) ∧
  (bit (getIod s d.val).cfg 2 = false → ∀ stamp, exec (.sysrefEdge d stamp) s = .next s) ∧
  (MgmtOpen s → ∃ t, exec (.rxcResync d) s = .next t ∧ (getIod t d.val).misalign = false ∧ (getIod t d.val).realign = true
    ∧ (getIod t d.val).aligned = false ∧ (getIod t d.val).sysref = none ∧ (∀ q, q ≠ d.val → getIod t q = getIod s q)
    ∧ UnitsKept s t ∧ PartKept (unheld s 0) t) ∧
  (∀ lane errors, (∃ t, exec (.jesdLaneLoss d lane errors) s = .next t ∧ (getIod t d.val).lanes = setBit (getIod s d.val).lanes lane.toNat false
      ∧ (getIod t d.val).laneErr = satAdd (getIod s d.val).laneErr errors.toNat
      ∧ (∀ q, q ≠ d.val → getIod t q = getIod s q) ∧ UnitsKept s t ∧ PartKept s t) ∧
    (∃ t, exec (.jesdLaneSync d lane) s = .next t ∧ (getIod t d.val).lanes = setBit (getIod s d.val).lanes lane.toNat true
      ∧ (∀ q, q ≠ d.val → getIod t q = getIod s q) ∧ t = { s with iods := t.iods })) ∧
  (∀ ppb, (getIod s d.val).ratioBad = false → ∃ t, exec (.cnvRatioFault d ppb) s = .next t ∧ (getIod t d.val).ratioBad = true
    ∧ (∀ q, q ≠ d.val → getIod t q = getIod s q) ∧ UnitsKept s t ∧ PartKept s t) ∧
  (∀ ppb, (getIod s d.val).ratioBad = true → exec (.cnvRatioFault d ppb) s = .next s) ∧
  (∃ t, exec (.cnvRatioRestored d) s = .next t ∧ getIod t d.val = { getIod s d.val with ratioBad := false }
    ∧ (∀ q, q ≠ d.val → getIod t q = getIod s q) ∧ t = { s with iods := t.iods })

/-- R117, R128, R132, R126, R643. LOAD and LOAD_SEG begin a load or are refused with the first code that applies, and what runs
stays; ABORT ends a load or a segment before ARMED with 0x21 and does nothing else. R117, R119, R126, R131. What a load comes
to: an error at its step, which leaves what runs; with REPLACE a warm reset that brings the structure in, or JOURNAL_LIVE; else
the acceptance of the structure. -/
def Obligations.LoadsJudged : Prop :=
  (∀ (s : State), MgmtOpenEarly s →
  (∀ replace,
    (loaderBusy s = true → ∃ t, exec (.hnsLoad replace) s = .next t ∧ t.loader.errCode = 0x22 ∧ t.loader.state = s.loader.state
      ∧ t.loader.job = s.loader.job ∧ t.hns = s.hns ∧ t.accepted = s.accepted ∧ UnitsKept s t) ∧
    (loaderBusy s = false → s.accepted = true → replace = false → ∃ t, exec (.hnsLoad replace) s = .next t ∧ t.loader.errCode = 0x1B
      ∧ t.loader.state = s.loader.state ∧ t.loader.job = s.loader.job ∧ t.hns = s.hns ∧ t.accepted = s.accepted ∧ UnitsKept s t) ∧
    (loaderBusy s = false → (s.accepted = false ∨ replace = true) → s.fuses.burned = 0 → ∃ t, exec (.hnsLoad replace) s = .next t
      ∧ t.loader.errCode = 0x09 ∧ t.loader.state = s.loader.state ∧ t.loader.job = s.loader.job ∧ t.hns = s.hns ∧ UnitsKept s t) ∧
    (loaderBusy s = false → (s.accepted = false ∨ replace = true) → s.fuses.burned ≠ 0 → loaderDead s = true →
      ∃ t, exec (.hnsLoad replace) s = .next t ∧ t.loader.errCode = 0x19 ∧ t.loader.job = s.loader.job ∧ t.hns = s.hns ∧ UnitsKept s t) ∧
    (loaderBusy s = false → (s.accepted = false ∨ replace = true) → s.fuses.burned ≠ 0 → loaderDead s = false →
      ∃ t, exec (.hnsLoad replace) s = .next t ∧ t.loader.state = 1
        ∧ t.loader.job = some { segment := false, replace := replace && s.accepted } ∧ t.loader.errCode = s.loader.errCode
        ∧ t.loader.replace = replace ∧ t.hns = s.hns ∧ t.accepted = s.accepted ∧ UnitsKept s t)) ∧
  (∀ stall, (loaderBusy s = true → ∃ t, exec (.hnsLoadSeg stall) s = .next t ∧ t.loader.errCode = 0x22 ∧ t.loader.segState = s.loader.segState
      ∧ t.hns = s.hns ∧ UnitsKept s t) ∧
    (loaderBusy s = false → loaderDead s = true → ∃ t, exec (.hnsLoadSeg stall) s = .next t ∧ t.loader.errCode = 0x19
      ∧ t.loader.segState = s.loader.segState ∧ t.hns = s.hns ∧ UnitsKept s t) ∧
    (loaderBusy s = false → loaderDead s = false → ∃ t, exec (.hnsLoadSeg stall) s = .next t ∧ t.loader.segState = 1
      ∧ t.loader.job = some { segment := true, replace := false } ∧ t.loader.segStall = BitVec.ofNat 4 stall.val ∧ t.hns = s.hns
      ∧ t.accepted = s.accepted ∧ UnitsKept s t)) ∧
  ((∀ j, s.loader.job = some j → j.segment = false → ∃ t, exec .hnsAbort s = .next t ∧ t.loader.errCode = 0x21 ∧ t.loader.state = 15
      ∧ t.loader.job = none ∧ t.hns = s.hns ∧ t.accepted = s.accepted ∧ UnitsKept s t) ∧
    ((∀ j, s.loader.job = some j → j.segment = true) → 1 ≤ s.loader.segState.toNat → s.loader.segState.toNat ≤ 3 →
      ∃ t, exec .hnsAbort s = .next t ∧ t.loader.errCode = 0x21 ∧ t.loader.segState = 0 ∧ t.loader.job = none ∧ t.merged = none
        ∧ t.hns = s.hns ∧ t.accepted = s.accepted) ∧
    ((∀ j, s.loader.job = some j → j.segment = true) → s.loader.segState = 0 ∨ 3 < s.loader.segState.toNat →
      exec .hnsAbort s = .next (unheld s 0)))) ∧
  (∀ (s : State) (readFault : Bool) (slotErr : BitVec 2) (image : List Byte) bad j d,
  s.loader.job = some j → j.segment = false → groomUp s 1 = true → d = slotDamaged s slotErr →
  (∃ t, exec (.harnessAccepted readFault true slotErr image bad) s = .next t ∧ t.loader.errCode = 0x19 ∧ t.loader.state = 15
    ∧ t.loader.job = none ∧ t.hns = s.hns ∧ t.accepted = s.accepted ∧ UnitsKept s t) ∧
  (∀ k e, stepsToChecker d false readFault image = some (k, e) → ∃ t, exec (.harnessAccepted readFault false slotErr image bad) s = .next t
    ∧ t.loader.errCode = e.code ∧ t.loader.state = 15 ∧ t.loader.job = none ∧ t.hns = s.hns ∧ t.accepted = s.accepted ∧ UnitsKept s t) ∧
  (stepsToChecker d false readFault image = none →
    (∀ k e, stepsFull d.fuses (capsOf d) image (harnessOf image d.hns.time) = some (k, e) →
      ∃ t, exec (.harnessAccepted readFault false slotErr image bad) s = .next t ∧ t.loader.errCode = e.code ∧ t.loader.state = 15
        ∧ t.hns = s.hns ∧ t.accepted = s.accepted ∧ UnitsKept s t) ∧
    (stepsFull d.fuses (capsOf d) image (harnessOf image d.hns.time) = none →
      (j.replace = true → journalLive d (dropSpares d.fuses (harnessOf image d.hns.time)).1 = true →
        ∃ t, exec (.harnessAccepted readFault false slotErr image bad) s = .next t ∧ t.loader.errCode = 0x1A ∧ t.loader.state = 15
          ∧ t.hns = s.hns ∧ t.accepted = s.accepted ∧ UnitsKept s t) ∧
      (j.replace = true → journalLive d (dropSpares d.fuses (harnessOf image d.hns.time)).1 = false → s.boot.warmStep = 0 →
        s.boot.pwrOk = true → s.boot.powerFailed = false → s.boot.coldWaiting = false → s.power.tripped = false → s.boot.bringup = false →
        ∃ t, exec (.harnessAccepted readFault false slotErr image bad) s = .next t ∧ t.loader.nextImage = some image
          ∧ t.boot.warmStep = 1 ∧ t.boot.warmCause = 3 ∧ t.hns = s.hns ∧ t.accepted = s.accepted) ∧
      (j.replace = false → loaderDead d = false →
        ∃ t, exec (.harnessAccepted readFault false slotErr image bad) s = .next t ∧ t.accepted = true
          ∧ t.hns = (dropSpares d.fuses (harnessOf image d.hns.time)).1 ∧ t.loader.state = 12 ∧ t.loader.serial = imageSerialNo image
          ∧ t.loader.image = image ∧ t.boot.phase = .running))))

/-- R123 to R125, R128, R130. A segment: an error at any of its checks leaves the running structure and no segment; one that passes
waits VALIDATED with its merged structure; EDITED, its gait is the shadow bank's and a swap is armed where a swap tick
qualifies, with its stall's doorbells held; with none within the bound it fails. R58, R124, R441. STALL_SWAP, an issued action
taking effect: where none was issued, it is its own swap tick, at which the generation of each of the stall's clusters advances
and no other's. With no segment armed for it the structure stays; a segment armed at its swap tick whose checks still hold is in
force, but for network records, which wait for their slot boundary. -/
def Obligations.SegmentsSwap : Prop :=
  (∀ (s : State),
  (∀ readFault slotErr image, ∀ d, s.loader.job.any (·.segment) = true → s.loader.segState = 1 → groomUp s 1 = true →
    d = { slotDamaged s slotErr with loader := { (slotDamaged s slotErr).loader with
      segImage := image, segStall := BitVec.ofNat 4 (nat8 image 7) } } →
    (∃ t, exec (.segmentValidated readFault true slotErr image) s = .next t ∧ t.loader.errCode = 0x19 ∧ t.loader.segState = 0
      ∧ t.merged = none ∧ t.hns = s.hns) ∧
    (∀ k e, stepsToChecker d true readFault image = some (k, e) → ∃ t, exec (.segmentValidated readFault false slotErr image) s = .next t
      ∧ t.loader.errCode = e.code ∧ t.loader.segState = 0 ∧ t.merged = none ∧ t.hns = s.hns) ∧
    (stepsToChecker d true readFault image = none →
      (∀ e, segCheck d image = .inl e →
        ∃ t, exec (.segmentValidated readFault false slotErr image) s = .next t ∧ t.loader.errCode = e.code ∧ t.loader.segState = 0
          ∧ t.merged = none ∧ t.hns = s.hns) ∧
      (∀ h, segCheck d image = .inr h →
        ∃ t, exec (.segmentValidated readFault false slotErr image) s = .next t ∧ t.merged = some h ∧ t.loader.segState = 2
          ∧ t.loader.segImage = image ∧ t.loader.segStall = BitVec.ofNat 4 (nat8 image 7) ∧ t.hns = s.hns
          ∧ t.mem = s.mem ∧ t.arrays = s.arrays))) ∧
  (∀ h, s.merged = some h → s.loader.segState = 2 → s.air.copying = false → groomUp s 3 = true →
    (segNowFenced s = true → ∃ t, exec .segmentEdited s = .next t ∧ t.loader.errCode = 0x23 ∧ t.loader.segState = 0 ∧ t.merged = none
      ∧ t.hns = s.hns) ∧
    (segNowFenced s = false →
      (keptCores s h s.loader.segStall.toNat).any (fun x => decide ((getCore s x.1).st ≠ .out)
        && decide ((inactBank (getCore s x.1)).tag ≠ some (imageSerialNo s.loader.segImage, x.2))) = false →
      (∀ k off, swapTick s s.loader.segStall.toNat 12288 searchSpan = some (k, off) → ∃ t, exec .segmentEdited s = .next t
        ∧ t.loader.segState = 4 ∧ t.loader.segFrame = s.air.frame + BitVec.ofNat 10 k ∧ t.loader.segTick = BitVec.ofNat 21 off
        ∧ (getStall t s.loader.segStall.toNat).segHold = true ∧ (shadowGait t.air).entries = h.gait ∧ activeGait t.air = activeGait s.air
        ∧ t.hns = s.hns ∧ UnitsKept s t) ∧
      (swapTick s s.loader.segStall.toNat 12288 searchSpan = none → ∃ t, exec .segmentEdited s = .next t
        ∧ t.loader.segState = 3 ∧ (shadowGait t.air).entries = h.gait ∧ activeGait t.air = activeGait s.air ∧ t.hns = s.hns
        ∧ t.stalls = s.stalls ∧ UnitsKept s t))) ∧
  (s.loader.segState = 3 → ∃ t, exec .segmentNoSwapPoint s = .next t ∧ t.loader.segState = 0 ∧ t.merged = none ∧ t.hns = s.hns
    ∧ t.loader.errCode = (if s.loader.delayed then 0x20 else 0x1F)) ∧
  (s.loader.segState ≠ 3 → exec .segmentNoSwapPoint s = .next s)) ∧
  (∀ (s : State) (stall : Fin 16) g u,
  takeAct s 6 (BitVec.ofNat 8 stall.val) (fun _ => true) = some (g, u) →
  (s.merged = none ∨ segArmed s g = false → ∃ t, exec (.stallSwap stall) s = .next t
    ∧ (s.air.issued = [] → ∀ c, c < 6 → (getCluster t c).gen = (getCluster s c).gen
        + (if (resRec s stall.val).any (fun r => (List.range 8).any (fun k => r.pcrOwn.getLsbD (8 * c + k))) then 1 else 0))
    ∧ (issuedAct s 6 (BitVec.ofNat 8 stall.val) (fun _ => true) = some g → t.clusters = s.clusters)
    ∧ t.hns = s.hns ∧ t.loader = s.loader ∧ t.merged = s.merged ∧ t.mem = s.mem ∧ t.arrays = s.arrays ∧ t.air = u.air) ∧
  (∀ h, s.merged = some h → segArmed s g = true → segNowFenced s = false →
    (s.hns.stalls.find? (fun r => r.stall == s.loader.segStall.toNat)).map (·.jobAbi)
      = (h.stalls.find? (fun r => r.stall == s.loader.segStall.toNat)).map (·.jobAbi) →
    ∃ t, exec (.stallSwap stall) s = .next t
      ∧ (∃ cs ns ls ss, t.hns = { h with carriers := cs, nets := ns, ldpc := ls, schoolNets := ss })
      ∧ (∀ x ∈ t.netNext, s.air.abs.toNat < x.from_)
      ∧ t.merged = none ∧ t.loader.segState = 0 ∧ t.loader.job = none ∧ t.loader.loadCnt = satInc s.loader.loadCnt
      ∧ tget 0 t.loader.segSerial s.loader.segStall.toNat = imageSerialNo s.loader.segImage))

/-- R116, R126, R133. Keys and floor: the confirm code burns an unburned slot, with the hash that HNS_PROV_HASH held when it began,
and no other value does anything; a slot that does not sign the accepted image is revoked; HNS_FLOOR takes HNS_SERIAL where that
is greater. -/
def Obligations.KeysAndFloor : Prop := ∀ (s : State),
  (MgmtOpenEarly s → ∀ (slot : Fin 2),
    (s.fuses.burned.getLsbD slot.val = false → s.loader.burning = none → ∃ t, exec (.keyBurn slot 0xA5C3) s = .next t
      ∧ t.loader.burning = some (slot.val, BitVec.ofNat 384 (beNat (s.loader.provHash.flatMap bytesOf)))
      ∧ t = { s with loader := t.loader, funcs := t.funcs }) ∧
    (s.loader.burning.isSome = true → ∀ confirm, exec (.keyBurn slot confirm) s = .next (unheld s 0)) ∧
    (s.fuses.burned.getLsbD slot.val = true → exec (.keyBurn slot 0xA5C3) s = .next (unheld s 0)) ∧
    (∀ confirm, confirm ≠ 0xA5C3 → exec (.keyBurn slot confirm) s = .next (unheld s 0)) ∧
    (s.accepted = true → s.loader.keySlot.toNat = slot.val → exec (.keyRevoke slot) s = .next (unheld s 0)) ∧
    (s.accepted = false ∨ s.loader.keySlot.toNat ≠ slot.val → ∃ t, exec (.keyRevoke slot) s = .next t
      ∧ t.fuses.revoked.getLsbD slot.val = true ∧ (∀ k, k ≠ slot.val → t.fuses.revoked.getLsbD k = s.fuses.revoked.getLsbD k)
      ∧ t = { s with fuses := { s.fuses with revoked := t.fuses.revoked }, funcs := t.funcs })) ∧
  (∀ k h, s.loader.burning = some (k, h) → k < 2 → ∃ t, exec .keyBurnDone s = .next t ∧ t.fuses.burned.getLsbD k = true
    ∧ (∀ m, m ≠ k → t.fuses.burned.getLsbD m = s.fuses.burned.getLsbD m) ∧ t.fuses.revoked = s.fuses.revoked
    ∧ (k = 0 → t.fuses.hash0 = h ∧ t.fuses.hash1 = s.fuses.hash1) ∧ (k = 1 → t.fuses.hash1 = h ∧ t.fuses.hash0 = s.fuses.hash0)
    ∧ t.loader.burning = none ∧ t = { s with fuses := t.fuses, loader := t.loader }) ∧
  (MgmtOpenEarly s → ∃ t, exec .hnsRaiseFloor s = .next t ∧ t.loader.floor.toNat = max s.loader.floor.toNat s.loader.serial.toNat
    ∧ t = { s with loader := { s.loader with floor := t.loader.floor }, funcs := t.funcs })

/-- R615 to R620, R630, R633. The next queued event is written as the recorder stands: counted as lost while it is stopped; a POST
entry while it is frozen, the last of which stops it; the trigger entry, which freezes it; a repetition of the entry it merges
with; else an entry of its own, with the next number. FREEZE and UNFREEZE are recorded. An entry found uncorrectable is marked
before. -/
def Obligations.TrailRecords : Prop := ∀ (s : State),
  (s.trail.queue = [] → exec (.trailWrite none) s = .next s) ∧
  (∀ k : Fin 4096, ∃ t, exec (.trailWrite (some k)) s = .next t ∧ exec (.trailWrite none) (trailUe s k.val) = .next t) ∧
  (∀ (k : Fin 4096) x, tget none s.trail.entries k.val = some x → (trailUe s k.val).trail.ueSeen = true
    ∧ tget none (trailUe s k.val).trail.entries k.val = some { x with bad := true }) ∧
  (∀ e rest, s.trail.queue = e :: rest → ∃ t, exec (.trailWrite none) s = .next t ∧ ToldOnly s t
    ∧ (s.trail.stopped = true ∨ s.accepted = false ∨ s.hns.routes.any (fun r => r.source == 0x2700) = true → t.trail.queue = rest)
    ∧ (s.trail.stopped = true → t.trail.wr = s.trail.wr ∧ t.trail.entries = s.trail.entries ∧ t.trail.lost = satInc s.trail.lost)
    ∧ (s.trail.stopped = false → s.trail.frozen = true → t.trail.wr = s.trail.wr + 1
        ∧ (∃ x, trailAt t.trail s.trail.wr = some x ∧ x.code = e.code ∧ x.stamp = e.stamp ∧ x.post = true ∧ x.entry = s.trail.wr)
        ∧ t.trail.stopped = decide (s.trail.postLeft ≤ 1) ∧ t.trail.frozen = true
        ∧ (1 < s.trail.postLeft → t.trail.lost = s.trail.lost ∧ t.trail.queue = rest))
    ∧ (s.trail.stopped = false → s.trail.frozen = false → isTrigger { s.trail with queue := rest } e = true →
        t.trail.wr = s.trail.wr + 1 ∧ t.trail.frz = s.trail.wr ∧ t.trail.frozen = true ∧ t.trail.stopped = decide (s.trail.post = 0)
        ∧ (∃ x, trailAt t.trail s.trail.wr = some x ∧ x.code = e.code ∧ x.trigger = true ∧ x.entry = s.trail.wr))
    ∧ (s.trail.stopped = false → s.trail.frozen = false → isTrigger { s.trail with queue := rest } e = false → t.trail.queue = rest ∧
        (e.code = 0x0001 ∨ e.code = 0x0002 ∨ mergeTarget { s.trail with queue := rest } e 16 1 = none →
          t.trail.wr = s.trail.wr + 1 ∧ t.trail.frozen = false
          ∧ (∃ x, trailAt t.trail s.trail.wr = some x ∧ x.code = e.code ∧ x.stamp = e.stamp ∧ x.unit = e.unit ∧ x.rept = 0
              ∧ x.entry = s.trail.wr ∧ x.trigger = false ∧ x.post = false)
          ∧ (∀ n, n.toNat % 4096 ≠ s.trail.wr.toNat % 4096 → trailAt t.trail n = trailAt s.trail n)) ∧
        (∀ k x, e.code ≠ 0x0001 → e.code ≠ 0x0002 → mergeTarget { s.trail with queue := rest } e 16 1 = some k →
          trailAt s.trail (s.trail.wr - BitVec.ofNat 32 k) = some x → t.trail.wr = s.trail.wr
          ∧ trailAt t.trail (s.trail.wr - BitVec.ofNat 32 k) = some { x with rept := satInc x.rept, guarantee := x.guarantee || e.guarantee }))) ∧
  (MgmtOpenEarly s → s.boot.powerFailed = false →
    (s.trail.stopped = false → s.trail.queue.length < 64 → ∃ t e, exec .trlFreeze s = .next t ∧ t.trail.queue = queueEvent s.trail.queue e
      ∧ e.code = 0x0010 ∧ e.stamp = stamp s ∧ t = { s with trail := t.trail, funcs := t.funcs }) ∧
    (s.trail.stopped = true ∨ 64 ≤ s.trail.queue.length → ∃ t, exec .trlFreeze s = .next t ∧ t.trail.queue = s.trail.queue
      ∧ t.trail.lost = satInc s.trail.lost ∧ t = { s with trail := t.trail, funcs := t.funcs }) ∧
    (s.trail.frozen = true → ∃ t, exec (.trlUnfreeze 0x3C96) s = .next t ∧ t.trail.frozen = false ∧ t.trail.stopped = false
      ∧ (∃ x, trailAt t.trail (t.trail.wr - 1) = some x ∧ x.code = 0x000F) ∧ ToldOnly (unheld s 0) t) ∧
    (s.trail.frozen = false → exec (.trlUnfreeze 0x3C96) s = .next (unheld s 0)) ∧
    (∀ confirm, confirm ≠ 0x3C96 → exec (.trlUnfreeze confirm) s = .next (unheld s 0)))

/-- R145, R565, R573, R626 (Tables 17-9, 19-8). What SMBus reads: 32 bytes of the register view from the pointer, which advances by
32; the fault summary; the trail's status and its entries at a cursor that advances by one; the valid snapshot's header and
entries. A read changes nothing but its pointer, and a command that is not listed, or a wrong one, is refused and recorded. -/
def Obligations.SmbusReads : Prop := ∀ (s : State),
  (∀ y, exec (.setAddr y) s = .next { s with smPtr := y }) ∧
  (∃ t l, exec .read s = .next t
    ∧ t = { s with smPtr := s.smPtr + 32, smLatch := l, sent := .smbus (padTo 32 (smView s s.smPtr.toNat).1) :: s.sent }) ∧
  (∀ y, (∀ r ∈ smRanges, y < r.1 ∨ r.2 ≤ y) → smWord s y = (0, s)) ∧
  (∀ y r, (∃ x ∈ smRanges, x.1 ≤ y ∧ y < x.2) → regAt s (some 0) y = some (r, false) → (smWord s y).1 = r.value.setWidth 32
    ∧ (r.wide = true → (smWord s y).2 = { s with smLatch := some (y, (r.value >>> 32).setWidth 32) }) ∧ (r.wide = false → (smWord s y).2 = s)) ∧
  (∀ y r v, (∃ x ∈ smRanges, x.1 ≤ y + 4 ∧ y + 4 < x.2) → regAt s (some 0) (y + 4) = some (r, true) → s.smLatch = some (y, v) →
    smWord s (y + 4) = (v, { s with smLatch := none })) ∧
  (∃ t, exec .faultSummary s = .next t ∧ t = { s with sent := .smbus (padTo 32 (faultSummary s)) :: s.sent }) ∧
  (∃ t b, exec .trlStatus s = .next t ∧ t = { s with sent := .smbus b :: s.sent } ∧ b.take 8 = bytesOf (trlSts s.trail) ++ bytesOf s.trail.wr) ∧
  (∀ e, exec (.trlSeek e) s = .next { s with trail := { s.trail with
    cursor := if e = 0xFFFFFFFF then oldestEntry s.trail else if e = 0xFFFFFFFE then s.trail.frz else e } }) ∧
  ((s.trail.cursor = s.trail.wr ∨ laterThan s.trail.cursor s.trail.wr = true) → ∃ t, exec .trlNext s = .next t
    ∧ t = { s with sent := .smbus (List.replicate 32 0) :: s.sent }) ∧
  (∀ x, s.trail.cursor ≠ s.trail.wr → laterThan s.trail.cursor s.trail.wr = false → entryHeld s.trail s.trail.cursor = true →
    trailAt s.trail s.trail.cursor = some x → ∃ t, exec .trlNext s = .next t
      ∧ t = { s with trail := { s.trail with cursor := s.trail.cursor + 1 }, sent := .smbus (padTo 32 (entryBytes x)) :: s.sent }) ∧
  (∀ x, s.trail.cursor ≠ s.trail.wr → laterThan s.trail.cursor s.trail.wr = false → entryHeld s.trail s.trail.cursor = false →
    trailAt s.trail (oldestEntry s.trail) = some x → ∃ t, exec .trlNext s = .next t
      ∧ t = { s with trail := { s.trail with cursor := oldestEntry s.trail + 1 }, sent := .smbus (padTo 32 (entryBytes x)) :: s.sent }) ∧
  (∀ x, validSnap s.trail = some x →
    (∃ t, exec .snapStatus s = .next t ∧ t = { s with sent := .smbus (padTo 32 ((snapBytes x).take 32)) :: s.sent }) ∧
    (∀ e, x.entries[s.trail.index.toNat]? = some e → ∃ t, exec .snapNext s = .next t
      ∧ t = { s with trail := { s.trail with index := s.trail.index + 1 }, sent := .smbus (padTo 32 (entryBytes e)) :: s.sent }) ∧
    (x.entries[s.trail.index.toNat]? = none → ∃ t, exec .snapNext s = .next t
      ∧ t = { s with sent := .smbus (List.replicate 32 0) :: s.sent })) ∧
  (validSnap s.trail = none → ∀ c ∈ [Instr.snapStatus, .snapNext], ∃ t, exec c s = .next t
    ∧ t = { s with sent := .smbus (List.replicate 32 0) :: s.sent }) ∧
  (∀ i : W16, (i.toNat ≤ 511 → exec (.snapSeek i) s = .next { s with trail := { s.trail with index := i } }) ∧
    (511 < i.toNat → ∃ t, exec (.snapSeek i) s = .next t ∧ t.sent = .smbusNack :: s.sent ∧ t.trail.index = s.trail.index
      ∧ t = { s with sent := t.sent, trail := t.trail })) ∧
  (∀ cmd reason, ∃ t, exec (.smbusUnknown cmd reason) s = .next t ∧ t.sent = .smbusNack :: s.sent
    ∧ (s.boot.powerFailed = false → s.trail.stopped = false → s.trail.queue.length < 64 → ∃ e, t.trail.queue = queueEvent s.trail.queue e ∧ e.code = 0x000D
        ∧ e.data = [cmd, reason.setWidth 8])
    ∧ t = { s with sent := t.sent, trail := t.trail })

/-- R241, R567, R568 (Table 15-14). The test port: each instruction of a die in the chain is loaded, drives or releases the covered
balls, and shifts out what it gives; a private one acts as BYPASS without TEST_EN and on an I/O die; a die that is not in the
chain does nothing. -/
def Obligations.TestPortInstructions : Prop := ∀ (s : State) (die : Fin 3),
  (inChain s die.val = false → ∀ c ∈ [Instr.extest die, .idcode die, .clamp die, .highz die, .fuseRead die, .bistSts die, .bypass die],
    exec c s = .next s) ∧
  (inChain s die.val = true →
    (∃ t, exec (.extest die) s = .next t ∧ getJtag t die.val = { getJtag s die.val with ir := 0x00, driven := true, highz := false }
      ∧ (∀ d, d ≠ die.val → getJtag t d = getJtag s d) ∧ t = { s with taps := t.taps }) ∧
    (∃ t, exec (.idcode die) s = .next t ∧ getJtag t die.val = { getJtag s die.val with ir := 0x01, driven := false, highz := false }
      ∧ (∀ d, d ≠ die.val → getJtag t d = getJtag s d) ∧ t = { s with taps := t.taps, sent := t.sent, free := t.free }) ∧
    (∃ t, exec (.clamp die) s = .next t ∧ getJtag t die.val = { getJtag s die.val with ir := 0x03, driven := true, highz := false }
      ∧ (∀ d, d ≠ die.val → getJtag t d = getJtag s d) ∧ t = { s with taps := t.taps, sent := t.sent } ∧ t.sent = .tdo die.val [false] :: s.sent) ∧
    (∃ t, exec (.highz die) s = .next t ∧ getJtag t die.val = { getJtag s die.val with ir := 0x04, driven := false, highz := true }
      ∧ (∀ d, d ≠ die.val → getJtag t d = getJtag s d) ∧ t = { s with taps := t.taps, sent := t.sent } ∧ t.sent = .tdo die.val [false] :: s.sent) ∧
    (∃ t, exec (.bypass die) s = .next t ∧ getJtag t die.val = { getJtag s die.val with ir := 0xFF, driven := false, highz := false }
      ∧ (∀ d, d ≠ die.val → getJtag t d = getJtag s d) ∧ t = { s with taps := t.taps, sent := t.sent } ∧ t.sent = .tdo die.val [false] :: s.sent) ∧
    (∀ balls preload, ∃ t, exec (.samplePreload die balls preload) s = .next t
      ∧ getJtag t die.val = { ir := 0x02, driven := false, highz := false, bsr := preload } ∧ t.sent = .tdo die.val balls :: s.sent
      ∧ (∀ d, d ≠ die.val → getJtag t d = getJtag s d) ∧ t = { s with taps := t.taps, sent := t.sent }) ∧
    (die = 0 → ∃ t, exec (.idcode die) s = .next t ∧ t.sent = .tdo 0 (bitsOf idcodeWord) :: s.sent) ∧
    (s.testEn = false ∨ die ≠ 0 → ∀ failed, ∀ c ∈ [Instr.fuseRead die, .bistSts die, .bistRun die failed], ∃ t, exec (.bypass die) s = .next t ∧ exec c s = .next t)) ∧
  (s.testEn = true → die = 0 →
    (∃ t, exec (.fuseRead die) s = .next t ∧ (getJtag t 0).ir = 0x20 ∧ t.sent = .tdo 0 (bitsOf (bootDesig s.fuses) ++ bitsOf (bootDies s.fuses)
        ++ bitsOf (s.fuses.pcrEn.setWidth 64) ++ bitsOf (s.fuses.decEn.setWidth 32)) :: s.sent
      ∧ t = { s with taps := t.taps, sent := t.sent }) ∧
    (∃ t, exec (.bistSts die) s = .next t ∧ (getJtag t 0).ir = 0x22
      ∧ t.sent = .tdo 0 ((List.range 8).flatMap (fun n => bitsOf (arrSts s n))) :: s.sent
      ∧ t = { s with taps := t.taps, sent := t.sent }) ∧
    (∀ failed, ∃ t, exec (.bistRun die failed) s = .next t ∧ (getJtag t 0).ir = 0x21
      ∧ (∀ n, n < 8 → (getArr t n).selfTest = false ∧
          (arrPresent s n = true → s.fencing.persisted.getLsbD n = false → (getArr t n).main = []) ∧
          (failed.getLsbD n = true → arrUsable s n = true → t.fencing.fenced.getLsbD n = true))
      ∧ t.mem.hbm = s.mem.hbm)) ∧
  (∃ t, exec .tapReset s = .next t ∧ (∀ d, d < 3 → inChain s d = true → (getJtag t d).ir = 0x01 ∧ (getJtag t d).driven = false
      ∧ (getJtag t d).highz = false) ∧ (∀ d, inChain s d = false → getJtag t d = getJtag s d) ∧ t = { s with taps := t.taps })

/-- R579 to R585, R591, R606 (Table 16-3). A groom that disagrees, hangs, loses its memory or is told to restarts from the active
slot, unless it is the ninth restart in 10 s, which leaves it FAILED; the steps of a restart follow one another and the last
resumes it. Four injected mismatches in a row that are reported clear UNCHECKED, and one that is not sets it. R588 to R592,
R606, R669 (Table 16-4). A firmware update: STAGE and APPLY are refused while one runs or a load does; staging ends with its
first error or STAGED; APPLY restarts G3 from the inactive slot, and each later groom follows 16 ms after the one before resumed
and passed a test; after G0 the slots exchange roles and the version becomes the staged one. A groom that fails during the
update begins its roll-back. ABORT abandons a staged image, and GRM_FLOOR takes the running version where that is greater. -/
def Obligations.GroomsAndUpdates : Prop :=
  (∀ (s : State) (g : Fin 4), s.grm.state ≠ 3 →
  (groomUp s g.val = true →
    ((recentOf s g.val).length < 8 → ∃ t, exec (.groomMismatch g) s = .next t ∧ (getGroom t g.val).state = .restarting ∧ (getGroom t g.val).step = 2
      ∧ (getGroom t g.val).lastCause = (if (getGroom s g.val).unchecked then 4 else 1) ∧ (getGroom t g.val).restarts = satInc (getGroom s g.val).restarts
      ∧ (getGroom t g.val).loadSlot = s.grm.active ∧ (∀ k, k ≠ g.val → getGroom t k = getGroom s k) ∧ t.mem = s.mem ∧ t.arrays = s.arrays
      ∧ t.hns = s.hns) ∧
    (8 ≤ (recentOf s g.val).length → ∃ t, exec (.groomMismatch g) s = .next t ∧ (getGroom t g.val).state = .failed
      ∧ (getGroom t g.val).lastCause = (if (getGroom s g.val).unchecked then 4 else 1) ∧ (∀ k, k ≠ g.val → getGroom t k = getGroom s k) ∧ t.mem = s.mem ∧ t.hns = s.hns) ∧
    ((recentOf s g.val).length < 8 → ∃ t, exec (.groomWatchdog g) s = .next t ∧ (getGroom t g.val).state = .restarting ∧ (getGroom t g.val).step = 2
      ∧ (getGroom t g.val).lastCause = 2 ∧ (getGroom t g.val).restarts = satInc (getGroom s g.val).restarts
      ∧ (getGroom t g.val).loadSlot = s.grm.active ∧ (∀ k, k ≠ g.val → getGroom t k = getGroom s k) ∧ t.mem = s.mem ∧ t.arrays = s.arrays
      ∧ t.hns = s.hns) ∧
    (8 ≤ (recentOf s g.val).length → ∃ t, exec (.groomWatchdog g) s = .next t ∧ (getGroom t g.val).state = .failed
      ∧ (getGroom t g.val).lastCause = 2 ∧ (∀ k, k ≠ g.val → getGroom t k = getGroom s k) ∧ t.mem = s.mem ∧ t.hns = s.hns) ∧
    ((recentOf s g.val).length < 8 → ∃ t, exec (.groomMemUe g) s = .next t ∧ (getGroom t g.val).state = .restarting ∧ (getGroom t g.val).step = 2
      ∧ (getGroom t g.val).lastCause = 3 ∧ (getGroom t g.val).restarts = satInc (getGroom s g.val).restarts
      ∧ (getGroom t g.val).loadSlot = s.grm.active ∧ (∀ k, k ≠ g.val → getGroom t k = getGroom s k) ∧ t.mem = s.mem ∧ t.arrays = s.arrays
      ∧ t.hns = s.hns) ∧
    (8 ≤ (recentOf s g.val).length → ∃ t, exec (.groomMemUe g) s = .next t ∧ (getGroom t g.val).state = .failed
      ∧ (getGroom t g.val).lastCause = 3 ∧ (∀ k, k ≠ g.val → getGroom t k = getGroom s k) ∧ t.mem = s.mem ∧ t.hns = s.hns) ∧
    (∃ t, exec (.comparatorTest g true) s = .next t ∧ (getGroom t g.val).passed = true ∧ (getGroom t g.val).state = .running
      ∧ (getGroom t g.val).unchecked = ((getGroom s g.val).unchecked && decide ((getGroom s g.val).tests < 3))
      ∧ (∀ k, k ≠ g.val → getGroom t k = getGroom s k) ∧ t = { s with grooms := t.grooms, trail := t.trail }) ∧
    (∃ t, exec (.comparatorTest g false) s = .next t ∧ (getGroom t g.val).unchecked = true ∧ (getGroom t g.val).tests = 0
      ∧ (getGroom t g.val).state = .running ∧ (∀ k, k ≠ g.val → getGroom t k = getGroom s k) ∧ UnitsKept s t)) ∧
  (groomUp s g.val = false → ∀ c ∈ [Instr.groomMismatch g, .groomWatchdog g, .groomMemUe g, .comparatorTest g true, .comparatorTest g false],
    exec c s = .next s) ∧
  (MgmtOpen s →
    ((getGroom s g.val).state = .running ∨ (getGroom s g.val).state = .failed → ∃ t, exec (.groomRestartCmd g 0x6B1D) s = .next t
      ∧ (getGroom t g.val).state = .restarting ∧ (getGroom t g.val).step = 2 ∧ (getGroom t g.val).lastCause = 5
      ∧ (getGroom t g.val).recent = [s.now] ∧ (∀ k, k ≠ g.val → getGroom t k = getGroom s k) ∧ t.mem = s.mem) ∧
    (∀ confirm, confirm ≠ 0x6B1D → ∃ t, exec (.groomRestartCmd g confirm) s = .next t ∧ t.grooms = s.grooms
      ∧ t = { s with grm := { s.grm with ctlGroom := BitVec.ofNat 2 g.val }, funcs := t.funcs })) ∧
  ((getGroom s g.val).state = .restarting → (getGroom s g.val).step ≠ 0 → s.grm.rolling = false →
    ((getGroom s g.val).step < 5 → ∃ t, exec (.groomRestartStepDone g true) s = .next t
      ∧ getGroom t g.val = { getGroom s g.val with step := (getGroom s g.val).step + 1 } ∧ (∀ k, k ≠ g.val → getGroom t k = getGroom s k)
      ∧ t = { s with grooms := t.grooms }) ∧
    ((getGroom s g.val).step = 5 → ∃ t, exec (.groomRestartStepDone g true) s = .next t ∧ (getGroom t g.val).state = .running
      ∧ (getGroom t g.val).step = 0 ∧ (getGroom t g.val).slot = (getGroom s g.val).loadSlot
      ∧ (∀ k, k ≠ g.val → getGroom t k = getGroom s k) ∧ t.mem.hbm = s.mem.hbm) ∧
    ((getGroom s g.val).step = 4 → (getGroom s g.val).retried = false → ∃ t, exec (.groomRestartStepDone g false) s = .next t
      ∧ getGroom t g.val = { getGroom s g.val with retried := true } ∧ t = { s with grooms := t.grooms }) ∧
    ((getGroom s g.val).step = 4 → (getGroom s g.val).retried = true → ∃ t, exec (.groomRestartStepDone g false) s = .next t
      ∧ (getGroom t g.val).state = .failed ∧ (∀ k, k ≠ g.val → getGroom t k = getGroom s k) ∧ UnitsKept s t))) ∧
  (∀ (s : State),
  (MgmtOpen s →
    (updateBusy s = true → (∃ t, exec .grmStage s = .next t ∧ t.grm.err = 7
        ∧ t.grm.state = (if s.grm.state = 1 ∨ s.grm.state = 3 then s.grm.state else 5) ∧ t.grooms = s.grooms ∧ UnitsKept s t) ∧
      (∃ t, exec .grmApply s = .next t ∧ t.grm.err = 7 ∧ t.grm.state = s.grm.state ∧ t.grooms = s.grooms ∧ UnitsKept s t)) ∧
    (updateBusy s = false → ∃ t, exec .grmStage s = .next t ∧ t.grm.state = 1 ∧ t.grm.err = 0 ∧ t.grm.active = s.grm.active
      ∧ t.grooms = s.grooms ∧ UnitsKept s t) ∧
    (updateBusy s = false → s.grm.state ≠ 2 → exec .grmApply s = .next (unheld s 0)) ∧
    (updateBusy s = false → s.grm.state = 2 → groomUp s 3 = true → (recentOf s 3).length < 8 → ∃ t, exec .grmApply s = .next t
      ∧ t.grm.state = 3 ∧ t.grm.step = 3 ∧ (getGroom t 3).state = .restarting ∧ (getGroom t 3).loadSlot = !s.grm.active
      ∧ (getGroom t 3).handover = true ∧ t.grm.active = s.grm.active ∧ t.mem = s.mem) ∧
    (s.grm.state = 1 ∨ s.grm.state = 2 → ∃ t, exec .grmAbort s = .next t ∧ t.grm.state = 5 ∧ t.grm.err = 9 ∧ t.grooms = s.grooms
      ∧ UnitsKept s t) ∧
    (s.grm.state ≠ 1 → s.grm.state ≠ 2 → exec .grmAbort s = .next (unheld s 0)) ∧
    (∃ t, exec .grmRaiseFloor s = .next t ∧ t.grm.floor.toNat = max s.grm.floor.toNat s.grm.version.toNat
      ∧ t = { s with grm := { s.grm with floor := t.grm.floor }, funcs := t.funcs })) ∧
  (∀ g : Fin 4, s.grm.state = 3 → groomUp s g.val = true → ((getGroom s g.val).updated || (getGroom s g.val).handover) = true →
    (recentOf s g.val).length < 8 → ∃ t, exec (.groomWatchdog g) s = .next t ∧ t.grm.rolling = true ∧ t.grm.step = BitVec.ofNat 2 g.val
      ∧ (getGroom t g.val).state = .restarting ∧ (getGroom t g.val).loadSlot = s.grm.active ∧ (getGroom t g.val).handover = false
      ∧ (getGroom t g.val).lastCause = 2 ∧ (∀ k, k ≠ g.val → getGroom t k = getGroom s k) ∧ t.mem = s.mem) ∧
  (∀ image, s.grm.state = 1 →
    (image.readFault = false → 0 < image.length.toNat → image.length.toNat ≤ 2097152 → image.formatOk = true → image.stepping = 0x0B00 →
      image.signatureOk = true → s.grm.floor.toNat ≤ image.secVersion.toNat → image.storeOk = true →
      ∃ t, exec (.grmStageDone image) s = .next t ∧ t.grm.state = 2 ∧ t.grm.err = 0 ∧ t.grm.digestStaged = image.digest
        ∧ t.grm.stagedVer = image.secVersion ∧ t.grooms = s.grooms ∧ UnitsKept s t) ∧
    (∀ e, stageError s image = e → e ≠ 0 → ∃ t, exec (.grmStageDone image) s = .next t ∧ t.grm.state = 5 ∧ t.grm.err = e
      ∧ t.grm.digestStaged = s.grm.digestStaged ∧ t.grooms = s.grooms ∧ UnitsKept s t)) ∧
  (s.grm.state = 3 → s.grm.rolling = false → (getGroom s s.grm.step.toNat).state = .running → (getGroom s s.grm.step.toNat).updated = true →
    (getGroom s s.grm.step.toNat).passed = true → 1966080 ≤ s.now - (getGroom s s.grm.step.toNat).resumedAt →
    (s.grm.step = 0 → ∃ t, exec .updateStepTimer s = .next t ∧ t.grm.state = 4 ∧ t.grm.active = !s.grm.active
      ∧ t.grm.version = s.grm.stagedVer ∧ t.grm.digest = s.grm.digestStaged ∧ t.grooms = s.grooms ∧ UnitsKept s t) ∧
    (s.grm.step ≠ 0 → groomUp s (s.grm.step.toNat - 1) = true → (recentOf s (s.grm.step.toNat - 1)).length < 8 →
      ∃ t, exec .updateStepTimer s = .next t ∧ t.grm.state = 3 ∧ t.grm.step = s.grm.step - 1
        ∧ (getGroom t (s.grm.step.toNat - 1)).state = .restarting ∧ (getGroom t (s.grm.step.toNat - 1)).loadSlot = !s.grm.active
        ∧ (getGroom t (s.grm.step.toNat - 1)).handover = true ∧ t.mem = s.mem)))

/-- R566, R573, R593 to R595, R597, R606. Power: a budget is taken for the next frame or refused by its interval; the millisecond's
telemetry adds the rails' energy; a rail silent for 10 ms is a fault, once; throttle is entered and left with its time counted;
a trip is recorded, and both girth links stop. -/
def Obligations.PowerTelemetryAndLimits : Prop := ∀ (s : State),
  (MgmtOpen s → ∀ v : W64,
    (bits v 0 32 ≠ 0 → (bits v 32 12 = 0 ∨ 3600 < (bits v 32 12).toNat) → ∃ t, exec (.pwrBudgetWrite v) s = .next t
      ∧ t.power = { s.power with refused := true } ∧ t = { s with power := t.power, funcs := t.funcs }) ∧
    ((bits v 0 32 = 0 ∨ (0 < (bits v 32 12).toNat ∧ (bits v 32 12).toNat ≤ 3600)) → ∃ t, exec (.pwrBudgetWrite v) s = .next t
      ∧ t.power = { s.power with next := some (v &&& 0x0FFF0FFFFFFFFFFF), refused := false }
      ∧ t = { s with power := t.power, funcs := t.funcs })) ∧
  (sampling s = false → ∀ rails tj ts, exec (.pmbusPoll rails tj ts) s = .next s) ∧
  (sampling s = true → ∀ rails tj ts, rails.length = 8 → ∃ t, exec (.pmbusPoll rails tj ts) s = .next t ∧ t.power.tj = tj ∧ t.power.ts = ts
    ∧ t.power.frameE = s.power.frameE + ((List.range 8).map (fun k => (getRail t k).mv.toNat * (getRail t k).current.toNat)).sum
    ∧ (∀ k r, rails[k]? = some r → r.answered = true → getRail t k = { mv := r.mv, current := r.current, temp := r.temp, status := r.status })
    ∧ (∀ k r, rails[k]? = some r → r.answered = false → getRail t k = { getRail s k with silent := (getRail s k).silent + 1 })
    ∧ t = { s with power := t.power }) ∧
  (∀ rail : Fin 8,
    (sampling s = true → 10 ≤ (getRail s rail.val).silent → (getRail s rail.val).faulted = false → ∃ t, exec (.railNoAnswer rail) s = .next t
      ∧ getRail t rail.val = { getRail s rail.val with faulted := true } ∧ (∀ k, k ≠ rail.val → getRail t k = getRail s k)
      ∧ ToldOnly { s with power := t.power } t) ∧
    ((getRail s rail.val).silent < 10 ∨ (getRail s rail.val).faulted = true ∨ sampling s = false → exec (.railNoAnswer rail) s = .next s)) ∧
  (∀ sensor temp,
    (s.power.throttle = false → sampling s = true → ∃ t, exec (.throttleEnter sensor temp) s = .next t
      ∧ t.power = { s.power with throttle := true, throttleAt := s.now } ∧ ToldOnly { s with power := t.power } t) ∧
    (s.power.throttle = true ∨ sampling s = false → exec (.throttleEnter sensor temp) s = .next s)) ∧
  (s.power.throttle = true → ∃ t, exec .throttleEnd s = .next t
    ∧ t.power = { s.power with
        throttle := false, throttleNs := s.power.throttleNs + BitVec.ofNat 64 ((s.now - s.power.throttleAt) * 3125 / 384) }
    ∧ t = { s with power := t.power, carriers := t.carriers }) ∧
  (s.power.throttle = false → exec .throttleEnd s = .next s) ∧
  (∀ cause sensor value,
    (s.power.tripped = false → sampling s = true → ∃ t, exec (.trip cause sensor value) s = .next t ∧ t.power.tripped = true ∧ t.power.lastTrip = cause
      ∧ t.power.tripCnt = satInc s.power.tripCnt
      ∧ (∀ g, g < 2 → (getGirth s g).state ≠ .absent → (getGirth t g).state = .failed ∧ (getGirth t g).buf = [])
      ∧ (∀ p, p < 4 → (tethRec s p).isSome = true → (getTth t p).state = .noDie) ∧ UnitsKept s t ∧ t.hns = s.hns) ∧
    (s.power.tripped = true ∨ sampling s = false → exec (.trip cause sensor value) s = .next s))

/-- R621 to R624, R632 to R634, R637, R638, R640, R642 (Tables 18-4, 18-5). Power: a power failure or the fall of PWR_OK stops the
device and begins a snapshot; power-on leaves everything volatile at its cold-reset value and keeps what is kept; PWR_OK begins
the bring-up, after the snapshot under way; a snapshot page that verifies is the valid snapshot, and one that fails leaves the
former one. R642, R643 (Tables 18-5, 18-6). Cold bring-up: the phases follow one another; a fuse map that fails stops it, a
stack and a groom that fail are marked, the girth phase waits for its links, and the end of the self-test leaves the device
EMPTY. -/
def Obligations.PowerAndBringUp : Prop :=
  (∀ (s : State),
  (s.boot.vinAon = true → ∃ t, exec .powerFail s = .next t ∧ t.boot.vinAon = false ∧ t.boot.pwrOk = false ∧ t.boot.phase = .aon
    ∧ t.boot.powerFailed = true
    ∧ (s.trail.writing = none → s.boot.powerFailed = false → ∃ x, t.trail.writing = some (freePage s.trail, x) ∧ x.cause = 1)
    ∧ (s.trail.writing.isSome = true ∨ s.boot.powerFailed = true → t.trail.writing = s.trail.writing) ∧ t.trail.valid = s.trail.valid
    ∧ t.fuses = s.fuses ∧ t.mem = s.mem) ∧
  (s.boot.vinAon = false → exec .powerFail s = .next s) ∧
  (s.boot.pwrOk = true → ∃ t, exec .pwrOkFall s = .next t ∧ t.boot.vinAon = s.boot.vinAon ∧ t.boot.pwrOk = false ∧ t.boot.phase = .aon
    ∧ t.boot.powerFailed = true ∧ (s.trail.writing = none → s.boot.powerFailed = false → ∃ x, t.trail.writing = some (freePage s.trail, x) ∧ x.cause = 1)
    ∧ (s.trail.writing.isSome = true ∨ s.boot.powerFailed = true → t.trail.writing = s.trail.writing) ∧ t.trail.valid = s.trail.valid ∧ t.fuses = s.fuses) ∧
  (s.boot.pwrOk = false → exec .pwrOkFall s = .next s) ∧
  (s.boot.vinAon = false → s.trail.writing.isSome = true → exec .powerOn s = .next { s with boot := { s.boot with vinAon := true } }) ∧
  (s.boot.vinAon = false → s.trail.writing = none → ∃ t, exec .powerOn s = .next t ∧ t.boot.vinAon = true ∧ t.boot.lastReset = 1 ∧ t.accepted = false ∧ t.mem.hbm = []
    ∧ t.fuses = { s.fuses with bad := false } ∧ t.fencing.persisted = s.fencing.persisted ∧ t.fencing.fenced = 0
    ∧ t.loader.floor = s.loader.floor ∧ t.grm.floor = s.grm.floor ∧ t.grm.version = s.grm.version ∧ t.school.pages = s.school.pages
    ∧ t.trail.page2 = s.trail.page2 ∧ t.trail.page3 = s.trail.page3 ∧ t.trail.valid = s.trail.valid ∧ t.trail.wr = 0
    ∧ (∃ e, t.trail.queue = [e] ∧ e.code = 0x0002) ∧ t.pending = s.pending) ∧
  (s.boot.vinAon = true → exec .powerOn s = .next s) ∧
  (∀ en, s.boot.vinAon = true → s.boot.pwrOk = false →
    (s.trail.writing = none → s.boot.powerFailed = false → ∃ t, exec (.pwrOkRise en) s = .next t ∧ t.boot.pwrOk = true ∧ t.boot.phase = .fuse
      ∧ t.boot.bringup = true ∧ t.testEn = en ∧ (∀ g, g < 4 → (getGroom t g).state = .booting) ∧ t.trail = s.trail) ∧
    (s.trail.writing.isSome = true → ∃ t, exec (.pwrOkRise en) s = .next t ∧ t.boot.pwrOk = true ∧ t.boot.coldWaiting = true
      ∧ t = { s with boot := t.boot }) ∧
    (s.trail.writing = none → s.boot.powerFailed = true → ∃ t, exec (.pwrOkRise en) s = .next t ∧ t.boot.pwrOk = true ∧ t.boot.phase = .fuse
      ∧ t.boot.bringup = true ∧ t.boot.lastReset = 2 ∧ t.accepted = false ∧ t.mem.hbm = [] ∧ t.loader.floor = s.loader.floor)) ∧
  (∀ p x, s.trail.writing = some (p, x) →
    (s.boot.coldWaiting = false → ∃ t, exec (.trailSnapshotDone true) s = .next t ∧ t.trail.valid = some p ∧ validSnap t.trail = some x
      ∧ t.trail.lastSeq = x.seq ∧ t.trail.writing = none ∧ tget 0 t.trail.pageWrites (if p then 3 else 2) = satInc (tget 0 s.trail.pageWrites (if p then 3 else 2))
      ∧ t = { s with trail := t.trail }) ∧
    (s.boot.coldWaiting = true → ∃ t, exec (.trailSnapshotDone true) s = .next t ∧ t.trail.valid = some p ∧ validSnap t.trail = some x
      ∧ t.boot.phase = .fuse ∧ t.boot.bringup = true ∧ t.boot.coldWaiting = false ∧ t.accepted = false ∧ t.mem.hbm = []
      ∧ (∃ e, t.trail.queue = [e] ∧ e.code = 0x0002 ∧ e.data = bytesOf x.seq) ∧ t.loader.floor = s.loader.floor) ∧
    (x.cause = 2 → s.trail.second = false → ∃ t, exec (.trailSnapshotDone false) s = .next t ∧ t.trail.second = true
      ∧ t.trail.writing = some (p, x) ∧ t.trail.valid = s.trail.valid ∧ t = { s with trail := t.trail }) ∧
    (x.cause ≠ 2 ∨ s.trail.second = true → s.boot.coldWaiting = false → ∃ t, exec (.trailSnapshotDone false) s = .next t
      ∧ t.trail.failedPage = some p ∧ t.trail.valid = s.trail.valid ∧ t.trail.writing = none ∧ t = { s with trail := t.trail }) ∧
    (x.cause ≠ 2 ∨ s.trail.second = true → s.boot.coldWaiting = true → ∃ t, exec (.trailSnapshotDone false) s = .next t
      ∧ t.trail.failedPage = some p ∧ t.trail.valid = s.trail.valid ∧ t.boot.phase = .fuse ∧ t.boot.bringup = true
      ∧ t.accepted = false ∧ t.mem.hbm = [])) ∧
  (s.trail.writing = none → ∀ ok, exec (.trailSnapshotDone ok) s = .next s)) ∧
  (∀ (s : State) (failed : BitVec 8), s.boot.bringup = true → s.power.tripped = false →
  s.boot.coldWaiting = false →
  (s.boot.phase = .fuse → s.boot.fuseFault = false →
    (failed.getLsbD 0 = true → ∃ t, exec (.bringupPhaseDone failed) s = .next t ∧ t.fuses.bad = true ∧ t.boot.fuseFault = true
      ∧ t.boot.phase = .fuse ∧ UnitsKept s t) ∧
    (failed.getLsbD 0 = false → ∃ t, exec (.bringupPhaseDone failed) s = .next t ∧ t = { s with boot := { s.boot with phase := .clocks } })) ∧
  (s.boot.phase = .fuse → s.boot.fuseFault = true → exec (.bringupPhaseDone failed) s = .next s) ∧
  (s.boot.phase = .clocks → ∃ t, exec (.bringupPhaseDone failed) s = .next t ∧ t.boot.phase = .girth
    ∧ (∀ g, g < 2 → s.fuses.iodEn.getLsbD g = true → (getGirth t g).state = .training ∧ (getGirth t g).full = true)
    ∧ (∀ g, g < 2 → s.fuses.iodEn.getLsbD g = false → getGirth t g = getGirth s g)
    ∧ t = { s with boot := { s.boot with phase := .girth }, girths := t.girths }) ∧
  (s.boot.phase = .girth →
    ((∃ g, g < 2 ∧ (getGirth s g).state = .training) → exec (.bringupPhaseDone failed) s = .next s) ∧
    ((∀ g, g < 2 → (getGirth s g).state ≠ .training) → ∃ t, exec (.bringupPhaseDone failed) s = .next t
      ∧ t = { s with boot := { s.boot with phase := .memory } })) ∧
  (s.boot.phase = .memory → ∃ t, exec (.bringupPhaseDone failed) s = .next t ∧ t.boot.phase = .grooms
    ∧ (∀ k, k < 4 → failed.getLsbD k = true → s.fuses.stackEn.getLsbD k = true → (getStack t k).failed = true)
    ∧ (∀ k, k < 4 → failed.getLsbD k = false → getStack t k = getStack s k) ∧ t.mem.hbm = s.mem.hbm ∧ t.arrays = s.arrays) ∧
  (s.boot.phase = .grooms → ∃ t, exec (.bringupPhaseDone failed) s = .next t ∧ t.boot.phase = .selftest
    ∧ (∀ g, g < 4 → (getGroom t g).state = (if failed.getLsbD g then .failed else .running))
    ∧ (∀ n, n < 8 → s.fencing.persisted.getLsbD n = true → arrPresent s n = true → (getArr s n).fencing = none →
        t.fencing.fenced.getLsbD n = true)) ∧
  (s.boot.phase = .selftest → s.boot.warmHeld = false → ∃ t, exec (.bringupPhaseDone failed) s = .next t ∧ t.boot.phase = .empty
    ∧ t.boot.bringup = false
    ∧ (∀ n, n < 8 → failed.getLsbD n = true → arrUsable s n = true → t.fencing.fenced.getLsbD n = true)))

/-- R119, R132, R595, R640, R644, R647, R652, R654 (Tables 18-4, 18-7). Resets: a cold reset with power writes its snapshot first
and supersedes a warm one; a warm reset starts at step 1, is held during bring-up, and merges with one under way; its steps
follow one another, end dispatch, reset what is volatile, wait for the links and restore the accepted structure or a REPLACE's,
or leave the device EMPTY where the image fails its check. A trip recovers into a warm reset, but for the third in an hour.
R645, R70. GRID_RESTORE: 30,720 ticks after the reset the air clock steps onto the kept grid, tick and frame, and goes on in
HOLDOVER where it was held before the reset, else in FREERUN; it does so once. -/
def Obligations.ResetsRun : Prop :=
  (∀ (s : State),
  (∀ en, s.boot.pwrOk = true → s.boot.coldWaiting = false →
    (∃ t, exec (.crstN en) s = .next t ∧ t.boot.coldWaiting = true ∧ t.boot.warmStep = 0 ∧ t.trail.writing.isSome = true
      ∧ t = { s with boot := t.boot, trail := t.trail }) ∧
    (MgmtOpenEarly s → rstAvailable s = true → ∃ t, exec (.bootRstCold 0x7E15 en) s = .next t ∧ t.boot.coldWaiting = true
      ∧ t.boot.warmStep = 0 ∧ t.trail.writing.isSome = true
      ∧ t = { s with boot := t.boot, trail := t.trail, funcs := t.funcs })) ∧
  (∀ en, s.boot.pwrOk = false ∨ s.boot.coldWaiting = true → exec (.crstN en) s = .next s) ∧
  (MgmtOpenEarly s → ∀ confirm, confirm ≠ 0x7E15 ∨ rstAvailable s = false → (∀ en, exec (.bootRstCold confirm en) s = .next (unheld s 0)) ∧
    exec (.bootRstWarm confirm) s = .next (unheld s 0)) ∧
  (s.boot.warmStep = 0 → s.boot.pwrOk = true → s.boot.powerFailed = false → s.boot.coldWaiting = false → tripLocked s = false →
    ((s.boot.bringup = false → ∃ t, exec .wrstN s = .next t ∧ t.boot.warmStep = 1 ∧ t.boot.warmCause = 4 ∧ t.boot.lastReset = 3
        ∧ t.boot.warmCnt = satInc s.boot.warmCnt ∧ t.hns = s.hns ∧ t.accepted = s.accepted) ∧
      (s.boot.bringup = true → ∃ t, exec .wrstN s = .next t ∧ t = { s with boot := { s.boot with warmHeld := true, heldCause := 4 } })) ∧
    (MgmtOpenEarly s → rstAvailable s = true → s.boot.bringup = false → ∃ t, exec (.bootRstWarm 0x7E15) s = .next t
      ∧ t.boot.warmStep = 1 ∧ t.boot.warmCause = 1 ∧ t.hns = s.hns ∧ t.accepted = s.accepted)) ∧
  (s.boot.warmStep ≠ 0 → exec .wrstN s = .next s) ∧
  (∀ failed bad, s.power.tripped = true ∨ s.boot.coldWaiting = true → exec (.warmResetStepDone failed bad) s = .next s) ∧
  (∀ failed bad, s.power.tripped = false → s.boot.coldWaiting = false →
    (s.boot.warmStep = 1 → ∃ t, exec (.warmResetStepDone failed bad) s = .next t ∧ t.boot.warmStep = 2 ∧ t.boot.phase = .restore
      ∧ t.hns = s.hns ∧ t.accepted = s.accepted ∧ t.mem.hbm = s.mem.hbm) ∧
    (s.boot.warmStep = 2 → ∃ t, exec (.warmResetStepDone failed bad) s = .next t ∧ t.boot.warmStep = 3
      ∧ (∀ n, (getArr t n).main = [] ∧ (getArr t n).run = none) ∧ t.vecs = [] ∧ t.air.tick = 0 ∧ t.air.abs = 0 ∧ t.air.state = .freerun
      ∧ t.air.corr = s.air.corr ∧ t.accepted = s.accepted ∧ t.fuses = s.fuses ∧ t.fencing.persisted = s.fencing.persisted
      ∧ t.loader.image = s.loader.image ∧ t.loader.floor = s.loader.floor) ∧
    (s.boot.warmStep = 3 →
      ((∃ g, g < 2 ∧ (getGirth s g).state = .training) → exec (.warmResetStepDone failed bad) s = .next s) ∧
      ((∀ g, g < 2 → (getGirth s g).state ≠ .training) → ∃ t, exec (.warmResetStepDone failed bad) s = .next t ∧ t.boot.warmStep = 4
        ∧ UnitsKept s t)) ∧
    (s.boot.warmStep = 4 → ∃ t, exec (.warmResetStepDone failed bad) s = .next t ∧ t.boot.warmStep = 5
      ∧ (∀ k, k < 4 → failed.getLsbD k = true → s.fuses.stackEn.getLsbD k = true → (getStack t k).failed = true)) ∧
    (s.boot.warmStep = 5 → (s.accepted = true ∨ s.loader.nextImage.isSome = true) → ∃ t, exec (.warmResetStepDone failed bad) s = .next t
      ∧ t.boot.warmStep = 6 ∧ t.hns = s.hns ∧ (∀ g, g < 4 → (getGroom t g).state = (if failed.getLsbD g then .failed else .running))) ∧
    (s.boot.warmStep = 5 → s.accepted = false → s.loader.nextImage = none → ∃ t, exec (.warmResetStepDone failed bad) s = .next t
      ∧ t.boot.warmStep = 0 ∧ t.boot.phase = .empty ∧ t.accepted = false ∧ t.hns = {}) ∧
    (s.boot.warmStep = 6 → ∀ image, s.loader.nextImage = some image → ∃ t, exec (.warmResetStepDone failed bad) s = .next t
      ∧ t.boot.warmStep = 0 ∧ t.boot.phase = .running ∧ t.accepted = true ∧ t.hns = (dropSpares s.fuses (harnessOf image s.hns.time)).1
      ∧ t.loader.image = image ∧ t.loader.nextImage = none ∧ t.loader.slot = !s.loader.slot) ∧
    (s.boot.warmStep = 6 → s.loader.nextImage = none →
      ((failed.getLsbD 0 = true ∨ s.loader.damaged = true ∨ digestOf s.loader.image ≠ s.loader.digest) →
        ∃ t, exec (.warmResetStepDone failed bad) s = .next t ∧ t.boot.warmStep = 0 ∧ t.boot.phase = .empty ∧ t.accepted = false
          ∧ t.hns = {} ∧ t.loader.errCode = 0x24) ∧
      (failed.getLsbD 0 = false → s.loader.damaged = false → digestOf s.loader.image = s.loader.digest →
        ∃ t, exec (.warmResetStepDone failed bad) s = .next t ∧ t.boot.warmStep = 0 ∧ t.boot.phase = .running ∧ t.accepted = true
          ∧ t.hns = storedHarness s ∧ t.loader.image = s.loader.image))) ∧
  (s.power.tripped = true →
    (tripLocked s = true → exec .tripRecovery s = .next s) ∧
    (tripLocked s = false →
      (s.accepted = true → s.boot.warmStep = 0 → s.boot.pwrOk = true → s.boot.powerFailed = false → s.boot.coldWaiting = false → s.boot.bringup = false →
        ∃ t, exec .tripRecovery s = .next t ∧ t.power.tripped = false ∧ t.boot.warmStep = 1 ∧ t.boot.warmCause = 2 ∧ t.hns = s.hns) ∧
      (s.accepted = true → s.boot.warmStep ≠ 0 → ∃ t, exec .tripRecovery s = .next t ∧ t.power.tripped = false ∧ t.boot.warmStep = 1
        ∧ t.boot.warmCause = 2 ∧ t.hns = s.hns) ∧
      (s.accepted = false → ∃ t, exec .tripRecovery s = .next t ∧ t.power.tripped = false ∧ t.boot.phase = .girth
        ∧ t.boot.bringup = true ∧ t.accepted = false)))) ∧
  (∀ (s : State),
  (s.air.kept = none → exec .gridRestore s = .next s) ∧
  (∀ k, s.air.kept = some k →
    (s.air.abs.toNat < 30720 → exec .gridRestore s = .next s) ∧
    (30720 ≤ s.air.abs.toNat → ∃ t, exec .gridRestore s = .next t ∧ t.air.kept = none
      ∧ t.air.tick = BitVec.ofNat 21 ((k.count + (s.now - k.at2)) % 1228800)
      ∧ t.air.frame = BitVec.ofNat 10 ((k.count + (s.now - k.at2)) / 1228800)
      ∧ t.air.state = (if k.state = .locked ∨ k.state = .slewing ∨ k.state = .holdover then .holdover else .freerun)
      ∧ t.air.corr = s.air.corr ∧ t.hns = s.hns ∧ UnitsKept s t)))
end

