-- ==== Sys2Proof/Laws/Table.lean ====
section
/-!
SUPPORT. Laws of the sparse tables: reading after a write, and that every write keeps the canonical form.
-/
namespace Sys2Proof.Machine

variable {α : Type}

theorem tget_tput (d : α) (t : Table α) (k j : Nat) (v : α) :
    tget d (tput t k v) j = if k = j then v else tget d t j := by
  induction t with
  | nil => simp [tput, tget]
  | cons x t ih => grind [tput, tget]

theorem tget_tdel (d : α) (t : Table α) (k j : Nat) :
    tget d (tdel t k) j = if k = j then d else tget d t j := by
  induction t with
  | nil => simp [tdel, tget]
  | cons x t ih => grind [tdel, tget]

/-- Reading after a write. -/
theorem tget_tset [DecidableEq α] (d : α) (t : Table α) (k j : Nat) (v : α) :
    tget d (tset d t k v) j = if k = j then v else tget d t j := by
  unfold tset; split
  · subst_vars; exact tget_tdel ..
  · exact tget_tput ..

@[simp] theorem tget_tset_same [DecidableEq α] (d : α) (t : Table α) (k : Nat) (v : α) :
    tget d (tset d t k v) k = v := by simp [tget_tset]

@[simp] theorem tget_tset_ne [DecidableEq α] (d : α) (t : Table α) {k j : Nat} (v : α) (h : k ≠ j) :
    tget d (tset d t k v) j = tget d t j := by simp [tget_tset, h]

theorem tget_tmod [DecidableEq α] (d : α) (t : Table α) (k j : Nat) (f : α → α) :
    tget d (tmod d t k f) j = if k = j then f (tget d t j) else tget d t j := by
  unfold tmod; rw [tget_tset]; split <;> simp_all

@[simp] theorem tget_tmod_same [DecidableEq α] (d : α) (t : Table α) (k : Nat) (f : α → α) :
    tget d (tmod d t k f) k = f (tget d t k) := by simp [tget_tmod]

@[simp] theorem tget_tmod_ne [DecidableEq α] (d : α) (t : Table α) {k j : Nat} (f : α → α) (h : k ≠ j) :
    tget d (tmod d t k f) j = tget d t j := by simp [tget_tmod, h]

/-- The canonical form, said of all entries at once. -/
theorem twf_iff [DecidableEq α] (d : α) (t : Table α) :
    twf d t = true ↔ t.Pairwise (fun x y => x.1 < y.1) ∧ ∀ x ∈ t, x.2 ≠ d := by
  induction t with
  | nil => simp [twf]
  | cons x t ih =>
    cases t with
    | nil => simp [twf]
    | cons y t =>
      simp only [twf, Bool.and_eq_true, decide_eq_true_eq, ih, List.pairwise_cons, List.mem_cons]
      constructor
      · rintro ⟨⟨h1, h2⟩, ⟨h3, h4⟩, h5⟩
        refine ⟨⟨?_, h3, h4⟩, ?_⟩
        · rintro z (rfl | hz)
          · exact h2
          · exact lt_trans h2 (h3 z hz)
        · rintro z (rfl | hz)
          · exact h1
          · exact h5 z hz
      · rintro ⟨⟨h1, h3, h4⟩, h5⟩
        exact ⟨⟨h5 x (.inl rfl), h1 y (.inl rfl)⟩, ⟨h3, h4⟩, fun z hz => h5 z (.inr hz)⟩

theorem mem_tput {t : Table α} {k : Nat} {v : α} {x : Nat × α} (h : x ∈ tput t k v) : x = (k, v) ∨ x ∈ t := by
  induction t with
  | nil => simpa [tput] using h
  | cons y t ih => unfold tput at h; grind

theorem twf_tput [DecidableEq α] {d : α} {t : Table α} (k : Nat) {v : α} (h : twf d t = true) (hv : v ≠ d) :
    twf d (tput t k v) = true := by
  rw [twf_iff] at *
  refine ⟨?_, fun x hx => ?_⟩
  · obtain ⟨hp, -⟩ := h
    induction t with
    | nil => simp [tput]
    | cons y t ih =>
      rw [List.pairwise_cons] at hp
      obtain ⟨k', v'⟩ := y
      unfold tput
      split
      · refine List.pairwise_cons.2 ⟨?_, List.pairwise_cons.2 hp⟩
        rintro z hz
        rcases List.mem_cons.1 hz with rfl | hz
        · assumption
        · exact lt_trans ‹k < k'› (hp.1 z hz)
      · split
        · subst_vars; exact List.pairwise_cons.2 hp
        · refine List.pairwise_cons.2 ⟨fun z hz => ?_, ih hp.2⟩
          rcases mem_tput hz with rfl | hz
          · simp; omega
          · exact hp.1 z hz
  · rcases mem_tput hx with rfl | hx
    · exact hv
    · exact h.2 x hx

theorem tdel_sublist (t : Table α) (k : Nat) : (tdel t k).Sublist t := by
  induction t with
  | nil => exact .slnil
  | cons y t ih => unfold tdel; split <;> simp [ih, List.Sublist.cons]

theorem twf_sublist [DecidableEq α] {d : α} {t u : Table α} (h : twf d t = true) (hs : u.Sublist t) : twf d u = true := by
  rw [twf_iff] at *
  exact ⟨h.1.sublist hs, fun x hx => h.2 x (hs.subset hx)⟩

/-- A write keeps the canonical form. -/
theorem twf_tset [DecidableEq α] {d : α} {t : Table α} (k : Nat) (v : α) (h : twf d t = true) : twf d (tset d t k v) = true := by
  unfold tset; split
  · exact twf_sublist h (tdel_sublist t k)
  · exact twf_tput k h ‹_›

theorem twf_tmod [DecidableEq α] {d : α} {t : Table α} (k : Nat) (f : α → α) (h : twf d t = true) :
    twf d (tmod d t k f) = true := twf_tset _ _ h

theorem wf_mwrite {m : Table Byte} (a : Nat) (bs : List Byte) (h : Memory.wf m) : Memory.wf (mwrite m a bs) := by
  induction bs generalizing m a with
  | nil => exact h
  | cons b bs ih => exact ih _ (twf_tset _ _ h)

/-- A write of bytes leaves every other byte alone. -/
theorem tget_mwrite_other (m : Table Byte) (a : Nat) (bs : List Byte) (k : Nat) (h : k < a ∨ a + bs.length ≤ k) :
    tget 0 (mwrite m a bs) k = tget 0 m k := by
  induction bs generalizing m a with
  | nil => rfl
  | cons b bs ih =>
    simp only [List.length_cons] at h
    unfold mwrite
    rw [ih _ _ (by omega), tget_tset_ne _ _ _ (by omega)]

/-- A write of bytes puts each byte in its place. -/
theorem tget_mwrite (m : Table Byte) (a : Nat) (bs : List Byte) (j : Nat) (h : j < bs.length) :
    tget 0 (mwrite m a bs) (a + j) = bs[j] := by
  induction bs generalizing m a j with
  | nil => simp at h
  | cons b bs ih =>
    unfold mwrite
    cases j with
    | zero => rw [Nat.add_zero, tget_mwrite_other _ _ _ _ (by omega)]; simp
    | succ j =>
      have := ih (tset 0 m a b) (a + 1) j (by simpa using h)
      rw [show a + (j + 1) = a + 1 + j by omega, this]; rfl

end Sys2Proof.Machine
end

