-- ==== Sys2Proof/Laws/State.lean ====
section
/-!
SUPPORT. What each update of a unit's record does to each field of the state: the record it names is changed,
every other field reads as before. All by reflexivity or the laws of the tables, so that no proof unfolds a
record update.
-/
namespace Sys2Proof.Machine

/-- A fold keeps what each of its steps keeps. -/
theorem foldl_keep {σ : Type} {α : Type} {β : Type} (p : σ → β) (g : σ → α → σ) (h : ∀ s a, p (g s a) = p s) (l : List α) (s : σ) :
    p (l.foldl g s) = p s := by
  induction l generalizing s with
  | nil => rfl
  | cons a l ih => rw [List.foldl_cons, ih, h]

/-! ### modStall -/

@[simp] theorem modStall_pending (s : State) (n : Nat) (f : Stall → Stall) : (modStall s n f).pending = s.pending := rfl
@[simp] theorem modStall_sent (s : State) (n : Nat) (f : Stall → Stall) : (modStall s n f).sent = s.sent := rfl
@[simp] theorem modStall_now (s : State) (n : Nat) (f : Stall → Stall) : (modStall s n f).now = s.now := rfl
@[simp] theorem modStall_free (s : State) (n : Nat) (f : Stall → Stall) : (modStall s n f).free = s.free := rfl
@[simp] theorem modStall_fuses (s : State) (n : Nat) (f : Stall → Stall) : (modStall s n f).fuses = s.fuses := rfl
@[simp] theorem modStall_fencing (s : State) (n : Nat) (f : Stall → Stall) : (modStall s n f).fencing = s.fencing := rfl
@[simp] theorem modStall_air (s : State) (n : Nat) (f : Stall → Stall) : (modStall s n f).air = s.air := rfl
@[simp] theorem modStall_clusters (s : State) (n : Nat) (f : Stall → Stall) : (modStall s n f).clusters = s.clusters := rfl
@[simp] theorem modStall_loader (s : State) (n : Nat) (f : Stall → Stall) : (modStall s n f).loader = s.loader := rfl
@[simp] theorem modStall_accepted (s : State) (n : Nat) (f : Stall → Stall) : (modStall s n f).accepted = s.accepted := rfl
@[simp] theorem modStall_hns (s : State) (n : Nat) (f : Stall → Stall) : (modStall s n f).hns = s.hns := rfl
@[simp] theorem modStall_merged (s : State) (n : Nat) (f : Stall → Stall) : (modStall s n f).merged = s.merged := rfl
@[simp] theorem modStall_netNext (s : State) (n : Nat) (f : Stall → Stall) : (modStall s n f).netNext = s.netNext := rfl
@[simp] theorem modStall_mgmtStall (s : State) (n : Nat) (f : Stall → Stall) : (modStall s n f).mgmtStall = s.mgmtStall := rfl
@[simp] theorem modStall_ports (s : State) (n : Nat) (f : Stall → Stall) : (modStall s n f).ports = s.ports := rfl
@[simp] theorem modStall_funcs (s : State) (n : Nat) (f : Stall → Stall) : (modStall s n f).funcs = s.funcs := rfl
@[simp] theorem modStall_arrays (s : State) (n : Nat) (f : Stall → Stall) : (modStall s n f).arrays = s.arrays := rfl
@[simp] theorem modStall_vecs (s : State) (n : Nat) (f : Stall → Stall) : (modStall s n f).vecs = s.vecs := rfl
@[simp] theorem modStall_paths (s : State) (n : Nat) (f : Stall → Stall) : (modStall s n f).paths = s.paths := rfl
@[simp] theorem modStall_feeders (s : State) (n : Nat) (f : Stall → Stall) : (modStall s n f).feeders = s.feeders := rfl
@[simp] theorem modStall_mem (s : State) (n : Nat) (f : Stall → Stall) : (modStall s n f).mem = s.mem := rfl
@[simp] theorem modStall_cores (s : State) (n : Nat) (f : Stall → Stall) : (modStall s n f).cores = s.cores := rfl
@[simp] theorem modStall_tths (s : State) (n : Nat) (f : Stall → Stall) : (modStall s n f).tths = s.tths := rfl
@[simp] theorem modStall_girths (s : State) (n : Nat) (f : Stall → Stall) : (modStall s n f).girths = s.girths := rfl
@[simp] theorem modStall_iods (s : State) (n : Nat) (f : Stall → Stall) : (modStall s n f).iods = s.iods := rfl
@[simp] theorem modStall_smPtr (s : State) (n : Nat) (f : Stall → Stall) : (modStall s n f).smPtr = s.smPtr := rfl
@[simp] theorem modStall_smLatch (s : State) (n : Nat) (f : Stall → Stall) : (modStall s n f).smLatch = s.smLatch := rfl
@[simp] theorem modStall_taps (s : State) (n : Nat) (f : Stall → Stall) : (modStall s n f).taps = s.taps := rfl
@[simp] theorem modStall_testEn (s : State) (n : Nat) (f : Stall → Stall) : (modStall s n f).testEn = s.testEn := rfl
@[simp] theorem modStall_carriers (s : State) (n : Nat) (f : Stall → Stall) : (modStall s n f).carriers = s.carriers := rfl
@[simp] theorem modStall_decoders (s : State) (n : Nat) (f : Stall → Stall) : (modStall s n f).decoders = s.decoders := rfl
@[simp] theorem modStall_school (s : State) (n : Nat) (f : Stall → Stall) : (modStall s n f).school = s.school := rfl
@[simp] theorem modStall_trail (s : State) (n : Nat) (f : Stall → Stall) : (modStall s n f).trail = s.trail := rfl
@[simp] theorem modStall_flt (s : State) (n : Nat) (f : Stall → Stall) : (modStall s n f).flt = s.flt := rfl
@[simp] theorem modStall_boot (s : State) (n : Nat) (f : Stall → Stall) : (modStall s n f).boot = s.boot := rfl
@[simp] theorem modStall_grooms (s : State) (n : Nat) (f : Stall → Stall) : (modStall s n f).grooms = s.grooms := rfl
@[simp] theorem modStall_grm (s : State) (n : Nat) (f : Stall → Stall) : (modStall s n f).grm = s.grm := rfl
@[simp] theorem modStall_power (s : State) (n : Nat) (f : Stall → Stall) : (modStall s n f).power = s.power := rfl
@[simp] theorem getStall_modStall (s : State) (n : Nat) (f : Stall → Stall) : getStall (modStall s n f) n = f (getStall s n) := by simp [getStall, modStall]
theorem getStall_modStall_ne (s : State) {n m : Nat} (f : Stall → Stall) (h : n ≠ m) : getStall (modStall s n f) m = getStall s m := by simp [getStall, modStall, h]

/-! ### modArr -/

@[simp] theorem modArr_pending (s : State) (n : Nat) (f : ArrayU → ArrayU) : (modArr s n f).pending = s.pending := rfl
@[simp] theorem modArr_sent (s : State) (n : Nat) (f : ArrayU → ArrayU) : (modArr s n f).sent = s.sent := rfl
@[simp] theorem modArr_now (s : State) (n : Nat) (f : ArrayU → ArrayU) : (modArr s n f).now = s.now := rfl
@[simp] theorem modArr_free (s : State) (n : Nat) (f : ArrayU → ArrayU) : (modArr s n f).free = s.free := rfl
@[simp] theorem modArr_fuses (s : State) (n : Nat) (f : ArrayU → ArrayU) : (modArr s n f).fuses = s.fuses := rfl
@[simp] theorem modArr_fencing (s : State) (n : Nat) (f : ArrayU → ArrayU) : (modArr s n f).fencing = s.fencing := rfl
@[simp] theorem modArr_air (s : State) (n : Nat) (f : ArrayU → ArrayU) : (modArr s n f).air = s.air := rfl
@[simp] theorem modArr_clusters (s : State) (n : Nat) (f : ArrayU → ArrayU) : (modArr s n f).clusters = s.clusters := rfl
@[simp] theorem modArr_loader (s : State) (n : Nat) (f : ArrayU → ArrayU) : (modArr s n f).loader = s.loader := rfl
@[simp] theorem modArr_accepted (s : State) (n : Nat) (f : ArrayU → ArrayU) : (modArr s n f).accepted = s.accepted := rfl
@[simp] theorem modArr_hns (s : State) (n : Nat) (f : ArrayU → ArrayU) : (modArr s n f).hns = s.hns := rfl
@[simp] theorem modArr_merged (s : State) (n : Nat) (f : ArrayU → ArrayU) : (modArr s n f).merged = s.merged := rfl
@[simp] theorem modArr_netNext (s : State) (n : Nat) (f : ArrayU → ArrayU) : (modArr s n f).netNext = s.netNext := rfl
@[simp] theorem modArr_stalls (s : State) (n : Nat) (f : ArrayU → ArrayU) : (modArr s n f).stalls = s.stalls := rfl
@[simp] theorem modArr_mgmtStall (s : State) (n : Nat) (f : ArrayU → ArrayU) : (modArr s n f).mgmtStall = s.mgmtStall := rfl
@[simp] theorem modArr_ports (s : State) (n : Nat) (f : ArrayU → ArrayU) : (modArr s n f).ports = s.ports := rfl
@[simp] theorem modArr_funcs (s : State) (n : Nat) (f : ArrayU → ArrayU) : (modArr s n f).funcs = s.funcs := rfl
@[simp] theorem modArr_vecs (s : State) (n : Nat) (f : ArrayU → ArrayU) : (modArr s n f).vecs = s.vecs := rfl
@[simp] theorem modArr_paths (s : State) (n : Nat) (f : ArrayU → ArrayU) : (modArr s n f).paths = s.paths := rfl
@[simp] theorem modArr_feeders (s : State) (n : Nat) (f : ArrayU → ArrayU) : (modArr s n f).feeders = s.feeders := rfl
@[simp] theorem modArr_mem (s : State) (n : Nat) (f : ArrayU → ArrayU) : (modArr s n f).mem = s.mem := rfl
@[simp] theorem modArr_cores (s : State) (n : Nat) (f : ArrayU → ArrayU) : (modArr s n f).cores = s.cores := rfl
@[simp] theorem modArr_tths (s : State) (n : Nat) (f : ArrayU → ArrayU) : (modArr s n f).tths = s.tths := rfl
@[simp] theorem modArr_girths (s : State) (n : Nat) (f : ArrayU → ArrayU) : (modArr s n f).girths = s.girths := rfl
@[simp] theorem modArr_iods (s : State) (n : Nat) (f : ArrayU → ArrayU) : (modArr s n f).iods = s.iods := rfl
@[simp] theorem modArr_smPtr (s : State) (n : Nat) (f : ArrayU → ArrayU) : (modArr s n f).smPtr = s.smPtr := rfl
@[simp] theorem modArr_smLatch (s : State) (n : Nat) (f : ArrayU → ArrayU) : (modArr s n f).smLatch = s.smLatch := rfl
@[simp] theorem modArr_taps (s : State) (n : Nat) (f : ArrayU → ArrayU) : (modArr s n f).taps = s.taps := rfl
@[simp] theorem modArr_testEn (s : State) (n : Nat) (f : ArrayU → ArrayU) : (modArr s n f).testEn = s.testEn := rfl
@[simp] theorem modArr_carriers (s : State) (n : Nat) (f : ArrayU → ArrayU) : (modArr s n f).carriers = s.carriers := rfl
@[simp] theorem modArr_decoders (s : State) (n : Nat) (f : ArrayU → ArrayU) : (modArr s n f).decoders = s.decoders := rfl
@[simp] theorem modArr_school (s : State) (n : Nat) (f : ArrayU → ArrayU) : (modArr s n f).school = s.school := rfl
@[simp] theorem modArr_trail (s : State) (n : Nat) (f : ArrayU → ArrayU) : (modArr s n f).trail = s.trail := rfl
@[simp] theorem modArr_flt (s : State) (n : Nat) (f : ArrayU → ArrayU) : (modArr s n f).flt = s.flt := rfl
@[simp] theorem modArr_boot (s : State) (n : Nat) (f : ArrayU → ArrayU) : (modArr s n f).boot = s.boot := rfl
@[simp] theorem modArr_grooms (s : State) (n : Nat) (f : ArrayU → ArrayU) : (modArr s n f).grooms = s.grooms := rfl
@[simp] theorem modArr_grm (s : State) (n : Nat) (f : ArrayU → ArrayU) : (modArr s n f).grm = s.grm := rfl
@[simp] theorem modArr_power (s : State) (n : Nat) (f : ArrayU → ArrayU) : (modArr s n f).power = s.power := rfl
@[simp] theorem getArr_modArr (s : State) (n : Nat) (f : ArrayU → ArrayU) : getArr (modArr s n f) n = f (getArr s n) := by simp [getArr, modArr]
theorem getArr_modArr_ne (s : State) {n m : Nat} (f : ArrayU → ArrayU) (h : n ≠ m) : getArr (modArr s n f) m = getArr s m := by simp [getArr, modArr, h]

/-! ### modVec -/

@[simp] theorem modVec_pending (s : State) (n : Nat) (f : VecU → VecU) : (modVec s n f).pending = s.pending := rfl
@[simp] theorem modVec_sent (s : State) (n : Nat) (f : VecU → VecU) : (modVec s n f).sent = s.sent := rfl
@[simp] theorem modVec_now (s : State) (n : Nat) (f : VecU → VecU) : (modVec s n f).now = s.now := rfl
@[simp] theorem modVec_free (s : State) (n : Nat) (f : VecU → VecU) : (modVec s n f).free = s.free := rfl
@[simp] theorem modVec_fuses (s : State) (n : Nat) (f : VecU → VecU) : (modVec s n f).fuses = s.fuses := rfl
@[simp] theorem modVec_fencing (s : State) (n : Nat) (f : VecU → VecU) : (modVec s n f).fencing = s.fencing := rfl
@[simp] theorem modVec_air (s : State) (n : Nat) (f : VecU → VecU) : (modVec s n f).air = s.air := rfl
@[simp] theorem modVec_clusters (s : State) (n : Nat) (f : VecU → VecU) : (modVec s n f).clusters = s.clusters := rfl
@[simp] theorem modVec_loader (s : State) (n : Nat) (f : VecU → VecU) : (modVec s n f).loader = s.loader := rfl
@[simp] theorem modVec_accepted (s : State) (n : Nat) (f : VecU → VecU) : (modVec s n f).accepted = s.accepted := rfl
@[simp] theorem modVec_hns (s : State) (n : Nat) (f : VecU → VecU) : (modVec s n f).hns = s.hns := rfl
@[simp] theorem modVec_merged (s : State) (n : Nat) (f : VecU → VecU) : (modVec s n f).merged = s.merged := rfl
@[simp] theorem modVec_netNext (s : State) (n : Nat) (f : VecU → VecU) : (modVec s n f).netNext = s.netNext := rfl
@[simp] theorem modVec_stalls (s : State) (n : Nat) (f : VecU → VecU) : (modVec s n f).stalls = s.stalls := rfl
@[simp] theorem modVec_mgmtStall (s : State) (n : Nat) (f : VecU → VecU) : (modVec s n f).mgmtStall = s.mgmtStall := rfl
@[simp] theorem modVec_ports (s : State) (n : Nat) (f : VecU → VecU) : (modVec s n f).ports = s.ports := rfl
@[simp] theorem modVec_funcs (s : State) (n : Nat) (f : VecU → VecU) : (modVec s n f).funcs = s.funcs := rfl
@[simp] theorem modVec_arrays (s : State) (n : Nat) (f : VecU → VecU) : (modVec s n f).arrays = s.arrays := rfl
@[simp] theorem modVec_paths (s : State) (n : Nat) (f : VecU → VecU) : (modVec s n f).paths = s.paths := rfl
@[simp] theorem modVec_feeders (s : State) (n : Nat) (f : VecU → VecU) : (modVec s n f).feeders = s.feeders := rfl
@[simp] theorem modVec_mem (s : State) (n : Nat) (f : VecU → VecU) : (modVec s n f).mem = s.mem := rfl
@[simp] theorem modVec_cores (s : State) (n : Nat) (f : VecU → VecU) : (modVec s n f).cores = s.cores := rfl
@[simp] theorem modVec_tths (s : State) (n : Nat) (f : VecU → VecU) : (modVec s n f).tths = s.tths := rfl
@[simp] theorem modVec_girths (s : State) (n : Nat) (f : VecU → VecU) : (modVec s n f).girths = s.girths := rfl
@[simp] theorem modVec_iods (s : State) (n : Nat) (f : VecU → VecU) : (modVec s n f).iods = s.iods := rfl
@[simp] theorem modVec_smPtr (s : State) (n : Nat) (f : VecU → VecU) : (modVec s n f).smPtr = s.smPtr := rfl
@[simp] theorem modVec_smLatch (s : State) (n : Nat) (f : VecU → VecU) : (modVec s n f).smLatch = s.smLatch := rfl
@[simp] theorem modVec_taps (s : State) (n : Nat) (f : VecU → VecU) : (modVec s n f).taps = s.taps := rfl
@[simp] theorem modVec_testEn (s : State) (n : Nat) (f : VecU → VecU) : (modVec s n f).testEn = s.testEn := rfl
@[simp] theorem modVec_carriers (s : State) (n : Nat) (f : VecU → VecU) : (modVec s n f).carriers = s.carriers := rfl
@[simp] theorem modVec_decoders (s : State) (n : Nat) (f : VecU → VecU) : (modVec s n f).decoders = s.decoders := rfl
@[simp] theorem modVec_school (s : State) (n : Nat) (f : VecU → VecU) : (modVec s n f).school = s.school := rfl
@[simp] theorem modVec_trail (s : State) (n : Nat) (f : VecU → VecU) : (modVec s n f).trail = s.trail := rfl
@[simp] theorem modVec_flt (s : State) (n : Nat) (f : VecU → VecU) : (modVec s n f).flt = s.flt := rfl
@[simp] theorem modVec_boot (s : State) (n : Nat) (f : VecU → VecU) : (modVec s n f).boot = s.boot := rfl
@[simp] theorem modVec_grooms (s : State) (n : Nat) (f : VecU → VecU) : (modVec s n f).grooms = s.grooms := rfl
@[simp] theorem modVec_grm (s : State) (n : Nat) (f : VecU → VecU) : (modVec s n f).grm = s.grm := rfl
@[simp] theorem modVec_power (s : State) (n : Nat) (f : VecU → VecU) : (modVec s n f).power = s.power := rfl
@[simp] theorem getVec_modVec (s : State) (n : Nat) (f : VecU → VecU) : getVec (modVec s n f) n = f (getVec s n) := by simp [getVec, modVec]
theorem getVec_modVec_ne (s : State) {n m : Nat} (f : VecU → VecU) (h : n ≠ m) : getVec (modVec s n f) m = getVec s m := by simp [getVec, modVec, h]

/-! ### modPath -/

@[simp] theorem modPath_pending (s : State) (n : Nat) (f : PathU → PathU) : (modPath s n f).pending = s.pending := rfl
@[simp] theorem modPath_sent (s : State) (n : Nat) (f : PathU → PathU) : (modPath s n f).sent = s.sent := rfl
@[simp] theorem modPath_now (s : State) (n : Nat) (f : PathU → PathU) : (modPath s n f).now = s.now := rfl
@[simp] theorem modPath_free (s : State) (n : Nat) (f : PathU → PathU) : (modPath s n f).free = s.free := rfl
@[simp] theorem modPath_fuses (s : State) (n : Nat) (f : PathU → PathU) : (modPath s n f).fuses = s.fuses := rfl
@[simp] theorem modPath_fencing (s : State) (n : Nat) (f : PathU → PathU) : (modPath s n f).fencing = s.fencing := rfl
@[simp] theorem modPath_air (s : State) (n : Nat) (f : PathU → PathU) : (modPath s n f).air = s.air := rfl
@[simp] theorem modPath_clusters (s : State) (n : Nat) (f : PathU → PathU) : (modPath s n f).clusters = s.clusters := rfl
@[simp] theorem modPath_loader (s : State) (n : Nat) (f : PathU → PathU) : (modPath s n f).loader = s.loader := rfl
@[simp] theorem modPath_accepted (s : State) (n : Nat) (f : PathU → PathU) : (modPath s n f).accepted = s.accepted := rfl
@[simp] theorem modPath_hns (s : State) (n : Nat) (f : PathU → PathU) : (modPath s n f).hns = s.hns := rfl
@[simp] theorem modPath_merged (s : State) (n : Nat) (f : PathU → PathU) : (modPath s n f).merged = s.merged := rfl
@[simp] theorem modPath_netNext (s : State) (n : Nat) (f : PathU → PathU) : (modPath s n f).netNext = s.netNext := rfl
@[simp] theorem modPath_stalls (s : State) (n : Nat) (f : PathU → PathU) : (modPath s n f).stalls = s.stalls := rfl
@[simp] theorem modPath_mgmtStall (s : State) (n : Nat) (f : PathU → PathU) : (modPath s n f).mgmtStall = s.mgmtStall := rfl
@[simp] theorem modPath_ports (s : State) (n : Nat) (f : PathU → PathU) : (modPath s n f).ports = s.ports := rfl
@[simp] theorem modPath_funcs (s : State) (n : Nat) (f : PathU → PathU) : (modPath s n f).funcs = s.funcs := rfl
@[simp] theorem modPath_arrays (s : State) (n : Nat) (f : PathU → PathU) : (modPath s n f).arrays = s.arrays := rfl
@[simp] theorem modPath_vecs (s : State) (n : Nat) (f : PathU → PathU) : (modPath s n f).vecs = s.vecs := rfl
@[simp] theorem modPath_feeders (s : State) (n : Nat) (f : PathU → PathU) : (modPath s n f).feeders = s.feeders := rfl
@[simp] theorem modPath_mem (s : State) (n : Nat) (f : PathU → PathU) : (modPath s n f).mem = s.mem := rfl
@[simp] theorem modPath_cores (s : State) (n : Nat) (f : PathU → PathU) : (modPath s n f).cores = s.cores := rfl
@[simp] theorem modPath_tths (s : State) (n : Nat) (f : PathU → PathU) : (modPath s n f).tths = s.tths := rfl
@[simp] theorem modPath_girths (s : State) (n : Nat) (f : PathU → PathU) : (modPath s n f).girths = s.girths := rfl
@[simp] theorem modPath_iods (s : State) (n : Nat) (f : PathU → PathU) : (modPath s n f).iods = s.iods := rfl
@[simp] theorem modPath_smPtr (s : State) (n : Nat) (f : PathU → PathU) : (modPath s n f).smPtr = s.smPtr := rfl
@[simp] theorem modPath_smLatch (s : State) (n : Nat) (f : PathU → PathU) : (modPath s n f).smLatch = s.smLatch := rfl
@[simp] theorem modPath_taps (s : State) (n : Nat) (f : PathU → PathU) : (modPath s n f).taps = s.taps := rfl
@[simp] theorem modPath_testEn (s : State) (n : Nat) (f : PathU → PathU) : (modPath s n f).testEn = s.testEn := rfl
@[simp] theorem modPath_carriers (s : State) (n : Nat) (f : PathU → PathU) : (modPath s n f).carriers = s.carriers := rfl
@[simp] theorem modPath_decoders (s : State) (n : Nat) (f : PathU → PathU) : (modPath s n f).decoders = s.decoders := rfl
@[simp] theorem modPath_school (s : State) (n : Nat) (f : PathU → PathU) : (modPath s n f).school = s.school := rfl
@[simp] theorem modPath_trail (s : State) (n : Nat) (f : PathU → PathU) : (modPath s n f).trail = s.trail := rfl
@[simp] theorem modPath_flt (s : State) (n : Nat) (f : PathU → PathU) : (modPath s n f).flt = s.flt := rfl
@[simp] theorem modPath_boot (s : State) (n : Nat) (f : PathU → PathU) : (modPath s n f).boot = s.boot := rfl
@[simp] theorem modPath_grooms (s : State) (n : Nat) (f : PathU → PathU) : (modPath s n f).grooms = s.grooms := rfl
@[simp] theorem modPath_grm (s : State) (n : Nat) (f : PathU → PathU) : (modPath s n f).grm = s.grm := rfl
@[simp] theorem modPath_power (s : State) (n : Nat) (f : PathU → PathU) : (modPath s n f).power = s.power := rfl
@[simp] theorem getPath_modPath (s : State) (n : Nat) (f : PathU → PathU) : getPath (modPath s n f) n = f (getPath s n) := by simp [getPath, modPath]
theorem getPath_modPath_ne (s : State) {n m : Nat} (f : PathU → PathU) (h : n ≠ m) : getPath (modPath s n f) m = getPath s m := by simp [getPath, modPath, h]

/-! ### modFdr -/

@[simp] theorem modFdr_pending (s : State) (n : Nat) (f : Feeder → Feeder) : (modFdr s n f).pending = s.pending := rfl
@[simp] theorem modFdr_sent (s : State) (n : Nat) (f : Feeder → Feeder) : (modFdr s n f).sent = s.sent := rfl
@[simp] theorem modFdr_now (s : State) (n : Nat) (f : Feeder → Feeder) : (modFdr s n f).now = s.now := rfl
@[simp] theorem modFdr_free (s : State) (n : Nat) (f : Feeder → Feeder) : (modFdr s n f).free = s.free := rfl
@[simp] theorem modFdr_fuses (s : State) (n : Nat) (f : Feeder → Feeder) : (modFdr s n f).fuses = s.fuses := rfl
@[simp] theorem modFdr_fencing (s : State) (n : Nat) (f : Feeder → Feeder) : (modFdr s n f).fencing = s.fencing := rfl
@[simp] theorem modFdr_air (s : State) (n : Nat) (f : Feeder → Feeder) : (modFdr s n f).air = s.air := rfl
@[simp] theorem modFdr_clusters (s : State) (n : Nat) (f : Feeder → Feeder) : (modFdr s n f).clusters = s.clusters := rfl
@[simp] theorem modFdr_loader (s : State) (n : Nat) (f : Feeder → Feeder) : (modFdr s n f).loader = s.loader := rfl
@[simp] theorem modFdr_accepted (s : State) (n : Nat) (f : Feeder → Feeder) : (modFdr s n f).accepted = s.accepted := rfl
@[simp] theorem modFdr_hns (s : State) (n : Nat) (f : Feeder → Feeder) : (modFdr s n f).hns = s.hns := rfl
@[simp] theorem modFdr_merged (s : State) (n : Nat) (f : Feeder → Feeder) : (modFdr s n f).merged = s.merged := rfl
@[simp] theorem modFdr_netNext (s : State) (n : Nat) (f : Feeder → Feeder) : (modFdr s n f).netNext = s.netNext := rfl
@[simp] theorem modFdr_stalls (s : State) (n : Nat) (f : Feeder → Feeder) : (modFdr s n f).stalls = s.stalls := rfl
@[simp] theorem modFdr_mgmtStall (s : State) (n : Nat) (f : Feeder → Feeder) : (modFdr s n f).mgmtStall = s.mgmtStall := rfl
@[simp] theorem modFdr_ports (s : State) (n : Nat) (f : Feeder → Feeder) : (modFdr s n f).ports = s.ports := rfl
@[simp] theorem modFdr_funcs (s : State) (n : Nat) (f : Feeder → Feeder) : (modFdr s n f).funcs = s.funcs := rfl
@[simp] theorem modFdr_arrays (s : State) (n : Nat) (f : Feeder → Feeder) : (modFdr s n f).arrays = s.arrays := rfl
@[simp] theorem modFdr_vecs (s : State) (n : Nat) (f : Feeder → Feeder) : (modFdr s n f).vecs = s.vecs := rfl
@[simp] theorem modFdr_paths (s : State) (n : Nat) (f : Feeder → Feeder) : (modFdr s n f).paths = s.paths := rfl
@[simp] theorem modFdr_mem (s : State) (n : Nat) (f : Feeder → Feeder) : (modFdr s n f).mem = s.mem := rfl
@[simp] theorem modFdr_cores (s : State) (n : Nat) (f : Feeder → Feeder) : (modFdr s n f).cores = s.cores := rfl
@[simp] theorem modFdr_tths (s : State) (n : Nat) (f : Feeder → Feeder) : (modFdr s n f).tths = s.tths := rfl
@[simp] theorem modFdr_girths (s : State) (n : Nat) (f : Feeder → Feeder) : (modFdr s n f).girths = s.girths := rfl
@[simp] theorem modFdr_iods (s : State) (n : Nat) (f : Feeder → Feeder) : (modFdr s n f).iods = s.iods := rfl
@[simp] theorem modFdr_smPtr (s : State) (n : Nat) (f : Feeder → Feeder) : (modFdr s n f).smPtr = s.smPtr := rfl
@[simp] theorem modFdr_smLatch (s : State) (n : Nat) (f : Feeder → Feeder) : (modFdr s n f).smLatch = s.smLatch := rfl
@[simp] theorem modFdr_taps (s : State) (n : Nat) (f : Feeder → Feeder) : (modFdr s n f).taps = s.taps := rfl
@[simp] theorem modFdr_testEn (s : State) (n : Nat) (f : Feeder → Feeder) : (modFdr s n f).testEn = s.testEn := rfl
@[simp] theorem modFdr_carriers (s : State) (n : Nat) (f : Feeder → Feeder) : (modFdr s n f).carriers = s.carriers := rfl
@[simp] theorem modFdr_decoders (s : State) (n : Nat) (f : Feeder → Feeder) : (modFdr s n f).decoders = s.decoders := rfl
@[simp] theorem modFdr_school (s : State) (n : Nat) (f : Feeder → Feeder) : (modFdr s n f).school = s.school := rfl
@[simp] theorem modFdr_trail (s : State) (n : Nat) (f : Feeder → Feeder) : (modFdr s n f).trail = s.trail := rfl
@[simp] theorem modFdr_flt (s : State) (n : Nat) (f : Feeder → Feeder) : (modFdr s n f).flt = s.flt := rfl
@[simp] theorem modFdr_boot (s : State) (n : Nat) (f : Feeder → Feeder) : (modFdr s n f).boot = s.boot := rfl
@[simp] theorem modFdr_grooms (s : State) (n : Nat) (f : Feeder → Feeder) : (modFdr s n f).grooms = s.grooms := rfl
@[simp] theorem modFdr_grm (s : State) (n : Nat) (f : Feeder → Feeder) : (modFdr s n f).grm = s.grm := rfl
@[simp] theorem modFdr_power (s : State) (n : Nat) (f : Feeder → Feeder) : (modFdr s n f).power = s.power := rfl
@[simp] theorem getFdr_modFdr (s : State) (n : Nat) (f : Feeder → Feeder) : getFdr (modFdr s n f) n = f (getFdr s n) := by simp [getFdr, modFdr]
theorem getFdr_modFdr_ne (s : State) {n m : Nat} (f : Feeder → Feeder) (h : n ≠ m) : getFdr (modFdr s n f) m = getFdr s m := by simp [getFdr, modFdr, h]

/-! ### modCluster -/

@[simp] theorem modCluster_pending (s : State) (n : Nat) (f : Cluster → Cluster) : (modCluster s n f).pending = s.pending := rfl
@[simp] theorem modCluster_sent (s : State) (n : Nat) (f : Cluster → Cluster) : (modCluster s n f).sent = s.sent := rfl
@[simp] theorem modCluster_now (s : State) (n : Nat) (f : Cluster → Cluster) : (modCluster s n f).now = s.now := rfl
@[simp] theorem modCluster_free (s : State) (n : Nat) (f : Cluster → Cluster) : (modCluster s n f).free = s.free := rfl
@[simp] theorem modCluster_fuses (s : State) (n : Nat) (f : Cluster → Cluster) : (modCluster s n f).fuses = s.fuses := rfl
@[simp] theorem modCluster_fencing (s : State) (n : Nat) (f : Cluster → Cluster) : (modCluster s n f).fencing = s.fencing := rfl
@[simp] theorem modCluster_air (s : State) (n : Nat) (f : Cluster → Cluster) : (modCluster s n f).air = s.air := rfl
@[simp] theorem modCluster_loader (s : State) (n : Nat) (f : Cluster → Cluster) : (modCluster s n f).loader = s.loader := rfl
@[simp] theorem modCluster_accepted (s : State) (n : Nat) (f : Cluster → Cluster) : (modCluster s n f).accepted = s.accepted := rfl
@[simp] theorem modCluster_hns (s : State) (n : Nat) (f : Cluster → Cluster) : (modCluster s n f).hns = s.hns := rfl
@[simp] theorem modCluster_merged (s : State) (n : Nat) (f : Cluster → Cluster) : (modCluster s n f).merged = s.merged := rfl
@[simp] theorem modCluster_netNext (s : State) (n : Nat) (f : Cluster → Cluster) : (modCluster s n f).netNext = s.netNext := rfl
@[simp] theorem modCluster_stalls (s : State) (n : Nat) (f : Cluster → Cluster) : (modCluster s n f).stalls = s.stalls := rfl
@[simp] theorem modCluster_mgmtStall (s : State) (n : Nat) (f : Cluster → Cluster) : (modCluster s n f).mgmtStall = s.mgmtStall := rfl
@[simp] theorem modCluster_ports (s : State) (n : Nat) (f : Cluster → Cluster) : (modCluster s n f).ports = s.ports := rfl
@[simp] theorem modCluster_funcs (s : State) (n : Nat) (f : Cluster → Cluster) : (modCluster s n f).funcs = s.funcs := rfl
@[simp] theorem modCluster_arrays (s : State) (n : Nat) (f : Cluster → Cluster) : (modCluster s n f).arrays = s.arrays := rfl
@[simp] theorem modCluster_vecs (s : State) (n : Nat) (f : Cluster → Cluster) : (modCluster s n f).vecs = s.vecs := rfl
@[simp] theorem modCluster_paths (s : State) (n : Nat) (f : Cluster → Cluster) : (modCluster s n f).paths = s.paths := rfl
@[simp] theorem modCluster_feeders (s : State) (n : Nat) (f : Cluster → Cluster) : (modCluster s n f).feeders = s.feeders := rfl
@[simp] theorem modCluster_mem (s : State) (n : Nat) (f : Cluster → Cluster) : (modCluster s n f).mem = s.mem := rfl
@[simp] theorem modCluster_cores (s : State) (n : Nat) (f : Cluster → Cluster) : (modCluster s n f).cores = s.cores := rfl
@[simp] theorem modCluster_tths (s : State) (n : Nat) (f : Cluster → Cluster) : (modCluster s n f).tths = s.tths := rfl
@[simp] theorem modCluster_girths (s : State) (n : Nat) (f : Cluster → Cluster) : (modCluster s n f).girths = s.girths := rfl
@[simp] theorem modCluster_iods (s : State) (n : Nat) (f : Cluster → Cluster) : (modCluster s n f).iods = s.iods := rfl
@[simp] theorem modCluster_smPtr (s : State) (n : Nat) (f : Cluster → Cluster) : (modCluster s n f).smPtr = s.smPtr := rfl
@[simp] theorem modCluster_smLatch (s : State) (n : Nat) (f : Cluster → Cluster) : (modCluster s n f).smLatch = s.smLatch := rfl
@[simp] theorem modCluster_taps (s : State) (n : Nat) (f : Cluster → Cluster) : (modCluster s n f).taps = s.taps := rfl
@[simp] theorem modCluster_testEn (s : State) (n : Nat) (f : Cluster → Cluster) : (modCluster s n f).testEn = s.testEn := rfl
@[simp] theorem modCluster_carriers (s : State) (n : Nat) (f : Cluster → Cluster) : (modCluster s n f).carriers = s.carriers := rfl
@[simp] theorem modCluster_decoders (s : State) (n : Nat) (f : Cluster → Cluster) : (modCluster s n f).decoders = s.decoders := rfl
@[simp] theorem modCluster_school (s : State) (n : Nat) (f : Cluster → Cluster) : (modCluster s n f).school = s.school := rfl
@[simp] theorem modCluster_trail (s : State) (n : Nat) (f : Cluster → Cluster) : (modCluster s n f).trail = s.trail := rfl
@[simp] theorem modCluster_flt (s : State) (n : Nat) (f : Cluster → Cluster) : (modCluster s n f).flt = s.flt := rfl
@[simp] theorem modCluster_boot (s : State) (n : Nat) (f : Cluster → Cluster) : (modCluster s n f).boot = s.boot := rfl
@[simp] theorem modCluster_grooms (s : State) (n : Nat) (f : Cluster → Cluster) : (modCluster s n f).grooms = s.grooms := rfl
@[simp] theorem modCluster_grm (s : State) (n : Nat) (f : Cluster → Cluster) : (modCluster s n f).grm = s.grm := rfl
@[simp] theorem modCluster_power (s : State) (n : Nat) (f : Cluster → Cluster) : (modCluster s n f).power = s.power := rfl
@[simp] theorem getCluster_modCluster (s : State) (n : Nat) (f : Cluster → Cluster) : getCluster (modCluster s n f) n = f (getCluster s n) := by simp [getCluster, modCluster]
theorem getCluster_modCluster_ne (s : State) {n m : Nat} (f : Cluster → Cluster) (h : n ≠ m) : getCluster (modCluster s n f) m = getCluster s m := by simp [getCluster, modCluster, h]

/-! ### modPort -/

@[simp] theorem modPort_pending (s : State) (n : Nat) (f : Port → Port) : (modPort s n f).pending = s.pending := rfl
@[simp] theorem modPort_sent (s : State) (n : Nat) (f : Port → Port) : (modPort s n f).sent = s.sent := rfl
@[simp] theorem modPort_now (s : State) (n : Nat) (f : Port → Port) : (modPort s n f).now = s.now := rfl
@[simp] theorem modPort_free (s : State) (n : Nat) (f : Port → Port) : (modPort s n f).free = s.free := rfl
@[simp] theorem modPort_fuses (s : State) (n : Nat) (f : Port → Port) : (modPort s n f).fuses = s.fuses := rfl
@[simp] theorem modPort_fencing (s : State) (n : Nat) (f : Port → Port) : (modPort s n f).fencing = s.fencing := rfl
@[simp] theorem modPort_air (s : State) (n : Nat) (f : Port → Port) : (modPort s n f).air = s.air := rfl
@[simp] theorem modPort_clusters (s : State) (n : Nat) (f : Port → Port) : (modPort s n f).clusters = s.clusters := rfl
@[simp] theorem modPort_loader (s : State) (n : Nat) (f : Port → Port) : (modPort s n f).loader = s.loader := rfl
@[simp] theorem modPort_accepted (s : State) (n : Nat) (f : Port → Port) : (modPort s n f).accepted = s.accepted := rfl
@[simp] theorem modPort_hns (s : State) (n : Nat) (f : Port → Port) : (modPort s n f).hns = s.hns := rfl
@[simp] theorem modPort_merged (s : State) (n : Nat) (f : Port → Port) : (modPort s n f).merged = s.merged := rfl
@[simp] theorem modPort_netNext (s : State) (n : Nat) (f : Port → Port) : (modPort s n f).netNext = s.netNext := rfl
@[simp] theorem modPort_stalls (s : State) (n : Nat) (f : Port → Port) : (modPort s n f).stalls = s.stalls := rfl
@[simp] theorem modPort_mgmtStall (s : State) (n : Nat) (f : Port → Port) : (modPort s n f).mgmtStall = s.mgmtStall := rfl
@[simp] theorem modPort_funcs (s : State) (n : Nat) (f : Port → Port) : (modPort s n f).funcs = s.funcs := rfl
@[simp] theorem modPort_arrays (s : State) (n : Nat) (f : Port → Port) : (modPort s n f).arrays = s.arrays := rfl
@[simp] theorem modPort_vecs (s : State) (n : Nat) (f : Port → Port) : (modPort s n f).vecs = s.vecs := rfl
@[simp] theorem modPort_paths (s : State) (n : Nat) (f : Port → Port) : (modPort s n f).paths = s.paths := rfl
@[simp] theorem modPort_feeders (s : State) (n : Nat) (f : Port → Port) : (modPort s n f).feeders = s.feeders := rfl
@[simp] theorem modPort_mem (s : State) (n : Nat) (f : Port → Port) : (modPort s n f).mem = s.mem := rfl
@[simp] theorem modPort_cores (s : State) (n : Nat) (f : Port → Port) : (modPort s n f).cores = s.cores := rfl
@[simp] theorem modPort_tths (s : State) (n : Nat) (f : Port → Port) : (modPort s n f).tths = s.tths := rfl
@[simp] theorem modPort_girths (s : State) (n : Nat) (f : Port → Port) : (modPort s n f).girths = s.girths := rfl
@[simp] theorem modPort_iods (s : State) (n : Nat) (f : Port → Port) : (modPort s n f).iods = s.iods := rfl
@[simp] theorem modPort_smPtr (s : State) (n : Nat) (f : Port → Port) : (modPort s n f).smPtr = s.smPtr := rfl
@[simp] theorem modPort_smLatch (s : State) (n : Nat) (f : Port → Port) : (modPort s n f).smLatch = s.smLatch := rfl
@[simp] theorem modPort_taps (s : State) (n : Nat) (f : Port → Port) : (modPort s n f).taps = s.taps := rfl
@[simp] theorem modPort_testEn (s : State) (n : Nat) (f : Port → Port) : (modPort s n f).testEn = s.testEn := rfl
@[simp] theorem modPort_carriers (s : State) (n : Nat) (f : Port → Port) : (modPort s n f).carriers = s.carriers := rfl
@[simp] theorem modPort_decoders (s : State) (n : Nat) (f : Port → Port) : (modPort s n f).decoders = s.decoders := rfl
@[simp] theorem modPort_school (s : State) (n : Nat) (f : Port → Port) : (modPort s n f).school = s.school := rfl
@[simp] theorem modPort_trail (s : State) (n : Nat) (f : Port → Port) : (modPort s n f).trail = s.trail := rfl
@[simp] theorem modPort_flt (s : State) (n : Nat) (f : Port → Port) : (modPort s n f).flt = s.flt := rfl
@[simp] theorem modPort_boot (s : State) (n : Nat) (f : Port → Port) : (modPort s n f).boot = s.boot := rfl
@[simp] theorem modPort_grooms (s : State) (n : Nat) (f : Port → Port) : (modPort s n f).grooms = s.grooms := rfl
@[simp] theorem modPort_grm (s : State) (n : Nat) (f : Port → Port) : (modPort s n f).grm = s.grm := rfl
@[simp] theorem modPort_power (s : State) (n : Nat) (f : Port → Port) : (modPort s n f).power = s.power := rfl
@[simp] theorem getPort_modPort (s : State) (n : Nat) (f : Port → Port) : getPort (modPort s n f) n = f (getPort s n) := by simp [getPort, modPort]
theorem getPort_modPort_ne (s : State) {n m : Nat} (f : Port → Port) (h : n ≠ m) : getPort (modPort s n f) m = getPort s m := by simp [getPort, modPort, h]

/-! ### modCarrier -/

@[simp] theorem modCarrier_pending (s : State) (n : Nat) (f : Carrier → Carrier) : (modCarrier s n f).pending = s.pending := rfl
@[simp] theorem modCarrier_sent (s : State) (n : Nat) (f : Carrier → Carrier) : (modCarrier s n f).sent = s.sent := rfl
@[simp] theorem modCarrier_now (s : State) (n : Nat) (f : Carrier → Carrier) : (modCarrier s n f).now = s.now := rfl
@[simp] theorem modCarrier_free (s : State) (n : Nat) (f : Carrier → Carrier) : (modCarrier s n f).free = s.free := rfl
@[simp] theorem modCarrier_fuses (s : State) (n : Nat) (f : Carrier → Carrier) : (modCarrier s n f).fuses = s.fuses := rfl
@[simp] theorem modCarrier_fencing (s : State) (n : Nat) (f : Carrier → Carrier) : (modCarrier s n f).fencing = s.fencing := rfl
@[simp] theorem modCarrier_air (s : State) (n : Nat) (f : Carrier → Carrier) : (modCarrier s n f).air = s.air := rfl
@[simp] theorem modCarrier_clusters (s : State) (n : Nat) (f : Carrier → Carrier) : (modCarrier s n f).clusters = s.clusters := rfl
@[simp] theorem modCarrier_loader (s : State) (n : Nat) (f : Carrier → Carrier) : (modCarrier s n f).loader = s.loader := rfl
@[simp] theorem modCarrier_accepted (s : State) (n : Nat) (f : Carrier → Carrier) : (modCarrier s n f).accepted = s.accepted := rfl
@[simp] theorem modCarrier_hns (s : State) (n : Nat) (f : Carrier → Carrier) : (modCarrier s n f).hns = s.hns := rfl
@[simp] theorem modCarrier_merged (s : State) (n : Nat) (f : Carrier → Carrier) : (modCarrier s n f).merged = s.merged := rfl
@[simp] theorem modCarrier_netNext (s : State) (n : Nat) (f : Carrier → Carrier) : (modCarrier s n f).netNext = s.netNext := rfl
@[simp] theorem modCarrier_stalls (s : State) (n : Nat) (f : Carrier → Carrier) : (modCarrier s n f).stalls = s.stalls := rfl
@[simp] theorem modCarrier_mgmtStall (s : State) (n : Nat) (f : Carrier → Carrier) : (modCarrier s n f).mgmtStall = s.mgmtStall := rfl
@[simp] theorem modCarrier_ports (s : State) (n : Nat) (f : Carrier → Carrier) : (modCarrier s n f).ports = s.ports := rfl
@[simp] theorem modCarrier_funcs (s : State) (n : Nat) (f : Carrier → Carrier) : (modCarrier s n f).funcs = s.funcs := rfl
@[simp] theorem modCarrier_arrays (s : State) (n : Nat) (f : Carrier → Carrier) : (modCarrier s n f).arrays = s.arrays := rfl
@[simp] theorem modCarrier_vecs (s : State) (n : Nat) (f : Carrier → Carrier) : (modCarrier s n f).vecs = s.vecs := rfl
@[simp] theorem modCarrier_paths (s : State) (n : Nat) (f : Carrier → Carrier) : (modCarrier s n f).paths = s.paths := rfl
@[simp] theorem modCarrier_feeders (s : State) (n : Nat) (f : Carrier → Carrier) : (modCarrier s n f).feeders = s.feeders := rfl
@[simp] theorem modCarrier_mem (s : State) (n : Nat) (f : Carrier → Carrier) : (modCarrier s n f).mem = s.mem := rfl
@[simp] theorem modCarrier_cores (s : State) (n : Nat) (f : Carrier → Carrier) : (modCarrier s n f).cores = s.cores := rfl
@[simp] theorem modCarrier_tths (s : State) (n : Nat) (f : Carrier → Carrier) : (modCarrier s n f).tths = s.tths := rfl
@[simp] theorem modCarrier_girths (s : State) (n : Nat) (f : Carrier → Carrier) : (modCarrier s n f).girths = s.girths := rfl
@[simp] theorem modCarrier_iods (s : State) (n : Nat) (f : Carrier → Carrier) : (modCarrier s n f).iods = s.iods := rfl
@[simp] theorem modCarrier_smPtr (s : State) (n : Nat) (f : Carrier → Carrier) : (modCarrier s n f).smPtr = s.smPtr := rfl
@[simp] theorem modCarrier_smLatch (s : State) (n : Nat) (f : Carrier → Carrier) : (modCarrier s n f).smLatch = s.smLatch := rfl
@[simp] theorem modCarrier_taps (s : State) (n : Nat) (f : Carrier → Carrier) : (modCarrier s n f).taps = s.taps := rfl
@[simp] theorem modCarrier_testEn (s : State) (n : Nat) (f : Carrier → Carrier) : (modCarrier s n f).testEn = s.testEn := rfl
@[simp] theorem modCarrier_decoders (s : State) (n : Nat) (f : Carrier → Carrier) : (modCarrier s n f).decoders = s.decoders := rfl
@[simp] theorem modCarrier_school (s : State) (n : Nat) (f : Carrier → Carrier) : (modCarrier s n f).school = s.school := rfl
@[simp] theorem modCarrier_trail (s : State) (n : Nat) (f : Carrier → Carrier) : (modCarrier s n f).trail = s.trail := rfl
@[simp] theorem modCarrier_flt (s : State) (n : Nat) (f : Carrier → Carrier) : (modCarrier s n f).flt = s.flt := rfl
@[simp] theorem modCarrier_boot (s : State) (n : Nat) (f : Carrier → Carrier) : (modCarrier s n f).boot = s.boot := rfl
@[simp] theorem modCarrier_grooms (s : State) (n : Nat) (f : Carrier → Carrier) : (modCarrier s n f).grooms = s.grooms := rfl
@[simp] theorem modCarrier_grm (s : State) (n : Nat) (f : Carrier → Carrier) : (modCarrier s n f).grm = s.grm := rfl
@[simp] theorem modCarrier_power (s : State) (n : Nat) (f : Carrier → Carrier) : (modCarrier s n f).power = s.power := rfl
@[simp] theorem getCarrier_modCarrier (s : State) (n : Nat) (f : Carrier → Carrier) : getCarrier (modCarrier s n f) n = f (getCarrier s n) := by simp [getCarrier, modCarrier]
theorem getCarrier_modCarrier_ne (s : State) {n m : Nat} (f : Carrier → Carrier) (h : n ≠ m) : getCarrier (modCarrier s n f) m = getCarrier s m := by simp [getCarrier, modCarrier, h]

/-! ### modDec -/

@[simp] theorem modDec_pending (s : State) (n : Nat) (f : Decoder → Decoder) : (modDec s n f).pending = s.pending := rfl
@[simp] theorem modDec_sent (s : State) (n : Nat) (f : Decoder → Decoder) : (modDec s n f).sent = s.sent := rfl
@[simp] theorem modDec_now (s : State) (n : Nat) (f : Decoder → Decoder) : (modDec s n f).now = s.now := rfl
@[simp] theorem modDec_free (s : State) (n : Nat) (f : Decoder → Decoder) : (modDec s n f).free = s.free := rfl
@[simp] theorem modDec_fuses (s : State) (n : Nat) (f : Decoder → Decoder) : (modDec s n f).fuses = s.fuses := rfl
@[simp] theorem modDec_fencing (s : State) (n : Nat) (f : Decoder → Decoder) : (modDec s n f).fencing = s.fencing := rfl
@[simp] theorem modDec_air (s : State) (n : Nat) (f : Decoder → Decoder) : (modDec s n f).air = s.air := rfl
@[simp] theorem modDec_clusters (s : State) (n : Nat) (f : Decoder → Decoder) : (modDec s n f).clusters = s.clusters := rfl
@[simp] theorem modDec_loader (s : State) (n : Nat) (f : Decoder → Decoder) : (modDec s n f).loader = s.loader := rfl
@[simp] theorem modDec_accepted (s : State) (n : Nat) (f : Decoder → Decoder) : (modDec s n f).accepted = s.accepted := rfl
@[simp] theorem modDec_hns (s : State) (n : Nat) (f : Decoder → Decoder) : (modDec s n f).hns = s.hns := rfl
@[simp] theorem modDec_merged (s : State) (n : Nat) (f : Decoder → Decoder) : (modDec s n f).merged = s.merged := rfl
@[simp] theorem modDec_netNext (s : State) (n : Nat) (f : Decoder → Decoder) : (modDec s n f).netNext = s.netNext := rfl
@[simp] theorem modDec_stalls (s : State) (n : Nat) (f : Decoder → Decoder) : (modDec s n f).stalls = s.stalls := rfl
@[simp] theorem modDec_mgmtStall (s : State) (n : Nat) (f : Decoder → Decoder) : (modDec s n f).mgmtStall = s.mgmtStall := rfl
@[simp] theorem modDec_ports (s : State) (n : Nat) (f : Decoder → Decoder) : (modDec s n f).ports = s.ports := rfl
@[simp] theorem modDec_funcs (s : State) (n : Nat) (f : Decoder → Decoder) : (modDec s n f).funcs = s.funcs := rfl
@[simp] theorem modDec_arrays (s : State) (n : Nat) (f : Decoder → Decoder) : (modDec s n f).arrays = s.arrays := rfl
@[simp] theorem modDec_vecs (s : State) (n : Nat) (f : Decoder → Decoder) : (modDec s n f).vecs = s.vecs := rfl
@[simp] theorem modDec_paths (s : State) (n : Nat) (f : Decoder → Decoder) : (modDec s n f).paths = s.paths := rfl
@[simp] theorem modDec_feeders (s : State) (n : Nat) (f : Decoder → Decoder) : (modDec s n f).feeders = s.feeders := rfl
@[simp] theorem modDec_mem (s : State) (n : Nat) (f : Decoder → Decoder) : (modDec s n f).mem = s.mem := rfl
@[simp] theorem modDec_cores (s : State) (n : Nat) (f : Decoder → Decoder) : (modDec s n f).cores = s.cores := rfl
@[simp] theorem modDec_tths (s : State) (n : Nat) (f : Decoder → Decoder) : (modDec s n f).tths = s.tths := rfl
@[simp] theorem modDec_girths (s : State) (n : Nat) (f : Decoder → Decoder) : (modDec s n f).girths = s.girths := rfl
@[simp] theorem modDec_iods (s : State) (n : Nat) (f : Decoder → Decoder) : (modDec s n f).iods = s.iods := rfl
@[simp] theorem modDec_smPtr (s : State) (n : Nat) (f : Decoder → Decoder) : (modDec s n f).smPtr = s.smPtr := rfl
@[simp] theorem modDec_smLatch (s : State) (n : Nat) (f : Decoder → Decoder) : (modDec s n f).smLatch = s.smLatch := rfl
@[simp] theorem modDec_taps (s : State) (n : Nat) (f : Decoder → Decoder) : (modDec s n f).taps = s.taps := rfl
@[simp] theorem modDec_testEn (s : State) (n : Nat) (f : Decoder → Decoder) : (modDec s n f).testEn = s.testEn := rfl
@[simp] theorem modDec_carriers (s : State) (n : Nat) (f : Decoder → Decoder) : (modDec s n f).carriers = s.carriers := rfl
@[simp] theorem modDec_school (s : State) (n : Nat) (f : Decoder → Decoder) : (modDec s n f).school = s.school := rfl
@[simp] theorem modDec_trail (s : State) (n : Nat) (f : Decoder → Decoder) : (modDec s n f).trail = s.trail := rfl
@[simp] theorem modDec_flt (s : State) (n : Nat) (f : Decoder → Decoder) : (modDec s n f).flt = s.flt := rfl
@[simp] theorem modDec_boot (s : State) (n : Nat) (f : Decoder → Decoder) : (modDec s n f).boot = s.boot := rfl
@[simp] theorem modDec_grooms (s : State) (n : Nat) (f : Decoder → Decoder) : (modDec s n f).grooms = s.grooms := rfl
@[simp] theorem modDec_grm (s : State) (n : Nat) (f : Decoder → Decoder) : (modDec s n f).grm = s.grm := rfl
@[simp] theorem modDec_power (s : State) (n : Nat) (f : Decoder → Decoder) : (modDec s n f).power = s.power := rfl
@[simp] theorem getDec_modDec (s : State) (n : Nat) (f : Decoder → Decoder) : getDec (modDec s n f) n = f (getDec s n) := by simp [getDec, modDec]
theorem getDec_modDec_ne (s : State) {n m : Nat} (f : Decoder → Decoder) (h : n ≠ m) : getDec (modDec s n f) m = getDec s m := by simp [getDec, modDec, h]

/-! ### modTth -/

@[simp] theorem modTth_pending (s : State) (n : Nat) (f : Tth → Tth) : (modTth s n f).pending = s.pending := rfl
@[simp] theorem modTth_sent (s : State) (n : Nat) (f : Tth → Tth) : (modTth s n f).sent = s.sent := rfl
@[simp] theorem modTth_now (s : State) (n : Nat) (f : Tth → Tth) : (modTth s n f).now = s.now := rfl
@[simp] theorem modTth_free (s : State) (n : Nat) (f : Tth → Tth) : (modTth s n f).free = s.free := rfl
@[simp] theorem modTth_fuses (s : State) (n : Nat) (f : Tth → Tth) : (modTth s n f).fuses = s.fuses := rfl
@[simp] theorem modTth_fencing (s : State) (n : Nat) (f : Tth → Tth) : (modTth s n f).fencing = s.fencing := rfl
@[simp] theorem modTth_air (s : State) (n : Nat) (f : Tth → Tth) : (modTth s n f).air = s.air := rfl
@[simp] theorem modTth_clusters (s : State) (n : Nat) (f : Tth → Tth) : (modTth s n f).clusters = s.clusters := rfl
@[simp] theorem modTth_loader (s : State) (n : Nat) (f : Tth → Tth) : (modTth s n f).loader = s.loader := rfl
@[simp] theorem modTth_accepted (s : State) (n : Nat) (f : Tth → Tth) : (modTth s n f).accepted = s.accepted := rfl
@[simp] theorem modTth_hns (s : State) (n : Nat) (f : Tth → Tth) : (modTth s n f).hns = s.hns := rfl
@[simp] theorem modTth_merged (s : State) (n : Nat) (f : Tth → Tth) : (modTth s n f).merged = s.merged := rfl
@[simp] theorem modTth_netNext (s : State) (n : Nat) (f : Tth → Tth) : (modTth s n f).netNext = s.netNext := rfl
@[simp] theorem modTth_stalls (s : State) (n : Nat) (f : Tth → Tth) : (modTth s n f).stalls = s.stalls := rfl
@[simp] theorem modTth_mgmtStall (s : State) (n : Nat) (f : Tth → Tth) : (modTth s n f).mgmtStall = s.mgmtStall := rfl
@[simp] theorem modTth_ports (s : State) (n : Nat) (f : Tth → Tth) : (modTth s n f).ports = s.ports := rfl
@[simp] theorem modTth_funcs (s : State) (n : Nat) (f : Tth → Tth) : (modTth s n f).funcs = s.funcs := rfl
@[simp] theorem modTth_arrays (s : State) (n : Nat) (f : Tth → Tth) : (modTth s n f).arrays = s.arrays := rfl
@[simp] theorem modTth_vecs (s : State) (n : Nat) (f : Tth → Tth) : (modTth s n f).vecs = s.vecs := rfl
@[simp] theorem modTth_paths (s : State) (n : Nat) (f : Tth → Tth) : (modTth s n f).paths = s.paths := rfl
@[simp] theorem modTth_feeders (s : State) (n : Nat) (f : Tth → Tth) : (modTth s n f).feeders = s.feeders := rfl
@[simp] theorem modTth_mem (s : State) (n : Nat) (f : Tth → Tth) : (modTth s n f).mem = s.mem := rfl
@[simp] theorem modTth_cores (s : State) (n : Nat) (f : Tth → Tth) : (modTth s n f).cores = s.cores := rfl
@[simp] theorem modTth_girths (s : State) (n : Nat) (f : Tth → Tth) : (modTth s n f).girths = s.girths := rfl
@[simp] theorem modTth_iods (s : State) (n : Nat) (f : Tth → Tth) : (modTth s n f).iods = s.iods := rfl
@[simp] theorem modTth_smPtr (s : State) (n : Nat) (f : Tth → Tth) : (modTth s n f).smPtr = s.smPtr := rfl
@[simp] theorem modTth_smLatch (s : State) (n : Nat) (f : Tth → Tth) : (modTth s n f).smLatch = s.smLatch := rfl
@[simp] theorem modTth_taps (s : State) (n : Nat) (f : Tth → Tth) : (modTth s n f).taps = s.taps := rfl
@[simp] theorem modTth_testEn (s : State) (n : Nat) (f : Tth → Tth) : (modTth s n f).testEn = s.testEn := rfl
@[simp] theorem modTth_carriers (s : State) (n : Nat) (f : Tth → Tth) : (modTth s n f).carriers = s.carriers := rfl
@[simp] theorem modTth_decoders (s : State) (n : Nat) (f : Tth → Tth) : (modTth s n f).decoders = s.decoders := rfl
@[simp] theorem modTth_school (s : State) (n : Nat) (f : Tth → Tth) : (modTth s n f).school = s.school := rfl
@[simp] theorem modTth_trail (s : State) (n : Nat) (f : Tth → Tth) : (modTth s n f).trail = s.trail := rfl
@[simp] theorem modTth_flt (s : State) (n : Nat) (f : Tth → Tth) : (modTth s n f).flt = s.flt := rfl
@[simp] theorem modTth_boot (s : State) (n : Nat) (f : Tth → Tth) : (modTth s n f).boot = s.boot := rfl
@[simp] theorem modTth_grooms (s : State) (n : Nat) (f : Tth → Tth) : (modTth s n f).grooms = s.grooms := rfl
@[simp] theorem modTth_grm (s : State) (n : Nat) (f : Tth → Tth) : (modTth s n f).grm = s.grm := rfl
@[simp] theorem modTth_power (s : State) (n : Nat) (f : Tth → Tth) : (modTth s n f).power = s.power := rfl
@[simp] theorem getTth_modTth (s : State) (n : Nat) (f : Tth → Tth) : getTth (modTth s n f) n = f (getTth s n) := by simp [getTth, modTth]
theorem getTth_modTth_ne (s : State) {n m : Nat} (f : Tth → Tth) (h : n ≠ m) : getTth (modTth s n f) m = getTth s m := by simp [getTth, modTth, h]

/-! ### modGroom -/

@[simp] theorem modGroom_pending (s : State) (n : Nat) (f : Groom → Groom) : (modGroom s n f).pending = s.pending := rfl
@[simp] theorem modGroom_sent (s : State) (n : Nat) (f : Groom → Groom) : (modGroom s n f).sent = s.sent := rfl
@[simp] theorem modGroom_now (s : State) (n : Nat) (f : Groom → Groom) : (modGroom s n f).now = s.now := rfl
@[simp] theorem modGroom_free (s : State) (n : Nat) (f : Groom → Groom) : (modGroom s n f).free = s.free := rfl
@[simp] theorem modGroom_fuses (s : State) (n : Nat) (f : Groom → Groom) : (modGroom s n f).fuses = s.fuses := rfl
@[simp] theorem modGroom_fencing (s : State) (n : Nat) (f : Groom → Groom) : (modGroom s n f).fencing = s.fencing := rfl
@[simp] theorem modGroom_air (s : State) (n : Nat) (f : Groom → Groom) : (modGroom s n f).air = s.air := rfl
@[simp] theorem modGroom_clusters (s : State) (n : Nat) (f : Groom → Groom) : (modGroom s n f).clusters = s.clusters := rfl
@[simp] theorem modGroom_loader (s : State) (n : Nat) (f : Groom → Groom) : (modGroom s n f).loader = s.loader := rfl
@[simp] theorem modGroom_accepted (s : State) (n : Nat) (f : Groom → Groom) : (modGroom s n f).accepted = s.accepted := rfl
@[simp] theorem modGroom_hns (s : State) (n : Nat) (f : Groom → Groom) : (modGroom s n f).hns = s.hns := rfl
@[simp] theorem modGroom_merged (s : State) (n : Nat) (f : Groom → Groom) : (modGroom s n f).merged = s.merged := rfl
@[simp] theorem modGroom_netNext (s : State) (n : Nat) (f : Groom → Groom) : (modGroom s n f).netNext = s.netNext := rfl
@[simp] theorem modGroom_stalls (s : State) (n : Nat) (f : Groom → Groom) : (modGroom s n f).stalls = s.stalls := rfl
@[simp] theorem modGroom_mgmtStall (s : State) (n : Nat) (f : Groom → Groom) : (modGroom s n f).mgmtStall = s.mgmtStall := rfl
@[simp] theorem modGroom_ports (s : State) (n : Nat) (f : Groom → Groom) : (modGroom s n f).ports = s.ports := rfl
@[simp] theorem modGroom_funcs (s : State) (n : Nat) (f : Groom → Groom) : (modGroom s n f).funcs = s.funcs := rfl
@[simp] theorem modGroom_arrays (s : State) (n : Nat) (f : Groom → Groom) : (modGroom s n f).arrays = s.arrays := rfl
@[simp] theorem modGroom_vecs (s : State) (n : Nat) (f : Groom → Groom) : (modGroom s n f).vecs = s.vecs := rfl
@[simp] theorem modGroom_paths (s : State) (n : Nat) (f : Groom → Groom) : (modGroom s n f).paths = s.paths := rfl
@[simp] theorem modGroom_feeders (s : State) (n : Nat) (f : Groom → Groom) : (modGroom s n f).feeders = s.feeders := rfl
@[simp] theorem modGroom_mem (s : State) (n : Nat) (f : Groom → Groom) : (modGroom s n f).mem = s.mem := rfl
@[simp] theorem modGroom_cores (s : State) (n : Nat) (f : Groom → Groom) : (modGroom s n f).cores = s.cores := rfl
@[simp] theorem modGroom_tths (s : State) (n : Nat) (f : Groom → Groom) : (modGroom s n f).tths = s.tths := rfl
@[simp] theorem modGroom_girths (s : State) (n : Nat) (f : Groom → Groom) : (modGroom s n f).girths = s.girths := rfl
@[simp] theorem modGroom_iods (s : State) (n : Nat) (f : Groom → Groom) : (modGroom s n f).iods = s.iods := rfl
@[simp] theorem modGroom_smPtr (s : State) (n : Nat) (f : Groom → Groom) : (modGroom s n f).smPtr = s.smPtr := rfl
@[simp] theorem modGroom_smLatch (s : State) (n : Nat) (f : Groom → Groom) : (modGroom s n f).smLatch = s.smLatch := rfl
@[simp] theorem modGroom_taps (s : State) (n : Nat) (f : Groom → Groom) : (modGroom s n f).taps = s.taps := rfl
@[simp] theorem modGroom_testEn (s : State) (n : Nat) (f : Groom → Groom) : (modGroom s n f).testEn = s.testEn := rfl
@[simp] theorem modGroom_carriers (s : State) (n : Nat) (f : Groom → Groom) : (modGroom s n f).carriers = s.carriers := rfl
@[simp] theorem modGroom_decoders (s : State) (n : Nat) (f : Groom → Groom) : (modGroom s n f).decoders = s.decoders := rfl
@[simp] theorem modGroom_school (s : State) (n : Nat) (f : Groom → Groom) : (modGroom s n f).school = s.school := rfl
@[simp] theorem modGroom_trail (s : State) (n : Nat) (f : Groom → Groom) : (modGroom s n f).trail = s.trail := rfl
@[simp] theorem modGroom_flt (s : State) (n : Nat) (f : Groom → Groom) : (modGroom s n f).flt = s.flt := rfl
@[simp] theorem modGroom_boot (s : State) (n : Nat) (f : Groom → Groom) : (modGroom s n f).boot = s.boot := rfl
@[simp] theorem modGroom_grm (s : State) (n : Nat) (f : Groom → Groom) : (modGroom s n f).grm = s.grm := rfl
@[simp] theorem modGroom_power (s : State) (n : Nat) (f : Groom → Groom) : (modGroom s n f).power = s.power := rfl
@[simp] theorem getGroom_modGroom (s : State) (n : Nat) (f : Groom → Groom) : getGroom (modGroom s n f) n = f (getGroom s n) := by simp [getGroom, modGroom]
theorem getGroom_modGroom_ne (s : State) {n m : Nat} (f : Groom → Groom) (h : n ≠ m) : getGroom (modGroom s n f) m = getGroom s m := by simp [getGroom, modGroom, h]

/-! ### modGirth -/

@[simp] theorem modGirth_pending (s : State) (n : Nat) (f : Girth → Girth) : (modGirth s n f).pending = s.pending := rfl
@[simp] theorem modGirth_sent (s : State) (n : Nat) (f : Girth → Girth) : (modGirth s n f).sent = s.sent := rfl
@[simp] theorem modGirth_now (s : State) (n : Nat) (f : Girth → Girth) : (modGirth s n f).now = s.now := rfl
@[simp] theorem modGirth_free (s : State) (n : Nat) (f : Girth → Girth) : (modGirth s n f).free = s.free := rfl
@[simp] theorem modGirth_fuses (s : State) (n : Nat) (f : Girth → Girth) : (modGirth s n f).fuses = s.fuses := rfl
@[simp] theorem modGirth_fencing (s : State) (n : Nat) (f : Girth → Girth) : (modGirth s n f).fencing = s.fencing := rfl
@[simp] theorem modGirth_air (s : State) (n : Nat) (f : Girth → Girth) : (modGirth s n f).air = s.air := rfl
@[simp] theorem modGirth_clusters (s : State) (n : Nat) (f : Girth → Girth) : (modGirth s n f).clusters = s.clusters := rfl
@[simp] theorem modGirth_loader (s : State) (n : Nat) (f : Girth → Girth) : (modGirth s n f).loader = s.loader := rfl
@[simp] theorem modGirth_accepted (s : State) (n : Nat) (f : Girth → Girth) : (modGirth s n f).accepted = s.accepted := rfl
@[simp] theorem modGirth_hns (s : State) (n : Nat) (f : Girth → Girth) : (modGirth s n f).hns = s.hns := rfl
@[simp] theorem modGirth_merged (s : State) (n : Nat) (f : Girth → Girth) : (modGirth s n f).merged = s.merged := rfl
@[simp] theorem modGirth_netNext (s : State) (n : Nat) (f : Girth → Girth) : (modGirth s n f).netNext = s.netNext := rfl
@[simp] theorem modGirth_stalls (s : State) (n : Nat) (f : Girth → Girth) : (modGirth s n f).stalls = s.stalls := rfl
@[simp] theorem modGirth_mgmtStall (s : State) (n : Nat) (f : Girth → Girth) : (modGirth s n f).mgmtStall = s.mgmtStall := rfl
@[simp] theorem modGirth_ports (s : State) (n : Nat) (f : Girth → Girth) : (modGirth s n f).ports = s.ports := rfl
@[simp] theorem modGirth_funcs (s : State) (n : Nat) (f : Girth → Girth) : (modGirth s n f).funcs = s.funcs := rfl
@[simp] theorem modGirth_arrays (s : State) (n : Nat) (f : Girth → Girth) : (modGirth s n f).arrays = s.arrays := rfl
@[simp] theorem modGirth_vecs (s : State) (n : Nat) (f : Girth → Girth) : (modGirth s n f).vecs = s.vecs := rfl
@[simp] theorem modGirth_paths (s : State) (n : Nat) (f : Girth → Girth) : (modGirth s n f).paths = s.paths := rfl
@[simp] theorem modGirth_feeders (s : State) (n : Nat) (f : Girth → Girth) : (modGirth s n f).feeders = s.feeders := rfl
@[simp] theorem modGirth_mem (s : State) (n : Nat) (f : Girth → Girth) : (modGirth s n f).mem = s.mem := rfl
@[simp] theorem modGirth_cores (s : State) (n : Nat) (f : Girth → Girth) : (modGirth s n f).cores = s.cores := rfl
@[simp] theorem modGirth_tths (s : State) (n : Nat) (f : Girth → Girth) : (modGirth s n f).tths = s.tths := rfl
@[simp] theorem modGirth_iods (s : State) (n : Nat) (f : Girth → Girth) : (modGirth s n f).iods = s.iods := rfl
@[simp] theorem modGirth_smPtr (s : State) (n : Nat) (f : Girth → Girth) : (modGirth s n f).smPtr = s.smPtr := rfl
@[simp] theorem modGirth_smLatch (s : State) (n : Nat) (f : Girth → Girth) : (modGirth s n f).smLatch = s.smLatch := rfl
@[simp] theorem modGirth_taps (s : State) (n : Nat) (f : Girth → Girth) : (modGirth s n f).taps = s.taps := rfl
@[simp] theorem modGirth_testEn (s : State) (n : Nat) (f : Girth → Girth) : (modGirth s n f).testEn = s.testEn := rfl
@[simp] theorem modGirth_carriers (s : State) (n : Nat) (f : Girth → Girth) : (modGirth s n f).carriers = s.carriers := rfl
@[simp] theorem modGirth_decoders (s : State) (n : Nat) (f : Girth → Girth) : (modGirth s n f).decoders = s.decoders := rfl
@[simp] theorem modGirth_school (s : State) (n : Nat) (f : Girth → Girth) : (modGirth s n f).school = s.school := rfl
@[simp] theorem modGirth_trail (s : State) (n : Nat) (f : Girth → Girth) : (modGirth s n f).trail = s.trail := rfl
@[simp] theorem modGirth_flt (s : State) (n : Nat) (f : Girth → Girth) : (modGirth s n f).flt = s.flt := rfl
@[simp] theorem modGirth_boot (s : State) (n : Nat) (f : Girth → Girth) : (modGirth s n f).boot = s.boot := rfl
@[simp] theorem modGirth_grooms (s : State) (n : Nat) (f : Girth → Girth) : (modGirth s n f).grooms = s.grooms := rfl
@[simp] theorem modGirth_grm (s : State) (n : Nat) (f : Girth → Girth) : (modGirth s n f).grm = s.grm := rfl
@[simp] theorem modGirth_power (s : State) (n : Nat) (f : Girth → Girth) : (modGirth s n f).power = s.power := rfl
@[simp] theorem getGirth_modGirth (s : State) (n : Nat) (f : Girth → Girth) : getGirth (modGirth s n f) n = f (getGirth s n) := by simp [getGirth, modGirth]
theorem getGirth_modGirth_ne (s : State) {n m : Nat} (f : Girth → Girth) (h : n ≠ m) : getGirth (modGirth s n f) m = getGirth s m := by simp [getGirth, modGirth, h]

/-! ### modCore -/

@[simp] theorem modCore_pending (s : State) (n : Nat) (f : PCore → PCore) : (modCore s n f).pending = s.pending := rfl
@[simp] theorem modCore_sent (s : State) (n : Nat) (f : PCore → PCore) : (modCore s n f).sent = s.sent := rfl
@[simp] theorem modCore_now (s : State) (n : Nat) (f : PCore → PCore) : (modCore s n f).now = s.now := rfl
@[simp] theorem modCore_free (s : State) (n : Nat) (f : PCore → PCore) : (modCore s n f).free = s.free := rfl
@[simp] theorem modCore_fuses (s : State) (n : Nat) (f : PCore → PCore) : (modCore s n f).fuses = s.fuses := rfl
@[simp] theorem modCore_fencing (s : State) (n : Nat) (f : PCore → PCore) : (modCore s n f).fencing = s.fencing := rfl
@[simp] theorem modCore_air (s : State) (n : Nat) (f : PCore → PCore) : (modCore s n f).air = s.air := rfl
@[simp] theorem modCore_clusters (s : State) (n : Nat) (f : PCore → PCore) : (modCore s n f).clusters = s.clusters := rfl
@[simp] theorem modCore_loader (s : State) (n : Nat) (f : PCore → PCore) : (modCore s n f).loader = s.loader := rfl
@[simp] theorem modCore_accepted (s : State) (n : Nat) (f : PCore → PCore) : (modCore s n f).accepted = s.accepted := rfl
@[simp] theorem modCore_hns (s : State) (n : Nat) (f : PCore → PCore) : (modCore s n f).hns = s.hns := rfl
@[simp] theorem modCore_merged (s : State) (n : Nat) (f : PCore → PCore) : (modCore s n f).merged = s.merged := rfl
@[simp] theorem modCore_netNext (s : State) (n : Nat) (f : PCore → PCore) : (modCore s n f).netNext = s.netNext := rfl
@[simp] theorem modCore_stalls (s : State) (n : Nat) (f : PCore → PCore) : (modCore s n f).stalls = s.stalls := rfl
@[simp] theorem modCore_mgmtStall (s : State) (n : Nat) (f : PCore → PCore) : (modCore s n f).mgmtStall = s.mgmtStall := rfl
@[simp] theorem modCore_ports (s : State) (n : Nat) (f : PCore → PCore) : (modCore s n f).ports = s.ports := rfl
@[simp] theorem modCore_funcs (s : State) (n : Nat) (f : PCore → PCore) : (modCore s n f).funcs = s.funcs := rfl
@[simp] theorem modCore_arrays (s : State) (n : Nat) (f : PCore → PCore) : (modCore s n f).arrays = s.arrays := rfl
@[simp] theorem modCore_vecs (s : State) (n : Nat) (f : PCore → PCore) : (modCore s n f).vecs = s.vecs := rfl
@[simp] theorem modCore_paths (s : State) (n : Nat) (f : PCore → PCore) : (modCore s n f).paths = s.paths := rfl
@[simp] theorem modCore_feeders (s : State) (n : Nat) (f : PCore → PCore) : (modCore s n f).feeders = s.feeders := rfl
@[simp] theorem modCore_mem (s : State) (n : Nat) (f : PCore → PCore) : (modCore s n f).mem = s.mem := rfl
@[simp] theorem modCore_tths (s : State) (n : Nat) (f : PCore → PCore) : (modCore s n f).tths = s.tths := rfl
@[simp] theorem modCore_girths (s : State) (n : Nat) (f : PCore → PCore) : (modCore s n f).girths = s.girths := rfl
@[simp] theorem modCore_iods (s : State) (n : Nat) (f : PCore → PCore) : (modCore s n f).iods = s.iods := rfl
@[simp] theorem modCore_smPtr (s : State) (n : Nat) (f : PCore → PCore) : (modCore s n f).smPtr = s.smPtr := rfl
@[simp] theorem modCore_smLatch (s : State) (n : Nat) (f : PCore → PCore) : (modCore s n f).smLatch = s.smLatch := rfl
@[simp] theorem modCore_taps (s : State) (n : Nat) (f : PCore → PCore) : (modCore s n f).taps = s.taps := rfl
@[simp] theorem modCore_testEn (s : State) (n : Nat) (f : PCore → PCore) : (modCore s n f).testEn = s.testEn := rfl
@[simp] theorem modCore_carriers (s : State) (n : Nat) (f : PCore → PCore) : (modCore s n f).carriers = s.carriers := rfl
@[simp] theorem modCore_decoders (s : State) (n : Nat) (f : PCore → PCore) : (modCore s n f).decoders = s.decoders := rfl
@[simp] theorem modCore_school (s : State) (n : Nat) (f : PCore → PCore) : (modCore s n f).school = s.school := rfl
@[simp] theorem modCore_trail (s : State) (n : Nat) (f : PCore → PCore) : (modCore s n f).trail = s.trail := rfl
@[simp] theorem modCore_flt (s : State) (n : Nat) (f : PCore → PCore) : (modCore s n f).flt = s.flt := rfl
@[simp] theorem modCore_boot (s : State) (n : Nat) (f : PCore → PCore) : (modCore s n f).boot = s.boot := rfl
@[simp] theorem modCore_grooms (s : State) (n : Nat) (f : PCore → PCore) : (modCore s n f).grooms = s.grooms := rfl
@[simp] theorem modCore_grm (s : State) (n : Nat) (f : PCore → PCore) : (modCore s n f).grm = s.grm := rfl
@[simp] theorem modCore_power (s : State) (n : Nat) (f : PCore → PCore) : (modCore s n f).power = s.power := rfl
@[simp] theorem getCore_modCore (s : State) (n : Nat) (f : PCore → PCore) : getCore (modCore s n f) n = f (getCore s n) := by simp [getCore, modCore]
theorem getCore_modCore_ne (s : State) {n m : Nat} (f : PCore → PCore) (h : n ≠ m) : getCore (modCore s n f) m = getCore s m := by simp [getCore, modCore, h]

/-! ### modIod -/

@[simp] theorem modIod_pending (s : State) (n : Nat) (f : Iod → Iod) : (modIod s n f).pending = s.pending := rfl
@[simp] theorem modIod_sent (s : State) (n : Nat) (f : Iod → Iod) : (modIod s n f).sent = s.sent := rfl
@[simp] theorem modIod_now (s : State) (n : Nat) (f : Iod → Iod) : (modIod s n f).now = s.now := rfl
@[simp] theorem modIod_free (s : State) (n : Nat) (f : Iod → Iod) : (modIod s n f).free = s.free := rfl
@[simp] theorem modIod_fuses (s : State) (n : Nat) (f : Iod → Iod) : (modIod s n f).fuses = s.fuses := rfl
@[simp] theorem modIod_fencing (s : State) (n : Nat) (f : Iod → Iod) : (modIod s n f).fencing = s.fencing := rfl
@[simp] theorem modIod_air (s : State) (n : Nat) (f : Iod → Iod) : (modIod s n f).air = s.air := rfl
@[simp] theorem modIod_clusters (s : State) (n : Nat) (f : Iod → Iod) : (modIod s n f).clusters = s.clusters := rfl
@[simp] theorem modIod_loader (s : State) (n : Nat) (f : Iod → Iod) : (modIod s n f).loader = s.loader := rfl
@[simp] theorem modIod_accepted (s : State) (n : Nat) (f : Iod → Iod) : (modIod s n f).accepted = s.accepted := rfl
@[simp] theorem modIod_hns (s : State) (n : Nat) (f : Iod → Iod) : (modIod s n f).hns = s.hns := rfl
@[simp] theorem modIod_merged (s : State) (n : Nat) (f : Iod → Iod) : (modIod s n f).merged = s.merged := rfl
@[simp] theorem modIod_netNext (s : State) (n : Nat) (f : Iod → Iod) : (modIod s n f).netNext = s.netNext := rfl
@[simp] theorem modIod_stalls (s : State) (n : Nat) (f : Iod → Iod) : (modIod s n f).stalls = s.stalls := rfl
@[simp] theorem modIod_mgmtStall (s : State) (n : Nat) (f : Iod → Iod) : (modIod s n f).mgmtStall = s.mgmtStall := rfl
@[simp] theorem modIod_ports (s : State) (n : Nat) (f : Iod → Iod) : (modIod s n f).ports = s.ports := rfl
@[simp] theorem modIod_funcs (s : State) (n : Nat) (f : Iod → Iod) : (modIod s n f).funcs = s.funcs := rfl
@[simp] theorem modIod_arrays (s : State) (n : Nat) (f : Iod → Iod) : (modIod s n f).arrays = s.arrays := rfl
@[simp] theorem modIod_vecs (s : State) (n : Nat) (f : Iod → Iod) : (modIod s n f).vecs = s.vecs := rfl
@[simp] theorem modIod_paths (s : State) (n : Nat) (f : Iod → Iod) : (modIod s n f).paths = s.paths := rfl
@[simp] theorem modIod_feeders (s : State) (n : Nat) (f : Iod → Iod) : (modIod s n f).feeders = s.feeders := rfl
@[simp] theorem modIod_mem (s : State) (n : Nat) (f : Iod → Iod) : (modIod s n f).mem = s.mem := rfl
@[simp] theorem modIod_cores (s : State) (n : Nat) (f : Iod → Iod) : (modIod s n f).cores = s.cores := rfl
@[simp] theorem modIod_tths (s : State) (n : Nat) (f : Iod → Iod) : (modIod s n f).tths = s.tths := rfl
@[simp] theorem modIod_girths (s : State) (n : Nat) (f : Iod → Iod) : (modIod s n f).girths = s.girths := rfl
@[simp] theorem modIod_smPtr (s : State) (n : Nat) (f : Iod → Iod) : (modIod s n f).smPtr = s.smPtr := rfl
@[simp] theorem modIod_smLatch (s : State) (n : Nat) (f : Iod → Iod) : (modIod s n f).smLatch = s.smLatch := rfl
@[simp] theorem modIod_taps (s : State) (n : Nat) (f : Iod → Iod) : (modIod s n f).taps = s.taps := rfl
@[simp] theorem modIod_testEn (s : State) (n : Nat) (f : Iod → Iod) : (modIod s n f).testEn = s.testEn := rfl
@[simp] theorem modIod_carriers (s : State) (n : Nat) (f : Iod → Iod) : (modIod s n f).carriers = s.carriers := rfl
@[simp] theorem modIod_decoders (s : State) (n : Nat) (f : Iod → Iod) : (modIod s n f).decoders = s.decoders := rfl
@[simp] theorem modIod_school (s : State) (n : Nat) (f : Iod → Iod) : (modIod s n f).school = s.school := rfl
@[simp] theorem modIod_trail (s : State) (n : Nat) (f : Iod → Iod) : (modIod s n f).trail = s.trail := rfl
@[simp] theorem modIod_flt (s : State) (n : Nat) (f : Iod → Iod) : (modIod s n f).flt = s.flt := rfl
@[simp] theorem modIod_boot (s : State) (n : Nat) (f : Iod → Iod) : (modIod s n f).boot = s.boot := rfl
@[simp] theorem modIod_grooms (s : State) (n : Nat) (f : Iod → Iod) : (modIod s n f).grooms = s.grooms := rfl
@[simp] theorem modIod_grm (s : State) (n : Nat) (f : Iod → Iod) : (modIod s n f).grm = s.grm := rfl
@[simp] theorem modIod_power (s : State) (n : Nat) (f : Iod → Iod) : (modIod s n f).power = s.power := rfl
@[simp] theorem getIod_modIod (s : State) (n : Nat) (f : Iod → Iod) : getIod (modIod s n f) n = f (getIod s n) := by simp [getIod, modIod]
theorem getIod_modIod_ne (s : State) {n m : Nat} (f : Iod → Iod) (h : n ≠ m) : getIod (modIod s n f) m = getIod s m := by simp [getIod, modIod, h]

/-! ### modJtag -/

@[simp] theorem modJtag_pending (s : State) (n : Nat) (f : Tap → Tap) : (modJtag s n f).pending = s.pending := rfl
@[simp] theorem modJtag_sent (s : State) (n : Nat) (f : Tap → Tap) : (modJtag s n f).sent = s.sent := rfl
@[simp] theorem modJtag_now (s : State) (n : Nat) (f : Tap → Tap) : (modJtag s n f).now = s.now := rfl
@[simp] theorem modJtag_free (s : State) (n : Nat) (f : Tap → Tap) : (modJtag s n f).free = s.free := rfl
@[simp] theorem modJtag_fuses (s : State) (n : Nat) (f : Tap → Tap) : (modJtag s n f).fuses = s.fuses := rfl
@[simp] theorem modJtag_fencing (s : State) (n : Nat) (f : Tap → Tap) : (modJtag s n f).fencing = s.fencing := rfl
@[simp] theorem modJtag_air (s : State) (n : Nat) (f : Tap → Tap) : (modJtag s n f).air = s.air := rfl
@[simp] theorem modJtag_clusters (s : State) (n : Nat) (f : Tap → Tap) : (modJtag s n f).clusters = s.clusters := rfl
@[simp] theorem modJtag_loader (s : State) (n : Nat) (f : Tap → Tap) : (modJtag s n f).loader = s.loader := rfl
@[simp] theorem modJtag_accepted (s : State) (n : Nat) (f : Tap → Tap) : (modJtag s n f).accepted = s.accepted := rfl
@[simp] theorem modJtag_hns (s : State) (n : Nat) (f : Tap → Tap) : (modJtag s n f).hns = s.hns := rfl
@[simp] theorem modJtag_merged (s : State) (n : Nat) (f : Tap → Tap) : (modJtag s n f).merged = s.merged := rfl
@[simp] theorem modJtag_netNext (s : State) (n : Nat) (f : Tap → Tap) : (modJtag s n f).netNext = s.netNext := rfl
@[simp] theorem modJtag_stalls (s : State) (n : Nat) (f : Tap → Tap) : (modJtag s n f).stalls = s.stalls := rfl
@[simp] theorem modJtag_mgmtStall (s : State) (n : Nat) (f : Tap → Tap) : (modJtag s n f).mgmtStall = s.mgmtStall := rfl
@[simp] theorem modJtag_ports (s : State) (n : Nat) (f : Tap → Tap) : (modJtag s n f).ports = s.ports := rfl
@[simp] theorem modJtag_funcs (s : State) (n : Nat) (f : Tap → Tap) : (modJtag s n f).funcs = s.funcs := rfl
@[simp] theorem modJtag_arrays (s : State) (n : Nat) (f : Tap → Tap) : (modJtag s n f).arrays = s.arrays := rfl
@[simp] theorem modJtag_vecs (s : State) (n : Nat) (f : Tap → Tap) : (modJtag s n f).vecs = s.vecs := rfl
@[simp] theorem modJtag_paths (s : State) (n : Nat) (f : Tap → Tap) : (modJtag s n f).paths = s.paths := rfl
@[simp] theorem modJtag_feeders (s : State) (n : Nat) (f : Tap → Tap) : (modJtag s n f).feeders = s.feeders := rfl
@[simp] theorem modJtag_mem (s : State) (n : Nat) (f : Tap → Tap) : (modJtag s n f).mem = s.mem := rfl
@[simp] theorem modJtag_cores (s : State) (n : Nat) (f : Tap → Tap) : (modJtag s n f).cores = s.cores := rfl
@[simp] theorem modJtag_tths (s : State) (n : Nat) (f : Tap → Tap) : (modJtag s n f).tths = s.tths := rfl
@[simp] theorem modJtag_girths (s : State) (n : Nat) (f : Tap → Tap) : (modJtag s n f).girths = s.girths := rfl
@[simp] theorem modJtag_iods (s : State) (n : Nat) (f : Tap → Tap) : (modJtag s n f).iods = s.iods := rfl
@[simp] theorem modJtag_smPtr (s : State) (n : Nat) (f : Tap → Tap) : (modJtag s n f).smPtr = s.smPtr := rfl
@[simp] theorem modJtag_smLatch (s : State) (n : Nat) (f : Tap → Tap) : (modJtag s n f).smLatch = s.smLatch := rfl
@[simp] theorem modJtag_testEn (s : State) (n : Nat) (f : Tap → Tap) : (modJtag s n f).testEn = s.testEn := rfl
@[simp] theorem modJtag_carriers (s : State) (n : Nat) (f : Tap → Tap) : (modJtag s n f).carriers = s.carriers := rfl
@[simp] theorem modJtag_decoders (s : State) (n : Nat) (f : Tap → Tap) : (modJtag s n f).decoders = s.decoders := rfl
@[simp] theorem modJtag_school (s : State) (n : Nat) (f : Tap → Tap) : (modJtag s n f).school = s.school := rfl
@[simp] theorem modJtag_trail (s : State) (n : Nat) (f : Tap → Tap) : (modJtag s n f).trail = s.trail := rfl
@[simp] theorem modJtag_flt (s : State) (n : Nat) (f : Tap → Tap) : (modJtag s n f).flt = s.flt := rfl
@[simp] theorem modJtag_boot (s : State) (n : Nat) (f : Tap → Tap) : (modJtag s n f).boot = s.boot := rfl
@[simp] theorem modJtag_grooms (s : State) (n : Nat) (f : Tap → Tap) : (modJtag s n f).grooms = s.grooms := rfl
@[simp] theorem modJtag_grm (s : State) (n : Nat) (f : Tap → Tap) : (modJtag s n f).grm = s.grm := rfl
@[simp] theorem modJtag_power (s : State) (n : Nat) (f : Tap → Tap) : (modJtag s n f).power = s.power := rfl
@[simp] theorem getJtag_modJtag (s : State) (n : Nat) (f : Tap → Tap) : getJtag (modJtag s n f) n = f (getJtag s n) := by simp [getJtag, modJtag]
theorem getJtag_modJtag_ne (s : State) {n m : Nat} (f : Tap → Tap) (h : n ≠ m) : getJtag (modJtag s n f) m = getJtag s m := by simp [getJtag, modJtag, h]

/-! ### modFunc -/

@[simp] theorem modFunc_pending (s : State) (j n : Nat) (f : Func → Func) : (modFunc s j n f).pending = s.pending := rfl
@[simp] theorem modFunc_sent (s : State) (j n : Nat) (f : Func → Func) : (modFunc s j n f).sent = s.sent := rfl
@[simp] theorem modFunc_now (s : State) (j n : Nat) (f : Func → Func) : (modFunc s j n f).now = s.now := rfl
@[simp] theorem modFunc_free (s : State) (j n : Nat) (f : Func → Func) : (modFunc s j n f).free = s.free := rfl
@[simp] theorem modFunc_fuses (s : State) (j n : Nat) (f : Func → Func) : (modFunc s j n f).fuses = s.fuses := rfl
@[simp] theorem modFunc_fencing (s : State) (j n : Nat) (f : Func → Func) : (modFunc s j n f).fencing = s.fencing := rfl
@[simp] theorem modFunc_air (s : State) (j n : Nat) (f : Func → Func) : (modFunc s j n f).air = s.air := rfl
@[simp] theorem modFunc_clusters (s : State) (j n : Nat) (f : Func → Func) : (modFunc s j n f).clusters = s.clusters := rfl
@[simp] theorem modFunc_loader (s : State) (j n : Nat) (f : Func → Func) : (modFunc s j n f).loader = s.loader := rfl
@[simp] theorem modFunc_accepted (s : State) (j n : Nat) (f : Func → Func) : (modFunc s j n f).accepted = s.accepted := rfl
@[simp] theorem modFunc_hns (s : State) (j n : Nat) (f : Func → Func) : (modFunc s j n f).hns = s.hns := rfl
@[simp] theorem modFunc_merged (s : State) (j n : Nat) (f : Func → Func) : (modFunc s j n f).merged = s.merged := rfl
@[simp] theorem modFunc_netNext (s : State) (j n : Nat) (f : Func → Func) : (modFunc s j n f).netNext = s.netNext := rfl
@[simp] theorem modFunc_stalls (s : State) (j n : Nat) (f : Func → Func) : (modFunc s j n f).stalls = s.stalls := rfl
@[simp] theorem modFunc_mgmtStall (s : State) (j n : Nat) (f : Func → Func) : (modFunc s j n f).mgmtStall = s.mgmtStall := rfl
@[simp] theorem modFunc_ports (s : State) (j n : Nat) (f : Func → Func) : (modFunc s j n f).ports = s.ports := rfl
@[simp] theorem modFunc_arrays (s : State) (j n : Nat) (f : Func → Func) : (modFunc s j n f).arrays = s.arrays := rfl
@[simp] theorem modFunc_vecs (s : State) (j n : Nat) (f : Func → Func) : (modFunc s j n f).vecs = s.vecs := rfl
@[simp] theorem modFunc_paths (s : State) (j n : Nat) (f : Func → Func) : (modFunc s j n f).paths = s.paths := rfl
@[simp] theorem modFunc_feeders (s : State) (j n : Nat) (f : Func → Func) : (modFunc s j n f).feeders = s.feeders := rfl
@[simp] theorem modFunc_mem (s : State) (j n : Nat) (f : Func → Func) : (modFunc s j n f).mem = s.mem := rfl
@[simp] theorem modFunc_cores (s : State) (j n : Nat) (f : Func → Func) : (modFunc s j n f).cores = s.cores := rfl
@[simp] theorem modFunc_tths (s : State) (j n : Nat) (f : Func → Func) : (modFunc s j n f).tths = s.tths := rfl
@[simp] theorem modFunc_girths (s : State) (j n : Nat) (f : Func → Func) : (modFunc s j n f).girths = s.girths := rfl
@[simp] theorem modFunc_iods (s : State) (j n : Nat) (f : Func → Func) : (modFunc s j n f).iods = s.iods := rfl
@[simp] theorem modFunc_smPtr (s : State) (j n : Nat) (f : Func → Func) : (modFunc s j n f).smPtr = s.smPtr := rfl
@[simp] theorem modFunc_smLatch (s : State) (j n : Nat) (f : Func → Func) : (modFunc s j n f).smLatch = s.smLatch := rfl
@[simp] theorem modFunc_taps (s : State) (j n : Nat) (f : Func → Func) : (modFunc s j n f).taps = s.taps := rfl
@[simp] theorem modFunc_testEn (s : State) (j n : Nat) (f : Func → Func) : (modFunc s j n f).testEn = s.testEn := rfl
@[simp] theorem modFunc_carriers (s : State) (j n : Nat) (f : Func → Func) : (modFunc s j n f).carriers = s.carriers := rfl
@[simp] theorem modFunc_decoders (s : State) (j n : Nat) (f : Func → Func) : (modFunc s j n f).decoders = s.decoders := rfl
@[simp] theorem modFunc_school (s : State) (j n : Nat) (f : Func → Func) : (modFunc s j n f).school = s.school := rfl
@[simp] theorem modFunc_trail (s : State) (j n : Nat) (f : Func → Func) : (modFunc s j n f).trail = s.trail := rfl
@[simp] theorem modFunc_flt (s : State) (j n : Nat) (f : Func → Func) : (modFunc s j n f).flt = s.flt := rfl
@[simp] theorem modFunc_boot (s : State) (j n : Nat) (f : Func → Func) : (modFunc s j n f).boot = s.boot := rfl
@[simp] theorem modFunc_grooms (s : State) (j n : Nat) (f : Func → Func) : (modFunc s j n f).grooms = s.grooms := rfl
@[simp] theorem modFunc_grm (s : State) (j n : Nat) (f : Func → Func) : (modFunc s j n f).grm = s.grm := rfl
@[simp] theorem modFunc_power (s : State) (j n : Nat) (f : Func → Func) : (modFunc s j n f).power = s.power := rfl
@[simp] theorem getFunc_modFunc (s : State) (j n : Nat) (f : Func → Func) : getFunc (modFunc s j n f) j n = f (getFunc s j n) := by simp [getFunc, modFunc]
theorem getFunc_modFunc_ne (s : State) {j n j2 n2 : Nat} (f : Func → Func) (h : 16 * j + n ≠ 16 * j2 + n2) : getFunc (modFunc s j n f) j2 n2 = getFunc s j2 n2 := by simp [getFunc, modFunc, h]

/-! ### modStack -/

@[simp] theorem modStack_pending (s : State) (n : Nat) (f : Stack → Stack) : (modStack s n f).pending = s.pending := rfl
@[simp] theorem modStack_sent (s : State) (n : Nat) (f : Stack → Stack) : (modStack s n f).sent = s.sent := rfl
@[simp] theorem modStack_now (s : State) (n : Nat) (f : Stack → Stack) : (modStack s n f).now = s.now := rfl
@[simp] theorem modStack_free (s : State) (n : Nat) (f : Stack → Stack) : (modStack s n f).free = s.free := rfl
@[simp] theorem modStack_fuses (s : State) (n : Nat) (f : Stack → Stack) : (modStack s n f).fuses = s.fuses := rfl
@[simp] theorem modStack_fencing (s : State) (n : Nat) (f : Stack → Stack) : (modStack s n f).fencing = s.fencing := rfl
@[simp] theorem modStack_air (s : State) (n : Nat) (f : Stack → Stack) : (modStack s n f).air = s.air := rfl
@[simp] theorem modStack_clusters (s : State) (n : Nat) (f : Stack → Stack) : (modStack s n f).clusters = s.clusters := rfl
@[simp] theorem modStack_loader (s : State) (n : Nat) (f : Stack → Stack) : (modStack s n f).loader = s.loader := rfl
@[simp] theorem modStack_accepted (s : State) (n : Nat) (f : Stack → Stack) : (modStack s n f).accepted = s.accepted := rfl
@[simp] theorem modStack_hns (s : State) (n : Nat) (f : Stack → Stack) : (modStack s n f).hns = s.hns := rfl
@[simp] theorem modStack_merged (s : State) (n : Nat) (f : Stack → Stack) : (modStack s n f).merged = s.merged := rfl
@[simp] theorem modStack_netNext (s : State) (n : Nat) (f : Stack → Stack) : (modStack s n f).netNext = s.netNext := rfl
@[simp] theorem modStack_stalls (s : State) (n : Nat) (f : Stack → Stack) : (modStack s n f).stalls = s.stalls := rfl
@[simp] theorem modStack_mgmtStall (s : State) (n : Nat) (f : Stack → Stack) : (modStack s n f).mgmtStall = s.mgmtStall := rfl
@[simp] theorem modStack_ports (s : State) (n : Nat) (f : Stack → Stack) : (modStack s n f).ports = s.ports := rfl
@[simp] theorem modStack_funcs (s : State) (n : Nat) (f : Stack → Stack) : (modStack s n f).funcs = s.funcs := rfl
@[simp] theorem modStack_arrays (s : State) (n : Nat) (f : Stack → Stack) : (modStack s n f).arrays = s.arrays := rfl
@[simp] theorem modStack_vecs (s : State) (n : Nat) (f : Stack → Stack) : (modStack s n f).vecs = s.vecs := rfl
@[simp] theorem modStack_paths (s : State) (n : Nat) (f : Stack → Stack) : (modStack s n f).paths = s.paths := rfl
@[simp] theorem modStack_feeders (s : State) (n : Nat) (f : Stack → Stack) : (modStack s n f).feeders = s.feeders := rfl
@[simp] theorem modStack_cores (s : State) (n : Nat) (f : Stack → Stack) : (modStack s n f).cores = s.cores := rfl
@[simp] theorem modStack_tths (s : State) (n : Nat) (f : Stack → Stack) : (modStack s n f).tths = s.tths := rfl
@[simp] theorem modStack_girths (s : State) (n : Nat) (f : Stack → Stack) : (modStack s n f).girths = s.girths := rfl
@[simp] theorem modStack_iods (s : State) (n : Nat) (f : Stack → Stack) : (modStack s n f).iods = s.iods := rfl
@[simp] theorem modStack_smPtr (s : State) (n : Nat) (f : Stack → Stack) : (modStack s n f).smPtr = s.smPtr := rfl
@[simp] theorem modStack_smLatch (s : State) (n : Nat) (f : Stack → Stack) : (modStack s n f).smLatch = s.smLatch := rfl
@[simp] theorem modStack_taps (s : State) (n : Nat) (f : Stack → Stack) : (modStack s n f).taps = s.taps := rfl
@[simp] theorem modStack_testEn (s : State) (n : Nat) (f : Stack → Stack) : (modStack s n f).testEn = s.testEn := rfl
@[simp] theorem modStack_carriers (s : State) (n : Nat) (f : Stack → Stack) : (modStack s n f).carriers = s.carriers := rfl
@[simp] theorem modStack_decoders (s : State) (n : Nat) (f : Stack → Stack) : (modStack s n f).decoders = s.decoders := rfl
@[simp] theorem modStack_school (s : State) (n : Nat) (f : Stack → Stack) : (modStack s n f).school = s.school := rfl
@[simp] theorem modStack_trail (s : State) (n : Nat) (f : Stack → Stack) : (modStack s n f).trail = s.trail := rfl
@[simp] theorem modStack_flt (s : State) (n : Nat) (f : Stack → Stack) : (modStack s n f).flt = s.flt := rfl
@[simp] theorem modStack_boot (s : State) (n : Nat) (f : Stack → Stack) : (modStack s n f).boot = s.boot := rfl
@[simp] theorem modStack_grooms (s : State) (n : Nat) (f : Stack → Stack) : (modStack s n f).grooms = s.grooms := rfl
@[simp] theorem modStack_grm (s : State) (n : Nat) (f : Stack → Stack) : (modStack s n f).grm = s.grm := rfl
@[simp] theorem modStack_power (s : State) (n : Nat) (f : Stack → Stack) : (modStack s n f).power = s.power := rfl
@[simp] theorem getStack_modStack (s : State) (n : Nat) (f : Stack → Stack) : getStack (modStack s n f) n = f (getStack s n) := by simp [getStack, modStack]
theorem getStack_modStack_ne (s : State) {n m : Nat} (f : Stack → Stack) (h : n ≠ m) : getStack (modStack s n f) m = getStack s m := by simp [getStack, modStack, h]
@[simp] theorem modStack_mem_hbm (s : State) (n : Nat) (f : Stack → Stack) : (modStack s n f).mem.hbm = s.mem.hbm := rfl
@[simp] theorem modStack_mem_poison (s : State) (n : Nat) (f : Stack → Stack) : (modStack s n f).mem.poison = s.mem.poison := rfl
@[simp] theorem modStack_mem_cache (s : State) (n : Nat) (f : Stack → Stack) : (modStack s n f).mem.cache = s.mem.cache := rfl
@[simp] theorem modStack_mem_merge (s : State) (n : Nat) (f : Stack → Stack) : (modStack s n f).mem.merge = s.mem.merge := rfl
@[simp] theorem modStack_mem_ce (s : State) (n : Nat) (f : Stack → Stack) : (modStack s n f).mem.ce = s.mem.ce := rfl
@[simp] theorem modStack_mem_ue (s : State) (n : Nat) (f : Stack → Stack) : (modStack s n f).mem.ue = s.mem.ue := rfl
@[simp] theorem modStack_mem_scrub (s : State) (n : Nat) (f : Stack → Stack) : (modStack s n f).mem.scrub = s.mem.scrub := rfl

/-! ### modSe -/

@[simp] theorem modSe_pending (s : State) (n : Nat) (f : SchoolE → SchoolE) : (modSe s n f).pending = s.pending := rfl
@[simp] theorem modSe_sent (s : State) (n : Nat) (f : SchoolE → SchoolE) : (modSe s n f).sent = s.sent := rfl
@[simp] theorem modSe_now (s : State) (n : Nat) (f : SchoolE → SchoolE) : (modSe s n f).now = s.now := rfl
@[simp] theorem modSe_free (s : State) (n : Nat) (f : SchoolE → SchoolE) : (modSe s n f).free = s.free := rfl
@[simp] theorem modSe_fuses (s : State) (n : Nat) (f : SchoolE → SchoolE) : (modSe s n f).fuses = s.fuses := rfl
@[simp] theorem modSe_fencing (s : State) (n : Nat) (f : SchoolE → SchoolE) : (modSe s n f).fencing = s.fencing := rfl
@[simp] theorem modSe_air (s : State) (n : Nat) (f : SchoolE → SchoolE) : (modSe s n f).air = s.air := rfl
@[simp] theorem modSe_clusters (s : State) (n : Nat) (f : SchoolE → SchoolE) : (modSe s n f).clusters = s.clusters := rfl
@[simp] theorem modSe_loader (s : State) (n : Nat) (f : SchoolE → SchoolE) : (modSe s n f).loader = s.loader := rfl
@[simp] theorem modSe_accepted (s : State) (n : Nat) (f : SchoolE → SchoolE) : (modSe s n f).accepted = s.accepted := rfl
@[simp] theorem modSe_hns (s : State) (n : Nat) (f : SchoolE → SchoolE) : (modSe s n f).hns = s.hns := rfl
@[simp] theorem modSe_merged (s : State) (n : Nat) (f : SchoolE → SchoolE) : (modSe s n f).merged = s.merged := rfl
@[simp] theorem modSe_netNext (s : State) (n : Nat) (f : SchoolE → SchoolE) : (modSe s n f).netNext = s.netNext := rfl
@[simp] theorem modSe_stalls (s : State) (n : Nat) (f : SchoolE → SchoolE) : (modSe s n f).stalls = s.stalls := rfl
@[simp] theorem modSe_mgmtStall (s : State) (n : Nat) (f : SchoolE → SchoolE) : (modSe s n f).mgmtStall = s.mgmtStall := rfl
@[simp] theorem modSe_ports (s : State) (n : Nat) (f : SchoolE → SchoolE) : (modSe s n f).ports = s.ports := rfl
@[simp] theorem modSe_funcs (s : State) (n : Nat) (f : SchoolE → SchoolE) : (modSe s n f).funcs = s.funcs := rfl
@[simp] theorem modSe_arrays (s : State) (n : Nat) (f : SchoolE → SchoolE) : (modSe s n f).arrays = s.arrays := rfl
@[simp] theorem modSe_vecs (s : State) (n : Nat) (f : SchoolE → SchoolE) : (modSe s n f).vecs = s.vecs := rfl
@[simp] theorem modSe_paths (s : State) (n : Nat) (f : SchoolE → SchoolE) : (modSe s n f).paths = s.paths := rfl
@[simp] theorem modSe_feeders (s : State) (n : Nat) (f : SchoolE → SchoolE) : (modSe s n f).feeders = s.feeders := rfl
@[simp] theorem modSe_mem (s : State) (n : Nat) (f : SchoolE → SchoolE) : (modSe s n f).mem = s.mem := rfl
@[simp] theorem modSe_cores (s : State) (n : Nat) (f : SchoolE → SchoolE) : (modSe s n f).cores = s.cores := rfl
@[simp] theorem modSe_tths (s : State) (n : Nat) (f : SchoolE → SchoolE) : (modSe s n f).tths = s.tths := rfl
@[simp] theorem modSe_girths (s : State) (n : Nat) (f : SchoolE → SchoolE) : (modSe s n f).girths = s.girths := rfl
@[simp] theorem modSe_iods (s : State) (n : Nat) (f : SchoolE → SchoolE) : (modSe s n f).iods = s.iods := rfl
@[simp] theorem modSe_smPtr (s : State) (n : Nat) (f : SchoolE → SchoolE) : (modSe s n f).smPtr = s.smPtr := rfl
@[simp] theorem modSe_smLatch (s : State) (n : Nat) (f : SchoolE → SchoolE) : (modSe s n f).smLatch = s.smLatch := rfl
@[simp] theorem modSe_taps (s : State) (n : Nat) (f : SchoolE → SchoolE) : (modSe s n f).taps = s.taps := rfl
@[simp] theorem modSe_testEn (s : State) (n : Nat) (f : SchoolE → SchoolE) : (modSe s n f).testEn = s.testEn := rfl
@[simp] theorem modSe_carriers (s : State) (n : Nat) (f : SchoolE → SchoolE) : (modSe s n f).carriers = s.carriers := rfl
@[simp] theorem modSe_decoders (s : State) (n : Nat) (f : SchoolE → SchoolE) : (modSe s n f).decoders = s.decoders := rfl
@[simp] theorem modSe_trail (s : State) (n : Nat) (f : SchoolE → SchoolE) : (modSe s n f).trail = s.trail := rfl
@[simp] theorem modSe_flt (s : State) (n : Nat) (f : SchoolE → SchoolE) : (modSe s n f).flt = s.flt := rfl
@[simp] theorem modSe_boot (s : State) (n : Nat) (f : SchoolE → SchoolE) : (modSe s n f).boot = s.boot := rfl
@[simp] theorem modSe_grooms (s : State) (n : Nat) (f : SchoolE → SchoolE) : (modSe s n f).grooms = s.grooms := rfl
@[simp] theorem modSe_grm (s : State) (n : Nat) (f : SchoolE → SchoolE) : (modSe s n f).grm = s.grm := rfl
@[simp] theorem modSe_power (s : State) (n : Nat) (f : SchoolE → SchoolE) : (modSe s n f).power = s.power := rfl
@[simp] theorem getSe_modSe (s : State) (n : Nat) (f : SchoolE → SchoolE) : getSe (modSe s n f) n = f (getSe s n) := by simp [getSe, modSe]
theorem getSe_modSe_ne (s : State) {n m : Nat} (f : SchoolE → SchoolE) (h : n ≠ m) : getSe (modSe s n f) m = getSe s m := by simp [getSe, modSe, h]

/-! ### modNet -/

@[simp] theorem modNet_pending (s : State) (n : Nat) (f : SchoolNet → SchoolNet) : (modNet s n f).pending = s.pending := rfl
@[simp] theorem modNet_sent (s : State) (n : Nat) (f : SchoolNet → SchoolNet) : (modNet s n f).sent = s.sent := rfl
@[simp] theorem modNet_now (s : State) (n : Nat) (f : SchoolNet → SchoolNet) : (modNet s n f).now = s.now := rfl
@[simp] theorem modNet_free (s : State) (n : Nat) (f : SchoolNet → SchoolNet) : (modNet s n f).free = s.free := rfl
@[simp] theorem modNet_fuses (s : State) (n : Nat) (f : SchoolNet → SchoolNet) : (modNet s n f).fuses = s.fuses := rfl
@[simp] theorem modNet_fencing (s : State) (n : Nat) (f : SchoolNet → SchoolNet) : (modNet s n f).fencing = s.fencing := rfl
@[simp] theorem modNet_air (s : State) (n : Nat) (f : SchoolNet → SchoolNet) : (modNet s n f).air = s.air := rfl
@[simp] theorem modNet_clusters (s : State) (n : Nat) (f : SchoolNet → SchoolNet) : (modNet s n f).clusters = s.clusters := rfl
@[simp] theorem modNet_loader (s : State) (n : Nat) (f : SchoolNet → SchoolNet) : (modNet s n f).loader = s.loader := rfl
@[simp] theorem modNet_accepted (s : State) (n : Nat) (f : SchoolNet → SchoolNet) : (modNet s n f).accepted = s.accepted := rfl
@[simp] theorem modNet_hns (s : State) (n : Nat) (f : SchoolNet → SchoolNet) : (modNet s n f).hns = s.hns := rfl
@[simp] theorem modNet_merged (s : State) (n : Nat) (f : SchoolNet → SchoolNet) : (modNet s n f).merged = s.merged := rfl
@[simp] theorem modNet_netNext (s : State) (n : Nat) (f : SchoolNet → SchoolNet) : (modNet s n f).netNext = s.netNext := rfl
@[simp] theorem modNet_stalls (s : State) (n : Nat) (f : SchoolNet → SchoolNet) : (modNet s n f).stalls = s.stalls := rfl
@[simp] theorem modNet_mgmtStall (s : State) (n : Nat) (f : SchoolNet → SchoolNet) : (modNet s n f).mgmtStall = s.mgmtStall := rfl
@[simp] theorem modNet_ports (s : State) (n : Nat) (f : SchoolNet → SchoolNet) : (modNet s n f).ports = s.ports := rfl
@[simp] theorem modNet_funcs (s : State) (n : Nat) (f : SchoolNet → SchoolNet) : (modNet s n f).funcs = s.funcs := rfl
@[simp] theorem modNet_arrays (s : State) (n : Nat) (f : SchoolNet → SchoolNet) : (modNet s n f).arrays = s.arrays := rfl
@[simp] theorem modNet_vecs (s : State) (n : Nat) (f : SchoolNet → SchoolNet) : (modNet s n f).vecs = s.vecs := rfl
@[simp] theorem modNet_paths (s : State) (n : Nat) (f : SchoolNet → SchoolNet) : (modNet s n f).paths = s.paths := rfl
@[simp] theorem modNet_feeders (s : State) (n : Nat) (f : SchoolNet → SchoolNet) : (modNet s n f).feeders = s.feeders := rfl
@[simp] theorem modNet_mem (s : State) (n : Nat) (f : SchoolNet → SchoolNet) : (modNet s n f).mem = s.mem := rfl
@[simp] theorem modNet_cores (s : State) (n : Nat) (f : SchoolNet → SchoolNet) : (modNet s n f).cores = s.cores := rfl
@[simp] theorem modNet_tths (s : State) (n : Nat) (f : SchoolNet → SchoolNet) : (modNet s n f).tths = s.tths := rfl
@[simp] theorem modNet_girths (s : State) (n : Nat) (f : SchoolNet → SchoolNet) : (modNet s n f).girths = s.girths := rfl
@[simp] theorem modNet_iods (s : State) (n : Nat) (f : SchoolNet → SchoolNet) : (modNet s n f).iods = s.iods := rfl
@[simp] theorem modNet_smPtr (s : State) (n : Nat) (f : SchoolNet → SchoolNet) : (modNet s n f).smPtr = s.smPtr := rfl
@[simp] theorem modNet_smLatch (s : State) (n : Nat) (f : SchoolNet → SchoolNet) : (modNet s n f).smLatch = s.smLatch := rfl
@[simp] theorem modNet_taps (s : State) (n : Nat) (f : SchoolNet → SchoolNet) : (modNet s n f).taps = s.taps := rfl
@[simp] theorem modNet_testEn (s : State) (n : Nat) (f : SchoolNet → SchoolNet) : (modNet s n f).testEn = s.testEn := rfl
@[simp] theorem modNet_carriers (s : State) (n : Nat) (f : SchoolNet → SchoolNet) : (modNet s n f).carriers = s.carriers := rfl
@[simp] theorem modNet_decoders (s : State) (n : Nat) (f : SchoolNet → SchoolNet) : (modNet s n f).decoders = s.decoders := rfl
@[simp] theorem modNet_trail (s : State) (n : Nat) (f : SchoolNet → SchoolNet) : (modNet s n f).trail = s.trail := rfl
@[simp] theorem modNet_flt (s : State) (n : Nat) (f : SchoolNet → SchoolNet) : (modNet s n f).flt = s.flt := rfl
@[simp] theorem modNet_boot (s : State) (n : Nat) (f : SchoolNet → SchoolNet) : (modNet s n f).boot = s.boot := rfl
@[simp] theorem modNet_grooms (s : State) (n : Nat) (f : SchoolNet → SchoolNet) : (modNet s n f).grooms = s.grooms := rfl
@[simp] theorem modNet_grm (s : State) (n : Nat) (f : SchoolNet → SchoolNet) : (modNet s n f).grm = s.grm := rfl
@[simp] theorem modNet_power (s : State) (n : Nat) (f : SchoolNet → SchoolNet) : (modNet s n f).power = s.power := rfl
@[simp] theorem getNet_modNet (s : State) (n : Nat) (f : SchoolNet → SchoolNet) : getNet (modNet s n f) n = f (getNet s n) := by simp [getNet, modNet]
theorem getNet_modNet_ne (s : State) {n m : Nat} (f : SchoolNet → SchoolNet) (h : n ≠ m) : getNet (modNet s n f) m = getNet s m := by simp [getNet, modNet, h]

/-! ### modAir -/

@[simp] theorem modAir_pending (s : State) (f : Air → Air) : (modAir s f).pending = s.pending := rfl
@[simp] theorem modAir_sent (s : State) (f : Air → Air) : (modAir s f).sent = s.sent := rfl
@[simp] theorem modAir_now (s : State) (f : Air → Air) : (modAir s f).now = s.now := rfl
@[simp] theorem modAir_free (s : State) (f : Air → Air) : (modAir s f).free = s.free := rfl
@[simp] theorem modAir_fuses (s : State) (f : Air → Air) : (modAir s f).fuses = s.fuses := rfl
@[simp] theorem modAir_fencing (s : State) (f : Air → Air) : (modAir s f).fencing = s.fencing := rfl
@[simp] theorem modAir_clusters (s : State) (f : Air → Air) : (modAir s f).clusters = s.clusters := rfl
@[simp] theorem modAir_loader (s : State) (f : Air → Air) : (modAir s f).loader = s.loader := rfl
@[simp] theorem modAir_accepted (s : State) (f : Air → Air) : (modAir s f).accepted = s.accepted := rfl
@[simp] theorem modAir_hns (s : State) (f : Air → Air) : (modAir s f).hns = s.hns := rfl
@[simp] theorem modAir_merged (s : State) (f : Air → Air) : (modAir s f).merged = s.merged := rfl
@[simp] theorem modAir_netNext (s : State) (f : Air → Air) : (modAir s f).netNext = s.netNext := rfl
@[simp] theorem modAir_stalls (s : State) (f : Air → Air) : (modAir s f).stalls = s.stalls := rfl
@[simp] theorem modAir_mgmtStall (s : State) (f : Air → Air) : (modAir s f).mgmtStall = s.mgmtStall := rfl
@[simp] theorem modAir_ports (s : State) (f : Air → Air) : (modAir s f).ports = s.ports := rfl
@[simp] theorem modAir_funcs (s : State) (f : Air → Air) : (modAir s f).funcs = s.funcs := rfl
@[simp] theorem modAir_arrays (s : State) (f : Air → Air) : (modAir s f).arrays = s.arrays := rfl
@[simp] theorem modAir_vecs (s : State) (f : Air → Air) : (modAir s f).vecs = s.vecs := rfl
@[simp] theorem modAir_paths (s : State) (f : Air → Air) : (modAir s f).paths = s.paths := rfl
@[simp] theorem modAir_feeders (s : State) (f : Air → Air) : (modAir s f).feeders = s.feeders := rfl
@[simp] theorem modAir_mem (s : State) (f : Air → Air) : (modAir s f).mem = s.mem := rfl
@[simp] theorem modAir_cores (s : State) (f : Air → Air) : (modAir s f).cores = s.cores := rfl
@[simp] theorem modAir_tths (s : State) (f : Air → Air) : (modAir s f).tths = s.tths := rfl
@[simp] theorem modAir_girths (s : State) (f : Air → Air) : (modAir s f).girths = s.girths := rfl
@[simp] theorem modAir_iods (s : State) (f : Air → Air) : (modAir s f).iods = s.iods := rfl
@[simp] theorem modAir_smPtr (s : State) (f : Air → Air) : (modAir s f).smPtr = s.smPtr := rfl
@[simp] theorem modAir_smLatch (s : State) (f : Air → Air) : (modAir s f).smLatch = s.smLatch := rfl
@[simp] theorem modAir_taps (s : State) (f : Air → Air) : (modAir s f).taps = s.taps := rfl
@[simp] theorem modAir_testEn (s : State) (f : Air → Air) : (modAir s f).testEn = s.testEn := rfl
@[simp] theorem modAir_carriers (s : State) (f : Air → Air) : (modAir s f).carriers = s.carriers := rfl
@[simp] theorem modAir_decoders (s : State) (f : Air → Air) : (modAir s f).decoders = s.decoders := rfl
@[simp] theorem modAir_school (s : State) (f : Air → Air) : (modAir s f).school = s.school := rfl
@[simp] theorem modAir_trail (s : State) (f : Air → Air) : (modAir s f).trail = s.trail := rfl
@[simp] theorem modAir_flt (s : State) (f : Air → Air) : (modAir s f).flt = s.flt := rfl
@[simp] theorem modAir_boot (s : State) (f : Air → Air) : (modAir s f).boot = s.boot := rfl
@[simp] theorem modAir_grooms (s : State) (f : Air → Air) : (modAir s f).grooms = s.grooms := rfl
@[simp] theorem modAir_grm (s : State) (f : Air → Air) : (modAir s f).grm = s.grm := rfl
@[simp] theorem modAir_power (s : State) (f : Air → Air) : (modAir s f).power = s.power := rfl
@[simp] theorem modAir_air (s : State) (f : Air → Air) : (modAir s f).air = f s.air := rfl

/-! ### modSchool -/

@[simp] theorem modSchool_pending (s : State) (f : School → School) : (modSchool s f).pending = s.pending := rfl
@[simp] theorem modSchool_sent (s : State) (f : School → School) : (modSchool s f).sent = s.sent := rfl
@[simp] theorem modSchool_now (s : State) (f : School → School) : (modSchool s f).now = s.now := rfl
@[simp] theorem modSchool_free (s : State) (f : School → School) : (modSchool s f).free = s.free := rfl
@[simp] theorem modSchool_fuses (s : State) (f : School → School) : (modSchool s f).fuses = s.fuses := rfl
@[simp] theorem modSchool_fencing (s : State) (f : School → School) : (modSchool s f).fencing = s.fencing := rfl
@[simp] theorem modSchool_air (s : State) (f : School → School) : (modSchool s f).air = s.air := rfl
@[simp] theorem modSchool_clusters (s : State) (f : School → School) : (modSchool s f).clusters = s.clusters := rfl
@[simp] theorem modSchool_loader (s : State) (f : School → School) : (modSchool s f).loader = s.loader := rfl
@[simp] theorem modSchool_accepted (s : State) (f : School → School) : (modSchool s f).accepted = s.accepted := rfl
@[simp] theorem modSchool_hns (s : State) (f : School → School) : (modSchool s f).hns = s.hns := rfl
@[simp] theorem modSchool_merged (s : State) (f : School → School) : (modSchool s f).merged = s.merged := rfl
@[simp] theorem modSchool_netNext (s : State) (f : School → School) : (modSchool s f).netNext = s.netNext := rfl
@[simp] theorem modSchool_stalls (s : State) (f : School → School) : (modSchool s f).stalls = s.stalls := rfl
@[simp] theorem modSchool_mgmtStall (s : State) (f : School → School) : (modSchool s f).mgmtStall = s.mgmtStall := rfl
@[simp] theorem modSchool_ports (s : State) (f : School → School) : (modSchool s f).ports = s.ports := rfl
@[simp] theorem modSchool_funcs (s : State) (f : School → School) : (modSchool s f).funcs = s.funcs := rfl
@[simp] theorem modSchool_arrays (s : State) (f : School → School) : (modSchool s f).arrays = s.arrays := rfl
@[simp] theorem modSchool_vecs (s : State) (f : School → School) : (modSchool s f).vecs = s.vecs := rfl
@[simp] theorem modSchool_paths (s : State) (f : School → School) : (modSchool s f).paths = s.paths := rfl
@[simp] theorem modSchool_feeders (s : State) (f : School → School) : (modSchool s f).feeders = s.feeders := rfl
@[simp] theorem modSchool_mem (s : State) (f : School → School) : (modSchool s f).mem = s.mem := rfl
@[simp] theorem modSchool_cores (s : State) (f : School → School) : (modSchool s f).cores = s.cores := rfl
@[simp] theorem modSchool_tths (s : State) (f : School → School) : (modSchool s f).tths = s.tths := rfl
@[simp] theorem modSchool_girths (s : State) (f : School → School) : (modSchool s f).girths = s.girths := rfl
@[simp] theorem modSchool_iods (s : State) (f : School → School) : (modSchool s f).iods = s.iods := rfl
@[simp] theorem modSchool_smPtr (s : State) (f : School → School) : (modSchool s f).smPtr = s.smPtr := rfl
@[simp] theorem modSchool_smLatch (s : State) (f : School → School) : (modSchool s f).smLatch = s.smLatch := rfl
@[simp] theorem modSchool_taps (s : State) (f : School → School) : (modSchool s f).taps = s.taps := rfl
@[simp] theorem modSchool_testEn (s : State) (f : School → School) : (modSchool s f).testEn = s.testEn := rfl
@[simp] theorem modSchool_carriers (s : State) (f : School → School) : (modSchool s f).carriers = s.carriers := rfl
@[simp] theorem modSchool_decoders (s : State) (f : School → School) : (modSchool s f).decoders = s.decoders := rfl
@[simp] theorem modSchool_trail (s : State) (f : School → School) : (modSchool s f).trail = s.trail := rfl
@[simp] theorem modSchool_flt (s : State) (f : School → School) : (modSchool s f).flt = s.flt := rfl
@[simp] theorem modSchool_boot (s : State) (f : School → School) : (modSchool s f).boot = s.boot := rfl
@[simp] theorem modSchool_grooms (s : State) (f : School → School) : (modSchool s f).grooms = s.grooms := rfl
@[simp] theorem modSchool_grm (s : State) (f : School → School) : (modSchool s f).grm = s.grm := rfl
@[simp] theorem modSchool_power (s : State) (f : School → School) : (modSchool s f).power = s.power := rfl
@[simp] theorem modSchool_school (s : State) (f : School → School) : (modSchool s f).school = f s.school := rfl

end Sys2Proof.Machine
end

