-- ==== Sys2Proof/Laws/Ops.lean ====
section
/-!
SUPPORT. What the reporting operations of Machine/Ops.lean can do, said once: they write only the trail, the fault summary,
what the device sent, the messages queued at the girth links, the interrupts and writes held for a stall, and the slots'
GUARANTEE. `aside` is all the rest; the lemmas after it say the same field by field.
-/
namespace Sys2Proof.Machine

/-- Everything that reporting leaves alone. -/
structure Aside where
  pending : List Instr
  now : Nat
  free : Nat
  fuses : Fuses
  fencing : Fencing
  air : Air
  clusters : Table Cluster
  loader : Loader
  accepted : Bool
  hns : Harness
  merged : Option Harness
  netNext : List NetNext
  mgmtStall : BitVec 4
  ports : Table Port
  funcs : Table Func
  arrays : Table ArrayU
  vecs : Table VecU
  paths : Table PathU
  feeders : Table Feeder
  mem : Mem
  cores : Table PCore
  tths : Table Tth
  iods : Table Iod
  smPtr : W32
  smLatch : Option (Nat × W32)
  taps : Table Tap
  testEn : Bool
  decoders : Table Decoder
  school : School
  boot : Boot
  grooms : Table Groom
  grm : Grm
  power : Power
  stall : Nat → Stall
  girth : Nat → Girth
  carrier : Nat → Carrier
  trail : Trail
  flt : Flt

def aside (s : State) : Aside where
  pending := s.pending
  now := s.now
  free := s.free
  fuses := s.fuses
  fencing := s.fencing
  air := s.air
  clusters := s.clusters
  loader := s.loader
  accepted := s.accepted
  hns := s.hns
  merged := s.merged
  netNext := s.netNext
  mgmtStall := s.mgmtStall
  ports := s.ports
  funcs := s.funcs
  arrays := s.arrays
  vecs := s.vecs
  paths := s.paths
  feeders := s.feeders
  mem := s.mem
  cores := s.cores
  tths := s.tths
  iods := s.iods
  smPtr := s.smPtr
  smLatch := s.smLatch
  taps := s.taps
  testEn := s.testEn
  decoders := s.decoders
  school := s.school
  boot := s.boot
  grooms := s.grooms
  grm := s.grm
  power := s.power
  stall := fun i => { getStall s i with msixPend := [], heldIrq := [], heldOut := [] }
  girth := fun g => { getGirth s g with outQ := [], inQ := [], granted := [] }
  carrier := fun c => { getCarrier s c with slots := [] }
  trail := { s.trail with queue := [], lost := 0 }
  flt := s.flt

theorem aside_modStall (s : State) (i : Nat) (f : Stall → Stall)
    (h : ∀ x, { f x with msixPend := [], heldIrq := [], heldOut := [] } = { x with msixPend := [], heldIrq := [], heldOut := [] }) :
    aside (modStall s i f) = aside s := by
  have hs : (fun k => { getStall (modStall s i f) k with msixPend := [], heldIrq := [], heldOut := [] }) =
      (fun k => { getStall s k with msixPend := [], heldIrq := [], heldOut := [] }) := by
    funext k
    by_cases hk : i = k
    · subst hk; rw [getStall_modStall]; exact h _
    · rw [getStall_modStall_ne _ _ hk]
  exact congrArg (fun x => { aside s with stall := x }) hs

theorem aside_modGirth (s : State) (i : Nat) (f : Girth → Girth)
    (h : ∀ x, { f x with outQ := [], inQ := [], granted := [] } = { x with outQ := [], inQ := [], granted := [] }) :
    aside (modGirth s i f) = aside s := by
  have hs : (fun k => { getGirth (modGirth s i f) k with outQ := [], inQ := [], granted := [] }) =
      (fun k => { getGirth s k with outQ := [], inQ := [], granted := [] }) := by
    funext k
    by_cases hk : i = k
    · subst hk; rw [getGirth_modGirth]; exact h _
    · rw [getGirth_modGirth_ne _ _ hk]
  exact congrArg (fun x => { aside s with girth := x }) hs

theorem aside_modCarrier (s : State) (i : Nat) (f : Carrier → Carrier)
    (h : ∀ x, { f x with slots := [] } = { x with slots := [] }) : aside (modCarrier s i f) = aside s := by
  have hs : (fun k => { getCarrier (modCarrier s i f) k with slots := [] }) = (fun k => { getCarrier s k with slots := [] }) := by
    funext k
    by_cases hk : i = k
    · subst hk; rw [getCarrier_modCarrier]; exact h _
    · rw [getCarrier_modCarrier_ne _ _ hk]
  exact congrArg (fun x => { aside s with carrier := x }) hs

@[simp] theorem aside_sendMsg (s : State) (g vc : Nat) (m : List Byte) : aside (sendMsg s g vc m) = aside s := by
  unfold sendMsg
  extract_lets st
  split
  · rfl
  · exact aside_modGirth _ _ _ (fun _ => rfl)

@[simp] theorem aside_takeMsg (s : State) (g : Nat) (opc : Byte) : aside (takeMsg s g opc) = aside s := by
  unfold takeMsg
  refine aside_modGirth _ _ _ (fun x => ?_)
  dsimp only
  split <;> rfl

@[simp] theorem aside_sendWrite (s : State) (i : Nat) (a : W64) (d : List Byte) : aside (sendWrite s i a d) = aside s := by
  unfold sendWrite
  exact foldl_keep aside _ (fun _ _ => aside_sendMsg ..) _ _

@[simp] theorem aside_queueOut (s : State) (o : Out) : aside (queueOut s o) = aside s := by
  cases o <;> first | rfl | exact aside_sendMsg .. | exact aside_sendWrite ..

@[simp] theorem aside_emit (s : State) (o : Out) : aside (emit s o) = aside s := (aside_queueOut s o : _)

@[simp] theorem aside_toHost (s : State) (i : Nat) (o : Out) : aside (toHost s i o) = aside s := by
  unfold toHost; split
  · exact aside_modStall _ _ _ (fun _ => rfl)
  · exact aside_emit ..

@[simp] theorem aside_fireVector (s : State) (i : Nat) (v : BitVec 11) : aside (fireVector s i v) = aside s := by
  unfold fireVector; dsimp only; split
  · exact aside_emit ..
  · exact aside_modStall _ _ _ (fun _ => rfl)

@[simp] theorem aside_raiseVector (s : State) (i : Nat) (v : BitVec 11) : aside (raiseVector s i v) = aside s := by
  unfold raiseVector; split
  · exact aside_modStall _ _ _ (fun _ => rfl)
  · exact aside_fireVector ..

@[simp] theorem aside_releaseHeld (s : State) (i : Nat) : aside (releaseHeld s i) = aside s := by
  unfold releaseHeld; dsimp only; split
  · rfl
  · refine (foldl_keep aside _ (fun _ _ => aside_fireVector ..) _ _).trans ?_
    refine (foldl_keep aside _ (fun _ _ => aside_emit ..) _ _).trans ?_
    exact aside_modStall _ _ _ (fun _ => rfl)

@[simp] theorem aside_releaseAll (s : State) : aside (releaseAll s) = aside s :=
  foldl_keep aside _ (fun _ _ => aside_releaseHeld ..) _ _

@[simp] theorem aside_pushEvent (s : State) (e : Event) : aside (pushEvent s e) = aside s := by
  unfold pushEvent; dsimp only; split
  · rfl
  · split <;> rfl

@[simp] theorem aside_raiseSource (s : State) (src : W16) : aside (raiseSource s src) = aside s := by
  unfold raiseSource; dsimp only; split
  · rfl
  · split
    · exact aside_pushEvent ..
    · exact foldl_keep aside _ (fun _ _ => aside_raiseVector ..) _ _

@[simp] theorem aside_touchPlace (s : State) (c : Nat) (p : SlotPlace) : aside (touchPlace s c p) = aside s := by
  unfold touchPlace; split
  · rfl
  · dsimp only; split
    · rfl
    · exact aside_modCarrier _ _ _ (fun _ => rfl)

@[simp] theorem aside_touchSlot (s : State) (c rel slot : Nat) : aside (touchSlot s c rel slot) = aside s := aside_touchPlace ..

@[simp] theorem aside_touchNow (s : State) (c : Nat) : aside (touchNow s c) = aside s := by
  unfold touchNow; split
  · rfl
  · exact aside_touchSlot ..

@[simp] theorem aside_voidSlots (s : State) (p : Nat → Bool) : aside (voidSlots s p) = aside s := by
  unfold voidSlots
  refine foldl_keep aside _ (fun s c => ?_) _ _
  split
  · rw [aside_modCarrier, aside_touchNow]
    intro x; rfl
  · rfl

@[simp] theorem aside_voidWhen (s : State) (broken : Bool) : aside (voidWhen s broken) = aside s := by
  unfold voidWhen
  refine foldl_keep aside _ (fun s c => ?_) _ _
  split
  · rw [aside_modCarrier, aside_touchNow]
    intro x; rfl
  · rfl

@[simp] theorem aside_voidFor (s : State) (code : W16) (kind : BitVec 4) (unit : Nat) (stall : Option (BitVec 4)) :
    aside (voidFor s code kind unit stall) = aside s := by
  unfold voidFor
  split
  · exact aside_voidSlots ..
  · split
    · exact aside_voidSlots ..
    · split
      · exact aside_voidSlots ..
      · rfl

/-- The fault summary after a report (Table 17-14, R630): the flags and counters that the code sets. -/
def reportFlt (s : State) (e : Event) : Flt :=
  let f := markFault s.flt e.code e.guarantee
  let f := if isDevCode e.code then { f with cntDev := satInc f.cntDev } else f
  if isDevCode e.code && (s.trail.stopped || decide (64 ≤ s.trail.queue.length)) then { f with last := fltLast e.code s.trail.wr true } else f

theorem pushEvent_trail_wr (s : State) (e : Event) : (pushEvent s e).trail.wr = s.trail.wr := by
  unfold pushEvent; dsimp only; split
  · rfl
  · split <;> rfl

theorem pushEvent_flt' (s : State) (e : Event) : (pushEvent s e).flt = s.flt := by
  unfold pushEvent; dsimp only; split
  · rfl
  · split <;> rfl

theorem aside_report (s : State) (e : Event) : aside (report s e) = { aside s with flt := reportFlt s e } := by
  unfold report
  extract_lets lost s1 f1 f2 f3 s2
  have h1 : aside s1 = aside s := aside_pushEvent ..
  have h2 : aside s2 = { aside s with flt := reportFlt s e } := by
    have hf : f3 = reportFlt s e := by
      unfold f3 f2 f1 reportFlt lost s1
      rw [pushEvent_flt', pushEvent_trail_wr]
    unfold s2
    rw [aside_voidFor, ← h1, ← hf]; rfl
  clear_value s2
  split
  · rw [aside_raiseSource, h2]
  · exact h2

@[simp] theorem report_flt (s : State) (e : Event) : (report s e).flt = reportFlt s e := congrArg Aside.flt (aside_report s e)

@[simp] theorem aside_note (s : State) (code : W16) (data : List Byte) : aside (note s code data) = aside s := aside_pushEvent ..

@[simp] theorem aside_outOfService (s : State) (kind : BitVec 4) (unit : Nat) (last : Byte) :
    aside (outOfService s kind unit last) = aside s := by
  unfold outOfService
  dsimp only
  have h : ∀ e : Event, e.code = 0x100B → reportFlt s e = s.flt := fun e h => by simp [reportFlt, markFault, isDevCode, h]
  rw [aside_report, h _ rfl]
  rfl

/-- What `aside` says of one stall, link and carrier. -/
theorem aside_stall {s t : State} (h : (aside t).stall = (aside s).stall) (k : Nat) :
    { getStall t k with msixPend := [], heldIrq := [], heldOut := [] } = { getStall s k with msixPend := [], heldIrq := [], heldOut := [] } :=
  congrFun h k

theorem aside_girth {s t : State} (h : (aside t).girth = (aside s).girth) (k : Nat) :
    { getGirth t k with outQ := [], inQ := [], granted := [] } = { getGirth s k with outQ := [], inQ := [], granted := [] } :=
  congrFun h k

theorem aside_carrier {s t : State} (h : (aside t).carrier = (aside s).carrier) (k : Nat) :
    { getCarrier t k with slots := [] } = { getCarrier s k with slots := [] } :=
  congrFun h k

theorem aside_report_stall (s : State) (e : Event) : (aside (report s e)).stall = (aside s).stall := by rw [aside_report]
theorem aside_report_girth (s : State) (e : Event) : (aside (report s e)).girth = (aside s).girth := by rw [aside_report]
theorem aside_report_carrier (s : State) (e : Event) : (aside (report s e)).carrier = (aside s).carrier := by rw [aside_report]

/-! ### sendMsg -/

@[simp] theorem sendMsg_pending (s : State) (g vc : Nat) (m : List Byte) : (sendMsg s g vc m).pending = s.pending := congrArg Aside.pending (aside_sendMsg s g vc m)
@[simp] theorem sendMsg_now (s : State) (g vc : Nat) (m : List Byte) : (sendMsg s g vc m).now = s.now := congrArg Aside.now (aside_sendMsg s g vc m)
@[simp] theorem sendMsg_free (s : State) (g vc : Nat) (m : List Byte) : (sendMsg s g vc m).free = s.free := congrArg Aside.free (aside_sendMsg s g vc m)
@[simp] theorem sendMsg_fuses (s : State) (g vc : Nat) (m : List Byte) : (sendMsg s g vc m).fuses = s.fuses := congrArg Aside.fuses (aside_sendMsg s g vc m)
@[simp] theorem sendMsg_fencing (s : State) (g vc : Nat) (m : List Byte) : (sendMsg s g vc m).fencing = s.fencing := congrArg Aside.fencing (aside_sendMsg s g vc m)
@[simp] theorem sendMsg_air (s : State) (g vc : Nat) (m : List Byte) : (sendMsg s g vc m).air = s.air := congrArg Aside.air (aside_sendMsg s g vc m)
@[simp] theorem sendMsg_clusters (s : State) (g vc : Nat) (m : List Byte) : (sendMsg s g vc m).clusters = s.clusters := congrArg Aside.clusters (aside_sendMsg s g vc m)
@[simp] theorem sendMsg_loader (s : State) (g vc : Nat) (m : List Byte) : (sendMsg s g vc m).loader = s.loader := congrArg Aside.loader (aside_sendMsg s g vc m)
@[simp] theorem sendMsg_accepted (s : State) (g vc : Nat) (m : List Byte) : (sendMsg s g vc m).accepted = s.accepted := congrArg Aside.accepted (aside_sendMsg s g vc m)
@[simp] theorem sendMsg_hns (s : State) (g vc : Nat) (m : List Byte) : (sendMsg s g vc m).hns = s.hns := congrArg Aside.hns (aside_sendMsg s g vc m)
@[simp] theorem sendMsg_merged (s : State) (g vc : Nat) (m : List Byte) : (sendMsg s g vc m).merged = s.merged := congrArg Aside.merged (aside_sendMsg s g vc m)
@[simp] theorem sendMsg_netNext (s : State) (g vc : Nat) (m : List Byte) : (sendMsg s g vc m).netNext = s.netNext := congrArg Aside.netNext (aside_sendMsg s g vc m)
@[simp] theorem sendMsg_mgmtStall (s : State) (g vc : Nat) (m : List Byte) : (sendMsg s g vc m).mgmtStall = s.mgmtStall := congrArg Aside.mgmtStall (aside_sendMsg s g vc m)
@[simp] theorem sendMsg_ports (s : State) (g vc : Nat) (m : List Byte) : (sendMsg s g vc m).ports = s.ports := congrArg Aside.ports (aside_sendMsg s g vc m)
@[simp] theorem sendMsg_funcs (s : State) (g vc : Nat) (m : List Byte) : (sendMsg s g vc m).funcs = s.funcs := congrArg Aside.funcs (aside_sendMsg s g vc m)
@[simp] theorem sendMsg_arrays (s : State) (g vc : Nat) (m : List Byte) : (sendMsg s g vc m).arrays = s.arrays := congrArg Aside.arrays (aside_sendMsg s g vc m)
@[simp] theorem sendMsg_vecs (s : State) (g vc : Nat) (m : List Byte) : (sendMsg s g vc m).vecs = s.vecs := congrArg Aside.vecs (aside_sendMsg s g vc m)
@[simp] theorem sendMsg_paths (s : State) (g vc : Nat) (m : List Byte) : (sendMsg s g vc m).paths = s.paths := congrArg Aside.paths (aside_sendMsg s g vc m)
@[simp] theorem sendMsg_feeders (s : State) (g vc : Nat) (m : List Byte) : (sendMsg s g vc m).feeders = s.feeders := congrArg Aside.feeders (aside_sendMsg s g vc m)
@[simp] theorem sendMsg_mem (s : State) (g vc : Nat) (m : List Byte) : (sendMsg s g vc m).mem = s.mem := congrArg Aside.mem (aside_sendMsg s g vc m)
@[simp] theorem sendMsg_cores (s : State) (g vc : Nat) (m : List Byte) : (sendMsg s g vc m).cores = s.cores := congrArg Aside.cores (aside_sendMsg s g vc m)
@[simp] theorem sendMsg_tths (s : State) (g vc : Nat) (m : List Byte) : (sendMsg s g vc m).tths = s.tths := congrArg Aside.tths (aside_sendMsg s g vc m)
@[simp] theorem sendMsg_iods (s : State) (g vc : Nat) (m : List Byte) : (sendMsg s g vc m).iods = s.iods := congrArg Aside.iods (aside_sendMsg s g vc m)
@[simp] theorem sendMsg_smPtr (s : State) (g vc : Nat) (m : List Byte) : (sendMsg s g vc m).smPtr = s.smPtr := congrArg Aside.smPtr (aside_sendMsg s g vc m)
@[simp] theorem sendMsg_smLatch (s : State) (g vc : Nat) (m : List Byte) : (sendMsg s g vc m).smLatch = s.smLatch := congrArg Aside.smLatch (aside_sendMsg s g vc m)
@[simp] theorem sendMsg_taps (s : State) (g vc : Nat) (m : List Byte) : (sendMsg s g vc m).taps = s.taps := congrArg Aside.taps (aside_sendMsg s g vc m)
@[simp] theorem sendMsg_testEn (s : State) (g vc : Nat) (m : List Byte) : (sendMsg s g vc m).testEn = s.testEn := congrArg Aside.testEn (aside_sendMsg s g vc m)
@[simp] theorem sendMsg_decoders (s : State) (g vc : Nat) (m : List Byte) : (sendMsg s g vc m).decoders = s.decoders := congrArg Aside.decoders (aside_sendMsg s g vc m)
@[simp] theorem sendMsg_school (s : State) (g vc : Nat) (m : List Byte) : (sendMsg s g vc m).school = s.school := congrArg Aside.school (aside_sendMsg s g vc m)
@[simp] theorem sendMsg_boot (s : State) (g vc : Nat) (m : List Byte) : (sendMsg s g vc m).boot = s.boot := congrArg Aside.boot (aside_sendMsg s g vc m)
@[simp] theorem sendMsg_grooms (s : State) (g vc : Nat) (m : List Byte) : (sendMsg s g vc m).grooms = s.grooms := congrArg Aside.grooms (aside_sendMsg s g vc m)
@[simp] theorem sendMsg_grm (s : State) (g vc : Nat) (m : List Byte) : (sendMsg s g vc m).grm = s.grm := congrArg Aside.grm (aside_sendMsg s g vc m)
@[simp] theorem sendMsg_power (s : State) (g vc : Nat) (m : List Byte) : (sendMsg s g vc m).power = s.power := congrArg Aside.power (aside_sendMsg s g vc m)
@[simp] theorem sendMsg_flt (s : State) (g vc : Nat) (m : List Byte) : (sendMsg s g vc m).flt = s.flt := congrArg Aside.flt (aside_sendMsg s g vc m)

/-! ### takeMsg -/

@[simp] theorem takeMsg_pending (s : State) (g : Nat) (opc : Byte) : (takeMsg s g opc).pending = s.pending := congrArg Aside.pending (aside_takeMsg s g opc)
@[simp] theorem takeMsg_now (s : State) (g : Nat) (opc : Byte) : (takeMsg s g opc).now = s.now := congrArg Aside.now (aside_takeMsg s g opc)
@[simp] theorem takeMsg_free (s : State) (g : Nat) (opc : Byte) : (takeMsg s g opc).free = s.free := congrArg Aside.free (aside_takeMsg s g opc)
@[simp] theorem takeMsg_fuses (s : State) (g : Nat) (opc : Byte) : (takeMsg s g opc).fuses = s.fuses := congrArg Aside.fuses (aside_takeMsg s g opc)
@[simp] theorem takeMsg_fencing (s : State) (g : Nat) (opc : Byte) : (takeMsg s g opc).fencing = s.fencing := congrArg Aside.fencing (aside_takeMsg s g opc)
@[simp] theorem takeMsg_air (s : State) (g : Nat) (opc : Byte) : (takeMsg s g opc).air = s.air := congrArg Aside.air (aside_takeMsg s g opc)
@[simp] theorem takeMsg_clusters (s : State) (g : Nat) (opc : Byte) : (takeMsg s g opc).clusters = s.clusters := congrArg Aside.clusters (aside_takeMsg s g opc)
@[simp] theorem takeMsg_loader (s : State) (g : Nat) (opc : Byte) : (takeMsg s g opc).loader = s.loader := congrArg Aside.loader (aside_takeMsg s g opc)
@[simp] theorem takeMsg_accepted (s : State) (g : Nat) (opc : Byte) : (takeMsg s g opc).accepted = s.accepted := congrArg Aside.accepted (aside_takeMsg s g opc)
@[simp] theorem takeMsg_hns (s : State) (g : Nat) (opc : Byte) : (takeMsg s g opc).hns = s.hns := congrArg Aside.hns (aside_takeMsg s g opc)
@[simp] theorem takeMsg_merged (s : State) (g : Nat) (opc : Byte) : (takeMsg s g opc).merged = s.merged := congrArg Aside.merged (aside_takeMsg s g opc)
@[simp] theorem takeMsg_netNext (s : State) (g : Nat) (opc : Byte) : (takeMsg s g opc).netNext = s.netNext := congrArg Aside.netNext (aside_takeMsg s g opc)
@[simp] theorem takeMsg_mgmtStall (s : State) (g : Nat) (opc : Byte) : (takeMsg s g opc).mgmtStall = s.mgmtStall := congrArg Aside.mgmtStall (aside_takeMsg s g opc)
@[simp] theorem takeMsg_ports (s : State) (g : Nat) (opc : Byte) : (takeMsg s g opc).ports = s.ports := congrArg Aside.ports (aside_takeMsg s g opc)
@[simp] theorem takeMsg_funcs (s : State) (g : Nat) (opc : Byte) : (takeMsg s g opc).funcs = s.funcs := congrArg Aside.funcs (aside_takeMsg s g opc)
@[simp] theorem takeMsg_arrays (s : State) (g : Nat) (opc : Byte) : (takeMsg s g opc).arrays = s.arrays := congrArg Aside.arrays (aside_takeMsg s g opc)
@[simp] theorem takeMsg_vecs (s : State) (g : Nat) (opc : Byte) : (takeMsg s g opc).vecs = s.vecs := congrArg Aside.vecs (aside_takeMsg s g opc)
@[simp] theorem takeMsg_paths (s : State) (g : Nat) (opc : Byte) : (takeMsg s g opc).paths = s.paths := congrArg Aside.paths (aside_takeMsg s g opc)
@[simp] theorem takeMsg_feeders (s : State) (g : Nat) (opc : Byte) : (takeMsg s g opc).feeders = s.feeders := congrArg Aside.feeders (aside_takeMsg s g opc)
@[simp] theorem takeMsg_mem (s : State) (g : Nat) (opc : Byte) : (takeMsg s g opc).mem = s.mem := congrArg Aside.mem (aside_takeMsg s g opc)
@[simp] theorem takeMsg_cores (s : State) (g : Nat) (opc : Byte) : (takeMsg s g opc).cores = s.cores := congrArg Aside.cores (aside_takeMsg s g opc)
@[simp] theorem takeMsg_tths (s : State) (g : Nat) (opc : Byte) : (takeMsg s g opc).tths = s.tths := congrArg Aside.tths (aside_takeMsg s g opc)
@[simp] theorem takeMsg_iods (s : State) (g : Nat) (opc : Byte) : (takeMsg s g opc).iods = s.iods := congrArg Aside.iods (aside_takeMsg s g opc)
@[simp] theorem takeMsg_smPtr (s : State) (g : Nat) (opc : Byte) : (takeMsg s g opc).smPtr = s.smPtr := congrArg Aside.smPtr (aside_takeMsg s g opc)
@[simp] theorem takeMsg_smLatch (s : State) (g : Nat) (opc : Byte) : (takeMsg s g opc).smLatch = s.smLatch := congrArg Aside.smLatch (aside_takeMsg s g opc)
@[simp] theorem takeMsg_taps (s : State) (g : Nat) (opc : Byte) : (takeMsg s g opc).taps = s.taps := congrArg Aside.taps (aside_takeMsg s g opc)
@[simp] theorem takeMsg_testEn (s : State) (g : Nat) (opc : Byte) : (takeMsg s g opc).testEn = s.testEn := congrArg Aside.testEn (aside_takeMsg s g opc)
@[simp] theorem takeMsg_decoders (s : State) (g : Nat) (opc : Byte) : (takeMsg s g opc).decoders = s.decoders := congrArg Aside.decoders (aside_takeMsg s g opc)
@[simp] theorem takeMsg_school (s : State) (g : Nat) (opc : Byte) : (takeMsg s g opc).school = s.school := congrArg Aside.school (aside_takeMsg s g opc)
@[simp] theorem takeMsg_boot (s : State) (g : Nat) (opc : Byte) : (takeMsg s g opc).boot = s.boot := congrArg Aside.boot (aside_takeMsg s g opc)
@[simp] theorem takeMsg_grooms (s : State) (g : Nat) (opc : Byte) : (takeMsg s g opc).grooms = s.grooms := congrArg Aside.grooms (aside_takeMsg s g opc)
@[simp] theorem takeMsg_grm (s : State) (g : Nat) (opc : Byte) : (takeMsg s g opc).grm = s.grm := congrArg Aside.grm (aside_takeMsg s g opc)
@[simp] theorem takeMsg_power (s : State) (g : Nat) (opc : Byte) : (takeMsg s g opc).power = s.power := congrArg Aside.power (aside_takeMsg s g opc)
@[simp] theorem takeMsg_flt (s : State) (g : Nat) (opc : Byte) : (takeMsg s g opc).flt = s.flt := congrArg Aside.flt (aside_takeMsg s g opc)
@[simp] theorem takeMsg_trail_entries (s : State) (g : Nat) (opc : Byte) : (takeMsg s g opc).trail.entries = s.trail.entries := (congrArg (fun x => (Aside.trail x).entries) (aside_takeMsg s g opc) :)
@[simp] theorem takeMsg_trail_wr (s : State) (g : Nat) (opc : Byte) : (takeMsg s g opc).trail.wr = s.trail.wr := (congrArg (fun x => (Aside.trail x).wr) (aside_takeMsg s g opc) :)
@[simp] theorem takeMsg_trail_frz (s : State) (g : Nat) (opc : Byte) : (takeMsg s g opc).trail.frz = s.trail.frz := (congrArg (fun x => (Aside.trail x).frz) (aside_takeMsg s g opc) :)
@[simp] theorem takeMsg_trail_post (s : State) (g : Nat) (opc : Byte) : (takeMsg s g opc).trail.post = s.trail.post := (congrArg (fun x => (Aside.trail x).post) (aside_takeMsg s g opc) :)
@[simp] theorem takeMsg_trail_mask (s : State) (g : Nat) (opc : Byte) : (takeMsg s g opc).trail.mask = s.trail.mask := (congrArg (fun x => (Aside.trail x).mask) (aside_takeMsg s g opc) :)
@[simp] theorem takeMsg_trail_frozen (s : State) (g : Nat) (opc : Byte) : (takeMsg s g opc).trail.frozen = s.trail.frozen := (congrArg (fun x => (Aside.trail x).frozen) (aside_takeMsg s g opc) :)
@[simp] theorem takeMsg_trail_stopped (s : State) (g : Nat) (opc : Byte) : (takeMsg s g opc).trail.stopped = s.trail.stopped := (congrArg (fun x => (Aside.trail x).stopped) (aside_takeMsg s g opc) :)
@[simp] theorem takeMsg_trail_ueSeen (s : State) (g : Nat) (opc : Byte) : (takeMsg s g opc).trail.ueSeen = s.trail.ueSeen := (congrArg (fun x => (Aside.trail x).ueSeen) (aside_takeMsg s g opc) :)
@[simp] theorem takeMsg_trail_postLeft (s : State) (g : Nat) (opc : Byte) : (takeMsg s g opc).trail.postLeft = s.trail.postLeft := (congrArg (fun x => (Aside.trail x).postLeft) (aside_takeMsg s g opc) :)
@[simp] theorem takeMsg_trail_page2 (s : State) (g : Nat) (opc : Byte) : (takeMsg s g opc).trail.page2 = s.trail.page2 := (congrArg (fun x => (Aside.trail x).page2) (aside_takeMsg s g opc) :)
@[simp] theorem takeMsg_trail_page3 (s : State) (g : Nat) (opc : Byte) : (takeMsg s g opc).trail.page3 = s.trail.page3 := (congrArg (fun x => (Aside.trail x).page3) (aside_takeMsg s g opc) :)
@[simp] theorem takeMsg_trail_valid (s : State) (g : Nat) (opc : Byte) : (takeMsg s g opc).trail.valid = s.trail.valid := (congrArg (fun x => (Aside.trail x).valid) (aside_takeMsg s g opc) :)
@[simp] theorem takeMsg_trail_failedPage (s : State) (g : Nat) (opc : Byte) : (takeMsg s g opc).trail.failedPage = s.trail.failedPage := (congrArg (fun x => (Aside.trail x).failedPage) (aside_takeMsg s g opc) :)
@[simp] theorem takeMsg_trail_lastSeq (s : State) (g : Nat) (opc : Byte) : (takeMsg s g opc).trail.lastSeq = s.trail.lastSeq := (congrArg (fun x => (Aside.trail x).lastSeq) (aside_takeMsg s g opc) :)
@[simp] theorem takeMsg_trail_writing (s : State) (g : Nat) (opc : Byte) : (takeMsg s g opc).trail.writing = s.trail.writing := (congrArg (fun x => (Aside.trail x).writing) (aside_takeMsg s g opc) :)
@[simp] theorem takeMsg_trail_second (s : State) (g : Nat) (opc : Byte) : (takeMsg s g opc).trail.second = s.trail.second := (congrArg (fun x => (Aside.trail x).second) (aside_takeMsg s g opc) :)
@[simp] theorem takeMsg_trail_coldSeq (s : State) (g : Nat) (opc : Byte) : (takeMsg s g opc).trail.coldSeq = s.trail.coldSeq := (congrArg (fun x => (Aside.trail x).coldSeq) (aside_takeMsg s g opc) :)
@[simp] theorem takeMsg_trail_cursor (s : State) (g : Nat) (opc : Byte) : (takeMsg s g opc).trail.cursor = s.trail.cursor := (congrArg (fun x => (Aside.trail x).cursor) (aside_takeMsg s g opc) :)
@[simp] theorem takeMsg_trail_index (s : State) (g : Nat) (opc : Byte) : (takeMsg s g opc).trail.index = s.trail.index := (congrArg (fun x => (Aside.trail x).index) (aside_takeMsg s g opc) :)
@[simp] theorem takeMsg_trail_pageWrites (s : State) (g : Nat) (opc : Byte) : (takeMsg s g opc).trail.pageWrites = s.trail.pageWrites := (congrArg (fun x => (Aside.trail x).pageWrites) (aside_takeMsg s g opc) :)
@[simp] theorem takeMsg_girth_state (s : State) (g : Nat) (opc : Byte) (k : Nat) : (getGirth (takeMsg s g opc) k).state = (getGirth s k).state := (congrArg Girth.state (aside_girth (congrArg Aside.girth (aside_takeMsg s g opc)) k) :)
@[simp] theorem takeMsg_girth_phase (s : State) (g : Nat) (opc : Byte) (k : Nat) : (getGirth (takeMsg s g opc) k).phase = (getGirth s k).phase := (congrArg Girth.phase (aside_girth (congrArg Aside.girth (aside_takeMsg s g opc)) k) :)
@[simp] theorem takeMsg_girth_full (s : State) (g : Nat) (opc : Byte) (k : Nat) : (getGirth (takeMsg s g opc) k).full = (getGirth s k).full := (congrArg Girth.full (aside_girth (congrArg Aside.girth (aside_takeMsg s g opc)) k) :)
@[simp] theorem takeMsg_girth_faulty (s : State) (g : Nat) (opc : Byte) (k : Nat) : (getGirth (takeMsg s g opc) k).faulty = (getGirth s k).faulty := (congrArg Girth.faulty (aside_girth (congrArg Aside.girth (aside_takeMsg s g opc)) k) :)
@[simp] theorem takeMsg_girth_txScr (s : State) (g : Nat) (opc : Byte) (k : Nat) : (getGirth (takeMsg s g opc) k).txScr = (getGirth s k).txScr := (congrArg Girth.txScr (aside_girth (congrArg Aside.girth (aside_takeMsg s g opc)) k) :)
@[simp] theorem takeMsg_girth_rxScr (s : State) (g : Nat) (opc : Byte) (k : Nat) : (getGirth (takeMsg s g opc) k).rxScr = (getGirth s k).rxScr := (congrArg Girth.rxScr (aside_girth (congrArg Aside.girth (aside_takeMsg s g opc)) k) :)
@[simp] theorem takeMsg_girth_lat (s : State) (g : Nat) (opc : Byte) (k : Nat) : (getGirth (takeMsg s g opc) k).lat = (getGirth s k).lat := (congrArg Girth.lat (aside_girth (congrArg Aside.girth (aside_takeMsg s g opc)) k) :)
@[simp] theorem takeMsg_girth_timLate (s : State) (g : Nat) (opc : Byte) (k : Nat) : (getGirth (takeMsg s g opc) k).timLate = (getGirth s k).timLate := (congrArg Girth.timLate (aside_girth (congrArg Aside.girth (aside_takeMsg s g opc)) k) :)
@[simp] theorem takeMsg_girth_failCause (s : State) (g : Nat) (opc : Byte) (k : Nat) : (getGirth (takeMsg s g opc) k).failCause = (getGirth s k).failCause := (congrArg Girth.failCause (aside_girth (congrArg Aside.girth (aside_takeMsg s g opc)) k) :)
@[simp] theorem takeMsg_girth_peer (s : State) (g : Nat) (opc : Byte) (k : Nat) : (getGirth (takeMsg s g opc) k).peer = (getGirth s k).peer := (congrArg Girth.peer (aside_girth (congrArg Aside.girth (aside_takeMsg s g opc)) k) :)
@[simp] theorem takeMsg_girth_txFlits (s : State) (g : Nat) (opc : Byte) (k : Nat) : (getGirth (takeMsg s g opc) k).txFlits = (getGirth s k).txFlits := (congrArg Girth.txFlits (aside_girth (congrArg Aside.girth (aside_takeMsg s g opc)) k) :)
@[simp] theorem takeMsg_girth_rxFlits (s : State) (g : Nat) (opc : Byte) (k : Nat) : (getGirth (takeMsg s g opc) k).rxFlits = (getGirth s k).rxFlits := (congrArg Girth.rxFlits (aside_girth (congrArg Aside.girth (aside_takeMsg s g opc)) k) :)
@[simp] theorem takeMsg_girth_crcErr (s : State) (g : Nat) (opc : Byte) (k : Nat) : (getGirth (takeMsg s g opc) k).crcErr = (getGirth s k).crcErr := (congrArg Girth.crcErr (aside_girth (congrArg Aside.girth (aside_takeMsg s g opc)) k) :)
@[simp] theorem takeMsg_girth_replay (s : State) (g : Nat) (opc : Byte) (k : Nat) : (getGirth (takeMsg s g opc) k).replay = (getGirth s k).replay := (congrArg Girth.replay (aside_girth (congrArg Aside.girth (aside_takeMsg s g opc)) k) :)
@[simp] theorem takeMsg_girth_dup (s : State) (g : Nat) (opc : Byte) (k : Nat) : (getGirth (takeMsg s g opc) k).dup = (getGirth s k).dup := (congrArg Girth.dup (aside_girth (congrArg Aside.girth (aside_takeMsg s g opc)) k) :)
@[simp] theorem takeMsg_girth_retrain (s : State) (g : Nat) (opc : Byte) (k : Nat) : (getGirth (takeMsg s g opc) k).retrain = (getGirth s k).retrain := (congrArg Girth.retrain (aside_girth (congrArg Aside.girth (aside_takeMsg s g opc)) k) :)
@[simp] theorem takeMsg_girth_timLateCnt (s : State) (g : Nat) (opc : Byte) (k : Nat) : (getGirth (takeMsg s g opc) k).timLateCnt = (getGirth s k).timLateCnt := (congrArg Girth.timLateCnt (aside_girth (congrArg Aside.girth (aside_takeMsg s g opc)) k) :)
@[simp] theorem takeMsg_girth_timeAdj (s : State) (g : Nat) (opc : Byte) (k : Nat) : (getGirth (takeMsg s g opc) k).timeAdj = (getGirth s k).timeAdj := (congrArg Girth.timeAdj (aside_girth (congrArg Aside.girth (aside_takeMsg s g opc)) k) :)
@[simp] theorem takeMsg_girth_hostDrop (s : State) (g : Nat) (opc : Byte) (k : Nat) : (getGirth (takeMsg s g opc) k).hostDrop = (getGirth s k).hostDrop := (congrArg Girth.hostDrop (aside_girth (congrArg Aside.girth (aside_takeMsg s g opc)) k) :)
@[simp] theorem takeMsg_girth_activeAt (s : State) (g : Nat) (opc : Byte) (k : Nat) : (getGirth (takeMsg s g opc) k).activeAt = (getGirth s k).activeAt := (congrArg Girth.activeAt (aside_girth (congrArg Aside.girth (aside_takeMsg s g opc)) k) :)
@[simp] theorem takeMsg_girth_spans (s : State) (g : Nat) (opc : Byte) (k : Nat) : (getGirth (takeMsg s g opc) k).spans = (getGirth s k).spans := (congrArg Girth.spans (aside_girth (congrArg Aside.girth (aside_takeMsg s g opc)) k) :)
@[simp] theorem takeMsg_girth_retrained (s : State) (g : Nat) (opc : Byte) (k : Nat) : (getGirth (takeMsg s g opc) k).retrained = (getGirth s k).retrained := (congrArg Girth.retrained (aside_girth (congrArg Aside.girth (aside_takeMsg s g opc)) k) :)
@[simp] theorem takeMsg_girth_timeSteps (s : State) (g : Nat) (opc : Byte) (k : Nat) : (getGirth (takeMsg s g opc) k).timeSteps = (getGirth s k).timeSteps := (congrArg Girth.timeSteps (aside_girth (congrArg Aside.girth (aside_takeMsg s g opc)) k) :)
@[simp] theorem takeMsg_girth_timeLoads (s : State) (g : Nat) (opc : Byte) (k : Nat) : (getGirth (takeMsg s g opc) k).timeLoads = (getGirth s k).timeLoads := (congrArg Girth.timeLoads (aside_girth (congrArg Aside.girth (aside_takeMsg s g opc)) k) :)
@[simp] theorem takeMsg_girth_timeDue (s : State) (g : Nat) (opc : Byte) (k : Nat) : (getGirth (takeMsg s g opc) k).timeDue = (getGirth s k).timeDue := (congrArg Girth.timeDue (aside_girth (congrArg Aside.girth (aside_takeMsg s g opc)) k) :)
@[simp] theorem takeMsg_girth_timeAt (s : State) (g : Nat) (opc : Byte) (k : Nat) : (getGirth (takeMsg s g opc) k).timeAt = (getGirth s k).timeAt := (congrArg Girth.timeAt (aside_girth (congrArg Aside.girth (aside_takeMsg s g opc)) k) :)
@[simp] theorem takeMsg_girth_failRun (s : State) (g : Nat) (opc : Byte) (k : Nat) : (getGirth (takeMsg s g opc) k).failRun = (getGirth s k).failRun := (congrArg Girth.failRun (aside_girth (congrArg Aside.girth (aside_takeMsg s g opc)) k) :)
@[simp] theorem takeMsg_girth_txSeq (s : State) (g : Nat) (opc : Byte) (k : Nat) : (getGirth (takeMsg s g opc) k).txSeq = (getGirth s k).txSeq := (congrArg Girth.txSeq (aside_girth (congrArg Aside.girth (aside_takeMsg s g opc)) k) :)
@[simp] theorem takeMsg_girth_rxSeq (s : State) (g : Nat) (opc : Byte) (k : Nat) : (getGirth (takeMsg s g opc) k).rxSeq = (getGirth s k).rxSeq := (congrArg Girth.rxSeq (aside_girth (congrArg Aside.girth (aside_takeMsg s g opc)) k) :)
@[simp] theorem takeMsg_girth_ackValid (s : State) (g : Nat) (opc : Byte) (k : Nat) : (getGirth (takeMsg s g opc) k).ackValid = (getGirth s k).ackValid := (congrArg Girth.ackValid (aside_girth (congrArg Aside.girth (aside_takeMsg s g opc)) k) :)
@[simp] theorem takeMsg_girth_acked (s : State) (g : Nat) (opc : Byte) (k : Nat) : (getGirth (takeMsg s g opc) k).acked = (getGirth s k).acked := (congrArg Girth.acked (aside_girth (congrArg Aside.girth (aside_takeMsg s g opc)) k) :)
@[simp] theorem takeMsg_girth_buf (s : State) (g : Nat) (opc : Byte) (k : Nat) : (getGirth (takeMsg s g opc) k).buf = (getGirth s k).buf := (congrArg Girth.buf (aside_girth (congrArg Aside.girth (aside_takeMsg s g opc)) k) :)
@[simp] theorem takeMsg_girth_resend (s : State) (g : Nat) (opc : Byte) (k : Nat) : (getGirth (takeMsg s g opc) k).resend = (getGirth s k).resend := (congrArg Girth.resend (aside_girth (congrArg Aside.girth (aside_takeMsg s g opc)) k) :)
@[simp] theorem takeMsg_girth_nakAt (s : State) (g : Nat) (opc : Byte) (k : Nat) : (getGirth (takeMsg s g opc) k).nakAt = (getGirth s k).nakAt := (congrArg Girth.nakAt (aside_girth (congrArg Aside.girth (aside_takeMsg s g opc)) k) :)
@[simp] theorem takeMsg_girth_nakDue (s : State) (g : Nat) (opc : Byte) (k : Nat) : (getGirth (takeMsg s g opc) k).nakDue = (getGirth s k).nakDue := (congrArg Girth.nakDue (aside_girth (congrArg Aside.girth (aside_takeMsg s g opc)) k) :)
@[simp] theorem takeMsg_girth_ackAt (s : State) (g : Nat) (opc : Byte) (k : Nat) : (getGirth (takeMsg s g opc) k).ackAt = (getGirth s k).ackAt := (congrArg Girth.ackAt (aside_girth (congrArg Aside.girth (aside_takeMsg s g opc)) k) :)
@[simp] theorem takeMsg_girth_crcTimes (s : State) (g : Nat) (opc : Byte) (k : Nat) : (getGirth (takeMsg s g opc) k).crcTimes = (getGirth s k).crcTimes := (congrArg Girth.crcTimes (aside_girth (congrArg Aside.girth (aside_takeMsg s g opc)) k) :)
@[simp] theorem takeMsg_girth_used (s : State) (g : Nat) (opc : Byte) (k : Nat) : (getGirth (takeMsg s g opc) k).used = (getGirth s k).used := (congrArg Girth.used (aside_girth (congrArg Aside.girth (aside_takeMsg s g opc)) k) :)
@[simp] theorem takeMsg_girth_limit (s : State) (g : Nat) (opc : Byte) (k : Nat) : (getGirth (takeMsg s g opc) k).limit = (getGirth s k).limit := (congrArg Girth.limit (aside_girth (congrArg Aside.girth (aside_takeMsg s g opc)) k) :)
@[simp] theorem takeMsg_girth_rr (s : State) (g : Nat) (opc : Byte) (k : Nat) : (getGirth (takeMsg s g opc) k).rr = (getGirth s k).rr := (congrArg Girth.rr (aside_girth (congrArg Aside.girth (aside_takeMsg s g opc)) k) :)
@[simp] theorem takeMsg_girth_credRot (s : State) (g : Nat) (opc : Byte) (k : Nat) : (getGirth (takeMsg s g opc) k).credRot = (getGirth s k).credRot := (congrArg Girth.credRot (aside_girth (congrArg Aside.girth (aside_takeMsg s g opc)) k) :)
@[simp] theorem takeMsg_girth_ctrlQ (s : State) (g : Nat) (opc : Byte) (k : Nat) : (getGirth (takeMsg s g opc) k).ctrlQ = (getGirth s k).ctrlQ := (congrArg Girth.ctrlQ (aside_girth (congrArg Aside.girth (aside_takeMsg s g opc)) k) :)
@[simp] theorem takeMsg_girth_reqs (s : State) (g : Nat) (opc : Byte) (k : Nat) : (getGirth (takeMsg s g opc) k).reqs = (getGirth s k).reqs := (congrArg Girth.reqs (aside_girth (congrArg Aside.girth (aside_takeMsg s g opc)) k) :)
@[simp] theorem takeMsg_girth_reqWait (s : State) (g : Nat) (opc : Byte) (k : Nat) : (getGirth (takeMsg s g opc) k).reqWait = (getGirth s k).reqWait := (congrArg Girth.reqWait (aside_girth (congrArg Aside.girth (aside_takeMsg s g opc)) k) :)
@[simp] theorem takeMsg_girth_held (s : State) (g : Nat) (opc : Byte) (k : Nat) : (getGirth (takeMsg s g opc) k).held = (getGirth s k).held := (congrArg Girth.held (aside_girth (congrArg Aside.girth (aside_takeMsg s g opc)) k) :)
@[simp] theorem takeMsg_girth_nextTag (s : State) (g : Nat) (opc : Byte) (k : Nat) : (getGirth (takeMsg s g opc) k).nextTag = (getGirth s k).nextTag := (congrArg Girth.nextTag (aside_girth (congrArg Aside.girth (aside_takeMsg s g opc)) k) :)

/-! ### emit -/

@[simp] theorem emit_pending (s : State) (o : Out) : (emit s o).pending = s.pending := congrArg Aside.pending (aside_emit s o)
@[simp] theorem emit_now (s : State) (o : Out) : (emit s o).now = s.now := congrArg Aside.now (aside_emit s o)
@[simp] theorem emit_free (s : State) (o : Out) : (emit s o).free = s.free := congrArg Aside.free (aside_emit s o)
@[simp] theorem emit_fuses (s : State) (o : Out) : (emit s o).fuses = s.fuses := congrArg Aside.fuses (aside_emit s o)
@[simp] theorem emit_fencing (s : State) (o : Out) : (emit s o).fencing = s.fencing := congrArg Aside.fencing (aside_emit s o)
@[simp] theorem emit_air (s : State) (o : Out) : (emit s o).air = s.air := congrArg Aside.air (aside_emit s o)
@[simp] theorem emit_clusters (s : State) (o : Out) : (emit s o).clusters = s.clusters := congrArg Aside.clusters (aside_emit s o)
@[simp] theorem emit_loader (s : State) (o : Out) : (emit s o).loader = s.loader := congrArg Aside.loader (aside_emit s o)
@[simp] theorem emit_accepted (s : State) (o : Out) : (emit s o).accepted = s.accepted := congrArg Aside.accepted (aside_emit s o)
@[simp] theorem emit_hns (s : State) (o : Out) : (emit s o).hns = s.hns := congrArg Aside.hns (aside_emit s o)
@[simp] theorem emit_merged (s : State) (o : Out) : (emit s o).merged = s.merged := congrArg Aside.merged (aside_emit s o)
@[simp] theorem emit_netNext (s : State) (o : Out) : (emit s o).netNext = s.netNext := congrArg Aside.netNext (aside_emit s o)
@[simp] theorem emit_mgmtStall (s : State) (o : Out) : (emit s o).mgmtStall = s.mgmtStall := congrArg Aside.mgmtStall (aside_emit s o)
@[simp] theorem emit_ports (s : State) (o : Out) : (emit s o).ports = s.ports := congrArg Aside.ports (aside_emit s o)
@[simp] theorem emit_funcs (s : State) (o : Out) : (emit s o).funcs = s.funcs := congrArg Aside.funcs (aside_emit s o)
@[simp] theorem emit_arrays (s : State) (o : Out) : (emit s o).arrays = s.arrays := congrArg Aside.arrays (aside_emit s o)
@[simp] theorem emit_vecs (s : State) (o : Out) : (emit s o).vecs = s.vecs := congrArg Aside.vecs (aside_emit s o)
@[simp] theorem emit_paths (s : State) (o : Out) : (emit s o).paths = s.paths := congrArg Aside.paths (aside_emit s o)
@[simp] theorem emit_feeders (s : State) (o : Out) : (emit s o).feeders = s.feeders := congrArg Aside.feeders (aside_emit s o)
@[simp] theorem emit_mem (s : State) (o : Out) : (emit s o).mem = s.mem := congrArg Aside.mem (aside_emit s o)
@[simp] theorem emit_cores (s : State) (o : Out) : (emit s o).cores = s.cores := congrArg Aside.cores (aside_emit s o)
@[simp] theorem emit_tths (s : State) (o : Out) : (emit s o).tths = s.tths := congrArg Aside.tths (aside_emit s o)
@[simp] theorem emit_iods (s : State) (o : Out) : (emit s o).iods = s.iods := congrArg Aside.iods (aside_emit s o)
@[simp] theorem emit_smPtr (s : State) (o : Out) : (emit s o).smPtr = s.smPtr := congrArg Aside.smPtr (aside_emit s o)
@[simp] theorem emit_smLatch (s : State) (o : Out) : (emit s o).smLatch = s.smLatch := congrArg Aside.smLatch (aside_emit s o)
@[simp] theorem emit_taps (s : State) (o : Out) : (emit s o).taps = s.taps := congrArg Aside.taps (aside_emit s o)
@[simp] theorem emit_testEn (s : State) (o : Out) : (emit s o).testEn = s.testEn := congrArg Aside.testEn (aside_emit s o)
@[simp] theorem emit_decoders (s : State) (o : Out) : (emit s o).decoders = s.decoders := congrArg Aside.decoders (aside_emit s o)
@[simp] theorem emit_school (s : State) (o : Out) : (emit s o).school = s.school := congrArg Aside.school (aside_emit s o)
@[simp] theorem emit_boot (s : State) (o : Out) : (emit s o).boot = s.boot := congrArg Aside.boot (aside_emit s o)
@[simp] theorem emit_grooms (s : State) (o : Out) : (emit s o).grooms = s.grooms := congrArg Aside.grooms (aside_emit s o)
@[simp] theorem emit_grm (s : State) (o : Out) : (emit s o).grm = s.grm := congrArg Aside.grm (aside_emit s o)
@[simp] theorem emit_power (s : State) (o : Out) : (emit s o).power = s.power := congrArg Aside.power (aside_emit s o)
@[simp] theorem emit_flt (s : State) (o : Out) : (emit s o).flt = s.flt := congrArg Aside.flt (aside_emit s o)
@[simp] theorem emit_trail_entries (s : State) (o : Out) : (emit s o).trail.entries = s.trail.entries := (congrArg (fun x => (Aside.trail x).entries) (aside_emit s o) :)
@[simp] theorem emit_trail_wr (s : State) (o : Out) : (emit s o).trail.wr = s.trail.wr := (congrArg (fun x => (Aside.trail x).wr) (aside_emit s o) :)
@[simp] theorem emit_trail_frz (s : State) (o : Out) : (emit s o).trail.frz = s.trail.frz := (congrArg (fun x => (Aside.trail x).frz) (aside_emit s o) :)
@[simp] theorem emit_trail_post (s : State) (o : Out) : (emit s o).trail.post = s.trail.post := (congrArg (fun x => (Aside.trail x).post) (aside_emit s o) :)
@[simp] theorem emit_trail_mask (s : State) (o : Out) : (emit s o).trail.mask = s.trail.mask := (congrArg (fun x => (Aside.trail x).mask) (aside_emit s o) :)
@[simp] theorem emit_trail_frozen (s : State) (o : Out) : (emit s o).trail.frozen = s.trail.frozen := (congrArg (fun x => (Aside.trail x).frozen) (aside_emit s o) :)
@[simp] theorem emit_trail_stopped (s : State) (o : Out) : (emit s o).trail.stopped = s.trail.stopped := (congrArg (fun x => (Aside.trail x).stopped) (aside_emit s o) :)
@[simp] theorem emit_trail_ueSeen (s : State) (o : Out) : (emit s o).trail.ueSeen = s.trail.ueSeen := (congrArg (fun x => (Aside.trail x).ueSeen) (aside_emit s o) :)
@[simp] theorem emit_trail_postLeft (s : State) (o : Out) : (emit s o).trail.postLeft = s.trail.postLeft := (congrArg (fun x => (Aside.trail x).postLeft) (aside_emit s o) :)
@[simp] theorem emit_trail_page2 (s : State) (o : Out) : (emit s o).trail.page2 = s.trail.page2 := (congrArg (fun x => (Aside.trail x).page2) (aside_emit s o) :)
@[simp] theorem emit_trail_page3 (s : State) (o : Out) : (emit s o).trail.page3 = s.trail.page3 := (congrArg (fun x => (Aside.trail x).page3) (aside_emit s o) :)
@[simp] theorem emit_trail_valid (s : State) (o : Out) : (emit s o).trail.valid = s.trail.valid := (congrArg (fun x => (Aside.trail x).valid) (aside_emit s o) :)
@[simp] theorem emit_trail_failedPage (s : State) (o : Out) : (emit s o).trail.failedPage = s.trail.failedPage := (congrArg (fun x => (Aside.trail x).failedPage) (aside_emit s o) :)
@[simp] theorem emit_trail_lastSeq (s : State) (o : Out) : (emit s o).trail.lastSeq = s.trail.lastSeq := (congrArg (fun x => (Aside.trail x).lastSeq) (aside_emit s o) :)
@[simp] theorem emit_trail_writing (s : State) (o : Out) : (emit s o).trail.writing = s.trail.writing := (congrArg (fun x => (Aside.trail x).writing) (aside_emit s o) :)
@[simp] theorem emit_trail_second (s : State) (o : Out) : (emit s o).trail.second = s.trail.second := (congrArg (fun x => (Aside.trail x).second) (aside_emit s o) :)
@[simp] theorem emit_trail_coldSeq (s : State) (o : Out) : (emit s o).trail.coldSeq = s.trail.coldSeq := (congrArg (fun x => (Aside.trail x).coldSeq) (aside_emit s o) :)
@[simp] theorem emit_trail_cursor (s : State) (o : Out) : (emit s o).trail.cursor = s.trail.cursor := (congrArg (fun x => (Aside.trail x).cursor) (aside_emit s o) :)
@[simp] theorem emit_trail_index (s : State) (o : Out) : (emit s o).trail.index = s.trail.index := (congrArg (fun x => (Aside.trail x).index) (aside_emit s o) :)
@[simp] theorem emit_trail_pageWrites (s : State) (o : Out) : (emit s o).trail.pageWrites = s.trail.pageWrites := (congrArg (fun x => (Aside.trail x).pageWrites) (aside_emit s o) :)
@[simp] theorem emit_girth_state (s : State) (o : Out) (k : Nat) : (getGirth (emit s o) k).state = (getGirth s k).state := (congrArg Girth.state (aside_girth (congrArg Aside.girth (aside_emit s o)) k) :)
@[simp] theorem emit_girth_phase (s : State) (o : Out) (k : Nat) : (getGirth (emit s o) k).phase = (getGirth s k).phase := (congrArg Girth.phase (aside_girth (congrArg Aside.girth (aside_emit s o)) k) :)
@[simp] theorem emit_girth_full (s : State) (o : Out) (k : Nat) : (getGirth (emit s o) k).full = (getGirth s k).full := (congrArg Girth.full (aside_girth (congrArg Aside.girth (aside_emit s o)) k) :)
@[simp] theorem emit_girth_faulty (s : State) (o : Out) (k : Nat) : (getGirth (emit s o) k).faulty = (getGirth s k).faulty := (congrArg Girth.faulty (aside_girth (congrArg Aside.girth (aside_emit s o)) k) :)
@[simp] theorem emit_girth_txScr (s : State) (o : Out) (k : Nat) : (getGirth (emit s o) k).txScr = (getGirth s k).txScr := (congrArg Girth.txScr (aside_girth (congrArg Aside.girth (aside_emit s o)) k) :)
@[simp] theorem emit_girth_rxScr (s : State) (o : Out) (k : Nat) : (getGirth (emit s o) k).rxScr = (getGirth s k).rxScr := (congrArg Girth.rxScr (aside_girth (congrArg Aside.girth (aside_emit s o)) k) :)
@[simp] theorem emit_girth_lat (s : State) (o : Out) (k : Nat) : (getGirth (emit s o) k).lat = (getGirth s k).lat := (congrArg Girth.lat (aside_girth (congrArg Aside.girth (aside_emit s o)) k) :)
@[simp] theorem emit_girth_timLate (s : State) (o : Out) (k : Nat) : (getGirth (emit s o) k).timLate = (getGirth s k).timLate := (congrArg Girth.timLate (aside_girth (congrArg Aside.girth (aside_emit s o)) k) :)
@[simp] theorem emit_girth_failCause (s : State) (o : Out) (k : Nat) : (getGirth (emit s o) k).failCause = (getGirth s k).failCause := (congrArg Girth.failCause (aside_girth (congrArg Aside.girth (aside_emit s o)) k) :)
@[simp] theorem emit_girth_peer (s : State) (o : Out) (k : Nat) : (getGirth (emit s o) k).peer = (getGirth s k).peer := (congrArg Girth.peer (aside_girth (congrArg Aside.girth (aside_emit s o)) k) :)
@[simp] theorem emit_girth_txFlits (s : State) (o : Out) (k : Nat) : (getGirth (emit s o) k).txFlits = (getGirth s k).txFlits := (congrArg Girth.txFlits (aside_girth (congrArg Aside.girth (aside_emit s o)) k) :)
@[simp] theorem emit_girth_rxFlits (s : State) (o : Out) (k : Nat) : (getGirth (emit s o) k).rxFlits = (getGirth s k).rxFlits := (congrArg Girth.rxFlits (aside_girth (congrArg Aside.girth (aside_emit s o)) k) :)
@[simp] theorem emit_girth_crcErr (s : State) (o : Out) (k : Nat) : (getGirth (emit s o) k).crcErr = (getGirth s k).crcErr := (congrArg Girth.crcErr (aside_girth (congrArg Aside.girth (aside_emit s o)) k) :)
@[simp] theorem emit_girth_replay (s : State) (o : Out) (k : Nat) : (getGirth (emit s o) k).replay = (getGirth s k).replay := (congrArg Girth.replay (aside_girth (congrArg Aside.girth (aside_emit s o)) k) :)
@[simp] theorem emit_girth_dup (s : State) (o : Out) (k : Nat) : (getGirth (emit s o) k).dup = (getGirth s k).dup := (congrArg Girth.dup (aside_girth (congrArg Aside.girth (aside_emit s o)) k) :)
@[simp] theorem emit_girth_retrain (s : State) (o : Out) (k : Nat) : (getGirth (emit s o) k).retrain = (getGirth s k).retrain := (congrArg Girth.retrain (aside_girth (congrArg Aside.girth (aside_emit s o)) k) :)
@[simp] theorem emit_girth_timLateCnt (s : State) (o : Out) (k : Nat) : (getGirth (emit s o) k).timLateCnt = (getGirth s k).timLateCnt := (congrArg Girth.timLateCnt (aside_girth (congrArg Aside.girth (aside_emit s o)) k) :)
@[simp] theorem emit_girth_timeAdj (s : State) (o : Out) (k : Nat) : (getGirth (emit s o) k).timeAdj = (getGirth s k).timeAdj := (congrArg Girth.timeAdj (aside_girth (congrArg Aside.girth (aside_emit s o)) k) :)
@[simp] theorem emit_girth_hostDrop (s : State) (o : Out) (k : Nat) : (getGirth (emit s o) k).hostDrop = (getGirth s k).hostDrop := (congrArg Girth.hostDrop (aside_girth (congrArg Aside.girth (aside_emit s o)) k) :)
@[simp] theorem emit_girth_activeAt (s : State) (o : Out) (k : Nat) : (getGirth (emit s o) k).activeAt = (getGirth s k).activeAt := (congrArg Girth.activeAt (aside_girth (congrArg Aside.girth (aside_emit s o)) k) :)
@[simp] theorem emit_girth_spans (s : State) (o : Out) (k : Nat) : (getGirth (emit s o) k).spans = (getGirth s k).spans := (congrArg Girth.spans (aside_girth (congrArg Aside.girth (aside_emit s o)) k) :)
@[simp] theorem emit_girth_retrained (s : State) (o : Out) (k : Nat) : (getGirth (emit s o) k).retrained = (getGirth s k).retrained := (congrArg Girth.retrained (aside_girth (congrArg Aside.girth (aside_emit s o)) k) :)
@[simp] theorem emit_girth_timeSteps (s : State) (o : Out) (k : Nat) : (getGirth (emit s o) k).timeSteps = (getGirth s k).timeSteps := (congrArg Girth.timeSteps (aside_girth (congrArg Aside.girth (aside_emit s o)) k) :)
@[simp] theorem emit_girth_timeLoads (s : State) (o : Out) (k : Nat) : (getGirth (emit s o) k).timeLoads = (getGirth s k).timeLoads := (congrArg Girth.timeLoads (aside_girth (congrArg Aside.girth (aside_emit s o)) k) :)
@[simp] theorem emit_girth_timeDue (s : State) (o : Out) (k : Nat) : (getGirth (emit s o) k).timeDue = (getGirth s k).timeDue := (congrArg Girth.timeDue (aside_girth (congrArg Aside.girth (aside_emit s o)) k) :)
@[simp] theorem emit_girth_timeAt (s : State) (o : Out) (k : Nat) : (getGirth (emit s o) k).timeAt = (getGirth s k).timeAt := (congrArg Girth.timeAt (aside_girth (congrArg Aside.girth (aside_emit s o)) k) :)
@[simp] theorem emit_girth_failRun (s : State) (o : Out) (k : Nat) : (getGirth (emit s o) k).failRun = (getGirth s k).failRun := (congrArg Girth.failRun (aside_girth (congrArg Aside.girth (aside_emit s o)) k) :)
@[simp] theorem emit_girth_txSeq (s : State) (o : Out) (k : Nat) : (getGirth (emit s o) k).txSeq = (getGirth s k).txSeq := (congrArg Girth.txSeq (aside_girth (congrArg Aside.girth (aside_emit s o)) k) :)
@[simp] theorem emit_girth_rxSeq (s : State) (o : Out) (k : Nat) : (getGirth (emit s o) k).rxSeq = (getGirth s k).rxSeq := (congrArg Girth.rxSeq (aside_girth (congrArg Aside.girth (aside_emit s o)) k) :)
@[simp] theorem emit_girth_ackValid (s : State) (o : Out) (k : Nat) : (getGirth (emit s o) k).ackValid = (getGirth s k).ackValid := (congrArg Girth.ackValid (aside_girth (congrArg Aside.girth (aside_emit s o)) k) :)
@[simp] theorem emit_girth_acked (s : State) (o : Out) (k : Nat) : (getGirth (emit s o) k).acked = (getGirth s k).acked := (congrArg Girth.acked (aside_girth (congrArg Aside.girth (aside_emit s o)) k) :)
@[simp] theorem emit_girth_buf (s : State) (o : Out) (k : Nat) : (getGirth (emit s o) k).buf = (getGirth s k).buf := (congrArg Girth.buf (aside_girth (congrArg Aside.girth (aside_emit s o)) k) :)
@[simp] theorem emit_girth_resend (s : State) (o : Out) (k : Nat) : (getGirth (emit s o) k).resend = (getGirth s k).resend := (congrArg Girth.resend (aside_girth (congrArg Aside.girth (aside_emit s o)) k) :)
@[simp] theorem emit_girth_nakAt (s : State) (o : Out) (k : Nat) : (getGirth (emit s o) k).nakAt = (getGirth s k).nakAt := (congrArg Girth.nakAt (aside_girth (congrArg Aside.girth (aside_emit s o)) k) :)
@[simp] theorem emit_girth_nakDue (s : State) (o : Out) (k : Nat) : (getGirth (emit s o) k).nakDue = (getGirth s k).nakDue := (congrArg Girth.nakDue (aside_girth (congrArg Aside.girth (aside_emit s o)) k) :)
@[simp] theorem emit_girth_ackAt (s : State) (o : Out) (k : Nat) : (getGirth (emit s o) k).ackAt = (getGirth s k).ackAt := (congrArg Girth.ackAt (aside_girth (congrArg Aside.girth (aside_emit s o)) k) :)
@[simp] theorem emit_girth_crcTimes (s : State) (o : Out) (k : Nat) : (getGirth (emit s o) k).crcTimes = (getGirth s k).crcTimes := (congrArg Girth.crcTimes (aside_girth (congrArg Aside.girth (aside_emit s o)) k) :)
@[simp] theorem emit_girth_used (s : State) (o : Out) (k : Nat) : (getGirth (emit s o) k).used = (getGirth s k).used := (congrArg Girth.used (aside_girth (congrArg Aside.girth (aside_emit s o)) k) :)
@[simp] theorem emit_girth_limit (s : State) (o : Out) (k : Nat) : (getGirth (emit s o) k).limit = (getGirth s k).limit := (congrArg Girth.limit (aside_girth (congrArg Aside.girth (aside_emit s o)) k) :)
@[simp] theorem emit_girth_rr (s : State) (o : Out) (k : Nat) : (getGirth (emit s o) k).rr = (getGirth s k).rr := (congrArg Girth.rr (aside_girth (congrArg Aside.girth (aside_emit s o)) k) :)
@[simp] theorem emit_girth_credRot (s : State) (o : Out) (k : Nat) : (getGirth (emit s o) k).credRot = (getGirth s k).credRot := (congrArg Girth.credRot (aside_girth (congrArg Aside.girth (aside_emit s o)) k) :)
@[simp] theorem emit_girth_ctrlQ (s : State) (o : Out) (k : Nat) : (getGirth (emit s o) k).ctrlQ = (getGirth s k).ctrlQ := (congrArg Girth.ctrlQ (aside_girth (congrArg Aside.girth (aside_emit s o)) k) :)
@[simp] theorem emit_girth_reqs (s : State) (o : Out) (k : Nat) : (getGirth (emit s o) k).reqs = (getGirth s k).reqs := (congrArg Girth.reqs (aside_girth (congrArg Aside.girth (aside_emit s o)) k) :)
@[simp] theorem emit_girth_reqWait (s : State) (o : Out) (k : Nat) : (getGirth (emit s o) k).reqWait = (getGirth s k).reqWait := (congrArg Girth.reqWait (aside_girth (congrArg Aside.girth (aside_emit s o)) k) :)
@[simp] theorem emit_girth_held (s : State) (o : Out) (k : Nat) : (getGirth (emit s o) k).held = (getGirth s k).held := (congrArg Girth.held (aside_girth (congrArg Aside.girth (aside_emit s o)) k) :)
@[simp] theorem emit_girth_nextTag (s : State) (o : Out) (k : Nat) : (getGirth (emit s o) k).nextTag = (getGirth s k).nextTag := (congrArg Girth.nextTag (aside_girth (congrArg Aside.girth (aside_emit s o)) k) :)

/-! ### toHost -/

@[simp] theorem toHost_pending (s : State) (i : Nat) (o : Out) : (toHost s i o).pending = s.pending := congrArg Aside.pending (aside_toHost s i o)
@[simp] theorem toHost_now (s : State) (i : Nat) (o : Out) : (toHost s i o).now = s.now := congrArg Aside.now (aside_toHost s i o)
@[simp] theorem toHost_free (s : State) (i : Nat) (o : Out) : (toHost s i o).free = s.free := congrArg Aside.free (aside_toHost s i o)
@[simp] theorem toHost_fuses (s : State) (i : Nat) (o : Out) : (toHost s i o).fuses = s.fuses := congrArg Aside.fuses (aside_toHost s i o)
@[simp] theorem toHost_fencing (s : State) (i : Nat) (o : Out) : (toHost s i o).fencing = s.fencing := congrArg Aside.fencing (aside_toHost s i o)
@[simp] theorem toHost_air (s : State) (i : Nat) (o : Out) : (toHost s i o).air = s.air := congrArg Aside.air (aside_toHost s i o)
@[simp] theorem toHost_clusters (s : State) (i : Nat) (o : Out) : (toHost s i o).clusters = s.clusters := congrArg Aside.clusters (aside_toHost s i o)
@[simp] theorem toHost_loader (s : State) (i : Nat) (o : Out) : (toHost s i o).loader = s.loader := congrArg Aside.loader (aside_toHost s i o)
@[simp] theorem toHost_accepted (s : State) (i : Nat) (o : Out) : (toHost s i o).accepted = s.accepted := congrArg Aside.accepted (aside_toHost s i o)
@[simp] theorem toHost_hns (s : State) (i : Nat) (o : Out) : (toHost s i o).hns = s.hns := congrArg Aside.hns (aside_toHost s i o)
@[simp] theorem toHost_merged (s : State) (i : Nat) (o : Out) : (toHost s i o).merged = s.merged := congrArg Aside.merged (aside_toHost s i o)
@[simp] theorem toHost_netNext (s : State) (i : Nat) (o : Out) : (toHost s i o).netNext = s.netNext := congrArg Aside.netNext (aside_toHost s i o)
@[simp] theorem toHost_mgmtStall (s : State) (i : Nat) (o : Out) : (toHost s i o).mgmtStall = s.mgmtStall := congrArg Aside.mgmtStall (aside_toHost s i o)
@[simp] theorem toHost_ports (s : State) (i : Nat) (o : Out) : (toHost s i o).ports = s.ports := congrArg Aside.ports (aside_toHost s i o)
@[simp] theorem toHost_funcs (s : State) (i : Nat) (o : Out) : (toHost s i o).funcs = s.funcs := congrArg Aside.funcs (aside_toHost s i o)
@[simp] theorem toHost_arrays (s : State) (i : Nat) (o : Out) : (toHost s i o).arrays = s.arrays := congrArg Aside.arrays (aside_toHost s i o)
@[simp] theorem toHost_vecs (s : State) (i : Nat) (o : Out) : (toHost s i o).vecs = s.vecs := congrArg Aside.vecs (aside_toHost s i o)
@[simp] theorem toHost_paths (s : State) (i : Nat) (o : Out) : (toHost s i o).paths = s.paths := congrArg Aside.paths (aside_toHost s i o)
@[simp] theorem toHost_feeders (s : State) (i : Nat) (o : Out) : (toHost s i o).feeders = s.feeders := congrArg Aside.feeders (aside_toHost s i o)
@[simp] theorem toHost_mem (s : State) (i : Nat) (o : Out) : (toHost s i o).mem = s.mem := congrArg Aside.mem (aside_toHost s i o)
@[simp] theorem toHost_cores (s : State) (i : Nat) (o : Out) : (toHost s i o).cores = s.cores := congrArg Aside.cores (aside_toHost s i o)
@[simp] theorem toHost_tths (s : State) (i : Nat) (o : Out) : (toHost s i o).tths = s.tths := congrArg Aside.tths (aside_toHost s i o)
@[simp] theorem toHost_iods (s : State) (i : Nat) (o : Out) : (toHost s i o).iods = s.iods := congrArg Aside.iods (aside_toHost s i o)
@[simp] theorem toHost_smPtr (s : State) (i : Nat) (o : Out) : (toHost s i o).smPtr = s.smPtr := congrArg Aside.smPtr (aside_toHost s i o)
@[simp] theorem toHost_smLatch (s : State) (i : Nat) (o : Out) : (toHost s i o).smLatch = s.smLatch := congrArg Aside.smLatch (aside_toHost s i o)
@[simp] theorem toHost_taps (s : State) (i : Nat) (o : Out) : (toHost s i o).taps = s.taps := congrArg Aside.taps (aside_toHost s i o)
@[simp] theorem toHost_testEn (s : State) (i : Nat) (o : Out) : (toHost s i o).testEn = s.testEn := congrArg Aside.testEn (aside_toHost s i o)
@[simp] theorem toHost_decoders (s : State) (i : Nat) (o : Out) : (toHost s i o).decoders = s.decoders := congrArg Aside.decoders (aside_toHost s i o)
@[simp] theorem toHost_school (s : State) (i : Nat) (o : Out) : (toHost s i o).school = s.school := congrArg Aside.school (aside_toHost s i o)
@[simp] theorem toHost_boot (s : State) (i : Nat) (o : Out) : (toHost s i o).boot = s.boot := congrArg Aside.boot (aside_toHost s i o)
@[simp] theorem toHost_grooms (s : State) (i : Nat) (o : Out) : (toHost s i o).grooms = s.grooms := congrArg Aside.grooms (aside_toHost s i o)
@[simp] theorem toHost_grm (s : State) (i : Nat) (o : Out) : (toHost s i o).grm = s.grm := congrArg Aside.grm (aside_toHost s i o)
@[simp] theorem toHost_power (s : State) (i : Nat) (o : Out) : (toHost s i o).power = s.power := congrArg Aside.power (aside_toHost s i o)
@[simp] theorem toHost_flt (s : State) (i : Nat) (o : Out) : (toHost s i o).flt = s.flt := congrArg Aside.flt (aside_toHost s i o)

/-! ### fireVector -/

@[simp] theorem fireVector_pending (s : State) (i : Nat) (v : BitVec 11) : (fireVector s i v).pending = s.pending := congrArg Aside.pending (aside_fireVector s i v)
@[simp] theorem fireVector_now (s : State) (i : Nat) (v : BitVec 11) : (fireVector s i v).now = s.now := congrArg Aside.now (aside_fireVector s i v)
@[simp] theorem fireVector_free (s : State) (i : Nat) (v : BitVec 11) : (fireVector s i v).free = s.free := congrArg Aside.free (aside_fireVector s i v)
@[simp] theorem fireVector_fuses (s : State) (i : Nat) (v : BitVec 11) : (fireVector s i v).fuses = s.fuses := congrArg Aside.fuses (aside_fireVector s i v)
@[simp] theorem fireVector_fencing (s : State) (i : Nat) (v : BitVec 11) : (fireVector s i v).fencing = s.fencing := congrArg Aside.fencing (aside_fireVector s i v)
@[simp] theorem fireVector_air (s : State) (i : Nat) (v : BitVec 11) : (fireVector s i v).air = s.air := congrArg Aside.air (aside_fireVector s i v)
@[simp] theorem fireVector_clusters (s : State) (i : Nat) (v : BitVec 11) : (fireVector s i v).clusters = s.clusters := congrArg Aside.clusters (aside_fireVector s i v)
@[simp] theorem fireVector_loader (s : State) (i : Nat) (v : BitVec 11) : (fireVector s i v).loader = s.loader := congrArg Aside.loader (aside_fireVector s i v)
@[simp] theorem fireVector_accepted (s : State) (i : Nat) (v : BitVec 11) : (fireVector s i v).accepted = s.accepted := congrArg Aside.accepted (aside_fireVector s i v)
@[simp] theorem fireVector_hns (s : State) (i : Nat) (v : BitVec 11) : (fireVector s i v).hns = s.hns := congrArg Aside.hns (aside_fireVector s i v)
@[simp] theorem fireVector_merged (s : State) (i : Nat) (v : BitVec 11) : (fireVector s i v).merged = s.merged := congrArg Aside.merged (aside_fireVector s i v)
@[simp] theorem fireVector_netNext (s : State) (i : Nat) (v : BitVec 11) : (fireVector s i v).netNext = s.netNext := congrArg Aside.netNext (aside_fireVector s i v)
@[simp] theorem fireVector_mgmtStall (s : State) (i : Nat) (v : BitVec 11) : (fireVector s i v).mgmtStall = s.mgmtStall := congrArg Aside.mgmtStall (aside_fireVector s i v)
@[simp] theorem fireVector_ports (s : State) (i : Nat) (v : BitVec 11) : (fireVector s i v).ports = s.ports := congrArg Aside.ports (aside_fireVector s i v)
@[simp] theorem fireVector_funcs (s : State) (i : Nat) (v : BitVec 11) : (fireVector s i v).funcs = s.funcs := congrArg Aside.funcs (aside_fireVector s i v)
@[simp] theorem fireVector_arrays (s : State) (i : Nat) (v : BitVec 11) : (fireVector s i v).arrays = s.arrays := congrArg Aside.arrays (aside_fireVector s i v)
@[simp] theorem fireVector_vecs (s : State) (i : Nat) (v : BitVec 11) : (fireVector s i v).vecs = s.vecs := congrArg Aside.vecs (aside_fireVector s i v)
@[simp] theorem fireVector_paths (s : State) (i : Nat) (v : BitVec 11) : (fireVector s i v).paths = s.paths := congrArg Aside.paths (aside_fireVector s i v)
@[simp] theorem fireVector_feeders (s : State) (i : Nat) (v : BitVec 11) : (fireVector s i v).feeders = s.feeders := congrArg Aside.feeders (aside_fireVector s i v)
@[simp] theorem fireVector_mem (s : State) (i : Nat) (v : BitVec 11) : (fireVector s i v).mem = s.mem := congrArg Aside.mem (aside_fireVector s i v)
@[simp] theorem fireVector_cores (s : State) (i : Nat) (v : BitVec 11) : (fireVector s i v).cores = s.cores := congrArg Aside.cores (aside_fireVector s i v)
@[simp] theorem fireVector_tths (s : State) (i : Nat) (v : BitVec 11) : (fireVector s i v).tths = s.tths := congrArg Aside.tths (aside_fireVector s i v)
@[simp] theorem fireVector_iods (s : State) (i : Nat) (v : BitVec 11) : (fireVector s i v).iods = s.iods := congrArg Aside.iods (aside_fireVector s i v)
@[simp] theorem fireVector_smPtr (s : State) (i : Nat) (v : BitVec 11) : (fireVector s i v).smPtr = s.smPtr := congrArg Aside.smPtr (aside_fireVector s i v)
@[simp] theorem fireVector_smLatch (s : State) (i : Nat) (v : BitVec 11) : (fireVector s i v).smLatch = s.smLatch := congrArg Aside.smLatch (aside_fireVector s i v)
@[simp] theorem fireVector_taps (s : State) (i : Nat) (v : BitVec 11) : (fireVector s i v).taps = s.taps := congrArg Aside.taps (aside_fireVector s i v)
@[simp] theorem fireVector_testEn (s : State) (i : Nat) (v : BitVec 11) : (fireVector s i v).testEn = s.testEn := congrArg Aside.testEn (aside_fireVector s i v)
@[simp] theorem fireVector_decoders (s : State) (i : Nat) (v : BitVec 11) : (fireVector s i v).decoders = s.decoders := congrArg Aside.decoders (aside_fireVector s i v)
@[simp] theorem fireVector_school (s : State) (i : Nat) (v : BitVec 11) : (fireVector s i v).school = s.school := congrArg Aside.school (aside_fireVector s i v)
@[simp] theorem fireVector_boot (s : State) (i : Nat) (v : BitVec 11) : (fireVector s i v).boot = s.boot := congrArg Aside.boot (aside_fireVector s i v)
@[simp] theorem fireVector_grooms (s : State) (i : Nat) (v : BitVec 11) : (fireVector s i v).grooms = s.grooms := congrArg Aside.grooms (aside_fireVector s i v)
@[simp] theorem fireVector_grm (s : State) (i : Nat) (v : BitVec 11) : (fireVector s i v).grm = s.grm := congrArg Aside.grm (aside_fireVector s i v)
@[simp] theorem fireVector_power (s : State) (i : Nat) (v : BitVec 11) : (fireVector s i v).power = s.power := congrArg Aside.power (aside_fireVector s i v)
@[simp] theorem fireVector_flt (s : State) (i : Nat) (v : BitVec 11) : (fireVector s i v).flt = s.flt := congrArg Aside.flt (aside_fireVector s i v)

/-! ### raiseVector -/

@[simp] theorem raiseVector_pending (s : State) (i : Nat) (v : BitVec 11) : (raiseVector s i v).pending = s.pending := congrArg Aside.pending (aside_raiseVector s i v)
@[simp] theorem raiseVector_now (s : State) (i : Nat) (v : BitVec 11) : (raiseVector s i v).now = s.now := congrArg Aside.now (aside_raiseVector s i v)
@[simp] theorem raiseVector_free (s : State) (i : Nat) (v : BitVec 11) : (raiseVector s i v).free = s.free := congrArg Aside.free (aside_raiseVector s i v)
@[simp] theorem raiseVector_fuses (s : State) (i : Nat) (v : BitVec 11) : (raiseVector s i v).fuses = s.fuses := congrArg Aside.fuses (aside_raiseVector s i v)
@[simp] theorem raiseVector_fencing (s : State) (i : Nat) (v : BitVec 11) : (raiseVector s i v).fencing = s.fencing := congrArg Aside.fencing (aside_raiseVector s i v)
@[simp] theorem raiseVector_air (s : State) (i : Nat) (v : BitVec 11) : (raiseVector s i v).air = s.air := congrArg Aside.air (aside_raiseVector s i v)
@[simp] theorem raiseVector_clusters (s : State) (i : Nat) (v : BitVec 11) : (raiseVector s i v).clusters = s.clusters := congrArg Aside.clusters (aside_raiseVector s i v)
@[simp] theorem raiseVector_loader (s : State) (i : Nat) (v : BitVec 11) : (raiseVector s i v).loader = s.loader := congrArg Aside.loader (aside_raiseVector s i v)
@[simp] theorem raiseVector_accepted (s : State) (i : Nat) (v : BitVec 11) : (raiseVector s i v).accepted = s.accepted := congrArg Aside.accepted (aside_raiseVector s i v)
@[simp] theorem raiseVector_hns (s : State) (i : Nat) (v : BitVec 11) : (raiseVector s i v).hns = s.hns := congrArg Aside.hns (aside_raiseVector s i v)
@[simp] theorem raiseVector_merged (s : State) (i : Nat) (v : BitVec 11) : (raiseVector s i v).merged = s.merged := congrArg Aside.merged (aside_raiseVector s i v)
@[simp] theorem raiseVector_netNext (s : State) (i : Nat) (v : BitVec 11) : (raiseVector s i v).netNext = s.netNext := congrArg Aside.netNext (aside_raiseVector s i v)
@[simp] theorem raiseVector_mgmtStall (s : State) (i : Nat) (v : BitVec 11) : (raiseVector s i v).mgmtStall = s.mgmtStall := congrArg Aside.mgmtStall (aside_raiseVector s i v)
@[simp] theorem raiseVector_ports (s : State) (i : Nat) (v : BitVec 11) : (raiseVector s i v).ports = s.ports := congrArg Aside.ports (aside_raiseVector s i v)
@[simp] theorem raiseVector_funcs (s : State) (i : Nat) (v : BitVec 11) : (raiseVector s i v).funcs = s.funcs := congrArg Aside.funcs (aside_raiseVector s i v)
@[simp] theorem raiseVector_arrays (s : State) (i : Nat) (v : BitVec 11) : (raiseVector s i v).arrays = s.arrays := congrArg Aside.arrays (aside_raiseVector s i v)
@[simp] theorem raiseVector_vecs (s : State) (i : Nat) (v : BitVec 11) : (raiseVector s i v).vecs = s.vecs := congrArg Aside.vecs (aside_raiseVector s i v)
@[simp] theorem raiseVector_paths (s : State) (i : Nat) (v : BitVec 11) : (raiseVector s i v).paths = s.paths := congrArg Aside.paths (aside_raiseVector s i v)
@[simp] theorem raiseVector_feeders (s : State) (i : Nat) (v : BitVec 11) : (raiseVector s i v).feeders = s.feeders := congrArg Aside.feeders (aside_raiseVector s i v)
@[simp] theorem raiseVector_mem (s : State) (i : Nat) (v : BitVec 11) : (raiseVector s i v).mem = s.mem := congrArg Aside.mem (aside_raiseVector s i v)
@[simp] theorem raiseVector_cores (s : State) (i : Nat) (v : BitVec 11) : (raiseVector s i v).cores = s.cores := congrArg Aside.cores (aside_raiseVector s i v)
@[simp] theorem raiseVector_tths (s : State) (i : Nat) (v : BitVec 11) : (raiseVector s i v).tths = s.tths := congrArg Aside.tths (aside_raiseVector s i v)
@[simp] theorem raiseVector_iods (s : State) (i : Nat) (v : BitVec 11) : (raiseVector s i v).iods = s.iods := congrArg Aside.iods (aside_raiseVector s i v)
@[simp] theorem raiseVector_smPtr (s : State) (i : Nat) (v : BitVec 11) : (raiseVector s i v).smPtr = s.smPtr := congrArg Aside.smPtr (aside_raiseVector s i v)
@[simp] theorem raiseVector_smLatch (s : State) (i : Nat) (v : BitVec 11) : (raiseVector s i v).smLatch = s.smLatch := congrArg Aside.smLatch (aside_raiseVector s i v)
@[simp] theorem raiseVector_taps (s : State) (i : Nat) (v : BitVec 11) : (raiseVector s i v).taps = s.taps := congrArg Aside.taps (aside_raiseVector s i v)
@[simp] theorem raiseVector_testEn (s : State) (i : Nat) (v : BitVec 11) : (raiseVector s i v).testEn = s.testEn := congrArg Aside.testEn (aside_raiseVector s i v)
@[simp] theorem raiseVector_decoders (s : State) (i : Nat) (v : BitVec 11) : (raiseVector s i v).decoders = s.decoders := congrArg Aside.decoders (aside_raiseVector s i v)
@[simp] theorem raiseVector_school (s : State) (i : Nat) (v : BitVec 11) : (raiseVector s i v).school = s.school := congrArg Aside.school (aside_raiseVector s i v)
@[simp] theorem raiseVector_boot (s : State) (i : Nat) (v : BitVec 11) : (raiseVector s i v).boot = s.boot := congrArg Aside.boot (aside_raiseVector s i v)
@[simp] theorem raiseVector_grooms (s : State) (i : Nat) (v : BitVec 11) : (raiseVector s i v).grooms = s.grooms := congrArg Aside.grooms (aside_raiseVector s i v)
@[simp] theorem raiseVector_grm (s : State) (i : Nat) (v : BitVec 11) : (raiseVector s i v).grm = s.grm := congrArg Aside.grm (aside_raiseVector s i v)
@[simp] theorem raiseVector_power (s : State) (i : Nat) (v : BitVec 11) : (raiseVector s i v).power = s.power := congrArg Aside.power (aside_raiseVector s i v)
@[simp] theorem raiseVector_flt (s : State) (i : Nat) (v : BitVec 11) : (raiseVector s i v).flt = s.flt := congrArg Aside.flt (aside_raiseVector s i v)
@[simp] theorem raiseVector_stall_state (s : State) (i : Nat) (v : BitVec 11) (k : Nat) : (getStall (raiseVector s i v) k).state = (getStall s k).state := (congrArg Stall.state (aside_stall (congrArg Aside.stall (aside_raiseVector s i v)) k) :)
@[simp] theorem raiseVector_stall_segHold (s : State) (i : Nat) (v : BitVec 11) (k : Nat) : (getStall (raiseVector s i v) k).segHold = (getStall s k).segHold := (congrArg Stall.segHold (aside_stall (congrArg Aside.stall (aside_raiseVector s i v)) k) :)
@[simp] theorem raiseVector_stall_quiesce (s : State) (i : Nat) (v : BitVec 11) (k : Nat) : (getStall (raiseVector s i v) k).quiesce = (getStall s k).quiesce := (congrArg Stall.quiesce (aside_stall (congrArg Aside.stall (aside_raiseVector s i v)) k) :)
@[simp] theorem raiseVector_stall_carriersLive (s : State) (i : Nat) (v : BitVec 11) (k : Nat) : (getStall (raiseVector s i v) k).carriersLive = (getStall s k).carriersLive := (congrArg Stall.carriersLive (aside_stall (congrArg Aside.stall (aside_raiseVector s i v)) k) :)
@[simp] theorem raiseVector_stall_faultCode (s : State) (i : Nat) (v : BitVec 11) (k : Nat) : (getStall (raiseVector s i v) k).faultCode = (getStall s k).faultCode := (congrArg Stall.faultCode (aside_stall (congrArg Aside.stall (aside_raiseVector s i v)) k) :)
@[simp] theorem raiseVector_stall_faultUnit (s : State) (i : Nat) (v : BitVec 11) (k : Nat) : (getStall (raiseVector s i v) k).faultUnit = (getStall s k).faultUnit := (congrArg Stall.faultUnit (aside_stall (congrArg Aside.stall (aside_raiseVector s i v)) k) :)
@[simp] theorem raiseVector_stall_faultKind (s : State) (i : Nat) (v : BitVec 11) (k : Nat) : (getStall (raiseVector s i v) k).faultKind = (getStall s k).faultKind := (congrArg Stall.faultKind (aside_stall (congrArg Aside.stall (aside_raiseVector s i v)) k) :)
@[simp] theorem raiseVector_stall_faultJob (s : State) (i : Nat) (v : BitVec 11) (k : Nat) : (getStall (raiseVector s i v) k).faultJob = (getStall s k).faultJob := (congrArg Stall.faultJob (aside_stall (congrArg Aside.stall (aside_raiseVector s i v)) k) :)
@[simp] theorem raiseVector_stall_faultWas (s : State) (i : Nat) (v : BitVec 11) (k : Nat) : (getStall (raiseVector s i v) k).faultWas = (getStall s k).faultWas := (congrArg Stall.faultWas (aside_stall (congrArg Aside.stall (aside_raiseVector s i v)) k) :)
@[simp] theorem raiseVector_stall_faultNew (s : State) (i : Nat) (v : BitVec 11) (k : Nat) : (getStall (raiseVector s i v) k).faultNew = (getStall s k).faultNew := (congrArg Stall.faultNew (aside_stall (congrArg Aside.stall (aside_raiseVector s i v)) k) :)
@[simp] theorem raiseVector_stall_quiesceLate (s : State) (i : Nat) (v : BitVec 11) (k : Nat) : (getStall (raiseVector s i v) k).quiesceLate = (getStall s k).quiesceLate := (congrArg Stall.quiesceLate (aside_stall (congrArg Aside.stall (aside_raiseVector s i v)) k) :)
@[simp] theorem raiseVector_stall_accErr (s : State) (i : Nat) (v : BitVec 11) (k : Nat) : (getStall (raiseVector s i v) k).accErr = (getStall s k).accErr := (congrArg Stall.accErr (aside_stall (congrArg Aside.stall (aside_raiseVector s i v)) k) :)
@[simp] theorem raiseVector_stall_resetCnt (s : State) (i : Nat) (v : BitVec 11) (k : Nat) : (getStall (raiseVector s i v) k).resetCnt = (getStall s k).resetCnt := (congrArg Stall.resetCnt (aside_stall (congrArg Aside.stall (aside_raiseVector s i v)) k) :)
@[simp] theorem raiseVector_stall_resetStep (s : State) (i : Nat) (v : BitVec 11) (k : Nat) : (getStall (raiseVector s i v) k).resetStep = (getStall s k).resetStep := (congrArg Stall.resetStep (aside_stall (congrArg Aside.stall (aside_raiseVector s i v)) k) :)
@[simp] theorem raiseVector_stall_share (s : State) (i : Nat) (v : BitVec 11) (k : Nat) : (getStall (raiseVector s i v) k).share = (getStall s k).share := (congrArg Stall.share (aside_stall (congrArg Aside.stall (aside_raiseVector s i v)) k) :)
@[simp] theorem raiseVector_stall_sharePending (s : State) (i : Nat) (v : BitVec 11) (k : Nat) : (getStall (raiseVector s i v) k).sharePending = (getStall s k).sharePending := (congrArg Stall.sharePending (aside_stall (congrArg Aside.stall (aside_raiseVector s i v)) k) :)
@[simp] theorem raiseVector_stall_queues (s : State) (i : Nat) (v : BitVec 11) (k : Nat) : (getStall (raiseVector s i v) k).queues = (getStall s k).queues := (congrArg Stall.queues (aside_stall (congrArg Aside.stall (aside_raiseVector s i v)) k) :)
@[simp] theorem raiseVector_stall_epoch (s : State) (i : Nat) (v : BitVec 11) (k : Nat) : (getStall (raiseVector s i v) k).epoch = (getStall s k).epoch := (congrArg Stall.epoch (aside_stall (congrArg Aside.stall (aside_raiseVector s i v)) k) :)
@[simp] theorem raiseVector_stall_badJournal (s : State) (i : Nat) (v : BitVec 11) (k : Nat) : (getStall (raiseVector s i v) k).badJournal = (getStall s k).badJournal := (congrArg Stall.badJournal (aside_stall (congrArg Aside.stall (aside_raiseVector s i v)) k) :)
@[simp] theorem raiseVector_stall_initialised (s : State) (i : Nat) (v : BitVec 11) (k : Nat) : (getStall (raiseVector s i v) k).initialised = (getStall s k).initialised := (congrArg Stall.initialised (aside_stall (congrArg Aside.stall (aside_raiseVector s i v)) k) :)
@[simp] theorem raiseVector_stall_journalRec (s : State) (i : Nat) (v : BitVec 11) (k : Nat) : (getStall (raiseVector s i v) k).journalRec = (getStall s k).journalRec := (congrArg Stall.journalRec (aside_stall (congrArg Aside.stall (aside_raiseVector s i v)) k) :)
@[simp] theorem raiseVector_stall_ansBase (s : State) (i : Nat) (v : BitVec 11) (k : Nat) : (getStall (raiseVector s i v) k).ansBase = (getStall s k).ansBase := (congrArg Stall.ansBase (aside_stall (congrArg Aside.stall (aside_raiseVector s i v)) k) :)
@[simp] theorem raiseVector_stall_ansHead (s : State) (i : Nat) (v : BitVec 11) (k : Nat) : (getStall (raiseVector s i v) k).ansHead = (getStall s k).ansHead := (congrArg Stall.ansHead (aside_stall (congrArg Aside.stall (aside_raiseVector s i v)) k) :)
@[simp] theorem raiseVector_stall_ansWr (s : State) (i : Nat) (v : BitVec 11) (k : Nat) : (getStall (raiseVector s i v) k).ansWr = (getStall s k).ansWr := (congrArg Stall.ansWr (aside_stall (congrArg Aside.stall (aside_raiseVector s i v)) k) :)
@[simp] theorem raiseVector_stall_ansDrop (s : State) (i : Nat) (v : BitVec 11) (k : Nat) : (getStall (raiseVector s i v) k).ansDrop = (getStall s k).ansDrop := (congrArg Stall.ansDrop (aside_stall (congrArg Aside.stall (aside_raiseVector s i v)) k) :)
@[simp] theorem raiseVector_stall_runs (s : State) (i : Nat) (v : BitVec 11) (k : Nat) : (getStall (raiseVector s i v) k).runs = (getStall s k).runs := (congrArg Stall.runs (aside_stall (congrArg Aside.stall (aside_raiseVector s i v)) k) :)
@[simp] theorem raiseVector_stall_openBatches (s : State) (i : Nat) (v : BitVec 11) (k : Nat) : (getStall (raiseVector s i v) k).openBatches = (getStall s k).openBatches := (congrArg Stall.openBatches (aside_stall (congrArg Aside.stall (aside_raiseVector s i v)) k) :)
@[simp] theorem raiseVector_stall_closedBatches (s : State) (i : Nat) (v : BitVec 11) (k : Nat) : (getStall (raiseVector s i v) k).closedBatches = (getStall s k).closedBatches := (congrArg Stall.closedBatches (aside_stall (congrArg Aside.stall (aside_raiseVector s i v)) k) :)
@[simp] theorem raiseVector_stall_gthBatch (s : State) (i : Nat) (v : BitVec 11) (k : Nat) : (getStall (raiseVector s i v) k).gthBatch = (getStall s k).gthBatch := (congrArg Stall.gthBatch (aside_stall (congrArg Aside.stall (aside_raiseVector s i v)) k) :)
@[simp] theorem raiseVector_stall_gthRows (s : State) (i : Nat) (v : BitVec 11) (k : Nat) : (getStall (raiseVector s i v) k).gthRows = (getStall s k).gthRows := (congrArg Stall.gthRows (aside_stall (congrArg Aside.stall (aside_raiseVector s i v)) k) :)
@[simp] theorem raiseVector_stall_gthArray (s : State) (i : Nat) (v : BitVec 11) (k : Nat) : (getStall (raiseVector s i v) k).gthArray = (getStall s k).gthArray := (congrArg Stall.gthArray (aside_stall (congrArg Aside.stall (aside_raiseVector s i v)) k) :)
@[simp] theorem raiseVector_stall_arrNs (s : State) (i : Nat) (v : BitVec 11) (k : Nat) : (getStall (raiseVector s i v) k).arrNs = (getStall s k).arrNs := (congrArg Stall.arrNs (aside_stall (congrArg Aside.stall (aside_raiseVector s i v)) k) :)
@[simp] theorem raiseVector_stall_mvpNs (s : State) (i : Nat) (v : BitVec 11) (k : Nat) : (getStall (raiseVector s i v) k).mvpNs = (getStall s k).mvpNs := (congrArg Stall.mvpNs (aside_stall (congrArg Aside.stall (aside_raiseVector s i v)) k) :)
@[simp] theorem raiseVector_stall_vecNs (s : State) (i : Nat) (v : BitVec 11) (k : Nat) : (getStall (raiseVector s i v) k).vecNs = (getStall s k).vecNs := (congrArg Stall.vecNs (aside_stall (congrArg Aside.stall (aside_raiseVector s i v)) k) :)
@[simp] theorem raiseVector_stall_switchNs (s : State) (i : Nat) (v : BitVec 11) (k : Nat) : (getStall (raiseVector s i v) k).switchNs = (getStall s k).switchNs := (congrArg Stall.switchNs (aside_stall (congrArg Aside.stall (aside_raiseVector s i v)) k) :)
@[simp] theorem raiseVector_stall_stableNs (s : State) (i : Nat) (v : BitVec 11) (k : Nat) : (getStall (raiseVector s i v) k).stableNs = (getStall s k).stableNs := (congrArg Stall.stableNs (aside_stall (congrArg Aside.stall (aside_raiseVector s i v)) k) :)
@[simp] theorem raiseVector_stall_va (s : State) (i : Nat) (v : BitVec 11) (k : Nat) : (getStall (raiseVector s i v) k).va = (getStall s k).va := (congrArg Stall.va (aside_stall (congrArg Aside.stall (aside_raiseVector s i v)) k) :)
@[simp] theorem raiseVector_stall_vp (s : State) (i : Nat) (v : BitVec 11) (k : Nat) : (getStall (raiseVector s i v) k).vp = (getStall s k).vp := (congrArg Stall.vp (aside_stall (congrArg Aside.stall (aside_raiseVector s i v)) k) :)
@[simp] theorem raiseVector_stall_backlogArr (s : State) (i : Nat) (v : BitVec 11) (k : Nat) : (getStall (raiseVector s i v) k).backlogArr = (getStall s k).backlogArr := (congrArg Stall.backlogArr (aside_stall (congrArg Aside.stall (aside_raiseVector s i v)) k) :)
@[simp] theorem raiseVector_stall_backlogMvp (s : State) (i : Nat) (v : BitVec 11) (k : Nat) : (getStall (raiseVector s i v) k).backlogMvp = (getStall s k).backlogMvp := (congrArg Stall.backlogMvp (aside_stall (congrArg Aside.stall (aside_raiseVector s i v)) k) :)
@[simp] theorem raiseVector_stall_images (s : State) (i : Nat) (v : BitVec 11) (k : Nat) : (getStall (raiseVector s i v) k).images = (getStall s k).images := (congrArg Stall.images (aside_stall (congrArg Aside.stall (aside_raiseVector s i v)) k) :)
@[simp] theorem raiseVector_stall_variant (s : State) (i : Nat) (v : BitVec 11) (k : Nat) : (getStall (raiseVector s i v) k).variant = (getStall s k).variant := (congrArg Stall.variant (aside_stall (congrArg Aside.stall (aside_raiseVector s i v)) k) :)
@[simp] theorem raiseVector_stall_shedK (s : State) (i : Nat) (v : BitVec 11) (k : Nat) : (getStall (raiseVector s i v) k).shedK = (getStall s k).shedK := (congrArg Stall.shedK (aside_stall (congrArg Aside.stall (aside_raiseVector s i v)) k) :)
@[simp] theorem raiseVector_stall_remaps (s : State) (i : Nat) (v : BitVec 11) (k : Nat) : (getStall (raiseVector s i v) k).remaps = (getStall s k).remaps := (congrArg Stall.remaps (aside_stall (congrArg Aside.stall (aside_raiseVector s i v)) k) :)
@[simp] theorem raiseVector_stall_uncovered (s : State) (i : Nat) (v : BitVec 11) (k : Nat) : (getStall (raiseVector s i v) k).uncovered = (getStall s k).uncovered := (congrArg Stall.uncovered (aside_stall (congrArg Aside.stall (aside_raiseVector s i v)) k) :)
@[simp] theorem raiseVector_stall_fdrRd (s : State) (i : Nat) (v : BitVec 11) (k : Nat) : (getStall (raiseVector s i v) k).fdrRd = (getStall s k).fdrRd := (congrArg Stall.fdrRd (aside_stall (congrArg Aside.stall (aside_raiseVector s i v)) k) :)
@[simp] theorem raiseVector_stall_fdrWr (s : State) (i : Nat) (v : BitVec 11) (k : Nat) : (getStall (raiseVector s i v) k).fdrWr = (getStall s k).fdrWr := (congrArg Stall.fdrWr (aside_stall (congrArg Aside.stall (aside_raiseVector s i v)) k) :)
@[simp] theorem raiseVector_stall_llcHit (s : State) (i : Nat) (v : BitVec 11) (k : Nat) : (getStall (raiseVector s i v) k).llcHit = (getStall s k).llcHit := (congrArg Stall.llcHit (aside_stall (congrArg Aside.stall (aside_raiseVector s i v)) k) :)
@[simp] theorem raiseVector_stall_llcMiss (s : State) (i : Nat) (v : BitVec 11) (k : Nat) : (getStall (raiseVector s i v) k).llcMiss = (getStall s k).llcMiss := (congrArg Stall.llcMiss (aside_stall (congrArg Aside.stall (aside_raiseVector s i v)) k) :)
@[simp] theorem raiseVector_stall_msixAddr (s : State) (i : Nat) (v : BitVec 11) (k : Nat) : (getStall (raiseVector s i v) k).msixAddr = (getStall s k).msixAddr := (congrArg Stall.msixAddr (aside_stall (congrArg Aside.stall (aside_raiseVector s i v)) k) :)
@[simp] theorem raiseVector_stall_msixData (s : State) (i : Nat) (v : BitVec 11) (k : Nat) : (getStall (raiseVector s i v) k).msixData = (getStall s k).msixData := (congrArg Stall.msixData (aside_stall (congrArg Aside.stall (aside_raiseVector s i v)) k) :)
@[simp] theorem raiseVector_stall_msixOpen (s : State) (i : Nat) (v : BitVec 11) (k : Nat) : (getStall (raiseVector s i v) k).msixOpen = (getStall s k).msixOpen := (congrArg Stall.msixOpen (aside_stall (congrArg Aside.stall (aside_raiseVector s i v)) k) :)
@[simp] theorem raiseVector_stall_placedNow (s : State) (i : Nat) (v : BitVec 11) (k : Nat) : (getStall (raiseVector s i v) k).placedNow = (getStall s k).placedNow := (congrArg Stall.placedNow (aside_stall (congrArg Aside.stall (aside_raiseVector s i v)) k) :)
@[simp] theorem raiseVector_trail_entries (s : State) (i : Nat) (v : BitVec 11) : (raiseVector s i v).trail.entries = s.trail.entries := (congrArg (fun x => (Aside.trail x).entries) (aside_raiseVector s i v) :)
@[simp] theorem raiseVector_trail_wr (s : State) (i : Nat) (v : BitVec 11) : (raiseVector s i v).trail.wr = s.trail.wr := (congrArg (fun x => (Aside.trail x).wr) (aside_raiseVector s i v) :)
@[simp] theorem raiseVector_trail_frz (s : State) (i : Nat) (v : BitVec 11) : (raiseVector s i v).trail.frz = s.trail.frz := (congrArg (fun x => (Aside.trail x).frz) (aside_raiseVector s i v) :)
@[simp] theorem raiseVector_trail_post (s : State) (i : Nat) (v : BitVec 11) : (raiseVector s i v).trail.post = s.trail.post := (congrArg (fun x => (Aside.trail x).post) (aside_raiseVector s i v) :)
@[simp] theorem raiseVector_trail_mask (s : State) (i : Nat) (v : BitVec 11) : (raiseVector s i v).trail.mask = s.trail.mask := (congrArg (fun x => (Aside.trail x).mask) (aside_raiseVector s i v) :)
@[simp] theorem raiseVector_trail_frozen (s : State) (i : Nat) (v : BitVec 11) : (raiseVector s i v).trail.frozen = s.trail.frozen := (congrArg (fun x => (Aside.trail x).frozen) (aside_raiseVector s i v) :)
@[simp] theorem raiseVector_trail_stopped (s : State) (i : Nat) (v : BitVec 11) : (raiseVector s i v).trail.stopped = s.trail.stopped := (congrArg (fun x => (Aside.trail x).stopped) (aside_raiseVector s i v) :)
@[simp] theorem raiseVector_trail_ueSeen (s : State) (i : Nat) (v : BitVec 11) : (raiseVector s i v).trail.ueSeen = s.trail.ueSeen := (congrArg (fun x => (Aside.trail x).ueSeen) (aside_raiseVector s i v) :)
@[simp] theorem raiseVector_trail_postLeft (s : State) (i : Nat) (v : BitVec 11) : (raiseVector s i v).trail.postLeft = s.trail.postLeft := (congrArg (fun x => (Aside.trail x).postLeft) (aside_raiseVector s i v) :)
@[simp] theorem raiseVector_trail_page2 (s : State) (i : Nat) (v : BitVec 11) : (raiseVector s i v).trail.page2 = s.trail.page2 := (congrArg (fun x => (Aside.trail x).page2) (aside_raiseVector s i v) :)
@[simp] theorem raiseVector_trail_page3 (s : State) (i : Nat) (v : BitVec 11) : (raiseVector s i v).trail.page3 = s.trail.page3 := (congrArg (fun x => (Aside.trail x).page3) (aside_raiseVector s i v) :)
@[simp] theorem raiseVector_trail_valid (s : State) (i : Nat) (v : BitVec 11) : (raiseVector s i v).trail.valid = s.trail.valid := (congrArg (fun x => (Aside.trail x).valid) (aside_raiseVector s i v) :)
@[simp] theorem raiseVector_trail_failedPage (s : State) (i : Nat) (v : BitVec 11) : (raiseVector s i v).trail.failedPage = s.trail.failedPage := (congrArg (fun x => (Aside.trail x).failedPage) (aside_raiseVector s i v) :)
@[simp] theorem raiseVector_trail_lastSeq (s : State) (i : Nat) (v : BitVec 11) : (raiseVector s i v).trail.lastSeq = s.trail.lastSeq := (congrArg (fun x => (Aside.trail x).lastSeq) (aside_raiseVector s i v) :)
@[simp] theorem raiseVector_trail_writing (s : State) (i : Nat) (v : BitVec 11) : (raiseVector s i v).trail.writing = s.trail.writing := (congrArg (fun x => (Aside.trail x).writing) (aside_raiseVector s i v) :)
@[simp] theorem raiseVector_trail_second (s : State) (i : Nat) (v : BitVec 11) : (raiseVector s i v).trail.second = s.trail.second := (congrArg (fun x => (Aside.trail x).second) (aside_raiseVector s i v) :)
@[simp] theorem raiseVector_trail_coldSeq (s : State) (i : Nat) (v : BitVec 11) : (raiseVector s i v).trail.coldSeq = s.trail.coldSeq := (congrArg (fun x => (Aside.trail x).coldSeq) (aside_raiseVector s i v) :)
@[simp] theorem raiseVector_trail_cursor (s : State) (i : Nat) (v : BitVec 11) : (raiseVector s i v).trail.cursor = s.trail.cursor := (congrArg (fun x => (Aside.trail x).cursor) (aside_raiseVector s i v) :)
@[simp] theorem raiseVector_trail_index (s : State) (i : Nat) (v : BitVec 11) : (raiseVector s i v).trail.index = s.trail.index := (congrArg (fun x => (Aside.trail x).index) (aside_raiseVector s i v) :)
@[simp] theorem raiseVector_trail_pageWrites (s : State) (i : Nat) (v : BitVec 11) : (raiseVector s i v).trail.pageWrites = s.trail.pageWrites := (congrArg (fun x => (Aside.trail x).pageWrites) (aside_raiseVector s i v) :)

/-! ### pushEvent -/

@[simp] theorem pushEvent_pending (s : State) (e : Event) : (pushEvent s e).pending = s.pending := congrArg Aside.pending (aside_pushEvent s e)
@[simp] theorem pushEvent_now (s : State) (e : Event) : (pushEvent s e).now = s.now := congrArg Aside.now (aside_pushEvent s e)
@[simp] theorem pushEvent_free (s : State) (e : Event) : (pushEvent s e).free = s.free := congrArg Aside.free (aside_pushEvent s e)
@[simp] theorem pushEvent_fuses (s : State) (e : Event) : (pushEvent s e).fuses = s.fuses := congrArg Aside.fuses (aside_pushEvent s e)
@[simp] theorem pushEvent_fencing (s : State) (e : Event) : (pushEvent s e).fencing = s.fencing := congrArg Aside.fencing (aside_pushEvent s e)
@[simp] theorem pushEvent_air (s : State) (e : Event) : (pushEvent s e).air = s.air := congrArg Aside.air (aside_pushEvent s e)
@[simp] theorem pushEvent_clusters (s : State) (e : Event) : (pushEvent s e).clusters = s.clusters := congrArg Aside.clusters (aside_pushEvent s e)
@[simp] theorem pushEvent_loader (s : State) (e : Event) : (pushEvent s e).loader = s.loader := congrArg Aside.loader (aside_pushEvent s e)
@[simp] theorem pushEvent_accepted (s : State) (e : Event) : (pushEvent s e).accepted = s.accepted := congrArg Aside.accepted (aside_pushEvent s e)
@[simp] theorem pushEvent_hns (s : State) (e : Event) : (pushEvent s e).hns = s.hns := congrArg Aside.hns (aside_pushEvent s e)
@[simp] theorem pushEvent_merged (s : State) (e : Event) : (pushEvent s e).merged = s.merged := congrArg Aside.merged (aside_pushEvent s e)
@[simp] theorem pushEvent_netNext (s : State) (e : Event) : (pushEvent s e).netNext = s.netNext := congrArg Aside.netNext (aside_pushEvent s e)
@[simp] theorem pushEvent_mgmtStall (s : State) (e : Event) : (pushEvent s e).mgmtStall = s.mgmtStall := congrArg Aside.mgmtStall (aside_pushEvent s e)
@[simp] theorem pushEvent_ports (s : State) (e : Event) : (pushEvent s e).ports = s.ports := congrArg Aside.ports (aside_pushEvent s e)
@[simp] theorem pushEvent_funcs (s : State) (e : Event) : (pushEvent s e).funcs = s.funcs := congrArg Aside.funcs (aside_pushEvent s e)
@[simp] theorem pushEvent_arrays (s : State) (e : Event) : (pushEvent s e).arrays = s.arrays := congrArg Aside.arrays (aside_pushEvent s e)
@[simp] theorem pushEvent_vecs (s : State) (e : Event) : (pushEvent s e).vecs = s.vecs := congrArg Aside.vecs (aside_pushEvent s e)
@[simp] theorem pushEvent_paths (s : State) (e : Event) : (pushEvent s e).paths = s.paths := congrArg Aside.paths (aside_pushEvent s e)
@[simp] theorem pushEvent_feeders (s : State) (e : Event) : (pushEvent s e).feeders = s.feeders := congrArg Aside.feeders (aside_pushEvent s e)
@[simp] theorem pushEvent_mem (s : State) (e : Event) : (pushEvent s e).mem = s.mem := congrArg Aside.mem (aside_pushEvent s e)
@[simp] theorem pushEvent_cores (s : State) (e : Event) : (pushEvent s e).cores = s.cores := congrArg Aside.cores (aside_pushEvent s e)
@[simp] theorem pushEvent_tths (s : State) (e : Event) : (pushEvent s e).tths = s.tths := congrArg Aside.tths (aside_pushEvent s e)
@[simp] theorem pushEvent_iods (s : State) (e : Event) : (pushEvent s e).iods = s.iods := congrArg Aside.iods (aside_pushEvent s e)
@[simp] theorem pushEvent_smPtr (s : State) (e : Event) : (pushEvent s e).smPtr = s.smPtr := congrArg Aside.smPtr (aside_pushEvent s e)
@[simp] theorem pushEvent_smLatch (s : State) (e : Event) : (pushEvent s e).smLatch = s.smLatch := congrArg Aside.smLatch (aside_pushEvent s e)
@[simp] theorem pushEvent_taps (s : State) (e : Event) : (pushEvent s e).taps = s.taps := congrArg Aside.taps (aside_pushEvent s e)
@[simp] theorem pushEvent_testEn (s : State) (e : Event) : (pushEvent s e).testEn = s.testEn := congrArg Aside.testEn (aside_pushEvent s e)
@[simp] theorem pushEvent_decoders (s : State) (e : Event) : (pushEvent s e).decoders = s.decoders := congrArg Aside.decoders (aside_pushEvent s e)
@[simp] theorem pushEvent_school (s : State) (e : Event) : (pushEvent s e).school = s.school := congrArg Aside.school (aside_pushEvent s e)
@[simp] theorem pushEvent_boot (s : State) (e : Event) : (pushEvent s e).boot = s.boot := congrArg Aside.boot (aside_pushEvent s e)
@[simp] theorem pushEvent_grooms (s : State) (e : Event) : (pushEvent s e).grooms = s.grooms := congrArg Aside.grooms (aside_pushEvent s e)
@[simp] theorem pushEvent_grm (s : State) (e : Event) : (pushEvent s e).grm = s.grm := congrArg Aside.grm (aside_pushEvent s e)
@[simp] theorem pushEvent_power (s : State) (e : Event) : (pushEvent s e).power = s.power := congrArg Aside.power (aside_pushEvent s e)
@[simp] theorem pushEvent_flt (s : State) (e : Event) : (pushEvent s e).flt = s.flt := congrArg Aside.flt (aside_pushEvent s e)
@[simp] theorem pushEvent_trail_entries (s : State) (e : Event) : (pushEvent s e).trail.entries = s.trail.entries := (congrArg (fun x => (Aside.trail x).entries) (aside_pushEvent s e) :)
@[simp] theorem pushEvent_trail_wr_ (s : State) (e : Event) : (pushEvent s e).trail.wr = s.trail.wr := (congrArg (fun x => (Aside.trail x).wr) (aside_pushEvent s e) :)
@[simp] theorem pushEvent_trail_frz (s : State) (e : Event) : (pushEvent s e).trail.frz = s.trail.frz := (congrArg (fun x => (Aside.trail x).frz) (aside_pushEvent s e) :)
@[simp] theorem pushEvent_trail_post (s : State) (e : Event) : (pushEvent s e).trail.post = s.trail.post := (congrArg (fun x => (Aside.trail x).post) (aside_pushEvent s e) :)
@[simp] theorem pushEvent_trail_mask (s : State) (e : Event) : (pushEvent s e).trail.mask = s.trail.mask := (congrArg (fun x => (Aside.trail x).mask) (aside_pushEvent s e) :)
@[simp] theorem pushEvent_trail_frozen (s : State) (e : Event) : (pushEvent s e).trail.frozen = s.trail.frozen := (congrArg (fun x => (Aside.trail x).frozen) (aside_pushEvent s e) :)
@[simp] theorem pushEvent_trail_stopped (s : State) (e : Event) : (pushEvent s e).trail.stopped = s.trail.stopped := (congrArg (fun x => (Aside.trail x).stopped) (aside_pushEvent s e) :)
@[simp] theorem pushEvent_trail_ueSeen (s : State) (e : Event) : (pushEvent s e).trail.ueSeen = s.trail.ueSeen := (congrArg (fun x => (Aside.trail x).ueSeen) (aside_pushEvent s e) :)
@[simp] theorem pushEvent_trail_postLeft (s : State) (e : Event) : (pushEvent s e).trail.postLeft = s.trail.postLeft := (congrArg (fun x => (Aside.trail x).postLeft) (aside_pushEvent s e) :)
@[simp] theorem pushEvent_trail_page2 (s : State) (e : Event) : (pushEvent s e).trail.page2 = s.trail.page2 := (congrArg (fun x => (Aside.trail x).page2) (aside_pushEvent s e) :)
@[simp] theorem pushEvent_trail_page3 (s : State) (e : Event) : (pushEvent s e).trail.page3 = s.trail.page3 := (congrArg (fun x => (Aside.trail x).page3) (aside_pushEvent s e) :)
@[simp] theorem pushEvent_trail_valid (s : State) (e : Event) : (pushEvent s e).trail.valid = s.trail.valid := (congrArg (fun x => (Aside.trail x).valid) (aside_pushEvent s e) :)
@[simp] theorem pushEvent_trail_failedPage (s : State) (e : Event) : (pushEvent s e).trail.failedPage = s.trail.failedPage := (congrArg (fun x => (Aside.trail x).failedPage) (aside_pushEvent s e) :)
@[simp] theorem pushEvent_trail_lastSeq (s : State) (e : Event) : (pushEvent s e).trail.lastSeq = s.trail.lastSeq := (congrArg (fun x => (Aside.trail x).lastSeq) (aside_pushEvent s e) :)
@[simp] theorem pushEvent_trail_writing (s : State) (e : Event) : (pushEvent s e).trail.writing = s.trail.writing := (congrArg (fun x => (Aside.trail x).writing) (aside_pushEvent s e) :)
@[simp] theorem pushEvent_trail_second (s : State) (e : Event) : (pushEvent s e).trail.second = s.trail.second := (congrArg (fun x => (Aside.trail x).second) (aside_pushEvent s e) :)
@[simp] theorem pushEvent_trail_coldSeq (s : State) (e : Event) : (pushEvent s e).trail.coldSeq = s.trail.coldSeq := (congrArg (fun x => (Aside.trail x).coldSeq) (aside_pushEvent s e) :)
@[simp] theorem pushEvent_trail_cursor (s : State) (e : Event) : (pushEvent s e).trail.cursor = s.trail.cursor := (congrArg (fun x => (Aside.trail x).cursor) (aside_pushEvent s e) :)
@[simp] theorem pushEvent_trail_index (s : State) (e : Event) : (pushEvent s e).trail.index = s.trail.index := (congrArg (fun x => (Aside.trail x).index) (aside_pushEvent s e) :)
@[simp] theorem pushEvent_trail_pageWrites (s : State) (e : Event) : (pushEvent s e).trail.pageWrites = s.trail.pageWrites := (congrArg (fun x => (Aside.trail x).pageWrites) (aside_pushEvent s e) :)

/-! ### raiseSource -/

@[simp] theorem raiseSource_pending (s : State) (src : W16) : (raiseSource s src).pending = s.pending := congrArg Aside.pending (aside_raiseSource s src)
@[simp] theorem raiseSource_now (s : State) (src : W16) : (raiseSource s src).now = s.now := congrArg Aside.now (aside_raiseSource s src)
@[simp] theorem raiseSource_free (s : State) (src : W16) : (raiseSource s src).free = s.free := congrArg Aside.free (aside_raiseSource s src)
@[simp] theorem raiseSource_fuses (s : State) (src : W16) : (raiseSource s src).fuses = s.fuses := congrArg Aside.fuses (aside_raiseSource s src)
@[simp] theorem raiseSource_fencing (s : State) (src : W16) : (raiseSource s src).fencing = s.fencing := congrArg Aside.fencing (aside_raiseSource s src)
@[simp] theorem raiseSource_air (s : State) (src : W16) : (raiseSource s src).air = s.air := congrArg Aside.air (aside_raiseSource s src)
@[simp] theorem raiseSource_clusters (s : State) (src : W16) : (raiseSource s src).clusters = s.clusters := congrArg Aside.clusters (aside_raiseSource s src)
@[simp] theorem raiseSource_loader (s : State) (src : W16) : (raiseSource s src).loader = s.loader := congrArg Aside.loader (aside_raiseSource s src)
@[simp] theorem raiseSource_accepted (s : State) (src : W16) : (raiseSource s src).accepted = s.accepted := congrArg Aside.accepted (aside_raiseSource s src)
@[simp] theorem raiseSource_hns (s : State) (src : W16) : (raiseSource s src).hns = s.hns := congrArg Aside.hns (aside_raiseSource s src)
@[simp] theorem raiseSource_merged (s : State) (src : W16) : (raiseSource s src).merged = s.merged := congrArg Aside.merged (aside_raiseSource s src)
@[simp] theorem raiseSource_netNext (s : State) (src : W16) : (raiseSource s src).netNext = s.netNext := congrArg Aside.netNext (aside_raiseSource s src)
@[simp] theorem raiseSource_mgmtStall (s : State) (src : W16) : (raiseSource s src).mgmtStall = s.mgmtStall := congrArg Aside.mgmtStall (aside_raiseSource s src)
@[simp] theorem raiseSource_ports (s : State) (src : W16) : (raiseSource s src).ports = s.ports := congrArg Aside.ports (aside_raiseSource s src)
@[simp] theorem raiseSource_funcs (s : State) (src : W16) : (raiseSource s src).funcs = s.funcs := congrArg Aside.funcs (aside_raiseSource s src)
@[simp] theorem raiseSource_arrays (s : State) (src : W16) : (raiseSource s src).arrays = s.arrays := congrArg Aside.arrays (aside_raiseSource s src)
@[simp] theorem raiseSource_vecs (s : State) (src : W16) : (raiseSource s src).vecs = s.vecs := congrArg Aside.vecs (aside_raiseSource s src)
@[simp] theorem raiseSource_paths (s : State) (src : W16) : (raiseSource s src).paths = s.paths := congrArg Aside.paths (aside_raiseSource s src)
@[simp] theorem raiseSource_feeders (s : State) (src : W16) : (raiseSource s src).feeders = s.feeders := congrArg Aside.feeders (aside_raiseSource s src)
@[simp] theorem raiseSource_mem (s : State) (src : W16) : (raiseSource s src).mem = s.mem := congrArg Aside.mem (aside_raiseSource s src)
@[simp] theorem raiseSource_cores (s : State) (src : W16) : (raiseSource s src).cores = s.cores := congrArg Aside.cores (aside_raiseSource s src)
@[simp] theorem raiseSource_tths (s : State) (src : W16) : (raiseSource s src).tths = s.tths := congrArg Aside.tths (aside_raiseSource s src)
@[simp] theorem raiseSource_iods (s : State) (src : W16) : (raiseSource s src).iods = s.iods := congrArg Aside.iods (aside_raiseSource s src)
@[simp] theorem raiseSource_smPtr (s : State) (src : W16) : (raiseSource s src).smPtr = s.smPtr := congrArg Aside.smPtr (aside_raiseSource s src)
@[simp] theorem raiseSource_smLatch (s : State) (src : W16) : (raiseSource s src).smLatch = s.smLatch := congrArg Aside.smLatch (aside_raiseSource s src)
@[simp] theorem raiseSource_taps (s : State) (src : W16) : (raiseSource s src).taps = s.taps := congrArg Aside.taps (aside_raiseSource s src)
@[simp] theorem raiseSource_testEn (s : State) (src : W16) : (raiseSource s src).testEn = s.testEn := congrArg Aside.testEn (aside_raiseSource s src)
@[simp] theorem raiseSource_decoders (s : State) (src : W16) : (raiseSource s src).decoders = s.decoders := congrArg Aside.decoders (aside_raiseSource s src)
@[simp] theorem raiseSource_school (s : State) (src : W16) : (raiseSource s src).school = s.school := congrArg Aside.school (aside_raiseSource s src)
@[simp] theorem raiseSource_boot (s : State) (src : W16) : (raiseSource s src).boot = s.boot := congrArg Aside.boot (aside_raiseSource s src)
@[simp] theorem raiseSource_grooms (s : State) (src : W16) : (raiseSource s src).grooms = s.grooms := congrArg Aside.grooms (aside_raiseSource s src)
@[simp] theorem raiseSource_grm (s : State) (src : W16) : (raiseSource s src).grm = s.grm := congrArg Aside.grm (aside_raiseSource s src)
@[simp] theorem raiseSource_power (s : State) (src : W16) : (raiseSource s src).power = s.power := congrArg Aside.power (aside_raiseSource s src)
@[simp] theorem raiseSource_flt (s : State) (src : W16) : (raiseSource s src).flt = s.flt := congrArg Aside.flt (aside_raiseSource s src)
@[simp] theorem raiseSource_stall_state (s : State) (src : W16) (k : Nat) : (getStall (raiseSource s src) k).state = (getStall s k).state := (congrArg Stall.state (aside_stall (congrArg Aside.stall (aside_raiseSource s src)) k) :)
@[simp] theorem raiseSource_stall_segHold (s : State) (src : W16) (k : Nat) : (getStall (raiseSource s src) k).segHold = (getStall s k).segHold := (congrArg Stall.segHold (aside_stall (congrArg Aside.stall (aside_raiseSource s src)) k) :)
@[simp] theorem raiseSource_stall_quiesce (s : State) (src : W16) (k : Nat) : (getStall (raiseSource s src) k).quiesce = (getStall s k).quiesce := (congrArg Stall.quiesce (aside_stall (congrArg Aside.stall (aside_raiseSource s src)) k) :)
@[simp] theorem raiseSource_stall_carriersLive (s : State) (src : W16) (k : Nat) : (getStall (raiseSource s src) k).carriersLive = (getStall s k).carriersLive := (congrArg Stall.carriersLive (aside_stall (congrArg Aside.stall (aside_raiseSource s src)) k) :)
@[simp] theorem raiseSource_stall_faultCode (s : State) (src : W16) (k : Nat) : (getStall (raiseSource s src) k).faultCode = (getStall s k).faultCode := (congrArg Stall.faultCode (aside_stall (congrArg Aside.stall (aside_raiseSource s src)) k) :)
@[simp] theorem raiseSource_stall_faultUnit (s : State) (src : W16) (k : Nat) : (getStall (raiseSource s src) k).faultUnit = (getStall s k).faultUnit := (congrArg Stall.faultUnit (aside_stall (congrArg Aside.stall (aside_raiseSource s src)) k) :)
@[simp] theorem raiseSource_stall_faultKind (s : State) (src : W16) (k : Nat) : (getStall (raiseSource s src) k).faultKind = (getStall s k).faultKind := (congrArg Stall.faultKind (aside_stall (congrArg Aside.stall (aside_raiseSource s src)) k) :)
@[simp] theorem raiseSource_stall_faultJob (s : State) (src : W16) (k : Nat) : (getStall (raiseSource s src) k).faultJob = (getStall s k).faultJob := (congrArg Stall.faultJob (aside_stall (congrArg Aside.stall (aside_raiseSource s src)) k) :)
@[simp] theorem raiseSource_stall_faultWas (s : State) (src : W16) (k : Nat) : (getStall (raiseSource s src) k).faultWas = (getStall s k).faultWas := (congrArg Stall.faultWas (aside_stall (congrArg Aside.stall (aside_raiseSource s src)) k) :)
@[simp] theorem raiseSource_stall_faultNew (s : State) (src : W16) (k : Nat) : (getStall (raiseSource s src) k).faultNew = (getStall s k).faultNew := (congrArg Stall.faultNew (aside_stall (congrArg Aside.stall (aside_raiseSource s src)) k) :)
@[simp] theorem raiseSource_stall_quiesceLate (s : State) (src : W16) (k : Nat) : (getStall (raiseSource s src) k).quiesceLate = (getStall s k).quiesceLate := (congrArg Stall.quiesceLate (aside_stall (congrArg Aside.stall (aside_raiseSource s src)) k) :)
@[simp] theorem raiseSource_stall_accErr (s : State) (src : W16) (k : Nat) : (getStall (raiseSource s src) k).accErr = (getStall s k).accErr := (congrArg Stall.accErr (aside_stall (congrArg Aside.stall (aside_raiseSource s src)) k) :)
@[simp] theorem raiseSource_stall_resetCnt (s : State) (src : W16) (k : Nat) : (getStall (raiseSource s src) k).resetCnt = (getStall s k).resetCnt := (congrArg Stall.resetCnt (aside_stall (congrArg Aside.stall (aside_raiseSource s src)) k) :)
@[simp] theorem raiseSource_stall_resetStep (s : State) (src : W16) (k : Nat) : (getStall (raiseSource s src) k).resetStep = (getStall s k).resetStep := (congrArg Stall.resetStep (aside_stall (congrArg Aside.stall (aside_raiseSource s src)) k) :)
@[simp] theorem raiseSource_stall_share (s : State) (src : W16) (k : Nat) : (getStall (raiseSource s src) k).share = (getStall s k).share := (congrArg Stall.share (aside_stall (congrArg Aside.stall (aside_raiseSource s src)) k) :)
@[simp] theorem raiseSource_stall_sharePending (s : State) (src : W16) (k : Nat) : (getStall (raiseSource s src) k).sharePending = (getStall s k).sharePending := (congrArg Stall.sharePending (aside_stall (congrArg Aside.stall (aside_raiseSource s src)) k) :)
@[simp] theorem raiseSource_stall_queues (s : State) (src : W16) (k : Nat) : (getStall (raiseSource s src) k).queues = (getStall s k).queues := (congrArg Stall.queues (aside_stall (congrArg Aside.stall (aside_raiseSource s src)) k) :)
@[simp] theorem raiseSource_stall_epoch (s : State) (src : W16) (k : Nat) : (getStall (raiseSource s src) k).epoch = (getStall s k).epoch := (congrArg Stall.epoch (aside_stall (congrArg Aside.stall (aside_raiseSource s src)) k) :)
@[simp] theorem raiseSource_stall_badJournal (s : State) (src : W16) (k : Nat) : (getStall (raiseSource s src) k).badJournal = (getStall s k).badJournal := (congrArg Stall.badJournal (aside_stall (congrArg Aside.stall (aside_raiseSource s src)) k) :)
@[simp] theorem raiseSource_stall_initialised (s : State) (src : W16) (k : Nat) : (getStall (raiseSource s src) k).initialised = (getStall s k).initialised := (congrArg Stall.initialised (aside_stall (congrArg Aside.stall (aside_raiseSource s src)) k) :)
@[simp] theorem raiseSource_stall_journalRec (s : State) (src : W16) (k : Nat) : (getStall (raiseSource s src) k).journalRec = (getStall s k).journalRec := (congrArg Stall.journalRec (aside_stall (congrArg Aside.stall (aside_raiseSource s src)) k) :)
@[simp] theorem raiseSource_stall_ansBase (s : State) (src : W16) (k : Nat) : (getStall (raiseSource s src) k).ansBase = (getStall s k).ansBase := (congrArg Stall.ansBase (aside_stall (congrArg Aside.stall (aside_raiseSource s src)) k) :)
@[simp] theorem raiseSource_stall_ansHead (s : State) (src : W16) (k : Nat) : (getStall (raiseSource s src) k).ansHead = (getStall s k).ansHead := (congrArg Stall.ansHead (aside_stall (congrArg Aside.stall (aside_raiseSource s src)) k) :)
@[simp] theorem raiseSource_stall_ansWr (s : State) (src : W16) (k : Nat) : (getStall (raiseSource s src) k).ansWr = (getStall s k).ansWr := (congrArg Stall.ansWr (aside_stall (congrArg Aside.stall (aside_raiseSource s src)) k) :)
@[simp] theorem raiseSource_stall_ansDrop (s : State) (src : W16) (k : Nat) : (getStall (raiseSource s src) k).ansDrop = (getStall s k).ansDrop := (congrArg Stall.ansDrop (aside_stall (congrArg Aside.stall (aside_raiseSource s src)) k) :)
@[simp] theorem raiseSource_stall_runs (s : State) (src : W16) (k : Nat) : (getStall (raiseSource s src) k).runs = (getStall s k).runs := (congrArg Stall.runs (aside_stall (congrArg Aside.stall (aside_raiseSource s src)) k) :)
@[simp] theorem raiseSource_stall_openBatches (s : State) (src : W16) (k : Nat) : (getStall (raiseSource s src) k).openBatches = (getStall s k).openBatches := (congrArg Stall.openBatches (aside_stall (congrArg Aside.stall (aside_raiseSource s src)) k) :)
@[simp] theorem raiseSource_stall_closedBatches (s : State) (src : W16) (k : Nat) : (getStall (raiseSource s src) k).closedBatches = (getStall s k).closedBatches := (congrArg Stall.closedBatches (aside_stall (congrArg Aside.stall (aside_raiseSource s src)) k) :)
@[simp] theorem raiseSource_stall_gthBatch (s : State) (src : W16) (k : Nat) : (getStall (raiseSource s src) k).gthBatch = (getStall s k).gthBatch := (congrArg Stall.gthBatch (aside_stall (congrArg Aside.stall (aside_raiseSource s src)) k) :)
@[simp] theorem raiseSource_stall_gthRows (s : State) (src : W16) (k : Nat) : (getStall (raiseSource s src) k).gthRows = (getStall s k).gthRows := (congrArg Stall.gthRows (aside_stall (congrArg Aside.stall (aside_raiseSource s src)) k) :)
@[simp] theorem raiseSource_stall_gthArray (s : State) (src : W16) (k : Nat) : (getStall (raiseSource s src) k).gthArray = (getStall s k).gthArray := (congrArg Stall.gthArray (aside_stall (congrArg Aside.stall (aside_raiseSource s src)) k) :)
@[simp] theorem raiseSource_stall_arrNs (s : State) (src : W16) (k : Nat) : (getStall (raiseSource s src) k).arrNs = (getStall s k).arrNs := (congrArg Stall.arrNs (aside_stall (congrArg Aside.stall (aside_raiseSource s src)) k) :)
@[simp] theorem raiseSource_stall_mvpNs (s : State) (src : W16) (k : Nat) : (getStall (raiseSource s src) k).mvpNs = (getStall s k).mvpNs := (congrArg Stall.mvpNs (aside_stall (congrArg Aside.stall (aside_raiseSource s src)) k) :)
@[simp] theorem raiseSource_stall_vecNs (s : State) (src : W16) (k : Nat) : (getStall (raiseSource s src) k).vecNs = (getStall s k).vecNs := (congrArg Stall.vecNs (aside_stall (congrArg Aside.stall (aside_raiseSource s src)) k) :)
@[simp] theorem raiseSource_stall_switchNs (s : State) (src : W16) (k : Nat) : (getStall (raiseSource s src) k).switchNs = (getStall s k).switchNs := (congrArg Stall.switchNs (aside_stall (congrArg Aside.stall (aside_raiseSource s src)) k) :)
@[simp] theorem raiseSource_stall_stableNs (s : State) (src : W16) (k : Nat) : (getStall (raiseSource s src) k).stableNs = (getStall s k).stableNs := (congrArg Stall.stableNs (aside_stall (congrArg Aside.stall (aside_raiseSource s src)) k) :)
@[simp] theorem raiseSource_stall_va (s : State) (src : W16) (k : Nat) : (getStall (raiseSource s src) k).va = (getStall s k).va := (congrArg Stall.va (aside_stall (congrArg Aside.stall (aside_raiseSource s src)) k) :)
@[simp] theorem raiseSource_stall_vp (s : State) (src : W16) (k : Nat) : (getStall (raiseSource s src) k).vp = (getStall s k).vp := (congrArg Stall.vp (aside_stall (congrArg Aside.stall (aside_raiseSource s src)) k) :)
@[simp] theorem raiseSource_stall_backlogArr (s : State) (src : W16) (k : Nat) : (getStall (raiseSource s src) k).backlogArr = (getStall s k).backlogArr := (congrArg Stall.backlogArr (aside_stall (congrArg Aside.stall (aside_raiseSource s src)) k) :)
@[simp] theorem raiseSource_stall_backlogMvp (s : State) (src : W16) (k : Nat) : (getStall (raiseSource s src) k).backlogMvp = (getStall s k).backlogMvp := (congrArg Stall.backlogMvp (aside_stall (congrArg Aside.stall (aside_raiseSource s src)) k) :)
@[simp] theorem raiseSource_stall_images (s : State) (src : W16) (k : Nat) : (getStall (raiseSource s src) k).images = (getStall s k).images := (congrArg Stall.images (aside_stall (congrArg Aside.stall (aside_raiseSource s src)) k) :)
@[simp] theorem raiseSource_stall_variant (s : State) (src : W16) (k : Nat) : (getStall (raiseSource s src) k).variant = (getStall s k).variant := (congrArg Stall.variant (aside_stall (congrArg Aside.stall (aside_raiseSource s src)) k) :)
@[simp] theorem raiseSource_stall_shedK (s : State) (src : W16) (k : Nat) : (getStall (raiseSource s src) k).shedK = (getStall s k).shedK := (congrArg Stall.shedK (aside_stall (congrArg Aside.stall (aside_raiseSource s src)) k) :)
@[simp] theorem raiseSource_stall_remaps (s : State) (src : W16) (k : Nat) : (getStall (raiseSource s src) k).remaps = (getStall s k).remaps := (congrArg Stall.remaps (aside_stall (congrArg Aside.stall (aside_raiseSource s src)) k) :)
@[simp] theorem raiseSource_stall_uncovered (s : State) (src : W16) (k : Nat) : (getStall (raiseSource s src) k).uncovered = (getStall s k).uncovered := (congrArg Stall.uncovered (aside_stall (congrArg Aside.stall (aside_raiseSource s src)) k) :)
@[simp] theorem raiseSource_stall_fdrRd (s : State) (src : W16) (k : Nat) : (getStall (raiseSource s src) k).fdrRd = (getStall s k).fdrRd := (congrArg Stall.fdrRd (aside_stall (congrArg Aside.stall (aside_raiseSource s src)) k) :)
@[simp] theorem raiseSource_stall_fdrWr (s : State) (src : W16) (k : Nat) : (getStall (raiseSource s src) k).fdrWr = (getStall s k).fdrWr := (congrArg Stall.fdrWr (aside_stall (congrArg Aside.stall (aside_raiseSource s src)) k) :)
@[simp] theorem raiseSource_stall_llcHit (s : State) (src : W16) (k : Nat) : (getStall (raiseSource s src) k).llcHit = (getStall s k).llcHit := (congrArg Stall.llcHit (aside_stall (congrArg Aside.stall (aside_raiseSource s src)) k) :)
@[simp] theorem raiseSource_stall_llcMiss (s : State) (src : W16) (k : Nat) : (getStall (raiseSource s src) k).llcMiss = (getStall s k).llcMiss := (congrArg Stall.llcMiss (aside_stall (congrArg Aside.stall (aside_raiseSource s src)) k) :)
@[simp] theorem raiseSource_stall_msixAddr (s : State) (src : W16) (k : Nat) : (getStall (raiseSource s src) k).msixAddr = (getStall s k).msixAddr := (congrArg Stall.msixAddr (aside_stall (congrArg Aside.stall (aside_raiseSource s src)) k) :)
@[simp] theorem raiseSource_stall_msixData (s : State) (src : W16) (k : Nat) : (getStall (raiseSource s src) k).msixData = (getStall s k).msixData := (congrArg Stall.msixData (aside_stall (congrArg Aside.stall (aside_raiseSource s src)) k) :)
@[simp] theorem raiseSource_stall_msixOpen (s : State) (src : W16) (k : Nat) : (getStall (raiseSource s src) k).msixOpen = (getStall s k).msixOpen := (congrArg Stall.msixOpen (aside_stall (congrArg Aside.stall (aside_raiseSource s src)) k) :)
@[simp] theorem raiseSource_stall_placedNow (s : State) (src : W16) (k : Nat) : (getStall (raiseSource s src) k).placedNow = (getStall s k).placedNow := (congrArg Stall.placedNow (aside_stall (congrArg Aside.stall (aside_raiseSource s src)) k) :)
@[simp] theorem raiseSource_trail_entries (s : State) (src : W16) : (raiseSource s src).trail.entries = s.trail.entries := (congrArg (fun x => (Aside.trail x).entries) (aside_raiseSource s src) :)
@[simp] theorem raiseSource_trail_wr (s : State) (src : W16) : (raiseSource s src).trail.wr = s.trail.wr := (congrArg (fun x => (Aside.trail x).wr) (aside_raiseSource s src) :)
@[simp] theorem raiseSource_trail_frz (s : State) (src : W16) : (raiseSource s src).trail.frz = s.trail.frz := (congrArg (fun x => (Aside.trail x).frz) (aside_raiseSource s src) :)
@[simp] theorem raiseSource_trail_post (s : State) (src : W16) : (raiseSource s src).trail.post = s.trail.post := (congrArg (fun x => (Aside.trail x).post) (aside_raiseSource s src) :)
@[simp] theorem raiseSource_trail_mask (s : State) (src : W16) : (raiseSource s src).trail.mask = s.trail.mask := (congrArg (fun x => (Aside.trail x).mask) (aside_raiseSource s src) :)
@[simp] theorem raiseSource_trail_frozen (s : State) (src : W16) : (raiseSource s src).trail.frozen = s.trail.frozen := (congrArg (fun x => (Aside.trail x).frozen) (aside_raiseSource s src) :)
@[simp] theorem raiseSource_trail_stopped (s : State) (src : W16) : (raiseSource s src).trail.stopped = s.trail.stopped := (congrArg (fun x => (Aside.trail x).stopped) (aside_raiseSource s src) :)
@[simp] theorem raiseSource_trail_ueSeen (s : State) (src : W16) : (raiseSource s src).trail.ueSeen = s.trail.ueSeen := (congrArg (fun x => (Aside.trail x).ueSeen) (aside_raiseSource s src) :)
@[simp] theorem raiseSource_trail_postLeft (s : State) (src : W16) : (raiseSource s src).trail.postLeft = s.trail.postLeft := (congrArg (fun x => (Aside.trail x).postLeft) (aside_raiseSource s src) :)
@[simp] theorem raiseSource_trail_page2 (s : State) (src : W16) : (raiseSource s src).trail.page2 = s.trail.page2 := (congrArg (fun x => (Aside.trail x).page2) (aside_raiseSource s src) :)
@[simp] theorem raiseSource_trail_page3 (s : State) (src : W16) : (raiseSource s src).trail.page3 = s.trail.page3 := (congrArg (fun x => (Aside.trail x).page3) (aside_raiseSource s src) :)
@[simp] theorem raiseSource_trail_valid (s : State) (src : W16) : (raiseSource s src).trail.valid = s.trail.valid := (congrArg (fun x => (Aside.trail x).valid) (aside_raiseSource s src) :)
@[simp] theorem raiseSource_trail_failedPage (s : State) (src : W16) : (raiseSource s src).trail.failedPage = s.trail.failedPage := (congrArg (fun x => (Aside.trail x).failedPage) (aside_raiseSource s src) :)
@[simp] theorem raiseSource_trail_lastSeq (s : State) (src : W16) : (raiseSource s src).trail.lastSeq = s.trail.lastSeq := (congrArg (fun x => (Aside.trail x).lastSeq) (aside_raiseSource s src) :)
@[simp] theorem raiseSource_trail_writing (s : State) (src : W16) : (raiseSource s src).trail.writing = s.trail.writing := (congrArg (fun x => (Aside.trail x).writing) (aside_raiseSource s src) :)
@[simp] theorem raiseSource_trail_second (s : State) (src : W16) : (raiseSource s src).trail.second = s.trail.second := (congrArg (fun x => (Aside.trail x).second) (aside_raiseSource s src) :)
@[simp] theorem raiseSource_trail_coldSeq (s : State) (src : W16) : (raiseSource s src).trail.coldSeq = s.trail.coldSeq := (congrArg (fun x => (Aside.trail x).coldSeq) (aside_raiseSource s src) :)
@[simp] theorem raiseSource_trail_cursor (s : State) (src : W16) : (raiseSource s src).trail.cursor = s.trail.cursor := (congrArg (fun x => (Aside.trail x).cursor) (aside_raiseSource s src) :)
@[simp] theorem raiseSource_trail_index (s : State) (src : W16) : (raiseSource s src).trail.index = s.trail.index := (congrArg (fun x => (Aside.trail x).index) (aside_raiseSource s src) :)
@[simp] theorem raiseSource_trail_pageWrites (s : State) (src : W16) : (raiseSource s src).trail.pageWrites = s.trail.pageWrites := (congrArg (fun x => (Aside.trail x).pageWrites) (aside_raiseSource s src) :)

/-! ### voidWhen -/

@[simp] theorem voidWhen_pending (s : State) (broken : Bool) : (voidWhen s broken).pending = s.pending := by have h := aside_voidWhen s broken; generalize voidWhen s broken = t at h ⊢; exact congrArg Aside.pending h
@[simp] theorem voidWhen_now (s : State) (broken : Bool) : (voidWhen s broken).now = s.now := by have h := aside_voidWhen s broken; generalize voidWhen s broken = t at h ⊢; exact congrArg Aside.now h
@[simp] theorem voidWhen_free (s : State) (broken : Bool) : (voidWhen s broken).free = s.free := by have h := aside_voidWhen s broken; generalize voidWhen s broken = t at h ⊢; exact congrArg Aside.free h
@[simp] theorem voidWhen_fuses (s : State) (broken : Bool) : (voidWhen s broken).fuses = s.fuses := by have h := aside_voidWhen s broken; generalize voidWhen s broken = t at h ⊢; exact congrArg Aside.fuses h
@[simp] theorem voidWhen_fencing (s : State) (broken : Bool) : (voidWhen s broken).fencing = s.fencing := by have h := aside_voidWhen s broken; generalize voidWhen s broken = t at h ⊢; exact congrArg Aside.fencing h
@[simp] theorem voidWhen_air (s : State) (broken : Bool) : (voidWhen s broken).air = s.air := by have h := aside_voidWhen s broken; generalize voidWhen s broken = t at h ⊢; exact congrArg Aside.air h
@[simp] theorem voidWhen_clusters (s : State) (broken : Bool) : (voidWhen s broken).clusters = s.clusters := by have h := aside_voidWhen s broken; generalize voidWhen s broken = t at h ⊢; exact congrArg Aside.clusters h
@[simp] theorem voidWhen_loader (s : State) (broken : Bool) : (voidWhen s broken).loader = s.loader := by have h := aside_voidWhen s broken; generalize voidWhen s broken = t at h ⊢; exact congrArg Aside.loader h
@[simp] theorem voidWhen_accepted (s : State) (broken : Bool) : (voidWhen s broken).accepted = s.accepted := by have h := aside_voidWhen s broken; generalize voidWhen s broken = t at h ⊢; exact congrArg Aside.accepted h
@[simp] theorem voidWhen_hns (s : State) (broken : Bool) : (voidWhen s broken).hns = s.hns := by have h := aside_voidWhen s broken; generalize voidWhen s broken = t at h ⊢; exact congrArg Aside.hns h
@[simp] theorem voidWhen_merged (s : State) (broken : Bool) : (voidWhen s broken).merged = s.merged := by have h := aside_voidWhen s broken; generalize voidWhen s broken = t at h ⊢; exact congrArg Aside.merged h
@[simp] theorem voidWhen_netNext (s : State) (broken : Bool) : (voidWhen s broken).netNext = s.netNext := by have h := aside_voidWhen s broken; generalize voidWhen s broken = t at h ⊢; exact congrArg Aside.netNext h
@[simp] theorem voidWhen_mgmtStall (s : State) (broken : Bool) : (voidWhen s broken).mgmtStall = s.mgmtStall := by have h := aside_voidWhen s broken; generalize voidWhen s broken = t at h ⊢; exact congrArg Aside.mgmtStall h
@[simp] theorem voidWhen_ports (s : State) (broken : Bool) : (voidWhen s broken).ports = s.ports := by have h := aside_voidWhen s broken; generalize voidWhen s broken = t at h ⊢; exact congrArg Aside.ports h
@[simp] theorem voidWhen_funcs (s : State) (broken : Bool) : (voidWhen s broken).funcs = s.funcs := by have h := aside_voidWhen s broken; generalize voidWhen s broken = t at h ⊢; exact congrArg Aside.funcs h
@[simp] theorem voidWhen_arrays (s : State) (broken : Bool) : (voidWhen s broken).arrays = s.arrays := by have h := aside_voidWhen s broken; generalize voidWhen s broken = t at h ⊢; exact congrArg Aside.arrays h
@[simp] theorem voidWhen_vecs (s : State) (broken : Bool) : (voidWhen s broken).vecs = s.vecs := by have h := aside_voidWhen s broken; generalize voidWhen s broken = t at h ⊢; exact congrArg Aside.vecs h
@[simp] theorem voidWhen_paths (s : State) (broken : Bool) : (voidWhen s broken).paths = s.paths := by have h := aside_voidWhen s broken; generalize voidWhen s broken = t at h ⊢; exact congrArg Aside.paths h
@[simp] theorem voidWhen_feeders (s : State) (broken : Bool) : (voidWhen s broken).feeders = s.feeders := by have h := aside_voidWhen s broken; generalize voidWhen s broken = t at h ⊢; exact congrArg Aside.feeders h
@[simp] theorem voidWhen_mem (s : State) (broken : Bool) : (voidWhen s broken).mem = s.mem := by have h := aside_voidWhen s broken; generalize voidWhen s broken = t at h ⊢; exact congrArg Aside.mem h
@[simp] theorem voidWhen_cores (s : State) (broken : Bool) : (voidWhen s broken).cores = s.cores := by have h := aside_voidWhen s broken; generalize voidWhen s broken = t at h ⊢; exact congrArg Aside.cores h
@[simp] theorem voidWhen_tths (s : State) (broken : Bool) : (voidWhen s broken).tths = s.tths := by have h := aside_voidWhen s broken; generalize voidWhen s broken = t at h ⊢; exact congrArg Aside.tths h
@[simp] theorem voidWhen_iods (s : State) (broken : Bool) : (voidWhen s broken).iods = s.iods := by have h := aside_voidWhen s broken; generalize voidWhen s broken = t at h ⊢; exact congrArg Aside.iods h
@[simp] theorem voidWhen_smPtr (s : State) (broken : Bool) : (voidWhen s broken).smPtr = s.smPtr := by have h := aside_voidWhen s broken; generalize voidWhen s broken = t at h ⊢; exact congrArg Aside.smPtr h
@[simp] theorem voidWhen_smLatch (s : State) (broken : Bool) : (voidWhen s broken).smLatch = s.smLatch := by have h := aside_voidWhen s broken; generalize voidWhen s broken = t at h ⊢; exact congrArg Aside.smLatch h
@[simp] theorem voidWhen_taps (s : State) (broken : Bool) : (voidWhen s broken).taps = s.taps := by have h := aside_voidWhen s broken; generalize voidWhen s broken = t at h ⊢; exact congrArg Aside.taps h
@[simp] theorem voidWhen_testEn (s : State) (broken : Bool) : (voidWhen s broken).testEn = s.testEn := by have h := aside_voidWhen s broken; generalize voidWhen s broken = t at h ⊢; exact congrArg Aside.testEn h
@[simp] theorem voidWhen_decoders (s : State) (broken : Bool) : (voidWhen s broken).decoders = s.decoders := by have h := aside_voidWhen s broken; generalize voidWhen s broken = t at h ⊢; exact congrArg Aside.decoders h
@[simp] theorem voidWhen_school (s : State) (broken : Bool) : (voidWhen s broken).school = s.school := by have h := aside_voidWhen s broken; generalize voidWhen s broken = t at h ⊢; exact congrArg Aside.school h
@[simp] theorem voidWhen_boot (s : State) (broken : Bool) : (voidWhen s broken).boot = s.boot := by have h := aside_voidWhen s broken; generalize voidWhen s broken = t at h ⊢; exact congrArg Aside.boot h
@[simp] theorem voidWhen_grooms (s : State) (broken : Bool) : (voidWhen s broken).grooms = s.grooms := by have h := aside_voidWhen s broken; generalize voidWhen s broken = t at h ⊢; exact congrArg Aside.grooms h
@[simp] theorem voidWhen_grm (s : State) (broken : Bool) : (voidWhen s broken).grm = s.grm := by have h := aside_voidWhen s broken; generalize voidWhen s broken = t at h ⊢; exact congrArg Aside.grm h
@[simp] theorem voidWhen_power (s : State) (broken : Bool) : (voidWhen s broken).power = s.power := by have h := aside_voidWhen s broken; generalize voidWhen s broken = t at h ⊢; exact congrArg Aside.power h
@[simp] theorem voidWhen_flt (s : State) (broken : Bool) : (voidWhen s broken).flt = s.flt := by have h := aside_voidWhen s broken; generalize voidWhen s broken = t at h ⊢; exact congrArg Aside.flt h

/-! ### voidFor -/

@[simp] theorem voidFor_pending (s : State) (code : W16) (kind : BitVec 4) (unit : Nat) (stall : Option (BitVec 4)) : (voidFor s code kind unit stall).pending = s.pending := congrArg Aside.pending (aside_voidFor s code kind unit stall)
@[simp] theorem voidFor_now (s : State) (code : W16) (kind : BitVec 4) (unit : Nat) (stall : Option (BitVec 4)) : (voidFor s code kind unit stall).now = s.now := congrArg Aside.now (aside_voidFor s code kind unit stall)
@[simp] theorem voidFor_free (s : State) (code : W16) (kind : BitVec 4) (unit : Nat) (stall : Option (BitVec 4)) : (voidFor s code kind unit stall).free = s.free := congrArg Aside.free (aside_voidFor s code kind unit stall)
@[simp] theorem voidFor_fuses (s : State) (code : W16) (kind : BitVec 4) (unit : Nat) (stall : Option (BitVec 4)) : (voidFor s code kind unit stall).fuses = s.fuses := congrArg Aside.fuses (aside_voidFor s code kind unit stall)
@[simp] theorem voidFor_fencing (s : State) (code : W16) (kind : BitVec 4) (unit : Nat) (stall : Option (BitVec 4)) : (voidFor s code kind unit stall).fencing = s.fencing := congrArg Aside.fencing (aside_voidFor s code kind unit stall)
@[simp] theorem voidFor_air (s : State) (code : W16) (kind : BitVec 4) (unit : Nat) (stall : Option (BitVec 4)) : (voidFor s code kind unit stall).air = s.air := congrArg Aside.air (aside_voidFor s code kind unit stall)
@[simp] theorem voidFor_clusters (s : State) (code : W16) (kind : BitVec 4) (unit : Nat) (stall : Option (BitVec 4)) : (voidFor s code kind unit stall).clusters = s.clusters := congrArg Aside.clusters (aside_voidFor s code kind unit stall)
@[simp] theorem voidFor_loader (s : State) (code : W16) (kind : BitVec 4) (unit : Nat) (stall : Option (BitVec 4)) : (voidFor s code kind unit stall).loader = s.loader := congrArg Aside.loader (aside_voidFor s code kind unit stall)
@[simp] theorem voidFor_accepted (s : State) (code : W16) (kind : BitVec 4) (unit : Nat) (stall : Option (BitVec 4)) : (voidFor s code kind unit stall).accepted = s.accepted := congrArg Aside.accepted (aside_voidFor s code kind unit stall)
@[simp] theorem voidFor_hns (s : State) (code : W16) (kind : BitVec 4) (unit : Nat) (stall : Option (BitVec 4)) : (voidFor s code kind unit stall).hns = s.hns := congrArg Aside.hns (aside_voidFor s code kind unit stall)
@[simp] theorem voidFor_merged (s : State) (code : W16) (kind : BitVec 4) (unit : Nat) (stall : Option (BitVec 4)) : (voidFor s code kind unit stall).merged = s.merged := congrArg Aside.merged (aside_voidFor s code kind unit stall)
@[simp] theorem voidFor_netNext (s : State) (code : W16) (kind : BitVec 4) (unit : Nat) (stall : Option (BitVec 4)) : (voidFor s code kind unit stall).netNext = s.netNext := congrArg Aside.netNext (aside_voidFor s code kind unit stall)
@[simp] theorem voidFor_mgmtStall (s : State) (code : W16) (kind : BitVec 4) (unit : Nat) (stall : Option (BitVec 4)) : (voidFor s code kind unit stall).mgmtStall = s.mgmtStall := congrArg Aside.mgmtStall (aside_voidFor s code kind unit stall)
@[simp] theorem voidFor_ports (s : State) (code : W16) (kind : BitVec 4) (unit : Nat) (stall : Option (BitVec 4)) : (voidFor s code kind unit stall).ports = s.ports := congrArg Aside.ports (aside_voidFor s code kind unit stall)
@[simp] theorem voidFor_funcs (s : State) (code : W16) (kind : BitVec 4) (unit : Nat) (stall : Option (BitVec 4)) : (voidFor s code kind unit stall).funcs = s.funcs := congrArg Aside.funcs (aside_voidFor s code kind unit stall)
@[simp] theorem voidFor_arrays (s : State) (code : W16) (kind : BitVec 4) (unit : Nat) (stall : Option (BitVec 4)) : (voidFor s code kind unit stall).arrays = s.arrays := congrArg Aside.arrays (aside_voidFor s code kind unit stall)
@[simp] theorem voidFor_vecs (s : State) (code : W16) (kind : BitVec 4) (unit : Nat) (stall : Option (BitVec 4)) : (voidFor s code kind unit stall).vecs = s.vecs := congrArg Aside.vecs (aside_voidFor s code kind unit stall)
@[simp] theorem voidFor_paths (s : State) (code : W16) (kind : BitVec 4) (unit : Nat) (stall : Option (BitVec 4)) : (voidFor s code kind unit stall).paths = s.paths := congrArg Aside.paths (aside_voidFor s code kind unit stall)
@[simp] theorem voidFor_feeders (s : State) (code : W16) (kind : BitVec 4) (unit : Nat) (stall : Option (BitVec 4)) : (voidFor s code kind unit stall).feeders = s.feeders := congrArg Aside.feeders (aside_voidFor s code kind unit stall)
@[simp] theorem voidFor_mem (s : State) (code : W16) (kind : BitVec 4) (unit : Nat) (stall : Option (BitVec 4)) : (voidFor s code kind unit stall).mem = s.mem := congrArg Aside.mem (aside_voidFor s code kind unit stall)
@[simp] theorem voidFor_cores (s : State) (code : W16) (kind : BitVec 4) (unit : Nat) (stall : Option (BitVec 4)) : (voidFor s code kind unit stall).cores = s.cores := congrArg Aside.cores (aside_voidFor s code kind unit stall)
@[simp] theorem voidFor_tths (s : State) (code : W16) (kind : BitVec 4) (unit : Nat) (stall : Option (BitVec 4)) : (voidFor s code kind unit stall).tths = s.tths := congrArg Aside.tths (aside_voidFor s code kind unit stall)
@[simp] theorem voidFor_iods (s : State) (code : W16) (kind : BitVec 4) (unit : Nat) (stall : Option (BitVec 4)) : (voidFor s code kind unit stall).iods = s.iods := congrArg Aside.iods (aside_voidFor s code kind unit stall)
@[simp] theorem voidFor_smPtr (s : State) (code : W16) (kind : BitVec 4) (unit : Nat) (stall : Option (BitVec 4)) : (voidFor s code kind unit stall).smPtr = s.smPtr := congrArg Aside.smPtr (aside_voidFor s code kind unit stall)
@[simp] theorem voidFor_smLatch (s : State) (code : W16) (kind : BitVec 4) (unit : Nat) (stall : Option (BitVec 4)) : (voidFor s code kind unit stall).smLatch = s.smLatch := congrArg Aside.smLatch (aside_voidFor s code kind unit stall)
@[simp] theorem voidFor_taps (s : State) (code : W16) (kind : BitVec 4) (unit : Nat) (stall : Option (BitVec 4)) : (voidFor s code kind unit stall).taps = s.taps := congrArg Aside.taps (aside_voidFor s code kind unit stall)
@[simp] theorem voidFor_testEn (s : State) (code : W16) (kind : BitVec 4) (unit : Nat) (stall : Option (BitVec 4)) : (voidFor s code kind unit stall).testEn = s.testEn := congrArg Aside.testEn (aside_voidFor s code kind unit stall)
@[simp] theorem voidFor_decoders (s : State) (code : W16) (kind : BitVec 4) (unit : Nat) (stall : Option (BitVec 4)) : (voidFor s code kind unit stall).decoders = s.decoders := congrArg Aside.decoders (aside_voidFor s code kind unit stall)
@[simp] theorem voidFor_school (s : State) (code : W16) (kind : BitVec 4) (unit : Nat) (stall : Option (BitVec 4)) : (voidFor s code kind unit stall).school = s.school := congrArg Aside.school (aside_voidFor s code kind unit stall)
@[simp] theorem voidFor_boot (s : State) (code : W16) (kind : BitVec 4) (unit : Nat) (stall : Option (BitVec 4)) : (voidFor s code kind unit stall).boot = s.boot := congrArg Aside.boot (aside_voidFor s code kind unit stall)
@[simp] theorem voidFor_grooms (s : State) (code : W16) (kind : BitVec 4) (unit : Nat) (stall : Option (BitVec 4)) : (voidFor s code kind unit stall).grooms = s.grooms := congrArg Aside.grooms (aside_voidFor s code kind unit stall)
@[simp] theorem voidFor_grm (s : State) (code : W16) (kind : BitVec 4) (unit : Nat) (stall : Option (BitVec 4)) : (voidFor s code kind unit stall).grm = s.grm := congrArg Aside.grm (aside_voidFor s code kind unit stall)
@[simp] theorem voidFor_power (s : State) (code : W16) (kind : BitVec 4) (unit : Nat) (stall : Option (BitVec 4)) : (voidFor s code kind unit stall).power = s.power := congrArg Aside.power (aside_voidFor s code kind unit stall)
@[simp] theorem voidFor_flt (s : State) (code : W16) (kind : BitVec 4) (unit : Nat) (stall : Option (BitVec 4)) : (voidFor s code kind unit stall).flt = s.flt := congrArg Aside.flt (aside_voidFor s code kind unit stall)

/-! ### touchSlot -/

@[simp] theorem touchSlot_pending (s : State) (c rel slot : Nat) : (touchSlot s c rel slot).pending = s.pending := congrArg Aside.pending (aside_touchSlot s c rel slot)
@[simp] theorem touchSlot_now (s : State) (c rel slot : Nat) : (touchSlot s c rel slot).now = s.now := congrArg Aside.now (aside_touchSlot s c rel slot)
@[simp] theorem touchSlot_free (s : State) (c rel slot : Nat) : (touchSlot s c rel slot).free = s.free := congrArg Aside.free (aside_touchSlot s c rel slot)
@[simp] theorem touchSlot_fuses (s : State) (c rel slot : Nat) : (touchSlot s c rel slot).fuses = s.fuses := congrArg Aside.fuses (aside_touchSlot s c rel slot)
@[simp] theorem touchSlot_fencing (s : State) (c rel slot : Nat) : (touchSlot s c rel slot).fencing = s.fencing := congrArg Aside.fencing (aside_touchSlot s c rel slot)
@[simp] theorem touchSlot_air (s : State) (c rel slot : Nat) : (touchSlot s c rel slot).air = s.air := congrArg Aside.air (aside_touchSlot s c rel slot)
@[simp] theorem touchSlot_clusters (s : State) (c rel slot : Nat) : (touchSlot s c rel slot).clusters = s.clusters := congrArg Aside.clusters (aside_touchSlot s c rel slot)
@[simp] theorem touchSlot_loader (s : State) (c rel slot : Nat) : (touchSlot s c rel slot).loader = s.loader := congrArg Aside.loader (aside_touchSlot s c rel slot)
@[simp] theorem touchSlot_accepted (s : State) (c rel slot : Nat) : (touchSlot s c rel slot).accepted = s.accepted := congrArg Aside.accepted (aside_touchSlot s c rel slot)
@[simp] theorem touchSlot_hns (s : State) (c rel slot : Nat) : (touchSlot s c rel slot).hns = s.hns := congrArg Aside.hns (aside_touchSlot s c rel slot)
@[simp] theorem touchSlot_merged (s : State) (c rel slot : Nat) : (touchSlot s c rel slot).merged = s.merged := congrArg Aside.merged (aside_touchSlot s c rel slot)
@[simp] theorem touchSlot_netNext (s : State) (c rel slot : Nat) : (touchSlot s c rel slot).netNext = s.netNext := congrArg Aside.netNext (aside_touchSlot s c rel slot)
@[simp] theorem touchSlot_mgmtStall (s : State) (c rel slot : Nat) : (touchSlot s c rel slot).mgmtStall = s.mgmtStall := congrArg Aside.mgmtStall (aside_touchSlot s c rel slot)
@[simp] theorem touchSlot_ports (s : State) (c rel slot : Nat) : (touchSlot s c rel slot).ports = s.ports := congrArg Aside.ports (aside_touchSlot s c rel slot)
@[simp] theorem touchSlot_funcs (s : State) (c rel slot : Nat) : (touchSlot s c rel slot).funcs = s.funcs := congrArg Aside.funcs (aside_touchSlot s c rel slot)
@[simp] theorem touchSlot_arrays (s : State) (c rel slot : Nat) : (touchSlot s c rel slot).arrays = s.arrays := congrArg Aside.arrays (aside_touchSlot s c rel slot)
@[simp] theorem touchSlot_vecs (s : State) (c rel slot : Nat) : (touchSlot s c rel slot).vecs = s.vecs := congrArg Aside.vecs (aside_touchSlot s c rel slot)
@[simp] theorem touchSlot_paths (s : State) (c rel slot : Nat) : (touchSlot s c rel slot).paths = s.paths := congrArg Aside.paths (aside_touchSlot s c rel slot)
@[simp] theorem touchSlot_feeders (s : State) (c rel slot : Nat) : (touchSlot s c rel slot).feeders = s.feeders := congrArg Aside.feeders (aside_touchSlot s c rel slot)
@[simp] theorem touchSlot_mem (s : State) (c rel slot : Nat) : (touchSlot s c rel slot).mem = s.mem := congrArg Aside.mem (aside_touchSlot s c rel slot)
@[simp] theorem touchSlot_cores (s : State) (c rel slot : Nat) : (touchSlot s c rel slot).cores = s.cores := congrArg Aside.cores (aside_touchSlot s c rel slot)
@[simp] theorem touchSlot_tths (s : State) (c rel slot : Nat) : (touchSlot s c rel slot).tths = s.tths := congrArg Aside.tths (aside_touchSlot s c rel slot)
@[simp] theorem touchSlot_iods (s : State) (c rel slot : Nat) : (touchSlot s c rel slot).iods = s.iods := congrArg Aside.iods (aside_touchSlot s c rel slot)
@[simp] theorem touchSlot_smPtr (s : State) (c rel slot : Nat) : (touchSlot s c rel slot).smPtr = s.smPtr := congrArg Aside.smPtr (aside_touchSlot s c rel slot)
@[simp] theorem touchSlot_smLatch (s : State) (c rel slot : Nat) : (touchSlot s c rel slot).smLatch = s.smLatch := congrArg Aside.smLatch (aside_touchSlot s c rel slot)
@[simp] theorem touchSlot_taps (s : State) (c rel slot : Nat) : (touchSlot s c rel slot).taps = s.taps := congrArg Aside.taps (aside_touchSlot s c rel slot)
@[simp] theorem touchSlot_testEn (s : State) (c rel slot : Nat) : (touchSlot s c rel slot).testEn = s.testEn := congrArg Aside.testEn (aside_touchSlot s c rel slot)
@[simp] theorem touchSlot_decoders (s : State) (c rel slot : Nat) : (touchSlot s c rel slot).decoders = s.decoders := congrArg Aside.decoders (aside_touchSlot s c rel slot)
@[simp] theorem touchSlot_school (s : State) (c rel slot : Nat) : (touchSlot s c rel slot).school = s.school := congrArg Aside.school (aside_touchSlot s c rel slot)
@[simp] theorem touchSlot_boot (s : State) (c rel slot : Nat) : (touchSlot s c rel slot).boot = s.boot := congrArg Aside.boot (aside_touchSlot s c rel slot)
@[simp] theorem touchSlot_grooms (s : State) (c rel slot : Nat) : (touchSlot s c rel slot).grooms = s.grooms := congrArg Aside.grooms (aside_touchSlot s c rel slot)
@[simp] theorem touchSlot_grm (s : State) (c rel slot : Nat) : (touchSlot s c rel slot).grm = s.grm := congrArg Aside.grm (aside_touchSlot s c rel slot)
@[simp] theorem touchSlot_power (s : State) (c rel slot : Nat) : (touchSlot s c rel slot).power = s.power := congrArg Aside.power (aside_touchSlot s c rel slot)
@[simp] theorem touchSlot_flt (s : State) (c rel slot : Nat) : (touchSlot s c rel slot).flt = s.flt := congrArg Aside.flt (aside_touchSlot s c rel slot)

/-! ### report -/

@[simp] theorem report_pending (s : State) (e : Event) : (report s e).pending = s.pending := congrArg Aside.pending (aside_report s e)
@[simp] theorem report_now (s : State) (e : Event) : (report s e).now = s.now := congrArg Aside.now (aside_report s e)
@[simp] theorem report_free (s : State) (e : Event) : (report s e).free = s.free := congrArg Aside.free (aside_report s e)
@[simp] theorem report_fuses (s : State) (e : Event) : (report s e).fuses = s.fuses := congrArg Aside.fuses (aside_report s e)
@[simp] theorem report_fencing (s : State) (e : Event) : (report s e).fencing = s.fencing := congrArg Aside.fencing (aside_report s e)
@[simp] theorem report_air (s : State) (e : Event) : (report s e).air = s.air := congrArg Aside.air (aside_report s e)
@[simp] theorem report_clusters (s : State) (e : Event) : (report s e).clusters = s.clusters := congrArg Aside.clusters (aside_report s e)
@[simp] theorem report_loader (s : State) (e : Event) : (report s e).loader = s.loader := congrArg Aside.loader (aside_report s e)
@[simp] theorem report_accepted (s : State) (e : Event) : (report s e).accepted = s.accepted := congrArg Aside.accepted (aside_report s e)
@[simp] theorem report_hns (s : State) (e : Event) : (report s e).hns = s.hns := congrArg Aside.hns (aside_report s e)
@[simp] theorem report_merged (s : State) (e : Event) : (report s e).merged = s.merged := congrArg Aside.merged (aside_report s e)
@[simp] theorem report_netNext (s : State) (e : Event) : (report s e).netNext = s.netNext := congrArg Aside.netNext (aside_report s e)
@[simp] theorem report_mgmtStall (s : State) (e : Event) : (report s e).mgmtStall = s.mgmtStall := congrArg Aside.mgmtStall (aside_report s e)
@[simp] theorem report_ports (s : State) (e : Event) : (report s e).ports = s.ports := congrArg Aside.ports (aside_report s e)
@[simp] theorem report_funcs (s : State) (e : Event) : (report s e).funcs = s.funcs := congrArg Aside.funcs (aside_report s e)
@[simp] theorem report_arrays (s : State) (e : Event) : (report s e).arrays = s.arrays := congrArg Aside.arrays (aside_report s e)
@[simp] theorem report_vecs (s : State) (e : Event) : (report s e).vecs = s.vecs := congrArg Aside.vecs (aside_report s e)
@[simp] theorem report_paths (s : State) (e : Event) : (report s e).paths = s.paths := congrArg Aside.paths (aside_report s e)
@[simp] theorem report_feeders (s : State) (e : Event) : (report s e).feeders = s.feeders := congrArg Aside.feeders (aside_report s e)
@[simp] theorem report_mem (s : State) (e : Event) : (report s e).mem = s.mem := congrArg Aside.mem (aside_report s e)
@[simp] theorem report_cores (s : State) (e : Event) : (report s e).cores = s.cores := congrArg Aside.cores (aside_report s e)
@[simp] theorem report_tths (s : State) (e : Event) : (report s e).tths = s.tths := congrArg Aside.tths (aside_report s e)
@[simp] theorem report_iods (s : State) (e : Event) : (report s e).iods = s.iods := congrArg Aside.iods (aside_report s e)
@[simp] theorem report_smPtr (s : State) (e : Event) : (report s e).smPtr = s.smPtr := congrArg Aside.smPtr (aside_report s e)
@[simp] theorem report_smLatch (s : State) (e : Event) : (report s e).smLatch = s.smLatch := congrArg Aside.smLatch (aside_report s e)
@[simp] theorem report_taps (s : State) (e : Event) : (report s e).taps = s.taps := congrArg Aside.taps (aside_report s e)
@[simp] theorem report_testEn (s : State) (e : Event) : (report s e).testEn = s.testEn := congrArg Aside.testEn (aside_report s e)
@[simp] theorem report_decoders (s : State) (e : Event) : (report s e).decoders = s.decoders := congrArg Aside.decoders (aside_report s e)
@[simp] theorem report_school (s : State) (e : Event) : (report s e).school = s.school := congrArg Aside.school (aside_report s e)
@[simp] theorem report_boot (s : State) (e : Event) : (report s e).boot = s.boot := congrArg Aside.boot (aside_report s e)
@[simp] theorem report_grooms (s : State) (e : Event) : (report s e).grooms = s.grooms := congrArg Aside.grooms (aside_report s e)
@[simp] theorem report_grm (s : State) (e : Event) : (report s e).grm = s.grm := congrArg Aside.grm (aside_report s e)
@[simp] theorem report_power (s : State) (e : Event) : (report s e).power = s.power := congrArg Aside.power (aside_report s e)
@[simp] theorem report_stall_state (s : State) (e : Event) (k : Nat) : (getStall (report s e) k).state = (getStall s k).state := (congrArg Stall.state (aside_stall (aside_report_stall s e) k) :)
@[simp] theorem report_stall_segHold (s : State) (e : Event) (k : Nat) : (getStall (report s e) k).segHold = (getStall s k).segHold := (congrArg Stall.segHold (aside_stall (aside_report_stall s e) k) :)
@[simp] theorem report_stall_quiesce (s : State) (e : Event) (k : Nat) : (getStall (report s e) k).quiesce = (getStall s k).quiesce := (congrArg Stall.quiesce (aside_stall (aside_report_stall s e) k) :)
@[simp] theorem report_stall_carriersLive (s : State) (e : Event) (k : Nat) : (getStall (report s e) k).carriersLive = (getStall s k).carriersLive := (congrArg Stall.carriersLive (aside_stall (aside_report_stall s e) k) :)
@[simp] theorem report_stall_faultCode (s : State) (e : Event) (k : Nat) : (getStall (report s e) k).faultCode = (getStall s k).faultCode := (congrArg Stall.faultCode (aside_stall (aside_report_stall s e) k) :)
@[simp] theorem report_stall_faultUnit (s : State) (e : Event) (k : Nat) : (getStall (report s e) k).faultUnit = (getStall s k).faultUnit := (congrArg Stall.faultUnit (aside_stall (aside_report_stall s e) k) :)
@[simp] theorem report_stall_faultKind (s : State) (e : Event) (k : Nat) : (getStall (report s e) k).faultKind = (getStall s k).faultKind := (congrArg Stall.faultKind (aside_stall (aside_report_stall s e) k) :)
@[simp] theorem report_stall_faultJob (s : State) (e : Event) (k : Nat) : (getStall (report s e) k).faultJob = (getStall s k).faultJob := (congrArg Stall.faultJob (aside_stall (aside_report_stall s e) k) :)
@[simp] theorem report_stall_faultWas (s : State) (e : Event) (k : Nat) : (getStall (report s e) k).faultWas = (getStall s k).faultWas := (congrArg Stall.faultWas (aside_stall (aside_report_stall s e) k) :)
@[simp] theorem report_stall_faultNew (s : State) (e : Event) (k : Nat) : (getStall (report s e) k).faultNew = (getStall s k).faultNew := (congrArg Stall.faultNew (aside_stall (aside_report_stall s e) k) :)
@[simp] theorem report_stall_quiesceLate (s : State) (e : Event) (k : Nat) : (getStall (report s e) k).quiesceLate = (getStall s k).quiesceLate := (congrArg Stall.quiesceLate (aside_stall (aside_report_stall s e) k) :)
@[simp] theorem report_stall_accErr (s : State) (e : Event) (k : Nat) : (getStall (report s e) k).accErr = (getStall s k).accErr := (congrArg Stall.accErr (aside_stall (aside_report_stall s e) k) :)
@[simp] theorem report_stall_resetCnt (s : State) (e : Event) (k : Nat) : (getStall (report s e) k).resetCnt = (getStall s k).resetCnt := (congrArg Stall.resetCnt (aside_stall (aside_report_stall s e) k) :)
@[simp] theorem report_stall_resetStep (s : State) (e : Event) (k : Nat) : (getStall (report s e) k).resetStep = (getStall s k).resetStep := (congrArg Stall.resetStep (aside_stall (aside_report_stall s e) k) :)
@[simp] theorem report_stall_share (s : State) (e : Event) (k : Nat) : (getStall (report s e) k).share = (getStall s k).share := (congrArg Stall.share (aside_stall (aside_report_stall s e) k) :)
@[simp] theorem report_stall_sharePending (s : State) (e : Event) (k : Nat) : (getStall (report s e) k).sharePending = (getStall s k).sharePending := (congrArg Stall.sharePending (aside_stall (aside_report_stall s e) k) :)
@[simp] theorem report_stall_queues (s : State) (e : Event) (k : Nat) : (getStall (report s e) k).queues = (getStall s k).queues := (congrArg Stall.queues (aside_stall (aside_report_stall s e) k) :)
@[simp] theorem report_stall_epoch (s : State) (e : Event) (k : Nat) : (getStall (report s e) k).epoch = (getStall s k).epoch := (congrArg Stall.epoch (aside_stall (aside_report_stall s e) k) :)
@[simp] theorem report_stall_badJournal (s : State) (e : Event) (k : Nat) : (getStall (report s e) k).badJournal = (getStall s k).badJournal := (congrArg Stall.badJournal (aside_stall (aside_report_stall s e) k) :)
@[simp] theorem report_stall_initialised (s : State) (e : Event) (k : Nat) : (getStall (report s e) k).initialised = (getStall s k).initialised := (congrArg Stall.initialised (aside_stall (aside_report_stall s e) k) :)
@[simp] theorem report_stall_journalRec (s : State) (e : Event) (k : Nat) : (getStall (report s e) k).journalRec = (getStall s k).journalRec := (congrArg Stall.journalRec (aside_stall (aside_report_stall s e) k) :)
@[simp] theorem report_stall_ansBase (s : State) (e : Event) (k : Nat) : (getStall (report s e) k).ansBase = (getStall s k).ansBase := (congrArg Stall.ansBase (aside_stall (aside_report_stall s e) k) :)
@[simp] theorem report_stall_ansHead (s : State) (e : Event) (k : Nat) : (getStall (report s e) k).ansHead = (getStall s k).ansHead := (congrArg Stall.ansHead (aside_stall (aside_report_stall s e) k) :)
@[simp] theorem report_stall_ansWr (s : State) (e : Event) (k : Nat) : (getStall (report s e) k).ansWr = (getStall s k).ansWr := (congrArg Stall.ansWr (aside_stall (aside_report_stall s e) k) :)
@[simp] theorem report_stall_ansDrop (s : State) (e : Event) (k : Nat) : (getStall (report s e) k).ansDrop = (getStall s k).ansDrop := (congrArg Stall.ansDrop (aside_stall (aside_report_stall s e) k) :)
@[simp] theorem report_stall_runs (s : State) (e : Event) (k : Nat) : (getStall (report s e) k).runs = (getStall s k).runs := (congrArg Stall.runs (aside_stall (aside_report_stall s e) k) :)
@[simp] theorem report_stall_openBatches (s : State) (e : Event) (k : Nat) : (getStall (report s e) k).openBatches = (getStall s k).openBatches := (congrArg Stall.openBatches (aside_stall (aside_report_stall s e) k) :)
@[simp] theorem report_stall_closedBatches (s : State) (e : Event) (k : Nat) : (getStall (report s e) k).closedBatches = (getStall s k).closedBatches := (congrArg Stall.closedBatches (aside_stall (aside_report_stall s e) k) :)
@[simp] theorem report_stall_gthBatch (s : State) (e : Event) (k : Nat) : (getStall (report s e) k).gthBatch = (getStall s k).gthBatch := (congrArg Stall.gthBatch (aside_stall (aside_report_stall s e) k) :)
@[simp] theorem report_stall_gthRows (s : State) (e : Event) (k : Nat) : (getStall (report s e) k).gthRows = (getStall s k).gthRows := (congrArg Stall.gthRows (aside_stall (aside_report_stall s e) k) :)
@[simp] theorem report_stall_gthArray (s : State) (e : Event) (k : Nat) : (getStall (report s e) k).gthArray = (getStall s k).gthArray := (congrArg Stall.gthArray (aside_stall (aside_report_stall s e) k) :)
@[simp] theorem report_stall_arrNs (s : State) (e : Event) (k : Nat) : (getStall (report s e) k).arrNs = (getStall s k).arrNs := (congrArg Stall.arrNs (aside_stall (aside_report_stall s e) k) :)
@[simp] theorem report_stall_mvpNs (s : State) (e : Event) (k : Nat) : (getStall (report s e) k).mvpNs = (getStall s k).mvpNs := (congrArg Stall.mvpNs (aside_stall (aside_report_stall s e) k) :)
@[simp] theorem report_stall_vecNs (s : State) (e : Event) (k : Nat) : (getStall (report s e) k).vecNs = (getStall s k).vecNs := (congrArg Stall.vecNs (aside_stall (aside_report_stall s e) k) :)
@[simp] theorem report_stall_switchNs (s : State) (e : Event) (k : Nat) : (getStall (report s e) k).switchNs = (getStall s k).switchNs := (congrArg Stall.switchNs (aside_stall (aside_report_stall s e) k) :)
@[simp] theorem report_stall_stableNs (s : State) (e : Event) (k : Nat) : (getStall (report s e) k).stableNs = (getStall s k).stableNs := (congrArg Stall.stableNs (aside_stall (aside_report_stall s e) k) :)
@[simp] theorem report_stall_va (s : State) (e : Event) (k : Nat) : (getStall (report s e) k).va = (getStall s k).va := (congrArg Stall.va (aside_stall (aside_report_stall s e) k) :)
@[simp] theorem report_stall_vp (s : State) (e : Event) (k : Nat) : (getStall (report s e) k).vp = (getStall s k).vp := (congrArg Stall.vp (aside_stall (aside_report_stall s e) k) :)
@[simp] theorem report_stall_backlogArr (s : State) (e : Event) (k : Nat) : (getStall (report s e) k).backlogArr = (getStall s k).backlogArr := (congrArg Stall.backlogArr (aside_stall (aside_report_stall s e) k) :)
@[simp] theorem report_stall_backlogMvp (s : State) (e : Event) (k : Nat) : (getStall (report s e) k).backlogMvp = (getStall s k).backlogMvp := (congrArg Stall.backlogMvp (aside_stall (aside_report_stall s e) k) :)
@[simp] theorem report_stall_images (s : State) (e : Event) (k : Nat) : (getStall (report s e) k).images = (getStall s k).images := (congrArg Stall.images (aside_stall (aside_report_stall s e) k) :)
@[simp] theorem report_stall_variant (s : State) (e : Event) (k : Nat) : (getStall (report s e) k).variant = (getStall s k).variant := (congrArg Stall.variant (aside_stall (aside_report_stall s e) k) :)
@[simp] theorem report_stall_shedK (s : State) (e : Event) (k : Nat) : (getStall (report s e) k).shedK = (getStall s k).shedK := (congrArg Stall.shedK (aside_stall (aside_report_stall s e) k) :)
@[simp] theorem report_stall_remaps (s : State) (e : Event) (k : Nat) : (getStall (report s e) k).remaps = (getStall s k).remaps := (congrArg Stall.remaps (aside_stall (aside_report_stall s e) k) :)
@[simp] theorem report_stall_uncovered (s : State) (e : Event) (k : Nat) : (getStall (report s e) k).uncovered = (getStall s k).uncovered := (congrArg Stall.uncovered (aside_stall (aside_report_stall s e) k) :)
@[simp] theorem report_stall_fdrRd (s : State) (e : Event) (k : Nat) : (getStall (report s e) k).fdrRd = (getStall s k).fdrRd := (congrArg Stall.fdrRd (aside_stall (aside_report_stall s e) k) :)
@[simp] theorem report_stall_fdrWr (s : State) (e : Event) (k : Nat) : (getStall (report s e) k).fdrWr = (getStall s k).fdrWr := (congrArg Stall.fdrWr (aside_stall (aside_report_stall s e) k) :)
@[simp] theorem report_stall_llcHit (s : State) (e : Event) (k : Nat) : (getStall (report s e) k).llcHit = (getStall s k).llcHit := (congrArg Stall.llcHit (aside_stall (aside_report_stall s e) k) :)
@[simp] theorem report_stall_llcMiss (s : State) (e : Event) (k : Nat) : (getStall (report s e) k).llcMiss = (getStall s k).llcMiss := (congrArg Stall.llcMiss (aside_stall (aside_report_stall s e) k) :)
@[simp] theorem report_stall_msixAddr (s : State) (e : Event) (k : Nat) : (getStall (report s e) k).msixAddr = (getStall s k).msixAddr := (congrArg Stall.msixAddr (aside_stall (aside_report_stall s e) k) :)
@[simp] theorem report_stall_msixData (s : State) (e : Event) (k : Nat) : (getStall (report s e) k).msixData = (getStall s k).msixData := (congrArg Stall.msixData (aside_stall (aside_report_stall s e) k) :)
@[simp] theorem report_stall_msixOpen (s : State) (e : Event) (k : Nat) : (getStall (report s e) k).msixOpen = (getStall s k).msixOpen := (congrArg Stall.msixOpen (aside_stall (aside_report_stall s e) k) :)
@[simp] theorem report_stall_placedNow (s : State) (e : Event) (k : Nat) : (getStall (report s e) k).placedNow = (getStall s k).placedNow := (congrArg Stall.placedNow (aside_stall (aside_report_stall s e) k) :)
@[simp] theorem report_trail_entries (s : State) (e : Event) : (report s e).trail.entries = s.trail.entries := (congrArg (fun x => (Aside.trail x).entries) (aside_report s e) :)
@[simp] theorem report_trail_wr (s : State) (e : Event) : (report s e).trail.wr = s.trail.wr := (congrArg (fun x => (Aside.trail x).wr) (aside_report s e) :)
@[simp] theorem report_trail_frz (s : State) (e : Event) : (report s e).trail.frz = s.trail.frz := (congrArg (fun x => (Aside.trail x).frz) (aside_report s e) :)
@[simp] theorem report_trail_post (s : State) (e : Event) : (report s e).trail.post = s.trail.post := (congrArg (fun x => (Aside.trail x).post) (aside_report s e) :)
@[simp] theorem report_trail_mask (s : State) (e : Event) : (report s e).trail.mask = s.trail.mask := (congrArg (fun x => (Aside.trail x).mask) (aside_report s e) :)
@[simp] theorem report_trail_frozen (s : State) (e : Event) : (report s e).trail.frozen = s.trail.frozen := (congrArg (fun x => (Aside.trail x).frozen) (aside_report s e) :)
@[simp] theorem report_trail_stopped (s : State) (e : Event) : (report s e).trail.stopped = s.trail.stopped := (congrArg (fun x => (Aside.trail x).stopped) (aside_report s e) :)
@[simp] theorem report_trail_ueSeen (s : State) (e : Event) : (report s e).trail.ueSeen = s.trail.ueSeen := (congrArg (fun x => (Aside.trail x).ueSeen) (aside_report s e) :)
@[simp] theorem report_trail_postLeft (s : State) (e : Event) : (report s e).trail.postLeft = s.trail.postLeft := (congrArg (fun x => (Aside.trail x).postLeft) (aside_report s e) :)
@[simp] theorem report_trail_page2 (s : State) (e : Event) : (report s e).trail.page2 = s.trail.page2 := (congrArg (fun x => (Aside.trail x).page2) (aside_report s e) :)
@[simp] theorem report_trail_page3 (s : State) (e : Event) : (report s e).trail.page3 = s.trail.page3 := (congrArg (fun x => (Aside.trail x).page3) (aside_report s e) :)
@[simp] theorem report_trail_valid (s : State) (e : Event) : (report s e).trail.valid = s.trail.valid := (congrArg (fun x => (Aside.trail x).valid) (aside_report s e) :)
@[simp] theorem report_trail_failedPage (s : State) (e : Event) : (report s e).trail.failedPage = s.trail.failedPage := (congrArg (fun x => (Aside.trail x).failedPage) (aside_report s e) :)
@[simp] theorem report_trail_lastSeq (s : State) (e : Event) : (report s e).trail.lastSeq = s.trail.lastSeq := (congrArg (fun x => (Aside.trail x).lastSeq) (aside_report s e) :)
@[simp] theorem report_trail_writing (s : State) (e : Event) : (report s e).trail.writing = s.trail.writing := (congrArg (fun x => (Aside.trail x).writing) (aside_report s e) :)
@[simp] theorem report_trail_second (s : State) (e : Event) : (report s e).trail.second = s.trail.second := (congrArg (fun x => (Aside.trail x).second) (aside_report s e) :)
@[simp] theorem report_trail_coldSeq (s : State) (e : Event) : (report s e).trail.coldSeq = s.trail.coldSeq := (congrArg (fun x => (Aside.trail x).coldSeq) (aside_report s e) :)
@[simp] theorem report_trail_cursor (s : State) (e : Event) : (report s e).trail.cursor = s.trail.cursor := (congrArg (fun x => (Aside.trail x).cursor) (aside_report s e) :)
@[simp] theorem report_trail_index (s : State) (e : Event) : (report s e).trail.index = s.trail.index := (congrArg (fun x => (Aside.trail x).index) (aside_report s e) :)
@[simp] theorem report_trail_pageWrites (s : State) (e : Event) : (report s e).trail.pageWrites = s.trail.pageWrites := (congrArg (fun x => (Aside.trail x).pageWrites) (aside_report s e) :)
@[simp] theorem report_girth_state (s : State) (e : Event) (k : Nat) : (getGirth (report s e) k).state = (getGirth s k).state := (congrArg Girth.state (aside_girth (aside_report_girth s e) k) :)
@[simp] theorem report_girth_phase (s : State) (e : Event) (k : Nat) : (getGirth (report s e) k).phase = (getGirth s k).phase := (congrArg Girth.phase (aside_girth (aside_report_girth s e) k) :)
@[simp] theorem report_girth_full (s : State) (e : Event) (k : Nat) : (getGirth (report s e) k).full = (getGirth s k).full := (congrArg Girth.full (aside_girth (aside_report_girth s e) k) :)
@[simp] theorem report_girth_faulty (s : State) (e : Event) (k : Nat) : (getGirth (report s e) k).faulty = (getGirth s k).faulty := (congrArg Girth.faulty (aside_girth (aside_report_girth s e) k) :)
@[simp] theorem report_girth_txScr (s : State) (e : Event) (k : Nat) : (getGirth (report s e) k).txScr = (getGirth s k).txScr := (congrArg Girth.txScr (aside_girth (aside_report_girth s e) k) :)
@[simp] theorem report_girth_rxScr (s : State) (e : Event) (k : Nat) : (getGirth (report s e) k).rxScr = (getGirth s k).rxScr := (congrArg Girth.rxScr (aside_girth (aside_report_girth s e) k) :)
@[simp] theorem report_girth_lat (s : State) (e : Event) (k : Nat) : (getGirth (report s e) k).lat = (getGirth s k).lat := (congrArg Girth.lat (aside_girth (aside_report_girth s e) k) :)
@[simp] theorem report_girth_timLate (s : State) (e : Event) (k : Nat) : (getGirth (report s e) k).timLate = (getGirth s k).timLate := (congrArg Girth.timLate (aside_girth (aside_report_girth s e) k) :)
@[simp] theorem report_girth_failCause (s : State) (e : Event) (k : Nat) : (getGirth (report s e) k).failCause = (getGirth s k).failCause := (congrArg Girth.failCause (aside_girth (aside_report_girth s e) k) :)
@[simp] theorem report_girth_peer (s : State) (e : Event) (k : Nat) : (getGirth (report s e) k).peer = (getGirth s k).peer := (congrArg Girth.peer (aside_girth (aside_report_girth s e) k) :)
@[simp] theorem report_girth_txFlits (s : State) (e : Event) (k : Nat) : (getGirth (report s e) k).txFlits = (getGirth s k).txFlits := (congrArg Girth.txFlits (aside_girth (aside_report_girth s e) k) :)
@[simp] theorem report_girth_rxFlits (s : State) (e : Event) (k : Nat) : (getGirth (report s e) k).rxFlits = (getGirth s k).rxFlits := (congrArg Girth.rxFlits (aside_girth (aside_report_girth s e) k) :)
@[simp] theorem report_girth_crcErr (s : State) (e : Event) (k : Nat) : (getGirth (report s e) k).crcErr = (getGirth s k).crcErr := (congrArg Girth.crcErr (aside_girth (aside_report_girth s e) k) :)
@[simp] theorem report_girth_replay (s : State) (e : Event) (k : Nat) : (getGirth (report s e) k).replay = (getGirth s k).replay := (congrArg Girth.replay (aside_girth (aside_report_girth s e) k) :)
@[simp] theorem report_girth_dup (s : State) (e : Event) (k : Nat) : (getGirth (report s e) k).dup = (getGirth s k).dup := (congrArg Girth.dup (aside_girth (aside_report_girth s e) k) :)
@[simp] theorem report_girth_retrain (s : State) (e : Event) (k : Nat) : (getGirth (report s e) k).retrain = (getGirth s k).retrain := (congrArg Girth.retrain (aside_girth (aside_report_girth s e) k) :)
@[simp] theorem report_girth_timLateCnt (s : State) (e : Event) (k : Nat) : (getGirth (report s e) k).timLateCnt = (getGirth s k).timLateCnt := (congrArg Girth.timLateCnt (aside_girth (aside_report_girth s e) k) :)
@[simp] theorem report_girth_timeAdj (s : State) (e : Event) (k : Nat) : (getGirth (report s e) k).timeAdj = (getGirth s k).timeAdj := (congrArg Girth.timeAdj (aside_girth (aside_report_girth s e) k) :)
@[simp] theorem report_girth_hostDrop (s : State) (e : Event) (k : Nat) : (getGirth (report s e) k).hostDrop = (getGirth s k).hostDrop := (congrArg Girth.hostDrop (aside_girth (aside_report_girth s e) k) :)
@[simp] theorem report_girth_activeAt (s : State) (e : Event) (k : Nat) : (getGirth (report s e) k).activeAt = (getGirth s k).activeAt := (congrArg Girth.activeAt (aside_girth (aside_report_girth s e) k) :)
@[simp] theorem report_girth_spans (s : State) (e : Event) (k : Nat) : (getGirth (report s e) k).spans = (getGirth s k).spans := (congrArg Girth.spans (aside_girth (aside_report_girth s e) k) :)
@[simp] theorem report_girth_retrained (s : State) (e : Event) (k : Nat) : (getGirth (report s e) k).retrained = (getGirth s k).retrained := (congrArg Girth.retrained (aside_girth (aside_report_girth s e) k) :)
@[simp] theorem report_girth_timeSteps (s : State) (e : Event) (k : Nat) : (getGirth (report s e) k).timeSteps = (getGirth s k).timeSteps := (congrArg Girth.timeSteps (aside_girth (aside_report_girth s e) k) :)
@[simp] theorem report_girth_timeLoads (s : State) (e : Event) (k : Nat) : (getGirth (report s e) k).timeLoads = (getGirth s k).timeLoads := (congrArg Girth.timeLoads (aside_girth (aside_report_girth s e) k) :)
@[simp] theorem report_girth_timeDue (s : State) (e : Event) (k : Nat) : (getGirth (report s e) k).timeDue = (getGirth s k).timeDue := (congrArg Girth.timeDue (aside_girth (aside_report_girth s e) k) :)
@[simp] theorem report_girth_timeAt (s : State) (e : Event) (k : Nat) : (getGirth (report s e) k).timeAt = (getGirth s k).timeAt := (congrArg Girth.timeAt (aside_girth (aside_report_girth s e) k) :)
@[simp] theorem report_girth_failRun (s : State) (e : Event) (k : Nat) : (getGirth (report s e) k).failRun = (getGirth s k).failRun := (congrArg Girth.failRun (aside_girth (aside_report_girth s e) k) :)
@[simp] theorem report_girth_txSeq (s : State) (e : Event) (k : Nat) : (getGirth (report s e) k).txSeq = (getGirth s k).txSeq := (congrArg Girth.txSeq (aside_girth (aside_report_girth s e) k) :)
@[simp] theorem report_girth_rxSeq (s : State) (e : Event) (k : Nat) : (getGirth (report s e) k).rxSeq = (getGirth s k).rxSeq := (congrArg Girth.rxSeq (aside_girth (aside_report_girth s e) k) :)
@[simp] theorem report_girth_ackValid (s : State) (e : Event) (k : Nat) : (getGirth (report s e) k).ackValid = (getGirth s k).ackValid := (congrArg Girth.ackValid (aside_girth (aside_report_girth s e) k) :)
@[simp] theorem report_girth_acked (s : State) (e : Event) (k : Nat) : (getGirth (report s e) k).acked = (getGirth s k).acked := (congrArg Girth.acked (aside_girth (aside_report_girth s e) k) :)
@[simp] theorem report_girth_buf (s : State) (e : Event) (k : Nat) : (getGirth (report s e) k).buf = (getGirth s k).buf := (congrArg Girth.buf (aside_girth (aside_report_girth s e) k) :)
@[simp] theorem report_girth_resend (s : State) (e : Event) (k : Nat) : (getGirth (report s e) k).resend = (getGirth s k).resend := (congrArg Girth.resend (aside_girth (aside_report_girth s e) k) :)
@[simp] theorem report_girth_nakAt (s : State) (e : Event) (k : Nat) : (getGirth (report s e) k).nakAt = (getGirth s k).nakAt := (congrArg Girth.nakAt (aside_girth (aside_report_girth s e) k) :)
@[simp] theorem report_girth_nakDue (s : State) (e : Event) (k : Nat) : (getGirth (report s e) k).nakDue = (getGirth s k).nakDue := (congrArg Girth.nakDue (aside_girth (aside_report_girth s e) k) :)
@[simp] theorem report_girth_ackAt (s : State) (e : Event) (k : Nat) : (getGirth (report s e) k).ackAt = (getGirth s k).ackAt := (congrArg Girth.ackAt (aside_girth (aside_report_girth s e) k) :)
@[simp] theorem report_girth_crcTimes (s : State) (e : Event) (k : Nat) : (getGirth (report s e) k).crcTimes = (getGirth s k).crcTimes := (congrArg Girth.crcTimes (aside_girth (aside_report_girth s e) k) :)
@[simp] theorem report_girth_used (s : State) (e : Event) (k : Nat) : (getGirth (report s e) k).used = (getGirth s k).used := (congrArg Girth.used (aside_girth (aside_report_girth s e) k) :)
@[simp] theorem report_girth_limit (s : State) (e : Event) (k : Nat) : (getGirth (report s e) k).limit = (getGirth s k).limit := (congrArg Girth.limit (aside_girth (aside_report_girth s e) k) :)
@[simp] theorem report_girth_rr (s : State) (e : Event) (k : Nat) : (getGirth (report s e) k).rr = (getGirth s k).rr := (congrArg Girth.rr (aside_girth (aside_report_girth s e) k) :)
@[simp] theorem report_girth_credRot (s : State) (e : Event) (k : Nat) : (getGirth (report s e) k).credRot = (getGirth s k).credRot := (congrArg Girth.credRot (aside_girth (aside_report_girth s e) k) :)
@[simp] theorem report_girth_ctrlQ (s : State) (e : Event) (k : Nat) : (getGirth (report s e) k).ctrlQ = (getGirth s k).ctrlQ := (congrArg Girth.ctrlQ (aside_girth (aside_report_girth s e) k) :)
@[simp] theorem report_girth_reqs (s : State) (e : Event) (k : Nat) : (getGirth (report s e) k).reqs = (getGirth s k).reqs := (congrArg Girth.reqs (aside_girth (aside_report_girth s e) k) :)
@[simp] theorem report_girth_reqWait (s : State) (e : Event) (k : Nat) : (getGirth (report s e) k).reqWait = (getGirth s k).reqWait := (congrArg Girth.reqWait (aside_girth (aside_report_girth s e) k) :)
@[simp] theorem report_girth_held (s : State) (e : Event) (k : Nat) : (getGirth (report s e) k).held = (getGirth s k).held := (congrArg Girth.held (aside_girth (aside_report_girth s e) k) :)
@[simp] theorem report_girth_nextTag (s : State) (e : Event) (k : Nat) : (getGirth (report s e) k).nextTag = (getGirth s k).nextTag := (congrArg Girth.nextTag (aside_girth (aside_report_girth s e) k) :)
@[simp] theorem report_carrier_shed (s : State) (e : Event) (k : Nat) : (getCarrier (report s e) k).shed = (getCarrier s k).shed := (congrArg Carrier.shed (aside_carrier (aside_report_carrier s e) k) :)
@[simp] theorem report_carrier_shedFrom (s : State) (e : Event) (k : Nat) : (getCarrier (report s e) k).shedFrom = (getCarrier s k).shedFrom := (congrArg Carrier.shedFrom (aside_carrier (aside_report_carrier s e) k) :)
@[simp] theorem report_carrier_liveFrom (s : State) (e : Event) (k : Nat) : (getCarrier (report s e) k).liveFrom = (getCarrier s k).liveFrom := (congrArg Carrier.liveFrom (aside_carrier (aside_report_carrier s e) k) :)
@[simp] theorem report_carrier_swaps (s : State) (e : Event) (k : Nat) : (getCarrier (report s e) k).swaps = (getCarrier s k).swaps := (congrArg Carrier.swaps (aside_carrier (aside_report_carrier s e) k) :)
@[simp] theorem report_carrier_array (s : State) (e : Event) (k : Nat) : (getCarrier (report s e) k).array = (getCarrier s k).array := (congrArg Carrier.array (aside_carrier (aside_report_carrier s e) k) :)
@[simp] theorem report_carrier_frozen (s : State) (e : Event) (k : Nat) : (getCarrier (report s e) k).frozen = (getCarrier s k).frozen := (congrArg Carrier.frozen (aside_carrier (aside_report_carrier s e) k) :)
@[simp] theorem report_carrier_lastStatus (s : State) (e : Event) (k : Nat) : (getCarrier (report s e) k).lastStatus = (getCarrier s k).lastStatus := (congrArg Carrier.lastStatus (aside_carrier (aside_report_carrier s e) k) :)
@[simp] theorem report_carrier_gainSet (s : State) (e : Event) (k : Nat) : (getCarrier (report s e) k).gainSet = (getCarrier s k).gainSet := (congrArg Carrier.gainSet (aside_carrier (aside_report_carrier s e) k) :)
@[simp] theorem report_carrier_repHead (s : State) (e : Event) (k : Nat) : (getCarrier (report s e) k).repHead = (getCarrier s k).repHead := (congrArg Carrier.repHead (aside_carrier (aside_report_carrier s e) k) :)
@[simp] theorem report_carrier_repSeq (s : State) (e : Event) (k : Nat) : (getCarrier (report s e) k).repSeq = (getCarrier s k).repSeq := (congrArg Carrier.repSeq (aside_carrier (aside_report_carrier s e) k) :)
@[simp] theorem report_carrier_slotsCnt (s : State) (e : Event) (k : Nat) : (getCarrier (report s e) k).slotsCnt = (getCarrier s k).slotsCnt := (congrArg Carrier.slotsCnt (aside_carrier (aside_report_carrier s e) k) :)
@[simp] theorem report_carrier_blkOk (s : State) (e : Event) (k : Nat) : (getCarrier (report s e) k).blkOk = (getCarrier s k).blkOk := (congrArg Carrier.blkOk (aside_carrier (aside_report_carrier s e) k) :)
@[simp] theorem report_carrier_blkFail (s : State) (e : Event) (k : Nat) : (getCarrier (report s e) k).blkFail = (getCarrier s k).blkFail := (congrArg Carrier.blkFail (aside_carrier (aside_report_carrier s e) k) :)
@[simp] theorem report_carrier_miss (s : State) (e : Event) (k : Nat) : (getCarrier (report s e) k).miss = (getCarrier s k).miss := (congrArg Carrier.miss (aside_carrier (aside_report_carrier s e) k) :)
@[simp] theorem report_carrier_failed (s : State) (e : Event) (k : Nat) : (getCarrier (report s e) k).failed = (getCarrier s k).failed := (congrArg Carrier.failed (aside_carrier (aside_report_carrier s e) k) :)
@[simp] theorem report_carrier_noPlan (s : State) (e : Event) (k : Nat) : (getCarrier (report s e) k).noPlan = (getCarrier s k).noPlan := (congrArg Carrier.noPlan (aside_carrier (aside_report_carrier s e) k) :)
@[simp] theorem report_carrier_overwrite (s : State) (e : Event) (k : Nat) : (getCarrier (report s e) k).overwrite = (getCarrier s k).overwrite := (congrArg Carrier.overwrite (aside_carrier (aside_report_carrier s e) k) :)
@[simp] theorem report_carrier_satCnt (s : State) (e : Event) (k : Nat) : (getCarrier (report s e) k).satCnt = (getCarrier s k).satCnt := (congrArg Carrier.satCnt (aside_carrier (aside_report_carrier s e) k) :)
@[simp] theorem report_carrier_streams (s : State) (e : Event) (k : Nat) : (getCarrier (report s e) k).streams = (getCarrier s k).streams := (congrArg Carrier.streams (aside_carrier (aside_report_carrier s e) k) :)
@[simp] theorem report_carrier_freezeEnd (s : State) (e : Event) (k : Nat) : (getCarrier (report s e) k).freezeEnd = (getCarrier s k).freezeEnd := (congrArg Carrier.freezeEnd (aside_carrier (aside_report_carrier s e) k) :)
@[simp] theorem report_carrier_gainAt (s : State) (e : Event) (k : Nat) : (getCarrier (report s e) k).gainAt = (getCarrier s k).gainAt := (congrArg Carrier.gainAt (aside_carrier (aside_report_carrier s e) k) :)
@[simp] theorem report_carrier_detHeld (s : State) (e : Event) (k : Nat) : (getCarrier (report s e) k).detHeld = (getCarrier s k).detHeld := (congrArg Carrier.detHeld (aside_carrier (aside_report_carrier s e) k) :)
@[simp] theorem report_carrier_inv (s : State) (e : Event) (k : Nat) : (getCarrier (report s e) k).inv = (getCarrier s k).inv := (congrArg Carrier.inv (aside_carrier (aside_report_carrier s e) k) :)
@[simp] theorem report_carrier_first (s : State) (e : Event) (k : Nat) : (getCarrier (report s e) k).first = (getCarrier s k).first := (congrArg Carrier.first (aside_carrier (aside_report_carrier s e) k) :)

/-! ### note -/

@[simp] theorem note_pending (s : State) (code : W16) (data : List Byte) : (note s code data).pending = s.pending := congrArg Aside.pending (aside_note s code data)
@[simp] theorem note_now (s : State) (code : W16) (data : List Byte) : (note s code data).now = s.now := congrArg Aside.now (aside_note s code data)
@[simp] theorem note_free (s : State) (code : W16) (data : List Byte) : (note s code data).free = s.free := congrArg Aside.free (aside_note s code data)
@[simp] theorem note_fuses (s : State) (code : W16) (data : List Byte) : (note s code data).fuses = s.fuses := congrArg Aside.fuses (aside_note s code data)
@[simp] theorem note_fencing (s : State) (code : W16) (data : List Byte) : (note s code data).fencing = s.fencing := congrArg Aside.fencing (aside_note s code data)
@[simp] theorem note_air (s : State) (code : W16) (data : List Byte) : (note s code data).air = s.air := congrArg Aside.air (aside_note s code data)
@[simp] theorem note_clusters (s : State) (code : W16) (data : List Byte) : (note s code data).clusters = s.clusters := congrArg Aside.clusters (aside_note s code data)
@[simp] theorem note_loader (s : State) (code : W16) (data : List Byte) : (note s code data).loader = s.loader := congrArg Aside.loader (aside_note s code data)
@[simp] theorem note_accepted (s : State) (code : W16) (data : List Byte) : (note s code data).accepted = s.accepted := congrArg Aside.accepted (aside_note s code data)
@[simp] theorem note_hns (s : State) (code : W16) (data : List Byte) : (note s code data).hns = s.hns := congrArg Aside.hns (aside_note s code data)
@[simp] theorem note_merged (s : State) (code : W16) (data : List Byte) : (note s code data).merged = s.merged := congrArg Aside.merged (aside_note s code data)
@[simp] theorem note_netNext (s : State) (code : W16) (data : List Byte) : (note s code data).netNext = s.netNext := congrArg Aside.netNext (aside_note s code data)
@[simp] theorem note_mgmtStall (s : State) (code : W16) (data : List Byte) : (note s code data).mgmtStall = s.mgmtStall := congrArg Aside.mgmtStall (aside_note s code data)
@[simp] theorem note_ports (s : State) (code : W16) (data : List Byte) : (note s code data).ports = s.ports := congrArg Aside.ports (aside_note s code data)
@[simp] theorem note_funcs (s : State) (code : W16) (data : List Byte) : (note s code data).funcs = s.funcs := congrArg Aside.funcs (aside_note s code data)
@[simp] theorem note_arrays (s : State) (code : W16) (data : List Byte) : (note s code data).arrays = s.arrays := congrArg Aside.arrays (aside_note s code data)
@[simp] theorem note_vecs (s : State) (code : W16) (data : List Byte) : (note s code data).vecs = s.vecs := congrArg Aside.vecs (aside_note s code data)
@[simp] theorem note_paths (s : State) (code : W16) (data : List Byte) : (note s code data).paths = s.paths := congrArg Aside.paths (aside_note s code data)
@[simp] theorem note_feeders (s : State) (code : W16) (data : List Byte) : (note s code data).feeders = s.feeders := congrArg Aside.feeders (aside_note s code data)
@[simp] theorem note_mem (s : State) (code : W16) (data : List Byte) : (note s code data).mem = s.mem := congrArg Aside.mem (aside_note s code data)
@[simp] theorem note_cores (s : State) (code : W16) (data : List Byte) : (note s code data).cores = s.cores := congrArg Aside.cores (aside_note s code data)
@[simp] theorem note_tths (s : State) (code : W16) (data : List Byte) : (note s code data).tths = s.tths := congrArg Aside.tths (aside_note s code data)
@[simp] theorem note_iods (s : State) (code : W16) (data : List Byte) : (note s code data).iods = s.iods := congrArg Aside.iods (aside_note s code data)
@[simp] theorem note_smPtr (s : State) (code : W16) (data : List Byte) : (note s code data).smPtr = s.smPtr := congrArg Aside.smPtr (aside_note s code data)
@[simp] theorem note_smLatch (s : State) (code : W16) (data : List Byte) : (note s code data).smLatch = s.smLatch := congrArg Aside.smLatch (aside_note s code data)
@[simp] theorem note_taps (s : State) (code : W16) (data : List Byte) : (note s code data).taps = s.taps := congrArg Aside.taps (aside_note s code data)
@[simp] theorem note_testEn (s : State) (code : W16) (data : List Byte) : (note s code data).testEn = s.testEn := congrArg Aside.testEn (aside_note s code data)
@[simp] theorem note_decoders (s : State) (code : W16) (data : List Byte) : (note s code data).decoders = s.decoders := congrArg Aside.decoders (aside_note s code data)
@[simp] theorem note_school (s : State) (code : W16) (data : List Byte) : (note s code data).school = s.school := congrArg Aside.school (aside_note s code data)
@[simp] theorem note_boot (s : State) (code : W16) (data : List Byte) : (note s code data).boot = s.boot := congrArg Aside.boot (aside_note s code data)
@[simp] theorem note_grooms (s : State) (code : W16) (data : List Byte) : (note s code data).grooms = s.grooms := congrArg Aside.grooms (aside_note s code data)
@[simp] theorem note_grm (s : State) (code : W16) (data : List Byte) : (note s code data).grm = s.grm := congrArg Aside.grm (aside_note s code data)
@[simp] theorem note_power (s : State) (code : W16) (data : List Byte) : (note s code data).power = s.power := congrArg Aside.power (aside_note s code data)
@[simp] theorem note_flt (s : State) (code : W16) (data : List Byte) : (note s code data).flt = s.flt := congrArg Aside.flt (aside_note s code data)

/-! ### outOfService -/

@[simp] theorem outOfService_pending (s : State) (kind : BitVec 4) (unit : Nat) (last : Byte) : (outOfService s kind unit last).pending = s.pending := congrArg Aside.pending (aside_outOfService s kind unit last)
@[simp] theorem outOfService_now (s : State) (kind : BitVec 4) (unit : Nat) (last : Byte) : (outOfService s kind unit last).now = s.now := congrArg Aside.now (aside_outOfService s kind unit last)
@[simp] theorem outOfService_free (s : State) (kind : BitVec 4) (unit : Nat) (last : Byte) : (outOfService s kind unit last).free = s.free := congrArg Aside.free (aside_outOfService s kind unit last)
@[simp] theorem outOfService_fuses (s : State) (kind : BitVec 4) (unit : Nat) (last : Byte) : (outOfService s kind unit last).fuses = s.fuses := congrArg Aside.fuses (aside_outOfService s kind unit last)
@[simp] theorem outOfService_fencing (s : State) (kind : BitVec 4) (unit : Nat) (last : Byte) : (outOfService s kind unit last).fencing = s.fencing := congrArg Aside.fencing (aside_outOfService s kind unit last)
@[simp] theorem outOfService_air (s : State) (kind : BitVec 4) (unit : Nat) (last : Byte) : (outOfService s kind unit last).air = s.air := congrArg Aside.air (aside_outOfService s kind unit last)
@[simp] theorem outOfService_clusters (s : State) (kind : BitVec 4) (unit : Nat) (last : Byte) : (outOfService s kind unit last).clusters = s.clusters := congrArg Aside.clusters (aside_outOfService s kind unit last)
@[simp] theorem outOfService_loader (s : State) (kind : BitVec 4) (unit : Nat) (last : Byte) : (outOfService s kind unit last).loader = s.loader := congrArg Aside.loader (aside_outOfService s kind unit last)
@[simp] theorem outOfService_accepted (s : State) (kind : BitVec 4) (unit : Nat) (last : Byte) : (outOfService s kind unit last).accepted = s.accepted := congrArg Aside.accepted (aside_outOfService s kind unit last)
@[simp] theorem outOfService_hns (s : State) (kind : BitVec 4) (unit : Nat) (last : Byte) : (outOfService s kind unit last).hns = s.hns := congrArg Aside.hns (aside_outOfService s kind unit last)
@[simp] theorem outOfService_merged (s : State) (kind : BitVec 4) (unit : Nat) (last : Byte) : (outOfService s kind unit last).merged = s.merged := congrArg Aside.merged (aside_outOfService s kind unit last)
@[simp] theorem outOfService_netNext (s : State) (kind : BitVec 4) (unit : Nat) (last : Byte) : (outOfService s kind unit last).netNext = s.netNext := congrArg Aside.netNext (aside_outOfService s kind unit last)
@[simp] theorem outOfService_mgmtStall (s : State) (kind : BitVec 4) (unit : Nat) (last : Byte) : (outOfService s kind unit last).mgmtStall = s.mgmtStall := congrArg Aside.mgmtStall (aside_outOfService s kind unit last)
@[simp] theorem outOfService_ports (s : State) (kind : BitVec 4) (unit : Nat) (last : Byte) : (outOfService s kind unit last).ports = s.ports := congrArg Aside.ports (aside_outOfService s kind unit last)
@[simp] theorem outOfService_funcs (s : State) (kind : BitVec 4) (unit : Nat) (last : Byte) : (outOfService s kind unit last).funcs = s.funcs := congrArg Aside.funcs (aside_outOfService s kind unit last)
@[simp] theorem outOfService_arrays (s : State) (kind : BitVec 4) (unit : Nat) (last : Byte) : (outOfService s kind unit last).arrays = s.arrays := congrArg Aside.arrays (aside_outOfService s kind unit last)
@[simp] theorem outOfService_vecs (s : State) (kind : BitVec 4) (unit : Nat) (last : Byte) : (outOfService s kind unit last).vecs = s.vecs := congrArg Aside.vecs (aside_outOfService s kind unit last)
@[simp] theorem outOfService_paths (s : State) (kind : BitVec 4) (unit : Nat) (last : Byte) : (outOfService s kind unit last).paths = s.paths := congrArg Aside.paths (aside_outOfService s kind unit last)
@[simp] theorem outOfService_feeders (s : State) (kind : BitVec 4) (unit : Nat) (last : Byte) : (outOfService s kind unit last).feeders = s.feeders := congrArg Aside.feeders (aside_outOfService s kind unit last)
@[simp] theorem outOfService_mem (s : State) (kind : BitVec 4) (unit : Nat) (last : Byte) : (outOfService s kind unit last).mem = s.mem := congrArg Aside.mem (aside_outOfService s kind unit last)
@[simp] theorem outOfService_cores (s : State) (kind : BitVec 4) (unit : Nat) (last : Byte) : (outOfService s kind unit last).cores = s.cores := congrArg Aside.cores (aside_outOfService s kind unit last)
@[simp] theorem outOfService_tths (s : State) (kind : BitVec 4) (unit : Nat) (last : Byte) : (outOfService s kind unit last).tths = s.tths := congrArg Aside.tths (aside_outOfService s kind unit last)
@[simp] theorem outOfService_iods (s : State) (kind : BitVec 4) (unit : Nat) (last : Byte) : (outOfService s kind unit last).iods = s.iods := congrArg Aside.iods (aside_outOfService s kind unit last)
@[simp] theorem outOfService_smPtr (s : State) (kind : BitVec 4) (unit : Nat) (last : Byte) : (outOfService s kind unit last).smPtr = s.smPtr := congrArg Aside.smPtr (aside_outOfService s kind unit last)
@[simp] theorem outOfService_smLatch (s : State) (kind : BitVec 4) (unit : Nat) (last : Byte) : (outOfService s kind unit last).smLatch = s.smLatch := congrArg Aside.smLatch (aside_outOfService s kind unit last)
@[simp] theorem outOfService_taps (s : State) (kind : BitVec 4) (unit : Nat) (last : Byte) : (outOfService s kind unit last).taps = s.taps := congrArg Aside.taps (aside_outOfService s kind unit last)
@[simp] theorem outOfService_testEn (s : State) (kind : BitVec 4) (unit : Nat) (last : Byte) : (outOfService s kind unit last).testEn = s.testEn := congrArg Aside.testEn (aside_outOfService s kind unit last)
@[simp] theorem outOfService_decoders (s : State) (kind : BitVec 4) (unit : Nat) (last : Byte) : (outOfService s kind unit last).decoders = s.decoders := congrArg Aside.decoders (aside_outOfService s kind unit last)
@[simp] theorem outOfService_school (s : State) (kind : BitVec 4) (unit : Nat) (last : Byte) : (outOfService s kind unit last).school = s.school := congrArg Aside.school (aside_outOfService s kind unit last)
@[simp] theorem outOfService_boot (s : State) (kind : BitVec 4) (unit : Nat) (last : Byte) : (outOfService s kind unit last).boot = s.boot := congrArg Aside.boot (aside_outOfService s kind unit last)
@[simp] theorem outOfService_grooms (s : State) (kind : BitVec 4) (unit : Nat) (last : Byte) : (outOfService s kind unit last).grooms = s.grooms := congrArg Aside.grooms (aside_outOfService s kind unit last)
@[simp] theorem outOfService_grm (s : State) (kind : BitVec 4) (unit : Nat) (last : Byte) : (outOfService s kind unit last).grm = s.grm := congrArg Aside.grm (aside_outOfService s kind unit last)
@[simp] theorem outOfService_power (s : State) (kind : BitVec 4) (unit : Nat) (last : Byte) : (outOfService s kind unit last).power = s.power := congrArg Aside.power (aside_outOfService s kind unit last)
@[simp] theorem outOfService_flt (s : State) (kind : BitVec 4) (unit : Nat) (last : Byte) : (outOfService s kind unit last).flt = s.flt := congrArg Aside.flt (aside_outOfService s kind unit last)

end Sys2Proof.Machine
end

