-- ==== Sys2Proof/Laws/Told.lean ====
section
/-!
SUPPORT. What reporting leaves alone, as an equation of states.
-/
namespace Sys2Proof.Machine

theorem told_of_aside {s t : State} (h : aside t = aside s) : t = told s t := by
  cases s; cases t
  simp only [aside, Aside.mk.injEq] at h
  simp only [told, State.mk.injEq]
  simp_all

/-- A report changes nothing outside `told`. -/
theorem report_told (s : State) (e : Event) : report s e = told s (report s e) := by
  have h := aside_report s e
  generalize report s e = t at h ⊢
  cases s; cases t
  simp only [aside, Aside.mk.injEq] at h
  simp only [told, State.mk.injEq]
  simp_all

end Sys2Proof.Machine
end

