-- ==== Sys2Proof/Laws/Acts.lean ====
section
/-!
SUPPORT. What taking an action out of the issued entries can do (R50, R58, R67): the air state, and at a swap the generations of
clusters.
-/
namespace Sys2Proof.Machine

theorem gaitSwapTick_eq (s : State) (g : GaitAct) : gaitSwapTick s g = { s with clusters := (gaitSwapTick s g).clusters } := by
  unfold gaitSwapTick
  generalize swapClusters s g.entry = l
  induction l generalizing s with
  | nil => rfl
  | cons c l ih =>
    rw [List.foldl_cons, ih]
    rfl

theorem gaitSwapTick_no_swap (s : State) (g : GaitAct) (h5 : gAction g.entry ≠ 5) (h6 : gAction g.entry ≠ 6) : gaitSwapTick s g = s := by
  simp only [gaitSwapTick, swapClusters, h5, h6, if_false, List.foldl_nil]

/-- A taken action leaves all but the air state, and at a swap the clusters. -/
theorem takeAct_eq {s u : State} {action : BitVec 6} {target : Byte} {arg : W16 → Bool} {g : GaitAct}
    (h : takeAct s action target arg = some (g, u)) : u = { s with air := u.air, clusters := u.clusters } := by
  unfold takeAct at h
  split at h
  · split at h
    · cases h
    · cases h; rfl
  · cases h
    rw [gaitSwapTick_eq]

/-- The action of an entry made up of its fields. -/
theorem actNow_action (s : State) (action : BitVec 6) (target : Byte) : gAction (actNow s action target).entry = action := by
  ext i hi
  simp only [actNow, dispatched, gAction, bits, place]
  simp [hi, show 21 + i < 64 by omega, show i < 64 by omega, show 21 + i < 40 by omega]

/-- An action that is no swap leaves the clusters too. -/
theorem takeAct_air {s u : State} {action : BitVec 6} {target : Byte} {arg : W16 → Bool} {g : GaitAct} (h5 : action ≠ 5) (h6 : action ≠ 6)
    (h : takeAct s action target arg = some (g, u)) : u = { s with air := u.air } := by
  unfold takeAct at h
  split at h
  · split at h
    · cases h
    · cases h; rfl
  · cases h
    rw [gaitSwapTick_no_swap _ _ (by rwa [actNow_action]) (by rwa [actNow_action])]

end Sys2Proof.Machine
end

