-- ==== Sys2Proof/Laws/Memory.lean ====
section
/-!
SUPPORT. Laws of device memory: what a write changes and leaves, and that it keeps the canonical form.
-/
namespace Sys2Proof.Machine

/-- Bytes written at a device address leave every byte alone whose place is none of theirs. -/
theorem tget_devPut_other (m : Table Byte) (a : Nat) (bs : List Byte) (k : Nat)
    (h : ∀ j, j < bs.length → devKey (a + j) ≠ k) : tget 0 (devPut m a bs) k = tget 0 m k := by
  induction bs generalizing m a with
  | nil => rfl
  | cons b bs ih =>
    unfold devPut
    rw [ih, tget_tset_ne _ _ _ (by simpa using h 0 (by simp))]
    intro j hj
    have := h (j + 1) (by simpa using hj)
    rwa [show a + (j + 1) = a + 1 + j by omega] at this

theorem wf_devPut {m : Table Byte} (a : Nat) (bs : List Byte) (h : Memory.wf m) : Memory.wf (devPut m a bs) := by
  induction bs generalizing m a with
  | nil => exact h
  | cons b bs ih => exact ih _ (twf_tset _ _ h)

@[simp] theorem devWrite_hbm (s : State) (a : Nat) (bs : List Byte) :
    (devWrite s a bs).mem.hbm = devPut s.mem.hbm a bs := rfl

/-- The cache's accounting changes no byte. -/
@[simp] theorem cacheAccess_hbm (s : State) (i a n : Nat) (w al : Bool) :
    (cacheAccess s i a n w al).mem.hbm = s.mem.hbm := by
  exact foldl_keep (fun s : State => s.mem.hbm) _ (by intros; rfl) _ _

@[simp] theorem cacheAccess_hns (s : State) (i a n : Nat) (w al : Bool) : (cacheAccess s i a n w al).hns = s.hns := by
  exact foldl_keep (fun s : State => s.hns) _ (by intros; rfl) _ _

/-- What a write to a region does to memory: its bytes, at the places of the region's address. -/
theorem regionWrite_hbm (s : State) (i x : Nat) (bs : List Byte) (al : Bool) :
    (regionWrite s i x bs al).mem.hbm = devPut s.mem.hbm (regionAddr s i x) bs := by
  simp [regionWrite, regionAddr, stallRec]

theorem wf_regionWrite {s : State} (i x : Nat) (bs : List Byte) (al : Bool) (h : Memory.wf s.mem.hbm) :
    Memory.wf (regionWrite s i x bs al).mem.hbm := by
  rw [regionWrite_hbm]; exact wf_devPut _ _ h

end Sys2Proof.Machine
end

