-- ==== Sys2Proof/Laws/Lasting.lean ====
section
/-!
SUPPORT. What lasts: the part of the state that nearly every operation leaves alone, and the form in which the
few that change it do (R116, R133, R592). One lemma per operation says which of the two holds of it; the later
proofs cite it and unfold no operation.
-/
namespace Sys2Proof.Machine

/-- The waiting commands, the bytes of device memory, the fuses, the burn that runs and the two floors. -/
structure Lasting where
  pending : List Instr
  hbm : Table Byte
  present : BitVec 8 × BitVec 4 × BitVec 2 × BitVec 48 × BitVec 24
  burned : BitVec 2
  revoked : BitVec 2
  hash0 : BitVec 384
  hash1 : BitVec 384
  burning : Option (Nat × BitVec 384)
  hnsFloor : W32
  grmFloor : W32

def still (s : State) : Lasting where
  pending := s.pending
  hbm := s.mem.hbm
  present := (s.fuses.arrEn, s.fuses.stackEn, s.fuses.iodEn, s.fuses.pcrEn, s.fuses.decEn)
  burned := s.fuses.burned
  revoked := s.fuses.revoked
  hash0 := s.fuses.hash0
  hash1 := s.fuses.hash1
  burning := s.loader.burning
  hnsFloor := s.loader.floor
  grmFloor := s.grm.floor

/-- What lasts across a command that answers a next state. -/
def stillO : Host.Outcome State Fault Refusal → Option Lasting
  | .next t => some (still t)
  | _ => none

@[simp] theorem stillO_next (t : State) : stillO (.next t) = some (still t) := rfl

@[simp] theorem still_fold (s : State) : Lasting.mk s.pending s.mem.hbm (s.fuses.arrEn, s.fuses.stackEn, s.fuses.iodEn, s.fuses.pcrEn, s.fuses.decEn)
    s.fuses.burned s.fuses.revoked s.fuses.hash0 s.fuses.hash1 s.loader.burning s.loader.floor s.grm.floor = still s := rfl

@[simp] theorem still_mk (pending : List Instr) (sent : List Out) (now free : Nat) (fuses : Fuses) (fencing : Fencing) (air : Air)
    (clusters : Table Cluster) (loader : Loader) (accepted : Bool) (hns : Harness) (merged : Option Harness) (netNext : List NetNext) (stalls : Table Stall)
    (mgmtStall : BitVec 4) (ports : Table Port) (funcs : Table Func) (arrays : Table ArrayU) (vecs : Table VecU)
    (paths : Table PathU) (feeders : Table Feeder) (mem : Mem) (cores : Table PCore) (tths : Table Tth) (girths : Table Girth)
    (iods : Table Iod) (smPtr : W32) (smLatch : Option (Nat × W32)) (taps : Table Tap) (testEn : Bool) (carriers : Table Carrier) (decoders : Table Decoder)
    (school : School) (trail : Trail) (flt : Flt) (boot : Boot) (grooms : Table Groom) (grm : Grm) (power : Power) :
    still { pending, sent, now, free, fuses, fencing, air, clusters, loader, accepted, hns, merged, netNext, stalls, mgmtStall, ports, funcs,
            arrays, vecs, paths, feeders, mem, cores, tths, girths, iods, smPtr, smLatch, taps, testEn, carriers, decoders, school, trail, flt,
            boot, grooms, grm, power }
      = ⟨pending, mem.hbm, (fuses.arrEn, fuses.stackEn, fuses.iodEn, fuses.pcrEn, fuses.decEn), fuses.burned, fuses.revoked,
         fuses.hash0, fuses.hash1, loader.burning, loader.floor, grm.floor⟩ := rfl

@[simp] theorem still_ite (c : Prop) [Decidable c] (a b : State) : still (if c then a else b) = if c then still a else still b := by
  split <;> rfl

@[simp] theorem stillO_ite (c : Prop) [Decidable c] (a b : Host.Outcome State Fault Refusal) :
    stillO (if c then a else b) = if c then stillO a else stillO b := by split <;> rfl

@[simp] theorem still_foldl {α : Type} (g : State → α → State) (h : ∀ s a, still (g s a) = still s) (l : List α) (s : State) :
    still (l.foldl g s) = still s := foldl_keep still g h l s

/-- Lasting parts that fit together: memory in its canonical form, no burn of a slot that is BURNED. -/
structure Lasting.Fit (x : Lasting) : Prop where
  mem : Memory.wf x.hbm
  burn : ∀ k h, x.burning = some (k, h) → x.burned.getLsbD k = false

/-- What may happen to what lasts: the queue and the fuses of the units' presence never change, BURNED and REVOKED are never
cleared, the hash of a BURNED slot never changes, the floors never fall. -/
structure Lasting.After (a x : Lasting) : Prop where
  fit : x.Fit
  pending : x.pending = a.pending
  present : x.present = a.present
  burned : ∀ k, a.burned.getLsbD k = true → x.burned.getLsbD k = true
  revoked : ∀ k, a.revoked.getLsbD k = true → x.revoked.getLsbD k = true
  hash0 : a.burned.getLsbD 0 = true → x.hash0 = a.hash0
  hash1 : a.burned.getLsbD 1 = true → x.hash1 = a.hash1
  hnsFloor : a.hnsFloor.toNat ≤ x.hnsFloor.toNat
  grmFloor : a.grmFloor.toNat ≤ x.grmFloor.toNat

theorem Lasting.After.refl {a : Lasting} (h : a.Fit) : a.After a :=
  ⟨h, rfl, rfl, fun _ h => h, fun _ h => h, fun _ => rfl, fun _ => rfl, le_rfl, le_rfl⟩

/-- New bytes in memory are after what was before them, if the memory keeps its form. -/
theorem Lasting.After.hbm {a x : Lasting} (h : a.After x) (m : Table Byte) (hm : Memory.wf m) : a.After { x with hbm := m } :=
  ⟨⟨hm, h.fit.burn⟩, h.pending, h.present, h.burned, h.revoked, h.hash0, h.hash1, h.hnsFloor, h.grmFloor⟩

/-- Setting a bit clears none. -/
theorem setBit_mono {w : Nat} (v : BitVec w) (i k : Nat) (h : v.getLsbD k = true) : (setBit v i true).getLsbD k = true := by
  simp [setBit, h]

theorem after_foldl {a : Lasting} {α : Type} (g : State → α → State) (h : ∀ s x, a.After (still s) → a.After (still (g s x)))
    (l : List α) (s : State) (hs : a.After (still s)) : a.After (still (l.foldl g s)) := by
  induction l generalizing s with
  | nil => exact hs
  | cons x l ih => exact ih _ (h _ _ hs)

/-- What a command that answers a next state leaves after what was before it. -/
def AfterO (a : Lasting) (o : Host.Outcome State Fault Refusal) : Prop := ∃ x, stillO o = some x ∧ a.After x

theorem afterO_next {a : Lasting} {t : State} (h : a.After (still t)) : AfterO a (.next t) := ⟨_, rfl, h⟩

theorem afterO_still {a : Lasting} {s : State} {o : Host.Outcome State Fault Refusal} (ho : stillO o = some (still s))
    (h : a.After (still s)) : AfterO a o := ⟨_, ho, h⟩

end Sys2Proof.Machine
end

