-- ==== Sys2Proof/Laws/LastingOps.lean ====
section
/-!
SUPPORT. What lasts across each operation and command of Machine/Ops.lean: `still_x` where operation `x` leaves it all
as it is, `after_x` where it changes it as `Lasting.After` says.
-/
namespace Sys2Proof.Machine

@[simp] theorem still_modStall (s : State) (i : Nat) (f : Stall → Stall) :
    still (modStall s i f) = still s := by
  simp only [modStall, still_mk, still_fold]

@[simp] theorem still_modArr (s : State) (n : Nat) (f : ArrayU → ArrayU) :
    still (modArr s n f) = still s := by
  simp only [modArr, still_mk, still_fold]

@[simp] theorem still_modVec (s : State) (n : Nat) (f : VecU → VecU) :
    still (modVec s n f) = still s := by
  simp only [modVec, still_mk, still_fold]

@[simp] theorem still_modPath (s : State) (m : Nat) (f : PathU → PathU) :
    still (modPath s m f) = still s := by
  simp only [modPath, still_mk, still_fold]

@[simp] theorem still_modFdr (s : State) (n : Nat) (f : Feeder → Feeder) :
    still (modFdr s n f) = still s := by
  simp only [modFdr, still_mk, still_fold]

@[simp] theorem still_modCluster (s : State) (c : Nat) (f : Cluster → Cluster) :
    still (modCluster s c f) = still s := by
  simp only [modCluster, still_mk, still_fold]

@[simp] theorem still_modPort (s : State) (j : Nat) (f : Port → Port) :
    still (modPort s j f) = still s := by
  simp only [modPort, still_mk, still_fold]

@[simp] theorem still_modFunc (s : State) (j fn : Nat) (f : Func → Func) :
    still (modFunc s j fn f) = still s := by
  simp only [modFunc, still_mk, still_fold]

@[simp] theorem still_modStack (s : State) (k : Nat) (f : Stack → Stack) :
    still (modStack s k f) = still s := by
  simp only [modStack, still_mk, still_fold]

@[simp] theorem still_modCarrier (s : State) (c : Nat) (f : Carrier → Carrier) :
    still (modCarrier s c f) = still s := by
  simp only [modCarrier, still_mk, still_fold]

@[simp] theorem still_modDec (s : State) (n : Nat) (f : Decoder → Decoder) :
    still (modDec s n f) = still s := by
  simp only [modDec, still_mk, still_fold]

@[simp] theorem still_modTth (s : State) (p : Nat) (f : Tth → Tth) :
    still (modTth s p f) = still s := by
  simp only [modTth, still_mk, still_fold]

@[simp] theorem still_modAir (s : State) (f : Air → Air) :
    still (modAir s f) = still s := by
  simp only [modAir, still_mk, still_fold]

@[simp] theorem still_modGroom (s : State) (g : Nat) (f : Groom → Groom) :
    still (modGroom s g f) = still s := by
  simp only [modGroom, still_mk, still_fold]

@[simp] theorem still_drew (s : State) :
    still (drew s) = still s := by
  simp only [drew, still_mk, still_fold]

@[simp] theorem still_modGirth (s : State) (g : Nat) (f : Girth → Girth) :
    still (modGirth s g f) = still s := by
  simp only [modGirth, still_mk, still_fold]

@[simp] theorem still_sendMsg (s : State) (g vc : Nat) (m : List Byte) :
    still (sendMsg s g vc m) = still s := by
  simp only [sendMsg, still_ite, ite_self, still_modGirth]

@[simp] theorem still_takeMsg (s : State) (g : Nat) (opc : Byte) :
    still (takeMsg s g opc) = still s := by
  simp only [takeMsg, still_modGirth]

@[simp] theorem still_sendWrite (s : State) (i : Nat) (addr : W64) (data : List Byte) :
    still (sendWrite s i addr data) = still s := by
  simp only [sendWrite, still_foldl, implies_true, still_sendMsg]

@[simp] theorem still_queueOut (s : State) (o : Out) : still (queueOut s o) = still s := by
  cases o <;> simp [queueOut]

@[simp] theorem still_emit (s : State) (o : Out) : still (emit s o) = still s := by
  have h := still_queueOut s o
  simp only [still, Lasting.mk.injEq, emit] at h ⊢
  exact h

@[simp] theorem still_toHost (s : State) (i : Nat) (o : Out) :
    still (toHost s i o) = still s := by
  simp only [toHost, still_ite, ite_self, still_modStall, still_emit]

@[simp] theorem still_hostRead (s : State) (i : Nat) (addr : W64) (n : Nat) :
    still (hostRead s i addr n) = still s := by
  simp only [hostRead, still_mk, still_ite, still_fold, still_foldl, stillO_next, stillO_ite, implies_true, ite_self, still_emit, still_modGirth]

@[simp] theorem still_fireVector (s : State) (i : Nat) (v : BitVec 11) :
    still (fireVector s i v) = still s := by
  simp only [fireVector, still_ite, ite_self, still_emit, still_modStall]

@[simp] theorem still_raiseVector (s : State) (i : Nat) (v : BitVec 11) :
    still (raiseVector s i v) = still s := by
  simp only [raiseVector, still_ite, ite_self, still_modStall, still_fireVector]

@[simp] theorem still_releaseHeld (s : State) (i : Nat) :
    still (releaseHeld s i) = still s := by
  simp only [releaseHeld, still_ite, still_foldl, implies_true, ite_self, still_modStall, still_emit, still_fireVector]

@[simp] theorem still_releaseAll (s : State) :
    still (releaseAll s) = still s := by
  simp only [releaseAll, still_foldl, implies_true, still_releaseHeld]

@[simp] theorem still_pushEvent (s : State) (e : Event) :
    still (pushEvent s e) = still s := by
  simp only [pushEvent, still_mk, still_ite, still_fold, ite_self]

@[simp] theorem still_raiseSource (s : State) (src : W16) :
    still (raiseSource s src) = still s := by
  simp only [raiseSource, still_ite, still_foldl, implies_true, ite_self, still_pushEvent, still_raiseVector]

@[simp] theorem still_touchPlace (s : State) (c : Nat) (p : SlotPlace) :
    still (touchPlace s c p) = still s := by
  unfold touchPlace
  try dsimp only
  (repeat' split) <;> first | with_reducible rfl | simp only [still_modCarrier]

@[simp] theorem still_touchSlot (s : State) (c : Nat) (rel : Nat) (slot : Nat) :
    still (touchSlot s c rel slot) = still s := by
  simp only [touchSlot, still_mk, still_ite, still_fold, still_foldl, stillO_next, stillO_ite, implies_true, ite_self, still_touchPlace]

@[simp] theorem still_touchNow (s : State) (c : Nat) :
    still (touchNow s c) = still s := by
  simp only [touchNow, still_ite, ite_self, still_touchSlot]

@[simp] theorem still_voidSlots (s : State) (p : Nat → Bool) :
    still (voidSlots s p) = still s := by
  simp only [voidSlots, still_ite, still_foldl, implies_true, ite_self, still_modCarrier, still_touchNow]

@[simp] theorem still_voidWhen (s : State) (broken : Bool) :
    still (voidWhen s broken) = still s := by
  simp only [voidWhen, still_mk, still_ite, still_fold, still_foldl, stillO_next, stillO_ite, implies_true, ite_self, still_modCarrier, still_touchNow]

@[simp] theorem still_voidFor (s : State) (code : W16) (kind : BitVec 4) (unit : Nat) (stall : Option (BitVec 4)) :
    still (voidFor s code kind unit stall) = still s := by
  simp only [voidFor, still_ite, ite_self, still_voidSlots]

@[simp] theorem still_report (s : State) (e : Event) :
    still (report s e) = still s := by
  unfold report
  try dsimp only
  (repeat' split) <;> first | with_reducible rfl | simp only [still_mk, still_fold, still_pushEvent, still_voidFor, still_raiseSource]

@[simp] theorem still_corrected (s : State) (kind : BitVec 4) (unit : Nat) (word : W32) :
    still (corrected s kind unit word) = still s := by
  simp only [corrected, still_pushEvent]

@[simp] theorem still_note (s : State) (code : W16) (data : List Byte) :
    still (note s code data) = still s := by
  simp only [note, still_pushEvent]

@[simp] theorem still_outOfService (s : State) (kind : BitVec 4) (unit : Nat) (last : Byte) :
    still (outOfService s kind unit last) = still s := by
  simp only [outOfService, still_mk, still_ite, still_fold, still_foldl, stillO_next, stillO_ite, implies_true, ite_self, still_report]

@[simp] theorem still_accErr (s : State) (i : Nat) :
    still (accErr s i) = still s := by
  simp only [accErr, still_modStall]

@[simp] theorem still_dropHold (s : State) (port : Nat) (fn : Nat) :
    still (dropHold s port fn) = still s := by
  simp only [dropHold, still_mk, still_ite, still_fold, still_foldl, stillO_next, stillO_ite, implies_true, ite_self, still_modFunc]

@[simp] theorem still_ownWrite (i : Nat) (f : State → State) (h : ∀ s, still (f s) = still s) (s : State) :
    still (ownWrite i f s) = still s := by
  unfold ownWrite; dsimp only; split <;> simp [dropHold, h]

theorem after_ownWrite {w0 : Lasting} (i : Nat) (f : State → State) (h : ∀ s, w0.After (still s) → w0.After (still (f s))) (s : State)
    (hs : w0.After (still s)) : w0.After (still (ownWrite i f s)) := by
  unfold ownWrite; dsimp only; split
  · simpa [dropHold] using hs
  · exact h _ (by simpa [dropHold] using hs)

@[simp] theorem still_mgmtWrite (early : Bool) (f : State → State) (h : ∀ s, still (f s) = still s) (s : State) :
    still (mgmtWrite early f s) = still s := by
  exact still_ownWrite _ _ (fun s => by split <;> simp [h]) _

theorem after_mgmtWrite {w0 : Lasting} (early : Bool) (f : State → State) (h : ∀ s, w0.After (still s) → w0.After (still (f s))) (s : State)
    (hs : w0.After (still s)) : w0.After (still (mgmtWrite early f s)) := by
  refine after_ownWrite _ _ (fun s hs => ?_) _ hs
  split
  · simpa using hs
  · exact h _ hs

@[simp] theorem still_mgmt (f : State → State) (h : ∀ s, still (f s) = still s) (s : State) :
    still (mgmt f s) = still s := by
  exact still_mgmtWrite _ _ h _

theorem after_mgmt {w0 : Lasting} (f : State → State) (h : ∀ s, w0.After (still s) → w0.After (still (f s))) (s : State)
    (hs : w0.After (still s)) : w0.After (still (mgmt f s)) := by
  exact after_mgmtWrite _ _ h _ hs

@[simp] theorem still_mgmtEarly (f : State → State) (h : ∀ s, still (f s) = still s) (s : State) :
    still (mgmtEarly f s) = still s := by
  exact still_mgmtWrite _ _ h _

theorem after_mgmtEarly {w0 : Lasting} (f : State → State) (h : ∀ s, w0.After (still s) → w0.After (still (f s))) (s : State)
    (hs : w0.After (still s)) : w0.After (still (mgmtEarly f s)) := by
  exact after_mgmtWrite _ _ h _ hs

@[simp] theorem still_charge (s : State) (i : Nat) (o : Owner) (k : ChargeKind) (pool : Bool) (ns : Nat) :
    still (charge s i o k pool ns) = still s := by
  unfold charge
  try dsimp only
  (repeat' split) <;> first | with_reducible rfl | simp only [still_modStall]

end Sys2Proof.Machine
end

