-- ==== Sys2Proof/Laws/LastingAir.lean ====
section
/-!
SUPPORT. What lasts across each operation and command of Machine/Air.lean: `still_x` where operation `x` leaves it all
as it is, `after_x` where it changes it as `Lasting.After` says.
-/
namespace Sys2Proof.Machine

@[simp] theorem still_steer (s : State) :
    still (steer s) = still s := by
  simp only [steer, still_drew, still_modAir]

@[simp] theorem still_refEvent (s : State) (lost stepped : Bool) :
    still (refEvent s lost stepped) = still s := by
  simp only [refEvent, still_report]

@[simp] theorem still_acquire (s : State) (i : Fin 4) :
    still (acquire s i) = still s := by
  simp only [acquire, still_modAir]

@[simp] theorem still_enterHold (s : State) :
    still (enterHold s) = still s := by
  simp only [enterHold, still_modAir]

@[simp] theorem still_loseActive (s : State) :
    still (loseActive s) = still s := by
  unfold loseActive
  try dsimp only
  (repeat' split) <;> first | with_reducible rfl | simp only [still_modAir, still_acquire, still_enterHold, still_refEvent]

@[simp] theorem still_evaluateRef (s : State) :
    still (evaluateRef s) = still s := by
  unfold evaluateRef
  try dsimp only
  (repeat' split) <;> first | with_reducible rfl | simp only [still_acquire]

@[simp] theorem still_candUpdate (s : State) (src : Nat) (f : Candidate → Candidate) :
    still (candUpdate s src f) = still s := by
  simp only [candUpdate, still_ite, ite_self, still_modAir, still_loseActive, still_evaluateRef]

@[simp] theorem still_enterLocked (s : State) :
    still (enterLocked s) = still s := by
  simp only [enterLocked, still_modAir]

@[simp] theorem still_renumber (s : State) (f : Air → Air) (ahead : Int := 0) :
    still (renumber s f ahead) = still s := by
  simp only [renumber, still_mk, still_ite, still_fold, still_foldl, implies_true, ite_self, still_modCarrier]

@[simp] theorem still_actOnErr (s : State) (e : Int) :
    still (actOnErr s e) = still s := by
  simp only [actOnErr, still_ite, ite_self, still_refEvent, still_enterLocked, still_modAir, still_raiseSource]

@[simp] theorem still_supply (s : State) (num : Option (Int × Bool)) :
    still (supply s num) = still s := by
  unfold supply
  try dsimp only
  (repeat' split) <;> first | with_reducible rfl | simp only [still_modAir]

@[simp] theorem still_epochAtEdge (s : State) (num : Option (Int × Bool)) (own : Int) :
    still (epochAtEdge s num own) = still s := by
  unfold epochAtEdge
  try dsimp only
  (repeat' split) <;> first | with_reducible rfl | simp only [still_modAir, still_renumber]

@[simp] theorem still_phaseMeasured (s : State) (e : Int) (num : Option (Int × Bool)) (own : Int) :
    still (phaseMeasured s e num own) = still s := by
  unfold phaseMeasured
  try dsimp only
  (repeat' split) <;> first | with_reducible rfl | simp only [still_modAir, still_supply, still_actOnErr, still_steer, still_epochAtEdge, still_enterLocked]

@[simp] theorem still_timLate (s : State) (g : Nat) (stamp : W64) (after : Nat) :
    still (timLate s g stamp after) = still s := by
  simp only [timLate, still_mk, still_ite, still_fold, still_foldl, stillO_next, stillO_ite, implies_true, ite_self, still_modGirth, still_report]

@[simp] theorem still_execRefmPps (iod : Fin 2) (stamp : W64) (cycles : W32) (s : State) :
    stillO (execRefmPps iod stamp cycles s) = some (still s) := by
  simp only [execRefmPps, still_mk, still_ite, still_fold, still_foldl, stillO_next, stillO_ite, implies_true, ite_self, still_timLate, still_takeMsg, still_candUpdate, still_evaluateRef, still_phaseMeasured]

@[simp] theorem still_execRefm (iod : Fin 2) (stamp : W64) (present : Bool) (s : State) :
    stillO (execRefm iod stamp present s) = some (still s) := by
  simp only [execRefm, still_mk, still_ite, still_fold, still_foldl, stillO_next, stillO_ite, implies_true, ite_self, still_candUpdate, still_timLate, still_takeMsg]

@[simp] theorem still_execPpsEdgeMissing (iod : Fin 2) (s : State) :
    stillO (execPpsEdgeMissing iod s) = some (still s) := by
  simp only [execPpsEdgeMissing, stillO_next, still_candUpdate]

@[simp] theorem still_execTenMhzLost (iod : Fin 2) (s : State) :
    stillO (execTenMhzLost iod s) = some (still s) := by
  simp only [execTenMhzLost, stillO_next, still_candUpdate]

@[simp] theorem still_execRevertTimer (cand : Fin 4) (s : State) :
    stillO (execRevertTimer cand s) = some (still s) := by
  unfold execRevertTimer
  try dsimp only
  (repeat' split) <;> first | with_reducible rfl | simp only [stillO_next, still_acquire]

@[simp] theorem still_execHoldLimitReached (s : State) :
    stillO (execHoldLimitReached s) = some (still s) := by
  simp only [execHoldLimitReached, stillO_next, stillO_ite, ite_self, still_report, still_modAir]

@[simp] theorem still_execTimeMsgMissing (port : Fin 4) (s : State) :
    stillO (execTimeMsgMissing port s) = some (still s) := by
  simp only [execTimeMsgMissing, still_mk, still_ite, still_fold, still_foldl, stillO_next, stillO_ite, implies_true, ite_self, still_modTth, still_candUpdate]

@[simp] theorem still_stepNowOp (s : State) :
    still (stepNowOp s) = still s := by
  simp only [stepNowOp, still_ite, ite_self, still_modAir]

@[simp] theorem still_execStepNow (s : State) :
    stillO (execStepNow s) = some (still s) := by
  simp only [execStepNow, stillO_next, implies_true, still_mgmt, still_stepNowOp]

@[simp] theorem still_slewAnywayOp (s : State) :
    still (slewAnywayOp s) = still s := by
  simp only [slewAnywayOp, still_ite, ite_self, still_enterLocked, still_modAir]

@[simp] theorem still_execSlewAnyway (s : State) :
    stillO (execSlewAnyway s) = some (still s) := by
  simp only [execSlewAnyway, stillO_next, implies_true, still_mgmt, still_slewAnywayOp]

@[simp] theorem still_forceHoldoverOp (s : State) (on : Bool) :
    still (forceHoldoverOp s on) = still s := by
  simp only [forceHoldoverOp, still_mk, still_ite, still_fold, still_foldl, stillO_next, stillO_ite, implies_true, ite_self, still_modAir, still_loseActive]

@[simp] theorem still_execForceHoldover (on : Bool) (s : State) :
    stillO (execForceHoldover on s) = some (still s) := by
  simp only [execForceHoldover, stillO_next, implies_true, still_mgmt, still_forceHoldoverOp]

@[simp] theorem still_epochArmOp (s : State) (frame : BitVec 10) (hyper : BitVec 24) :
    still (epochArmOp s frame hyper) = still s := by
  simp only [epochArmOp, still_modAir]

@[simp] theorem still_execAtmEpochArm (frame : BitVec 10) (hyper : BitVec 24) (s : State) :
    stillO (execAtmEpochArm frame hyper s) = some (still s) := by
  simp only [execAtmEpochArm, stillO_next, implies_true, still_mgmt, still_epochArmOp]

@[simp] theorem still_tetherTime (s : State) (port : Nat) (t1 : W64) (offset : W64) (valid linkUp : Bool) :
    still (tetherTime s port t1 offset valid linkUp) = still s := by
  simp only [tetherTime, still_ite, ite_self, still_candUpdate, still_evaluateRef, still_phaseMeasured]

@[simp] theorem still_tetherCandDown (s : State) (port : Nat) :
    still (tetherCandDown s port) = still s := by
  simp only [tetherCandDown, still_candUpdate]

@[simp] theorem still_bumpGen (s : State) (c : Nat) (due : Nat) :
    still (bumpGen s c due) = still s := by
  simp only [bumpGen, still_mk, still_ite, still_fold, still_foldl, stillO_next, stillO_ite, implies_true, ite_self, still_modCluster]

@[simp] theorem still_gaitSwapTick (s : State) (g : GaitAct) :
    still (gaitSwapTick s g) = still s := by
  unfold gaitSwapTick
  try dsimp only
  repeat' (first | with_reducible rfl | (simp only [still_bumpGen]; done) | with_reducible refine (still_foldl _ (fun s x => ?_) _ _).trans ?_ | split | (simp only [still_mk, still_ite, still_fold, still_foldl, stillO_next, stillO_ite, implies_true, ite_self, still_bumpGen]))

/-- What is left of the state when an action takes effect. -/
theorem takeAct_still {s t : State} {action : BitVec 6} {target : Byte} {arg : W16 → Bool} {g : GaitAct}
    (h : takeAct s action target arg = some (g, t)) : still t = still s := by
  unfold takeAct at h
  split at h
  · split at h
    · cases h
    · cases h; exact still_modAir ..
  · cases h; exact still_gaitSwapTick ..

@[simp] theorem still_gaitQueue (s : State) (late : Bool) (p : Nat → Bool) :
    still (gaitQueue s late p) = still s := by
  simp only [gaitQueue, still_mk, still_ite, still_fold, still_foldl, stillO_next, stillO_ite, implies_true, ite_self, still_gaitSwapTick, still_modAir]

@[simp] theorem still_gaitDiscard (s : State) (p : Nat → Bool) :
    still (gaitDiscard s p) = still s := by
  simp only [gaitDiscard, still_foldl, implies_true, still_report, still_modAir]

@[simp] theorem still_gaitIssue (s : State) :
    still (gaitIssue s) = still s := by
  simp only [gaitIssue, still_mk, still_ite, still_fold, still_foldl, stillO_next, stillO_ite, implies_true, ite_self, still_modAir]

@[simp] theorem still_sendAction (s : State) (g : GaitAct) :
    still (sendAction s g) = still s := by
  simp only [sendAction, still_mk, still_ite, still_fold, still_foldl, stillO_next, stillO_ite, implies_true, ite_self, still_emit, still_modAir, still_modTth]

@[simp] theorem still_gaitTick (s : State) :
    still (gaitTick s) = still s := by
  simp only [gaitTick, still_mk, still_ite, still_fold, still_foldl, stillO_next, stillO_ite, implies_true, ite_self, still_gaitDiscard, still_gaitIssue, still_gaitQueue, still_sendAction]

@[simp] theorem still_gaitLateLoad (s : State) :
    still (gaitLateLoad s) = still s := by
  simp only [gaitLateLoad, still_mk, still_ite, still_fold, still_foldl, stillO_next, stillO_ite, implies_true, ite_self, still_gaitDiscard, still_gaitQueue, still_modAir]

@[simp] theorem still_execGaitShadowWrite (index : BitVec 12) (entry : W64) (s : State) :
    stillO (execGaitShadowWrite index entry s) = some (still s) := by
  simp only [execGaitShadowWrite, stillO_next, stillO_ite, ite_self, still_modAir, still_report]

@[simp] theorem still_execGaitSwapArm (frame : BitVec 10) (s : State) :
    stillO (execGaitSwapArm frame s) = some (still s) := by
  simp only [execGaitSwapArm, stillO_next, stillO_ite, ite_self, still_modAir]

@[simp] theorem still_execGaitCopyDone (s : State) :
    stillO (execGaitCopyDone s) = some (still s) := by
  simp only [execGaitCopyDone, stillO_next, stillO_ite, ite_self, still_modAir]

@[simp] theorem still_execGaitStart (s : State) :
    stillO (execGaitStart s) = some (still s) := by
  simp only [execGaitStart, stillO_next, stillO_ite, ite_self, still_gaitTick, still_modAir]

@[simp] theorem still_execGaitStartTimeout (s : State) :
    stillO (execGaitStartTimeout s) = some (still s) := by
  unfold execGaitStartTimeout
  try dsimp only
  (repeat' split) <;> first | with_reducible rfl | simp only [stillO_next, still_modAir]

@[simp] theorem still_execIrq (stall : Fin 16) (vector : BitVec 11) (s : State) :
    stillO (execIrq stall vector s) = some (still s) := by
  unfold execIrq
  try dsimp only
  (repeat' split) <;> first | with_reducible rfl | (simp only [stillO_next, still_raiseVector]; rw [takeAct_still (by assumption)]) | (rw [takeAct_still (by assumption)]) | simp only [stillO_next, still_raiseVector]

@[simp] theorem still_modDet (s : State) (c d : Nat) (f : Detector → Detector) :
    still (modDet s c d f) = still s := by
  simp only [modDet, still_modCluster]

@[simp] theorem still_execCapt (source : BitVec 4) (stamp : W64) (rise : Bool) (s : State) :
    stillO (execCapt source stamp rise s) = some (still s) := by
  simp only [execCapt, still_mk, still_ite, still_fold, still_foldl, stillO_next, stillO_ite, implies_true, ite_self, still_timLate, still_takeMsg, still_modDet]

@[simp] theorem still_execDebounceComplete (cluster : Fin 6) (det : Fin 4) (s : State) :
    stillO (execDebounceComplete cluster det s) = some (still s) := by
  unfold execDebounceComplete
  try dsimp only
  (repeat' split) <;> first | with_reducible rfl | simp only [stillO_next, still_modDet]

end Sys2Proof.Machine
end

