-- ==== Sys2Proof/Laws/LastingMemory.lean ====
section
/-!
SUPPORT. What lasts across each operation and command of Machine/Memory.lean: `still_x` where operation `x` leaves it all
as it is, `after_x` where it changes it as `Lasting.After` says.
-/
namespace Sys2Proof.Machine

theorem after_devWrite {w0 : Lasting} (s : State) (x : Nat) (bs : List Byte) (h : w0.After (still s)) :
    w0.After (still (devWrite s x bs)) := h.hbm _ (wf_devPut x bs h.fit.mem)

@[simp] theorem still_poisonKey (s : State) (stall : Option (BitVec 4)) (key : Nat) (fdr : Option Nat) :
    still (poisonKey s stall key fdr) = still s := by
  simp only [poisonKey, still_mk, still_ite, still_fold, still_foldl, stillO_next, stillO_ite, implies_true, ite_self, still_report]

@[simp] theorem still_poisonBlock (s : State) (i : Nat) (a : Nat) (fdr : Option Nat) :
    still (poisonBlock s i a fdr) = still s := by
  simp only [poisonBlock, still_mk, still_ite, still_fold, still_foldl, stillO_next, stillO_ite, implies_true, ite_self, still_poisonKey]

@[simp] theorem still_correctedKey (s : State) (k : Nat) :
    still (correctedKey s k) = still s := by
  simp only [correctedKey, still_corrected, still_mk, still_fold]

@[simp] theorem still_memMet (s : State) (i : Nat) (mem : MemRead) (blocks : List Nat) :
    still (memMet s i mem blocks) = still s := by
  unfold memMet
  try dsimp only
  (repeat' split) <;> first | with_reducible rfl | simp only [still_correctedKey, still_poisonKey]

@[simp] theorem still_slotDamaged (s : State) (which : BitVec 2) :
    still (slotDamaged s which) = still s := by
  simp only [slotDamaged, still_mk, still_ite, still_fold, ite_self, still_report]

@[simp] theorem still_cacheAccess (s : State) (i : Nat) (a n : Nat) (write alloc : Bool) :
    still (cacheAccess s i a n write alloc) = still s := by
  simp only [cacheAccess, still_mk, still_fold, still_foldl, implies_true, still_modStall]

@[simp] theorem still_cacheFlushStall (s : State) (i : Nat) :
    still (cacheFlushStall s i) = still s := by
  simp only [cacheFlushStall, still_mk, still_fold]

@[simp] theorem still_cacheFlush (s : State) :
    still (cacheFlush s) = still s := by
  simp only [cacheFlush, still_mk, still_fold]

theorem after_regionWrite {w0 : Lasting} (s : State) (i x : Nat) (bs : List Byte) (alloc : Bool) (h : w0.After (still s)) :
    w0.After (still (regionWrite s i x bs alloc)) := after_devWrite _ _ _ (by simpa using h)

@[simp] theorem still_regionTouch (s : State) (i x n : Nat) (alloc : Bool) :
    still (regionTouch s i x n alloc) = still s := by
  simp only [regionTouch, still_cacheAccess]

end Sys2Proof.Machine
end

