-- ==== Sys2Proof/Laws/LastingThin.lean ====
section
/-!
SUPPORT. What lasts across each operation and command of Machine/Thin.lean: `still_x` where operation `x` leaves it all
as it is, `after_x` where it changes it as `Lasting.After` says.
-/
namespace Sys2Proof.Machine

theorem after_thinWrite {w0 : Lasting} (s : State) (i : Nat) (d : ThinDesc) (seed : W64) (hw : w0.After (still s)) :
    w0.After (still (thinWrite s i d seed)) := by
  unfold thinWrite
  try dsimp only
  repeat' (first | with_reducible assumption | with_reducible refine afterO_next ?_ | with_reducible apply after_regionWrite | with_reducible refine after_foldl _ (fun _ _ _ => ?_) _ _ ?_ | (simp only [still_mk, still_ite, still_fold, still_foldl, stillO_next, stillO_ite, implies_true, ite_self]; done) | (simpa only [still_mk, still_ite, still_fold, still_foldl, stillO_next, stillO_ite, implies_true, ite_self] using hw) | split | (simp only [still_mk, still_ite, still_fold, still_foldl, stillO_next, stillO_ite, implies_true, ite_self]))

@[simp] theorem still_thinWriteNet (s : State) (i n : Nat) (d : ThinDesc) (seed : W64) :
    still (thinWriteNet s i n d seed) = still s := by
  simp only [thinWriteNet, still_modArr]

end Sys2Proof.Machine
end

