-- ==== Sys2Proof/Laws/LastingRuns.lean ====
section
/-!
SUPPORT. What lasts across each operation and command of Machine/Runs.lean: `still_x` where operation `x` leaves it all
as it is, `after_x` where it changes it as `Lasting.After` says.
-/
namespace Sys2Proof.Machine

@[simp] theorem still_modRun (s : State) (o : Owner) (f : Run → Run) :
    still (modRun s o f) = still s := by
  unfold modRun
  try dsimp only
  (repeat' split) <;> first | with_reducible rfl | simp only [still_modStall, still_modCarrier]

@[simp] theorem still_dropRun (s : State) (i q : Nat) (seq : W32) :
    still (dropRun s i q seq) = still s := by
  simp only [dropRun, still_modStall]

@[simp] theorem still_setEntry (s : State) (i q : Nat) (seq : W32) (f : JEntry → JEntry) :
    still (setEntry s i q seq f) = still s := by
  simp only [setEntry, still_modStall]

@[simp] theorem still_evMod (s : State) (n set : Nat) (f : W16 → W16) :
    still (evMod s n set f) = still s := by
  simp only [evMod, still_modArr]

end Sys2Proof.Machine
end

