-- ==== Sys2Proof/Laws/LastingService.lean ====
section
/-!
SUPPORT. What lasts across each operation and command of Machine/Service.lean: `still_x` where operation `x` leaves it all
as it is, `after_x` where it changes it as `Lasting.After` says.
-/
namespace Sys2Proof.Machine

@[simp] theorem still_expireBatches (s : State) (i : Nat) (all : Bool) :
    still (expireBatches s i all) = still s := by
  simp only [expireBatches, still_modStall]

@[simp] theorem still_dropBatch (s : State) (i : Nat) (b : Batch) :
    still (dropBatch s i b) = still s := by
  simp only [dropBatch, still_mk, still_ite, still_fold, still_foldl, stillO_next, stillO_ite, implies_true, ite_self, still_modStall]

@[simp] theorem still_chargeContribs (s : State) (cs : List Contrib) (k : ChargeKind) (pool : Bool) (ns : Nat) :
    still (chargeContribs s cs k pool ns) = still s := by
  simp only [chargeContribs, still_foldl, implies_true, still_charge]

@[simp] theorem still_nextPiece (s : State) (f : Nat) :
    still (nextPiece s f) = still s := by
  unfold nextPiece
  try dsimp only
  (repeat' split) <;> first | with_reducible rfl | simp only [still_modFdr]

@[simp] theorem still_wakeFeeders (s : State) :
    still (wakeFeeders s) = still s := by
  simp only [wakeFeeders, still_mk, still_ite, still_fold, still_foldl, stillO_next, stillO_ite, implies_true, ite_self, still_nextPiece]

@[simp] theorem still_enqueue (s : State) (f : Nat) (g : List Xfer) :
    still (enqueue s f g) = still s := by
  simp only [enqueue, still_mk, still_ite, still_fold, still_foldl, stillO_next, stillO_ite, implies_true, ite_self, still_nextPiece, still_modFdr]

@[simp] theorem still_countDev (s : State) (i : Nat) (xfers : Nat) (rd : Nat) (wr : Nat) :
    still (countDev s i xfers rd wr) = still s := by
  unfold countDev
  try dsimp only
  (repeat' split) <;> first | with_reducible rfl | simp only [still_modFdr, still_modStall]

@[simp] theorem still_mergeAccess (s : State) (i : Nat) (win : Nat) (write : Bool) :
    still (mergeAccess s i win write).1 = still s := by
  unfold mergeAccess
  try dsimp only
  repeat' (first | with_reducible rfl | (simp only [still_fold]; done) | with_reducible refine (still_foldl _ (fun s x => ?_) _ _).trans ?_ | split | (simp only [still_mk, still_ite, still_fold, still_foldl, stillO_next, stillO_ite, implies_true, ite_self, still_fold]))

@[simp] theorem still_refreshBacklog (s : State) :
    still (refreshBacklog s) = still s := by
  simp only [refreshBacklog, still_foldl, implies_true, still_modStall]

end Sys2Proof.Machine
end

