-- ==== Sys2Proof/Laws/LastingTasks.lean ====
section
/-!
SUPPORT. What lasts across each operation and command of Machine/Tasks.lean: `still_x` where operation `x` leaves it all
as it is, `after_x` where it changes it as `Lasting.After` says.
-/
namespace Sys2Proof.Machine

@[simp] theorem still_beginEntry (s : State) (o : Owner) (r : Run) (n : Nat) (d : List Byte) :
    still (beginEntry s o r n d) = still s := by
  unfold beginEntry
  try dsimp only
  (repeat' split) <;> first | with_reducible rfl | simp only [still_evMod, still_modRun, still_setEntry]

@[simp] theorem still_leaveArray (s : State) (o : Owner) :
    still (leaveArray s o) = still s := by
  simp only [leaveArray, still_modRun]

@[simp] theorem still_abortFeeder (s : State) (n : Nat) (p : Xfer → Bool) :
    still (abortFeeder s n p) = still s := by
  simp only [abortFeeder, still_mk, still_ite, still_fold, still_foldl, stillO_next, stillO_ite, implies_true, ite_self, still_nextPiece, still_modFdr]

@[simp] theorem still_dropXfers (s : State) (p : Xfer → Bool) :
    still (dropXfers s p) = still s := by
  simp only [dropXfers, still_foldl, implies_true, still_abortFeeder]

@[simp] theorem still_dropWork (s : State) (i : Nat) (q : Nat) (seq : W32) :
    still (dropWork s i q seq) = still s := by
  simp only [dropWork, still_mk, still_ite, still_fold, still_foldl, stillO_next, stillO_ite, implies_true, ite_self, still_modStall, still_dropXfers]

@[simp] theorem still_toCommitting (s : State) (i : Nat) (q : Nat) (seq : W32) (status : W16) :
    still (toCommitting s i q seq status) = still s := by
  simp only [toCommitting, still_mk, still_ite, still_fold, still_foldl, stillO_next, stillO_ite, implies_true, ite_self, still_leaveArray, still_dropWork, still_modRun, still_setEntry]

@[simp] theorem still_finishRun (s : State) (o : Owner) :
    still (finishRun s o) = still s := by
  unfold finishRun
  try dsimp only
  (repeat' split) <;> first | with_reducible rfl | simp only [still_toCommitting, still_modCarrier]

@[simp] theorem still_endEntry (s : State) (o : Owner) (n t : Nat) (d : List Byte) :
    still (endEntry s o n t d) = still s := by
  unfold endEntry
  try dsimp only
  (repeat' split) <;> first | with_reducible rfl | simp only [still_evMod, still_modRun, still_finishRun]

@[simp] theorem still_abortTileAfter (s : State) (n : Nat) (c : Nat) :
    still (abortTileAfter s n c) = still s := by
  unfold abortTileAfter
  try dsimp only
  (repeat' split) <;> first | with_reducible rfl | simp only [still_modArr, still_drew, still_charge, still_chargeContribs]

@[simp] theorem still_abortTile (s : State) (n : Nat) :
    still (abortTile s n) = still s := by
  simp only [abortTile, still_mk, still_ite, still_fold, still_foldl, stillO_next, stillO_ite, implies_true, ite_self, still_abortTileAfter, still_drew]

@[simp] theorem still_abortVecAfter (s : State) (n : Nat) (c : Nat) :
    still (abortVecAfter s n c) = still s := by
  unfold abortVecAfter
  try dsimp only
  (repeat' split) <;> first | with_reducible rfl | simp only [still_modVec, still_charge]

@[simp] theorem still_abortVec (s : State) (n : Nat) :
    still (abortVec s n) = still s := by
  unfold abortVec
  try dsimp only
  (repeat' split) <;> first | with_reducible rfl | simp only [still_abortVecAfter, still_drew]

@[simp] theorem still_abortPathRun (s : State) (m : Nat) :
    still (abortPathRun s m) = still s := by
  unfold abortPathRun
  try dsimp only
  (repeat' split) <;> first | with_reducible rfl | simp only [still_modPath, still_drew, still_chargeContribs]

@[simp] theorem still_abortPath (s : State) (m : Nat) (i : Nat) :
    still (abortPath s m i) = still s := by
  simp only [abortPath, still_mk, still_ite, still_fold, still_foldl, stillO_next, stillO_ite, implies_true, ite_self, still_abortPathRun]

@[simp] theorem still_displaceRun (s : State) (i : Nat) (q : Nat) (seq : W32) :
    still (displaceRun s i q seq) = still s := by
  unfold displaceRun
  try dsimp only
  (repeat' split) <;> first | with_reducible rfl | simp only [still_modRun, still_leaveArray, still_dropWork]

@[simp] theorem still_rerunJob (s : State) (i : Nat) (q : Nat) (seq : W32) :
    still (rerunJob s i q seq) = still s := by
  simp only [rerunJob, still_mk, still_ite, still_fold, still_foldl, stillO_next, stillO_ite, implies_true, ite_self, still_modRun, still_leaveArray, still_dropWork, still_setEntry]

@[simp] theorem still_eccFail (s : State) (i q : Nat) (seq : W32) (t : Nat) (n : Option Nat) :
    still (eccFail s i q seq t n) = still s := by
  unfold eccFail
  try dsimp only
  (repeat' split) <;> first | with_reducible rfl | simp only [still_toCommitting, still_displaceRun, still_modRun]

@[simp] theorem still_failSlot (s : State) (c : Nat) (frame : BitVec 10) (slot : Nat) (cause : Nat) :
    still (failSlot s c frame slot cause) = still s := by
  simp only [failSlot, still_modCarrier]

@[simp] theorem still_failInv (s : State) (c : Nat) (cause : Nat) :
    still (failInv s c cause) = still s := by
  unfold failInv
  try dsimp only
  (repeat' split) <;> first | with_reducible rfl | simp only [still_modCarrier, still_failSlot]

@[simp] theorem still_abortStall (s : State) (i : Nat) :
    still (abortStall s i) = still s := by
  simp only [abortStall, still_ite, still_foldl, implies_true, ite_self, still_abortTile, still_abortVec, still_abortPath, still_dropXfers, still_modStall]

@[simp] theorem still_failStallSlots (s : State) (i : Nat) (reset : Bool) :
    still (failStallSlots s i reset) = still s := by
  simp only [failStallSlots, still_ite, still_foldl, implies_true, ite_self, still_modCarrier, still_touchNow]

@[simp] theorem still_stallFault (s : State) (i : Nat) (code : W16) (kind : BitVec 4) (unit : Nat) (data : List Byte) (job : Option (Nat × W32)) :
    still (stallFault s i code kind unit data job) = still s := by
  unfold stallFault
  try dsimp only
  (repeat' split) <;> first | with_reducible rfl | simp only [still_pushEvent, still_modStall, still_report, still_cacheFlushStall, still_failStallSlots, still_abortStall]

@[simp] theorem still_descFault (s : State) (o : Owner) (code : Byte) (index : Nat) (kind : BitVec 4) (unit : Nat) :
    still (descFault s o code index kind unit) = still s := by
  unfold descFault
  try dsimp only
  (repeat' split) <;> first | with_reducible rfl | simp only [still_stallFault]

@[simp] theorem still_failOwner (s : State) (o : Owner) (t : Nat) (avoid : Option Nat) :
    still (failOwner s o t avoid) = still s := by
  unfold failOwner
  try dsimp only
  (repeat' split) <;> first | with_reducible rfl | simp only [still_eccFail, still_failInv]

@[simp] theorem still_markSat (s : State) (o : Owner) (sat : Bool) :
    still (markSat s o sat) = still s := by
  unfold markSat
  try dsimp only
  (repeat' split) <;> first | with_reducible rfl | simp only [still_setEntry]

@[simp] theorem still_regather (s : State) (cs : List Contrib) :
    still (regather s cs) = still s := by
  unfold regather
  try dsimp only
  repeat' (first | with_reducible rfl | (simp only [still_modStall]; done) | with_reducible refine (still_foldl _ (fun s x => ?_) _ _).trans ?_ | split | (simp only [still_mk, still_ite, still_fold, still_foldl, stillO_next, stillO_ite, implies_true, ite_self, still_modStall]))

end Sys2Proof.Machine
end

