-- ==== Sys2Proof/Laws/LastingFence.lean ====
section
/-!
SUPPORT. What lasts across each operation and command of Machine/Fence.lean: `still_x` where operation `x` leaves it all
as it is, `after_x` where it changes it as `Lasting.After` says.
-/
namespace Sys2Proof.Machine

@[simp] theorem still_modNet (s : State) (r : Nat) (f : SchoolNet → SchoolNet) :
    still (modNet s r f) = still s := by
  simp only [modNet, still_mk, still_fold]

@[simp] theorem still_schoolLost (s : State) (n : Nat) :
    still (schoolLost s n) = still s := by
  unfold schoolLost
  try dsimp only
  (repeat' split) <;> first | with_reducible rfl | simp only [still_mk, still_ite, still_fold, still_foldl, implies_true, ite_self, still_modNet]

@[simp] theorem still_loadNet (s : State) (n : Nat) (x : NetCfg) :
    still (loadNet s n x) = still s := by
  unfold loadNet
  try dsimp only
  (repeat' split) <;> first | with_reducible rfl | simp only [still_regionTouch, still_modArr, still_countDev]

@[simp] theorem still_loadReserve (s : State) (n : Nat) :
    still (loadReserve s n) = still s := by
  simp only [loadReserve, still_mk, still_ite, still_fold, still_foldl, stillO_next, stillO_ite, implies_true, ite_self, still_loadNet, still_modArr]

@[simp] theorem still_evaluateStall (s : State) (i : Nat) :
    still (evaluateStall s i) = still s := by
  unfold evaluateStall
  try dsimp only
  (repeat' split) <;> first | with_reducible rfl | simp only [still_modStall]

@[simp] theorem still_loseOne (s : State) (i : Nat) (kind : Nat) (failed : Nat) :
    still (loseOne s i kind failed) = still s := by
  unfold loseOne
  try dsimp only
  (repeat' split) <;> first | with_reducible rfl | simp only [still_modStall]

@[simp] theorem still_loseUnit (s : State) (i : Nat) (kind : Nat) (failed : Nat) :
    still (loseUnit s i kind failed) = still s := by
  simp only [loseUnit, still_mk, still_ite, still_fold, still_foldl, stillO_next, stillO_ite, implies_true, ite_self, still_modStall, still_loseOne]

@[simp] theorem still_applyShed (s : State) (i : Nat) (v : W16) (k : BitVec 4) :
    still (applyShed s i v k) = still s := by
  unfold applyShed
  try dsimp only
  (repeat' split) <;> first | with_reducible rfl | simp only [still_ite, still_foldl, implies_true, ite_self, still_modStall, still_modCarrier, still_note]

@[simp] theorem still_failWaiting (s : State) (c : Nat) :
    still (failWaiting s c) = still s := by
  unfold failWaiting
  try dsimp only
  (repeat' split) <;> first | with_reducible rfl | simp only [still_modCarrier]

@[simp] theorem still_applyRemap (s : State) (i : Nat) (r : Remap) :
    still (applyRemap s i r) = still s := by
  unfold applyRemap
  try dsimp only
  repeat' (first | with_reducible rfl | (simp only [still_modCarrier, still_failWaiting]; done) | with_reducible refine (still_foldl _ (fun s x => ?_) _ _).trans ?_ | split | (simp only [still_mk, still_ite, still_fold, still_foldl, stillO_next, stillO_ite, implies_true, ite_self, still_modCarrier, still_failWaiting]))

@[simp] theorem still_remapOp (s : State) (i : Nat) :
    still (remapOp s i) = still s := by
  unfold remapOp
  try dsimp only
  (repeat' split) <;> first | with_reducible rfl | simp only [still_foldl, implies_true, still_applyRemap, still_modStall, still_applyShed]

@[simp] theorem still_execFallbackRemap (stall : Fin 16) (s : State) :
    stillO (execFallbackRemap stall s) = some (still s) := by
  simp only [execFallbackRemap, stillO_next, stillO_ite, ite_self, still_remapOp]

@[simp] theorem still_reserveLoaded (s : State) (n : Nat) :
    still (reserveLoaded s n) = still s := by
  simp only [reserveLoaded, still_mk, still_ite, still_fold, still_foldl, stillO_next, stillO_ite, implies_true, ite_self, still_loadNet, still_modArr, still_modStall]

@[simp] theorem still_execReserveLoadDone (arr : Fin 8) (s : State) :
    stillO (execReserveLoadDone arr s) = some (still s) := by
  simp only [execReserveLoadDone, stillO_next, stillO_ite, ite_self, still_reserveLoaded]

@[simp] theorem still_checkNoArray (s : State) (n : Nat) :
    still (checkNoArray s n) = still s := by
  simp only [checkNoArray, still_ite, still_foldl, implies_true, ite_self, still_stallFault]

@[simp] theorem still_fenceOp (s : State) (n : Nat) (cause : BitVec 4) :
    still (fenceOp s n cause) = still s := by
  simp only [fenceOp, still_mk, still_ite, still_fold, still_foldl, stillO_next, stillO_ite, implies_true, ite_self, still_abortVec, still_abortTile, still_report, still_regather, still_modRun, still_displaceRun, still_modArr, still_failInv, still_loseUnit, still_refreshBacklog, still_wakeFeeders, still_checkNoArray, still_schoolLost]

@[simp] theorem still_bankUe (s : State) (n i w : Nat) :
    still (bankUe s n i w) = still s := by
  simp only [bankUe, still_ite, ite_self, still_modArr, still_report, still_fenceOp]

@[simp] theorem still_execFence (arr : Fin 8) (cause : BitVec 4) (s : State) :
    stillO (execFence arr cause s) = some (still s) := by
  simp only [execFence, stillO_next, still_fenceOp]

@[simp] theorem still_fenceCmdOp (n : Nat) (s : State) :
    still (fenceCmdOp n s) = still s := by
  simp only [fenceCmdOp, still_mk, still_fold, still_fenceOp]

@[simp] theorem still_execFenceCmd (arr : Fin 8) (s : State) :
    stillO (execFenceCmd arr s) = some (still s) := by
  simp only [execFenceCmd, stillO_next, implies_true, still_mgmt, still_fenceCmdOp]

@[simp] theorem still_persistOp (s : State) (n : Nat) (on : Bool) :
    still (persistOp s n on) = still s := by
  simp only [persistOp, still_mk, still_fold, still_note]

@[simp] theorem still_execPersist (arr : Fin 8) (s : State) :
    stillO (execPersist arr s) = some (still s) := by
  simp only [execPersist, stillO_next, implies_true, still_mgmt, still_persistOp]

@[simp] theorem still_execUnpersist (arr : Fin 8) (s : State) :
    stillO (execUnpersist arr s) = some (still s) := by
  simp only [execUnpersist, stillO_next, implies_true, still_mgmt, still_persistOp]

@[simp] theorem still_execCheckTile (arr : Fin 8) (pass : Bool) (s : State) :
    stillO (execCheckTile arr pass s) = some (still s) := by
  simp only [execCheckTile, stillO_next, stillO_ite, ite_self, still_modArr, still_fenceOp]

@[simp] theorem still_overrun (s : State) (n : Nat) (o : Owner) (t : Nat) :
    still (overrun s n o t) = still s := by
  unfold overrun
  try dsimp only
  (repeat' split) <;> first | with_reducible rfl | simp only [still_toCommitting, still_fenceOp, still_modRun, still_failInv]

@[simp] theorem still_execTileOverrun (arr : Fin 8) (s : State) :
    stillO (execTileOverrun arr s) = some (still s) := by
  unfold execTileOverrun
  try dsimp only
  (repeat' split) <;> first | with_reducible rfl | simp only [stillO_next, still_drew, still_modArr, still_report, still_overrun, still_regather, still_abortTileAfter]

@[simp] theorem still_execVectorOverrun (arr : Fin 8) (s : State) :
    stillO (execVectorOverrun arr s) = some (still s) := by
  unfold execVectorOverrun
  try dsimp only
  (repeat' split) <;> first | with_reducible rfl | simp only [stillO_next, still_overrun, still_abortVecAfter]

end Sys2Proof.Machine
end

