-- ==== Sys2Proof/Laws/LastingJobs.lean ====
section
/-!
SUPPORT. What lasts across each operation and command of Machine/Jobs.lean: `still_x` where operation `x` leaves it all
as it is, `after_x` where it changes it as `Lasting.After` says.
-/
namespace Sys2Proof.Machine

@[simp] theorem still_answer (s : State) (i q : Nat) (kind reason : Byte) (value : W32) (mismatch : Bool) (acceptTick : W64) (orig : W16) :
    still (answer s i q kind reason value mismatch acceptTick orig) = still s := by
  simp only [answer, still_ite, ite_self, still_modStall, still_toHost, still_raiseSource]

@[simp] theorem still_doorbell (s : State) (i q : Nat) (tail : W32) :
    still (doorbell s i q tail) = still s := by
  simp only [doorbell, still_ite, ite_self, still_answer, still_modStall]

@[simp] theorem still_tailOp (s : State) (i q : Nat) (tail : W32) :
    still (tailOp s i q tail) = still s := by
  simp only [tailOp, still_ite, ite_self, still_doorbell, still_modStall]

@[simp] theorem still_execQueSqTail (stall : Fin 16) (q : Fin 8) (tail : W32) (s : State) :
    stillO (execQueSqTail stall q tail s) = some (still s) := by
  simp only [execQueSqTail, still_mk, still_ite, still_fold, still_foldl, stillO_next, stillO_ite, implies_true, ite_self, still_ownWrite, still_tailOp]

@[simp] theorem still_acceptStep1 (s : State) (i q : Nat) (desc : List Byte) :
    still (acceptStep1 s i q desc) = still s := by
  simp only [acceptStep1, still_modStall]

@[simp] theorem still_consume (s : State) (i q : Nat) (stop : Option (BitVec 3 × Byte)) :
    still (consume s i q stop) = still s := by
  simp only [consume, still_modStall]

@[simp] theorem still_classify (s : State) (i q : Nat) (desc : List Byte) :
    still (classify s i q desc) = still s := by
  unfold classify
  try dsimp only
  (repeat' split) <;> first | with_reducible rfl | simp only [still_answer, still_consume, still_acceptStep1, still_modStall]

@[simp] theorem still_execDescriptorRead (stall : Fin 16) (q : Fin 8) (readFault : Bool) (desc : List Byte) (s : State) :
    stillO (execDescriptorRead stall q readFault desc s) = some (still s) := by
  simp only [execDescriptorRead, still_mk, still_ite, still_fold, still_foldl, stillO_next, stillO_ite, implies_true, ite_self, still_hostRead, still_modStall, still_classify]

@[simp] theorem still_failDependents (s : State) (i : Nat) :
    still (failDependents s i) = still s := by
  unfold failDependents
  try dsimp only
  repeat' (first | with_reducible rfl | (simp only [still_ite, ite_self, still_toCommitting]; done) | with_reducible refine (still_foldl _ (fun s x => ?_) _ _).trans ?_ | split | (simp only [still_mk, still_ite, still_fold, still_foldl, stillO_next, stillO_ite, implies_true, ite_self, still_toCommitting]))

@[simp] theorem still_acceptOp (s : State) (i : Nat) (q : Nat) (desc : List Byte) :
    still (acceptOp s i q desc) = still s := by
  unfold acceptOp
  try dsimp only
  (repeat' split) <;> first | with_reducible rfl | simp only [still_modStall, still_refreshBacklog, still_failDependents, still_tailOp]

@[simp] theorem still_execJobAccepted (stall : Fin 16) (q : Fin 8) (s : State) :
    stillO (execJobAccepted stall q s) = some (still s) := by
  unfold execJobAccepted
  try dsimp only
  (repeat' split) <;> first | with_reducible rfl | simp only [stillO_next, still_acceptOp]

@[simp] theorem still_resumeOp (s : State) (i q : Nat) :
    still (resumeOp s i q) = still s := by
  simp only [resumeOp, still_modStall]

@[simp] theorem still_execQueSqResume (stall : Fin 16) (q : Fin 8) (s : State) :
    stillO (execQueSqResume stall q s) = some (still s) := by
  simp only [execQueSqResume, still_mk, still_ite, still_fold, still_foldl, stillO_next, stillO_ite, implies_true, ite_self, still_ownWrite, still_resumeOp]

@[simp] theorem still_releaseSlot (s : State) (i q : Nat) :
    still (releaseSlot s i q) = still s := by
  unfold releaseSlot
  try dsimp only
  (repeat' split) <;> first | with_reducible rfl | simp only [still_acceptStep1]

@[simp] theorem still_cqHeadOp (s : State) (i q : Nat) (head : W32) :
    still (cqHeadOp s i q head) = still s := by
  simp only [cqHeadOp, still_releaseSlot, still_modStall]

@[simp] theorem still_execQueCqHead (stall : Fin 16) (q : Fin 8) (head : W32) (s : State) :
    stillO (execQueCqHead stall q head s) = some (still s) := by
  simp only [execQueCqHead, still_mk, still_ite, still_fold, still_foldl, stillO_next, stillO_ite, implies_true, ite_self, still_ownWrite, still_cqHeadOp]

@[simp] theorem still_resumeQueues (s : State) (i : Nat) :
    still (resumeQueues s i) = still s := by
  unfold resumeQueues
  try dsimp only
  repeat' (first | with_reducible rfl | (simp only [still_tailOp, still_modStall, still_releaseSlot]; done) | with_reducible refine (still_foldl _ (fun s x => ?_) _ _).trans ?_ | split | (simp only [still_mk, still_ite, still_fold, still_foldl, stillO_next, stillO_ite, implies_true, ite_self, still_tailOp, still_modStall, still_releaseSlot]))

@[simp] theorem still_grantTokens (s : State) (n i : Nat) (ts : List Nat) :
    still (grantTokens s n i ts) = still s := by
  simp only [grantTokens, still_modArr]

@[simp] theorem still_placeOn (s : State) (i q : Nat) (seq : W32) (n : Nat) :
    still (placeOn s i q seq n) = still s := by
  simp only [placeOn, still_ite, ite_self, still_grantTokens, still_evMod, still_modStall, still_modRun]

@[simp] theorem still_execJobRunPlace (stall : Fin 16) (q : Fin 8) (seq : W32) (s : State) :
    stillO (execJobRunPlace stall q seq s) = some (still s) := by
  unfold execJobRunPlace
  try dsimp only
  (repeat' split) <;> first | with_reducible rfl | simp only [stillO_next, still_toCommitting, still_refreshBacklog, still_placeOn]

theorem after_copyExtents {w0 : Lasting} (s : State) (i : Nat) (ext : List (Nat × Nat × Nat)) (hw : w0.After (still s)) :
    w0.After (still (copyExtents s i ext)) := by
  unfold copyExtents
  try dsimp only
  repeat' (first | with_reducible assumption | with_reducible refine afterO_next ?_ | with_reducible apply after_regionWrite | with_reducible refine after_foldl _ (fun _ _ _ => ?_) _ _ ?_ | (simp only [still_regionTouch, still_countDev]; done) | (simp only [still_mk, still_ite, still_fold, still_foldl, stillO_next, stillO_ite, implies_true, ite_self, still_regionTouch, still_countDev]; with_reducible assumption) | intro _ _ | split | (simp only [still_mk, still_ite, still_fold, still_foldl, stillO_next, stillO_ite, implies_true, ite_self, still_regionTouch, still_countDev]))

theorem after_commitOp {w0 : Lasting} (s : State) (i q : Nat) (e : JEntry) (hw : w0.After (still s)) :
    w0.After (still (commitOp s i q e)) := by
  unfold commitOp
  try dsimp only
  repeat' (first | with_reducible assumption | with_reducible refine afterO_next ?_ | with_reducible apply after_copyExtents | with_reducible refine after_foldl _ (fun _ _ _ => ?_) _ _ ?_ | (simp only [still_ite, still_setEntry, still_refreshBacklog, still_failDependents, still_dropRun]; done) | (simpa only [still_mk, still_ite, still_fold, still_foldl, stillO_next, stillO_ite, implies_true, ite_self, still_setEntry, still_refreshBacklog, still_failDependents, still_dropRun] using hw) | split | (simp only [still_setEntry, still_refreshBacklog, still_failDependents, still_dropRun]))

@[simp] theorem still_commitFail (s : State) (i : Nat) (q : Nat) (e : JEntry) :
    still (commitFail s i q e) = still s := by
  simp only [commitFail, still_mk, still_ite, still_fold, still_foldl, stillO_next, stillO_ite, implies_true, ite_self, still_toCommitting, still_modRun, still_refreshBacklog, still_rerunJob]

theorem after_execCommitDone {w0 : Lasting} (stall : Fin 16) (q : Fin 8) (s : State) (mem : MemRead) (hw : w0.After (still s)) :
    AfterO w0 (execCommitDone stall q s mem) := by
  unfold execCommitDone
  try dsimp only
  repeat' (first | with_reducible assumption | with_reducible refine afterO_next ?_ | with_reducible apply after_commitOp | with_reducible refine after_foldl _ (fun _ _ _ => ?_) _ _ ?_ | (simp only [still_memMet, still_commitFail]; done) | (simp only [still_mk, still_ite, still_fold, still_foldl, stillO_next, stillO_ite, implies_true, ite_self, still_memMet, still_commitFail]; with_reducible assumption) | intro _ _ | split | (simp only [still_mk, still_ite, still_fold, still_foldl, stillO_next, stillO_ite, implies_true, ite_self, still_memMet, still_commitFail]))

@[simp] theorem still_completionIrq (s : State) (i q : Nat) :
    still (completionIrq s i q) = still s := by
  simp only [completionIrq, still_raiseSource, still_modStall]

@[simp] theorem still_countCompletion (s : State) (i q : Nat) (now : Bool) :
    still (countCompletion s i q now) = still s := by
  simp only [countCompletion, still_ite, ite_self, still_completionIrq, still_modStall]

@[simp] theorem still_completeOp (s : State) (i q : Nat) (e : JEntry) :
    still (completeOp s i q e) = still s := by
  simp only [completeOp, still_emit, still_setEntry, still_modStall, still_countCompletion]

@[simp] theorem still_execCompletionWrite (stall : Fin 16) (q : Fin 8) (s : State) :
    stillO (execCompletionWrite stall q s) = some (still s) := by
  unfold execCompletionWrite
  try dsimp only
  (repeat' split) <;> first | with_reducible rfl | simp only [stillO_next, still_completeOp]

@[simp] theorem still_execCqCoalTimer (stall : Fin 16) (q : Fin 8) (s : State) :
    stillO (execCqCoalTimer stall q s) = some (still s) := by
  simp only [execCqCoalTimer, stillO_next, stillO_ite, ite_self, still_completionIrq]

@[simp] theorem still_initControl (s : State) (i : Nat) :
    still (initControl s i) = still s := by
  simp only [initControl, still_drew, still_modStall]

theorem after_restoreControl {w0 : Lasting} (s : State) (i : Nat) (job : Option (Nat × W32)) (hw : w0.After (still s)) :
    w0.After (still (restoreControl s i job)) := by
  unfold restoreControl
  try dsimp only
  repeat' (first | with_reducible assumption | with_reducible refine afterO_next ?_ | with_reducible apply after_commitOp | with_reducible refine after_foldl _ (fun _ _ _ => ?_) _ _ ?_ | (simp only [still_modStall, still_toCommitting]; done) | (simp only [still_mk, still_ite, still_fold, still_foldl, stillO_next, stillO_ite, implies_true, ite_self, still_modStall, still_toCommitting]; with_reducible assumption) | intro _ _ | split | (simp only [still_mk, still_ite, still_fold, still_foldl, stillO_next, stillO_ite, implies_true, ite_self, still_modStall, still_toCommitting]))

end Sys2Proof.Machine
end

