-- ==== Sys2Proof/Laws/LastingUnits.lean ====
section
/-!
SUPPORT. What lasts across each operation and command of Machine/Units.lean: `still_x` where operation `x` leaves it all
as it is, `after_x` where it changes it as `Lasting.After` says.
-/
namespace Sys2Proof.Machine

@[simp] theorem still_settleRails (s : State) :
    still (settleRails s) = still s := by
  simp only [settleRails, still_mk, still_ite, still_fold, ite_self, still_emit]

@[simp] theorem still_applyUnit (s : State) (domain unit : Nat) :
    still (applyUnit s domain unit) = still s := by
  simp only [applyUnit, still_mk, still_ite, still_fold, ite_self, still_modArr, still_modVec, still_modPath, still_settleRails]

@[simp] theorem still_settleUnit (s : State) (domain unit : Nat) :
    still (settleUnit s domain unit) = still s := by
  simp only [settleUnit, still_ite, ite_self, still_applyUnit]

@[simp] theorem still_openWindow (s : State) (domain len : Nat) (unit : Nat) :
    still (openWindow s domain len unit) = still s := by
  simp only [openWindow, still_mk, still_fold, still_settleUnit]

@[simp] theorem still_execDvfsOpen (domain : BitVec 4) (unit : BitVec 4) (len : W16) (s : State) :
    stillO (execDvfsOpen domain unit len s) = some (still s) := by
  unfold execDvfsOpen
  try dsimp only
  repeat' (first | with_reducible rfl | (simp only [stillO_next, still_openWindow]; rw [takeAct_still (by assumption)]) | (rw [takeAct_still (by assumption)]) | (simp only [still_openWindow]; done) | with_reducible refine (still_foldl _ (fun s x => ?_) _ _).trans ?_ | split | (simp only [still_mk, still_ite, still_fold, still_foldl, stillO_next, stillO_ite, implies_true, ite_self, still_openWindow]))

@[simp] theorem still_closeWindows (s : State) :
    still (closeWindows s) = still s := by
  simp only [closeWindows, still_mk, still_fold]

end Sys2Proof.Machine
end

