-- ==== Sys2Proof/Laws/LastingVectorPaths.lean ====
section
/-!
SUPPORT. What lasts across each operation and command of Machine/VectorPaths.lean: `still_x` where operation `x` leaves it all
as it is, `after_x` where it changes it as `Lasting.After` says.
-/
namespace Sys2Proof.Machine

@[simp] theorem still_settleMove (s : State) (n : Nat) :
    still (settleMove s n) = still s := by
  unfold settleMove
  try dsimp only
  (repeat' split) <;> first | with_reducible rfl | simp only [still_modArr]

@[simp] theorem still_settleMoves (s : State) :
    still (settleMoves s) = still s := by
  simp only [settleMoves, still_mk, still_ite, still_fold, still_foldl, stillO_next, stillO_ite, implies_true, ite_self, still_settleMove]

@[simp] theorem still_execVectorDispatch (arr : Fin 8) (work : Work) (s : State) :
    stillO (execVectorDispatch arr work s) = some (still s) := by
  unfold execVectorDispatch
  try dsimp only
  (repeat' split) <;> first | with_reducible rfl | simp only [stillO_next, still_modVec, still_descFault, still_beginEntry, still_refreshBacklog, still_modArr]

@[simp] theorem still_arrUe (s : State) (n : Nat) (o : Owner) (t i : Nat) (bank : Bool) (code : Byte) (addr : Nat) :
    still (arrUe s n o t i bank code addr) = still s := by
  simp only [arrUe, still_ite, ite_self, still_modArr, still_report, still_failOwner, still_fenceOp]

@[simp] theorem still_arrCe (s : State) (n : Nat) :
    still (arrCe s n) = still s := by
  simp only [arrCe, still_mk, still_ite, still_fold, still_foldl, stillO_next, stillO_ite, implies_true, ite_self, still_modArr]

@[simp] theorem still_scrUe (s : State) (n : Nat) (o : Owner) (t : Nat) (i : Nat) (bank : Bool) (x : Nat) :
    still (scrUe s n o t i bank x) = still s := by
  simp only [scrUe, still_mk, still_ite, still_fold, still_foldl, stillO_next, stillO_ite, implies_true, ite_self, still_arrUe, still_modArr]

@[simp] theorem still_execVectorTaskEnd (arr : Fin 8) (cycles : W16) (read : MemRead) (s : State) (scr : MemRead) :
    stillO (execVectorTaskEnd arr cycles read s scr) = some (still s) := by
  unfold execVectorTaskEnd
  try dsimp only
  (repeat' split) <;> first | with_reducible rfl | simp only [stillO_next, still_modVec, still_charge, still_corrected, still_arrCe, still_report, still_failOwner, still_scrUe, still_modArr, still_endEntry, still_markSat, still_refreshBacklog, still_settleMoves, still_settleUnit]

@[simp] theorem still_refuseThin (s : State) (o : Owner) (code : Byte) (t m : Nat) :
    still (refuseThin s o code t m) = still s := by
  simp only [refuseThin, still_descFault, still_modPath]

@[simp] theorem still_execGatherEnter (stall : Fin 16) (q : Fin 8) (seq : W32) (s : State) :
    stillO (execGatherEnter stall q seq s) = some (still s) := by
  unfold execGatherEnter
  try dsimp only
  (repeat' split) <;> first | with_reducible rfl | simp only [stillO_next, still_refuseThin, still_beginEntry, still_expireBatches, still_refreshBacklog, still_modStall]

@[simp] theorem still_execBatchWindowExpiry (stall : Fin 16) (s : State) :
    stillO (execBatchWindowExpiry stall s) = some (still s) := by
  simp only [execBatchWindowExpiry, stillO_next, still_refreshBacklog, still_expireBatches]

@[simp] theorem still_startPath (s : State) (m : Nat) (cs : List Contrib) (rows : List Byte) :
    still (startPath s m cs rows) = still s := by
  simp only [startPath, still_modPath]

@[simp] theorem still_execThinDispatch (path : Fin 4) (work : Work) (s : State) :
    stillO (execThinDispatch path work s) = some (still s) := by
  unfold execThinDispatch
  try dsimp only
  (repeat' split) <;> first | with_reducible rfl | simp only [stillO_next, still_refuseThin, still_startPath, still_beginEntry, still_refreshBacklog, still_dropBatch]

theorem after_endContrib {w0 : Lasting} (s : State) (c : Contrib) (hw : w0.After (still s)) :
    w0.After (still (endContrib s c)) := by
  unfold endContrib
  try dsimp only
  repeat' (first | with_reducible assumption | with_reducible refine afterO_next ?_ | with_reducible apply after_thinWrite | with_reducible refine after_foldl _ (fun _ _ _ => ?_) _ _ ?_ | (simp only [still_ite, still_endEntry, still_thinWriteNet]; done) | (simpa only [still_mk, still_ite, still_fold, still_foldl, stillO_next, stillO_ite, implies_true, ite_self, still_endEntry, still_thinWriteNet] using hw) | split | (simp only [still_endEntry]))

@[simp] theorem still_touchRuns (s : State) (i : Nat) (runs : List (Nat × Nat)) :
    still (touchRuns s i runs) = still s := by
  simp only [touchRuns, still_mk, still_ite, still_fold, still_foldl, stillO_next, stillO_ite, implies_true, ite_self, still_regionTouch, still_modStall, still_mergeAccess]

@[simp] theorem still_countOut (s : State) (c : Contrib) :
    still (countOut s c) = still s := by
  simp only [countOut, still_mk, still_ite, still_fold, still_foldl, stillO_next, stillO_ite, implies_true, ite_self, still_modStall]

theorem after_contribEnd {w0 : Lasting} (s : State) (c : Contrib) (ue : Bool) (scr : MemRead) (avoid : Option Nat) (hw : w0.After (still s)) :
    w0.After (still (contribEnd s c ue scr avoid)) := by
  unfold contribEnd
  try dsimp only
  repeat' (first | with_reducible assumption | with_reducible refine afterO_next ?_ | with_reducible apply after_endContrib | with_reducible refine after_foldl _ (fun _ _ _ => ?_) _ _ ?_ | (simp only [still_failOwner, still_scrUe, still_arrCe]; done) | (simp only [still_mk, still_ite, still_fold, still_foldl, stillO_next, stillO_ite, implies_true, ite_self, still_failOwner, still_scrUe, still_arrCe]; with_reducible assumption) | intro _ _ | split | (simp only [still_mk, still_ite, still_fold, still_foldl, stillO_next, stillO_ite, implies_true, ite_self, still_failOwner, still_scrUe, still_arrCe]))

@[simp] theorem still_pathUe (s : State) (m i t : Nat) (o : Owner) :
    still (pathUe s m i t o) = still s := by
  simp only [pathUe, still_ite, ite_self, still_modPath, still_report, still_outOfService]

theorem after_execThinTaskEnd {w0 : Lasting} (path : Fin 4) (cycles : W32) (read : MemRead) (s : State) (scr : MemRead) (mem : MemRead) (hw : w0.After (still s)) :
    AfterO w0 (execThinTaskEnd path cycles read s scr mem) := by
  unfold execThinTaskEnd
  try dsimp only
  repeat' (first | with_reducible assumption | with_reducible refine afterO_next ?_ | with_reducible apply after_contribEnd | with_reducible refine after_foldl _ (fun _ _ _ => ?_) _ _ ?_ | (simp only [still_modPath, still_chargeContribs, still_touchRuns, still_memMet, still_corrected, still_pathUe, still_countOut, still_regather, still_refreshBacklog, still_settleMoves, still_settleUnit]; done) | (simp only [still_mk, still_ite, still_fold, still_foldl, stillO_next, stillO_ite, implies_true, ite_self, still_modPath, still_chargeContribs, still_touchRuns, still_memMet, still_corrected, still_pathUe, still_countOut, still_regather, still_refreshBacklog, still_settleMoves, still_settleUnit]; with_reducible assumption) | intro _ _ | split | (simp only [still_mk, still_ite, still_fold, still_foldl, stillO_next, stillO_ite, implies_true, ite_self, still_modPath, still_chargeContribs, still_touchRuns, still_memMet, still_corrected, still_pathUe, still_countOut, still_regather, still_refreshBacklog, still_settleMoves, still_settleUnit]))

end Sys2Proof.Machine
end

