-- ==== Sys2Proof/Laws/LastingArrays.lean ====
section
/-!
SUPPORT. What lasts across each operation and command of Machine/Arrays.lean: `still_x` where operation `x` leaves it all
as it is, `after_x` where it changes it as `Lasting.After` says.
-/
namespace Sys2Proof.Machine

@[simp] theorem still_beginMove (s : State) (n holder : Nat) (grantee : Option Nat) :
    still (beginMove s n holder grantee) = still s := by
  simp only [beginMove, still_settleMove, still_modArr]

@[simp] theorem still_refuseArr (s : State) (o : Owner) (code : Byte) (t : Nat) (n : Nat) (bank : Bool) (addr : Option Nat) :
    still (refuseArr s o code t n bank addr) = still s := by
  simp only [refuseArr, still_mk, still_ite, still_fold, still_foldl, stillO_next, stillO_ite, implies_true, ite_self, still_drew, still_modArr, still_descFault]

@[simp] theorem still_dispatchBatch (s : State) (n : Nat) (o : Owner) (cs : List Contrib) (batch : Bool) :
    still (dispatchBatch s n o cs batch) = still s := by
  unfold dispatchBatch
  try dsimp only
  (repeat' split) <;> first | with_reducible rfl | simp only [still_refuseArr, still_modStall, still_modArr]

@[simp] theorem still_execTileDispatch (arr : Fin 8) (work : Work) (s : State) :
    stillO (execTileDispatch arr work s) = some (still s) := by
  unfold execTileDispatch
  try dsimp only
  (repeat' split) <;> first | with_reducible rfl | simp only [stillO_next, still_refreshBacklog, still_dispatchBatch, still_dropBatch, still_failOwner, still_refuseThin, still_beginEntry, still_refuseArr, still_modArr]

@[simp] theorem still_countBatch (s : State) (i : Nat) (cs : List Contrib) :
    still (countBatch s i cs) = still s := by
  simp only [countBatch, still_mk, still_ite, still_fold, still_foldl, stillO_next, stillO_ite, implies_true, ite_self, still_regionTouch, still_countDev]

theorem after_endBatch {w0 : Lasting} (s : State) (n : Nat) (t : Task) (cs : List Contrib) (read : TaskRead) (mem : MemRead) (hw : w0.After (still s)) :
    w0.After (still (endBatch s n t cs read mem)) := by
  unfold endBatch
  try dsimp only
  repeat' (first | with_reducible assumption | with_reducible refine afterO_next ?_ | with_reducible apply after_contribEnd | with_reducible refine after_foldl _ (fun _ _ _ => ?_) _ _ ?_ | (simp only [still_modArr, still_chargeContribs, still_countBatch, still_memMet, still_failOwner, still_arrUe]; done) | (simp only [still_mk, still_ite, still_fold, still_foldl, stillO_next, stillO_ite, implies_true, ite_self, still_modArr, still_chargeContribs, still_countBatch, still_memMet, still_failOwner, still_arrUe]; with_reducible assumption) | intro _ _ | split | (simp only [still_mk, still_ite, still_fold, still_foldl, stillO_next, stillO_ite, implies_true, ite_self, still_modArr, still_chargeContribs, still_countBatch, still_memMet, still_failOwner, still_arrUe]))

@[simp] theorem still_gatedFree (s : State) (n : Nat) (c : Nat) :
    still (gatedFree s n c) = still s := by
  simp only [gatedFree, still_mk, still_ite, still_fold, still_foldl, stillO_next, stillO_ite, implies_true, ite_self, still_modArr, still_drew]

@[simp] theorem still_endTile (s : State) (n : Nat) (t : Task) (read : TaskRead) :
    still (endTile s n t read) = still s := by
  unfold endTile
  try dsimp only
  (repeat' split) <;> first | with_reducible rfl | simp only [still_modArr, still_charge, still_gatedFree, still_arrUe, still_modVec, still_endEntry, still_markSat]

theorem after_execTileTaskEnd {w0 : Lasting} (arr : Fin 8) (read : TaskRead) (s : State) (mem : MemRead) (hw : w0.After (still s)) :
    AfterO w0 (execTileTaskEnd arr read s mem) := by
  unfold execTileTaskEnd
  try dsimp only
  repeat' (first | with_reducible assumption | with_reducible refine afterO_next ?_ | with_reducible apply after_endBatch | with_reducible refine after_foldl _ (fun _ _ _ => ?_) _ _ ?_ | (simp only [still_arrCe, still_endTile, still_refreshBacklog, still_settleMoves, still_settleUnit]; done) | (simp only [still_mk, still_ite, still_fold, still_foldl, stillO_next, stillO_ite, implies_true, ite_self, still_arrCe, still_endTile, still_refreshBacklog, still_settleMoves, still_settleUnit]; with_reducible assumption) | intro _ _ | split | (simp only [still_mk, still_ite, still_fold, still_foldl, stillO_next, stillO_ite, implies_true, ite_self, still_arrCe, still_endTile, still_refreshBacklog, still_settleMoves, still_settleUnit]))

@[simp] theorem still_execQuickDismount (arr : Fin 8) (s : State) :
    stillO (execQuickDismount arr s) = some (still s) := by
  simp only [execQuickDismount, stillO_next, stillO_ite, ite_self, still_modArr]

@[simp] theorem still_execDismountSwitch (arr : Fin 8) (ns : W16) (s : State) :
    stillO (execDismountSwitch arr ns s) = some (still s) := by
  unfold execDismountSwitch
  try dsimp only
  (repeat' split) <;> first | with_reducible rfl | simp only [stillO_next, still_modVec, still_modArr, still_modStall]

@[simp] theorem still_failCarriersOn (s : State) (n cause : Nat) :
    still (failCarriersOn s n cause) = still s := by
  unfold failCarriersOn
  try dsimp only
  repeat' (first | with_reducible rfl | (simp only [still_ite, ite_self, still_failInv]; done) | with_reducible refine (still_foldl _ (fun s x => ?_) _ _).trans ?_ | split | (simp only [still_mk, still_ite, still_fold, still_foldl, stillO_next, stillO_ite, implies_true, ite_self, still_failInv]))

@[simp] theorem still_execDismountFault (arr : Fin 8) (s : State) :
    stillO (execDismountFault arr s) = some (still s) := by
  simp only [execDismountFault, stillO_next, stillO_ite, ite_self, still_report, still_failCarriersOn, still_fenceOp]

@[simp] theorem still_saveUe (s : State) (n : Nat) (w : Nat) :
    still (saveUe s n w) = still s := by
  unfold saveUe
  try dsimp only
  (repeat' split) <;> first | with_reducible rfl | simp only [still_modVec, still_report, still_displaceRun]

@[simp] theorem still_execContextReturn (arr : Fin 8) (s : State) (read : MemRead) :
    stillO (execContextReturn arr s read) = some (still s) := by
  unfold execContextReturn
  try dsimp only
  (repeat' split) <;> first | with_reducible rfl | simp only [stillO_next, still_modVec, still_modArr, still_modStall, still_refreshBacklog, still_corrected, still_saveUe]

@[simp] theorem still_grantFreed (s : State) (n : Nat) :
    still (grantFreed s n) = still s := by
  unfold grantFreed
  try dsimp only
  (repeat' split) <;> first | with_reducible rfl | simp only [still_modArr, still_grantTokens]

theorem after_stablingDone {w0 : Lasting} (s : State) (n : Nat) (i : Nat) (ns : Nat) (ue : Bool) (grantee : Option Nat) (hw : w0.After (still s)) :
    w0.After (still (stablingDone s n i ns ue grantee)) := by
  unfold stablingDone
  try dsimp only
  repeat' (first | with_reducible assumption | with_reducible refine afterO_next ?_ | with_reducible apply after_regionWrite | with_reducible refine after_foldl _ (fun _ _ _ => ?_) _ _ ?_ | (simp only [still_modStall, still_countDev, still_rerunJob, still_modRun, still_displaceRun, still_modArr, still_note, still_grantFreed, still_beginMove, still_wakeFeeders]; done) | (simp only [still_mk, still_ite, still_fold, still_foldl, stillO_next, stillO_ite, implies_true, ite_self, still_modStall, still_countDev, still_rerunJob, still_modRun, still_displaceRun, still_modArr, still_note, still_grantFreed, still_beginMove, still_wakeFeeders]; with_reducible assumption) | intro _ _ | split | (simp only [still_mk, still_ite, still_fold, still_foldl, stillO_next, stillO_ite, implies_true, ite_self, still_modStall, still_countDev, still_rerunJob, still_modRun, still_displaceRun, still_modArr, still_note, still_grantFreed, still_beginMove, still_wakeFeeders]))

theorem after_execStablingDone {w0 : Lasting} (arr : Fin 8) (stall : Fin 16) (ns : W32) (ue : Bool) (s : State) (hw : w0.After (still s)) :
    AfterO w0 (execStablingDone arr stall ns ue s) := by
  unfold execStablingDone
  try dsimp only
  repeat' (first | with_reducible assumption | with_reducible refine afterO_next ?_ | with_reducible apply after_stablingDone | with_reducible refine after_foldl _ (fun _ _ _ => ?_) _ _ ?_ | (simp only [still_refreshBacklog]; done) | (simp only [still_mk, still_ite, still_fold, still_foldl, stillO_next, stillO_ite, implies_true, ite_self, still_refreshBacklog]; with_reducible assumption) | intro _ _ | split | (simp only [still_mk, still_ite, still_fold, still_foldl, stillO_next, stillO_ite, implies_true, ite_self, still_refreshBacklog]))

@[simp] theorem still_resumeImage (s : State) (n : Nat) (i : Nat) (img : StableImage) (ts : List Nat) :
    still (resumeImage s n i img ts) = still s := by
  unfold resumeImage
  try dsimp only
  repeat' (first | with_reducible rfl | (simp only [still_evMod, still_modArr, still_modRun]; done) | with_reducible refine (still_foldl _ (fun s x => ?_) _ _).trans ?_ | split | (simp only [still_mk, still_ite, still_fold, still_foldl, stillO_next, stillO_ite, implies_true, ite_self, still_evMod, still_modArr, still_modRun]))

@[simp] theorem still_restoreDone (s : State) (n : Nat) (i : Nat) (ns : Nat) (ue : Bool) (img : StableImage) :
    still (restoreDone s n i ns ue img) = still s := by
  unfold restoreDone
  try dsimp only
  repeat' (first | with_reducible rfl | (simp only [still_modStall, still_countDev, still_rerunJob, still_grantTokens, still_modArr, still_modVec, still_wakeFeeders, still_resumeImage]; done) | with_reducible refine (still_foldl _ (fun s x => ?_) _ _).trans ?_ | split | (simp only [still_mk, still_ite, still_fold, still_foldl, stillO_next, stillO_ite, implies_true, ite_self, still_modStall, still_countDev, still_rerunJob, still_grantTokens, still_modArr, still_modVec, still_wakeFeeders, still_resumeImage]))

@[simp] theorem still_execRestoreDone (arr : Fin 8) (stall : Fin 16) (ns : W32) (ue : Bool) (s : State) :
    stillO (execRestoreDone arr stall ns ue s) = some (still s) := by
  unfold execRestoreDone
  try dsimp only
  (repeat' split) <;> first | with_reducible rfl | simp only [stillO_next, still_refreshBacklog, still_restoreDone]

@[simp] theorem still_execMigrationForPark (arr : Fin 8) (s : State) :
    stillO (execMigrationForPark arr s) = some (still s) := by
  unfold execMigrationForPark
  try dsimp only
  (repeat' split) <;> first | with_reducible rfl | simp only [stillO_next, still_beginMove]

end Sys2Proof.Machine
end

