-- ==== Sys2Proof/Laws/LastingFeeders.lean ====
section
/-!
SUPPORT. What lasts across each operation and command of Machine/Feeders.lean: `still_x` where operation `x` leaves it all
as it is, `after_x` where it changes it as `Lasting.After` says.
-/
namespace Sys2Proof.Machine

@[simp] theorem still_beginXfer (s : State) (o : Owner) (r : Run) (n : Nat) (x : XferDesc) :
    still (beginXfer s o r n x) = still s := by
  simp only [beginXfer, still_evMod, still_modRun]

@[simp] theorem still_endXfer (s : State) (x : Xfer) :
    still (endXfer s x) = still s := by
  unfold endXfer
  try dsimp only
  (repeat' split) <;> first | with_reducible rfl | simp only [still_evMod, still_finishRun, still_modRun]

@[simp] theorem still_closeGroup (s : State) (f : Nat) :
    still (closeGroup s f) = still s := by
  unfold closeGroup
  try dsimp only
  (repeat' split) <;> first | with_reducible rfl | simp only [still_enqueue, still_modFdr]

@[simp] theorem still_joinGroup (s : State) (f : Nat) (e : Xfer) :
    still (joinGroup s f e) = still s := by
  simp only [joinGroup, still_mk, still_ite, still_fold, still_foldl, stillO_next, stillO_ite, implies_true, ite_self, still_modFdr, still_closeGroup]

@[simp] theorem still_execTransferDispatch (fdr : Fin 16) (stall : Fin 16) (q : Fin 8) (seq : W32) (s : State) :
    stillO (execTransferDispatch fdr stall q seq s) = some (still s) := by
  unfold execTransferDispatch
  try dsimp only
  (repeat' split) <;> first | with_reducible rfl | simp only [stillO_next, still_refreshBacklog, still_eccFail, still_modFdr, still_descFault, still_beginXfer, still_endXfer, still_joinGroup, still_enqueue]

@[simp] theorem still_execMcastHoldExpiry (fdr : Fin 16) (s : State) :
    stillO (execMcastHoldExpiry fdr s) = some (still s) := by
  unfold execMcastHoldExpiry
  try dsimp only
  (repeat' split) <;> first | with_reducible rfl | simp only [stillO_next, still_closeGroup]

@[simp] theorem still_scrPiece (s : State) (n : Nat) (w : Window) (b : Nat) (bs : List Byte) :
    still (scrPiece s n w b bs) = still s := by
  simp only [scrPiece, still_modArr]

@[simp] theorem still_failXfer (s : State) (x : Xfer) :
    still (failXfer s x) = still s := by
  unfold failXfer
  try dsimp only
  (repeat' split) <;> first | with_reducible rfl | simp only [still_eccFail]

@[simp] theorem still_pieceFault (s : State) (f i : Nat) (code : Byte) (a : Nat) :
    still (pieceFault s f i code a) = still s := by
  simp only [pieceFault, still_modFdr, still_report]

@[simp] theorem still_feederOut (s : State) (f : Nat) (last : Byte) :
    still (feederOut s f last) = still s := by
  unfold feederOut
  try dsimp only
  repeat' (first | with_reducible rfl | (simp only [still_modFdr, still_outOfService, still_enqueue]; done) | with_reducible refine (still_foldl _ (fun s x => ?_) _ _).trans ?_ | split | (simp only [still_mk, still_ite, still_fold, still_foldl, stillO_next, stillO_ite, implies_true, ite_self, still_modFdr, still_outOfService, still_enqueue]))

theorem after_movePiece {w0 : Lasting} (s : State) (x : Xfer) (p : Nat × Nat × Nat) (hw : w0.After (still s)) :
    w0.After (still (movePiece s x p)) := by
  unfold movePiece
  try dsimp only
  repeat' (first | with_reducible assumption | with_reducible refine afterO_next ?_ | with_reducible apply after_regionWrite | with_reducible refine after_foldl _ (fun _ _ _ => ?_) _ _ ?_ | (simp only [still_scrPiece]; done) | (simpa only [still_mk, still_ite, still_fold, still_foldl, stillO_next, stillO_ite, implies_true, ite_self, still_scrPiece] using hw) | split | (simp only [still_mk, still_ite, still_fold, still_foldl, stillO_next, stillO_ite, implies_true, ite_self, still_scrPiece]))

@[simp] theorem still_feederDone (s : State) (f : Nat) (g : List Xfer) :
    still (feederDone s f g) = still s := by
  simp only [feederDone, still_mk, still_ite, still_fold, still_foldl, stillO_next, stillO_ite, implies_true, ite_self, still_modFdr, still_nextPiece, still_endXfer]

@[simp] theorem still_feederCe (s : State) (f : Nat) :
    still (feederCe s f) = still s := by
  simp only [feederCe, still_modFdr]

@[simp] theorem still_dropLine (s : State) (a : Nat) :
    still (dropLine s a) = still s := by
  simp only [dropLine, still_mk, still_ite, still_fold, still_foldl, stillO_next, stillO_ite, implies_true, ite_self, still_fold]

@[simp] theorem still_poisonLine (s : State) (i : Nat) (a : Nat) (f : Nat) :
    still (poisonLine s i a f) = still s := by
  simp only [poisonLine, still_mk, still_ite, still_fold, still_foldl, stillO_next, stillO_ite, implies_true, ite_self, still_poisonBlock, still_dropLine]

@[simp] theorem still_pieceMet (s : State) (f : Nat) (x : Xfer) (p : Nat × Nat × Nat) (err : PieceErr) :
    still (pieceMet s f x p err) = still s := by
  unfold pieceMet
  try dsimp only
  (repeat' split) <;> first | with_reducible rfl | simp only [still_poisonBlock, still_poisonLine, still_dropLine, still_feederCe, still_correctedKey, still_corrected, still_arrCe]

theorem after_pieceDone {w0 : Lasting} (s : State) (f : Nat) (x : Xfer) (g : List Xfer) (p : Nat × Nat × Nat) (hw : w0.After (still s)) :
    w0.After (still (pieceDone s f x g p)) := by
  unfold pieceDone
  try dsimp only
  repeat' (first | with_reducible assumption | with_reducible refine afterO_next ?_ | with_reducible apply after_movePiece | with_reducible refine after_foldl _ (fun _ _ _ => ?_) _ _ ?_ | (simp only [still_mergeAccess, still_modFdr, still_regionTouch, still_modStall]; done) | (simp only [still_mk, still_ite, still_fold, still_foldl, stillO_next, stillO_ite, implies_true, ite_self, still_mergeAccess, still_modFdr, still_regionTouch, still_modStall]; with_reducible assumption) | intro _ _ | split | (simp only [still_mk, still_ite, still_fold, still_foldl, stillO_next, stillO_ite, implies_true, ite_self, still_mergeAccess, still_modFdr, still_regionTouch, still_modStall]))

theorem after_execPieceEnd {w0 : Lasting} (fdr : Fin 16) (err : PieceErr) (s : State) (hw : w0.After (still s)) :
    AfterO w0 (execPieceEnd fdr err s) := by
  unfold execPieceEnd
  try dsimp only
  repeat' (first | with_reducible assumption | with_reducible refine afterO_next ?_ | with_reducible apply after_pieceDone | with_reducible refine after_foldl _ (fun _ _ _ => ?_) _ _ ?_ | (simp only [still_refreshBacklog, still_settleMoves, still_feederDone, still_pieceMet, still_pieceFault, still_modFdr, still_feederOut, still_nextPiece, still_failXfer, still_scrUe]; done) | (simp only [still_mk, still_ite, still_fold, still_foldl, stillO_next, stillO_ite, implies_true, ite_self, still_refreshBacklog, still_settleMoves, still_feederDone, still_pieceMet, still_pieceFault, still_modFdr, still_feederOut, still_nextPiece, still_failXfer, still_scrUe]; with_reducible assumption) | intro _ _ | split | (simp only [still_mk, still_ite, still_fold, still_foldl, stillO_next, stillO_ite, implies_true, ite_self, still_refreshBacklog, still_settleMoves, still_feederDone, still_pieceMet, still_pieceFault, still_modFdr, still_feederOut, still_nextPiece, still_failXfer, still_scrUe]))

@[simp] theorem still_execRunStallDetect (stall : Fin 16) (q : Fin 8) (seq : W32) (s : State) :
    stillO (execRunStallDetect stall q seq s) = some (still s) := by
  unfold execRunStallDetect
  try dsimp only
  (repeat' split) <;> first | with_reducible rfl | simp only [stillO_next, still_refreshBacklog, still_descFault]

@[simp] theorem still_execTransferStuck (fdr : Fin 16) (s : State) :
    stillO (execTransferStuck fdr s) = some (still s) := by
  unfold execTransferStuck
  try dsimp only
  (repeat' split) <;> first | with_reducible rfl | simp only [stillO_next, still_refreshBacklog, still_settleMoves, still_feederOut, still_pieceFault]

@[simp] theorem still_openRefresh (s : State) (len : Nat) (k : Nat) :
    still (openRefresh s len k) = still s := by
  simp only [openRefresh, still_mk, still_ite, still_fold, still_foldl, stillO_next, stillO_ite, implies_true, ite_self, still_voidWhen, still_modStack, still_drew]

@[simp] theorem still_scrubFind (s : State) (f : ScrubFind) :
    still (scrubFind s f) = still s := by
  simp only [scrubFind, still_ite, ite_self, still_slotDamaged, still_poisonKey, still_correctedKey]

@[simp] theorem still_execRefreshOpen (target : BitVec 8) (len : W16) (found : List ScrubFind) (s : State) :
    stillO (execRefreshOpen target len found s) = some (still s) := by
  unfold execRefreshOpen
  try dsimp only
  repeat' (first | with_reducible rfl | (simp only [stillO_next, still_openRefresh, still_scrubFind]; rw [takeAct_still (by assumption)]) | (rw [takeAct_still (by assumption)]) | (simp only [still_openRefresh, still_scrubFind]; done) | with_reducible refine (still_foldl _ (fun s x => ?_) _ _).trans ?_ | split | (simp only [still_mk, still_ite, still_fold, still_foldl, stillO_next, stillO_ite, implies_true, ite_self, still_openRefresh, still_scrubFind]))

@[simp] theorem still_issueWaiting (s : State) :
    still (issueWaiting s) = still s := by
  simp only [issueWaiting, still_mk, still_ite, still_fold, still_foldl, stillO_next, stillO_ite, implies_true, ite_self, still_modFdr]

@[simp] theorem still_execRefreshWindowEnd (stack : Fin 4) (s : State) :
    stillO (execRefreshWindowEnd stack s) = some (still s) := by
  unfold execRefreshWindowEnd
  try dsimp only
  (repeat' split) <;> first | with_reducible rfl | simp only [stillO_next, still_issueWaiting, still_modStack]

@[simp] theorem still_execForcedRefresh (stack : Fin 4) (temp : Byte) (s : State) :
    stillO (execForcedRefresh stack temp s) = some (still s) := by
  simp only [execForcedRefresh, still_mk, still_ite, still_fold, still_foldl, stillO_next, stillO_ite, implies_true, ite_self, still_voidWhen, still_modStack, still_modAir, still_report]

@[simp] theorem still_execChannelCommandFault (chan : Fin 64) (s : State) :
    stillO (execChannelCommandFault chan s) = some (still s) := by
  simp only [execChannelCommandFault, still_mk, still_fold, still_foldl, stillO_next, stillO_ite, implies_true, ite_self, still_report, still_modStack, still_stallFault]

end Sys2Proof.Machine
end

