-- ==== Sys2Proof/Laws/LastingFrame.lean ====
section
/-!
SUPPORT. What lasts across each operation and command of Machine/Frame.lean: `still_x` where operation `x` leaves it all
as it is, `after_x` where it changes it as `Lasting.After` says.
-/
namespace Sys2Proof.Machine

@[simp] theorem still_latchShares (s : State) :
    still (latchShares s) = still s := by
  simp only [latchShares, still_foldl, implies_true, still_modStall]

@[simp] theorem still_levelV (s : State) :
    still (levelV s) = still s := by
  simp only [levelV, still_foldl, implies_true, still_modStall]

@[simp] theorem still_loseTokens (s : State) :
    still (loseTokens s) = still s := by
  simp only [loseTokens, still_ite, still_foldl, implies_true, ite_self, still_modArr]

@[simp] theorem still_moveFor (s : State) (w : Nat) :
    still (moveFor s w) = still s := by
  unfold moveFor
  refine still_foldl _ (fun s n => ?_) _ _
  (repeat' split) <;> first | with_reducible rfl | simp only [still_beginMove, still_modArr]

@[simp] theorem still_moveTokens (s : State) :
    still (moveTokens s) = still s := by
  simp only [moveTokens, still_ite, still_foldl, implies_true, ite_self, still_moveFor]

@[simp] theorem still_newPeriod (s : State) :
    still (newPeriod s) = still s := by
  simp only [newPeriod, still_foldl, implies_true, still_levelV, still_refreshBacklog, still_latchShares, still_loseTokens, still_modStall, still_modArr, still_moveTokens]

@[simp] theorem still_setLevel (s : State) (l : Nat) :
    still (setLevel s l) = still s := by
  simp only [setLevel, still_mk, still_fold]

@[simp] theorem still_setShort (s : State) (b : Bool) :
    still (setShort s b) = still s := by
  simp only [setShort, still_mk, still_ite, still_fold, ite_self, still_report]

@[simp] theorem still_evaluateBudget (s : State) (first : Bool) :
    still (evaluateBudget s first) = still s := by
  unfold evaluateBudget
  try dsimp only
  (repeat' split) <;> first | with_reducible rfl | simp only [still_mk, still_fold, still_setShort, still_setLevel]

@[simp] theorem still_budgetBoundary (s : State) :
    still (budgetBoundary s) = still s := by
  unfold budgetBoundary
  try dsimp only
  (repeat' split) <;> first | with_reducible rfl | simp only [still_mk, still_fold, still_setLevel, still_evaluateBudget]

@[simp] theorem still_nextFrame (s : State) :
    still (nextFrame s) = still s := by
  simp only [nextFrame, still_ite, ite_self, still_renumber, still_modAir, still_enterLocked, still_refEvent]

@[simp] theorem still_boundary (s : State) :
    still (boundary s) = still s := by
  simp only [boundary, still_ite, ite_self, still_modAir, still_nextFrame, still_newPeriod, still_budgetBoundary, still_gaitTick]

@[simp] theorem still_airTick (bad : List (BitVec 12)) (s : State) :
    still (airTick bad s) = still s := by
  simp only [airTick, still_mk, still_ite, still_fold, still_foldl, stillO_next, stillO_ite, implies_true, ite_self, still_modAir, still_closeWindows, still_boundary, still_gaitLateLoad, still_gaitTick, still_settleMove]

end Sys2Proof.Machine
end

