-- ==== Sys2Proof/Laws/LastingPacerCore.lean ====
section
/-!
SUPPORT. What lasts across each operation and command of Machine/PacerCore.lean: `still_x` where operation `x` leaves it all
as it is, `after_x` where it changes it as `Lasting.After` says.
-/
namespace Sys2Proof.Machine

@[simp] theorem still_modCore (s : State) (n : Nat) (f : PCore → PCore) :
    still (modCore s n f) = still s := by
  simp only [modCore, still_mk, still_fold]

@[simp] theorem still_failRec (s : State) (r : W64) :
    still (failRec s r) = still s := by
  simp only [failRec, still_failSlot]

@[simp] theorem still_startProgram (s : State) (n : Nat) :
    still (startProgram s n) = still s := by
  simp only [startProgram, still_modCore]

@[simp] theorem still_startPreload (s : State) (n : Nat) :
    still (startPreload s n) = still s := by
  unfold startPreload
  try dsimp only
  (repeat' split) <;> first | with_reducible rfl | simp only [still_modCore]

@[simp] theorem still_refreshPreload (s : State) (n : Nat) :
    still (refreshPreload s n) = still s := by
  simp only [refreshPreload, still_mk, still_ite, still_fold, still_foldl, stillO_next, stillO_ite, implies_true, ite_self, still_startPreload]

@[simp] theorem still_beginLoad (s : State) (n : Nat) (b : Option BindRec) :
    still (beginLoad s n b) = still s := by
  unfold beginLoad
  try dsimp only
  (repeat' split) <;> first | with_reducible rfl | simp only [still_modCore]

@[simp] theorem still_bank0Loaded (s : State) (n : Nat) (t : W32 × Byte) :
    still (bank0Loaded s n t) = still s := by
  simp only [bank0Loaded, still_foldl, implies_true, still_modCore, still_startPreload, still_startProgram, still_modStall]

@[simp] theorem still_execBank0LoadDone (core : Fin 48) (s : State) :
    stillO (execBank0LoadDone core s) = some (still s) := by
  unfold execBank0LoadDone
  try dsimp only
  (repeat' split) <;> first | with_reducible rfl | simp only [stillO_next, still_bank0Loaded]

@[simp] theorem still_coreOut (s : State) (n : Nat) (last : Byte) :
    still (coreOut s n last) = still s := by
  simp only [coreOut, still_mk, still_ite, still_fold, still_foldl, stillO_next, stillO_ite, implies_true, ite_self, still_modCore, still_outOfService, still_loseUnit]

@[simp] theorem still_coreUe (s : State) (n : Nat) (space : Byte) (off : Nat) :
    still (coreUe s n space off) = still s := by
  simp only [coreUe, still_ite, ite_self, still_modCore, still_report, still_coreOut]

@[simp] theorem still_execPreloadDone (core : Fin 48) (ue : Bool) (s : State) :
    stillO (execPreloadDone core ue s) = some (still s) := by
  unfold execPreloadDone
  try dsimp only
  (repeat' split) <;> first | with_reducible rfl | simp only [stillO_next, still_coreUe, still_modCore]

@[simp] theorem still_doubleFault (s : State) (n : Nat) (cause : Byte) (info : W64) (reload : Bool) :
    still (doubleFault s n cause info reload) = still s := by
  unfold doubleFault
  try dsimp only
  (repeat' split) <;> first | with_reducible rfl | simp only [still_modCore, still_report, still_failRec]

@[simp] theorem still_execPacerRestart (core : Fin 48) (s : State) :
    stillO (execPacerRestart core s) = some (still s) := by
  unfold execPacerRestart
  try dsimp only
  (repeat' split) <;> first | with_reducible rfl | simp only [stillO_next, still_modCore, still_startProgram]

@[simp] theorem still_addCarried (s : State) (n : Nat) :
    still (addCarried s n) = still s := by
  simp only [addCarried, still_modCore, still_drew]

@[simp] theorem still_swapTimer (s : State) (n : Nat) (tm : Nat) :
    still (swapTimer s n tm) = still s := by
  simp only [swapTimer, still_ite, ite_self, still_modCore, still_addCarried]

@[simp] theorem still_flipCore (s : State) (n : Nat) (at_ : Nat) :
    still (flipCore s n at_) = still s := by
  unfold flipCore
  try dsimp only
  repeat' (first | with_reducible rfl | (simp only [still_failRec, still_modCore, still_swapTimer, still_startPreload, still_startProgram]; done) | with_reducible refine (still_foldl _ (fun s x => ?_) _ _).trans ?_ | split | (simp only [still_mk, still_ite, still_fold, still_foldl, stillO_next, stillO_ite, implies_true, ite_self, still_failRec, still_modCore, still_swapTimer, still_startPreload, still_startProgram]))

@[simp] theorem still_swapCore (s : State) (n : Nat) (b : Byte) (at_ : Nat) :
    still (swapCore s n b at_) = still s := by
  simp only [swapCore, still_mk, still_ite, still_fold, still_foldl, stillO_next, stillO_ite, implies_true, ite_self, still_flipCore, still_modCore, still_report, still_startPreload]

@[simp] theorem still_swapPoint (s : State) (i : Nat) (p : Remap → Bool) :
    still (swapPoint s i p) = still s := by
  unfold swapPoint
  try dsimp only
  repeat' (first | with_reducible rfl | (simp only [still_ite, ite_self, still_beginLoad, still_modStall]; done) | with_reducible refine (still_foldl _ (fun s x => ?_) _ _).trans ?_ | split | (simp only [still_mk, still_ite, still_fold, still_foldl, stillO_next, stillO_ite, implies_true, ite_self, still_beginLoad, still_modStall]))

@[simp] theorem still_execPacerSwap (cluster : Fin 6) (mask : Byte) (bind : Byte) (s : State) :
    stillO (execPacerSwap cluster mask bind s) = some (still s) := by
  unfold execPacerSwap
  try dsimp only
  repeat' (first | with_reducible rfl | (simp only [stillO_next, still_swapPoint, still_swapCore]; rw [takeAct_still (by assumption)]) | (rw [takeAct_still (by assumption)]) | (simp only [still_swapPoint, still_swapCore]; done) | with_reducible refine (still_foldl _ (fun s x => ?_) _ _).trans ?_ | split | (simp only [still_mk, still_ite, still_fold, still_foldl, stillO_next, stillO_ite, implies_true, ite_self, still_swapPoint, still_swapCore]))

@[simp] theorem still_execExceptionEntry (core : Fin 48) (err : EntryErr) (s : State) :
    stillO (execExceptionEntry core err s) = some (still s) := by
  unfold execExceptionEntry
  try dsimp only
  (repeat' split) <;> first | with_reducible rfl | simp only [stillO_next, still_coreUe, still_doubleFault, still_drew, still_modCore]

@[simp] theorem still_timerExpire (s : State) (n tm : Nat) (late : Bool) :
    still (timerExpire s n tm late) = still s := by
  simp only [timerExpire, still_ite, ite_self, still_addCarried, still_modCore]

@[simp] theorem still_execPcrTimerExpire (core : Fin 48) (tm : Fin 4) (s : State) :
    stillO (execPcrTimerExpire core tm s) = some (still s) := by
  simp only [execPcrTimerExpire, stillO_next, stillO_ite, ite_self, still_timerExpire]

@[simp] theorem still_execPcrWake (core : Fin 48) (s : State) :
    stillO (execPcrWake core s) = some (still s) := by
  simp only [execPcrWake, stillO_next, stillO_ite, ite_self, still_modCore]

@[simp] theorem still_execCaptureDeliver (cluster : Fin 6) (det : Fin 4) (s : State) :
    stillO (execCaptureDeliver cluster det s) = some (still s) := by
  unfold execCaptureDeliver
  try dsimp only
  (repeat' split) <;> first | with_reducible rfl | simp only [stillO_next, still_modDet, still_modCore]

@[simp] theorem still_pushStart (s : State) (n : Nat) (r : W64) (at_ : Nat) :
    still (pushStart s n r at_) = still s := by
  simp only [pushStart, still_mk, still_ite, still_fold, still_foldl, stillO_next, stillO_ite, implies_true, ite_self, still_modCore, still_failRec]

end Sys2Proof.Machine
end

