-- ==== Sys2Proof/Laws/LastingPacer.lean ====
section
/-!
SUPPORT. What lasts across each operation and command of Machine/Pacer.lean: `still_x` where operation `x` leaves it all
as it is, `after_x` where it changes it as `Lasting.After` says.
-/
namespace Sys2Proof.Machine

@[simp] theorem still_instr (s : State) (n : Nat) (f : W64 → PCore → PCore) :
    still (instr s n f) = still s := by
  simp only [instr, still_ite, ite_self, still_modCore, still_drew]

@[simp] theorem still_dataUe (s : State) (n : Nat) (space off : Nat) :
    still (dataUe s n space off) = still s := by
  simp only [dataUe, still_ite, ite_self, still_coreUe]

@[simp] theorem still_withEcc (b s : State) (n : Nat) (read : WordRead) (space off : Nat) :
    still (withEcc b s n read space off) = still s := by
  cases read <;> simp only [withEcc, still_ite, ite_self, still_dataUe, still_corrected, still_modCore]

@[simp] theorem still_execPcrBfly (core : Fin 48) (xp : BitVec 4) (yp : BitVec 4) (cp : BitVec 4) (xm : BitVec 3) (ym : BitVec 3) (cm : BitVec 3) (conj : Bool) (half : Bool) (read : WordRead) (s : State) :
    stillO (execPcrBfly core xp yp cp xm ym cm conj half read s) = some (still s) := by
  simp only [execPcrBfly, still_mk, still_ite, still_fold, still_foldl, stillO_next, stillO_ite, implies_true, ite_self, still_withEcc, still_instr]

@[simp] theorem still_execPcrMac (core : Fin 48) (acc : BitVec 2) (x : PcrOperand) (y : PcrOperand) (conj : Bool) (read : WordRead) (s : State) :
    stillO (execPcrMac core acc x y conj read s) = some (still s) := by
  simp only [execPcrMac, still_mk, still_ite, still_fold, still_foldl, stillO_next, stillO_ite, implies_true, ite_self, still_withEcc, still_instr]

@[simp] theorem still_execPcrNarrow (core : Fin 48) (d : BitVec 6) (acc : BitVec 2) (shift : BitVec 6) (s : State) :
    stillO (execPcrNarrow core d acc shift s) = some (still s) := by
  simp only [execPcrNarrow, still_mk, still_ite, still_fold, still_foldl, stillO_next, stillO_ite, implies_true, ite_self, still_instr]

@[simp] theorem still_execPcrLoad (core : Fin 48) (d : BitVec 6) (ptr : BitVec 4) (mode : BitVec 3) (vector : Bool) (read : WordRead) (s : State) :
    stillO (execPcrLoad core d ptr mode vector read s) = some (still s) := by
  simp only [execPcrLoad, still_mk, still_ite, still_fold, still_foldl, stillO_next, stillO_ite, implies_true, ite_self, still_withEcc, still_instr]

@[simp] theorem still_execPcrStore (core : Fin 48) (d : BitVec 6) (ptr : BitVec 4) (mode : BitVec 3) (vector : Bool) (s : State) :
    stillO (execPcrStore core d ptr mode vector s) = some (still s) := by
  simp only [execPcrStore, still_mk, still_ite, still_fold, still_foldl, stillO_next, stillO_ite, implies_true, ite_self, still_instr]

@[simp] theorem still_clearDetOvf (s : State) (n : Nat) (dst : PcrReg) (src : PcrSource) :
    still (clearDetOvf s n dst src) = still s := by
  unfold clearDetOvf
  try dsimp only
  (repeat' split) <;> first | with_reducible rfl | simp only [still_modDet]

@[simp] theorem still_execPcrScalar (core : Fin 48) (dst : PcrReg) (src : PcrSource) (s : State) :
    stillO (execPcrScalar core dst src s) = some (still s) := by
  simp only [execPcrScalar, still_mk, still_ite, still_fold, still_foldl, stillO_next, stillO_ite, implies_true, ite_self, still_instr, still_clearDetOvf]

@[simp] theorem still_execPcrBranch (core : Fin 48) (kind : BranchKind) (taken : Bool) (target : BitVec 15) (s : State) :
    stillO (execPcrBranch core kind taken target s) = some (still s) := by
  simp only [execPcrBranch, still_mk, still_ite, still_fold, still_foldl, stillO_next, stillO_ite, implies_true, ite_self, still_instr]

@[simp] theorem still_execPcrRep (core : Fin 48) (count : W16) (bodyEnd : BitVec 15) (cached : Bool) (rot : Bool) (s : State) :
    stillO (execPcrRep core count bodyEnd cached rot s) = some (still s) := by
  simp only [execPcrRep, still_mk, still_ite, still_fold, still_foldl, stillO_next, stillO_ite, implies_true, ite_self, still_instr]

@[simp] theorem still_execPcrBreak (core : Fin 48) (s : State) :
    stillO (execPcrBreak core s) = some (still s) := by
  simp only [execPcrBreak, still_mk, still_ite, still_fold, still_foldl, stillO_next, stillO_ite, implies_true, ite_self, still_instr]

@[simp] theorem still_execPcrWait (core : Fin 48) (mask : W32) (s : State) :
    stillO (execPcrWait core mask s) = some (still s) := by
  simp only [execPcrWait, still_mk, still_ite, still_fold, still_foldl, stillO_next, stillO_ite, implies_true, ite_self, still_instr]

@[simp] theorem still_execPcrTime (core : Fin 48) (d : BitVec 6) (lag : Fin 5) (s : State) :
    stillO (execPcrTime core d lag s) = some (still s) := by
  simp only [execPcrTime, still_mk, still_ite, still_fold, still_foldl, stillO_next, stillO_ite, implies_true, ite_self, still_instr]

@[simp] theorem still_execPcrTarm (core : Fin 48) (tm : Fin 4) (arm : Bool) (target : W64) (period : BitVec 24) (carry : Bool) (s : State) :
    stillO (execPcrTarm core tm arm target period carry s) = some (still s) := by
  simp only [execPcrTarm, still_mk, still_ite, still_fold, still_foldl, stillO_next, stillO_ite, implies_true, ite_self, still_instr]

@[simp] theorem still_execPcrXpost (core : Fin 48) (ptr : BitVec 4) (mode : BitVec 3) (len : W32) (word : W32) (s : State) :
    stillO (execPcrXpost core ptr mode len word s) = some (still s) := by
  simp only [execPcrXpost, still_mk, still_ite, still_fold, still_foldl, stillO_next, stillO_ite, implies_true, ite_self, still_instr]

@[simp] theorem still_postDone (s : State) (n : Nat) (x : Post) :
    still (postDone s n x) = still s := by
  unfold postDone
  try dsimp only
  (repeat' split) <;> first | with_reducible rfl | simp only [still_bankUe, still_modCore, still_failSlot, still_modArr, still_modCarrier]

@[simp] theorem still_execXpostDone (core : Fin 48) (s : State) :
    stillO (execXpostDone core s) = some (still s) := by
  unfold execXpostDone
  try dsimp only
  (repeat' split) <;> first | with_reducible rfl | simp only [stillO_next, still_postDone]

@[simp] theorem still_execPcrRte (core : Fin 48) (s : State) :
    stillO (execPcrRte core s) = some (still s) := by
  simp only [execPcrRte, still_mk, still_ite, still_fold, still_foldl, stillO_next, stillO_ite, implies_true, ite_self, still_instr]

@[simp] theorem still_execPcrSwi (core : Fin 48) (operand : W32) (s : State) :
    stillO (execPcrSwi core operand s) = some (still s) := by
  simp only [execPcrSwi, still_mk, still_ite, still_fold, still_foldl, stillO_next, stillO_ite, implies_true, ite_self, still_instr]

@[simp] theorem still_execPcrLaneArith (core : Fin 48) (op : LaneOp) (d : BitVec 6) (a : BitVec 6) (b : BitVec 6) (s : State) :
    stillO (execPcrLaneArith core op d a b s) = some (still s) := by
  simp only [execPcrLaneArith, still_mk, still_ite, still_fold, still_foldl, stillO_next, stillO_ite, implies_true, ite_self, still_instr]

end Sys2Proof.Machine
end

