-- ==== Sys2Proof/Laws/LastingReceive.lean ====
section
/-!
SUPPORT. What lasts across each operation and command of Machine/Receive.lean: `still_x` where operation `x` leaves it all
as it is, `after_x` where it changes it as `Lasting.After` says.
-/
namespace Sys2Proof.Machine

@[simp] theorem still_modIod (s : State) (d : Nat) (f : Iod → Iod) :
    still (modIod s d f) = still s := by
  simp only [modIod, still_mk, still_fold]

@[simp] theorem still_modSlots (s : State) (c : Nat) (p : SlotRec → Bool) (f : SlotRec → SlotRec) :
    still (modSlots s c p f) = still s := by
  simp only [modSlots, still_modCarrier]

@[simp] theorem still_linkLost (s : State) (d : Nat) :
    still (linkLost s d) = still s := by
  unfold linkLost
  try dsimp only
  repeat' (first | with_reducible rfl | (simp only [still_ite, ite_self, still_modSlots, still_touchNow]; done) | with_reducible refine (still_foldl _ (fun s x => ?_) _ _).trans ?_ | split | (simp only [still_mk, still_ite, still_fold, still_foldl, stillO_next, stillO_ite, implies_true, ite_self, still_modSlots, still_touchNow]))

@[simp] theorem still_markAt (s : State) (c : Nat) (cfg : CarrierCfg) (t : Nat) (f : SlotRec → SlotRec) :
    still (markAt s c cfg t f) = still s := by
  unfold markAt
  try dsimp only
  (repeat' split) <;> first | with_reducible rfl | simp only [still_modSlots, still_touchSlot]

@[simp] theorem still_detectTick (s : State) (c : Nat) (cfg : CarrierCfg) (t : Nat) (holds : Bool) :
    still (detectTick s c cfg t holds) = still s := by
  simp only [detectTick, still_ite, ite_self, still_modCarrier, still_markAt]

@[simp] theorem still_detect (s : State) (c : Nat) (cfg : CarrierCfg) (t0 : Nat) :
    still (detect s c cfg t0) = still s := by
  simp only [detect, still_ite, still_foldl, implies_true, ite_self, still_detectTick]

@[simp] theorem still_sampOp (s : State) (c : Nat) (cfg : CarrierCfg) (a t0 : Nat) (samples : List W32) :
    still (sampOp s c cfg a t0 samples) = still s := by
  unfold sampOp
  try dsimp only
  repeat' (first | with_reducible rfl | (simp only [still_modCarrier, still_markAt, still_modCore, still_detect]; done) | with_reducible refine (still_foldl _ (fun s x => ?_) _ _).trans ?_ | split | (simp only [still_detect]))

@[simp] theorem still_execSamp (iod : Fin 2) (stream : Fin 16) (stamp : W64) (samples : List W32) (s : State) :
    stillO (execSamp iod stream stamp samples s) = some (still s) := by
  unfold execSamp
  try dsimp only
  (repeat' split) <;> first | with_reducible rfl | simp only [stillO_next, still_timLate, still_takeMsg, still_sampOp, still_markAt]

@[simp] theorem still_execAgcWindow (carrier : Fin 8) (s : State) :
    stillO (execAgcWindow carrier s) = some (still s) := by
  unfold execAgcWindow
  try dsimp only
  (repeat' split) <;> first | with_reducible rfl | simp only [stillO_next, still_modCarrier]

@[simp] theorem still_execAgcFreezeEnd (carrier : Fin 8) (s : State) :
    stillO (execAgcFreezeEnd carrier s) = some (still s) := by
  unfold execAgcFreezeEnd
  try dsimp only
  (repeat' split) <;> first | with_reducible rfl | simp only [stillO_next, still_modCarrier]

@[simp] theorem still_judgeSlot (s : State) (c i : Nat) (cfg : CarrierCfg) (start : Nat) :
    still (judgeSlot s c i cfg start) = still s := by
  simp only [judgeSlot, still_modSlots]

@[simp] theorem still_beginSlot (s : State) (c : Nat) (i : Nat) (cfg : CarrierCfg) (p : SlotPlace) (gen : Byte) :
    still (beginSlot s c i cfg p gen) = still s := by
  simp only [beginSlot, still_mk, still_ite, still_fold, still_foldl, stillO_next, stillO_ite, implies_true, ite_self, still_touchPlace, still_modSlots]

@[simp] theorem still_markFirst (s : State) (c start : Nat) :
    still (markFirst s c start) = still s := by
  simp only [markFirst, still_ite, ite_self, still_modCarrier]

@[simp] theorem still_pushStarts (s : State) (c : Nat) (r : W64) (at_ : Nat) :
    still (pushStarts s c r at_) = still s := by
  simp only [pushStarts, still_mk, still_ite, still_fold, still_foldl, stillO_next, stillO_ite, implies_true, ite_self, still_pushStart, still_failRec]

@[simp] theorem still_modTap (s : State) (r : Nat) (f : TapArm → TapArm) :
    still (modTap s r f) = still s := by
  simp only [modTap, still_modNet]

@[simp] theorem still_tapStart (s : State) (c start : Nat) (shed : Bool) :
    still (tapStart s c start shed) = still s := by
  simp only [tapStart, still_ite, still_foldl, implies_true, ite_self, still_modNet, still_modTap]

@[simp] theorem still_tapReported (s : State) (c start status : Nat) (us : List PlanUser) :
    still (tapReported s c start status us) = still s := by
  simp only [tapReported, still_foldl, implies_true, still_modTap]

@[simp] theorem still_keepBits (s : State) (e : Nat) (k : Kept) :
    still (keepBits s e k) = still s := by
  simp only [keepBits, still_modDec]

@[simp] theorem still_execSymStart (carrier : Fin 8) (slot : BitVec 6) (prevFrame : Bool) (symbol : BitVec 4) (s : State) :
    stillO (execSymStart carrier slot prevFrame symbol s) = some (still s) := by
  unfold execSymStart
  try dsimp only
  (repeat' split) <;> first | with_reducible rfl | (simp only [stillO_next, still_markFirst, still_tapStart, still_beginSlot, still_judgeSlot, still_pushStarts]; rw [takeAct_still (by assumption)]) | (rw [takeAct_still (by assumption)]) | simp only [stillO_next, still_markFirst, still_tapStart, still_beginSlot, still_judgeSlot, still_pushStarts]

@[simp] theorem still_unquiet (s : State) (n : Nat) :
    still (unquiet s n) = still s := by
  simp only [unquiet, still_mk, still_ite, still_fold, still_foldl, stillO_next, stillO_ite, implies_true, ite_self, still_fold]

@[simp] theorem still_execInvocationStart (carrier : Fin 8) (kind : NetKind) (s : State) :
    stillO (execInvocationStart carrier kind s) = some (still s) := by
  unfold execInvocationStart
  try dsimp only
  (repeat' split) <;> first | with_reducible rfl | simp only [stillO_next, still_evMod, still_unquiet, still_modSlots, still_modCarrier]

@[simp] theorem still_measure (s : State) (c : Nat) (i : Nat) (cfg : CarrierCfg) (sl : SlotRec) :
    still (measure s c i cfg sl) = still s := by
  simp only [measure, still_mk, still_ite, still_fold, still_foldl, stillO_next, stillO_ite, implies_true, ite_self, still_bankUe, still_modSlots, still_drew]

@[simp] theorem still_decOut (s : State) (e : Nat) :
    still (decOut s e) = still s := by
  simp only [decOut, still_ite, still_foldl, implies_true, ite_self, still_modDec, still_outOfService, still_loseUnit]

@[simp] theorem still_decUe (s : State) (e c user block : Nat) :
    still (decUe s e c user block) = still s := by
  simp only [decUe, still_ite, ite_self, still_modDec, still_report, still_decOut]

@[simp] theorem still_setBlock (s : State) (c : Nat) (sl : SlotRec) (b : BlockRec) (f : BlockRec → BlockRec) :
    still (setBlock s c sl b f) = still s := by
  simp only [setBlock, still_modSlots]

@[simp] theorem still_settleSlot (s : State) (c i : Nat) (cfg : CarrierCfg) (start : Nat) :
    still (settleSlot s c i cfg start) = still s := by
  unfold settleSlot
  try dsimp only
  (repeat' split) <;> first | with_reducible rfl | simp only [still_measure]

theorem after_blockEnd {w0 : Lasting} (s : State) (e c i : Nat) (cfg : CarrierCfg) (sl : SlotRec) (b : BlockRec) (ue : Bool) (hw : w0.After (still s)) :
    w0.After (still (blockEnd s e c i cfg sl b ue)) := by
  unfold blockEnd
  try dsimp only
  repeat' (first | with_reducible assumption | with_reducible refine afterO_next ?_ | with_reducible apply after_regionWrite | with_reducible refine after_foldl _ (fun _ _ _ => ?_) _ _ ?_ | (simp only [still_ite, still_bankUe, still_setBlock, still_modDec, still_decUe, still_keepBits]; done) | (simpa only [still_mk, still_ite, still_fold, still_foldl, stillO_next, stillO_ite, implies_true, ite_self, still_bankUe, still_setBlock, still_modDec, still_decUe, still_keepBits] using hw) | split | (simp only [still_setBlock]))

theorem after_execDecodeBlockEnd {w0 : Lasting} (dec : Fin 24) (read : WordRead) (s : State) (hw : w0.After (still s)) :
    AfterO w0 (execDecodeBlockEnd dec read s) := by
  unfold execDecodeBlockEnd
  dsimp only
  split
  · exact afterO_next hw
  · split
    · split
      · refine afterO_next ?_
        rw [still_settleSlot]
        apply after_blockEnd
        split
        · rw [still_modDec]; exact hw
        · exact hw
      · exact afterO_next hw
    · exact afterO_next hw

end Sys2Proof.Machine
end

