-- ==== Sys2Proof/Laws/LastingLine.lean ====
section
/-!
SUPPORT. What lasts across each operation and command of Machine/Line.lean: `still_x` where operation `x` leaves it all
as it is, `after_x` where it changes it as `Lasting.After` says.
-/
namespace Sys2Proof.Machine

end Sys2Proof.Machine
end

