-- ==== Sys2Proof/Laws/LastingTether.lean ====
section
/-!
SUPPORT. What lasts across each operation and command of Machine/Tether.lean: `still_x` where operation `x` leaves it all
as it is, `after_x` where it changes it as `Lasting.After` says.
-/
namespace Sys2Proof.Machine

@[simp] theorem still_completeTx (s : State) (p c : Nat) (f : TxFrame) (status : W16) :
    still (completeTx s p c f status) = still s := by
  simp only [completeTx, still_ite, ite_self, still_drew, still_toHost, still_modTth, still_raiseSource]

@[simp] theorem still_completeWhile (s : State) (p c : Nat) (done : TxFrame → Option W16) (n : Nat) :
    still (completeWhile s p c done n) = still s := by
  induction n generalizing s with
  | zero => rfl
  | succ n ih =>
    unfold completeWhile
    (repeat' split) <;> first | rfl | simp only [ih, still_completeTx, still_modTth]

@[simp] theorem still_ackUpTo (s : State) (p c : Nat) (ack : Option W16) :
    still (ackUpTo s p c ack) = still s := by
  simp only [ackUpTo, still_completeWhile]

@[simp] theorem still_restartTimer (s : State) (p c : Nat) :
    still (restartTimer s p c) = still s := by
  simp only [restartTimer, still_modTth]

@[simp] theorem still_ackBlock (s : State) (p c : Nat) (a : W16) (sack : W64) :
    still (ackBlock s p c a sack) = still s := by
  simp only [ackBlock, still_ite, ite_self, still_ackUpTo, still_restartTimer, still_modTth]

@[simp] theorem still_resetChans (s : State) (p : Nat) :
    still (resetChans s p) = still s := by
  simp only [resetChans, still_mk, still_ite, still_fold, still_foldl, stillO_next, stillO_ite, implies_true, ite_self, still_completeWhile, still_modTth]

@[simp] theorem still_endSession (s : State) (p : Nat) (epoch : W32) :
    still (endSession s p epoch) = still s := by
  simp only [endSession, still_mk, still_ite, still_fold, still_foldl, stillO_next, stillO_ite, implies_true, ite_self, still_modTth, still_resetChans, still_report]

@[simp] theorem still_seeEpoch (s : State) (p : Nat) (epoch : W32) :
    still (seeEpoch s p epoch) = still s := by
  unfold seeEpoch
  try dsimp only
  (repeat' split) <;> first | with_reducible rfl | simp only [still_modTth, still_endSession]

@[simp] theorem still_rxHeader (s : State) (p : Nat) (f : TFrame) :
    still (rxHeader s p f) = still s := by
  simp only [rxHeader, still_ite, ite_self, still_seeEpoch, still_modTth, still_ackBlock]

@[simp] theorem still_sendCodeword (s : State) (p : Nat) (f : TFrame) :
    still (sendCodeword s p f) = still s := by
  simp only [sendCodeword, still_mk, still_ite, still_fold, still_foldl, stillO_next, stillO_ite, implies_true, ite_self, still_emit, still_modTth]

@[simp] theorem still_sendMarker (s : State) (p : Nat) (mkt : Bool) :
    still (sendMarker s p mkt) = still s := by
  simp only [sendMarker, still_mk, still_ite, still_fold, still_foldl, stillO_next, stillO_ite, implies_true, ite_self, still_emit, still_modTth]

@[simp] theorem still_sendFrame (s : State) (p : Nat) (f : TFrame) :
    still (sendFrame s p f) = still s := by
  simp only [sendFrame, still_mk, still_ite, still_fold, still_foldl, stillO_next, stillO_ite, implies_true, ite_self, still_modTth, still_sendCodeword]

@[simp] theorem still_wakeBurst (s : State) (p : Nat) :
    still (wakeBurst s p) = still s := by
  simp only [wakeBurst, still_emit, still_modTth, still_sendFrame]

@[simp] theorem still_beginTraining (s : State) (p : Nat) (full : Bool) :
    still (beginTraining s p full) = still s := by
  simp only [beginTraining, still_ite, ite_self, still_tetherCandDown, still_modTth]

@[simp] theorem still_startFull (s : State) (p : Nat) :
    still (startFull s p) = still s := by
  simp only [startFull, still_beginTraining, still_modTth, still_drew, still_wakeBurst]

@[simp] theorem still_startFast (s : State) (p : Nat) (own : Bool) :
    still (startFast s p own) = still s := by
  simp only [startFast, still_mk, still_ite, still_fold, still_foldl, stillO_next, stillO_ite, implies_true, ite_self, still_beginTraining, still_emit, still_modTth]

@[simp] theorem still_failTraining (s : State) (p : Nat) (code : Byte) :
    still (failTraining s p code) = still s := by
  simp only [failTraining, still_mk, still_ite, still_fold, still_foldl, stillO_next, stillO_ite, implies_true, ite_self, still_modTth, still_report, still_startFull, still_startFast]

@[simp] theorem still_enterUp (s : State) (p : Nat) :
    still (enterUp s p) = still s := by
  simp only [enterUp, still_foldl, implies_true, still_pushEvent, still_modTth, still_restartTimer]

@[simp] theorem still_adaptEcho (s : State) (p : Nat) :
    still (adaptEcho s p) = still s := by
  simp only [adaptEcho, still_mk, still_ite, still_fold, still_foldl, stillO_next, stillO_ite, implies_true, ite_self, still_modTth, still_drew]

@[simp] theorem still_nextPhase (s : State) (p : Nat) (gain : Byte) :
    still (nextPhase s p gain) = still s := by
  unfold nextPhase
  try dsimp only
  (repeat' split) <;> first | with_reducible rfl | simp only [still_modTth, still_emit, still_drew, still_failTraining, still_adaptEcho, still_enterUp]

@[simp] theorem still_execTthTrainPhaseEnd (port : Fin 4) (residual : Bool) (late : Bool) (gain : Byte) (s : State) :
    stillO (execTthTrainPhaseEnd port residual late gain s) = some (still s) := by
  unfold execTthTrainPhaseEnd
  try dsimp only
  (repeat' split) <;> first | with_reducible rfl | simp only [stillO_next, still_failTraining, still_nextPhase]

@[simp] theorem still_fastRetrain (s : State) (p : Nat) (own : Bool) :
    still (fastRetrain s p own) = still s := by
  simp only [fastRetrain, still_mk, still_ite, still_fold, still_foldl, stillO_next, stillO_ite, implies_true, ite_self, still_startFast]

@[simp] theorem still_execTthFastRetrain (port : Fin 4) (s : State) :
    stillO (execTthFastRetrain port s) = some (still s) := by
  simp only [execTthFastRetrain, still_mk, still_ite, still_fold, still_foldl, stillO_next, stillO_ite, implies_true, ite_self, still_fastRetrain]

@[simp] theorem still_execTthFailedRetry (port : Fin 4) (s : State) :
    stillO (execTthFailedRetry port s) = some (still s) := by
  simp only [execTthFailedRetry, stillO_next, stillO_ite, ite_self, still_startFull]

@[simp] theorem still_ctlRetrainOp (p : Nat) (s : State) :
    still (ctlRetrainOp p s) = still s := by
  simp only [ctlRetrainOp, still_mk, still_ite, still_fold, still_foldl, stillO_next, stillO_ite, implies_true, ite_self, still_fastRetrain]

@[simp] theorem still_execTthCtlRetrain (port : Fin 4) (s : State) :
    stillO (execTthCtlRetrain port s) = some (still s) := by
  simp only [execTthCtlRetrain, still_mk, still_ite, still_fold, still_foldl, stillO_next, stillO_ite, implies_true, ite_self, still_ownWrite, still_ctlRetrainOp]

@[simp] theorem still_fullTrainOp (p : Nat) (s : State) :
    still (fullTrainOp p s) = still s := by
  simp only [fullTrainOp, still_ite, ite_self, still_startFull]

@[simp] theorem still_execTthFullTrain (port : Fin 4) (s : State) :
    stillO (execTthFullTrain port s) = some (still s) := by
  simp only [execTthFullTrain, stillO_next, implies_true, still_mgmt, still_fullTrainOp]

@[simp] theorem still_execTthWakeBurstTimer (port : Fin 4) (s : State) :
    stillO (execTthWakeBurstTimer port s) = some (still s) := by
  simp only [execTthWakeBurstTimer, stillO_next, stillO_ite, ite_self, still_modTth, still_wakeBurst]

@[simp] theorem still_codewordEnd (s : State) (p : Nat) (scr : BitVec 23) (r : Option TFrame × Nat) :
    still (codewordEnd s p scr r) = still s := by
  unfold codewordEnd
  try dsimp only
  (repeat' split) <;> first | with_reducible rfl | simp only [still_modTth, still_fastRetrain]

@[simp] theorem still_execTthCodewordDecoded (port : Fin 4) (llrs : List (BitVec 8)) (s : State) :
    stillO (execTthCodewordDecoded port llrs s) = some (still s) := by
  unfold execTthCodewordDecoded
  generalize scrRun 10752 = x
  simp only [stillO_ite, stillO_next, still_codewordEnd, ite_self]

@[simp] theorem still_ctrlHeader (s : State) (p : Nat) (kind : Byte) :
    still (ctrlHeader s p kind) = still s := by
  unfold ctrlHeader
  try dsimp only
  (repeat' split) <;> first | with_reducible rfl | simp only [still_rxHeader]

@[simp] theorem still_execHello (port : Fin 4) (cls mode timeDir : Byte) (trainId epoch : W32) (s : State) :
    stillO (execHello port cls mode timeDir trainId epoch s) = some (still s) := by
  unfold execHello
  try dsimp only
  (repeat' split) <;> first | with_reducible rfl | simp only [stillO_next, still_seeEpoch, still_ctrlHeader, still_failTraining, still_modTth, still_drew]

@[simp] theorem still_execReady (port : Fin 4) (s : State) :
    stillO (execReady port s) = some (still s) := by
  simp only [execReady, stillO_next, stillO_ite, ite_self, still_modTth, still_ctrlHeader]

@[simp] theorem still_execRetrainReq (port : Fin 4) (s : State) :
    stillO (execRetrainReq port s) = some (still s) := by
  simp only [execRetrainReq, still_mk, still_ite, still_fold, still_foldl, stillO_next, stillO_ite, implies_true, ite_self, still_fastRetrain, still_ctrlHeader]

@[simp] theorem still_execDisable (port : Fin 4) (s : State) :
    stillO (execDisable port s) = some (still s) := by
  simp only [execDisable, stillO_next, stillO_ite, ite_self, still_ctrlHeader]

@[simp] theorem still_violation (s : State) (p : Nat) :
    still (violation s p) = still s := by
  simp only [violation, still_mk, still_ite, still_fold, still_foldl, stillO_next, stillO_ite, implies_true, ite_self, still_modTth, still_fastRetrain]

@[simp] theorem still_dataFrame (s : State) (p : Nat) (f : TFrame) :
    still (dataFrame s p f) = still s := by
  simp only [dataFrame, still_ite, ite_self, still_modTth, still_violation]

@[simp] theorem still_execTthDataFrame (port : Fin 4) (frame : TFrame) (s : State) :
    stillO (execTthDataFrame port frame s) = some (still s) := by
  simp only [execTthDataFrame, stillO_next, stillO_ite, ite_self, still_dataFrame, still_rxHeader]

@[simp] theorem still_execTthIdleFrame (port : Fin 4) (frame : TFrame) (s : State) :
    stillO (execTthIdleFrame port frame s) = some (still s) := by
  simp only [execTthIdleFrame, stillO_next, stillO_ite, ite_self, still_rxHeader]

@[simp] theorem still_deliverFrame (s : State) (p c : Nat) (f : TFrame) :
    still (deliverFrame s p c f) = still s := by
  simp only [deliverFrame, still_ite, ite_self, still_toHost, still_modTth, still_raiseSource]

@[simp] theorem still_execTthDeliver (port : Fin 4) (ch : Fin 8) (ue : Bool) (s : State) :
    stillO (execTthDeliver port ch ue s) = some (still s) := by
  unfold execTthDeliver
  try dsimp only
  (repeat' split) <;> first | with_reducible rfl | simp only [stillO_next, still_modTth, still_report, still_deliverFrame]

@[simp] theorem still_refuseTx (s : State) (p c : Nat) (d : List Byte) :
    still (refuseTx s p c d) = still s := by
  simp only [refuseTx, still_ite, ite_self, still_ackUpTo, still_modTth]

@[simp] theorem still_timeFrame (s : State) (p : Nat) (mkt : W64) :
    still (timeFrame s p mkt) = still s := by
  simp only [timeFrame, still_modTth, still_sendFrame]

@[simp] theorem still_sendNew (s : State) (p c : Nat) (d payload : List Byte) :
    still (sendNew s p c d payload) = still s := by
  simp only [sendNew, still_modTth, still_sendFrame, still_restartTimer]

@[simp] theorem still_resend (s : State) (p c : Nat) (f : TxFrame) (payload : List Byte) :
    still (resend s p c f payload) = still s := by
  simp only [resend, still_modTth, still_sendFrame, still_restartTimer]

@[simp] theorem still_chooseFrame (s : State) (p : Nat) (descs : List (List Byte)) (payload : List Byte) :
    still (chooseFrame s p descs payload) = still s := by
  unfold chooseFrame
  try dsimp only
  (repeat' split) <;> first | with_reducible rfl | simp only [still_foldl, implies_true, still_sendFrame, still_timeFrame, still_modTth, still_resend, still_refuseTx, still_sendNew]

@[simp] theorem still_execTthCodewordSlot (port : Fin 4) (descs : List (List Byte)) (payload : List Byte) (s : State) :
    stillO (execTthCodewordSlot port descs payload s) = some (still s) := by
  simp only [execTthCodewordSlot, still_mk, still_ite, still_fold, still_foldl, stillO_next, stillO_ite, implies_true, ite_self, still_sendMarker, still_chooseFrame, still_adaptEcho, still_modTth]

@[simp] theorem still_execTthRtoExpire (port : Fin 4) (ch : Fin 8) (s : State) :
    stillO (execTthRtoExpire port ch s) = some (still s) := by
  unfold execTthRtoExpire
  try dsimp only
  (repeat' split) <;> first | with_reducible rfl | simp only [stillO_next, still_modTth]

@[simp] theorem still_txTailOp (s : State) (p c : Nat) (tail : W32) :
    still (txTailOp s p c tail) = still s := by
  simp only [txTailOp, still_ite, ite_self, still_modTth]

@[simp] theorem still_execTthTxTail (port : Fin 4) (ch : Fin 8) (tail : W32) (s : State) :
    stillO (execTthTxTail port ch tail s) = some (still s) := by
  simp only [execTthTxTail, still_mk, still_ite, still_fold, still_foldl, stillO_next, stillO_ite, implies_true, ite_self, still_ownWrite, still_txTailOp]

@[simp] theorem still_rcGuard (s : State) (p : Nat) :
    still (rcGuard s p) = still s := by
  simp only [rcGuard, still_ite, ite_self, still_modTth, still_report]

@[simp] theorem still_execTthLqWindow (port : Fin 4) (err : W64) (sig : W64) (s : State) :
    stillO (execTthLqWindow port err sig s) = some (still s) := by
  simp only [execTthLqWindow, still_mk, still_ite, still_fold, still_foldl, stillO_next, stillO_ite, implies_true, ite_self, still_modTth, still_rcGuard, still_fastRetrain]

@[simp] theorem still_execTthRcUpdate (port : Fin 4) (s : State) :
    stillO (execTthRcUpdate port s) = some (still s) := by
  simp only [execTthRcUpdate, stillO_next, stillO_ite, ite_self, still_modTth, still_drew]

@[simp] theorem still_execTthRcSnapshot (port : Fin 4) (s : State) :
    stillO (execTthRcSnapshot port s) = some (still s) := by
  simp only [execTthRcSnapshot, stillO_next, stillO_ite, ite_self, still_modTth]

@[simp] theorem still_mktArrives (s : State) (p : Nat) (stamp : W64) :
    still (mktArrives s p stamp) = still s := by
  simp only [mktArrives, still_ite, ite_self, still_emit, still_modTth]

@[simp] theorem still_execTthMarkerRx (port : Fin 4) (bits : W64) (late : Bool) (stamp : W64) (s : State) :
    stillO (execTthMarkerRx port bits late stamp s) = some (still s) := by
  simp only [execTthMarkerRx, still_mk, still_ite, still_fold, still_foldl, stillO_next, stillO_ite, implies_true, ite_self, still_modTth, still_mktArrives, still_fastRetrain]

@[simp] theorem still_timeSyncOp (s : State) (p : Nat) :
    still (timeSyncOp s p) = still s := by
  simp only [timeSyncOp, still_ite, ite_self, still_modTth]

@[simp] theorem still_execTimeSync (port : Fin 4) (s : State) :
    stillO (execTimeSync port s) = some (still s) := by
  unfold execTimeSync
  try dsimp only
  (repeat' split) <;> first | with_reducible rfl | (simp only [stillO_next, still_modIod, still_timeSyncOp]; rw [takeAct_still (by assumption)]) | (rw [takeAct_still (by assumption)]) | simp only [stillO_next, still_modIod, still_timeSyncOp]

@[simp] theorem still_execTthMktSend (port : Fin 4) (stamp : W64) (s : State) :
    stillO (execTthMktSend port stamp s) = some (still s) := by
  simp only [execTthMktSend, still_mk, still_ite, still_fold, still_foldl, stillO_next, stillO_ite, implies_true, ite_self, still_modTth, still_sendMarker]

@[simp] theorem still_execTthTimeFrame (port : Fin 4) (frame : TFrame) (s : State) :
    stillO (execTthTimeFrame port frame s) = some (still s) := by
  unfold execTthTimeFrame
  try dsimp only
  (repeat' split) <;> first | with_reducible rfl | simp only [stillO_next, still_rxHeader, still_modTth]

@[simp] theorem still_execTofs (port : Fin 4) (t1 : W64) (offset : W64) (delay : W32) (valid : Bool) (s : State) :
    stillO (execTofs port t1 offset delay valid s) = some (still s) := by
  simp only [execTofs, still_mk, still_ite, still_fold, still_foldl, stillO_next, stillO_ite, implies_true, ite_self, still_takeMsg, still_modTth, still_tetherTime]

@[simp] theorem still_newEpoch (s : State) (p : Nat) :
    still (newEpoch s p) = still s := by
  simp only [newEpoch, still_modTth, still_drew]

@[simp] theorem still_startPort (s : State) (p : Nat) :
    still (startPort s p) = still s := by
  unfold startPort
  try dsimp only
  (repeat' split) <;> first | with_reducible rfl | simp only [still_modTth, still_newEpoch, still_startFull]

@[simp] theorem still_silencePort (s : State) (p : Nat) :
    still (silencePort s p) = still s := by
  simp only [silencePort, still_ite, ite_self, still_tetherCandDown, still_modTth]

@[simp] theorem still_disablePort (s : State) (p : Nat) :
    still (disablePort s p) = still s := by
  simp only [disablePort, still_ite, still_foldl, implies_true, ite_self, still_sendFrame, still_tetherCandDown, still_modTth]

@[simp] theorem still_warmPort (s : State) (p : Nat) :
    still (warmPort s p) = still s := by
  simp only [warmPort, still_mk, still_ite, still_fold, still_foldl, stillO_next, stillO_ite, implies_true, ite_self, still_silencePort, still_startPort, still_startFast, still_startFull]

end Sys2Proof.Machine
end

