-- ==== Sys2Proof/Laws/LastingGirth.lean ====
section
/-!
SUPPORT. What lasts across each operation and command of Machine/Girth.lean: `still_x` where operation `x` leaves it all
as it is, `after_x` where it changes it as `Lasting.After` says.
-/
namespace Sys2Proof.Machine

@[simp] theorem still_samplesLost (s : State) (d : Nat) :
    still (samplesLost s d) = still s := by
  unfold samplesLost
  try dsimp only
  repeat' (first | with_reducible rfl | (simp only [still_ite, ite_self, still_modSlots, still_touchNow]; done) | with_reducible refine (still_foldl _ (fun s x => ?_) _ _).trans ?_ | split | (simp only [still_mk, still_ite, still_fold, still_foldl, stillO_next, stillO_ite, implies_true, ite_self, still_modSlots, still_touchNow]))

@[simp] theorem still_girthFail (s : State) (g : Nat) (cause : BitVec 4) :
    still (girthFail s g cause) = still s := by
  simp only [girthFail, still_modGirth, still_silencePort, still_candUpdate, still_linkLost, still_report]

@[simp] theorem still_startRetrain (s : State) (g : Nat) (cause : Byte) :
    still (startRetrain s g cause) = still s := by
  simp only [startRetrain, still_modGirth, still_samplesLost, still_report]

@[simp] theorem still_retrainOp (s : State) (g : Nat) (cause : Byte) :
    still (retrainOp s g cause) = still s := by
  simp only [retrainOp, still_ite, ite_self, still_startRetrain]

@[simp] theorem still_execGrtRetrain (g : Fin 2) (cause : BitVec 3) (s : State) :
    stillO (execGrtRetrain g cause s) = some (still s) := by
  simp only [execGrtRetrain, stillO_next, still_retrainOp]

@[simp] theorem still_grtCtlOp (g : Nat) (s : State) :
    still (grtCtlOp g s) = still s := by
  simp only [grtCtlOp, still_retrainOp]

@[simp] theorem still_execGrtCtlRetrain (g : Fin 2) (s : State) :
    stillO (execGrtCtlRetrain g s) = some (still s) := by
  simp only [execGrtCtlRetrain, stillO_next, implies_true, still_mgmt, still_grtCtlOp]

@[simp] theorem still_startGirth (s : State) (g : Nat) :
    still (startGirth s g) = still s := by
  simp only [startGirth, still_ite, ite_self, still_modGirth]

@[simp] theorem still_girthWindow (s : State) (g : Nat) :
    still (girthWindow s g) = still s := by
  simp only [girthWindow, still_mk, still_ite, still_fold, still_foldl, stillO_next, stillO_ite, implies_true, ite_self, still_girthFail]

@[simp] theorem still_execGrtReplayTimeout (g : Fin 2) (s : State) :
    stillO (execGrtReplayTimeout g s) = some (still s) := by
  simp only [execGrtReplayTimeout, stillO_next, stillO_ite, ite_self, still_modGirth]

@[simp] theorem still_linkActive (s : State) (g : Nat) (m : GirthParam) :
    still (linkActive s g m) = still s := by
  simp only [linkActive, still_ite, ite_self, still_modGirth, still_samplesLost]

@[simp] theorem still_trainingFailed (s : State) (g : Nat) (cause : BitVec 4) :
    still (trainingFailed s g cause) = still s := by
  simp only [trainingFailed, still_ite, ite_self, still_girthFail, still_startRetrain, still_modGirth]

@[simp] theorem still_beginParam (s : State) (g : Nat) (faulty : List (Option (Fin 32))) :
    still (beginParam s g faulty) = still s := by
  simp only [beginParam, still_mk, still_ite, still_fold, still_foldl, stillO_next, stillO_ite, implies_true, ite_self, still_modGirth]

@[simp] theorem still_girthPhaseEnd (s : State) (g : Nat) (failCause : BitVec 4) (param : GirthParam) :
    still (girthPhaseEnd s g failCause param) = still s := by
  unfold girthPhaseEnd
  try dsimp only
  (repeat' split) <;> first | with_reducible rfl | simp only [still_trainingFailed, still_modGirth, still_beginParam, still_linkActive]

@[simp] theorem still_answerPing (s : State) (g : Nat) (flit : List Byte) :
    still (answerPing s g flit) = still s := by
  simp only [answerPing, still_mk, still_ite, still_fold, still_foldl, stillO_next, stillO_ite, implies_true, ite_self, still_drew, still_modGirth]

@[simp] theorem still_execGrtFlitRx (g : Fin 2) (lanes : List (List Bool)) (s : State) :
    stillO (execGrtFlitRx g lanes s) = some (still s) := by
  unfold execGrtFlitRx
  try dsimp only
  (repeat' split) <;> first | with_reducible rfl | simp only [stillO_next, still_modGirth, still_answerPing, still_startRetrain]

@[simp] theorem still_putFlit (s : State) (g : Nat) (bytes : List Byte) :
    still (putFlit s g bytes) = still s := by
  simp only [putFlit, still_emit, still_modGirth]

@[simp] theorem still_sendVc (s : State) (g vc : Nat) :
    still (sendVc s g vc) = still s := by
  simp only [sendVc, still_modGirth, still_putFlit]

@[simp] theorem still_sendReplay (s : State) (g : Nat) (q : BitVec 12) :
    still (sendReplay s g q) = still s := by
  unfold sendReplay
  try dsimp only
  (repeat' split) <;> first | with_reducible rfl | simp only [still_modGirth, still_startRetrain, still_putFlit]

@[simp] theorem still_execGrtFlitSlot (g : Fin 2) (s : State) :
    stillO (execGrtFlitSlot g s) = some (still s) := by
  unfold execGrtFlitSlot
  try dsimp only
  (repeat' split) <;> first | with_reducible rfl | simp only [stillO_next, still_sendReplay, still_putFlit, still_modGirth, still_sendVc]

@[simp] theorem still_execTimeSend (g : Fin 2) (s : State) :
    stillO (execTimeSend g s) = some (still s) := by
  simp only [execTimeSend, stillO_next, stillO_ite, ite_self, still_modGirth, still_emit]

@[simp] theorem still_execTime (iod : Fin 2) (stamp : W64) (replayed : Bool) (count : W64) (s : State) :
    stillO (execTime iod stamp replayed count s) = some (still s) := by
  simp only [execTime, still_ite, stillO_next, stillO_ite, ite_self, still_modIod, still_modGirth]

@[simp] theorem still_execTact (iod : Fin 2) (port : Fin 4) (action : BitVec 6) (stamp : W64) (s : State) :
    stillO (execTact iod port action stamp s) = some (still s) := by
  unfold execTact
  try dsimp only
  (repeat' split) <;> first | with_reducible rfl | simp only [stillO_next, still_modIod, still_modAir, still_modTth]

@[simp] theorem still_execSysrefEdge (iod : Fin 2) (stamp : W64) (s : State) :
    stillO (execSysrefEdge iod stamp s) = some (still s) := by
  simp only [execSysrefEdge, stillO_next, stillO_ite, ite_self, still_modIod, still_linkLost, still_report]

@[simp] theorem still_resyncOp (d : Nat) (s : State) :
    still (resyncOp d s) = still s := by
  simp only [resyncOp, still_linkLost, still_modIod]

@[simp] theorem still_execRxcResync (iod : Fin 2) (s : State) :
    stillO (execRxcResync iod s) = some (still s) := by
  simp only [execRxcResync, stillO_next, implies_true, still_mgmt, still_resyncOp]

@[simp] theorem still_execJesdLaneLoss (iod : Fin 2) (lane : BitVec 4) (errors : W32) (s : State) :
    stillO (execJesdLaneLoss iod lane errors s) = some (still s) := by
  simp only [execJesdLaneLoss, stillO_next, still_modIod, still_report, still_linkLost]

@[simp] theorem still_execJesdLaneSync (iod : Fin 2) (lane : BitVec 4) (s : State) :
    stillO (execJesdLaneSync iod lane s) = some (still s) := by
  simp only [execJesdLaneSync, stillO_next, still_modIod]

@[simp] theorem still_execCnvRatioFault (iod : Fin 2) (ppb : W32) (s : State) :
    stillO (execCnvRatioFault iod ppb s) = some (still s) := by
  simp only [execCnvRatioFault, stillO_next, stillO_ite, ite_self, still_modIod, still_report, still_linkLost]

@[simp] theorem still_execCnvRatioRestored (iod : Fin 2) (s : State) :
    stillO (execCnvRatioRestored iod s) = some (still s) := by
  simp only [execCnvRatioRestored, stillO_next, still_modIod]

end Sys2Proof.Machine
end

