-- ==== Sys2Proof/Laws/LastingReports.lean ====
section
/-!
SUPPORT. What lasts across each operation and command of Machine/Reports.lean: `still_x` where operation `x` leaves it all
as it is, `after_x` where it changes it as `Lasting.After` says.
-/
namespace Sys2Proof.Machine

theorem after_issueReport {w0 : Lasting} (s : State) (c i : Nat) (cfg : CarrierCfg) (start status : Nat) (h : w0.After (still s)) :
    w0.After (still (issueReport s c i cfg start status)) := by
  unfold issueReport
  extract_lets s1
  have h1 : w0.After (still s1) := by
    unfold s1; (repeat' split) <;> simpa only [still_measure] using h
  clear_value s1
  split
  · exact h1
  · extract_lets users head g x s2 s3 s4
    have h2 : w0.After (still s2) :=
      after_regionWrite _ _ _ _ _ (after_regionWrite _ _ _ _ _ (by simpa only [still_drew] using h1))
    have h4 : w0.After (still s4) := by simpa only [s4, s3, still_modSlots, still_tapReported, still_modCarrier] using h2
    clear_value s4
    split
    · simpa only [still_report] using h4
    · exact h4

theorem after_cutSlot {w0 : Lasting} (s : State) (c i : Nat) (cfg : CarrierCfg) (start : Nat) (guarantee : Bool) (hw : w0.After (still s)) :
    w0.After (still (cutSlot s c i cfg start guarantee)) := by
  unfold cutSlot
  try dsimp only
  repeat' (first | with_reducible assumption | with_reducible refine afterO_next ?_ | with_reducible apply after_issueReport | with_reducible refine after_foldl _ (fun _ _ _ => ?_) _ _ ?_ | (simp only [still_ite, ite_self, still_modCarrier, still_modSlots]; done) | (simpa only [still_mk, still_ite, still_fold, still_foldl, stillO_next, stillO_ite, implies_true, ite_self, still_modCarrier, still_modSlots] using hw) | split | (simp only [still_mk, still_ite, still_fold, still_foldl, stillO_next, stillO_ite, implies_true, ite_self, still_modCarrier, still_modSlots]))

theorem after_execDeadline {w0 : Lasting} (carrier : Fin 8) (slot : BitVec 6) (prevFrame : Bool) (s : State) (hw : w0.After (still s)) :
    AfterO w0 (execDeadline carrier slot prevFrame s) := by
  unfold execDeadline
  try dsimp only
  repeat' (first | with_reducible assumption | with_reducible refine afterO_next ?_ | with_reducible apply after_cutSlot | with_reducible refine after_foldl _ (fun _ _ _ => ?_) _ _ ?_ | (exact (takeAct_still (by assumption)) ▸ hw) | (simp only [still_judgeSlot, still_touchPlace, still_modCarrier, still_modSlots]; exact (takeAct_still (by assumption)) ▸ hw) | (simp only [still_judgeSlot, still_touchPlace, still_modCarrier, still_modSlots]; done) | (simp only [still_mk, still_ite, still_fold, still_foldl, stillO_next, stillO_ite, implies_true, ite_self, still_judgeSlot, still_touchPlace, still_modCarrier, still_modSlots]; with_reducible assumption) | intro _ _ | split | (simp only [still_mk, still_ite, still_fold, still_foldl, stillO_next, stillO_ite, implies_true, ite_self, still_judgeSlot, still_touchPlace, still_modCarrier, still_modSlots]))

theorem after_execReportComplete {w0 : Lasting} (carrier : Fin 8) (s : State) (hw : w0.After (still s)) :
    AfterO w0 (execReportComplete carrier s) := by
  unfold execReportComplete
  try dsimp only
  repeat' (first | with_reducible assumption | with_reducible refine afterO_next ?_ | with_reducible apply after_issueReport | with_reducible refine after_foldl _ (fun _ _ _ => ?_) _ _ ?_ | (simp only [still_unquiet, still_raiseSource, still_modCarrier, still_modSlots]; done) | (simp only [still_mk, still_ite, still_fold, still_foldl, stillO_next, stillO_ite, implies_true, ite_self, still_unquiet, still_raiseSource, still_modCarrier, still_modSlots]; with_reducible assumption) | intro _ _ | split | (simp only [still_mk, still_ite, still_fold, still_foldl, stillO_next, stillO_ite, implies_true, ite_self, still_unquiet, still_raiseSource, still_modCarrier, still_modSlots]))

end Sys2Proof.Machine
end

