-- ==== Sys2Proof/Laws/LastingSchool.lean ====
section
/-!
SUPPORT. What lasts across each operation and command of Machine/School.lean: `still_x` where operation `x` leaves it all
as it is, `after_x` where it changes it as `Lasting.After` says.
-/
namespace Sys2Proof.Machine

@[simp] theorem still_modSe (s : State) (e : Nat) (f : SchoolE → SchoolE) :
    still (modSe s e f) = still s := by
  simp only [modSe, still_mk, still_fold]

@[simp] theorem still_modSchool (s : State) (f : School → School) :
    still (modSchool s f) = still s := by
  simp only [modSchool, still_mk, still_fold]

theorem after_areaWrite {w0 : Lasting} (s : State) (r : Nat) (cfg : SchoolCfg) (n : NetCfg) (committed : Bool) (bs : List Byte) (hw : w0.After (still s)) :
    w0.After (still (areaWrite s r cfg n committed bs)) := by
  unfold areaWrite
  try dsimp only
  repeat' (first | with_reducible assumption | with_reducible refine afterO_next ?_ | with_reducible apply after_regionWrite | with_reducible refine after_foldl _ (fun _ _ _ => ?_) _ _ ?_ | (simp only [still_mk, still_ite, still_fold, still_foldl, stillO_next, stillO_ite, implies_true, ite_self]; done) | (simpa only [still_mk, still_ite, still_fold, still_foldl, stillO_next, stillO_ite, implies_true, ite_self] using hw) | split | (simp only [still_mk, still_ite, still_fold, still_foldl, stillO_next, stillO_ite, implies_true, ite_self]))

@[simp] theorem still_schoolEvent (s : State) (r : Nat) (cfg : SchoolCfg) (n : NetCfg) (what : Byte) :
    still (schoolEvent s r cfg n what) = still s := by
  simp only [schoolEvent, still_report]

@[simp] theorem still_xferSts (s : State) (i : Nat) (st : BitVec 2) (reason : Byte) :
    still (xferSts s i st reason) = still s := by
  simp only [xferSts, still_modSchool]

@[simp] theorem still_xferEnds (s : State) (r : Nat) (i : Nat) (reason : Byte) :
    still (xferEnds s r i reason) = still s := by
  simp only [xferEnds, still_mk, still_ite, still_fold, still_foldl, stillO_next, stillO_ite, implies_true, ite_self, still_raiseSource, still_xferSts]

@[simp] theorem still_arm (s : State) (r : Nat) (a : SchoolAct) :
    still (arm s r a) = still s := by
  simp only [arm, still_modSchool]

@[simp] theorem still_dropActions (s : State) (r : Nat) (p : SchoolAct → Bool) :
    still (dropActions s r p) = still s := by
  simp only [dropActions, still_mk, still_ite, still_fold, still_foldl, stillO_next, stillO_ite, implies_true, ite_self, still_modSchool]

theorem after_writeAreaHeader {w0 : Lasting} (s : State) (cfg : SchoolCfg) (n : NetCfg) (hw : w0.After (still s)) :
    w0.After (still (writeAreaHeader s cfg n)) := by
  unfold writeAreaHeader
  try dsimp only
  repeat' (first | with_reducible assumption | with_reducible refine afterO_next ?_ | with_reducible apply after_regionWrite | with_reducible refine after_foldl _ (fun _ _ _ => ?_) _ _ ?_ | (simp only [still_mk, still_fold]; done) | (simpa only [still_mk, still_ite, still_fold, still_foldl, stillO_next, stillO_ite, implies_true, ite_self] using hw) | split | (simp only [still_mk, still_ite, still_fold, still_foldl, stillO_next, stillO_ite, implies_true, ite_self]))

theorem after_reinitNet {w0 : Lasting} (s : State) (r : Nat) (hw : w0.After (still s)) :
    w0.After (still (reinitNet s r)) := by
  unfold reinitNet
  try dsimp only
  repeat' (first | with_reducible assumption | with_reducible refine afterO_next ?_ | with_reducible apply after_areaWrite | with_reducible apply after_writeAreaHeader | with_reducible refine after_foldl _ (fun _ _ _ => ?_) _ _ ?_ | (simp only [still_modNet, still_dropActions]; done) | (simpa only [still_mk, still_ite, still_fold, still_foldl, stillO_next, stillO_ite, implies_true, ite_self, still_modNet, still_dropActions] using hw) | split | (simp only [still_mk, still_ite, still_fold, still_foldl, stillO_next, stillO_ite, implies_true, ite_self, still_modNet, still_dropActions]))

@[simp] theorem still_resetCursors (s : State) (e : Nat) :
    still (resetCursors s e) = still s := by
  simp only [resetCursors, still_modSe]

@[simp] theorem still_seedEngine (s : State) (e : Nat) :
    still (seedEngine s e) = still s := by
  unfold seedEngine
  try dsimp only
  (repeat' split) <;> first | with_reducible rfl | simp only [still_modSe, still_drew]

theorem after_resetNet {w0 : Lasting} (s : State) (r : Nat) (zero : Bool) (hw : w0.After (still s)) :
    w0.After (still (resetNet s r zero)) := by
  unfold resetNet
  try dsimp only
  repeat' (first | with_reducible assumption | with_reducible refine afterO_next ?_ | with_reducible apply after_reinitNet | with_reducible refine after_foldl _ (fun _ _ _ => ?_) _ _ ?_ | (simp only [still_ite, ite_self, still_dropActions, still_xferSts, still_modNet]; done) | (simpa only [still_mk, still_ite, still_fold, still_foldl, stillO_next, stillO_ite, implies_true, ite_self, still_dropActions, still_xferSts, still_modNet] using hw) | split | (simp only [still_mk, still_ite, still_fold, still_foldl, stillO_next, stillO_ite, implies_true, ite_self, still_dropActions, still_xferSts, still_modNet]))

@[simp] theorem still_stepNet (s : State) (r : Nat) :
    still (stepNet s r) = still s := by
  unfold stepNet
  try dsimp only
  (repeat' split) <;> first | with_reducible rfl | simp only [still_modNet, still_arm]

@[simp] theorem still_execSchoolStep (engine : Fin 2) (net : Byte) (s : State) :
    stillO (execSchoolStep engine net s) = some (still s) := by
  unfold execSchoolStep
  try dsimp only
  (repeat' split) <;> first | with_reducible rfl | (simp only [stillO_next, still_modSe, still_stepNet]; rw [takeAct_still (by assumption)]) | (rw [takeAct_still (by assumption)]) | simp only [stillO_next, still_modSe, still_stepNet]

@[simp] theorem still_takeTap (s : State) (r : Nat) (cfg : SchoolCfg) (n : NetCfg) (start status : Nat) (us : List PlanUser) :
    still (takeTap s r cfg n start status us) = still s := by
  simp only [takeTap, still_ite, ite_self, still_modNet]

@[simp] theorem still_takeTaps (s : State) (n : Nat) :
    still (takeTaps s n) = still s := by
  unfold takeTaps
  try dsimp only
  repeat' (first | with_reducible rfl | (simp only [still_ite, ite_self, still_takeTap]; done) | with_reducible refine (still_foldl _ (fun s x => ?_) _ _).trans ?_ | split | (simp only [still_mk, still_ite, still_fold, still_foldl, stillO_next, stillO_ite, implies_true, ite_self, still_takeTap]))

@[simp] theorem still_armBack (s : State) (r : Nat) :
    still (armBack s r) = still s := by
  simp only [armBack, still_mk, still_ite, still_fold, still_foldl, stillO_next, stillO_ite, implies_true, ite_self, still_arm]

theorem after_areaFault {w0 : Lasting} (s : State) (r : Nat) (cfg : SchoolCfg) (n : NetCfg) (hw : w0.After (still s)) :
    w0.After (still (areaFault s r cfg n)) := by
  unfold areaFault
  try dsimp only
  repeat' (first | with_reducible assumption | with_reducible refine afterO_next ?_ | with_reducible apply after_reinitNet | with_reducible refine after_foldl _ (fun _ _ _ => ?_) _ _ ?_ | (simp only [still_report, still_modNet, still_drew, still_armBack]; done) | (simp only [still_mk, still_ite, still_fold, still_foldl, stillO_next, stillO_ite, implies_true, ite_self, still_report, still_modNet, still_drew, still_armBack]; with_reducible assumption) | intro _ _ | split | (simp only [still_mk, still_ite, still_fold, still_foldl, stillO_next, stillO_ite, implies_true, ite_self, still_report, still_modNet, still_drew, still_armBack]))

@[simp] theorem still_endCandidate (s : State) (r : Nat) :
    still (endCandidate s r) = still s := by
  simp only [endCandidate, still_mk, still_ite, still_fold, still_foldl, stillO_next, stillO_ite, implies_true, ite_self, still_modNet, still_dropActions]

theorem after_writeCodes {w0 : Lasting} (s : State) (r : Nat) (cfg : SchoolCfg) (n : NetCfg) (codes : List Byte) (hw : w0.After (still s)) :
    w0.After (still (writeCodes s r cfg n codes)) := by
  unfold writeCodes
  try dsimp only
  repeat' (first | with_reducible assumption | with_reducible refine afterO_next ?_ | with_reducible apply after_regionWrite | with_reducible refine after_foldl _ (fun _ _ _ => ?_) _ _ ?_ | (simp only [still_mk, still_ite, still_fold, still_foldl, stillO_next, stillO_ite, implies_true, ite_self]; done) | (simpa only [still_mk, still_ite, still_fold, still_foldl, stillO_next, stillO_ite, implies_true, ite_self] using hw) | split | (simp only [still_mk, still_ite, still_fold, still_foldl, stillO_next, stillO_ite, implies_true, ite_self]))

theorem after_runAction {w0 : Lasting} (s : State) (n : Nat) (r : Nat) (cfg : SchoolCfg) (net : NetCfg) (a : SchoolAct) (hw : w0.After (still s)) :
    w0.After (still (runAction s n r cfg net a)) := by
  unfold runAction
  try dsimp only
  repeat' (first | with_reducible assumption | with_reducible refine afterO_next ?_ | with_reducible apply after_writeCodes | with_reducible apply after_areaFault | with_reducible apply after_regionWrite | with_reducible apply after_areaWrite | with_reducible refine after_foldl _ (fun _ _ _ => ?_) _ _ ?_ | (simp only [still_modSchool, still_modNet, still_arm, still_endCandidate]; done) | (simp only [still_mk, still_ite, still_fold, still_foldl, stillO_next, stillO_ite, implies_true, ite_self, still_modSchool, still_modNet, still_arm, still_endCandidate]; with_reducible assumption) | intro _ _ | split | (simp only [still_mk, still_ite, still_fold, still_foldl, stillO_next, stillO_ite, implies_true, ite_self, still_modSchool, still_modNet, still_arm, still_endCandidate]))

theorem after_execQuietPoint {w0 : Lasting} (arr : Fin 8) (s : State) (hw : w0.After (still s)) :
    AfterO w0 (execQuietPoint arr s) := by
  unfold execQuietPoint
  try dsimp only
  repeat' (first | with_reducible assumption | with_reducible refine afterO_next ?_ | with_reducible apply after_runAction | with_reducible refine after_foldl _ (fun _ _ _ => ?_) _ _ ?_ | (simp only [still_foldl, implies_true, still_takeTaps, still_modDec, still_modSchool]; done) | (simpa only [still_mk, still_ite, still_fold, still_foldl, stillO_next, stillO_ite, implies_true, ite_self, still_takeTaps, still_modDec, still_modSchool] using hw) | split | (simp only [still_modDec]))

theorem after_commitNet {w0 : Lasting} (s : State) (r : Nat) (cfg : SchoolCfg) (n : NetCfg) (codes : List Byte) (hw : w0.After (still s)) :
    w0.After (still (commitNet s r cfg n codes)) := by
  unfold commitNet
  try dsimp only
  repeat' (first | with_reducible assumption | with_reducible refine afterO_next ?_ | with_reducible apply after_writeAreaHeader | with_reducible refine after_foldl _ (fun _ _ _ => ?_) _ _ ?_ | (simp only [still_modNet, still_schoolEvent]; done) | (simp only [still_mk, still_ite, still_fold, still_foldl, stillO_next, stillO_ite, implies_true, ite_self, still_modNet, still_schoolEvent]; with_reducible assumption) | intro _ _ | split | (simp only [still_mk, still_ite, still_fold, still_foldl, stillO_next, stillO_ite, implies_true, ite_self, still_modNet, still_schoolEvent]))

theorem after_execInstallDone {w0 : Lasting} (netRec : Fin 32) (ue : Bool) (s : State) (hw : w0.After (still s)) :
    AfterO w0 (execInstallDone netRec ue s) := by
  unfold execInstallDone
  try dsimp only
  repeat' (first | with_reducible assumption | with_reducible refine afterO_next ?_ | with_reducible apply after_areaFault | with_reducible apply after_commitNet | with_reducible refine after_foldl _ (fun _ _ _ => ?_) _ _ ?_ | (simp only [still_modSchool, still_modArr, still_modNet]; done) | (simp only [still_mk, still_ite, still_fold, still_foldl, stillO_next, stillO_ite, implies_true, ite_self, still_modSchool, still_modArr, still_modNet]; with_reducible assumption) | intro _ _ | split | (simp only [still_mk, still_ite, still_fold, still_foldl, stillO_next, stillO_ite, implies_true, ite_self, still_modSchool, still_modArr, still_modNet]))

theorem after_endTrial {w0 : Lasting} (s : State) (r : Nat) (cfg : SchoolCfg) (n : NetCfg) (hw : w0.After (still s)) :
    w0.After (still (endTrial s r cfg n)) := by
  unfold endTrial
  try dsimp only
  repeat' (first | with_reducible assumption | with_reducible refine afterO_next ?_ | with_reducible apply after_commitNet | with_reducible refine after_foldl _ (fun _ _ _ => ?_) _ _ ?_ | (simp only [still_modNet, still_drew, still_schoolEvent]; done) | (simp only [still_mk, still_ite, still_fold, still_foldl, stillO_next, stillO_ite, implies_true, ite_self, still_modNet, still_drew, still_schoolEvent]; with_reducible assumption) | intro _ _ | split | (simp only [still_mk, still_ite, still_fold, still_foldl, stillO_next, stillO_ite, implies_true, ite_self, still_modNet, still_drew, still_schoolEvent]))

@[simp] theorem still_outNet (s : State) (r : Nat) :
    still (outNet s r) = still s := by
  unfold outNet
  try dsimp only
  (repeat' split) <;> first | with_reducible rfl | simp only [still_modNet, still_dropActions, still_armBack]

@[simp] theorem still_engineUe (s : State) (e : Nat) (r : Nat) (cfg : SchoolCfg) (n : NetCfg) :
    still (engineUe s e r cfg n) = still s := by
  simp only [engineUe, still_mk, still_ite, still_fold, still_foldl, stillO_next, stillO_ite, implies_true, ite_self, still_modSe, still_report, still_modNet, still_dropActions, still_arm, still_armBack, still_outOfService, still_outNet]

theorem after_execTapProcessDone {w0 : Lasting} (engine : Fin 2) (ue : Bool) (s : State) (hw : w0.After (still s)) :
    AfterO w0 (execTapProcessDone engine ue s) := by
  unfold execTapProcessDone
  try dsimp only
  repeat' (first | with_reducible assumption | with_reducible refine afterO_next ?_ | with_reducible apply after_endTrial | with_reducible refine after_foldl _ (fun _ _ _ => ?_) _ _ ?_ | (simp only [still_engineUe, still_modSe, still_modNet]; done) | (simp only [still_mk, still_ite, still_fold, still_foldl, stillO_next, stillO_ite, implies_true, ite_self, still_engineUe, still_modSe, still_modNet]; with_reducible assumption) | intro _ _ | split | (simp only [still_mk, still_ite, still_fold, still_foldl, stillO_next, stillO_ite, implies_true, ite_self, still_engineUe, still_modSe, still_modNet]))

@[simp] theorem still_execCandidateBuilt (engine : Fin 2) (ue : Bool) (s : State) :
    stillO (execCandidateBuilt engine ue s) = some (still s) := by
  unfold execCandidateBuilt
  try dsimp only
  (repeat' split) <;> first | with_reducible rfl | simp only [stillO_next, still_engineUe, still_modSe, still_modNet, still_arm, still_schoolEvent]

@[simp] theorem still_execNvWriteStart (netRec : Fin 32) (s : State) :
    stillO (execNvWriteStart netRec s) = some (still s) := by
  unfold execNvWriteStart
  try dsimp only
  (repeat' split) <;> first | with_reducible rfl | simp only [stillO_next, still_arm]

@[simp] theorem still_execNvPageWriteDone (netRec : Fin 32) (ok : Bool) (s : State) :
    stillO (execNvPageWriteDone netRec ok s) = some (still s) := by
  unfold execNvPageWriteDone
  try dsimp only
  (repeat' split) <;> first | with_reducible rfl | simp only [stillO_next, still_modSchool, still_modNet, still_schoolEvent]

@[simp] theorem still_holdNet (s : State) (r : Nat) :
    still (holdNet s r) = still s := by
  simp only [holdNet, still_mk, still_ite, still_fold, still_foldl, stillO_next, stillO_ite, implies_true, ite_self, still_modNet, still_dropActions]

@[simp] theorem still_releaseNet (s : State) (r : Nat) (cfg : SchoolCfg) :
    still (releaseNet s r cfg) = still s := by
  simp only [releaseNet, still_modNet]

@[simp] theorem still_sclOp (s : State) (r : Nat) (op : Nat) (off : Nat) :
    still (sclOp s r op off) = still s := by
  unfold sclOp
  try dsimp only
  (repeat' split) <;> first | with_reducible rfl | simp only [still_xferEnds, still_modNet, still_xferSts, still_arm, still_holdNet, still_releaseNet]

@[simp] theorem still_sclWrite (s : State) (r : Nat) (op : Nat) (off : Nat) :
    still (sclWrite s r op off) = still s := by
  simp only [sclWrite, still_mk, still_ite, still_fold, still_foldl, stillO_next, stillO_ite, implies_true, ite_self, still_ownWrite, still_sclOp]

@[simp] theorem still_execSclRead (netRec : Fin 32) (offset : BitVec 36) (s : State) :
    stillO (execSclRead netRec offset s) = some (still s) := by
  simp only [execSclRead, still_mk, still_ite, still_fold, still_foldl, stillO_next, stillO_ite, implies_true, ite_self, still_sclWrite]

@[simp] theorem still_execSclWrite (netRec : Fin 32) (offset : BitVec 36) (s : State) :
    stillO (execSclWrite netRec offset s) = some (still s) := by
  simp only [execSclWrite, still_mk, still_ite, still_fold, still_foldl, stillO_next, stillO_ite, implies_true, ite_self, still_sclWrite]

@[simp] theorem still_execSclWriteTrial (netRec : Fin 32) (offset : BitVec 36) (s : State) :
    stillO (execSclWriteTrial netRec offset s) = some (still s) := by
  simp only [execSclWriteTrial, still_mk, still_ite, still_fold, still_foldl, stillO_next, stillO_ite, implies_true, ite_self, still_sclWrite]

@[simp] theorem still_execSclRevertNv (netRec : Fin 32) (s : State) :
    stillO (execSclRevertNv netRec s) = some (still s) := by
  simp only [execSclRevertNv, still_mk, still_ite, still_fold, still_foldl, stillO_next, stillO_ite, implies_true, ite_self, still_sclWrite]

@[simp] theorem still_execSclRevertInit (netRec : Fin 32) (s : State) :
    stillO (execSclRevertInit netRec s) = some (still s) := by
  simp only [execSclRevertInit, still_mk, still_ite, still_fold, still_foldl, stillO_next, stillO_ite, implies_true, ite_self, still_sclWrite]

@[simp] theorem still_execSclHold (netRec : Fin 32) (s : State) :
    stillO (execSclHold netRec s) = some (still s) := by
  simp only [execSclHold, still_mk, still_ite, still_fold, still_foldl, stillO_next, stillO_ite, implies_true, ite_self, still_sclWrite]

@[simp] theorem still_execSclRelease (netRec : Fin 32) (s : State) :
    stillO (execSclRelease netRec s) = some (still s) := by
  simp only [execSclRelease, still_mk, still_ite, still_fold, still_foldl, stillO_next, stillO_ite, implies_true, ite_self, still_sclWrite]

@[simp] theorem still_execSclXferDone (netRec : Fin 32) (s : State) :
    stillO (execSclXferDone netRec s) = some (still s) := by
  unfold execSclXferDone
  try dsimp only
  (repeat' split) <;> first | with_reducible rfl | simp only [stillO_next, still_modNet, still_xferEnds]

end Sys2Proof.Machine
end

