-- ==== Sys2Proof/Laws/LastingStalls.lean ====
section
/-!
SUPPORT. What lasts across each operation and command of Machine/Stalls.lean: `still_x` where operation `x` leaves it all
as it is, `after_x` where it changes it as `Lasting.After` says.
-/
namespace Sys2Proof.Machine

@[simp] theorem still_settleHold (s : State) (i : Nat) :
    still (settleHold s i) = still s := by
  unfold settleHold
  try dsimp only
  (repeat' split) <;> first | with_reducible rfl | simp only [still_modStall, still_resumeQueues]

@[simp] theorem still_quiesceOp (i : Nat) (on : Bool) (s : State) :
    still (quiesceOp i on s) = still s := by
  unfold quiesceOp
  try dsimp only
  (repeat' split) <;> first | with_reducible rfl | simp only [still_modStall, still_settleHold]

@[simp] theorem still_execStlQuiesce (stall : Fin 16) (on : Bool) (s : State) :
    stillO (execStlQuiesce stall on s) = some (still s) := by
  simp only [execStlQuiesce, still_mk, still_ite, still_fold, still_foldl, stillO_next, stillO_ite, implies_true, ite_self, still_ownWrite, still_quiesceOp]

@[simp] theorem still_addressed (i : Nat) (s : State) :
    still (addressed i s) = still s := by
  simp only [addressed, still_mk, still_fold]

@[simp] theorem still_execQuiesceSet (stall : Fin 16) (s : State) :
    stillO (execQuiesceSet stall s) = some (still s) := by
  simp only [execQuiesceSet, stillO_next, implies_true, still_mgmt, still_quiesceOp, still_addressed]

@[simp] theorem still_execQuiesceClr (stall : Fin 16) (s : State) :
    stillO (execQuiesceClr stall s) = some (still s) := by
  simp only [execQuiesceClr, stillO_next, implies_true, still_mgmt, still_quiesceOp, still_addressed]

@[simp] theorem still_loadEvent (s : State) (serial : W32) (code kind : Byte) (stall : Nat) :
    still (loadEvent s serial code kind stall) = still s := by
  simp only [loadEvent, still_report]

@[simp] theorem still_setErr (s : State) (code : Byte) (index record : Nat) :
    still (setErr s code index record) = still s := by
  simp only [setErr, still_mk, still_fold]

@[simp] theorem still_serialOf (s : State) (b : List Byte) : still (serialOf s b).2 = still s := by
  unfold serialOf; split
  · exact still_drew ..
  · rfl

@[simp] theorem still_segFail (s : State) (code : Byte) (index record : Nat) :
    still (segFail s code index record) = still s := by
  unfold segFail
  extract_lets i x s1 s2 s3 s4 s5
  have h1 : still s1 = still s := (still_setErr ..).trans (still_serialOf ..)
  have h2 : still s2 = still s := by
    unfold s2; split
    · exact (still_modAir ..).trans h1
    · exact h1
  have h3 : still s3 = still s := by
    unfold s3; split
    · refine (still_foldl _ (fun s n => ?_) _ _).trans h2
      split
      · exact still_startPreload ..
      · rfl
    · exact h2
  rw [still_loadEvent]
  exact ((still_settleHold ..).trans (still_modStall ..)).trans h3

@[simp] theorem still_abortSegment (s : State) (p : Nat → Bool) :
    still (abortSegment s p) = still s := by
  simp only [abortSegment, still_ite, ite_self, still_segFail]

@[simp] theorem still_startReset (i : Nat) (s : State) :
    still (startReset i s) = still s := by
  unfold startReset
  try dsimp only
  (repeat' split) <;> first | with_reducible rfl | simp only [still_abortSegment, still_modStall, still_failStallSlots]

@[simp] theorem still_resetOp (i : Nat) (confirm : W16) (s : State) :
    still (resetOp i confirm s) = still s := by
  simp only [resetOp, still_ite, ite_self, still_startReset]

@[simp] theorem still_execStlReset (stall : Fin 16) (confirm : W16) (s : State) :
    stillO (execStlReset stall confirm s) = some (still s) := by
  simp only [execStlReset, still_mk, still_ite, still_fold, still_foldl, stillO_next, stillO_ite, implies_true, ite_self, still_ownWrite, still_resetOp]

@[simp] theorem still_execStlMgmtReset (stall : Fin 16) (confirm : W16) (s : State) :
    stillO (execStlMgmtReset stall confirm s) = some (still s) := by
  simp only [execStlMgmtReset, stillO_next, implies_true, still_mgmt, still_resetOp, still_addressed]

@[simp] theorem still_clearArray (s : State) (i n : Nat) :
    still (clearArray s i n) = still s := by
  simp only [clearArray, still_ite, ite_self, still_modArr, still_modVec]

@[simp] theorem still_clearCaptures (s : State) (i : Nat) :
    still (clearCaptures s i) = still s := by
  simp only [clearCaptures, still_ite, still_foldl, implies_true, ite_self, still_modCluster]

theorem after_clearStall {w0 : Lasting} (s : State) (i : Nat) (zero : Bool) (h : w0.After (still s)) :
    w0.After (still (clearStall s i zero)) := by
  unfold clearStall
  extract_lets s1 s2 s3 s4 s5 s6 others va vp
  have h1 : still s1 = still s := still_foldl _ (fun _ _ => still_clearArray ..) _ _
  clear_value s1
  have h2 : still s2 = still s1 := still_foldl _ (fun _ _ => still_modCore ..) _ _
  clear_value s2
  have h3 : still s3 = still s2 := still_clearCaptures ..
  clear_value s3
  have h4 : w0.After (still s4) := after_foldl _ (fun _ _ h => after_resetNet _ _ _ h) _ _ (by rw [h3, h2, h1]; exact h)
  clear_value s4
  have h5 : still s5 = still s4 := still_cacheFlushStall ..
  clear_value s5
  have h6 : still s6 = still s5 := by
    refine still_foldl _ (fun s p => ?_) _ _
    split
    · exact still_modTth ..
    · rfl
  clear_value s6
  clear_value va vp
  rw [still_modStall, h6, h5]
  exact h4

@[simp] theorem still_beginLoads (s : State) (i : Nat) :
    still (beginLoads s i) = still s := by
  simp only [beginLoads, still_foldl, implies_true, still_beginLoad]

@[simp] theorem still_journalBad (s : State) (i : Nat) (x : Byte × W16) :
    still (journalBad s i x) = still s := by
  simp only [journalBad, still_stallFault, still_modStall]

theorem after_restoreStall {w0 : Lasting} (s : State) (i : Nat) (bad : Option (Byte × W16)) (hw : w0.After (still s)) :
    w0.After (still (restoreStall s i bad)) := by
  unfold restoreStall
  try dsimp only
  repeat' (first | with_reducible assumption | with_reducible refine afterO_next ?_ | with_reducible apply after_restoreControl | with_reducible refine after_foldl _ (fun _ _ _ => ?_) _ _ ?_ | (simp only [still_journalBad, still_modStall, still_loadReserve]; done) | (simp only [still_mk, still_ite, still_fold, still_foldl, stillO_next, stillO_ite, implies_true, ite_self, still_journalBad, still_modStall, still_loadReserve]; with_reducible assumption) | intro _ _ | split | (simp only [still_mk, still_ite, still_fold, still_foldl, stillO_next, stillO_ite, implies_true, ite_self, still_journalBad, still_modStall, still_loadReserve]))

theorem after_resetStepDone {w0 : Lasting} (s : State) (i : Nat) (bad : Option (Byte × W16)) (hw : w0.After (still s)) :
    w0.After (still (resetStepDone s i bad)) := by
  unfold resetStepDone
  try dsimp only
  repeat' (first | with_reducible assumption | with_reducible refine afterO_next ?_ | with_reducible apply after_clearStall | with_reducible apply after_restoreStall | with_reducible refine after_foldl _ (fun _ _ _ => ?_) _ _ ?_ | (simp only [still_modStall, still_modCore, still_abortStall, still_beginLoads]; done) | (simp only [still_mk, still_ite, still_fold, still_foldl, stillO_next, stillO_ite, implies_true, ite_self, still_modStall, still_modCore, still_abortStall, still_beginLoads]; with_reducible assumption) | intro _ _ | split | (simp only [still_mk, still_ite, still_fold, still_foldl, stillO_next, stillO_ite, implies_true, ite_self, still_modStall, still_modCore, still_abortStall, still_beginLoads]))

theorem after_execStallResetStepDone {w0 : Lasting} (stall : Fin 16) (bad : Option (Byte × W16)) (s : State) (hw : w0.After (still s)) :
    AfterO w0 (execStallResetStepDone stall bad s) := by
  unfold execStallResetStepDone
  try dsimp only
  repeat' (first | with_reducible assumption | with_reducible refine afterO_next ?_ | with_reducible apply after_resetStepDone | with_reducible refine after_foldl _ (fun _ _ _ => ?_) _ _ ?_ | (simp only [still_fold]; done) | (simp only [still_mk, still_ite, still_fold, still_foldl, stillO_next, stillO_ite, implies_true, ite_self, still_fold]; with_reducible assumption) | intro _ _ | split | (simp only [still_mk, still_ite, still_fold, still_foldl, stillO_next, stillO_ite, implies_true, ite_self, still_fold]))

@[simp] theorem still_resumeState (s : State) (i : Nat) :
    still (resumeState s i) = still s := by
  unfold resumeState
  try dsimp only
  (repeat' split) <;> first | with_reducible rfl | simp only [still_modStall, still_settleHold, still_resumeQueues]

@[simp] theorem still_resumeStall (s : State) (i : Nat) :
    still (resumeStall s i) = still s := by
  simp only [resumeStall, still_mk, still_ite, still_fold, still_foldl, stillO_next, stillO_ite, implies_true, ite_self, still_modStall, still_resumeState, still_refreshBacklog, still_evaluateStall]

@[simp] theorem still_execStallResetResume (stall : Fin 16) (s : State) :
    stillO (execStallResetResume stall s) = some (still s) := by
  simp only [execStallResetResume, stillO_next, stillO_ite, ite_self, still_resumeStall]

end Sys2Proof.Machine
end

