-- ==== Sys2Proof/Laws/LastingGrooms.lean ====
section
/-!
SUPPORT. What lasts across each operation and command of Machine/Grooms.lean: `still_x` where operation `x` leaves it all
as it is, `after_x` where it changes it as `Lasting.After` says.
-/
namespace Sys2Proof.Machine

@[simp] theorem still_fullFail (s : State) (image : List Byte) (code : Byte) (index record : Nat) :
    still (fullFail s image code index record) = still s := by
  unfold fullFail
  (repeat' split) <;> first | with_reducible rfl | (simp; done) | simp_all

@[simp] theorem still_groomEvent (s : State) (g : Nat) (failed : Bool) :
    still (groomEvent s g failed) = still s := by
  simp only [groomEvent, still_report]

@[simp] theorem still_groomFailed (s : State) (g : Nat) :
    still (groomFailed s g) = still s := by
  simp only [groomFailed, still_groomEvent, still_modGroom]

@[simp] theorem still_updateEvent (s : State) :
    still (updateEvent s) = still s := by
  simp only [updateEvent, still_report]

@[simp] theorem still_duties (s : State) (g : Nat) :
    still (duties s g) = still s := by
  simp only [duties, still_mk, still_ite, still_fold, ite_self, still_fullFail, still_modAir, still_abortSegment]

@[simp] theorem still_beginRestart (s : State) (g : Nat) (cause : BitVec 4) (slot handover : Bool) :
    still (beginRestart s g cause slot handover) = still s := by
  simp only [beginRestart, still_ite, ite_self, still_groomFailed, still_modGroom, still_report, still_duties]

@[simp] theorem still_rollNext (gs : List Nat) (cause : BitVec 4) (s : State) : still (rollNext gs cause s) = still s := by
  induction gs generalizing cause s with
  | nil => exact still_updateEvent _
  | cons g rest ih =>
    unfold rollNext
    simp only [ih, still_beginRestart, still_modGroom, still_mk, still_ite, still_fold, ite_self]

@[simp] theorem still_rollBack (s : State) (g : Nat) (cause : BitVec 4) :
    still (rollBack s g cause) = still s := by
  simp only [rollBack, still_rollNext]

@[simp] theorem still_faultRestart (s : State) (g : Nat) (cause : BitVec 4) :
    still (faultRestart s g cause) = still s := by
  simp only [faultRestart, still_ite, ite_self, still_rollBack, still_beginRestart]

@[simp] theorem still_execGroomMismatch (g : Fin 4) (s : State) :
    stillO (execGroomMismatch g s) = some (still s) := by
  simp only [execGroomMismatch, stillO_next, stillO_ite, ite_self, still_faultRestart]

@[simp] theorem still_execGroomWatchdog (g : Fin 4) (s : State) :
    stillO (execGroomWatchdog g s) = some (still s) := by
  simp only [execGroomWatchdog, stillO_next, stillO_ite, ite_self, still_faultRestart]

@[simp] theorem still_execGroomMemUe (g : Fin 4) (s : State) :
    stillO (execGroomMemUe g s) = some (still s) := by
  simp only [execGroomMemUe, stillO_next, stillO_ite, ite_self, still_faultRestart]

@[simp] theorem still_groomCmdOp (g : Nat) (confirm : W16) (s : State) :
    still (groomCmdOp g confirm s) = still s := by
  simp only [groomCmdOp, still_mk, still_ite, still_fold, ite_self, still_faultRestart, still_modGroom]

@[simp] theorem still_execGroomRestartCmd (g : Fin 4) (confirm : W16) (s : State) :
    stillO (execGroomRestartCmd g confirm s) = some (still s) := by
  simp only [execGroomRestartCmd, stillO_next, implies_true, still_mgmt, still_groomCmdOp]

@[simp] theorem still_execComparatorTest (g : Fin 4) (reported : Bool) (s : State) :
    stillO (execComparatorTest g reported s) = some (still s) := by
  simp only [execComparatorTest, still_ite, stillO_next, stillO_ite, ite_self, still_modGroom, still_pushEvent, still_report]

@[simp] theorem still_updateStep (s : State) (g : Nat) :
    still (updateStep s g) = still s := by
  simp only [updateStep, still_mk, still_ite, still_fold, ite_self, still_beginRestart, still_rollBack]

@[simp] theorem still_rollOn (was s : State) (g : Nat) : still (rollOn was s g) = still s := by
  simp only [rollOn, still_rollNext, still_ite, ite_self]

@[simp] theorem still_groomResumes (s : State) (g : Nat) :
    still (groomResumes s g) = still s := by
  simp only [groomResumes, still_mk, still_ite, still_fold, still_foldl, stillO_next, stillO_ite, implies_true, ite_self, still_groomEvent, still_modGroom, still_grantFreed, still_raiseSource, still_modAir, still_resumeQueues]

@[simp] theorem still_execGroomRestartStepDone (g : Fin 4) (ok : Bool) (s : State) :
    stillO (execGroomRestartStepDone g ok s) = some (still s) := by
  simp only [execGroomRestartStepDone, stillO_next, stillO_ite, ite_self, still_modGroom, still_rollBack, still_rollOn, still_report, still_groomFailed, still_groomResumes]

@[simp] theorem still_grmBusy (s : State) (stage : Bool) :
    still (grmBusy s stage) = still s := by
  simp only [grmBusy, still_mk, still_ite, still_fold, still_foldl, stillO_next, stillO_ite, implies_true, ite_self, still_updateEvent]

@[simp] theorem still_stageOp (s : State) :
    still (stageOp s) = still s := by
  simp only [stageOp, still_mk, still_ite, still_fold, still_foldl, stillO_next, stillO_ite, implies_true, ite_self, still_grmBusy, still_hostRead]

@[simp] theorem still_execGrmStage (s : State) :
    stillO (execGrmStage s) = some (still s) := by
  simp only [execGrmStage, stillO_next, implies_true, still_mgmt, still_stageOp]

@[simp] theorem still_execGrmStageDone (image : GroomImage) (s : State) :
    stillO (execGrmStageDone image s) = some (still s) := by
  simp only [execGrmStageDone, still_mk, still_fold, stillO_next, stillO_ite, ite_self, still_updateEvent]

@[simp] theorem still_applyOp (s : State) :
    still (applyOp s) = still s := by
  simp only [applyOp, still_mk, still_ite, still_fold, still_foldl, stillO_next, stillO_ite, implies_true, ite_self, still_grmBusy, still_updateStep, still_modGroom]

@[simp] theorem still_execGrmApply (s : State) :
    stillO (execGrmApply s) = some (still s) := by
  simp only [execGrmApply, stillO_next, implies_true, still_mgmt, still_applyOp]

@[simp] theorem still_execUpdateStepTimer (s : State) :
    stillO (execUpdateStepTimer s) = some (still s) := by
  simp only [execUpdateStepTimer, still_mk, still_fold, stillO_next, stillO_ite, ite_self, still_updateEvent, still_updateStep]

@[simp] theorem still_grmAbortOp (s : State) :
    still (grmAbortOp s) = still s := by
  simp only [grmAbortOp, still_mk, still_ite, still_fold, ite_self, still_updateEvent]

@[simp] theorem still_execGrmAbort (s : State) :
    stillO (execGrmAbort s) = some (still s) := by
  simp only [execGrmAbort, stillO_next, implies_true, still_mgmt, still_grmAbortOp]

theorem after_grmFloorOp {w0 : Lasting} (s : State) (h : w0.After (still s)) : w0.After (still (grmFloorOp s)) := by
  refine ⟨⟨h.fit.mem, h.fit.burn⟩, h.pending, h.present, h.burned, h.revoked, h.hash0, h.hash1, h.hnsFloor, le_trans h.grmFloor ?_⟩
  unfold grmFloorOp still
  dsimp only
  split <;> omega

theorem after_execGrmRaiseFloor {w0 : Lasting} (s : State) (hw : w0.After (still s)) :
    AfterO w0 (execGrmRaiseFloor s) := by
  unfold execGrmRaiseFloor
  try dsimp only
  repeat' (first | with_reducible assumption | with_reducible refine afterO_next ?_ | with_reducible apply after_mgmt | with_reducible apply after_grmFloorOp | with_reducible refine after_foldl _ (fun _ _ _ => ?_) _ _ ?_ | (simp only [still_mk, still_ite, still_fold, still_foldl, stillO_next, stillO_ite, implies_true, ite_self, still_mgmt]; done) | (simpa only [still_mk, still_ite, still_fold, still_foldl, stillO_next, stillO_ite, implies_true, ite_self, still_mgmt] using hw) | split | (simp only [still_mk, still_ite, still_fold, still_foldl, stillO_next, stillO_ite, implies_true, ite_self, still_mgmt]))

@[simp] theorem still_budgetOp (value : W64) (s : State) :
    still (budgetOp value s) = still s := by
  simp only [budgetOp, still_mk, still_ite, still_fold, ite_self]

@[simp] theorem still_execPwrBudgetWrite (value : W64) (s : State) :
    stillO (execPwrBudgetWrite value s) = some (still s) := by
  simp only [execPwrBudgetWrite, stillO_next, implies_true, still_mgmt, still_budgetOp]

@[simp] theorem still_execPmbusPoll (rails : List RailReading) (tj : Byte) (ts : Byte) (s : State) :
    stillO (execPmbusPoll rails tj ts s) = some (still s) := by
  simp only [execPmbusPoll, still_mk, still_ite, still_fold, still_foldl, stillO_next, stillO_ite, implies_true, ite_self, still_fold]

@[simp] theorem still_execRailNoAnswer (rail : Fin 8) (s : State) :
    stillO (execRailNoAnswer rail s) = some (still s) := by
  simp only [execRailNoAnswer, still_mk, still_fold, stillO_next, stillO_ite, ite_self, still_report]

@[simp] theorem still_execThrottleEnter (sensor temp : Byte) (s : State) :
    stillO (execThrottleEnter sensor temp s) = some (still s) := by
  simp only [execThrottleEnter, still_mk, still_fold, stillO_next, stillO_ite, ite_self, still_report]

@[simp] theorem still_execThrottleEnd (s : State) :
    stillO (execThrottleEnd s) = some (still s) := by
  simp only [execThrottleEnd, still_mk, still_ite, still_fold, still_foldl, stillO_next, stillO_ite, implies_true, ite_self, still_voidWhen]

@[simp] theorem still_stopLink (s : State) (g : Nat) :
    still (stopLink s g) = still s := by
  simp only [stopLink, still_modGirth, still_silencePort, still_linkLost, still_candUpdate]

@[simp] theorem still_execTrip (cause : BitVec 4) (sensor : Byte) (value : W16) (s : State) :
    stillO (execTrip cause sensor value s) = some (still s) := by
  simp only [execTrip, still_mk, still_fold, stillO_next, stillO_ite, ite_self, still_stopLink, still_report]

end Sys2Proof.Machine
end

