-- ==== Sys2Proof/Laws/LastingApply.lean ====
section
/-!
SUPPORT. What lasts across each operation and command of Machine/Apply.lean: `still_x` where operation `x` leaves it all
as it is, `after_x` where it changes it as `Lasting.After` says.
-/
namespace Sys2Proof.Machine

theorem after_zeroMoved {w0 : Lasting} (s : State) (old new : Harness) (h : w0.After (still s)) :
    w0.After (still (zeroMoved s old new)) := h.hbm _ (twf_sublist h.fit.mem List.filter_sublist)

@[simp] theorem still_standingFaults (s : State) (i : Nat) :
    still (standingFaults s i) = still s := by
  simp only [standingFaults, still_ite, still_foldl, implies_true, ite_self, still_stallFault]

theorem after_openStall {w0 : Lasting} (s : State) (i : Nat) (bad : Option (Byte × W16)) (hw : w0.After (still s)) :
    w0.After (still (openStall s i bad)) := by
  unfold openStall
  try dsimp only
  repeat' (first | with_reducible assumption | with_reducible refine afterO_next ?_ | with_reducible apply after_restoreControl | with_reducible refine after_foldl _ (fun _ _ _ => ?_) _ _ ?_ | (simp only [still_modStall, still_journalBad, still_initControl, still_standingFaults, still_resumeState]; done) | (simp only [still_mk, still_ite, still_fold, still_foldl, stillO_next, stillO_ite, implies_true, ite_self, still_modStall, still_journalBad, still_initControl, still_standingFaults, still_resumeState]; with_reducible assumption) | intro _ _ | split | (simp only [still_mk, still_ite, still_fold, still_foldl, stillO_next, stillO_ite, implies_true, ite_self, still_modStall, still_journalBad, still_initControl, still_standingFaults, still_resumeState]))

theorem after_openStalls {w0 : Lasting} (s : State) (bad : List (Fin 16 × Byte × W16)) (hw : w0.After (still s)) :
    w0.After (still (openStalls s bad)) := by
  unfold openStalls
  try dsimp only
  repeat' (first | with_reducible assumption | with_reducible refine afterO_next ?_ | with_reducible apply after_openStall | with_reducible refine after_foldl _ (fun _ _ _ => ?_) _ _ ?_ | (simp only [still_fold]; done) | (simp only [still_mk, still_ite, still_fold, still_foldl, stillO_next, stillO_ite, implies_true, ite_self, still_fold]; with_reducible assumption) | intro _ _ | split | (simp only [still_mk, still_ite, still_fold, still_foldl, stillO_next, stillO_ite, implies_true, ite_self, still_fold]))

@[simp] theorem still_setTokens (s : State) (n : Nat) :
    still (setTokens s n) = still s := by
  unfold setTokens
  try dsimp only
  (repeat' split) <;> first | with_reducible rfl | simp only [still_modArr]

@[simp] theorem still_openArrays (s : State) :
    still (openArrays s) = still s := by
  simp only [openArrays, still_ite, still_foldl, implies_true, ite_self, still_setTokens, still_modArr]

@[simp] theorem still_loadReserves (s : State) :
    still (loadReserves s) = still s := by
  simp only [loadReserves, still_ite, still_foldl, implies_true, ite_self, still_loadReserve]

@[simp] theorem still_setClocks (s : State) :
    still (setClocks s) = still s := by
  simp only [setClocks, still_mk, still_fold, still_foldl, implies_true, still_modVec, still_modArr, still_modPath, still_modCluster, still_settleRails]

@[simp] theorem still_openCarrier (s : State) (c : Nat) :
    still (openCarrier s c) = still s := by
  unfold openCarrier
  try dsimp only
  (repeat' split) <;> first | with_reducible rfl | simp only [still_modCarrier]

@[simp] theorem still_openCarriers (s : State) :
    still (openCarriers s) = still s := by
  simp only [openCarriers, still_foldl, implies_true, still_openCarrier]

@[simp] theorem still_setDetectors (s : State) (swap : Option Nat) (p : Nat → Bool) :
    still (setDetectors s swap p) = still s := by
  simp only [setDetectors, still_mk, still_ite, still_fold, still_foldl, stillO_next, stillO_ite, implies_true, ite_self, still_modDet]

@[simp] theorem still_standingLosses (s : State) (i : Nat) :
    still (standingLosses s i) = still s := by
  unfold standingLosses
  try dsimp only
  repeat' (first | with_reducible rfl | (simp only [still_evaluateStall, still_loseUnit]; done) | with_reducible refine (still_foldl _ (fun s x => ?_) _ _).trans ?_ | split | (simp only [still_mk, still_ite, still_fold, still_foldl, stillO_next, stillO_ite, implies_true, ite_self, still_evaluateStall, still_loseUnit]))

@[simp] theorem still_coverLosses (s : State) (i : Nat) :
    still (coverLosses s i) = still s := by
  simp only [coverLosses, still_mk, still_ite, still_fold, still_foldl, stillO_next, stillO_ite, implies_true, ite_self, still_standingLosses, still_applyRemap, still_modStall]

@[simp] theorem still_coverSegment (s : State) (i : Nat) :
    still (coverSegment s i) = still s := by
  simp only [coverSegment, still_mk, still_ite, still_fold, still_foldl, stillO_next, stillO_ite, implies_true, ite_self, still_swapPoint, still_standingLosses]

@[simp] theorem still_renumberSchool (s : State) (old : Harness) :
    still (renumberSchool s old) = still s := by
  simp only [renumberSchool, still_mk, still_fold]

theorem after_prepareSchool {w0 : Lasting} (s : State) (p : Nat → Bool) (hw : w0.After (still s)) :
    w0.After (still (prepareSchool s p)) := by
  unfold prepareSchool
  try dsimp only
  repeat' (first | with_reducible assumption | with_reducible refine afterO_next ?_ | with_reducible apply after_reinitNet | with_reducible refine after_foldl _ (fun _ _ _ => ?_) _ _ ?_ | (simp only [still_ite]; done) | (simpa only [still_mk, still_ite, still_fold, still_foldl, stillO_next, stillO_ite, implies_true, ite_self] using hw) | split | (simp only [still_mk, still_ite, still_fold, still_foldl, stillO_next, stillO_ite, implies_true, ite_self]))

theorem after_applyHarness {w0 : Lasting} (s : State) (h : Harness) (bad : List (Fin 16 × Byte × W16)) (school : State → State)
    (hs : ∀ s, w0.After (still s) → w0.After (still (school s))) (hw : w0.After (still s)) :
    w0.After (still (applyHarness s h bad school)) := by
  unfold applyHarness
  extract_lets g s1 s2 s3 s4 s5 s6 s7 s8 s9
  have h2 : still s2 = still s := still_modAir ..
  clear_value s2
  have h3 : still s3 = still s2 := (still_openCarriers ..).trans ((still_openArrays ..).trans (still_setClocks ..))
  clear_value s3
  have h4 : still s4 = still s3 := still_setDetectors ..
  clear_value s4
  have h5 : w0.After (still s5) := after_openStalls _ _ (by rw [h4, h3, h2]; exact hw)
  clear_value s5
  have h6 : still s6 = still s5 := still_foldl _ (fun _ _ => still_coverLosses ..) _ _
  clear_value s6
  have h7 : w0.After (still s7) := hs _ (by rw [h6]; exact h5)
  clear_value s7
  have h8 : still s8 = still s7 := still_loadReserves ..
  clear_value s8
  have h9 : still s9 = still s8 := still_foldl _ (fun _ _ => still_beginLoads ..) _ _
  clear_value s9
  have h10 : w0.After (still s9) := by rw [h9, h8]; exact h7
  exact h10

@[simp] theorem still_imageRegs (s : State) (image : List Byte) (dropped : Nat) (kind : Byte) :
    still (imageRegs s image dropped kind) = still s := by
  simp only [imageRegs, still_mk, still_fold]

@[simp] theorem still_startEngines (s : State) :
    still (startEngines s) = still s := by
  simp only [startEngines, still_foldl, implies_true, still_resetCursors, still_seedEngine]

theorem after_acceptFirst {w0 : Lasting} (s : State) (image : List Byte) (h : Harness) (dropped : Nat) (bad : List (Fin 16 × Byte × W16)) (hw : w0.After (still s)) :
    w0.After (still (acceptFirst s image h dropped bad)) := by
  unfold acceptFirst
  try dsimp only
  repeat' (first | with_reducible assumption | with_reducible refine afterO_next ?_ | with_reducible apply after_applyHarness | with_reducible apply after_prepareSchool | with_reducible refine after_foldl _ (fun _ _ _ => ?_) _ _ ?_ | (simp only [still_imageRegs, still_startEngines, still_startPort, still_modAir, still_loadEvent, still_evaluateRef]; done) | (simp only [still_mk, still_ite, still_fold, still_foldl, stillO_next, stillO_ite, implies_true, ite_self, still_imageRegs, still_startEngines, still_startPort, still_modAir, still_loadEvent, still_evaluateRef]; with_reducible assumption) | intro _ _ | split | (simp only [still_mk, still_ite, still_fold, still_foldl, stillO_next, stillO_ite, implies_true, ite_self, still_imageRegs, still_startEngines, still_startPort, still_modAir, still_loadEvent, still_evaluateRef]))

end Sys2Proof.Machine
end

