-- ==== Sys2Proof/Laws/LastingLoader.lean ====
section
/-!
SUPPORT. What lasts across each operation and command of Machine/Loader.lean: `still_x` where operation `x` leaves it all
as it is, `after_x` where it changes it as `Lasting.After` says.
-/
namespace Sys2Proof.Machine

@[simp] theorem still_tripEnd (s : State) :
    still (tripEnd s) = still s := by
  simp only [tripEnd, still_mk, still_ite, still_fold, still_foldl, stillO_next, stillO_ite, implies_true, ite_self, still_raiseSource]

@[simp] theorem still_warmRequest (s : State) (cause : BitVec 3) :
    still (warmRequest s cause) = still s := by
  simp only [warmRequest, still_mk, still_ite, still_fold, still_foldl, stillO_next, stillO_ite, implies_true, ite_self, still_fullFail, still_abortSegment, still_tripEnd]

@[simp] theorem still_refuseLoad (s : State) (code kind : Byte) :
    still (refuseLoad s code kind) = still s := by
  simp only [refuseLoad, still_loadEvent, still_setErr, still_drew]

@[simp] theorem still_readImage (s : State) :
    still (readImage s) = still s := by
  simp only [readImage, still_mk, still_ite, still_fold, still_foldl, stillO_next, stillO_ite, implies_true, ite_self, still_hostRead]

/-- A new loader record keeps what lasts where it keeps the burn and the floor. -/
theorem still_loader (s t : State) (h : still t = still s) (l : Loader) (hb : l.burning = s.loader.burning) (hf : l.floor = s.loader.floor) :
    still { t with loader := l } = still s := by
  simp only [still, Lasting.mk.injEq] at h ⊢
  obtain ⟨h1, h2, h3, h4, h5, h6, h7, -, -, h10⟩ := h
  exact ⟨h1, h2, h3, h4, h5, h6, h7, hb, hf, h10⟩

@[simp] theorem still_loadCmd (replace : Bool) (s : State) :
    still (loadCmd replace s) = still s := by
  suffices h : ∀ t : State, still t = still s → still (if loaderBusy t then refuseLoad t 0x22 1
      else if t.accepted && !replace then refuseLoad t 0x1B 1
      else if t.fuses.burned = 0 then refuseLoad t 0x09 1
      else if loaderDead t then refuseLoad t 0x19 1
      else { readImage t with loader := { t.loader with job := some { segment := false, replace := replace && t.accepted }, state := 1 } })
        = still s from h { s with loader := { s.loader with replace := replace } } rfl
  intro t ht
  have hr := (still_loader t _ (still_readImage t) { t.loader with job := some { segment := false, replace := replace && t.accepted }, state := 1 } rfl rfl).trans ht
  simp only [still_ite, still_refuseLoad, ht, hr, ite_self]

@[simp] theorem still_execHnsLoad (replace : Bool) (s : State) :
    stillO (execHnsLoad replace s) = some (still s) := by
  simp only [execHnsLoad, stillO_next, still_mgmtEarly _ (still_loadCmd replace)]

theorem after_fullLoad {w0 : Lasting} (s : State) (replace : Bool) (readFault : Bool) (regionErr : Bool) (image : List Byte) (bad : List (Fin 16 × Byte × W16)) (hw : w0.After (still s)) :
    w0.After (still (fullLoad s replace readFault regionErr image bad)) := by
  unfold fullLoad
  try dsimp only
  repeat' (first | with_reducible assumption | with_reducible refine afterO_next ?_ | with_reducible apply after_acceptFirst | with_reducible refine after_foldl _ (fun _ _ _ => ?_) _ _ ?_ | (simp only [still_fullFail, still_warmRequest]; done) | (simp only [still_mk, still_ite, still_fold, still_foldl, stillO_next, stillO_ite, implies_true, ite_self, still_fullFail, still_warmRequest]; with_reducible assumption) | intro _ _ | split | (simp only [still_mk, still_ite, still_fold, still_foldl, stillO_next, stillO_ite, implies_true, ite_self, still_fullFail, still_warmRequest]))

theorem after_execHarnessAccepted {w0 : Lasting} (readFault : Bool) (regionErr : Bool) (slotErr : BitVec 2) (image : List Byte) (bad : List (Fin 16 × Byte × W16)) (s : State) (hw : w0.After (still s)) :
    AfterO w0 (execHarnessAccepted readFault regionErr slotErr image bad s) := by
  unfold execHarnessAccepted
  try dsimp only
  repeat' (first | with_reducible assumption | with_reducible refine afterO_next ?_ | with_reducible apply after_fullLoad | with_reducible refine after_foldl _ (fun _ _ _ => ?_) _ _ ?_ | (simp only [still_slotDamaged]; done) | (simp only [still_mk, still_ite, still_fold, still_foldl, stillO_next, stillO_ite, implies_true, ite_self, still_slotDamaged]; with_reducible assumption) | intro _ _ | split | (simp only [still_mk, still_ite, still_fold, still_foldl, stillO_next, stillO_ite, implies_true, ite_self, still_slotDamaged]))

@[simp] theorem still_segCmd (stall : BitVec 4) (s : State) :
    still (segCmd stall s) = still s := by
  unfold segCmd
  split
  · exact still_refuseLoad ..
  · split
    · exact still_refuseLoad ..
    · exact still_loader s _ (still_readImage s) _ rfl rfl

@[simp] theorem still_execHnsLoadSeg (s : State) (stall : Fin 16) :
    stillO (execHnsLoadSeg s stall) = some (still s) := by
  simp only [execHnsLoadSeg, still_mk, still_ite, still_fold, still_foldl, stillO_next, stillO_ite, implies_true, ite_self, still_mgmtEarly, still_segCmd]

@[simp] theorem still_segValid (s : State) (image : List Byte) (h : Harness) :
    still (segValid s image h) = still s := by
  simp only [segValid, still_mk, still_fold, still_foldl, implies_true, still_modCore]

@[simp] theorem still_execSegmentValidated (readFault regionErr : Bool) (slotErr : BitVec 2) (image : List Byte) (s : State) :
    stillO (execSegmentValidated readFault regionErr slotErr image s) = some (still s) := by
  unfold execSegmentValidated
  try dsimp only
  (repeat' split) <;> first | with_reducible rfl | simp only [still_mk, still_fold, stillO_next, still_slotDamaged, still_segFail, still_segValid]

@[simp] theorem still_armSwap (s : State) (lead span : Nat) :
    still (armSwap s lead span) = still s := by
  unfold armSwap
  try dsimp only
  (repeat' split) <;> first | with_reducible rfl | simp only [still_mk, still_fold, still_modAir, still_settleHold, still_modStall]

@[simp] theorem still_execSegmentEdited (s : State) :
    stillO (execSegmentEdited s) = some (still s) := by
  unfold execSegmentEdited
  try dsimp only
  (repeat' split) <;> first | with_reducible rfl | simp only [still_mk, still_fold, stillO_next, still_segFail, still_modAir, still_armSwap]

@[simp] theorem still_execSegmentNoSwapPoint (s : State) :
    stillO (execSegmentNoSwapPoint s) = some (still s) := by
  simp only [execSegmentNoSwapPoint, stillO_next, stillO_ite, ite_self, still_segFail]

@[simp] theorem still_suppressGait (s : State) (i : Nat) (old : Harness) (off : Nat) :
    still (suppressGait s i old off) = still s := by
  simp only [suppressGait, still_modAir]

@[simp] theorem still_swapCoreOwner (s : State) (old : Harness) (i : Nat) (n : Nat) (at_ : Nat) :
    still (swapCoreOwner s old i n at_) = still s := by
  unfold swapCoreOwner
  try dsimp only
  (repeat' split) <;> first | with_reducible rfl | simp only [still_flipCore, still_refreshPreload, still_bank0Loaded, still_modCore]

@[simp] theorem still_gainWays (s : State) (old : Harness) (i : Nat) :
    still (gainWays s old i) = still s := by
  simp only [gainWays, still_mk, still_ite, still_fold, ite_self]

@[simp] theorem still_leaveOwned (s : State) (i : Nat) :
    still (leaveOwned s i) = still s := by
  simp only [leaveOwned, still_ite, still_foldl, implies_true, ite_self, still_displaceRun]

@[simp] theorem still_moveCarriers (s : State) (old : Harness) (i : Nat) :
    still (moveCarriers s old i) = still s := by
  unfold moveCarriers
  try dsimp only
  repeat' (first | with_reducible rfl | (simp only [still_ite, ite_self, still_modCarrier, still_openCarrier]; done) | with_reducible refine (still_foldl _ (fun s x => ?_) _ _).trans ?_ | split | (simp only [still_mk, still_ite, still_fold, still_foldl, stillO_next, stillO_ite, implies_true, ite_self, still_modCarrier, still_openCarrier]))

theorem after_swapSchool {w0 : Lasting} (s : State) (old : Harness) (i : Nat) (hw : w0.After (still s)) :
    w0.After (still (swapSchool s old i)) := by
  unfold swapSchool
  try dsimp only
  repeat' (first | with_reducible assumption | with_reducible refine afterO_next ?_ | with_reducible apply after_prepareSchool | with_reducible refine after_foldl _ (fun _ _ _ => ?_) _ _ ?_ | (simp only [still_ite, ite_self, still_renumberSchool, still_endCandidate]; done) | (simpa only [still_mk, still_ite, still_fold, still_foldl, stillO_next, stillO_ite, implies_true, ite_self, still_renumberSchool, still_endCandidate] using hw) | split | (simp only [still_endCandidate]))

@[simp] theorem still_reloadOf (s : State) (old : Harness) (was : State) :
    still (reloadOf s old was) = still s := by
  simp only [reloadOf, still_ite, still_foldl, implies_true, ite_self, still_modArr, still_loadReserve]

theorem after_applyNets {w0 : Lasting} (s : State) (x : NetNext) (hw : w0.After (still s)) :
    w0.After (still (applyNets s x)) := by
  unfold applyNets
  try dsimp only
  repeat' (first | with_reducible assumption | with_reducible refine afterO_next ?_ | with_reducible apply after_swapSchool | with_reducible refine after_foldl _ (fun _ _ _ => ?_) _ _ ?_ | (simp only [still_reloadOf, still_moveCarriers]; done) | (simp only [still_mk, still_ite, still_fold, still_foldl, stillO_next, stillO_ite, implies_true, ite_self, still_reloadOf, still_moveCarriers]; with_reducible assumption) | intro _ _ | split | (simp only [still_mk, still_ite, still_fold, still_foldl, stillO_next, stillO_ite, implies_true, ite_self, still_reloadOf, still_moveCarriers]))

theorem after_settleNets {w0 : Lasting} (s : State) (hw : w0.After (still s)) :
    w0.After (still (settleNets s)) := by
  unfold settleNets
  try dsimp only
  repeat' (first | with_reducible assumption | with_reducible refine afterO_next ?_ | with_reducible apply after_applyNets | with_reducible refine after_foldl _ (fun _ _ _ => ?_) _ _ ?_ | (simp only [still_fold]; done) | (simp only [still_mk, still_ite, still_fold, still_foldl, stillO_next, stillO_ite, implies_true, ite_self, still_fold]; with_reducible assumption) | intro _ _ | split | (simp only [still_mk, still_ite, still_fold, still_foldl, stillO_next, stillO_ite, implies_true, ite_self, still_fold]))

theorem after_swapSegment {w0 : Lasting} (s : State) (h : Harness) (at_ : Nat) (off : Nat) (hw : w0.After (still s)) :
    w0.After (still (swapSegment s h at_ off)) := by
  unfold swapSegment
  try dsimp only
  repeat' (first | with_reducible assumption | with_reducible refine afterO_next ?_ | with_reducible apply after_settleNets | with_reducible refine after_foldl _ (fun _ _ _ => ?_) _ _ ?_ | (simp only [still_suppressGait, still_expireBatches, still_modStall, still_gainWays, still_leaveOwned, still_setTokens, still_setDetectors, still_coverSegment, still_reloadOf, still_swapCoreOwner, still_settleHold, still_loadEvent, still_refreshBacklog]; done) | (simp only [still_mk, still_ite, still_fold, still_foldl, stillO_next, stillO_ite, implies_true, ite_self, still_suppressGait, still_expireBatches, still_modStall, still_gainWays, still_leaveOwned, still_setTokens, still_setDetectors, still_coverSegment, still_reloadOf, still_swapCoreOwner, still_settleHold, still_loadEvent, still_refreshBacklog]; with_reducible assumption) | intro _ _ | split | (simp only [still_mk, still_ite, still_fold, still_foldl, stillO_next, stillO_ite, implies_true, ite_self, still_suppressGait, still_expireBatches, still_modStall, still_gainWays, still_leaveOwned, still_setTokens, still_setDetectors, still_coverSegment, still_reloadOf, still_swapCoreOwner, still_settleHold, still_loadEvent, still_refreshBacklog]))

theorem after_segSwap {w0 : Lasting} (s : State) (h : Harness) (at_ : Nat) (off : Nat) (hw : w0.After (still s)) :
    w0.After (still (segSwap s h at_ off)) := by
  unfold segSwap
  try dsimp only
  repeat' (first | with_reducible assumption | with_reducible refine afterO_next ?_ | with_reducible apply after_swapSegment | with_reducible refine after_foldl _ (fun _ _ _ => ?_) _ _ ?_ | (simp only [still_segFail, still_modAir, still_armSwap]; done) | (simp only [still_mk, still_ite, still_fold, still_foldl, stillO_next, stillO_ite, implies_true, ite_self, still_segFail, still_modAir, still_armSwap]; with_reducible assumption) | intro _ _ | split | (simp only [still_mk, still_ite, still_fold, still_foldl, stillO_next, stillO_ite, implies_true, ite_self, still_segFail, still_modAir, still_armSwap]))

theorem after_execStallSwap {w0 : Lasting} (stall : Fin 16) (s : State) (hw : w0.After (still s)) :
    AfterO w0 (execStallSwap stall s) := by
  unfold execStallSwap
  try dsimp only
  repeat' (first | with_reducible assumption | with_reducible refine afterO_next ?_ | with_reducible apply after_segSwap | with_reducible refine after_foldl _ (fun _ _ _ => ?_) _ _ ?_ | (exact (takeAct_still (by assumption)) ▸ hw) | (simp only [still_swapPoint]; exact (takeAct_still (by assumption)) ▸ hw) | (simp only [still_swapPoint]; done) | (simp only [still_mk, still_ite, still_fold, still_foldl, stillO_next, stillO_ite, implies_true, ite_self, still_swapPoint]; with_reducible assumption) | intro _ _ | split | (simp only [still_mk, still_ite, still_fold, still_foldl, stillO_next, stillO_ite, implies_true, ite_self, still_swapPoint]))

@[simp] theorem still_loadAbort (s : State) :
    still (loadAbort s) = still s := by
  simp only [loadAbort, still_ite, ite_self, still_fullFail, still_segFail]

@[simp] theorem still_execHnsAbort (s : State) :
    stillO (execHnsAbort s) = some (still s) := by
  simp only [execHnsAbort, still_mk, still_ite, still_fold, still_foldl, stillO_next, stillO_ite, implies_true, ite_self, still_mgmtEarly, still_loadAbort]

theorem after_floorOp {w0 : Lasting} (s : State) (h : w0.After (still s)) : w0.After (still (floorOp s)) := by
  refine ⟨⟨h.fit.mem, h.fit.burn⟩, h.pending, h.present, h.burned, h.revoked, h.hash0, h.hash1, le_trans h.hnsFloor ?_, h.grmFloor⟩
  unfold floorOp still
  dsimp only
  split <;> omega

theorem after_execHnsRaiseFloor {w0 : Lasting} (s : State) (hw : w0.After (still s)) :
    AfterO w0 (execHnsRaiseFloor s) := by
  unfold execHnsRaiseFloor
  try dsimp only
  repeat' (first | with_reducible assumption | with_reducible refine afterO_next ?_ | with_reducible apply after_mgmtEarly | with_reducible apply after_floorOp | with_reducible refine after_foldl _ (fun _ _ _ => ?_) _ _ ?_ | (simp only [still_mgmtEarly]; done) | (simp only [still_mk, still_ite, still_fold, still_foldl, stillO_next, stillO_ite, implies_true, ite_self, still_mgmtEarly]; with_reducible assumption) | intro _ _ | split | (simp only [still_mk, still_ite, still_fold, still_foldl, stillO_next, stillO_ite, implies_true, ite_self, still_mgmtEarly]))

theorem after_burnOp {w0 : Lasting} (slot : Nat) (confirm : W16) (s : State) (h : w0.After (still s)) :
    w0.After (still (burnOp slot confirm s)) := by
  unfold burnOp; split
  · refine ⟨⟨h.fit.mem, ?_⟩, h.pending, h.present, h.burned, h.revoked, h.hash0, h.hash1, h.hnsFloor, h.grmFloor⟩
    intro k x hx
    obtain ⟨rfl, -⟩ := Prod.mk.inj (Option.some.inj hx)
    rename_i hc; exact hc.2.1
  · exact h

theorem after_execKeyBurn {w0 : Lasting} (slot : Fin 2) (confirm : W16) (s : State) (hw : w0.After (still s)) :
    AfterO w0 (execKeyBurn slot confirm s) := by
  unfold execKeyBurn
  try dsimp only
  repeat' (first | with_reducible assumption | with_reducible refine afterO_next ?_ | with_reducible apply after_mgmtEarly | with_reducible apply after_burnOp | with_reducible refine after_foldl _ (fun _ _ _ => ?_) _ _ ?_ | (simp only [still_mgmtEarly]; done) | (simp only [still_mk, still_ite, still_fold, still_foldl, stillO_next, stillO_ite, implies_true, ite_self, still_mgmtEarly]; with_reducible assumption) | intro _ _ | split | (simp only [still_mk, still_ite, still_fold, still_foldl, stillO_next, stillO_ite, implies_true, ite_self, still_mgmtEarly]))

theorem after_execKeyBurnDone {w0 : Lasting} (s : State) (h : w0.After (still s)) : AfterO w0 (execKeyBurnDone s) := by
  unfold execKeyBurnDone; split
  · rename_i k x hb
    have hk := h.fit.burn k x hb
    refine afterO_next ⟨⟨h.fit.mem, fun _ _ hx => by cases hx⟩, h.pending, h.present,
      fun j hj => setBit_mono _ _ _ (h.burned j hj), h.revoked, fun h0 => ?_, fun h1 => ?_, h.hnsFloor, h.grmFloor⟩
    · have hne : k ≠ 0 := fun hc => by
        have h1 := h.burned 0 h0
        rw [hc, h1] at hk; cases hk
      show (if k = 0 then x else s.fuses.hash0) = _
      rw [if_neg hne]; exact h.hash0 h0
    · have hne : k ≠ 1 := fun hc => by
        have h2 := h.burned 1 h1
        rw [hc, h2] at hk; cases hk
      show (if k = 1 then x else s.fuses.hash1) = _
      rw [if_neg hne]; exact h.hash1 h1
  · exact afterO_next h

theorem after_revokeOp {w0 : Lasting} (slot : Nat) (s : State) (h : w0.After (still s)) :
    w0.After (still (revokeOp slot s)) := by
  unfold revokeOp; split
  · exact h
  · exact ⟨⟨h.fit.mem, h.fit.burn⟩, h.pending, h.present, h.burned, fun k hk => setBit_mono _ _ _ (h.revoked k hk), h.hash0, h.hash1,
      h.hnsFloor, h.grmFloor⟩

theorem after_execKeyRevoke {w0 : Lasting} (slot : Fin 2) (s : State) (hw : w0.After (still s)) :
    AfterO w0 (execKeyRevoke slot s) := by
  unfold execKeyRevoke
  try dsimp only
  repeat' (first | with_reducible assumption | with_reducible refine afterO_next ?_ | with_reducible apply after_mgmtEarly | with_reducible apply after_revokeOp | with_reducible refine after_foldl _ (fun _ _ _ => ?_) _ _ ?_ | (simp only [still_mgmtEarly]; done) | (simp only [still_mk, still_ite, still_fold, still_foldl, stillO_next, stillO_ite, implies_true, ite_self, still_mgmtEarly]; with_reducible assumption) | intro _ _ | split | (simp only [still_mk, still_ite, still_fold, still_foldl, stillO_next, stillO_ite, implies_true, ite_self, still_mgmtEarly]))

end Sys2Proof.Machine
end

