-- ==== Sys2Proof/Laws/LastingTrail.lean ====
section
/-!
SUPPORT. What lasts across each operation and command of Machine/Trail.lean: `still_x` where operation `x` leaves it all
as it is, `after_x` where it changes it as `Lasting.After` says.
-/
namespace Sys2Proof.Machine

@[simp] theorem still_setLast (s : State) (code : W16) (entry : W32) (lost : Bool) :
    still (setLast s code entry lost) = still s := by
  simp only [setLast, still_mk, still_ite, still_fold, ite_self]

@[simp] theorem still_stopTrail (s : State) :
    still (stopTrail s) = still s := by
  simp only [stopTrail, still_mk, still_fold, still_raiseSource]

@[simp] theorem still_recordEvent (s : State) (e : Event) :
    still (recordEvent s e) = still s := by
  unfold recordEvent
  try dsimp only
  (repeat' split) <;> first | with_reducible rfl | simp only [still_mk, still_fold, still_setLast, still_stopTrail, still_raiseSource]

@[simp] theorem still_trailWrite (s : State) :
    still (trailWrite s) = still s := by
  unfold trailWrite
  try dsimp only
  (repeat' split) <;> first | with_reducible rfl | simp only [still_mk, still_fold, still_recordEvent]

@[simp] theorem still_trailUe (s : State) (slot : Nat) :
    still (trailUe s slot) = still s := by
  simp only [trailUe, still_mk, still_ite, still_fold, still_foldl, stillO_next, stillO_ite, implies_true, ite_self, still_fold]

@[simp] theorem still_execTrailWrite (s : State) (bad : Option (Fin 4096)) :
    stillO (execTrailWrite s bad) = some (still s) := by
  unfold execTrailWrite
  try dsimp only
  (repeat' split) <;> first | with_reducible rfl | simp only [stillO_next, still_trailWrite, still_trailUe]

@[simp] theorem still_drainTrail (f : Nat) (s : State) : still (drainTrail f s) = still s := by
  induction f generalizing s with
  | zero => rfl
  | succ f ih =>
    unfold drainTrail; split
    · rfl
    · exact (ih _).trans (still_trailWrite s)

@[simp] theorem still_unfreezeOp (s : State) :
    still (unfreezeOp s) = still s := by
  simp only [unfreezeOp, still_mk, still_ite, still_fold, ite_self, still_drainTrail]

@[simp] theorem still_unfreezeCmdOp (confirm : W16) (s : State) :
    still (unfreezeCmdOp confirm s) = still s := by
  simp only [unfreezeCmdOp, still_ite, ite_self, still_unfreezeOp]

@[simp] theorem still_execTrlUnfreeze (confirm : W16) (s : State) :
    stillO (execTrlUnfreeze confirm s) = some (still s) := by
  simp only [execTrlUnfreeze, still_mk, still_ite, still_fold, still_foldl, stillO_next, stillO_ite, implies_true, ite_self, still_mgmtEarly, still_unfreezeCmdOp]

@[simp] theorem still_freezeOp (s : State) :
    still (freezeOp s) = still s := by
  simp only [freezeOp, still_note]

@[simp] theorem still_execTrlFreeze (s : State) :
    stillO (execTrlFreeze s) = some (still s) := by
  simp only [execTrlFreeze, still_mk, still_ite, still_fold, still_foldl, stillO_next, stillO_ite, implies_true, ite_self, still_mgmtEarly, still_freezeOp]

@[simp] theorem still_beginSnap (s : State) (cause : Byte) :
    still (beginSnap s cause) = still s := by
  simp only [beginSnap, still_mk, still_fold]

@[simp] theorem still_smAnswer (s : State) (bs : List Byte) :
    still (smAnswer s bs) = still s := by
  simp only [smAnswer, still_emit]

@[simp] theorem still_execTrlStatus (s : State) :
    stillO (execTrlStatus s) = some (still s) := by
  simp only [execTrlStatus, stillO_next, still_smAnswer]

@[simp] theorem still_execTrlSeek (entry : W32) (s : State) :
    stillO (execTrlSeek entry s) = some (still s) := by
  simp only [execTrlSeek, still_mk, still_fold, stillO_next]

@[simp] theorem still_execTrlNext (s : State) :
    stillO (execTrlNext s) = some (still s) := by
  unfold execTrlNext
  try dsimp only
  (repeat' split) <;> first | with_reducible rfl | simp only [still_mk, still_fold, stillO_next, still_smAnswer]

@[simp] theorem still_execSnapStatus (s : State) :
    stillO (execSnapStatus s) = some (still s) := by
  unfold execSnapStatus
  try dsimp only
  (repeat' split) <;> first | with_reducible rfl | simp only [stillO_next, still_smAnswer]

@[simp] theorem still_smNack (s : State) (cmd reason : Byte) :
    still (smNack s cmd reason) = still s := by
  simp only [smNack, still_note, still_emit]

@[simp] theorem still_execSnapSeek (index : W16) (s : State) :
    stillO (execSnapSeek index s) = some (still s) := by
  simp only [execSnapSeek, still_mk, still_fold, stillO_next, stillO_ite, ite_self, still_smNack]

@[simp] theorem still_execSnapNext (s : State) :
    stillO (execSnapNext s) = some (still s) := by
  unfold execSnapNext
  try dsimp only
  (repeat' split) <;> first | with_reducible rfl | simp only [still_mk, still_fold, stillO_next, still_smAnswer]

end Sys2Proof.Machine
end

