-- ==== Sys2Proof/Laws/LastingBoot.lean ====
section
/-!
SUPPORT. What lasts across each operation and command of Machine/Boot.lean: `still_x` where operation `x` leaves it all
as it is, `after_x` where it changes it as `Lasting.After` says.
-/
namespace Sys2Proof.Machine

@[simp] theorem still_abandonNv (s : State) :
    still (abandonNv s) = still s := by
  unfold abandonNv
  try dsimp only
  repeat' (first | with_reducible rfl | (simp only [still_modSchool, still_modNet]; done) | with_reducible refine (still_foldl _ (fun s x => ?_) _ _).trans ?_ | split | (simp only [still_mk, still_ite, still_fold, still_foldl, stillO_next, stillO_ite, implies_true, ite_self, still_modSchool, still_modNet]))

@[simp] theorem still_powerFailure (s : State) :
    still (powerFailure s) = still s := by
  simp only [powerFailure, still_mk, still_ite, still_fold, ite_self, still_pushEvent, still_beginSnap, still_abandonNv, still_drainTrail]

@[simp] theorem still_execPowerFail (s : State) :
    stillO (execPowerFail s) = some (still s) := by
  simp only [execPowerFail, still_mk, still_fold, stillO_next, stillO_ite, ite_self, still_powerFailure]

@[simp] theorem still_execPwrOkFall (s : State) :
    stillO (execPwrOkFall s) = some (still s) := by
  simp only [execPwrOkFall, still_mk, still_fold, stillO_next, stillO_ite, ite_self, still_powerFailure]

theorem after_powerOn {w0 : Lasting} (s : State) (h : w0.After (still s)) : w0.After (still (powerOn s)) := by
  unfold powerOn
  extract_lets t s1
  rw [still_pushEvent]
  exact ⟨⟨rfl, fun _ _ hx => by cases hx⟩, h.pending, h.present, h.burned, h.revoked, h.hash0, h.hash1, h.hnsFloor, h.grmFloor⟩

theorem after_execPowerOn {w0 : Lasting} (s : State) (hw : w0.After (still s)) :
    AfterO w0 (execPowerOn s) := by
  unfold execPowerOn
  try dsimp only
  repeat' (first | with_reducible assumption | with_reducible refine afterO_next ?_ | with_reducible apply after_powerOn | with_reducible refine after_foldl _ (fun _ _ _ => ?_) _ _ ?_ | (simp only [still_mk, still_ite, still_fold, still_foldl, stillO_next, stillO_ite, implies_true, ite_self]; done) | (simpa only [still_mk, still_ite, still_fold, still_foldl, stillO_next, stillO_ite, implies_true, ite_self] using hw) | split | (simp only [still_mk, still_ite, still_fold, still_foldl, stillO_next, stillO_ite, implies_true, ite_self]))

theorem after_coldStart {w0 : Lasting} (s : State) (last : BitVec 2) (hw : w0.After (still s)) :
    w0.After (still (coldStart s last)) := by
  unfold coldStart
  try dsimp only
  repeat' (first | with_reducible assumption | with_reducible refine afterO_next ?_ | with_reducible apply after_powerOn | with_reducible refine after_foldl _ (fun _ _ _ => ?_) _ _ ?_ | (simp only [still_abandonNv, still_pushEvent]; done) | (simp only [still_mk, still_ite, still_fold, still_foldl, stillO_next, stillO_ite, implies_true, ite_self, still_abandonNv, still_pushEvent]; with_reducible assumption) | intro _ _ | split | (simp only [still_mk, still_ite, still_fold, still_foldl, stillO_next, stillO_ite, implies_true, ite_self, still_abandonNv, still_pushEvent]))

theorem after_execPwrOkRise {w0 : Lasting} (testEn : Bool) (s : State) (hw : w0.After (still s)) :
    AfterO w0 (execPwrOkRise testEn s) := by
  unfold execPwrOkRise
  try dsimp only
  repeat' (first | with_reducible assumption | with_reducible refine afterO_next ?_ | with_reducible apply after_coldStart | with_reducible refine after_foldl _ (fun _ _ _ => ?_) _ _ ?_ | (simp only [still_fold]; done) | (simp only [still_mk, still_ite, still_fold, still_foldl, stillO_next, stillO_ite, implies_true, ite_self, still_fold]; with_reducible assumption) | intro _ _ | split | (simp only [still_mk, still_ite, still_fold, still_foldl, stillO_next, stillO_ite, implies_true, ite_self, still_fold]))

@[simp] theorem still_coldRequest (s : State) (testEn : Bool) :
    still (coldRequest s testEn) = still s := by
  simp only [coldRequest, still_mk, still_ite, still_fold, ite_self, still_beginSnap]

@[simp] theorem still_execCrstN (testEn : Bool) (s : State) :
    stillO (execCrstN testEn s) = some (still s) := by
  simp only [execCrstN, stillO_next, still_coldRequest]

@[simp] theorem still_rstColdOp (confirm : W16) (testEn : Bool) (s : State) :
    still (rstColdOp confirm testEn s) = still s := by
  simp only [rstColdOp, still_ite, ite_self, still_coldRequest]

@[simp] theorem still_execBootRstCold (confirm : W16) (testEn : Bool) (s : State) :
    stillO (execBootRstCold confirm testEn s) = some (still s) := by
  simp only [execBootRstCold, still_mk, still_ite, still_fold, still_foldl, stillO_next, stillO_ite, implies_true, ite_self, still_mgmtEarly, still_rstColdOp]

theorem after_execTrailSnapshotDone {w0 : Lasting} (ok : Bool) (s : State) (hw : w0.After (still s)) :
    AfterO w0 (execTrailSnapshotDone ok s) := by
  unfold execTrailSnapshotDone
  try dsimp only
  repeat' (first | with_reducible assumption | with_reducible refine afterO_next ?_ | with_reducible apply after_coldStart | with_reducible refine after_foldl _ (fun _ _ _ => ?_) _ _ ?_ | (simp only [still_fold]; done) | (simp only [still_mk, still_ite, still_fold, still_foldl, stillO_next, stillO_ite, implies_true, ite_self, still_fold]; with_reducible assumption) | intro _ _ | split | (simp only [still_mk, still_ite, still_fold, still_foldl, stillO_next, stillO_ite, implies_true, ite_self, still_fold]))

theorem after_warmStalls {w0 : Lasting} (s : State) (hw : w0.After (still s)) : w0.After (still (warmStalls s)) := by
  unfold warmStalls
  refine after_foldl _ (fun s i h => ?_) _ _ hw
  rw [still_modStall]
  split
  · exact after_clearStall _ _ _ h
  · exact h

theorem after_warmClear {w0 : Lasting} (s : State) (cause : BitVec 3) (hw : w0.After (still s)) :
    w0.After (still (warmClear s cause)) := by
  unfold warmClear
  extract_lets s1 abs l
  have h1 : w0.After (still s1) := after_warmStalls _ hw
  clear_value s1
  rw [still_pushEvent, still_mk]
  exact h1

@[simp] theorem still_warmQuiesce (s : State) :
    still (warmQuiesce s) = still s := by
  simp only [warmQuiesce, still_ite, still_foldl, implies_true, ite_self, still_cacheFlush, still_abortStall]

@[simp] theorem still_stackTrainFail (s : State) (k : Nat) :
    still (stackTrainFail s k) = still s := by
  simp only [stackTrainFail, still_mk, still_fold, still_drew, still_report, still_modStack]

@[simp] theorem still_stacksFail (s : State) (failed : BitVec 8) : still (stacksFail s failed) = still s := by
  unfold stacksFail
  refine still_foldl _ (fun s k => ?_) _ _
  split
  · exact still_stackTrainFail ..
  · rfl

@[simp] theorem still_groomsBoot (s : State) (failed : BitVec 8) : still (groomsBoot s failed) = still s := by
  unfold groomsBoot
  refine still_foldl _ (fun s g => ?_) _ _
  extract_lets s1
  have h1 : still s1 = still s := still_modGroom ..
  clear_value s1
  split
  · exact (still_report ..).trans ((still_groomFailed ..).trans h1)
  · exact h1

@[simp] theorem still_reachEmpty (s : State) :
    still (reachEmpty s) = still s := by
  simp only [reachEmpty, still_mk, still_ite, still_fold, ite_self, still_warmRequest]

@[simp] theorem still_applyFences (s : State) :
    still (applyFences s) = still s := by
  simp only [applyFences, still_ite, still_foldl, implies_true, ite_self, still_fenceOp]

@[simp] theorem still_selfTestDone (s : State) (failed : BitVec 8) :
    still (selfTestDone s failed) = still s := by
  simp only [selfTestDone, still_ite, still_foldl, implies_true, ite_self, still_modArr, still_fenceOp]

@[simp] theorem still_phaseDone (s : State) (failed : BitVec 8) :
    still (phaseDone s failed) = still s := by
  unfold phaseDone
  try dsimp only
  repeat' (first | with_reducible rfl | (simp only [still_report, still_startGirth, still_stacksFail, still_applyFences, still_groomsBoot, still_reachEmpty, still_selfTestDone]; done) | with_reducible refine (still_foldl _ (fun s x => ?_) _ _).trans ?_ | split | (simp only [still_mk, still_ite, still_fold, still_foldl, stillO_next, stillO_ite, implies_true, ite_self, still_report, still_startGirth, still_stacksFail, still_applyFences, still_groomsBoot, still_reachEmpty, still_selfTestDone]))

@[simp] theorem still_execBringupPhaseDone (failed : BitVec 8) (s : State) :
    stillO (execBringupPhaseDone failed s) = some (still s) := by
  simp only [execBringupPhaseDone, still_mk, still_ite, still_fold, still_foldl, stillO_next, stillO_ite, implies_true, ite_self, still_phaseDone]

@[simp] theorem still_leaveEmpty (s : State) : still (leaveEmpty s) = still s := by
  unfold leaveEmpty
  extract_lets s1
  have h1 : still s1 = still s := still_foldl _ (fun _ _ => still_modStall ..) _ _
  clear_value s1
  rw [still_mk]; exact h1

@[simp] theorem still_restoreFails (s : State) : still (restoreFails s) = still s := by
  unfold restoreFails
  extract_lets serial s1
  have h1 : still s1 = still s := still_leaveEmpty s
  clear_value s1
  rw [still_loadEvent, still_setErr, still_mk]
  exact h1

theorem after_restoreSchool {w0 : Lasting} (old : Harness) (s : State) (hw : w0.After (still s)) :
    w0.After (still (restoreSchool old s)) := by
  unfold restoreSchool
  try dsimp only
  repeat' (first | with_reducible assumption | with_reducible refine afterO_next ?_ | with_reducible apply after_prepareSchool | with_reducible refine after_foldl _ (fun _ _ _ => ?_) _ _ ?_ | (simp only [still_renumberSchool, still_startEngines]; done) | (simpa only [still_mk, still_ite, still_fold, still_foldl, stillO_next, stillO_ite, implies_true, ite_self, still_renumberSchool, still_startEngines] using hw) | split | (simp only [still_startEngines]))

@[simp] theorem still_warmEnd (s : State) :
    still (warmEnd s) = still s := by
  simp only [warmEnd, still_mk, still_fold, still_modAir]

@[simp] theorem still_restorePort (old : State) (s : State) (p : Nat) :
    still (restorePort old s p) = still s := by
  simp only [restorePort, still_mk, still_ite, still_fold, still_foldl, stillO_next, stillO_ite, implies_true, ite_self, still_disablePort, still_startPort, still_newEpoch, still_resetChans]

theorem after_restoreNew {w0 : Lasting} (s : State) (image : List Byte) (bad : List (Fin 16 × Byte × W16)) (hw : w0.After (still s)) :
    w0.After (still (restoreNew s image bad)) := by
  unfold restoreNew
  try dsimp only
  repeat' (first | with_reducible assumption | with_reducible refine afterO_next ?_ | with_reducible apply after_zeroMoved | with_reducible apply after_applyHarness | with_reducible apply after_restoreSchool | with_reducible refine after_foldl _ (fun _ _ _ => ?_) _ _ ?_ | (simp only [still_imageRegs, still_restorePort, still_loadEvent, still_warmEnd]; done) | (simp only [still_mk, still_ite, still_fold, still_foldl, stillO_next, stillO_ite, implies_true, ite_self, still_imageRegs, still_restorePort, still_loadEvent, still_warmEnd]; with_reducible assumption) | intro _ _ | split | (simp only [still_mk, still_ite, still_fold, still_foldl, stillO_next, stillO_ite, implies_true, ite_self, still_imageRegs, still_restorePort, still_loadEvent, still_warmEnd]))

theorem after_restoreSame {w0 : Lasting} (s : State) (mismatch : Bool) (bad : List (Fin 16 × Byte × W16)) (hw : w0.After (still s)) :
    w0.After (still (restoreSame s mismatch bad)) := by
  unfold restoreSame
  try dsimp only
  repeat' (first | with_reducible assumption | with_reducible refine afterO_next ?_ | with_reducible apply after_applyHarness | with_reducible apply after_restoreSchool | with_reducible refine after_foldl _ (fun _ _ _ => ?_) _ _ ?_ | (simp only [still_restoreFails, still_loadEvent, still_warmEnd]; done) | (simp only [still_mk, still_ite, still_fold, still_foldl, stillO_next, stillO_ite, implies_true, ite_self, still_restoreFails, still_loadEvent, still_warmEnd]; with_reducible assumption) | intro _ _ | split | (simp only [still_mk, still_ite, still_fold, still_foldl, stillO_next, stillO_ite, implies_true, ite_self, still_restoreFails, still_loadEvent, still_warmEnd]))

theorem after_warmStepDone {w0 : Lasting} (s : State) (failed : BitVec 8) (bad : List (Fin 16 × Byte × W16)) (hw : w0.After (still s)) :
    w0.After (still (warmStepDone s failed bad)) := by
  unfold warmStepDone
  try dsimp only
  repeat' (first | with_reducible assumption | with_reducible refine afterO_next ?_ | with_reducible apply after_warmClear | with_reducible apply after_restoreNew | with_reducible apply after_restoreSame | with_reducible refine after_foldl _ (fun _ _ _ => ?_) _ _ ?_ | (simp only [still_warmQuiesce, still_startGirth, still_warmPort, still_stacksFail, still_groomsBoot, still_leaveEmpty]; done) | (simp only [still_mk, still_ite, still_fold, still_foldl, stillO_next, stillO_ite, implies_true, ite_self, still_warmQuiesce, still_startGirth, still_warmPort, still_stacksFail, still_groomsBoot, still_leaveEmpty]; with_reducible assumption) | intro _ _ | split | (simp only [still_mk, still_ite, still_fold, still_foldl, stillO_next, stillO_ite, implies_true, ite_self, still_warmQuiesce, still_startGirth, still_warmPort, still_stacksFail, still_groomsBoot, still_leaveEmpty]))

theorem after_execWarmResetStepDone {w0 : Lasting} (failed : BitVec 8) (bad : List (Fin 16 × Byte × W16)) (s : State) (hw : w0.After (still s)) :
    AfterO w0 (execWarmResetStepDone failed bad s) := by
  unfold execWarmResetStepDone
  try dsimp only
  repeat' (first | with_reducible assumption | with_reducible refine afterO_next ?_ | with_reducible apply after_warmStepDone | with_reducible refine after_foldl _ (fun _ _ _ => ?_) _ _ ?_ | (simp only [still_fold]; done) | (simp only [still_mk, still_ite, still_fold, still_foldl, stillO_next, stillO_ite, implies_true, ite_self, still_fold]; with_reducible assumption) | intro _ _ | split | (simp only [still_mk, still_ite, still_fold, still_foldl, stillO_next, stillO_ite, implies_true, ite_self, still_fold]))

@[simp] theorem still_execWrstN (s : State) :
    stillO (execWrstN s) = some (still s) := by
  simp only [execWrstN, stillO_next, still_warmRequest]

@[simp] theorem still_rstWarmOp (confirm : W16) (s : State) :
    still (rstWarmOp confirm s) = still s := by
  simp only [rstWarmOp, still_ite, ite_self, still_warmRequest]

@[simp] theorem still_execBootRstWarm (confirm : W16) (s : State) :
    stillO (execBootRstWarm confirm s) = some (still s) := by
  simp only [execBootRstWarm, still_mk, still_ite, still_fold, still_foldl, stillO_next, stillO_ite, implies_true, ite_self, still_mgmtEarly, still_rstWarmOp]

theorem after_tripBoot {w0 : Lasting} (s : State) (hw : w0.After (still s)) : w0.After (still (tripBoot s)) := by
  unfold tripBoot
  extract_lets s1 s2 l s3
  have h1 : still s1 = still s := by
    unfold s1; split
    · exact still_fullFail ..
    · rfl
  clear_value s1
  have h2 : w0.After (still s2) := after_warmClear _ _ (by rw [h1]; exact hw)
  clear_value s2
  rw [still_startGirth, still_startGirth, still_mk]
  exact h2

theorem after_execTripRecovery {w0 : Lasting} (s : State) (hw : w0.After (still s)) :
    AfterO w0 (execTripRecovery s) := by
  unfold execTripRecovery
  try dsimp only
  repeat' (first | with_reducible assumption | with_reducible refine afterO_next ?_ | with_reducible apply after_tripBoot | with_reducible refine after_foldl _ (fun _ _ _ => ?_) _ _ ?_ | (simp only [still_tripEnd, still_warmRequest]; done) | (simp only [still_mk, still_ite, still_fold, still_foldl, stillO_next, stillO_ite, implies_true, ite_self, still_tripEnd, still_warmRequest]; with_reducible assumption) | intro _ _ | split | (simp only [still_mk, still_ite, still_fold, still_foldl, stillO_next, stillO_ite, implies_true, ite_self, still_tripEnd, still_warmRequest]))

@[simp] theorem still_gridRestore (s : State) (k : KeptGrid) :
    still (gridRestore s k) = still s := by
  simp only [gridRestore, still_ite, ite_self, still_modAir, still_refEvent]

@[simp] theorem still_execGridRestore (s : State) :
    stillO (execGridRestore s) = some (still s) := by
  unfold execGridRestore
  try dsimp only
  (repeat' split) <;> first | with_reducible rfl | simp only [stillO_next, still_gridRestore]

end Sys2Proof.Machine
end

