-- ==== Sys2Proof/Laws/LastingTick.lean ====
section
/-!
SUPPORT. What lasts across each operation and command of Machine/Tick.lean: `still_x` where operation `x` leaves it all
as it is, `after_x` where it changes it as `Lasting.After` says.
-/
namespace Sys2Proof.Machine

theorem after_execAirTick {w0 : Lasting} (s : State) (bad : List (BitVec 12)) (hw : w0.After (still s)) :
    AfterO w0 (execAirTick s bad) := by
  unfold execAirTick
  try dsimp only
  repeat' (first | with_reducible assumption | with_reducible refine afterO_next ?_ | with_reducible apply after_settleNets | with_reducible refine after_foldl _ (fun _ _ _ => ?_) _ _ ?_ | (simp only [still_airTick]; done) | (simp only [still_mk, still_ite, still_fold, still_foldl, stillO_next, stillO_ite, implies_true, ite_self, still_airTick]; with_reducible assumption) | intro _ _ | split | (simp only [still_mk, still_ite, still_fold, still_foldl, stillO_next, stillO_ite, implies_true, ite_self, still_airTick]))

theorem after_execFrameBoundary {w0 : Lasting} (s : State) (bad : List (BitVec 12)) (hw : w0.After (still s)) :
    AfterO w0 (execFrameBoundary s bad) := by
  unfold execFrameBoundary
  try dsimp only
  repeat' (first | with_reducible assumption | with_reducible refine afterO_next ?_ | with_reducible apply after_settleNets | with_reducible refine after_foldl _ (fun _ _ _ => ?_) _ _ ?_ | (simp only [still_airTick]; done) | (simp only [still_mk, still_ite, still_fold, still_foldl, stillO_next, stillO_ite, implies_true, ite_self, still_airTick]; with_reducible assumption) | intro _ _ | split | (simp only [still_mk, still_ite, still_fold, still_foldl, stillO_next, stillO_ite, implies_true, ite_self, still_airTick]))

end Sys2Proof.Machine
end

