-- ==== Sys2Proof/Laws/LastingRegs.lean ====
section
/-!
SUPPORT. What lasts across each operation and command of Machine/Regs.lean: `still_x` where operation `x` leaves it all
as it is, `after_x` where it changes it as `Lasting.After` says.
-/
namespace Sys2Proof.Machine

@[simp] theorem still_stlCtl (i : Nat) (w : W32) (s : State) :
    still (stlCtl i w s) = still s := by
  simp only [stlCtl, still_ite, ite_self, still_resetOp, still_quiesceOp]

@[simp] theorem still_sqCtl (i q : Nat) (w : W32) (s : State) :
    still (sqCtl i q w s) = still s := by
  simp only [sqCtl, still_ite, ite_self, still_modStall, still_resumeOp]

@[simp] theorem still_unmask (i v : Nat) (s : State) :
    still (unmask i v s) = still s := by
  simp only [unmask, still_ite, ite_self, still_modStall, still_raiseVector]

@[simp] theorem still_sclXfer (i : Nat) (w : W64) (s : State) :
    still (sclXfer i w s) = still s := by
  simp only [sclXfer, still_mk, still_ite, still_fold, still_foldl, stillO_next, stillO_ite, implies_true, ite_self, still_sclOp, still_xferEnds]

@[simp] theorem still_tthCtl (p : Nat) (w : W32) (s : State) :
    still (tthCtl p w s) = still s := by
  simp only [tthCtl, still_ite, ite_self, still_modTth, still_ctlRetrainOp, still_fullTrainOp]

@[simp] theorem still_linkCfg (d : Nat) (w : W32) (s : State) :
    still (linkCfg d w s) = still s := by
  simp only [linkCfg, still_ite, ite_self, still_modIod, still_resyncOp, still_linkLost]

@[simp] theorem still_sendReq (s : State) (d : Nat) (host : Option (Nat × Nat × W16)) (o : Out) :
    still (sendReq s d host o) = still s := by
  simp only [sendReq, still_mk, still_ite, still_fold, still_foldl, stillO_next, stillO_ite, implies_true, ite_self, still_emit, still_modGirth]

@[simp] theorem still_request (s : State) (d : Nat) (host : Option (Nat × Nat × W16)) (o : Out) :
    still (request s d host o) = still s := by
  simp only [request, still_mk, still_ite, still_fold, still_foldl, stillO_next, stillO_ite, implies_true, ite_self, still_sendReq, still_modGirth]

@[simp] theorem still_dropReq (s : State) (g : Nat) (tag : W16) :
    still (dropReq s g tag) = still s := by
  unfold dropReq
  try dsimp only
  (repeat' split) <;> first | with_reducible rfl | simp only [still_modGirth, still_sendReq]

end Sys2Proof.Machine
end

