-- ==== Sys2Proof/Laws/LastingManage.lean ====
section
/-!
SUPPORT. What lasts across each operation and command of Machine/Manage.lean: `still_x` where operation `x` leaves it all
as it is, `after_x` where it changes it as `Lasting.After` says. A register that the block shows is `RegOk`: its write leaves what
lasts as `Lasting.After` says.
-/
namespace Sys2Proof.Machine

theorem after_hnsCtl {w0 : Lasting} (w : W32) (s : State) (hw : w0.After (still s)) :
    w0.After (still (hnsCtl w s)) := by
  unfold hnsCtl
  try dsimp only
  repeat' (first | with_reducible assumption | with_reducible refine afterO_next ?_ | with_reducible apply after_floorOp | with_reducible refine after_foldl _ (fun _ _ _ => ?_) _ _ ?_ | (simp only [still_loadCmd, still_segCmd, still_drew, still_loadAbort]; done) | (simp only [still_mk, still_ite, still_fold, still_foldl, stillO_next, stillO_ite, implies_true, ite_self, still_loadCmd, still_segCmd, still_drew, still_loadAbort]; with_reducible assumption) | intro _ _ | split | (simp only [still_mk, still_ite, still_fold, still_foldl, stillO_next, stillO_ite, implies_true, ite_self, still_loadCmd, still_segCmd, still_drew, still_loadAbort]))

theorem after_provCtl {w0 : Lasting} (w : W32) (s : State) (hw : w0.After (still s)) :
    w0.After (still (provCtl w s)) := by
  unfold provCtl
  try dsimp only
  repeat' (first | with_reducible assumption | with_reducible refine afterO_next ?_ | with_reducible apply after_burnOp | with_reducible apply after_revokeOp | with_reducible refine after_foldl _ (fun _ _ _ => ?_) _ _ ?_ | (simp only [still_ite]; done) | (simpa only [still_mk, still_ite, still_fold, still_foldl, stillO_next, stillO_ite, implies_true, ite_self] using hw) | split | (simp only [still_mk, still_ite, still_fold, still_foldl, stillO_next, stillO_ite, implies_true, ite_self]))

@[simp] theorem still_refCtl (w : W32) (s : State) :
    still (refCtl w s) = still s := by
  simp only [refCtl, still_ite, ite_self, still_forceHoldoverOp, still_slewAnywayOp, still_stepNowOp]

@[simp] theorem still_epochPut (w : W64) (s : State) :
    still (epochPut w s) = still s := by
  simp only [epochPut, still_modAir]

@[simp] theorem still_rstCtl (w : W32) (s : State) :
    still (rstCtl w s) = still s := by
  simp only [rstCtl, still_ite, ite_self, still_rstColdOp, still_rstWarmOp]

@[simp] theorem still_fenceCtl (w : W32) (s : State) :
    still (fenceCtl w s) = still s := by
  simp only [fenceCtl, still_mk, still_ite, still_fold, ite_self, still_fenceOp, still_persistOp]

@[simp] theorem still_mgmtCtl (w : W32) (s : State) :
    still (mgmtCtl w s) = still s := by
  simp only [mgmtCtl, still_ite, ite_self, still_addressed, still_resetOp, still_quiesceOp]

@[simp] theorem still_grmCtl (w : W32) (s : State) :
    still (grmCtl w s) = still s := by
  simp only [grmCtl, still_mk, still_ite, still_fold, ite_self, still_groomCmdOp]

theorem after_grmUpdCtl {w0 : Lasting} (w : W32) (s : State) (hw : w0.After (still s)) :
    w0.After (still (grmUpdCtl w s)) := by
  unfold grmUpdCtl
  try dsimp only
  repeat' (first | with_reducible assumption | with_reducible refine afterO_next ?_ | with_reducible apply after_grmFloorOp | with_reducible refine after_foldl _ (fun _ _ _ => ?_) _ _ ?_ | (simp only [still_ite, ite_self, still_stageOp, still_applyOp, still_grmAbortOp]; done) | (simpa only [still_mk, still_ite, still_fold, still_foldl, stillO_next, stillO_ite, implies_true, ite_self, still_stageOp, still_applyOp, still_grmAbortOp] using hw) | split | (simp only [still_mk, still_ite, still_fold, still_foldl, stillO_next, stillO_ite, implies_true, ite_self, still_stageOp, still_applyOp, still_grmAbortOp]))

@[simp] theorem still_clearFlt (w : W32) (s : State) :
    still (clearFlt w s) = still s := by
  simp only [clearFlt, still_mk, still_fold]

@[simp] theorem still_trlCtl (w : W32) (s : State) :
    still (trlCtl w s) = still s := by
  simp only [trlCtl, still_ite, ite_self, still_unfreezeCmdOp, still_freezeOp]

theorem still_countErr (s : State) (who : Option Nat) : still (countErr s who) = still s := by
  cases who
  · rfl
  · exact still_accErr ..

/-- A register whose write leaves what lasts as `Lasting.After` says. -/
def RegOk (r : Reg) : Prop := ∀ (w0 : Lasting) (v : W64) (s : State), w0.After (still s) → w0.After (still (r.write v s))

theorem regOk_ro (v : W32) : RegOk (regRo v) := fun _ _ _ h => h

theorem regOk_ro64 (v : W64) : RegOk (regRo64 v) := fun _ _ _ h => h

theorem regOk_rw {v : W32} {f : W32 → State → State} (h : ∀ w0 : Lasting, ∀ w s, w0.After (still s) → w0.After (still (f w s))) :
    RegOk (regRw v f) := fun w0 _ _ hs => h w0 _ _ hs

theorem regOk_rw64 {v : W64} {f : W64 → State → State} (h : ∀ w0 : Lasting, ∀ w s, w0.After (still s) → w0.After (still (f w s))) :
    RegOk (regRw64 v f) := fun w0 _ _ hs => h w0 _ _ hs

/-- A write that leaves what lasts as it is. -/
theorem regOk_still {v : W32} {f : W32 → State → State} (h : ∀ w s, still (f w s) = still s) : RegOk (regRw v f) :=
  fun _ _ s hs => (h _ s).symm ▸ hs

theorem regOk_still64 {v : W64} {f : W64 → State → State} (h : ∀ w s, still (f w s) = still s) : RegOk (regRw64 v f) :=
  fun _ _ s hs => (h _ s).symm ▸ hs

/-- Registers at their offsets. -/
def RegsOk (l : List (Nat × Reg)) : Prop := ∀ x ∈ l, RegOk x.2

theorem regsOk_cons {k : Nat} {r : Reg} {l : List (Nat × Reg)} (h : RegOk r) (hl : RegsOk l) : RegsOk ((k, r) :: l) := by
  intro x hx
  rcases List.mem_cons.1 hx with rfl | hx
  · exact h
  · exact hl x hx

theorem regsOk_nil : RegsOk [] := fun _ h => by cases h

theorem regsOk_append {a b : List (Nat × Reg)} (ha : RegsOk a) (hb : RegsOk b) : RegsOk (a ++ b) := fun x hx =>
  (List.mem_append.1 hx).elim (ha x) (hb x)

theorem regsOk_map {α : Type} {l : List α} {o : α → Nat} {r : α → Reg} (h : ∀ a, RegOk (r a)) : RegsOk (l.map (fun a => (o a, r a))) := by
  intro x hx
  obtain ⟨a, -, rfl⟩ := List.mem_map.1 hx
  exact h a

/-- What stands at an offset. -/
def AtOk (o : Option (Reg × Bool)) : Prop := ∀ x, o = some x → RegOk x.1

theorem atOk_none : AtOk none := fun _ h => by cases h

theorem atOk_regIn {l : List (Nat × Reg)} (h : RegsOk l) (off : Nat) : AtOk (regIn l off) := by
  intro x hx
  unfold regIn at hx
  split at hx
  · cases hx
    exact h _ (List.mem_of_find?_eq_some ‹_›)
  · cases hx

theorem regsOk_common (s : State) (b : Bool) : RegsOk (commonRegs s b) := by
  unfold commonRegs
  extract_lets f put
  have hp (k w s) : still (put k w s) = still s := by
    unfold put; split
    · exact still_mk ..
    · rfl
  refine regsOk_append ?_ (regsOk_map fun k => regOk_still (hp k))
  repeat' (first | exact regsOk_nil | refine regsOk_cons ?_ ?_ | exact regOk_ro _ | exact regOk_ro64 _)

theorem regsOk_schRegs (s : State) (i : Nat) : RegsOk (schRegs s i) := by
  unfold schRegs
  try dsimp only
  repeat' (first | exact regsOk_nil | refine regsOk_append ?_ ?_ | refine regsOk_cons ?_ ?_ | refine regsOk_map (fun k => ?_) | exact regOk_ro _ | exact regOk_ro64 _  | (refine regOk_still (fun w s => ?_); (first | with_reducible rfl | (simp only [still_modStall, still_modArr, still_modVec, still_modPath, still_modFdr, still_modCore, still_modDec, still_modSe, still_modNet, still_modCarrier, still_modTth, still_modGirth, still_modGroom, still_modAir, still_modIod, still_modStack, still_modSchool, still_mk, still_fold, still_ite, ite_self, still_stlCtl, still_sqCtl, still_resumeOp, still_tailOp, still_cqHeadOp, still_sclOp, still_xferSts, still_txTailOp, still_tthCtl, still_linkCfg, still_accErr, still_raiseVector, still_unmask, still_sclXfer, still_request, still_refCtl, still_rstCtl, still_fenceCtl, still_mgmtCtl, still_epochPut, still_budgetOp, still_clearFlt, still_trlCtl, still_grmCtl, still_grtCtlOp]; done) | (split <;> simp only [still_modStall, still_modArr, still_modVec, still_modPath, still_modFdr, still_modCore, still_modDec, still_modSe, still_modNet, still_modCarrier, still_modTth, still_modGirth, still_modGroom, still_modAir, still_modIod, still_modStack, still_modSchool, still_mk, still_fold, still_ite, ite_self, still_stlCtl, still_sqCtl, still_resumeOp, still_tailOp, still_cqHeadOp, still_sclOp, still_xferSts, still_txTailOp, still_tthCtl, still_linkCfg, still_accErr, still_raiseVector, still_unmask, still_sclXfer, still_request, still_refCtl, still_rstCtl, still_fenceCtl, still_mgmtCtl, still_epochPut, still_budgetOp, still_clearFlt, still_trlCtl, still_grmCtl, still_grtCtlOp]))) | (refine regOk_still64 (fun w s => ?_); (first | with_reducible rfl | (simp only [still_modStall, still_modArr, still_modVec, still_modPath, still_modFdr, still_modCore, still_modDec, still_modSe, still_modNet, still_modCarrier, still_modTth, still_modGirth, still_modGroom, still_modAir, still_modIod, still_modStack, still_modSchool, still_mk, still_fold, still_ite, ite_self, still_stlCtl, still_sqCtl, still_resumeOp, still_tailOp, still_cqHeadOp, still_sclOp, still_xferSts, still_txTailOp, still_tthCtl, still_linkCfg, still_accErr, still_raiseVector, still_unmask, still_sclXfer, still_request, still_refCtl, still_rstCtl, still_fenceCtl, still_mgmtCtl, still_epochPut, still_budgetOp, still_clearFlt, still_trlCtl, still_grmCtl, still_grtCtlOp]; done))))

theorem regsOk_stlRegs (s : State) (i : Nat) : RegsOk (stlRegs s i) := by
  unfold stlRegs
  try dsimp only
  repeat' (first | exact regsOk_nil | refine regsOk_append ?_ ?_ | refine regsOk_cons ?_ ?_ | refine regsOk_map (fun k => ?_) | exact regOk_ro _ | exact regOk_ro64 _ | exact regsOk_schRegs _ _ | (refine regOk_still (fun w s => ?_); (first | with_reducible rfl | (simp only [still_modStall, still_stlCtl]; done) | (split <;> simp only [still_modStall, still_modArr, still_modVec, still_modPath, still_modFdr, still_modCore, still_modDec, still_modSe, still_modNet, still_modCarrier, still_modTth, still_modGirth, still_modGroom, still_modAir, still_modIod, still_modStack, still_modSchool, still_mk, still_fold, still_ite, ite_self, still_stlCtl, still_sqCtl, still_resumeOp, still_tailOp, still_cqHeadOp, still_sclOp, still_xferSts, still_txTailOp, still_tthCtl, still_linkCfg, still_accErr, still_raiseVector, still_unmask, still_sclXfer, still_request, still_refCtl, still_rstCtl, still_fenceCtl, still_mgmtCtl, still_epochPut, still_budgetOp, still_clearFlt, still_trlCtl, still_grmCtl, still_grtCtlOp]))) | (refine regOk_still64 (fun w s => ?_); (first | with_reducible rfl | (simp only [still_modStall, still_modArr, still_modVec, still_modPath, still_modFdr, still_modCore, still_modDec, still_modSe, still_modNet, still_modCarrier, still_modTth, still_modGirth, still_modGroom, still_modAir, still_modIod, still_modStack, still_modSchool, still_mk, still_fold, still_ite, ite_self, still_stlCtl, still_sqCtl, still_resumeOp, still_tailOp, still_cqHeadOp, still_sclOp, still_xferSts, still_txTailOp, still_tthCtl, still_linkCfg, still_accErr, still_raiseVector, still_unmask, still_sclXfer, still_request, still_refCtl, still_rstCtl, still_fenceCtl, still_mgmtCtl, still_epochPut, still_budgetOp, still_clearFlt, still_trlCtl, still_grmCtl, still_grtCtlOp]; done))))

theorem regsOk_queueRegs (s : State) (i q : Nat) : RegsOk (queueRegs s i q) := by
  unfold queueRegs
  try dsimp only
  repeat' (first | exact regsOk_nil | refine regsOk_append ?_ ?_ | refine regsOk_cons ?_ ?_ | refine regsOk_map (fun k => ?_) | exact regOk_ro _ | exact regOk_ro64 _  | (refine regOk_still (fun w s => ?_); (first | with_reducible rfl | (simp only [still_modStall, still_sqCtl, still_tailOp, still_cqHeadOp]; done) | (split <;> simp only [still_modStall, still_modArr, still_modVec, still_modPath, still_modFdr, still_modCore, still_modDec, still_modSe, still_modNet, still_modCarrier, still_modTth, still_modGirth, still_modGroom, still_modAir, still_modIod, still_modStack, still_modSchool, still_mk, still_fold, still_ite, ite_self, still_stlCtl, still_sqCtl, still_resumeOp, still_tailOp, still_cqHeadOp, still_sclOp, still_xferSts, still_txTailOp, still_tthCtl, still_linkCfg, still_accErr, still_raiseVector, still_unmask, still_sclXfer, still_request, still_refCtl, still_rstCtl, still_fenceCtl, still_mgmtCtl, still_epochPut, still_budgetOp, still_clearFlt, still_trlCtl, still_grmCtl, still_grtCtlOp]))) | (refine regOk_still64 (fun w s => ?_); (first | with_reducible rfl | (simp only [still_modStall]; done))))

theorem regsOk_answerRegs (s : State) (i : Nat) : RegsOk (answerRegs s i) := by
  unfold answerRegs
  try dsimp only
  repeat' (first | exact regsOk_nil | refine regsOk_append ?_ ?_ | refine regsOk_cons ?_ ?_ | refine regsOk_map (fun k => ?_) | exact regOk_ro _ | exact regOk_ro64 _  | (refine regOk_still (fun w s => ?_); (first | with_reducible rfl | (simp only [still_modStall]; done) | (split <;> simp only [still_modStall, still_modArr, still_modVec, still_modPath, still_modFdr, still_modCore, still_modDec, still_modSe, still_modNet, still_modCarrier, still_modTth, still_modGirth, still_modGroom, still_modAir, still_modIod, still_modStack, still_modSchool, still_mk, still_fold, still_ite, ite_self, still_stlCtl, still_sqCtl, still_resumeOp, still_tailOp, still_cqHeadOp, still_sclOp, still_xferSts, still_txTailOp, still_tthCtl, still_linkCfg, still_accErr, still_raiseVector, still_unmask, still_sclXfer, still_request, still_refCtl, still_rstCtl, still_fenceCtl, still_mgmtCtl, still_epochPut, still_budgetOp, still_clearFlt, still_trlCtl, still_grmCtl, still_grtCtlOp]))) | (refine regOk_still64 (fun w s => ?_); (first | with_reducible rfl | (simp only [still_modStall]; done))))

theorem regsOk_arrRegs (s : State) (i : Nat) : RegsOk (arrRegs s i) := by
  unfold arrRegs
  try dsimp only
  repeat' (first | exact regsOk_nil | refine regsOk_append ?_ ?_ | refine regsOk_cons ?_ ?_ | refine regsOk_map (fun k => ?_) | exact regOk_ro _ | exact regOk_ro64 _  | (refine regOk_still (fun w s => ?_); (first | with_reducible rfl | (simp only [still_modArr, still_modVec]; done) | (split <;> simp only [still_modStall, still_modArr, still_modVec, still_modPath, still_modFdr, still_modCore, still_modDec, still_modSe, still_modNet, still_modCarrier, still_modTth, still_modGirth, still_modGroom, still_modAir, still_modIod, still_modStack, still_modSchool, still_mk, still_fold, still_ite, ite_self, still_stlCtl, still_sqCtl, still_resumeOp, still_tailOp, still_cqHeadOp, still_sclOp, still_xferSts, still_txTailOp, still_tthCtl, still_linkCfg, still_accErr, still_raiseVector, still_unmask, still_sclXfer, still_request, still_refCtl, still_rstCtl, still_fenceCtl, still_mgmtCtl, still_epochPut, still_budgetOp, still_clearFlt, still_trlCtl, still_grmCtl, still_grtCtlOp]))) | (refine regOk_still64 (fun w s => ?_); (first | with_reducible rfl | (simp only [still_modStall, still_modArr, still_modVec, still_modPath, still_modFdr, still_modCore, still_modDec, still_modSe, still_modNet, still_modCarrier, still_modTth, still_modGirth, still_modGroom, still_modAir, still_modIod, still_modStack, still_modSchool, still_mk, still_fold, still_ite, ite_self, still_stlCtl, still_sqCtl, still_resumeOp, still_tailOp, still_cqHeadOp, still_sclOp, still_xferSts, still_txTailOp, still_tthCtl, still_linkCfg, still_accErr, still_raiseVector, still_unmask, still_sclXfer, still_request, still_refCtl, still_rstCtl, still_fenceCtl, still_mgmtCtl, still_epochPut, still_budgetOp, still_clearFlt, still_trlCtl, still_grmCtl, still_grtCtlOp]; done))))

theorem regsOk_pathRegs (s : State) (i : Nat) : RegsOk (pathRegs s i) := by
  unfold pathRegs
  try dsimp only
  repeat' (first | exact regsOk_nil | refine regsOk_append ?_ ?_ | refine regsOk_cons ?_ ?_ | refine regsOk_map (fun k => ?_) | exact regOk_ro _ | exact regOk_ro64 _  | (refine regOk_still (fun w s => ?_); (first | with_reducible rfl | (simp only [still_modPath]; done) | (split <;> simp only [still_modStall, still_modArr, still_modVec, still_modPath, still_modFdr, still_modCore, still_modDec, still_modSe, still_modNet, still_modCarrier, still_modTth, still_modGirth, still_modGroom, still_modAir, still_modIod, still_modStack, still_modSchool, still_mk, still_fold, still_ite, ite_self, still_stlCtl, still_sqCtl, still_resumeOp, still_tailOp, still_cqHeadOp, still_sclOp, still_xferSts, still_txTailOp, still_tthCtl, still_linkCfg, still_accErr, still_raiseVector, still_unmask, still_sclXfer, still_request, still_refCtl, still_rstCtl, still_fenceCtl, still_mgmtCtl, still_epochPut, still_budgetOp, still_clearFlt, still_trlCtl, still_grmCtl, still_grtCtlOp]))) | (refine regOk_still64 (fun w s => ?_); (first | with_reducible rfl | (simp only [still_modStall, still_modArr, still_modVec, still_modPath, still_modFdr, still_modCore, still_modDec, still_modSe, still_modNet, still_modCarrier, still_modTth, still_modGirth, still_modGroom, still_modAir, still_modIod, still_modStack, still_modSchool, still_mk, still_fold, still_ite, ite_self, still_stlCtl, still_sqCtl, still_resumeOp, still_tailOp, still_cqHeadOp, still_sclOp, still_xferSts, still_txTailOp, still_tthCtl, still_linkCfg, still_accErr, still_raiseVector, still_unmask, still_sclXfer, still_request, still_refCtl, still_rstCtl, still_fenceCtl, still_mgmtCtl, still_epochPut, still_budgetOp, still_clearFlt, still_trlCtl, still_grmCtl, still_grtCtlOp]; done))))

theorem regsOk_feederRegs (s : State) (i : Nat) : RegsOk (feederRegs s i) := by
  unfold feederRegs
  try dsimp only
  repeat' (first | exact regsOk_nil | refine regsOk_append ?_ ?_ | refine regsOk_cons ?_ ?_ | refine regsOk_map (fun k => ?_) | exact regOk_ro _ | exact regOk_ro64 _  | (refine regOk_still (fun w s => ?_); (first | with_reducible rfl | (simp only [still_modFdr]; done) | (split <;> simp only [still_modStall, still_modArr, still_modVec, still_modPath, still_modFdr, still_modCore, still_modDec, still_modSe, still_modNet, still_modCarrier, still_modTth, still_modGirth, still_modGroom, still_modAir, still_modIod, still_modStack, still_modSchool, still_mk, still_fold, still_ite, ite_self, still_stlCtl, still_sqCtl, still_resumeOp, still_tailOp, still_cqHeadOp, still_sclOp, still_xferSts, still_txTailOp, still_tthCtl, still_linkCfg, still_accErr, still_raiseVector, still_unmask, still_sclXfer, still_request, still_refCtl, still_rstCtl, still_fenceCtl, still_mgmtCtl, still_epochPut, still_budgetOp, still_clearFlt, still_trlCtl, still_grmCtl, still_grtCtlOp]))) | (refine regOk_still64 (fun w s => ?_); (first | with_reducible rfl | (simp only [still_modStall, still_modArr, still_modVec, still_modPath, still_modFdr, still_modCore, still_modDec, still_modSe, still_modNet, still_modCarrier, still_modTth, still_modGirth, still_modGroom, still_modAir, still_modIod, still_modStack, still_modSchool, still_mk, still_fold, still_ite, ite_self, still_stlCtl, still_sqCtl, still_resumeOp, still_tailOp, still_cqHeadOp, still_sclOp, still_xferSts, still_txTailOp, still_tthCtl, still_linkCfg, still_accErr, still_raiseVector, still_unmask, still_sclXfer, still_request, still_refCtl, still_rstCtl, still_fenceCtl, still_mgmtCtl, still_epochPut, still_budgetOp, still_clearFlt, still_trlCtl, still_grmCtl, still_grtCtlOp]; done))))

theorem regsOk_coreRegs (s : State) (i : Nat) : RegsOk (coreRegs s i) := by
  unfold coreRegs
  try dsimp only
  repeat' (first | exact regsOk_nil | refine regsOk_append ?_ ?_ | refine regsOk_cons ?_ ?_ | refine regsOk_map (fun k => ?_) | exact regOk_ro _ | exact regOk_ro64 _  | (refine regOk_still (fun w s => ?_); (first | with_reducible rfl | (simp only [still_modCore]; done) | (split <;> simp only [still_modStall, still_modArr, still_modVec, still_modPath, still_modFdr, still_modCore, still_modDec, still_modSe, still_modNet, still_modCarrier, still_modTth, still_modGirth, still_modGroom, still_modAir, still_modIod, still_modStack, still_modSchool, still_mk, still_fold, still_ite, ite_self, still_stlCtl, still_sqCtl, still_resumeOp, still_tailOp, still_cqHeadOp, still_sclOp, still_xferSts, still_txTailOp, still_tthCtl, still_linkCfg, still_accErr, still_raiseVector, still_unmask, still_sclXfer, still_request, still_refCtl, still_rstCtl, still_fenceCtl, still_mgmtCtl, still_epochPut, still_budgetOp, still_clearFlt, still_trlCtl, still_grmCtl, still_grtCtlOp]))) | (refine regOk_still64 (fun w s => ?_); (first | with_reducible rfl | (simp only [still_modStall, still_modArr, still_modVec, still_modPath, still_modFdr, still_modCore, still_modDec, still_modSe, still_modNet, still_modCarrier, still_modTth, still_modGirth, still_modGroom, still_modAir, still_modIod, still_modStack, still_modSchool, still_mk, still_fold, still_ite, ite_self, still_stlCtl, still_sqCtl, still_resumeOp, still_tailOp, still_cqHeadOp, still_sclOp, still_xferSts, still_txTailOp, still_tthCtl, still_linkCfg, still_accErr, still_raiseVector, still_unmask, still_sclXfer, still_request, still_refCtl, still_rstCtl, still_fenceCtl, still_mgmtCtl, still_epochPut, still_budgetOp, still_clearFlt, still_trlCtl, still_grmCtl, still_grtCtlOp]; done))))

theorem regsOk_decRegs (s : State) (i : Nat) : RegsOk (decRegs s i) := by
  unfold decRegs
  try dsimp only
  repeat' (first | exact regsOk_nil | refine regsOk_append ?_ ?_ | refine regsOk_cons ?_ ?_ | refine regsOk_map (fun k => ?_) | exact regOk_ro _ | exact regOk_ro64 _  | (refine regOk_still (fun w s => ?_); (first | with_reducible rfl | (simp only [still_modDec]; done) | (split <;> simp only [still_modStall, still_modArr, still_modVec, still_modPath, still_modFdr, still_modCore, still_modDec, still_modSe, still_modNet, still_modCarrier, still_modTth, still_modGirth, still_modGroom, still_modAir, still_modIod, still_modStack, still_modSchool, still_mk, still_fold, still_ite, ite_self, still_stlCtl, still_sqCtl, still_resumeOp, still_tailOp, still_cqHeadOp, still_sclOp, still_xferSts, still_txTailOp, still_tthCtl, still_linkCfg, still_accErr, still_raiseVector, still_unmask, still_sclXfer, still_request, still_refCtl, still_rstCtl, still_fenceCtl, still_mgmtCtl, still_epochPut, still_budgetOp, still_clearFlt, still_trlCtl, still_grmCtl, still_grtCtlOp]))) | (refine regOk_still64 (fun w s => ?_); (first | with_reducible rfl | (simp only [still_modStall, still_modArr, still_modVec, still_modPath, still_modFdr, still_modCore, still_modDec, still_modSe, still_modNet, still_modCarrier, still_modTth, still_modGirth, still_modGroom, still_modAir, still_modIod, still_modStack, still_modSchool, still_mk, still_fold, still_ite, ite_self, still_stlCtl, still_sqCtl, still_resumeOp, still_tailOp, still_cqHeadOp, still_sclOp, still_xferSts, still_txTailOp, still_tthCtl, still_linkCfg, still_accErr, still_raiseVector, still_unmask, still_sclXfer, still_request, still_refCtl, still_rstCtl, still_fenceCtl, still_mgmtCtl, still_epochPut, still_budgetOp, still_clearFlt, still_trlCtl, still_grmCtl, still_grtCtlOp]; done))))

theorem regsOk_seRegs (s : State) (i : Nat) : RegsOk (seRegs s i) := by
  unfold seRegs
  try dsimp only
  repeat' (first | exact regsOk_nil | refine regsOk_append ?_ ?_ | refine regsOk_cons ?_ ?_ | refine regsOk_map (fun k => ?_) | exact regOk_ro _ | exact regOk_ro64 _  | (refine regOk_still (fun w s => ?_); (first | with_reducible rfl | (simp only [still_modSe]; done) | (split <;> simp only [still_modStall, still_modArr, still_modVec, still_modPath, still_modFdr, still_modCore, still_modDec, still_modSe, still_modNet, still_modCarrier, still_modTth, still_modGirth, still_modGroom, still_modAir, still_modIod, still_modStack, still_modSchool, still_mk, still_fold, still_ite, ite_self, still_stlCtl, still_sqCtl, still_resumeOp, still_tailOp, still_cqHeadOp, still_sclOp, still_xferSts, still_txTailOp, still_tthCtl, still_linkCfg, still_accErr, still_raiseVector, still_unmask, still_sclXfer, still_request, still_refCtl, still_rstCtl, still_fenceCtl, still_mgmtCtl, still_epochPut, still_budgetOp, still_clearFlt, still_trlCtl, still_grmCtl, still_grtCtlOp]))) | (refine regOk_still64 (fun w s => ?_); (first | with_reducible rfl | (simp only [still_modStall, still_modArr, still_modVec, still_modPath, still_modFdr, still_modCore, still_modDec, still_modSe, still_modNet, still_modCarrier, still_modTth, still_modGirth, still_modGroom, still_modAir, still_modIod, still_modStack, still_modSchool, still_mk, still_fold, still_ite, ite_self, still_stlCtl, still_sqCtl, still_resumeOp, still_tailOp, still_cqHeadOp, still_sclOp, still_xferSts, still_txTailOp, still_tthCtl, still_linkCfg, still_accErr, still_raiseVector, still_unmask, still_sclXfer, still_request, still_refCtl, still_rstCtl, still_fenceCtl, still_mgmtCtl, still_epochPut, still_budgetOp, still_clearFlt, still_trlCtl, still_grmCtl, still_grtCtlOp]; done))))

theorem regsOk_netRegs (s : State) (i : Nat) : RegsOk (netRegs s i) := by
  unfold netRegs
  try dsimp only
  repeat' (first | exact regsOk_nil | refine regsOk_append ?_ ?_ | refine regsOk_cons ?_ ?_ | refine regsOk_map (fun k => ?_) | exact regOk_ro _ | exact regOk_ro64 _  | (refine regOk_still (fun w s => ?_); (first | with_reducible rfl | (simp only [still_modStall, still_modArr, still_modVec, still_modPath, still_modFdr, still_modCore, still_modDec, still_modSe, still_modNet, still_modCarrier, still_modTth, still_modGirth, still_modGroom, still_modAir, still_modIod, still_modStack, still_modSchool, still_mk, still_fold, still_ite, ite_self, still_stlCtl, still_sqCtl, still_resumeOp, still_tailOp, still_cqHeadOp, still_sclOp, still_xferSts, still_txTailOp, still_tthCtl, still_linkCfg, still_accErr, still_raiseVector, still_unmask, still_sclXfer, still_request, still_refCtl, still_rstCtl, still_fenceCtl, still_mgmtCtl, still_epochPut, still_budgetOp, still_clearFlt, still_trlCtl, still_grmCtl, still_grtCtlOp]; done) | (split <;> simp only [still_modStall, still_modArr, still_modVec, still_modPath, still_modFdr, still_modCore, still_modDec, still_modSe, still_modNet, still_modCarrier, still_modTth, still_modGirth, still_modGroom, still_modAir, still_modIod, still_modStack, still_modSchool, still_mk, still_fold, still_ite, ite_self, still_stlCtl, still_sqCtl, still_resumeOp, still_tailOp, still_cqHeadOp, still_sclOp, still_xferSts, still_txTailOp, still_tthCtl, still_linkCfg, still_accErr, still_raiseVector, still_unmask, still_sclXfer, still_request, still_refCtl, still_rstCtl, still_fenceCtl, still_mgmtCtl, still_epochPut, still_budgetOp, still_clearFlt, still_trlCtl, still_grmCtl, still_grtCtlOp]))) | (refine regOk_still64 (fun w s => ?_); (first | with_reducible rfl | (simp only [still_modStall, still_modArr, still_modVec, still_modPath, still_modFdr, still_modCore, still_modDec, still_modSe, still_modNet, still_modCarrier, still_modTth, still_modGirth, still_modGroom, still_modAir, still_modIod, still_modStack, still_modSchool, still_mk, still_fold, still_ite, ite_self, still_stlCtl, still_sqCtl, still_resumeOp, still_tailOp, still_cqHeadOp, still_sclOp, still_xferSts, still_txTailOp, still_tthCtl, still_linkCfg, still_accErr, still_raiseVector, still_unmask, still_sclXfer, still_request, still_refCtl, still_rstCtl, still_fenceCtl, still_mgmtCtl, still_epochPut, still_budgetOp, still_clearFlt, still_trlCtl, still_grmCtl, still_grtCtlOp]; done))))

theorem regsOk_xferRegs (s : State) (i : Nat) : RegsOk (xferRegs s i) := by
  unfold xferRegs
  try dsimp only
  repeat' (first | exact regsOk_nil | refine regsOk_append ?_ ?_ | refine regsOk_cons ?_ ?_ | refine regsOk_map (fun k => ?_) | exact regOk_ro _ | exact regOk_ro64 _  | (refine regOk_still (fun w s => ?_); (first | with_reducible rfl | (simp only [still_modStall, still_modArr, still_modVec, still_modPath, still_modFdr, still_modCore, still_modDec, still_modSe, still_modNet, still_modCarrier, still_modTth, still_modGirth, still_modGroom, still_modAir, still_modIod, still_modStack, still_modSchool, still_mk, still_fold, still_ite, ite_self, still_stlCtl, still_sqCtl, still_resumeOp, still_tailOp, still_cqHeadOp, still_sclOp, still_xferSts, still_txTailOp, still_tthCtl, still_linkCfg, still_accErr, still_raiseVector, still_unmask, still_sclXfer, still_request, still_refCtl, still_rstCtl, still_fenceCtl, still_mgmtCtl, still_epochPut, still_budgetOp, still_clearFlt, still_trlCtl, still_grmCtl, still_grtCtlOp]; done) | (split <;> simp only [still_modStall, still_modArr, still_modVec, still_modPath, still_modFdr, still_modCore, still_modDec, still_modSe, still_modNet, still_modCarrier, still_modTth, still_modGirth, still_modGroom, still_modAir, still_modIod, still_modStack, still_modSchool, still_mk, still_fold, still_ite, ite_self, still_stlCtl, still_sqCtl, still_resumeOp, still_tailOp, still_cqHeadOp, still_sclOp, still_xferSts, still_txTailOp, still_tthCtl, still_linkCfg, still_accErr, still_raiseVector, still_unmask, still_sclXfer, still_request, still_refCtl, still_rstCtl, still_fenceCtl, still_mgmtCtl, still_epochPut, still_budgetOp, still_clearFlt, still_trlCtl, still_grmCtl, still_grtCtlOp]))) | (refine regOk_still64 (fun w s => ?_); (first | with_reducible rfl | (simp only [still_sclXfer]; done))))

theorem regsOk_carrierRegs (s : State) (i : Nat) : RegsOk (carrierRegs s i) := by
  unfold carrierRegs
  try dsimp only
  repeat' (first | exact regsOk_nil | refine regsOk_append ?_ ?_ | refine regsOk_cons ?_ ?_ | refine regsOk_map (fun k => ?_) | exact regOk_ro _ | exact regOk_ro64 _  | (refine regOk_still (fun w s => ?_); (first | with_reducible rfl | (simp only [still_modCarrier]; done) | (split <;> simp only [still_modStall, still_modArr, still_modVec, still_modPath, still_modFdr, still_modCore, still_modDec, still_modSe, still_modNet, still_modCarrier, still_modTth, still_modGirth, still_modGroom, still_modAir, still_modIod, still_modStack, still_modSchool, still_mk, still_fold, still_ite, ite_self, still_stlCtl, still_sqCtl, still_resumeOp, still_tailOp, still_cqHeadOp, still_sclOp, still_xferSts, still_txTailOp, still_tthCtl, still_linkCfg, still_accErr, still_raiseVector, still_unmask, still_sclXfer, still_request, still_refCtl, still_rstCtl, still_fenceCtl, still_mgmtCtl, still_epochPut, still_budgetOp, still_clearFlt, still_trlCtl, still_grmCtl, still_grtCtlOp]))) | (refine regOk_still64 (fun w s => ?_); (first | with_reducible rfl | (simp only [still_modCarrier]; done))))

theorem regsOk_tthRegs (s : State) (i : Nat) : RegsOk (tthRegs s i) := by
  unfold tthRegs
  try dsimp only
  repeat' (first | exact regsOk_nil | refine regsOk_append ?_ ?_ | refine regsOk_cons ?_ ?_ | refine regsOk_map (fun k => ?_) | exact regOk_ro _ | exact regOk_ro64 _  | (refine regOk_still (fun w s => ?_); (first | with_reducible rfl | (simp only [still_modTth, still_tthCtl]; done) | (split <;> simp only [still_modStall, still_modArr, still_modVec, still_modPath, still_modFdr, still_modCore, still_modDec, still_modSe, still_modNet, still_modCarrier, still_modTth, still_modGirth, still_modGroom, still_modAir, still_modIod, still_modStack, still_modSchool, still_mk, still_fold, still_ite, ite_self, still_stlCtl, still_sqCtl, still_resumeOp, still_tailOp, still_cqHeadOp, still_sclOp, still_xferSts, still_txTailOp, still_tthCtl, still_linkCfg, still_accErr, still_raiseVector, still_unmask, still_sclXfer, still_request, still_refCtl, still_rstCtl, still_fenceCtl, still_mgmtCtl, still_epochPut, still_budgetOp, still_clearFlt, still_trlCtl, still_grmCtl, still_grtCtlOp]))) | (refine regOk_still64 (fun w s => ?_); (first | with_reducible rfl | (simp only [still_modStall, still_modArr, still_modVec, still_modPath, still_modFdr, still_modCore, still_modDec, still_modSe, still_modNet, still_modCarrier, still_modTth, still_modGirth, still_modGroom, still_modAir, still_modIod, still_modStack, still_modSchool, still_mk, still_fold, still_ite, ite_self, still_stlCtl, still_sqCtl, still_resumeOp, still_tailOp, still_cqHeadOp, still_sclOp, still_xferSts, still_txTailOp, still_tthCtl, still_linkCfg, still_accErr, still_raiseVector, still_unmask, still_sclXfer, still_request, still_refCtl, still_rstCtl, still_fenceCtl, still_mgmtCtl, still_epochPut, still_budgetOp, still_clearFlt, still_trlCtl, still_grmCtl, still_grtCtlOp]; done))))

theorem regsOk_linkRegs (s : State) (i : Nat) : RegsOk (linkRegs s i) := by
  unfold linkRegs
  try dsimp only
  repeat' (first | exact regsOk_nil | refine regsOk_append ?_ ?_ | refine regsOk_cons ?_ ?_ | refine regsOk_map (fun k => ?_) | exact regOk_ro _ | exact regOk_ro64 _  | (refine regOk_still (fun w s => ?_); (first | with_reducible rfl | (simp only [still_modIod, still_linkCfg]; done) | (split <;> simp only [still_modStall, still_modArr, still_modVec, still_modPath, still_modFdr, still_modCore, still_modDec, still_modSe, still_modNet, still_modCarrier, still_modTth, still_modGirth, still_modGroom, still_modAir, still_modIod, still_modStack, still_modSchool, still_mk, still_fold, still_ite, ite_self, still_stlCtl, still_sqCtl, still_resumeOp, still_tailOp, still_cqHeadOp, still_sclOp, still_xferSts, still_txTailOp, still_tthCtl, still_linkCfg, still_accErr, still_raiseVector, still_unmask, still_sclXfer, still_request, still_refCtl, still_rstCtl, still_fenceCtl, still_mgmtCtl, still_epochPut, still_budgetOp, still_clearFlt, still_trlCtl, still_grmCtl, still_grtCtlOp]))) | (refine regOk_still64 (fun w s => ?_); (first | with_reducible rfl | (simp only [still_modStall, still_modArr, still_modVec, still_modPath, still_modFdr, still_modCore, still_modDec, still_modSe, still_modNet, still_modCarrier, still_modTth, still_modGirth, still_modGroom, still_modAir, still_modIod, still_modStack, still_modSchool, still_mk, still_fold, still_ite, ite_self, still_stlCtl, still_sqCtl, still_resumeOp, still_tailOp, still_cqHeadOp, still_sclOp, still_xferSts, still_txTailOp, still_tthCtl, still_linkCfg, still_accErr, still_raiseVector, still_unmask, still_sclXfer, still_request, still_refCtl, still_rstCtl, still_fenceCtl, still_mgmtCtl, still_epochPut, still_budgetOp, still_clearFlt, still_trlCtl, still_grmCtl, still_grtCtlOp]; done))))

theorem regsOk_chanRegs (s : State) (p c : Nat) : RegsOk (chanRegs s p c) := by
  unfold chanRegs
  try dsimp only
  repeat' (first | exact regsOk_nil | refine regsOk_append ?_ ?_ | refine regsOk_cons ?_ ?_ | refine regsOk_map (fun k => ?_) | exact regOk_ro _ | exact regOk_ro64 _  | (refine regOk_still (fun w s => ?_); (first | with_reducible rfl | (simp only [still_modTth, still_txTailOp]; done) | (split <;> simp only [still_modStall, still_modArr, still_modVec, still_modPath, still_modFdr, still_modCore, still_modDec, still_modSe, still_modNet, still_modCarrier, still_modTth, still_modGirth, still_modGroom, still_modAir, still_modIod, still_modStack, still_modSchool, still_mk, still_fold, still_ite, ite_self, still_stlCtl, still_sqCtl, still_resumeOp, still_tailOp, still_cqHeadOp, still_sclOp, still_xferSts, still_txTailOp, still_tthCtl, still_linkCfg, still_accErr, still_raiseVector, still_unmask, still_sclXfer, still_request, still_refCtl, still_rstCtl, still_fenceCtl, still_mgmtCtl, still_epochPut, still_budgetOp, still_clearFlt, still_trlCtl, still_grmCtl, still_grtCtlOp]))) | (refine regOk_still64 (fun w s => ?_); (first | with_reducible rfl | (simp only [still_modTth]; done))))

theorem regsOk_hnsRegs (s : State) : RegsOk (hnsRegs s) := by
  unfold hnsRegs
  try dsimp only
  repeat' (first | exact regsOk_nil | refine regsOk_append ?_ ?_ | refine regsOk_cons ?_ ?_ | refine regsOk_map (fun k => ?_) | exact regOk_ro _ | exact regOk_ro64 _ | with_reducible exact regOk_rw (fun _ w s h => after_hnsCtl w s h) | with_reducible exact regOk_rw (fun _ w s h => after_provCtl w s h) | (refine regOk_still (fun w s => ?_); (first | with_reducible rfl | (simp only [still_mk, still_fold]; done) | (split <;> simp only [still_modStall, still_modArr, still_modVec, still_modPath, still_modFdr, still_modCore, still_modDec, still_modSe, still_modNet, still_modCarrier, still_modTth, still_modGirth, still_modGroom, still_modAir, still_modIod, still_modStack, still_modSchool, still_mk, still_fold, still_ite, ite_self, still_stlCtl, still_sqCtl, still_resumeOp, still_tailOp, still_cqHeadOp, still_sclOp, still_xferSts, still_txTailOp, still_tthCtl, still_linkCfg, still_accErr, still_raiseVector, still_unmask, still_sclXfer, still_request, still_refCtl, still_rstCtl, still_fenceCtl, still_mgmtCtl, still_epochPut, still_budgetOp, still_clearFlt, still_trlCtl, still_grmCtl, still_grtCtlOp]))) | (refine regOk_still64 (fun w s => ?_); (first | with_reducible rfl | (simp only [still_mk, still_fold]; done))))

theorem regsOk_atmRegs (s : State) : RegsOk (atmRegs s) := by
  unfold atmRegs
  extract_lets a clearRef clearGait
  have hr (w s) : still (clearRef w s) = still s := still_modAir ..
  have hg (w s) : still (clearGait w s) = still s := (still_modAir ..).trans (still_voidWhen ..)
  clear_value clearRef clearGait a
  exact regsOk_cons (regOk_still hr) (regsOk_cons (regOk_still still_refCtl) (regsOk_cons (regOk_still hg) (regsOk_cons (regOk_ro _)
    (regsOk_cons (regOk_still64 still_epochPut) (regsOk_cons (regOk_ro _) (regsOk_cons (regOk_ro _) regsOk_nil))))))

theorem regsOk_bootRegs (s : State) : RegsOk (bootRegs s) := by
  unfold bootRegs
  try dsimp only
  repeat' (first | exact regsOk_nil | refine regsOk_append ?_ ?_ | refine regsOk_cons ?_ ?_ | refine regsOk_map (fun k => ?_) | exact regOk_ro _ | exact regOk_ro64 _  | (refine regOk_still (fun w s => ?_); (first | with_reducible rfl | (simp only [still_mk, still_fold, still_rstCtl, still_fenceCtl]; done) | (split <;> simp only [still_modStall, still_modArr, still_modVec, still_modPath, still_modFdr, still_modCore, still_modDec, still_modSe, still_modNet, still_modCarrier, still_modTth, still_modGirth, still_modGroom, still_modAir, still_modIod, still_modStack, still_modSchool, still_mk, still_fold, still_ite, ite_self, still_stlCtl, still_sqCtl, still_resumeOp, still_tailOp, still_cqHeadOp, still_sclOp, still_xferSts, still_txTailOp, still_tthCtl, still_linkCfg, still_accErr, still_raiseVector, still_unmask, still_sclXfer, still_request, still_refCtl, still_rstCtl, still_fenceCtl, still_mgmtCtl, still_epochPut, still_budgetOp, still_clearFlt, still_trlCtl, still_grmCtl, still_grtCtlOp]))) | (refine regOk_still64 (fun w s => ?_); (first | with_reducible rfl | (simp only [still_modStall, still_modArr, still_modVec, still_modPath, still_modFdr, still_modCore, still_modDec, still_modSe, still_modNet, still_modCarrier, still_modTth, still_modGirth, still_modGroom, still_modAir, still_modIod, still_modStack, still_modSchool, still_mk, still_fold, still_ite, ite_self, still_stlCtl, still_sqCtl, still_resumeOp, still_tailOp, still_cqHeadOp, still_sclOp, still_xferSts, still_txTailOp, still_tthCtl, still_linkCfg, still_accErr, still_raiseVector, still_unmask, still_sclXfer, still_request, still_refCtl, still_rstCtl, still_fenceCtl, still_mgmtCtl, still_epochPut, still_budgetOp, still_clearFlt, still_trlCtl, still_grmCtl, still_grtCtlOp]; done))))

theorem regsOk_stlMgmtRegs (s : State) : RegsOk (stlMgmtRegs s) := by
  unfold stlMgmtRegs
  try dsimp only
  repeat' (first | exact regsOk_nil | refine regsOk_append ?_ ?_ | refine regsOk_cons ?_ ?_ | refine regsOk_map (fun k => ?_) | exact regOk_ro _ | exact regOk_ro64 _  | (refine regOk_still (fun w s => ?_); (first | with_reducible rfl | (simp only [still_mgmtCtl]; done) | (split <;> simp only [still_modStall, still_modArr, still_modVec, still_modPath, still_modFdr, still_modCore, still_modDec, still_modSe, still_modNet, still_modCarrier, still_modTth, still_modGirth, still_modGroom, still_modAir, still_modIod, still_modStack, still_modSchool, still_mk, still_fold, still_ite, ite_self, still_stlCtl, still_sqCtl, still_resumeOp, still_tailOp, still_cqHeadOp, still_sclOp, still_xferSts, still_txTailOp, still_tthCtl, still_linkCfg, still_accErr, still_raiseVector, still_unmask, still_sclXfer, still_request, still_refCtl, still_rstCtl, still_fenceCtl, still_mgmtCtl, still_epochPut, still_budgetOp, still_clearFlt, still_trlCtl, still_grmCtl, still_grtCtlOp]))) | (refine regOk_still64 (fun w s => ?_); (first | with_reducible rfl | (simp only [still_modStall, still_modArr, still_modVec, still_modPath, still_modFdr, still_modCore, still_modDec, still_modSe, still_modNet, still_modCarrier, still_modTth, still_modGirth, still_modGroom, still_modAir, still_modIod, still_modStack, still_modSchool, still_mk, still_fold, still_ite, ite_self, still_stlCtl, still_sqCtl, still_resumeOp, still_tailOp, still_cqHeadOp, still_sclOp, still_xferSts, still_txTailOp, still_tthCtl, still_linkCfg, still_accErr, still_raiseVector, still_unmask, still_sclXfer, still_request, still_refCtl, still_rstCtl, still_fenceCtl, still_mgmtCtl, still_epochPut, still_budgetOp, still_clearFlt, still_trlCtl, still_grmCtl, still_grtCtlOp]; done))))

theorem regsOk_pwrRegs (s : State) : RegsOk (pwrRegs s) := by
  unfold pwrRegs
  try dsimp only
  repeat' (first | exact regsOk_nil | refine regsOk_append ?_ ?_ | refine regsOk_cons ?_ ?_ | refine regsOk_map (fun k => ?_) | exact regOk_ro _ | exact regOk_ro64 _  | (refine regOk_still (fun w s => ?_); (first | with_reducible rfl | (simp only [still_mk, still_fold]; done) | (split <;> simp only [still_modStall, still_modArr, still_modVec, still_modPath, still_modFdr, still_modCore, still_modDec, still_modSe, still_modNet, still_modCarrier, still_modTth, still_modGirth, still_modGroom, still_modAir, still_modIod, still_modStack, still_modSchool, still_mk, still_fold, still_ite, ite_self, still_stlCtl, still_sqCtl, still_resumeOp, still_tailOp, still_cqHeadOp, still_sclOp, still_xferSts, still_txTailOp, still_tthCtl, still_linkCfg, still_accErr, still_raiseVector, still_unmask, still_sclXfer, still_request, still_refCtl, still_rstCtl, still_fenceCtl, still_mgmtCtl, still_epochPut, still_budgetOp, still_clearFlt, still_trlCtl, still_grmCtl, still_grtCtlOp]))) | (refine regOk_still64 (fun w s => ?_); (first | with_reducible rfl | (simp only [still_budgetOp]; done))))

theorem regsOk_fltRegs (s : State) : RegsOk (fltRegs s) := by
  unfold fltRegs
  try dsimp only
  repeat' (first | exact regsOk_nil | refine regsOk_append ?_ ?_ | refine regsOk_cons ?_ ?_ | refine regsOk_map (fun k => ?_) | exact regOk_ro _ | exact regOk_ro64 _  | (refine regOk_still (fun w s => ?_); (first | with_reducible rfl | (simp only [still_mk, still_fold, still_clearFlt]; done) | (split <;> simp only [still_modStall, still_modArr, still_modVec, still_modPath, still_modFdr, still_modCore, still_modDec, still_modSe, still_modNet, still_modCarrier, still_modTth, still_modGirth, still_modGroom, still_modAir, still_modIod, still_modStack, still_modSchool, still_mk, still_fold, still_ite, ite_self, still_stlCtl, still_sqCtl, still_resumeOp, still_tailOp, still_cqHeadOp, still_sclOp, still_xferSts, still_txTailOp, still_tthCtl, still_linkCfg, still_accErr, still_raiseVector, still_unmask, still_sclXfer, still_request, still_refCtl, still_rstCtl, still_fenceCtl, still_mgmtCtl, still_epochPut, still_budgetOp, still_clearFlt, still_trlCtl, still_grmCtl, still_grtCtlOp]))) | (refine regOk_still64 (fun w s => ?_); (first | with_reducible rfl | (simp only [still_mk, still_fold]; done))))

theorem regsOk_trlRegs (s : State) : RegsOk (trlRegs s) := by
  unfold trlRegs
  try dsimp only
  repeat' (first | exact regsOk_nil | refine regsOk_append ?_ ?_ | refine regsOk_cons ?_ ?_ | refine regsOk_map (fun k => ?_) | exact regOk_ro _ | exact regOk_ro64 _  | (refine regOk_still (fun w s => ?_); (first | with_reducible rfl | (simp only [still_mk, still_fold, still_trlCtl]; done) | (split <;> simp only [still_modStall, still_modArr, still_modVec, still_modPath, still_modFdr, still_modCore, still_modDec, still_modSe, still_modNet, still_modCarrier, still_modTth, still_modGirth, still_modGroom, still_modAir, still_modIod, still_modStack, still_modSchool, still_mk, still_fold, still_ite, ite_self, still_stlCtl, still_sqCtl, still_resumeOp, still_tailOp, still_cqHeadOp, still_sclOp, still_xferSts, still_txTailOp, still_tthCtl, still_linkCfg, still_accErr, still_raiseVector, still_unmask, still_sclXfer, still_request, still_refCtl, still_rstCtl, still_fenceCtl, still_mgmtCtl, still_epochPut, still_budgetOp, still_clearFlt, still_trlCtl, still_grmCtl, still_grtCtlOp]))) | (refine regOk_still64 (fun w s => ?_); (first | with_reducible rfl | (simp only [still_modStall, still_modArr, still_modVec, still_modPath, still_modFdr, still_modCore, still_modDec, still_modSe, still_modNet, still_modCarrier, still_modTth, still_modGirth, still_modGroom, still_modAir, still_modIod, still_modStack, still_modSchool, still_mk, still_fold, still_ite, ite_self, still_stlCtl, still_sqCtl, still_resumeOp, still_tailOp, still_cqHeadOp, still_sclOp, still_xferSts, still_txTailOp, still_tthCtl, still_linkCfg, still_accErr, still_raiseVector, still_unmask, still_sclXfer, still_request, still_refCtl, still_rstCtl, still_fenceCtl, still_mgmtCtl, still_epochPut, still_budgetOp, still_clearFlt, still_trlCtl, still_grmCtl, still_grtCtlOp]; done))))

theorem regsOk_grmRegs (s : State) : RegsOk (grmRegs s) := by
  unfold grmRegs
  try dsimp only
  repeat' (first | exact regsOk_nil | refine regsOk_append ?_ ?_ | refine regsOk_cons ?_ ?_ | refine regsOk_map (fun k => ?_) | exact regOk_ro _ | exact regOk_ro64 _ | with_reducible exact regOk_rw (fun _ w s h => after_grmUpdCtl w s h) | (refine regOk_still (fun w s => ?_); (first | with_reducible rfl | (simp only [still_modGroom, still_mk, still_fold, still_grmCtl]; done) | (split <;> simp only [still_modStall, still_modArr, still_modVec, still_modPath, still_modFdr, still_modCore, still_modDec, still_modSe, still_modNet, still_modCarrier, still_modTth, still_modGirth, still_modGroom, still_modAir, still_modIod, still_modStack, still_modSchool, still_mk, still_fold, still_ite, ite_self, still_stlCtl, still_sqCtl, still_resumeOp, still_tailOp, still_cqHeadOp, still_sclOp, still_xferSts, still_txTailOp, still_tthCtl, still_linkCfg, still_accErr, still_raiseVector, still_unmask, still_sclXfer, still_request, still_refCtl, still_rstCtl, still_fenceCtl, still_mgmtCtl, still_epochPut, still_budgetOp, still_clearFlt, still_trlCtl, still_grmCtl, still_grtCtlOp]))) | (refine regOk_still64 (fun w s => ?_); (first | with_reducible rfl | (simp only [still_mk, still_fold]; done))))

theorem regsOk_grtRegs (s : State) (g : Nat) : RegsOk (grtRegs s g) := by
  unfold grtRegs
  try dsimp only
  repeat' (first | exact regsOk_nil | refine regsOk_append ?_ ?_ | refine regsOk_cons ?_ ?_ | refine regsOk_map (fun k => ?_) | exact regOk_ro _ | exact regOk_ro64 _  | (refine regOk_still (fun w s => ?_); (first | with_reducible rfl | (simp only [still_modGirth, still_ite, ite_self, still_grtCtlOp]; done) | (split <;> simp only [still_modStall, still_modArr, still_modVec, still_modPath, still_modFdr, still_modCore, still_modDec, still_modSe, still_modNet, still_modCarrier, still_modTth, still_modGirth, still_modGroom, still_modAir, still_modIod, still_modStack, still_modSchool, still_mk, still_fold, still_ite, ite_self, still_stlCtl, still_sqCtl, still_resumeOp, still_tailOp, still_cqHeadOp, still_sclOp, still_xferSts, still_txTailOp, still_tthCtl, still_linkCfg, still_accErr, still_raiseVector, still_unmask, still_sclXfer, still_request, still_refCtl, still_rstCtl, still_fenceCtl, still_mgmtCtl, still_epochPut, still_budgetOp, still_clearFlt, still_trlCtl, still_grmCtl, still_grtCtlOp]))) | (refine regOk_still64 (fun w s => ?_); (first | with_reducible rfl | (simp only [still_modStall, still_modArr, still_modVec, still_modPath, still_modFdr, still_modCore, still_modDec, still_modSe, still_modNet, still_modCarrier, still_modTth, still_modGirth, still_modGroom, still_modAir, still_modIod, still_modStack, still_modSchool, still_mk, still_fold, still_ite, ite_self, still_stlCtl, still_sqCtl, still_resumeOp, still_tailOp, still_cqHeadOp, still_sclOp, still_xferSts, still_txTailOp, still_tthCtl, still_linkCfg, still_accErr, still_raiseVector, still_unmask, still_sclXfer, still_request, still_refCtl, still_rstCtl, still_fenceCtl, still_mgmtCtl, still_epochPut, still_budgetOp, still_clearFlt, still_trlCtl, still_grmCtl, still_grtCtlOp]; done))))

theorem atOk_queRegs (s : State) (i x : Nat) : AtOk (queRegs s i x) := by
  unfold queRegs
  (repeat' split) <;> first | with_reducible exact atOk_regIn (regsOk_queueRegs _ _ _) _ | with_reducible exact atOk_regIn (regsOk_answerRegs _ _) _ | with_reducible exact atOk_none

theorem atOk_msixRegs (s : State) (i x : Nat) : AtOk (msixRegs s i x) := by
  unfold msixRegs; dsimp only
  split
  · refine atOk_regIn ?_ _
    refine regsOk_cons (regOk_still fun w s => still_modStall ..) (regsOk_cons (regOk_still fun w s => still_modStall ..)
      (regsOk_cons (regOk_still fun w s => still_modStall ..) (regsOk_cons (regOk_still fun w s => ?_) regsOk_nil)))
    split
    · exact still_modStall ..
    · exact still_unmask ..
  · split
    · exact atOk_regIn (regsOk_cons (regOk_ro _) regsOk_nil) _
    · exact atOk_none

theorem atOk_portRegs (s : State) (p x : Nat) : AtOk (portRegs s p x) := by
  unfold portRegs
  (repeat' split) <;> first | with_reducible exact atOk_regIn (regsOk_tthRegs _ _) _ | with_reducible exact atOk_regIn (regsOk_chanRegs _ _ _) _ | with_reducible exact atOk_none

theorem atOk_iodReg (s : State) (d x : Nat) : AtOk (iodReg s d x) := by
  unfold iodReg
  (repeat' split) <;> first | with_reducible exact atOk_portRegs _ _ _ | with_reducible exact atOk_regIn (regsOk_linkRegs _ _) _ | with_reducible exact atOk_none

theorem regOk_forwarded (d x : Nat) (r : Reg × Bool) : RegOk (forwarded d x r).1 := fun w0 v s h => by
  unfold forwarded; dsimp only
  rw [still_request]; exact h

theorem atOk_some {r : Reg × Bool} (h : RegOk r.1) : AtOk (some r) := fun _ hx => by cases hx; exact h

/-- A register whose write is refused and counted. -/
theorem regOk_refused (r : Reg) (i : Nat) : RegOk { r with write := fun _ s => accErr s i } := fun w0 v s h => by
  dsimp only; rw [still_accErr]; exact h

theorem atOk_stallPortReg (s : State) (i p x : Nat) : AtOk (stallPortReg s i p x) := by
  unfold stallPortReg
  split
  · exact atOk_none
  · extract_lets f act
    split
    · exact atOk_some (regOk_refused _ _)
    · split
      · refine atOk_some (fun w0 v s h => ?_)
        unfold act f
        refine regOk_forwarded _ _ _ _ _ _ ?_
        split
        · rw [still_accErr]; exact h
        · exact h
      · exact atOk_some (regOk_forwarded _ _ _)

theorem atOk_mirrorPortReg (s : State) (p x : Nat) : AtOk (mirrorPortReg s p x) := by
  unfold mirrorPortReg
  split
  · exact atOk_none
  · split
    · exact atOk_some (regOk_forwarded _ _ _)
    · exact atOk_some (regOk_refused _ _)

/-- The registers of a unit's sub-block. -/
def BlockOk (b : Option SubBlock) : Prop := ∀ x, b = some x → AtOk x.reg

theorem blockOk_none : BlockOk none := fun _ h => by cases h

theorem blockOk_some {b : SubBlock} (h : AtOk b.reg) : BlockOk (some b) := fun _ hx => by cases hx; exact h

theorem blockOk_unit {l : List (Nat × Reg)} (h : RegsOk l) (x : Nat) (o : Option Nat) : BlockOk (some (unitBlock l x o)) :=
  blockOk_some (atOk_regIn h x)

theorem blockOk_ite {c : Prop} [Decidable c] {a b : Option SubBlock} (ha : BlockOk a) (hb : BlockOk b) : BlockOk (if c then a else b) := by
  split
  · exact ha
  · exact hb

theorem blockOk_subBlock (s : State) (who : Option Nat) (y : Nat) : BlockOk (subBlock s who y) := by
  unfold subBlock
  extract_lets present
  have hp {b : Bool} {x : SubBlock} (h : BlockOk (some x)) : BlockOk (present b x) := by
    unfold present; split
    · exact h
    · exact blockOk_none
  clear_value present
  repeat' (first
    | with_reducible exact blockOk_none
    | with_reducible exact hp (blockOk_unit (regsOk_arrRegs _ _) _ _) | with_reducible exact blockOk_unit (regsOk_pathRegs _ _) _ _ | with_reducible exact blockOk_unit (regsOk_feederRegs _ _) _ _
    | with_reducible exact hp (blockOk_unit (regsOk_coreRegs _ _) _ _) | with_reducible exact hp (blockOk_unit (regsOk_decRegs _ _) _ _) | with_reducible exact blockOk_unit (regsOk_seRegs _ _) _ _
    | with_reducible exact blockOk_unit (regsOk_netRegs _ _) _ _ | with_reducible exact blockOk_some (atOk_regIn (regsOk_xferRegs _ _) _)
    | with_reducible exact blockOk_some (atOk_regIn (regsOk_carrierRegs _ _) _) | with_reducible exact blockOk_some (atOk_regIn (regsOk_cons (regOk_ro _) regsOk_nil) _)
    | with_reducible exact hp (blockOk_some (atOk_regIn (regsOk_cons (regOk_ro _) regsOk_nil) _))
    | with_reducible exact blockOk_some (atOk_stallPortReg _ _ _ _) | with_reducible exact blockOk_some (atOk_mirrorPortReg _ _ _) | with_reducible refine blockOk_ite ?_ ?_ | split)

theorem atOk_windowReg (s : State) (i y : Nat) : AtOk (windowReg s i y) := by
  unfold windowReg
  split
  · split
    · exact blockOk_subBlock _ _ _ _ ‹_›
    · exact atOk_none
  · exact atOk_none

theorem atOk_mirrorReg (s : State) (y : Nat) : AtOk (mirrorReg s y) := by
  unfold mirrorReg
  split
  · rename_i b hb
    intro x hx
    obtain ⟨r, hr, rfl⟩ := Option.map_eq_some_iff.1 hx
    have h := blockOk_subBlock _ _ _ _ hb _ hr
    split
    · exact h
    · exact regOk_refused _ _
  · exact atOk_none

theorem atOk_snapReg (s : State) (x : Nat) : AtOk (snapReg s x) := by
  unfold snapReg; dsimp only
  split <;> exact atOk_regIn (regsOk_cons (regOk_ro64 _) regsOk_nil) _

theorem atOk_fdrMgmtReg (s : State) (x : Nat) : AtOk (fdrMgmtReg s x) := by
  unfold fdrMgmtReg; dsimp only
  split
  · split
    · exact atOk_none
    · refine atOk_regIn (regsOk_cons (regOk_still fun w s => ?_) regsOk_nil) _
      exact still_mk ..
  · split
    · split
      · exact atOk_regIn (regsOk_cons (regOk_still fun w s => still_modStack ..) regsOk_nil) _
      · exact atOk_none
    · exact atOk_none

theorem regOk_window (v : W32) : RegOk (regWindow v) := fun _ _ s h => (still_accErr s 0).symm ▸ h

theorem atOk_mgmtReg (s : State) (x : Nat) : AtOk (mgmtReg s x) := by
  unfold mgmtReg
  extract_lets y d
  repeat' (first
    | with_reducible exact atOk_none | with_reducible exact atOk_mirrorReg _ _ | with_reducible exact atOk_regIn (regsOk_cons (regOk_ro _) regsOk_nil) _ | with_reducible exact atOk_regIn (regsOk_cons (regOk_window _) regsOk_nil) _
    | with_reducible exact atOk_regIn (regsOk_schRegs _ _) _ | with_reducible exact atOk_regIn (regsOk_hnsRegs _) _ | with_reducible exact atOk_regIn (regsOk_atmRegs _) _
    | with_reducible exact atOk_regIn (regsOk_bootRegs _) _ | with_reducible exact atOk_regIn (regsOk_stlMgmtRegs _) _ | with_reducible exact atOk_regIn (regsOk_grmRegs _) _
    | with_reducible exact atOk_regIn (regsOk_pwrRegs _) _ | with_reducible exact atOk_regIn (regsOk_fltRegs _) _ | with_reducible exact atOk_snapReg _ _ | with_reducible exact atOk_regIn (regsOk_trlRegs _) _
    | with_reducible exact atOk_regIn (regsOk_grtRegs _ _) _ | with_reducible exact atOk_fdrMgmtReg _ _
    | (intro x hx; obtain ⟨r, -, rfl⟩ := Option.map_eq_some_iff.1 hx; exact regOk_forwarded _ _ _) | split)

theorem atOk_regAt (s : State) (who : Option Nat) (off : Nat) : AtOk (regAt s who off) := by
  unfold regAt
  repeat' (first
    | with_reducible exact atOk_none | with_reducible exact atOk_regIn (regsOk_common _ _) _ | with_reducible exact atOk_regIn (regsOk_stlRegs _ _) _ | with_reducible exact atOk_queRegs _ _ _
    | with_reducible exact atOk_msixRegs _ _ _ | with_reducible exact atOk_windowReg _ _ _ | with_reducible exact atOk_mgmtReg _ _ | split)
theorem after_write32 {w0 : Lasting} (s : State) (who : Option Nat) (port fn off : Nat) (w : W32) (held : Option (Nat × W32))
    (hw : w0.After (still s)) : w0.After (still (write32 s who port fn off w held)) := by
  unfold write32
  split
  · rw [still_countErr]; exact hw
  · split
    · rw [still_modFunc]; exact hw
    · exact atOk_regAt _ _ _ _ ‹_› _ _ _ hw
  · exact atOk_regAt _ _ _ _ ‹_› _ _ _ hw

theorem after_writeBar0 {w0 : Lasting} (s : State) (port fn off : Nat) (data : W64) (wide : Bool) (hw : w0.After (still s)) :
    w0.After (still (writeBar0 s port fn off data wide)) := by
  unfold writeBar0
  extract_lets who held s1
  have h1 : w0.After (still s1) := by unfold s1; rw [still_modFunc]; exact hw
  clear_value s1
  have h2 : w0.After (still (write32 (write32 s1 who port fn off (data.setWidth 32) none) who port fn (off + 4) ((data >>> 32).setWidth 32) none)) :=
    after_write32 _ _ _ _ _ _ _ (after_write32 _ _ _ _ _ _ _ h1)
  repeat' (first
    | exact h1 | exact h2 | (rw [still_countErr]; exact h1) | (rw [still_accErr]; exact h1) | exact (atOk_regAt _ _ _ (_, false) ‹_› _ _ _ h1)
    | exact after_write32 _ _ _ _ _ _ _ h1 | split)

theorem after_execRegisterWrite {w0 : Lasting} (port : Fin 2) (fn : BitVec 4) (addr : BitVec 20) (data : W64) (wide : Bool) (s : State)
    (hw : w0.After (still s)) : AfterO w0 (execRegisterWrite port fn addr data wide s) :=
  afterO_next (after_writeBar0 _ _ _ _ _ _ hw)

theorem still_read32 (s : State) (who : Option Nat) (port fn off : Nat) : still (read32 s who port fn off).2 = still s := by
  unfold read32
  (repeat' split) <;> first | with_reducible rfl | exact still_countErr .. | exact still_modFunc ..

theorem still_readBar0 (s : State) (port fn off : Nat) (wide : Bool) : still (readBar0 s port fn off wide).2 = still s := by
  unfold readBar0
  extract_lets who two a
  have h2 (s : State) : still (two s).2 = still s := by
    unfold two; exact (still_read32 ..).trans (still_read32 ..)
  have ha : still a.2 = still s := still_read32 ..
  clear_value two a
  (repeat' split) <;> first | with_reducible rfl | exact still_countErr .. | exact h2 _ | exact ha

@[simp] theorem still_takeSnapshot (s : State) (g : Nat) :
    still (takeSnapshot s g) = still s := by
  simp only [takeSnapshot, still_mk, still_fold]

@[simp] theorem still_execSnapshot (group : Fin 16) (s : State) :
    stillO (execSnapshot group s) = some (still s) := by
  unfold execSnapshot
  try dsimp only
  (repeat' split) <;> first | with_reducible rfl | (simp only [stillO_next, still_takeSnapshot]; rw [takeAct_still (by assumption)]) | (rw [takeAct_still (by assumption)]) | simp only [stillO_next, still_takeSnapshot]

end Sys2Proof.Machine
end

