-- ==== Sys2Proof/Laws/LastingMessages.lean ====
section
/-!
SUPPORT. What lasts across each operation and command of Machine/Messages.lean: `still_x` where operation `x` leaves it all
as it is, `after_x` where it changes it as `Lasting.After` says.
-/
namespace Sys2Proof.Machine

@[simp] theorem still_maskVectors (s : State) (i : Nat) :
    still (maskVectors s i) = still s := by
  simp only [maskVectors, still_modStall]

@[simp] theorem still_flrOp (s : State) (port fn : Nat) :
    still (flrOp s port fn) = still s := by
  unfold flrOp
  try dsimp only
  (repeat' split) <;> first | with_reducible rfl | simp only [still_startReset, still_maskVectors, still_modPort]

@[simp] theorem still_portReset (s : State) (port : Nat) :
    still (portReset s port) = still s := by
  simp only [portReset, still_ite, still_foldl, implies_true, ite_self, still_maskVectors, still_modFunc, still_modPort]

@[simp] theorem still_pstateOp (s : State) (port fn : Nat) (tag : W16) :
    still (pstateOp s port fn tag) = still s := by
  simp only [pstateOp, still_ite, ite_self, still_modPort, still_modFunc, still_flrOp, still_portReset, still_releaseAll]

@[simp] theorem still_hold (s : State) (g : Nat) (h : HeldReq) :
    still (hold s g h) = still s := by
  simp only [hold, still_mk, still_ite, still_fold, still_foldl, stillO_next, stillO_ite, implies_true, ite_self, still_modGirth]

@[simp] theorem still_pstateReq (s : State) (port : Nat) (fn : Nat) (tag : W16) :
    still (pstateReq s port fn tag) = still s := by
  simp only [pstateReq, still_mk, still_ite, still_fold, still_foldl, stillO_next, stillO_ite, implies_true, ite_self, still_pstateOp, still_takeMsg, still_hold]

@[simp] theorem still_execPstate (port : Fin 2) (fn : BitVec 4) (tag : W16) (s : State) :
    stillO (execPstate port fn tag s) = some (still s) := by
  simp only [execPstate, still_mk, still_ite, still_fold, still_foldl, stillO_next, stillO_ite, implies_true, ite_self, still_pstateReq]

theorem after_hostRequest {w0 : Lasting} (s : State) (g : Nat) (opc : Byte) (h : HeldReq) (f : State → State)
    (hf : ∀ s, w0.After (still s) → w0.After (still (f s))) (hw : w0.After (still s)) :
    w0.After (still (hostRequest s g opc h f)) := by
  unfold hostRequest
  split
  · split
    · exact hw
    · exact hf _ (by rw [still_takeMsg]; exact hw)
  · split
    · rw [still_modGirth]; exact hw
    · rw [still_hold]; exact hw

theorem still_bar2Bytes (s : State) (i x n : Nat) : still (bar2Bytes s i x n).2 = still s := by
  induction n generalizing x with
  | zero => rfl
  | succ n ih =>
    unfold bar2Bytes
    extract_lets r
    have hr : still r.2 = still s := ih _
    clear_value r
    split
    · exact hr
    · split
      · exact hr
      · exact (still_drew _).trans hr

@[simp] theorem still_bar2Touch (s : State) (i x n : Nat) (write : Bool) :
    still (bar2Touch s i x n write) = still s := by
  simp only [bar2Touch, still_mk, still_fold]

theorem still_bar2Read (s : State) (port fn x n : Nat) : still (bar2Read s port fn x n).2 = still s := by
  unfold bar2Read
  extract_lets zeros
  split
  · rfl
  · split
    · rfl
    · split
      · exact still_accErr ..
      · extract_lets r s1
        have h1 : still s1 = still s := (still_bar2Touch ..).trans (still_bar2Bytes ..)
        clear_value s1
        split
        · exact (still_accErr ..).trans h1
        · exact h1

theorem after_bar2Write {w0 : Lasting} (s : State) (port fn x : Nat) (bs : List Byte) (ue : Bool) (hw : w0.After (still s)) :
    w0.After (still (bar2Write s port fn x bs ue)) := by
  unfold bar2Write
  try dsimp only
  repeat' (first | with_reducible assumption | with_reducible refine afterO_next ?_ | with_reducible apply after_devWrite | with_reducible refine after_foldl _ (fun _ _ _ => ?_) _ _ ?_ | (simp only [still_ite, ite_self, still_accErr, still_bar2Touch, still_poisonBlock]; done) | (simpa only [still_mk, still_ite, still_fold, still_foldl, stillO_next, stillO_ite, implies_true, ite_self, still_accErr, still_bar2Touch, still_poisonBlock] using hw) | split | (simp only [still_bar2Touch, still_poisonBlock]))

@[simp] theorem still_sendCpls (s : State) (g : Nat) (tag : W16) (addr : Nat) (bs : List Byte) :
    still (sendCpls s g tag addr bs) = still s := by
  simp only [sendCpls, still_foldl, implies_true, still_emit]

theorem after_windowRead {w0 : Lasting} (s : State) (g fn : Nat) (tag : W16) (addr n : Nat) (hw : w0.After (still s)) :
    w0.After (still (windowRead s g fn tag addr n)) := by
  refine after_hostRequest _ _ _ _ _ (fun s h => ?_) hw
  dsimp only
  rw [still_sendCpls, still_bar2Read]; exact h

theorem after_windowWrite {w0 : Lasting} (s : State) (g fn addr : Nat) (data : List Byte) (ue : Bool) (hw : w0.After (still s)) :
    w0.After (still (windowWrite s g fn addr data ue)) :=
  after_hostRequest _ _ _ _ _ (fun _ h => after_bar2Write _ _ _ _ _ _ h) hw

theorem after_execMrd {w0 : Lasting} (port : Fin 2) (fn : BitVec 4) (space : BitVec 2) (hostPort : Fin 2) (tag : W16) (addr : W64)
    (bytes : BitVec 10) (s : State) (hw : w0.After (still s)) : AfterO w0 (execMrd port fn space hostPort tag addr bytes s) := by
  unfold execMrd
  extract_lets g
  split
  · exact afterO_next (after_windowRead _ _ _ _ _ _ hw)
  · split
    · split
      · split
        · exact afterO_next hw
        · exact afterO_next (by rw [still_request, still_takeMsg]; exact hw)
      · exact afterO_next (by rw [still_emit, still_takeMsg]; exact hw)
    · exact afterO_next hw

theorem after_execMwr {w0 : Lasting} (port : Fin 2) (fn : BitVec 4) (space : BitVec 2) (hostPort : Fin 2) (addr : W64)
    (data : List Byte) (ue : Bool) (s : State) (hw : w0.After (still s)) :
    AfterO w0 (execMwr port fn space hostPort addr data ue s) := by
  unfold execMwr
  extract_lets g
  split
  · exact afterO_next (after_windowWrite _ _ _ _ _ _ hw)
  · split
    · split
      · exact afterO_next (by rw [still_toHost, still_takeMsg]; exact hw)
      · exact afterO_next (by rw [still_takeMsg]; exact hw)
    · exact afterO_next hw

theorem after_registerRead {w0 : Lasting} (s : State) (g fn : Nat) (tag : W16) (addr : Nat) (wide : Bool) (hw : w0.After (still s)) :
    w0.After (still (registerRead s g fn tag addr wide)) := by
  refine after_hostRequest _ _ _ _ _ (fun s h => ?_) hw
  split
  · rw [still_hold]; exact h
  · dsimp only
    rw [still_emit, still_readBar0]; exact h

theorem after_execRrd {w0 : Lasting} (port : Fin 2) (fn : BitVec 4) (tag : W16) (addr : BitVec 20) (wide : Bool) (s : State)
    (hw : w0.After (still s)) : AfterO w0 (execRrd port fn tag addr wide s) := afterO_next (after_registerRead _ _ _ _ _ _ hw)

theorem after_iodWrite {w0 : Lasting} (s : State) (d x : Nat) (data : W64) (wide : Bool) (hw : w0.After (still s)) :
    w0.After (still (iodWrite s d x data wide)) := by
  unfold iodWrite
  extract_lets narrow
  have hn (s x w) (h : w0.After (still s)) : w0.After (still (narrow s x w)) := by
    unfold narrow
    split
    · split
      · exact h
      · exact atOk_iodReg _ _ _ (_, false) ‹_› _ _ _ h
    · exact h
  clear_value narrow
  split
  · split
    · split
      · exact atOk_iodReg _ _ _ (_, false) ‹_› _ _ _ hw
      · exact hw
    · split
      · exact hn _ _ _ (hn _ _ _ hw)
      · exact atOk_iodReg _ _ _ (_, false) ‹_› _ _ _ hw
  · exact hw

theorem after_execRwr {w0 : Lasting} (iod : Fin 2) (addr : W16) (data : W64) (wide : Bool) (s : State) (hw : w0.After (still s)) :
    AfterO w0 (execRwr iod addr data wide s) := by
  unfold execRwr
  split
  · exact afterO_next (after_iodWrite _ _ _ _ _ hw)
  · exact afterO_next hw

theorem after_registerWrite {w0 : Lasting} (s : State) (g fn addr : Nat) (data : W64) (wide : Bool) (hw : w0.After (still s)) :
    w0.After (still (registerWrite s g fn addr data wide)) :=
  after_hostRequest _ _ _ _ _ (fun _ h => after_writeBar0 _ _ _ _ _ _ h) hw

theorem after_execPwr {w0 : Lasting} (port : Fin 2) (fn : BitVec 4) (addr : BitVec 20) (data : W64) (wide : Bool) (s : State)
    (hw : w0.After (still s)) : AfterO w0 (execPwr port fn addr data wide s) := afterO_next (after_registerWrite _ _ _ _ _ _ hw)

theorem after_runHeld {w0 : Lasting} (s : State) (a1 : HeldReq) (hw : w0.After (still s)) : w0.After (still (runHeld s a1)) := by
  cases a1
  · exact after_windowRead _ _ _ _ _ _ hw
  · exact after_windowWrite _ _ _ _ _ _ hw
  · exact after_registerRead _ _ _ _ _ _ hw
  · exact after_registerWrite _ _ _ _ _ _ hw
  · exact (still_pstateReq ..).symm ▸ hw

theorem after_settleHeld {w0 : Lasting} (s : State) (g : Nat) (hw : w0.After (still s)) : w0.After (still (settleHeld s g)) := by
  unfold settleHeld
  dsimp only
  split
  · exact after_foldl _ (fun _ _ h => after_runHeld _ _ h) _ _ (by rw [still_modGirth]; exact hw)
  · exact hw

theorem after_execGrtTrainingPhaseEnd {w0 : Lasting} (g : Fin 2) (failCause : BitVec 4) (param : GirthParam) (s : State)
    (hw : w0.After (still s)) : AfterO w0 (execGrtTrainingPhaseEnd g failCause param s) :=
  afterO_next (after_settleHeld _ _ (by rw [still_girthPhaseEnd]; exact hw))

theorem after_execGirthFailWindow {w0 : Lasting} (g : Fin 2) (s : State) (hw : w0.After (still s)) :
    AfterO w0 (execGirthFailWindow g s) := afterO_next (after_settleHeld _ _ (by rw [still_girthWindow]; exact hw))

@[simp] theorem still_answerReq (s : State) (r : Req) (status : BitVec 4) (data : List Byte) (final : Bool) :
    still (answerReq s r status data final) = still s := by
  unfold answerReq
  try dsimp only
  (repeat' split) <;> first | with_reducible rfl | simp only [still_emit]

@[simp] theorem still_execCpl (iod : Fin 2) (tag : W16) (status : BitVec 4) (data : List Byte) (final : Bool) (s : State) :
    stillO (execCpl iod tag status data final s) = some (still s) := by
  unfold execCpl
  try dsimp only
  (repeat' split) <;> first | with_reducible rfl | simp only [stillO_next, still_takeMsg, still_dropReq, still_answerReq]

@[simp] theorem still_execGrtRequestTimeout (iod : Fin 2) (tag : W16) (s : State) :
    stillO (execGrtRequestTimeout iod tag s) = some (still s) := by
  unfold execGrtRequestTimeout
  try dsimp only
  (repeat' split) <;> first | with_reducible rfl | simp only [stillO_next, still_answerReq, still_dropReq]

end Sys2Proof.Machine
end

