-- ==== Sys2Proof/Laws/LastingSmbus.lean ====
section
/-!
SUPPORT. What lasts across each operation and command of Machine/Smbus.lean: `still_x` where operation `x` leaves it all
as it is, `after_x` where it changes it as `Lasting.After` says.
-/
namespace Sys2Proof.Machine

@[simp] theorem still_smWord (s : State) (y : Nat) :
    still (smWord s y).2 = still s := by
  unfold smWord
  try dsimp only
  repeat' (first | with_reducible rfl | (simp only [still_fold]; done) | with_reducible refine (still_foldl _ (fun s x => ?_) _ _).trans ?_ | split | (simp only [still_mk, still_ite, still_fold, still_foldl, stillO_next, stillO_ite, implies_true, ite_self, still_fold]))

theorem still_smView (s : State) (y : Nat) : still (smView s y).2 = still s := by
  unfold smView
  exact foldl_keep (fun x : List Byte × State => still x.2) _ (fun x k => still_smWord x.2 _) _ _

@[simp] theorem still_execSetAddr (offset : W32) (s : State) :
    stillO (execSetAddr offset s) = some (still s) := by
  simp only [execSetAddr, still_mk, still_fold, stillO_next]

@[simp] theorem still_execRead (s : State) :
    stillO (execRead s) = some (still s) := by
  simp only [execRead, stillO_next, still_smAnswer, still_mk, still_fold, still_smView]

@[simp] theorem still_execFaultSummary (s : State) :
    stillO (execFaultSummary s) = some (still s) := by
  simp only [execFaultSummary, stillO_next, still_smAnswer]

@[simp] theorem still_execSmbusUnknown (cmd : Byte) (reason : BitVec 2) (s : State) :
    stillO (execSmbusUnknown cmd reason s) = some (still s) := by
  simp only [execSmbusUnknown, stillO_next, still_smNack]

@[simp] theorem still_modJtag (s : State) (d : Nat) (f : Tap → Tap) :
    still (modJtag s d f) = still s := by
  simp only [modJtag, still_mk, still_fold]

@[simp] theorem still_tapLoad (s : State) (d : Nat) (ir : Byte) (driven highz : Bool) :
    still (tapLoad s d ir driven highz) = still s := by
  simp only [tapLoad, still_modJtag]

@[simp] theorem still_tapBypass (s : State) (d : Nat) :
    still (tapBypass s d) = still s := by
  simp only [tapBypass, still_emit, still_tapLoad]

@[simp] theorem still_tapAt (s : State) (d : Nat) (f : State → State) (h : ∀ s, still (f s) = still s) :
    stillO (tapAt s d f) = some (still s) := by
  unfold tapAt
  split
  · exact congrArg some (h s)
  · rfl

@[simp] theorem still_tapPrivate (s : State) (d : Nat) (f : State → State) (h : ∀ s, still (f s) = still s) :
    stillO (tapPrivate s d f) = some (still s) := by
  refine still_tapAt _ _ _ (fun s => ?_)
  split
  · exact h s
  · exact still_tapBypass ..

@[simp] theorem still_execTapReset (s : State) :
    stillO (execTapReset s) = some (still s) := by
  simp only [execTapReset, still_ite, still_foldl, stillO_next, implies_true, ite_self, still_tapLoad]

@[simp] theorem still_execExtest (die : Fin 3) (s : State) :
    stillO (execExtest die s) = some (still s) := by
  simp only [execExtest, implies_true, still_tapAt, still_tapLoad]

@[simp] theorem still_execIdcode (die : Fin 3) (s : State) :
    stillO (execIdcode die s) = some (still s) := by
  simp only [execIdcode, still_ite, implies_true, ite_self, still_tapAt, still_emit, still_tapLoad, still_drew]

@[simp] theorem still_execSamplePreload (die : Fin 3) (balls preload : List Bool) (s : State) :
    stillO (execSamplePreload die balls preload s) = some (still s) := by
  simp only [execSamplePreload, implies_true, still_tapAt, still_emit, still_modJtag, still_tapLoad]

@[simp] theorem still_execClamp (die : Fin 3) (s : State) :
    stillO (execClamp die s) = some (still s) := by
  simp only [execClamp, implies_true, still_tapAt, still_emit, still_tapLoad]

@[simp] theorem still_execHighz (die : Fin 3) (s : State) :
    stillO (execHighz die s) = some (still s) := by
  simp only [execHighz, implies_true, still_tapAt, still_emit, still_tapLoad]

@[simp] theorem still_execFuseRead (die : Fin 3) (s : State) :
    stillO (execFuseRead die s) = some (still s) := by
  simp only [execFuseRead, implies_true, still_tapPrivate, still_emit, still_tapLoad]

@[simp] theorem still_execBistRun (die : Fin 3) (failed : BitVec 8) (s : State) :
    stillO (execBistRun die failed s) = some (still s) := by
  simp only [execBistRun, implies_true, still_tapPrivate, still_selfTestDone, still_tapLoad]

@[simp] theorem still_execBistSts (die : Fin 3) (s : State) :
    stillO (execBistSts die s) = some (still s) := by
  simp only [execBistSts, implies_true, still_tapPrivate, still_emit, still_tapLoad]

@[simp] theorem still_execBypass (die : Fin 3) (s : State) :
    stillO (execBypass die s) = some (still s) := by
  simp only [execBypass, implies_true, still_tapAt, still_tapBypass]

end Sys2Proof.Machine
end

