-- ==== Sys2Proof/Laws/Mgmt.lean ====
section
/-!
SUPPORT. What a write by a stall's function and a management command of S0 do around their own effect: a held half write is
dropped, and the write then acts, is refused and counted, or is discarded (R20, R26, R168, R646).
-/
namespace Sys2Proof.Machine

@[simp] theorem unheld_pending (s : State) (i : Nat) : (unheld s i).pending = s.pending := rfl
@[simp] theorem unheld_sent (s : State) (i : Nat) : (unheld s i).sent = s.sent := rfl
@[simp] theorem unheld_now (s : State) (i : Nat) : (unheld s i).now = s.now := rfl
@[simp] theorem unheld_free (s : State) (i : Nat) : (unheld s i).free = s.free := rfl
@[simp] theorem unheld_fuses (s : State) (i : Nat) : (unheld s i).fuses = s.fuses := rfl
@[simp] theorem unheld_fencing (s : State) (i : Nat) : (unheld s i).fencing = s.fencing := rfl
@[simp] theorem unheld_air (s : State) (i : Nat) : (unheld s i).air = s.air := rfl
@[simp] theorem unheld_clusters (s : State) (i : Nat) : (unheld s i).clusters = s.clusters := rfl
@[simp] theorem unheld_loader (s : State) (i : Nat) : (unheld s i).loader = s.loader := rfl
@[simp] theorem unheld_accepted (s : State) (i : Nat) : (unheld s i).accepted = s.accepted := rfl
@[simp] theorem unheld_hns (s : State) (i : Nat) : (unheld s i).hns = s.hns := rfl
@[simp] theorem unheld_merged (s : State) (i : Nat) : (unheld s i).merged = s.merged := rfl
@[simp] theorem unheld_netNext (s : State) (i : Nat) : (unheld s i).netNext = s.netNext := rfl
@[simp] theorem unheld_mgmtStall (s : State) (i : Nat) : (unheld s i).mgmtStall = s.mgmtStall := rfl
@[simp] theorem unheld_ports (s : State) (i : Nat) : (unheld s i).ports = s.ports := rfl
@[simp] theorem unheld_arrays (s : State) (i : Nat) : (unheld s i).arrays = s.arrays := rfl
@[simp] theorem unheld_vecs (s : State) (i : Nat) : (unheld s i).vecs = s.vecs := rfl
@[simp] theorem unheld_paths (s : State) (i : Nat) : (unheld s i).paths = s.paths := rfl
@[simp] theorem unheld_feeders (s : State) (i : Nat) : (unheld s i).feeders = s.feeders := rfl
@[simp] theorem unheld_mem (s : State) (i : Nat) : (unheld s i).mem = s.mem := rfl
@[simp] theorem unheld_cores (s : State) (i : Nat) : (unheld s i).cores = s.cores := rfl
@[simp] theorem unheld_tths (s : State) (i : Nat) : (unheld s i).tths = s.tths := rfl
@[simp] theorem unheld_girths (s : State) (i : Nat) : (unheld s i).girths = s.girths := rfl
@[simp] theorem unheld_iods (s : State) (i : Nat) : (unheld s i).iods = s.iods := rfl
@[simp] theorem unheld_smPtr (s : State) (i : Nat) : (unheld s i).smPtr = s.smPtr := rfl
@[simp] theorem unheld_smLatch (s : State) (i : Nat) : (unheld s i).smLatch = s.smLatch := rfl
@[simp] theorem unheld_taps (s : State) (i : Nat) : (unheld s i).taps = s.taps := rfl
@[simp] theorem unheld_testEn (s : State) (i : Nat) : (unheld s i).testEn = s.testEn := rfl
@[simp] theorem unheld_carriers (s : State) (i : Nat) : (unheld s i).carriers = s.carriers := rfl
@[simp] theorem unheld_decoders (s : State) (i : Nat) : (unheld s i).decoders = s.decoders := rfl
@[simp] theorem unheld_school (s : State) (i : Nat) : (unheld s i).school = s.school := rfl
@[simp] theorem unheld_trail (s : State) (i : Nat) : (unheld s i).trail = s.trail := rfl
@[simp] theorem unheld_flt (s : State) (i : Nat) : (unheld s i).flt = s.flt := rfl
@[simp] theorem unheld_boot (s : State) (i : Nat) : (unheld s i).boot = s.boot := rfl
@[simp] theorem unheld_grooms (s : State) (i : Nat) : (unheld s i).grooms = s.grooms := rfl
@[simp] theorem unheld_grm (s : State) (i : Nat) : (unheld s i).grm = s.grm := rfl
@[simp] theorem unheld_power (s : State) (i : Nat) : (unheld s i).power = s.power := rfl
@[simp] theorem unheld_stalls (s : State) (i : Nat) : (unheld s i).stalls = s.stalls := rfl
@[simp] theorem getCand_unheld (s : State) (i k : Nat) : getCand (unheld s i) k = getCand s k := rfl
@[simp] theorem getNet_unheld (s : State) (i k : Nat) : getNet (unheld s i) k = getNet s k := rfl
@[simp] theorem getStall_unheld (s : State) (i k : Nat) : getStall (unheld s i) k = getStall s k := rfl
@[simp] theorem getArr_unheld (s : State) (i k : Nat) : getArr (unheld s i) k = getArr s k := rfl
@[simp] theorem getVec_unheld (s : State) (i k : Nat) : getVec (unheld s i) k = getVec s k := rfl
@[simp] theorem getPath_unheld (s : State) (i k : Nat) : getPath (unheld s i) k = getPath s k := rfl
@[simp] theorem getFdr_unheld (s : State) (i k : Nat) : getFdr (unheld s i) k = getFdr s k := rfl
@[simp] theorem getCluster_unheld (s : State) (i k : Nat) : getCluster (unheld s i) k = getCluster s k := rfl
@[simp] theorem getPort_unheld (s : State) (i k : Nat) : getPort (unheld s i) k = getPort s k := rfl
@[simp] theorem getStack_unheld (s : State) (i k : Nat) : getStack (unheld s i) k = getStack s k := rfl
@[simp] theorem getCarrier_unheld (s : State) (i k : Nat) : getCarrier (unheld s i) k = getCarrier s k := rfl
@[simp] theorem getDec_unheld (s : State) (i k : Nat) : getDec (unheld s i) k = getDec s k := rfl
@[simp] theorem getTth_unheld (s : State) (i k : Nat) : getTth (unheld s i) k = getTth s k := rfl
@[simp] theorem getGroom_unheld (s : State) (i k : Nat) : getGroom (unheld s i) k = getGroom s k := rfl
@[simp] theorem getGirth_unheld (s : State) (i k : Nat) : getGirth (unheld s i) k = getGirth s k := rfl
@[simp] theorem getCore_unheld (s : State) (i k : Nat) : getCore (unheld s i) k = getCore s k := rfl
@[simp] theorem getIod_unheld (s : State) (i k : Nat) : getIod (unheld s i) k = getIod s k := rfl
@[simp] theorem getSe_unheld (s : State) (i k : Nat) : getSe (unheld s i) k = getSe s k := rfl
@[simp] theorem getJtag_unheld (s : State) (i k : Nat) : getJtag (unheld s i) k = getJtag s k := rfl
@[simp] theorem getRail_unheld (s : State) (i k : Nat) : getRail (unheld s i) k = getRail s k := rfl

theorem ownWrite_open (i : Nat) (f : State → State) (s : State) (h : restoring s = false) : ownWrite i f s = f (unheld s i) := by
  have h' : restoring (unheld s i) = false := h
  unfold ownWrite
  exact if_neg (by rw [show dropHold s (stallPort s i) (stallFn s i) = unheld s i from rfl, h']; decide)

theorem mgmtEarly_open (f : State → State) (s : State) (h : MgmtOpenEarly s) : mgmtEarly f s = f (unheld s 0) := by
  unfold mgmtEarly mgmtWrite
  rw [ownWrite_open _ _ _ h.2]
  have hb : (mgmtBlocked (unheld s 0) || (!(unheld s 0).accepted && !true)) = false := by
    rw [show mgmtBlocked (unheld s 0) = false from h.1]; cases (unheld s 0).accepted <;> rfl
  exact if_neg (by rw [hb]; decide)

theorem mgmt_open (f : State → State) (s : State) (h : MgmtOpen s) : mgmt f s = f (unheld s 0) := by
  unfold mgmt mgmtWrite
  rw [ownWrite_open _ _ _ h.2.1]
  have hb : (mgmtBlocked (unheld s 0) || (!(unheld s 0).accepted && !false)) = false := by
    rw [show mgmtBlocked (unheld s 0) = false from h.1, show (unheld s 0).accepted = true from h.2.2]; rfl
  exact if_neg (by rw [hb]; decide)

/-- A management write that the block refuses is counted for S0 and nothing else (R168). -/
theorem mgmtWrite_blocked (early : Bool) (f : State → State) (s : State) (h : restoring s = false) (hb : mgmtBlocked s = true) :
    mgmtWrite early f s = accErr (unheld s 0) 0 := by
  unfold mgmtWrite
  rw [ownWrite_open _ _ _ h]
  have hb' : (mgmtBlocked (unheld s 0) || (!(unheld s 0).accepted && !early)) = true := by
    rw [show mgmtBlocked (unheld s 0) = true from hb]; rfl
  exact if_pos hb'

/-- What a half write's drop leaves of the functions: all but the one. -/
theorem unheld_funcs (s : State) (i : Nat) : unheld s i = { s with funcs := (unheld s i).funcs } := rfl

/-- What every write of the block leaves alone where its own effect does. -/
theorem mgmtWrite_mem (early : Bool) (f : State → State) (h : ∀ s, (f s).mem = s.mem) (s : State) : (mgmtWrite early f s).mem = s.mem := by
  unfold mgmtWrite ownWrite
  dsimp only
  split
  · rfl
  · split
    · rfl
    · exact h _

end Sys2Proof.Machine
end

