-- ==== Sys2Proof/WellFormed.lean ====
section
/-!
DEFINITION. Which commands are well formed: what the rules of the messages and records say of the lengths and ranges of the
data that a command brings.
-/
namespace Sys2Proof

/-- A frame brings at most the 1,024 bytes of Table 14-5. -/
def frameWf (f : TFrame) : Bool := decide (f.payload.length ≤ 1024)

/-- A command whose data have the lengths and ranges that its rule gives them: Tables 1-5 (SYM_START, REFRESH_OPEN,
DVFS_OPEN), 2-7 (fence causes), 15-6 and 15-7 (messages), R179 (descriptors), R558 (samples), Table 13-11 (buffer offsets), R497 and
R501 (codewords), R514 (transmit descriptors), R537 (flits), Table 15-5 (PARAM), Table 17-4 (SMBus errors), R566 (rails), R567
(boundary scan) and R603 (trip causes). -/
def Instr.wf : Instr → Bool
  | .airTick _ => true
  | .frameBoundary _ => true
  | .symStart _ _ _ symbol => decide (symbol.toNat ≤ 13)
  | .deadline _ _ _ => true
  | .refreshOpen _ len _ => decide (120 ≤ len.toNat)
  | .refreshWindowEnd _ => true
  | .forcedRefresh _ _ => true
  | .dvfsOpen domain _ _ => decide (1 ≤ domain.toNat) && decide (domain.toNat ≤ 6)
  | .pacerSwap _ _ _ => true
  | .stallSwap _ => true
  | .schoolStep _ _ => true
  | .snapshot _ => true
  | .timeSync _ => true
  | .irq _ _ => true
  | .refm _ _ _ => true
  | .refmPps _ _ _ => true
  | .ppsEdgeMissing _ => true
  | .tenMhzLost _ => true
  | .revertTimer _ => true
  | .holdLimitReached => true
  | .timeMsgMissing _ => true
  | .stepNow => true
  | .slewAnyway => true
  | .forceHoldover _ => true
  | .atmEpochArm _ _ => true
  | .gridRestore => true
  | .gaitShadowWrite _ _ => true
  | .gaitSwapArm _ => true
  | .gaitCopyDone => true
  | .gaitStart => true
  | .gaitStartTimeout => true
  | .capt _ _ _ => true
  | .debounceComplete _ _ => true
  | .captureDeliver _ _ => true
  | .checkTile _ _ => true
  | .tileOverrun _ => true
  | .fence _ cause => decide (1 ≤ cause.toNat) && decide (cause.toNat ≤ 6)
  | .fenceCmd _ => true
  | .persist _ => true
  | .unpersist _ => true
  | .reserveLoadDone _ => true
  | .fallbackRemap _ => true
  | .girthFailWindow _ => true
  | .cnvRatioFault _ _ => true
  | .hnsLoad _ => true
  | .harnessAccepted _ _ _ _ _ => true
  | .hnsLoadSeg _ => true
  | .segmentValidated _ _ _ _ => true
  | .segmentEdited => true
  | .segmentNoSwapPoint => true
  | .hnsAbort => true
  | .hnsRaiseFloor => true
  | .keyBurn _ _ => true
  | .keyBurnDone => true
  | .keyRevoke _ => true
  | .stlReset _ _ => true
  | .stlMgmtReset _ _ => true
  | .stlQuiesce _ _ => true
  | .quiesceSet _ => true
  | .quiesceClr _ => true
  | .stallResetStepDone _ _ => true
  | .stallResetResume _ => true
  | .pstate _ _ _ => true
  | .mrd _ _ space _ _ _ bytes => decide (space.toNat < 2) && decide (1 ≤ bytes.toNat) && decide (bytes.toNat ≤ 512)
  | .mwr _ _ space _ addr data _ => decide (space.toNat < 2) && decide (1 ≤ data.length) && decide (addr.toNat % 64 + data.length ≤ 64)
  | .rrd _ _ _ _ _ => true
  | .rwr _ addr _ wide => decide (addr.toNat % (if wide then 8 else 4) = 0)
  | .pwr _ _ _ _ _ => true
  | .cpl _ _ _ data _ => decide (data.length ≤ 64)
  | .grtRequestTimeout _ _ => true
  | .queSqTail _ _ _ => true
  | .descriptorRead _ _ readFault desc => readFault || decide (desc.length = 64)
  | .jobAccepted _ _ => true
  | .queSqResume _ _ => true
  | .queCqHead _ _ _ => true
  | .jobRunPlace _ _ _ => true
  | .commitDone _ _ _ => true
  | .completionWrite _ _ => true
  | .cqCoalTimer _ _ => true
  | .tileDispatch _ _ => true
  | .tileTaskEnd _ _ _ => true
  | .vectorDispatch _ _ => true
  | .vectorTaskEnd _ _ _ _ => true
  | .vectorOverrun _ => true
  | .thinDispatch _ _ => true
  | .thinTaskEnd _ _ _ _ _ => true
  | .gatherEnter _ _ _ => true
  | .batchWindowExpiry _ => true
  | .transferDispatch _ _ _ _ => true
  | .pieceEnd _ _ => true
  | .mcastHoldExpiry _ => true
  | .runStallDetect _ _ _ => true
  | .transferStuck _ => true
  | .quickDismount _ => true
  | .dismountSwitch _ _ => true
  | .dismountFault _ => true
  | .contextReturn _ _ => true
  | .stablingDone _ _ _ _ => true
  | .restoreDone _ _ _ _ => true
  | .pcrBfly _ _ _ _ _ _ _ _ _ _ => true
  | .pcrMac _ _ _ _ _ _ => true
  | .pcrNarrow _ _ _ _ => true
  | .pcrLoad _ _ _ _ _ _ => true
  | .pcrStore _ _ _ _ _ => true
  | .pcrScalar _ _ _ => true
  | .pcrBranch _ _ _ _ => true
  | .pcrRep _ _ _ _ _ => true
  | .pcrBreak _ => true
  | .pcrWait _ _ => true
  | .pcrWake _ => true
  | .pcrTime _ _ _ => true
  | .pcrTarm _ _ _ _ _ _ => true
  | .pcrXpost _ _ _ _ _ => true
  | .pcrRte _ => true
  | .pcrSwi _ _ => true
  | .exceptionEntry _ _ => true
  | .pcrTimerExpire _ _ => true
  | .xpostDone _ => true
  | .pacerRestart _ => true
  | .bank0LoadDone _ => true
  | .preloadDone _ _ => true
  | .samp _ _ _ samples => decide (samples.length = 16)
  | .agcWindow _ => true
  | .agcFreezeEnd _ => true
  | .invocationStart _ _ => true
  | .decodeBlockEnd _ _ => true
  | .reportComplete _ => true
  | .quietPoint _ => true
  | .tapProcessDone _ _ => true
  | .candidateBuilt _ _ => true
  | .installDone _ _ => true
  | .nvWriteStart _ => true
  | .nvPageWriteDone _ _ => true
  | .sclRead _ offset => decide (offset.toNat % 4096 = 0)
  | .sclWrite _ offset => decide (offset.toNat % 4096 = 0)
  | .sclWriteTrial _ offset => decide (offset.toNat % 4096 = 0)
  | .sclRevertNv _ => true
  | .sclRevertInit _ => true
  | .sclHold _ => true
  | .sclRelease _ => true
  | .sclXferDone _ => true
  | .tthTrainPhaseEnd _ _ _ _ => true
  | .tthFastRetrain _ => true
  | .tthFailedRetry _ => true
  | .tthCtlRetrain _ => true
  | .tthFullTrain _ => true
  | .tthCodewordDecoded _ llrs => decide (llrs.length = 10752)
  | .hello _ _ _ _ _ _ => true
  | .ready _ => true
  | .retrainReq _ => true
  | .disable _ => true
  | .tthDataFrame _ frame => frameWf frame
  | .tthIdleFrame _ frame => frameWf frame
  | .tthTimeFrame _ frame => frameWf frame
  | .tthDeliver _ _ _ => true
  | .tthCodewordSlot _ descs payload => decide (descs.length = 8) && descs.all (fun d => decide (d.length = 32)) && decide (payload.length ≤ 1024)
  | .tthRtoExpire _ _ => true
  | .tthTxTail _ _ _ => true
  | .tthLqWindow _ _ _ => true
  | .tthRcUpdate _ => true
  | .tthRcSnapshot _ => true
  | .tthMarkerRx _ _ _ _ => true
  | .tthMktSend _ _ => true
  | .tofs _ _ _ _ _ => true
  | .grtFlitRx _ lanes => decide (lanes.length = 64) && lanes.all (fun l => decide (l.length = 32))
  | .grtFlitSlot _ => true
  | .grtReplayTimeout _ => true
  | .grtRetrain _ cause => decide (1 ≤ cause.toNat)
  | .grtCtlRetrain _ => true
  | .grtTrainingPhaseEnd _ failCause param => decide (failCause.toNat ≤ 6) && decide (param.credInit.length = 4) && decide (param.faulty.length = 4) && decide (param.pongs.length = 8)
  | .timeSend _ => true
  | .time _ _ _ _ => true
  | .tact _ _ _ _ => true
  | .sysrefEdge _ _ => true
  | .rxcResync _ => true
  | .jesdLaneLoss _ _ _ => true
  | .setAddr _ => true
  | .read => true
  | .trlStatus => true
  | .trlSeek _ => true
  | .trlNext => true
  | .snapStatus => true
  | .snapSeek _ => true
  | .snapNext => true
  | .faultSummary => true
  | .smbusUnknown _ reason => decide (1 ≤ reason.toNat)
  | .pmbusPoll rails _ _ => decide (rails.length = 8)
  | .railNoAnswer _ => true
  | .tapReset => true
  | .extest _ => true
  | .idcode _ => true
  | .samplePreload _ balls preload => decide (balls.length = preload.length)
  | .clamp _ => true
  | .highz _ => true
  | .fuseRead _ => true
  | .bistRun _ _ => true
  | .bistSts _ => true
  | .bypass _ => true
  | .groomMismatch _ => true
  | .comparatorTest _ _ => true
  | .groomWatchdog _ => true
  | .groomRestartCmd _ _ => true
  | .groomRestartStepDone _ _ => true
  | .grmStage => true
  | .grmStageDone _ => true
  | .grmApply => true
  | .updateStepTimer => true
  | .grmAbort => true
  | .grmRaiseFloor => true
  | .throttleEnter _ _ => true
  | .throttleEnd => true
  | .trip cause _ _ => decide (1 ≤ cause.toNat) && decide (cause.toNat ≤ 5)
  | .tripRecovery => true
  | .pwrBudgetWrite _ => true
  | .migrationForPark _ => true
  | .trailWrite _ => true
  | .trlUnfreeze _ => true
  | .trlFreeze => true
  | .powerFail => true
  | .trailSnapshotDone _ => true
  | .powerOn => true
  | .pwrOkRise _ => true
  | .pwrOkFall => true
  | .crstN _ => true
  | .wrstN => true
  | .bootRstWarm _ => true
  | .bootRstCold _ _ => true
  | .bringupPhaseDone _ => true
  | .warmResetStepDone _ _ => true
  | .registerWrite _ _ _ _ _ => true
  | .cnvRatioRestored _ => true
  | .jesdLaneSync _ _ => true
  | .groomMemUe _ => true
  | .pcrLaneArith _ _ _ _ _ => true
  | .channelCommandFault _ => true
  | .tthWakeBurstTimer _ => true

end Sys2Proof
end

