-- ==== Sys2Proof/Tests/Slice0.lean ====
section
/-!
SUPPORT. Tests on small states. For each statement of Certificates/Slice0/Obligations.lean they show a state and operands that meet
its hypotheses, with what the command does there, at the values where its clauses meet; and the smoke test of WellFormed.
Expected values are the spec's, or worked out by hand from its rules and tables.
-/
namespace Sys2Proof.Tests
open Sys2Proof Sys2Proof.Machine
-- One theorem at a time: each is evaluated by the kernel, and their stacks together would pass the memory limit.
set_option Elab.async false

/-- Whether an outcome is a next state of which `p` holds, and whether a command answers one. -/
def answers (o : Host.Outcome State Fault Refusal) (p : State → Bool) : Bool :=
  match o with
  | .next t => p t
  | _ => false
def gives (c : Instr) (s : State) (p : State → Bool) : Bool := answers (exec c s) p

/-- The comparisons of Safety.lean as they are computed. -/
def unitsKept (s t : State) : Bool := decide (t.arrays = s.arrays ∧ t.vecs = s.vecs ∧ t.paths = s.paths ∧ t.feeders = s.feeders
  ∧ t.mem = s.mem ∧ t.cores = s.cores ∧ t.decoders = s.decoders ∧ t.clusters = s.clusters ∧ t.school = s.school)
def partKept (s t : State) : Bool := decide (t.pending = s.pending ∧ t.fuses = s.fuses ∧ t.fencing = s.fencing ∧ t.hns = s.hns
  ∧ t.accepted = s.accepted ∧ t.loader = s.loader ∧ t.boot = s.boot ∧ t.power = s.power ∧ t.grooms = s.grooms ∧ t.grm = s.grm
  ∧ t.ports = s.ports ∧ t.funcs = s.funcs)
def bothKept (s t : State) : Bool := unitsKept s t && partKept s t
def toldOnly (s t : State) : Bool := decide (t = told s t)
def mgmtOpen (s : State) : Bool := decide (mgmtBlocked s = false ∧ restoring s = false ∧ s.accepted = true)

/-- A device in operation: a harness `h` is accepted and bring-up has ended. -/
def working (h : Harness) : State :=
  { State.reset with accepted := true, hns := h, boot := { vinAon := true, pwrOk := true, phase := .running } }

/-! ### Queue, invariant, registers that rotate -/

/-- The queue is first in, first out, and an empty one idles. -/
theorem test_StepRunsFront : (answers (step { State.reset with pending := [.powerFail, .trlFreeze] }) (fun t => decide (t.pending = [.trlFreeze])))
    ∧ (answers (step State.reset) (fun t => decide (t = State.reset))) := by
  decide +kernel

/-- `State.reset` meets the invariant that steps keep. -/
theorem test_Inv : Inv State.reset := ⟨by decide, fun _ _ h => by cases h⟩

/-- A command that writes no memory. -/
theorem test_MemoryFrame : (mayWriteMemory .trlFreeze = false)
    ∧ (mayWriteMemory (.airTick []) = true)
    ∧ (gives .trlFreeze { working {} with mem := { hbm := [(5, 7)] } } (fun t => decide (t.mem.hbm = [(5, 7)] ∧ t.trail.queue.length = 1))) := by
  decide +kernel

/-- Both sides of register 32, and the wrap at 63. -/
theorem test_RegistersRotate : (getD (setD { rrb := 3 } 31 9) 31 = 9 ∧ (setD { rrb := 3 } 31 9).d = [(31, 9)])
    ∧ ((setD { rrb := 3 } 32 9).d = [(61, 9)] ∧ (setD { rrb := 3 } 35 9).d = [(32, 9)])
    ∧ (getD { setD { rrb := 3 } 62 9 with rrb := 4 } 63 = 9) := by
  decide +kernel

/-- Link 0 in the last phase of a full training. -/
def paramLink (f : Girth → Girth) : State := modGirth (working {}) 0 (fun x => f { x with state := .training, phase := .param })
/-- What a peer die sends in PARAM. -/
def peerParam (credits : List W16) : GirthParam :=
  { cls := 2, vendor := 0, format := 1, caps := 0, credInit := credits, dieId := 5, nextSeq := 0, pongs := List.replicate 8 (10, 4, 2), faulty := [none, none, none, none] }

/-- One credit too few fails a full training; enough have the link ACTIVE. -/
theorem test_GirthCredits : (gives (.grtTrainingPhaseEnd 0 0 (peerParam [31, 64, 64, 16])) (paramLink id) (fun t => decide ((getGirth t 0).state = .failed) && unitsKept (working {}) t))
    ∧ (gives (.grtTrainingPhaseEnd 0 0 (peerParam [32, 64, 64, 16])) (paramLink id) (fun t => decide ((getGirth t 0).state = .active ∧ tget 0 (getGirth t 0).granted 3 = 32 ∧ tget 0 (getGirth t 0).limit 0 = 32 ∧ (getGirth t 1) = {})))
    ∧ (gives (.grtTrainingPhaseEnd 0 0 (peerParam [32, 64, 64, 15])) (paramLink fun x => { x with full := false }) (fun t => decide ((getGirth t 0).state ≠ .active))) := by
  decide +kernel

/-! ### Air time, references and the gait -/

/-- A device in operation whose air clock stands as `f` makes it. -/
def airAt (h : Harness) (f : Air → Air) : State := modAir (working h) f

/-- A tick, the last tick of frame 1,023, and a boundary with a decided step and an armed swap. -/
theorem test_AirClock : (gives .airTick (airAt {} fun a => { a with tick := 5 }) (fun t => decide (t.air.tick = 6 ∧ t.air.frame = 0 ∧ t.air.hyper = 0 ∧ t.air.abs = 1 ∧ t.now = 1)))
    ∧ (gives .airTick (airAt {} fun a => { a with tick := 1228799, frame := 1023 }) (fun t => decide (t.air.tick = 0 ∧ t.air.frame = 0 ∧ t.air.hyper = 1 ∧ t.air.abs = 1)))
    ∧ (gives .frameBoundary (airAt {} fun a => { a with tick := 1228799, stepIn := some 2, swapFrame := some 1 }) (fun t => decide (t.air.tick = 0 ∧ t.air.frame = 1 ∧ t.air.abs = 1 ∧ t.air.stepIn = some 1 ∧ t.air.activeBank = true ∧ t.air.copying = true)))
    ∧ (gives .frameBoundary (airAt {} fun a => { a with tick := 1228799 }) (fun t => decide (t.air.activeBank = false ∧ t.air.copying = false))) := by
  decide +kernel

/-- Candidates in order: the PPS of I/O die 0, then Tether port T0. -/
def candidates : Harness := { time := { cand := [1, 4], revertive := true } }
def withCands (cs : Table Candidate) (f : Air → Air) : State := airAt candidates fun a => f { a with cands := cs }

/-- The fourth good second, the sixteenth message, and the losses. -/
theorem test_CandidateQualification : (gives (.refmPps 0 0 10000001) (withCands [(0, { seen := true, tenMHz := true, good := 3 })] id) (fun t => (getCand t 0).qualified && bothKept (withCands [] id) t))
    ∧ (gives (.refmPps 0 0 9999999) (withCands [(0, { seen := true, tenMHz := true, good := 3 })] id) (fun t => (getCand t 0).qualified))
    ∧ (gives (.tofs 0 0 (-5) 9 true) (modTth (withCands [(2, { good := 15 })] id) 0 (fun t => { t with state := .up })) (fun t => (getCand t 2).qualified && decide ((getTth t 0).timeOfs = -5 ∧ (getTth t 0).timeDly = 9)))
    ∧ (gives (.ppsEdgeMissing 0) (withCands [(0, { qualified := true, missed := 1 })] id) (fun t => !(getCand t 0).qualified && bothKept (withCands [] id) t))
    ∧ (gives (.ppsEdgeMissing 0) (withCands [(0, { qualified := true })] id) (fun t => (getCand t 0).qualified))
    ∧ (gives (.timeMsgMissing 0) (modTth { withCands [(2, { missed := 3, qualified := true })] id with now := 2457600 } 0 (fun t => { t with msgAt := some 0 })) (fun t => !(getCand t 2).qualified))
    ∧ (gives (.timeMsgMissing 0) (modTth { withCands [(2, { missed := 2, qualified := true })] id with now := 12298 } 0 (fun t => { t with msgAt := some 0, msgInterval := 10 })) (fun t => decide ((getCand t 2).missed = 3) && (getCand t 2).qualified))
    ∧ (gives (.tenMhzLost 1) (withCands [(1, { qualified := true, tenMHz := true })] id) (fun t => !(getCand t 1).qualified && !(getCand t 1).tenMHz))
    ∧ (gives (.refm 1 0 true) (withCands [] id) (fun t => (getCand t 1).tenMHz) && gives (.refm 1 0 false) (withCands [(1, { qualified := true })] id) (fun t => !(getCand t 1).qualified))
    ∧ (msgBlocked (withCands [] id) 0 0x34 = false ∧ msgBlocked (withCands [] id) 0 0x35 = false) := by
  decide +kernel

/-- Reverting after 60 s, the end of a holdover, and S0's commands. -/
theorem test_ReferenceStates : (gives (.revertTimer 0) { withCands [(0, { qualified := true, since := 1 })] (fun a => { a with active := some 1 }) with now := 7372800001 } (fun t => decide (t.air.active = some 0 ∧ t.air.state = .acquire) && bothKept (withCands [] id) t))
    ∧ (gives .holdLimitReached (airAt {} fun a => { a with state := .holdover }) (fun t => t.air.holdExpired && t.flt.holdover && decide (t.air.state = .holdover) && bothKept (working {}) t))
    ∧ (mgmtOpen (working {}))
    ∧ (gives .stepNow (airAt {} fun a => { a with state := .stepPending }) (fun t => decide (t.air.stepIn = some 2 ∧ t.air.state = .acquire) && partKept (unheld (working {}) 0) t))
    ∧ (gives .slewAnyway (airAt {} fun a => { a with state := .stepPending, phaseErr := -17 }) (fun t => decide (t.air.state = .slewing ∧ t.air.stepIn = none)))
    ∧ (gives (.forceHoldover true) (withCands [(3, { qualified := true })] id) (fun t => t.air.forceHoldover && !(getCand t 3).qualified && partKept (unheld (working candidates) 0) t))
    ∧ (gives (.forceHoldover false) (withCands [(3, { qualified := true })] fun a => { a with forceHoldover := true }) (fun t => !t.air.forceHoldover && (getCand t 3).qualified))
    ∧ (gives (.atmEpochArm 3 7) (working {}) (fun t => t.air.epochArm && decide (t.air.epochFrame = 3 ∧ t.air.epochHyper = 7))) := by
  decide +kernel

/-- S0 in FAULTED. -/
def s0Faulted : State := modStall (working {}) 0 (fun x => { x with state := .faulted })

/-- Refused and counted for S0. -/
theorem test_ManagementRefused : (mgmtBlocked s0Faulted = true ∧ restoring s0Faulted = false)
    ∧ (gives .stepNow s0Faulted (fun t => decide (t = accErr (unheld s0Faulted 0) 0)))
    ∧ (gives .trlFreeze s0Faulted (fun t => decide ((getStall t 0).accErr = 1 ∧ t.trail = s0Faulted.trail))) := by
  decide +kernel

/-- An accepted device with one gait entry that G3 may edit: an IRQ of every frame at tick 100. -/
def gaitEntry : W64 := 0x0000000080000000 ||| (10 <<< 21) ||| 100
def withGait (f : Air → Air) : State :=
  airAt { gait := [gaitEntry] } fun a => f { a with bank0 := { entries := [gaitEntry] }, bank1 := { entries := [gaitEntry] }, entryCount := 1 }

/-- An edit to NOP, a forbidden one, a position with no entry, a write during the copy, an armed swap, the end of the copy. -/
theorem test_GaitBanks : (groomUp (withGait id) 3 = true ∧ gEdit gaitEntry = true ∧ editGait (withGait id) = [gaitEntry])
    ∧ (gives (.gaitShadowWrite 0 (gaitEntry &&& ~~~ place 64 21 (0x3F : BitVec 6))) (withGait id) (fun t => decide ((shadowGait t.air).entries = [0x80000064] ∧ (activeGait t.air).entries = [gaitEntry])))
    ∧ (gives (.gaitShadowWrite 0 gaitEntry) (withGait id) (fun t => decide ((shadowGait t.air).entries = [gaitEntry]) && !t.flt.gaitEdit))
    ∧ (gives (.gaitShadowWrite 0 100) (withGait id) (fun t => t.flt.gaitEdit && decide ((shadowGait t.air).entries = [gaitEntry])))
    ∧ (gives (.gaitShadowWrite 1 0) (withGait id) (fun t => t.flt.gaitEdit && toldOnly (withGait id) t))
    ∧ (gives (.gaitShadowWrite 0 0) (withGait fun a => { a with copying := true }) (fun t => t.flt.gaitEdit))
    ∧ (gives (.gaitSwapArm 9) (withGait id) (fun t => decide (t.air.swapFrame = some 9)))
    ∧ (gives .gaitCopyDone (withGait fun a => { a with copying := true, bank1 := {} }) (fun t => decide (t.air.bank1 = t.air.bank0 ∧ activeGait t.air = { entries := [gaitEntry] }) && !t.air.copying)) := by
  decide +kernel

/-- Armed at a boundary, and by 10 s without a lock. -/
theorem test_SequencerStarts : (gives .gaitStart (withGait fun a => { a with startArmed := true }) (fun t => t.air.running && !t.air.startArmed))
    ∧ (gives .gaitStartTimeout { (withGait fun a => { a with acceptedAt := some 0 }) with now := 1228800000 } (fun t => t.air.startArmed)) := by
  decide +kernel

/-- Two entries for vector 5 of S0 were issued at one tick, another for vector 6 before them at an earlier tick. -/
def issuedIrqs : State :=
  let g (v due : Nat) : GaitAct := { entry := gaitEntry ||| BitVec.ofNat 64 (v * 2 ^ 48), due := due }
  airAt {} fun a => { a with issued := [g 6 1, g 7 2, g 5 2] }

/-- The entry of an earlier tick does not hold one up, the earlier one of the same tick does. -/
theorem test_ActionsInTableOrder : ((issuedAct issuedIrqs 10 0 (fun a => bits a 0 11 == (7 : BitVec 11))).isSome ∧ (takeAct issuedIrqs 10 0 (fun a => bits a 0 11 == (7 : BitVec 11))).isSome)
    ∧ ((issuedAct issuedIrqs 10 0 (fun a => bits a 0 11 == (5 : BitVec 11))).isSome ∧ (takeAct issuedIrqs 10 0 (fun a => bits a 0 11 == (5 : BitVec 11))) = none)
    ∧ (gives (.irq 0 5) issuedIrqs (fun t => decide (t = issuedIrqs)))
    ∧ ((takeAct issuedIrqs 10 0 (fun a => bits a 0 11 == (9 : BitVec 11))).isSome) := by
  decide +kernel

/-- Stall 0 with its function reachable. -/
def reachableFrom (s : State) : State :=
  { s with ports := [(0, { linkUp := true, vfEnable := true, numVfs := 15 })], funcs := [(0, { bme := true })], girths := [(0, { state := .active })] }
def reachable : State := reachableFrom (working {})

/-- Held, pending, and sent. -/
theorem test_IrqRaisesVector : (unreachable (working {}) 0 = true ∧ unreachable reachable 0 = false ∧ (getStall (working {}) 0).state ≠ .absent)
    ∧ (gives (.irq 0 2047) (working {}) (fun t => decide ((getStall t 0).heldIrq = [2047])))
    ∧ (gives (.irq 0 5) reachable (fun t => tget false (getStall t 0).msixPend 5))
    ∧ (gives (.irq 0 5) (modStall reachable 0 fun x => { x with msixOpen := [(5, true)], msixAddr := [(5, 64)], msixData := [(5, 7)] }) (fun t => decide (t.sent = [.msix 0 5 64 7]))) := by
  decide +kernel

/-- Detector 1 of cluster 2 watches source 3 on both edges. -/
def watching (f : Detector → Detector) : State :=
  modDet { working {} with air := { abs := 100 } } 2 1 (fun d => f { d with cfg := { source := 3, polarity := 3, debounce := 10 } })
def pended (at8 deb : Nat) : Pend := { source := 3, at8 := at8, record := 7, debounce := deb }

/-- A transition starts or ends a debounce, and its record is queued or dropped. -/
theorem test_Captures : (gives (.capt 3 80 true) (watching id) (fun t => decide ((getDet (getCluster t 2) 1).pends = [{ source := 3, at8 := 80, debounce := 10, record := captRecord 80 true 0 1 }])))
    ∧ (gives (.capt 4 80 true) (watching id) (fun t => decide ((getDet (getCluster t 2) 1) = getDet (getCluster (watching id) 2) 1)))
    ∧ (gives (.capt 3 80 false) (watching fun d => { d with cfg := { source := 3, polarity := 1 }, pends := [pended 40 10] }) (fun t => decide ((getDet (getCluster t 2) 1).pends = [])))
    ∧ (msgBlocked (watching id) (sourceIod 3) 0x32 = false ∧ stampEighths (watching id).air 80 = 80)
    ∧ (gives (.debounceComplete 2 1) (watching fun d => { d with pends := [pended 720 10] }) (fun t => decide ((getDet (getCluster t 2) 1).queue = [7] ∧ (getDet (getCluster t 2) 1).pends = [])))
    ∧ (gives (.debounceComplete 2 1) (watching fun d => { d with pends := [pended 0 0], queue := List.replicate 8 1 }) (fun t => (getDet (getCluster t 2) 1).ovf && decide ((getDet (getCluster t 2) 1).queue.length = 8))) := by
  decide +kernel

/-! ### A site with a SHARED S0, a PACED S1 and a SHARED S2, and jobs of S2 -/

def stallRow (i cls vf base : Nat) : StallRec :=
  { stall := i, cls := cls, host := 0, vf := vf, share := if cls = 2 then 100 else 0, queues := 2, qdepthLog2 := 6, gatherWindow := 10,
    thinRows := 0, jobAbi := 1, mvpAllowed := true, memBase := BitVec.ofNat 64 base, memSize := 0x8000000 }
def unitRow (i : Nat) (arr borrow mvp fdr : Nat) : ResRec :=
  { stall := i, arrOwn := BitVec.ofNat 8 arr, arrBorrow := BitVec.ofNat 8 borrow, mvpOwn := BitVec.ofNat 4 mvp, mvpBorrow := 0,
    fdrOwn := BitVec.ofNat 16 fdr, fdrBorrow := 0, decOwn := 0, decBorrow := 0, seOwn := 0, pcrOwn := 0, pcrBorrow := 0 }

/-- S1 owns array 7 and path 3; S2 owns arrays 0 and 2, borrows array 1 and owns paths 0 and 1. S2's region begins at device address 0. -/
def site : Harness := {
  stalls := [stallRow 0 2 0 0x20000000, stallRow 1 1 1 0x10000000, stallRow 2 2 2 0],
  res := [unitRow 0 0 0 0 1, { unitRow 1 0x80 0 8 2 with decOwn := 1, seOwn := 1, pcrOwn := 0xFF }, unitRow 2 5 2 3 4] }

/-- 60 bytes with fields at their offsets, and their CRC-32C. -/
def build (fs : List (Nat × List Byte)) : List Byte :=
  let b := (List.range 60).map (fun i => (fs.findSome? (fun f => if f.1 ≤ i then f.2[i - f.1]? else none)).getD 0)
  b ++ bytesOf (crc32c b)

/-- Where the tests' jobs keep their graph, their argument block, their commit list and their work area. -/
def graphAt : Nat := 0x800000
def argsAt : Nat := 0x801000
def listAt : Nat := 0x802000
def workAt : Nat := 0x900000
def jobBytes (tiles : Nat) (argsLen : Nat) : List Byte :=
  build [(4, [1, 0]), (0x0C, leBytes 4 tiles), (0x10, leBytes 8 graphAt), (0x18, leBytes 8 argsAt), (0x20, leBytes 4 argsLen),
    (0x24, leBytes 4 0x10000), (0x28, leBytes 8 workAt), (0x30, leBytes 8 listAt)]

/-- The device with that harness, S1 and S2 ACTIVE. -/
def siteUp (m : Mem) : State :=
  { working site with stalls := [(0, { state := .active }), (1, { state := .active, initialised := true }), (2, { state := .active, initialised := true })], mem := m, girths := [(0, { state := .active }), (1, { state := .active })], arrays := (List.range 8).map (fun n => (n, { selfTest := false, freq := 25 })) }

/-- Job 0 of queue 0 of S2, with its run on array 0, whose first two tokens S2 holds. -/
def withJob (desc : List Byte) (m : Mem) (f : Run → Run) : State :=
  let s := modStall (siteUp m) 2 (fun st => { st with
    queues := [(0, { enable := true, rd := 1, ahead := 1, journal := [(0, some { desc := desc, seq := 0, state := .running })] })],
    runs := [f { queue := 0, seq := 0, array := some 0 }] })
  modArr s 0 (fun a => { a with tokens := [(0, some 2), (1, some 2)] })
def job0 : Owner := .job 2 0 0

/-- A transfer between the scratchpad's first bytes and S2's memory. -/
def xferBytes (kind rowBytes : Nat) (more : List (Nat × List Byte)) : List Byte :=
  build (more ++ [(0, [BitVec.ofNat 8 kind]), (8, leBytes 8 (if kind % 16 = 1 then workAt else 0)), (0x10, leBytes 8 (if kind % 16 = 2 then workAt else 0)),
    (0x18, leBytes 4 rowBytes), (0x1C, [1])])
def oneXfer (x : List Byte) : Mem := { hbm := devPut (devPut [] argsAt [1]) (argsAt + 8) x }
def xferJob (x : List Byte) : State := withJob (jobBytes 0 72) (oneXfer x) id

/-- The premises for a LOAD, a multicast LOAD and a SIGNAL, and what each does. -/
theorem test_TransferDispatches : ((nextXferOf (xferJob (xferBytes 1 64 [])) job0).map (fun x => (x.2.1, x.2.2)) = some (0, xferBytes 1 64 []))
    ∧ (mayUseFdr (xferJob []) 2 2 = true ∧ dispatchGated (xferJob []) = false ∧ (getArr (xferJob []) 0).moving = none ∧ xferListBad (xferJob (xferBytes 1 64 [])) job0 = false)
    ∧ ([xferBytes 1 64 [], xferBytes 0x11 64 [(0x28, [7])], xferBytes 5 0 []].all (fun x => decide (xferRefusal (xferDesc x) (xferWindow (xferJob x) 2 0 (xferDesc x)) (inRegion (xferJob x) 2) (inWork (xferJob x) job0) = none)))
    ∧ (gives (.transferDispatch 2 2 0 0) (xferJob (xferBytes 1 64 [])) (fun t => (getFdr t 2).run.any (fun j => decide (j.piece = 0 ∧ j.members = [{ desc := xferBytes 1 64 [], owner := job0, stall := 2, index := 0, ready := 0 }])) && decide ((getRun t job0).map (fun r => (r.nextXfer, r.runningX)) = some (1, [0]))))
    ∧ (gives (.transferDispatch 2 2 0 0) (xferJob (xferBytes 0x11 64 [(0x28, [7])])) (fun t => decide ((getFdr t 2).group.map (·.index) = [0] ∧ (getFdr t 2).groupHold = 7 ∧ (getFdr t 2).run = none)))
    ∧ (gives (.transferDispatch 2 2 0 0) (xferJob (xferBytes 5 0 [])) (fun t => decide ((getFdr t 2).xfers = 1 ∧ t.mem.hbm = (xferJob (xferBytes 5 0 [])).mem.hbm))) := by
  decide +kernel

/-- Feeder 2 with a member in its group, and with a transfer under way at a piece. -/
def member (x : List Byte) : Xfer := { desc := x, owner := job0, stall := 2, index := 0, ready := 0 }
def grouped (now : Nat) : State := { modFdr (siteUp {}) 2 (fun f => { f with group := [member (xferBytes 0x11 64 [])], groupHold := 1000 }) with now := now }
def moving (x : List Byte) (piece : Nat) (m : Mem) : State :=
  modFdr (withJob (jobBytes 0 72) m (fun r => { r with nextXfer := 1, runningX := [0] })) 2
    (fun f => { f with run := some { members := [member x], piece := piece }, issued := true })
/-- 1,000 ns are 123 ticks. -/
theorem test_MulticastGroupCloses : ((getFdr (grouped 123) 2).groupHold * 12288 ≤ 123 * 100000 ∧ ¬ (getFdr (grouped 123) 2).groupHold * 12288 ≤ 122 * 100000)
    ∧ (gives (.mcastHoldExpiry 2) (grouped 123) (fun t => decide ((getFdr t 2).group = []) && ((getFdr t 2).run.toList ++ (getFdr t 2).queue).any (fun j => decide (j.piece = 0 ∧ j.members = [member (xferBytes 0x11 64 [])])))) := by
  decide +kernel

/-- A STORE of two rows, and a LOAD of two rows. -/
def twoRows (kind : Nat) : List Byte := xferBytes kind 64 [(0x1C, [2]), (0x20, leBytes 4 64), (0x24, leBytes 4 128)]
def storing : State := modArr (moving (twoRows 2) 0 {}) 0 (fun a => { a with main := [(0, 9), (63, 8), (64, 7)] })
def loading : State := moving (twoRows 1) 0 { hbm := [(workAt, 5)] }
/-- The first of two pieces each, with the 64 bytes that it moves. -/
theorem test_PiecesMove : ((piecesOf (xferDesc (twoRows 2))).length = 2 ∧ (piecesOf (xferDesc (twoRows 2)))[0]? = some (0, 0, 64) ∧ waitsMem storing 2 = false ∧ xferArray storing (member (twoRows 2)) = some 0)
    ∧ (pieceScrBad storing (member (twoRows 2)) (0, 0, 64) .none = none ∧ regionAddr storing 2 (workAt + 0) = workAt)
    ∧ (gives (.pieceEnd 2 .none) storing (fun t => decide (t.mem.hbm = [(workAt, 9), (workAt + 63, 8)] ∧ (getFdr t 2).bytes = 64) && (getFdr t 2).run.any (fun j => j.piece == 1)))
    ∧ (regionBad loading 2 workAt 64 = false ∧ waitsMem loading 2 = false)
    ∧ (gives (.pieceEnd 2 .none) loading (fun t => decide (t.mem.hbm = [(workAt, 5)] ∧ (getArr t 0).main = [(0, 5)]) && (getFdr t 2).run.any (fun j => j.piece == 1))) := by
  decide +kernel

/-- A run with an entry that waits for a flag, and a transfer of 1 ms ago. -/
theorem test_TransferWatches : (gives (.runStallDetect 2 0 0) { withJob (jobBytes 1 0) { hbm := devPut [] graphAt (build [(0x0E, [1])]) } id with now := 122880 } (fun t => decide ((getStall t 2).state = .faulted ∧ (getStall t 2).faultCode = 0x2001)))
    ∧ (nextEntry (withJob (jobBytes 1 0) { hbm := devPut [] graphAt (build [(0x0E, [1])]) } id) job0 = none ∧ nextXferOf (withJob (jobBytes 1 0) {} id) job0 = none ∧ graphLen (withJob (jobBytes 1 0) {} id) job0 = 1)
    ∧ (gives (.transferStuck 2) { storing with now := 122880 } (fun t => (getFdr t 2).out && decide ((getFdr t 2).run = none ∧ (getFdr t 2).errCode = 0x20))) := by
  decide +kernel

/-- A refresh entry of 200 ticks for stack 1, or for every stack, has been issued; then other actions. -/
def issuedFor (action target arg : Nat) (s : State) : State :=
  modAir s (fun a => { a with issued := [{ entry := BitVec.ofNat 64 (action * 2 ^ 21 + target * 2 ^ 40 + arg * 2 ^ 48) }] })
/-- A window, what its scrub finds, its end, a forced refresh, a channel fault. -/
theorem test_Refresh : (stackPresent (siteUp {}) 1 = true ∧ (takeAct (issuedFor 3 1 200 (siteUp {})) 3 1 (fun a => a == 200)).isSome ∧ (takeAct (issuedFor 3 15 200 (siteUp {})) 3 0x0F (fun a => a == 200)).isSome)
    ∧ (gives (.refreshOpen 1 200 [{ chan := 16, block := 2, bad := true }]) (issuedFor 3 1 200 (siteUp {})) (fun t => decide (tget 0 t.mem.ue 16 = 1) && tget false t.mem.poison (chanKey 16 64 / 32)))
    ∧ (gives (.refreshOpen 1 200 [{ chan := 31, block := 0, bad := false }]) (issuedFor 3 1 200 (siteUp {})) (fun t => decide (tget 0 t.mem.ce 31 = 1 ∧ t.mem.poison = [])))
    ∧ (gives (.refreshWindowEnd 1) { siteUp { hbStacks := [(1, { window := some 200 })] } with now := 200 } (fun t => decide ((getStack t 1).window = none)))
    ∧ (gives (.forcedRefresh 1 70) (siteUp {}) (fun t => t.air.forcedRefresh && decide ((getStack t 1).forced = 1)))
    ∧ (onStack { siteUp {} with hns := { site with mems := [{ stall := 2, ways := 0, channels := 0x10000 }] } } 2 1 = true)
    ∧ (gives (.channelCommandFault 16) { siteUp {} with hns := { site with mems := [{ stall := 2, ways := 0, channels := 0x10000 }] } } (fun t => (getStack t 1).failed && decide ((getStall t 2).state = .faulted ∧ (getStall t 1).state = .active))) := by
  decide +kernel

/-- A window for array 0, and a change that it makes. -/
theorem test_DvfsWindow : ((takeAct (issuedFor 4 0x10 1229 (siteUp {})) 4 ((1 : BitVec 4) ++ (0 : BitVec 4)) (fun a => a == 1229)).isSome ∧ arrPresent (siteUp {}) 0 = true ∧ groomUp (siteUp {}) 2 = true)
    ∧ (gives (.dvfsOpen 1 0 1229) (issuedFor 4 0x10 1229 (siteUp {})) (fun t => t.power.windows.any (fun w => decide (w.domain = 1 ∧ w.unit = 0 ∧ w.closes = 1229))))
    ∧ (pendingChange (modArr (siteUp {}) 0 (fun a => { a with freq := 30 })) 1 0 = true ∧ raisesVolt (modArr (siteUp {}) 0 (fun a => { a with freq := 30 })) 1 0 = false)
    ∧ (gives (.dvfsOpen 1 0 1229) (issuedFor 4 0x10 1229 (modArr (siteUp {}) 0 (fun a => { a with freq := 30 }))) (fun t => decide ((getArr t 0).freq = BitVec.ofNat 5 (arrWant (siteUp {}) 0 0 / 50)))) := by
  decide +kernel

/-! ### Fences and what follows them -/

/-- The computed part of `FencesArray`. -/
def fencesArray (s t : State) (n : Nat) (cause : BitVec 4) : Bool := decide (t.fencing.fenced = setBit s.fencing.fenced n true
  ∧ t.fencing.lastArray = BitVec.ofNat 3 n ∧ t.fencing.lastCause = cause ∧ t.fencing.count = satInc s.fencing.count
  ∧ t.fencing.persisted = s.fencing.persisted ∧ (getArr t n).run = none ∧ (getVec t n).run = none ∧ (getArr t n).main = []
  ∧ (getArr t n).acc = [] ∧ (getArr t n).tokens = [] ∧ (∀ i ∈ List.range 16, ∀ r ∈ (getStall t i).runs, r.array ≠ some n)
  ∧ (∀ m ∈ List.range 8, m ≠ n → (getArr t m).main = (getArr s m).main ∧ (getArr t m).tokens = (getArr s m).tokens)
  ∧ t.mem.hbm = s.mem.hbm ∧ t.cores = s.cores)

/-- A job run on array 0, whose scratchpad holds a byte. -/
def onArr0 : State := modArr (withJob (jobBytes 1 0) {} id) 0 (fun a => { a with main := [(5, 6)] })
/-- A fence, S0's command, and an array already fenced. -/
theorem test_FenceIsolatesArray : (arrUsable onArr0 0 = true ∧ mgmtOpen onArr0 = true)
    ∧ (gives (.fence 0 5) onArr0 (fun t => fencesArray onArr0 t 0 5))
    ∧ (gives (.fenceCmd 0) onArr0 (fun t => fencesArray onArr0 t 0 4 && decide (t.fencing.ctlArray = 0)))
    ∧ (arrUsable { onArr0 with fencing := { fenced := 1 } } 0 = false)
    ∧ (gives (.fence 0 5) { onArr0 with fencing := { fenced := 1 } } (fun t => decide (t = { onArr0 with fencing := { fenced := 1 } }))) := by
  decide +kernel

/-- Written and erased. -/
theorem test_FenceRecords : (gives (.persist 3) onArr0 (fun t => decide (t.fencing.persisted = 8 ∧ t.fencing.fenced = 0 ∧ t = { told onArr0 t with fencing := t.fencing, funcs := t.funcs })))
    ∧ (gives (.unpersist 3) { onArr0 with fencing := { persisted := 9, fenced := 8 } } (fun t => decide (t.fencing.persisted = 1 ∧ t.fencing.fenced = 8))) := by
  decide +kernel

/-- On a pool array and on S1's. -/
theorem test_CheckTile : (arrPacedBy onArr0 0 = none ∧ arrPacedBy onArr0 7 = some 1 ∧ quietArr onArr0 7 = true ∧ hasReserve onArr0 7 = false ∧ (getArr onArr0 0).run = none)
    ∧ (gives (.checkTile 0 true) onArr0 (fun t => decide (t = onArr0)))
    ∧ (gives (.checkTile 7 false) onArr0 (fun t => (getArr t 7).checkFail && fencesArray onArr0 t 7 2)) := by
  decide +kernel
/-- A tile and a vector task of that job run on array 0. -/
def task0 (desc : List Byte) : Task := { desc := desc, owner := job0, stall := 2, tile := 0, reserve := false, seed := 0, freq := 1250 }
def overrunning (ended : List Nat) (vec : Bool) : State :=
  let s := modRun onArr0 job0 (fun r => { r with nextTile := 1, running := [0], overTiles := ended })
  if vec then modVec s 0 (fun v => { v with run := some (task0 []) }) else modArr s 0 (fun a => { a with run := some (task0 []) })
/-- The first of a tile fences, the second fails the job. -/
theorem test_Overruns : (gives (.tileOverrun 0) (overrunning [] false) (fun t => decide (t.fencing.lastCause = 3 ∧ t.fencing.fenced = 1 ∧ (getArr t 0).run = none ∧ (getArr t 0).errCode = 0x20 ∧ (getArr t 0).cycles = 8192)))
    ∧ (gives (.tileOverrun 0) (overrunning [0] false) (fun t => decide (t.fencing = {} ∧ (getArr t 0).run = none) && (getRun t job0).any (fun r => decide (r.committing = true ∧ r.fail = some 0x0104 ∧ r.array = none))))
    ∧ (gives (.vectorOverrun 0) (overrunning [] true) (fun t => decide (t.fencing.lastCause = 3 ∧ t.fencing.fenced = 1 ∧ (getVec t 0).run = none ∧ (getVec t 0).cycles = 6400)))
    ∧ (gives (.vectorOverrun 0) (overrunning [0] true) (fun t => decide (t.fencing = {} ∧ (getVec t 0).run = none) && (getRun t job0).any (fun r => decide (r.committing = true ∧ r.fail = some 0x0104)))) := by
  decide +kernel
/-- S1's carrier 0 worked on array 7, which array 6 replaces. -/
def carrier0 : CarrierCfg := { carrier := 0, stall := 1, fftLog2 := 8, symbols := 2, streams := 1, cp0 := 0, cp := 0, rxOffset := 0, laneBase := 0, cluster := 0, coreMask := 1, agcMode := 0, agcTarget := 0, nbuf := 2, xBuf := 0, yBuf := 0, freezeLen := 0, usedSc := 16, usersMax := 1, layersMax := 1, decMask := 1, planOff := 0x900000, repOff := 0x910000, payOff := 0x930000, paySlot := 64, ringLog2 := 4, bitsMask := 1, detThresh := 0, array := 7, preamble := [], inOff := 0, llrOff := 0x100, eqOff := 0x200, eqScale := 1, mvpMask := 8 }
def carriers : Harness := { site with
  time := { slotCode := [1, 1], carrierStall := [1, 1] }, carriers := [carrier0, { carrier0 with carrier := 1, array := 5, coreMask := 2, laneBase := 1 }], budgets := [{ stall := 1, carriers := 2, shedOrder := [1, 0], deadline := 0, variants := [] }], falls := [{ kind := 1, failed := 7, stall := 1, action := 1, replace := 6, alsoFenced := 0, variant := 3 }] }
def replacing (ready : Bool) : State :=
  let s : State := { siteUp {} with hns := carriers, carriers := [(0, { array := 7 }), (1, { array := 5 })] }
  modStall s 1 (fun st => { st with carriersLive := 3, remaps := [{ kind := 1, failed := 7, replace := some 6, ready := ready, eval := some (3, 1) }] })
/-- The reserve load of array 6, and the take-over at a slot boundary. -/
theorem test_Fallback : (arrUsable (replacing false) 6 = true ∧ (devFeeder (replacing false) 1).isSome)
    ∧ (gives (.reserveLoadDone 6) (replacing false) (fun t => (getStall t 1).remaps.all (·.ready)))
    ∧ (atSlotBoundary (replacing true) 1 = true ∧ groomUp (replacing true) 1 = true ∧ stallCarriers (replacing true) 1 = [0, 1])
    ∧ (gives (.fallbackRemap 1) (replacing true) (fun t => decide ((getStall t 1).remaps = [] ∧ (getCarrier t 0).array = 6 ∧ (getCarrier t 1).array = 5 ∧ (getStall t 1).variant = 3 ∧ (getStall t 1).shedK = 1))) := by
  decide +kernel

/-! ### Tile, vector and thin tasks -/

/-- A 1 × 1 × 1 MATMUL with drain in INT32, an ADD of tile buffer 0 to itself, and a 1 × 1 × 1 thin task. -/
def matmul (flags : Nat) (more : List (Nat × List Byte)) : List Byte :=
  build (more ++ [(0, [BitVec.ofNat 8 (0x41 + flags)]), (4, [1, 0, 1, 0]), (8, [1]), (0x18, leBytes 4 16), (0x20, leBytes 4 64)])
def vecAdd : List Byte := build [(0, [8, 1, 0, 1])]
def thin (gather : Bool) : List Byte :=
  build [(0, [9]), (4, [1, 0, 1, 0]), (8, [1]), (0x0C, [if gather then 8 else 0]), (0x10, leBytes 8 workAt), (0x18, leBytes 8 (workAt + 64)), (0x28, leBytes 8 (workAt + 0x1000))]
/-- A job of S2 with one graph entry; the stall's THIN_ROWS is `rows`. -/
def graphJob (rows : Nat) (entry : List Byte) : State :=
  let s := withJob (jobBytes 1 0) { hbm := devPut [] graphAt entry } id
  { s with hns := { site with stalls := [stallRow 0 2 0 0x20000000, stallRow 1 1 1 0x10000000, { stallRow 2 2 2 0 with thinRows := rows }] } }
def work0 : Work := .job 2 0 0

/-- An eligible tile task, one that a check refuses, and a batch in array form. -/
theorem test_TileDispatch : ((nextEntry (graphJob 4 (matmul 0 [])) job0).map (·.2) = some (matmul 0 []) ∧ arrReady (graphJob 4 (matmul 0 [])) 0 1 2 = true ∧ batchOf (graphJob 4 (matmul 0 [])) 2 0 0 = none)
    ∧ (ctxAdmits (getArr (graphJob 4 (matmul 0 [])) 0) false = true ∧ pickArr (graphJob 4 (matmul 0 [])) 0 = some 2)
    ∧ (tileRefusal (tileDesc (matmul 0 [])) (getArr (graphJob 4 []) 0) (windowOf (getArr (graphJob 4 []) 0) 2 false) true false = none ∧ tileRefusal (tileDesc (matmul 0 [(0x0C, [64])])) (getArr (graphJob 4 []) 0) (windowOf (getArr (graphJob 4 []) 0) 2 false) true false = some 5)
    ∧ (gives (.tileDispatch 0 work0) (graphJob 4 (matmul 0 [])) (fun t => (getArr t 0).run.any (fun k => decide (k.desc = matmul 0 [] ∧ k.owner = job0 ∧ k.tile = 0)) && (getRun t job0).any (fun r => decide (r.nextTile = 1 ∧ r.running = [0]))))
    ∧ (gives (.tileDispatch 0 work0) (graphJob 4 (matmul 0 [(0x0C, [64])])) (fun t => decide ((getArr t 0).errCode = 5 ∧ (getStall t 2).state = .faulted))) := by
  decide +kernel
/-- A closed batch of that job's thin task. -/
def gathered (rows : Nat) : State :=
  modStall (graphJob rows (thin true)) 2 (fun st => { st with closedBatches := [{ tasks := [{ queue := 0, seq := 0, tile := 0, desc := thin true, ready := 0 }], thinRows := rows }] })
/-- A batch of as many rows as THIN_ROWS runs on an array. -/
theorem test_ArrayForm : ((batchOf (gathered 1) 2 0 0).isSome ∧ (batchesFor (gathered 1) 2 false).length = 1 ∧ hasWindowOn (gathered 1) 2 0 = true ∧ pickArr (gathered 1) 0 = some 2 ∧ stallRuns (gathered 1) 2 = true ∧ arrReady (gathered 1) 0 1 2 = true)
    ∧ (inHalf (windowOf (getArr (gathered 1) 0) 2 false) 0 262144 = true)
    ∧ (gives (.tileDispatch 0 work0) (gathered 1) (fun t => (getArr t 0).run.any (fun k => decide (k.desc = thin true)) && decide ((getArr t 0).batch.length = 1 ∧ (getStall t 2).gthArray = 1))) := by
  decide +kernel

/-- The MATMUL runs: 3 times 5. -/
def running (ue : List Nat) : State :=
  modArr (modRun (graphJob 4 (matmul 0 [])) job0 (fun r => { r with nextTile := 1, running := [0] })) 0
    (fun a => { a with run := some (task0 (matmul 0 [])), main := [(0, 3), (1024, 5)], ueMain := ue })
/-- The product is written; an uncorrectable word fails the task; a corrected one is counted. -/
theorem test_TileTaskEnds : (taskUe (getArr (running []) 0) (windowOf (getArr (running []) 0) 2 false) (tileDesc (matmul 0 [])) false .clean = none)
    ∧ (gives (.tileTaskEnd 0 .clean) (running []) (fun t => decide ((getArr t 0).main = [(0, 3), (1024, 5), (4096, 15)] ∧ (getArr t 0).run = none ∧ (getArr t 0).tasks = 1 ∧ (getArr t 0).cycles = 88)))
    ∧ (taskUe (getArr (running []) 0) (windowOf (getArr (running []) 0) 2 false) (tileDesc (matmul 0 [])) false (.ueScr 0) = some (0x10, 0))
    ∧ (gives (.tileTaskEnd 0 (.ueScr 0)) (running []) (fun t => (getArr t 0).ueSeen && decide ((getArr t 0).errCode = 0x10 ∧ (getArr t 0).eccUe = 1 ∧ (getArr t 0).main = [(0, 3), (1024, 5)]) && (getArr t 0).ueMain.contains 0))
    ∧ (gives (.tileTaskEnd 0 .corrected) (running []) (fun t => (getArr t 0).ceSeen && decide ((getArr t 0).eccCe = 1)))
    ∧ (within10s (getArr (running []) 0).lastUe 0 = false) := by
  decide +kernel

def vecRunning : State := modVec (modRun (graphJob 4 vecAdd) job0 (fun r => { r with nextTile := 1, running := [0] })) 0
    (fun v => { v with run := some (task0 vecAdd), tb := [(0, 3)] })
/-- Dispatched, ended, and with a corrected word. -/
theorem test_VectorTasks : ((nextEntry (graphJob 4 vecAdd) job0).map (·.2) = some vecAdd ∧ arrReady (graphJob 4 vecAdd) 0 2 2 = true ∧ pickVec (graphJob 4 vecAdd) 0 = some 2)
    ∧ (vecRefusal (vecDesc vecAdd) (windowOf (getArr (graphJob 4 vecAdd) 0) 2 false) true false = none)
    ∧ (gives (.vectorDispatch 0 work0) (graphJob 4 vecAdd) (fun t => (getVec t 0).run.any (fun k => decide (k.desc = vecAdd ∧ k.owner = job0))))
    ∧ (metWord (vecReadWords (vecDesc vecAdd)) (vecWordsUe (getVec vecRunning 0)) .clean = none)
    ∧ (gives (.vectorTaskEnd 0 100 .clean) vecRunning (fun t => decide (tget 0 (getVec t 0).tb 0 = 6 ∧ (getVec t 0).run = none ∧ (getVec t 0).tasks = 1 ∧ (getVec t 0).cycles = 24)))
    ∧ (gives (.vectorTaskEnd 0 9 (.corrected 4)) vecRunning (fun t => (getVec t 0).ceSeen && decide ((getVec t 0).cycles = 9))) := by
  decide +kernel

/-- A thin task enters, and its batch closes after 10 µs, 1,229 ticks. -/
theorem test_Gatherer : (gathers (graphJob 4 (thin true)) 2 (thinDesc (thin true)) = true ∧ entersBefore (graphJob 4 (thin true)) 2 0 0 = false ∧ jobThinRefusal (graphJob 4 (thin true)) job0 (thinDesc (thin true)) = none)
    ∧ (gives (.gatherEnter 2 0 0) (graphJob 4 (thin true)) (fun t => decide (((getStall t 2).openBatches.map (·.map (·.tile))) = [[0]] ∧ (getRun t job0).map (·.nextTile) = some 1)))
    ∧ (gives (.batchWindowExpiry 2) { modStall (graphJob 4 []) 2 (fun st => { st with openBatches := [[{ queue := 0, seq := 0, tile := 0, desc := thin true, ready := 0 }]] }) with now := 1229 } (fun t => decide ((getStall t 2).openBatches = [] ∧ (getStall t 2).closedBatches.length = 1)))
    ∧ (gives (.batchWindowExpiry 2) { modStall (graphJob 4 []) 2 (fun st => { st with openBatches := [[{ queue := 0, seq := 0, tile := 0, desc := thin true, ready := 0 }]] }) with now := 1228 } (fun t => decide ((getStall t 2).openBatches.length = 1))) := by
  decide +kernel

/-- An invocation of carrier 0 of S1 on array 7 whose next entry is `entry`. -/
def netRun (entry : List Byte) : State :=
  let r : Run := { queue := 0, seq := 0, array := some 7 }
  { siteUp {} with hns := { carriers with nets := [{ net := 4, kind := .ce, carrier := 0, array := 7, tasks := [entry], wOff := 0, wLen := 64, init := [], school := false }] }, carriers := [(0, { array := 7, inv := some { kind := .ce, net := 4, frame := 0, slot := 0, array := 7, run := r } })] }
/-- A batch on a path, the thin task of an invocation, and the end of a task. -/
theorem test_ThinTasks : (netNext (gathered 4) 0 = none ∧ mayUseMvp (gathered 4) 2 0 = true ∧ pickPath (gathered 4) 0 = some 2 ∧ (batchesFor (gathered 4) 2 true).length = 1 ∧ dvfsHold (gathered 4) 3 0 = false)
    ∧ (gives (.thinDispatch 0 work0) (gathered 4) (fun t => decide ((getPath t 0).run.map (·.desc) = [thin true] ∧ (getPath t 0).rows = 1)))
    ∧ ((nextEntry (netRun (thin false)) (.net 0)).map (·.2) = some (thin false) ∧ netNext (netRun (thin false)) 3 = some 0 ∧ thinRefusal (thinDesc (thin false)) false (fun _ _ => true) (fun _ _ => true) = none)
    ∧ (gives (.thinDispatch 3 (.net 0)) (netRun (thin false)) (fun t => decide ((getPath t 3).run.map (·.owner) = [.net 0])))
    ∧ (gives (.thinTaskEnd 0 60 .clean) { gathered 4 with paths := [(0, { run := [toContrib 2 { queue := 0, seq := 0, tile := 0, desc := thin true, ready := 0 }], rows := 1 })] } (fun t => decide ((getPath t 0).run = [] ∧ (getPath t 0).tasks = 1 ∧ (getPath t 0).bytes = 1088)))
    ∧ (gives (.thinTaskEnd 0 60 (.corrected 1)) { gathered 4 with paths := [(0, { run := [toContrib 2 { queue := 0, seq := 0, tile := 0, desc := thin true, ready := 0 }], rows := 1 })] } (fun t => (getPath t 0).ceSeen)) := by
  decide +kernel

/-- Array 0's reserve context belongs to S2, whose next task is for it. -/
def reserveTask (f : ArrayU → ArrayU) : State := modArr (graphJob 4 (matmul 0x80 [])) 0 (fun a => f { a with rsvStall := some 2 })
/-- Asked for, switched, failed and returned. -/
theorem test_QuickDismount : (hasReserve (reserveTask id) 0 = true ∧ arrUsable (reserveTask id) 0 = true ∧ bothIdle (reserveTask id) 0 = true)
    ∧ (gives (.quickDismount 0) (reserveTask id) (fun t => decide ((getArr t 0).ctx = .requested)))
    ∧ (gives (.dismountSwitch 0 500) (modVec (reserveTask fun a => { a with ctx := .requested, lastMain := [3] }) 0 (fun v => { v with tb := [(1, 7)] })) (fun t => decide ((getArr t 0).ctx = .reserve ∧ (getArr t 0).dismounts = 1 ∧ (getArr t 0).parkedMain = [3] ∧ (getVec t 0).saveTb = [(1, 7)])))
    ∧ (gives (.dismountFault 0) (reserveTask fun a => { a with ctx := .requested }) (fun t => decide (t.fencing.fenced = 1 ∧ t.fencing.lastCause = 2)))
    ∧ (gives (.contextReturn 0) (modVec (modArr (graphJob 4 (matmul 0 [])) 0 (fun a => { a with ctx := .reserve, lastRsv := [2] })) 0 (fun v => { v with saveTb := [(1, 7)] })) (fun t => decide ((getArr t 0).ctx = .main ∧ (getVec t 0).tb = [(1, 7)] ∧ (getArr t 0).parkedRsv = [2]))) := by
  decide +kernel

/-- S2's image of array 0 moves, or waits to be restored; array 1 of the pool is to be parked. -/
def movingImage : State := modArr (modArr onArr0 0 (fun a => { a with moving := some { holder := 2, grantee := none } })) 0 (fun a => { a with tokens := [] })
def emptyImage : StableImage := { array := 0, bytes := [], slots := [], sats := [], folds := [], tb := [], hf := [], runs := [{ queue := 0, seq := 0, events := 0, parked := [] }], tokens := 0 }
def toRestore : State :=
  modArr (modRun (modStall onArr0 2 (fun st => { st with images := [(0, some emptyImage)] })) job0 (fun r => { r with array := none, stabled := true })) 0 (fun a => { a with tokens := [] })
def toPark : State :=
  let s := modRun onArr0 job0 (fun r => { r with array := some 1 })
  { s with power := { s.power with toPark := 2 } }
/-- An image of a run without tokens leaves array 0; another comes back; the migration off array 1 begins. -/
theorem test_Stabling : (stallBusyOn movingImage 0 2 = false ∧ (devFeeder movingImage 2).isSome ∧ imageUe movingImage 0 [] = false ∧ heldTokens (getArr movingImage 0) 2 = [])
    ∧ (pickImage (getStall toRestore 2) 0 = some emptyImage ∧ mayUseArr toRestore 2 0 = true ∧ stallRuns toRestore 2 = true ∧ (devFeeder toRestore 2).isSome ∧ heldTokens (getArr toRestore 0) 2 = [] ∧ regionBad toRestore 2 (stableSlotAt toRestore 2 0) (imageBytes 0) = false)
    ∧ (gives (.restoreDone 0 2 900 false) toRestore (fun t => decide (tget none (getStall t 2).images 0 = none ∧ (getRun t job0).map (·.stabled) = some false)))
    ∧ (nextMigrant toPark 1 = some 2 ∧ groomUp toPark 1 = true)
    ∧ (gives (.migrationForPark 1) toPark (fun t => decide ((getArr t 1).moving = some { holder := 2, grantee := none }))) := by
  decide +kernel

/-! ### Doorbells, acceptance, commits and completions -/

/-- S2 with queue 0 as `f` makes it, at the journal's first entries. -/
def queueUp (m : Mem) (f : Queue → Queue) : State :=
  modStall (siteUp m) 2 (fun st => { st with queues := [(0, f { enable := true, rd := 5, ahead := 4, cdone := 5 })] })
def doorbellTo (s : State) (tail : W32) (p : Queue → Bool) : Bool := gives (.queSqTail 2 0 tail) s (fun t => p (getQueue (getStall t 2) 0))
def q0 (t : State) : Queue := getQueue (getStall t 2) 0
/-- The first and the last TAIL in range, a repeat, one out of range, one during an acceptance, one in HELD. -/
theorem test_Doorbells : (hasQueue (queueUp {} id) 2 0 = true ∧ restoring (queueUp {} id) = false ∧ stallActive (queueUp {} id) 2 = true ∧ groomUp (queueUp {} id) 0 = true ∧ depthLog2 (queueUp {} id) 2 = 6)
    ∧ (doorbellTo (queueUp {} id) 6 (fun x => decide (x.latched = some 6)) && doorbellTo (queueUp {} id) 69 (fun x => decide (x.latched = some 69)))
    ∧ (gives (.queSqTail 2 0 5) (queueUp {} fun x => { x with latched := some 6 }) (fun t => decide ((q0 t).latched = none ∧ (getStall t 2).ansWr = 1 ∧ (q0 t).rd = 5)))
    ∧ (gives (.queSqTail 2 0 70) (queueUp {} id) (fun t => decide ((q0 t).latched = none ∧ (getStall t 2).ansWr = 1)))
    ∧ (doorbellTo (queueUp {} fun x => { x with accepting := some [], latched := some 7 }) 9 (fun x => decide (x.newTail = some 9 ∧ x.latched = none)))
    ∧ (doorbellTo (modStall (queueUp {} id) 2 (fun st => { st with state := .held })) 9 (fun x => decide (x.held = some 9))) := by
  decide +kernel

/-- A job of SEQ `seq` with one entry and no extents, and a queue that reads descriptors. -/
def plainJob (seq : Nat) : List Byte :=
  build [(0, leBytes 4 seq), (4, [1, 0]), (0x0C, [1]), (0x10, leBytes 8 graphAt), (0x18, leBytes 8 argsAt), (0x24, leBytes 4 0x10000), (0x28, leBytes 8 workAt), (0x30, leBytes 8 listAt)]
def reads (f : Queue → Queue) : State :=
  let s := reachableFrom (queueUp {} fun x => f { x with latched := some 7 })
  { s with funcs := [(0, { bme := true }), (2, { bme := true })] }
/-- Accepted, refused for its CRC, a gap, and a failed read. -/
theorem test_Descriptors : (readsDesc (reads id) 2 0 = true ∧ jobRefusal (reads id) 2 (plainJob 5) = none ∧ entryFree (q0 (reads id)) 5 = true)
    ∧ (gives (.descriptorRead 2 0 false (plainJob 5)) (reads id) (fun t => (jobEntry t 2 0 5).any (fun e => decide (e.state = .accepted ∧ e.desc = plainJob 5)) && decide ((q0 t).accepting = some (plainJob 5) ∧ (q0 t).rd = 5)))
    ∧ (jobRefusal (reads id) 2 (leBytes 64 5) = some 1)
    ∧ (gives (.descriptorRead 2 0 false (leBytes 64 5)) (reads id) (fun t => (q0 t).stopped && decide ((q0 t).stopKind = 5 ∧ (q0 t).stopReason = 1 ∧ (q0 t).rd = 6 ∧ (q0 t).ahead = 4)))
    ∧ (gives (.descriptorRead 2 0 false (plainJob 6)) (reads id) (fun t => (q0 t).stopped && decide ((q0 t).stopKind = 4)))
    ∧ (gives (.descriptorRead 2 0 true []) (reads id) (fun t => decide ((q0 t).latched = none ∧ (q0 t).rd = 5))) := by
  decide +kernel

/-- Job 0 has no array yet; `dep` makes it wait for job 0 of queue 1, which committed with a failure. -/
def unplaced (dep : Bool) : State :=
  let desc := if dep then build [(4, [1, 0]), (6, [2, 1])] else jobBytes 1 0
  let s := withJob desc {} (fun r => { r with array := none })
  modStall s 2 (fun st => { st with queues := tset {} st.queues 1 { ahead := 1, rd := 1, journal := [(0, some { desc := [], seq := 0, state := .committed, status := 0x0101 })] } })
/-- Acknowledged, resumed, placed, and failed with its dependency. -/
theorem test_JobAcceptedAndPlaced : (gives (.jobAccepted 2 0) (queueUp {} fun x => { x with accepting := some (plainJob 5) }) (fun t => decide ((q0 t).ahead = 5 ∧ (q0 t).rd = 6 ∧ (q0 t).accepting = none ∧ (getStall t 2).runs.map (·.seq) = [5])))
    ∧ (gives (.queSqResume 2 0) (queueUp {} fun x => { x with stopped := true, stopKind := 4 }) (fun t => !(q0 t).stopped && decide ((q0 t).rd = 5)))
    ∧ ((jobOf (unplaced false) 2 0 0).any (fun d => mayStart (unplaced false) 2 0 0 d && !depFailed (unplaced false) 2 d) ∧ placeFor (unplaced false) 2 none none = some 0 ∧ groomUp (unplaced false) 1 = true)
    ∧ (gives (.jobRunPlace 2 0 0) (unplaced false) (fun t => (getRun t job0).any (fun r => decide (r.array = some 0 ∧ evGet t 0 r.evSet = 0))))
    ∧ ((jobOf (unplaced true) 2 0 0).any (fun d => mayStart (unplaced true) 2 0 0 d && depFailed (unplaced true) 2 d))
    ∧ (gives (.jobRunPlace 2 0 0) (unplaced true) (fun t => (getRun t job0).any (fun r => decide (r.committing = true ∧ r.fail = some 0x0103)))) := by
  decide +kernel

/-- Job 0 is COMMITTING with one extent of 4 bytes, from its work area to `0xA00000`. -/
def committing (status : W16) (m : Table Bool) : State :=
  let list := leBytes 4 1 ++ [0, 0, 0, 0] ++ leBytes 4 0 ++ leBytes 8 0xA00000 ++ leBytes 4 4
  let s := withJob (jobBytes 0 0) { hbm := devPut (devPut [] listAt list) workAt [1, 2, 3, 4], poison := m } (fun r => { r with array := none, committing := true })
  setEntry s 2 0 0 (fun e => { e with state := .committing, status := status })
/-- A success copies, a failure does not. -/
theorem test_CommitWritesExtents : ((nextCommit (committing 0 []) 2 0).any (fun e => decide (e.state = .committing) && !commitBad (committing 0 []) 2 e) ∧ stallRuns (committing 0 []) 2 = true ∧ (devFeeder (committing 0 []) 2).isSome)
    ∧ (gives (.commitDone 2 0) (committing 0 []) (fun t => (jobEntry t 2 0 0).any (fun e => decide (e.state = .committed)) && decide (devRead t 0xA00000 4 = [1, 2, 3, 4] ∧ getRun t job0 = none)))
    ∧ (gives (.commitDone 2 0) (committing 0x0101 []) (fun t => (jobEntry t 2 0 0).any (fun e => decide (e.state = .committed ∧ e.status = 0x0101)) && decide (t.mem.hbm = (committing 0 []).mem.hbm))) := by
  decide +kernel

def completing : State :=
  let s := reachableFrom (queueUp {} fun x => { x with cdone := 4, ahead := 4, cqBase := 0x1000, journal := [(4, some { desc := plainJob 4, seq := 4, state := .committed })], coalRunning := true, sinceIrq := 3 })
  { s with funcs := [(2, { bme := true })] }
/-- Written, consumed, and the end of the coalescing time. -/
theorem test_Completions : (unreachable completing 2 = false ∧ (jobEntry completing 2 0 4).isSome)
    ∧ (gives (.completionWrite 2 0) completing (fun t => (jobEntry t 2 0 4).any (fun e => decide (e.state = .completed)) && decide ((q0 t).cdone = 5) && t.sent.any (fun o => match o with | .mwr 2 a _ => decide (a = 0x1080) | _ => false)))
    ∧ (laterThan (5 : W32) 5 = false)
    ∧ (gives (.queCqHead 2 0 5) (modStall (queueUp {} id) 2 (fun st => { st with queues := [(0, { cdone := 5, journal := [(4, some { desc := [], seq := 4, state := .completed })] })] })) (fun t => decide ((q0 t).cqHead = 5) && (tget none (q0 t).journal 4).any (fun e => decide (e.state = .retired))))
    ∧ (gives (.cqCoalTimer 2 0) completing (fun t => !(q0 t).coalRunning && decide ((q0 t).sinceIrq = 0))) := by
  decide +kernel

/-! ### Stall resets, windows, requests and registers -/

def stall2 (f : Stall → Stall) : State := modStall (siteUp {}) 2 f
/-- Held, released, and asked for in FAULTED. -/
theorem test_Quiesce : (gives (.stlQuiesce 2 true) (siteUp {}) (fun t => decide ((getStall t 2).state = .held) && (getStall t 2).quiesce))
    ∧ (gives (.quiesceSet 2) (siteUp {}) (fun t => decide ((getStall t 2).state = .held ∧ t.mgmtStall = 2)))
    ∧ (gives (.stlQuiesce 2 false) (stall2 fun x => { x with state := .held, quiesce := true }) (fun t => decide ((getStall t 2).state = .active) && !(getStall t 2).quiesce && bothKept (unheld (siteUp {}) 2) t))
    ∧ (gives (.quiesceClr 2) (stall2 fun x => { x with state := .held, quiesce := true }) (fun t => decide ((getStall t 2).state = .active ∧ t.mgmtStall = 2)))
    ∧ (gives (.stlQuiesce 2 true) (stall2 fun x => { x with state := .faulted }) (fun t => decide ((getStall t 2).quiesceLate = some true ∧ (getStall t 2).state = .faulted)))
    ∧ (mgmtOpen (siteUp {}) ∧ restoring (siteUp {}) = false ∧ (siteUp {}).loader.segState = 0) := by
  decide +kernel

/-- With the code, by S0, again, and without the code. -/
theorem test_StallResetStarts : (gives (.stlReset 2 0x5A3C) (siteUp {}) (fun t => decide ((getStall t 2).state = .resetting ∧ (getStall t 2).resetStep = 1)))
    ∧ (gives (.stlMgmtReset 2 0x5A3C) (stall2 fun x => { x with state := .faulted }) (fun t => decide ((getStall t 2).state = .resetting ∧ t.mgmtStall = 2)))
    ∧ (gives (.stlReset 2 0x5A3C) (stall2 fun x => { x with state := .resetting, resetStep := 3 }) (fun t => decide (t = unheld (stall2 fun x => { x with state := .resetting, resetStep := 3 }) 2)))
    ∧ (gives (.stlReset 2 0x5A3D) (siteUp {}) (fun t => decide (t = unheld (siteUp {}) 2))) := by
  decide +kernel
/-- S1, which owns core 0, in a step of its reset; S2, whose job runs on array 0. -/
def resetting (step : Nat) : State := modStall onArr0 2 (fun x => { x with state := .resetting, resetStep := step })
def paced (step : Nat) (st : CoreSt) : State :=
  modCore (modStall { siteUp {} with hns := carriers, air := { running := true } } 1 (fun x => { x with state := .resetting, resetStep := step, carriersLive := 3 })) 0 (fun c => { c with st := st })
/-- The four steps, one held up by a load. -/
theorem test_StallResetSteps : (gives (.stallResetStepDone 2 none) (resetting 1) (fun t => decide ((getStall t 2).resetStep = 2 ∧ (getStall t 2).state = .resetting)))
    ∧ (stallCores (paced 2 .running) 1 = [0, 1, 2, 3, 4, 5, 6, 7])
    ∧ (gives (.stallResetStepDone 1 none) (paced 2 .running) (fun t => decide ((getStall t 1).resetStep = 3 ∧ (getCore t 0).st = .reset)))
    ∧ (gives (.stallResetStepDone 2 none) (modArr (resetting 2) 0 (fun a => { a with run := some (task0 (matmul 0 [])) })) (fun t => decide ((getStall t 2).resetStep = 3 ∧ (getArr t 0).run = none)))
    ∧ (gives (.stallResetStepDone 2 none) (resetting 3) (fun t => decide ((getStall t 2).resetStep = 4 ∧ (getStall t 2).runs = [] ∧ (getArr t 0).main = [])))
    ∧ (gives (.stallResetStepDone 1 none) (paced 4 .loading) (fun t => decide (t = paced 4 .loading)))
    ∧ (gives (.stallResetStepDone 2 none) (resetting 4) (fun t => decide ((getStall t 2).resetStep = 5))) := by
  decide +kernel

/-- ACTIVE again, PACED at a slot boundary, or FAULTED. -/
theorem test_StallResetResumes : (resumesNow (resetting 5) 2 = true ∧ resumesNow (paced 5 .running) 1 = true ∧ resumesNow (modAir (paced 5 .running) (fun a => { a with tick := 1 })) 1 = false)
    ∧ (gives (.stallResetResume 2) (resetting 5) (fun t => decide ((getStall t 2).state = .active ∧ (getStall t 2).resetStep = 0 ∧ (getStall t 2).resetCnt = 1) && bothKept (siteUp {}) { t with arrays := (siteUp {}).arrays }))
    ∧ (gives (.stallResetResume 1) (paced 5 .running) (fun t => decide ((getStall t 1).state = .active)))
    ∧ (gives (.stallResetResume 2) (modStall (resetting 5) 2 (fun x => { x with faultNew := some (0x2003, 4, 0) })) (fun t => decide ((getStall t 2).state = .faulted ∧ (getStall t 2).faultCode = 0x2003 ∧ (getStall t 2).resetCnt = 1))) := by
  decide +kernel

/-- A state, a conventional reset, a function-level reset. -/
theorem test_PortStates : (linkActiveNow (siteUp {}) 0 = true ∧ msgBlocked (siteUp {}) 0 0x13 = false ∧ fnStall (siteUp {}) 0 2 = some 2)
    ∧ (gives (.pstate 0 2 0x0307) (siteUp {}) (fun t => decide (getPort t 0 = { linkUp := true, vfEnable := true, numVfs := 3 }) && (getFunc t 0 2).bme))
    ∧ (gives (.pstate 0 0 0x0010) { siteUp {} with ports := [(0, { vfEnable := true, numVfs := 5 })], funcs := [(3, { bme := true })] } (fun t => decide ((getPort t 0).numVfs = 0) && !(getFunc t 0 3).bme))
    ∧ (gives (.pstate 0 2 0x0008) (stall2 fun x => { x with msixOpen := [(1, true)] }) (fun t => decide ((getStall t 2).state = .resetting ∧ (getStall t 2).msixOpen = []))) := by
  decide +kernel
/-- T0 serves S2. -/
def tethered : State :=
  let s := reachableFrom { siteUp {} with hns := { site with tether := [{ port := 0, role := 1, mode := 1, stall := 2, timeDir := 0, gain := 0 }] } }
  { s with funcs := [(0, { bme := true }), (2, { bme := true })] }
/-- Writes and reads of S2's window, and what a Tether engine asks of S2's host. -/
theorem test_HostWindow : (msgBlocked (siteUp {}) 0 0x10 = false ∧ msgBlocked (siteUp {}) 0 0x01 = false ∧ (stallRec (siteUp {}) 2).isSome ∧ inStable (siteUp {}) 2 0x800000 = false ∧ inSchool (siteUp {}) 2 0x800000 = false)
    ∧ (gives (.mwr 0 2 0 0 0x800000 [7, 8] false) (siteUp {}) (fun t => decide (t.mem.hbm = [(0x800000, 7), (0x800001, 8)])))
    ∧ (gives (.mwr 0 2 0 0 0x7FFFFF [7] false) (siteUp {}) (fun t => decide (t.mem = {} ∧ (getStall t 2).accErr = 1)))
    ∧ (gives (.mwr 0 2 0 0 0x800000 [7] false) (modGirth (siteUp {}) 0 (fun x => { x with state := .training })) (fun t => decide ((getGirth t 0).held = [.mwr 0 2 0x800000 [7] false])))
    ∧ (engineStall tethered 0 2 0 = some 2 ∧ unreachable tethered 2 = false ∧ mayRequest (getGirth tethered 0) (.mrd 2 0 64 8) = true ∧ engineStall (siteUp {}) 0 2 0 = none)
    ∧ (gives (.mwr 0 2 1 0 64 [7] false) tethered (fun t => decide (t.sent = [.mwr 2 64 [7]])))
    ∧ (gives (.mrd 0 2 0 0 9 0x800001 2) (siteUp { hbm := [(0x800001, 5)] }) (fun t => t.sent.contains (.cpl 0 9 0 [5, 0] true)))
    ∧ (gives (.mrd 0 2 0 0 9 0x7FFFFC0 64) (modStall { siteUp {} with hns := { site with res := [] } } 2 id) (fun t => t.sent.contains (.cpl 0 9 0 (List.replicate 64 0) true)))
    ∧ (gives (.mrd 0 2 1 0 9 64 8) tethered (fun t => t.sent.contains (.mrd 2 0 64 8) && (getGirth t 0).reqs.any (fun r => decide (r.host = some (0, 2, 9)))))
    ∧ (gives (.mrd 0 2 1 0 9 64 8) (siteUp {}) (fun t => t.sent.contains (.cpl 0 9 2 [] true))) := by
  decide +kernel
def asked : State := { modGirth (siteUp {}) 0 (fun x => { x with reqs := [{ tag := 3, host := some (1, 2, 7), since := 0 }] }) with now := 12288000 }
/-- A last completion, one before the last, and no completion within 100 ms. -/
theorem test_Requests : (msgBlocked asked 0 0x20 = false)
    ∧ (gives (.cpl 0 3 0 [1] true) asked (fun t => decide ((getGirth t 0).reqs = []) && t.sent.contains (.cpl 1 7 0 [1] true)))
    ∧ (gives (.cpl 0 3 0 [1] false) asked (fun t => decide ((getGirth t 0).reqs.length = 1) && t.sent.contains (.cpl 1 7 0 [1] false)))
    ∧ (gives (.grtRequestTimeout 0 3) asked (fun t => decide ((getGirth t 0).reqs = []) && t.sent.contains (.cpl 1 7 3 [] true))) := by
  decide +kernel

/-- TRL_FRZ_CTL by its write, by a host, and read; a wide register's low half; a register of an I/O die. -/
theorem test_Registers : ((regAt (dropHold (siteUp {}) 0 0) (some 0) 0x88010).any (fun r => !r.1.wide && !r.2) ∧ fnStall (siteUp {}) 0 0 = some 0 ∧ forwardedTo (siteUp {}) (some 0) 0x88010 = none)
    ∧ (gives (.registerWrite 0 0 0x88010 0x123 false) (siteUp {}) (fun t => decide (t.trail.post = 0x123)))
    ∧ (msgBlocked (siteUp {}) 0 0x11 = false ∧ msgBlocked (siteUp {}) 0 0x02 = false)
    ∧ (gives (.pwr 0 0 0x88010 0x7 false) (siteUp {}) (fun t => decide (t.trail.post = 7)))
    ∧ (gives (.rrd 0 0 5 0x88010 false) (siteUp {}) (fun t => t.sent.contains (.cpl 0 5 0 [0, 1, 0, 0] true)))
    ∧ ((List.range 0x2000).any (fun k => (regAt (siteUp {}) (some 2) (8 * k)).any (fun r => r.1.wide && !r.2)))
    ∧ ((iodReg (siteUp {}) 0 0x0400).isSome || (List.range 0x1000).any (fun k => (iodReg (siteUp {}) 0 (4 * k)).any (fun r => !r.2))) := by
  decide +kernel

/-- A group's sixteen values. -/
theorem test_Snapshot : ((takeAct (issuedFor 8 3 0 (siteUp {})) 8 3 (fun _ => true)).isSome)
    ∧ (gives (.snapshot 3) (issuedFor 8 3 0 (siteUp {})) (fun t => (List.range 16).all (fun k => decide (tget 0 t.flt.snaps (48 + k) = (groupValues (siteUp {}) 3).getD k 0)) && decide (tget 0 t.flt.snapTime 3 = atmTime t.air))) := by
  decide +kernel

/-! ### Receive: samples, gain, slots, invocations, blocks and reports -/

/-- The two carriers of S1 over a converter link that is up; core 0 and core 1 run; `f` makes carrier 0. -/
def received (f : Carrier → Carrier) : State :=
  { siteUp {} with hns := carriers, iods := [(0, { lanes := 0xFFFF, cfg := 4, aligned := true })], cores := [(0, { st := .running }), (1, { st := .running })], carriers := [(0, f { array := 7, first := some 0 }), (1, { array := 5 })] }
/-- A useful sample of core 0, and samples before acceptance. -/
theorem test_SamplesIngested : (msgBlocked (received id) 0 0x33 = false ∧ linkOk (received id) carrier0 = true ∧ (carrierCores (received id) 0)[0]? = some 0 ∧ (sampleAt (received id) 0 carrier0 (stampAbs (received id) 0)).bind (fun y => usefulAt carrier0 y.2.2) = some (0, 0))
    ∧ (gives (.samp 0 0 0 (0x00010002 :: List.replicate 15 0)) (received id) (fun t => decide ((getCore t 0).x = [(0, 2), (2, 1)] ∧ (getCore t 1) = (getCore (received id) 1))))
    ∧ (gives (.samp 0 0 0 (0x00010002 :: List.replicate 15 0)) { received id with accepted := false } (fun t => decide (t.cores = (received id).cores))) := by
  decide +kernel

/-- A slot boundary in MANUAL mode, 64 samples in BURST mode, the end of a freeze. -/
theorem test_GainWindowsEnd : (((getCarrier (received id) 0).gainAt ≠ some (slotNow (received id) 0)) ∧ (carrierCfg (received id) 0).isSome)
    ∧ (gives (.agcWindow 0) { received (fun c => { c with gainSet := 0x21 }) with hns := { carriers with carriers := [{ carrier0 with agcMode := 0 }] } } (fun t => decide ((getStream (getCarrier t 0) 0).gain = 0x21)))
    ∧ (gives (.agcWindow 0) { received (fun c => { c with streams := [(0, { count := 64, power := 64, gain := 10 })] }) with hns := { carriers with carriers := [{ carrier0 with agcMode := 2 }] } } (fun t => decide ((getStream (getCarrier t 0) 0).gain = 22 ∧ (getStream (getCarrier t 0) 0).count = 0)))
    ∧ (gives (.agcFreezeEnd 0) (received fun c => { c with frozen := true, freezeEnd := some 0 }) (fun t => !(getCarrier t 0).frozen && decide ((getCarrier t 0).freezeEnd = none))) := by
  decide +kernel

/-- SYM_START of symbol 0 and of symbol 1 of slot 2 of carrier 0, issued; a shed carrier. -/
def symIssued (symbol : Nat) (f : Carrier → Carrier) : State := issuedFor 1 0 (2 + 128 * symbol) (received f)
/-- A later symbol, the first, and one of a shed carrier. -/
theorem test_SymbolStarts : ((takeAct (symIssued 1 id) 1 0 (fun a => bits a 0 6 == 2 && bit a 6 == false && bits a 7 4 == 1)).isSome ∧ slotShed (getCarrier (symIssued 1 id) 0) 61440 = false ∧ stallRuns (symIssued 1 id) 1 = true)
    ∧ (gives (.symStart 0 2 false 1) (symIssued 1 id) (fun t => decide ((getCore t 0).startQ = [(0x8000000000000210, 0)] ∧ (getCore t 1).startQ = [] ∧ t.air.issued = [])))
    ∧ (gives (.symStart 0 2 false 0) (symIssued 0 id) (fun t => (getCarrier t 0).slots.any (fun sl => decide (sl.start = 61440) && sl.begun)))
    ∧ (gives (.symStart 0 2 false 1) (symIssued 1 fun c => { c with shed := true }) (fun t => decide (t = modAir (symIssued 1 fun c => { c with shed := true }) (fun a => { a with issued := [] })))) := by
  decide +kernel

/-- Slot 0 of carrier 0, begun. -/
def slot0 (f : SlotRec → SlotRec) : SlotRec := f { frame := 0, hyper := 0, alt := 0, slot := 0, start := 0, lastSample := 30719, begun := true, planStatus := 0 }
def withSlot (f : SlotRec → SlotRec) : State := received fun c => { c with slots := [slot0 f] }
def ceNet : NetCfg := { net := 4, kind := .ce, carrier := 0, array := 7, tasks := [thin false], wOff := 0, wLen := 64, init := [], school := false }
def ceDue : State := { withSlot (fun sl => { sl with lasts := 1 }) with hns := { carriers with nets := [ceNet] } }
/-- The CE network of a slot whose symbols are in. -/
theorem test_InvocationBegins : (nextInv ceDue 7 = some (30720, 0, 0, slot0 (fun sl => { sl with lasts := 1 }), .ce) ∧ netFor ceDue 0 .ce = some ceNet ∧ arrUsable ceDue 7 = true ∧ stallRuns ceDue 1 = true)
    ∧ (gives (.invocationStart 0 .ce) ceDue (fun t => (getCarrier t 0).inv.any (fun v => decide (v.kind = .ce ∧ v.net = 4 ∧ v.run.array = some 7)) && decide (evGet t 7 15 = 0))) := by
  decide +kernel

/-- A rate 1/2 code of 8 information bits, a user with one block of it, and reliable LLRs of 0xA5 twice. -/
def halfCode : CodeCfg := { code := 0, stall := 1, mb := 1, nb := 2, kb := 1, z := 8, iMax := 2, crc := 0, bchT := 0, graph := [(0, 0, 0), (0, 1, 0)], scale := [48, 48], req := [] }
def oneUser : PlanUser := { id := 0, firstSc := 1, numSc := 2, symMask := 1, layerFirst := 0, layers := 1, bits := 8, code := 0, blocks := 1, pay := 0 }
def llr (i : Nat) : Byte := if [0, 2, 5, 7].contains (i % 8) then 0xC0 else 0x40
def decoding : State :=
  let s := { withSlot (fun sl => { sl with lasts := 1, users := [oneUser], blocks := [{ user := 0, block := 0, engine := 0 }] }) with hns := { carriers with ldpc := [halfCode] } }
  modArr s 7 (fun a => { a with rsv := (List.range 16).map (fun i => (0x4008 + i, llr i)) })
/-- The payload of slot 0 in S1's region. -/
theorem test_DecodedBlock : ((engineBlock decoding 0).map (fun x => (x.1, x.2.2.user)) = some (0, 0) ∧ decServes decoding 0 = true ∧ codeOf decoding 0 0 = some halfCode)
    ∧ (blockPlaces carrier0 oneUser 16 0 = (List.range 16).map (0x4008 + ·))
    ∧ (gives (.decodeBlockEnd 0 .clean) decoding (fun t => decide (t.mem.hbm = devPut [] (regionAddr decoding 1 0x930000) [0xA5] ∧ (getDec t 0).blocks = 1))) := by
  decide +kernel

/-- A slot that is not complete at its DEADLINE. -/
theorem test_Deadline : ((takeAct (issuedFor 2 0 0 (withSlot fun sl => { sl with users := [] })) 2 0 (fun a => bits a 0 6 == 0 && bit a 6 == false)).isSome)
    ∧ (slotCauses (withSlot id) 1 carrier0 = [] ∧ lostCauses (withSlot id) 0 carrier0 (slot0 id) = [] ∧ earlierSlots (getCarrier (withSlot id) 0) 0 = [])
    ∧ (gives (.deadline 0 0 false) (issuedFor 2 0 0 (withSlot id)) (fun t => decide ((getCarrier t 0).lastStatus = 0x10 ∧ (getCarrier t 0).miss = 1 ∧ (getCarrier t 0).repSeq = 1) && (getCarrier t 0).slots.all (·.issued))) := by
  decide +kernel

/-- A slot already reported is forgotten; a complete one is reported. -/
theorem test_Reports : (firstDue (getCarrier (withSlot fun sl => { sl with issued := true }) 0) = some (slot0 fun sl => { sl with issued := true }))
    ∧ (gives (.reportComplete 0) (withSlot fun sl => { sl with issued := true }) (fun t => decide ((getCarrier t 0).slots = [] ∧ (getCarrier t 0).repSeq = 0)))
    ∧ (reportDue (withSlot fun sl => { sl with lasts := 1 }) 0 carrier0 (slot0 fun sl => { sl with lasts := 1 }) = true ∧ okStatus (slot0 id) = 0)
    ∧ (gives (.reportComplete 0) (withSlot fun sl => { sl with lasts := 1 }) (fun t => decide ((getCarrier t 0).lastStatus = 0 ∧ (getCarrier t 0).repSeq = 1 ∧ (getCarrier t 0).slotsCnt = 1) && (getCarrier t 0).slots.all (fun sl => sl.issued && sl.done))) := by
  decide +kernel

/-! ### Pacer cores -/

/-- Core 0 of S1, which runs. -/
def coreUp (f : PCore → PCore) : State := { siteUp {} with hns := carriers, cores := [(0, f { st := .running })], air := { abs := 100 } }
def issues (s : State) : Bool := decide ((getCore s 0).st = .running ∧ (getCore s 0).sync = none ∧ formatAt (getCore s 0) (getCore s 0).pc.toNat < 6)
def coreGives (c : Instr) (s : State) (p : PCore → Bool) : Bool := gives c s (fun t => p (getCore t 0) && decide (t = { s with cores := t.cores, free := t.free } ∧ getCore t 1 = getCore s 1))
/-- A vector whose first two lanes are (re, im) = (a, b) and (c, d). -/
def vec (a b c d : Int) : BitVec 128 := ofComps (fun k => BitVec.ofInt 16 ([a, b, c, d].getD k 0))

/-- A product, its narrowing, and a sum and a difference that saturate. -/
theorem test_PacerArithmetic : (issues (coreUp id) = true ∧ pcAfter (getCore (coreUp id) 0) = 4)
    ∧ (coreGives (.pcrMac 0 1 (.reg 0) (.reg 1) true .clean) (coreUp fun c => { c with d := [(0, vec 3 2 0 0), (1, vec 5 7 0 0)] }) (fun c => decide (accAt c 1 0 = 29 ∧ accAt c 1 1 = -11 ∧ accAt c 0 0 = 0 ∧ c.pc = 4)))
    ∧ (coreGives (.pcrNarrow 0 9 1 1) (coreUp fun c => { c with acc := [(8, -3), (9, 100000)] }) (fun c => decide (comp (getD c 9) 0 = -2 ∧ comp (getD c 9) 1 = 32767 ∧ comp (getD c 9) 2 = 0)))
    ∧ (coreGives (.pcrNarrow 0 9 1 47) (coreUp fun c => { c with acc := [(8, -1)] }) (fun c => decide (comp (getD c 9) 0 = -1)))
    ∧ (coreGives (.pcrLaneArith 0 .add 2 0 1) (coreUp fun c => { c with d := [(0, vec 32767 1 0 0), (1, vec 1 1 0 0)] }) (fun c => decide (getD c 2 = vec 32767 2 0 0) && c.ovf))
    ∧ (coreGives (.pcrLaneArith 0 .sub 2 0 1) (coreUp fun c => { c with d := [(0, vec (-32768) 1 0 0), (1, vec 1 1 0 0)] }) (fun c => decide (getD c 2 = vec (-32768) 0 0 0)))
    ∧ (coreGives (.pcrLaneArith 0 .move 2 0 1) (coreUp fun c => { c with d := [(0, vec 4 5 6 7)] }) (fun c => decide (getD c 2 = vec 4 5 6 7) && !c.ovf)) := by
  decide +kernel

/-- A butterfly in a loop-cache body: pointers 0, 1 and 2 to X, Y and C. -/
def bflyCore : State := coreUp fun c => { c with loops := [{ start := 0, stop := 8, left := 2, cached := true, rot := false }], p := [(1, 0x10000), (2, 0x20000)], x := [(0, 4)], y := [(0, 2)], bank0 := { code := [(1, 0x40)] } }
/-- Lane 0 of a butterfly whose factor C is 0x4000, a half. -/
theorem test_Butterfly : (issues bflyCore = true ∧ fromCache (getCore bflyCore 0) = true ∧ place18 (getCore bflyCore 0) 1 0 = { space := 1, off := 0 } ∧ place18 (getCore bflyCore 0) 2 0 = { space := 2, off := 0 } ∧ placeOk { space := 2, off := 0 } 16 false = true)
    ∧ (coreGives (.pcrBfly 0 0 1 2 0 0 0 false false .clean) bflyCore (fun c => decide (comp (readVec c { space := 0, off := 0 }) 0 = 5 ∧ comp (readVec c { space := 1, off := 0 }) 0 = 3)))
    ∧ ((bflyLane (vec 4 0 0 0) (vec 2 0 0 0) (vec 0x4000 0 0 0) 0 false false).1 = 5 ∧ (bflyLane (vec 4 0 0 0) (vec 2 0 0 0) (vec 0x4000 0 0 0) 0 false true).2.2.1 = 1) := by
  decide +kernel

def ptrAt (v : BitVec 18) : State := coreUp fun c => { c with p := [(0, v)], x := [(32, 7), (33, 8)], d := [(5, 0x0102)] }
/-- Of X, of C outside a loop cache, misaligned, and to C. -/
theorem test_PacerLoadStore : (placeOk (place18 (getCore (ptrAt 32) 0) 0 0) 16 true = true ∧ placeOk (place18 (getCore (ptrAt 36) 0) 0 0) 16 true = false ∧ placeOk (place18 (getCore (ptrAt 0x20000) 0) 0 0) 4 true = false)
    ∧ (coreGives (.pcrLoad 0 5 0 0 true .clean) (ptrAt 32) (fun c => decide (getD c 5 = 0x0807 ∧ c.pc = 4)))
    ∧ (coreGives (.pcrLoad 0 5 0 0 true .clean) (ptrAt 0x20000) (fun c => decide (c.sync.map (·.1) = some 0 ∧ getD c 5 = 0x0102)))
    ∧ (coreGives (.pcrStore 0 5 0 0 true) (ptrAt 32) (fun c => decide (c.x = [(32, 2), (33, 1)]))) := by
  decide +kernel

/-- A pointer, a modifier, the low word of a data register, TIME and SWI. -/
theorem test_PacerScalars : (coreGives (.pcrScalar 0 (.p 3) (.value 0xFFFFFFFF [])) (coreUp id) (fun c => decide (c.p = [(3, 0x3FFFF)])))
    ∧ (coreGives (.pcrScalar 0 (.pm 3) (.value 5 [])) (coreUp id) (fun c => decide (c.pm = [(3, 5)] ∧ c.p = [])))
    ∧ (coreGives (.pcrScalar 0 (.d 3) (.value 5 [])) (coreUp fun c => { c with d := [(3, vec 1 2 3 4)] }) (fun c => decide (getD c 3 = vec 5 0 3 4)))
    ∧ (coreGives (.pcrTime 0 3 4) (coreUp id) (fun c => decide (getD c 3 = 96)))
    ∧ (coreGives (.pcrSwi 0 9) (coreUp id) (fun c => decide (c.swi = some 9))) := by
  decide +kernel

/-- A taken branch that leaves a level, an untaken one, REP of 0 and of 3, and BREAK. -/
theorem test_PacerControlFlow : (coreGives (.pcrBranch 0 .branch true 64) (coreUp fun c => { c with loops := [{ start := 0, stop := 8, left := 2, cached := false, rot := false }] }) (fun c => decide (c.pc = 64 ∧ c.loops = [])))
    ∧ (coreGives (.pcrBranch 0 .branch true 4) (coreUp fun c => { c with loops := [{ start := 0, stop := 8, left := 2, cached := false, rot := false }] }) (fun c => decide (c.pc = 4 ∧ c.loops.length = 1)))
    ∧ (coreGives (.pcrBranch 0 .branch false 64) (coreUp id) (fun c => decide (c.pc = 4)))
    ∧ (coreGives (.pcrRep 0 0 64 false false) (coreUp id) (fun c => decide (c.loops = [{ start := 4, stop := 64, left := 65536, cached := false, rot := false }])))
    ∧ (coreGives (.pcrRep 0 3 64 false false) (coreUp id) (fun c => decide (c.loops.map (·.left) = [3])))
    ∧ (coreGives (.pcrBreak 0) (coreUp fun c => { c with loops := [{ start := 0, stop := 8, left := 2, cached := false, rot := false }] }) (fun c => decide (c.loops = [] ∧ c.pc = 4))) := by
  decide +kernel

/-- Asleep, woken, a timer armed and expired, a post and its end. -/
theorem test_PacerWaitsAndTimers : (evOf (getCore (coreUp id) 0) = 0 ∧ evReady (coreUp fun c => { c with swi := some 1 }) 0 = 0x20000 ∧ swapWaiting (coreUp id) 0 = none)
    ∧ (coreGives (.pcrWait 0 0x20000) (coreUp id) (fun c => decide (c.st = .waiting ∧ c.waitMask = 0x20000)))
    ∧ (coreGives (.pcrWake 0) (coreUp fun c => { c with st := .waiting, waitMask := 0x20000, swi := some 1 }) (fun c => decide (c.st = .running)))
    ∧ (coreGives (.pcrTarm 0 2 true 101 0 false) (coreUp id) (fun c => (tget {} c.timers 2).armed))
    ∧ (coreGives (.pcrTimerExpire 0 2) (coreUp fun c => { c with timers := [(2, { armed := true, target := 100 })] }) (fun c => (tget {} c.timers 2).fired.isSome && !(tget {} c.timers 2).armed))
    ∧ (postOk (coreUp id) 0 { space := 0, off := 0 } 16 0 = true)
    ∧ (coreGives (.pcrXpost 0 0 0 16 0) (coreUp id) (fun c => decide (c.posts.map (fun x => (x.len, x.offset)) = [(16, 0)])))
    ∧ (gives (.xpostDone 0) (coreUp fun c => { c with posts := [{ space := 0, offset := 0, len := 16, word := 0x10000000 }] }) (fun t => decide ((getCore t 0).posts = [] ∧ (getCore t 0).xdone = [2]))) := by
  decide +kernel

/-- An entry, its return, and a double fault. -/
theorem test_PacerExceptions : (pushOk (getCore (coreUp fun c => { c with sp := 48, slLo := 16, slHi := 64 }) 0) = true ∧ pushOk (getCore (coreUp fun c => { c with sp := 32, slLo := 16, slHi := 64 }) 0) = false)
    ∧ (coreGives (.exceptionEntry 0 .none) (coreUp fun c => { c with sync := some (2, 9), pc := 0x44, ieFlag := true, sp := 48, slLo := 16, slHi := 64 }) (fun c => decide (c.pc = 16 ∧ c.sp = 16 ∧ u32 (mread c.x 16 32) 0 = 0x44 ∧ u64 (mread c.x 16 32) 16 = 9) && !c.ieFlag))
    ∧ (coreGives (.pcrRte 0) (coreUp fun c => { c with x := [(16, 0x44), (20, 3)], sp := 16 }) (fun c => decide (c.pc = 0x44) && c.ovf && c.ieFlag))
    ∧ (gives (.exceptionEntry 0 .none) (coreUp fun c => { c with sync := some (2, 9), pc := 0x44, sp := 32, slLo := 16, slHi := 64 }) (fun t => let c := getCore t 0; decide (c.st = .halted ∧ c.xsPc = 0x44 ∧ c.xsCause = 2 ∧ c.xsInfo = 9 ∧ c.dblCnt = 1) && c.double)) := by
  decide +kernel

/-- BIND 3 names core 0: 4 bytes of code, 4 of X, none of Y, entry 8. -/
def program : List Byte := leBytes 4 4 ++ leBytes 4 0 ++ leBytes 4 4 ++ leBytes 4 0 ++ List.replicate 48 0 ++ [1, 2, 3, 4] ++ List.replicate 60 0 ++ [9, 8, 7, 6]
def bound (f : PCore → PCore) : State :=
  { coreUp f with hns := { carriers with binds := [{ bind := 3, cluster := 0, mask := 1, code := 0, entry := 8 }], codes := [{ index := 0, stall := 1, data := program }] } }
def swapIssued (tag : Option (W32 × Byte)) : State := issuedFor 5 0 0x301 (bound fun c => { c with bank1 := { tag := tag } })
/-- A load, a preload, a restart, a swap to a matching preload and one that misses. -/
theorem test_PacerPrograms : ((bindRec (bound id) 3).isSome ∧ (tagCode (bound id) 0 (0, 3)).isSome ∧ pcrOwner (bound id) 0 = some 1)
    ∧ (gives (.bank0LoadDone 0) (bound fun c => { c with st := .loading, loadTag := some (0, 3) }) (fun t => let c := getCore t 0; decide (c.st = .running ∧ c.pc = 8 ∧ c.bank0.tag = some (0, 3) ∧ c.bank0.code = [(0, 1), (1, 2), (2, 3), (3, 4)] ∧ c.x = [(0, 9), (1, 8), (2, 7), (3, 6)] ∧ c.y = [])))
    ∧ (gives (.preloadDone 0 false) (bound fun c => { c with preload := some (0, 3) }) (fun t => decide ((getCore t 0).bank1.tag = some (0, 3) ∧ (getCore t 0).bank0.tag = none ∧ (getCore t 0).preload = none)))
    ∧ (gives (.pacerRestart 0) { bound fun c => { c with st := .halted, timers := [(1, { armed := true })] } with now := 1 } (fun t => decide ((getCore t 0).st = .running ∧ (getCore t 0).timers = [])))
    ∧ ((takeAct (swapIssued none) 5 0 (fun a => a == 0x301)).isSome)
    ∧ (gives (.pacerSwap 0 1 3) (swapIssued (some (0, 3))) (fun t => (getCore t 0).act))
    ∧ (gives (.pacerSwap 0 1 3) (swapIssued none) (fun t => !(getCore t 0).act && decide ((getCore t 0).swapMiss = 1))) := by
  decide +kernel

/-- To the lowest core that takes it. -/
theorem test_CaptureDelivered : (gives (.captureDeliver 0 1) { coreUp id with cores := [(1, { st := .waiting, waitMask := 0x800 }), (2, { st := .running, ie := 0x800 })], clusters := [(0, { dets := [(1, { queue := [7, 8] })] })] } (fun t => decide ((getDet (getCluster t 0) 1).queue = [8] ∧ tget [] (getCore t 1).caps 1 = [7] ∧ (getCore t 2).caps = []))) := by
  decide +kernel

/-! ### Schooling -/

/-- Network 4 of carrier 0 is schooled by engine 0: one layer of one code, one sample per tap. -/
def schoolNet : SchoolCfg := { net := 4, engine := 0, ring := 0, signal := 0, samples := 1, hold := 4, layers := [{ layer := 0, output := true, fbShift := 0, wLoc := 0, k := 1, n := 1, xLoc := 6, fb := [] }], tapOff := 0, tapRec := 64, nOut := 1, margin := 10, yLoc := 5, tLoc := 7, tshift := 0, rate := 255, decay := 255, dmax := 8, learnTaps := 2, trialTaps := 1, gain := 1, nvPages := 1, nvPage := 16, saOff := 0xA00000, saLen := 0x4000, layout := 0 }
def netRec4 : NetCfg := { ceNet with tasks := [], wLen := 2048, school := true, init := [1] }
/-- Its network is in the state and with what `f` makes. -/
def schooled (f : SchoolNet → SchoolNet) : State :=
  { siteUp {} with hns := { carriers with nets := [netRec4], schoolNets := [schoolNet], schoolEngs := [{ engine := 0, nvInterval := 600, seed := 1 }] }, carriers := [(0, { array := 7 })], school := { nets := [(0, f { state := 1 })] } }
def stepIssued (f : SchoolNet → SchoolNet) : State := issuedFor 7 0 4 (schooled f)
/-- A tap, the two installs, and a skipped step. -/
theorem test_SchoolSteps : ((schoolCfg (schooled id) 0).isSome ∧ seOwner (schooled id) 0 = some 1 ∧ (takeAct (stepIssued id) 7 0 (fun a => bits a 0 8 == 4)).isSome ∧ seBusy (schooled id) 0 = none)
    ∧ (gives (.schoolStep 0 4) (stepIssued id) (fun t => (getNet t 0).tap == some {}))
    ∧ (gives (.schoolStep 0 4) (stepIssued fun x => { x with state := 3 }) (fun t => (getNet t 0).tap == some {}))
    ∧ (gives (.schoolStep 0 4) (stepIssued fun x => { x with state := 2 }) (fun t => decide (t.school.actions = [(0, .install true)])))
    ∧ (gives (.schoolStep 0 4) (stepIssued fun x => { x with state := 4 }) (fun t => decide (t.school.actions = [(0, .install false)])))
    ∧ (gives (.schoolStep 0 4) (stepIssued fun x => { x with tap := some {} }) (fun t => decide ((getSe t 0).skip = 1 ∧ t.school.actions = []))) := by
  decide +kernel

def acting (a : SchoolAct) (running : Bool) (f : SchoolNet → SchoolNet) : State :=
  let s := schooled f
  { s with school := { s.school with actions := if running then [] else [(0, a)], running := if running then [(7, some (0, a))] else [] } }
/-- An armed tap of a reported slot, and an armed install. -/
theorem test_QuietPoint : (quietArr (schooled id) 7 = true ∧ nextInv (schooled id) 7 = none ∧ arrUsable (schooled id) 7 = true ∧ netArray (schooled id) netRec4 = 7)
    ∧ (gives (.quietPoint 7) (modArr (schooled fun x => { x with tap := some { slot := some 0, status := some 0, users := [] } }) 7 (fun a => { a with rsv := [(3, 9)] })) (fun t => decide ((getNet t 0).tap = none ∧ (getNet t 0).tapBuf = [0, 0, 0, 9] ++ List.replicate 60 0)))
    ∧ (gives (.quietPoint 7) (acting (.install true) false id) (fun t => decide (tget none t.school.running 7 = some (0, .install true) ∧ t.school.actions = []))) := by
  decide +kernel

/-- The candidate, and the committed set. -/
theorem test_InstallTakesForce : (regionBad (schooled id) 1 (areaOf (schooled id) 0 schoolNet netRec4 false) 2048 = false ∧ regionBad (schooled id) 1 (areaOf (schooled id) 0 schoolNet netRec4 true) 2048 = false)
    ∧ (gives (.installDone 0 false) (acting (.install true) true fun x => { x with state := 2, taps := 3 }) (fun t => decide ((getNet t 0).state = 3 ∧ (getNet t 0).taps = 0 ∧ (getNet t 0).wset = 1 ∧ t.school.running = [])))
    ∧ (gives (.installDone 0 false) (acting (.install false) true fun x => { x with state := 4 }) (fun t => decide ((getNet t 0).state = 1 ∧ (getNet t 0).wset = 1) && !(getNet t 0).candIn)) := by
  decide +kernel

/-- A tap: sample 0 is valid, its output is 0 and its decided bit 0. -/
def tapped : SchoolNet → SchoolNet := fun x => { x with tapBuf := [0, 0, 0, 0, 1, 0, 64, 64] ++ List.replicate 56 0, outBuf := [0, 1], taps := 1 }
/-- The second tap of two moves the trace and has a candidate built. -/
theorem test_TapMovesTraces : ((recordsOf (schooled tapped) 0).find? (fun r => !(getNet (schooled tapped) r).tapBuf.isEmpty) = some 0)
    ∧ (gives (.tapProcessDone 0 false) (schooled tapped) (fun t => (getNet t 0).build && decide ((getNet t 0).taps = 2 ∧ (getNet t 0).tapBuf = [] ∧ (getNet t 0).traces = (processTap schoolNet (getNet (schooled tapped) 0) { gen := 0, draws := 0, traces := [] }).1.traces)))
    ∧ ((processTap schoolNet (getNet (schooled tapped) 0) { gen := 0, draws := 0, traces := [] }).1.traces ≠ []) := by
  decide +kernel

/-- Within DMAX, beyond it, and a set of the host. -/
theorem test_CandidateBuilt : ((buildCodes schoolNet (getNet (schooled id) 0) { gen := 0, draws := 0, traces := [] }).2.2 = false ∧ (buildCodes schoolNet { traces := [(0, 127)] } { gen := 0, draws := 0, traces := [(0, 127)] }).2.2 = true)
    ∧ (gives (.candidateBuilt 0 false) (schooled fun x => { x with build := true }) (fun t => decide ((getNet t 0).state = 2 ∧ (getNet t 0).cand = [0] ∧ t.school.actions = [(0, .candWrite)])))
    ∧ (gives (.candidateBuilt 0 false) (schooled fun x => { x with build := true, traces := [(0, 127)] }) (fun t => decide ((getNet t 0).state = 1 ∧ (getNet t 0).discards = 1 ∧ t.school.actions = [])))
    ∧ (gives (.candidateBuilt 0 false) (schooled fun x => { x with build := true, hostCand := some [5] }) (fun t => decide ((getNet t 0).state = 2 ∧ (getNet t 0).cand = [5] ∧ (getNet t 0).hostCand = none))) := by
  decide +kernel

def paging (f : SchoolNet → SchoolNet) : State := schooled fun x => f { x with nvWrite := some (0, 0, [7]) }
/-- Begun after its interval, a page verified, one that fails, and one while the trail's snapshot is written. -/
theorem test_WeightBankWrites : (gives (.nvWriteStart 0) { schooled (fun x => { x with nvPending := true }) with now := 73728000000 } (fun t => decide (t.school.actions = [(0, .nvRead)])))
    ∧ (gives (.nvPageWriteDone 0 true) (paging id) (fun t => decide ((tget [] t.school.pages 16).head? = some 7 ∧ tget 0 t.school.pageWrites 16 = 1 ∧ (getNet t 0).nvWrites = 1 ∧ (getNet t 0).nvWrite = none)))
    ∧ (gives (.nvPageWriteDone 0 false) (paging id) (fun t => (getNet t 0).nvWorn && decide (tget 0 t.school.pageWrites 16 = 1 ∧ (getNet t 0).nvWrite = none ∧ t.school.pages = [])))
    ∧ (gives (.nvPageWriteDone 0 true) { paging id with trail := { writing := some (false, { cause := 1, frozen := false, stopped := false, seq := 0, first := 0, abs := 0, lost := 0, serial := 0, version := 0, entries := [] }) } } (fun t => decide (t.school = (paging id).school))) := by
  decide +kernel

/-- Begun, out of range, HOLD and RELEASE, BUSY, and the end of one. -/
theorem test_SchoolHostOperations : (bufferOk (schooled id) 1 0x800000 2112 = true ∧ bufferOk (schooled id) 1 0xA00000 2112 = false ∧ restoring (schooled id) = false)
    ∧ (gives (.sclRead 0 0x800000) (schooled id) (fun t => decide ((getNet t 0).xfer = some (1, 0x800000) ∧ tget 0 t.school.xferState 1 = 1 ∧ t.school.actions = [(0, .hostRead)])))
    ∧ (gives (.sclWrite 0 0x801000) (schooled id) (fun t => decide ((getNet t 0).xfer = some (2, 0x801000) ∧ t.school.actions = [(0, .copyIn 2)])))
    ∧ (gives (.sclWriteTrial 0 0x800000) (schooled id) (fun t => decide ((getNet t 0).xfer = some (3, 0x800000) ∧ t.school.actions = [(0, .copyIn 3)])))
    ∧ (gives (.sclRead 0 0xA00000) (schooled id) (fun t => decide (tget 0 t.school.xferState 1 = 3 ∧ tget 0 t.school.xferReason 1 = 4 ∧ t.school.actions = [])))
    ∧ (gives (.sclRevertNv 0) (schooled id) (fun t => decide (t.school.actions = [(0, .copyIn 4)])) && gives (.sclRevertInit 0) (schooled id) (fun t => decide (t.school.actions = [(0, .copyIn 5)])))
    ∧ (gives (.sclHold 0) (schooled id) (fun t => decide ((getNet t 0).state = 5 ∧ (getNet t 0).xferEnd = some 0)))
    ∧ (gives (.sclRelease 0) (schooled fun x => { x with state := 5 }) (fun t => decide ((getNet t 0).state = 1 ∧ (getNet t 0).xferEnd = some 0)))
    ∧ (gives (.sclHold 0) (schooled fun x => { x with xfer := some (1, 0) }) (fun t => decide (tget 0 t.school.xferState 1 = 3 ∧ tget 0 t.school.xferReason 1 = 1)))
    ∧ (gives (.sclXferDone 0) (schooled fun x => { x with xfer := some (1, 0), xferEnd := some 4 }) (fun t => decide (tget 0 t.school.xferState 1 = 3 ∧ tget 0 t.school.xferReason 1 = 4 ∧ (getNet t 0).xfer = none)))
    ∧ (gives (.sclXferDone 0) (schooled fun x => { x with xfer := some (1, 0), xferEnd := some 0 }) (fun t => decide (tget 0 t.school.xferState 1 = 2 ∧ tget 0 t.school.xferReason 1 = 0))) := by
  decide +kernel

/-! ### Tether -/

/-- Port T0 in the role that `r` makes, its engine as `f` makes it from UP in MODE 1; S2's host is reachable. -/
def tth (r : TetherRec → TetherRec) (f : Tth → Tth) : State :=
  let s := reachableFrom { siteUp {} with hns := { site with tether := [r { port := 0, role := 3, mode := 1, stall := 2, timeDir := 0, gain := 0 }] } }
  modTth { s with funcs := [(0, { bme := true }), (2, { bme := true })] } 0 (fun t => f { t with state := .up, mode := 1 })
def tthGives (c : Instr) (s : State) (p : Tth → Bool) : Bool := gives c s (fun t => p (getTth t 0) && unitsKept s t && decide (getTth t 1 = getTth s 1))
def retrains (s : State) (c : Instr) : Bool := tthGives c s (fun x => decide (x.state = .retrain ∧ x.phase = .preamble ∧ x.retrain = 1))
def training (phase : TthPhase) (f : Tth → Tth) : State := tth id fun t => f { t with state := .train, phase := phase, full := true }
def ends (s : State) (residual late : Bool) (p : Tth → Bool) : Bool := tthGives (.tthTrainPhaseEnd 0 residual late 9) s p

/-- From UP by each command, and not from another state. -/
theorem test_TetherRetrains : (retrains (tth id id) (.tthFastRetrain 0) && retrains (tth id id) (.tthCtlRetrain 0) && retrains (tth id id) (.retrainReq 0))
    ∧ (restoring (tth id id) = false ∧ portAlive (tth id id) 0 = true ∧ mgmtOpen (tth id id) = true)
    ∧ (gives (.tthFastRetrain 0) (training .wake id) (fun t => decide (t = training .wake id)))
    ∧ (gives (.tthCtlRetrain 0) (training .wake id) (fun t => decide (t = unheld (training .wake id) 2)))
    ∧ (tthGives (.retrainReq 0) (training .wake id) (fun x => decide (x.state = .train ∧ x.phase = .wake)))
    ∧ (tthGives (.tthFullTrain 0) (tth id id) (fun x => decide (x.state = .wake ∧ x.phase = .wake) && x.bursting))
    ∧ (tthGives (.tthFailedRetry 0) { tth id fun t => { t with state := .failed } with now := 122880000 } (fun x => decide (x.state = .wake)))
    ∧ (gives (.tthFailedRetry 0) { tth id fun t => { t with state := .failed } with now := 122879999 } (fun t => decide ((getTth t 0).state = .failed)))
    ∧ (tthGives (.tthWakeBurstTimer 0) (training .wake id) (fun x => x.bursting)) := by
  decide +kernel

/-- The order of the phases, and UP at an average link quality of 48. -/
theorem test_TetherPhases : (ends (training .wake fun t => { t with hello := some (1, 1, 0, 7), helloSent := true }) true true (fun x => decide (x.phase = .echoM ∧ x.state = .train)))
    ∧ (ends (training .echoM id) false false (fun x => decide (x.phase = .echoS ∧ x.gain = 9)) && ends (training .echoM fun t => { t with master := true }) false false (fun x => decide (x.gain = 0)))
    ∧ (ends (training .echoS fun t => { t with master := true }) false false (fun x => decide (x.phase = .duplex2 ∧ x.gain = 9)))
    ∧ (ends (training .duplex2 id) true false (fun x => decide (x.phase = .duplexM ∧ x.ctrl = [(2, [])])) && ends (training .preamble id) true false (fun x => decide (x.phase = .duplexM)))
    ∧ (ends (training .duplexM fun t => { t with lqRun := [47, 49], readySent := true, readyPeer := true, fullFails := 2 }) true false (fun x => decide (x.state = .up ∧ x.phase = .none ∧ x.fullFails = 0)))
    ∧ (ends (training .duplexM fun t => { t with lqRun := [47, 49], readySent := true }) true false (fun x => decide (x.trainErr = 6 ∧ x.trainFail = 1)))
    ∧ (ends (training .duplexM fun t => { t with lqRun := [47, 48], readySent := true, readyPeer := true }) true false (fun x => decide (x.trainErr = 3)) && ends (training .duplexM id) true false (fun x => decide (x.trainErr = 3))) := by
  decide +kernel

/-- What fails a phase, and what a failed training does. -/
theorem test_TetherFails : (ends (training .wake id) false false (fun x => decide (x.trainErr = 1 ∧ x.trainFail = 1)))
    ∧ (ends (training .echoM id) true false (fun x => decide (x.trainErr = 5 ∧ x.state = .wake ∧ x.fullFails = 1)))
    ∧ (ends (training .echoS fun t => { t with fullFails := 2 }) false true (fun x => decide (x.trainErr = 6 ∧ x.state = .failed ∧ x.phase = .none)))
    ∧ (ends (training .preamble fun t => { t with full := false, state := .retrain }) false true (fun x => decide (x.trainErr = 6 ∧ x.state = .retrain ∧ x.fastFails = 1)))
    ∧ (ends (training .duplexM fun t => { t with full := false, state := .retrain, fastFails := 2 }) true true (fun x => decide (x.trainErr = 6 ∧ x.state = .wake ∧ x.fastFails = 0))) := by
  decide +kernel
def helloGives (r : TetherRec → TetherRec) (cls mode dir : Byte) (id_ : W32) (p : Tth → Bool) : Bool :=
  tthGives (.hello 0 cls mode dir id_ 3) (tth r fun t => { t with state := .wake, phase := .wake, trainId := 5, helloSent := true }) p
/-- Its checks, the master, and READY. -/
theorem test_Hello : (helloGives id 1 2 0 9 (fun x => decide (x.trainErr = 2)) && helloGives id 2 1 0 9 (fun x => decide (x.trainErr = 4)))
    ∧ (helloGives (fun r => { r with role := 1 }) 2 1 0 9 (fun x => decide (x.hello = some (2, 1, 0, 9)) && x.master))
    ∧ (helloGives (fun r => { r with timeDir := 1 }) 1 1 0 9 (fun x => x.master) && helloGives id 1 1 1 9 (fun x => !x.master && decide (x.hello = some (1, 1, 1, 9))))
    ∧ (helloGives id 1 1 0 4 (fun x => x.master) && helloGives id 1 1 0 6 (fun x => !x.master))
    ∧ (helloGives id 1 1 0 5 (fun x => decide (x.hello = none) && !x.helloSent))
    ∧ (tthGives (.ready 0) (training .duplexM id) (fun x => x.readyPeer) && tthGives (.ready 0) (training .duplex2 id) (fun x => !x.readyPeer)) := by
  decide +kernel

/-- A frame of TYPE `type` on channel 2 with one acknowledgement and one credit. -/
def frame (type : Byte) (seq : W16) (payload : List Byte) : TFrame :=
  { type := type, chan := 2, first := true, last := true, retx := false, seq := seq, len := BitVec.ofNat 16 payload.length, ackChan := 2, urgent := false, ackValid := true,
    credChan := 2, credValid := true, ackSeq := 3, sack := 0, credLimit := 40, lqPeer := 77, epoch := 8, payload := payload }
def linked (f : Tth → Tth) : State := tth id fun t => f { t with peerEpoch := some 8, chans := [(2, { ctl := 0x18D, unacked := [{ slot := 0, seq := 3, addr := 0, len := 64, flags := 0 }, { slot := 1, seq := 4, addr := 0, len := 64, flags := 0 }], txSeq := 5 })] }
/-- Acknowledgements and credit, a new session, DISABLE. -/
theorem test_TetherHeaders : (tthGives (.tthIdleFrame 0 (frame 0 0 [])) (linked fun t => { t with decoded := [frame 0 0 []] }) (fun x => decide (x.lqPeer = 77 ∧ x.decoded = [] ∧ (getChan x 2).limit = 40 ∧ (getChan x 2).unacked.map (·.seq) = [4])))
    ∧ (tthGives (.tthIdleFrame 0 (frame 0 0 [])) (linked fun t => { t with peerEpoch := some 9, store := [(2, frame 1 0 [])] }) (fun x => x.sessionReset && decide (x.store = [] ∧ (getChan x 2).txSeq = 0 ∧ (getChan x 2).unacked = [])))
    ∧ (tthGives (.disable 0) (linked fun t => { t with decoded := [frame 3 0 [4]] }) (fun x => decide (x.decoded = [] ∧ x.lqPeer = 77)))
    ∧ (gives (.disable 0) (linked id) (fun t => decide (t = linked id))) := by
  decide +kernel

/-- Stored, a repeat, outside the window, outside the credit, delivered, lost in the store. -/
theorem test_TetherReceivesData : (rxHeader (linked id) 0 (frame 1 0 [5]) ≠ linked id ∧ covered (getTth (rxHeader (linked id) 0 (frame 1 0 [5])) 0) 2 (frame 1 0 [5]) = true ∧ hostOpen (linked id) 0 = true)
    ∧ (tthGives (.tthDataFrame 0 (frame 1 0 [5])) (linked id) (fun x => decide (x.store = [(2, frame 1 0 [5])] ∧ x.state = .up)))
    ∧ (tthGives (.tthDataFrame 0 (frame 1 0 [5])) (linked fun t => { t with store := [(2, frame 1 0 [5])] }) (fun x => decide (x.dup = 1) && (getChan x 2).urgent))
    ∧ (tthGives (.tthDataFrame 0 (frame 1 32768 [5])) (linked id) (fun x => decide (x.dup = 1)) && tthGives (.tthDataFrame 0 (frame 1 32767 [5])) (linked id) (fun x => decide (x.winErr = 1 ∧ x.store = [])))
    ∧ (tthGives (.tthDataFrame 0 (frame 1 4096 [5])) (linked id) (fun x => decide (x.winErr = 1)) && tthGives (.tthDataFrame 0 (frame 1 4095 [5])) (linked id) (fun x => decide (x.winErr = 0 ∧ x.store.length = 1)))
    ∧ (tthGives (.tthDataFrame 0 (frame 1 0 [5])) (linked fun t => { t with chans := [(2, { ctl := 0x18D, rxWr := 63 })] }) (fun x => decide (x.store.length = 1)) && tthGives (.tthDataFrame 0 (frame 1 0 [5])) (linked fun t => { t with chans := [(2, { ctl := 0x18D, rxWr := 64 })] }) (fun x => decide (x.credErr = 1 ∧ x.store = [])))
    ∧ (tthGives (.tthDataFrame 0 (frame 1 0 [5])) (linked fun t => { t with chans := [] }) (fun x => decide (x.credErr = 1 ∧ x.store = [])))
    ∧ (tthGives (.tthDeliver 0 2 false) (linked fun t => { t with store := [(2, frame 1 0 [5])] }) (fun x => decide (x.store = [] ∧ x.rxFrames = 1 ∧ (getChan x 2).rxSeq = 1 ∧ (getChan x 2).rxWr = 1)))
    ∧ (tthGives (.tthDeliver 0 2 true) (linked fun t => { t with store := [(2, frame 1 0 [5])] }) (fun x => decide (x.store = [] ∧ x.storeUe = 1 ∧ (getChan x 2).rxSeq = 0)))
    ∧ (gives (.tthDeliver 0 2 true) { linked fun t => { t with store := [(2, frame 1 0 [5])] } with ports := [] } (fun t => decide ((getTth t 0).store.length = 1))) := by
  decide +kernel

/-- What a port in UP has to send: a CTRL frame, a retransmission, a new frame of channel 2. -/
def sending (f : Tth → Tth) : State := tth id fun t => f { t with chans := [(2, { ctl := 0x18D, tail := 1, limit := 5 })] }
def descs : List (List Byte) := [[], [], leBytes 8 0x1000 ++ [64, 0] ++ List.replicate 6 0]
/-- A time message, a CTRL frame, a retransmission, a new frame, TAIL and the timer. -/
theorem test_TetherSends : (maySend (getTth (sending id) 0) (getChan (getTth (sending id) 0) 2) (descs.getD 2 []) = true ∧ mktDue (sending id) 0 = false ∧ retxDue (getTth (sending id) 0) = none)
    ∧ (tthGives (.tthCodewordSlot 0 descs (List.replicate 64 0)) (sending id) (fun x => decide ((getChan x 2).txRd = 1 ∧ (getChan x 2).txSeq = 1 ∧ (getChan x 2).used = 1 ∧ x.txFrames = 1 ∧ x.cwIdx = 1)))
    ∧ (tthGives (.tthCodewordSlot 0 descs []) (sending fun t => { t with ctrl := [(2, [])] }) (fun x => decide (x.ctrl = []) && x.readySent))
    ∧ (tthGives (.tthCodewordSlot 0 descs []) (sending fun t => { t with cwIdx := 2, mktSent := some 5, ctrl := [(2, [])] }) (fun x => decide (x.mktSent = none ∧ x.msgSeq = 1 ∧ x.ctrl = [(2, [])])))
    ∧ (tthGives (.tthCodewordSlot 0 descs []) (sending fun t => { t with chans := [(2, { ctl := 0x18D, unacked := [{ slot := 0, seq := 0, addr := 0, len := 64, flags := 0, due := true }] })] }) (fun x => decide (x.retx = 1)))
    ∧ (tthGives (.tthTxTail 0 2 64) (sending id) (fun x => decide ((getChan x 2).tail = 64)) && gives (.tthTxTail 0 2 65) (sending id) (fun t => decide (t = unheld (sending id) 2)) && gives (.tthTxTail 0 2 0) (sending id) (fun t => decide (t = unheld (sending id) 2)))
    ∧ (tthGives (.tthRtoExpire 0 2) { sending fun t => { t with chans := [(2, { ctl := 0x18D, timerAt := some 0, unacked := [{ slot := 0, seq := 0, addr := 0, len := 64, flags := 0 }] })] } with now := 12288 } (fun x => decide ((getChan x 2).backoff = 2 ∧ (getChan x 2).timerAt = some 12288) && (getChan x 2).unacked.all (·.due)))
    ∧ (gives (.tthRtoExpire 0 2) { sending fun t => { t with chans := [(2, { ctl := 0x18D, timerAt := some 0 })] } with now := 12287 } (fun t => decide ((getChan (getTth t 0) 2).backoff = 1))) := by
  decide +kernel

/-- 10 dB, a margin just met and just missed, the restore, and the snapshot. -/
theorem test_TetherLinkQuality : (snrOf 10 1 = 160 ∧ lqThreshold 1 = 224)
    ∧ (tthGives (.tthLqWindow 0 1 10) (tth id fun t => { t with badLq := 15, lowLq := 15 }) (fun x => decide (x.snr = 160 ∧ x.lq = -64 ∧ x.state = .retrain) && x.degraded))
    ∧ (tthGives (.tthLqWindow 0 1 100) (tth id fun t => { t with goodLq := 15, degraded := true }) (fun x => decide (x.snr = 320 ∧ x.state = .up) && !x.degraded))
    ∧ (tthGives (.tthLqWindow 0 1 100) (tth id fun t => { t with rcDrops := 3, rcSnapLq := 112, rcSnap := [7] }) (fun x => decide (x.rcW = [7] ∧ x.rcRestore = 1)))
    ∧ (tthGives (.tthLqWindow 0 0 100) (tth id id) (fun x => decide (x.snr = 1023)))
    ∧ (rcRuns (getTth (tth id id) 0) = true ∧ rcRuns (getTth (training .echoM id) 0) = false)
    ∧ (gives (.tthRcUpdate 0) (training .echoM id) (fun t => decide (t = training .echoM id)))
    ∧ (tthGives (.tthRcSnapshot 0) (tth id fun t => { t with lq := 5, rcSnapLq := 5, rcW := [3] }) (fun x => decide (x.rcSnap = [3])) && gives (.tthRcSnapshot 0) (tth id fun t => { t with lq := 4, rcSnapLq := 5, rcW := [3] }) (fun t => decide ((getTth t 0).rcSnap = []))) := by
  decide +kernel

def timed (dir : Byte) (f : Tth → Tth) : State := tth (fun r => { r with timeDir := dir }) f
/-- Markers, the time markers of a slave and a master, TIME_SYNC, the marker sent, TIME frames. -/
theorem test_TetherTime : (popcount ((0x8F3AD2156C0BE740 : W64) ^^^ 0x8F3AD2156C0BE749) ≤ 4 ∧ 60 ≤ popcount ((~~~(0x8F3AD2156C0BE740 : W64)) ^^^ 0x8F3AD2156C0BE749) ∧ timeDir (timed 2 id) 0 = 2)
    ∧ (tthGives (.tthMarkerRx 0 0x8F3AD2156C0BE740 false 9) (timed 2 fun t => { t with lostMarkers := 1 }) (fun x => decide (x.lostMarkers = 0)))
    ∧ (tthGives (.tthMarkerRx 0 (~~~0x8F3AD2156C0BE740) false 9) (timed 2 id) (fun x => decide (x.exCur.t2 = some 9) && x.replyDue))
    ∧ (tthGives (.tthMarkerRx 0 (~~~0x8F3AD2156C0BE740) false 9) (timed 1 id) (fun x => decide (x.t4 = some 9)))
    ∧ (tthGives (.tthMarkerRx 0 0x8F3AD2156C0BE756 false 9) (timed 2 id) (fun x => decide (x.state = .up ∧ x.lostMarkers = 1)) && tthGives (.tthMarkerRx 0 0x8F3AD2156C0BE749 true 9) (timed 2 fun t => { t with lostMarkers := 1 }) (fun x => decide (x.state = .retrain)))
    ∧ ((takeAct (issuedFor 9 0 0 (timed 1 id)) 9 0 (fun _ => true)).isSome)
    ∧ (tthGives (.timeSync 0) (issuedFor 9 0 0 (timed 1 id)) (fun x => decide (x.syncAt = some 0)) && tthGives (.timeSync 0) (issuedFor 9 0 0 (timed 1 fun t => { t with syncAt := some 0 })) (fun x => decide (x.timeSkip = 1)))
    ∧ (gives (.tthMktSend 0 7) { timed 1 fun t => { t with syncAt := some 0 } with now := 123 } (fun t => decide ((getTth t 0).mktSent = some 7 ∧ (getTth t 0).syncAt = none)) && gives (.tthMktSend 0 7) { timed 1 fun t => { t with syncAt := some 0 } with now := 122 } (fun t => decide ((getTth t 0).mktSent = none)))
    ∧ (tthGives (.tthTimeFrame 0 (frame 2 0 [])) (timed 0 id) (fun x => decide (x.timeBad = 1)))
    ∧ (tthGives (.tthTimeFrame 0 (frame 2 6 ([8, 0, 0, 0, 0, 0, 0, 0] ++ List.replicate 12 0 ++ [3, 2]))) (timed 2 id) (fun x => decide (x.exCur.msg = some (6, 8, 3, true)))) := by
  decide +kernel

/-! Codewords: what a port's decoder makes of lists too short to be one shows that both outcomes are met; the kernel does not evaluate the
decoding of a whole codeword. -/

theorem checkRow_size (al : Nat) (es : List (Nat × Nat)) (p r : Array Int) : (checkRow al es p r).1.size = p.size := by
  unfold checkRow
  have h : ∀ (xs : List (((Nat × Nat) × Int) × Nat)) (f : (((Nat × Nat) × Int) × Nat) → Int × Int) (pr : Array Int × Array Int),
      (xs.foldl (fun pr x => (pr.1.setIfInBounds x.1.1.1 (f x).1, pr.2.setIfInBounds x.1.1.2 (f x).2)) pr).1.size = pr.1.size := by
    intro xs f
    induction xs with
    | nil => intro pr; rfl
    | cons x xs ih => intro pr; simp [List.foldl, ih]
  exact h _ (fun x => (_, _)) (p, r)

theorem ldpcPass_size (c : QcCode) (it : Nat) (pr : Array Int × Array Int) : (ldpcPass c it pr).1.size = pr.1.size := by
  have h : ∀ {α : Type} (xs : List α) (f : Array Int × Array Int → α → Array Int × Array Int) (pr : Array Int × Array Int),
      (∀ q x, (f q x).1.size = q.1.size) → (xs.foldl f pr).1.size = pr.1.size := by
    intro α xs f pr hf
    induction xs generalizing pr with
    | nil => rfl
    | cons x xs ih => simp [List.foldl, ih, hf]
  exact h _ _ _ fun q l => h _ _ _ fun q t => checkRow_size _ _ _ _

/-- A decoder gives as many decisions as it has LLRs. -/
theorem ldpcDecode_length (c : QcCode) (ok : List Bool → Bool) (llrs : List Int) :
    (ldpcDecode c ok llrs).1.length = min (c.nb * c.z) llrs.length := by
  have h : ∀ f it pr, (ldpcRun c ok f it pr).1.length = pr.1.size := by
    intro f
    induction f with
    | zero => intro it pr; simp [ldpcRun, hardBits]
    | succ f ih =>
      intro it pr
      simp only [ldpcRun]
      split
      · simp [hardBits, ldpcPass_size]
      · rw [ih, ldpcPass_size]
  simp [ldpcDecode, h]

/-- No LLR at all gives the frame of no byte, whose CRC is 0. -/
theorem test_TetherFrameDecoded : (decodeFrame (scrRun 10752 (rxScrAt (tth id id) 0)).1 []).1 = some (frameOf []) := by
  have h : (ldpcDecode tethCode (fun _ => true) []).1 = [] := List.eq_nil_of_length_eq_zero (by rw [ldpcDecode_length]; simp)
  have h1 : descramble (scrRun 10752 (rxScrAt (tth id id) 0)).1 [] = [] := by simp [descramble]
  simp only [decodeFrame, List.map_nil, h1, List.zipIdx_nil, h]
  decide +kernel

/-- One LLR gives one byte, whose CRC is not that of a frame. -/
theorem test_TetherFrameRefused : (decodeFrame (scrRun 10752 (rxScrAt (tth id id) 0)).1 [5]).1 = none := by
  obtain ⟨b, h⟩ : ∃ b, (ldpcDecode tethCode (fun _ => true) [5]).1 = [b] :=
    List.length_eq_one_iff.mp (by rw [ldpcDecode_length]; decide +kernel)
  have h1 : ((descramble (scrRun 10752 (rxScrAt (tth id id) 0)).1 (([5] : List (BitVec 8)).map BitVec.toInt)).zipIdx.map
      (fun x => if 8636 ≤ x.2 ∧ x.2 < 8704 then (127 : Int) else x.1)) = [5] := by decide +kernel
  simp only [decodeFrame, h1, h]
  cases b <;> decide +kernel

/-! ### Girth, the time channel and the converters -/

/-- Link 0, ACTIVE, as `f` makes it, with its lane scramblers loaded. -/
def girth (f : Girth → Girth) : State :=
  modGirth (tth id id) 0 (fun x => f { x with state := .active, activeAt := some 0, rxScr := laneStart, txScr := laneStart, limit := [(0, 5)] })
def grtGives (c : Instr) (s : State) (p : Girth → Bool) : Bool := gives c s (fun t => p (getGirth t 0) && unitsKept s t && partKept (unheld s 0) t)
def inPhase (phase : GirthPhase) (f : Girth → Girth) : State := girth fun x => f { x with state := .retrain, phase := phase, activeAt := none }
def flit0 : Flit := { seq := 0, vc := 0, chunks := 1, payload := List.replicate 16 0 }

/-- By a cause, by S0, and the replay after 2 µs. -/
theorem test_GirthRetrains : (grtGives (.grtRetrain 0 2) (girth id) (fun x => decide (x.state = .retrain ∧ x.phase = .clock ∧ x.retrain = 1) && !x.full))
    ∧ (grtGives (.grtCtlRetrain 0) (girth id) (fun x => decide (x.state = .retrain ∧ x.retrain = 1)) && mgmtOpen (girth id))
    ∧ (gives (.grtRetrain 0 2) (inPhase .clock id) (fun t => decide (t = inPhase .clock id)) && gives (.grtCtlRetrain 0) (inPhase .clock id) (fun t => decide (t = unheld (inPhase .clock id) 0)))
    ∧ (256000 ≤ 32 * 8138 ∧ 31 * 8138 < 256000)
    ∧ (grtGives (.grtReplayTimeout 0) { girth fun x => { x with buf := [flit0] } with now := 32 } (fun x => decide (x.resend = [0] ∧ x.replay = 1)))
    ∧ (grtGives (.grtReplayTimeout 0) { girth fun x => { x with buf := [flit0] } with now := 31 } (fun x => decide (x.resend = []))) := by
  decide +kernel

/-- 100 ms of a second not ACTIVE after a retrain. -/
theorem test_GirthFails : (windowBare 122880000 { (getGirth (girth id) 0) with retrained := true, activeAt := none, spans := [(0, 12287999)] } = true ∧ windowBare 122880000 { (getGirth (girth id) 0) with retrained := true, activeAt := none, spans := [(0, 12288000)] } = false)
    ∧ (gives (.girthFailWindow 0) { inPhase .clock fun x => { x with retrained := true, spans := [(0, 12287999)], buf := [flit0] } with now := 122880000 } (fun t => let x := getGirth t 0; decide (x.state = .failed ∧ x.failCause = 6 ∧ x.buf = [] ∧ x.held = [] ∧ (getTth t 0).state = .noDie)))
    ∧ (gives (.girthFailWindow 0) (inPhase .clock id) (fun t => decide (t = inPhase .clock id)))
    ∧ (gives (.girthFailWindow 0) (girth fun x => { x with held := [.mwr 0 2 0x800000 [9] false] }) (fun t => decide ((getGirth t 0).held = [] ∧ (getGirth t 0).state = .active ∧ t.mem.hbm = [(0x800000, 9)]))) := by
  decide +kernel
def paramGood : GirthParam := peerParam [32, 64, 64, 16]
/-- The phases, a fresh link, a retrained one, another die, and what fails. -/
theorem test_GirthTraining : (grtGives (.grtTrainingPhaseEnd 0 0 paramGood) (inPhase .clock id) (fun x => decide (x.phase = .pattern)) && grtGives (.grtTrainingPhaseEnd 0 0 paramGood) (inPhase .pattern id) (fun x => decide (x.phase = .repair)))
    ∧ (gives (.grtTrainingPhaseEnd 0 0 { paramGood with faulty := [some 3, none, none, none] }) (inPhase .repair id) (fun t => let x := getGirth t 0; decide (x.phase = .param ∧ x.ctrlQ.length = 9 ∧ x.faulty = [some 3, none, none, none] ∧ x.txScr = laneStart)))
    ∧ (paramOk paramGood = true ∧ paramOk (peerParam [31, 64, 64, 16]) = false ∧ sameDie paramGood paramGood = true ∧ sameDie paramGood { paramGood with dieId := 6 } = false)
    ∧ (grtGives (.grtTrainingPhaseEnd 0 0 paramGood) (inPhase .param fun x => { x with full := true, txSeq := 9 }) (fun x => decide (x.state = .active ∧ x.lat = 2 ∧ x.txSeq = 0 ∧ tget 0 x.limit 3 = 16 ∧ tget 0 x.granted 1 = 128)))
    ∧ (grtGives (.grtTrainingPhaseEnd 0 0 paramGood) (inPhase .param fun x => { x with full := false, txSeq := 9, peer := some paramGood }) (fun x => decide (x.state = .active ∧ x.txSeq = 9) && x.timeDue))
    ∧ (gives (.grtTrainingPhaseEnd 0 0 paramGood) (inPhase .param fun x => { x with full := false, peer := some { paramGood with dieId := 6 } }) (fun t => decide ((getGirth t 0).state = .failed ∧ (getGirth t 0).failCause = 4)))
    ∧ (grtGives (.grtTrainingPhaseEnd 0 1 paramGood) (inPhase .clock fun x => { x with full := true }) (fun x => decide (x.state = .failed ∧ x.failCause = 1)))
    ∧ (grtGives (.grtTrainingPhaseEnd 0 2 paramGood) (inPhase .repair fun x => { x with full := false, failRun := 2 }) (fun x => decide (x.state = .failed ∧ x.failCause = 6)))
    ∧ (grtGives (.grtTrainingPhaseEnd 0 5 paramGood) (inPhase .param fun x => { x with full := false, failRun := 1 }) (fun x => decide (x.state = .retrain ∧ x.failRun = 2))) := by
  decide +kernel

/-- Link 0 that scrambles its first five lanes by 0 and no other, which keeps the kernel's work small: of a flit, the first 20 bytes
are read and the rest is 0. The last two of these leave a CRC of 0. -/
def plainScr : List (BitVec 23) := List.replicate 5 0
def goodFlit (head crc : List Byte) : List Byte := padTo 18 head ++ crc
def lanesOf (b : List Byte) : List (List Bool) :=
  (List.range 64).map (fun l => [0, 64, 128].map (fun k => (b.getD ((k + l) / 8) 0).getLsbD (l % 8)))
def msgFlit : List Byte := goodFlit [1, 4, 5] [222, 228]
def retrainFlit : List Byte := goodFlit [2, 0, 0, 0, 0, 0, 0, 0, 0, 0, 0, 0, 0, 0, 4] [127, 25]
def pingFlit : List Byte := goodFlit [2, 0, 0, 0, 0, 0, 0, 0, 0, 0, 0, 0, 0, 0, 2] [88, 128]
def ackFlit : List Byte := goodFlit [0, 0, 0, 0, 0, 128] [240, 11]
def rx (b : List Byte) (s : State) (p : Girth → Bool) : Bool := gives (.grtFlitRx 0 (lanesOf b)) (modGirth s 0 (fun x => { x with rxScr := plainScr })) (fun t => p (getGirth t 0) && unitsKept s t)

/-- A flit of fewer than 160 line bits is 20 bytes and zeros. -/
theorem flitOf_short (bs : List Bool) (h : bs.length ≤ 160) : flitOf bs = (flitOf bs).take 20 ++ List.replicate 236 0 := by
  have h0 : (flitOf bs).drop 20 = List.replicate 236 0 := by
    rw [flitOf, ← List.map_drop, show List.drop 20 (List.range 256) = List.range' 20 236 from by decide +kernel]
    refine List.eq_replicate_iff.mpr ⟨List.length_map .. |>.trans List.length_range', fun x hx => ?_⟩
    obtain ⟨i, hi, rfl⟩ := List.mem_map.mp hx
    have hb : 20 ≤ i := (List.mem_range'_1.mp hi).1
    have hg : ∀ k, bs.getD (8 * i + k) false = false := by
      intro k
      rw [List.getD_eq_getElem?_getD, List.getElem?_eq_none (by omega)]; rfl
    simp only [hg]
    decide
  rw [← h0, List.take_append_drop]

/-- A scrambler of five registers covers 160 line bits. -/
theorem laneRun_length (n : Nat) (rs : List (BitVec 23)) : (laneRun n rs).1.length = n * rs.length := by
  induction n generalizing rs with
  | zero => simp [laneRun]
  | succ n ih => simp [laneRun, ih, Nat.succ_mul, Nat.add_comm]

theorem flitFrom_padded (lanes : List (List Bool)) (b : List Byte) (h : (flitFrom plainScr lanes).take 20 = b) :
    flitFrom plainScr lanes = b ++ List.replicate 236 0 := by
  rw [← h]
  exact flitOf_short _ (by rw [List.length_zipWith, laneRun_length]; exact Nat.le_trans (Nat.min_le_right _ _) (by decide))

/-- What the four flits carry is read back from the lanes. -/
theorem test_GirthFlitRead : ∀ b ∈ [msgFlit, retrainFlit, pingFlit, ackFlit], flitFrom plainScr (lanesOf b) = b ++ List.replicate 236 0 := by
  simp only [List.mem_cons, List.not_mem_nil, or_false, forall_eq_or_imp, forall_eq]
  exact ⟨flitFrom_padded _ _ (by decide +kernel), flitFrom_padded _ _ (by decide +kernel), flitFrom_padded _ _ (by decide +kernel),
    flitFrom_padded _ _ (by decide +kernel)⟩

theorem crcMsb_zeros {w : Nat} (p : BitVec w) (n : Nat) : crcMsb p 0 (List.replicate n false) = 0 := by
  induction n with
  | zero => rfl
  | succ n ih =>
    have h : crcMsbBit p 0 false = 0 := by simp [crcMsbBit]
    simp only [crcMsb, List.replicate_succ, List.foldl_cons, h]
    exact ih

theorem zero_bits (n : Nat) : (List.replicate n (0 : Byte)).flatMap bitsMsb = List.replicate (8 * n) false := by
  induction n with
  | zero => rfl
  | succ n ih =>
    have h0 : bitsMsb (0 : Byte) = List.replicate 8 false := by decide
    rw [List.replicate_succ, List.flatMap_cons, ih, h0, List.replicate_append_replicate]
    congr 1; omega

theorem u16_padded (b : List Byte) (h : b.length ≤ 0xFE) (k : Nat) : u16 (b ++ List.replicate k 0) 0xFE = 0 := by
  have h1 : slice (b ++ List.replicate k (0 : Byte)) 0xFE 2 = List.replicate (min 2 (k - (0xFE - b.length))) 0 := by
    simp only [slice]
    rw [List.drop_append, List.drop_eq_nil_of_le h, List.nil_append, List.drop_replicate, List.take_replicate]
  have h2 : ∀ n, n ≤ 2 → BitVec.ofNat 16 (leNat (List.replicate n 0)) = 0 := by decide
  simp only [u16, h1]
  exact h2 _ (by omega)

theorem flitCrc_padded (b : List Byte) (h : b.length = 20) (hc : crcMsb (0x1021 : BitVec 16) 0xFFFF (b.flatMap bitsMsb) = 0) :
    flitCrc (b ++ List.replicate 236 0) = u16 (b ++ List.replicate 236 0) 0xFE := by
  have h1 : (b ++ List.replicate 236 (0 : Byte)).take 254 = b ++ List.replicate 234 0 := by
    rw [List.take_append, List.take_of_length_le (by omega), List.take_replicate]; simp [h]
  rw [u16_padded b (by omega)]
  simp only [flitCrc, h1, List.flatMap_append, zero_bits, crcMsb, List.foldl_append]
  rw [show List.foldl (crcMsbBit 0x1021) 0xFFFF (List.flatMap bitsMsb b) = 0 from hc]
  exact crcMsb_zeros _ _

/-- Their CRCs are good. -/
theorem test_GirthFlitCrc : ∀ b ∈ [msgFlit, retrainFlit, pingFlit, ackFlit], flitCrc (b ++ List.replicate 236 0) = u16 (b ++ List.replicate 236 0) 0xFE := by
  simp only [List.mem_cons, List.not_mem_nil, or_false, forall_eq_or_imp, forall_eq]
  exact ⟨flitCrc_padded _ (by decide) (by decide +kernel), flitCrc_padded _ (by decide) (by decide +kernel),
    flitCrc_padded _ (by decide) (by decide +kernel), flitCrc_padded _ (by decide) (by decide +kernel)⟩

theorem crcMsbBit_ne (c : BitVec 16) (h : c ≠ 0) : crcMsbBit (0x1021 : BitVec 16) c false ≠ 0 := by
  intro e
  apply h
  simp only [crcMsbBit, Bool.xor_false] at e
  apply BitVec.eq_of_getLsbD_eq
  intro i hi
  by_cases hm : c.getLsbD (16 - 1) = true
  · rw [if_pos hm] at e
    have := congrArg (fun x => x.getLsbD 0) e
    simp at this
  · rw [if_neg hm] at e
    by_cases h15 : i = 15
    · subst h15; simpa using hm
    · have := congrArg (fun x => x.getLsbD (i + 1)) e
      simp at this
      simpa using this (by omega)

/-- That of a flit of zeros is bad. -/
theorem test_GirthFlitBad : flitCrc (flitFrom [] []) ≠ u16 (flitFrom [] []) 0xFE := by
  have h0 : flitFrom [] [] = List.replicate 256 0 := by decide +kernel
  have hn : ∀ n (c : BitVec 16), c ≠ 0 → crcMsb (0x1021 : BitVec 16) c (List.replicate n false) ≠ 0 := by
    intro n
    induction n with
    | zero => intro c h; exact h
    | succ n ih => intro c h; simp only [crcMsb, List.replicate_succ, List.foldl_cons]; exact ih _ (crcMsbBit_ne c h)
  rw [h0, show u16 (List.replicate 256 (0 : Byte)) 0xFE = 0 from u16_padded [] (by decide) 256]
  simp only [flitCrc, List.take_replicate, zero_bits]
  exact hn _ _ (by decide)

/-- A replay, a fourth sending, a CTRL flit, a new flit, an idle one, and none. -/
theorem test_GirthFlitSlots : (grtGives (.grtFlitSlot 0) (girth fun x => { x with resend := [0], buf := [{ flit0 with sends := 2 }] }) (fun x => decide (x.resend = [] ∧ x.buf.map (·.sends) = [3] ∧ x.txFlits = 1)))
    ∧ (grtGives (.grtFlitSlot 0) (girth fun x => { x with resend := [0], buf := [{ flit0 with sends := 3 }] }) (fun x => decide (x.state = .retrain)))
    ∧ (grtGives (.grtFlitSlot 0) (girth fun x => { x with resend := [0] }) (fun x => decide (x.resend = [] ∧ x.txFlits = 0)))
    ∧ (grtGives (.grtFlitSlot 0) (girth fun x => { x with ctrlQ := [[3]] }) (fun x => decide (x.ctrlQ = [] ∧ x.txFlits = 1)))
    ∧ (vcReady { (getGirth (girth id) 0) with outQ := [(0, [List.replicate 16 0])] } 0 = true ∧ (List.range 4).all (fun v => !vcReady (getGirth (girth id) 0) v) = true)
    ∧ (grtGives (.grtFlitSlot 0) (girth fun x => { x with outQ := [(0, [List.replicate 16 0])] }) (fun x => decide (x.txSeq = 1 ∧ x.buf.length = 1 ∧ tget 0 x.used 0 = 1)))
    ∧ (grtGives (.grtFlitSlot 0) (girth id) (fun x => decide (x.txSeq = 0 ∧ x.txFlits = 1)))
    ∧ (gives (.grtFlitSlot 0) (inPhase .param id) (fun t => t.sent.any (fun o => match o with | .flit 0 b _ => decide (b.head? = some 0) | _ => false)))
    ∧ (gives (.grtFlitSlot 0) (inPhase .clock id) (fun t => decide (t = inPhase .clock id)) && gives (.grtFlitRx 0 []) (inPhase .clock id) (fun t => decide (t = inPhase .clock id))) := by
  decide +kernel

/-- I/O die 0's converter link, enabled; the edge of SYSREF at eighth 40 of tick 0. -/
def converter (f : Iod → Iod) : State := { girth id with iods := [(0, f { cfg := 0x104 })] }
def iodGives (c : Instr) (s : State) (p : Iod → Bool) : Bool := gives c s (fun t => p (getIod t 0) && unitsKept s t && partKept (unheld s 0) t)
/-- TIME sent, not sent, received, repeated; TACT with and without a link. -/
theorem test_TimeChannel : (gives (.timeSend 0) (modAir (girth id) fun a => { a with tick := 1024, abs := 1024 }) (fun t => t.sent.any (fun o => match o with | .time 0 w _ _ _ _ => decide (w = 8192) | _ => false) && decide ((getGirth t 0).timeAt = some 1024)))
    ∧ (gives (.timeSend 0) (modAir (girth id) fun a => { a with tick := 1025 }) (fun t => decide (t.sent = [])))
    ∧ (gives (.timeSend 0) (modAir (girth fun x => { x with timeDue := true }) fun a => { a with tick := 1025 }) (fun t => decide (t.sent.length = 1) && !timeStep t 0))
    ∧ (gives (.time 0 80 false 81) (girth fun x => { x with lat := 2 }) (fun t => decide ((getIod t 0).count = 81 ∧ (getGirth t 0).timeAdj = 0)) && gives (.time 0 80 false 83) (girth fun x => { x with lat := 2 }) (fun t => decide ((getGirth t 0).timeAdj = 1)))
    ∧ (gives (.time 0 80 true 83) (girth id) (fun t => decide (t = girth id)))
    ∧ (gives (.tact 0 1 3 9) (girth id) (fun t => decide ((getIod t 0).tacts = [(1, 3, 9)])) && gives (.tact 0 1 3 9) (inPhase .clock id) (fun t => decide ((getTth t 1).timeSkip = 1))) := by
  decide +kernel

/-- SYSREF fixes the boundaries, within and beyond half a tick; RESYNC; lanes; the ratio. -/
theorem test_Converters : (iodGives (.sysrefEdge 0 40) (converter id) (fun x => decide (x.sysref = some 40 ∧ x.lemc = 6) && x.aligned))
    ∧ (gives (.sysrefEdge 0 44) (converter fun x => { x with sysref := some 40 }) (fun t => decide (t = converter fun x => { x with sysref := some 40 })) && iodGives (.sysrefEdge 0 45) (converter fun x => { x with sysref := some 40 }) (fun x => x.misalign && x.misSeen))
    ∧ (gives (.sysrefEdge 0 36) (converter fun x => { x with sysref := some 40 }) (fun t => decide (t = converter fun x => { x with sysref := some 40 })) && iodGives (.sysrefEdge 0 35) (converter fun x => { x with sysref := some 40 }) (fun x => x.misalign))
    ∧ (gives (.sysrefEdge 0 40) (converter fun x => { x with cfg := 0 }) (fun t => decide ((getIod t 0).sysref = none)))
    ∧ (iodGives (.rxcResync 0) (converter fun x => { x with misalign := true, aligned := true, sysref := some 40 }) (fun x => x.realign && !x.misalign && !x.aligned && decide (x.sysref = none)))
    ∧ (iodGives (.jesdLaneLoss 0 3 7) (converter fun x => { x with lanes := 0xFFFF }) (fun x => decide (x.lanes = 0xFFF7 ∧ x.laneErr = 7)) && iodGives (.jesdLaneSync 0 3) (converter id) (fun x => decide (x.lanes = 8)))
    ∧ (iodGives (.cnvRatioFault 0 5) (converter id) (fun x => x.ratioBad) && gives (.cnvRatioFault 0 5) (converter fun x => { x with ratioBad := true }) (fun t => decide (t = converter fun x => { x with ratioBad := true })))
    ∧ (iodGives (.cnvRatioRestored 0) (converter fun x => { x with ratioBad := true }) (fun x => !x.ratioBad)) := by
  decide +kernel

/-! ### The loader -/

/-- A key is burned, and the loader and whether a harness is accepted are as given. -/
def loaderAt (accepted : Bool) (f : Loader → Loader) : State :=
  { working {} with accepted := accepted, fuses := { burned := 1 }, loader := f {}, boot := { vinAon := true, pwrOk := true, phase := if accepted then .running else .empty } }
def loadGives (c : Instr) (s : State) (p : Loader → Bool) : Bool := gives c s (fun t => p t.loader && unitsKept s t && decide (t.hns = s.hns ∧ t.accepted = s.accepted))

/-- Or is refused: busy, LIVE without REPLACE, no key, a failed region. -/
theorem test_LoadBegins : (mgmtBlocked (loaderAt false id) = false ∧ restoring (loaderAt false id) = false ∧ loaderBusy (loaderAt false id) = false ∧ loaderBusy (loaderAt true id) = false ∧ loaderDead (loaderAt false id) = false)
    ∧ (loadGives (.hnsLoad false) (loaderAt false fun l => { l with segState := 2 }) (fun l => decide (l.errCode = 0x22 ∧ l.state = 0 ∧ l.job = none)))
    ∧ (loadGives (.hnsLoad false) (loaderAt true id) (fun l => decide (l.errCode = 0x1B ∧ l.job = none)))
    ∧ (loadGives (.hnsLoad true) { loaderAt true id with fuses := {} } (fun l => decide (l.errCode = 0x09 ∧ l.job = none)))
    ∧ (loadGives (.hnsLoad true) { loaderAt true id with mem := { hbStacks := [(0, { failed := true })] } } (fun l => decide (l.errCode = 0x19 ∧ l.job = none)))
    ∧ (loadGives (.hnsLoad true) (loaderAt true id) (fun l => decide (l.state = 1 ∧ l.job = some { segment := false, replace := true } ∧ l.errCode = 0) && l.replace))
    ∧ (loadGives (.hnsLoad true) (loaderAt false id) (fun l => decide (l.state = 1 ∧ l.job = some { segment := false, replace := false }))) := by
  decide +kernel

/-- Or is refused; ABORT of a load, of a segment before ARMED, and of none. -/
theorem test_LoadSegBegins : (loadGives (.hnsLoadSeg 2) (loaderAt true id) (fun l => decide (l.segState = 1 ∧ l.segStall = 2 ∧ l.job = some { segment := true, replace := false })))
    ∧ (loadGives (.hnsLoadSeg 2) (loaderAt true fun l => { l with segState := 4 }) (fun l => decide (l.errCode = 0x22 ∧ l.segState = 4)))
    ∧ (loadGives (.hnsLoadSeg 2) { loaderAt true id with fuses := { stackEn := 0xE, burned := 1 } } (fun l => decide (l.errCode = 0x19 ∧ l.segState = 0)))
    ∧ (loadGives .hnsAbort (loaderAt false fun l => { l with job := some { segment := false, replace := false }, state := 1 }) (fun l => decide (l.errCode = 0x21 ∧ l.state = 15 ∧ l.job = none)))
    ∧ (loadGives .hnsAbort (loaderAt true fun l => { l with segState := 1, job := some { segment := true, replace := false } }) (fun l => decide (l.errCode = 0x21 ∧ l.segState = 0 ∧ l.job = none)))
    ∧ (loadGives .hnsAbort { loaderAt true (fun l => { l with segState := 3 }) with merged := some {} } (fun l => decide (l.errCode = 0x21 ∧ l.segState = 0)))
    ∧ (gives .hnsAbort (loaderAt true fun l => { l with segState := 4 }) (fun t => decide (t = unheld (loaderAt true fun l => { l with segState := 4 }) 0))) := by
  decide +kernel

def fullJob (replace : Bool) : State := loaderAt replace fun l => { l with len := 256, state := 1, job := some { segment := false, replace := replace } }
/-- 256 bytes with no magic number, whose length field is right. -/
def noMagic : List Byte := List.replicate 8 0 ++ leBytes 4 256 ++ List.replicate 244 0
def staged : State := loaderAt true fun l => { l with len := 256, segState := 1, segStall := 2, job := some { segment := true, replace := false } }
/-- Of step 1 with a read fault, a short copy, of step 2 with no magic number, and with the loader region. -/
theorem test_LoadFails : (groomUp (fullJob false) 1 = true ∧ stepsToChecker (fullJob false) false true [] = some (1, { code := 0x01 }) ∧ (stepsToChecker (fullJob false) false false noMagic).map (fun x => (x.1, x.2.code)) = some (2, 0x03))
    ∧ (loadGives (.harnessAccepted true false 0 [] []) (fullJob true) (fun l => decide (l.errCode = 0x01 ∧ l.state = 15 ∧ l.job = none)))
    ∧ (loadGives (.harnessAccepted false true 0 [] []) (fullJob false) (fun l => decide (l.errCode = 0x19 ∧ l.state = 15 ∧ l.job = none)))
    ∧ (loadGives (.harnessAccepted false false 0 noMagic []) (fullJob false) (fun l => decide (l.errCode = 0x03 ∧ l.state = 15 ∧ l.job = none)))
    ∧ (gives (.harnessAccepted false true 1 [] []) (fullJob true) (fun t => t.loader.damaged && decide (t.trail.queue.any (·.code = 0x5002) = true ∧ t.loader.state = 15))) := by
  decide +kernel

/-- With a read fault, no magic number, the loader region. -/
theorem test_SegmentFails : (loadGives (.segmentValidated true false 0 []) staged (fun l => decide (l.errCode = 0x01 ∧ l.segState = 0 ∧ l.job = none)))
    ∧ (loadGives (.segmentValidated false false 0 noMagic) staged (fun l => decide (l.errCode = 0x03 ∧ l.segState = 0)))
    ∧ (loadGives (.segmentValidated false true 0 []) staged (fun l => decide (l.errCode = 0x19 ∧ l.segState = 0))) := by
  decide +kernel

/-- A STALL_SWAP of S2 in every frame, at an offset, in both banks; a segment of S2, with that gait, in a state. -/
def swapEntry (offset : Nat) : W64 := BitVec.ofNat 64 (offset + 6 * 2 ^ 21 + 2 * 2 ^ 40)
def swapping (offset : Nat) (f : Loader → Loader) : State :=
  let h : Harness := { gait := [swapEntry offset] }
  let s := modAir { loaderAt true (fun l => f { l with segStall := 2, segImage := [] }) with hns := h, merged := some h } fun a => { a with bank0 := { entries := h.gait }, bank1 := { entries := h.gait }, entryCount := 1 }
  modStall s 2 (fun st => { st with state := .active })
/-- At the first swap 12,288 ticks or more ahead, in this frame or the next; a fence or an unloaded program ends it. -/
theorem test_SegmentArms : (swapTick (swapping 12288 id) 2 12288 searchSpan = some (0, 12288) ∧ swapTick (swapping 12287 id) 2 12288 searchSpan = some (1, 12287) ∧ segNowFenced (swapping 12288 id) = false)
    ∧ (gives .segmentEdited (swapping 12288 fun l => { l with segState := 2 }) (fun t => decide (t.loader.segState = 4 ∧ t.loader.segFrame = 0 ∧ t.loader.segTick = 12288 ∧ t.air.swapFrame = some 1) && (getStall t 2).segHold))
    ∧ (gives .segmentEdited (swapping 12287 fun l => { l with segState := 2 }) (fun t => decide (t.loader.segFrame = 1 ∧ t.loader.segTick = 12287 ∧ (shadowGait t.air).entries = [swapEntry 12287])))
    ∧ (swapTick { swapping 5 id with merged := some {}, air := {} } 2 12288 searchSpan = none)
    ∧ (gives .segmentEdited { swapping 5 (fun l => { l with segState := 2 }) with air := {} } (fun t => decide (t.loader.segState = 3 ∧ (shadowGait t.air).entries = [swapEntry 5] ∧ (getStall t 2).segHold = false)))
    ∧ (loadGives .segmentNoSwapPoint (swapping 5 fun l => { l with segState := 3 }) (fun l => decide (l.errCode = 0x1F ∧ l.segState = 0)))
    ∧ (loadGives .segmentNoSwapPoint (swapping 5 fun l => { l with segState := 3, delayed := true }) (fun l => decide (l.errCode = 0x20 ∧ l.segState = 0)))
    ∧ (gives .segmentNoSwapPoint (swapping 5 id) (fun t => decide (t = swapping 5 id))) := by
  decide +kernel

def swapNow (f : State → State) (seg : BitVec 3) : State :=
  f (modAir (swapping 500 fun l => { l with segState := seg, segFrame := 3, segTick := 500 }) fun a => { a with issued := [{ entry := swapEntry 500, alt := 3 }] })
/-- With no segment armed, with one, and its own swap tick. -/
theorem test_StallSwap : ((takeAct (swapNow id 4) 6 2 (fun _ => true)).any (fun x => segArmed (swapNow id 4) x.1) = true ∧ (takeAct (swapNow id 4) 6 2 (fun _ => true)).any (fun x => segArmed (swapNow id 3) x.1) = false)
    ∧ (gives (.stallSwap 2) (swapNow id 3) (fun t => decide (t.loader = (swapNow id 3).loader ∧ t.hns = (swapNow id 3).hns ∧ t.clusters = [] ∧ t.merged = (swapNow id 3).merged ∧ t.air.issued = [])))
    ∧ (gives (.stallSwap 2) (swapNow id 4) (fun t => decide (t.loader.segState = 0 ∧ t.merged = none ∧ t.loader.loadCnt = 1 ∧ t.netNext = [] ∧ t.hns.gait = [swapEntry 500])))
    ∧ (gives (.stallSwap 2) { swapNow id 3 with air := {}, hns := { res := [{ unitRow 2 0 0 0 0 with pcrOwn := 0x100 }] } } (fun t => decide ((getCluster t 1).gen = 1 ∧ (getCluster t 0).gen = 0 ∧ (getCluster t 2).gen = 0))) := by
  decide +kernel

/-- Burns with the confirm code, ends, revokes, and raises the floor. -/
theorem test_Keys : (gives (.keyBurn 1 0xA5C3) (loaderAt false fun l => { l with provHash := 1 :: List.replicate 11 0 }) (fun t => decide (t.loader.burning = some (1, BitVec.ofNat 384 (2 ^ 376)))))
    ∧ (gives (.keyBurn 0 0xA5C3) (loaderAt false id) (fun t => decide (t = unheld (loaderAt false id) 0)) && gives (.keyBurn 1 0xA5C4) (loaderAt false id) (fun t => decide (t = unheld (loaderAt false id) 0)))
    ∧ (gives (.keyBurn 1 0xA5C3) (loaderAt false fun l => { l with burning := some (1, 9) }) (fun t => decide (t.loader.burning = some (1, 9))))
    ∧ (gives .keyBurnDone (loaderAt false fun l => { l with burning := some (1, 9) }) (fun t => decide (t.fuses.burned = 3 ∧ t.fuses.hash1 = 9 ∧ t.fuses.hash0 = 0 ∧ t.loader.burning = none ∧ t.fuses.revoked = 0)))
    ∧ (gives (.keyRevoke 0) (loaderAt true id) (fun t => decide (t = unheld (loaderAt true id) 0)) && gives (.keyRevoke 1) (loaderAt true id) (fun t => decide (t.fuses.revoked = 2)) && gives (.keyRevoke 0) (loaderAt false id) (fun t => decide (t.fuses.revoked = 1)))
    ∧ (gives .hnsRaiseFloor (loaderAt true fun l => { l with serial := 9, floor := 8 }) (fun t => decide (t.loader.floor = 9)) && gives .hnsRaiseFloor (loaderAt true fun l => { l with serial := 8, floor := 9 }) (fun t => decide (t.loader.floor = 9))) := by
  decide +kernel

/-! ### The trail, the SMBus target and the test port -/

/-- The device in operation with a trail. -/
def trail (f : Trail → Trail) : State := { working {} with trail := f {} }
/-- An event of array 3, and that event as entry `n`. -/
def ev3 : Event := { code := 0x1001, kind := 1, unit := 3, data := [9], stamp := 7 }
def entry3 (n : W32) (x : Entry → Entry) : Entry := x { stamp := 5, code := 0x1001, entry := n, trigger := false, guarantee := false, stall := none, post := false, kind := 1, unit := 3, rept := 0, data := [9] }
/-- Entries 0 and 1 are written, the second for array 3; the event waits. -/
def trail2 (f : Trail → Trail) : State :=
  trail fun t => f { t with entries := [(0, some { entry3 0 id with unit := 2 }), (1, some (entry3 1 id))], wr := 2, queue := [ev3] }
def trailGives (c : Instr) (s : State) (p : Trail → Bool) : Bool := gives c s (fun t => p t.trail && toldOnly (unheld s 0) t)

/-- A new entry, a repetition, none with a bad entry or another unit, the trigger, POST, the last of POST, and none while stopped. -/
theorem test_TrailWrite : (trailGives (.trailWrite none) (trail fun t => { t with queue := [ev3] }) (fun t => decide (t.wr = 1 ∧ t.queue = [] ∧ trailAt t 0 = some { entry3 0 id with stamp := 7 })))
    ∧ (trailGives (.trailWrite none) (trail2 id) (fun t => decide (t.wr = 2 ∧ t.queue = [] ∧ (trailAt t 1).map (·.rept) = some 1 ∧ (trailAt t 1).map (·.stamp) = some 5)))
    ∧ (trailGives (.trailWrite (some 1)) (trail2 id) (fun t => decide (t.wr = 3 ∧ (trailAt t 1).map (·.bad) = some true ∧ (trailAt t 2).map (·.unit) = some 3) && t.ueSeen))
    ∧ (trailGives (.trailWrite none) (trail2 fun t => { t with queue := [{ ev3 with stamp := 122880005 }] }) (fun t => decide (t.wr = 2)) && trailGives (.trailWrite none) (trail2 fun t => { t with queue := [{ ev3 with stamp := 122880006 }] }) (fun t => decide (t.wr = 3)))
    ∧ (trailGives (.trailWrite none) (trail2 fun t => { t with queue := [{ ev3 with code := 0x5002 }] }) (fun t => decide (t.wr = 3 ∧ t.frz = 2 ∧ t.postLeft = 256 ∧ (trailAt t 2).map (·.trigger) = some true) && t.frozen && !t.stopped))
    ∧ (trailGives (.trailWrite none) (trail2 fun t => { t with post := 0, mask := 1 }) (fun t => decide (t.wr = 3) && t.frozen && t.stopped))
    ∧ (trailGives (.trailWrite none) (trail2 fun t => { t with frozen := true, postLeft := 2 }) (fun t => decide (t.wr = 3 ∧ t.postLeft = 1 ∧ (trailAt t 2).map (·.post) = some true) && !t.stopped))
    ∧ (trailGives (.trailWrite none) (trail2 fun t => { t with frozen := true, postLeft := 1 }) (fun t => decide (t.wr = 3) && t.stopped))
    ∧ (trailGives (.trailWrite none) (trail2 fun t => { t with frozen := true, stopped := true }) (fun t => decide (t.wr = 2 ∧ t.lost = 1 ∧ t.queue = [])))
    ∧ (trailGives (.trailWrite none) (trail id) (fun t => decide (t = {}))) := by
  decide +kernel

/-- FREEZE and UNFREEZE, with the confirm code and without. -/
theorem test_TrailFreeze : (mgmtBlocked (trail id) = false ∧ restoring (trail id) = false)
    ∧ (trailGives .trlFreeze (trail id) (fun t => decide (t.queue.map (·.code) = [0x0010])) && trailGives .trlFreeze (trail fun t => { t with stopped := true }) (fun t => decide (t.queue = [] ∧ t.lost = 1)))
    ∧ (trailGives (.trlUnfreeze 0x3C96) (trail2 fun t => { t with frozen := true, postLeft := 5, frz := 1 }) (fun t => decide (t.wr = 4 ∧ (trailAt t 2).map (·.code) = some 0x1001 ∧ (trailAt t 3).map (·.code) = some 0x000F) && !t.frozen))
    ∧ (gives (.trlUnfreeze 0x3C97) (trail2 fun t => { t with frozen := true }) (fun t => t.trail.frozen) && gives (.trlUnfreeze 0x3C96) (trail2 id) (fun t => decide (t.trail = (trail2 id).trail))) := by
  decide +kernel

/-- What the SMBus target answered last. -/
def smSent (t : State) (p : List Byte → Bool) : Bool := match t.sent with
  | .smbus b :: _ => p b
  | _ => false
def snap0 : Snap := { cause := 1, frozen := true, stopped := false, seq := 6, first := 2, abs := 0, lost := 0, serial := 0, version := 0, entries := [entry3 2 id] }
/-- The pointer, the identity words, a hole, both halves of a 64-bit register, the fault summary. -/
theorem test_SmbusView : (gives (.setAddr 0x81000) (trail id) (fun t => decide (t.smPtr = 0x81000)))
    ∧ (gives .read { trail id with smPtr := 0xFFFFFFE0 } (fun t => decide (t.smPtr = 0 ∧ t.mem = {} ∧ t.air = {}) && smSent t (fun b => decide (b = List.replicate 32 0))))
    ∧ (gives .read { trail id with smPtr := 0x87000 } (fun t => decide (t.smPtr = 0x87020) && smSent t (fun b => decide (b.length = 32))))
    ∧ (smWord (trail id) 0x48 = (0, trail id))
    ∧ ((regAt (trail id) (some 0) 0x87000).isSome)
    ∧ (gives .faultSummary (trail id) (fun t => smSent t (fun b => decide (b.length = 32)) && decide (t.trail = {}))) := by
  decide +kernel

/-- Status, seek, next at an entry, beyond the last, before the oldest. -/
theorem test_SmbusTrail : (gives .trlStatus (trail2 id) (fun t => smSent t (fun b => decide (slice b 4 4 = [2, 0, 0, 0] ∧ b.length = 32))))
    ∧ (gives (.trlSeek 0xFFFFFFFF) (trail2 id) (fun t => decide (t.trail.cursor = 0)) && gives (.trlSeek 0xFFFFFFFE) (trail2 fun t => { t with frz := 1 }) (fun t => decide (t.trail.cursor = 1)) && gives (.trlSeek 7) (trail2 id) (fun t => decide (t.trail.cursor = 7)))
    ∧ (gives .trlNext (trail2 fun t => { t with cursor := 1 }) (fun t => decide (t.trail.cursor = 2) && smSent t (fun b => decide (b.length = 32))))
    ∧ (gives .trlNext (trail2 fun t => { t with cursor := 2 }) (fun t => decide (t.trail.cursor = 2) && smSent t (fun b => decide (b = List.replicate 32 0))))
    ∧ (gives .trlNext (trail2 fun t => { t with entries := [(1, some (entry3 1 id))], cursor := 0 }) (fun t => decide (t.trail.cursor = 2)))
    ∧ (entryHeld (trail2 id).trail 1 = true ∧ entryHeld { (trail2 id).trail with entries := [(1, some (entry3 1 id))] } 0 = false) := by
  decide +kernel

/-- Its header, an entry, beyond its last, none valid, an index too high, a command not listed. -/
theorem test_SmbusSnapshot : (validSnap (trail fun t => { t with page3 := some snap0, valid := some true }).trail = some snap0)
    ∧ (gives .snapStatus (trail fun t => { t with page3 := some snap0, valid := some true }) (fun t => smSent t (fun b => decide (b.length = 32 ∧ b ≠ List.replicate 32 0))))
    ∧ (gives .snapNext (trail fun t => { t with page3 := some snap0, valid := some true }) (fun t => decide (t.trail.index = 1) && smSent t (fun b => decide (b.length = 32))))
    ∧ (gives .snapNext (trail fun t => { t with page3 := some snap0, valid := some true, index := 1 }) (fun t => decide (t.trail.index = 1) && smSent t (fun b => decide (b = List.replicate 32 0))))
    ∧ (gives .snapNext (trail id) (fun t => smSent t (fun b => decide (b = List.replicate 32 0))) && gives .snapStatus (trail id) (fun t => smSent t (fun b => decide (b = List.replicate 32 0))))
    ∧ (gives (.snapSeek 511) (trail id) (fun t => decide (t.trail.index = 511 ∧ t.sent = [])) && gives (.snapSeek 512) (trail id) (fun t => decide (t.trail.index = 0 ∧ t.sent = [.smbusNack])))
    ∧ (gives (.smbusUnknown 0x99 2) (trail id) (fun t => decide (t.sent = [.smbusNack] ∧ t.trail.queue.map (fun e => (e.code, e.data)) = [(0x000D, [0x99, 2])]))) := by
  decide +kernel

/-- I/O die 0 is present and I/O die 1 is not. -/
def port0 (en : Bool) : State := { working {} with fuses := { iodEn := 1 }, testEn := en }
def tapGives (c : Instr) (d : Nat) (p : Tap → Bool) : Bool := gives c (port0 false) (fun t => p (getJtag t d) && bothKept (port0 false) t)
/-- The boundary instructions, IDCODE, a die not in the chain, Test-Logic-Reset. -/
theorem test_TestPort : (inChain (port0 false) 0 = true ∧ inChain (port0 false) 1 = true ∧ inChain (port0 false) 2 = false)
    ∧ (tapGives (.extest 1) 1 (fun x => decide (x.ir = 0) && x.driven) && tapGives (.clamp 0) 0 (fun x => decide (x.ir = 3) && x.driven) && tapGives (.highz 1) 1 (fun x => decide (x.ir = 4) && x.highz && !x.driven))
    ∧ (tapGives (.samplePreload 1 [true] [false, true]) 1 (fun x => decide (x = { ir := 2, bsr := [false, true] })) && tapGives (.bypass 0) 0 (fun x => decide (x.ir = 0xFF)))
    ∧ (gives (.idcode 0) (port0 false) (fun t => decide (t.sent = [.tdo 0 (bitsOf idcodeWord)])) && gives (.idcode 1) (port0 false) (fun t => decide ((getJtag t 1).ir = 1 ∧ t.sent.length = 1)))
    ∧ ([Instr.extest 2, .idcode 2, .clamp 2, .highz 2, .fuseRead 2, .bistSts 2, .bypass 2].all (fun c => gives c (port0 false) (fun t => decide (t = port0 false))) = true)
    ∧ (gives .tapReset { port0 false with taps := [(0, { ir := 3, driven := true }), (1, { ir := 4, highz := true })] } (fun t => decide (getJtag t 0 = {} ∧ getJtag t 1 = {}))) := by
  decide +kernel

/-- With TEST_EN on the compute die, and as BYPASS otherwise. -/
theorem test_TestPortPrivate : ([Instr.fuseRead 0, .bistSts 0, .bistRun 0 3].all (fun c => gives c (port0 false) (fun t => decide ((getJtag t 0).ir = 0xFF ∧ t.sent = [.tdo 0 [false]]))) = true)
    ∧ (gives (.fuseRead 1) (port0 true) (fun t => decide ((getJtag t 1).ir = 0xFF)))
    ∧ (gives (.fuseRead 0) (port0 true) (fun t => decide ((getJtag t 0).ir = 0x20) && t.sent.any (fun o => match o with | .tdo 0 b => decide (b.length = 160) | _ => false)))
    ∧ (gives (.bistSts 0) (port0 true) (fun t => decide ((getJtag t 0).ir = 0x22) && t.sent.any (fun o => match o with | .tdo 0 b => decide (b.length = 256) | _ => false)))
    ∧ (gives (.bistRun 0 0x04) (port0 true) (fun t => decide ((getJtag t 0).ir = 0x21 ∧ t.fencing.fenced.getLsbD 2 = true ∧ t.fencing.fenced.getLsbD 1 = false))) := by
  decide +kernel

/-! ### Grooms, their update, and power -/

/-- The device in operation with groom `g`. -/
def groom (g : Nat) (f : Groom → Groom) : State := { working {} with grooms := [(g, f {})], now := 5000000000 }
def groomGives (c : Instr) (s : State) (g : Nat) (p : Groom → Bool) : Bool := gives c s (fun t => p (getGroom t g) && decide (t.mem = s.mem ∧ t.hns = s.hns ∧ t.arrays = s.arrays) && (List.range 4).all (fun k => k == g || decide (getGroom t k = getGroom s k)))
/-- Eight restarts, the oldest `ago` ticks old. -/
def eight (ago : Nat) : List Nat := List.replicate 7 4999999999 ++ [5000000000 - ago]

/-- A disagreement, a hang, memory; UNCHECKED; the ninth restart in 10 s. -/
theorem test_GroomRestarts : (groomUp (groom 2 id) 2 = true ∧ (recentOf (groom 2 fun x => { x with recent := eight 1228799999 }) 2).length = 8 ∧ (recentOf (groom 2 fun x => { x with recent := eight 1228800000 }) 2).length = 7)
    ∧ (groomGives (.groomMismatch 2) (groom 2 id) 2 (fun x => decide (x.state = .restarting ∧ x.step = 2 ∧ x.lastCause = 1 ∧ x.restarts = 1)) && groomGives (.groomMismatch 2) (groom 2 fun x => { x with unchecked := true }) 2 (fun x => decide (x.lastCause = 4)))
    ∧ (groomGives (.groomWatchdog 2) (groom 2 fun x => { x with recent := eight 1228800000 }) 2 (fun x => decide (x.state = .restarting ∧ x.lastCause = 2)) && groomGives (.groomWatchdog 2) (groom 2 fun x => { x with recent := eight 1228799999 }) 2 (fun x => decide (x.state = .failed ∧ x.lastCause = 2)))
    ∧ (groomGives (.groomMemUe 2) (groom 2 id) 2 (fun x => decide (x.state = .restarting ∧ x.lastCause = 3)) && groomGives (.groomMemUe 2) (groom 2 fun x => { x with recent := eight 5 }) 2 (fun x => decide (x.state = .failed)))
    ∧ (groomGives (.groomMismatch 2) (groom 2 fun x => { x with recent := eight 5 }) 2 (fun x => decide (x.state = .failed ∧ x.lastCause = 1)))
    ∧ ([Instr.groomMismatch 2, .groomWatchdog 2, .groomMemUe 2, .comparatorTest 2 true, .comparatorTest 2 false].all (fun c => gives c (groom 2 fun x => { x with state := .restarting }) (fun t => decide (t = groom 2 fun x => { x with state := .restarting }))) = true) := by
  decide +kernel

/-- The fourth in a row clears UNCHECKED, and a silent one sets it. -/
theorem test_ComparatorTests : (groomGives (.comparatorTest 2 true) (groom 2 fun x => { x with unchecked := true, tests := 2 }) 2 (fun x => x.unchecked && x.passed && decide (x.tests = 3)))
    ∧ (groomGives (.comparatorTest 2 true) (groom 2 fun x => { x with unchecked := true, tests := 3 }) 2 (fun x => !x.unchecked && x.passed))
    ∧ (groomGives (.comparatorTest 2 false) (groom 2 fun x => { x with tests := 3 }) 2 (fun x => x.unchecked && decide (x.tests = 0 ∧ x.state = .running))) := by
  decide +kernel

/-- The command, its steps, the resume, and a load that fails once and twice. -/
theorem test_GroomSteps : (groomGives (.groomRestartCmd 2 0x6B1D) (groom 2 fun x => { x with state := .failed, recent := eight 5 }) 2 (fun x => decide (x.state = .restarting ∧ x.step = 2 ∧ x.lastCause = 5 ∧ x.recent = [5000000000])))
    ∧ (groomGives (.groomRestartCmd 2 0x6B1E) (groom 2 id) 2 (fun x => decide (x = {})))
    ∧ (groomGives (.groomRestartStepDone 2 true) (groom 2 fun x => { x with state := .restarting, step := 4 }) 2 (fun x => decide (x.step = 5 ∧ x.state = .restarting)))
    ∧ (groomGives (.groomRestartStepDone 2 true) (groom 2 fun x => { x with state := .restarting, step := 5, loadSlot := true }) 2 (fun x => x.slot && decide (x.state = .running ∧ x.step = 0)))
    ∧ (groomGives (.groomRestartStepDone 2 false) (groom 2 fun x => { x with state := .restarting, step := 4 }) 2 (fun x => x.retried && decide (x.step = 4)) && groomGives (.groomRestartStepDone 2 false) (groom 2 fun x => { x with state := .restarting, step := 4, retried := true }) 2 (fun x => decide (x.state = .failed))) := by
  decide +kernel

def update (f : Grm → Grm) (s : State) : State := { s with grm := f {} }
def grmGives (c : Instr) (s : State) (p : Grm → Bool) : Bool := gives c s (fun t => p t.grm && unitsKept s t)
def goodImage : GroomImage := { readFault := false, length := 2097152, formatOk := true, stepping := 0x0B00, signatureOk := true, secVersion := 4, storeOk := true, digest := 77 }
/-- STAGE, APPLY, ABORT, the floor, and refusals. -/
theorem test_Update : (mgmtOpen (update id (groom 3 id)) = true ∧ updateBusy (update (fun x => { x with state := 1 }) (groom 3 id)) = true ∧ updateBusy (update (fun x => { x with state := 2 }) (groom 3 id)) = false)
    ∧ (grmGives .grmStage (update id (groom 3 id)) (fun x => decide (x.state = 1 ∧ x.err = 0)) && grmGives .grmStage (update (fun x => { x with state := 3 }) (groom 3 id)) (fun x => decide (x.state = 3 ∧ x.err = 7)) && grmGives .grmStage { update id (groom 3 id) with loader := { segState := 2 } } (fun x => decide (x.state = 5 ∧ x.err = 7)))
    ∧ (grmGives .grmApply (update (fun x => { x with state := 1 }) (groom 3 id)) (fun x => decide (x.state = 1 ∧ x.err = 7)) && gives .grmApply (update id (groom 3 id)) (fun t => decide (t = unheld (update id (groom 3 id)) 0)))
    ∧ (groomGives .grmApply (update (fun x => { x with state := 2 }) (groom 3 id)) 3 (fun x => decide (x.state = .restarting) && x.loadSlot && x.handover) && grmGives .grmApply (update (fun x => { x with state := 2 }) (groom 3 id)) (fun x => decide (x.state = 3 ∧ x.step = 3)))
    ∧ (grmGives .grmAbort (update (fun x => { x with state := 2 }) (groom 3 id)) (fun x => decide (x.state = 5 ∧ x.err = 9)) && gives .grmAbort (update (fun x => { x with state := 3 }) (groom 3 id)) (fun t => decide (t.grm.state = 3 ∧ t.grm.err = 0)))
    ∧ (grmGives .grmRaiseFloor (update (fun x => { x with floor := 3, version := 4 }) (groom 3 id)) (fun x => decide (x.floor = 4)) && grmGives .grmRaiseFloor (update (fun x => { x with floor := 5, version := 4 }) (groom 3 id)) (fun x => decide (x.floor = 5))) := by
  decide +kernel

/-- What staging finds, the 16 ms, the last groom, and a failure that rolls back. -/
theorem test_UpdateRuns : (grmGives (.grmStageDone goodImage) (update (fun x => { x with state := 1, floor := 4 }) (groom 3 id)) (fun x => decide (x.state = 2 ∧ x.digestStaged = 77 ∧ x.stagedVer = 4)))
    ∧ ([(1, { goodImage with readFault := true, length := 0 }), (2, { goodImage with length := 2097153, formatOk := false }), (2, { goodImage with length := 0 }), (3, { goodImage with stepping := 0x0B01 }), (4, { goodImage with signatureOk := false, secVersion := 3 }), (5, { goodImage with secVersion := 3 }), (6, { goodImage with storeOk := false })].all (fun x => grmGives (.grmStageDone x.2) (update (fun g => { g with state := 1, floor := 4 }) (groom 3 id)) (fun g => decide (g.state = 5 ∧ g.err = x.1))) = true)
    ∧ (grmGives .updateStepTimer (update (fun x => { x with state := 3, step := 0, stagedVer := 4, digestStaged := 77 }) (groom 0 fun x => { x with updated := true, passed := true, resumedAt := 5000000000 - 1966080 })) (fun x => x.active && decide (x.state = 4 ∧ x.version = 4 ∧ x.digest = 77)))
    ∧ (groomGives .updateStepTimer (update (fun x => { x with state := 3, step := 1 }) (groom 1 fun x => { x with updated := true, passed := true, resumedAt := 5000000000 - 1966080 })) 0 (fun x => x.loadSlot && x.handover && decide (x.state = .restarting)))
    ∧ (gives .updateStepTimer (update (fun x => { x with state := 3, step := 1 }) (groom 1 fun x => { x with updated := true, passed := true, resumedAt := 5000000000 - 1966079 })) (fun t => decide ((getGroom t 0).state = .running ∧ t.grm.step = 1)))
    ∧ (groomGives (.groomWatchdog 3) (update (fun x => { x with state := 3, step := 2 }) (groom 3 fun x => { x with updated := true })) 3 (fun x => !x.loadSlot && !x.handover && decide (x.state = .restarting ∧ x.lastCause = 2)) && grmGives (.groomWatchdog 3) (update (fun x => { x with state := 3, step := 2 }) (groom 3 fun x => { x with updated := true })) (fun x => x.rolling && decide (x.step = 3))) := by
  decide +kernel

def powered (f : Power → Power) : State := { working {} with power := f {}, now := 384 }
def powerGives (c : Instr) (s : State) (p : Power → Bool) : Bool := gives c s (fun t => p t.power && unitsKept s t && decide (t.hns = s.hns))
def reading (answered : Bool) : RailReading := { answered := answered, mv := 800, current := 5, temp := 40, status := 0 }
/-- Intervals of 0, 3,600 and 3,601, and no budget. -/
theorem test_Budget : (powerGives (.pwrBudgetWrite (5 ||| (3600 <<< 32))) (powered id) (fun x => decide (x.next = some (5 ||| (3600 <<< 32))) && !x.refused))
    ∧ ([(5 : W64), 5 ||| (3601 <<< 32)].all (fun v => powerGives (.pwrBudgetWrite v) (powered id) (fun x => x.refused && decide (x.next = none))) = true)
    ∧ (powerGives (.pwrBudgetWrite 0) (powered fun x => { x with refused := true }) (fun x => decide (x.next = some 0) && !x.refused)) := by
  decide +kernel

/-- A poll, a silent rail after 10 ms, once; none before CLOCKS. -/
theorem test_Telemetry : (sampling (powered id) = true ∧ sampling { powered id with boot := { phase := .fuse } } = false)
    ∧ (powerGives (.pmbusPoll (List.replicate 7 (reading true) ++ [reading false]) 50 60) (powered fun x => { x with rails := [(7, { mv := 700, current := 3 })] }) (fun x => decide (x.tj = 50 ∧ x.ts = 60 ∧ x.frameE = 30100 ∧ tget {} x.rails 0 = { mv := 800, current := 5, temp := 40 } ∧ (tget {} x.rails 7).silent = 1)))
    ∧ (gives (.pmbusPoll (List.replicate 8 (reading true)) 50 60) { powered id with boot := { phase := .fuse } } (fun t => decide (t.power = (powered id).power)))
    ∧ (powerGives (.railNoAnswer 7) (powered fun x => { x with rails := [(7, { silent := 10 })] }) (fun x => (tget {} x.rails 7).faulted))
    ∧ (gives (.railNoAnswer 7) (powered fun x => { x with rails := [(7, { silent := 9 })] }) (fun t => decide (t = powered fun x => { x with rails := [(7, { silent := 9 })] }))) := by
  decide +kernel

/-- Throttle in and out, 3,125 ns in 384 ticks, and a trip. -/
theorem test_LimitsAct : (powerGives (.throttleEnter 1 95) (powered id) (fun x => x.throttle && decide (x.throttleAt = 384)) && gives (.throttleEnter 1 95) (powered fun x => { x with throttle := true }) (fun t => decide (t = powered fun x => { x with throttle := true })))
    ∧ (powerGives .throttleEnd (powered fun x => { x with throttle := true, throttleNs := 1 }) (fun x => decide (x.throttleNs = 3126) && !x.throttle) && gives .throttleEnd (powered id) (fun t => decide (t = powered id)))
    ∧ (powerGives (.trip 1 0 125) (powered id) (fun x => x.tripped && decide (x.lastTrip = 1 ∧ x.tripCnt = 1)))
    ∧ (gives (.trip 2 0 125) (siteUp {}) (fun t => decide ((getGirth t 0).state = .failed ∧ (getGirth t 1).state = .failed ∧ t.power.lastTrip = 2)))
    ∧ (gives (.trip 1 0 125) { tth id id with girths := [] } (fun t => decide ((getTth t 0).state = .noDie)) && gives (.trip 1 0 125) (powered fun x => { x with tripped := true }) (fun t => decide (t = powered fun x => { x with tripped := true }))) := by
  decide +kernel

/-! ### Power-on, bring-up, resets and the grid -/

/-- A device with a page of snapshot 6 being written. -/
def snapping (f : State → State) : State := f { working {} with trail := { writing := some (true, { snap0 with cause := 2 }), page2 := some { snap0 with seq := 5 }, valid := some false } }
def pins (f : Boot → Boot) (s : State) : State := { s with boot := f s.boot }
def dark : State := { working {} with boot := {}, fencing := { fenced := 3, persisted := 1 }, loader := { floor := 8 }, grm := { floor := 2, version := 4 }, mem := { hbm := [(5, 7)] }, pending := [.trlFreeze] }

/-- VIN or PWR_OK falls, and with a snapshot already under way; nothing without power. -/
theorem test_PowerFails : (gives .powerFail (working {}) (fun t => decide (t.boot.vinAon = false ∧ t.boot.pwrOk = false ∧ t.boot.phase = .aon ∧ t.boot.powerFailed = true ∧ t.trail.writing.map (fun x => (x.1, x.2.cause)) = some (false, 1))))
    ∧ (gives .powerFail (snapping id) (fun t => decide (t.trail.writing = (snapping id).trail.writing ∧ t.boot.powerFailed = true)))
    ∧ (gives .pwrOkFall (working {}) (fun t => decide (t.boot.vinAon = true ∧ t.boot.pwrOk = false ∧ t.boot.powerFailed = true ∧ t.trail.writing.map (·.2.cause) = some 1)))
    ∧ (gives .pwrOkFall (snapping id) (fun t => decide (t.trail.writing = (snapping id).trail.writing)))
    ∧ (gives .powerFail dark (fun t => decide (t = dark)) && gives .pwrOkFall dark (fun t => decide (t = dark)) && gives .powerOn (working {}) (fun t => decide (t = working {}))) := by
  decide +kernel

/-- At once and with a snapshot under way; PWR_OK at a first rise, after a failure, and with a snapshot under way. -/
theorem test_PowerOn : (gives .powerOn dark (fun t => decide (t.boot.vinAon = true ∧ t.boot.lastReset = 1 ∧ t.accepted = false ∧ t.mem.hbm = [] ∧ t.fencing.persisted = 1 ∧ t.fencing.fenced = 0 ∧ t.loader.floor = 8 ∧ t.grm.version = 4 ∧ t.trail.queue.map (·.code) = [0x0002] ∧ t.pending = [.trlFreeze])))
    ∧ (gives .powerOn (snapping fun s => { s with boot := {} }) (fun t => decide (t = snapping fun s => { s with boot := { vinAon := true } })))
    ∧ (gives (.pwrOkRise true) { State.reset with boot := { vinAon := true } } (fun t => decide (t.boot.phase = .fuse ∧ t.boot.bringup = true ∧ t.testEn = true ∧ (List.range 4).all (fun g => (getGroom t g).state == .booting) = true ∧ t.trail = {})))
    ∧ (gives (.pwrOkRise false) (snapping fun s => { s with boot := { vinAon := true } }) (fun t => decide (t.boot.pwrOk = true ∧ t.boot.coldWaiting = true ∧ t.boot.phase = .aon)))
    ∧ (gives (.pwrOkRise false) { dark with boot := { vinAon := true, powerFailed := true } } (fun t => decide (t.boot.phase = .fuse ∧ t.boot.bringup = true ∧ t.boot.lastReset = 2 ∧ t.accepted = false ∧ t.mem.hbm = [] ∧ t.loader.floor = 8))) := by
  decide +kernel

/-- It verifies, alone and before a cold reset; it fails once and twice. -/
theorem test_SnapshotDone : (gives (.trailSnapshotDone true) (snapping id) (fun t => decide (t.trail.valid = some true ∧ validSnap t.trail = some { snap0 with cause := 2 } ∧ t.trail.lastSeq = 6 ∧ t.trail.writing = none ∧ tget 0 t.trail.pageWrites 3 = 1)))
    ∧ (gives (.trailSnapshotDone true) (snapping (pins fun b => { b with coldWaiting := true })) (fun t => decide (t.trail.valid = some true ∧ t.boot.phase = .fuse ∧ t.boot.bringup = true ∧ t.boot.coldWaiting = false ∧ t.accepted = false ∧ t.trail.queue.map (fun e => (e.code, e.data)) = [(0x0002, [6, 0, 0, 0])])))
    ∧ (gives (.trailSnapshotDone false) (snapping id) (fun t => decide (t.trail.second = true ∧ t.trail.valid = some false ∧ t.trail.writing = (snapping id).trail.writing)))
    ∧ (gives (.trailSnapshotDone false) (snapping fun s => { s with trail := { s.trail with second := true } }) (fun t => decide (t.trail.failedPage = some true ∧ t.trail.valid = some false ∧ t.trail.writing = none)))
    ∧ (gives (.trailSnapshotDone false) (snapping fun s => pins (fun b => { b with coldWaiting := true }) { s with trail := { s.trail with second := true } }) (fun t => decide (t.trail.failedPage = some true ∧ t.boot.phase = .fuse ∧ t.accepted = false)))
    ∧ (gives (.trailSnapshotDone true) (working {}) (fun t => decide (t = working {}))) := by
  decide +kernel

/-- Cold bring-up in a phase; I/O die 0 and stacks 0 to 2 are present. -/
def rising (p : Phase) : State := { State.reset with boot := { vinAon := true, pwrOk := true, phase := p, bringup := true }, fuses := { iodEn := 1, stackEn := 7 }, girths := [(0, { state := .absent }), (1, { state := .absent })] }
def riseGives (c : Instr) (s : State) (p : State → Bool) : Bool := gives c s (fun t => p t && unitsKept s t)
/-- Each phase, what fails in it, and what it waits for. -/
theorem test_BringUp : (riseGives (.bringupPhaseDone 1) (rising .fuse) (fun t => t.fuses.bad && t.boot.fuseFault && decide (t.boot.phase = .fuse)) && riseGives (.bringupPhaseDone 0xFE) (rising .fuse) (fun t => decide (t = rising .clocks)))
    ∧ (gives (.bringupPhaseDone 0) (pins (fun b => { b with fuseFault := true }) (rising .fuse)) (fun t => decide (t.boot.phase = .fuse)))
    ∧ (riseGives (.bringupPhaseDone 0) (rising .clocks) (fun t => decide (t.boot.phase = .girth ∧ (getGirth t 0).state = .training ∧ (getGirth t 0).full = true ∧ (getGirth t 1).state = .absent)))
    ∧ (riseGives (.bringupPhaseDone 0) (rising .girth) (fun t => decide (t = rising .memory)) && riseGives (.bringupPhaseDone 0) { rising .girth with girths := [(0, { state := .training }), (1, { state := .absent })] } (fun t => decide (t.boot.phase = .girth)))
    ∧ (gives (.bringupPhaseDone 0xC) (rising .memory) (fun t => decide (t.boot.phase = .grooms ∧ (getStack t 2).failed = true ∧ (getStack t 3).failed = false ∧ (getStack t 0).failed = false)))
    ∧ (gives (.bringupPhaseDone 8) { rising .grooms with fencing := { persisted := 0x80 } } (fun t => decide (t.boot.phase = .selftest ∧ (getGroom t 3).state = .failed ∧ (getGroom t 0).state = .running) && t.fencing.fenced.getLsbD 7))
    ∧ (gives (.bringupPhaseDone 0x80) (rising .selftest) (fun t => decide (t.boot.phase = .empty ∧ t.boot.bringup = false) && t.fencing.fenced.getLsbD 7 && !t.fencing.fenced.getLsbD 0)) := by
  decide +kernel

/-- By the pin, by S0, with a wrong code, in a phase that does not take it, and with one waiting. -/
theorem test_ColdReset : (gives (.crstN false) (pins (fun b => { b with warmStep := 3 }) (working {})) (fun t => decide (t.boot.coldWaiting = true ∧ t.boot.warmStep = 0 ∧ t.trail.writing.isSome = true ∧ t.accepted = true)))
    ∧ (gives (.bootRstCold 0x7E15 false) (working {}) (fun t => decide (t.boot.coldWaiting = true ∧ t.trail.writing.isSome = true)) && rstAvailable (working {}))
    ∧ (gives (.bootRstCold 0x7E14 false) (working {}) (fun t => decide (t = unheld (working {}) 0)) && gives (.bootRstWarm 0x7E14) (working {}) (fun t => decide (t = unheld (working {}) 0)))
    ∧ (gives (.bootRstCold 0x7E15 false) (rising .memory) (fun t => decide (t = unheld (rising .memory) 0)) && gives (.bootRstWarm 0x7E15) (rising .memory) (fun t => decide (t = unheld (rising .memory) 0)) && !rstAvailable (rising .memory) && !mgmtBlocked (rising .memory) && !restoring (rising .memory))
    ∧ (gives (.crstN false) (pins (fun b => { b with coldWaiting := true }) (working {})) (fun t => decide (t.trail.writing = none)) && gives (.crstN false) dark (fun t => decide (t = dark))) := by
  decide +kernel

/-- A warm reset at a step. -/
def warm (n : Nat) (f : State → State) : State := f (pins (fun b => { b with warmStep := n, phase := .restore }) { working {} with girths := [(0, { state := .active }), (1, { state := .active })] })
/-- Begins, is held in bring-up, merges with one under way, and does nothing after a trip. -/
theorem test_WarmReset : (gives .wrstN (working {}) (fun t => decide (t.boot.warmStep = 1 ∧ t.boot.warmCause = 4 ∧ t.boot.lastReset = 3 ∧ t.boot.warmCnt = 1 ∧ t.accepted = true)))
    ∧ (gives .wrstN (rising .memory) (fun t => decide (t.boot.warmHeld = true ∧ t.boot.heldCause = 4 ∧ t.boot.warmStep = 0)))
    ∧ (gives (.bootRstWarm 0x7E15) (working {}) (fun t => decide (t.boot.warmStep = 1 ∧ t.boot.warmCause = 1)))
    ∧ (gives .wrstN (warm 3 id) (fun t => decide (t = warm 3 id)) && gives (.warmResetStepDone 0 []) (warm 3 fun s => { s with power := { tripped := true } }) (fun t => decide (t.boot.warmStep = 3))) := by
  decide +kernel

/-- Dispatch ends, what is volatile goes, the links, the stacks, the grooms, the image. -/
theorem test_WarmSteps : (gives (.warmResetStepDone 0 []) (warm 1 id) (fun t => decide (t.boot.warmStep = 2 ∧ t.boot.phase = .restore ∧ t.accepted = true)))
    ∧ (gives (.warmResetStepDone 0 []) (warm 2 fun s => modAir { s with loader := { floor := 8 }, fencing := { persisted := 1 } } fun a => { a with tick := 5, corr := 7, state := .locked }) (fun t => decide (t.boot.warmStep = 3 ∧ t.air.tick = 0 ∧ t.air.state = .freerun ∧ t.air.corr = 7 ∧ t.accepted = true ∧ t.loader.floor = 8 ∧ t.fencing.persisted = 1)))
    ∧ (gives (.warmResetStepDone 0 []) (warm 3 id) (fun t => decide (t.boot.warmStep = 4)) && gives (.warmResetStepDone 0 []) (warm 3 fun s => { s with girths := [(0, { state := .training })] }) (fun t => decide (t.boot.warmStep = 3)))
    ∧ (gives (.warmResetStepDone 8 []) (warm 4 id) (fun t => decide (t.boot.warmStep = 5 ∧ (getStack t 3).failed = true)))
    ∧ (gives (.warmResetStepDone 4 []) (warm 5 id) (fun t => decide (t.boot.warmStep = 6 ∧ (getGroom t 2).state = .failed ∧ (getGroom t 1).state = .running)))
    ∧ (gives (.warmResetStepDone 0 []) (warm 5 fun s => { s with accepted := false }) (fun t => decide (t.boot.warmStep = 0 ∧ t.boot.phase = .empty ∧ t.accepted = false)))
    ∧ (gives (.warmResetStepDone 1 []) (warm 6 id) (fun t => decide (t.boot.phase = .empty ∧ t.accepted = false ∧ t.loader.errCode = 0x24)) && gives (.warmResetStepDone 0 []) (warm 6 fun s => { s with loader := { damaged := true } }) (fun t => decide (t.loader.errCode = 0x24 ∧ t.accepted = false)))
    ∧ (gives (.warmResetStepDone 0 []) (warm 6 fun s => { s with loader := { nextImage := some [1] } }) (fun t => decide (t.boot.warmStep = 0 ∧ t.boot.phase = .running ∧ t.accepted = true ∧ t.loader.image = [1] ∧ t.loader.nextImage = none) && t.loader.slot)) := by
  decide +kernel
/-- An image that passes its check at step 6. -/
theorem test_WarmImage : ∃ s : State, s.boot.warmStep = 6 ∧ s.loader.nextImage = none ∧ s.loader.damaged = false ∧ s.power.tripped = false
    ∧ s.boot.coldWaiting = false ∧ digestOf s.loader.image = s.loader.digest :=
  ⟨{ boot := { warmStep := 6 }, loader := { digest := digestOf [] } }, rfl, rfl, rfl, rfl, rfl, rfl⟩

def tripping (trips : List Nat) (f : State → State) : State := f { working {} with power := { tripped := true, trips := trips }, now := 500000000000 }
/-- Into a warm reset, again while one runs, from EMPTY, and not after the third in an hour. -/
theorem test_TripRecovery : (tripLocked (tripping [500000000000, 500000000000, 500000000000 - 442367999999] id) = true ∧ tripLocked (tripping [500000000000, 500000000000, 500000000000 - 442368000000] id) = false)
    ∧ (gives .tripRecovery (tripping [1, 2, 500000000000 - 442367999999, 500000000000, 500000000000] id) (fun t => decide (t.power.tripped = true)))
    ∧ (gives .tripRecovery (tripping [] id) (fun t => decide (t.power.tripped = false ∧ t.boot.warmStep = 1 ∧ t.boot.warmCause = 2)))
    ∧ (gives .tripRecovery (tripping [] (pins fun b => { b with warmStep := 4, phase := .restore })) (fun t => decide (t.boot.warmStep = 1 ∧ t.boot.warmCause = 2)))
    ∧ (gives .tripRecovery (tripping [] fun s => { s with accepted := false }) (fun t => decide (t.boot.phase = .girth ∧ t.boot.bringup = true ∧ t.power.tripped = false))) := by
  decide +kernel
/-- The grid kept at `now` 100, 30,720 ticks before. -/
def keptAt (st : RefState) (abs : Nat) : State :=
  { airAt {} fun a => { a with abs := BitVec.ofNat 64 abs, corr := 3, kept := some { count := 2457600, corr := 0, state := st, est := 0, at2 := 100 } } with now := 30820 }
/-- 30,720 ticks after the reset, held or not, once. -/
theorem test_GridReturns : (gives .gridRestore (keptAt .locked 30720) (fun t => decide (t.air.kept = none ∧ t.air.tick = 30720 ∧ t.air.frame = 2 ∧ t.air.state = .holdover ∧ t.air.corr = 3)))
    ∧ (gives .gridRestore (keptAt .freerun 30720) (fun t => decide (t.air.state = .freerun ∧ t.air.tick = 30720)) && gives .gridRestore (keptAt .acquire 30721) (fun t => decide (t.air.state = .freerun)))
    ∧ (gives .gridRestore (keptAt .locked 30719) (fun t => decide (t = keptAt .locked 30719)) && gives .gridRestore (working {}) (fun t => decide (t = working {}))) := by
  decide +kernel

/-! ### Well-formedness and the opcode table -/

/-- Each check refuses an ill-formed command, and takes the command at its limits. -/
def illFormed : List Instr :=
  [.symStart 0 0 false 14, .refreshOpen 0 119 [], .dvfsOpen 0 0 200, .dvfsOpen 7 0 200, .fence 0 0, .fence 0 7, .mrd 0 0 2 0 0 0 4, .mrd 0 0 0 0 0 0 0,
   .mrd 0 0 0 0 0 0 513, .mwr 0 0 2 0 0 [1] false, .mwr 0 0 0 0 0 [] false, .mwr 0 0 0 0 63 [1, 2] false, .rwr 0 2 0 false, .rwr 0 4 0 true,
   .cpl 0 0 0 (List.replicate 65 0) true]
  ++ [.descriptorRead 0 0 false (List.replicate 63 0), .samp 0 0 0 (List.replicate 15 0), .sclRead 0 4095, .sclWrite 0 1, .sclWriteTrial 0 4097,
   .tthCodewordDecoded 0 [], .tthDataFrame 0 { frame 1 0 [] with payload := List.replicate 1025 0 }, .tthIdleFrame 0 { frame 1 0 [] with payload := List.replicate 1025 0 },
   .tthTimeFrame 0 { frame 1 0 [] with payload := List.replicate 1025 0 }, .tthCodewordSlot 0 [] [], .tthCodewordSlot 0 (List.replicate 8 []) [],
   .tthCodewordSlot 0 (List.replicate 8 (List.replicate 32 0)) (List.replicate 1025 0)]
  ++ [.grtFlitRx 0 [], .grtFlitRx 0 (List.replicate 64 [true]), .grtRetrain 0 0, .grtTrainingPhaseEnd 0 7 paramGood, .grtTrainingPhaseEnd 0 0 { paramGood with credInit := [] },
   .grtTrainingPhaseEnd 0 0 { paramGood with faulty := [] }, .grtTrainingPhaseEnd 0 0 { paramGood with pongs := [] }, .smbusUnknown 0 0, .pmbusPoll [] 0 0,
   .samplePreload 0 [true] [], .trip 0 0 0, .trip 6 0 0]
def wellFormed : List Instr :=
  [.symStart 0 0 false 13, .refreshOpen 0 120 [], .dvfsOpen 1 0 200, .dvfsOpen 6 0 200, .fence 0 1, .fence 0 6, .mrd 0 0 1 0 0 0 512, .mwr 0 0 1 0 62 [1, 2] false,
   .rwr 0 8 0 true, .rwr 0 4 0 false, .cpl 0 0 0 (List.replicate 64 0) true, .descriptorRead 0 0 false (List.replicate 64 0), .descriptorRead 0 0 true []]
  ++ [.samp 0 0 0 (List.replicate 16 0), .sclRead 0 4096, .tthDataFrame 0 { frame 1 0 [] with payload := List.replicate 1024 0 },
   .tthCodewordSlot 0 (List.replicate 8 (List.replicate 32 0)) (List.replicate 1024 0), .grtFlitRx 0 (List.replicate 64 (List.replicate 32 true)), .grtRetrain 0 1,
   .grtTrainingPhaseEnd 0 6 paramGood, .smbusUnknown 0 1, .pmbusPoll (List.replicate 8 (reading true)) 0 0, .samplePreload 0 [true] [false], .trip 1 0 0, .trip 5 0 0]

/-- Ill-formed commands are refused, and those at the limits are taken. -/
theorem test_WellFormed : (illFormed.all (fun c => !c.wf) = true)
    ∧ (wellFormed.all (fun c => c.wf) = true) := by
  decide +kernel
/-- The table gives no row any bits, so no word spells a command, and none is put in front. -/
theorem test_NoWord (nbits w : Nat) (s : State) : decodeTableWord nbits w = none ∧ s.withFetchWord nbits w = s := ⟨rfl, rfl⟩

end Sys2Proof.Tests
end

section
/-!
PROOFS. Chapter 00: what the block is after reset, what no command takes back, and what the management block refuses.
-/
namespace Sys2Proof.Machine

/-! ### After reset (R19, R116) -/

/-- Memory with no byte listed is canonical, and no burn runs. -/
theorem inv_reset : Sys2Proof.Inv State.reset :=
  ⟨rfl, fun _ _ burning => nomatch burning⟩

/-- Settles O2: the invariant holds at reset, and each register named reads its reset value. -/
theorem resetMeetsInvariant : Obligations.ResetMeetsInvariant :=
  ⟨inv_reset, rfl, rfl, rfl, rfl, rfl, rfl, rfl, rfl, rfl, rfl, rfl, rfl, rfl⟩

/-! ### What a command may change of what lasts (R116, R133, R592) -/

/-- The commands that may move a part of what lasts: those that may change memory, and those that begin or end the burn of a
key slot, revoke one, or raise a floor. -/
def mayMoveLasting (c : Instr) : Bool :=
  mayWriteMemory c || match c with
    | .keyBurn .. | .keyBurnDone | .keyRevoke .. | .hnsRaiseFloor | .grmRaiseFloor => true
    | _ => false

/-- Every other command answers a next state and leaves all that lasts as it was: the `still_` law of its own meaning. -/
theorem still_exec (c : Instr) (s : State) (h : mayMoveLasting c = false) : stillO (exec c s) = some (still s) := by
  cases c with
  | airTick | frameBoundary | deadline | stallSwap | girthFailWindow | harnessAccepted | hnsRaiseFloor | keyBurn
    | keyBurnDone | keyRevoke | stallResetStepDone | mrd | mwr | rrd | rwr | pwr | commitDone | tileTaskEnd
    | thinTaskEnd | pieceEnd | stablingDone | decodeBlockEnd | reportComplete | quietPoint | tapProcessDone
    | installDone | grtTrainingPhaseEnd | grmRaiseFloor | tripRecovery | trailSnapshotDone | powerOn | pwrOkRise
    | warmResetStepDone | registerWrite => cases h
  | _ => simp [exec]

/-- A command that may move a part of what lasts moves it as `Lasting.After` allows: the `after_` law of its own meaning. -/
theorem after_exec_of_mayMoveLasting {w0 : Lasting} (c : Instr) (s : State) (h : mayMoveLasting c = true)
    (hw : w0.After (still s)) : AfterO w0 (exec c s) := by
  cases c with
  | airTick => exact after_execAirTick _ _ hw
  | frameBoundary => exact after_execFrameBoundary _ _ hw
  | deadline => exact after_execDeadline _ _ _ _ hw
  | stallSwap => exact after_execStallSwap _ _ hw
  | girthFailWindow => exact after_execGirthFailWindow _ _ hw
  | harnessAccepted => exact after_execHarnessAccepted _ _ _ _ _ _ hw
  | hnsRaiseFloor => exact after_execHnsRaiseFloor _ hw
  | keyBurn => exact after_execKeyBurn _ _ _ hw
  | keyBurnDone => exact after_execKeyBurnDone _ hw
  | keyRevoke => exact after_execKeyRevoke _ _ hw
  | stallResetStepDone => exact after_execStallResetStepDone _ _ _ hw
  | mrd => exact after_execMrd _ _ _ _ _ _ _ _ hw
  | mwr => exact after_execMwr _ _ _ _ _ _ _ _ hw
  | rrd => exact after_execRrd _ _ _ _ _ _ hw
  | rwr => exact after_execRwr _ _ _ _ _ hw
  | pwr => exact after_execPwr _ _ _ _ _ _ hw
  | commitDone => exact after_execCommitDone _ _ _ _ hw
  | tileTaskEnd => exact after_execTileTaskEnd _ _ _ _ hw
  | thinTaskEnd => exact after_execThinTaskEnd _ _ _ _ _ _ hw
  | pieceEnd => exact after_execPieceEnd _ _ _ hw
  | stablingDone => exact after_execStablingDone _ _ _ _ _ hw
  | decodeBlockEnd => exact after_execDecodeBlockEnd _ _ _ hw
  | reportComplete => exact after_execReportComplete _ _ hw
  | quietPoint => simpa only [exec] using after_execQuietPoint _ s hw
  | tapProcessDone => exact after_execTapProcessDone _ _ _ hw
  | installDone => exact after_execInstallDone _ _ _ hw
  | grtTrainingPhaseEnd => exact after_execGrtTrainingPhaseEnd _ _ _ _ hw
  | grmRaiseFloor => exact after_execGrmRaiseFloor _ hw
  | tripRecovery => exact after_execTripRecovery _ hw
  | trailSnapshotDone => exact after_execTrailSnapshotDone _ _ hw
  | powerOn => exact after_execPowerOn _ hw
  | pwrOkRise => exact after_execPwrOkRise _ _ hw
  | warmResetStepDone => exact after_execWarmResetStepDone _ _ _ hw
  | registerWrite => exact after_execRegisterWrite _ _ _ _ _ _ hw
  | _ => cases h

/-- Whatever came before stays `After` it across every command. -/
theorem after_exec {w0 : Lasting} (c : Instr) (s : State) (hw : w0.After (still s)) : AfterO w0 (exec c s) := by
  cases h : mayMoveLasting c with
  | false => exact afterO_still (still_exec c s h) hw
  | true => exact after_exec_of_mayMoveLasting c s h hw

/-- An outcome that shows what lasts is a next state. -/
theorem next_of_afterO {w0 : Lasting} {o : Host.Outcome State Fault Refusal} (h : AfterO w0 o) :
    ∃ t, o = .next t ∧ w0.After (still t) := by
  obtain ⟨x, hx, hafter⟩ := h
  cases o with
  | next t => exact ⟨t, rfl, Option.some.inj hx ▸ hafter⟩
  | fault r => cases hx
  | refused r => cases hx

/-- The invariant is that what lasts fits together. -/
theorem fit_still_iff_inv (s : State) : (still s).Fit ↔ Sys2Proof.Inv s :=
  ⟨fun h => ⟨h.mem, h.burn⟩, fun h => ⟨h.1, h.2⟩⟩

/-- From a state that meets the invariant every command answers a next state, and what lasts in it is `After` what lasted before. -/
theorem exec_lasting (c : Instr) (s : State) (h : Sys2Proof.Inv s) : ∃ t, exec c s = .next t ∧ (still s).After (still t) :=
  next_of_afterO (after_exec c s (.refl ((fit_still_iff_inv s).2 h)))

/-- Settles O4: it is what `Lasting.After` says of one command. -/
theorem fusesAndFloorsLast : Obligations.FusesAndFloorsLast := by
  intro c s hinv
  obtain ⟨t, ht, hafter⟩ := exec_lasting c s hinv
  have hpresent := hafter.present
  simp only [still, Prod.mk.injEq] at hpresent
  obtain ⟨harr, hstack, hiod, hpcr, hdec⟩ := hpresent
  exact ⟨t, ht, harr, hstack, hiod, hpcr, hdec, hafter.burned, hafter.revoked, hafter.hash0, hafter.hash1, hafter.hnsFloor,
    hafter.grmFloor, hafter.pending⟩

/-! ### Management commands that are refused (R168) -/

/-- A command that is a management write of S0 is refused and counted while S0 is FAULTED or RESETTING, whatever its effect. -/
theorem exec_blocked_of_mgmtWrite {c : Instr} {s : State} {early : Bool} {f : State → State}
    (hc : exec c s = .next (mgmtWrite early f s)) (hr : restoring s = false) (hb : mgmtBlocked s = true) :
    exec c s = .next (accErr (unheld s 0) 0) := by
  rw [hc, mgmtWrite_blocked early f s hr hb]

/-- Settles O11: each command named is, by its definition, a management write of S0. -/
theorem managementRefused : Obligations.ManagementRefused := by
  intro s hb hr c hc
  fin_cases hc <;> exact exec_blocked_of_mgmtWrite rfl hr hb

end Sys2Proof.Machine
end

section
/-!
PROOFS. Chapter 01, the reference: what its operations leave alone, how its commands qualify and lose a candidate (R33, R553,
R672), and what S0's commands to it do (R34, R38, R39, R43, R64).
-/
namespace Sys2Proof.Machine

/-! ### What the reference machine leaves alone -/

/-- A state as its reference machine leaves it: of the air state the candidates and FORCE_HOLDOVER, and nothing of what reporting,
the draws of free values and a renumbering of the carriers' slots change. -/
def offRef (s : State) : State :=
  { s with
    sent := [], free := 0, air := { cands := s.air.cands, forceHoldover := s.air.forceHoldover }, stalls := [], girths := [], carriers := [],
    trail := {}, flt := {} }

/-- What a command of the references leaves: nothing of the air state and of the Tether ports is in it. -/
def offAir (s : State) : State := { offRef s with air := {}, tths := [] }

/-- States that agree beside the references hold the same units and the same part. -/
theorem kept_of_offAir {s t : State} (h : offAir t = offAir s) : UnitsKept s t ∧ PartKept s t := by
  have hk : UnitsKept (offAir s) (offAir t) ∧ PartKept (offAir s) (offAir t) := by
    rw [h]
    exact ⟨⟨rfl, rfl, rfl, rfl, rfl, rfl, rfl, rfl, rfl⟩, rfl, rfl, rfl, rfl, rfl, rfl, rfl, rfl, rfl, rfl, rfl, rfl⟩
  exact hk

theorem offAir_of_offRef {s t : State} (h : offRef t = offRef s) : offAir t = offAir s :=
  congrArg (fun x => { x with air := {}, tths := [] }) h

@[simp] theorem offAir_modAir (s : State) (f : Air → Air) : offAir (modAir s f) = offAir s := rfl
@[simp] theorem offAir_modTth (s : State) (p : Nat) (f : Tth → Tth) : offAir (modTth s p f) = offAir s := rfl

theorem getTth_of_offRef {s t : State} (h : offRef t = offRef s) (p : Nat) : getTth t p = getTth s p := by
  have hp := congrArg (fun x => getTth x p) h
  exact hp

theorem getCand_of_offRef {s t : State} (h : offRef t = offRef s) (src : Nat) : getCand t src = getCand s src := by
  have hc := congrArg (fun x => getCand x src) h
  exact hc

theorem forceHoldover_of_offRef {s t : State} (h : offRef t = offRef s) : t.air.forceHoldover = s.air.forceHoldover :=
  congrArg (fun x => x.air.forceHoldover) h

theorem offRef_modAir (s : State) (f : Air → Air) (hc : (f s.air).cands = s.air.cands)
    (hf : (f s.air).forceHoldover = s.air.forceHoldover) : offRef (modAir s f) = offRef s := by
  simp only [offRef, modAir, hc, hf]

theorem getCand_modAir (s : State) (f : Air → Air) (src : Nat) : getCand (modAir s f) src = tget {} (f s.air).cands src := rfl

@[simp] theorem getCand_modTth (s : State) (p : Nat) (f : Tth → Tth) (src : Nat) : getCand (modTth s p f) src = getCand s src := rfl

@[simp] theorem offRef_modGirth (s : State) (g : Nat) (f : Girth → Girth) : offRef (modGirth s g f) = offRef s := rfl
@[simp] theorem offRef_modCarrier (s : State) (c : Nat) (f : Carrier → Carrier) : offRef (modCarrier s c f) = offRef s := rfl
@[simp] theorem offRef_drew (s : State) : offRef (drew s) = offRef s := rfl

theorem offRef_of_told {s t : State} (h : t = told s t) : offRef t = offRef s := by rw [h]; rfl

@[simp] theorem offRef_report (s : State) (e : Event) : offRef (report s e) = offRef s := offRef_of_told (report_told s e)
@[simp] theorem offRef_raiseSource (s : State) (src : W16) : offRef (raiseSource s src) = offRef s :=
  offRef_of_told (told_of_aside (aside_raiseSource s src))
@[simp] theorem offRef_takeMsg (s : State) (g : Nat) (opc : Byte) : offRef (takeMsg s g opc) = offRef s := rfl

@[simp] theorem offRef_refEvent (s : State) (lost stepped : Bool) : offRef (refEvent s lost stepped) = offRef s := offRef_report ..

@[simp] theorem offRef_timLate (s : State) (g : Nat) (stamp : W64) (after : Nat) : offRef (timLate s g stamp after) = offRef s := by
  unfold timLate
  dsimp only
  split
  · rfl
  · rw [offRef_report, offRef_modGirth]

/-- The correction's end in LOCKED writes its history alone. -/
theorem closeLock_eq (now : Nat) (a : Air) :
    closeLock now a = { a with lockHist := (closeLock now a).lockHist, lockSince := (closeLock now a).lockSince } := by
  unfold closeLock
  split <;> rfl

@[simp] theorem closeLock_cands (now : Nat) (a : Air) : (closeLock now a).cands = a.cands := by rw [closeLock_eq]
@[simp] theorem closeLock_forceHoldover (now : Nat) (a : Air) : (closeLock now a).forceHoldover = a.forceHoldover := by rw [closeLock_eq]

@[simp] theorem offRef_acquire (s : State) (i : Fin 4) : offRef (acquire s i) = offRef s :=
  offRef_modAir _ _ (closeLock_cands ..) (closeLock_forceHoldover ..)

@[simp] theorem offRef_enterHold (s : State) : offRef (enterHold s) = offRef s :=
  offRef_modAir _ _ (closeLock_cands ..) (closeLock_forceHoldover ..)

@[simp] theorem offRef_enterLocked (s : State) : offRef (enterLocked s) = offRef s := offRef_modAir _ _ rfl rfl

@[simp] theorem offRef_loseActive (s : State) : offRef (loseActive s) = offRef s := by
  unfold loseActive
  extract_lets s1 s2
  have h1 : offRef s1 = offRef s := offRef_modAir _ _ rfl rfl
  have h2 : offRef s2 = offRef s1 := by
    unfold s2
    split
    · exact offRef_acquire ..
    · exact offRef_enterHold ..
  rw [offRef_refEvent, h2, h1]

@[simp] theorem offRef_evaluateRef (s : State) : offRef (evaluateRef s) = offRef s := by
  unfold evaluateRef
  split
  · rfl
  · split
    · exact offRef_acquire ..
    · rfl

/-! ### Measurements of the phase (R35, R39, R43, R673) -/

theorem offRef_renumber (s : State) (f : Air → Air) (ahead : Int) (hc : (f s.air).cands = s.air.cands)
    (hf : (f s.air).forceHoldover = s.air.forceHoldover) : offRef (renumber s f ahead) = offRef s := by
  unfold renumber
  dsimp only
  split
  · simp only [offRef, hc, hf]
  · rw [foldl_keep offRef _ (fun _ _ => offRef_modCarrier ..)]
    simp only [offRef, hc, hf]

/-- Supplied numbering that loads changes the count of frames and what ATM_EPOCH shows. -/
theorem loadNumbering_eq (a : Air) :
    loadNumbering a = { a with
      frame := (loadNumbering a).frame, hyper := (loadNumbering a).hyper, numbering := (loadNumbering a).numbering,
      epochApplied := (loadNumbering a).epochApplied, epochArm := (loadNumbering a).epochArm, loads := (loadNumbering a).loads } := by
  unfold loadNumbering
  split
  · dsimp only
    split <;> rfl
  · rfl

@[simp] theorem loadNumbering_cands (a : Air) : (loadNumbering a).cands = a.cands := by rw [loadNumbering_eq]
@[simp] theorem loadNumbering_forceHoldover (a : Air) : (loadNumbering a).forceHoldover = a.forceHoldover := by rw [loadNumbering_eq]

@[simp] theorem offRef_supply (s : State) (num : Option (Int × Bool)) : offRef (supply s num) = offRef s := by
  unfold supply
  split
  · exact offRef_modAir _ _ rfl rfl
  · rfl

@[simp] theorem offRef_epochAtEdge (s : State) (num : Option (Int × Bool)) (own : Int) : offRef (epochAtEdge s num own) = offRef s := by
  unfold epochAtEdge
  split
  · extract_lets s1
    have h1 : offRef s1 = offRef s := offRef_modAir _ _ rfl rfl
    split
    · rw [offRef_renumber _ _ _ (loadNumbering_cands _) (loadNumbering_forceHoldover _), h1]
    · exact h1
  · rfl

@[simp] theorem offRef_steer (s : State) : offRef (steer s) = offRef s := by
  unfold steer
  extract_lets c s1
  have h1 : offRef s1 = offRef s := offRef_drew s
  rw [offRef_modAir, h1] <;> split <;> simp only [closeLock_cands, closeLock_forceHoldover]

@[simp] theorem offRef_actOnErr (s : State) (e : Int) : offRef (actOnErr s e) = offRef s := by
  unfold actOnErr
  split
  · rw [offRef_refEvent, offRef_enterLocked]
    refine offRef_modAir _ _ ?_ ?_
    · exact (loadNumbering_cands _).trans (closeLock_cands ..)
    · exact (loadNumbering_forceHoldover _).trans (closeLock_forceHoldover ..)
  · split
    · split
      · exact offRef_enterLocked ..
      · exact offRef_modAir _ _ (closeLock_cands ..) (closeLock_forceHoldover ..)
    · split
      · exact offRef_modAir _ _ (closeLock_cands ..) (closeLock_forceHoldover ..)
      · extract_lets s1
        have h1 : offRef s1 = offRef s := offRef_modAir _ _ (closeLock_cands ..) (closeLock_forceHoldover ..)
        split
        · rw [offRef_raiseSource, h1]
        · exact (offRef_modAir s1 _ rfl rfl).trans h1

@[simp] theorem offRef_phaseMeasured (s : State) (e : Int) (num : Option (Int × Bool)) (own : Int) :
    offRef (phaseMeasured s e num own) = offRef s := by
  unfold phaseMeasured
  extract_lets s1 s2 s3
  have h1 : offRef s1 = offRef s := offRef_modAir _ _ rfl rfl
  have h2 : offRef s2 = offRef s := (offRef_supply ..).trans h1
  have h3 : offRef s3 = offRef s := (offRef_epochAtEdge ..).trans h1
  split
  case h_1 => split <;> simp only [offRef_actOnErr, h2]
  case h_2 =>
    split
    · exact (offRef_actOnErr ..).trans h2
    · exact (offRef_steer ..).trans h3
  case h_3 => split <;> simp only [offRef_steer, offRef_enterLocked, h3]
  case h_4 => exact h2
  case h_5 => exact h1

/-! ### Candidates (R33, R672) -/

/-- A candidate after its progress changed: lost while FORCE_HOLDOVER is set, and dated where it qualifies. -/
def candNext (s : State) (c c' : Candidate) : Candidate :=
  let c' := if s.air.forceHoldover then { c' with qualified := false, good := 0, missed := 0 } else c'
  { c' with since := if c'.qualified && !c.qualified then s.now else c'.since }

@[simp] theorem candNext_tenMHz (s : State) (c c' : Candidate) : (candNext s c c').tenMHz = c'.tenMHz := by
  unfold candNext
  dsimp only
  split <;> rfl

@[simp] theorem candNext_qualified (s : State) (c c' : Candidate) : (candNext s c c').qualified = (!s.air.forceHoldover && c'.qualified) := by
  unfold candNext
  cases s.air.forceHoldover <;> rfl

theorem candNext_missed (s : State) (c c' : Candidate) (h : s.air.forceHoldover = false) : (candNext s c c').missed = c'.missed := by
  simp [candNext, h]

/-- What a change of a candidate's progress does outside the reference machine: the candidate is its next. -/
theorem offRef_candUpdate (s : State) (src : Nat) (f : Candidate → Candidate) :
    offRef (candUpdate s src f)
      = offRef (modAir s (fun a => { a with cands := tset {} a.cands src (candNext s (getCand s src) (f (getCand s src))) })) := by
  unfold candUpdate
  extract_lets c c1 c2 c3 wasActive s1
  have h1 : s1 = modAir s (fun a => { a with cands := tset {} a.cands src (candNext s (getCand s src) (f (getCand s src))) }) := rfl
  rw [← h1]
  split
  · split
    · exact offRef_loseActive ..
    · rfl
  · split
    · exact offRef_evaluateRef ..
    · rfl

@[simp] theorem getCand_candUpdate (s : State) (src : Nat) (f : Candidate → Candidate) :
    getCand (candUpdate s src f) src = candNext s (getCand s src) (f (getCand s src)) := by
  rw [getCand_of_offRef (offRef_candUpdate s src f)]
  exact tget_tset_same ..

theorem offAir_candUpdate (s : State) (src : Nat) (f : Candidate → Candidate) : offAir (candUpdate s src f) = offAir s :=
  (offAir_of_offRef (offRef_candUpdate s src f)).trans (offAir_modAir ..)

@[simp] theorem candLost_qualified (c : Candidate) : (candLost c).qualified = false := rfl

theorem forceHoldover_timLate (s : State) (g : Nat) (opc : Byte) (stamp : W64) (after : Nat) :
    (timLate (takeMsg s g opc) g stamp after).air.forceHoldover = s.air.forceHoldover :=
  forceHoldover_of_offRef ((offRef_timLate ..).trans (offRef_takeMsg ..))

theorem getCand_timLate (s : State) (g : Nat) (opc : Byte) (stamp : W64) (after k : Nat) :
    getCand (timLate (takeMsg s g opc) g stamp after) k = getCand s k :=
  getCand_of_offRef ((offRef_timLate ..).trans (offRef_takeMsg ..)) k

theorem offAir_timLate (s : State) (g : Nat) (opc : Byte) (stamp : W64) (after : Nat) :
    offAir (timLate (takeMsg s g opc) g stamp after) = offAir s :=
  offAir_of_offRef ((offRef_timLate ..).trans (offRef_takeMsg ..))

/-! ### The commands of the candidates -/

/-- A PPS edge, or a time message, of a candidate acts on its progress; what else it does concerns the reference alone. -/
theorem offRef_measured (s : State) (measures : Bool) (e : Int) (num : Option (Int × Bool)) (own : Int) :
    offRef (if measures then phaseMeasured (if s.air.active.isNone then evaluateRef s else s) e num own
      else if s.air.active.isNone then evaluateRef s else s) = offRef s := by
  have h : offRef (if s.air.active.isNone then evaluateRef s else s) = offRef s := by
    split
    · exact offRef_evaluateRef s
    · rfl
  split
  · rw [offRef_phaseMeasured, h]
  · exact h

theorem offRef_tetherTime (s : State) (port : Nat) (t1 offset : W64) (valid linkUp : Bool) :
    offRef (tetherTime s port t1 offset valid linkUp) = offRef (candUpdate s (port + 2) (tetherMsg valid linkUp)) :=
  offRef_measured ..

theorem exec_refm (s : State) (iod : Fin 2) (stamp : W64) (present : Bool) (h : msgBlocked s iod.val 0x34 = false) :
    exec (.refm iod stamp present) s = .next (candUpdate (timLate (takeMsg s iod.val 0x34) iod.val stamp 0) iod.val
      (fun c => if present then { c with tenMHz := true } else { candLost c with tenMHz := false })) :=
  if_neg (by rw [h]; decide)

theorem exec_refmPps (s : State) (iod : Fin 2) (stamp : W64) (cycles : W32) (h : msgBlocked s iod.val 0x34 = false) :
    ∃ t, exec (.refmPps iod stamp cycles) s = .next t
      ∧ offRef t = offRef (candUpdate (timLate (takeMsg s iod.val 0x34) iod.val stamp 0) iod.val (ppsEdge cycles.toNat)) := by
  refine ⟨_, (if_neg (by rw [h]; decide)).trans (apply_ite Host.Outcome.next _ _ _).symm, ?_⟩
  exact offRef_measured ..

/-- The port of a time exchange, with what the exchange writes there (R520). -/
def exchanged (s : State) (port : Nat) (offset : W64) (delay : W32) (valid : Bool) : State :=
  modTth (takeMsg s (port / 2) 0x35) port (fun t => { t with timeOfs := offset.setWidth 32, timeDly := delay, timeValid := valid })

@[simp] theorem getCand_exchanged (s : State) (port : Nat) (offset : W64) (delay : W32) (valid : Bool) (src : Nat) :
    getCand (exchanged s port offset delay valid) src = getCand s src := rfl

@[simp] theorem exchanged_air (s : State) (port : Nat) (offset : W64) (delay : W32) (valid : Bool) :
    (exchanged s port offset delay valid).air = s.air := rfl

@[simp] theorem offAir_exchanged (s : State) (port : Nat) (offset : W64) (delay : W32) (valid : Bool) :
    offAir (exchanged s port offset delay valid) = offAir s := by
  rw [exchanged, offAir_modTth]
  rfl

theorem exec_tofs (s : State) (port : Fin 4) (t1 offset : W64) (delay : W32) (valid : Bool) (h : msgBlocked s (port.val / 2) 0x35 = false) :
    ∃ t, exec (.tofs port t1 offset delay valid) s = .next t ∧ offRef t = offRef (candUpdate (exchanged s port.val offset delay valid)
      (port.val + 2) (tetherMsg valid (decide ((getTth s port.val).state = .up)))) := by
  have hup : (getTth (exchanged s port.val offset delay valid) port.val).state = (getTth s port.val).state := by
    rw [exchanged, getTth_modTth]
    rfl
  refine ⟨_, if_neg (by rw [h]; decide), (offRef_tetherTime ..).trans ?_⟩
  rw [← hup]
  rfl

theorem tenMhzLost_loses (s : State) (iod : Fin 2) : ∃ t, exec (.tenMhzLost iod) s = .next t ∧ (getCand t iod.val).qualified = false
    ∧ (getCand t iod.val).tenMHz = false ∧ UnitsKept s t ∧ PartKept s t := by
  refine ⟨_, rfl, ?_, ?_, kept_of_offAir (offAir_candUpdate ..)⟩
  · rw [getCand_candUpdate, candNext_qualified, candLost_qualified, Bool.and_false]
  · rw [getCand_candUpdate, candNext_tenMHz]

theorem refm_present (s : State) (iod : Fin 2) (stamp : W64) (h : msgBlocked s iod.val 0x34 = false) :
    ∃ t, exec (.refm iod stamp true) s = .next t ∧ (getCand t iod.val).tenMHz = true ∧ UnitsKept s t ∧ PartKept s t := by
  refine ⟨_, exec_refm s iod stamp true h, ?_, kept_of_offAir ((offAir_candUpdate ..).trans (offAir_timLate ..))⟩
  rw [getCand_candUpdate, candNext_tenMHz, if_pos rfl]

theorem refm_absent (s : State) (iod : Fin 2) (stamp : W64) (h : msgBlocked s iod.val 0x34 = false) :
    ∃ t, exec (.refm iod stamp false) s = .next t ∧ (getCand t iod.val).qualified = false ∧ (getCand t iod.val).tenMHz = false
      ∧ UnitsKept s t ∧ PartKept s t := by
  refine ⟨_, exec_refm s iod stamp false h, ?_, ?_, kept_of_offAir ((offAir_candUpdate ..).trans (offAir_timLate ..))⟩
  · rw [getCand_candUpdate, candNext_qualified, if_neg Bool.false_ne_true, candLost_qualified, Bool.and_false]
  · rw [getCand_candUpdate, candNext_tenMHz, if_neg Bool.false_ne_true]

theorem ppsEdgeMissing_counts (s : State) (iod : Fin 2) (hq : (getCand s iod.val).qualified = true) :
    ∃ t, exec (.ppsEdgeMissing iod) s = .next t
      ∧ (getCand t iod.val).qualified = (!s.air.forceHoldover && decide ((getCand s iod.val).missed = 0)) ∧ UnitsKept s t ∧ PartKept s t := by
  refine ⟨_, rfl, ?_, kept_of_offAir (offAir_candUpdate ..)⟩
  rw [getCand_candUpdate, candNext_qualified]
  by_cases hm : (getCand s iod.val).missed = 0
  · simp [hq, hm]
  · simp [hq, hm, Nat.one_le_iff_ne_zero]

/-- A fourth time message missing in a row loses the candidate; one before it is counted (R33). -/
theorem tetherMsg_loses {up : Bool} {c : Candidate} (h : 3 ≤ c.missed) : (tetherMsg false up c).qualified = false :=
  congrArg Candidate.qualified (if_pos h)

theorem tetherMsg_misses {up : Bool} {c : Candidate} (h : c.missed < 3) : (tetherMsg false up c).missed = c.missed + 1 :=
  congrArg Candidate.missed (if_neg (Nat.not_le.2 h))

/-- Whether a port's next time message is past its allowance (R520). -/
def timeMsgDue (s : State) (port : Nat) : Bool :=
  (getTth s port).msgAt.any (fun a => decide (a + (if (getTth s port).msgInterval.toNat = 0 then 2457600
    else (getTth s port).msgInterval.toNat + 12288) ≤ s.now))

theorem timeMsgDue_of_late {s : State} {port : Nat}
    (hgap : (getTth s port).msgInterval ≠ 0 → ∃ a, (getTth s port).msgAt = some a ∧ a + (getTth s port).msgInterval.toNat + 12288 ≤ s.now)
    (hno : (getTth s port).msgInterval = 0 → ∃ a, (getTth s port).msgAt = some a ∧ a + 2457600 ≤ s.now) : timeMsgDue s port = true := by
  unfold timeMsgDue
  by_cases h0 : (getTth s port).msgInterval = 0
  · obtain ⟨a, ha, hle⟩ := hno h0
    have hn : (getTth s port).msgInterval.toNat = 0 := congrArg BitVec.toNat h0
    rw [ha, Option.any_some, if_pos hn]
    exact decide_eq_true hle
  · obtain ⟨a, ha, hle⟩ := hgap h0
    have hn : (getTth s port).msgInterval.toNat ≠ 0 := fun h => h0 (BitVec.eq_of_toNat_eq h)
    rw [ha, Option.any_some, if_neg hn]
    exact decide_eq_true (Nat.add_assoc .. ▸ hle)

theorem exec_timeMsgMissing (s : State) (port : Fin 4) (h : timeMsgDue s port.val = true) :
    exec (.timeMsgMissing port) s = .next (candUpdate (modTth s port.val (fun t => { t with msgAt := t.msgAt.map (· +
      (if (getTth s port.val).msgInterval.toNat = 0 then 2457600 else (getTth s port.val).msgInterval.toNat)) }))
      (port.val + 2) (tetherMsg false true)) := by
  show execTimeMsgMissing port s = _
  unfold execTimeMsgMissing
  exact if_pos h

theorem timeMsgMissing_counts (s : State) (port : Fin 4)
    (hgap : (getTth s port.val).msgInterval ≠ 0 →
      ∃ a, (getTth s port.val).msgAt = some a ∧ a + (getTth s port.val).msgInterval.toNat + 12288 ≤ s.now)
    (hno : (getTth s port.val).msgInterval = 0 → ∃ a, (getTth s port.val).msgAt = some a ∧ a + 2457600 ≤ s.now) :
    ∃ t, exec (.timeMsgMissing port) s = .next t
      ∧ (3 ≤ (getCand s (port.val + 2)).missed → (getCand t (port.val + 2)).qualified = false)
      ∧ ((getCand s (port.val + 2)).missed < 3 → s.air.forceHoldover = false →
          (getCand t (port.val + 2)).missed = (getCand s (port.val + 2)).missed + 1) ∧ UnitsKept s t ∧ PartKept s t := by
  refine ⟨_, exec_timeMsgMissing s port (timeMsgDue_of_late hgap hno), fun h3 => ?_, fun h3 hf => ?_, kept_of_offAir ((offAir_candUpdate ..).trans (offAir_modTth ..))⟩
  · rw [getCand_candUpdate, candNext_qualified]
    rw [getCand_modTth, tetherMsg_loses h3, Bool.and_false]
  · rw [getCand_candUpdate, candNext_missed _ _ _ (by rw [modTth_air]; exact hf), getCand_modTth, tetherMsg_misses h3]

/-- The fourth good period of an unqualified PPS candidate with its 10 MHz qualifies it (R33). -/
theorem ppsEdge_qualifies {n : Nat} {c : Candidate} (hs : c.seen = true) (hq : c.qualified = false) (hm : c.tenMHz = true)
    (hlo : 9999999 ≤ n) (hhi : n ≤ 10000001) (hg : 3 ≤ c.good) : (ppsEdge n c).qualified = true := by
  simp [ppsEdge, hs, hq, hm, hlo, hhi, hg]

theorem refmPps_qualifies (s : State) (iod : Fin 2) (stamp : W64) (cycles : W32) (h : msgBlocked s iod.val 0x34 = false)
    (hs : (getCand s iod.val).seen = true) (hq : (getCand s iod.val).qualified = false) (hm : (getCand s iod.val).tenMHz = true)
    (hlo : 9999999 ≤ cycles.toNat) (hhi : cycles.toNat ≤ 10000001) (hg : 3 ≤ (getCand s iod.val).good)
    (hf : s.air.forceHoldover = false) :
    ∃ t, exec (.refmPps iod stamp cycles) s = .next t ∧ (getCand t iod.val).qualified = true ∧ UnitsKept s t ∧ PartKept s t := by
  obtain ⟨t, ht, hoff⟩ := exec_refmPps s iod stamp cycles h
  refine ⟨t, ht, ?_, kept_of_offAir ((offAir_of_offRef hoff).trans ((offAir_candUpdate ..).trans (offAir_timLate ..)))⟩
  rw [getCand_of_offRef hoff, getCand_candUpdate, candNext_qualified, forceHoldover_timLate, getCand_timLate, hf,
    ppsEdge_qualifies hs hq hm hlo hhi hg, Bool.not_false, Bool.and_self]

/-- The sixteenth valid time message in a row qualifies a Tether candidate whose link is up (R33). -/
theorem tetherMsg_qualifies {c : Candidate} (hg : 15 ≤ c.good) : (tetherMsg true true c).qualified = true := by
  have h16 : 16 ≤ min 16 (c.good + 1) := by omega
  simp only [tetherMsg, if_true, decide_eq_true h16, Bool.and_self, Bool.or_true]

theorem tofs_qualifies (s : State) (port : Fin 4) (t1 offset : W64) (delay : W32) (h : msgBlocked s (port.val / 2) 0x35 = false)
    (hf : s.air.forceHoldover = false) (hup : (getTth s port.val).state = .up) (hg : 15 ≤ (getCand s (port.val + 2)).good) :
    ∃ t, exec (.tofs port t1 offset delay true) s = .next t ∧ (getCand t (port.val + 2)).qualified = true
      ∧ (getTth t port.val).timeOfs = offset.setWidth 32 ∧ (getTth t port.val).timeDly = delay ∧ UnitsKept s t ∧ PartKept s t := by
  obtain ⟨t, ht, hoff⟩ := exec_tofs s port t1 offset delay true h
  have hport : getTth t port.val = getTth (exchanged s port.val offset delay true) port.val :=
    (getTth_of_offRef hoff _).trans (getTth_of_offRef (offRef_candUpdate ..) _)
  refine ⟨t, ht, ?_, ?_, ?_, kept_of_offAir ((offAir_of_offRef hoff).trans ((offAir_candUpdate ..).trans (offAir_exchanged ..)))⟩
  · rw [getCand_of_offRef hoff, getCand_candUpdate, candNext_qualified, decide_eq_true hup, getCand_exchanged, exchanged_air, hf,
      tetherMsg_qualifies hg, Bool.not_false, Bool.and_self]
  · rw [hport, exchanged, getTth_modTth]
  · rw [hport, exchanged, getTth_modTth]

/-- Settles O9: each command of the references changes one candidate, by `candNext`, and else the reference alone. -/
theorem candidateQualification : Obligations.CandidateQualification := fun s =>
  ⟨tenMhzLost_loses s, fun iod stamp h => ⟨refm_present s iod stamp h, refm_absent s iod stamp h⟩, ppsEdgeMissing_counts s,
    timeMsgMissing_counts s, refmPps_qualifies s, tofs_qualifies s⟩

/-! ### The reference's own commands (R34, R38) -/

theorem revertTimer_acquires (s : State) (cand i : Fin 4) (src : Nat) (hact : s.air.active = some i) (hlt : cand.val < i.val)
    (hsrc : candOf s cand.val = some src) (hrev : s.hns.time.revertive = true) (hq : (getCand s src).qualified = true)
    (hage : (getCand s src).since + 60 * 122880000 ≤ s.now) :
    ∃ t, exec (.revertTimer cand) s = .next t ∧ t.air.active = some cand ∧ t.air.state = .acquire ∧ UnitsKept s t ∧ PartKept s t := by
  refine ⟨acquire s cand, ?_, rfl, rfl, kept_of_offAir (offAir_of_offRef (offRef_acquire ..))⟩
  show execRevertTimer cand s = _
  unfold execRevertTimer
  rw [hact, hsrc]
  exact if_pos (by simp only [hrev, hq, decide_eq_true hlt, decide_eq_true hage, Bool.and_self])

/-- A report sets the flags of its code, and beside them counts (Table 17-14, R630). -/
theorem reportFlt_eq (s : State) (e : Event) :
    reportFlt s e = { markFault s.flt e.code e.guarantee with cntDev := (reportFlt s e).cntDev, last := (reportFlt s e).last } := by
  unfold reportFlt
  dsimp only
  split <;> split <;> rfl

theorem reportFlt_holdover (s : State) (e : Event) (h : e.code = 0x5003) : (reportFlt s e).holdover = true := by
  rw [reportFlt_eq, h]
  rfl

theorem holdLimitReached_expires (s : State) (hst : s.air.state = .holdover) (hlim : s.hns.time.holdLimit.toNat * 8 ≤ holdEst s)
    (hdone : s.air.holdDone = false) :
    ∃ t, exec .holdLimitReached s = .next t ∧ t.air.holdExpired = true ∧ t.flt.holdover = true ∧ t.air.tick = s.air.tick
      ∧ t.air.state = .holdover ∧ UnitsKept s t ∧ PartKept s t := by
  refine ⟨_, if_pos ⟨hst, hlim, hdone⟩, ?_⟩
  rw [report_air, report_flt, reportFlt_holdover _ _ rfl]
  exact ⟨rfl, rfl, rfl, hst, kept_of_offAir (offAir_of_offRef ((offRef_report ..).trans (offRef_modAir _ _ rfl rfl)))⟩

/-! ### S0's commands to the reference (R39, R43, R64) -/

/-- What a management command changes beside the references is the half write that its function held. -/
theorem kept_of_unheld {s t : State} (h : offAir t = offAir (unheld s 0)) : UnitsKept s t ∧ PartKept (unheld s 0) t :=
  kept_of_offAir h

theorem exec_mgmt {c : Instr} {s : State} {f : State → State} (hc : exec c s = .next (mgmt f s)) (ho : MgmtOpen s) :
    exec c s = .next (f (unheld s 0)) := by
  rw [hc, mgmt_open f s ho]

theorem stepNowOp_pending {s : State} (h : s.air.state = .stepPending) :
    stepNowOp s = modAir s (fun a => { a with state := .acquire, stepIn := some 2 }) := if_pos h

theorem stepNow_decides (s : State) (ho : MgmtOpen s) (hst : s.air.state = .stepPending) :
    ∃ t, exec .stepNow s = .next t ∧ t.air.state = .acquire ∧ t.air.stepIn = some 2 ∧ UnitsKept s t ∧ PartKept (unheld s 0) t := by
  refine ⟨_, exec_mgmt rfl ho, ?_⟩
  rw [stepNowOp_pending (s := unheld s 0) hst]
  exact ⟨rfl, rfl, kept_of_unheld (offAir_modAir ..)⟩

theorem slewAnywayOp_pending {s : State} (h : s.air.state = .stepPending) (he : 16 < s.air.phaseErr.natAbs) :
    slewAnywayOp s = modAir s (fun a => { a with state := .slewing, slewBase := a.corr }) :=
  (if_pos h).trans (if_neg (Nat.not_le.2 he))

theorem slewAnyway_slews (s : State) (ho : MgmtOpen s) (hst : s.air.state = .stepPending) (he : 16 < s.air.phaseErr.natAbs) :
    ∃ t, exec .slewAnyway s = .next t ∧ t.air.state = .slewing ∧ t.air.stepIn = s.air.stepIn ∧ UnitsKept s t ∧ PartKept (unheld s 0) t := by
  refine ⟨_, exec_mgmt rfl ho, ?_⟩
  rw [slewAnywayOp_pending (s := unheld s 0) hst he]
  exact ⟨rfl, rfl, kept_of_unheld (offAir_modAir ..)⟩

/-- Reading after a change of the values at several keys. -/
theorem tget_tmods {α : Type} [DecidableEq α] (d : α) (ks : List Nat) (hn : ks.Nodup) (t : Table α) (f : Nat → α → α) (j : Nat) :
    tget d (tmods d t ks f) j = if j ∈ ks then f j (tget d t j) else tget d t j := by
  induction ks generalizing t with
  | nil => rfl
  | cons k ks ih =>
    obtain ⟨hk, hn⟩ := List.nodup_cons.1 hn
    rw [show tmods d t (k :: ks) f = tmods d (tmod d t k (f k)) ks f from rfl, ih hn, tget_tmod]
    by_cases hj : k = j
    · subst hj
      simp [hk]
    · simp [hj, Ne.symm hj]

/-- FORCE_HOLDOVER as it is set: every candidate is lost. -/
theorem offRef_forceHoldoverOp (s : State) :
    offRef (forceHoldoverOp s true) = offRef (modAir s (fun a => { a with
      forceHoldover := true, cands := tmods {} a.cands (List.range 6) (fun _ c => candLost c) })) := by
  unfold forceHoldoverOp
  extract_lets s1 had s2
  rw [if_pos rfl]
  split
  · exact offRef_loseActive s2
  · rfl

theorem forceHoldover_loses (s : State) (ho : MgmtOpen s) :
    ∃ t, exec (.forceHoldover true) s = .next t ∧ t.air.forceHoldover = true
      ∧ (∀ src, src < 6 → (getCand t src).qualified = false) ∧ UnitsKept s t ∧ PartKept (unheld s 0) t := by
  have hoff := offRef_forceHoldoverOp (unheld s 0)
  refine ⟨_, exec_mgmt rfl ho, forceHoldover_of_offRef hoff, fun src hsrc => ?_, kept_of_unheld ((offAir_of_offRef hoff).trans (offAir_modAir ..))⟩
  rw [getCand_of_offRef hoff, getCand_modAir, tget_tmods _ _ List.nodup_range, if_pos (List.mem_range.2 hsrc), candLost_qualified]

theorem forceHoldover_clears (s : State) (ho : MgmtOpen s) :
    ∃ t, exec (.forceHoldover false) s = .next t ∧ t.air.forceHoldover = false ∧ t.air.cands = s.air.cands ∧ UnitsKept s t
      ∧ PartKept (unheld s 0) t :=
  ⟨_, exec_mgmt rfl ho, rfl, rfl, kept_of_unheld (offAir_modAir ..)⟩

theorem atmEpochArm_arms (s : State) (ho : MgmtOpen s) (frame : BitVec 10) (hyper : BitVec 24) :
    ∃ t, exec (.atmEpochArm frame hyper) s = .next t ∧ t.air.epochArm = true ∧ t.air.epochFrame = frame ∧ t.air.epochHyper = hyper
      ∧ t.air.cands = s.air.cands ∧ UnitsKept s t ∧ PartKept (unheld s 0) t :=
  ⟨_, exec_mgmt rfl ho, rfl, rfl, rfl, rfl, kept_of_unheld (offAir_modAir ..)⟩

/-- Settles O10: the reference's own commands, then S0's, each by its rule above. -/
theorem referenceStatesAndCommands : Obligations.ReferenceStatesAndCommands :=
  ⟨revertTimer_acquires, holdLimitReached_expires, fun s ho =>
    ⟨stepNow_decides s ho, slewAnyway_slews s ho, forceHoldover_loses s ho, forceHoldover_clears s ho, atmEpochArm_arms s ho⟩⟩

end Sys2Proof.Machine
end

section
/-!
PROOFS. Chapter 01, the clock: what the gait sequencer, the accounting period, the energy budget and network records leave of it,
and what a tick and a frame boundary count (R29, R39, R53, R66).
-/
namespace Sys2Proof.Machine

/-! ### What the gait sequencer leaves alone (R50, R69) -/

/-- The air state but for the sequencer's banks, queues and flags. -/
def dial (a : Air) : Air :=
  { a with
    ended := false, bank0 := {}, bank1 := {}, entryCount := 0, parityErr := false, gaitLate := 0, lateQ := [], dueQ := [], issued := [] }

/-- A state as the sequencer leaves it: the dial, and nothing of what reporting, the clusters and the Tether ports show. -/
def offGait (s : State) : State :=
  { s with
    sent := [], air := dial s.air, stalls := [], tths := [], girths := [], carriers := [], clusters := [], trail := {}, flt := {} }

theorem offGait_modAir (s : State) (f : Air → Air) (h : dial (f s.air) = dial s.air) : offGait (modAir s f) = offGait s := by
  simp only [offGait, modAir, h]

theorem offGait_of_told {s t : State} (h : t = told s t) : offGait t = offGait s := by rw [h]; rfl

@[simp] theorem offGait_modTth (s : State) (p : Nat) (f : Tth → Tth) : offGait (modTth s p f) = offGait s := rfl

@[simp] theorem offGait_report (s : State) (e : Event) : offGait (report s e) = offGait s := offGait_of_told (report_told s e)
@[simp] theorem offGait_emit (s : State) (o : Out) : offGait (emit s o) = offGait s := offGait_of_told (told_of_aside (aside_emit s o))

@[simp] theorem offGait_gaitSwapTick (s : State) (g : GaitAct) : offGait (gaitSwapTick s g) = offGait s := by
  rw [gaitSwapTick_eq]; rfl

@[simp] theorem offGait_gaitQueue (s : State) (late : Bool) (p : Nat → Bool) : offGait (gaitQueue s late p) = offGait s := by
  unfold gaitQueue
  dsimp only
  rw [foldl_keep offGait _ offGait_gaitSwapTick]
  refine offGait_modAir _ _ ?_
  split <;> rfl

@[simp] theorem offGait_gaitDiscard (s : State) (p : Nat → Bool) : offGait (gaitDiscard s p) = offGait s := by
  refine foldl_keep offGait _ (fun s x => ?_) _ _
  rw [offGait_report]
  exact offGait_modAir _ _ rfl

@[simp] theorem offGait_gaitIssue (s : State) : offGait (gaitIssue s) = offGait s := by
  unfold gaitIssue
  split
  · rfl
  · exact offGait_modAir _ _ rfl

@[simp] theorem offGait_sendAction (s : State) (g : GaitAct) : offGait (sendAction s g) = offGait s := by
  unfold sendAction
  dsimp only
  split
  · rfl
  · split
    · exact offGait_emit ..
    · exact (offGait_modTth ..).trans (offGait_modAir _ _ rfl)

@[simp] theorem offGait_gaitTick (s : State) : offGait (gaitTick s) = offGait s := by
  unfold gaitTick
  dsimp only
  split
  · rfl
  · rw [foldl_keep offGait _ offGait_sendAction, offGait_gaitIssue, offGait_gaitQueue, offGait_gaitDiscard]

@[simp] theorem offGait_gaitLateLoad (s : State) : offGait (gaitLateLoad s) = offGait s := by
  unfold gaitLateLoad
  dsimp only
  split
  · rw [offGait_gaitQueue]
    exact (offGait_modAir _ _ rfl).trans (offGait_gaitDiscard ..)
  · exact offGait_modAir _ _ rfl

@[simp] theorem dial_gaitFail (bad : List (BitVec 12)) (a : Air) : dial (gaitFail bad a) = dial a := by
  unfold gaitFail
  dsimp only
  split <;> rfl

/-! ### What leaves the clock alone -/

/-- The dial and the count of ticks. -/
def clock (s : State) : Air × Nat := (dial s.air, s.now)

theorem clock_of_offGait {s t : State} (h : offGait t = offGait s) : clock t = clock s := congrArg (fun x => (x.air, x.now)) h

@[simp] theorem clock_gaitTick (s : State) : clock (gaitTick s) = clock s := clock_of_offGait (offGait_gaitTick s)
@[simp] theorem clock_gaitLateLoad (s : State) : clock (gaitLateLoad s) = clock s := clock_of_offGait (offGait_gaitLateLoad s)
@[simp] theorem clock_report (s : State) (e : Event) : clock (report s e) = clock s := clock_of_offGait (offGait_report s e)

@[simp] theorem clock_modStall (s : State) (i : Nat) (f : Stall → Stall) : clock (modStall s i f) = clock s := rfl
@[simp] theorem clock_modArr (s : State) (n : Nat) (f : ArrayU → ArrayU) : clock (modArr s n f) = clock s := rfl
@[simp] theorem clock_modCarrier (s : State) (c : Nat) (f : Carrier → Carrier) : clock (modCarrier s c f) = clock s := rfl

@[simp] theorem clock_power (s : State) (p : Power) : clock { s with power := p } = clock s := rfl

@[simp] theorem clock_ite (c : Prop) [Decidable c] (a b : State) : clock (if c then a else b) = if c then clock a else clock b := by
  split <;> rfl

theorem clock_foldl {α : Type} (g : State → α → State) (h : ∀ s a, clock (g s a) = clock s) (l : List α) (s : State) :
    clock (l.foldl g s) = clock s := foldl_keep clock g h l s

@[simp] theorem clock_settleMove (s : State) (n : Nat) : clock (settleMove s n) = clock s := by
  unfold settleMove
  split
  · rfl
  · split <;> rfl

@[simp] theorem clock_beginMove (s : State) (n holder : Nat) (grantee : Option Nat) : clock (beginMove s n holder grantee) = clock s :=
  clock_settleMove _ _

/-! ### The accounting period and the budget (R329 to R334, R597 to R600) -/

@[simp] theorem clock_latchShares (s : State) : clock (latchShares s) = clock s :=
  clock_foldl _ (fun _ _ => clock_modStall ..) _ _

@[simp] theorem clock_refreshBacklog (s : State) : clock (refreshBacklog s) = clock s :=
  clock_foldl _ (fun _ _ => clock_modStall ..) _ _

@[simp] theorem clock_levelV (s : State) : clock (levelV s) = clock s :=
  clock_foldl _ (fun _ _ => clock_modStall ..) _ _

@[simp] theorem clock_loseTokens (s : State) : clock (loseTokens s) = clock s := by
  simp only [loseTokens, clock_foldl, clock_ite, clock_modArr, ite_self, implies_true]

@[simp] theorem clock_moveFor (s : State) (w : Nat) : clock (moveFor s w) = clock s := by
  refine clock_foldl _ (fun s n => ?_) _ _
  split
  · split
    · exact clock_beginMove ..
    · rfl
  · rfl

@[simp] theorem clock_moveTokens (s : State) : clock (moveTokens s) = clock s := by
  unfold moveTokens
  split
  · rfl
  · exact clock_foldl _ clock_moveFor _ _

@[simp] theorem clock_newPeriod (s : State) : clock (newPeriod s) = clock s := by
  unfold newPeriod
  extract_lets s1 s2 s3 s4
  have h1 : clock s1 = clock s := (clock_levelV ..).trans ((clock_refreshBacklog ..).trans (clock_latchShares ..))
  have h2 : clock s2 = clock s := (clock_loseTokens ..).trans h1
  have h3 : clock s3 = clock s := (clock_foldl _ (fun _ _ => clock_modStall ..) _ _).trans h2
  have h4 : clock s4 = clock s := (clock_foldl _ (fun _ _ => clock_modArr ..) _ _).trans h3
  exact (clock_moveTokens s4).trans h4

@[simp] theorem clock_setLevel (s : State) (l : Nat) : clock (setLevel s l) = clock s := rfl

@[simp] theorem clock_setShort (s : State) (b : Bool) : clock (setShort s b) = clock s := by
  unfold setShort
  dsimp only
  split
  · exact clock_report ..
  · rfl

@[simp] theorem clock_evaluateBudget (s : State) (first : Bool) : clock (evaluateBudget s first) = clock s := by
  unfold evaluateBudget
  extract_lets p e l s1
  have h1 : clock s1 = clock s := clock_power s _
  split
  extract_lets projected above capped
  split
  · split
    · rw [clock_setShort, clock_setLevel, h1]
    · rw [clock_setShort, h1]
  · split
    · split
      · rw [clock_setShort, clock_setLevel, h1]
      · rw [clock_setShort, h1]
    · rw [clock_setShort, h1]

@[simp] theorem clock_budgetBoundary (s : State) : clock (budgetBoundary s) = clock s := by
  unfold budgetBoundary
  dsimp only
  split <;> simp only [clock_ite, clock_setLevel, clock_evaluateBudget, clock_power, ite_self]

/-! ### Network records that come into force (R441) -/

@[simp] theorem clock_openCarrier (s : State) (c : Nat) : clock (openCarrier s c) = clock s := by
  unfold openCarrier
  split <;> rfl

@[simp] theorem clock_moveCarriers (s : State) (old : Harness) (i : Nat) : clock (moveCarriers s old i) = clock s := by
  refine clock_foldl _ (fun s c => ?_) _ _
  split
  · split
    · split <;> rfl
    · exact clock_openCarrier ..
    · exact clock_openCarrier ..
    · rfl
  · rfl

@[simp] theorem clock_cacheAccess (s : State) (i a n : Nat) (write alloc : Bool) : clock (cacheAccess s i a n write alloc) = clock s := by
  refine clock_foldl _ (fun s l => ?_) _ _
  rfl

@[simp] theorem clock_regionWrite (s : State) (i x : Nat) (bs : List Byte) (al : Bool) : clock (regionWrite s i x bs al) = clock s :=
  clock_cacheAccess s i (regionAddr s i x) bs.length true al

@[simp] theorem clock_reinitNet (s : State) (r : Nat) : clock (reinitNet s r) = clock s := by
  unfold reinitNet
  split
  · rfl
  · dsimp only
    rw [writeAreaHeader, clock_regionWrite]
    exact (clock_regionWrite ..).trans (clock_regionWrite ..)

@[simp] theorem clock_endCandidate (s : State) (r : Nat) : clock (endCandidate s r) = clock s := by
  unfold endCandidate
  dsimp only
  split <;> rfl

@[simp] theorem clock_prepareSchool (s : State) (p : Nat → Bool) : clock (prepareSchool s p) = clock s := by
  refine clock_foldl _ (fun s r => ?_) _ _
  split
  · exact clock_reinitNet ..
  · rfl

@[simp] theorem clock_swapSchool (s : State) (old : Harness) (i : Nat) : clock (swapSchool s old i) = clock s := by
  unfold swapSchool
  extract_lets s1 mine fresh s2
  have h2 : clock s2 = clock s := clock_prepareSchool s1 fresh
  rw [← h2]
  refine clock_foldl _ (fun s r => ?_) _ _
  split
  · exact clock_endCandidate ..
  · rfl

@[simp] theorem clock_countDev (s : State) (i xfers rd wr : Nat) : clock (countDev s i xfers rd wr) = clock s := by
  unfold countDev
  dsimp only
  split <;> rfl

@[simp] theorem clock_loadNet (s : State) (n : Nat) (x : NetCfg) : clock (loadNet s n x) = clock s := by
  unfold loadNet
  extract_lets i bs bad s1
  have h1 : clock s1 = clock s := by
    unfold s1
    split
    · exact clock_cacheAccess ..
    · rfl
  exact (clock_countDev s1 ..).trans h1

@[simp] theorem clock_loadReserve (s : State) (n : Nat) : clock (loadReserve s n) = clock s :=
  clock_foldl _ (fun s x => clock_loadNet s n x) _ _

@[simp] theorem clock_reloadOf (s : State) (old : Harness) (was : State) : clock (reloadOf s old was) = clock s := by
  refine clock_foldl _ (fun s n => ?_) _ _
  dsimp only
  split
  · rfl
  · split
    · exact clock_loadReserve ..
    · rfl

@[simp] theorem clock_applyNets (s : State) (x : NetNext) : clock (applyNets s x) = clock s := by
  unfold applyNets
  dsimp only
  rw [clock_reloadOf, clock_swapSchool, clock_moveCarriers]
  rfl

@[simp] theorem clock_settleNets (s : State) : clock (settleNets s) = clock s := clock_foldl _ clock_applyNets _ _

/-! ### Ticks and boundaries (R29, R39, R53, R66) -/

/-- Frame boundaries until a decided step's own, one boundary on. -/
def stepNearer : Option Nat → Option Nat
  | some 2 => some 1
  | _ => none

/-- The dial in the next frame, where no step is applied and no numbering waits. -/
def passFrame (a : Air) : Air :=
  { setFrames a ((airFrames a : Int) + 1) with
    tick := 0, abs := a.abs + 1, prevAbs := a.frameAbs, frameAbs := (a.abs + 1).toNat, ended := false, prevStretched := a.stretched,
    stretched := decide (a.stepIn = some 2), stepIn := stepNearer a.stepIn }

theorem clock_renumber (s : State) (f : Air → Air) (ahead : Int) : clock (renumber s f ahead) = (dial (f s.air), s.now) := by
  unfold renumber
  dsimp only
  split
  · rfl
  · exact clock_foldl _ (fun _ _ => clock_modCarrier ..) _ _

theorem loadNumbering_none {a : Air} (h : a.numbering = none) : loadNumbering a = a := by
  unfold loadNumbering
  rw [h]

theorem clock_nextFrame (s : State) (hstep : s.air.stepIn ≠ some 1) (hnum : s.air.numbering = none) :
    clock (nextFrame s) = (passFrame (dial s.air), s.now) := by
  unfold nextFrame
  extract_lets applied loads moved s1
  have hap : applied = false := decide_eq_false hstep
  have hskip : skipped s.air = 0 := if_neg hstep
  rw [if_neg (by rw [hap]; decide)]
  refine (clock_renumber ..).trans (congrArg (fun a => (dial a, s.now)) (?_ : _ = passFrame s.air))
  extract_lets a1 abs a2
  have h2 : loadNumbering a2 = a2 := loadNumbering_none hnum
  have habs : abs = s.air.abs + 1 := by
    unfold abs
    rw [hskip]
    exact BitVec.add_zero _
  rw [h2, ite_self]
  simp only [a2, habs, hap, Bool.or_false, passFrame, a1]
  rfl

/-- The dial at a boundary: the banks exchange where the coming frame is the armed one (R66). -/
def swapDial (a : Air) : Air :=
  if a.swapFrame.any (fun f => f.toNat == (airFrames a + 1) % 1024) then { a with activeBank := !a.activeBank, swapFrame := none, copying := true }
  else a

theorem dial_swapBanks (a : Air) : dial (swapBanks a) = { dial a with activeBank := !a.activeBank, swapFrame := none, copying := true } := by
  unfold swapBanks copyGait setShadow
  dsimp only
  split
  · split <;> rfl
  · rfl

theorem swapDial_eq (a : Air) :
    swapDial a = { a with activeBank := (swapDial a).activeBank, swapFrame := (swapDial a).swapFrame, copying := (swapDial a).copying } := by
  unfold swapDial
  split <;> rfl

theorem swapDial_none {a : Air} (h : a.swapFrame = none) : swapDial a = a := by
  unfold swapDial
  rw [h]
  rfl

/-- A swap armed for the frame that begins takes place. -/
theorem swapDial_due {a : Air} (h : a.swapFrame = some (a.frame + 1)) :
    swapDial a = { a with activeBank := !a.activeBank, swapFrame := none, copying := true } := by
  refine if_pos ?_
  have hf : (a.frame + 1).toNat = (airFrames a + 1) % 1024 := by
    rw [BitVec.toNat_add, airFrames, show (1 : BitVec 10).toNat = 1 from rfl]
    omega
  rw [h, Option.any_some, hf, beq_self_eq_true]

theorem clock_boundary (s : State) (hstep : s.air.stepIn ≠ some 1) (hnum : s.air.numbering = none) :
    clock (boundary s) = (passFrame (swapDial (dial s.air)), s.now) := by
  unfold boundary
  rw [hnum]
  extract_lets n num s1 s2 s3 s4
  have h1 : clock s1 = (swapDial (dial s.air), s.now) := by
    unfold s1 swapDial
    split
    · rw [if_pos (by assumption)]
      exact congrArg (·, s.now) (dial_swapBanks s.air)
    · rw [if_neg (by assumption)]
      rfl
  have hair : dial s1.air = swapDial (dial s.air) := congrArg Prod.fst h1
  have hstep1 : s1.air.stepIn ≠ some 1 := by
    rw [show s1.air.stepIn = (dial s1.air).stepIn from rfl, hair, swapDial_eq]
    exact hstep
  have hnum1 : s1.air.numbering = none := by
    rw [show s1.air.numbering = (dial s1.air).numbering from rfl, hair, swapDial_eq]
    exact hnum
  have h2 : clock s2 = (passFrame (dial s1.air), s1.now) := clock_nextFrame s1 hstep1 hnum1
  rw [clock_gaitTick, clock_budgetBoundary, clock_newPeriod, h2, hair, show s1.now = s.now from congrArg Prod.snd h1]

/-- A boundary as it shows on the clock. -/
theorem clock_boundary_of {s : State} {d : Air} {n : Nat} (h : clock s = (d, n)) (hstep : d.stepIn ≠ some 1) (hnum : d.numbering = none) :
    clock (boundary s) = (passFrame (swapDial d), n) := by
  obtain ⟨rfl, rfl⟩ := Prod.mk.inj h
  exact clock_boundary s hstep hnum

/-- A decided step comes one boundary nearer. -/
theorem passFrame_stepIn {a : Air} (h : a.stepIn = some 2) : (passFrame a).stepIn = some 1 :=
  congrArg stepNearer h

theorem passFrame_frame (a : Air) : (passFrame a).frame = a.frame + 1 := by
  refine BitVec.eq_of_toNat_eq ?_
  show (BitVec.ofInt 10 ((airFrames a : Int) + 1)).toNat = _
  rw [BitVec.toNat_ofInt, BitVec.toNat_add, airFrames, show (1 : BitVec 10).toNat = 1 from rfl]
  omega

theorem passFrame_hyper (a : Air) : (passFrame a).hyper = if a.frame = 1023 then a.hyper + 1 else a.hyper := by
  have hn : ((passFrame a).hyper).toNat = (((a.hyper.toNat * 1024 + a.frame.toNat : Nat) + 1 : Int) / (1024 : Nat) % (2 ^ 24 : Nat)).toNat := by
    rw [← airFrames, ← Int.fdiv_eq_ediv_of_nonneg _ (by decide), ← BitVec.toNat_ofInt]
    rfl
  have hlt := a.frame.isLt
  refine BitVec.eq_of_toNat_eq (hn.trans ?_)
  by_cases hf : a.frame = 1023
  · rw [if_pos hf, hf, BitVec.toNat_add, show (1 : BitVec 24).toNat = 1 from rfl, show (1023 : BitVec 10).toNat = 1023 from rfl]
    omega
  · have hne : a.frame.toNat ≠ 1023 := fun h => hf (BitVec.eq_of_toNat_eq h)
    rw [if_neg hf]
    omega

/-! ### AIR_TICK and FRAME_BOUNDARY -/

theorem lastTick_ordinary {a : Air} (h : a.stepIn ≠ some 1) : lastTick a = 1228799 := if_neg h

theorem gaitFail_eq (bad : List (BitVec 12)) (a : Air) :
    gaitFail bad a = { a with bank0 := (gaitFail bad a).bank0, bank1 := (gaitFail bad a).bank1 } := by
  unfold gaitFail
  dsimp only
  split <;> rfl

/-- A period of the air clock as it begins: the count of ticks is one more, windows have closed and parity is judged. -/
def tickBegun (bad : List (BitVec 12)) (s : State) : State := modAir (closeWindows { s with now := s.now + 1 }) (gaitFail bad)

theorem clock_tickBegun (bad : List (BitVec 12)) (s : State) : clock (tickBegun bad s) = (dial s.air, s.now + 1) :=
  congrArg (·, s.now + 1) (dial_gaitFail bad s.air)

theorem tickBegun_ends (bad : List (BitVec 12)) (s : State) (hstep : s.air.stepIn ≠ some 1) (hend : s.air.ended = false) :
    ((tickBegun bad s).air.ended || decide (lastTick (tickBegun bad s).air ≤ (tickBegun bad s).air.tick.toNat))
      = decide (1228799 ≤ s.air.tick.toNat) := by
  have hair : (tickBegun bad s).air = gaitFail bad s.air := rfl
  have hl : lastTick (gaitFail bad s.air) = 1228799 := lastTick_ordinary (by rw [gaitFail_eq]; exact hstep)
  rw [hair, hl, gaitFail_eq, hend, Bool.false_or]

/-- A tick within an ordinary frame counts TICK and ATM_ABS_TICK. -/
theorem clock_airTick_within (bad : List (BitVec 12)) (s : State) (hstep : s.air.stepIn ≠ some 1) (hend : s.air.ended = false)
    (ht : s.air.tick.toNat < 1228799) :
    clock (airTick bad s) = ({ dial s.air with tick := s.air.tick + 1, abs := s.air.abs + 1 }, s.now + 1) := by
  have hb := clock_tickBegun bad s
  unfold airTick
  rw [clock_foldl _ clock_settleMove]
  have hends := (tickBegun_ends bad s hstep hend).trans (decide_eq_false (Nat.not_le.2 ht))
  refine (congrArg clock (if_neg (Bool.eq_false_iff.1 hends))).trans ?_
  rw [clock_gaitTick]
  simp only [clock_ite, clock_gaitLateLoad, ite_self]
  exact congrArg (fun c => ({ c.1 with tick := c.1.tick + 1, abs := c.1.abs + 1 }, c.2)) hb

/-- The last tick of an ordinary frame is its boundary. -/
theorem clock_airTick_boundary (bad : List (BitVec 12)) (s : State) (hstep : s.air.stepIn ≠ some 1) (hend : s.air.ended = false)
    (hnum : s.air.numbering = none) (ht : s.air.tick.toNat = 1228799) :
    clock (airTick bad s) = (passFrame (swapDial (dial s.air)), s.now + 1) := by
  have hb := clock_tickBegun bad s
  unfold airTick
  rw [clock_foldl _ clock_settleMove]
  have hends := (tickBegun_ends bad s hstep hend).trans (decide_eq_true ht.ge)
  refine (congrArg clock (if_pos hends)).trans ?_
  refine clock_boundary_of (d := dial s.air) ?_ hstep hnum
  rw [clock_ite, clock_gaitLateLoad, ite_self]
  exact hb

theorem exec_airTick_within (bad : List (BitVec 12)) (s : State) (hstep : s.air.stepIn ≠ some 1) (hend : s.air.ended = false)
    (ht : s.air.tick.toNat < 1228799) :
    ∃ t, exec (.airTick bad) s = .next t
      ∧ clock t = ({ dial s.air with tick := s.air.tick + 1, abs := s.air.abs + 1 }, s.now + 1) :=
  ⟨_, rfl, (clock_settleNets _).trans (clock_airTick_within bad s hstep hend ht)⟩

theorem exec_airTick_boundary (bad : List (BitVec 12)) (s : State) (hstep : s.air.stepIn ≠ some 1) (hend : s.air.ended = false)
    (hnum : s.air.numbering = none) (ht : s.air.tick.toNat = 1228799) :
    ∃ t, exec (.airTick bad) s = .next t ∧ clock t = (passFrame (swapDial (dial s.air)), s.now + 1) :=
  ⟨_, rfl, (clock_settleNets _).trans (clock_airTick_boundary bad s hstep hend hnum ht)⟩

/-- At the last tick of an ordinary frame FRAME_BOUNDARY is the tick. -/
theorem exec_frameBoundary (bad : List (BitVec 12)) (s : State) (hstep : s.air.stepIn ≠ some 1) (hend : s.air.ended = false)
    (ht : s.air.tick.toNat = 1228799) : exec (.frameBoundary bad) s = exec (.airTick bad) s := by
  refine if_pos ?_
  rw [hend, lastTick_ordinary hstep, ht]
  rfl

theorem airTick_counts (bad : List (BitVec 12)) (s : State) (hstep : s.air.stepIn = none) (hend : s.air.ended = false)
    (ht : s.air.tick.toNat < 1228799) :
    ∃ t, exec (.airTick bad) s = .next t ∧ t.air.tick = s.air.tick + 1 ∧ t.air.frame = s.air.frame ∧ t.air.hyper = s.air.hyper
      ∧ t.air.abs = s.air.abs + 1 ∧ t.now = s.now + 1 := by
  obtain ⟨t, hex, hc⟩ := exec_airTick_within bad s (by rw [hstep]; decide) hend ht
  exact ⟨t, hex, congrArg (fun c => c.1.tick) hc, congrArg (fun c => c.1.frame) hc, congrArg (fun c => c.1.hyper) hc,
    congrArg (fun c => c.1.abs) hc, congrArg Prod.snd hc⟩

theorem airTick_passes (bad : List (BitVec 12)) (s : State) (hstep : s.air.stepIn = none) (hend : s.air.ended = false)
    (hnum : s.air.numbering = none) (ht : s.air.tick.toNat = 1228799) :
    ∃ t, exec (.airTick bad) s = .next t ∧ t.air.tick = 0 ∧ t.air.frame = s.air.frame + 1
      ∧ t.air.hyper = (if s.air.frame = 1023 then s.air.hyper + 1 else s.air.hyper) ∧ t.air.abs = s.air.abs + 1 ∧ t.now = s.now + 1 := by
  obtain ⟨t, hex, hc⟩ := exec_airTick_boundary bad s (by rw [hstep]; decide) hend hnum ht
  rw [swapDial_eq] at hc
  exact ⟨t, hex, congrArg (fun c => c.1.tick) hc, (congrArg (fun c => c.1.frame) hc).trans (passFrame_frame _),
    (congrArg (fun c => c.1.hyper) hc).trans (passFrame_hyper _), congrArg (fun c => c.1.abs) hc, congrArg Prod.snd hc⟩

theorem frameBoundary_passes (bad : List (BitVec 12)) (s : State) (ht : s.air.tick.toNat = 1228799) (hend : s.air.ended = false)
    (hstep : s.air.stepIn ≠ some 1) (hnum : s.air.numbering = none) :
    ∃ t, exec (.frameBoundary bad) s = .next t ∧ t.air.tick = 0 ∧ t.air.frame = s.air.frame + 1 ∧ t.air.abs = s.air.abs + 1
      ∧ (s.air.stepIn = some 2 → t.air.stepIn = some 1)
      ∧ (s.air.swapFrame = some (s.air.frame + 1) → t.air.activeBank = (!s.air.activeBank) ∧ t.air.copying = true)
      ∧ (s.air.swapFrame = none → t.air.activeBank = s.air.activeBank) := by
  obtain ⟨t, hex, hc⟩ := exec_airTick_boundary bad s hstep hend hnum ht
  have hframe := hc
  rw [swapDial_eq] at hframe
  refine ⟨t, (exec_frameBoundary bad s hstep hend ht).trans hex, congrArg (fun c => c.1.tick) hc,
    (congrArg (fun c => c.1.frame) hframe).trans (passFrame_frame _), congrArg (fun c => c.1.abs) hframe, fun h2 => ?_, fun hsw => ?_,
    fun hsw => ?_⟩
  · exact (congrArg (fun c => c.1.stepIn) hframe).trans (passFrame_stepIn h2)
  · rw [swapDial_due (a := dial s.air) hsw] at hc
    exact ⟨congrArg (fun c => c.1.activeBank) hc, congrArg (fun c => c.1.copying) hc⟩
  · rw [swapDial_none (a := dial s.air) hsw] at hc
    exact congrArg (fun c => c.1.activeBank) hc

/-- Settles O8: a tick adds one to the dial, and a boundary passes it into the next frame, with the armed swap. -/
theorem airClockAndFrames : Obligations.AirClockAndFrames :=
  ⟨fun s bad hstep hend hnum => ⟨airTick_counts bad s hstep hend, airTick_passes bad s hstep hend hnum⟩,
    fun s bad ht hend hstep hnum => frameBoundary_passes bad s ht hend hstep hnum⟩

end Sys2Proof.Machine
end

section
/-!
PROOFS. Chapter 01, the gait banks: edits of the shadow bank, the arming and the end of a swap, and the start of the sequencer (R52,
R53, R648).
-/
namespace Sys2Proof.Machine

/-! ### The two banks (R53) -/

@[simp] theorem shadowGait_setShadow (a : Air) (b : GaitBank) : shadowGait (setShadow a b) = b := by
  unfold setShadow
  split <;> simp_all [shadowGait]

@[simp] theorem activeGait_setShadow (a : Air) (b : GaitBank) : activeGait (setShadow a b) = activeGait a := by
  unfold setShadow
  split <;> simp_all [activeGait]

theorem setAt_eq_set {α : Type} (l : List α) (i : Nat) (v : α) : setAt l i v = l.set i v := by
  induction l generalizing i with
  | nil => rfl
  | cons x l ih =>
    cases i with
    | zero => rfl
    | succ i => exact congrArg (x :: ·) (ih i)

/-! ### Edits of the shadow bank (R52) -/

/-- Whether G3 may write an entry into the shadow bank. -/
def editAllowed (s : State) (i : Nat) (entry : W64) : Bool :=
  match (editGait s)[i]? with
  | some h => s.accepted && !s.air.copying && gEdit h && decide (i < (shadowGait s.air).entries.length)
      && (entry == h || entry == h &&& ~~~ place 64 21 (0x3F : BitVec 6))
  | none => false

/-- The shadow bank with an entry written; the entry's parity is good again. -/
def editShadow (i : Nat) (entry : W64) (a : Air) : Air :=
  setShadow a { entries := setAt (shadowGait a).entries i entry, bad := (shadowGait a).bad.filter (fun j => j != i) }

theorem exec_gaitShadowWrite (s : State) (index : BitVec 12) (entry : W64) (hg : groomUp s 3 = true) :
    exec (.gaitShadowWrite index entry) s = if editAllowed s index.toNat entry then .next (modAir s (editShadow index.toNat entry))
      else .next (report s { code := 0x5006, data := leBytes 2 index.toNat }) :=
  if_neg (by rw [hg]; decide)

theorem editAllowed_of {s : State} {i : Nat} {entry h : W64} (hacc : s.accepted = true) (hcopy : s.air.copying = false)
    (hget : (editGait s)[i]? = some h) (hedit : gEdit h = true) (hlt : i < (shadowGait s.air).entries.length)
    (hent : entry = h ∨ entry = h &&& ~~~ place 64 21 (0x3F : BitVec 6)) : editAllowed s i entry = true := by
  unfold editAllowed
  rw [hget]
  simpa [hacc, hcopy, hedit, hlt] using hent

theorem editAllowed_forbidden {s : State} {i : Nat} (entry : W64)
    (h : s.air.copying = true ∨ ∀ h, (editGait s)[i]? = some h → gEdit h = false) : editAllowed s i entry = false := by
  unfold editAllowed
  split
  next x hget =>
    rcases h with hcopy | hno
    · simp [hcopy]
    · simp [hno x hget]
  · rfl

theorem gaitShadowWrite_edits (s : State) (hg : groomUp s 3 = true) (index : BitVec 12) (entry h : W64) (hacc : s.accepted = true)
    (hcopy : s.air.copying = false) (hget : (editGait s)[index.toNat]? = some h) (hedit : gEdit h = true)
    (hlt : index.toNat < (shadowGait s.air).entries.length) (hent : entry = h ∨ entry = h &&& ~~~ place 64 21 (0x3F : BitVec 6)) :
    ∃ t, exec (.gaitShadowWrite index entry) s = .next t ∧ (shadowGait t.air).entries[index.toNat]? = some entry
      ∧ (∀ j, j ≠ index.toNat → (shadowGait t.air).entries[j]? = (shadowGait s.air).entries[j]?)
      ∧ activeGait t.air = activeGait s.air ∧ t = { s with air := t.air } := by
  refine ⟨_, (exec_gaitShadowWrite s index entry hg).trans (if_pos (editAllowed_of hacc hcopy hget hedit hlt hent)), ?_, fun j hj => ?_, ?_, rfl⟩
  · rw [modAir_air, editShadow, shadowGait_setShadow, setAt_eq_set, List.getElem?_set_self hlt]
  · rw [modAir_air, editShadow, shadowGait_setShadow, setAt_eq_set, List.getElem?_set_ne hj.symm]
  · rw [modAir_air, editShadow, activeGait_setShadow]

/-- The gait edit fault sets its flag of FLT_DEV_STS (Table 17-14). -/
theorem reportFlt_gaitEdit (s : State) (e : Event) (h : e.code = 0x5006) : (reportFlt s e).gaitEdit = true := by
  rw [reportFlt_eq, h]
  rfl

theorem gaitShadowWrite_forbidden (s : State) (hg : groomUp s 3 = true) (index : BitVec 12) (entry : W64)
    (h : s.air.copying = true ∨ ∀ h, (editGait s)[index.toNat]? = some h → gEdit h = false) :
    ∃ t, exec (.gaitShadowWrite index entry) s = .next t ∧ t.flt.gaitEdit = true ∧ ToldOnly s t := by
  refine ⟨_, (exec_gaitShadowWrite s index entry hg).trans (if_neg (Bool.eq_false_iff.1 (editAllowed_forbidden entry h))), ?_, report_told s _⟩
  rw [report_flt, reportFlt_gaitEdit _ _ rfl]

/-! ### Swaps, and the start of the sequencer (R53, R648) -/

theorem gaitSwapArm_arms (s : State) (frame : BitVec 10) (hg : groomUp s 3 = true) (hacc : s.accepted = true) :
    ∃ t, exec (.gaitSwapArm frame) s = .next t ∧ t.air.swapFrame = some frame
      ∧ t = { s with air := { s.air with swapFrame := some frame } } :=
  ⟨_, if_pos (by rw [hacc, hg]; rfl), rfl, rfl⟩

theorem gaitCopyDone_copies (s : State) (h : s.air.copying = true) :
    ∃ t, exec .gaitCopyDone s = .next t ∧ t.air.copying = false ∧ shadowGait t.air = activeGait s.air
      ∧ activeGait t.air = activeGait s.air ∧ t = { s with air := t.air } :=
  ⟨modAir s copyGait, if_pos h, rfl, shadowGait_setShadow s.air (activeGait s.air), activeGait_setShadow s.air (activeGait s.air), rfl⟩

theorem gaitStart_starts (s : State) (hacc : s.accepted = true) (harm : s.air.startArmed = true) (hrun : s.air.running = false)
    (ht : s.air.tick = 0) :
    ∃ t, exec .gaitStart s = .next t ∧ t.air.running = true ∧ t.air.startArmed = false ∧ t.air.tick = 0 ∧ t.air.frame = s.air.frame
      ∧ t.air.abs = s.air.abs ∧ t.hns = s.hns ∧ t.accepted = true ∧ t.mem = s.mem ∧ t.arrays = s.arrays ∧ t.cores = s.cores := by
  have hex : exec .gaitStart s = .next (gaitTick (modAir s (fun a => { a with running := true, startArmed := false }))) :=
    if_pos (by rw [hacc, harm, hrun, ht]; rfl)
  have hoff := offGait_gaitTick (modAir s (fun a => { a with running := true, startArmed := false }))
  generalize gaitTick (modAir s (fun a => { a with running := true, startArmed := false })) = t at hex hoff
  exact ⟨t, hex, congrArg (fun x => x.air.running) hoff, congrArg (fun x => x.air.startArmed) hoff,
    (congrArg (fun x => x.air.tick) hoff).trans ht, congrArg (fun x => x.air.frame) hoff, congrArg (fun x => x.air.abs) hoff,
    congrArg (fun x => x.hns) hoff, (congrArg (fun x => x.accepted) hoff).trans hacc, congrArg (fun x => x.mem) hoff,
    congrArg (fun x => x.arrays) hoff, congrArg (fun x => x.cores) hoff⟩

theorem gaitStartTimeout_arms (s : State) (t0 : Nat) (hacc : s.accepted = true) (hrun : s.air.running = false)
    (hat : s.air.acceptedAt = some t0) (hlate : t0 + 10 * 122880000 ≤ s.now) :
    ∃ t, exec .gaitStartTimeout s = .next t ∧ t = { s with air := { s.air with startArmed := true } } := by
  refine ⟨_, ?_, rfl⟩
  show execGaitStartTimeout s = _
  unfold execGaitStartTimeout
  rw [hat]
  exact if_pos (by rw [hacc, hrun, decide_eq_true hlate]; rfl)

/-- Settles O12: edits and swaps of the gait banks, then the start of the sequencer, each by its rule above. -/
theorem gaitBanksAndSequencer : Obligations.GaitBanksAndSequencer :=
  ⟨fun s => ⟨fun hg index entry h => gaitShadowWrite_edits s hg index entry h, gaitShadowWrite_forbidden s, gaitSwapArm_arms s,
      gaitCopyDone_copies s⟩,
    fun s => ⟨gaitStart_starts s, gaitStartTimeout_arms s⟩⟩

end Sys2Proof.Machine
end

section
/-!
PROOFS. Chapter 01, actions and captures: the order of the issued actions, the IRQ action, and transitions from an I/O die to the
detector's queue (R47, R50, R59 to R62, R67, R143, R149, R552).
-/
namespace Sys2Proof.Machine

/-! ### Actions in table order (R50, R67) -/

/-- Whether an entry of the same tick for the same target stands before an issued one. -/
def heldBack (s : State) (g : GaitAct) : Bool :=
  (s.air.issued.takeWhile (fun x => x != g)).any (fun x => x.due == g.due && sameTarget x.entry g.entry)

theorem heldBack_iff (s : State) (g : GaitAct) :
    heldBack s g = true ↔ ∃ x ∈ s.air.issued.takeWhile (fun x => x != g), x.due = g.due ∧ sameTarget x.entry g.entry = true := by
  simp only [heldBack, List.any_eq_true, Bool.and_eq_true, beq_iff_eq]

theorem takeAct_issued {s : State} {action : BitVec 6} {target : Byte} {arg : W16 → Bool} {g : GaitAct}
    (hg : issuedAct s action target arg = some g) :
    takeAct s action target arg =
      if heldBack s g then none else some (g, { s with air := { s.air with issued := s.air.issued.erase g } }) := by
  unfold takeAct
  rw [hg]
  rfl

theorem takeAct_unasked {s : State} {action : BitVec 6} {target : Byte} {arg : W16 → Bool} (h : issuedAct s action target arg = none) :
    takeAct s action target arg = some (actNow s action target, gaitSwapTick s (actNow s action target)) := by
  unfold takeAct
  rw [h]

theorem exec_irq_waits (s : State) (stall : Fin 16) (vector : BitVec 11)
    (h : takeAct s 0x0A (BitVec.ofNat 8 stall.val) (fun a => bits a 0 11 == vector) = none) : exec (.irq stall vector) s = .next s := by
  show execIrq stall vector s = _
  unfold execIrq
  rw [h]

/-! ### The IRQ action (R143, R149) -/

theorem exec_irq_raises {s u : State} {stall : Fin 16} {vector : BitVec 11} {g : GaitAct}
    (h : takeAct s 0x0A (BitVec.ofNat 8 stall.val) (fun a => bits a 0 11 == vector) = some (g, u))
    (hst : (getStall u stall.val).state ≠ .absent) : exec (.irq stall vector) s = .next (raiseVector u stall.val vector) := by
  show execIrq stall vector s = _
  unfold execIrq
  rw [h]
  exact if_neg hst

theorem raiseVector_held {s : State} {i : Nat} {v : BitVec 11} (h : unreachable s i = true) :
    raiseVector s i v = modStall s i (fun st => { st with heldIrq := st.heldIrq ++ [v] }) := if_pos h

theorem raiseVector_reached {s : State} {i : Nat} {v : BitVec 11} (h : unreachable s i = false) :
    raiseVector s i v = fireVector s i v := if_neg (Bool.eq_false_iff.1 h)

theorem fireVector_masked {s : State} {i : Nat} {v : BitVec 11} (h : tget false (getStall s i).msixOpen v.toNat = false) :
    fireVector s i v = modStall s i (fun st => { st with msixPend := tset false st.msixPend v.toNat true }) :=
  if_neg (Bool.eq_false_iff.1 h)

theorem fireVector_open {s : State} {i : Nat} {v : BitVec 11} (h : tget false (getStall s i).msixOpen v.toNat = true) :
    fireVector s i v = emit s (.msix i v (tget 0 (getStall s i).msixAddr v.toNat) (tget 0 (getStall s i).msixData v.toNat)) := if_pos h

section
variable {s u : State} {stall : Fin 16} {vector : BitVec 11} {g : GaitAct}

/-- Taking an IRQ leaves the stalls, what decides whether they can be reached, and what has gone out. -/
theorem takeAct_irq {target : Byte} {arg : W16 → Bool} (h : takeAct s 0x0A target arg = some (g, u)) (k : Nat) :
    getStall u k = getStall s k ∧ unreachable u k = unreachable s k ∧ u.sent = s.sent := by
  rw [takeAct_air (by decide) (by decide) h]
  exact ⟨rfl, rfl, rfl⟩

theorem irq_held (h : takeAct s 0x0A (BitVec.ofNat 8 stall.val) (fun a => bits a 0 11 == vector) = some (g, u))
    (hst : (getStall s stall.val).state ≠ .absent) (hun : unreachable s stall.val = true) :
    ∃ t, exec (.irq stall vector) s = .next t ∧ (getStall t stall.val).heldIrq = (getStall s stall.val).heldIrq ++ [vector]
      ∧ t = { u with stalls := t.stalls } := by
  obtain ⟨hstall, hreach, -⟩ := takeAct_irq h stall.val
  refine ⟨_, exec_irq_raises h (by rwa [hstall]), ?_⟩
  rw [raiseVector_held (hreach.trans hun), getStall_modStall, hstall]
  exact ⟨rfl, rfl⟩

theorem irq_pending (h : takeAct s 0x0A (BitVec.ofNat 8 stall.val) (fun a => bits a 0 11 == vector) = some (g, u))
    (hst : (getStall s stall.val).state ≠ .absent) (hun : unreachable s stall.val = false)
    (hm : tget false (getStall s stall.val).msixOpen vector.toNat = false) :
    ∃ t, exec (.irq stall vector) s = .next t ∧ tget false (getStall t stall.val).msixPend vector.toNat = true
      ∧ t = { u with stalls := t.stalls } := by
  obtain ⟨hstall, hreach, -⟩ := takeAct_irq h stall.val
  refine ⟨_, exec_irq_raises h (by rwa [hstall]), ?_⟩
  rw [raiseVector_reached (hreach.trans hun), fireVector_masked (by rwa [hstall]), getStall_modStall]
  exact ⟨tget_tset_same false _ vector.toNat true, rfl⟩

theorem irq_sent (h : takeAct s 0x0A (BitVec.ofNat 8 stall.val) (fun a => bits a 0 11 == vector) = some (g, u))
    (hst : (getStall s stall.val).state ≠ .absent) (hun : unreachable s stall.val = false)
    (hm : tget false (getStall s stall.val).msixOpen vector.toNat = true) :
    ∃ t, exec (.irq stall vector) s = .next t
      ∧ t.sent = .msix stall.val vector (tget 0 (getStall s stall.val).msixAddr vector.toNat)
          (tget 0 (getStall s stall.val).msixData vector.toNat) :: s.sent
      ∧ ToldOnly u t := by
  obtain ⟨hstall, hreach, hsent⟩ := takeAct_irq h stall.val
  refine ⟨_, exec_irq_raises h (by rwa [hstall]), ?_⟩
  rw [raiseVector_reached (hreach.trans hun), fireVector_open (by rwa [hstall]), hstall, ← hsent]
  exact ⟨rfl, told_of_aside (aside_emit ..)⟩

end

/-! ### One detector (R59 to R61, Table 1-8) -/

theorem detPush_room {d : Detector} (record : W64) (h : d.queue.length < 8) : detPush d record = { d with queue := d.queue ++ [record] } := if_pos h

theorem detPush_full {d : Detector} (record : W64) (h : 8 ≤ d.queue.length) : detPush d record = { d with ovf := true } :=
  if_neg (Nat.not_lt.2 h)

/-- Whether a configuration watches a transition of a source. -/
def watches (cfg : DetCfg) (source : Byte) (rise : Bool) : Bool := cfg.source == source && bit cfg.polarity (if rise then 0 else 1)

/-- Where no debounce on the source has held, a transition ends those on it and starts one where the detector watches it. -/
theorem detSee_unmet {n : Nat} {source : Byte} {stamp : W64} {at8 : Nat} {gen : Byte} {rise : Bool} {d : Detector}
    (h : ∀ p ∈ d.pends, p.source = source → pendDone p at8 = false) :
    detSee n source stamp at8 gen rise d = { d with
      pends := d.pends.filter (fun p => p.source != source) ++
        if watches (cfgAt d at8) source rise then
          [{ source := source, at8 := at8, debounce := (cfgAt d at8).debounce.toNat, record := captRecord stamp rise gen n }]
        else [] } := by
  have hmet : d.pends.filter (fun p => p.source == source && pendDone p at8) = [] := by
    refine List.filter_eq_nil_iff.2 fun p hp hdone => ?_
    obtain ⟨hsrc, hdone⟩ := Bool.and_eq_true_iff.1 hdone
    rw [h p hp (eq_of_beq hsrc)] at hdone
    cases hdone
  have hsel : ((cfgAt d at8).source == source && if rise then bit (cfgAt d at8).polarity 0 else bit (cfgAt d at8).polarity 1)
      = watches (cfgAt d at8) source rise := by
    cases rise <;> rfl
  unfold detSee
  rw [hmet]
  refine (if_congr (iff_of_eq (congrArg (· = true) hsel)) rfl rfl).trans ?_
  split
  · rfl
  · simp only [List.map_nil, List.foldl_nil, List.append_nil]

/-- A transition that the detector watches, none under way: a debounce starts (R60). -/
theorem detSee_starts {n : Nat} {source : Byte} {stamp : W64} {at8 : Nat} {gen : Byte} {rise : Bool} {d : Detector} (hp : d.pends = [])
    (hw : watches (cfgAt d at8) source rise = true) :
    detSee n source stamp at8 gen rise d = { d with pends :=
      [{ source := source, at8 := at8, debounce := (cfgAt d at8).debounce.toNat, record := captRecord stamp rise gen n }] } := by
  rw [detSee_unmet (fun p hmem => by rw [hp] at hmem; cases hmem), hp, if_pos hw]
  rfl

/-- The opposite transition before the debounce has held: the debounce ends (R60). -/
theorem detSee_ends {n : Nat} {source : Byte} {stamp : W64} {at8 : Nat} {gen : Byte} {rise : Bool} {d : Detector} {p : Pend}
    (hp : d.pends = [p]) (hsrc : p.source = source) (hearly : at8 < p.at8 + 8 * p.debounce)
    (hw : watches (cfgAt d at8) source rise = false) : detSee n source stamp at8 gen rise d = { d with pends := [] } := by
  have hun : pendDone p at8 = false := decide_eq_false (Nat.not_le.2 hearly)
  rw [detSee_unmet (fun q hmem _ => by rw [hp] at hmem; rwa [List.mem_singleton.1 hmem]), hp, if_neg (Bool.eq_false_iff.1 hw)]
  simp [hsrc]

/-- A transition on a source that the detector neither watches nor debounces leaves it alone. -/
theorem detSee_other {n : Nat} {source : Byte} {stamp : W64} {at8 : Nat} {gen : Byte} {rise : Bool} {d : Detector}
    (hp : ∀ p ∈ d.pends, p.source ≠ source) (hcfg : (cfgAt d at8).source ≠ source) : detSee n source stamp at8 gen rise d = d := by
  have hw : watches (cfgAt d at8) source rise = false := by
    unfold watches
    rw [beq_false_of_ne hcfg, Bool.false_and]
  have hall : d.pends.filter (fun p => p.source != source) = d.pends := List.filter_eq_self.2 fun p hmem => bne_iff_ne.2 (hp p hmem)
  rw [detSee_unmet (fun p hmem hsrc => absurd hsrc (hp p hmem)), hall, if_neg (Bool.eq_false_iff.1 hw), List.append_nil]

/-! ### The record of a capture (Table 1-8) -/

theorem bits_or {w : Nat} (a b : BitVec w) (lo n : Nat) : bits (a ||| b) lo n = bits a lo n ||| bits b lo n := by
  ext i hi
  simp [bits]

theorem getLsbD_place {n : Nat} (w lo : Nat) (f : BitVec n) (i : Nat) (hi : i < w) :
    (place w lo f).getLsbD i = (decide (lo ≤ i) && f.getLsbD (i - lo)) := by
  by_cases h : i < lo
  · simp [place, h]
  · simp [place, hi, h, Nat.not_lt.1 h]

/-- A placed field reads back where it was placed, -/
theorem bits_place_same {n : Nat} (w lo : Nat) (f : BitVec n) (h : lo + n ≤ w) : bits (place w lo f) lo n = f := by
  ext i hi
  rw [bits, BitVec.getElem_extractLsb', getLsbD_place _ _ _ _ (by omega)]
  simp [BitVec.getLsbD_eq_getElem hi]

/-- and as zeros before it and behind it. -/
theorem bits_place_apart {m : Nat} (w lo' : Nat) (f : BitVec m) (lo n : Nat) (hw : lo + n ≤ w) (h : lo + n ≤ lo' ∨ lo' + m ≤ lo) :
    bits (place w lo' f) lo n = 0#n := by
  ext i hi
  rw [bits, BitVec.getElem_extractLsb', getLsbD_place _ _ _ _ (by omega)]
  rcases h with h | h
  · simp [show ¬ lo' ≤ lo + i by omega]
  · simp [BitVec.getLsbD_of_ge f (lo + i - lo') (by omega)]

theorem bit_eq_bits {w : Nat} (v : BitVec w) (i : Nat) : bit v i = (bits v i 1).getLsbD 0 := by
  simp [bit, bits]

theorem captRecord_fields (stamp : W64) (rise : Bool) (gen : Byte) (n : Nat) :
    bits (captRecord stamp rise gen n) 0 3 = bits stamp 0 3 ∧ bits (captRecord stamp rise gen n) 3 21 = bits stamp 3 21
    ∧ bits (captRecord stamp rise gen n) 24 10 = bits stamp 24 10 ∧ bits (captRecord stamp rise gen n) 34 1 = BitVec.ofBool rise
    ∧ bits (captRecord stamp rise gen n) 35 8 = gen ∧ bits (captRecord stamp rise gen n) 43 2 = BitVec.ofNat 2 n
    ∧ bits (captRecord stamp rise gen n) 45 18 = 0#18 ∧ bits (captRecord stamp rise gen n) 63 1 = BitVec.ofBool true := by
  unfold captRecord flag
  refine ⟨?_, ?_, ?_, ?_, ?_, ?_, ?_, ?_⟩ <;>
    simp (disch := decide) only [bits_or, bits_place_same, bits_place_apart, BitVec.or_zero, BitVec.zero_or]

theorem bit_of_bits {w : Nat} {v : BitVec w} {i : Nat} {b : Bool} (h : bits v i 1 = BitVec.ofBool b) : bit v i = b := by
  rw [bit_eq_bits, h]
  cases b <;> rfl

/-! ### Every detector (R59, R552) -/

/-- The detectors of the device: cluster and number. -/
def detectors : List (Nat × Nat) := (List.range 6).flatMap (fun c => (List.range 4).map (fun n => (c, n)))

/-- A transition as every detector of a list sees it. -/
def seeAll (src : Byte) (stamp : W64) (at8 : Nat) (rise : Bool) (ks : List (Nat × Nat)) (s : State) : State :=
  ks.foldl (fun s k => modDet s k.1 k.2 (detSee k.2 src stamp at8 (genAt (getCluster s k.1) at8) rise)) s

theorem exec_capt (s : State) (source : BitVec 4) (stamp : W64) (rise : Bool) (h : msgBlocked s (sourceIod (source.setWidth 8)) 0x32 = false) :
    exec (.capt source stamp rise) s =
      let u := timLate (takeMsg s (sourceIod (source.setWidth 8)) 0x32) (sourceIod (source.setWidth 8)) stamp 0
      .next (seeAll (source.setWidth 8) stamp (stampEighths u.air stamp) rise detectors u) := by
  refine (if_neg (by rw [h]; decide)).trans ?_
  simp only [seeAll, detectors, List.foldl_flatMap, List.foldl_map]

theorem genAt_modDet (s : State) (c n : Nat) (f : Detector → Detector) (k at8 : Nat) :
    genAt (getCluster (modDet s c n f) k) at8 = genAt (getCluster s k) at8 := by
  by_cases hk : c = k
  · subst hk
    rw [modDet, getCluster_modCluster]
    rfl
  · rw [modDet, getCluster_modCluster_ne _ _ hk]

theorem getDet_modDet (s : State) (c n : Nat) (f : Detector → Detector) (k m : Nat) :
    getDet (getCluster (modDet s c n f) k) m = if (c, n) = (k, m) then f (getDet (getCluster s k) m) else getDet (getCluster s k) m := by
  by_cases hk : c = k
  · subst hk
    rw [modDet, getCluster_modCluster, getDet, tget_tmod]
    simp only [Prod.mk.injEq, true_and, getDet]
  · rw [modDet, getCluster_modCluster_ne _ _ hk, if_neg (fun h => hk (congrArg Prod.fst h))]

/-- Each detector of a list without repeats sees the transition once, as it stood before. -/
theorem getDet_seeAll (src : Byte) (stamp : W64) (at8 : Nat) (rise : Bool) (ks : List (Nat × Nat)) (hn : ks.Nodup) (s : State) (c n : Nat) :
    getDet (getCluster (seeAll src stamp at8 rise ks s) c) n =
      if (c, n) ∈ ks then detSee n src stamp at8 (genAt (getCluster s c) at8) rise (getDet (getCluster s c) n)
      else getDet (getCluster s c) n := by
  induction ks generalizing s with
  | nil => rfl
  | cons k ks ih =>
    obtain ⟨hk, hn⟩ := List.nodup_cons.1 hn
    rw [seeAll, List.foldl_cons, ← seeAll, ih hn, genAt_modDet, getDet_modDet]
    by_cases hc : k = (c, n)
    · subst hc
      simp [hk]
    · simp [hc, Ne.symm hc]

theorem seeAll_eq (src : Byte) (stamp : W64) (at8 : Nat) (rise : Bool) (ks : List (Nat × Nat)) (s : State) :
    seeAll src stamp at8 rise ks s = { s with clusters := (seeAll src stamp at8 rise ks s).clusters } := by
  induction ks generalizing s with
  | nil => rfl
  | cons k ks ih =>
    rw [seeAll, List.foldl_cons, ← seeAll, ih]
    rfl

theorem nodup_detectors : detectors.Nodup := by decide

theorem mem_detectors (c : Fin 6) (n : Fin 4) : (c.val, n.val) ∈ detectors := by
  simp [detectors]

theorem told_modGirth (s t : State) (g : Nat) (f : Girth → Girth) : told (modGirth s g f) t = told s t := by
  simp only [told, modGirth]

theorem told_takeMsg (s : State) (g : Nat) (opc : Byte) (t : State) : told (takeMsg s g opc) t = told s t := told_modGirth ..

theorem timLate_told (s : State) (g : Nat) (stamp : W64) (after : Nat) : timLate s g stamp after = told s (timLate s g stamp after) := by
  unfold timLate
  dsimp only
  split
  · rfl
  · rw [← told_modGirth s]
    exact report_told ..

theorem timLate_takeMsg_told (s : State) (g : Nat) (opc : Byte) (stamp : W64) (after : Nat) :
    timLate (takeMsg s g opc) g stamp after = told s (timLate (takeMsg s g opc) g stamp after) := by
  rw [← told_takeMsg s g opc]
  exact timLate_told ..

/-- Where reporting separates `u` from `s`, and clusters `t` from `u`. -/
theorem toldOnly_of_clusters {s u t : State} (hu : u = told s u) (ht : t = { u with clusters := t.clusters }) :
    ToldOnly { s with clusters := t.clusters } t := by
  generalize t.clusters = c at ht ⊢
  subst ht
  have h := congrArg (fun x : State => { x with clusters := c }) hu
  exact h

theorem air_of_told {s u : State} (h : u = told s u) : u.air = s.air := by rw [h]; rfl

theorem clusters_of_told {s u : State} (h : u = told s u) : u.clusters = s.clusters := by rw [h]; rfl

theorem getCluster_of_told {s u : State} (h : u = told s u) (c : Nat) : getCluster u c = getCluster s c := by
  rw [getCluster, clusters_of_told h, ← getCluster]

/-- What a transition does: every detector sees it, and the rest is reporting. -/
theorem capt_seen (s : State) (source : BitVec 4) (stamp : W64) (rise : Bool) (h : msgBlocked s (sourceIod (source.setWidth 8)) 0x32 = false) :
    ∃ t, exec (.capt source stamp rise) s = .next t ∧ ToldOnly { s with clusters := t.clusters } t ∧ ∀ (c : Fin 6) (n : Fin 4),
      getDet (getCluster t c.val) n.val = detSee n.val (source.setWidth 8) stamp (stampEighths s.air stamp)
        (genAt (getCluster s c.val) (stampEighths s.air stamp)) rise (getDet (getCluster s c.val) n.val) := by
  have hu := timLate_takeMsg_told s (sourceIod (source.setWidth 8)) 0x32 stamp 0
  have hex := exec_capt s source stamp rise h
  dsimp only at hex
  generalize timLate (takeMsg s (sourceIod (source.setWidth 8)) 0x32) (sourceIod (source.setWidth 8)) stamp 0 = u at hu hex
  rw [air_of_told hu] at hex
  refine ⟨_, hex, toldOnly_of_clusters hu (seeAll_eq ..), fun c n => ?_⟩
  rw [getDet_seeAll _ _ _ _ _ nodup_detectors, if_pos (mem_detectors c n), getCluster_of_told hu]

theorem debounceComplete_records (s : State) (cluster : Fin 6) (det : Fin 4) (p : Pend) (d : Detector)
    (hd : d = getDet (getCluster s cluster.val) det.val) (hp : d.pends = [p]) (hheld : p.at8 + 8 * p.debounce ≤ s.air.abs.toNat * 8) :
    ∃ t, exec (.debounceComplete cluster det) s = .next t ∧ (getDet (getCluster t cluster.val) det.val).pends = []
      ∧ (d.queue.length < 8 → (getDet (getCluster t cluster.val) det.val).queue = d.queue ++ [p.record]
          ∧ (getDet (getCluster t cluster.val) det.val).ovf = d.ovf)
      ∧ (8 ≤ d.queue.length → (getDet (getCluster t cluster.val) det.val).queue = d.queue ∧ (getDet (getCluster t cluster.val) det.val).ovf = true)
      ∧ t = { s with clusters := t.clusters } := by
  have hdone : pendDone p (s.air.abs.toNat * 8 + 7) = true := decide_eq_true (by omega)
  have hfind : (getDet (getCluster s cluster.val) det.val).pends.find? (fun p => pendDone p (s.air.abs.toNat * 8 + 7)) = some p := by
    simp only [← hd, hp, List.find?_cons, hdone]
  have hex : exec (.debounceComplete cluster det) s
      = .next (modDet s cluster.val det.val (fun d => detPush { d with pends := d.pends.erase p } p.record)) := by
    show execDebounceComplete cluster det s = _
    unfold execDebounceComplete
    rw [hfind]
  have hgot : getDet (getCluster (modDet s cluster.val det.val (fun d => detPush { d with pends := d.pends.erase p } p.record)) cluster.val)
      det.val = detPush { d with pends := [] } p.record := by
    rw [getDet_modDet, if_pos rfl, ← hd, hp, List.erase_cons_head]
  refine ⟨_, hex, ?_, fun hroom => ?_, fun hfull => ?_, rfl⟩
  · rw [hgot]
    unfold detPush
    split <;> rfl
  · rw [hgot, detPush_room (d := { d with pends := [] }) _ hroom]
    exact ⟨rfl, rfl⟩
  · rw [hgot, detPush_full (d := { d with pends := [] }) _ hfull]
    exact ⟨rfl, rfl⟩

/-- Settles O13: actions by `takeAct`'s two cases, IRQs by `raiseVector`'s three, captures by what one detector sees. -/
theorem gaitEventsAndCaptures : Obligations.GaitEventsAndCaptures := by
  refine ⟨fun s action target arg => ⟨fun g hg => ⟨fun hno => ?_, fun hyes => ?_⟩, takeAct_unasked, exec_irq_waits s⟩,
    fun s stall vector g u h hst => ⟨irq_held h hst, irq_pending h hst, irq_sent h hst⟩, ⟨?_, fun stamp rise gen n => ?_⟩,
    debounceComplete_records⟩
  · rw [takeAct_issued hg, if_neg]
    rw [heldBack_iff]
    exact fun ⟨x, hx, hsame⟩ => hno x hx hsame
  · rw [takeAct_issued hg, if_pos ((heldBack_iff s g).2 hyes)]
  · intro s source stamp rise cluster det d at8 hd hat hb
    obtain ⟨t, hex, htold, hsee⟩ := capt_seen s source stamp rise hb
    have hdet := hsee cluster det
    rw [← hd, ← hat] at hdet
    refine ⟨t, hex, htold, fun hp hsrc hpol => ?_, fun p hp hsrc hearly hpol => ?_, fun hp hsrc => ?_⟩
    · rw [hdet, detSee_starts hp (by rw [watches, hsrc, hpol, beq_self_eq_true, Bool.and_self])]
      exact ⟨rfl, rfl⟩
    · rw [hdet, detSee_ends hp hsrc hearly (by rw [watches, hpol, Bool.and_false])]
      exact ⟨rfl, rfl⟩
    · rw [hdet, detSee_other hp hsrc]
  · obtain ⟨h0, h3, h24, h34, h35, h43, h45, h63⟩ := captRecord_fields stamp rise gen n.val
    exact ⟨h0, h3, h24, bit_of_bits h34, h35, h43, h45, bit_of_bits h63⟩

end Sys2Proof.Machine
end

section
/-!
PROOFS. Chapter 01, the schooling step as a gait action: what it arms on the network at its ring's cursor, and the step that is
skipped (R50, R452, R453).
-/
namespace Sys2Proof.Machine

theorem getNet_modSe (s : State) (e : Nat) (f : SchoolE → SchoolE) (r : Nat) : getNet (modSe s e f) r = getNet s r := rfl

theorem stepNet_of_taps {s : State} {r : Nat} (h : (getNet s r).state = 1 ∨ (getNet s r).state = 3) :
    stepNet s r = modNet s r (fun x => { x with tap := some {} }) := by
  unfold stepNet
  obtain h | h := h <;> rw [h] <;> rfl

theorem stepNet_of_installs {s : State} {r : Nat} (h : (getNet s r).state = 2 ∨ (getNet s r).state = 4) :
    stepNet s r = arm s r (.install (decide ((getNet s r).state = 2))) := by
  unfold stepNet
  obtain h | h := h <;> rw [h] <;> rfl

section
variable {s u : State} {engine : Fin 2} {net : Byte} {g : GaitAct} {cfg : SchoolCfg} {i : Nat}

/-- SCHOOL_STEP of a network of the engine, at the record `r` of the ring's cursor. -/
theorem exec_schoolStep {r : Nat} (h : takeAct s 7 (BitVec.ofNat 8 engine.val) (fun a => bits a 0 8 == net) = some (g, u))
    (hcfg : s.hns.schoolNets.find? (fun n => n.net == net.toNat) = some cfg) (hown : seOwner s engine.val = some i)
    (hst : (getStall s i).state ≠ .resetting) (heng : cfg.engine = engine.val)
    (hr : r = tget ((ringOf s engine.val cfg.ring).headD 0) (getSe s engine.val).cursors cfg.ring) :
    exec (.schoolStep engine net) s =
      if (seBusy s engine.val).isSome || (getNet s r).tap.isSome || hasAction s r then
        .next (modSe { s with air := u.air } engine.val (fun x => { x with skip := satInc x.skip }))
      else .next (modSe (stepNet { s with air := u.air } r) engine.val
        (fun x => { x with cursors := tput x.cursors cfg.ring (nextInRing (ringOf s engine.val cfg.ring) r) })) := by
  have hu : u = { s with air := u.air } := takeAct_air (by decide) (by decide) h
  generalize u.air = a at hu ⊢
  subst hu hr
  show execSchoolStep engine net s = _
  unfold execSchoolStep
  dsimp only
  rw [h, hcfg, hown]
  exact if_neg (fun hor => hor.elim hst (fun hne => hne heng))

end

/-- Settles O40: a step taken is `stepNet` and the cursor's move, a step skipped the count alone. -/
theorem schoolStepActs : Obligations.SchoolStepActs := by
  intro s engine net cfg i r g u h hcfg hown hst heng hr
  have hex := exec_schoolStep h hcfg hown hst heng hr
  refine ⟨fun hbusy htap hact => ?_, fun hskip => ?_⟩
  · rw [hbusy, htap, hact] at hex
    replace hex : exec (.schoolStep engine net) s = _ := hex.trans (if_neg Bool.false_ne_true)
    refine ⟨fun hstate => ?_, fun hstate => ?_⟩
    · rw [stepNet_of_taps (s := { s with air := u.air }) hstate] at hex
      refine ⟨_, hex, ?_, ?_, fun x hx => ?_, rfl, rfl⟩
      · rw [getNet_modSe, getNet_modNet]
      · rw [getSe_modSe, tget_tput, if_pos rfl]
      · rw [getNet_modSe, getNet_modNet_ne _ _ hx.symm]
        rfl
    · rw [stepNet_of_installs (s := { s with air := u.air }) hstate] at hex
      exact ⟨_, hex, rfl, rfl, rfl⟩
  · rw [if_pos (by simpa only [Bool.or_eq_true, or_assoc] using hskip)] at hex
    refine ⟨_, hex, ?_, ?_, rfl, rfl, rfl⟩ <;> rw [getSe_modSe] <;> rfl

end Sys2Proof.Machine
end

section
/-!
PROOFS. What reporting, the loss of samples and a candidate's loss leave of the girth links, the I/O dies and the rest: the frame
that the proofs about links, dies and fences rest on.
-/
namespace Sys2Proof.Machine

/-! ### Reporting, as an equation of states -/

theorem told_trans {s t u : State} (h : t = told s t) (k : u = told t u) : u = told s u :=
  k.trans (congrArg (fun x => told x u) h :)

theorem kept_of_told {s t : State} (h : t = told s t) : UnitsKept s t ∧ PartKept s t :=
  kept_of_offAir (offAir_of_offRef (offRef_of_told h))

theorem getIod_of_told {s t : State} (h : t = told s t) (d : Nat) : getIod t d = getIod s d :=
  (congrArg (fun x => getIod x d) h :)

/-- States that differ in the girth links, the I/O dies, the Tether ports and the air state alone hold the same units and the same
part. -/
theorem kept_of_links {s t : State} (h : t = { s with girths := t.girths, iods := t.iods, tths := t.tths, air := t.air }) :
    UnitsKept s t ∧ PartKept s t := by
  rw [h]
  exact ⟨⟨rfl, rfl, rfl, rfl, rfl, rfl, rfl, rfl, rfl⟩, rfl, rfl, rfl, rfl, rfl, rfl, rfl, rfl, rfl, rfl, rfl, rfl⟩

/-! ### What touches the carriers' slots alone -/

/-- A state without its carriers. -/
def offSlots (s : State) : State := { s with carriers := [] }

@[simp] theorem offSlots_modCarrier (s : State) (c : Nat) (f : Carrier → Carrier) : offSlots (modCarrier s c f) = offSlots s := rfl

@[simp] theorem offSlots_modSlots (s : State) (c : Nat) (p : SlotRec → Bool) (f : SlotRec → SlotRec) :
    offSlots (modSlots s c p f) = offSlots s := rfl

@[simp] theorem offSlots_touchSlot (s : State) (c rel slot : Nat) : offSlots (touchSlot s c rel slot) = offSlots s := by
  unfold touchSlot touchPlace
  split
  · rfl
  · dsimp only
    split <;> rfl

@[simp] theorem offSlots_touchNow (s : State) (c : Nat) : offSlots (touchNow s c) = offSlots s := by
  unfold touchNow
  split
  · rfl
  · exact offSlots_touchSlot ..

@[simp] theorem offSlots_linkLost (s : State) (d : Nat) : offSlots (linkLost s d) = offSlots s := by
  refine foldl_keep offSlots _ (fun s c => ?_) _ _
  split
  · split
    · rw [offSlots_modSlots, offSlots_touchNow]
    · rfl
  · rfl

@[simp] theorem offSlots_samplesLost (s : State) (d : Nat) : offSlots (samplesLost s d) = offSlots s := by
  refine foldl_keep offSlots _ (fun s c => ?_) _ _
  split
  · split
    · rw [offSlots_modSlots, offSlots_touchNow]
    · rfl
  · rfl

@[simp] theorem offSlots_voidSlots (s : State) (p : Nat → Bool) : offSlots (voidSlots s p) = offSlots s := by
  refine foldl_keep offSlots _ (fun s c => ?_) _ _
  split
  · rw [offSlots_modCarrier, offSlots_touchNow]
  · rfl

@[simp] theorem offSlots_voidFor (s : State) (code : W16) (kind : BitVec 4) (unit : Nat) (stall : Option (BitVec 4)) :
    offSlots (voidFor s code kind unit stall) = offSlots s := by
  unfold voidFor
  split
  · exact offSlots_voidSlots ..
  · split
    · exact offSlots_voidSlots ..
    · split
      · exact offSlots_voidSlots ..
      · rfl

theorem eq_of_offSlots {s t : State} (h : offSlots t = offSlots s) : t = { s with carriers := t.carriers } :=
  (congrArg (fun x => { x with carriers := t.carriers }) h :)

theorem told_of_offSlots {s t : State} (h : offSlots t = offSlots s) : t = told s t := by
  rw [eq_of_offSlots h]
  rfl

/-- A fault of an I/O die is reported, and the slots that it breaks fail: nothing else. -/
theorem linkFault_told (s : State) (e : Event) (d : Nat) : linkLost (report s e) d = told s (linkLost (report s e) d) :=
  told_trans (report_told s e) (told_of_offSlots (offSlots_linkLost ..))

/-! ### What leaves the girth links alone, but for the messages queued to go out -/

/-- The girth links without the messages queued to go out. -/
def wires (s : State) (g : Nat) : Girth := { getGirth s g with outQ := [] }

theorem wires_modGirth (s : State) (g : Nat) (f : Girth → Girth) (h : ∀ x, { f x with outQ := [] } = { x with outQ := [] }) :
    wires (modGirth s g f) = wires s := by
  funext k
  unfold wires
  by_cases hk : g = k
  · subst hk
    rw [getGirth_modGirth]
    exact h _
  · rw [getGirth_modGirth_ne _ _ hk]

theorem wires_of_girths {s t : State} (h : t.girths = s.girths) : wires t = wires s := by
  funext g
  unfold wires getGirth
  rw [h]

theorem wires_of_offSlots {s t : State} (h : offSlots t = offSlots s) : wires t = wires s :=
  wires_of_girths (congrArg State.girths h :)

@[simp] theorem wires_modStall (s : State) (i : Nat) (f : Stall → Stall) : wires (modStall s i f) = wires s := rfl
@[simp] theorem wires_modTth (s : State) (p : Nat) (f : Tth → Tth) : wires (modTth s p f) = wires s := rfl
@[simp] theorem wires_modAir (s : State) (f : Air → Air) : wires (modAir s f) = wires s := rfl

@[simp] theorem wires_sendMsg (s : State) (g vc : Nat) (m : List Byte) : wires (sendMsg s g vc m) = wires s := by
  unfold sendMsg
  dsimp only
  split
  · rfl
  · exact wires_modGirth _ _ _ (fun _ => rfl)

@[simp] theorem wires_queueOut (s : State) (o : Out) : wires (queueOut s o) = wires s := by
  have hwrite : ∀ i a d, wires (sendWrite s i a d) = wires s := fun i a d => foldl_keep wires _ (fun _ _ => wires_sendMsg ..) _ _
  cases o with
  | mwr i a d => exact hwrite ..
  | msix i v a d => exact hwrite ..
  | mrd | cpl | rwr | rrd | time | tact => exact wires_sendMsg ..
  | _ => rfl

@[simp] theorem wires_emit (s : State) (o : Out) : wires (emit s o) = wires s := wires_queueOut s o

@[simp] theorem wires_raiseVector (s : State) (i : Nat) (v : BitVec 11) : wires (raiseVector s i v) = wires s := by
  unfold raiseVector
  split
  · rfl
  · unfold fireVector
    dsimp only
    split
    · exact wires_emit ..
    · rfl

@[simp] theorem wires_pushEvent (s : State) (e : Event) : wires (pushEvent s e) = wires s := by
  unfold pushEvent
  dsimp only
  split
  · rfl
  · split <;> rfl

@[simp] theorem wires_raiseSource (s : State) (src : W16) : wires (raiseSource s src) = wires s := by
  unfold raiseSource
  dsimp only
  split
  · rfl
  · split
    · exact wires_pushEvent ..
    · exact foldl_keep wires _ (fun _ _ => wires_raiseVector ..) _ _

@[simp] theorem wires_report (s : State) (e : Event) : wires (report s e) = wires s := by
  unfold report
  extract_lets lost s1 f1 f2 f3 s2
  have h2 : wires s2 = wires s := (wires_of_offSlots (offSlots_voidFor ..)).trans (wires_pushEvent s e)
  clear_value s2
  split
  · rw [wires_raiseSource, h2]
  · exact h2

@[simp] theorem wires_loseActive (s : State) : wires (loseActive s) = wires s := by
  unfold loseActive
  extract_lets s1 s2
  have h2 : wires s2 = wires s := by
    unfold s2
    split <;> rfl
  rw [refEvent, wires_report, h2]

@[simp] theorem wires_candUpdate (s : State) (src : Nat) (f : Candidate → Candidate) : wires (candUpdate s src f) = wires s := by
  unfold candUpdate
  extract_lets c c1 c2 c3 wasActive s1
  split
  · split
    · exact wires_loseActive s1
    · rfl
  · split
    · unfold evaluateRef
      split
      · rfl
      · split <;> rfl
    · rfl

/-! ### A Tether port whose I/O die is lost (R481) -/

theorem silencePort_absent {s : State} {p : Nat} (h : tethRec s p = none) : silencePort s p = s := by
  unfold silencePort
  rw [h]
  rfl

theorem silencePort_present {s : State} {p : Nat} (h : (tethRec s p).isSome = true) :
    silencePort s p = modTth (if (getTth s p).state = .up then tetherCandDown s p else s) p
      (fun t => { t with state := .noDie, phase := .none, store := [], chans := stopTimers t.chans }) := by
  unfold silencePort
  exact if_neg (by rw [Option.isSome_iff_ne_none] at h; simpa using h)

/-- What a port that falls silent leaves alone. -/
theorem silencePort_keeps {β : Type} (p : State → β) (htth : ∀ s n (f : Tth → Tth), p (modTth s n f) = p s)
    (hcand : ∀ s n f, p (candUpdate s n f) = p s) (s : State) (n : Nat) : p (silencePort s n) = p s := by
  cases h : tethRec s n with
  | none => rw [silencePort_absent h]
  | some r =>
    rw [silencePort_present (by rw [h]; rfl), htth]
    split
    · exact hcand ..
    · rfl

@[simp] theorem wires_silencePort (s : State) (p : Nat) : wires (silencePort s p) = wires s :=
  silencePort_keeps wires wires_modTth wires_candUpdate s p

@[simp] theorem offAir_silencePort (s : State) (p : Nat) : offAir (silencePort s p) = offAir s :=
  silencePort_keeps offAir offAir_modTth offAir_candUpdate s p

theorem getTth_candUpdate (s : State) (src : Nat) (f : Candidate → Candidate) (p : Nat) : getTth (candUpdate s src f) p = getTth s p :=
  getTth_of_offRef (offRef_candUpdate s src f) p

theorem silencePort_silences {s : State} {p : Nat} (h : (tethRec s p).isSome = true) : (getTth (silencePort s p) p).state = .noDie := by
  rw [silencePort_present h, getTth_modTth]

theorem getTth_silencePort_ne (s : State) {p q : Nat} (h : p ≠ q) : getTth (silencePort s p) q = getTth s q := by
  cases hp : tethRec s p with
  | none => rw [silencePort_absent hp]
  | some r =>
    rw [silencePort_present (by rw [hp]; rfl), getTth_modTth_ne _ _ h]
    split
    · exact getTth_candUpdate ..
    · rfl

end Sys2Proof.Machine
end

section
/-!
PROOFS. Chapter 15, the time channel (R547, R550, R551) and the converter links of the I/O dies (R91, R556, R557, R570, R573).
-/
namespace Sys2Proof.Machine

/-! ### TIME and TACT (R547, R550, R551, R572) -/

/-- A TIME message is due: a step, an ATM_EPOCH load or a retrain is to be told, or its tick is a multiple of 1,024 (R550). -/
def timeIsDue (s : State) (d : Nat) : Bool :=
  timeStep s d || (decide (s.air.tick.toNat % 1024 = 0) && (getGirth s d).timeAt != some s.air.abs)

theorem sendMsg_girths (s : State) (g vc : Nat) (m : List Byte) : sendMsg s g vc m = { s with girths := (sendMsg s g vc m).girths } := by
  unfold sendMsg
  dsimp only
  split <;> rfl

theorem emit_time_girths (s : State) (g : Nat) (w : W64) (step : Bool) (st : BitVec 3) (h : W32) (c : W64) :
    emit s (.time g w step st h c) =
      { s with girths := (emit s (.time g w step st h c)).girths, sent := (emit s (.time g w step st h c)).sent } :=
  (congrArg (fun x => { x with sent := .time g w step st h c :: s.sent })
    (sendMsg_girths s g 3 (message 0x30 (flag 16 0 step) 0 0 16 w ([st.setWidth 8, 0, 0, 0] ++ bytesOf h ++ bytesOf c))) :)

/-- A TIME message as it goes out: on the link's queue, and with what it tells no longer due. -/
theorem timeSend_sends (s : State) (d : Fin 2) (hst : (getGirth s d.val).state = .active) (hdue : timeIsDue s d.val = true) :
    ∃ t, exec (.timeSend d) s = .next t
      ∧ t.sent.head? = some (.time d.val (airStamp s.air) (timeStep s d.val) (refCode s.air.state) (BitVec.ofNat 32 (holdEst s))
        (BitVec.ofInt 64 s.air.corr))
      ∧ timeStep t d.val = false ∧ (getGirth t d.val).timeAt = some s.air.abs ∧ t = { s with girths := t.girths, sent := t.sent } := by
  refine ⟨_, if_pos ⟨hst, hdue⟩, rfl, ?_, ?_, ?_⟩
  · simp only [timeStep, emit_girth_timeDue, emit_girth_timeSteps, emit_girth_timeLoads, emit_air, getGirth_modGirth, modGirth_air]
    simp
  · rw [emit_girth_timeAt, getGirth_modGirth]
  · exact emit_time_girths ..

theorem timeSend_waits (s : State) (d : Fin 2) (h : (getGirth s d.val).state ≠ .active ∨ timeIsDue s d.val = false) :
    exec (.timeSend d) s = .next s :=
  if_neg fun ⟨hst, hdue⟩ => h.elim (· hst) fun hno => Bool.false_ne_true (hno.symm.trans hdue)

/-- What an I/O die's count becomes: the stamp in eighths and the link's latency (R551). -/
def timeCount (s : State) (d : Nat) (stamp : W64) : W64 :=
  BitVec.ofNat 64 (stampCount stamp) + BitVec.ofNat 64 (((getGirth s d).lat.toNat * 49152 + 50000) / 100000)

@[simp] theorem getIod_modGirth (s : State) (g : Nat) (f : Girth → Girth) (d : Nat) : getIod (modGirth s g f) d = getIod s d := rfl

/-- An I/O die that has taken a TIME message, its count set to `e`. -/
def timeSet (s : State) (d : Nat) (e : W64) : State :=
  modIod s d (fun x => { x with
    count := e, countAt := s.now, corr := BitVec.ofInt 64 s.air.corr, refState := refCode s.air.state, holdEst := BitVec.ofNat 32 (holdEst s) })

theorem exec_time (s : State) (d : Fin 2) (stamp count : W64) :
    exec (.time d stamp false count) s = .next (if 1 < (count - timeCount s d.val stamp).toInt.natAbs
      then modGirth (timeSet s d.val (timeCount s d.val stamp)) d.val (fun x => { x with timeAdj := satInc x.timeAdj })
      else timeSet s d.val (timeCount s d.val stamp)) := by
  show execTime d stamp false count s = _
  unfold execTime timeSet timeCount
  rw [if_neg Bool.false_ne_true]

/-- What a TIME message leaves of the die, and of the link's count of corrections by more than one. -/
theorem timeSet_sets (s : State) (d : Nat) (e count : W64) :
    ∃ t, (if 1 < (count - e).toInt.natAbs then modGirth (timeSet s d e) d (fun x => { x with timeAdj := satInc x.timeAdj })
        else timeSet s d e) = t
      ∧ (getIod t d).count = e
      ∧ (getGirth t d).timeAdj = (if 1 < (count - (getIod t d).count).toInt.natAbs then satInc (getGirth s d).timeAdj
          else (getGirth s d).timeAdj)
      ∧ (getIod t d).refState = refCode s.air.state ∧ (∀ q, q ≠ d → getIod t q = getIod s q) ∧ UnitsKept s t ∧ PartKept s t := by
  have hcount : (getIod (timeSet s d e) d).count = e := by rw [timeSet, getIod_modIod]
  have href : (getIod (timeSet s d e) d).refState = refCode s.air.state := by rw [timeSet, getIod_modIod]
  have hother : ∀ q, q ≠ d → getIod (timeSet s d e) q = getIod s q := fun _ hq => getIod_modIod_ne _ _ hq.symm
  have hgirth : getGirth (timeSet s d e) d = getGirth s d := rfl
  by_cases hfar : 1 < (count - e).toInt.natAbs
  · refine ⟨_, if_pos hfar, ?_⟩
    simp only [getIod_modGirth, getGirth_modGirth, hcount, if_pos hfar, hgirth]
    exact ⟨trivial, trivial, href, hother, kept_of_links rfl⟩
  · refine ⟨_, if_neg hfar, ?_⟩
    simp only [hcount, if_neg hfar, hgirth]
    exact ⟨trivial, trivial, href, hother, kept_of_links rfl⟩

theorem time_sets (s : State) (d : Fin 2) (stamp count : W64) :
    ∃ t, exec (.time d stamp false count) s = .next t
      ∧ (getIod t d.val).count = timeCount s d.val stamp
      ∧ (getGirth t d.val).timeAdj = (if 1 < (count - (getIod t d.val).count).toInt.natAbs then satInc (getGirth s d.val).timeAdj
          else (getGirth s d.val).timeAdj)
      ∧ (getIod t d.val).refState = refCode s.air.state ∧ (∀ q, q ≠ d.val → getIod t q = getIod s q) ∧ UnitsKept s t ∧ PartKept s t := by
  obtain ⟨t, ht, hfacts⟩ := timeSet_sets s d.val (timeCount s d.val stamp) count
  exact ⟨t, (exec_time ..).trans (congrArg Host.Outcome.next ht), hfacts⟩

theorem tact_waits (s : State) (d : Fin 2) (port : Fin 4) (action : BitVec 6) (stamp : W64) (h : (getGirth s d.val).state = .active) :
    ∃ t, exec (.tact d port action stamp) s = .next t
      ∧ (getIod t d.val).tacts = (getIod s d.val).tacts ++ [(port.val, action, stamp)] ∧ t = { s with iods := t.iods } :=
  ⟨_, if_pos h, by rw [getIod_modIod], rfl⟩

theorem tact_skipped (s : State) (d : Fin 2) (port : Fin 4) (action : BitVec 6) (stamp : W64) (h : (getGirth s d.val).state ≠ .active) :
    ∃ t, exec (.tact d port action stamp) s = .next t
      ∧ (getTth t port.val).timeSkip = satInc (getTth s port.val).timeSkip ∧ UnitsKept s t ∧ PartKept s t := by
  refine ⟨_, if_neg h, ?_⟩
  rw [getTth_modTth]
  split <;> exact ⟨rfl, kept_of_links rfl⟩

/-! ### SYSREF and the alignment of a die (R556, R557) -/

theorem sysrefEdge_off (s : State) (d : Fin 2) (stamp : W64) (h : bit (getIod s d.val).cfg 2 = false) : exec (.sysrefEdge d stamp) s = .next s :=
  if_pos h

/-- An edge that fixes the boundaries: the first one, or the first after RESYNC. -/
theorem sysrefEdge_fixes (s : State) (d : Fin 2) (stamp : W64) (hon : bit (getIod s d.val).cfg 2 = true)
    (hmis : (getIod s d.val).misalign = false) (hfix : (getIod s d.val).realign = true ∨ (getIod s d.val).sysref = none) :
    ∃ t, exec (.sysrefEdge d stamp) s = .next t ∧ (getIod t d.val).sysref = some (sysrefPlace s stamp) ∧ (getIod t d.val).aligned = true
      ∧ (getIod t d.val).realign = false
      ∧ (getIod t d.val).lemc = BitVec.ofNat 6 ((stampCount stamp + 7) / 8 + (bits (getIod s d.val).cfg 8 6).toNat)
      ∧ (∀ q, q ≠ d.val → getIod t q = getIod s q) ∧ t = { s with iods := t.iods } := by
  have hfixed : (((getIod s d.val).realign || (getIod s d.val).sysref.isNone) && !(getIod s d.val).misalign) = true := by
    rw [hmis]
    obtain h | h := hfix <;> simp [h]
  refine ⟨_, (if_neg (by rw [hon]; decide)).trans (if_pos hfixed), ?_⟩
  rw [getIod_modIod]
  exact ⟨rfl, rfl, rfl, rfl, fun q hq => getIod_modIod_ne _ _ hq.symm, rfl⟩

section
variable {s : State} {d : Fin 2} {r : BitVec 9}

/-- An edge that is held against the boundaries `r`. -/
theorem sysrefEdge_held (stamp : W64) (hon : bit (getIod s d.val).cfg 2 = true) (hr : (getIod s d.val).sysref = some r)
    (hfix : (getIod s d.val).realign = false ∨ (getIod s d.val).misalign = true) :
    exec (.sysrefEdge d stamp) s =
      if 4 < (sysrefPlace s stamp - r).toNat ∧ (sysrefPlace s stamp - r).toNat < 508 then
        .next (linkLost (report (modIod s d.val (fun io => { io with misalign := true, misSeen := true }))
          { code := 0x4008, kind := 0xC, unit := BitVec.ofNat 8 d.val, data := [BitVec.ofNat 8 d.val] }) d.val)
      else .next s := by
  have hfixed : ¬ (((getIod s d.val).realign || (getIod s d.val).sysref.isNone) && !(getIod s d.val).misalign) = true := by
    rw [hr]
    obtain h | h := hfix <;> simp [h]
  refine ((if_neg (by rw [hon]; decide)).trans (if_neg hfixed)).trans ?_
  rw [hr]
  rfl

theorem sysrefEdge_misaligns (stamp : W64) (hon : bit (getIod s d.val).cfg 2 = true) (hr : (getIod s d.val).sysref = some r)
    (hfix : (getIod s d.val).realign = false ∨ (getIod s d.val).misalign = true) (h4 : 4 < (sysrefPlace s stamp - r).toNat)
    (h508 : (sysrefPlace s stamp - r).toNat < 508) :
    ∃ t, exec (.sysrefEdge d stamp) s = .next t ∧ (getIod t d.val).misalign = true ∧ (getIod t d.val).misSeen = true
      ∧ (getIod t d.val).sysref = some r ∧ UnitsKept s t ∧ PartKept s t := by
  refine ⟨_, (sysrefEdge_held stamp hon hr hfix).trans (if_pos ⟨h4, h508⟩), ?_⟩
  have htold := linkFault_told (modIod s d.val (fun io => { io with misalign := true, misSeen := true }))
    { code := 0x4008, kind := 0xC, unit := BitVec.ofNat 8 d.val, data := [BitVec.ofNat 8 d.val] } d.val
  rw [getIod_of_told htold, getIod_modIod]
  exact ⟨rfl, rfl, hr, (kept_of_told htold :)⟩

theorem sysrefEdge_agrees (stamp : W64) (hon : bit (getIod s d.val).cfg 2 = true) (hr : (getIod s d.val).sysref = some r)
    (hfix : (getIod s d.val).realign = false ∨ (getIod s d.val).misalign = true)
    (hnear : (sysrefPlace s stamp - r).toNat ≤ 4 ∨ 508 ≤ (sysrefPlace s stamp - r).toNat) : exec (.sysrefEdge d stamp) s = .next s :=
  (sysrefEdge_held stamp hon hr hfix).trans (if_neg (by omega))

end

theorem rxcResync_realigns (s : State) (d : Fin 2) (ho : MgmtOpen s) :
    ∃ t, exec (.rxcResync d) s = .next t ∧ (getIod t d.val).misalign = false ∧ (getIod t d.val).realign = true
      ∧ (getIod t d.val).aligned = false ∧ (getIod t d.val).sysref = none ∧ (∀ q, q ≠ d.val → getIod t q = getIod s q)
      ∧ UnitsKept s t ∧ PartKept (unheld s 0) t := by
  refine ⟨_, exec_mgmt rfl ho, ?_⟩
  have htold := told_of_offSlots (offSlots_linkLost
    (modIod (unheld s 0) d.val (fun io => { io with misalign := false, realign := true, aligned := false, sysref := none })) d.val)
  have hd := getIod_of_told htold d.val
  rw [getIod_modIod] at hd
  refine ⟨congrArg Iod.misalign hd, congrArg Iod.realign hd, congrArg Iod.aligned hd, congrArg Iod.sysref hd, fun q hq => ?_, (kept_of_told htold :)⟩
  exact (getIod_of_told htold q).trans (getIod_modIod_ne _ _ hq.symm)

/-! ### Lanes and the clocks' ratio (R91, R570, R573) -/

/-- A fault marks one die and is reported. -/
theorem dieFault_marks (s : State) (d : Nat) (f : Iod → Iod) (e : Event) :
    getIod (linkLost (report (modIod s d f) e) d) d = f (getIod s d)
      ∧ (∀ q, q ≠ d → getIod (linkLost (report (modIod s d f) e) d) q = getIod s q)
      ∧ UnitsKept s (linkLost (report (modIod s d f) e) d) ∧ PartKept s (linkLost (report (modIod s d f) e) d) := by
  have htold := linkFault_told (modIod s d f) e d
  refine ⟨?_, fun q hq => ?_, (kept_of_told htold :)⟩
  · rw [getIod_of_told htold, getIod_modIod]
  · rw [getIod_of_told htold, getIod_modIod_ne _ _ hq.symm]

theorem jesdLaneLoss_marks (s : State) (d : Fin 2) (lane : BitVec 4) (errors : W32) :
    ∃ t, exec (.jesdLaneLoss d lane errors) s = .next t ∧ (getIod t d.val).lanes = setBit (getIod s d.val).lanes lane.toNat false
      ∧ (getIod t d.val).laneErr = satAdd (getIod s d.val).laneErr errors.toNat
      ∧ (∀ q, q ≠ d.val → getIod t q = getIod s q) ∧ UnitsKept s t ∧ PartKept s t := by
  obtain ⟨hd, hother, hkept⟩ := dieFault_marks s d.val
    (fun io => { io with lanes := setBit io.lanes lane.toNat false, laneErr := satAdd io.laneErr errors.toNat })
    { code := 0x4009, kind := 0xC, unit := BitVec.ofNat 8 d.val, data := [lane.setWidth 8] }
  exact ⟨_, rfl, congrArg Iod.lanes hd, congrArg Iod.laneErr hd, hother, hkept⟩

theorem jesdLaneSync_marks (s : State) (d : Fin 2) (lane : BitVec 4) :
    ∃ t, exec (.jesdLaneSync d lane) s = .next t ∧ (getIod t d.val).lanes = setBit (getIod s d.val).lanes lane.toNat true
      ∧ (∀ q, q ≠ d.val → getIod t q = getIod s q) ∧ t = { s with iods := t.iods } :=
  ⟨_, rfl, by rw [getIod_modIod], fun _ hq => getIod_modIod_ne _ _ hq.symm, rfl⟩

theorem cnvRatioFault_marks (s : State) (d : Fin 2) (ppb : W32) (h : (getIod s d.val).ratioBad = false) :
    ∃ t, exec (.cnvRatioFault d ppb) s = .next t ∧ (getIod t d.val).ratioBad = true
      ∧ (∀ q, q ≠ d.val → getIod t q = getIod s q) ∧ UnitsKept s t ∧ PartKept s t := by
  obtain ⟨hd, hother, hkept⟩ := dieFault_marks s d.val (fun io => { io with ratioBad := true })
    { code := 0x400A, kind := 0xC, unit := BitVec.ofNat 8 d.val, data := [BitVec.ofNat 8 d.val] ++ bytesOf ppb }
  exact ⟨_, if_neg (by rw [h]; decide), congrArg Iod.ratioBad hd, hother, hkept⟩

theorem cnvRatioRestored_clears (s : State) (d : Fin 2) :
    ∃ t, exec (.cnvRatioRestored d) s = .next t ∧ getIod t d.val = { getIod s d.val with ratioBad := false }
      ∧ (∀ q, q ≠ d.val → getIod t q = getIod s q) ∧ t = { s with iods := t.iods } :=
  ⟨_, rfl, getIod_modIod .., fun _ hq => getIod_modIod_ne _ _ hq.symm, rfl⟩

/-- Settles O50: each command of the time channel and of the converter links, by its rule above. -/
theorem timeChannelAndConverters : Obligations.TimeChannelAndConverters := fun s d =>
  ⟨timeSend_sends s d, timeSend_waits s d, time_sets s d, fun _ _ => rfl,
    fun port action stamp => ⟨tact_waits s d port action stamp, tact_skipped s d port action stamp⟩,
    fun stamp hon => ⟨sysrefEdge_fixes s d stamp hon, fun _ hr hfix =>
      ⟨sysrefEdge_misaligns stamp hon hr hfix, sysrefEdge_agrees stamp hon hr hfix⟩⟩,
    fun hoff stamp => sysrefEdge_off s d stamp hoff, rxcResync_realigns s d,
    fun lane errors => ⟨jesdLaneLoss_marks s d lane errors, jesdLaneSync_marks s d lane⟩,
    cnvRatioFault_marks s d, fun _ hbad => if_pos hbad, cnvRatioRestored_clears s d⟩

end Sys2Proof.Machine
end

section
/-!
PROOFS. Chapter 15, girth links: retrains, the training phases, the link that becomes ACTIVE, and the one that fails (R87, R533 to
R536, R541, R543, R544).
-/
namespace Sys2Proof.Machine

/-! ### Requests that waited for the link -/

theorem settleHeld_settled {s : State} {g : Nat} (h : (getGirth s g).state = .active ∨ (getGirth s g).state = .failed) :
    settleHeld s g = (getGirth s g).held.foldl runHeld (modGirth s g (fun y => { y with held := [] })) := if_pos h

theorem settleHeld_trains {s : State} {g : Nat} (h : (getGirth s g).state = .training ∨ (getGirth s g).state = .retrain) :
    settleHeld s g = s := if_neg (by obtain h | h := h <;> rw [h] <;> decide)

/-! ### A retrain (R534, R536) -/

theorem getGirth_of_offSlots {s t : State} (h : offSlots t = offSlots s) (g : Nat) : getGirth t g = getGirth s g :=
  (congrArg (fun x => getGirth x g) h :)

theorem wires_modGirth_same (s : State) (g : Nat) (f : Girth → Girth) :
    wires (modGirth s g f) g = { f (getGirth s g) with outQ := [] } := by
  unfold wires
  rw [getGirth_modGirth]

theorem wires_startRetrain (s : State) (g : Nat) (cause : Byte) :
    wires (startRetrain s g cause) g = { leaveActive s.now (getGirth s g) with
      state := .retrain, phase := .clock, full := false, retrained := true, retrain := satInc (getGirth s g).retrain, crcTimes := [],
      outQ := [] } := by
  unfold startRetrain
  dsimp only
  rw [wires_report, wires_modGirth_same, getGirth_of_offSlots (offSlots_samplesLost s g)]

theorem offAir_modGirth (s : State) (g : Nat) (f : Girth → Girth) : offAir (modGirth s g f) = offAir s := rfl

theorem offAir_samplesLost (s : State) (d : Nat) : offAir (samplesLost s d) = offAir s :=
  offAir_of_offRef (offRef_of_told (told_of_offSlots (offSlots_samplesLost s d)))

theorem offAir_startRetrain (s : State) (g : Nat) (cause : Byte) : offAir (startRetrain s g cause) = offAir s := by
  unfold startRetrain
  rw [offAir_of_offRef (offRef_report ..), offAir_modGirth, offAir_samplesLost]

/-- What a retrain makes of the link: the phases start anew, and the flits that wait for acknowledgement stay. -/
theorem startRetrain_retrains (s : State) (g : Nat) (cause : Byte) :
    (getGirth (startRetrain s g cause) g).state = .retrain ∧ (getGirth (startRetrain s g cause) g).phase = .clock
      ∧ (getGirth (startRetrain s g cause) g).full = false
      ∧ (getGirth (startRetrain s g cause) g).retrain = satInc (getGirth s g).retrain
      ∧ (getGirth (startRetrain s g cause) g).buf = (getGirth s g).buf
      ∧ (getGirth (startRetrain s g cause) g).rxSeq = (getGirth s g).rxSeq
      ∧ (getGirth (startRetrain s g cause) g).failRun = (getGirth s g).failRun
      ∧ UnitsKept s (startRetrain s g cause) ∧ PartKept s (startRetrain s g cause) := by
  have h := wires_startRetrain s g cause
  exact ⟨(congrArg Girth.state h :), (congrArg Girth.phase h :), (congrArg Girth.full h :), (congrArg Girth.retrain h :), (congrArg Girth.buf h :),
    (congrArg Girth.rxSeq h :), (congrArg Girth.failRun h :), kept_of_offAir (offAir_startRetrain s g cause)⟩

theorem retrainOp_active {s : State} {g : Nat} (cause : Byte) (h : (getGirth s g).state = .active) :
    retrainOp s g cause = startRetrain s g cause := if_pos h

theorem retrainOp_other {s : State} {g : Nat} (cause : Byte) (h : (getGirth s g).state ≠ .active) : retrainOp s g cause = s := if_neg h

theorem grtRetrain_retrains (s : State) (g : Fin 2) (h : (getGirth s g.val).state = .active) (cause : BitVec 3) :
    ∃ t, exec (.grtRetrain g cause) s = .next t ∧ (getGirth t g.val).state = .retrain ∧ (getGirth t g.val).phase = .clock
      ∧ (getGirth t g.val).full = false ∧ (getGirth t g.val).retrain = satInc (getGirth s g.val).retrain
      ∧ (getGirth t g.val).buf = (getGirth s g.val).buf ∧ (getGirth t g.val).rxSeq = (getGirth s g.val).rxSeq
      ∧ UnitsKept s t ∧ PartKept s t := by
  obtain ⟨hst, hph, hfull, hcnt, hbuf, hseq, -, hkept⟩ := startRetrain_retrains s g.val (cause.setWidth 8)
  exact ⟨_, congrArg Host.Outcome.next (retrainOp_active _ h), hst, hph, hfull, hcnt, hbuf, hseq, hkept⟩

theorem grtCtlRetrain_retrains (s : State) (g : Fin 2) (h : (getGirth s g.val).state = .active) (ho : MgmtOpen s) :
    ∃ t, exec (.grtCtlRetrain g) s = .next t ∧ (getGirth t g.val).state = .retrain
      ∧ (getGirth t g.val).retrain = satInc (getGirth s g.val).retrain ∧ UnitsKept s t ∧ PartKept (unheld s 0) t := by
  obtain ⟨hst, -, -, hcnt, -, -, -, hkept⟩ := startRetrain_retrains (unheld s 0) g.val 5
  exact ⟨_, (exec_mgmt rfl ho).trans (congrArg Host.Outcome.next (retrainOp_active (s := unheld s 0) 5 h)), hst, hcnt, hkept⟩

theorem retrain_waits (s : State) (g : Fin 2) (h : (getGirth s g.val).state ≠ .active) :
    (∀ cause, exec (.grtRetrain g cause) s = .next s) ∧ (MgmtOpen s → exec (.grtCtlRetrain g) s = .next (unheld s 0)) :=
  ⟨fun _ => congrArg Host.Outcome.next (retrainOp_other _ h),
    fun ho => (exec_mgmt rfl ho).trans (congrArg Host.Outcome.next (retrainOp_other (s := unheld s 0) 5 h))⟩

/-! ### Failure (R87) -/

theorem wires_girthFail (s : State) (g : Nat) (cause : BitVec 4) :
    wires (girthFail s g cause) g = { leaveActive s.now (getGirth s g) with
      state := .failed, phase := .none, failCause := cause, buf := [], resend := [], nakAt := none, nakDue := false, outQ := [],
      ctrlQ := [], inQ := [], reqs := [], reqWait := [] } := by
  unfold girthFail
  dsimp only
  rw [wires_report, wires_of_offSlots (offSlots_linkLost ..), wires_candUpdate, wires_silencePort, wires_silencePort,
    wires_modGirth_same]

theorem offAir_girthFail (s : State) (g : Nat) (cause : BitVec 4) : offAir (girthFail s g cause) = offAir s := by
  unfold girthFail
  extract_lets s1 s2 s3 s4
  have h1 : offAir s1 = offAir s := rfl
  have h2 : offAir s2 = offAir s := (offAir_silencePort ..).trans ((offAir_silencePort ..).trans h1)
  have h3 : offAir s3 = offAir s := (offAir_candUpdate ..).trans h2
  have h4 : offAir s4 = offAir s := (offAir_of_offRef (offRef_of_told (told_of_offSlots (offSlots_linkLost s3 g)))).trans h3
  exact (offAir_of_offRef (offRef_report ..)).trans h4

theorem tethRec_of_offAir {s t : State} (h : offAir t = offAir s) (p : Nat) : tethRec t p = tethRec s p :=
  (congrArg (fun x => tethRec x p) h :)

theorem girthFail_silences (s : State) (g : Nat) (cause : BitVec 4) (p : Nat) (hp : p / 2 = g) (hrec : (tethRec s p).isSome = true) :
    (getTth (girthFail s g cause) p).state = .noDie := by
  unfold girthFail
  extract_lets s1 s2 s3 s4
  have h4 : offRef s4 = offRef s3 := offRef_of_told (told_of_offSlots (offSlots_linkLost s3 g))
  rw [getTth_of_offRef (offRef_report ..), getTth_of_offRef h4, getTth_candUpdate]
  obtain rfl | rfl : p = 2 * g ∨ p = 2 * g + 1 := by omega
  · rw [getTth_silencePort_ne _ (by omega)]
    exact silencePort_silences hrec
  · refine silencePort_silences ?_
    rw [tethRec_of_offAir (offAir_silencePort ..)]
    exact hrec

/-- A link that fails: its ports are silent, and the requests that waited go on. -/
theorem settleHeld_girthFail (s : State) (g : Nat) (cause : BitVec 4) :
    ∃ t, settleHeld (girthFail s g cause) g = (getGirth s g).held.foldl runHeld t ∧ (getGirth t g).state = .failed ∧ (getGirth t g).held = []
      ∧ (getGirth t g).failCause = cause ∧ (getGirth t g).buf = [] ∧ (getGirth t g).inQ = []
      ∧ (∀ p, p / 2 = g → (tethRec s p).isSome = true → (getTth t p).state = .noDie) ∧ UnitsKept s t ∧ PartKept s t := by
  have h := wires_girthFail s g cause
  have hst : (getGirth (girthFail s g cause) g).state = .failed := (congrArg Girth.state h :)
  have hheld : (getGirth (girthFail s g cause) g).held = (getGirth s g).held := (congrArg Girth.held h :)
  refine ⟨modGirth (girthFail s g cause) g (fun y => { y with held := [] }), ?_, ?_⟩
  · rw [settleHeld_settled (.inr hst), hheld]
  · rw [getGirth_modGirth]
    exact ⟨hst, rfl, (congrArg Girth.failCause h :), (congrArg Girth.buf h :), (congrArg Girth.inQ h :), girthFail_silences s g cause,
      kept_of_offAir (offAir_girthFail s g cause)⟩

theorem girthWindow_bare {s : State} {g : Nat} (h : (getGirth s g).state = .active ∨ (getGirth s g).state = .retrain)
    (hb : windowBare s.now (getGirth s g) = true) : girthWindow s g = girthFail s g 6 := if_pos ⟨h, hb⟩

theorem girthWindow_covered {s : State} {g : Nat} (hb : windowBare s.now (getGirth s g) = false) : girthWindow s g = s :=
  if_neg fun h => Bool.false_ne_true (hb.symm.trans h.2)

theorem girthFailWindow_fails (s : State) (g : Fin 2) (h : (getGirth s g.val).state = .active ∨ (getGirth s g.val).state = .retrain)
    (hb : windowBare s.now (getGirth s g.val) = true) :
    ∃ t, exec (.girthFailWindow g) s = .next ((getGirth s g.val).held.foldl runHeld t)
      ∧ (getGirth t g.val).state = .failed ∧ (getGirth t g.val).held = []
      ∧ (getGirth t g.val).failCause = 6 ∧ (getGirth t g.val).buf = [] ∧ (getGirth t g.val).inQ = []
      ∧ (∀ p, p / 2 = g.val → (tethRec s p).isSome = true → (getTth t p).state = .noDie) ∧ UnitsKept s t ∧ PartKept s t := by
  obtain ⟨t, ht, hfails⟩ := settleHeld_girthFail s g.val 6
  rw [← girthWindow_bare h hb] at ht
  exact ⟨t, congrArg Host.Outcome.next ht, hfails⟩

theorem girthFailWindow_settles (s : State) (g : Fin 2) (hb : windowBare s.now (getGirth s g.val) = false) :
    ((getGirth s g.val).state = .retrain → exec (.girthFailWindow g) s = .next s) ∧
    ((getGirth s g.val).state = .active → ∃ t, exec (.girthFailWindow g) s = .next ((getGirth s g.val).held.foldl runHeld t)
      ∧ getGirth t g.val = { getGirth s g.val with held := [] } ∧ (∀ h, h ≠ g.val → getGirth t h = getGirth s h)
      ∧ t = { s with girths := t.girths }) := by
  have hex : exec (.girthFailWindow g) s = .next (settleHeld s g.val) :=
    congrArg (fun x => Host.Outcome.next (settleHeld x g.val)) (girthWindow_covered hb)
  refine ⟨fun h => ?_, fun h => ?_⟩
  · rw [hex, settleHeld_trains (.inr h)]
  · rw [hex, settleHeld_settled (.inl h)]
    exact ⟨_, rfl, getGirth_modGirth .., fun _ hq => getGirth_modGirth_ne _ _ hq.symm, rfl⟩

/-! ### The replay timeout (R541) -/

theorem grtReplayTimeout_replays (s : State) (g : Fin 2) (hst : (getGirth s g.val).state = .active) (hbuf : (getGirth s g.val).buf ≠ [])
    (hre : (getGirth s g.val).resend = []) (hlate : 256000 ≤ (s.now - (getGirth s g.val).ackAt) * 8138) :
    ∃ t, exec (.grtReplayTimeout g) s = .next t
      ∧ (getGirth t g.val).resend = (getGirth s g.val).buf.map (·.seq) ∧ (getGirth t g.val).replay = satInc (getGirth s g.val).replay
      ∧ (getGirth t g.val).buf = (getGirth s g.val).buf ∧ t = { s with girths := t.girths } := by
  have hbuf' : (getGirth s g.val).buf.isEmpty = false := by simpa using hbuf
  have hre' : (getGirth s g.val).resend.isEmpty = true := by rw [hre]; rfl
  refine ⟨_, if_pos ⟨hst, hbuf', hre', hlate⟩, ?_⟩
  rw [getGirth_modGirth]
  exact ⟨rfl, rfl, rfl, rfl⟩

theorem grtReplayTimeout_waits (s : State) (g : Fin 2) (h : (s.now - (getGirth s g.val).ackAt) * 8138 < 256000) :
    exec (.grtReplayTimeout g) s = .next s := if_neg fun hall => absurd hall.2.2.2 (Nat.not_le.2 h)

/-! ### The training phases (R534, R535, R544) -/

section
variable {s : State} {g : Fin 2} {param : GirthParam}

theorem exec_phaseEnd {cause : BitVec 4} {t : State} (h : settleHeld (girthPhaseEnd s g.val cause param) g.val = t) :
    exec (.grtTrainingPhaseEnd g cause param) s = .next t := congrArg Host.Outcome.next h

variable (htr : (getGirth s g.val).state = .training ∨ (getGirth s g.val).state = .retrain)
include htr

/-- What went wrong in a phase of itself makes the training fail. -/
theorem girthPhaseEnd_wrong {cause : BitVec 4} (h : phaseCause (getGirth s g.val).phase cause = true) :
    girthPhaseEnd s g.val cause param = trainingFailed s g.val cause :=
  (if_neg fun hno => htr.elim hno.1 hno.2).trans (if_pos h)

theorem girthPhaseEnd_clock (h : (getGirth s g.val).phase = .clock) :
    girthPhaseEnd s g.val 0 param = modGirth s g.val (fun x => { x with phase := .pattern }) := by
  refine (if_neg fun hno => htr.elim hno.1 hno.2).trans ((if_neg ?_).trans ?_) <;> rw [h]
  decide

theorem girthPhaseEnd_pattern (h : (getGirth s g.val).phase = .pattern) :
    girthPhaseEnd s g.val 0 param = modGirth s g.val (fun x => { x with phase := .repair }) := by
  refine (if_neg fun hno => htr.elim hno.1 hno.2).trans ((if_neg ?_).trans ?_) <;> rw [h]
  decide

theorem girthPhaseEnd_repair (h : (getGirth s g.val).phase = .repair) :
    girthPhaseEnd s g.val 0 param = beginParam s g.val param.faulty := by
  refine (if_neg fun hno => htr.elim hno.1 hno.2).trans ((if_neg ?_).trans ?_) <;> rw [h]
  decide

/-- The last phase, with a PARAM that is acceptable: the link is ACTIVE, unless a retrain meets another die. -/
theorem girthPhaseEnd_param (h : (getGirth s g.val).phase = .param) (hok : paramOk param = true) :
    girthPhaseEnd s g.val 0 param =
      if !(getGirth s g.val).full && !((getGirth s g.val).peer.any (sameDie param)) then trainingFailed s g.val 4
      else linkActive s g.val param := by
  refine (if_neg fun hno => htr.elim hno.1 hno.2).trans ((if_neg ?_).trans ?_) <;> rw [h]
  · decide
  · exact if_neg (by rw [hok]; decide)

/-- A phase whose end leaves the link in training: no request goes on. -/
theorem exec_phaseEnd_trains {f : Girth → Girth} (hf : (f (getGirth s g.val)).state = (getGirth s g.val).state)
    (h : girthPhaseEnd s g.val 0 param = modGirth s g.val f) : exec (.grtTrainingPhaseEnd g 0 param) s = .next (modGirth s g.val f) := by
  refine exec_phaseEnd ?_
  rw [h, settleHeld_trains]
  rwa [getGirth_modGirth, hf]

end
/-! ### The link becomes ACTIVE (R535, R539, R543, R544) -/

/-- Reading a table that was filled key by key. -/
theorem tget_foldl_tset {α : Type} [DecidableEq α] (d : α) (f : Nat → α) (ks : List Nat) (t : Table α) (j : Nat) :
    tget d (ks.foldl (fun t k => tset d t k (f k)) t) j = if j ∈ ks then f j else tget d t j := by
  induction ks generalizing t with
  | nil => rfl
  | cons k ks ih =>
    rw [List.foldl_cons, ih, tget_tset]
    by_cases hk : k = j
    · subst hk
      simp
    · simp [hk, Ne.symm hk]

/-- A link after full training: fresh sequences, the peer's credit to spend and the device's own granted. -/
def freshLink (now : Nat) (m : GirthParam) (x : Girth) : Girth :=
  { x with
    state := .active, phase := .none, txScr := laneStart, rxScr := laneStart, lat := latencyOf m, failRun := 0, activeAt := some now,
    timeDue := !x.full, ackAt := now, peer := some m, txSeq := 0, rxSeq := 0, ackValid := false, acked := 0xFFF, used := [],
    limit := (List.range 4).foldl (fun t v => tset 0 t v (m.credInit.getD v 0)) [],
    granted := (List.range 4).foldl (fun t v => tset 0 t v (ownCredits v)) [] }

/-- A link after a retrain: its sequences go on, and what the peer did not get is resent. -/
def resumedLink (now : Nat) (m : GirthParam) (x : Girth) : Girth :=
  let y := ackFlits now (m.nextSeq - 1) { x with
    state := .active, phase := .none, txScr := laneStart, rxScr := laneStart, lat := latencyOf m, failRun := 0, activeAt := some now,
    timeDue := !x.full, ackAt := now }
  { y with resend := y.buf.map (·.seq), nakAt := none }

theorem linkActive_fresh {s : State} {g : Nat} (m : GirthParam) (h : (getGirth s g).full = true) :
    getGirth (linkActive s g m) g = freshLink s.now m (getGirth s g) ∧ linkActive s g m = { s with girths := (linkActive s g m).girths } := by
  unfold linkActive
  dsimp only
  rw [if_pos h]
  refine ⟨?_, rfl⟩
  rw [getGirth_modGirth, getGirth_modGirth]
  rfl

theorem linkActive_resumed {s : State} {g : Nat} (m : GirthParam) (h : (getGirth s g).full = false) :
    getGirth (linkActive s g m) g = resumedLink s.now m (getGirth s g) ∧ UnitsKept s (linkActive s g m) ∧ PartKept s (linkActive s g m) := by
  unfold linkActive
  dsimp only
  rw [if_neg (by rw [h]; decide)]
  refine ⟨?_, kept_of_offAir ?_⟩
  · rw [getGirth_of_offSlots (offSlots_samplesLost ..), getGirth_modGirth, getGirth_modGirth, getGirth_modGirth]
    rfl
  · rw [offAir_samplesLost, offAir_modGirth, offAir_modGirth, offAir_modGirth]

/-- An acknowledgement changes what is kept for a resend, and when it was last heard. -/
theorem ackFlits_eq (now : Nat) (a : BitVec 12) (x : Girth) :
    ackFlits now a x = { x with
      acked := (ackFlits now a x).acked, ackAt := (ackFlits now a x).ackAt, buf := (ackFlits now a x).buf,
      resend := (ackFlits now a x).resend } := by
  unfold ackFlits
  split <;> rfl

theorem resumedLink_goesOn (now : Nat) (m : GirthParam) (x : Girth) :
    (resumedLink now m x).state = .active ∧ (resumedLink now m x).txSeq = x.txSeq ∧ (resumedLink now m x).rxSeq = x.rxSeq
      ∧ (resumedLink now m x).timeDue = !x.full ∧ (resumedLink now m x).held = x.held
      ∧ (resumedLink now m x).resend = (resumedLink now m x).buf.map (·.seq) := by
  unfold resumedLink
  rw [ackFlits_eq]
  exact ⟨rfl, rfl, rfl, rfl, rfl, rfl⟩

/-- The credit of a fresh link: the peer's to spend, none of it used, and the device's own granted. -/
theorem freshLink_credit (now : Nat) (m : GirthParam) (x : Girth) (v : Nat) (h : v < 4) :
    tget 0 (freshLink now m x).limit v = m.credInit.getD v 0 ∧ tget 0 (freshLink now m x).used v = 0
      ∧ tget 0 (freshLink now m x).granted v = ([64, 128, 128, 32] : List W16).getD v 0 := by
  have hv : v ∈ List.range 4 := List.mem_range.2 h
  have hown : ∀ v < 4, ownCredits v = ([64, 128, 128, 32] : List W16).getD v 0 := by decide
  refine ⟨?_, rfl, ?_⟩
  · exact (tget_foldl_tset 0 (fun v => m.credInit.getD v 0) _ _ v).trans (if_pos hv)
  · exact (tget_foldl_tset 0 ownCredits _ _ v).trans ((if_pos hv).trans (hown v h))

/-! ### The ends of the phases -/

section
variable (s : State) (g : Fin 2) (param : GirthParam)
variable (htr : (getGirth s g.val).state = .training ∨ (getGirth s g.val).state = .retrain)
include htr

theorem phaseEnd_clock (h : (getGirth s g.val).phase = .clock) :
    ∃ t, exec (.grtTrainingPhaseEnd g 0 param) s = .next t ∧ (getGirth t g.val).phase = .pattern ∧ t = { s with girths := t.girths } :=
  ⟨_, exec_phaseEnd_trains htr rfl (girthPhaseEnd_clock htr h), by rw [getGirth_modGirth], rfl⟩

theorem phaseEnd_pattern (h : (getGirth s g.val).phase = .pattern) :
    ∃ t, exec (.grtTrainingPhaseEnd g 0 param) s = .next t ∧ (getGirth t g.val).phase = .repair ∧ t = { s with girths := t.girths } :=
  ⟨_, exec_phaseEnd_trains htr rfl (girthPhaseEnd_pattern htr h), by rw [getGirth_modGirth], rfl⟩

theorem phaseEnd_repair (h : (getGirth s g.val).phase = .repair) :
    ∃ t, exec (.grtTrainingPhaseEnd g 0 param) s = .next t ∧ (getGirth t g.val).phase = .param
      ∧ (getGirth t g.val).faulty = param.faulty ∧ (getGirth t g.val).txScr = laneStart ∧ (getGirth t g.val).rxScr = laneStart
      ∧ (getGirth t g.val).ctrlQ.head? = some (ownParam (getGirth s g.val)) ∧ (getGirth t g.val).ctrlQ.length = 9
      ∧ (∀ b ∈ (getGirth t g.val).ctrlQ.drop 1, b.take 8 = [2, 0, 0, 0, 0, 0, 0, 0])
      ∧ t = { s with girths := t.girths, free := t.free } := by
  have hex : exec (.grtTrainingPhaseEnd g 0 param) s = .next (beginParam s g.val param.faulty) := by
    refine exec_phaseEnd ?_
    rw [girthPhaseEnd_repair htr h, settleHeld_trains]
    rwa [beginParam, getGirth_modGirth]
  refine ⟨_, hex, ?_⟩
  rw [beginParam, getGirth_modGirth]
  refine ⟨rfl, rfl, rfl, rfl, rfl, rfl, fun b hb => ?_, rfl⟩
  obtain ⟨k, -, rfl⟩ := List.mem_map.1 hb
  rfl

theorem phaseEnd_param_full (h : (getGirth s g.val).phase = .param) (hok : paramOk param = true) (hfull : (getGirth s g.val).full = true) :
    ∃ t, exec (.grtTrainingPhaseEnd g 0 param) s = .next ((getGirth s g.val).held.foldl runHeld t)
      ∧ (getGirth t g.val).state = .active ∧ (getGirth t g.val).phase = .none ∧ (getGirth t g.val).lat = latencyOf param
      ∧ (getGirth t g.val).txScr = laneStart ∧ (getGirth t g.val).rxScr = laneStart ∧ (getGirth t g.val).txSeq = 0
      ∧ (getGirth t g.val).rxSeq = 0 ∧ (getGirth t g.val).peer = some param
      ∧ (∀ v, v < 4 → tget 0 (getGirth t g.val).limit v = param.credInit.getD v 0 ∧ tget 0 (getGirth t g.val).used v = 0
          ∧ tget 0 (getGirth t g.val).granted v = ([64, 128, 128, 32] : List W16).getD v 0)
      ∧ t = { s with girths := t.girths } := by
  obtain ⟨hlink, hrest⟩ := linkActive_fresh param hfull
  have hend : girthPhaseEnd s g.val 0 param = linkActive s g.val param :=
    (girthPhaseEnd_param htr h hok).trans (if_neg (by simp [hfull]))
  refine ⟨modGirth (linkActive s g.val param) g.val (fun y => { y with held := [] }), exec_phaseEnd ?_, ?_⟩
  · rw [hend, settleHeld_settled (.inl (by rw [hlink]; rfl)), hlink]
    rfl
  · rw [getGirth_modGirth, hlink]
    exact ⟨rfl, rfl, rfl, rfl, rfl, rfl, rfl, rfl, freshLink_credit s.now param (getGirth s g.val),
      congrArg (fun x => modGirth x g.val (fun y => { y with held := [] })) hrest⟩

theorem phaseEnd_param_same (h : (getGirth s g.val).phase = .param) (hok : paramOk param = true) (hfull : (getGirth s g.val).full = false)
    (p : GirthParam) (hpeer : (getGirth s g.val).peer = some p) (hsame : sameDie param p = true) :
    ∃ t, exec (.grtTrainingPhaseEnd g 0 param) s = .next ((getGirth s g.val).held.foldl runHeld t) ∧ (getGirth t g.val).state = .active
      ∧ (getGirth t g.val).txSeq = (getGirth s g.val).txSeq ∧ (getGirth t g.val).rxSeq = (getGirth s g.val).rxSeq
      ∧ (getGirth t g.val).timeDue = true ∧ (getGirth t g.val).resend = (getGirth t g.val).buf.map (·.seq)
      ∧ UnitsKept s t ∧ PartKept s t := by
  obtain ⟨hlink, hkept⟩ := linkActive_resumed param hfull
  obtain ⟨hst, htx, hrx, hdue, hheld, hre⟩ := resumedLink_goesOn s.now param (getGirth s g.val)
  have hend : girthPhaseEnd s g.val 0 param = linkActive s g.val param :=
    (girthPhaseEnd_param htr h hok).trans (if_neg (by simp [hpeer, hsame]))
  refine ⟨modGirth (linkActive s g.val param) g.val (fun y => { y with held := [] }), exec_phaseEnd ?_, ?_⟩
  · rw [hend, settleHeld_settled (.inl (by rw [hlink, hst])), hlink, hheld]
  · rw [getGirth_modGirth, hlink]
    exact ⟨hst, htx, hrx, hdue.trans (by rw [hfull]; rfl), hre, hkept⟩

theorem phaseEnd_param_other (h : (getGirth s g.val).phase = .param) (hok : paramOk param = true) (hfull : (getGirth s g.val).full = false)
    (hother : ∀ p, (getGirth s g.val).peer = some p → sameDie param p = false) :
    ∃ t, exec (.grtTrainingPhaseEnd g 0 param) s = .next ((getGirth s g.val).held.foldl runHeld t)
      ∧ (getGirth t g.val).state = .failed ∧ (getGirth t g.val).failCause = 4 := by
  have hany : (getGirth s g.val).peer.any (sameDie param) = false := by
    cases hp : (getGirth s g.val).peer with
    | none => rfl
    | some p => exact hother p hp
  have hend : girthPhaseEnd s g.val 0 param = girthFail s g.val 4 :=
    (girthPhaseEnd_param htr h hok).trans ((if_pos (by rw [hfull, hany]; rfl)).trans (if_pos (.inr rfl)))
  obtain ⟨t, ht, hst, -, hcause, -⟩ := settleHeld_girthFail s g.val 4
  rw [← hend] at ht
  exact ⟨t, exec_phaseEnd ht, hst, hcause⟩

/-! ### A phase that goes wrong (R87, R534) -/

omit htr in
theorem phaseCause_of_cases {ph : GirthPhase} {cause : BitVec 4}
    (h : ph = .clock ∧ (cause = 1 ∨ cause = 5) ∨ (ph = .pattern ∨ ph = .repair) ∧ (cause = 2 ∨ cause = 5) ∨ ph = .param ∧ cause = 5) :
    phaseCause ph cause = true := by
  obtain ⟨rfl, rfl | rfl⟩ | ⟨rfl | rfl, rfl | rfl⟩ | ⟨rfl, rfl⟩ := h <;> rfl

omit htr in
/-- No phase has cause 4 of itself, which is another die's alone. -/
theorem phaseCause_ne_four {ph : GirthPhase} {cause : BitVec 4} (h : phaseCause ph cause = true) : cause ≠ 4 := by
  rintro rfl
  cases ph <;> cases h

variable {cause : BitVec 4} (hc : phaseCause (getGirth s g.val).phase cause = true)
include hc

theorem phaseEnd_wrong_full (hfull : (getGirth s g.val).full = true) :
    ∃ t, exec (.grtTrainingPhaseEnd g cause param) s = .next ((getGirth s g.val).held.foldl runHeld t)
      ∧ (getGirth t g.val).state = .failed ∧ (getGirth t g.val).failCause = cause ∧ UnitsKept s t ∧ PartKept s t := by
  have hend : girthPhaseEnd s g.val cause param = girthFail s g.val cause := (girthPhaseEnd_wrong htr hc).trans (if_pos (.inl hfull))
  obtain ⟨t, ht, hst, -, hcause, -, -, -, hkept⟩ := settleHeld_girthFail s g.val cause
  rw [← hend] at ht
  exact ⟨t, exec_phaseEnd ht, hst, hcause, hkept⟩

theorem phaseEnd_wrong_third (hfull : (getGirth s g.val).full = false) (hrun : 2 ≤ (getGirth s g.val).failRun) :
    ∃ t, exec (.grtTrainingPhaseEnd g cause param) s = .next ((getGirth s g.val).held.foldl runHeld t)
      ∧ (getGirth t g.val).state = .failed ∧ (getGirth t g.val).failCause = 6 ∧ UnitsKept s t ∧ PartKept s t := by
  have hno : ¬ ((getGirth s g.val).full = true ∨ cause = 4) := by
    rw [hfull]
    exact fun hor => hor.elim Bool.false_ne_true (phaseCause_ne_four hc)
  have hend : girthPhaseEnd s g.val cause param = girthFail s g.val 6 :=
    (girthPhaseEnd_wrong htr hc).trans ((if_neg hno).trans (if_pos hrun))
  obtain ⟨t, ht, hst, -, hcause, -, -, -, hkept⟩ := settleHeld_girthFail s g.val 6
  rw [← hend] at ht
  exact ⟨t, exec_phaseEnd ht, hst, hcause, hkept⟩

theorem phaseEnd_wrong_again (hfull : (getGirth s g.val).full = false) (hrun : (getGirth s g.val).failRun < 2) :
    ∃ t, exec (.grtTrainingPhaseEnd g cause param) s = .next t ∧ (getGirth t g.val).state = .retrain
      ∧ (getGirth t g.val).failRun = (getGirth s g.val).failRun + 1 ∧ UnitsKept s t ∧ PartKept s t := by
  have hno : ¬ ((getGirth s g.val).full = true ∨ cause = 4) := by
    rw [hfull]
    exact fun hor => hor.elim Bool.false_ne_true (phaseCause_ne_four hc)
  have hend : girthPhaseEnd s g.val cause param = startRetrain (modGirth s g.val (fun x => { x with failRun := x.failRun + 1 })) g.val 3 :=
    (girthPhaseEnd_wrong htr hc).trans ((if_neg hno).trans (if_neg (Nat.not_le.2 hrun)))
  obtain ⟨hst, -, -, -, -, -, hcount, hkept⟩ :=
    startRetrain_retrains (modGirth s g.val (fun x => { x with failRun := x.failRun + 1 })) g.val 3
  refine ⟨_, exec_phaseEnd ?_, hst, hcount.trans (by rw [getGirth_modGirth]), hkept⟩
  rw [hend, settleHeld_trains (.inr hst)]

end

/-- Settles O48: what starts a retrain, what fails a link, and the end of each training phase, by the rules above. -/
theorem girthTrainsAndFails : Obligations.GirthTrainsAndFails := by
  intro s g
  refine ⟨fun hact => ⟨grtRetrain_retrains s g hact, grtCtlRetrain_retrains s g hact⟩, retrain_waits s g,
    fun hup => ⟨girthFailWindow_fails s g hup, girthFailWindow_settles s g⟩,
    fun hact hbuf hre => ⟨grtReplayTimeout_replays s g hact hbuf hre, grtReplayTimeout_waits s g⟩, fun htr param => ?_⟩
  refine ⟨phaseEnd_clock s g param htr, phaseEnd_pattern s g param htr, phaseEnd_repair s g param htr,
    phaseEnd_param_full s g param htr, fun h hok hfull => ?_, fun cause hcases => ?_⟩
  · exact ⟨phaseEnd_param_same s g param htr h hok hfull, phaseEnd_param_other s g param htr h hok hfull⟩
  · have hc := phaseCause_of_cases hcases
    exact ⟨phaseEnd_wrong_full s g param htr hc, phaseEnd_wrong_third s g param htr hc, phaseEnd_wrong_again s g param htr hc⟩

end Sys2Proof.Machine
end

section
/-!
PROOFS. Chapter 02, the fallback map: the end of a reserve-bank load, and the slot boundary at which a ready replacement takes over
(R82, R114, R347).
-/
namespace Sys2Proof.Machine

/-- A fold over a list with `k` in it brings about what the step at `k` does and every step keeps; `I` is an invariant of the fold. -/
theorem foldl_reaches {σ α : Type} (g : σ → α → σ) (I P : σ → Prop) {k : α} (hinv : ∀ s a, I s → I (g s a))
    (hkeep : ∀ s a, I s → P s → P (g s a)) (hreach : ∀ s, I s → P (g s k)) {l : List α} (hk : k ∈ l) {s : σ} (hs : I s) :
    P (l.foldl g s) := by
  have hall : ∀ (l : List α) s, I s → (k ∈ l ∨ P s) → P (l.foldl g s) := by
    intro l
    induction l with
    | nil => exact fun s _ h => h.resolve_left List.not_mem_nil
    | cons a l ih =>
      intro s hs h
      refine ih _ (hinv s a hs) ?_
      obtain hmem | hp := h
      · obtain rfl | hl := List.mem_cons.1 hmem
        · exact .inr (hreach s hs)
        · exact .inl hl
      · exact .inr (hkeep s a hs hp)
  exact hall l s hs (.inl hk)

/-! ### What a network's load into a reserve bank leaves alone (R224, R300) -/

/-- A state as the load of a reserve bank of array `n` leaves it: nothing of the stalls, the feeders, memory and array `n`. -/
def offLoad (n : Nat) (s : State) : State × (Nat → ArrayU) :=
  ({ s with arrays := [], stalls := [], feeders := [], mem := {} }, fun m => if m = n then {} else getArr s m)

@[simp] theorem offLoad_modStall (n : Nat) (s : State) (i : Nat) (f : Stall → Stall) : offLoad n (modStall s i f) = offLoad n s := rfl

@[simp] theorem offLoad_modArr (n : Nat) (s : State) (f : ArrayU → ArrayU) : offLoad n (modArr s n f) = offLoad n s := by
  refine Prod.ext rfl (funext fun m => ?_)
  by_cases hm : m = n
  · simp [offLoad, hm]
  · simp [offLoad, hm, getArr_modArr_ne _ _ (Ne.symm hm)]

/-- The fallback replacements that wait at each stall. -/
def remapsOf (s : State) (i : Nat) : List Remap := (getStall s i).remaps

theorem remapsOf_modStall (s : State) (i : Nat) (f : Stall → Stall) (h : ∀ x, (f x).remaps = x.remaps) :
    remapsOf (modStall s i f) = remapsOf s := by
  funext k
  unfold remapsOf
  by_cases hk : i = k
  · subst hk
    rw [getStall_modStall, h]
  · rw [getStall_modStall_ne _ _ hk]

/-- A load of array `n` keeps what is beside it, and every stall's replacements. -/
def loadKeeps (n : Nat) (s : State) : (State × (Nat → ArrayU)) × (Nat → List Remap) := (offLoad n s, remapsOf s)

theorem loadKeeps_regionTouch (m : Nat) (s : State) (i x n : Nat) (alloc : Bool) : loadKeeps m (regionTouch s i x n alloc) = loadKeeps m s := by
  refine foldl_keep (loadKeeps m) _ (fun s l => ?_) _ _
  refine Prod.ext rfl (remapsOf_modStall _ _ _ fun x => ?_)
  split <;> rfl

theorem loadKeeps_countDev (m : Nat) (s : State) (i xfers rd wr : Nat) : loadKeeps m (countDev s i xfers rd wr) = loadKeeps m s := by
  unfold countDev
  split <;> exact Prod.ext rfl (remapsOf_modStall _ _ _ fun _ => rfl)

theorem loadKeeps_loadNet (n : Nat) (s : State) (x : NetCfg) : loadKeeps n (loadNet s n x) = loadKeeps n s := by
  unfold loadNet
  extract_lets i bs bad s1
  have h1 : loadKeeps n s1 = loadKeeps n s := by
    unfold s1
    split
    · exact loadKeeps_regionTouch ..
    · rfl
  rw [← h1, ← loadKeeps_countDev n s1 i 1 bs.length 0]
  exact Prod.ext (offLoad_modArr ..) rfl

/-! ### The end of a reserve-bank load (R82 step 4) -/

/-- A replacement by array `n` is ready. -/
def markReady (n : Nat) (r : Remap) : Remap := if r.kind == 1 && r.replace == some n then { r with ready := true } else r

/-- Whether a replacement by array `n` waits for the load that a feeder of the stall moves; as `reserveLoaded` asks it of the state
`s0` it begins in. -/
def waitsLoad (s0 : State) (n i : Nat) (r : Remap) : Bool := r.kind == 1 && r.replace == some n && !r.ready && (devFeeder s0 i).isSome

/-- What the end of a load of array `n` does for one stall: its networks lie in the bank, and its replacements are ready. -/
def reserveStep (s0 : State) (n : Nat) (s : State) (i : Nat) : State :=
  let rs := (getStall s i).remaps.filter (waitsLoad s0 n i)
  let nets := s.hns.nets.filter (fun x => rs.any (fun r => carrierUses s x.carrier 1 r.failed))
  let s := nets.foldl (fun s x => loadNet s n x) s
  let s := modArr s n (fun a => { a with rsvStall := some i })
  modStall s i (fun st => { st with remaps := st.remaps.map (markReady n) })

theorem reserveLoaded_eq (s : State) (n : Nat) : reserveLoaded s n =
    ((List.range 16).filter (fun i => (getStall s i).remaps.any (waitsLoad s n i))).foldl (reserveStep s n) s := rfl

theorem offLoad_reserveStep (s0 : State) (n : Nat) (s : State) (i : Nat) : offLoad n (reserveStep s0 n s i) = offLoad n s := by
  unfold reserveStep
  dsimp only
  rw [offLoad_modStall, offLoad_modArr]
  exact congrArg Prod.fst (foldl_keep (loadKeeps n) _ (fun s x => loadKeeps_loadNet n s x) _ s)

theorem offLoad_reserveLoaded (s : State) (n : Nat) : offLoad n (reserveLoaded s n) = offLoad n s :=
  foldl_keep (offLoad n) _ (offLoad_reserveStep s n) _ s

theorem remapsOf_reserveStep (s0 : State) (n : Nat) (s : State) (i k : Nat) :
    remapsOf (reserveStep s0 n s i) k = if i = k then (remapsOf s k).map (markReady n) else remapsOf s k := by
  unfold reserveStep
  extract_lets rs nets s1 s2
  have h2 : remapsOf s2 = remapsOf s := congrArg Prod.snd (foldl_keep (loadKeeps n) _ (fun s x => loadKeeps_loadNet n s x) nets s)
  rw [← h2]
  unfold remapsOf
  by_cases hk : i = k
  · subst hk
    rw [getStall_modStall, if_pos rfl]
  · rw [getStall_modStall_ne _ _ hk, if_neg hk]

/-- Every replacement of stall `i` by array `n` is ready. -/
def allReady (n i : Nat) (s : State) : Prop := ∀ r ∈ remapsOf s i, r.kind = 1 → r.replace = some n → r.ready = true

/-- A replacement that is marked is ready, and one that was ready stays so. -/
theorem markReady_ready (n : Nat) (r : Remap) (hk : (markReady n r).kind = 1) (hrep : (markReady n r).replace = some n) :
    (markReady n r).ready = true := by
  unfold markReady at *
  split
  · rfl
  next hno =>
    rw [if_neg hno] at hk hrep
    simp [hk, hrep] at hno

theorem allReady_reserveStep {n i : Nat} {s : State} (s0 : State) (k : Nat) (h : k = i ∨ allReady n i s) : allReady n i (reserveStep s0 n s k) := by
  intro r hr hkind hrep
  rw [remapsOf_reserveStep] at hr
  split at hr
  · obtain ⟨r', -, rfl⟩ := List.mem_map.1 hr
    exact markReady_ready n r' hkind hrep
  next hne => exact h.resolve_left hne r hr hkind hrep

theorem reserveLoaded_ready (s : State) (n i : Nat) (hi : i < 16) (hdev : (devFeeder s i).isSome = true) : allReady n i (reserveLoaded s n) := by
  rw [reserveLoaded_eq]
  by_cases hmover : (remapsOf s i).any (waitsLoad s n i) = true
  · refine foldl_reaches (reserveStep s n) (fun _ => True) (allReady n i) (k := i) (fun _ _ _ => trivial)
      (fun s' k _ h => allReady_reserveStep s k (.inr h)) (fun s' _ => allReady_reserveStep s i (.inl rfl)) ?_ trivial
    exact List.mem_filter.2 ⟨List.mem_range.2 hi, hmover⟩
  · refine List.foldlRecOn (motive := allReady n i) _ _ (fun r hr hkind hrep => ?_) fun s' h k _ => allReady_reserveStep s k (.inr h)
    by_contra hready
    exact hmover (List.any_eq_true.2 ⟨r, hr, by simp [waitsLoad, hkind, hrep, hready, hdev]⟩)

theorem reserveLoadDone_ends (s : State) (arr : Fin 8) (h : arrUsable s arr.val = true) :
    ∃ t, exec (.reserveLoadDone arr) s = .next t
      ∧ (∀ i, i < 16 → (devFeeder s i).isSome = true → ∀ r ∈ (getStall t i).remaps, r.kind = 1 → r.replace = some arr.val → r.ready = true)
      ∧ (∀ m, m ≠ arr.val → getArr t m = getArr s m) ∧ t.mem.hbm = s.mem.hbm
      ∧ t = { s with arrays := t.arrays, stalls := t.stalls, feeders := t.feeders, mem := t.mem } := by
  have hoff := offLoad_reserveLoaded s arr.val
  have harr := congrArg Prod.snd hoff
  refine ⟨_, if_pos h, fun i hi hdev => reserveLoaded_ready s arr.val i hi hdev, fun m hm => ?_, ?_, ?_⟩
  · simpa [offLoad, hm] using congrFun harr m
  · exact (congrArg Lasting.hbm (still_reserveLoaded s arr.val) :)
  · exact (congrArg (fun x : State × (Nat → ArrayU) => { x.1 with
      arrays := (reserveLoaded s arr.val).arrays, stalls := (reserveLoaded s arr.val).stalls,
      feeders := (reserveLoaded s arr.val).feeders, mem := (reserveLoaded s arr.val).mem }) hoff :)

/-! ### The carriers move to the new array (R82 step 5) -/

/-- The array that a carrier's tasks run on. -/
def arrayOf (s : State) (c : Nat) : Nat := (getCarrier s c).array

theorem arrayOf_modCarrier (s : State) (c : Nat) (f : Carrier → Carrier) (h : ∀ x, (f x).array = x.array) :
    arrayOf (modCarrier s c f) = arrayOf s := by
  funext k
  unfold arrayOf
  by_cases hk : c = k
  · subst hk
    rw [getCarrier_modCarrier, h]
  · rw [getCarrier_modCarrier_ne _ _ hk]

theorem arrayOf_failWaiting (s : State) (c : Nat) : arrayOf (failWaiting s c) = arrayOf s := by
  unfold failWaiting
  split
  · rfl
  · exact arrayOf_modCarrier _ _ _ fun _ => rfl

theorem offSlots_failWaiting (s : State) (c : Nat) : offSlots (failWaiting s c) = offSlots s := by
  unfold failWaiting
  split <;> rfl

theorem carrierCfg_of_offSlots {s t : State} (h : offSlots t = offSlots s) (c : Nat) : carrierCfg t c = carrierCfg s c :=
  (congrArg (fun x => carrierCfg x c) h :)

/-- One carrier moves from the lost array to `m`, if it used the lost one. -/
def moveCarrier (failed m : Nat) (s : State) (c : Nat) : State :=
  if carrierUses s c 1 failed then modCarrier (failWaiting s c) c (fun ca => { ca with array := m }) else s

theorem applyRemap_array {s : State} {i m : Nat} {r : Remap} (hk : r.kind = 1) (hrep : r.replace = some m) :
    applyRemap s i r = (stallCarriers s i).foldl (moveCarrier r.failed m) s := by
  unfold applyRemap
  rw [hrep, hk]
  rfl

theorem carrierUses_array (s : State) (c failed : Nat) :
    carrierUses s c 1 failed = true ↔ (carrierCfg s c).isSome = true ∧ arrayOf s c = failed := by
  unfold carrierUses arrayOf
  cases carrierCfg s c <;> simp

theorem offSlots_moveCarrier (failed m : Nat) (s : State) (c : Nat) : offSlots (moveCarrier failed m s c) = offSlots s := by
  unfold moveCarrier
  split
  · rw [offSlots_modCarrier, offSlots_failWaiting]
  · rfl

theorem arrayOf_moveCarrier_ne (failed m : Nat) (s : State) {c k : Nat} (h : c ≠ k) : arrayOf (moveCarrier failed m s c) k = arrayOf s k := by
  unfold moveCarrier
  split
  · unfold arrayOf
    rw [getCarrier_modCarrier_ne _ _ h]
    exact congrFun (arrayOf_failWaiting s c) k
  · rfl

theorem arrayOf_moveCarrier_uses {failed m : Nat} {s : State} {c : Nat} (h : carrierUses s c 1 failed = true) :
    arrayOf (moveCarrier failed m s c) c = m := by
  unfold moveCarrier
  rw [if_pos h]
  unfold arrayOf
  rw [getCarrier_modCarrier]

theorem moveCarrier_stays {failed m : Nat} {s : State} {c : Nat} (h : carrierUses s c 1 failed ≠ true) : moveCarrier failed m s c = s :=
  if_neg h

/-- A carrier moves, or stays as it is. -/
theorem arrayOf_moveCarrier_cases (failed m : Nat) (s : State) (c k : Nat) :
    arrayOf (moveCarrier failed m s c) k = arrayOf s k ∨ arrayOf s k = failed ∧ arrayOf (moveCarrier failed m s c) k = m := by
  by_cases hk : c = k
  · subst hk
    by_cases hu : carrierUses s c 1 failed = true
    · exact .inr ⟨((carrierUses_array ..).1 hu).2, arrayOf_moveCarrier_uses hu⟩
    · rw [moveCarrier_stays hu]
      exact .inl rfl
  · exact .inl (arrayOf_moveCarrier_ne _ _ _ hk)

section
variable (failed m : Nat) (l : List Nat) (s : State)

theorem offSlots_moveCarriers : offSlots (l.foldl (moveCarrier failed m) s) = offSlots s :=
  foldl_keep offSlots _ (offSlots_moveCarrier failed m) l s

theorem arrayOf_moveCarriers_other {c : Nat} (h : arrayOf s c ≠ failed) : arrayOf (l.foldl (moveCarrier failed m) s) c = arrayOf s c := by
  refine List.foldlRecOn (motive := fun t => arrayOf t c = arrayOf s c) l _ rfl fun t ht k _ => ?_
  obtain hsame | ⟨hwas, -⟩ := arrayOf_moveCarrier_cases failed m t k c
  · exact hsame.trans ht
  · exact absurd (ht.symm.trans hwas) h

theorem arrayOf_moveCarriers_mem {c : Nat} (hc : c ∈ l) (h : arrayOf s c = failed) (hcfg : (carrierCfg s c).isSome = true) :
    arrayOf (l.foldl (moveCarrier failed m) s) c = m := by
  refine foldl_reaches (moveCarrier failed m) (fun t => offSlots t = offSlots s ∧ (arrayOf t c = failed ∨ arrayOf t c = m))
    (fun t => arrayOf t c = m) ?_ ?_ ?_ hc ⟨rfl, .inl h⟩
  · rintro t k ⟨hoff, hwas⟩
    refine ⟨(offSlots_moveCarrier ..).trans hoff, ?_⟩
    obtain hsame | ⟨-, hnow⟩ := arrayOf_moveCarrier_cases failed m t k c
    · rwa [hsame]
    · exact .inr hnow
  · intro t k _ ht
    obtain hsame | ⟨-, hnow⟩ := arrayOf_moveCarrier_cases failed m t k c
    · exact hsame.trans ht
    · exact hnow
  · rintro t ⟨hoff, hwas⟩
    by_cases hu : carrierUses t c 1 failed = true
    · exact arrayOf_moveCarrier_uses hu
    · have hcfg' : (carrierCfg t c).isSome = true := by rwa [carrierCfg_of_offSlots hoff]
      rw [moveCarrier_stays hu]
      exact hwas.resolve_left fun hfailed => hu ((carrierUses_array ..).2 ⟨hcfg', hfailed⟩)

end

/-! ### The evaluation comes into force (R347, R348) -/

/-- Of a state what the evaluation's coming into force keeps: all beside it, the carriers' arrays, and of stall `i` its replacements,
its variant and its shed count. -/
def shedKeeps (i : Nat) (s : State) : State × (Nat → Nat) × (Nat → List Remap) × W16 × BitVec 4 :=
  (offRef s, arrayOf s, remapsOf s, (getStall s i).variant, (getStall s i).shedK)

theorem shedKeeps_modStall (i k : Nat) (s : State) (f : Stall → Stall) (hr : ∀ x, (f x).remaps = x.remaps)
    (hv : ∀ x, (f x).variant = x.variant) (hk : ∀ x, (f x).shedK = x.shedK) : shedKeeps i (modStall s k f) = shedKeeps i s := by
  have hstall : (getStall (modStall s k f) i).variant = (getStall s i).variant ∧ (getStall (modStall s k f) i).shedK = (getStall s i).shedK := by
    by_cases hki : k = i
    · subst hki
      rw [getStall_modStall]
      exact ⟨hv _, hk _⟩
    · rw [getStall_modStall_ne _ _ hki]
      exact ⟨rfl, rfl⟩
  unfold shedKeeps
  rw [remapsOf_modStall _ _ _ hr, hstall.1, hstall.2]
  rfl

theorem shedKeeps_modCarrier (i c : Nat) (s : State) (f : Carrier → Carrier) (h : ∀ x, (f x).array = x.array) :
    shedKeeps i (modCarrier s c f) = shedKeeps i s := by
  unfold shedKeeps
  rw [arrayOf_modCarrier _ _ _ h]
  rfl

theorem shedKeeps_note (i : Nat) (s : State) (code : W16) (data : List Byte) : shedKeeps i (note s code data) = shedKeeps i s := by
  unfold note pushEvent
  dsimp only
  split
  · rfl
  · split <;> rfl

theorem applyShed_inForce {s : State} {i : Nat} (v : W16) (k : BitVec 4) (h : (budgetOf s i).isSome = true) :
    shedKeeps i (applyShed s i v k) = shedKeeps i (modStall s i (fun st => { st with variant := v, shedK := k })) := by
  obtain ⟨b, hb⟩ := Option.isSome_iff_exists.1 h
  unfold applyShed
  rw [hb]
  refine foldl_keep (shedKeeps i) _ (fun s j => ?_) _ _
  dsimp only
  split
  · rfl
  · rw [shedKeeps_note, shedKeeps_modStall, shedKeeps_modCarrier]
    · intro x
      split <;> rfl
    all_goals exact fun _ => rfl

theorem applyShed_none {s : State} {i : Nat} (v : W16) (k : BitVec 4) (h : budgetOf s i = none) : applyShed s i v k = s := by
  unfold applyShed
  rw [h]

/-! ### FALLBACK_REMAP (R82 step 5, R347) -/

/-- The state in which a ready replacement of stall `i` has taken over. -/
def remapped (s : State) (i : Nat) (r : Remap) : State :=
  modStall (applyRemap s i r) i (fun st => { st with remaps := laterRemaps st.remaps })

section
variable {s : State} {i m : Nat} {r : Remap} (hrs : (getStall s i).remaps = [r]) (hready : r.ready = true)
include hrs hready

theorem remapOp_uneval (he : r.eval = none) : remapOp s i = remapped s i r := by
  unfold remapOp
  rw [hrs, List.filter_cons_of_pos hready]
  simp only [List.filter_nil, List.foldl_cons, List.foldl_nil, List.getLast?_singleton, Option.bind_some, he]
  rfl

theorem remapOp_eval {v : W16} {k : BitVec 4} (he : r.eval = some (v, k)) : remapOp s i = applyShed (remapped s i r) i v k := by
  unfold remapOp
  rw [hrs, List.filter_cons_of_pos hready]
  simp only [List.filter_nil, List.foldl_cons, List.foldl_nil, List.getLast?_singleton, Option.bind_some, he]
  rfl

variable (hkind : r.kind = 1) (hrep : r.replace = some m)
include hkind hrep

omit hrs hready in
theorem offSlots_applyRemap : offSlots (applyRemap s i r) = offSlots s := by
  rw [applyRemap_array hkind hrep, offSlots_moveCarriers]

omit hrs hready in
theorem offRef_remapped : offRef (remapped s i r) = offRef s :=
  (congrArg (fun x => offRef (modStall x i (fun st => { st with remaps := laterRemaps st.remaps }))) (eq_of_offSlots (offSlots_applyRemap (i := i) hkind hrep)) :)

theorem remapsOf_remapped : remapsOf (remapped s i r) i = [] := by
  have hst : getStall (applyRemap s i r) i = getStall s i := (congrArg (fun x => getStall x i) (offSlots_applyRemap (i := i) hkind hrep) :)
  unfold remapsOf remapped
  rw [getStall_modStall, hst, hrs]
  simp [laterRemaps, hready]

omit hrs hready in
theorem arrayOf_remapped : arrayOf (remapped s i r) = arrayOf ((stallCarriers s i).foldl (moveCarrier r.failed m) s) := by
  unfold remapped
  rw [applyRemap_array hkind hrep]
  rfl

/-- What a takeover leaves, whatever its evaluation: the carriers' arrays and the stall's list are those of `remapped`. -/
theorem remapOp_keeps : offRef (remapOp s i) = offRef s ∧ arrayOf (remapOp s i) = arrayOf (remapped s i r) ∧ remapsOf (remapOp s i) i = []
    ∧ ∀ v k, r.eval = some (v, k) → (budgetOf s i).isSome = true →
      (getStall (remapOp s i) i).variant = v ∧ (getStall (remapOp s i) i).shedK = k := by
  have hoff := offRef_remapped (s := s) (i := i) hkind hrep
  have hlist := remapsOf_remapped hrs hready hkind hrep
  have hbudget : budgetOf (remapped s i r) i = budgetOf s i := (congrArg (fun x => budgetOf x i) hoff :)
  cases he : r.eval with
  | none =>
    rw [remapOp_uneval hrs hready he]
    exact ⟨hoff, rfl, hlist, nofun⟩
  | some e =>
    obtain ⟨v, k⟩ := e
    rw [remapOp_eval hrs hready he]
    cases hb : budgetOf (remapped s i r) i with
    | none =>
      rw [applyShed_none v k hb]
      refine ⟨hoff, rfl, hlist, fun _ _ _ hsome => ?_⟩
      rw [← hbudget, hb] at hsome
      cases hsome
    | some b =>
      have hshed := applyShed_inForce v k (s := remapped s i r) (i := i) (by rw [hb]; rfl)
      simp only [shedKeeps, Prod.mk.injEq, getStall_modStall] at hshed
      obtain ⟨href, harr, hrem, hvar, hk⟩ := hshed
      refine ⟨href.trans hoff, harr, ?_, ?_⟩
      · rw [hrem, remapsOf_modStall, hlist]
        exact fun _ => rfl
      · rintro v' k' he' -
        cases he'
        exact ⟨hvar, hk⟩

end

theorem fallbackRemap_takesOver (s : State) (stall : Fin 16) (r : Remap) (m : Nat) (hat : atSlotBoundary s stall.val = true)
    (hup : groomUp s 1 = true) (hrs : (getStall s stall.val).remaps = [r]) (hready : r.ready = true) (hkind : r.kind = 1)
    (hrep : r.replace = some m) :
    ∃ t, exec (.fallbackRemap stall) s = .next t ∧ (getStall t stall.val).remaps = []
      ∧ (∀ c ∈ stallCarriers s stall.val, (getCarrier s c).array = r.failed → (carrierCfg s c).isSome = true → (getCarrier t c).array = m)
      ∧ (∀ c, (getCarrier s c).array ≠ r.failed → (getCarrier t c).array = (getCarrier s c).array)
      ∧ (∀ v k, r.eval = some (v, k) → (budgetOf s stall.val).isSome = true →
          (getStall t stall.val).variant = v ∧ (getStall t stall.val).shedK = k)
      ∧ UnitsKept s t ∧ t.fencing = s.fencing ∧ t.hns = s.hns := by
  obtain ⟨hoff, harr, hlist, hforce⟩ := remapOp_keeps hrs hready hkind hrep
  rw [arrayOf_remapped hkind hrep] at harr
  have hkept := kept_of_offAir (offAir_of_offRef hoff)
  refine ⟨_, if_pos (by rw [hat, hup]; rfl), hlist, fun c hc hwas hcfg => ?_, fun c hother => ?_, hforce, hkept.1, ?_, ?_⟩
  · exact (congrFun harr c).trans (arrayOf_moveCarriers_mem _ _ _ s hc hwas hcfg)
  · exact (congrFun harr c).trans (arrayOf_moveCarriers_other _ _ _ s hother)
  · exact (congrArg State.fencing hoff :)
  · exact (congrArg State.hns hoff :)

/-- Settles O18: the end of the load makes the replacements ready, and the slot boundary brings them into force. -/
theorem fallbackTakesOver : Obligations.FallbackTakesOver := fun s =>
  ⟨reserveLoadDone_ends s, fun stall r m hat hup hrs hready hkind hrep => fallbackRemap_takesOver s stall r m hat hup hrs hready hkind hrep⟩

end Sys2Proof.Machine
end

section
/-!
PROOFS. What stopping and displacing work leaves alone (R80 to R82, R155, R193, R268): an idle array or engine stays as it is, no
memory of an array and no token is lost, and no run is placed anew.
-/
namespace Sys2Proof.Machine

/-! ### What leaves the arrays, their engines and the runs as they are -/

/-- The arrays and their engines, the fence records, the pacer cores, and every stall's runs. -/
def benches (s : State) : Table ArrayU × Table VecU × Fencing × Table PCore × (Nat → List Run) :=
  (s.arrays, s.vecs, s.fencing, s.cores, fun i => (getStall s i).runs)

theorem benches_of_offSlots {s t : State} (h : offSlots t = offSlots s) : benches t = benches s := (congrArg benches h :)

theorem benches_modStall (s : State) (i : Nat) (f : Stall → Stall) (h : ∀ x, (f x).runs = x.runs) : benches (modStall s i f) = benches s := by
  have hruns : (fun k => (getStall (modStall s i f) k).runs) = (fun k => (getStall s k).runs) := by
    funext k
    by_cases hk : i = k
    · subst hk
      rw [getStall_modStall, h]
    · rw [getStall_modStall_ne _ _ hk]
  unfold benches
  rw [hruns]
  rfl

@[simp] theorem benches_modCarrier (s : State) (c : Nat) (f : Carrier → Carrier) : benches (modCarrier s c f) = benches s := rfl
@[simp] theorem benches_modFdr (s : State) (n : Nat) (f : Feeder → Feeder) : benches (modFdr s n f) = benches s := rfl
@[simp] theorem benches_modPath (s : State) (m : Nat) (f : PathU → PathU) : benches (modPath s m f) = benches s := rfl
@[simp] theorem benches_modNet (s : State) (r : Nat) (f : SchoolNet → SchoolNet) : benches (modNet s r f) = benches s := rfl
@[simp] theorem benches_withSchool (s : State) (x : School) : benches { s with school := x } = benches s := rfl
@[simp] theorem benches_drew (s : State) : benches (drew s) = benches s := rfl

@[simp] theorem benches_report (s : State) (e : Event) : benches (report s e) = benches s := by
  simp only [benches, report_arrays, report_vecs, report_fencing, report_cores, report_stall_runs]

@[simp] theorem benches_pushEvent (s : State) (e : Event) : benches (pushEvent s e) = benches s := by
  unfold pushEvent
  dsimp only
  split
  · rfl
  · split <;> rfl

@[simp] theorem benches_setEntry (s : State) (i q : Nat) (seq : W32) (f : JEntry → JEntry) : benches (setEntry s i q seq f) = benches s :=
  benches_modStall _ _ _ fun _ => rfl

@[simp] theorem benches_charge (s : State) (i : Nat) (o : Owner) (k : ChargeKind) (pool : Bool) (ns : Nat) :
    benches (charge s i o k pool ns) = benches s := by
  unfold charge
  extract_lets s1
  have h1 : benches s1 = benches s := benches_modStall _ _ _ (by intro x; cases k <;> rfl)
  split
  · rw [benches_modStall, h1]
    exact fun _ => rfl
  · rw [benches_modStall, h1]
    exact fun _ => rfl
  · exact h1

@[simp] theorem benches_chargeContribs (s : State) (cs : List Contrib) (k : ChargeKind) (pool : Bool) (ns : Nat) :
    benches (chargeContribs s cs k pool ns) = benches s :=
  foldl_keep benches _ (fun _ _ => benches_charge ..) _ _

@[simp] theorem benches_nextPiece (s : State) (f : Nat) : benches (nextPiece s f) = benches s := by
  unfold nextPiece
  split
  · rfl
  · split
    · rfl
    · split <;> rfl

@[simp] theorem benches_dropXfers (s : State) (p : Xfer → Bool) : benches (dropXfers s p) = benches s :=
  foldl_keep benches _ (fun _ _ => (benches_nextPiece ..).trans (benches_modFdr ..)) _ _

@[simp] theorem benches_dropWork (s : State) (i q : Nat) (seq : W32) : benches (dropWork s i q seq) = benches s := by
  unfold dropWork
  dsimp only
  rw [benches_modStall, benches_dropXfers]
  exact fun _ => rfl

theorem runs_joinBatch (thinRows : Nat) (st : Stall) (g : GatherTask) : (joinBatch thinRows st g).runs = st.runs := by
  unfold joinBatch
  dsimp only
  split
  · split <;> rfl
  · split <;> split <;> rfl

theorem runs_reenter (thinRows : Nat) (st : Stall) (gs : List GatherTask) : (reenter thinRows st gs).runs = st.runs := by
  unfold reenter
  split
  · rfl
  · exact foldl_keep Stall.runs _ (runs_joinBatch thinRows) _ _

@[simp] theorem benches_regather (s : State) (cs : List Contrib) : benches (regather s cs) = benches s := by
  unfold regather
  split
  · rfl
  · exact benches_modStall _ _ _ (by intro x; exact runs_reenter ..)

@[simp] theorem benches_failInv (s : State) (c cause : Nat) : benches (failInv s c cause) = benches s := by
  unfold failInv
  split <;> rfl

@[simp] theorem benches_loseOne (s : State) (i kind failed : Nat) : benches (loseOne s i kind failed) = benches s := by
  unfold loseOne
  split
  · exact benches_modStall _ _ _ fun _ => rfl
  · dsimp only
    rw [benches_modStall, benches_modStall] <;> exact fun _ => rfl

@[simp] theorem benches_loseUnit (s : State) (i kind failed : Nat) : benches (loseUnit s i kind failed) = benches s := by
  unfold loseUnit
  dsimp only
  rw [foldl_keep benches _ (fun s f => benches_loseOne s i kind f), benches_loseOne, benches_modStall]
  exact fun _ => rfl

@[simp] theorem benches_schoolLost (s : State) (n : Nat) : benches (schoolLost s n) = benches s := by
  have h1 : ∀ l : List Nat, benches (l.foldl (fun s r =>
      if (s.hns.schoolNets[r]?).any (fun cfg => s.hns.nets.any (fun x => x.net == cfg.net && (getCarrier s x.carrier).array == n)) then
        modNet s r lostNet
      else s) s) = benches s :=
    fun l => foldl_keep benches _ (fun s r => by split <;> rfl) l s
  unfold schoolLost
  dsimp only
  split
  · rw [benches_withSchool, h1]
  · exact h1 _

@[simp] theorem benches_wakeFeeders (s : State) : benches (wakeFeeders s) = benches s := foldl_keep benches _ benches_nextPiece _ _

@[simp] theorem benches_refreshBacklog (s : State) : benches (refreshBacklog s) = benches s := by
  refine foldl_keep benches _ (fun s i => ?_) _ _
  exact benches_modStall _ _ _ fun _ => rfl

@[simp] theorem benches_failStallSlots (s : State) (i : Nat) (reset : Bool) : benches (failStallSlots s i reset) = benches s := by
  refine foldl_keep benches _ (fun s c => ?_) _ _
  split
  · rw [benches_modCarrier, benches_of_offSlots (offSlots_touchNow ..)]
  · rfl

@[simp] theorem benches_cacheFlushStall (s : State) (i : Nat) : benches (cacheFlushStall s i) = benches s := rfl

@[simp] theorem benches_abortPath (s : State) (m i : Nat) : benches (abortPath s m i) = benches s := by
  unfold abortPath abortPathRun
  split
  · split
    · rfl
    · rw [benches_chargeContribs, benches_modPath, benches_drew]
  · rfl

theorem getArr_of_benches {s t : State} (h : benches t = benches s) (n : Nat) : getArr t n = getArr s n :=
  (congrArg (fun x => tget {} x.1 n) h :)

theorem getVec_of_benches {s t : State} (h : benches t = benches s) (n : Nat) : getVec t n = getVec s n :=
  (congrArg (fun x => tget {} x.2.1 n) h :)

theorem fencing_of_benches {s t : State} (h : benches t = benches s) : t.fencing = s.fencing := (congrArg (fun x => x.2.2.1) h :)

theorem cores_of_benches {s t : State} (h : benches t = benches s) : t.cores = s.cores := (congrArg (fun x => x.2.2.2.1) h :)

theorem runs_of_benches {s t : State} (h : benches t = benches s) (i : Nat) : (getStall t i).runs = (getStall s i).runs :=
  (congrArg (fun x => x.2.2.2.2 i) h :)

theorem getRun_of_benches {s t : State} (h : benches t = benches s) (i q : Nat) (seq : W32) : getRun t (.job i q seq) = getRun s (.job i q seq) :=
  congrArg (List.find? (isRun q seq)) (runs_of_benches h i)

/-! ### What stopping work does to them -/

/-- `t` is `s` once work was stopped or left its array. -/
structure WorkStops (s t : State) : Prop where
  /-- An idle array stays as it is. -/
  arr : ∀ n, (getArr s n).run = none → getArr t n = getArr s n
  /-- An idle engine stays as it is. -/
  vec : ∀ n, (getVec s n).run = none → getVec t n = getVec s n
  main : ∀ n, (getArr t n).main = (getArr s n).main
  tokens : ∀ n, (getArr t n).tokens = (getArr s n).tokens
  /-- A run that is placed was placed there before. -/
  runs : ∀ i, ∀ r ∈ (getStall t i).runs, ∀ n, r.array = some n →
    ∃ r' ∈ (getStall s i).runs, r'.queue = r.queue ∧ r'.seq = r.seq ∧ r'.array = some n
  fencing : t.fencing = s.fencing
  cores : t.cores = s.cores

theorem WorkStops.of_benches {s t : State} (h : benches t = benches s) : WorkStops s t where
  arr n _ := getArr_of_benches h n
  vec n _ := getVec_of_benches h n
  main n := congrArg ArrayU.main (getArr_of_benches h n)
  tokens n := congrArg ArrayU.tokens (getArr_of_benches h n)
  runs i r hr _ hn := ⟨r, runs_of_benches h i ▸ hr, rfl, rfl, hn⟩
  fencing := fencing_of_benches h
  cores := cores_of_benches h

theorem WorkStops.trans {s t u : State} (h : WorkStops s t) (k : WorkStops t u) : WorkStops s u where
  arr n hn := (k.arr n (by rwa [h.arr n hn])).trans (h.arr n hn)
  vec n hn := (k.vec n (by rwa [h.vec n hn])).trans (h.vec n hn)
  main n := (k.main n).trans (h.main n)
  tokens n := (k.tokens n).trans (h.tokens n)
  runs i r hr n hn := by
    obtain ⟨r1, hr1, hq1, hs1, hn1⟩ := k.runs i r hr n hn
    obtain ⟨r2, hr2, hq2, hs2, hn2⟩ := h.runs i r1 hr1 n hn1
    exact ⟨r2, hr2, hq2.trans hq1, hs2.trans hs1, hn2⟩
  fencing := k.fencing.trans h.fencing
  cores := k.cores.trans h.cores

theorem WorkStops.foldl {α : Type} (g : State → α → State) (h : ∀ s a, WorkStops s (g s a)) (l : List α) (s : State) :
    WorkStops s (l.foldl g s) :=
  List.foldlRecOn (motive := WorkStops s) l g (.of_benches rfl) fun t ht a _ => ht.trans (h t a)

theorem workStops_ite {s t : State} {c : Prop} [Decidable c] (h : WorkStops s t) : WorkStops s (if c then t else s) := by
  split
  · exact h
  · exact .of_benches rfl

theorem runs_modRun (s : State) (i q : Nat) (seq : W32) (f : Run → Run) (k : Nat) :
    (getStall (modRun s (.job i q seq) f) k).runs =
      if i = k then (getStall s k).runs.map (fun r => if isRun q seq r then f r else r) else (getStall s k).runs := by
  unfold modRun
  by_cases hk : i = k
  · subst hk
    rw [getStall_modStall, if_pos rfl]
  · rw [getStall_modStall_ne _ _ hk, if_neg hk]

theorem workStops_runs {s t : State} (harr : t.arrays = s.arrays) (hvec : t.vecs = s.vecs) (hfen : t.fencing = s.fencing)
    (hcor : t.cores = s.cores) (hruns : ∀ i, ∀ r ∈ (getStall t i).runs, ∀ n, r.array = some n →
      ∃ r' ∈ (getStall s i).runs, r'.queue = r.queue ∧ r'.seq = r.seq ∧ r'.array = some n) : WorkStops s t := by
  have ha : ∀ n, getArr t n = getArr s n := fun n => congrArg (fun x => tget ({} : ArrayU) x n) harr
  exact ⟨fun n _ => ha n, fun n _ => congrArg (fun x => tget ({} : VecU) x n) hvec, fun n => congrArg ArrayU.main (ha n),
    fun n => congrArg ArrayU.tokens (ha n), hruns, hfen, hcor⟩

theorem workStops_modRun (s : State) (i q : Nat) (seq : W32) (f : Run → Run) (hq : ∀ r, (f r).queue = r.queue) (hs : ∀ r, (f r).seq = r.seq)
    (ha : ∀ r n, (f r).array = some n → r.array = some n) : WorkStops s (modRun s (.job i q seq) f) := by
  refine workStops_runs rfl rfl rfl rfl fun k r hr n hn => ?_
  rw [runs_modRun] at hr
  split at hr
  · obtain ⟨r', hr', rfl⟩ := List.mem_map.1 hr
    refine ⟨r', hr', ?_⟩
    split at hn
    next hrun => rw [if_pos hrun]; exact ⟨(hq r').symm, (hs r').symm, ha r' n hn⟩
    next hrun => rw [if_neg hrun]; exact ⟨rfl, rfl, hn⟩
  · exact ⟨r, hr, rfl, rfl, hn⟩

theorem workStops_leaveArray (s : State) (i q : Nat) (seq : W32) : WorkStops s (leaveArray s (.job i q seq)) :=
  workStops_modRun _ _ _ _ _ (fun _ => rfl) (fun _ => rfl) nofun

theorem workStops_toCommitting (s : State) (i q : Nat) (seq : W32) (status : W16) : WorkStops s (toCommitting s i q seq status) := by
  unfold toCommitting
  extract_lets s1 s2
  have h1 : WorkStops s s1 := (WorkStops.of_benches (benches_dropWork s i q seq)).trans (workStops_leaveArray ..)
  have h2 : WorkStops s1 s2 := workStops_modRun _ _ _ _ _ (fun _ => rfl) (fun _ => rfl) fun _ _ h => h
  exact h1.trans (h2.trans (.of_benches (benches_setEntry ..)))

theorem workStops_displaceRun (s : State) (i q : Nat) (seq : W32) : WorkStops s (displaceRun s i q seq) := by
  unfold displaceRun
  split
  · exact .of_benches rfl
  · dsimp only
    refine ((WorkStops.of_benches (benches_dropWork s i q seq)).trans (workStops_leaveArray _ i q seq)).trans ?_
    exact workStops_modRun _ _ _ _ _ (fun _ => rfl) (fun _ => rfl) fun _ _ h => h

/-- A busy array whose run is stopped keeps its memory and its tokens; the others stay as they are. -/
theorem workStops_modArr (s : State) (n : Nat) (f : ArrayU → ArrayU) (hbusy : (getArr s n).run ≠ none) (hmain : ∀ a, (f a).main = a.main)
    (htok : ∀ a, (f a).tokens = a.tokens) : WorkStops s (modArr s n f) := by
  refine ⟨fun m hm => ?_, fun _ _ => rfl, fun m => ?_, fun m => ?_, fun _ r hr _ hn => ⟨r, hr, rfl, rfl, hn⟩, rfl, rfl⟩
  · exact getArr_modArr_ne _ _ fun hnm => hbusy (hnm ▸ hm)
  · by_cases hm : n = m
    · subst hm
      rw [getArr_modArr, hmain]
    · rw [getArr_modArr_ne _ _ hm]
  · by_cases hm : n = m
    · subst hm
      rw [getArr_modArr, htok]
    · rw [getArr_modArr_ne _ _ hm]

theorem abortTileAfter_idle {s : State} {n : Nat} (c : Nat) (h : (getArr s n).run = none) : abortTileAfter s n c = s := by
  unfold abortTileAfter
  rw [h]

/-- What an aborted task leaves of its array. -/
def abortedArr (s : State) (c : Nat) (a : ArrayU) : ArrayU :=
  { a with
    run := none, batch := [], cycles := a.cycles + BitVec.ofNat 64 c,
    gated := a.gated + BitVec.ofNat 64 ((a.gatedRem + ranCycles s (1024 * c)) / 1024),
    gatedRem := (a.gatedRem + ranCycles s (1024 * c)) % 1024 }

theorem benches_abortTileAfter {s : State} {n : Nat} (c : Nat) (h : (getArr s n).run ≠ none) :
    benches (abortTileAfter s n c) = benches (modArr (drew s) n (abortedArr s c)) := by
  unfold abortTileAfter
  split
  next hnone => exact absurd hnone h
  · dsimp only
    split
    · exact benches_charge ..
    · exact benches_chargeContribs ..

theorem workStops_abortTileAfter (s : State) (n c : Nat) : WorkStops s (abortTileAfter s n c) := by
  by_cases h : (getArr s n).run = none
  · rw [abortTileAfter_idle c h]
    exact .of_benches rfl
  · refine .trans (t := modArr (drew s) n (abortedArr s c)) ?_ (.of_benches (benches_abortTileAfter c h))
    exact .trans (t := drew s) (.of_benches rfl) (workStops_modArr _ _ _ h (fun _ => rfl) fun _ => rfl)

theorem abortTileAfter_stops (s : State) (n c : Nat) : (getArr (abortTileAfter s n c) n).run = none := by
  by_cases h : (getArr s n).run = none
  · rwa [abortTileAfter_idle c h]
  · rw [getArr_of_benches (benches_abortTileAfter c h), getArr_modArr]
    rfl

theorem workStops_abortTile (s : State) (n : Nat) : WorkStops s (abortTile s n) := by
  unfold abortTile
  split
  · exact .of_benches rfl
  · exact .trans (t := drew s) (.of_benches rfl) (workStops_abortTileAfter ..)

theorem abortTile_stops (s : State) (n : Nat) : (getArr (abortTile s n) n).run = none := by
  unfold abortTile
  split
  next h => exact Option.isNone_iff_eq_none.1 h
  · exact abortTileAfter_stops ..

theorem abortVecAfter_idle {s : State} {n : Nat} (c : Nat) (h : (getVec s n).run = none) : abortVecAfter s n c = s := by
  unfold abortVecAfter
  rw [h]

/-- An aborted vector task leaves its engine idle, with its cycles counted. -/
def abortedVec (c : Nat) (v : VecU) : VecU := { v with run := none, cycles := v.cycles + BitVec.ofNat 64 c }

theorem benches_abortVecAfter {s : State} {n : Nat} (c : Nat) (h : (getVec s n).run ≠ none) :
    benches (abortVecAfter s n c) = benches (modVec s n (abortedVec c)) := by
  unfold abortVecAfter
  split
  next hnone => exact absurd hnone h
  · exact benches_charge ..

theorem workStops_abortVecAfter (s : State) (n c : Nat) : WorkStops s (abortVecAfter s n c) := by
  by_cases h : (getVec s n).run = none
  · rw [abortVecAfter_idle c h]
    exact .of_benches rfl
  · refine .trans (t := modVec s n (abortedVec c)) ⟨fun _ _ => rfl, fun m hm => ?_, fun _ => rfl, fun _ => rfl,
      fun _ r hr _ hn => ⟨r, hr, rfl, rfl, hn⟩, rfl, rfl⟩ (.of_benches (benches_abortVecAfter c h))
    exact getVec_modVec_ne _ _ fun hnm => h (hnm ▸ hm)

theorem workStops_abortVec (s : State) (n : Nat) : WorkStops s (abortVec s n) := by
  unfold abortVec
  split
  · exact .of_benches rfl
  · exact .trans (t := drew s) (.of_benches rfl) (workStops_abortVecAfter ..)

theorem abortVecAfter_stops (s : State) (n c : Nat) : (getVec (abortVecAfter s n c) n).run = none := by
  by_cases h : (getVec s n).run = none
  · rwa [abortVecAfter_idle c h]
  · rw [getVec_of_benches (benches_abortVecAfter c h), getVec_modVec]
    rfl

theorem abortVec_stops (s : State) (n : Nat) : (getVec (abortVec s n) n).run = none := by
  unfold abortVec
  split
  next h => exact h
  · exact abortVecAfter_stops ..

/-! ### A stall that stops (R155) -/

theorem workStops_abortStall (s : State) (i : Nat) : WorkStops s (abortStall s i) := by
  unfold abortStall
  extract_lets s1 s2 s3
  have h1 : WorkStops s s1 :=
    .foldl _ (fun s n => (workStops_ite (workStops_abortTile s n)).trans (workStops_ite (workStops_abortVec _ n))) _ _
  have h2 : WorkStops s1 s2 := .of_benches (foldl_keep benches (fun s m => abortPath s m i) (fun s m => benches_abortPath s m i) _ s1)
  have h3 : WorkStops s2 s3 := .of_benches (benches_dropXfers ..)
  refine (h1.trans (h2.trans h3)).trans ?_
  clear_value s3
  refine workStops_runs rfl rfl rfl rfl fun k r hr n hn => ?_
  by_cases hk : i = k
  · subst hk
    rw [getStall_modStall] at hr
    obtain ⟨r', hr', rfl⟩ := List.mem_map.1 hr
    exact ⟨r', hr', rfl, rfl, hn⟩
  · rw [getStall_modStall_ne _ _ hk] at hr
    exact ⟨r, hr, rfl, rfl, hn⟩

theorem workStops_stallFault (s : State) (i : Nat) (code : W16) (kind : BitVec 4) (unit : Nat) (data : List Byte) (job : Option (Nat × W32)) :
    WorkStops s (stallFault s i code kind unit data job) := by
  unfold stallFault
  dsimp only
  split
  · exact .of_benches rfl
  · exact .of_benches (benches_pushEvent ..)
  · refine .of_benches ?_
    rw [benches_report, benches_modStall _ _ _ (by intro x; split <;> rfl)]
  · generalize hs1 : modStall s i _ = s1
    have h1 : WorkStops s s1 := .of_benches (by rw [← hs1, benches_modStall]; exact fun _ => rfl)
    refine h1.trans ((workStops_abortStall s1 i).trans (.of_benches ?_))
    rw [benches_report, benches_cacheFlushStall, benches_failStallSlots]

theorem workStops_checkNoArray (s : State) (n : Nat) : WorkStops s (checkNoArray s n) :=
  .foldl _ (fun _ _ => workStops_ite (workStops_stallFault ..)) _ _

end Sys2Proof.Machine
end

section
/-!
PROOFS. Chapter 02, fences: what a fence does, the fence records, check tiles, and overruns (R26, R80 to R82, R85, R194, R279).
-/
namespace Sys2Proof.Machine

/-! ### Displaced runs (R82, R268) -/

/-- The runs of a job of stall `i` have no array. -/
def Unplaced (i q : Nat) (seq : W32) (s : State) : Prop :=
  ∀ r ∈ (getStall s i).runs, r.queue = q → r.seq = seq → r.array = none

theorem Unplaced.of_stops {i q : Nat} {seq : W32} {s t : State} (hs : Unplaced i q seq s) (h : WorkStops s t) : Unplaced i q seq t := by
  intro r hr hq hseq
  by_contra hplaced
  obtain ⟨n, hn⟩ := Option.ne_none_iff_exists'.1 hplaced
  obtain ⟨r', hr', hq', hseq', hn'⟩ := h.runs i r hr n hn
  rw [hs r' hr' (hq'.trans hq) (hseq'.trans hseq)] at hn'
  cases hn'

theorem isRun_iff (q : Nat) (seq : W32) (r : Run) : isRun q seq r = true ↔ r.queue = q ∧ r.seq = seq := by simp [isRun]

theorem unplaced_leaveArray (s : State) (i q : Nat) (seq : W32) : Unplaced i q seq (leaveArray s (.job i q seq)) := by
  intro r hr hq hseq
  rw [leaveArray, runs_modRun, if_pos rfl] at hr
  obtain ⟨r', -, rfl⟩ := List.mem_map.1 hr
  split
  · rfl
  next hno =>
    rw [if_neg hno] at hq hseq
    exact absurd ((isRun_iff ..).2 ⟨hq, hseq⟩) hno

theorem unplaced_displaceRun (s : State) (i q : Nat) (seq : W32) : Unplaced i q seq (displaceRun s i q seq) := by
  unfold displaceRun
  split
  next hnone =>
    intro r hr hq hseq
    exact absurd ((isRun_iff ..).2 ⟨hq, hseq⟩) (List.find?_eq_none.1 hnone r hr)
  · exact Unplaced.of_stops (unplaced_leaveArray _ i q seq) (workStops_modRun _ _ _ _ _ (fun _ => rfl) (fun _ => rfl) fun _ _ h => h)

/-- A run leaves its array, for the one that its stall's fallback map names. -/
def displaceTo (dest : Nat → Option Nat) (s : State) (x : Nat × Nat × W32) : State :=
  modRun (displaceRun s x.1 x.2.1 x.2.2) (.job x.1 x.2.1 x.2.2) (fun r => { r with moveTo := dest x.1 })

theorem workStops_moveTo (s : State) (dest : Nat → Option Nat) (i q : Nat) (seq : W32) :
    WorkStops s (modRun s (.job i q seq) (fun r => { r with moveTo := dest i })) :=
  workStops_modRun _ _ _ _ _ (fun _ => rfl) (fun _ => rfl) fun _ _ h => h

theorem workStops_displaceTo (dest : Nat → Option Nat) (s : State) (x : Nat × Nat × W32) : WorkStops s (displaceTo dest s x) :=
  (workStops_displaceRun s x.1 x.2.1 x.2.2).trans (workStops_moveTo ..)

theorem mem_runsOn {s : State} {n i : Nat} {r : Run} (hi : i < 16) (hr : r ∈ (getStall s i).runs) (hn : r.array = some n) :
    (i, r.queue, r.seq) ∈ runsOn s n := by
  refine List.mem_flatMap.2 ⟨i, List.mem_range.2 hi, List.mem_map.2 ⟨r, List.mem_filter.2 ⟨hr, ?_⟩, rfl⟩⟩
  rw [hn]
  exact beq_self_eq_true _

/-- Once every run of an array is displaced, none is placed on it. -/
theorem displaceAll_unplaces (dest : Nat → Option Nat) (s : State) (n i : Nat) (hi : i < 16) :
    ∀ r ∈ (getStall ((runsOn s n).foldl (displaceTo dest) s) i).runs, r.array ≠ some n := by
  intro r hr hn
  have hstops : WorkStops s ((runsOn s n).foldl (displaceTo dest) s) := .foldl _ (workStops_displaceTo dest) _ _
  obtain ⟨r', hr', hq, hseq, hn'⟩ := hstops.runs i r hr n hn
  have hall : Unplaced i r'.queue r'.seq ((runsOn s n).foldl (displaceTo dest) s) :=
    foldl_reaches (displaceTo dest) (fun _ => True) (Unplaced i r'.queue r'.seq) (fun _ _ _ => trivial)
      (fun t x _ ht => ht.of_stops (workStops_displaceTo dest t x))
      (fun t _ => (unplaced_displaceRun t i r'.queue r'.seq).of_stops (workStops_moveTo ..)) (mem_runsOn hi hr' hn') trivial
  rw [hall r hr hq.symm hseq.symm] at hn
  cases hn

/-! ### A fence (Table 2-8) -/

/-- The fence records with array `n` fenced for a cause. -/
def fencedFor (f : Fencing) (n : Nat) (cause : BitVec 4) : Fencing :=
  { f with
    fenced := setBit f.fenced n true, shown := setBit f.shown n true, lastArray := BitVec.ofNat 3 n, lastCause := cause,
    count := satInc f.count }

/-- An isolated array: its memories, its slots and its tokens are lost. -/
def isolated (a : ArrayU) : ArrayU :=
  { a with
    main := [], rsv := [], acc := [], sat := [], fold := [], ueMain := [], ueRsv := [], ueAcc := [], tokens := [], transit := 0,
    events := [], ctx := .main, moving := none, granting := none, parkedMain := [], parkedRsv := [], lastMain := [], lastRsv := [],
    lastOwner := none }

theorem arrUsable_lt {s : State} {n : Nat} (h : arrUsable s n = true) : n < 8 := by
  unfold arrUsable arrPresent at h
  simp only [Bool.and_eq_true, decide_eq_true_eq] at h
  exact h.1.1.1

theorem fenceOp_outOfService {s : State} {n : Nat} (cause : BitVec 4) (h : arrUsable s n = false) : fenceOp s n cause = s :=
  if_pos (by rw [h]; rfl)

/-- The three parts of a fence: the array's work stops; it is recorded and its runs leave it; it is isolated, and what follows for
carriers and stalls stops work alone. -/
theorem fenceOp_parts {s : State} {n : Nat} (cause : BitVec 4) (h : arrUsable s n = true) :
    ∃ stopped left : State, WorkStops s stopped ∧ (getArr stopped n).run = none ∧ (getVec stopped n).run = none
      ∧ WorkStops { stopped with fencing := fencedFor stopped.fencing n cause } left
      ∧ (∀ i, i < 16 → ∀ r ∈ (getStall left i).runs, r.array ≠ some n)
      ∧ WorkStops (modArr left n isolated) (fenceOp s n cause) := by
  unfold fenceOp
  rw [if_neg (by rw [h]; decide)]
  extract_lets batch lowered pw s0 s1 fen s2 s3 s4 dest s5 s6 s7 s8
  have h1 : WorkStops s s1 :=
    .trans (t := s0) (.of_benches rfl) ((workStops_abortTile s0 n).trans (workStops_abortVec _ n))
  have harr : (getArr s1 n).run = none := by
    rw [(workStops_abortVec (abortTile s0 n) n).arr n (abortTile_stops s0 n)]
    exact abortTile_stops s0 n
  have h4 : benches s4 = benches s2 := (benches_regather ..).trans (benches_report ..)
  have h5 : WorkStops s4 s5 := .foldl (displaceTo dest) (workStops_displaceTo dest) _ _
  have h7 : benches s7 = benches s6 := by
    refine foldl_keep benches _ (fun s c => ?_) _ _
    dsimp only
    split
    · exact benches_failInv ..
    · rfl
  have h8 : benches s8 = benches s7 := foldl_keep benches _ (fun s i => benches_loseUnit s i 1 n) _ _
  refine ⟨s1, s5, h1, harr, abortVec_stops _ n, (WorkStops.of_benches h4).trans h5, displaceAll_unplaces dest s4 n, ?_⟩
  refine .trans (t := checkNoArray (schoolLost s8 n) n) ?_ (.of_benches (by rw [benches_refreshBacklog, benches_wakeFeeders]))
  exact (WorkStops.of_benches ((benches_schoolLost ..).trans (h8.trans h7))).trans (workStops_checkNoArray ..)

section
variable {s : State} {n : Nat} (cause : BitVec 4) (h : arrUsable s n = true)
include h

theorem fenceOp_fencing : (fenceOp s n cause).fencing = fencedFor s.fencing n cause := by
  obtain ⟨u, v, hu, -, -, hv, -, ht⟩ := fenceOp_parts cause h
  have hrec : v.fencing = fencedFor u.fencing n cause := hv.fencing
  exact ht.fencing.trans (hrec.trans (by rw [hu.fencing]))

/-- An array that runs nothing is isolated as it stands. -/
theorem fenceOp_arr_idle (hrun : (getArr s n).run = none) : getArr (fenceOp s n cause) n = isolated (getArr s n) := by
  obtain ⟨u, v, hu, hidle, -, hv, -, ht⟩ := fenceOp_parts cause h
  have hleft : getArr v n = getArr s n := (hv.arr n hidle).trans (hu.arr n hrun)
  have hiso : getArr (modArr v n isolated) n = isolated (getArr s n) := by rw [getArr_modArr, hleft]
  rw [ht.arr n (by rw [hiso]; exact hrun), hiso]

theorem fenceOp_vec_idle (hrun : (getVec s n).run = none) : getVec (fenceOp s n cause) n = getVec s n := by
  obtain ⟨u, v, hu, -, hidle, hv, -, ht⟩ := fenceOp_parts cause h
  have hleft : getVec (modArr v n isolated) n = getVec s n := (hv.vec n hidle).trans (hu.vec n hrun)
  rw [ht.vec n (by rw [hleft]; exact hrun), hleft]

theorem fenceOp_fences : FencesArray s (fenceOp s n cause) n cause := by
  have hfen := fenceOp_fencing cause h
  obtain ⟨u, v, hu, harr, hvec, hv, hruns, ht⟩ := fenceOp_parts cause h
  have hleft : getArr v n = getArr u n := hv.arr n harr
  have hiso : getArr (modArr v n isolated) n = isolated (getArr u n) := by rw [getArr_modArr, hleft]
  have hend : getArr (fenceOp s n cause) n = isolated (getArr u n) := by rw [ht.arr n (by rw [hiso]; exact harr), hiso]
  have hvleft : getVec (modArr v n isolated) n = getVec u n := hv.vec n hvec
  have hvend : getVec (fenceOp s n cause) n = getVec u n := by rw [ht.vec n (by rw [hvleft]; exact hvec), hvleft]
  rw [FencesArray, hfen, hend, hvend]
  refine ⟨rfl, rfl, rfl, rfl, rfl, harr, hvec, rfl, rfl, rfl, fun i hi r hr hn => ?_, fun m hm => ?_, ?_, ?_⟩
  · obtain ⟨r', hr', -, -, hn'⟩ := ht.runs i r hr n hn
    exact hruns i hi r' hr' hn'
  · have hm' : getArr (modArr v n isolated) m = getArr v m := getArr_modArr_ne _ _ hm.symm
    refine ⟨(ht.main m).trans ?_, (ht.tokens m).trans ?_⟩
    · rw [hm']
      exact (hv.main m).trans (hu.main m)
    · rw [hm']
      exact (hv.tokens m).trans (hu.tokens m)
  · exact (congrArg Lasting.hbm (still_fenceOp s n cause) :)
  · exact ht.cores.trans ((hv.cores).trans hu.cores)

end

/-- What fenced an array of `u` fenced it of `s`, where the two agree on the fence records, the other arrays, memory and the cores. -/
theorem fencesArray_of_before {s u t : State} {n : Nat} {cause : BitVec 4} (h : FencesArray u t n cause)
    (hfen : { u.fencing with ctlArray := s.fencing.ctlArray } = s.fencing) (harr : ∀ m, m ≠ n → getArr u m = getArr s m)
    (hmem : u.mem = s.mem) (hcores : u.cores = s.cores) : FencesArray s t n cause := by
  obtain ⟨hfenced, hlast, hcause, hcount, hpersisted, hrun, hvec, hmain, hacc, htokens, hruns, hothers, hbytes, hcore⟩ := h
  rw [FencesArray, ← hfen, ← hmem, ← hcores]
  refine ⟨hfenced, hlast, hcause, hcount, hpersisted, hrun, hvec, hmain, hacc, htokens, hruns, fun m hm => ?_, hbytes, hcore⟩
  rw [← harr m hm]
  exact hothers m hm

theorem fence_fences (s : State) (arr : Fin 8) (h : arrUsable s arr.val = true) (cause : BitVec 4) :
    ∃ t, exec (.fence arr cause) s = .next t ∧ FencesArray s t arr.val cause := ⟨_, rfl, fenceOp_fences cause h⟩

theorem fenceCmd_fences (s : State) (arr : Fin 8) (h : arrUsable s arr.val = true) (ho : MgmtOpen s) :
    ∃ t, exec (.fenceCmd arr) s = .next t ∧ FencesArray s t arr.val 4 ∧ t.fencing.ctlArray = BitVec.ofNat 3 arr.val := by
  let u : State := { unheld s 0 with fencing := { (unheld s 0).fencing with ctlArray := BitVec.ofNat 3 arr.val } }
  have hu : arrUsable u arr.val = true := h
  refine ⟨fenceOp u arr.val 4, exec_mgmt (f := fenceCmdOp arr.val) rfl ho,
    fencesArray_of_before (fenceOp_fences 4 hu) rfl (fun _ _ => rfl) rfl rfl, ?_⟩
  rw [fenceOp_fencing 4 hu]
  rfl

/-! ### Fence records (R26, R85) -/

/-- A write of the fence records that a function made and that is then reported moves nothing else. -/
theorem told_withFencing {s t : State} (f : Fencing) (g : Table Func) (h : t = told { s with fencing := f, funcs := g } t) :
    t = { told s t with fencing := t.fencing, funcs := t.funcs } := by
  rw [h]
  rfl

theorem persistOp_records (s : State) (n : Nat) (on : Bool) :
    (persistOp (unheld s 0) n on).fencing.persisted = setBit s.fencing.persisted n on
      ∧ (persistOp (unheld s 0) n on).fencing.fenced = s.fencing.fenced
      ∧ persistOp (unheld s 0) n on = { told s (persistOp (unheld s 0) n on) with
          fencing := (persistOp (unheld s 0) n on).fencing, funcs := (persistOp (unheld s 0) n on).funcs } := by
  unfold persistOp
  extract_lets f u
  have hfen : ∀ code data, (note u code data).fencing = u.fencing := note_fencing u
  refine ⟨?_, ?_, told_withFencing (s := s) u.fencing u.funcs (told_of_aside (aside_note u _ _))⟩
  · rw [hfen]
    rfl
  · rw [hfen]
    rfl

/-! ### Check tiles (R81) -/

section
variable {s : State} {arr : Fin 8} (husable : arrUsable s arr.val = true) (hrun : (getArr s arr.val).run = none)
  (hpark : (getArr s arr.val).parked = false) (hctx : (getArr s arr.val).ctx = .main)
  (hquiet : arrPacedBy s arr.val = none ∨ quietArr s arr.val = true ∧ hasReserve s arr.val = false)
include husable hrun hpark hctx hquiet

/-- A check tile runs between tasks, in the main context, and on a PACED stall's array at a quiet point. -/
theorem exec_checkTile (pass : Bool) :
    exec (.checkTile arr pass) s = if pass then .next s
      else .next (fenceOp (modArr s arr.val (fun a => { a with checkFail := true })) arr.val 2) := by
  refine if_pos ?_
  rw [husable, hrun, hpark, hctx]
  obtain hnone | ⟨hq, hr⟩ := hquiet
  · rw [hnone]
    rfl
  · rw [hq, hr]
    simp

theorem checkTile_fences :
    ∃ t, exec (.checkTile arr false) s = .next t ∧ (getArr t arr.val).checkFail = true ∧ FencesArray s t arr.val 2 := by
  let u : State := modArr s arr.val (fun a => { a with checkFail := true })
  have hself : getArr u arr.val = { getArr s arr.val with checkFail := true } := getArr_modArr ..
  have hu : arrUsable u arr.val = true := by
    unfold arrUsable
    rw [hself]
    exact husable
  refine ⟨fenceOp u arr.val 2, exec_checkTile husable hrun hpark hctx hquiet false, ?_, ?_⟩
  · rw [fenceOp_arr_idle 2 hu (by rw [hself]; exact hrun), hself]
    rfl
  · exact fencesArray_of_before (fenceOp_fences 2 hu) rfl (fun _ hm => getArr_modArr_ne _ _ hm.symm) rfl rfl

end

/-! ### Overruns (R80, R194, R279) -/

theorem getRun_modRun {s : State} {i q : Nat} {seq : W32} {r : Run} (f : Run → Run) (hq : ∀ r, (f r).queue = r.queue)
    (hs : ∀ r, (f r).seq = r.seq) (h : getRun s (.job i q seq) = some r) : getRun (modRun s (.job i q seq) f) (.job i q seq) = some (f r) := by
  have hsame : isRun q seq ∘ (fun r => if isRun q seq r then f r else r) = isRun q seq := by
    funext x
    simp only [Function.comp_apply]
    split
    · simp only [isRun, hq, hs]
    · rfl
  have hfound : isRun q seq r = true := List.find?_some h
  unfold getRun at h ⊢
  dsimp only at h ⊢
  rw [runs_modRun, if_pos rfl, List.find?_map, hsame, h, Option.map_some, if_pos hfound]

/-- A job that fails: its run is committing, with its status, and on no array. -/
theorem toCommitting_fails {s : State} {i q : Nat} {seq : W32} {r : Run} (status : W16) (hst : status ≠ 0)
    (h : getRun s (.job i q seq) = some r) :
    ∃ r', getRun (toCommitting s i q seq status) (.job i q seq) = some r' ∧ r'.committing = true ∧ r'.fail = some status
      ∧ r'.array = none := by
  unfold toCommitting
  extract_lets s1 s2
  have h1 : getRun s1 (.job i q seq) = some { r with array := none, evSet := 0 } :=
    getRun_modRun _ (fun _ => rfl) (fun _ => rfl) ((getRun_of_benches (benches_dropWork ..) i q seq).trans h)
  have h2 := getRun_modRun (s := s1) (fun r => { r with
    committing := true, fail := if status = 0 then none else some status, running := [], runningX := [] }) (fun _ => rfl) (fun _ => rfl) h1
  refine ⟨_, (getRun_of_benches (benches_setEntry ..) i q seq).trans h2, rfl, if_neg hst, rfl⟩

theorem arrUsable_of_eq {s t : State} {n : Nat} (hstill : still t = still s) (hfen : t.fencing = s.fencing)
    (harr : (getArr t n).fencing = (getArr s n).fencing) : arrUsable t n = arrUsable s n := by
  have hfuse : t.fuses.arrEn = s.fuses.arrEn := (congrArg (fun x => x.present.1) hstill :)
  unfold arrUsable arrPresent
  rw [hfuse, hfen, harr]

section
variable {s u : State} {n i q tile : Nat} {seq : W32} {r : Run} (h : arrUsable u n = true) (hfen : u.fencing = s.fencing)
  (hrun : getRun u (.job i q seq) = some r)
include hrun

theorem overrun_first (hfirst : r.overTiles.contains tile = false) :
    overrun u n (.job i q seq) tile = fenceOp (modRun u (.job i q seq) (fun r => { r with overTiles := tile :: r.overTiles })) n 3 := by
  unfold overrun
  dsimp only
  rw [hrun, Option.any_some, hfirst]
  exact if_neg Bool.false_ne_true

theorem overrun_second (hagain : r.overTiles.contains tile = true) : overrun u n (.job i q seq) tile = toCommitting u i q seq 0x0104 := by
  unfold overrun
  dsimp only
  rw [hrun, Option.any_some, hagain]
  exact if_pos rfl

include h hfen

/-- A first overrun of a tile fences the array with cause 0x3, and leaves an idle array isolated and an idle engine as it is. -/
theorem overrun_fences (hfirst : r.overTiles.contains tile = false) :
    (overrun u n (.job i q seq) tile).fencing.lastCause = 3
      ∧ (overrun u n (.job i q seq) tile).fencing.fenced = setBit s.fencing.fenced n true
      ∧ ((getArr u n).run = none → getArr (overrun u n (.job i q seq) tile) n = isolated (getArr u n))
      ∧ ((getVec u n).run = none → getVec (overrun u n (.job i q seq) tile) n = getVec u n) := by
  rw [overrun_first hrun hfirst]
  generalize hmod : modRun u (.job i q seq) (fun r => { r with overTiles := tile :: r.overTiles }) = v
  have hv : arrUsable v n = true := by rw [← hmod]; exact h
  have ha : getArr u n = getArr v n := by rw [← hmod]; rfl
  have hvec : getVec u n = getVec v n := by rw [← hmod]; rfl
  have hsame : v.fencing = s.fencing := by rw [← hmod]; exact hfen
  rw [fenceOp_fencing 3 hv, ha, hvec, hsame]
  exact ⟨rfl, rfl, fenceOp_arr_idle 3 hv, fenceOp_vec_idle 3 hv⟩

omit h in
/-- A second overrun of a tile fails its job with TILE_OVERRUN, and fences nothing. -/
theorem overrun_fails (hagain : r.overTiles.contains tile = true) :
    (overrun u n (.job i q seq) tile).fencing = s.fencing ∧ WorkStops u (overrun u n (.job i q seq) tile)
      ∧ ∃ r', getRun (overrun u n (.job i q seq) tile) (.job i q seq) = some r' ∧ r'.committing = true ∧ r'.fail = some 0x0104
        ∧ r'.array = none := by
  rw [overrun_second hrun hagain]
  have hstops := workStops_toCommitting u i q seq 0x0104
  exact ⟨hstops.fencing.trans hfen, hstops, toCommitting_fails 0x0104 (by decide) hrun⟩

end

/-- A command that moves nothing of what lasts leaves memory's bytes. -/
theorem hbm_of_next {c : Instr} {s t : State} (hc : mayMoveLasting c = false) (h : exec c s = .next t) : t.mem.hbm = s.mem.hbm := by
  have hstill := still_exec c s hc
  rw [h] at hstill
  exact congrArg Lasting.hbm (Option.some.inj hstill)

theorem runs_abortTileAfter (s : State) (n c i : Nat) : (getStall (abortTileAfter s n c) i).runs = (getStall s i).runs := by
  by_cases h : (getArr s n).run = none
  · rw [abortTileAfter_idle c h]
  · exact runs_of_benches (benches_abortTileAfter c h) i

theorem fencing_abortTileAfter (s : State) (n c : Nat) : (abortTileAfter s n c).fencing = s.fencing := (workStops_abortTileAfter s n c).fencing

/-- What the command does before the overrun is judged: the error is latched and reported, and the task is stopped. -/
theorem exec_tileOverrun {s : State} {arr : Fin 8} {task : Task} (hrun : (getArr s arr.val).run = some task) :
    ∃ u, exec (.tileOverrun arr) s = .next (overrun u arr.val task.owner task.tile) ∧ still u = still s ∧ u.fencing = s.fencing
      ∧ (∀ i, (getStall u i).runs = (getStall s i).runs)
      ∧ (getArr u arr.val).run = none ∧ (getArr u arr.val).errCode = 0x20 ∧ (getArr u arr.val).fencing = (getArr s arr.val).fencing
      ∧ (getArr u arr.val).cycles = (getArr s arr.val).cycles + BitVec.ofNat 64 (overrunCycles s arr.val) := by
  show ∃ u, execTileOverrun arr s = _ ∧ _
  unfold execTileOverrun
  extract_lets n
  split
  next hnone => exact nomatch hrun.symm.trans hnone
  next c s1 addr _ task' hrun' =>
  obtain rfl : task' = task := Option.some.inj (hrun'.symm.trans hrun)
  extract_lets s2 s3 again others
  have hself : getArr s3 n = getArr s2 n := getArr_of_benches (benches_report ..) n
  have hbusy : (getArr s3 n).run ≠ none := by
    rw [hself, getArr_modArr]
    exact fun hno => nomatch hrun.symm.trans hno
  have hben := (benches_regather (abortTileAfter s3 n c) others).trans (benches_abortTileAfter c hbusy)
  have hend : getArr (regather (abortTileAfter s3 n c) others) n = abortedArr s3 c (getArr s2 n) := by
    rw [getArr_of_benches hben, getArr_modArr]
    exact congrArg _ hself
  refine ⟨regather (abortTileAfter s3 n c) others, rfl, ?_, ?_, fun i => ?_, ?_⟩
  · rw [still_regather, still_abortTileAfter, still_report]
    rfl
  · rw [fencing_of_benches (benches_regather ..), fencing_abortTileAfter, report_fencing]
    rfl
  · rw [runs_of_benches (benches_regather ..), runs_abortTileAfter, report_stall_runs]
    rfl
  · rw [hend, getArr_modArr]
    exact ⟨rfl, rfl, rfl, rfl⟩

section
variable {s : State} {arr : Fin 8} {i q : Nat} {seq : W32} {r : Run} {task : Task} (h : arrUsable s arr.val = true)
  (hjob : getRun s (.job i q seq) = some r) (howner : task.owner = .job i q seq)
include h hjob howner

theorem tileOverrun_first (hrun : (getArr s arr.val).run = some task) (hfirst : r.overTiles.contains task.tile = false) :
    ∃ t, exec (.tileOverrun arr) s = .next t ∧ t.fencing.lastCause = 3
      ∧ t.fencing.fenced = setBit s.fencing.fenced arr.val true ∧ (getArr t arr.val).run = none ∧ (getArr t arr.val).errCode = 0x20
      ∧ ((getArr s arr.val).batch = [] → (getArr t arr.val).cycles = (getArr s arr.val).cycles + 8192) ∧ t.mem.hbm = s.mem.hbm := by
  obtain ⟨u, hex, hstill, hfen, hruns, hidle, herr, hafen, hcyc⟩ := exec_tileOverrun hrun
  rw [howner] at hex
  have hu : arrUsable u arr.val = true := (arrUsable_of_eq hstill hfen hafen).trans h
  have hjob' : getRun u (.job i q seq) = some r := (congrArg (List.find? (isRun q seq)) (hruns i)).trans hjob
  obtain ⟨hcause, hfenced, harr, -⟩ := overrun_fences hu hfen hjob' hfirst
  refine ⟨_, hex, hcause, hfenced, ?_, ?_, fun hbatch => ?_, hbm_of_next rfl hex⟩ <;> rw [harr hidle]
  · exact hidle
  · exact herr
  · exact hcyc.trans (by rw [overrunCycles, hbatch]; rfl)

omit h in
theorem tileOverrun_second (hrun : (getArr s arr.val).run = some task) (hagain : r.overTiles.contains task.tile = true) :
    ∃ t r', exec (.tileOverrun arr) s = .next t ∧ t.fencing = s.fencing ∧ (getArr t arr.val).run = none
      ∧ getRun t (.job i q seq) = some r' ∧ r'.committing = true ∧ r'.fail = some 0x0104 ∧ r'.array = none ∧ t.mem.hbm = s.mem.hbm := by
  obtain ⟨u, hex, -, hfen, hruns, hidle, -⟩ := exec_tileOverrun hrun
  rw [howner] at hex
  have hjob' : getRun u (.job i q seq) = some r := (congrArg (List.find? (isRun q seq)) (hruns i)).trans hjob
  obtain ⟨hsame, hstops, r', hr', hcommit, hfail, harr⟩ := overrun_fails (n := arr.val) hfen hjob' hagain
  exact ⟨_, r', hex, hsame, by rw [hstops.arr _ hidle]; exact hidle, hr', hcommit, hfail, harr, hbm_of_next rfl hex⟩

omit h hjob in
/-- What a vector overrun does before it is judged: the engine's task is stopped at its bound. -/
theorem exec_vectorOverrun (hrun : (getVec s arr.val).run = some task) :
    exec (.vectorOverrun arr) s = .next (overrun (abortVecAfter s arr.val 6400) arr.val (.job i q seq) task.tile)
      ∧ benches (abortVecAfter s arr.val 6400) = benches (modVec s arr.val (abortedVec 6400)) := by
  refine ⟨?_, benches_abortVecAfter _ fun hno => nomatch hrun.symm.trans hno⟩
  rw [← howner]
  show execVectorOverrun arr s = _
  unfold execVectorOverrun
  rw [hrun]

theorem vectorOverrun_first (hrun : (getVec s arr.val).run = some task) (hfirst : r.overTiles.contains task.tile = false) :
    ∃ t, exec (.vectorOverrun arr) s = .next t ∧ t.fencing.lastCause = 3
      ∧ t.fencing.fenced = setBit s.fencing.fenced arr.val true ∧ (getVec t arr.val).run = none
      ∧ (getVec t arr.val).cycles = (getVec s arr.val).cycles + 6400 ∧ t.mem.hbm = s.mem.hbm := by
  obtain ⟨hex, hben⟩ := exec_vectorOverrun howner hrun
  have hu : arrUsable (abortVecAfter s arr.val 6400) arr.val = true := by
    rw [arrUsable_of_eq (still_abortVecAfter ..) (workStops_abortVecAfter ..).fencing (congrArg ArrayU.fencing (getArr_of_benches hben _))]
    exact h
  have hjob' := (getRun_of_benches hben i q seq).trans hjob
  have hvec : getVec (abortVecAfter s arr.val 6400) arr.val = abortedVec 6400 (getVec s arr.val) := by
    rw [getVec_of_benches hben, getVec_modVec]
  have hfen : (abortVecAfter s arr.val 6400).fencing = s.fencing := (workStops_abortVecAfter ..).fencing
  obtain ⟨hcause, hfenced, -, hengine⟩ := overrun_fences hu hfen hjob' hfirst
  have hend := (hengine (abortVecAfter_stops ..)).trans hvec
  refine ⟨_, hex, hcause, hfenced, congrArg VecU.run hend, ?_, hbm_of_next rfl hex⟩
  rw [hend]
  rfl

omit h in
theorem vectorOverrun_second (hrun : (getVec s arr.val).run = some task) (hagain : r.overTiles.contains task.tile = true) :
    ∃ t r', exec (.vectorOverrun arr) s = .next t ∧ t.fencing = s.fencing ∧ (getVec t arr.val).run = none
      ∧ getRun t (.job i q seq) = some r' ∧ r'.committing = true ∧ r'.fail = some 0x0104 ∧ t.mem.hbm = s.mem.hbm := by
  obtain ⟨hex, hben⟩ := exec_vectorOverrun howner hrun
  have hjob' := (getRun_of_benches hben i q seq).trans hjob
  have hidle := abortVecAfter_stops s arr.val 6400
  obtain ⟨hsame, hstops, r', hr', hcommit, hfail, -⟩ := overrun_fails (n := arr.val) (workStops_abortVecAfter s arr.val 6400).fencing hjob' hagain
  exact ⟨_, r', hex, hsame, by rw [hstops.vec _ hidle]; exact hidle, hr', hcommit, hfail, hbm_of_next rfl hex⟩

end

/-- Settles O17: fences, their records, check tiles and overruns, each by its rule above. -/
theorem fencesIsolate : Obligations.FencesIsolate :=
  ⟨fun s arr => ⟨fence_fences s arr, fenceCmd_fences s arr, fun hout _ => congrArg Host.Outcome.next (fenceOp_outOfService _ hout)⟩,
    fun s arr ho => ⟨⟨_, exec_mgmt rfl ho, persistOp_records s arr.val true⟩, ⟨_, exec_mgmt rfl ho, persistOp_records s arr.val false⟩⟩,
    fun _ _ husable hrun hpark hctx hquiet =>
      ⟨exec_checkTile husable hrun hpark hctx hquiet true, checkTile_fences husable hrun hpark hctx hquiet⟩,
    fun _ _ _ _ _ _ husable hjob =>
      ⟨fun _ hrun howner => ⟨tileOverrun_first husable hjob howner hrun, tileOverrun_second hjob howner hrun⟩,
        fun _ hrun howner => ⟨vectorOverrun_first husable hjob howner hrun, vectorOverrun_second hjob howner hrun⟩⟩⟩

end Sys2Proof.Machine
end

section
/-!
PROOFS. Chapter 03, the invariant across a step (R116), and the key slots and the floor (R116, R126, R133).
-/
namespace Sys2Proof.Machine

/-! ### One step (R116) -/

/-- A command keeps the invariant: what lasts is `After` what lasted before, and so fits together. -/
theorem exec_keeps_inv (c : Instr) (s : State) (h : Sys2Proof.Inv s) : ∃ t, exec c s = .next t ∧ Sys2Proof.Inv t := by
  obtain ⟨t, ht, hafter⟩ := exec_lasting c s h
  exact ⟨t, ht, (fit_still_iff_inv t).1 hafter.fit⟩

/-- Settles O3: the block idles on an empty queue, and else runs one command, which keeps the invariant. -/
theorem stepKeepsInvariant : Obligations.StepKeepsInvariant := by
  intro s hinv
  unfold step
  split
  · exact ⟨s, rfl, hinv⟩
  · exact exec_keeps_inv _ { s with pending := _ } hinv

/-! ### Commands of the management block that always respond (R26) -/

theorem exec_mgmtEarly {c : Instr} {s : State} {f : State → State} (hc : exec c s = .next (mgmtEarly f s)) (ho : MgmtOpenEarly s) :
    exec c s = .next (f (unheld s 0)) := by
  rw [hc, mgmtEarly_open f s ho]

/-! ### Key slots (R116) -/

theorem setBit_same {w : Nat} (v : BitVec w) {i : Nat} (h : i < w) : (setBit v i true).getLsbD i = true := by
  simp only [setBit, if_true, BitVec.getLsbD_or, BitVec.getLsbD_ofNat, Nat.testBit_two_pow_self, h, decide_true, Bool.and_self, Bool.or_true]

theorem setBit_other {w : Nat} (v : BitVec w) {i k : Nat} (h : k ≠ i) : (setBit v i true).getLsbD k = v.getLsbD k := by
  simp only [setBit, if_true, BitVec.getLsbD_or, BitVec.getLsbD_ofNat, Nat.testBit_two_pow_of_ne h.symm, Bool.and_false, Bool.or_false]

theorem burnOp_begins {s : State} {slot : Nat} (hb : s.fuses.burned.getLsbD slot = false) (hn : s.loader.burning = none) :
    burnOp slot 0xA5C3 s
      = { s with loader := { s.loader with burning := some (slot, BitVec.ofNat 384 (beNat (s.loader.provHash.flatMap bytesOf))) } } :=
  if_pos ⟨rfl, hb, hn⟩

theorem burnOp_refused {s : State} {slot : Nat} {confirm : W16}
    (h : confirm ≠ 0xA5C3 ∨ s.fuses.burned.getLsbD slot = true ∨ s.loader.burning.isSome = true) : burnOp slot confirm s = s := by
  refine if_neg fun ⟨hc, hb, hn⟩ => ?_
  obtain hne | hburned | hruns := h
  · exact hne hc
  · rw [hb] at hburned
    cases hburned
  · rw [hn] at hruns
    cases hruns

/-- KEY_BURN that is refused drops the half write that its function held, and does nothing else. -/
theorem exec_keyBurn_refused {s : State} (ho : MgmtOpenEarly s) (slot : Fin 2) {confirm : W16}
    (h : confirm ≠ 0xA5C3 ∨ s.fuses.burned.getLsbD slot.val = true ∨ s.loader.burning.isSome = true) :
    exec (.keyBurn slot confirm) s = .next (unheld s 0) := by
  rw [exec_mgmtEarly rfl ho, burnOp_refused (s := unheld s 0) h]

theorem revokeOp_signer {s : State} {slot : Nat} (ha : s.accepted = true) (hk : s.loader.keySlot.toNat = slot) : revokeOp slot s = s :=
  if_pos (by rw [ha, hk]; exact decide_eq_true rfl)

theorem revokeOp_revokes {s : State} {slot : Nat} (h : s.accepted = false ∨ s.loader.keySlot.toNat ≠ slot) :
    revokeOp slot s = { s with fuses := { s.fuses with revoked := setBit s.fuses.revoked slot true } } := by
  refine if_neg ?_
  obtain ha | hk := h
  · simp [ha]
  · simp [hk]

theorem keyRevoke_revokes {s : State} (ho : MgmtOpenEarly s) (slot : Fin 2) (h : s.accepted = false ∨ s.loader.keySlot.toNat ≠ slot.val) :
    ∃ t, exec (.keyRevoke slot) s = .next t ∧ t.fuses.revoked.getLsbD slot.val = true
      ∧ (∀ k, k ≠ slot.val → t.fuses.revoked.getLsbD k = s.fuses.revoked.getLsbD k)
      ∧ t = { s with fuses := { s.fuses with revoked := t.fuses.revoked }, funcs := t.funcs } :=
  ⟨_, (exec_mgmtEarly rfl ho).trans (congrArg _ (revokeOp_revokes (s := unheld s 0) h)), setBit_same _ slot.isLt,
    fun _ hk => setBit_other _ hk, rfl⟩

/-- The burn that runs ends: its slot is BURNED with the hash taken when it began. -/
theorem exec_keyBurnDone {s : State} {k : Nat} {h : BitVec 384} (hb : s.loader.burning = some (k, h)) :
    exec .keyBurnDone s = .next { s with
      loader := { s.loader with burning := none },
      fuses := { s.fuses with
        burned := setBit s.fuses.burned k true, hash0 := if k = 0 then h else s.fuses.hash0, hash1 := if k = 1 then h else s.fuses.hash1 } } := by
  simp only [exec, execKeyBurnDone, hb]

theorem keyBurnDone_burns {s : State} {k : Nat} {h : BitVec 384} (hb : s.loader.burning = some (k, h)) (hk : k < 2) :
    ∃ t, exec .keyBurnDone s = .next t ∧ t.fuses.burned.getLsbD k = true
      ∧ (∀ m, m ≠ k → t.fuses.burned.getLsbD m = s.fuses.burned.getLsbD m) ∧ t.fuses.revoked = s.fuses.revoked
      ∧ (k = 0 → t.fuses.hash0 = h ∧ t.fuses.hash1 = s.fuses.hash1) ∧ (k = 1 → t.fuses.hash1 = h ∧ t.fuses.hash0 = s.fuses.hash0)
      ∧ t.loader.burning = none ∧ t = { s with fuses := t.fuses, loader := t.loader } := by
  refine ⟨_, exec_keyBurnDone hb, setBit_same _ hk, fun _ hm => setBit_other _ hm, rfl, ?_, ?_, rfl, rfl⟩
  · rintro rfl
    exact ⟨rfl, rfl⟩
  · rintro rfl
    exact ⟨rfl, rfl⟩

/-! ### The floor (R126, R133) -/

theorem floorOp_floor (s : State) : (floorOp s).loader.floor.toNat = max s.loader.floor.toNat s.loader.serial.toNat := by
  unfold floorOp
  dsimp only
  split <;> omega

/-- Settles O53: the two cases of a burn's begin and of a revocation, the burn's end, and the floor. -/
theorem keysAndFloor : Obligations.KeysAndFloor := fun s =>
  ⟨fun ho slot =>
      ⟨fun hb hn => ⟨_, (exec_mgmtEarly rfl ho).trans (congrArg _ (burnOp_begins (s := unheld s 0) hb hn)), rfl, rfl⟩,
        fun hruns _ => exec_keyBurn_refused ho slot (.inr (.inr hruns)), fun hb => exec_keyBurn_refused ho slot (.inr (.inl hb)),
        fun _ hne => exec_keyBurn_refused ho slot (.inl hne),
        fun ha hk => (exec_mgmtEarly rfl ho).trans (congrArg _ (revokeOp_signer (s := unheld s 0) ha hk)),
        keyRevoke_revokes ho slot⟩,
    fun _ _ hb hk => keyBurnDone_burns hb hk,
    fun ho => ⟨_, exec_mgmtEarly rfl ho, floorOp_floor (unheld s 0), rfl⟩⟩

end Sys2Proof.Machine
end

section
/-!
PROOFS. What the operations that bring a structure into force, end work and restart units leave alone: all but the units
themselves, what the stalls, links, ports and carriers hold, and what reporting changes.
-/
namespace Sys2Proof.Machine

/-! ### A state without its units -/

/-- A state without what its units, stalls, links, ports and carriers hold, and without what reporting and the draws of free values
change. -/
def offUnits (s : State) : State :=
  { s with
    sent := [], free := 0, stalls := [], girths := [], carriers := [], trail := {}, flt := {}, clusters := [], arrays := [], vecs := [],
    paths := [], feeders := [], mem := {}, cores := [], tths := [], school := {} }

theorem offUnits_of_told {s t : State} (h : t = told s t) : offUnits t = offUnits s := by rw [h]; rfl

@[simp] theorem offUnits_ite (c : Prop) [Decidable c] (a b : State) : offUnits (if c then a else b) = if c then offUnits a else offUnits b := by
  split <;> rfl

@[simp] theorem offUnits_foldl {α : Type} (g : State → α → State) (h : ∀ s a, offUnits (g s a) = offUnits s) (l : List α) (s : State) :
    offUnits (l.foldl g s) = offUnits s := foldl_keep offUnits g h l s

@[simp] theorem offUnits_drew (s : State) : offUnits (drew s) = offUnits s := rfl

@[simp] theorem offUnits_modStall (s : State) (i : Nat) (f : Stall → Stall) : offUnits (modStall s i f) = offUnits s := rfl
@[simp] theorem offUnits_modArr (s : State) (n : Nat) (f : ArrayU → ArrayU) : offUnits (modArr s n f) = offUnits s := rfl
@[simp] theorem offUnits_modVec (s : State) (n : Nat) (f : VecU → VecU) : offUnits (modVec s n f) = offUnits s := rfl
@[simp] theorem offUnits_modPath (s : State) (m : Nat) (f : PathU → PathU) : offUnits (modPath s m f) = offUnits s := rfl
@[simp] theorem offUnits_modFdr (s : State) (n : Nat) (f : Feeder → Feeder) : offUnits (modFdr s n f) = offUnits s := rfl
@[simp] theorem offUnits_modCluster (s : State) (c : Nat) (f : Cluster → Cluster) : offUnits (modCluster s c f) = offUnits s := rfl
@[simp] theorem offUnits_modDet (s : State) (c n : Nat) (f : Detector → Detector) : offUnits (modDet s c n f) = offUnits s := rfl
@[simp] theorem offUnits_modStack (s : State) (k : Nat) (f : Stack → Stack) : offUnits (modStack s k f) = offUnits s := rfl
@[simp] theorem offUnits_modCarrier (s : State) (c : Nat) (f : Carrier → Carrier) : offUnits (modCarrier s c f) = offUnits s := rfl
@[simp] theorem offUnits_modTth (s : State) (p : Nat) (f : Tth → Tth) : offUnits (modTth s p f) = offUnits s := rfl
@[simp] theorem offUnits_modGirth (s : State) (g : Nat) (f : Girth → Girth) : offUnits (modGirth s g f) = offUnits s := rfl
@[simp] theorem offUnits_modCore (s : State) (n : Nat) (f : PCore → PCore) : offUnits (modCore s n f) = offUnits s := rfl
@[simp] theorem offUnits_modSchool (s : State) (f : School → School) : offUnits (modSchool s f) = offUnits s := rfl
@[simp] theorem offUnits_modSe (s : State) (e : Nat) (f : SchoolE → SchoolE) : offUnits (modSe s e f) = offUnits s := rfl
@[simp] theorem offUnits_modNet (s : State) (r : Nat) (f : SchoolNet → SchoolNet) : offUnits (modNet s r f) = offUnits s := rfl
@[simp] theorem offUnits_withMem (s : State) (m : Mem) : offUnits { s with mem := m } = offUnits s := rfl
@[simp] theorem offUnits_withSchool (s : State) (x : School) : offUnits { s with school := x } = offUnits s := rfl

/-! ### Reporting -/

@[simp] theorem offUnits_emit (s : State) (o : Out) : offUnits (emit s o) = offUnits s := offUnits_of_told (told_of_aside (aside_emit ..))
@[simp] theorem offUnits_toHost (s : State) (i : Nat) (o : Out) : offUnits (toHost s i o) = offUnits s :=
  offUnits_of_told (told_of_aside (aside_toHost ..))
@[simp] theorem offUnits_pushEvent (s : State) (e : Event) : offUnits (pushEvent s e) = offUnits s :=
  offUnits_of_told (told_of_aside (aside_pushEvent ..))
@[simp] theorem offUnits_raiseSource (s : State) (src : W16) : offUnits (raiseSource s src) = offUnits s :=
  offUnits_of_told (told_of_aside (aside_raiseSource ..))
@[simp] theorem offUnits_touchNow (s : State) (c : Nat) : offUnits (touchNow s c) = offUnits s :=
  offUnits_of_told (told_of_aside (aside_touchNow ..))
@[simp] theorem offUnits_report (s : State) (e : Event) : offUnits (report s e) = offUnits s := offUnits_of_told (report_told s e)
@[simp] theorem offUnits_loadEvent (s : State) (serial : W32) (code kind : Byte) (stall : Nat) :
    offUnits (loadEvent s serial code kind stall) = offUnits s := offUnits_report ..

@[simp] theorem offUnits_hostRead (s : State) (i : Nat) (addr : W64) (n : Nat) : offUnits (hostRead s i addr n) = offUnits s := by
  simp [hostRead]

/-! ### Memory and feeders (R300, R312) -/

@[simp] theorem offUnits_cacheAccess (s : State) (i a n : Nat) (write alloc : Bool) : offUnits (cacheAccess s i a n write alloc) = offUnits s :=
  offUnits_foldl _ (fun _ _ => (offUnits_modStall ..).trans (offUnits_withMem ..)) _ _

@[simp] theorem offUnits_cacheFlushStall (s : State) (i : Nat) : offUnits (cacheFlushStall s i) = offUnits s := rfl
@[simp] theorem offUnits_cacheFlush (s : State) : offUnits (cacheFlush s) = offUnits s := rfl
@[simp] theorem offUnits_zeroMoved (s : State) (old new : Harness) : offUnits (zeroMoved s old new) = offUnits s := rfl

@[simp] theorem offUnits_regionWrite (s : State) (i x : Nat) (bs : List Byte) (alloc : Bool) : offUnits (regionWrite s i x bs alloc) = offUnits s :=
  (offUnits_withMem ..).trans (offUnits_cacheAccess ..)

@[simp] theorem offUnits_regionTouch (s : State) (i x n : Nat) (alloc : Bool) : offUnits (regionTouch s i x n alloc) = offUnits s :=
  offUnits_cacheAccess ..

@[simp] theorem offUnits_countDev (s : State) (i xfers rd wr : Nat) : offUnits (countDev s i xfers rd wr) = offUnits s := by
  unfold countDev
  split <;> simp

@[simp] theorem offUnits_nextPiece (s : State) (f : Nat) : offUnits (nextPiece s f) = offUnits s := by
  unfold nextPiece
  split
  · rfl
  · split
    · rfl
    · split <;> simp

@[simp] theorem offUnits_dropXfers (s : State) (p : Xfer → Bool) : offUnits (dropXfers s p) = offUnits s :=
  offUnits_foldl _ (fun _ _ => (offUnits_nextPiece ..).trans (offUnits_modFdr ..)) _ _

/-! ### Runs, aborts and displacement (R155, R193, R268, R328) -/

@[simp] theorem offUnits_modRun (s : State) (o : Owner) (f : Run → Run) : offUnits (modRun s o f) = offUnits s := by
  cases o <;> rfl

@[simp] theorem offUnits_setEntry (s : State) (i q : Nat) (seq : W32) (f : JEntry → JEntry) : offUnits (setEntry s i q seq f) = offUnits s := by
  simp [setEntry]

@[simp] theorem offUnits_charge (s : State) (i : Nat) (o : Owner) (k : ChargeKind) (pool : Bool) (ns : Nat) :
    offUnits (charge s i o k pool ns) = offUnits s := by
  unfold charge
  dsimp only
  split <;> simp

@[simp] theorem offUnits_chargeContribs (s : State) (cs : List Contrib) (k : ChargeKind) (pool : Bool) (ns : Nat) :
    offUnits (chargeContribs s cs k pool ns) = offUnits s := offUnits_foldl _ (fun _ _ => offUnits_charge ..) _ _

@[simp] theorem offUnits_refreshBacklog (s : State) : offUnits (refreshBacklog s) = offUnits s :=
  offUnits_foldl _ (fun _ _ => offUnits_modStall ..) _ _

@[simp] theorem offUnits_expireBatches (s : State) (i : Nat) (all : Bool) : offUnits (expireBatches s i all) = offUnits s := rfl

@[simp] theorem offUnits_leaveArray (s : State) (o : Owner) : offUnits (leaveArray s o) = offUnits s := offUnits_modRun ..

@[simp] theorem offUnits_dropWork (s : State) (i q : Nat) (seq : W32) : offUnits (dropWork s i q seq) = offUnits s := by
  simp [dropWork]

@[simp] theorem offUnits_toCommitting (s : State) (i q : Nat) (seq : W32) (status : W16) :
    offUnits (toCommitting s i q seq status) = offUnits s := by
  simp [toCommitting]

@[simp] theorem offUnits_displaceRun (s : State) (i q : Nat) (seq : W32) : offUnits (displaceRun s i q seq) = offUnits s := by
  unfold displaceRun
  split <;> simp

@[simp] theorem offUnits_abortTile (s : State) (n : Nat) : offUnits (abortTile s n) = offUnits s := by
  unfold abortTile abortTileAfter
  split
  · rfl
  · split <;> simp

@[simp] theorem offUnits_abortVec (s : State) (n : Nat) : offUnits (abortVec s n) = offUnits s := by
  unfold abortVec abortVecAfter
  split
  · rfl
  · split <;> simp

@[simp] theorem offUnits_abortPath (s : State) (m i : Nat) : offUnits (abortPath s m i) = offUnits s := by
  unfold abortPath abortPathRun
  split
  · split <;> simp
  · rfl

@[simp] theorem offUnits_abortStall (s : State) (i : Nat) : offUnits (abortStall s i) = offUnits s := by
  simp [abortStall]

@[simp] theorem offUnits_failStallSlots (s : State) (i : Nat) (reset : Bool) : offUnits (failStallSlots s i reset) = offUnits s := by
  simp [failStallSlots]

@[simp] theorem offUnits_stallFault (s : State) (i : Nat) (code : W16) (kind : BitVec 4) (unit : Nat) (data : List Byte) (job : Option (Nat × W32)) :
    offUnits (stallFault s i code kind unit data job) = offUnits s := by
  unfold stallFault
  dsimp only
  split <;> simp

@[simp] theorem offUnits_warmQuiesce (s : State) : offUnits (warmQuiesce s) = offUnits s := by
  simp [warmQuiesce]

/-! ### Queues and commits (R181 to R191) -/

@[simp] theorem offUnits_answer (s : State) (i q : Nat) (kind reason : Byte) (value : W32) (mismatch : Bool) (acceptTick : W64) (orig : W16) :
    offUnits (answer s i q kind reason value mismatch acceptTick orig) = offUnits s := by
  simp [answer]

@[simp] theorem offUnits_tailOp (s : State) (i q : Nat) (tail : W32) : offUnits (tailOp s i q tail) = offUnits s := by
  simp [tailOp, doorbell]

@[simp] theorem offUnits_releaseSlot (s : State) (i q : Nat) : offUnits (releaseSlot s i q) = offUnits s := by
  unfold releaseSlot
  dsimp only
  split
  · simp [acceptStep1]
  · rfl

@[simp] theorem offUnits_resumeQueues (s : State) (i : Nat) : offUnits (resumeQueues s i) = offUnits s := by
  refine offUnits_foldl _ (fun s q => ?_) _ _
  rw [offUnits_releaseSlot]
  split <;> simp

@[simp] theorem offUnits_settleHold (s : State) (i : Nat) : offUnits (settleHold s i) = offUnits s := by
  unfold settleHold
  dsimp only
  split <;> simp

@[simp] theorem offUnits_failDependents (s : State) (i : Nat) : offUnits (failDependents s i) = offUnits s := by
  refine offUnits_foldl _ (fun s r => ?_) _ _
  split <;> simp

@[simp] theorem offUnits_commitOp (s : State) (i q : Nat) (e : JEntry) : offUnits (commitOp s i q e) = offUnits s := by
  simp [commitOp, copyExtents, dropRun]

@[simp] theorem offUnits_initControl (s : State) (i : Nat) : offUnits (initControl s i) = offUnits s := rfl

@[simp] theorem offUnits_restoreControl (s : State) (i : Nat) (job : Option (Nat × W32)) : offUnits (restoreControl s i job) = offUnits s := by
  unfold restoreControl
  dsimp only
  split
  · simp
  · split
    · simp
    · split <;> simp

/-! ### Reserve banks, replacements and evaluations (R114, R224, R347) -/

@[simp] theorem offUnits_loadReserve (s : State) (n : Nat) : offUnits (loadReserve s n) = offUnits s := by
  refine offUnits_foldl _ (fun s x => ?_) _ _
  unfold loadNet
  dsimp only
  split <;> simp

@[simp] theorem offUnits_loadReserves (s : State) : offUnits (loadReserves s) = offUnits s := by
  simp [loadReserves]

@[simp] theorem offUnits_reloadOf (s : State) (old : Harness) (was : State) : offUnits (reloadOf s old was) = offUnits s := by
  simp [reloadOf]

@[simp] theorem offUnits_loseUnit (s : State) (i kind failed : Nat) : offUnits (loseUnit s i kind failed) = offUnits s := by
  have h1 (s : State) (f : Nat) : offUnits (loseOne s i kind f) = offUnits s := by
    unfold loseOne
    split <;> simp
  simp [loseUnit, h1]

@[simp] theorem offUnits_standingLosses (s : State) (i : Nat) : offUnits (standingLosses s i) = offUnits s := by
  unfold standingLosses evaluateStall
  split
  · split <;> simp
  · simp

@[simp] theorem offUnits_applyRemap (s : State) (i : Nat) (r : Remap) : offUnits (applyRemap s i r) = offUnits s := by
  have hw (s : State) (c : Nat) : offUnits (failWaiting s c) = offUnits s := by
    unfold failWaiting
    split <;> simp
  unfold applyRemap
  split
  · rfl
  · simp [hw]

@[simp] theorem offUnits_coverLosses (s : State) (i : Nat) : offUnits (coverLosses s i) = offUnits s := by
  simp [coverLosses]

/-! ### Pacer cores (R161, R393 to R397) -/

@[simp] theorem offUnits_startPreload (s : State) (n : Nat) : offUnits (startPreload s n) = offUnits s := by
  unfold startPreload
  split <;> simp

@[simp] theorem offUnits_refreshPreload (s : State) (n : Nat) : offUnits (refreshPreload s n) = offUnits s := by
  simp [refreshPreload]

@[simp] theorem offUnits_beginLoad (s : State) (n : Nat) (b : Option BindRec) : offUnits (beginLoad s n b) = offUnits s := by
  cases b <;> rfl

@[simp] theorem offUnits_beginLoads (s : State) (i : Nat) : offUnits (beginLoads s i) = offUnits s := by
  simp [beginLoads]

@[simp] theorem offUnits_startProgram (s : State) (n : Nat) : offUnits (startProgram s n) = offUnits s := rfl

@[simp] theorem offUnits_bank0Loaded (s : State) (n : Nat) (t : W32 × Byte) : offUnits (bank0Loaded s n t) = offUnits s := by
  unfold bank0Loaded
  rw [offUnits_foldl _ (fun _ _ => offUnits_modStall ..), offUnits_startPreload, offUnits_startProgram, offUnits_modCore]

@[simp] theorem offUnits_swapTimer (s : State) (n tm : Nat) : offUnits (swapTimer s n tm) = offUnits s := by
  simp [swapTimer, addCarried]

@[simp] theorem offUnits_failRec (s : State) (r : W64) : offUnits (failRec s r) = offUnits s := rfl

@[simp] theorem offUnits_flipCore (s : State) (n at_ : Nat) : offUnits (flipCore s n at_) = offUnits s := by
  unfold flipCore
  extract_lets c s1 old s2 s3 s4
  have h1 : offUnits s1 = offUnits s := by
    unfold s1
    split <;> simp
  have h2 : offUnits s2 = offUnits s := (offUnits_foldl _ (fun _ _ => offUnits_failRec ..) _ _).trans h1
  have h4 : offUnits s4 = offUnits s := (offUnits_foldl _ (fun _ _ => offUnits_swapTimer ..) _ _).trans h2
  rw [offUnits_startPreload, offUnits_startProgram, h4]

@[simp] theorem offUnits_swapPoint (s : State) (i : Nat) (p : Remap → Bool) : offUnits (swapPoint s i p) = offUnits s := by
  refine offUnits_foldl _ (fun s r => ?_) _ _
  split <;> simp

@[simp] theorem offUnits_coverSegment (s : State) (i : Nat) : offUnits (coverSegment s i) = offUnits s := by
  simp [coverSegment]

@[simp] theorem offUnits_swapCoreOwner (s : State) (old : Harness) (i n at_ : Nat) : offUnits (swapCoreOwner s old i n at_) = offUnits s := by
  unfold swapCoreOwner
  dsimp only
  split
  · rfl
  · split
    · split <;> simp
    · split
      · split <;> simp
      · simp

/-! ### Schooled networks (R462, R475, R477) -/

@[simp] theorem offUnits_areaWrite (s : State) (r : Nat) (cfg : SchoolCfg) (n : NetCfg) (mirror : Bool) (bytes : List Byte) :
    offUnits (areaWrite s r cfg n mirror bytes) = offUnits s := offUnits_regionWrite ..

@[simp] theorem offUnits_writeAreaHeader (s : State) (cfg : SchoolCfg) (n : NetCfg) : offUnits (writeAreaHeader s cfg n) = offUnits s :=
  offUnits_regionWrite ..

@[simp] theorem offUnits_dropActions (s : State) (r : Nat) (p : SchoolAct → Bool) : offUnits (dropActions s r p) = offUnits s := rfl

@[simp] theorem offUnits_reinitNet (s : State) (r : Nat) : offUnits (reinitNet s r) = offUnits s := by
  unfold reinitNet
  split
  · rfl
  · dsimp only
    rw [offUnits_writeAreaHeader, offUnits_areaWrite, offUnits_areaWrite, offUnits_modNet, offUnits_dropActions]

@[simp] theorem offUnits_resetNet (s : State) (r : Nat) (zero : Bool) : offUnits (resetNet s r zero) = offUnits s := by
  unfold resetNet
  split
  · rfl
  · simp [xferSts, dropActions]

@[simp] theorem offUnits_endCandidate (s : State) (r : Nat) : offUnits (endCandidate s r) = offUnits s := by
  simp [endCandidate, dropActions]

@[simp] theorem offUnits_renumberSchool (s : State) (old : Harness) : offUnits (renumberSchool s old) = offUnits s := rfl

@[simp] theorem offUnits_prepareSchool (s : State) (p : Nat → Bool) : offUnits (prepareSchool s p) = offUnits s := by
  simp [prepareSchool]

@[simp] theorem offUnits_swapSchool (s : State) (old : Harness) (i : Nat) : offUnits (swapSchool s old i) = offUnits s := by
  simp [swapSchool]

@[simp] theorem offUnits_startEngines (s : State) : offUnits (startEngines s) = offUnits s := by
  refine offUnits_foldl _ (fun s e => ?_) _ _
  unfold resetCursors seedEngine
  split
  · rfl
  · simp

@[simp] theorem offUnits_restoreSchool (old : Harness) (s : State) : offUnits (restoreSchool old s) = offUnits s := by
  simp [restoreSchool]

/-! ### What a stall's reset and its opening change (Table 4-9, R169, R202) -/

@[simp] theorem offUnits_clearArray (s : State) (i n : Nat) : offUnits (clearArray s i n) = offUnits s := by
  simp [clearArray]

@[simp] theorem offUnits_clearStall (s : State) (i : Nat) (zero : Bool) : offUnits (clearStall s i zero) = offUnits s := by
  unfold clearStall clearCaptures
  extract_lets s1 s2 s3 s4 s5 s6 others va vp
  have h1 : offUnits s1 = offUnits s := offUnits_foldl _ (fun _ _ => offUnits_clearArray ..) _ _
  have h2 : offUnits s2 = offUnits s := (offUnits_foldl _ (fun _ _ => offUnits_modCore ..) _ _).trans h1
  have h3 : offUnits s3 = offUnits s := by simp [s3, h2]
  have h4 : offUnits s4 = offUnits s := (offUnits_foldl _ (fun _ _ => offUnits_resetNet ..) _ _).trans h3
  have h6 : offUnits s6 = offUnits s := by simp [s6, s5, h4]
  rw [offUnits_modStall, h6]

@[simp] theorem offUnits_warmStalls (s : State) : offUnits (warmStalls s) = offUnits s := by
  simp [warmStalls]

@[simp] theorem offUnits_journalBad (s : State) (i : Nat) (x : Byte × W16) : offUnits (journalBad s i x) = offUnits s := by
  simp [journalBad]

@[simp] theorem offUnits_resumeState (s : State) (i : Nat) : offUnits (resumeState s i) = offUnits s := by
  unfold resumeState
  dsimp only
  split <;> simp

@[simp] theorem offUnits_standingFaults (s : State) (i : Nat) : offUnits (standingFaults s i) = offUnits s := by
  simp [standingFaults]

@[simp] theorem offUnits_openStall (s : State) (i : Nat) (bad : Option (Byte × W16)) : offUnits (openStall s i bad) = offUnits s := by
  unfold openStall
  split
  · rfl
  · cases bad <;> simp

@[simp] theorem offUnits_openStalls (s : State) (bad : List (Fin 16 × Byte × W16)) : offUnits (openStalls s bad) = offUnits s := by
  simp [openStalls]

/-! ### Arrays, carriers and detectors of a structure (R224, R443, R62) -/

@[simp] theorem offUnits_setTokens (s : State) (n : Nat) : offUnits (setTokens s n) = offUnits s := by
  unfold setTokens
  split <;> simp

@[simp] theorem offUnits_openArrays (s : State) : offUnits (openArrays s) = offUnits s := by
  simp [openArrays]

@[simp] theorem offUnits_openCarrier (s : State) (c : Nat) : offUnits (openCarrier s c) = offUnits s := by
  unfold openCarrier
  split <;> simp

@[simp] theorem offUnits_openCarriers (s : State) : offUnits (openCarriers s) = offUnits s := by
  simp [openCarriers]

@[simp] theorem offUnits_moveCarriers (s : State) (old : Harness) (i : Nat) : offUnits (moveCarriers s old i) = offUnits s := by
  refine offUnits_foldl _ (fun s c => ?_) _ _
  split
  · split <;> simp
  · rfl

@[simp] theorem offUnits_setDetectors (s : State) (swap : Option Nat) (p : Nat → Bool) : offUnits (setDetectors s swap p) = offUnits s := by
  refine offUnits_foldl _ (fun s c => ?_) _ _
  split
  · exact offUnits_foldl _ (fun _ _ => offUnits_modDet ..) _ _
  · rfl

@[simp] theorem offUnits_gainWays (s : State) (old : Harness) (i : Nat) : offUnits (gainWays s old i) = offUnits s := by
  unfold gainWays
  split <;> simp

@[simp] theorem offUnits_leaveOwned (s : State) (i : Nat) : offUnits (leaveOwned s i) = offUnits s := by
  simp [leaveOwned]

end Sys2Proof.Machine
end

section
/-!
PROOFS. What Tether ports change as they start, retrain, fall silent or end (R481, R503, R509, R528), and what bringing a structure into
force leaves of the rest (steps 11 and 12 of R117, R647).
-/
namespace Sys2Proof.Machine

/-! ### Tether ports -/

theorem offAir_of_told {s t : State} (h : t = told s t) : offAir t = offAir s := offAir_of_offRef (offRef_of_told h)

@[simp] theorem offAir_ite (c : Prop) [Decidable c] (a b : State) : offAir (if c then a else b) = if c then offAir a else offAir b := by
  split <;> rfl

@[simp] theorem offAir_foldl {α : Type} (g : State → α → State) (h : ∀ s a, offAir (g s a) = offAir s) (l : List α) (s : State) :
    offAir (l.foldl g s) = offAir s := foldl_keep offAir g h l s

@[simp] theorem offAir_drew (s : State) : offAir (drew s) = offAir s := rfl
@[simp] theorem offAir_emit (s : State) (o : Out) : offAir (emit s o) = offAir s := offAir_of_told (told_of_aside (aside_emit ..))
@[simp] theorem offAir_toHost (s : State) (i : Nat) (o : Out) : offAir (toHost s i o) = offAir s := offAir_of_told (told_of_aside (aside_toHost ..))
@[simp] theorem offAir_raiseSource (s : State) (src : W16) : offAir (raiseSource s src) = offAir s :=
  offAir_of_told (told_of_aside (aside_raiseSource ..))
@[simp] theorem offAir_tetherCandDown (s : State) (p : Nat) : offAir (tetherCandDown s p) = offAir s := offAir_candUpdate ..

@[simp] theorem offAir_sendFrame (s : State) (p : Nat) (f : TFrame) : offAir (sendFrame s p f) = offAir s := by
  simp [sendFrame, sendCodeword]

@[simp] theorem offAir_completeTx (s : State) (p c : Nat) (f : TxFrame) (status : W16) : offAir (completeTx s p c f status) = offAir s := by
  simp [completeTx]

@[simp] theorem offAir_completeWhile (s : State) (p c : Nat) (ends : TxFrame → Option W16) (n : Nat) :
    offAir (completeWhile s p c ends n) = offAir s := by
  induction n generalizing s with
  | zero => rfl
  | succ n ih =>
    unfold completeWhile
    split
    · rfl
    · split
      · rfl
      · rw [ih, offAir_completeTx, offAir_modTth]

@[simp] theorem offAir_resetChans (s : State) (p : Nat) : offAir (resetChans s p) = offAir s := by
  simp [resetChans]

@[simp] theorem offAir_newEpoch (s : State) (p : Nat) : offAir (newEpoch s p) = offAir s := rfl

@[simp] theorem offAir_beginTraining (s : State) (p : Nat) (full : Bool) : offAir (beginTraining s p full) = offAir s := by
  simp [beginTraining]

@[simp] theorem offAir_startFull (s : State) (p : Nat) : offAir (startFull s p) = offAir s := by
  simp [startFull, wakeBurst]

@[simp] theorem offAir_startFast (s : State) (p : Nat) (own : Bool) : offAir (startFast s p own) = offAir s := by
  simp [startFast]

@[simp] theorem offAir_startPort (s : State) (p : Nat) : offAir (startPort s p) = offAir s := by
  unfold startPort
  split <;> simp

@[simp] theorem offAir_disablePort (s : State) (p : Nat) : offAir (disablePort s p) = offAir s := by
  simp [disablePort]

@[simp] theorem offAir_warmPort (s : State) (p : Nat) : offAir (warmPort s p) = offAir s := by
  simp [warmPort]

@[simp] theorem offAir_restorePort (old s : State) (p : Nat) : offAir (restorePort old s p) = offAir s := by
  simp [restorePort]

/-! ### A state without its units, its air clock and its power (R111, R647) -/

/-- A state without its units, its air clock and its power state. -/
def offPlan (s : State) : State := { offUnits s with air := {}, power := {} }

theorem offPlan_of_offUnits {s t : State} (h : offUnits t = offUnits s) : offPlan t = offPlan s :=
  (congrArg (fun x => { x with air := {}, power := {} }) h :)

theorem offPlan_of_offAir {s t : State} (h : offAir t = offAir s) : offPlan t = offPlan s := (congrArg offPlan h :)

/-- Power levels settle at their rails: what they ask for goes out, and the power state alone changes. -/
theorem offPlan_settleRails (s : State) : offPlan (settleRails s) = offPlan s := by
  unfold settleRails
  extract_lets a c power s1
  have hemit (s : State) (x : Power) (o : Out) : offPlan (emit { s with power := x } o) = offPlan s :=
    (offPlan_of_offUnits (offUnits_emit ..)).trans rfl
  have h1 : offPlan s1 = offPlan s := by
    unfold s1
    split
    · rfl
    · exact hemit ..
  split
  · exact h1
  · exact (hemit ..).trans h1

/-- The clocks set before the rails settle: beside the units nothing. -/
theorem offUnits_clocksSet (s : State) :
    offUnits ((List.range 6).foldl (fun s c => modCluster s c (fun cl => { cl with freq := 0 }))
      ((List.range 4).foldl (fun s m => modPath s m (fun p => { p with freq := 0 }))
        ((List.range 8).foldl (fun s n => modVec (modArr s n (fun a => { a with freq := 0, parked := false })) n (fun v => { v with freq := 0 })) s)))
      = offUnits s := by
  rw [offUnits_foldl _ (fun _ _ => offUnits_modCluster ..), offUnits_foldl _ (fun _ _ => offUnits_modPath ..),
    offUnits_foldl _ (fun _ _ => (offUnits_modVec ..).trans (offUnits_modArr ..))]

theorem offPlan_settleRails_of {s t : State} (h : offPlan s = offPlan t) (p : Power) :
    offPlan (settleRails { s with power := p }) = offPlan t := (offPlan_settleRails _).trans h

theorem offPlan_setClocks (s : State) : offPlan (setClocks s) = offPlan s :=
  offPlan_settleRails_of (offPlan_of_offUnits (offUnits_clocksSet s)) _

/-! ### The whole structure (R117, R647) -/

/-- The structure `h` in force in place of that of `s`, with the rest as it was. -/
def inForce (s : State) (h : Harness) : State :=
  { s with hns := h, merged := none, netNext := [], accepted := true, boot := { s.boot with phase := .running, bringup := false } }

/-- Bringing a structure into force: beside its units, air clock and power the state is `inForce`. -/
theorem offPlan_applyHarness (s : State) (h : Harness) (bad : List (Fin 16 × Byte × W16)) {school : State → State}
    (hs : ∀ s, offUnits (school s) = offUnits s) : offPlan (applyHarness s h bad school) = offPlan (inForce s h) := by
  unfold applyHarness
  extract_lets g s1 s2 s3 s4 s5 s6 s7 s8 s9
  have h3 : offPlan s3 = offPlan { s with hns := h, merged := none, netNext := [], accepted := true } :=
    (offPlan_of_offUnits ((offUnits_openCarriers _).trans (offUnits_openArrays _))).trans (offPlan_setClocks s2)
  have h9 : offUnits s9 = offUnits s3 := by
    rw [offUnits_foldl _ offUnits_beginLoads, offUnits_loadReserves, hs, offUnits_foldl _ offUnits_coverLosses, offUnits_openStalls,
      offUnits_setDetectors]
  clear_value s9 s3
  exact (congrArg (fun x => { x with boot := { x.boot with phase := .running, bringup := false } }) ((offPlan_of_offUnits h9).trans h3) :)

end Sys2Proof.Machine
end

section
/-!
PROOFS. Chapter 03, what an operation leaves that changes the loader's registers alone, and how loads and segments fail (R117, R124,
R131).
-/
namespace Sys2Proof.Machine

/-! ### Operations that set the loader's registers -/

/-- The loader's registers are at `l` in `t`, and nothing but they, reporting and the draws of free values separates `t` from `s`. -/
def LoaderSet (s t : State) (l : Loader) : Prop := ∃ n, t = told { s with free := n, loader := l } t

namespace LoaderSet

variable {s t u : State} {l m : Loader}

theorem refl (s : State) : LoaderSet s s s.loader := ⟨s.free, rfl⟩

theorem loader (h : LoaderSet s t l) : t.loader = l := by
  obtain ⟨n, h⟩ := h
  rw [h]
  rfl

theorem trans (h : LoaderSet s t l) (k : LoaderSet t u m) : LoaderSet s u m := by
  obtain ⟨n, h⟩ := h
  obtain ⟨k, hk⟩ := k
  exact ⟨k, hk.trans (congrArg (fun x => told { x with free := k, loader := m } u) h :)⟩

/-- Registers written by hand. -/
theorem set (h : LoaderSet s t l) (m : Loader) : LoaderSet s { t with loader := m } m := by
  obtain ⟨n, h⟩ := h
  exact ⟨n, (congrArg (fun x => { x with loader := m }) h :)⟩

theorem of_told (h : t = told s t) : LoaderSet s t s.loader := ⟨s.free, h⟩

theorem kept (h : LoaderSet s t l) : UnitsKept s t ∧ t.hns = s.hns ∧ t.accepted = s.accepted ∧ t.boot = s.boot ∧ t.power = s.power
    ∧ t.merged = s.merged ∧ t.fuses = s.fuses := by
  obtain ⟨n, h⟩ := h
  rw [h]
  exact ⟨⟨rfl, rfl, rfl, rfl, rfl, rfl, rfl, rfl, rfl⟩, rfl, rfl, rfl, rfl, rfl, rfl⟩

theorem units (h : LoaderSet s t l) : UnitsKept s t := h.kept.1
theorem hns (h : LoaderSet s t l) : t.hns = s.hns := h.kept.2.1
theorem accepted (h : LoaderSet s t l) : t.accepted = s.accepted := h.kept.2.2.1

theorem offUnits (h : LoaderSet s t l) : Machine.offUnits t = { Machine.offUnits s with loader := l } := by
  obtain ⟨n, h⟩ := h
  rw [h]
  rfl

end LoaderSet

theorem loaderSet_drew (s : State) : LoaderSet s (drew s) s.loader := ⟨s.free + 1, rfl⟩

theorem loaderSet_loadEvent (s : State) (serial : W32) (code kind : Byte) (stall : Nat) :
    LoaderSet s (loadEvent s serial code kind stall) s.loader := .of_told (report_told ..)

theorem loaderSet_hostRead (s : State) (i : Nat) (addr : W64) (n : Nat) : LoaderSet s (hostRead s i addr n) s.loader := by
  unfold hostRead
  split
  · exact .refl s
  · refine List.foldlRecOn (motive := fun t => LoaderSet s t s.loader) _ _ (.refl s) fun t ht k _ => ?_
    have h := LoaderSet.of_told (told_of_aside (aside_emit
      (modGirth t (stallPort t i) (fun x => { x with nextTag := x.nextTag + 1 }))
      (.mrd i (getGirth t (stallPort t i)).nextTag (addr + BitVec.ofNat 64 (512 * k)) (min 512 (n - 512 * k)))))
    obtain ⟨f, h⟩ := h
    rw [modGirth_loader, ht.loader] at h
    exact ht.trans ⟨f, h⟩

theorem loaderSet_readImage (s : State) : LoaderSet s (readImage s) s.loader := by
  unfold readImage
  split
  · exact loaderSet_hostRead ..
  · exact .refl s

/-- The image's serial costs at most a draw. -/
theorem loaderSet_serialOf (s : State) (image : List Byte) : LoaderSet s (serialOf s image).2 s.loader := by
  unfold serialOf
  split
  · exact loaderSet_drew s
  · exact .refl s

/-- An uncorrectable error in the accepted image slot or the segment store marks them damaged. -/
theorem loaderSet_slotDamaged (s : State) (which : BitVec 2) :
    ∃ b, LoaderSet s (slotDamaged s which) { s.loader with damaged := b } := by
  unfold slotDamaged
  split
  · exact ⟨true, .trans ((LoaderSet.refl s).set _) (.of_told (report_told ..))⟩
  · exact ⟨s.loader.damaged, .refl s⟩

/-! ### How a load fails (R117, R131) -/

/-- The loader's registers after an error. -/
def errRegs (l : Loader) (code : Byte) (index record : Nat) : Loader :=
  { l with errCode := code, errIndex := BitVec.ofNat 10 index, errRecord := BitVec.ofNat 14 record }

theorem loaderSet_setErr {s t : State} {l : Loader} (h : LoaderSet s t l) (code : Byte) (index record : Nat) :
    LoaderSet s (setErr t code index record) (errRegs l code index record) := by
  have hl := h.loader
  subst hl
  exact h.set _

/-- A full load that fails is over, with its error. -/
theorem loaderSet_fullFail (s : State) (image : List Byte) (code : Byte) (index record : Nat) :
    LoaderSet s (fullFail s image code index record) { errRegs s.loader code index record with state := 15, job := none } := by
  have h1 := loaderSet_setErr (loaderSet_serialOf s image) code index record
  have h2 := h1.set { (setErr (serialOf s image).2 code index record).loader with state := 15, job := none }
  rw [h1.loader] at h2
  unfold fullFail
  dsimp only
  rw [h1.loader]
  exact h2.trans (loaderSet_loadEvent _ _ _ _ _)

/-- A load that does not begin leaves its error. -/
theorem loaderSet_refuseLoad (s : State) (code kind : Byte) :
    LoaderSet s (refuseLoad s code kind) (errRegs s.loader code 0x3FF 0x3FFF) :=
  (loaderSet_setErr (loaderSet_drew s) code 0x3FF 0x3FFF).trans (loaderSet_loadEvent _ _ _ _ _)

/-! ### How a segment fails (R124) -/

/-- The loader's registers after a segment's error. -/
def segEnded (l : Loader) (code : Byte) (index record : Nat) : Loader :=
  { errRegs l code index record with segState := 0, job := none, segImage := [], repeats := 0, delayed := false }

/-- A state without its units and its air clock. -/
def offClock (s : State) : State := { offUnits s with air := {} }

theorem offClock_of_offUnits {s t : State} (h : offUnits t = offUnits s) : offClock t = offClock s :=
  (congrArg (fun x => { x with air := {} }) h :)

/-- A segment that fails is over, with its error: beside the units and the air clock, where its edits of the gait are, the rest stays. -/
theorem offClock_segFail (s : State) (code : Byte) (index record : Nat) :
    offClock (segFail s code index record) = { offClock s with merged := none, loader := segEnded s.loader code index record } := by
  have h1 := loaderSet_setErr (loaderSet_serialOf s s.loader.segImage) code index record
  unfold segFail
  extract_lets i x s1 s2 s3 l s4 s5
  have hs1 : offClock s1 = { offClock s with loader := errRegs s.loader code index record } :=
    (congrArg (fun x => { x with air := {} }) h1.offUnits :)
  have hs2 : offClock s2 = offClock s1 := by
    unfold s2
    split <;> rfl
  have hs3 : offUnits s3 = offUnits s2 := by
    unfold s3
    split
    · refine offUnits_foldl _ (fun s n => ?_) _ _
      split
      · exact offUnits_startPreload ..
      · rfl
    · rfl
  have h3 : offClock s3 = { offClock s with loader := errRegs s.loader code index record } :=
    ((offClock_of_offUnits hs3).trans hs2).trans hs1
  have hl : s3.loader = errRegs s.loader code index record := (congrArg State.loader h3 :)
  have h4 : offClock s4 = { offClock s with merged := none, loader := segEnded s.loader code index record } := by
    unfold s4 l
    rw [hl]
    exact (congrArg (fun x => { x with merged := none, loader := segEnded s.loader code index record }) h3 :)
  have h5 : offUnits s5 = offUnits s4 := (offUnits_settleHold ..).trans (offUnits_modStall ..)
  exact (offClock_of_offUnits ((offUnits_loadEvent ..).trans h5)).trans h4

/-- What a segment's failure leaves, part by part. -/
theorem segFail_parts (s : State) (code : Byte) (index record : Nat) :
    (segFail s code index record).loader = segEnded s.loader code index record ∧ (segFail s code index record).merged = none
      ∧ (segFail s code index record).hns = s.hns ∧ (segFail s code index record).accepted = s.accepted := by
  have h := offClock_segFail s code index record
  exact ⟨(congrArg State.loader h :), (congrArg State.merged h :), (congrArg State.hns h :), (congrArg State.accepted h :)⟩

/-! ### A warm reset is asked for (R640, R652, R654) -/

/-- What a load's and a segment's failure and the end of a trip leave: the boot state, the structure, and an image that waits. -/
def standing (s : State) : Boot × Harness × Bool × Option (List Byte) × Fuses := (s.boot, s.hns, s.accepted, s.loader.nextImage, s.fuses)

theorem standing_fullFail (s : State) (image : List Byte) (code : Byte) (index record : Nat) :
    standing (fullFail s image code index record) = standing s := by
  obtain ⟨n, h⟩ := loaderSet_fullFail s image code index record
  exact (congrArg standing h :)

theorem standing_segFail (s : State) (code : Byte) (index record : Nat) : standing (segFail s code index record) = standing s :=
  (congrArg standing (offClock_segFail s code index record) :)

theorem standing_abortSegment (s : State) (p : Nat → Bool) : standing (abortSegment s p) = standing s := by
  unfold abortSegment
  split
  · exact standing_segFail ..
  · rfl

theorem standing_tripEnd (s : State) : standing (tripEnd s) = standing s := by
  unfold tripEnd
  split
  · exact (congrArg standing (told_of_aside (aside_raiseSource { s with power := { s.power with tripped := false } } 0x2600)) :)
  · rfl

theorem tripEnd_tripped (s : State) : (tripEnd s).power.tripped = false := by
  unfold tripEnd
  split
  · rw [raiseSource_power]
  · simpa using ‹¬s.power.tripped = true›

theorem tripLocked_untripped {s : State} (h : s.power.tripped = false) : tripLocked s = false := by
  unfold tripLocked
  rw [h]
  rfl

/-- A warm reset may start at once: none runs, and nothing supersedes or holds it. -/
structure WarmReady (s : State) : Prop where
  step : s.boot.warmStep = 0
  power : s.boot.pwrOk = true
  failed : s.boot.powerFailed = false
  cold : s.boot.coldWaiting = false
  up : s.boot.bringup = false

theorem WarmReady.of_boot {s t : State} (hr : WarmReady s) (h : t.boot = s.boot) : WarmReady t := by
  constructor <;> rw [h]
  exacts [hr.step, hr.power, hr.failed, hr.cold, hr.up]

/-- The boot state at step 1 of a warm reset. -/
def warmBegun (b : Boot) (cause : BitVec 3) : Boot :=
  { b with warmStep := 1, warmCause := cause, lastReset := 3, warmCnt := satInc b.warmCnt, warmHeld := false }

/-- A warm reset starts at step 1, and what stands stays. -/
theorem warmRequest_begins {s : State} (hr : WarmReady s) (hlock : tripLocked s = false) (cause : BitVec 3) :
    standing (warmRequest s cause) = (warmBegun s.boot cause, (standing s).2) ∧ (warmRequest s cause).power.tripped = false := by
  unfold warmRequest
  rw [if_neg (by simp [hr.step, hr.failed, hr.cold, hlock]), if_neg (by simp [hr.up, hr.power])]
  extract_lets s1 s2 s3
  have h1 : standing s1 = standing s := by
    unfold s1
    split
    · exact standing_fullFail ..
    · rfl
  have h3 : standing s3 = standing s := (standing_tripEnd s2).trans ((standing_abortSegment s1 _).trans h1)
  exact ⟨(congrArg (fun x => (warmBegun x.1 cause, x.2)) h3 :), tripEnd_tripped s2⟩

/-- A warm reset is held during bring-up. -/
theorem warmRequest_held {s : State} (hstep : s.boot.warmStep = 0) (hfail : s.boot.powerFailed = false) (hcold : s.boot.coldWaiting = false)
    (hlock : tripLocked s = false) (hup : s.boot.bringup = true) (cause : BitVec 3) :
    warmRequest s cause = { s with boot := { s.boot with warmHeld := true, heldCause := cause } } := by
  unfold warmRequest
  rw [if_neg (by simp [hstep, hfail, hcold, hlock]), if_pos (by simp [hup])]

/-- During a warm reset another merges with it. -/
theorem warmRequest_merges {s : State} (h : s.boot.warmStep ≠ 0) (cause : BitVec 3) : warmRequest s cause = s := if_pos (.inl h)

end Sys2Proof.Machine
end

section
/-!
PROOFS. Chapter 03, full loads (R117, R119, R126, R128, R131, R132, R643): what LOAD, LOAD_SEG and ABORT do, and what the end of a
load comes to.
-/
namespace Sys2Proof.Machine

/-! ### LOAD and LOAD_SEG (R117, R128, R132, R643) -/

/-- What a refused load leaves: its error code, and all else that it asks about as it was. -/
theorem refuseLoad_parts (s : State) (code kind : Byte) :
    (refuseLoad s code kind).loader = errRegs s.loader code 0x3FF 0x3FFF ∧ (refuseLoad s code kind).hns = s.hns
      ∧ (refuseLoad s code kind).accepted = s.accepted ∧ UnitsKept s (refuseLoad s code kind) := by
  have h := loaderSet_refuseLoad s code kind
  exact ⟨h.loader, h.hns, h.accepted, h.units⟩

/-- LOAD with REPLACE written (R119). -/
def withReplace (s : State) (replace : Bool) : State := { s with loader := { s.loader with replace := replace } }

section
variable {s : State} {replace : Bool}

theorem loadCmd_eq (s : State) (replace : Bool) :
    loadCmd replace s =
      if loaderBusy s then refuseLoad (withReplace s replace) 0x22 1
      else if s.accepted && !replace then refuseLoad (withReplace s replace) 0x1B 1
      else if s.fuses.burned = 0 then refuseLoad (withReplace s replace) 0x09 1
      else if loaderDead s then refuseLoad (withReplace s replace) 0x19 1
      else { readImage (withReplace s replace) with
        loader := { s.loader with replace := replace, job := some { segment := false, replace := replace && s.accepted }, state := 1 } } := rfl

theorem loadCmd_busy (hb : loaderBusy s = true) : loadCmd replace s = refuseLoad (withReplace s replace) 0x22 1 :=
  (loadCmd_eq s replace).trans (if_pos hb)

theorem loadCmd_live (hb : loaderBusy s = false) (ha : s.accepted = true) (hr : replace = false) :
    loadCmd replace s = refuseLoad (withReplace s replace) 0x1B 1 :=
  (loadCmd_eq s replace).trans ((if_neg (Bool.eq_false_iff.1 hb)).trans (if_pos (by rw [ha, hr]; rfl)))

/-- A LOAD that neither another load nor the accepted harness keeps from starting goes on to its keys. -/
theorem loadCmd_may (hb : loaderBusy s = false) (ha : s.accepted = false ∨ replace = true) :
    loadCmd replace s =
      if s.fuses.burned = 0 then refuseLoad (withReplace s replace) 0x09 1
      else if loaderDead s then refuseLoad (withReplace s replace) 0x19 1
      else { readImage (withReplace s replace) with
        loader := { s.loader with replace := replace, job := some { segment := false, replace := replace && s.accepted }, state := 1 } } := by
  rw [loadCmd_eq, if_neg (Bool.eq_false_iff.1 hb), if_neg]
  obtain ha | hr := ha
  · simp [ha]
  · simp [hr]

/-- A LOAD that begins: the loader's registers alone change. -/
theorem loaderSet_loadCmd (hb : loaderBusy s = false) (ha : s.accepted = false ∨ replace = true) (hburn : s.fuses.burned ≠ 0)
    (hd : loaderDead s = false) :
    LoaderSet s (loadCmd replace s)
      { s.loader with replace := replace, job := some { segment := false, replace := replace && s.accepted }, state := 1 } := by
  rw [loadCmd_may hb ha, if_neg hburn, if_neg (Bool.eq_false_iff.1 hd)]
  exact (((LoaderSet.refl s).set { s.loader with replace := replace }).trans (loaderSet_readImage (withReplace s replace))).set _

end

theorem hnsLoad_refused {s : State} (ho : MgmtOpenEarly s) {replace : Bool} {code : Byte}
    (h : loadCmd replace (unheld s 0) = refuseLoad (withReplace (unheld s 0) replace) code 1) :
    ∃ t, exec (.hnsLoad replace) s = .next t ∧ t.loader.errCode = code ∧ t.loader.state = s.loader.state ∧ t.loader.job = s.loader.job
      ∧ t.hns = s.hns ∧ t.accepted = s.accepted ∧ UnitsKept s t := by
  obtain ⟨hl, hh, ha, hu⟩ := refuseLoad_parts (withReplace (unheld s 0) replace) code 1
  refine ⟨_, (exec_mgmtEarly rfl ho).trans (congrArg _ h), ?_, ?_, ?_, hh, ha, hu⟩ <;> rw [hl] <;> rfl

theorem hnsLoad_begins {s : State} (ho : MgmtOpenEarly s) {replace : Bool} (hb : loaderBusy s = false)
    (ha : s.accepted = false ∨ replace = true) (hburn : s.fuses.burned ≠ 0) (hd : loaderDead s = false) :
    ∃ t, exec (.hnsLoad replace) s = .next t ∧ t.loader.state = 1
      ∧ t.loader.job = some { segment := false, replace := replace && s.accepted } ∧ t.loader.errCode = s.loader.errCode
      ∧ t.loader.replace = replace ∧ t.hns = s.hns ∧ t.accepted = s.accepted ∧ UnitsKept s t := by
  have h := loaderSet_loadCmd (s := unheld s 0) hb ha hburn hd
  refine ⟨_, exec_mgmtEarly rfl ho, ?_, ?_, ?_, ?_, h.hns, h.accepted, h.units⟩ <;> rw [h.loader] <;> rfl

section
variable {s : State} {stall : BitVec 4}

theorem segCmd_busy (hb : loaderBusy s = true) : segCmd stall s = refuseLoad s 0x22 2 := if_pos hb

theorem segCmd_dead (hb : loaderBusy s = false) (hd : loaderDead s = true) : segCmd stall s = refuseLoad s 0x19 2 :=
  (if_neg (Bool.eq_false_iff.1 hb)).trans (if_pos hd)

/-- A LOAD_SEG that begins: the loader's registers alone change. -/
theorem loaderSet_segCmd (hb : loaderBusy s = false) (hd : loaderDead s = false) :
    LoaderSet s (segCmd stall s)
      { s.loader with
        job := some { segment := true, replace := false }, segState := 1, segStall := stall, segImage := [], repeats := 0, delayed := false } := by
  unfold segCmd
  rw [if_neg (Bool.eq_false_iff.1 hb), if_neg (Bool.eq_false_iff.1 hd)]
  exact (loaderSet_readImage s).set _

end

theorem hnsLoadSeg_refused {s : State} (ho : MgmtOpenEarly s) {stall : Fin 16} {code : Byte}
    (h : segCmd (BitVec.ofNat 4 stall.val) (unheld s 0) = refuseLoad (unheld s 0) code 2) :
    ∃ t, exec (.hnsLoadSeg stall) s = .next t ∧ t.loader.errCode = code ∧ t.loader.segState = s.loader.segState ∧ t.hns = s.hns
      ∧ UnitsKept s t := by
  obtain ⟨hl, hh, -, hu⟩ := refuseLoad_parts (unheld s 0) code 2
  refine ⟨_, (exec_mgmtEarly rfl ho).trans (congrArg _ h), ?_, ?_, hh, hu⟩ <;> rw [hl] <;> rfl

theorem hnsLoadSeg_begins {s : State} (ho : MgmtOpenEarly s) {stall : Fin 16} (hb : loaderBusy s = false) (hd : loaderDead s = false) :
    ∃ t, exec (.hnsLoadSeg stall) s = .next t ∧ t.loader.segState = 1
      ∧ t.loader.job = some { segment := true, replace := false } ∧ t.loader.segStall = BitVec.ofNat 4 stall.val ∧ t.hns = s.hns
      ∧ t.accepted = s.accepted ∧ UnitsKept s t := by
  have h := loaderSet_segCmd (s := unheld s 0) (stall := BitVec.ofNat 4 stall.val) hb hd
  refine ⟨_, exec_mgmtEarly rfl ho, ?_, ?_, ?_, h.hns, h.accepted, h.units⟩ <;> rw [h.loader]

/-! ### ABORT (R126) -/

section
variable {s : State}

theorem loadAbort_full {j : LoadJob} (hj : s.loader.job = some j) (hseg : j.segment = false) : loadAbort s = fullFail s [] 0x21 0x3FF 0x3FFF :=
  if_pos (by simp [hj, hseg])

/-- With no full load under way ABORT looks at the segment. -/
theorem loadAbort_segment (hj : ∀ j, s.loader.job = some j → j.segment = true) :
    loadAbort s = if 1 ≤ s.loader.segState.toNat ∧ s.loader.segState.toNat ≤ 3 then segFail s 0x21 0x3FF 0x3FFF else s := by
  refine if_neg ?_
  cases h : s.loader.job with
  | none => simp
  | some j => simp [hj j h]

end

theorem hnsAbort_load {s : State} (ho : MgmtOpenEarly s) {j : LoadJob} (hj : s.loader.job = some j) (hseg : j.segment = false) :
    ∃ t, exec .hnsAbort s = .next t ∧ t.loader.errCode = 0x21 ∧ t.loader.state = 15 ∧ t.loader.job = none ∧ t.hns = s.hns
      ∧ t.accepted = s.accepted ∧ UnitsKept s t := by
  have h := loaderSet_fullFail (unheld s 0) [] 0x21 0x3FF 0x3FFF
  exact ⟨_, (exec_mgmtEarly rfl ho).trans (congrArg _ (loadAbort_full (s := unheld s 0) hj hseg)),
    (congrArg Loader.errCode h.loader :), (congrArg Loader.state h.loader :), (congrArg Loader.job h.loader :), h.hns, h.accepted, h.units⟩

theorem hnsAbort_segment {s : State} (ho : MgmtOpenEarly s) (hj : ∀ j, s.loader.job = some j → j.segment = true)
    (h1 : 1 ≤ s.loader.segState.toNat) (h3 : s.loader.segState.toNat ≤ 3) :
    ∃ t, exec .hnsAbort s = .next t ∧ t.loader.errCode = 0x21 ∧ t.loader.segState = 0 ∧ t.loader.job = none ∧ t.merged = none
      ∧ t.hns = s.hns ∧ t.accepted = s.accepted := by
  obtain ⟨hl, hm, hh, ha⟩ := segFail_parts (unheld s 0) 0x21 0x3FF 0x3FFF
  have hcmd : loadAbort (unheld s 0) = segFail (unheld s 0) 0x21 0x3FF 0x3FFF := (loadAbort_segment (s := unheld s 0) hj).trans (if_pos ⟨h1, h3⟩)
  refine ⟨_, (exec_mgmtEarly rfl ho).trans (congrArg _ hcmd), ?_, ?_, ?_, hm, hh, ha⟩ <;> rw [hl] <;> rfl

theorem hnsAbort_idle {s : State} (ho : MgmtOpenEarly s) (hj : ∀ j, s.loader.job = some j → j.segment = true)
    (h : s.loader.segState = 0 ∨ 3 < s.loader.segState.toNat) : exec .hnsAbort s = .next (unheld s 0) := by
  have hcmd : loadAbort (unheld s 0) = unheld s 0 := by
    refine (loadAbort_segment (s := unheld s 0) hj).trans (if_neg ?_)
    rintro ⟨h1, h3⟩
    obtain h0 | h4 := h
    · rw [unheld_loader, h0] at h1
      exact absurd h1 (by decide)
    · exact absurd h3 (Nat.not_le.2 h4)
  exact (exec_mgmtEarly rfl ho).trans (congrArg _ hcmd)

/-! ### The end of a load (R117, R119, R131) -/

theorem exec_harnessAccepted {s : State} {j : LoadJob} (hj : s.loader.job = some j) (hseg : j.segment = false) (hg : groomUp s 1 = true)
    (readFault regionErr : Bool) (slotErr : BitVec 2) (image : List Byte) (bad : List (Fin 16 × Byte × W16)) :
    exec (.harnessAccepted readFault regionErr slotErr image bad) s
      = .next (fullLoad (slotDamaged s slotErr) j.replace readFault regionErr image bad) := by
  simp only [exec, execHarnessAccepted, hj]
  exact if_neg (by simp [hseg, hg])

/-- A load that fails after the look at the accepted image: its error, and what runs as it was. -/
theorem harnessAccepted_fails {s t d : State} {slotErr : BitVec 2} {image : List Byte} {o : Host.Outcome State Fault Refusal} {e : LoadErr}
    (hd : d = slotDamaged s slotErr) (ho : o = .next t) (ht : t = fullFail d image e.code e.index e.record) :
    ∃ t, o = .next t ∧ t.loader.errCode = e.code ∧ t.loader.state = 15 ∧ t.loader.job = none ∧ t.hns = s.hns ∧ t.accepted = s.accepted
      ∧ UnitsKept s t := by
  subst hd ht
  obtain ⟨b, hb⟩ := loaderSet_slotDamaged s slotErr
  have h := hb.trans (loaderSet_fullFail (slotDamaged s slotErr) image e.code e.index e.record)
  exact ⟨_, ho, (congrArg Loader.errCode h.loader :), (congrArg Loader.state h.loader :), (congrArg Loader.job h.loader :), h.hns,
    h.accepted, h.units⟩

/-- The first acceptance: the image's registers and its structure are in force. -/
theorem offPlan_acceptFirst (s : State) (image : List Byte) (h : Harness) (dropped : Nat) (bad : List (Fin 16 × Byte × W16)) :
    offPlan (acceptFirst s image h dropped bad)
      = offPlan (inForce (imageRegs { s with loader := { s.loader with slot := false, segs := [] } } image dropped 1) h) := by
  unfold acceptFirst
  extract_lets _ s1 s2 _ s3 s4 s5
  have h2 : offPlan s2 = offPlan (inForce s1 h) :=
    offPlan_applyHarness s1 h bad fun s => (offUnits_startEngines _).trans (offUnits_prepareSchool s _)
  have h3 : offPlan s3 = offPlan s2 := offPlan_of_offUnits (offUnits_withSchool s2 _)
  have h4 : offPlan s4 = offPlan s3 := offPlan_of_offAir (offAir_foldl _ offAir_startPort _ _)
  have h5 : offPlan (evaluateRef s5) = offPlan s4 := offPlan_of_offAir ((offAir_of_offRef (offRef_evaluateRef s5)).trans (offAir_modAir s4 _))
  exact (offPlan_of_offUnits (offUnits_loadEvent ..)).trans (h5.trans (h4.trans (h3.trans h2)))

section
variable {s d : State} {j : LoadJob} {readFault : Bool} {slotErr : BitVec 2} {image : List Byte}

/-- A load whose checks all pass, as its REPLACE has it. -/
theorem fullLoad_passed (hc : stepsToChecker d false readFault image = none)
    (hf : stepsFull d.fuses (capsOf d) image (harnessOf image d.hns.time) = none) (replace : Bool) (bad : List (Fin 16 × Byte × W16)) :
    fullLoad d replace readFault false image bad =
      if replace then
        if journalLive d (dropSpares d.fuses (harnessOf image d.hns.time)).1 then fullFail d image 0x1A 0x3FF 0x3FFF
        else warmRequest { d with loader := { d.loader with state := 11, job := none, nextImage := some image } } 3
      else if loaderDead d then fullFail d image 0x19 0x3FF 0x3FFF
      else acceptFirst d image (dropSpares d.fuses (harnessOf image d.hns.time)).1 (dropSpares d.fuses (harnessOf image d.hns.time)).2 bad := by
  simp only [fullLoad, hc, hf, Bool.false_eq_true, if_false]

/-- The acceptance of a full image: a REPLACE asks for a warm reset, which brings the structure in. -/
theorem replace_begins (hd : d = slotDamaged s slotErr) (hr : WarmReady s) (htrip : s.power.tripped = false) :
    let t := warmRequest { d with loader := { d.loader with state := 11, job := none, nextImage := some image } } 3
    t.loader.nextImage = some image ∧ t.boot.warmStep = 1 ∧ t.boot.warmCause = 3 ∧ t.hns = s.hns ∧ t.accepted = s.accepted := by
  subst hd
  obtain ⟨b, hb⟩ := loaderSet_slotDamaged s slotErr
  obtain ⟨-, hhns, hacc, hboot, hpow, -, -⟩ := (hb.set { (slotDamaged s slotErr).loader with state := 11, job := none, nextImage := some image }).kept
  have hst := (warmRequest_begins (hr.of_boot hboot) (tripLocked_untripped (by rw [hpow, htrip])) 3).1
  exact ⟨(congrArg (fun x => x.2.2.2.1) hst :), (congrArg (fun x => x.1.warmStep) hst :), (congrArg (fun x => x.1.warmCause) hst :),
    (congrArg (fun x => x.2.1) hst :).trans hhns, (congrArg (fun x => x.2.2.1) hst :).trans hacc⟩

theorem acceptFirst_accepts (h : Harness) (dropped : Nat) (bad : List (Fin 16 × Byte × W16)) :
    let t := acceptFirst d image h dropped bad
    t.accepted = true ∧ t.hns = h ∧ t.loader.state = 12 ∧ t.loader.serial = imageSerialNo image ∧ t.loader.image = image
      ∧ t.boot.phase = .running := by
  have ht := offPlan_acceptFirst d image h dropped bad
  exact ⟨(congrArg State.accepted ht :), (congrArg State.hns ht :), (congrArg (fun x => x.loader.state) ht :),
    (congrArg (fun x => x.loader.serial) ht :), (congrArg (fun x => x.loader.image) ht :), (congrArg (fun x => x.boot.phase) ht :)⟩

end

/-- Settles O51: LOAD, LOAD_SEG and ABORT by the first check that applies, and the end of a load by the step at which it fails, or by
its REPLACE. -/
theorem loadsJudged : Obligations.LoadsJudged := by
  refine ⟨fun s ho => ⟨fun replace => ⟨fun hb => ?_, fun hb ha hr => ?_, fun hb ha hburn => ?_, fun hb ha hburn hd => ?_,
      fun hb ha => hnsLoad_begins ho hb ha⟩,
    fun stall => ⟨fun hb => hnsLoadSeg_refused ho (segCmd_busy (s := unheld s 0) hb),
      fun hb hd => hnsLoadSeg_refused ho (segCmd_dead (s := unheld s 0) hb hd), hnsLoadSeg_begins ho⟩,
    fun _ => hnsAbort_load ho, hnsAbort_segment ho, hnsAbort_idle ho⟩, fun s readFault slotErr image bad j d hj hseg hg hd => ?_⟩
  · exact hnsLoad_refused ho (loadCmd_busy (s := unheld s 0) hb)
  · exact hnsLoad_refused ho (loadCmd_live (s := unheld s 0) hb ha hr)
  · obtain ⟨t, ht, hcode, hst, hjob, hh, -, hu⟩ := hnsLoad_refused ho ((loadCmd_may (s := unheld s 0) hb ha).trans (if_pos hburn))
    exact ⟨t, ht, hcode, hst, hjob, hh, hu⟩
  · obtain ⟨t, ht, hcode, -, hjob, hh, -, hu⟩ := hnsLoad_refused ho
      ((loadCmd_may (s := unheld s 0) hb ha).trans ((if_neg hburn).trans (if_pos hd)))
    exact ⟨t, ht, hcode, hjob, hh, hu⟩
  have hex := fun regionErr => exec_harnessAccepted hj hseg hg readFault regionErr slotErr image bad
  rw [← hd] at hex
  refine ⟨harnessAccepted_fails (e := { code := 0x19 }) (image := image) hd (hex true) rfl,
    fun k e hc => harnessAccepted_fails (e := e) (image := image) hd (hex false) ?_,
    fun hc => ⟨fun k e hf => ?_, fun hf => ⟨fun hr hl => ?_, fun hr hl hstep hpwr hfail hcold htrip hup => ?_, fun hr hdead => ?_⟩⟩⟩
  · simp only [fullLoad, hc, Bool.false_eq_true, if_false]
  · obtain ⟨t, ht, hcode, hst, -, hrest⟩ := harnessAccepted_fails (e := e) (image := image) hd (hex false) (by
      simp only [fullLoad, hc, hf, Bool.false_eq_true, if_false])
    exact ⟨t, ht, hcode, hst, hrest⟩
  · obtain ⟨t, ht, hcode, hst, -, hrest⟩ := harnessAccepted_fails (e := { code := 0x1A }) (image := image) hd (hex false) (by
      rw [fullLoad_passed hc hf, if_pos hr, if_pos hl])
    exact ⟨t, ht, hcode, hst, hrest⟩
  · refine ⟨_, (hex false).trans (congrArg _ ?_), replace_begins hd ⟨hstep, hpwr, hfail, hcold, hup⟩ htrip⟩
    rw [fullLoad_passed hc hf, if_pos hr, if_neg (by rw [hl]; decide)]
  · refine ⟨_, (hex false).trans (congrArg _ ?_), acceptFirst_accepts (d := d) _ (dropSpares d.fuses (harnessOf image d.hns.time)).2 bad⟩
    rw [fullLoad_passed hc hf, if_neg (by rw [hr]; decide), if_neg (by rw [hdead]; decide)]

end Sys2Proof.Machine
end

section
/-!
PROOFS. Chapter 03, segments up to their swap point (R123 to R125, R128, R130): the checks, the edit of the shadow bank and the swap
that is armed.
-/
namespace Sys2Proof.Machine

/-! ### VALIDATED (R123, R124, R130) -/

/-- The state in which a segment that was read is judged. -/
def segStaged (s : State) (slotErr : BitVec 2) (image : List Byte) : State :=
  { slotDamaged s slotErr with
    loader := { (slotDamaged s slotErr).loader with segImage := image, segStall := BitVec.ofNat 4 (nat8 image 7) } }

theorem segStaged_parts (s : State) (slotErr : BitVec 2) (image : List Byte) :
    (segStaged s slotErr image).hns = s.hns ∧ UnitsKept s (segStaged s slotErr image) := by
  obtain ⟨b, h⟩ := loaderSet_slotDamaged s slotErr
  exact ⟨h.hns, h.units⟩

/-- Each modification of a core by a list's elements leaves all but the cores. -/
theorem foldl_modCore_eq {α : Type} (n : α → Nat) (f : α → PCore → PCore) (l : List α) (s : State) :
    ∃ cs, l.foldl (fun s x => modCore s (n x) (f x)) s = { s with cores := cs } := by
  induction l generalizing s with
  | nil => exact ⟨s.cores, rfl⟩
  | cons x l ih =>
    obtain ⟨cs, h⟩ := ih (modCore s (n x) (f x))
    exact ⟨cs, h⟩

/-- A segment that passes its checks waits VALIDATED; the cores it keeps preload its programs. -/
theorem segValid_eq (s : State) (image : List Byte) (h : Harness) :
    ∃ cs, segValid s image h = { s with merged := some h, loader := { s.loader with segState := 2 }, cores := cs } := by
  unfold segValid
  exact foldl_modCore_eq ..

section
variable {s : State} {slotErr : BitVec 2} {image : List Byte} (readFault : Bool)
  (hjob : s.loader.job.any (·.segment) = true) (hst : s.loader.segState = 1) (hup : groomUp s 1 = true)
include hjob hst hup

theorem exec_segmentValidated (regionErr : Bool) :
    exec (.segmentValidated readFault regionErr slotErr image) s =
      if regionErr then .next (segFail (segStaged s slotErr image) 0x19 0x3FF 0x3FFF)
      else match stepsToChecker (segStaged s slotErr image) true readFault image with
        | some (_, e) => .next (segFail (segStaged s slotErr image) e.code e.index e.record)
        | none => match segCheck (segStaged s slotErr image) image with
          | .inl e => .next (segFail (segStaged s slotErr image) e.code e.index e.record)
          | .inr h => .next (segValid (segStaged s slotErr image) image h) := by
  show execSegmentValidated readFault regionErr slotErr image s = _
  unfold execSegmentValidated
  rw [if_pos (by simp [hjob, hst, hup])]
  rfl

end

/-- A segment that fails a check is over, with its error, and the running structure stays. -/
theorem segmentValidated_fails {s : State} {slotErr : BitVec 2} {image : List Byte} {o : Host.Outcome State Fault Refusal} {code : Byte}
    {index record : Nat} (ho : o = .next (segFail (segStaged s slotErr image) code index record)) :
    ∃ t, o = .next t ∧ t.loader.errCode = code ∧ t.loader.segState = 0 ∧ t.merged = none ∧ t.hns = s.hns := by
  obtain ⟨hl, hm, hh, -⟩ := segFail_parts (segStaged s slotErr image) code index record
  refine ⟨_, ho, ?_, ?_, hm, hh.trans (segStaged_parts ..).1⟩ <;> rw [hl] <;> rfl

theorem segmentValidated_passes {s : State} {slotErr : BitVec 2} {image : List Byte} {o : Host.Outcome State Fault Refusal} {h : Harness}
    (ho : o = .next (segValid (segStaged s slotErr image) image h)) :
    ∃ t, o = .next t ∧ t.merged = some h ∧ t.loader.segState = 2 ∧ t.loader.segImage = image
      ∧ t.loader.segStall = BitVec.ofNat 4 (nat8 image 7) ∧ t.hns = s.hns ∧ t.mem = s.mem ∧ t.arrays = s.arrays := by
  obtain ⟨cs, hv⟩ := segValid_eq (segStaged s slotErr image) image h
  obtain ⟨hh, hu⟩ := segStaged_parts s slotErr image
  obtain ⟨harr, -, -, -, hmem, -⟩ := hu
  rw [hv] at ho
  exact ⟨_, ho, rfl, rfl, rfl, rfl, hh, hmem, harr⟩

/-! ### EDITED (R124) -/

/-- The merged bank is in the shadow bank, and the segment is EDITED. -/
def segEdited (s : State) (h : Harness) : State :=
  { s with
    air := { setShadow s.air { entries := h.gait } with swapFrame := none },
    loader := { s.loader with segState := 3, editedAt := airCount s.air, delayed := false } }

/-- What setting the shadow bank leaves of the clock and the active bank. -/
theorem setShadow_eq (a : Air) (b : GaitBank) : ∃ b0 b1, setShadow a b = { a with bank0 := b0, bank1 := b1 } := by
  unfold setShadow
  split
  · exact ⟨b, a.bank1, rfl⟩
  · exact ⟨a.bank0, b, rfl⟩

theorem segEdited_shadow (s : State) (h : Harness) : (shadowGait (segEdited s h).air).entries = h.gait :=
  congrArg GaitBank.entries (shadowGait_setShadow s.air { entries := h.gait } :)

theorem segEdited_active (s : State) (h : Harness) : activeGait (segEdited s h).air = activeGait s.air :=
  (activeGait_setShadow s.air { entries := h.gait } :)

theorem airCount_setShadow (a : Air) (b : GaitBank) : airCount (setShadow a b) = airCount a := by
  obtain ⟨b0, b1, h⟩ := setShadow_eq a b
  rw [h]
  rfl

/-- The swap tick is found in the active bank, whatever the shadow bank holds. -/
theorem swapTick_segEdited (s : State) (h : Harness) (i lead span : Nat) : swapTick (segEdited s h) i lead span = swapTick s i lead span := by
  have ha := segEdited_active s h
  have hair : (segEdited s h).air.tick = s.air.tick ∧ (segEdited s h).air.frame = s.air.frame
      ∧ (segEdited s h).air.entryCount = s.air.entryCount := by
    obtain ⟨b0, b1, hb⟩ := setShadow_eq s.air { entries := h.gait }
    exact ⟨(congrArg Air.tick hb :), (congrArg Air.frame hb :), (congrArg Air.entryCount hb :)⟩
  obtain ⟨htick, hframe, hcount⟩ := hair
  simp only [swapTick, gaitEntries, gaitBad, ha, htick, hframe, hcount]

/-- A stall whose doorbells a segment holds is HELD where it was ACTIVE; nothing but the stalls changes. -/
theorem settleHold_held {s : State} {i : Nat} (h : (getStall s i).segHold = true) :
    ∃ sts, settleHold s i = { s with stalls := sts } ∧ (tget {} sts i).segHold = true := by
  cases hst : (getStall s i).state
  case active =>
    refine ⟨tmod {} s.stalls i (fun x => { x with state := .held }), ?_, ?_⟩
    · simp only [settleHold, hst, h]
      rfl
    · rw [tget_tmod_same]
      exact h
  case held => exact ⟨s.stalls, by simp only [settleHold, hst, h]; rfl, h⟩
  all_goals exact ⟨s.stalls, by simp only [settleHold, hst], h⟩

/-- Where no swap tick qualifies the segment stays EDITED. -/
theorem armSwap_none {s : State} {lead span : Nat} (h : swapTick s s.loader.segStall.toNat lead span = none) :
    armSwap s lead span = { s with loader := { s.loader with segState := 3 } } := by
  simp only [armSwap, h]

/-- A swap that is armed: the segment is ARMED with its swap tick, and its stall's doorbells are held. -/
theorem armSwap_some {s : State} {lead span k off : Nat} (h : swapTick s s.loader.segStall.toNat lead span = some (k, off)) :
    ∃ sts, armSwap s lead span = { s with
        air := { s.air with swapFrame := some (s.air.frame + BitVec.ofNat 10 k + 1) },
        loader := { s.loader with segState := 4, segFrame := s.air.frame + BitVec.ofNat 10 k, segTick := BitVec.ofNat 21 off },
        stalls := sts }
      ∧ (tget {} sts s.loader.segStall.toNat).segHold = true := by
  simp only [armSwap, h]
  generalize hu : modStall _ _ _ = u
  have hhold : (getStall u s.loader.segStall.toNat).segHold = true := by rw [← hu, getStall_modStall]
  obtain ⟨sts, hs, hh⟩ := settleHold_held hhold
  rw [hs, ← hu]
  exact ⟨sts, rfl, hh⟩

/-- The edit of a segment that no fence has met and whose kept cores are loaded. -/
theorem exec_segmentEdited {s : State} {h : Harness} (hm : s.merged = some h) (hst : s.loader.segState = 2) (hcopy : s.air.copying = false)
    (hup : groomUp s 3 = true) (hfence : segNowFenced s = false)
    (hcores : (keptCores s h s.loader.segStall.toNat).any (fun x => decide ((getCore s x.1).st ≠ .out)
        && decide ((inactBank (getCore s x.1)).tag ≠ some (imageSerialNo s.loader.segImage, x.2))) = false) :
    exec .segmentEdited s = .next (armSwap (segEdited s h) 12288 searchSpan) := by
  show execSegmentEdited s = _
  unfold execSegmentEdited
  rw [hm]
  dsimp only
  rw [if_pos ⟨hst, hcopy, hup⟩, hfence, hcores]
  unfold segEdited
  rw [← airCount_setShadow s.air { entries := h.gait }]
  rfl

theorem segmentEdited_fenced {s : State} {h : Harness} (hm : s.merged = some h) (hst : s.loader.segState = 2) (hcopy : s.air.copying = false)
    (hup : groomUp s 3 = true) (hfence : segNowFenced s = true) :
    ∃ t, exec .segmentEdited s = .next t ∧ t.loader.errCode = 0x23 ∧ t.loader.segState = 0 ∧ t.merged = none ∧ t.hns = s.hns := by
  obtain ⟨hl, hn, hh, -⟩ := segFail_parts s 0x23 0x3FF 0x3FFF
  refine ⟨segFail s 0x23 0x3FF 0x3FFF, ?_, ?_, ?_, hn, hh⟩
  · show execSegmentEdited s = _
    unfold execSegmentEdited
    rw [hm]
    dsimp only
    rw [if_pos ⟨hst, hcopy, hup⟩, if_pos hfence]
  · rw [hl]
    rfl
  · rw [hl]
    rfl

theorem segmentEdited_arms {s : State} {h : Harness} {k off : Nat}
    (hx : exec .segmentEdited s = .next (armSwap (segEdited s h) 12288 searchSpan))
    (ht : swapTick s s.loader.segStall.toNat 12288 searchSpan = some (k, off)) :
    ∃ t, exec .segmentEdited s = .next t ∧ t.loader.segState = 4 ∧ t.loader.segFrame = s.air.frame + BitVec.ofNat 10 k
      ∧ t.loader.segTick = BitVec.ofNat 21 off ∧ (getStall t s.loader.segStall.toNat).segHold = true ∧ (shadowGait t.air).entries = h.gait
      ∧ activeGait t.air = activeGait s.air ∧ t.hns = s.hns ∧ UnitsKept s t := by
  obtain ⟨sts, hu, hhold⟩ := armSwap_some ((swapTick_segEdited s h _ _ _).trans ht)
  obtain ⟨b0, b1, hb⟩ := setShadow_eq s.air { entries := h.gait }
  rw [hu] at hx
  exact ⟨_, hx, rfl, (congrArg (fun a => a.frame + BitVec.ofNat 10 k) hb :), rfl, hhold, segEdited_shadow s h, segEdited_active s h, rfl,
    rfl, rfl, rfl, rfl, rfl, rfl, rfl, rfl, rfl⟩

theorem segmentEdited_waits {s : State} {h : Harness}
    (hx : exec .segmentEdited s = .next (armSwap (segEdited s h) 12288 searchSpan))
    (ht : swapTick s s.loader.segStall.toNat 12288 searchSpan = none) :
    ∃ t, exec .segmentEdited s = .next t ∧ t.loader.segState = 3 ∧ (shadowGait t.air).entries = h.gait
      ∧ activeGait t.air = activeGait s.air ∧ t.hns = s.hns ∧ t.stalls = s.stalls ∧ UnitsKept s t := by
  rw [armSwap_none ((swapTick_segEdited s h _ _ _).trans ht)] at hx
  exact ⟨_, hx, rfl, segEdited_shadow s h, segEdited_active s h, rfl, rfl, rfl, rfl, rfl, rfl, rfl, rfl, rfl, rfl, rfl⟩

/-! ### No swap tick (R124, R125) -/

theorem segmentNoSwapPoint_fails {s : State} (h : s.loader.segState = 3) :
    ∃ t, exec .segmentNoSwapPoint s = .next t ∧ t.loader.segState = 0 ∧ t.merged = none ∧ t.hns = s.hns
      ∧ t.loader.errCode = (if s.loader.delayed then 0x20 else 0x1F) := by
  obtain ⟨hl, hm, hh, -⟩ := segFail_parts s (if s.loader.delayed then 0x20 else 0x1F) 0x3FF 0x3FFF
  refine ⟨_, if_pos h, ?_, hm, hh, ?_⟩ <;> rw [hl] <;> rfl

theorem segmentNoSwapPoint_idle {s : State} (h : s.loader.segState ≠ 3) : exec .segmentNoSwapPoint s = .next s := if_neg h

end Sys2Proof.Machine
end

section
/-!
PROOFS. Chapter 03, the swap of a segment (R58, R124, R125, R441): the generations that a STALL_SWAP advances, the replacements whose swap
point it is, and the segment whose records it brings into force.
-/
namespace Sys2Proof.Machine

/-! ### The generations (R58) -/

/-- The target of an entry made up of its fields. -/
theorem actNow_target (s : State) (action : BitVec 6) (target : Byte) : gTarget (actNow s action target).entry = target := by
  ext i hi
  simp only [actNow, dispatched, gTarget, bits, place]
  have htick : s.air.tick.getLsbD (40 + i) = false := BitVec.getLsbD_of_ge _ _ (by omega)
  have hact : action.getLsbD (40 + i - 21) = false := BitVec.getLsbD_of_ge _ _ (by omega)
  simp [hi, show 40 + i < 64 by omega, htick, hact]

/-- Each cluster of a list without repetitions advances by one generation, and no other. -/
theorem gen_foldl_bumpGen (l : List Nat) (hl : l.Nodup) (s : State) (due c : Nat) :
    (getCluster (l.foldl (fun s c => bumpGen s c due) s) c).gen = (getCluster s c).gen + (if c ∈ l then 1 else 0) := by
  induction l generalizing s with
  | nil => simp
  | cons d l ih =>
    obtain ⟨hd, hl⟩ := List.nodup_cons.1 hl
    rw [List.foldl_cons, ih hl]
    by_cases hc : c = d
    · subst hc
      simp [bumpGen, hd]
    · rw [bumpGen, getCluster_modCluster_ne _ _ (Ne.symm hc)]
      simp [hc]

/-- A STALL_SWAP that no entry asked for is its own swap tick: the clusters with a core of the stall advance. -/
theorem gen_takeAct_unasked {s u : State} {stall : Fin 16} {g : GaitAct} (hi : s.air.issued = [])
    (hu : takeAct s 6 (BitVec.ofNat 8 stall.val) (fun _ => true) = some (g, u)) {c : Nat} (hc : c < 6) :
    (getCluster u c).gen = (getCluster s c).gen
      + (if (resRec s stall.val).any (fun r => (List.range 8).any (fun k => r.pcrOwn.getLsbD (8 * c + k))) then 1 else 0) := by
  have hnone : issuedAct s 6 (BitVec.ofNat 8 stall.val) (fun _ => true) = none := by simp [issuedAct, hi]
  rw [takeAct_unasked hnone] at hu
  cases hu
  unfold gaitSwapTick swapClusters
  rw [if_neg (by rw [actNow_action]; decide), if_pos (actNow_action ..), gen_foldl_bumpGen _ (List.nodup_range.filter _),
    actNow_target, show (BitVec.ofNat 8 stall.val).toNat = stall.val by simp; omega]
  simp [hc]

/-- Taking an action leaves the clock. -/
theorem abs_takeAct {s u : State} {action : BitVec 6} {target : Byte} {arg : W16 → Bool} {g : GaitAct}
    (hu : takeAct s action target arg = some (g, u)) : u.air.abs = s.air.abs := by
  unfold takeAct at hu
  split at hu
  · split at hu
    · cases hu
    · cases hu
      rfl
  · cases hu
    rw [gaitSwapTick_eq]

/-- An issued STALL_SWAP has advanced the generations at its tick: it advances none as it takes effect. -/
theorem clusters_takeAct_issued {s u : State} {action : BitVec 6} {target : Byte} {arg : W16 → Bool} {g g' : GaitAct}
    (hi : issuedAct s action target arg = some g') (hu : takeAct s action target arg = some (g, u)) : u.clusters = s.clusters := by
  rw [takeAct_issued hi] at hu
  split at hu
  · cases hu
  · cases hu
    rfl

/-! ### The swap point (R86) -/

/-- A state without its cores and stalls. -/
def offStalls (s : State) : State := { s with cores := [], stalls := [] }

theorem eq_of_offStalls {s t : State} (h : offStalls t = offStalls s) : t = { s with cores := t.cores, stalls := t.stalls } :=
  (congrArg (fun x => { x with cores := t.cores, stalls := t.stalls }) h :)

/-- Replacements whose swap point it is change cores and stalls alone. -/
theorem swapPoint_eq (s : State) (i : Nat) (p : Remap → Bool) :
    swapPoint s i p = { s with cores := (swapPoint s i p).cores, stalls := (swapPoint s i p).stalls } := by
  refine eq_of_offStalls (foldl_keep offStalls _ (fun s r => ?_) _ _)
  split
  · split
    · split
      · rfl
      · unfold beginLoad
        split <;> rfl
    · rfl
  · rfl

/-! ### A STALL_SWAP that no segment waits for -/

section
variable {s u : State} {stall : Fin 16} {g : GaitAct} (hu : takeAct s 6 (BitVec.ofNat 8 stall.val) (fun _ => true) = some (g, u))
include hu

/-- At the swap point of a STALL_SWAP the air state is that of the action taken, and all but the units is as it was. -/
theorem offUnits_atSwap : offUnits (swapPoint u stall.val (fun _ => true)) = { offUnits s with air := u.air } :=
  (offUnits_swapPoint ..).trans (congrArg offUnits (takeAct_eq hu) :)

theorem merged_atSwap : (swapPoint u stall.val (fun _ => true)).merged = s.merged := (congrArg State.merged (offUnits_atSwap hu) :)

theorem segArmed_atSwap : segArmed (swapPoint u stall.val (fun _ => true)) g = segArmed s g :=
  (congrArg (segArmed · g) (offUnits_atSwap hu) :)

theorem exec_stallSwap_some {h : Harness} (hm : s.merged = some h) :
    exec (.stallSwap stall) s =
      if segArmed s g then .next (segSwap (swapPoint u stall.val (fun _ => true)) h g.due (gOffset g.entry))
      else .next (swapPoint u stall.val (fun _ => true)) := by
  show execStallSwap stall s = _
  unfold execStallSwap
  dsimp only
  rw [hu]
  dsimp only
  rw [merged_atSwap hu, segArmed_atSwap hu, hm]

theorem exec_stallSwap_none (hm : s.merged = none) : exec (.stallSwap stall) s = .next (swapPoint u stall.val (fun _ => true)) := by
  show execStallSwap stall s = _
  unfold execStallSwap
  dsimp only
  rw [hu]
  dsimp only
  rw [merged_atSwap hu, hm]

theorem exec_stallSwap_unarmed (h : s.merged = none ∨ segArmed s g = false) :
    exec (.stallSwap stall) s = .next (swapPoint u stall.val (fun _ => true)) := by
  cases hm : s.merged with
  | none => exact exec_stallSwap_none hu hm
  | some k =>
    rw [hm] at h
    rw [exec_stallSwap_some hu hm, h.resolve_left (Option.some_ne_none k)]
    rfl

/-- A STALL_SWAP that no segment waits for: the generations, where it is its own swap tick, and what takes over at the swap point. -/
theorem stallSwap_unarmed (h : s.merged = none ∨ segArmed s g = false) :
    ∃ t, exec (.stallSwap stall) s = .next t
      ∧ (s.air.issued = [] → ∀ c, c < 6 → (getCluster t c).gen = (getCluster s c).gen
        + (if (resRec s stall.val).any (fun r => (List.range 8).any (fun k => r.pcrOwn.getLsbD (8 * c + k))) then 1 else 0))
      ∧ (issuedAct s 6 (BitVec.ofNat 8 stall.val) (fun _ => true) = some g → t.clusters = s.clusters)
      ∧ t.hns = s.hns ∧ t.loader = s.loader ∧ t.merged = s.merged ∧ t.mem = s.mem ∧ t.arrays = s.arrays ∧ t.air = u.air := by
  refine ⟨_, exec_stallSwap_unarmed hu h, ?_⟩
  rw [swapPoint_eq]
  have he := takeAct_eq hu
  exact ⟨fun hi _ hc => (gen_takeAct_unasked hi hu hc :), fun hi => (clusters_takeAct_issued hi hu :), (congrArg State.hns he :),
    (congrArg State.loader he :), (congrArg State.merged he :), (congrArg State.mem he :), (congrArg State.arrays he :), rfl⟩

end

/-! ### Network records come into force (R441) -/

/-- The structure `h` with other network records. -/
def OtherNets (h k : Harness) : Prop := ∃ cs ns ls ss, k = { h with carriers := cs, nets := ns, ldpc := ls, schoolNets := ss }

theorem OtherNets.refl (h : Harness) : OtherNets h h := ⟨_, _, _, _, rfl⟩

theorem OtherNets.trans {h k l : Harness} (hk : OtherNets h k) (kl : OtherNets k l) : OtherNets h l := by
  obtain ⟨_, _, _, _, rfl⟩ := hk
  obtain ⟨_, _, _, _, rfl⟩ := kl
  exact ⟨_, _, _, _, rfl⟩

theorem otherNets_mergeNets (h : Harness) (i : Nat) (cs : List CarrierCfg) (ns : List NetCfg) (ls : List CodeCfg) (sn : List SchoolCfg) :
    OtherNets h (mergeNets h i cs ns ls sn) := ⟨_, _, _, _, rfl⟩

theorem offUnits_applyNets (s : State) (x : NetNext) :
    offUnits (applyNets s x) = { offUnits s with hns := mergeNets s.hns x.stall x.carriers x.nets x.ldpc x.schoolNets } := by
  unfold applyNets
  simp only [offUnits_reloadOf, offUnits_swapSchool, offUnits_moveCarriers]
  rfl

theorem offUnits_foldl_applyNets (l : List NetNext) (s : State) :
    ∃ h, OtherNets s.hns h ∧ offUnits (l.foldl applyNets s) = { offUnits s with hns := h } := by
  induction l generalizing s with
  | nil => exact ⟨s.hns, .refl _, rfl⟩
  | cons x l ih =>
    obtain ⟨h, hn, he⟩ := ih (applyNets s x)
    have hx := offUnits_applyNets s x
    have hh : (applyNets s x).hns = mergeNets s.hns x.stall x.carriers x.nets x.ldpc x.schoolNets := (congrArg State.hns hx :)
    rw [hh] at hn
    exact ⟨h, (otherNets_mergeNets ..).trans hn, he.trans (congrArg (fun u => { u with hns := h }) hx :)⟩

/-- Network records whose slot boundary has come are in force; the others wait on. -/
theorem offUnits_settleNets {s t : State} (h : offUnits s = offUnits t) :
    ∃ k, OtherNets t.hns k ∧ offUnits (settleNets s)
      = { offUnits t with hns := k, netNext := t.netNext.filter (fun x => !decide (x.from_ ≤ t.air.abs.toNat)) } := by
  obtain ⟨k, hn, he⟩ := offUnits_foldl_applyNets (s.netNext.filter (fun x => decide (x.from_ ≤ s.air.abs.toNat)))
    { s with netNext := s.netNext.filter (fun x => !decide (x.from_ ≤ s.air.abs.toNat)) }
  have hh : s.hns = t.hns := (congrArg State.hns h :)
  exact ⟨k, hh ▸ hn, he.trans (congrArg (fun x => { x with
    hns := k, netNext := x.netNext.filter (fun y => !decide (y.from_ ≤ x.air.abs.toNat)) }) h :)⟩

/-! ### The swap of a segment (R124, R125) -/

/-- A state in which a segment of `s` is in force, but for the network records that wait. -/
def segInForce (s : State) (h : Harness) : State :=
  let i := s.loader.segStall.toNat
  { s with
    hns := { h with carriers := s.hns.carriers, nets := s.hns.nets, ldpc := s.hns.ldpc, schoolNets := s.hns.schoolNets },
    merged := none, loader := { s.loader with
      segState := 0, job := none, segImage := [], repeats := 0, delayed := false,
      segSerial := tset 0 s.loader.segSerial i (imageSerialNo s.loader.segImage),
      segs := tset none s.loader.segs i (some {
        stall := i, base := imageBase s.loader.segImage, serial := imageSerialNo s.loader.segImage, bytes := s.loader.segImage }),
      loadCnt := satInc s.loader.loadCnt } }

/-- Beside units and clock a swapped segment leaves its structure in force, with the network records whose slot boundary has come; the
others wait for a later tick. -/
theorem offClock_swapSegment (s : State) (h : Harness) (at_ off : Nat) :
    ∃ k l, OtherNets h k ∧ (∀ x ∈ l, s.air.abs.toNat < x.from_)
      ∧ offClock (swapSegment s h at_ off) = { offClock (segInForce s h) with hns := k, netNext := l } := by
  unfold swapSegment
  extract_lets was old image serial i a1 a2 l a3 a4 a5 a6 a7 a8 a9 b c
  have h2 : offUnits a2 = offUnits a1 := offUnits_expireBatches ..
  have h3 : offClock a3 = { offClock (segInForce s h) with netNext := a3.netNext } := (congrArg (fun x => { x with
    hns := a3.hns, netNext := a3.netNext, merged := none, loader := { x.loader with
      segState := 0, job := none, segImage := [], repeats := 0, delayed := false,
      segSerial := tset 0 x.loader.segSerial i serial,
      segs := tset none x.loader.segs i (some { stall := i, base := imageBase image, serial := serial, bytes := image }),
      loadCnt := satInc x.loader.loadCnt } }) (offClock_of_offUnits h2) :)
  have h7 : offUnits a7 = offUnits a3 := by
    unfold a7 a6 a5 a4
    rw [offUnits_setDetectors, offUnits_foldl _ offUnits_setTokens, offUnits_gainWays, offUnits_leaveOwned, offUnits_modStall]
  have h10 : offUnits ((List.range 48).foldl (fun s n => swapCoreOwner s old i n at_) a9) = offUnits a3 := by
    rw [offUnits_foldl _ (fun s n => offUnits_swapCoreOwner ..), offUnits_reloadOf, offUnits_coverSegment, h7]
  obtain ⟨k, hk, hb⟩ := offUnits_settleNets h10
  have hc : offUnits c = offUnits b := (offUnits_settleHold ..).trans (offUnits_modStall ..)
  have habs : a3.air.abs = s.air.abs := (congrArg (fun x => x.air.abs) h2 :)
  rw [habs] at hb
  change offUnits b = _ at hb
  refine ⟨k, a3.netNext.filter (fun x => !decide (x.from_ ≤ s.air.abs.toNat)), .trans ⟨_, _, _, _, rfl⟩ hk, fun x hx => ?_, ?_⟩
  · simpa using (List.mem_filter.1 hx).2
  · clear_value a3 b c
    have hend : offUnits (loadEvent (refreshBacklog c) serial 0 2 i) = offUnits b :=
      (offUnits_loadEvent (refreshBacklog c) serial 0 2 i).trans ((offUnits_refreshBacklog c).trans hc)
    refine (offClock_of_offUnits hend).trans ((congrArg (fun x => { x with air := {} }) hb :).trans ?_)
    exact (congrArg (fun x => { x with hns := k, netNext := a3.netNext.filter (fun x => !decide (x.from_ ≤ s.air.abs.toNat)) }) h3 :)

/-- A segment armed for this swap tick, whose checks still hold and whose JOB_ABI is that in force, is swapped in. -/
theorem segSwap_swaps {s : State} {h : Harness} (hfence : segNowFenced s = false)
    (habi : (s.hns.stalls.find? (fun r => r.stall == s.loader.segStall.toNat)).map (·.jobAbi)
      = (h.stalls.find? (fun r => r.stall == s.loader.segStall.toNat)).map (·.jobAbi)) (at_ off : Nat) :
    segSwap s h at_ off = swapSegment s h at_ off := by
  unfold segSwap
  extract_lets i abi
  rw [if_neg (by simp [hfence]), if_neg (fun hne => hne.1 habi)]

/-- A STALL_SWAP that an armed segment waits for brings it into force. -/
theorem stallSwap_armed {s u : State} {stall : Fin 16} {g : GaitAct} {h : Harness}
    (hu : takeAct s 6 (BitVec.ofNat 8 stall.val) (fun _ => true) = some (g, u)) (hm : s.merged = some h) (ha : segArmed s g = true)
    (hfence : segNowFenced s = false)
    (habi : (s.hns.stalls.find? (fun r => r.stall == s.loader.segStall.toNat)).map (·.jobAbi)
      = (h.stalls.find? (fun r => r.stall == s.loader.segStall.toNat)).map (·.jobAbi)) :
    ∃ t, exec (.stallSwap stall) s = .next t
      ∧ (∃ cs ns ls ss, t.hns = { h with carriers := cs, nets := ns, ldpc := ls, schoolNets := ss })
      ∧ (∀ x ∈ t.netNext, s.air.abs.toNat < x.from_)
      ∧ t.merged = none ∧ t.loader.segState = 0 ∧ t.loader.job = none ∧ t.loader.loadCnt = satInc s.loader.loadCnt
      ∧ tget 0 t.loader.segSerial s.loader.segStall.toNat = imageSerialNo s.loader.segImage := by
  have hs := offUnits_atSwap hu
  rw [exec_stallSwap_some hu hm, if_pos ha]
  generalize swapPoint u stall.val (fun _ => true) = w at hs ⊢
  have hl : w.loader = s.loader := (congrArg State.loader hs :)
  have hh : w.hns = s.hns := (congrArg State.hns hs :)
  have habs : w.air.abs = s.air.abs := (congrArg (fun x => x.air.abs) hs :).trans (abs_takeAct hu :)
  have hf : segNowFenced w = false := (congrArg segNowFenced hs :).trans hfence
  rw [segSwap_swaps hf (by rw [hl, hh, habi])]
  obtain ⟨k, l, hk, hnext, he⟩ := offClock_swapSegment w h g.due (gOffset g.entry)
  rw [habs] at hnext
  have hns : (swapSegment w h g.due (gOffset g.entry)).hns = k := (congrArg State.hns he :)
  have hnet : (swapSegment w h g.due (gOffset g.entry)).netNext = l := (congrArg State.netNext he :)
  have hload : (swapSegment w h g.due (gOffset g.entry)).loader = (segInForce s h).loader :=
    (congrArg State.loader he :).trans (congrArg (fun x => (segInForce x h).loader) hs :)
  refine ⟨_, rfl, ?_, ?_, (congrArg State.merged he :), ?_, ?_, ?_, ?_⟩
  · rw [hns]
    exact hk
  · rw [hnet]
    exact hnext
  · rw [hload]
    rfl
  · rw [hload]
    rfl
  · rw [hload]
    rfl
  · rw [hload]
    exact tget_tset_same ..

/-- Settles O52: a segment through its checks, its edit and the arming of its swap; STALL_SWAP by whether a segment waits for it. -/
theorem segmentsSwap : Obligations.SegmentsSwap := by
  refine ⟨fun s => ⟨fun readFault slotErr image d hjob hst hup hd => ?_, fun h hm hst hcopy hup =>
      ⟨segmentEdited_fenced hm hst hcopy hup, fun hfence hcores => ?_⟩,
    segmentNoSwapPoint_fails, segmentNoSwapPoint_idle⟩,
    fun s stall g u hu => ⟨stallSwap_unarmed hu, fun h => stallSwap_armed hu⟩⟩
  · have hx := exec_segmentValidated (slotErr := slotErr) (image := image) readFault hjob hst hup
    change d = segStaged s slotErr image at hd
    subst hd
    refine ⟨segmentValidated_fails (hx true), fun k e hc => ?_, fun hc => ⟨fun e hs => ?_, fun h hs => ?_⟩⟩
    · exact segmentValidated_fails ((hx false).trans (by rw [hc]; rfl))
    · exact segmentValidated_fails ((hx false).trans (by rw [hc, hs]; rfl))
    · exact segmentValidated_passes ((hx false).trans (by rw [hc, hs]; rfl))
  · have hx := exec_segmentEdited hm hst hcopy hup hfence hcores
    exact ⟨fun k off => segmentEdited_arms hx, segmentEdited_waits hx⟩

end Sys2Proof.Machine
end

section
/-!
PROOFS. Chapters 03 and 18, how resets begin (R132, R595, R623, R640, R652, R654): the cold and the warm reset that are asked for, and
the recovery of a trip.
-/
namespace Sys2Proof.Machine

/-! ### Cold resets (R623, R640, R652) -/

/-- A cold reset with power present has its snapshot written first, and supersedes a warm one. -/
theorem coldRequest_begins {s : State} (hp : s.boot.pwrOk = true) (hc : s.boot.coldWaiting = false) (en : Bool) :
    ∃ tr, tr.writing.isSome = true ∧ coldRequest s en = { s with
      trail := tr, boot := { s.boot with coldWaiting := true, warmStep := 0, warmHeld := false, testPin := en } } := by
  unfold coldRequest
  rw [if_neg (by simp [hp, hc])]
  cases hw : s.trail.writing.isSome
  · exact ⟨(beginSnap s 2).trail, rfl, rfl⟩
  · exact ⟨s.trail, hw, rfl⟩

theorem coldRequest_idle {s : State} (h : s.boot.pwrOk = false ∨ s.boot.coldWaiting = true) (en : Bool) : coldRequest s en = s := if_pos h

theorem crstN_begins {s : State} (hp : s.boot.pwrOk = true) (hc : s.boot.coldWaiting = false) (en : Bool) :
    ∃ t, exec (.crstN en) s = .next t ∧ t.boot.coldWaiting = true ∧ t.boot.warmStep = 0 ∧ t.trail.writing.isSome = true
      ∧ t = { s with boot := t.boot, trail := t.trail } := by
  obtain ⟨tr, hw, h⟩ := coldRequest_begins hp hc en
  exact ⟨_, congrArg Host.Outcome.next h, rfl, rfl, hw, rfl⟩

/-- BOOT_RST_CTL acts where it is available, with the confirm code. -/
theorem exec_bootRstCold {s : State} (ho : MgmtOpenEarly s) (hr : rstAvailable s = true) (en : Bool) :
    exec (.bootRstCold 0x7E15 en) s = .next (coldRequest (unheld s 0) en) :=
  (exec_mgmtEarly rfl ho).trans (congrArg _ (if_pos ⟨rfl, hr⟩))

theorem exec_bootRstWarm {s : State} (ho : MgmtOpenEarly s) (hr : rstAvailable s = true) :
    exec (.bootRstWarm 0x7E15) s = .next (warmRequest (unheld s 0) 1) :=
  (exec_mgmtEarly rfl ho).trans (congrArg _ (if_pos ⟨rfl, hr⟩))

theorem bootRst_refused {s : State} (ho : MgmtOpenEarly s) {confirm : W16} (h : confirm ≠ 0x7E15 ∨ rstAvailable s = false) :
    (∀ en, exec (.bootRstCold confirm en) s = .next (unheld s 0)) ∧ exec (.bootRstWarm confirm) s = .next (unheld s 0) := by
  have hn : ¬(confirm = 0x7E15 ∧ rstAvailable (unheld s 0) = true) := by
    rintro ⟨hc, hr⟩
    exact h.elim (· hc) (fun hf => Bool.false_ne_true (hf.symm.trans hr))
  exact ⟨fun en => (exec_mgmtEarly rfl ho).trans (congrArg _ (if_neg hn)), (exec_mgmtEarly rfl ho).trans (congrArg _ (if_neg hn))⟩

theorem bootRstCold_begins {s : State} (ho : MgmtOpenEarly s) (hr : rstAvailable s = true) (hp : s.boot.pwrOk = true)
    (hc : s.boot.coldWaiting = false) (en : Bool) :
    ∃ t, exec (.bootRstCold 0x7E15 en) s = .next t ∧ t.boot.coldWaiting = true ∧ t.boot.warmStep = 0 ∧ t.trail.writing.isSome = true
      ∧ t = { s with boot := t.boot, trail := t.trail, funcs := t.funcs } := by
  obtain ⟨tr, hw, h⟩ := coldRequest_begins (s := unheld s 0) hp hc en
  exact ⟨_, (exec_bootRstCold ho hr en).trans (congrArg _ h), rfl, rfl, hw, rfl⟩

/-! ### Warm resets (R640, R652, R654) -/

/-- What a warm reset that starts leaves, part by part. -/
theorem warmRequest_parts {s : State} (hr : WarmReady s) (hlock : tripLocked s = false) (cause : BitVec 3) :
    let t := warmRequest s cause
    t.boot.warmStep = 1 ∧ t.boot.warmCause = cause ∧ t.boot.lastReset = 3 ∧ t.boot.warmCnt = satInc s.boot.warmCnt
      ∧ t.hns = s.hns ∧ t.accepted = s.accepted := by
  have h := (warmRequest_begins hr hlock cause).1
  exact ⟨(congrArg (fun x => x.1.warmStep) h :), (congrArg (fun x => x.1.warmCause) h :), (congrArg (fun x => x.1.lastReset) h :),
    (congrArg (fun x => x.1.warmCnt) h :), (congrArg (fun x => x.2.1) h :), (congrArg (fun x => x.2.2.1) h :)⟩

theorem bootRstWarm_begins {s : State} (ho : MgmtOpenEarly s) (hav : rstAvailable s = true) (hr : WarmReady s)
    (hlock : tripLocked s = false) :
    ∃ t, exec (.bootRstWarm 0x7E15) s = .next t ∧ t.boot.warmStep = 1 ∧ t.boot.warmCause = 1 ∧ t.hns = s.hns ∧ t.accepted = s.accepted := by
  obtain ⟨hstep, hcause, -, -, hh, ha⟩ := warmRequest_parts (hr.of_boot (unheld_boot s 0)) hlock 1
  exact ⟨_, exec_bootRstWarm ho hav, hstep, hcause, hh, ha⟩

/-! ### The recovery of a trip (R595, R654) -/

section
variable {s : State} (ht : s.power.tripped = true) (hlock : tripLocked s = false)
include ht hlock

theorem exec_tripRecovery :
    exec .tripRecovery s = if !(tripEnd s).accepted then .next (tripBoot (tripEnd s))
      else if (tripEnd s).boot.warmStep ≠ 0 then .next { tripEnd s with boot := { (tripEnd s).boot with warmStep := 1, warmCause := 2 } }
      else .next (warmRequest (tripEnd s) 2) :=
  if_neg (by simp [ht, hlock])

omit ht hlock in
theorem tripEnd_parts (s : State) : (tripEnd s).boot = s.boot ∧ (tripEnd s).hns = s.hns ∧ (tripEnd s).accepted = s.accepted := by
  have h := standing_tripEnd s
  exact ⟨(congrArg (fun x => x.1) h :), (congrArg (fun x => x.2.1) h :), (congrArg (fun x => x.2.2.1) h :)⟩

theorem tripRecovery_warm (ha : s.accepted = true) (hr : WarmReady s) :
    ∃ t, exec .tripRecovery s = .next t ∧ t.power.tripped = false ∧ t.boot.warmStep = 1 ∧ t.boot.warmCause = 2 ∧ t.hns = s.hns := by
  obtain ⟨hb, hh, hacc⟩ := tripEnd_parts s
  have hr' := hr.of_boot hb
  have hl := tripLocked_untripped (tripEnd_tripped s)
  obtain ⟨hstep, hcause, -, -, hhns, -⟩ := warmRequest_parts hr' hl 2
  refine ⟨_, (exec_tripRecovery ht hlock).trans ?_, (warmRequest_begins hr' hl 2).2, hstep, hcause, hhns.trans hh⟩
  rw [hacc, ha, if_neg (by decide), if_neg (by simp [hr'.step])]

/-- A warm reset that the trip met starts again. -/
theorem tripRecovery_again (ha : s.accepted = true) (hstep : s.boot.warmStep ≠ 0) :
    ∃ t, exec .tripRecovery s = .next t ∧ t.power.tripped = false ∧ t.boot.warmStep = 1 ∧ t.boot.warmCause = 2 ∧ t.hns = s.hns := by
  obtain ⟨hb, hh, hacc⟩ := tripEnd_parts s
  refine ⟨{ tripEnd s with boot := { (tripEnd s).boot with warmStep := 1, warmCause := 2 } }, (exec_tripRecovery ht hlock).trans ?_,
    (tripEnd_tripped s :), rfl, rfl, hh⟩
  rw [hacc, ha, if_neg (by decide), if_pos (by rwa [hb])]

end

end Sys2Proof.Machine
end

section
/-!
PROOFS. Chapters 03 and 18, the steps of a warm reset (R119, R132, R644, R647, R656, Table 18-7).
-/
namespace Sys2Proof.Machine

/-! ### Girth links and the volatile state (steps 2 and 3, Table 18-4) -/

theorem startGirth_eq (s : State) (g : Nat) : ∃ gs, startGirth s g = { s with girths := gs } := by
  unfold startGirth
  split
  · exact ⟨_, rfl⟩
  · exact ⟨s.girths, rfl⟩

theorem startGirths_eq (s : State) : ∃ gs, startGirth (startGirth s 0) 1 = { s with girths := gs } := by
  obtain ⟨g0, h0⟩ := startGirth_eq s 0
  obtain ⟨g1, h1⟩ := startGirth_eq (startGirth s 0) 1
  exact ⟨g1, h1.trans (congrArg (fun x => { x with girths := g1 }) h0 :)⟩

theorem startGirths_power (s : State) : (startGirth (startGirth s 0) 1).power = s.power := by
  obtain ⟨gs, h⟩ := startGirths_eq s
  rw [h]

theorem startGirths_boot (s : State) : (startGirth (startGirth s 0) 1).boot = s.boot := by
  obtain ⟨gs, h⟩ := startGirths_eq s
  rw [h]

theorem startGirths_accepted (s : State) : (startGirth (startGirth s 0) 1).accepted = s.accepted := by
  obtain ⟨gs, h⟩ := startGirths_eq s
  rw [h]

theorem girthTraining_iff (s : State) : girthTraining s = true ↔ ∃ g, g < 2 ∧ (getGirth s g).state = .training := by
  simp [girthTraining]

/-- No array holds weights or a task after step 2. -/
theorem getArr_warmClear (s : State) (cause : BitVec 3) (n : Nat) :
    (getArr (warmClear s cause) n).main = [] ∧ (getArr (warmClear s cause) n).run = none := by
  unfold getArr warmClear
  rw [pushEvent_arrays, tget_foldl_tset]
  split
  · exact ⟨rfl, rfl⟩
  · exact ⟨rfl, rfl⟩

theorem warmClear_vecs (s : State) (cause : BitVec 3) : (warmClear s cause).vecs = [] := by
  unfold warmClear
  rw [pushEvent_vecs]

theorem warmClear_air (s : State) (cause : BitVec 3) : (warmClear s cause).air = airReset s := by
  have h := offUnits_warmStalls s
  unfold warmClear
  generalize warmStalls s = u at h ⊢
  rw [pushEvent_air]
  exact (congrArg airReset h :)

/-- What step 2 leaves of the structure and of what lasts. -/
theorem warmClear_keeps (s : State) (cause : BitVec 3) :
    let t := warmClear s cause
    t.accepted = s.accepted ∧ t.fuses = s.fuses ∧ t.fencing.persisted = s.fencing.persisted ∧ t.loader.image = s.loader.image
      ∧ t.loader.floor = s.loader.floor ∧ t.power.tripped = s.power.tripped := by
  have h := offUnits_warmStalls s
  unfold warmClear
  generalize warmStalls s = u at h ⊢
  simp only [pushEvent_accepted, pushEvent_fuses, pushEvent_fencing, pushEvent_loader, pushEvent_power]
  exact ⟨(congrArg State.accepted h :), (congrArg State.fuses h :), (congrArg (fun x => x.fencing.persisted) h :),
    (congrArg (fun x => x.loader.image) h :), (congrArg (fun x => x.loader.floor) h :), (congrArg (fun x => x.power.tripped) h :)⟩

/-! ### The recovery of a trip before acceptance (R654) -/

/-- The bring-up goes on from the girth links, as a warm reset. -/
def girthsAgain (s : State) : State :=
  startGirth (startGirth { s with boot := { s.boot with
    phase := .girth, bringup := true, warmStep := 0, lastReset := 3, warmCnt := satInc s.boot.warmCnt, warmHeld := false } } 0) 1

theorem tripBoot_eq (s : State) :
    tripBoot s = girthsAgain (warmClear (if s.loader.job.any (fun j => !j.segment) then fullFail s [] 0x21 0x3FF 0x3FFF else s) 2) := rfl

theorem girthsAgain_parts (s : State) :
    (girthsAgain s).power = s.power ∧ (girthsAgain s).boot.phase = .girth ∧ (girthsAgain s).boot.bringup = true
      ∧ (girthsAgain s).accepted = s.accepted := by
  unfold girthsAgain
  rw [startGirths_power, startGirths_boot, startGirths_accepted]
  exact ⟨rfl, rfl, rfl, rfl⟩

theorem tripBoot_parts (s : State) :
    (tripBoot s).power.tripped = s.power.tripped ∧ (tripBoot s).boot.phase = .girth ∧ (tripBoot s).boot.bringup = true
      ∧ (tripBoot s).accepted = s.accepted := by
  rw [tripBoot_eq]
  generalize hs : (if s.loader.job.any (fun j => !j.segment) then fullFail s [] 0x21 0x3FF 0x3FFF else s) = s1
  have h1 : s1.accepted = s.accepted ∧ s1.power.tripped = s.power.tripped := by
    rw [← hs]
    split
    · obtain ⟨-, -, hacc, -, hpow, -, -⟩ := (loaderSet_fullFail s [] 0x21 0x3FF 0x3FFF).kept
      exact ⟨hacc, by rw [hpow]⟩
    · exact ⟨rfl, rfl⟩
  obtain ⟨hacc, -, -, -, -, htrip⟩ := warmClear_keeps s1 2
  obtain ⟨hpow, hphase, hup, hacc'⟩ := girthsAgain_parts (warmClear s1 2)
  rw [hpow, htrip, h1.2, hacc', hacc, h1.1]
  exact ⟨rfl, hphase, hup, rfl⟩

/-- A trip before acceptance repeats the bring-up from the girth links on. -/
theorem tripRecovery_boots {s : State} (ht : s.power.tripped = true) (hlock : tripLocked s = false) (ha : s.accepted = false) :
    ∃ t, exec .tripRecovery s = .next t ∧ t.power.tripped = false ∧ t.boot.phase = .girth ∧ t.boot.bringup = true ∧ t.accepted = false := by
  have hend := (tripEnd_parts s).2.2
  have hx : exec .tripRecovery s = .next (tripBoot (tripEnd s)) := by
    rw [exec_tripRecovery ht hlock, hend, ha]
    rfl
  obtain ⟨htrip, hphase, hup, hacc⟩ := tripBoot_parts (tripEnd s)
  rw [tripEnd_tripped] at htrip
  rw [hend, ha] at hacc
  exact ⟨_, hx, htrip, hphase, hup, hacc⟩

/-! ### Stacks and grooms (steps 4 and 5) -/

/-- A stack that fails its training is failed after step 4. -/
theorem stacksFail_failed {s : State} {failed : BitVec 8} {k : Nat} (hk : k < 4) (hf : failed.getLsbD k = true)
    (hen : s.fuses.stackEn.getLsbD k = true) : (getStack (stacksFail s failed) k).failed = true := by
  have hfail (s : State) (j : Nat) : (stackTrainFail s j).fuses = s.fuses ∧ (getStack (stackTrainFail s j) j).failed = true
      ∧ ∀ m, j ≠ m → getStack (stackTrainFail s j) m = getStack s m := by
    unfold stackTrainFail getStack
    simp only [report_fuses, report_mem]
    exact ⟨rfl, congrArg Stack.failed (getStack_modStack (drew s) j _), fun m hm => getStack_modStack_ne (drew s) _ hm⟩
  refine foldl_reaches _ (fun t => t.fuses = s.fuses) (fun t => (getStack t k).failed = true) (fun t j ht => ?_) (fun t j ht hp => ?_)
    (fun t ht => ?_) (List.mem_range.2 hk) rfl
  · split
    · exact (hfail t j).1.trans ht
    · exact ht
  · split
    · by_cases hj : j = k
      · subst hj
        exact (hfail t j).2.1
      · rw [(hfail t j).2.2 k hj]
        exact hp
    · exact hp
  · split
    · exact (hfail t k).2.1
    · rename_i hn
      simpa [hf, ht, hen] using hn

/-- One groom resumes, or is left FAILED. -/
def groomBoot (failed : BitVec 8) (s : State) (g : Nat) : State :=
  let s := modGroom s g (fun x => { x with state := .running, slot := s.grm.active, step := 0, recent := [] })
  if failed.getLsbD g then
    report (groomFailed s g) { code := 0x500A, kind := 0xB, unit := BitVec.ofNat 8 g, data := [flag 8 0 s.grm.active] }
  else s

theorem groomsBoot_eq (s : State) (failed : BitVec 8) : groomsBoot s failed = (List.range 4).foldl (groomBoot failed) s := rfl

theorem groomBoot_state (failed : BitVec 8) (s : State) (g : Nat) :
    (getGroom (groomBoot failed s g) g).state = if failed.getLsbD g then .failed else .running := by
  unfold groomBoot
  split
  · simp [getGroom, groomFailed, groomEvent, modGroom]
  · rw [getGroom_modGroom]

theorem groomBoot_other (failed : BitVec 8) (s : State) {g m : Nat} (h : g ≠ m) : getGroom (groomBoot failed s g) m = getGroom s m := by
  unfold groomBoot
  split
  · simp [getGroom, groomFailed, groomEvent, modGroom, h]
  · rw [getGroom_modGroom_ne _ _ h]

/-- What the grooms' restart leaves: the structure and the loader. -/
theorem groomsBoot_keeps (s : State) (failed : BitVec 8) :
    (groomsBoot s failed).hns = s.hns ∧ (groomsBoot s failed).accepted = s.accepted ∧ (groomsBoot s failed).loader = s.loader := by
  have h : (fun t : State => (t.hns, t.accepted, t.loader)) (groomsBoot s failed) = (s.hns, s.accepted, s.loader) := by
    refine foldl_keep (fun t : State => (t.hns, t.accepted, t.loader)) (groomBoot failed) (fun t g => ?_) _ s
    unfold groomBoot
    split
    · simp [groomFailed, groomEvent]
    · rfl
  exact ⟨congrArg Prod.fst h, congrArg (fun x => x.2.1) h, congrArg (fun x => x.2.2) h⟩

theorem groomsBoot_state (s : State) (failed : BitVec 8) {g : Nat} (hg : g < 4) :
    (getGroom (groomsBoot s failed) g).state = if failed.getLsbD g then .failed else .running := by
  rw [groomsBoot_eq]
  refine foldl_reaches (groomBoot failed) (fun _ => True)
    (fun t => (getGroom t g).state = if failed.getLsbD g then .failed else .running) (fun _ _ h => h) (fun t j _ hp => ?_)
    (fun t _ => groomBoot_state failed t g) (List.mem_range.2 hg) trivial
  by_cases hj : j = g
  · subst hj
    exact groomBoot_state failed t j
  · rw [groomBoot_other failed t hj]
    exact hp

/-- Step `n` of the warm reset is next. -/
def toStep (s : State) (n : Nat) : State := { s with boot := { s.boot with warmStep := n } }

/-! ### EMPTY (R132, R656) -/

/-- What is left EMPTY: no structure, and the loader's registers as they were. -/
theorem leaveEmpty_parts (s : State) :
    let t := leaveEmpty s
    t.boot.warmStep = 0 ∧ t.boot.phase = .empty ∧ t.accepted = false ∧ t.hns = {} := ⟨rfl, rfl, rfl, rfl⟩

theorem restoreFails_parts (s : State) :
    let t := restoreFails s
    t.boot.warmStep = 0 ∧ t.boot.phase = .empty ∧ t.accepted = false ∧ t.hns = {} ∧ t.loader.errCode = 0x24 := by
  unfold restoreFails
  extract_lets serial s1 l s2
  have h := offUnits_loadEvent (setErr s2 0x24 0x3FF 0x3FFF) serial 0x24 3 0
  exact ⟨(congrArg (fun x => x.boot.warmStep) h :), (congrArg (fun x => x.boot.phase) h :), (congrArg State.accepted h :),
    (congrArg State.hns h :), (congrArg (fun x => x.loader.errCode) h :)⟩

/-! ### The structure returns (R119, R132, R647) -/

theorem offPlan_warmEnd {s t : State} (h : offPlan s = offPlan t) : offPlan (warmEnd s) = offPlan (toStep t 0) :=
  (congrArg (toStep · 0) h :)

/-- A REPLACE's image and structure are in force after step 6. -/
theorem offPlan_restoreNew (s : State) (image : List Byte) (bad : List (Fin 16 × Byte × W16)) :
    offPlan (restoreNew s image bad) = offPlan (toStep (inForce
      (imageRegs { s with loader := { s.loader with slot := !s.loader.slot, segs := [] } } image
        (dropSpares s.fuses (harnessOf image s.hns.time)).2 1) (dropSpares s.fuses (harnessOf image s.hns.time)).1) 0) := by
  unfold restoreNew
  extract_lets was d s1 l s2 s3 sc s4 s5
  have h2 : offUnits s2 = offUnits (imageRegs { s with loader := { s.loader with slot := !s.loader.slot, segs := [] } } image d.2 1) :=
    (congrArg (fun x => imageRegs { x with loader := { x.loader with slot := !x.loader.slot, segs := [] } } image d.2 1)
      (offUnits_zeroMoved s s.hns d.1) :)
  have h3 : offPlan s3 = offPlan (inForce s2 d.1) := offPlan_applyHarness s2 d.1 bad fun s => offUnits_restoreSchool _ s
  have h4 : offPlan s4 = offPlan s3 := offPlan_of_offUnits (offUnits_withSchool s3 _)
  have h5 : offPlan s5 = offPlan s4 := offPlan_of_offAir (offAir_foldl _ (offAir_restorePort was) _ _)
  have hf : offPlan (inForce s2 d.1) = offPlan (inForce (imageRegs { s with
      loader := { s.loader with slot := !s.loader.slot, segs := [] } } image d.2 1) d.1) :=
    (congrArg (fun x => offPlan (inForce x d.1)) h2 :)
  exact (offPlan_of_offUnits (offUnits_loadEvent ..)).trans (offPlan_warmEnd (h5.trans (h4.trans (h3.trans hf))))

/-- The accepted structure is in force again after step 6. -/
theorem offPlan_restoreSame {s : State} {mismatch : Bool} {bad : List (Fin 16 × Byte × W16)} (hm : mismatch = false)
    (hdam : s.loader.damaged = false) (hdig : digestOf s.loader.image = s.loader.digest) :
    offPlan (restoreSame s mismatch bad) = offPlan (toStep (inForce { s with loader := { s.loader with
      state := 12, segs := s.loader.segs.filter (fun x => x.2.any (fun g => g.base == s.loader.serial)) } } (storedHarness s)) 0) := by
  unfold restoreSame
  rw [if_neg (by simp [hm, hdam, hdig])]
  extract_lets old h l s1
  exact (offPlan_of_offUnits (offUnits_loadEvent ..)).trans (offPlan_warmEnd (offPlan_applyHarness s1 h bad fun s => offUnits_restoreSchool _ s))

/-! ### The steps (Table 18-7) -/

theorem exec_warmStep {s : State} (ht : s.power.tripped = false) (hc : s.boot.coldWaiting = false) (failed : BitVec 8)
    (bad : List (Fin 16 × Byte × W16)) : exec (.warmResetStepDone failed bad) s = .next (warmStepDone s failed bad) :=
  if_neg (by simp [ht, hc])

section
variable {s : State} (failed : BitVec 8) (bad : List (Fin 16 × Byte × W16))

theorem warmStepDone_one (h : s.boot.warmStep = 1) :
    warmStepDone s failed bad = toStep { warmQuiesce s with boot := { s.boot with phase := .restore } } 2 := by
  unfold warmStepDone
  rw [h]
  rfl

theorem warmStepDone_two (h : s.boot.warmStep = 2) :
    warmStepDone s failed bad = toStep (startGirth (startGirth (warmClear s s.boot.warmCause) 0) 1) 3 := by
  unfold warmStepDone
  rw [h]
  rfl

theorem warmStepDone_three (h : s.boot.warmStep = 3) :
    warmStepDone s failed bad = if girthTraining s then s else toStep ((List.range 4).foldl warmPort s) 4 := by
  unfold warmStepDone
  rw [h]
  rfl

theorem warmStepDone_four (h : s.boot.warmStep = 4) : warmStepDone s failed bad = toStep (stacksFail s failed) 5 := by
  unfold warmStepDone
  rw [h]
  rfl

theorem warmStep_quiesces (h : s.boot.warmStep = 1) :
    let t := warmStepDone s failed bad
    t.boot.warmStep = 2 ∧ t.boot.phase = .restore ∧ t.hns = s.hns ∧ t.accepted = s.accepted ∧ t.mem.hbm = s.mem.hbm := by
  have hq := offUnits_warmQuiesce s
  have hm := still_warmQuiesce s
  rw [warmStepDone_one failed bad h]
  generalize warmQuiesce s = u at hq hm
  exact ⟨rfl, rfl, (congrArg State.hns hq :), (congrArg State.accepted hq :), (congrArg Lasting.hbm hm :)⟩

theorem warmStep_clears (h : s.boot.warmStep = 2) :
    let t := warmStepDone s failed bad
    t.boot.warmStep = 3 ∧ (∀ n, (getArr t n).main = [] ∧ (getArr t n).run = none) ∧ t.vecs = [] ∧ t.air.tick = 0 ∧ t.air.abs = 0
      ∧ t.air.state = .freerun ∧ t.air.corr = s.air.corr ∧ t.accepted = s.accepted ∧ t.fuses = s.fuses
      ∧ t.fencing.persisted = s.fencing.persisted ∧ t.loader.image = s.loader.image ∧ t.loader.floor = s.loader.floor := by
  obtain ⟨gs, hg⟩ := startGirths_eq (warmClear s s.boot.warmCause)
  obtain ⟨hacc, hfuses, hfence, himage, hfloor, -⟩ := warmClear_keeps s s.boot.warmCause
  have hair := warmClear_air s s.boot.warmCause
  have harr := getArr_warmClear s s.boot.warmCause
  have hvecs := warmClear_vecs s s.boot.warmCause
  rw [warmStepDone_two failed bad h, hg]
  generalize warmClear s s.boot.warmCause = u at *
  exact ⟨rfl, harr, hvecs, (congrArg Air.tick hair :), (congrArg Air.abs hair :), (congrArg Air.state hair :),
    (congrArg Air.corr hair :), hacc, hfuses, hfence, himage, hfloor⟩

theorem warmStep_trains (h : s.boot.warmStep = 3) (ht : girthTraining s = true) : warmStepDone s failed bad = s :=
  (warmStepDone_three failed bad h).trans (if_pos ht)

theorem warmStep_links (h : s.boot.warmStep = 3) (ht : girthTraining s = false) :
    (warmStepDone s failed bad).boot.warmStep = 4 ∧ UnitsKept s (warmStepDone s failed bad) := by
  have hk := (kept_of_offAir (offAir_foldl warmPort offAir_warmPort (List.range 4) s)).1
  rw [warmStepDone_three failed bad h, if_neg (by simp [ht])]
  generalize (List.range 4).foldl warmPort s = u at hk
  exact ⟨rfl, hk⟩

theorem warmStep_stacks (h : s.boot.warmStep = 4) :
    (warmStepDone s failed bad).boot.warmStep = 5 ∧ ∀ k, k < 4 → failed.getLsbD k = true → s.fuses.stackEn.getLsbD k = true →
      (getStack (warmStepDone s failed bad) k).failed = true := by
  have hs := fun k (hk : k < 4) (hf : failed.getLsbD k = true) hen => stacksFail_failed (s := s) hk hf hen
  rw [warmStepDone_four failed bad h]
  generalize stacksFail s failed = u at hs
  exact ⟨rfl, hs⟩

/-- Step 5 goes on to step 6 where there is a structure to restore; else the device is left EMPTY. -/
theorem warmStepDone_five (h : s.boot.warmStep = 5) :
    warmStepDone s failed bad =
      if s.accepted || s.loader.nextImage.isSome then toStep (groomsBoot s failed) 6 else leaveEmpty (groomsBoot s failed) := by
  obtain ⟨-, hacc, hl⟩ := groomsBoot_keeps s failed
  rw [← hacc, ← hl]
  unfold warmStepDone
  rw [h]
  rfl

theorem warmStep_grooms (h : s.boot.warmStep = 5) (ha : s.accepted = true ∨ s.loader.nextImage.isSome = true) :
    let t := warmStepDone s failed bad
    t.boot.warmStep = 6 ∧ t.hns = s.hns ∧ ∀ g, g < 4 → (getGroom t g).state = if failed.getLsbD g then .failed else .running := by
  have hh := (groomsBoot_keeps s failed).1
  have hg := fun g => groomsBoot_state s failed (g := g)
  rw [warmStepDone_five failed bad h, if_pos (by simpa using ha)]
  generalize groomsBoot s failed = u at hh hg
  exact ⟨rfl, hh, hg⟩

theorem warmStep_empty (h : s.boot.warmStep = 5) (ha : s.accepted = false) (hn : s.loader.nextImage = none) :
    let t := warmStepDone s failed bad
    t.boot.warmStep = 0 ∧ t.boot.phase = .empty ∧ t.accepted = false ∧ t.hns = {} := by
  rw [warmStepDone_five failed bad h, if_neg (by simp [ha, hn])]
  exact leaveEmpty_parts _

theorem warmStep_replaces (h : s.boot.warmStep = 6) {image : List Byte} (hn : s.loader.nextImage = some image) :
    let t := warmStepDone s failed bad
    t.boot.warmStep = 0 ∧ t.boot.phase = .running ∧ t.accepted = true ∧ t.hns = (dropSpares s.fuses (harnessOf image s.hns.time)).1
      ∧ t.loader.image = image ∧ t.loader.nextImage = none ∧ t.loader.slot = !s.loader.slot := by
  have hr := offPlan_restoreNew s image bad
  simp only [warmStepDone, h, hn]
  exact ⟨(congrArg (fun x => x.boot.warmStep) hr :), (congrArg (fun x => x.boot.phase) hr :), (congrArg State.accepted hr :),
    (congrArg State.hns hr :), (congrArg (fun x => x.loader.image) hr :), (congrArg (fun x => x.loader.nextImage) hr :),
    (congrArg (fun x => x.loader.slot) hr :)⟩

/-- Step 6 with no REPLACE waiting. -/
theorem warmStepDone_six (h : s.boot.warmStep = 6) (hn : s.loader.nextImage = none) :
    warmStepDone s failed bad = restoreSame s (failed.getLsbD 0) bad := by
  simp only [warmStepDone, h, hn]

theorem warmStep_damaged (h : s.boot.warmStep = 6) (hn : s.loader.nextImage = none)
    (hbad : failed.getLsbD 0 = true ∨ s.loader.damaged = true ∨ digestOf s.loader.image ≠ s.loader.digest) :
    let t := warmStepDone s failed bad
    t.boot.warmStep = 0 ∧ t.boot.phase = .empty ∧ t.accepted = false ∧ t.hns = {} ∧ t.loader.errCode = 0x24 := by
  have hd : warmStepDone s failed bad = restoreFails s :=
    (warmStepDone_six failed bad h hn).trans (if_pos (by simpa [or_assoc] using hbad))
  rw [hd]
  exact restoreFails_parts s

theorem warmStep_restores (h : s.boot.warmStep = 6) (hn : s.loader.nextImage = none) (hf : failed.getLsbD 0 = false)
    (hdam : s.loader.damaged = false) (hdig : digestOf s.loader.image = s.loader.digest) :
    let t := warmStepDone s failed bad
    t.boot.warmStep = 0 ∧ t.boot.phase = .running ∧ t.accepted = true ∧ t.hns = storedHarness s ∧ t.loader.image = s.loader.image := by
  have hr := offPlan_restoreSame (s := s) (bad := bad) (mismatch := failed.getLsbD 0) hf hdam hdig
  rw [← warmStepDone_six failed bad h hn] at hr
  exact ⟨(congrArg (fun x => x.boot.warmStep) hr :), (congrArg (fun x => x.boot.phase) hr :), (congrArg State.accepted hr :),
    (congrArg State.hns hr :), (congrArg (fun x => x.loader.image) hr :)⟩

end

end Sys2Proof.Machine
end

section
/-!
PROOFS. Chapters 01 and 18, the kept grid returns (R70, R645): the step onto it, tick and frame; and how resets run as a whole.
-/
namespace Sys2Proof.Machine

/-! ### The step onto the kept grid -/

/-- The phase error against a count is, in whole ticks, their difference modulo a frame: the step makes up for it. -/
theorem step_reduceErr (own count : Int) : (own - fdiv (reduceErr ((own - count) * 8)) 8) % 1228800 = count % 1228800 := by
  unfold fdiv reduceErr
  rw [Int.fmod_eq_emod_of_nonneg _ (by decide), Int.fdiv_eq_ediv_of_nonneg _ (by decide)]
  omega

/-- FRAME and HYPER hold a count of frames modulo 2^34: counting on from it shows in FRAME. -/
theorem frame_setFrames_shift (a : Air) (n shift : Int) : BitVec.ofInt 10 (airFrames (setFrames a n) + shift) = BitVec.ofInt 10 (n + shift) := by
  have h : (airFrames (setFrames a n) : Int) % 1024 = n % 1024 := by
    simp only [airFrames, setFrames, BitVec.toNat_ofInt]
    omega
  apply BitVec.eq_of_toNat_eq
  rw [BitVec.toNat_ofInt, BitVec.toNat_ofInt]
  omega

/-- An immediate step with supplied numbering: the tick that the step sets, the frame that the numbering gives, and what stays. -/
theorem immediateStep_numbered {a : Air} {shift : Int} (hn : a.numbering = some (shift, false)) (e : Int) :
    (immediateStep a e).tick = BitVec.ofInt 21 (Int.fmod (airCount a - fdiv e 8) 1228800)
      ∧ (immediateStep a e).frame = BitVec.ofInt 10 (fdiv (airCount a - fdiv e 8) 1228800 + shift)
      ∧ (immediateStep a e).corr = a.corr := by
  unfold immediateStep loadNumbering
  dsimp only [setCount]
  simp only [setFrames, hn]
  exact ⟨rfl, frame_setFrames_shift a _ shift, rfl⟩

/-- The count that the kept grid has reached, and the clock's phase error against it. -/
def gridNow (s : State) (k : KeptGrid) : Nat := k.count + (s.now - k.at2)
def gridErr (s : State) (k : KeptGrid) : Int := reduceErr ((airCount s.air - gridNow s k : Int) * 8)

/-- The frames by which the numbering moves with the step. -/
def gridShift (s : State) (k : KeptGrid) : Int :=
  fdiv (gridNow s k : Int) 1228800 - fdiv (airCount s.air - fdiv (gridErr s k) 8) 1228800

/-- The air state on the kept grid, before HOLDOVER or FREERUN is entered. -/
def onGrid (s : State) (k : KeptGrid) : Air :=
  { immediateStep { s.air with state := .acquire, phaseErr := gridErr s k, numbering := some (gridShift s k, false) } (gridErr s k)
    with kept := none }

theorem onGrid_parts (s : State) (k : KeptGrid) :
    (onGrid s k).kept = none ∧ (onGrid s k).tick = BitVec.ofNat 21 (gridNow s k % 1228800)
      ∧ (onGrid s k).frame = BitVec.ofNat 10 (gridNow s k / 1228800) ∧ (onGrid s k).corr = s.air.corr := by
  have hmod : (airCount s.air - fdiv (gridErr s k) 8) % 1228800 = (gridNow s k : Int) % 1228800 := step_reduceErr (airCount s.air) (gridNow s k)
  obtain ⟨htick, hframe, hcorr⟩ := immediateStep_numbered
    (a := { s.air with state := .acquire, phaseErr := gridErr s k, numbering := some (gridShift s k, false) }) rfl (gridErr s k)
  refine ⟨rfl, htick.trans ?_, hframe.trans ?_, hcorr⟩
  · calc BitVec.ofInt 21 (Int.fmod (airCount s.air - fdiv (gridErr s k) 8) 1228800)
        = BitVec.ofInt 21 ((gridNow s k : Int) % 1228800) := by rw [Int.fmod_eq_emod_of_nonneg _ (by decide), hmod]
      _ = BitVec.ofNat 21 (gridNow s k % 1228800) := BitVec.ofInt_natCast 21 (gridNow s k % 1228800)
  · calc BitVec.ofInt 10 (fdiv (airCount s.air - fdiv (gridErr s k) 8) 1228800 + gridShift s k)
        = BitVec.ofInt 10 ((gridNow s k : Int) / 1228800) := by
          rw [gridShift, add_sub_cancel, fdiv, Int.fdiv_eq_ediv_of_nonneg _ (by decide)]
          rfl
      _ = BitVec.ofNat 10 (gridNow s k / 1228800) := BitVec.ofInt_natCast 10 (gridNow s k / 1228800)

/-- Whether the clock was held before the reset. -/
def heldBefore (k : KeptGrid) : Bool := match k.state with
  | .locked => true
  | .slewing => true
  | .holdover => true
  | _ => false

theorem heldBefore_iff (k : KeptGrid) : heldBefore k = true ↔ k.state = .locked ∨ k.state = .slewing ∨ k.state = .holdover := by
  unfold heldBefore
  cases k.state <;> simp

/-- The kept grid is in force, its step reported. -/
def steppedOn (s : State) (k : KeptGrid) : State := refEvent (modAir s (fun _ => onGrid s k)) false true

theorem gridRestore_eq (s : State) (k : KeptGrid) :
    gridRestore s k = if heldBefore k then modAir (steppedOn s k) (fun a => { a with
        state := .holdover, holdStart := some k.at2, holdBase := if k.state = .holdover then k.est else 0, holdDone := false })
      else modAir (steppedOn s k) (fun a => { a with state := .freerun }) := rfl

theorem steppedOn_air (s : State) (k : KeptGrid) : (steppedOn s k).air = onGrid s k := report_air ..

/-- What the kept grid's return leaves. -/
theorem gridRestore_parts (s : State) (k : KeptGrid) :
    let t := gridRestore s k
    t.air.kept = none ∧ t.air.tick = BitVec.ofNat 21 (gridNow s k % 1228800) ∧ t.air.frame = BitVec.ofNat 10 (gridNow s k / 1228800)
      ∧ t.air.state = (if k.state = .locked ∨ k.state = .slewing ∨ k.state = .holdover then .holdover else .freerun)
      ∧ t.air.corr = s.air.corr ∧ t.hns = s.hns ∧ UnitsKept s t := by
  obtain ⟨hkept, htick, hframe, hcorr⟩ := onGrid_parts s k
  have hair := steppedOn_air s k
  have hoff : offAir (steppedOn s k) = offAir s := (offAir_of_told (report_told ..)).trans rfl
  obtain ⟨hunits, -, -, -, hhns, -⟩ := kept_of_offAir hoff
  rw [gridRestore_eq]
  generalize steppedOn s k = u at hair hhns hunits
  rw [← hair] at hkept htick hframe hcorr
  by_cases hh : heldBefore k = true
  · rw [if_pos hh, if_pos ((heldBefore_iff k).1 hh)]
    exact ⟨hkept, htick, hframe, rfl, hcorr, hhns, hunits⟩
  · rw [if_neg hh, if_neg (fun h => hh ((heldBefore_iff k).2 h))]
    exact ⟨hkept, htick, hframe, rfl, hcorr, hhns, hunits⟩

theorem exec_gridRestore_none {s : State} (h : s.air.kept = none) : exec .gridRestore s = .next s := by
  show execGridRestore s = _
  unfold execGridRestore
  rw [h]

theorem exec_gridRestore_some {s : State} {k : KeptGrid} (h : s.air.kept = some k) :
    exec .gridRestore s = if 30720 ≤ s.air.abs.toNat then .next (gridRestore s k) else .next s := by
  show execGridRestore s = _
  unfold execGridRestore
  rw [h]

/-! ### How resets run -/

/-- Settles O60: the requests by what keeps a reset from starting, the steps of a warm reset one by one, a trip by what it met, and
the grid by whether one is kept. -/
theorem resetsRun : Obligations.ResetsRun := by
  refine ⟨fun s => ⟨fun en hp hc => ⟨crstN_begins hp hc en, fun ho hr => bootRstCold_begins ho hr hp hc en⟩,
    fun en h => congrArg Host.Outcome.next (coldRequest_idle h en), fun ho confirm h => bootRst_refused ho h,
    fun hstep hp hf hc hlock => ⟨⟨fun hup => ?_, fun hup => ?_⟩, fun ho hav hup => bootRstWarm_begins ho hav ⟨hstep, hp, hf, hc, hup⟩ hlock⟩,
    fun h => congrArg Host.Outcome.next (warmRequest_merges h 4), fun failed bad h => if_pos h, fun failed bad ht hc => ?_,
    fun ht => ⟨fun hlock => if_pos (.inr hlock), fun hlock => ⟨fun ha hstep hp hf hc hup => ?_, tripRecovery_again ht hlock,
      tripRecovery_boots ht hlock⟩⟩⟩,
    fun s => ⟨exec_gridRestore_none, fun k hk => ⟨fun h => ?_, fun h => ?_⟩⟩⟩
  · exact ⟨_, rfl, warmRequest_parts ⟨hstep, hp, hf, hc, hup⟩ hlock 4⟩
  · exact ⟨_, rfl, warmRequest_held hstep hf hc hlock hup 4⟩
  · have hx := exec_warmStep ht hc failed bad
    refine ⟨fun h => ⟨_, hx, warmStep_quiesces failed bad h⟩, fun h => ⟨_, hx, warmStep_clears failed bad h⟩,
      fun h => ⟨fun hg => ?_, fun hg => ⟨_, hx, warmStep_links failed bad h ?_⟩⟩, fun h => ⟨_, hx, warmStep_stacks failed bad h⟩,
      fun h ha => ⟨_, hx, warmStep_grooms failed bad h ha⟩, fun h ha hn => ⟨_, hx, warmStep_empty failed bad h ha hn⟩,
      fun h image hn => ⟨_, hx, warmStep_replaces failed bad h hn⟩,
      fun h hn => ⟨fun hbad => ⟨_, hx, warmStep_damaged failed bad h hn hbad⟩,
        fun hf hdam hdig => ⟨_, hx, warmStep_restores failed bad h hn hf hdam hdig⟩⟩⟩
    · rw [hx, warmStep_trains failed bad h ((girthTraining_iff s).2 hg)]
    · refine Bool.eq_false_iff.2 fun ht => ?_
      obtain ⟨g, hlt, hst⟩ := (girthTraining_iff s).1 ht
      exact hg g hlt hst
  · exact tripRecovery_warm ht hlock ha ⟨hstep, hp, hf, hc, hup⟩
  · rw [exec_gridRestore_some hk, if_neg (Nat.not_le.2 h)]
  · exact ⟨_, (exec_gridRestore_some hk).trans (if_pos h), gridRestore_parts s k⟩

end Sys2Proof.Machine
end

section
/-!
PROOFS. Chapter 04, device memory (R148, R152, R172, R341): a command that may move no part of what lasts keeps it all, and the five
that may move a key slot or a floor without being named as writers of memory keep its bytes.
-/
namespace Sys2Proof.Machine

/-- A write of a management register leaves device memory alone where its effect does. -/
theorem mem_mgmtWrite (early : Bool) {f : State → State} (h : ∀ s, (f s).mem = s.mem) (s : State) : (mgmtWrite early f s).mem = s.mem := by
  unfold mgmtWrite ownWrite
  dsimp only
  split
  · rfl
  · split
    · rfl
    · exact h _

theorem burnOp_mem (slot : Nat) (confirm : W16) (s : State) : (burnOp slot confirm s).mem = s.mem := by
  unfold burnOp
  split <;> rfl

theorem revokeOp_mem (slot : Nat) (s : State) : (revokeOp slot s).mem = s.mem := by
  unfold revokeOp
  split <;> rfl

/-- The end of a burn programs the fuses. -/
theorem keyBurnDone_mem (s : State) : ∃ t, exec .keyBurnDone s = .next t ∧ t.mem = s.mem := by
  cases hb : s.loader.burning with
  | none => exact ⟨s, by simp only [exec, execKeyBurnDone, hb], rfl⟩
  | some b => exact ⟨_, exec_keyBurnDone (k := b.1) (h := b.2) hb, rfl⟩

/-- The five commands that may move a part of what lasts and are not named as writers of memory. -/
theorem hbm_of_keys_and_floors {c : Instr} {s : State} (hmove : mayMoveLasting c = true) (h : mayWriteMemory c = false) :
    ∃ t, exec c s = .next t ∧ t.mem = s.mem := by
  have hfive : (mayMoveLasting c && !mayWriteMemory c) = true := by rw [hmove, h]; rfl
  clear hmove h
  cases c with
  | keyBurn slot confirm => exact ⟨_, rfl, mem_mgmtWrite true (burnOp_mem slot.val confirm) s⟩
  | keyBurnDone => exact keyBurnDone_mem s
  | keyRevoke slot => exact ⟨_, rfl, mem_mgmtWrite true (revokeOp_mem slot.val) s⟩
  | hnsRaiseFloor => exact ⟨_, rfl, mem_mgmtWrite true (f := floorOp) (fun _ => rfl) s⟩
  | grmRaiseFloor => exact ⟨_, rfl, mem_mgmtWrite false (f := grmFloorOp) (fun _ => rfl) s⟩
  | _ => cases hfive

/-- Every other command keeps all that lasts, and the bytes of memory with it. -/
theorem hbm_of_still {c : Instr} {s : State} (hmove : mayMoveLasting c = false) : ∃ t, exec c s = .next t ∧ t.mem.hbm = s.mem.hbm := by
  have hstill := still_exec c s hmove
  cases he : exec c s with
  | next t => exact ⟨t, rfl, hbm_of_next hmove he⟩
  | fault r => rw [he] at hstill; cases hstill
  | refused r => rw [he] at hstill; cases hstill

/-- Settles O5, by whether the command may move a part of what lasts. -/
theorem memoryFrame : Obligations.MemoryFrame := by
  intro c s h
  have hbytes : ∃ t, exec c s = .next t ∧ t.mem.hbm = s.mem.hbm := by
    cases hmove : mayMoveLasting c with
    | false => exact hbm_of_still hmove
    | true =>
      obtain ⟨t, ht, hmem⟩ := hbm_of_keys_and_floors (s := s) hmove h
      exact ⟨t, ht, congrArg Mem.hbm hmem⟩
  obtain ⟨t, ht, hhbm⟩ := hbytes
  exact ⟨t, ht, hhbm, fun _ => by rw [hhbm]⟩

end Sys2Proof.Machine
end

section
/-!
PROOFS. Chapter 17, what SMBus reads and refuses (R145, R565, R573, R626, Tables 17-9, 19-8).
-/
namespace Sys2Proof.Machine

/-- An answer goes out in 32 bytes, and over no girth link. -/
theorem smAnswer_eq (s : State) (bs : List Byte) : smAnswer s bs = { s with sent := .smbus (padTo 32 bs) :: s.sent } := rfl

/-! ### The register view (R20, R659, Table 19-8) -/

theorem smWord_unlisted {s : State} {y : Nat} (h : ∀ r ∈ smRanges, y < r.1 ∨ r.2 ≤ y) : smWord s y = (0, s) := by
  refine if_neg fun hin => ?_
  obtain ⟨r, hr, hy⟩ := List.any_eq_true.1 hin
  simp only [Bool.and_eq_true, decide_eq_true_eq] at hy
  have := h r hr
  omega

/-- Whether an offset stands in a listed range (Table 19-8). -/
theorem any_smRanges {y : Nat} (h : ∃ x ∈ smRanges, x.1 ≤ y ∧ y < x.2) : smRanges.any (fun r => decide (r.1 ≤ y) && decide (y < r.2)) = true := by
  obtain ⟨x, hx, hlo, hhi⟩ := h
  exact List.any_eq_true.2 ⟨x, hx, by simp only [hlo, hhi, decide_true, Bool.and_self]⟩

/-- A listed register, or the low half of one: the high half of a 64-bit one is latched. -/
theorem smWord_low {s : State} {y : Nat} {r : Reg} (h : ∃ x ∈ smRanges, x.1 ≤ y ∧ y < x.2) (hr : regAt s (some 0) y = some (r, false)) :
    smWord s y = (r.value.setWidth 32, if r.wide then { s with smLatch := some (y, (r.value >>> 32).setWidth 32) } else s) := by
  unfold smWord
  rw [if_pos (any_smRanges h), hr]

/-- The high half of a listed register reads as it was latched with the low half. -/
theorem smWord_high {s : State} {y : Nat} {r : Reg} {v : W32} (h : ∃ x ∈ smRanges, x.1 ≤ y + 4 ∧ y + 4 < x.2)
    (hr : regAt s (some 0) (y + 4) = some (r, true)) (hl : s.smLatch = some (y, v)) : smWord s (y + 4) = (v, { s with smLatch := none }) := by
  unfold smWord
  rw [if_pos (any_smRanges h), hr]
  dsimp only
  rw [hl]
  exact if_pos rfl

/-- Reading a word of the view changes nothing but the latch. -/
theorem smWord_latches (s : State) (y : Nat) : ∃ l, (smWord s y).2 = { s with smLatch := l } := by
  unfold smWord
  repeat' split
  all_goals exact ⟨_, rfl⟩

/-- What a read adds word by word to the bytes so far, with the latch as the words before left it. -/
theorem foldl_smWord_latches (f : Nat → Nat) (ks : List Nat) (x : List Byte × State) :
    ∃ l, (ks.foldl (fun x k => (x.1 ++ bytesOf (smWord x.2 (f k)).1, (smWord x.2 (f k)).2)) x).2 = { x.2 with smLatch := l } := by
  induction ks generalizing x with
  | nil => exact ⟨_, rfl⟩
  | cons k ks ih =>
    obtain ⟨l, hl⟩ := smWord_latches x.2 (f k)
    obtain ⟨m, hm⟩ := ih (x.1 ++ bytesOf (smWord x.2 (f k)).1, (smWord x.2 (f k)).2)
    exact ⟨m, by rw [List.foldl_cons, hm, hl]⟩

theorem smView_latches (s : State) (y : Nat) : ∃ l, (smView s y).2 = { s with smLatch := l } :=
  foldl_smWord_latches (fun k => y / 4 * 4 + 4 * k) _ ([], s)

theorem exec_read (s : State) : ∃ t l, exec .read s = .next t
    ∧ t = { s with smPtr := s.smPtr + 32, smLatch := l, sent := .smbus (padTo 32 (smView s s.smPtr.toNat).1) :: s.sent } := by
  obtain ⟨l, hl⟩ := smView_latches s s.smPtr.toNat
  refine ⟨_, l, rfl, ?_⟩
  rw [smAnswer_eq, hl]

/-! ### The trail (R626, Table 17-9) -/

theorem length_leBytes (n v : Nat) : (leBytes n v).length = n := by
  induction n generalizing v with
  | zero => rfl
  | succ n ih => rw [leBytes, List.length_cons, ih]

theorem exec_trlStatus (s : State) : ∃ t b, exec .trlStatus s = .next t ∧ t = { s with sent := .smbus b :: s.sent }
    ∧ b.take 8 = bytesOf (trlSts s.trail) ++ bytesOf s.trail.wr := by
  refine ⟨_, _, rfl, smAnswer_eq _ _, ?_⟩
  have hlen : (bytesOf (trlSts s.trail) ++ bytesOf s.trail.wr).length = 8 := by
    rw [List.length_append, bytesOf, bytesOf, length_leBytes, length_leBytes]
  simp only [padTo, List.take_take, List.append_assoc]
  rw [← List.append_assoc]
  exact List.take_left' hlen

/-- Nothing is read at the end of the trail, nor past it. -/
theorem exec_trlNext_end {s : State} (h : s.trail.cursor = s.trail.wr ∨ laterThan s.trail.cursor s.trail.wr = true) :
    exec .trlNext s = .next (smAnswer s []) := by
  refine if_pos ?_
  simpa using h

section
variable {s : State} {x : Entry} (hne : s.trail.cursor ≠ s.trail.wr) (hlate : laterThan s.trail.cursor s.trail.wr = false)
include hne hlate

/-- Before the end the entry at the cursor is read, the oldest where that one is held no more, and the cursor passes it. -/
theorem exec_trlNext_entry {c : W32} (hc : (if entryHeld s.trail s.trail.cursor then s.trail.cursor else oldestEntry s.trail) = c)
    (hx : trailAt s.trail c = some x) :
    exec .trlNext s = .next (smAnswer { s with trail := { s.trail with cursor := c + 1 } } (entryBytes x)) := by
  have hopen : ¬ (decide (s.trail.cursor = s.trail.wr) || laterThan s.trail.cursor s.trail.wr) = true := by simp [hne, hlate]
  show execTrlNext s = _
  unfold execTrlNext
  dsimp only
  rw [if_neg hopen, hc, hx]

end

/-! ### The snapshot (R626, Table 17-9) -/

theorem exec_snapStatus_valid {s : State} {x : Snap} (h : validSnap s.trail = some x) :
    exec .snapStatus s = .next (smAnswer s ((snapBytes x).take 32)) := by
  show execSnapStatus s = _
  unfold execSnapStatus
  rw [h]

theorem exec_snapStatus_none {s : State} (h : validSnap s.trail = none) : exec .snapStatus s = .next (smAnswer s []) := by
  show execSnapStatus s = _
  unfold execSnapStatus
  rw [h]

theorem exec_snapNext_entry {s : State} {x : Snap} {e : Entry} (h : validSnap s.trail = some x) (he : x.entries[s.trail.index.toNat]? = some e) :
    exec .snapNext s = .next (smAnswer { s with trail := { s.trail with index := s.trail.index + 1 } } (entryBytes e)) := by
  show execSnapNext s = _
  unfold execSnapNext
  rw [h, Option.bind_some, he]

theorem exec_snapNext_none {s : State} (h : ∀ x, validSnap s.trail = some x → x.entries[s.trail.index.toNat]? = none) :
    exec .snapNext s = .next (smAnswer s []) := by
  show execSnapNext s = _
  unfold execSnapNext
  rw [Option.bind_eq_none_iff.2 h]

/-! ### Refusals (R565, R573) -/

/-- A refusal answers NACK and records the command; it touches nothing but what went out and the trail. -/
theorem smNack_parts (s : State) (cmd reason : Byte) :
    (smNack s cmd reason).sent = .smbusNack :: s.sent ∧ (smNack s cmd reason).trail.index = s.trail.index
      ∧ (s.boot.powerFailed = false → s.trail.stopped = false → s.trail.queue.length < 64 →
        ∃ e, (smNack s cmd reason).trail.queue = queueEvent s.trail.queue e ∧ e.code = 0x000D ∧ e.data = [cmd, reason])
      ∧ smNack s cmd reason = { s with sent := (smNack s cmd reason).sent, trail := (smNack s cmd reason).trail } := by
  have hnack : smNack s cmd reason = pushEvent { s with sent := .smbusNack :: s.sent } { code := 0x000D, data := [cmd, reason] } := rfl
  rw [hnack]
  unfold pushEvent
  dsimp only
  split
  · next hfail => exact ⟨rfl, rfl, fun h => absurd (h.symm.trans hfail) Bool.false_ne_true, rfl⟩
  · split
    · next hfull => exact ⟨rfl, rfl, fun _ hstop hroom => absurd hfull (by simp [hstop, Nat.not_le.2 hroom]), rfl⟩
    · exact ⟨rfl, rfl, fun _ _ _ => ⟨_, rfl, rfl, rfl⟩, rfl⟩

/-- Settles O55: each command by its definition, SMBus's reads by what they answer and the one part of the state that they move. -/
theorem smbusReads : Obligations.SmbusReads := by
  intro s
  refine ⟨fun _ => rfl, exec_read s, fun _ => smWord_unlisted, fun y r hy hr => ?_, fun _ _ _ => smWord_high, ⟨_, rfl, smAnswer_eq _ _⟩,
    exec_trlStatus s, fun _ => rfl, fun h => ⟨_, exec_trlNext_end h, rfl⟩,
    fun x hne hlate hheld hx => ⟨_, exec_trlNext_entry hne hlate (if_pos hheld) hx, rfl⟩,
    fun x hne hlate hheld hx => ⟨_, exec_trlNext_entry hne hlate (if_neg (by simp [hheld])) hx, rfl⟩,
    fun x hv => ⟨⟨_, exec_snapStatus_valid hv, rfl⟩, fun e he => ⟨_, exec_snapNext_entry hv he, rfl⟩, fun hx => ?_⟩, fun hv c hc => ?_,
    fun i => ⟨fun h => if_pos h, fun h => ?_⟩, fun cmd reason => ?_⟩
  · rw [smWord_low hy hr]
    exact ⟨rfl, fun h => if_pos h, fun h => if_neg (by simp [h])⟩
  · exact ⟨_, exec_snapNext_none (fun y hy => by rw [← Option.some.inj (hv.symm.trans hy), hx]), rfl⟩
  · fin_cases hc
    · exact ⟨_, exec_snapStatus_none hv, rfl⟩
    · exact ⟨_, exec_snapNext_none (fun y hy => nomatch hv.symm.trans hy), rfl⟩
  · obtain ⟨hsent, hindex, -, heq⟩ := smNack_parts s 0x14 3
    exact ⟨_, if_neg (Nat.not_le.2 h), hsent, hindex, heq⟩
  · obtain ⟨hsent, -, hqueue, heq⟩ := smNack_parts s cmd (reason.setWidth 8)
    exact ⟨_, rfl, hsent, hqueue, heq⟩

end Sys2Proof.Machine
end

section
/-!
PROOFS. Chapter 04, what acting on a stall's queues leaves alone (R154, R181, R183, R186), and QUIESCE (R154, R163, R164, R167).
-/
namespace Sys2Proof.Machine

/-! ### What a stall's queues change -/

/-- A stall without its queues, the place of its next answer and what waits for its host. -/
def offQueues (x : Stall) : Stall := { x with queues := [], ansWr := 0, ansDrop := 0, msixPend := [], heldIrq := [], heldOut := [] }

/-- What acting on the queues of stalls leaves alone: all that reporting does, and the stalls without their queues. -/
def besideQueues (s : State) : Aside := { aside s with stall := fun k => offQueues (getStall s k) }

theorem besideQueues_of_aside {s t : State} (h : aside t = aside s) : besideQueues t = besideQueues s :=
  congrArg (fun a : Aside => { a with stall := fun k => offQueues (a.stall k) }) h

theorem besideQueues_modStall (s : State) (i : Nat) (f : Stall → Stall) (h : ∀ x, offQueues (f x) = offQueues x) :
    besideQueues (modStall s i f) = besideQueues s := by
  have hs : (fun k => offQueues (getStall (modStall s i f) k)) = (fun k => offQueues (getStall s k)) := by
    funext k
    by_cases hk : i = k
    · subst hk
      rw [getStall_modStall]
      exact h _
    · rw [getStall_modStall_ne _ _ hk]
  exact congrArg (fun x => { besideQueues s with stall := x }) hs

theorem told_of_besideQueues {s t : State} (h : besideQueues t = besideQueues s) : t = told s t := by
  cases s; cases t
  simp only [besideQueues, aside, Aside.mk.injEq] at h
  simp only [told, State.mk.injEq]
  simp_all

/-- Stalls that agree beside their queues agree in their state and their reasons to hold. -/
theorem hold_of_offQueues {x y : Stall} (h : offQueues x = offQueues y) : x.state = y.state ∧ x.quiesce = y.quiesce ∧ x.segHold = y.segHold :=
  ⟨(congrArg Stall.state h :), (congrArg Stall.quiesce h :), (congrArg Stall.segHold h :)⟩

theorem offQueues_of_besideQueues {s t : State} (h : besideQueues t = besideQueues s) (k : Nat) :
    offQueues (getStall t k) = offQueues (getStall s k) := congrFun (congrArg Aside.stall h) k

@[simp] theorem besideQueues_answer (s : State) (i q : Nat) (kind reason : Byte) (value : W32) (mismatch : Bool) (acceptTick : W64) (orig : W16) :
    besideQueues (answer s i q kind reason value mismatch acceptTick orig) = besideQueues s := by
  unfold answer
  dsimp only
  split
  · exact besideQueues_modStall _ _ _ fun _ => rfl
  · rw [besideQueues_of_aside (aside_raiseSource ..), besideQueues_of_aside (aside_toHost ..)]
    exact besideQueues_modStall _ _ _ fun _ => rfl

@[simp] theorem besideQueues_modQueue (s : State) (i q : Nat) (f : Queue → Queue) :
    besideQueues (modStall s i (fun st => modQueue st q f)) = besideQueues s := besideQueues_modStall _ _ _ fun _ => rfl

@[simp] theorem besideQueues_doorbell (s : State) (i q : Nat) (tail : W32) : besideQueues (doorbell s i q tail) = besideQueues s := by
  unfold doorbell
  dsimp only
  split
  · rw [besideQueues_answer, besideQueues_modQueue]
  · split
    · exact besideQueues_modQueue ..
    · rw [besideQueues_answer, besideQueues_modQueue]

@[simp] theorem besideQueues_tailOp (s : State) (i q : Nat) (tail : W32) : besideQueues (tailOp s i q tail) = besideQueues s := by
  unfold tailOp
  dsimp only
  split
  · rfl
  · split
    · split
      · exact besideQueues_modQueue ..
      · exact besideQueues_doorbell ..
    · exact besideQueues_modQueue ..

@[simp] theorem besideQueues_releaseSlot (s : State) (i q : Nat) : besideQueues (releaseSlot s i q) = besideQueues s := by
  unfold releaseSlot
  dsimp only
  split
  · split
    · exact besideQueues_modQueue ..
    · rfl
  · rfl

@[simp] theorem besideQueues_resumeQueues (s : State) (i : Nat) : besideQueues (resumeQueues s i) = besideQueues s := by
  refine foldl_keep besideQueues _ (fun s q => ?_) _ _
  rw [besideQueues_releaseSlot]
  split
  · rw [besideQueues_tailOp, besideQueues_modQueue]
  · rfl

theorem resumeQueues_told (s : State) (i : Nat) : resumeQueues s i = told s (resumeQueues s i) :=
  told_of_besideQueues (besideQueues_resumeQueues s i)

/-! ### The hold (R154) -/

/-- An ACTIVE stall that something holds becomes HELD. -/
theorem settleHold_holds {s : State} {i : Nat} (hst : (getStall s i).state = .active) (hq : (getStall s i).quiesce = true) :
    settleHold s i = modStall s i (fun x => { x with state := .held }) := by
  unfold settleHold
  dsimp only
  rw [hst]
  exact if_pos (by rw [hq, Bool.or_true])

/-- An ACTIVE stall that nothing holds stays as it is. -/
theorem settleHold_stays {s : State} {i : Nat} (hst : (getStall s i).state = .active) (hseg : (getStall s i).segHold = false)
    (hq : (getStall s i).quiesce = false) : settleHold s i = s := by
  unfold settleHold
  dsimp only
  rw [hst]
  exact if_neg (by rw [hseg, hq]; exact Bool.false_ne_true)

/-- A HELD stall that nothing holds becomes ACTIVE, and its held doorbells are acted on. -/
theorem settleHold_releases {s : State} {i : Nat} (hst : (getStall s i).state = .held) (hseg : (getStall s i).segHold = false)
    (hq : (getStall s i).quiesce = false) :
    settleHold s i = resumeQueues (modStall s i (fun x => { x with state := .active })) i := by
  unfold settleHold
  dsimp only
  rw [hst]
  exact if_neg (by rw [hseg, hq]; exact Bool.false_ne_true)

/-! ### QUIESCE (R163, R164, R167) -/

/-- QUIESCE set of an ACTIVE stall. -/
theorem quiesceOp_holds {s : State} {i : Nat} (hst : (getStall s i).state = .active) :
    quiesceOp i true s = modStall (modStall s i (fun x => { x with quiesce := true })) i (fun x => { x with state := .held }) := by
  unfold quiesceOp
  rw [hst]
  exact settleHold_holds (by rw [getStall_modStall]; exact hst) (by rw [getStall_modStall])

/-- What QUIESCE set of an ACTIVE stall leaves. -/
theorem quiesceOp_holds_parts {s : State} {i : Nat} (hst : (getStall s i).state = .active) :
    (getStall (quiesceOp i true s) i).state = .held ∧ (getStall (quiesceOp i true s) i).quiesce = true
      ∧ (getStall (quiesceOp i true s) i).queues = (getStall s i).queues
      ∧ (∀ j, j ≠ i → getStall (quiesceOp i true s) j = getStall s j)
      ∧ quiesceOp i true s = { s with stalls := (quiesceOp i true s).stalls } := by
  rw [quiesceOp_holds hst]
  refine ⟨by rw [getStall_modStall], by rw [getStall_modStall, getStall_modStall], by rw [getStall_modStall, getStall_modStall], fun j hj => ?_, rfl⟩
  rw [getStall_modStall_ne _ _ hj.symm, getStall_modStall_ne _ _ hj.symm]

/-- QUIESCE cleared of a HELD stall that no segment holds: it is ACTIVE, and its queues go on. -/
theorem quiesceOp_releases {s : State} {i : Nat} (hst : (getStall s i).state = .held) (hseg : (getStall s i).segHold = false) :
    quiesceOp i false s
      = resumeQueues (modStall (modStall s i (fun x => { x with quiesce := false })) i (fun x => { x with state := .active })) i := by
  unfold quiesceOp
  rw [hst]
  exact settleHold_releases (by rw [getStall_modStall]; exact hst) (by rw [getStall_modStall]; exact hseg) (by rw [getStall_modStall])

theorem quiesceOp_releases_parts {s : State} {i : Nat} (hst : (getStall s i).state = .held) (hseg : (getStall s i).segHold = false) :
    (getStall (quiesceOp i false s) i).state = .active ∧ (getStall (quiesceOp i false s) i).quiesce = false
      ∧ quiesceOp i false s = told s (quiesceOp i false s) := by
  rw [quiesceOp_releases hst hseg]
  obtain ⟨hstate, hquiesce, -⟩ := hold_of_offQueues (offQueues_of_besideQueues (besideQueues_resumeQueues
    (modStall (modStall s i (fun x => { x with quiesce := false })) i (fun x => { x with state := .active })) i) i)
  rw [hstate, hquiesce, getStall_modStall, getStall_modStall]
  exact ⟨rfl, rfl, told_trans rfl (resumeQueues_told ..)⟩

/-- QUIESCE of a stall that is FAULTED or RESETTING waits for its return to ACTIVE. -/
theorem quiesceOp_waits {s : State} {i : Nat} (on : Bool) (hst : (getStall s i).state = .faulted ∨ (getStall s i).state = .resetting) :
    quiesceOp i on s = modStall s i (fun x => { x with quiesceLate := some on }) := by
  unfold quiesceOp
  rcases hst with h | h <;> rw [h]

/-- A write of the stall's own function outside the common block acts. -/
theorem exec_ownWrite {c : Instr} {s : State} {i : Nat} {f : State → State} (hc : exec c s = .next (ownWrite i f s)) (hr : restoring s = false) :
    exec c s = .next (f (unheld s i)) := by
  rw [hc, ownWrite_open _ _ _ hr]

/-- Settles O26, by the state in which QUIESCE meets the stall. -/
theorem quiesceHoldsStall : Obligations.QuiesceHoldsStall := by
  intro s stall
  refine ⟨fun hst => ⟨fun hr => ?_, fun ho => ?_⟩, fun hst hseg => ⟨fun hr => ?_, fun ho => ?_⟩, fun on hr hst => ?_⟩
  · obtain ⟨hheld, hq, hqueues, hothers, heq⟩ := quiesceOp_holds_parts (s := unheld s stall.val) (i := stall.val) hst
    exact ⟨_, exec_ownWrite rfl hr, hheld, hq, hqueues, hothers, by rw [heq]; rfl⟩
  · obtain ⟨hheld, hq, -, hothers, heq⟩ := quiesceOp_holds_parts (s := addressed stall.val (unheld s 0)) (i := stall.val) hst
    exact ⟨_, exec_mgmt rfl ho, hheld, hq, hothers, by rw [heq]; rfl⟩
  · obtain ⟨hact, hq, htold⟩ := quiesceOp_releases_parts (s := unheld s stall.val) (i := stall.val) hst hseg
    obtain ⟨hunits, hpart⟩ := kept_of_told htold
    exact ⟨_, exec_ownWrite rfl hr, hact, hq, hunits, hpart⟩
  · obtain ⟨hact, hq, htold⟩ := quiesceOp_releases_parts (s := addressed stall.val (unheld s 0)) (i := stall.val) hst hseg
    obtain ⟨hunits, hpart⟩ := kept_of_told htold
    exact ⟨_, exec_mgmt rfl ho, hact, hq, (congrArg State.mgmtStall htold :), hunits, hpart⟩
  · refine ⟨_, exec_ownWrite rfl hr, ?_⟩
    rw [quiesceOp_waits (s := unheld s stall.val) on hst]
    exact ⟨by rw [getStall_modStall], by rw [getStall_modStall]; rfl, rfl⟩

end Sys2Proof.Machine
end

section
/-!
PROOFS. Chapter 04, the start of a stall reset (R158, R166).
-/
namespace Sys2Proof.Machine

/-! ### The start (R158, R166, Tables 4-14, 4-15) -/

@[simp] theorem offSlots_failStallSlots (s : State) (i : Nat) (reset : Bool) : offSlots (failStallSlots s i reset) = offSlots s := by
  refine foldl_keep offSlots _ (fun s c => ?_) _ _
  split
  · rw [offSlots_modCarrier, offSlots_touchNow]
  · rfl

theorem getStall_of_offSlots {s t : State} (h : offSlots t = offSlots s) (k : Nat) : getStall t k = getStall s k :=
  (congrArg (fun x => getStall x k) h :)

theorem warmStep_of_restoring {s : State} (h : restoring s = false) : s.boot.warmStep = 0 := by
  simp only [restoring, Bool.or_eq_false_iff, decide_eq_false_iff_not, not_not] at h
  exact h.1

theorem abortSegment_idle {s : State} (h : s.loader.segState = 0) (p : Nat → Bool) : abortSegment s p = s := by
  unfold abortSegment
  rw [h]
  rfl

/-- A stall whose reset begins: at step 1, with the fault it had kept aside. -/
def resetBegun (x : Stall) : Stall :=
  { x with
    state := .resetting, resetStep := 1, faultNew := none,
    faultWas := if x.faultCode = 0 then none else some (x.faultCode, x.faultUnit, x.faultKind) }

section
variable {s : State} {i : Nat} (hst : (getStall s i).state = .active ∨ (getStall s i).state = .held ∨ (getStall s i).state = .faulted)
  (hwarm : s.boot.warmStep = 0) (hseg : s.loader.segState = 0)
include hst hwarm hseg

theorem startReset_begins : startReset i s = failStallSlots (modStall s i resetBegun) i true := by
  unfold startReset
  dsimp only
  rw [abortSegment_idle hseg, if_neg (not_not.2 hwarm)]
  rcases hst with h | h | h <;> rw [h] <;> rfl

theorem offSlots_startReset : offSlots (startReset i s) = offSlots (modStall s i resetBegun) := by
  rw [startReset_begins hst hwarm hseg, offSlots_failStallSlots]

theorem getStall_startReset : getStall (startReset i s) i = resetBegun (getStall s i) := by
  rw [getStall_of_offSlots (offSlots_startReset hst hwarm hseg), getStall_modStall]

/-- A reset with its confirm code: the stall is RESETTING at step 1, and its carriers' slots fail. -/
theorem resetOp_begins :
    (getStall (resetOp i 0x5A3C s) i).state = .resetting ∧ (getStall (resetOp i 0x5A3C s) i).resetStep = 1
      ∧ (getStall (resetOp i 0x5A3C s) i).queues = (getStall s i).queues
      ∧ (∀ j, j ≠ i → getStall (resetOp i 0x5A3C s) j = getStall s j)
      ∧ resetOp i 0x5A3C s = { s with stalls := (resetOp i 0x5A3C s).stalls, carriers := (resetOp i 0x5A3C s).carriers } := by
  have hop : resetOp i 0x5A3C s = startReset i s := if_pos rfl
  have hoff := offSlots_startReset hst hwarm hseg
  rw [hop, getStall_startReset hst hwarm hseg]
  refine ⟨rfl, rfl, rfl, fun j hj => ?_, ?_⟩
  · rw [getStall_of_offSlots hoff, getStall_modStall_ne _ _ hj.symm]
  · rw [eq_of_offSlots hoff]
    rfl

end

/-- A reset that is asked for again goes on as it is. -/
theorem resetOp_merges {s : State} {i : Nat} (confirm : W16) (hst : (getStall s i).state = .resetting) : resetOp i confirm s = s := by
  unfold resetOp startReset
  dsimp only
  rw [hst]
  exact ite_self s

theorem resetOp_unconfirmed {s : State} {i : Nat} {confirm : W16} (h : confirm ≠ 0x5A3C) : resetOp i confirm s = s := if_neg h

end Sys2Proof.Machine
end

section
/-!
PROOFS. Chapter 04, the steps of a stall reset: what step 2 stops (R155, R159), what step 3 clears (Table 4-9, R161), and the wait of
step 4 for the loads (Table 4-8).
-/
namespace Sys2Proof.Machine

theorem partKept_of_offUnits {s t : State} (h : offUnits t = offUnits s) : PartKept s t := by
  have hk : PartKept (offUnits s) (offUnits t) := by rw [h]; exact ⟨rfl, rfl, rfl, rfl, rfl, rfl, rfl, rfl, rfl, rfl, rfl, rfl⟩
  exact hk

/-! ### What stopping work leaves of the memory and of the other arrays (R155, R327) -/

theorem mem_charge (s : State) (i : Nat) (o : Owner) (k : ChargeKind) (pool : Bool) (ns : Nat) : (charge s i o k pool ns).mem = s.mem := by
  unfold charge
  dsimp only
  split <;> rfl

theorem mem_chargeContribs (s : State) (cs : List Contrib) (k : ChargeKind) (pool : Bool) (ns : Nat) :
    (chargeContribs s cs k pool ns).mem = s.mem := foldl_keep State.mem _ (fun _ _ => mem_charge ..) _ _

theorem mem_abortTile (s : State) (n : Nat) : (abortTile s n).mem = s.mem := by
  unfold abortTile abortTileAfter
  split
  · rfl
  · split
    · rfl
    · dsimp only
      split
      · rw [mem_charge]; rfl
      · rw [mem_chargeContribs]; rfl

theorem mem_abortVec (s : State) (n : Nat) : (abortVec s n).mem = s.mem := by
  unfold abortVec abortVecAfter
  split
  · rfl
  · split
    · rfl
    · rw [mem_charge]; rfl

theorem mem_abortPath (s : State) (m i : Nat) : (abortPath s m i).mem = s.mem := by
  unfold abortPath abortPathRun
  split
  · split
    · rfl
    · rw [mem_chargeContribs]; rfl
  · rfl

theorem mem_nextPiece (s : State) (f : Nat) : (nextPiece s f).mem = s.mem := by
  unfold nextPiece
  split
  · rfl
  · split
    · rfl
    · split <;> rfl

theorem mem_abortFeeder (s : State) (n : Nat) (p : Xfer → Bool) : (abortFeeder s n p).mem = s.mem := (mem_nextPiece ..).trans rfl

theorem mem_dropXfers (s : State) (p : Xfer → Bool) : (dropXfers s p).mem = s.mem :=
  foldl_keep State.mem _ (fun s n => mem_abortFeeder s n p) _ _

theorem getArr_abortTile_ne (s : State) {n m : Nat} (h : n ≠ m) : getArr (abortTile s n) m = getArr s m := by
  unfold abortTile
  split
  · rfl
  next hbusy =>
    have hrun : (getArr (drew s) n).run ≠ none := fun hidle => hbusy (Option.isNone_iff_eq_none.2 hidle)
    rw [getArr_of_benches (benches_abortTileAfter _ hrun), getArr_modArr_ne _ _ h]
    rfl

theorem getArr_abortVec (s : State) (n m : Nat) : getArr (abortVec s n) m = getArr s m := by
  unfold abortVec
  split
  · rfl
  next t hbusy =>
    have hrun : (getVec (drew s) n).run ≠ none := ne_of_eq_of_ne hbusy (Option.some_ne_none t)
    exact getArr_of_benches (benches_abortVecAfter _ hrun) m

/-! ### A stall that stops -/

/-- The step of `abortStall` at array and engine `n`. -/
def stopOn (i : Nat) (s : State) (n : Nat) : State :=
  let s := if (getArr s n).run.any (fun t => t.stall == i) then abortTile s n else s
  if (getVec s n).run.any (fun t => t.stall == i) then abortVec s n else s

/-- A stall with its gatherer emptied and none of its runs under way. -/
def emptied (st : Stall) : Stall :=
  { st with openBatches := [], closedBatches := [], runs := st.runs.map (fun r => { r with running := [], runningX := [] }) }

/-- Array `n` runs nothing of stall `i`. -/
def FreeOf (i n : Nat) (s : State) : Prop := ∀ task, (getArr s n).run = some task → task.stall ≠ i

theorem abortStall_eq (s : State) (i : Nat) :
    abortStall s i = modStall (dropXfers ((List.range 4).foldl (fun s m => abortPath s m i) ((List.range 8).foldl (stopOn i) s))
      (fun x => x.stall == i)) i emptied := rfl

theorem mem_stopOn (i : Nat) (s : State) (n : Nat) : (stopOn i s n).mem = s.mem := by
  unfold stopOn
  dsimp only
  split <;> split <;> simp only [mem_abortVec, mem_abortTile]

theorem getArr_stopOn (i : Nat) (s : State) (n m : Nat) :
    getArr (stopOn i s n) m = getArr (if (getArr s n).run.any (fun t => t.stall == i) then abortTile s n else s) m := by
  unfold stopOn
  dsimp only
  generalize (if (getArr s n).run.any (fun t => t.stall == i) then abortTile s n else s) = u
  split
  · exact getArr_abortVec ..
  · rfl

theorem freeOf_stopOn_same (i : Nat) (s : State) (n : Nat) : FreeOf i n (stopOn i s n) := by
  intro task htask
  rw [getArr_stopOn] at htask
  split at htask
  · rw [abortTile_stops] at htask
    cases htask
  next hother =>
    rw [htask] at hother
    simpa using hother

theorem FreeOf.stopOn {i n : Nat} {s : State} (h : FreeOf i n s) (m : Nat) : FreeOf i n (stopOn i s m) := by
  by_cases hm : m = n
  · subst hm
    exact freeOf_stopOn_same i s m
  · have hsame : getArr (Machine.stopOn i s m) n = getArr s n := by
      rw [getArr_stopOn]
      split
      · exact getArr_abortTile_ne s hm
      · rfl
    unfold FreeOf
    rwa [hsame]

@[simp] theorem getArr_modStall (s : State) (i : Nat) (f : Stall → Stall) (n : Nat) : getArr (modStall s i f) n = getArr s n := rfl

theorem freeOf_abortStall (s : State) (i : Nat) {n : Nat} (hn : n < 8) : FreeOf i n (abortStall s i) := by
  have hstop : FreeOf i n ((List.range 8).foldl (stopOn i) s) :=
    foldl_reaches (stopOn i) (fun _ => True) (FreeOf i n) (fun _ _ _ => trivial) (fun _ m _ h => h.stopOn m)
      (fun s _ => freeOf_stopOn_same i s n) (List.mem_range.2 hn) trivial
  have hpaths : benches ((List.range 4).foldl (fun s m => abortPath s m i) ((List.range 8).foldl (stopOn i) s))
      = benches ((List.range 8).foldl (stopOn i) s) := foldl_keep benches _ (fun s m => benches_abortPath s m i) _ _
  rw [abortStall_eq, FreeOf, getArr_modStall, getArr_of_benches ((benches_dropXfers ..).trans hpaths)]
  exact hstop

theorem mem_abortStall (s : State) (i : Nat) : (abortStall s i).mem = s.mem := by
  rw [abortStall_eq, modStall_mem, mem_dropXfers, foldl_keep State.mem _ (fun s m => mem_abortPath s m i),
    foldl_keep State.mem _ (mem_stopOn i)]

theorem getStall_abortStall_batches (s : State) (i : Nat) :
    (getStall (abortStall s i) i).openBatches = [] ∧ (getStall (abortStall s i) i).closedBatches = [] := by
  rw [abortStall_eq, getStall_modStall]
  exact ⟨rfl, rfl⟩

/-! ### What clearing leaves of the arrays (R139, R160, Table 4-9) -/

/-- What clearing makes of array `n`: its main context is zero where it is the stall's own. -/
theorem clearArray_arrays (s : State) (i n : Nat) :
    ∃ f, (clearArray s i n).arrays = (modArr s n f).arrays ∧ (arrOwner s n = some i → ∀ a, (f a).main = []) := by
  unfold clearArray
  extract_lets own rsv inRsv s1
  refine ⟨_, (by split <;> rfl : _ = s1.arrays), fun ho a => ?_⟩
  have hown : own = true := decide_eq_true ho
  dsimp only
  rw [if_pos hown]
  split <;> rfl

theorem getArr_of_arrays {s t : State} (h : t.arrays = s.arrays) (n : Nat) : getArr t n = getArr s n :=
  congrArg (fun x => tget ({} : ArrayU) x n) h

theorem main_clearArray_own {s : State} {i n : Nat} (h : arrOwner s n = some i) : (getArr (clearArray s i n) n).main = [] := by
  obtain ⟨f, harrays, hmain⟩ := clearArray_arrays s i n
  rw [getArr_of_arrays harrays, getArr_modArr]
  exact hmain h _

theorem getArr_clearArray_ne (s : State) (i : Nat) {n m : Nat} (h : n ≠ m) : getArr (clearArray s i n) m = getArr s m := by
  obtain ⟨f, harrays, -⟩ := clearArray_arrays s i n
  rw [getArr_of_arrays harrays, getArr_modArr_ne _ _ h]

theorem arrOwner_of_offUnits {s t : State} (h : offUnits t = offUnits s) (n : Nat) : arrOwner t n = arrOwner s n :=
  (congrArg (fun x => arrOwner x n) h :)

theorem main_clearArrays {s : State} {i n : Nat} (hn : n < 8) (h : arrOwner s n = some i) :
    (getArr ((List.range 8).foldl (fun s n => clearArray s i n) s) n).main = [] := by
  have hinv : ∀ s m, arrOwner s n = some i → arrOwner (clearArray s i m) n = some i :=
    fun s m ho => (arrOwner_of_offUnits (offUnits_clearArray s i m) n).trans ho
  refine foldl_reaches (fun s m => clearArray s i m) (fun s => arrOwner s n = some i) (fun s => (getArr s n).main = []) hinv
    (fun s m ho hmain => ?_) (fun s ho => main_clearArray_own ho) (List.mem_range.2 hn) h
  by_cases hm : m = n
  · subst hm
    exact main_clearArray_own ho
  · rwa [getArr_clearArray_ne s i hm]

/-- An access through the cache changes its lines and the hit counters, and nothing else (R312, R316). -/
theorem cacheAccess_eq (s : State) (i a n : Nat) (write alloc : Bool) :
    ∃ lines ss, cacheAccess s i a n write alloc = { s with mem := { s.mem with cache := lines }, stalls := ss } := by
  refine List.foldlRecOn (motive := fun t : State => ∃ lines ss, t = { s with mem := { s.mem with cache := lines }, stalls := ss }) _ _
    ⟨s.mem.cache, s.stalls, rfl⟩ ?_
  rintro _ ⟨lines, ss, rfl⟩ l -
  exact ⟨_, _, rfl⟩

theorem arrays_regionWrite (s : State) (i x : Nat) (bs : List Byte) (alloc : Bool) : (regionWrite s i x bs alloc).arrays = s.arrays := by
  obtain ⟨lines, ss, hcache⟩ := cacheAccess_eq s i (regionAddr s i x) bs.length true alloc
  unfold regionWrite
  rw [hcache]
  rfl

theorem arrays_reinitNet (s : State) (r : Nat) : (reinitNet s r).arrays = s.arrays := by
  unfold reinitNet
  split
  · rfl
  · dsimp only
    rw [writeAreaHeader, arrays_regionWrite]
    dsimp only
    rw [areaWrite, arrays_regionWrite, areaWrite, arrays_regionWrite]
    rfl

theorem arrays_resetNet (s : State) (r : Nat) (zero : Bool) : (resetNet s r zero).arrays = s.arrays := by
  unfold resetNet
  split
  · rfl
  · split
    · rfl
    · extract_lets s1 s2
      have h2 : s2.arrays = s.arrays := by
        unfold s2
        split <;> rfl
      split
      · rw [arrays_reinitNet, h2]
      · exact h2

theorem arrays_clearStall (s : State) (i : Nat) (zero : Bool) :
    (clearStall s i zero).arrays = ((List.range 8).foldl (fun s n => clearArray s i n) s).arrays := by
  unfold clearStall clearCaptures
  extract_lets s1 s2 s3 s4 s5 s6 others va vp
  have h2 : s2.arrays = s1.arrays := foldl_keep State.arrays _ (fun s n => modCore_arrays s n clearCore) _ _
  clear_value s2
  have h3 : s3.arrays = s2.arrays := foldl_keep State.arrays _ (fun s c => by split <;> rfl) _ _
  clear_value s3
  have h4 : s4.arrays = s3.arrays := foldl_keep State.arrays _ (fun s r => arrays_resetNet s r zero) _ _
  clear_value s4
  have h6 : s6.arrays = s5.arrays := foldl_keep State.arrays _ (fun s p => by split <;> rfl) _ _
  clear_value s6
  have h5 : s5.arrays = s4.arrays := rfl
  rw [modStall_arrays, h6, h5, h4, h3, h2]

/-- What a reset's clearing leaves of its stall: no run, no image, no latched QUIESCE (R159 step 3). -/
theorem getStall_clearStall (s : State) (i : Nat) (zero : Bool) :
    (getStall (clearStall s i zero) i).runs = [] ∧ (getStall (clearStall s i zero) i).images = []
      ∧ (getStall (clearStall s i zero) i).quiesce = false := by
  unfold clearStall
  extract_lets s1 s2 s3 s4 s5 s6 others va vp
  clear_value s6 va vp
  rw [getStall_modStall]
  exact ⟨rfl, rfl, rfl⟩

theorem getStall_beginLoads (s : State) (i k : Nat) : getStall (beginLoads s i) k = getStall s k := by
  refine foldl_keep (fun s => getStall s k) _ (fun s n => ?_) _ _
  unfold beginLoad
  split <;> rfl

theorem arrays_beginLoads (s : State) (i : Nat) : (beginLoads s i).arrays = s.arrays := by
  refine foldl_keep State.arrays _ (fun s n => ?_) _ _
  unfold beginLoad
  split <;> rfl

/-! ### The steps (Table 4-8) -/

def atStep (n : Nat) (x : Stall) : Stall := { x with resetStep := n }

@[simp] theorem atStep_openBatches (n : Nat) (x : Stall) : (atStep n x).openBatches = x.openBatches := rfl
@[simp] theorem atStep_closedBatches (n : Nat) (x : Stall) : (atStep n x).closedBatches = x.closedBatches := rfl

/-- A core that a reset stops. -/
def stoppedCore (c : PCore) : PCore := { c with st := .reset, loadTag := none, preload := none }

/-- The stall's cores once step 2 has stopped them. -/
def stopCores (s : State) (i : Nat) : State := (stallCores s i).foldl (fun s n => modCore s n stoppedCore) s

theorem getCore_stopCores {s : State} {i n : Nat} (hn : n ∈ stallCores s i) : (getCore (stopCores s i) n).st = .reset := by
  refine foldl_reaches _ (fun _ => True) (fun s => (getCore s n).st = .reset) (fun _ _ _ => trivial) (fun s m _ h => ?_) (fun s _ => ?_) hn
    (s := s) trivial
  · by_cases hm : m = n
    · subst hm
      rw [getCore_modCore]
      rfl
    · rwa [getCore_modCore_ne _ _ hm]
  · rw [getCore_modCore]
    rfl

section
variable {s : State} {i : Nat} (bad : Option (Byte × W16))

theorem resetStepDone_one (h : (getStall s i).resetStep = 1) : resetStepDone s i bad = modStall s i (atStep 2) := by
  unfold resetStepDone
  rw [h]
  rfl

theorem resetStepDone_two (h : (getStall s i).resetStep = 2) :
    resetStepDone s i bad = modStall (abortStall (stopCores s i) i) i (atStep 3) := by
  unfold resetStepDone
  rw [h]
  rfl

theorem resetStepDone_three (h : (getStall s i).resetStep = 3) :
    resetStepDone s i bad = modStall (beginLoads (clearStall s i false) i) i (atStep 4) := by
  unfold resetStepDone
  rw [h]
  rfl

theorem resetStepDone_loading (h : (getStall s i).resetStep = 4) (hl : ∃ n ∈ stallCores s i, (getCore s n).st = .loading) :
    resetStepDone s i bad = s := by
  obtain ⟨n, hn, hload⟩ := hl
  unfold resetStepDone
  rw [h]
  exact if_pos (List.any_eq_true.2 ⟨n, hn, decide_eq_true hload⟩)

theorem resetStepDone_loaded (h : (getStall s i).resetStep = 4) (hl : ∀ n ∈ stallCores s i, (getCore s n).st ≠ .loading) :
    resetStepDone s i bad = modStall (restoreStall s i bad) i (atStep 5) := by
  have hnone : ¬(stallCores s i).any (fun n => decide ((getCore s n).st = .loading)) = true := fun hany => by
    obtain ⟨n, hn, hload⟩ := List.any_eq_true.1 hany
    exact hl n hn (of_decide_eq_true hload)
  unfold resetStepDone
  rw [h]
  exact if_neg hnone

/-- Step 2: the stall's cores are in reset, its work is aborted and its gatherer empty. -/
theorem resetStepDone_stops (h : (getStall s i).resetStep = 2) :
    (∀ n ∈ stallCores s i, (getCore (resetStepDone s i bad) n).st = .reset) ∧ (∀ n, n < 8 → FreeOf i n (resetStepDone s i bad))
      ∧ (getStall (resetStepDone s i bad) i).openBatches = [] ∧ (getStall (resetStepDone s i bad) i).closedBatches = []
      ∧ (resetStepDone s i bad).mem = s.mem ∧ PartKept s (resetStepDone s i bad) := by
  have hstop : (stopCores s i).mem = s.mem ∧ offUnits (stopCores s i) = offUnits s :=
    ⟨foldl_keep State.mem _ (fun s n => modCore_mem s n stoppedCore) _ _, offUnits_foldl _ (fun s n => offUnits_modCore s n stoppedCore) _ _⟩
  obtain ⟨hopen, hclosed⟩ := getStall_abortStall_batches (stopCores s i) i
  rw [resetStepDone_two bad h]
  refine ⟨fun n hn => ?_, fun n hn => ?_, ?_, ?_, ?_, partKept_of_offUnits ?_⟩
  · have hcores : (abortStall (stopCores s i) i).cores = (stopCores s i).cores := (workStops_abortStall (stopCores s i) i).cores
    unfold getCore
    rw [modStall_cores, hcores]
    exact getCore_stopCores hn
  · rw [FreeOf, getArr_modStall]
    exact freeOf_abortStall _ i hn
  · rw [getStall_modStall, atStep_openBatches, hopen]
  · rw [getStall_modStall, atStep_closedBatches, hclosed]
  · rw [modStall_mem, mem_abortStall, hstop.1]
  · rw [offUnits_modStall, offUnits_abortStall, hstop.2]

/-- Step 3: the stall's volatile state is cleared, and its loads begin. -/
theorem resetStepDone_clears (h : (getStall s i).resetStep = 3) :
    (getStall (resetStepDone s i bad) i).runs = [] ∧ (getStall (resetStepDone s i bad) i).images = []
      ∧ (getStall (resetStepDone s i bad) i).quiesce = false
      ∧ (∀ n, n < 8 → arrOwner s n = some i → (getArr (resetStepDone s i bad) n).main = []) ∧ PartKept s (resetStepDone s i bad) := by
  obtain ⟨hruns, himages, hquiesce⟩ := getStall_clearStall s i false
  rw [resetStepDone_three bad h, getStall_modStall, getStall_beginLoads]
  dsimp only [atStep]
  refine ⟨hruns, himages, hquiesce, fun n hn ho => ?_, partKept_of_offUnits ?_⟩
  · rw [getArr_modStall, getArr_of_arrays (arrays_beginLoads ..), getArr_of_arrays (arrays_clearStall ..)]
    exact main_clearArrays hn ho
  · rw [offUnits_modStall, offUnits_beginLoads, offUnits_clearStall]

end

end Sys2Proof.Machine
end

section
/-!
PROOFS. Chapter 04, the return of a stall from its reset (R157, R159 step 5, R167).
-/
namespace Sys2Proof.Machine

/-! ### What an evaluation and the backlog change (R330, R349) -/

/-- Where a stall stands: its state, the step of its reset, its fault and its resets so far. -/
def condition (x : Stall) : StallState × Nat × W16 × W16 := (x.state, x.resetStep, x.faultCode, x.resetCnt)

theorem condition_modStall (s : State) (i : Nat) (f : Stall → Stall) (h : ∀ x, condition (f x) = condition x) (k : Nat) :
    condition (getStall (modStall s i f) k) = condition (getStall s k) := by
  by_cases hk : i = k
  · subst hk
    rw [getStall_modStall, h]
  · rw [getStall_modStall_ne _ _ hk]

theorem condition_evaluateStall (s : State) (i k : Nat) : condition (getStall (evaluateStall s i) k) = condition (getStall s k) := by
  unfold evaluateStall
  split
  · exact condition_modStall _ _ _ (by intro x; rfl) k
  · rfl

theorem condition_refreshBacklog (s : State) (k : Nat) : condition (getStall (refreshBacklog s) k) = condition (getStall s k) := by
  refine foldl_keep (fun s => condition (getStall s k)) _ (fun s i => ?_) _ _
  exact condition_modStall _ _ _ (by intro x; rfl) k

theorem condition_of_offQueues {x y : Stall} (h : offQueues x = offQueues y) : condition x = condition y := (congrArg condition h :)

theorem evaluateStall_told (s : State) (i : Nat) : evaluateStall s i = told s (evaluateStall s i) := by
  unfold evaluateStall
  split <;> rfl

theorem refreshBacklog_told (s : State) : refreshBacklog s = told s (refreshBacklog s) :=
  List.foldlRecOn (motive := fun t : State => t = told s t) _ _ rfl fun _ ht _ _ => told_trans ht rfl

/-! ### The state to which the stall returns (R157, R167) -/

def resumed (x : Stall) : Stall :=
  { x with
    state := .active, faultWas := none, faultNew := none, resetStep := 0, quiesce := x.quiesceLate.getD x.quiesce, quiesceLate := none }

def faultedBy (f : W16 × Byte × BitVec 4) (x : Stall) : Stall :=
  { x with
    state := .faulted, faultCode := f.1, faultUnit := f.2.1, faultKind := f.2.2, faultWas := none, faultNew := none, resetStep := 0 }

section
variable {s : State} {i : Nat} (hwas : (getStall s i).faultWas = none)
include hwas

theorem resumeState_free (hnew : (getStall s i).faultNew = none) (hlate : (getStall s i).quiesceLate = none)
    (hq : (getStall s i).quiesce = false) (hseg : (getStall s i).segHold = false) :
    resumeState s i = resumeQueues (modStall s i resumed) i := by
  have hst : (getStall (modStall s i resumed) i).state = .active := by rw [getStall_modStall, resumed]
  have hsettle : settleHold (modStall s i resumed) i = modStall s i resumed :=
    settleHold_stays hst (by rwa [getStall_modStall, resumed]) (by rw [getStall_modStall, resumed, hlate]; exact hq)
  unfold resumeState
  dsimp only
  rw [hwas, hnew]
  change (if (getStall (settleHold (modStall s i resumed) i) i).state = .active then resumeQueues (settleHold (modStall s i resumed) i) i
    else settleHold (modStall s i resumed) i) = _
  rw [hsettle, if_pos hst]

theorem resumeState_faulted {f : W16 × Byte × BitVec 4} (hnew : (getStall s i).faultNew = some f) :
    resumeState s i = modStall s i (faultedBy f) := by
  unfold resumeState
  dsimp only
  rw [hwas, hnew]
  rfl

end

/-! ### The end of the reset (R159 step 5) -/

def counted (x : Stall) : Stall := { x with resetCnt := satInc x.resetCnt }

theorem condition_resumeStall (s : State) (i : Nat) :
    condition (getStall (resumeStall s i) i) = condition (counted (getStall (resumeState s i) i)) := by
  unfold resumeStall
  dsimp only
  rw [condition_refreshBacklog, ← getStall_modStall (resumeState s i) i counted]
  split
  · exact condition_evaluateStall ..
  · rfl

theorem resumeStall_told {s : State} {i : Nat} (h : resumeState s i = told s (resumeState s i)) : resumeStall s i = told s (resumeStall s i) := by
  have hcount : modStall (resumeState s i) i counted = told s (modStall (resumeState s i) i counted) := told_trans h rfl
  refine told_trans ?_ (refreshBacklog_told _)
  split
  · exact told_trans hcount (evaluateStall_told ..)
  · exact hcount

section
variable {s : State} {i : Nat} (hwas : (getStall s i).faultWas = none)
include hwas

/-- A stall that no fault and no hold stands against is ACTIVE, and its reset is counted. -/
theorem resumeStall_active (hnew : (getStall s i).faultNew = none) (hlate : (getStall s i).quiesceLate = none)
    (hq : (getStall s i).quiesce = false) (hseg : (getStall s i).segHold = false) :
    (getStall (resumeStall s i) i).state = .active ∧ (getStall (resumeStall s i) i).resetStep = 0
      ∧ (getStall (resumeStall s i) i).resetCnt = satInc (getStall s i).resetCnt
      ∧ UnitsKept s (resumeStall s i) ∧ PartKept s (resumeStall s i) := by
  have hres := resumeState_free hwas hnew hlate hq hseg
  have hkept : condition (getStall (resumeState s i) i) = condition (resumed (getStall s i)) := by
    rw [hres, condition_of_offQueues (offQueues_of_besideQueues (besideQueues_resumeQueues ..) _), getStall_modStall]
  have htold : resumeState s i = told s (resumeState s i) := by
    rw [hres]
    exact told_trans rfl (resumeQueues_told ..)
  have hcond := condition_resumeStall s i
  simp only [condition, counted, resumed, Prod.mk.injEq] at hcond hkept
  obtain ⟨hstate, hstep, -, hcnt⟩ := hcond
  obtain ⟨hstate', hstep', -, hcnt'⟩ := hkept
  exact ⟨hstate.trans hstate', hstep.trans hstep', hcnt.trans (congrArg satInc hcnt'), kept_of_told (resumeStall_told htold)⟩

/-- A fault during the reset leaves the stall FAULTED, and its reset is counted. -/
theorem resumeStall_faulted {f : W16 × Byte × BitVec 4} (hnew : (getStall s i).faultNew = some f) :
    (getStall (resumeStall s i) i).state = .faulted ∧ (getStall (resumeStall s i) i).faultCode = f.1
      ∧ (getStall (resumeStall s i) i).resetCnt = satInc (getStall s i).resetCnt
      ∧ UnitsKept s (resumeStall s i) ∧ PartKept s (resumeStall s i) := by
  have hres := resumeState_faulted hwas hnew
  have htold : resumeState s i = told s (resumeState s i) := by rw [hres]; rfl
  have hcond := condition_resumeStall s i
  rw [hres, getStall_modStall] at hcond
  simp only [condition, counted, faultedBy, Prod.mk.injEq] at hcond
  obtain ⟨hstate, -, hcode, hcnt⟩ := hcond
  exact ⟨hstate, hcode, hcnt, kept_of_told (resumeStall_told htold)⟩

end

/-! ### The commands of a stall reset -/

theorem exec_stallResetStepDone {s : State} {stall : Fin 16} (bad : Option (Byte × W16)) (hst : (getStall s stall.val).state = .resetting)
    (hup : groomUp s 1 = true) : exec (.stallResetStepDone stall bad) s = .next (resetStepDone s stall.val bad) := if_pos ⟨hst, hup⟩

theorem exec_stallResetResume {s : State} {stall : Fin 16} (hst : (getStall s stall.val).state = .resetting)
    (hstep : (getStall s stall.val).resetStep = 5) (hup : groomUp s 1 = true) (hnow : resumesNow s stall.val = true) :
    exec (.stallResetResume stall) s = .next (resumeStall s stall.val) := if_pos ⟨hst, hstep, hup, hnow⟩

/-- Settles O27: the start by the state it meets, the steps by their number, the return by whether a fault waits. -/
theorem stallResetRuns : Obligations.StallResetRuns := by
  refine ⟨fun s stall hseg => ⟨fun hst => ⟨fun hr => ?_, fun ho => ?_⟩, fun hst hr => ?_, fun confirm hc hr => ?_⟩,
    fun s stall bad hst hup => ?_, fun s stall hst hstep hup hnow hwas => ?_⟩
  · obtain ⟨hstate, hstep, hqueues, hothers, heq⟩ :=
      resetOp_begins (s := unheld s stall.val) (i := stall.val) hst (warmStep_of_restoring hr) hseg
    exact ⟨_, exec_ownWrite rfl hr, hstate, hstep, hqueues, hothers, by rw [heq]; rfl⟩
  · obtain ⟨hstate, hstep, -, hothers, heq⟩ :=
      resetOp_begins (s := addressed stall.val (unheld s 0)) (i := stall.val) hst (warmStep_of_restoring ho.2.1) hseg
    exact ⟨_, exec_mgmt rfl ho, hstate, hstep, hothers, by rw [heq]; rfl⟩
  · rw [exec_ownWrite rfl hr, resetOp_merges (s := unheld s stall.val) _ hst]
  · rw [exec_ownWrite rfl hr, resetOp_unconfirmed hc]
  · rw [exec_stallResetStepDone bad hst hup]
    refine ⟨fun h => ⟨_, rfl, ?_⟩, fun h => ⟨_, rfl, ?_, resetStepDone_stops bad h⟩, fun h => ⟨_, rfl, ?_, resetStepDone_clears bad h⟩,
      fun h hl => congrArg _ (resetStepDone_loading bad h hl), fun h hl => ⟨_, rfl, ?_⟩⟩
    · rw [resetStepDone_one bad h, getStall_modStall]
      exact ⟨rfl, hst, fun j hj => getStall_modStall_ne _ _ hj.symm, rfl⟩
    · rw [resetStepDone_two bad h, getStall_modStall]; rfl
    · rw [resetStepDone_three bad h, getStall_modStall]; rfl
    · rw [resetStepDone_loaded bad h hl, getStall_modStall]; rfl
  · rw [exec_stallResetResume hst hstep hup hnow]
    exact ⟨fun hnew hlate hq hseg => ⟨_, rfl, resumeStall_active hwas hnew hlate hq hseg⟩,
      fun f hnew => ⟨_, rfl, resumeStall_faulted hwas hnew⟩⟩

end Sys2Proof.Machine
end

section
/-!
PROOFS. Chapter 04, port state (R143, R144, R563): what a port-state message, a conventional reset and an FLR change, and what they
leave alone.
-/
namespace Sys2Proof.Machine

/-- A state without its ports and functions, its stalls, and what reporting changes. -/
def offPorts (s : State) : State :=
  { s with sent := [], stalls := [], girths := [], carriers := [], trail := {}, flt := {}, ports := [], funcs := [] }

theorem offPorts_of_told {s t : State} (h : t = told s t) : offPorts t = offPorts s := by rw [h]; rfl

theorem offPorts_modStall (s : State) (i : Nat) (f : Stall → Stall) : offPorts (modStall s i f) = offPorts s := rfl
theorem offPorts_modPort (s : State) (p : Nat) (f : Port → Port) : offPorts (modPort s p f) = offPorts s := rfl
theorem offPorts_modFunc (s : State) (p fn : Nat) (f : Func → Func) : offPorts (modFunc s p fn f) = offPorts s := rfl

theorem getPort_modFunc (s : State) (p fn : Nat) (f : Func → Func) (k : Nat) : getPort (modFunc s p fn f) k = getPort s k := rfl
theorem getFunc_modPort (s : State) (p : Nat) (f : Port → Port) (k fn : Nat) : getFunc (modPort s p f) k fn = getFunc s k fn := rfl

theorem kept_of_offPorts {s t : State} (h : offPorts t = offPorts s) : UnitsKept s t ∧ t.hns = s.hns ∧ t.air = s.air := by
  have hk : UnitsKept (offPorts s) (offPorts t) ∧ (offPorts t).hns = (offPorts s).hns ∧ (offPorts t).air = (offPorts s).air := by
    rw [h]
    exact ⟨⟨rfl, rfl, rfl, rfl, rfl, rfl, rfl, rfl, rfl⟩, rfl, rfl⟩
  exact hk

theorem fnStall_of_offPorts {s t : State} (h : offPorts t = offPorts s) (port fn : Nat) : fnStall t port fn = fnStall s port fn :=
  (congrArg (fun x => fnStall x port fn) h :)

theorem idle_of_offPorts {s t : State} (h : offPorts t = offPorts s) :
    t.boot.warmStep = s.boot.warmStep ∧ t.loader.segState = s.loader.segState :=
  ⟨(congrArg (fun x => x.boot.warmStep) h :), (congrArg (fun x => x.loader.segState) h :)⟩

theorem offPorts_of_aside {s t : State} (h : aside t = aside s) : offPorts t = offPorts s := offPorts_of_told (told_of_aside h)

theorem getPort_of_aside {s t : State} (h : aside t = aside s) (p : Nat) : getPort t p = getPort s p :=
  congrArg (fun a : Aside => tget ({} : Port) a.ports p) h

theorem getFunc_of_aside {s t : State} (h : aside t = aside s) (p fn : Nat) : getFunc t p fn = getFunc s p fn :=
  congrArg (fun a : Aside => tget ({} : Func) a.funcs (16 * p + fn)) h

theorem getStall_of_aside {s t : State} (h : aside t = aside s) (i : Nat) :
    (getStall t i).state = (getStall s i).state ∧ (getStall t i).msixOpen = (getStall s i).msixOpen := by
  have hi := aside_stall (congrArg Aside.stall h) i
  exact ⟨(congrArg Stall.state hi :), (congrArg Stall.msixOpen hi :)⟩

/-! ### A port-state message without an event (R563, Table 15-7) -/

/-- What a message's tag says of its port. -/
def portSaid (tag : W16) : Port := { linkUp := bit tag 0, vfEnable := bit tag 1, numVfs := (bits tag 8 4).setWidth 8 }

/-- The port's and the function's state become what the message says. -/
def portTold (s : State) (port fn : Nat) (tag : W16) : State :=
  modFunc (modPort s port (fun _ => portSaid tag)) port fn (fun f => { f with bme := bit tag 2 })

section
variable {tag : W16} (s : State) (port fn : Nat)

theorem pstateOp_plain (h3 : bit tag 3 = false) (h4 : bit tag 4 = false) : pstateOp s port fn tag = releaseAll (portTold s port fn tag) := by
  unfold pstateOp
  rw [h3, h4]
  rfl

theorem pstateOp_reset (h3 : bit tag 3 = false) (h4 : bit tag 4 = true) :
    pstateOp s port fn tag = releaseAll (portReset (portTold s port fn tag) port) := by
  unfold pstateOp
  rw [h3, h4]
  rfl

theorem pstateOp_flr (h3 : bit tag 3 = true) (h4 : bit tag 4 = false) :
    pstateOp s port fn tag = releaseAll (flrOp (portTold s port fn tag) port fn) := by
  unfold pstateOp
  rw [h3, h4]
  rfl

theorem getPort_portTold : getPort (portTold s port fn tag) port = portSaid tag := by
  rw [portTold, getPort_modFunc, getPort_modPort]

theorem getPort_portTold_ne {p : Nat} (h : p ≠ port) : getPort (portTold s port fn tag) p = getPort s p := by
  rw [portTold, getPort_modFunc, getPort_modPort_ne _ _ h.symm]

theorem getStall_portTold (k : Nat) : getStall (portTold s port fn tag) k = getStall s k := rfl

theorem getFunc_portTold : (getFunc (portTold s port fn tag) port fn).bme = bit tag 2 := by rw [portTold, getFunc_modFunc]

theorem offPorts_portTold : offPorts (portTold s port fn tag) = offPorts s := rfl

end

/-! ### A conventional reset (R144) -/

def busOff (f : Func) : Func := { f with bme := false }

theorem portReset_eq (s : State) (port : Nat) :
    portReset s port = modPort ((List.range 16).foldl (fun s fn => modFunc s port fn busOff)
      ((List.range 16).foldl (fun s i => if stallPort s i = port then maskVectors s i else s) s)) port
      (fun p => { p with vfEnable := false, numVfs := 0 }) := rfl

theorem getPort_portReset (s : State) (port : Nat) :
    (getPort (portReset s port) port).vfEnable = false ∧ (getPort (portReset s port) port).numVfs = 0 := by
  rw [portReset_eq, getPort_modPort]
  exact ⟨rfl, rfl⟩

theorem bme_busOff {s : State} {port f : Nat} (g : Nat) (h : (getFunc s port f).bme = false) :
    (getFunc (modFunc s port g busOff) port f).bme = false := by
  by_cases hg : g = f
  · subst hg
    rw [getFunc_modFunc]
    rfl
  · rwa [getFunc_modFunc_ne _ _ (by omega)]

theorem bme_portReset (s : State) (port : Nat) {f : Nat} (hf : f < 16) : (getFunc (portReset s port) port f).bme = false := by
  rw [portReset_eq, getFunc_modPort]
  exact foldl_reaches (fun s fn => modFunc s port fn busOff) (fun _ => True) (fun s => (getFunc s port f).bme = false) (fun _ _ _ => trivial)
    (fun s g _ h => bme_busOff g h) (fun s _ => by rw [getFunc_modFunc]; rfl) (List.mem_range.2 hf) trivial

theorem offPorts_portReset (s : State) (port : Nat) : offPorts (portReset s port) = offPorts s := by
  rw [portReset_eq, offPorts_modPort, foldl_keep offPorts _ (fun s fn => offPorts_modFunc s port fn busOff)]
  refine foldl_keep offPorts _ (fun s i => ?_) _ _
  split
  · exact offPorts_modStall ..
  · rfl

/-! ### A Function Level Reset (R144) -/

theorem offPorts_of_offSlots {s t : State} (h : offSlots t = offSlots s) : offPorts t = offPorts s := (congrArg offPorts h :)

section
variable {s : State} {port fn i : Nat} (hfn : fnStall s port fn = some i) (hst : (getStall s i).state = .active)
  (hwarm : s.boot.warmStep = 0) (hseg : s.loader.segState = 0)
include hfn hst hwarm hseg

theorem getStall_flrOp : getStall (flrOp s port fn) i = resetBegun { getStall s i with msixOpen := [], msixPend := [] } := by
  have hmask : (getStall (maskVectors s i) i).state = .active := by rw [maskVectors, getStall_modStall]; exact hst
  have hreset : getStall (startReset i (maskVectors s i)) i = resetBegun { getStall s i with msixOpen := [], msixPend := [] } := by
    rw [getStall_startReset (.inl hmask) hwarm hseg, maskVectors, getStall_modStall]
  unfold flrOp
  rw [hfn]
  dsimp only
  split <;> exact hreset

theorem offPorts_flrOp : offPorts (flrOp s port fn) = offPorts s := by
  have hmask : (getStall (maskVectors s i) i).state = .active := by rw [maskVectors, getStall_modStall]; exact hst
  have hreset : offPorts (startReset i (maskVectors s i)) = offPorts s :=
    (offPorts_of_offSlots (offSlots_startReset (.inl hmask) hwarm hseg)).trans rfl
  unfold flrOp
  rw [hfn]
  dsimp only
  split <;> exact hreset

end

theorem exec_pstate {s : State} {port : Fin 2} (fn : BitVec 4) (tag : W16) (hl : linkActiveNow s port.val = true)
    (hb : msgBlocked s port.val 0x13 = false) :
    exec (.pstate port fn tag) s = .next (pstateOp (takeMsg s port.val 0x13) port.val fn.toNat tag) :=
  (if_neg (by rw [hb]; exact Bool.false_ne_true)).trans (congrArg _ (if_pos hl))

/-- Settles O28, by the event that the message carries: none, a conventional reset, or an FLR. -/
theorem portStateTakesEffect : Obligations.PortStateTakesEffect := by
  intro s port fn tag hl hb
  have hexec := exec_pstate fn tag hl hb
  have haside := aside_takeMsg s port.val 0x13
  refine ⟨fun h3 h4 => ⟨_, hexec, ?_⟩, fun h3 h4 => ⟨_, hexec, ?_⟩, fun i h3 h4 hwarm hseg hfn hst => ⟨_, hexec, ?_⟩⟩
  · clear hexec
    generalize takeMsg s port.val 0x13 = u at haside ⊢
    rw [pstateOp_plain u _ _ h3 h4, getPort_of_aside (aside_releaseAll _), getFunc_of_aside (aside_releaseAll _)]
    refine ⟨getPort_portTold .., getFunc_portTold .., fun p hp => ?_, kept_of_offPorts ?_⟩
    · rw [getPort_of_aside (aside_releaseAll _), getPort_portTold_ne _ _ _ hp, getPort_of_aside haside]
    · rw [offPorts_of_aside (aside_releaseAll _), offPorts_portTold, offPorts_of_aside haside]
  · clear hexec
    generalize takeMsg s port.val 0x13 = u at haside ⊢
    rw [pstateOp_reset u _ _ h3 h4, getPort_of_aside (aside_releaseAll _)]
    obtain ⟨hvf, hnum⟩ := getPort_portReset (portTold u port.val fn.toNat tag) port.val
    refine ⟨hvf, hnum, fun f hf => ?_, (kept_of_offPorts ?_).1⟩
    · rw [getFunc_of_aside (aside_releaseAll _)]
      exact bme_portReset _ _ hf
    · rw [offPorts_of_aside (aside_releaseAll _), offPorts_portReset, offPorts_portTold, offPorts_of_aside haside]
  · clear hexec
    generalize takeMsg s port.val 0x13 = u at haside ⊢
    have hsaid : offPorts (portTold u port.val fn.toNat tag) = offPorts s := (offPorts_portTold ..).trans (offPorts_of_aside haside)
    have hact : (getStall (portTold u port.val fn.toNat tag) i).state = .active := by
      rw [getStall_portTold, (getStall_of_aside haside i).1, hst]
    rw [pstateOp_flr _ _ _ h3 h4]
    generalize portTold u port.val fn.toNat tag = v at hsaid hact ⊢
    rw [← fnStall_of_offPorts hsaid] at hfn
    rw [← (idle_of_offPorts hsaid).1] at hwarm
    rw [← (idle_of_offPorts hsaid).2] at hseg
    obtain ⟨hstate, hopen⟩ := getStall_of_aside (aside_releaseAll (flrOp v port.val fn.toNat)) i
    rw [hstate, hopen, getStall_flrOp hfn hact hwarm hseg]
    refine ⟨rfl, rfl, (kept_of_offPorts ?_).1⟩
    rw [offPorts_of_aside (aside_releaseAll _), offPorts_flrOp hfn hact hwarm hseg, hsaid]

end Sys2Proof.Machine
end

section
/-!
PROOFS. Chapter 04, a host's accesses to its stall's memory window and a Tether engine's to host memory (R148, R177, R341, R548, R563).
-/
namespace Sys2Proof.Machine

/-! ### Requests at a link (R546, R563, R574) -/

theorem takeMsg_girths (s : State) (g : Nat) (opc : Byte) : ∃ gs, takeMsg s g opc = { s with girths := gs } := ⟨_, rfl⟩

section
variable {s : State} {g : Nat} {opc : Byte} (h : HeldReq) (f : State → State)

/-- A request whose turn it is, at an ACTIVE link, acts. -/
theorem hostRequest_acts (hl : linkActiveNow s g = true) (hb : msgBlocked s g opc = false) : hostRequest s g opc h f = f (takeMsg s g opc) := by
  unfold hostRequest
  rw [if_pos hl, if_neg (by rw [hb]; exact Bool.false_ne_true)]

/-- One that meets a link in training waits. -/
theorem hostRequest_waits (htr : (getGirth s g).state = .training) : hostRequest s g opc h f = hold s g h := by
  have hl : ¬linkActiveNow s g = true := by rw [linkActiveNow, htr]; decide
  have hf : ¬(getGirth s g).state = .failed := by rw [htr]; decide
  unfold hostRequest
  rw [if_neg hl, if_neg hf]

end

theorem unreachable_takeMsg (s : State) (g : Nat) (opc : Byte) (i : Nat) : unreachable (takeMsg s g opc) i = unreachable s i := by
  have hport : stallPort (takeMsg s g opc) i = stallPort s i := rfl
  have hlink : linkDown (takeMsg s g opc) i = linkDown s i := by
    unfold linkDown
    rw [takeMsg_girth_state, hport]
    rfl
  unfold unreachable
  rw [hlink]
  rfl

theorem emit_sent (s : State) (o : Out) : o ∈ (emit s o).sent := List.mem_cons_self

theorem emit_told (s : State) (o : Out) : emit s o = told s (emit s o) := told_of_aside (aside_emit s o)

/-! ### A host's write of its window (R148, R177, R341) -/

section
variable {s : State} {port fn i : Nat} (hr : restoring s = false) (hfn : fnStall s port fn = some i)
include hr hfn

/-- A write within memory, outside the stable slots and the school areas, stores its bytes. -/
theorem bar2Write_stores (hrec : (stallRec s i).isSome = true) {x : Nat} {bs : List Byte} (hlow : 0x800000 ≤ x) (hhigh : x + bs.length ≤ regionSize s i)
    (hstable : inStable s i x = false) (hschool : inSchool s i x = false) :
    bar2Write s port fn x bs false = bar2Touch (devWrite s (regionAddr s i x) bs) i x bs.length true := by
  have hopen : ¬((stallRec s i).isNone || decide (x < 0x800000) || decide (regionSize s i < x + bs.length) || inStable s i x
      || inSchool s i x) = true := by
    rw [hstable, hschool, Option.isNone_eq_false_iff.2 hrec, decide_eq_false (by omega), decide_eq_false (by omega)]
    exact Bool.false_ne_true
  unfold bar2Write
  rw [hr, hfn]
  exact if_neg hopen

/-- A write into the control area is counted and stores nothing. -/
theorem bar2Write_control {x : Nat} (bs : List Byte) (hlow : x < 0x800000) : bar2Write s port fn x bs false = accErr s i := by
  have hshut : ((stallRec s i).isNone || decide (x < 0x800000) || decide (regionSize s i < x + bs.length) || inStable s i x
      || inSchool s i x) = true := by
    rw [decide_eq_true hlow, Bool.or_true, Bool.true_or, Bool.true_or, Bool.true_or]
  unfold bar2Write
  rw [hr, hfn]
  exact if_pos hshut

end

theorem bar2Touch_devWrite_keeps (s : State) (a i x : Nat) (bs : List Byte) :
    (bar2Touch (devWrite s a bs) i x bs.length true).mem.hbm = devPut s.mem.hbm a bs
      ∧ (bar2Touch (devWrite s a bs) i x bs.length true).arrays = s.arrays
      ∧ (bar2Touch (devWrite s a bs) i x bs.length true).cores = s.cores
      ∧ PartKept s (bar2Touch (devWrite s a bs) i x bs.length true) :=
  ⟨rfl, rfl, rfl, rfl, rfl, rfl, rfl, rfl, rfl, rfl, rfl, rfl, rfl, rfl, rfl⟩

section
variable {s : State} {port : Fin 2} (fn : BitVec 4) (hostPort : Fin 2) (addr : W64) (data : List Byte)

/-- A write of the window at an ACTIVE link is the window's. -/
theorem exec_windowWrite (hl : linkActiveNow s port.val = true) (hb : msgBlocked s port.val 0x10 = false) :
    exec (.mwr port fn 0 hostPort addr data false) s
      = .next (bar2Write (takeMsg s port.val 0x10) port.val fn.toNat addr.toNat data false) := by
  have hspace : exec (.mwr port fn 0 hostPort addr data false) s = .next (windowWrite s port.val fn.toNat addr.toNat data false) := rfl
  rw [hspace, windowWrite, hostRequest_acts _ _ hl hb]

theorem exec_windowWrite_waits (htr : (getGirth s port.val).state = .training) :
    exec (.mwr port fn 0 hostPort addr data false) s = .next (hold s port.val (.mwr port.val fn.toNat addr.toNat data false)) := by
  have hspace : exec (.mwr port fn 0 hostPort addr data false) s = .next (windowWrite s port.val fn.toNat addr.toNat data false) := rfl
  rw [hspace, windowWrite, hostRequest_waits _ _ htr]

/-- A Tether engine's write, where a stall of its die answers for it, goes to that stall's host. -/
theorem exec_engineWrite {i : Nat} (hl : linkActiveNow s port.val = true) (hb : msgBlocked s port.val 0x10 = false)
    (hs : engineStall s port.val fn.toNat hostPort.val = some i) :
    exec (.mwr port fn 1 hostPort addr data false) s = .next (toHost (takeMsg s port.val 0x10) i (.mwr i addr data)) := by
  have hopen : (1 : BitVec 2) = 1 ∧ linkActiveNow s port.val = true ∧ msgBlocked s port.val 0x10 = false := ⟨rfl, hl, hb⟩
  change execMwr port fn 1 hostPort addr data false s = _
  unfold execMwr
  dsimp only
  rw [if_neg (by decide : ¬(1 : BitVec 2) = 0), if_pos hopen, hs]

end

theorem toHost_reached {s : State} {i : Nat} (o : Out) (h : unreachable s i = false) : toHost s i o = emit s o :=
  if_neg (by rw [h]; exact Bool.false_ne_true)

/-! ### A host's read of its window (R148, R548) -/

theorem bar2Byte_memory {s : State} {i x : Nat} (hlow : 0x800000 ≤ x) (hstable : inStable s i x = false) (hbad : regionBad s i x 1 = false) :
    bar2Byte s i x = some (tget 0 s.mem.hbm (devKey (regionAddr s i x))) := by
  unfold bar2Byte
  rw [if_neg (by omega), hstable, hbad]
  rfl

/-- Bytes of memory that can all be read are read as they stand, and no value is drawn. -/
theorem bar2Bytes_memory {s : State} {i : Nat} (n x : Nat) (hlow : 0x800000 ≤ x) (hhigh : x + n ≤ regionSize s i)
    (hread : ∀ j, j < n → inStable s i (x + j) = false ∧ regionBad s i (x + j) 1 = false) :
    bar2Bytes s i x n = ((List.range n).map (fun j => tget 0 s.mem.hbm (devKey (regionAddr s i (x + j)))), s) := by
  induction n generalizing x with
  | zero => rfl
  | succ n ih =>
    obtain ⟨hstable, hbad⟩ := hread 0 (Nat.succ_pos n)
    rw [Nat.add_zero] at hstable hbad
    have hrest := ih (x + 1) (by omega) (by omega) fun j hj => by
      have hj1 := hread (j + 1) (Nat.succ_lt_succ hj)
      rwa [← Nat.add_assoc, Nat.add_right_comm] at hj1
    have hshift : ∀ j, x + 1 + j = x + Nat.succ j := by omega
    have htail : (List.range n).map (fun j => tget 0 s.mem.hbm (devKey (regionAddr s i (x + 1 + j))))
        = (List.range n).map ((fun j => tget 0 s.mem.hbm (devKey (regionAddr s i (x + j)))) ∘ Nat.succ) :=
      List.map_congr_left fun j _ => by rw [hshift, Function.comp_apply]
    rw [bar2Bytes, hrest, if_neg (by omega), bar2Byte_memory hlow hstable hbad, List.range_succ_eq_map, List.map_cons, List.map_map, ← htail]
    dsimp only [Nat.add_zero]

theorem blockPieces_single {a : Nat} {bs : List Byte} (hne : bs ≠ []) (hfit : a % 64 + bs.length ≤ 64) :
    blockPieces (bs.length + 1) a bs = [(a, bs)] := by
  have hall : bs.length ≤ 64 - a % 64 := by omega
  have hempty : ¬bs.isEmpty = true := by rwa [List.isEmpty_iff]
  rw [blockPieces, if_neg hempty]
  dsimp only
  rw [List.take_of_length_le hall, List.drop_of_length_le hall]
  cases bs.length with
  | zero => rfl
  | succ n => rfl

/-- A read within one 64-byte block is answered by one completion. -/
theorem sendCpls_single (s : State) (g : Nat) (tag : W16) {a : Nat} {bs : List Byte} (hne : bs ≠ []) (hfit : a % 64 + bs.length ≤ 64) :
    sendCpls s g tag a bs = emit s (.cpl g tag 0 bs true) := by
  unfold sendCpls
  rw [blockPieces_single hne hfit]
  rfl

theorem bar2Read_memory {s : State} {port fn i x n : Nat} (hr : restoring s = false) (hfn : fnStall s port fn = some i)
    (hrec : (stallRec s i).isSome = true) (hlow : 0x800000 ≤ x) (hhigh : x + n ≤ regionSize s i)
    (hread : ∀ j, j < n → inStable s i (x + j) = false ∧ regionBad s i (x + j) 1 = false) :
    bar2Read s port fn x n
      = ((List.range n).map (fun j => tget 0 s.mem.hbm (devKey (regionAddr s i (x + j)))), bar2Touch s i x n false) := by
  unfold bar2Read
  rw [hr, hfn]
  dsimp only
  rw [Option.isNone_eq_false_iff.2 hrec, bar2Bytes_memory n x hlow hhigh hread]
  exact congrArg (Prod.mk _) (if_neg (by show ¬regionSize s i < x + n; omega))

/-! ### A Tether engine's read of host memory (R548) -/

/-- A request that may go out at once goes out under a TAG of the link, which then holds it. -/
theorem request_goesOut {s : State} {d : Nat} (host : Option (Nat × Nat × W16)) (i : Nat) (a : W64) (n : Nat)
    (hwait : (getGirth s d).reqWait = []) (hmay : mayRequest (getGirth s d) (.mrd i 0 a n) = true) :
    ∃ tag, .mrd i tag a n ∈ (request s d host (.mrd i 0 a n)).sent
      ∧ (∃ r ∈ (getGirth (request s d host (.mrd i 0 a n)) d).reqs, r.tag = tag ∧ r.host = host)
      ∧ request s d host (.mrd i 0 a n) = told s (request s d host (.mrd i 0 a n)) := by
  have hgo : request s d host (.mrd i 0 a n) = sendReq s d host (.mrd i 0 a n) := if_pos (by rw [hwait, hmay]; rfl)
  rw [hgo]
  unfold sendReq
  extract_lets x tag
  clear_value tag
  refine ⟨tag, emit_sent .., ⟨{ tag := tag, host := host, since := s.now, mem := true }, ?_, rfl, rfl⟩, told_trans rfl (emit_told ..)⟩
  rw [emit_girth_reqs, getGirth_modGirth]
  exact List.mem_append_right _ List.mem_cons_self

theorem mayRequest_takeMsg (s : State) (g : Nat) (opc : Byte) (d : Nat) (o : Out) :
    mayRequest (getGirth (takeMsg s g opc) d) o = mayRequest (getGirth s d) o := by
  unfold mayRequest
  rw [takeMsg_girth_reqs]

section
variable {s : State} {port : Fin 2} (fn : BitVec 4) (hostPort : Fin 2) (tag : W16) (addr : W64) (n : BitVec 10)
  (hl : linkActiveNow s port.val = true) (hb : msgBlocked s port.val 0x01 = false)
include hl hb

/-- A read of the window at an ACTIVE link is answered with what the window shows. -/
theorem exec_windowRead :
    exec (.mrd port fn 0 hostPort tag addr n) s
      = .next (sendCpls (bar2Read (takeMsg s port.val 0x01) port.val fn.toNat addr.toNat n.toNat).2 port.val tag addr.toNat
          (bar2Read (takeMsg s port.val 0x01) port.val fn.toNat addr.toNat n.toNat).1) := by
  have hspace : exec (.mrd port fn 0 hostPort tag addr n) s = .next (windowRead s port.val fn.toNat tag addr.toNat n.toNat) := rfl
  rw [hspace, windowRead, hostRequest_acts _ _ hl hb]

/-- A Tether engine's read goes out in the name of the stall that answers for it. -/
theorem exec_engineRead {i : Nat} (hs : engineStall s port.val fn.toNat hostPort.val = some i) (hreach : unreachable s i = false) :
    exec (.mrd port fn 1 hostPort tag addr n) s
      = .next (request (takeMsg s port.val 0x01) (stallPort s i) (some (port.val, fn.toNat, tag)) (.mrd i 0 addr n.toNat)) := by
  have hopen : (1 : BitVec 2) = 1 ∧ linkActiveNow s port.val = true ∧ msgBlocked s port.val 0x01 = false := ⟨rfl, hl, hb⟩
  change execMrd port fn 1 hostPort tag addr n s = _
  unfold execMrd
  dsimp only
  rw [if_neg (by decide : ¬(1 : BitVec 2) = 0), if_pos hopen, hs]
  exact if_neg (by rw [hreach]; exact Bool.false_ne_true)

/-- One for which no stall answers is aborted. -/
theorem exec_engineRead_aborted (hs : engineStall s port.val fn.toNat hostPort.val = none) :
    exec (.mrd port fn 1 hostPort tag addr n) s = .next (emit (takeMsg s port.val 0x01) (.cpl port.val tag 2 [] true)) := by
  have hopen : (1 : BitVec 2) = 1 ∧ linkActiveNow s port.val = true ∧ msgBlocked s port.val 0x01 = false := ⟨rfl, hl, hb⟩
  change execMrd port fn 1 hostPort tag addr n s = _
  unfold execMrd
  dsimp only
  rw [if_neg (by decide : ¬(1 : BitVec 2) = 0), if_pos hopen, hs]

end

theorem takeMsg_told (s : State) (g : Nat) (opc : Byte) : takeMsg s g opc = told s (takeMsg s g opc) := told_of_aside (aside_takeMsg s g opc)

/-- The answer to a read leaves the units and the part as the look-up in the cache leaves them. -/
theorem emit_bar2Touch_keeps (s : State) (i x n : Nat) (o : Out) :
    (emit (bar2Touch s i x n false) o).mem.hbm = s.mem.hbm ∧ (emit (bar2Touch s i x n false) o).mem.poison = s.mem.poison
      ∧ (emit (bar2Touch s i x n false) o).arrays = s.arrays ∧ (emit (bar2Touch s i x n false) o).cores = s.cores
      ∧ PartKept s (emit (bar2Touch s i x n false) o) := by
  obtain ⟨hunits, hpart⟩ := kept_of_told (emit_told (bar2Touch s i x n false) o)
  obtain ⟨harrays, -, -, -, hmem, hcores, -⟩ := hunits
  exact ⟨(congrArg Mem.hbm hmem).trans rfl, (congrArg Mem.poison hmem).trans rfl, harrays, hcores, hpart⟩

/-- Settles O29: the writes and the reads, each of the window and of host memory. -/
theorem hostWindowAccess : Obligations.HostWindowAccess := by
  refine ⟨fun s port fn hostPort addr data => ?_, fun s port fn hostPort tag addr n hl hb => ?_⟩
  · obtain ⟨gs, hgs⟩ := takeMsg_girths s port.val 0x10
    refine ⟨fun i hl hb hr hfn hrec => ?_, fun htr => ?_, fun i hl hb hs hreach => ?_⟩
    · have hexec := exec_windowWrite fn hostPort addr data hl hb
      rw [hgs] at hexec
      refine ⟨fun hlow hhigh hstable hschool => ⟨_, hexec, ?_⟩, fun hlow => ⟨_, hexec, ?_⟩⟩
      · rw [bar2Write_stores (s := { s with girths := gs }) hr hfn hrec hlow hhigh hstable hschool]
        obtain ⟨hhbm, harrays, hcores, hpart⟩ := bar2Touch_devWrite_keeps { s with girths := gs } (regionAddr s i addr.toNat) i addr.toNat data
        refine ⟨hhbm, fun k hk => ?_, harrays, hcores, hpart⟩
        exact (congrArg (fun m => tget 0 m k) hhbm).trans (tget_devPut_other _ _ _ _ hk)
      · rw [bar2Write_control (s := { s with girths := gs }) hr hfn data hlow, accErr, getStall_modStall]
        exact ⟨rfl, rfl, ⟨rfl, rfl, rfl, rfl, rfl, rfl, rfl, rfl, rfl⟩, rfl, rfl, rfl, rfl, rfl, rfl, rfl, rfl, rfl, rfl, rfl, rfl⟩
    · refine ⟨_, exec_windowWrite_waits fn hostPort addr data htr, ?_, rfl⟩
      rw [hold, getGirth_modGirth]
    · have hexec := exec_engineWrite fn hostPort addr data hl hb hs
      rw [toHost_reached _ ((unreachable_takeMsg ..).trans hreach), hgs] at hexec
      exact ⟨_, hexec, emit_sent .., told_trans rfl (emit_told { s with girths := gs } _)⟩
  · refine ⟨fun i hr hfn hrec hpos hfit hlow hhigh hread => ?_, fun i hs hreach hwait hmay => ?_, fun hs => ?_⟩
    · obtain ⟨gs, hgs⟩ := takeMsg_girths s port.val 0x01
      have hexec := exec_windowRead fn hostPort tag addr n hl hb
      have hbytes := bar2Read_memory (s := { s with girths := gs }) hr hfn hrec hlow hhigh hread
      rw [hgs, hbytes, sendCpls_single] at hexec
      · exact ⟨_, hexec, emit_sent .., emit_bar2Touch_keeps { s with girths := gs } i addr.toNat n.toNat _⟩
      · exact List.ne_nil_of_length_pos (by rwa [List.length_map, List.length_range])
      · rwa [List.length_map, List.length_range]
    · obtain ⟨tag', hsent, hreq, htold⟩ := request_goesOut (s := takeMsg s port.val 0x01) (d := stallPort s i)
        (some (port.val, fn.toNat, tag)) i addr n.toNat ((takeMsg_girth_reqWait ..).trans hwait) ((mayRequest_takeMsg ..).trans hmay)
      exact ⟨_, tag', exec_engineRead fn hostPort tag addr n hl hb hs hreach, hsent, hreq, told_trans (takeMsg_told ..) htold⟩
    · exact ⟨_, exec_engineRead_aborted fn hostPort tag addr n hl hb hs, emit_sent .., told_trans (takeMsg_told ..) (emit_told ..)⟩

end Sys2Proof.Machine
end

section
/-!
PROOFS. Chapter 06, what the bookkeeping of tasks and runs leaves of the units: the arrays, their engines, the fence records, the cores
and memory (R189, R193, R268, R303, R327).
-/
namespace Sys2Proof.Machine

/-! ### What leaves the units as they are -/

/-- Every array, the engines, the fence records, the pacer cores and memory. -/
def hardware (s : State) : (Nat → ArrayU) × Table VecU × Fencing × Table PCore × Mem := (getArr s, s.vecs, s.fencing, s.cores, s.mem)

theorem getArr_of_hardware {s t : State} (h : hardware t = hardware s) (n : Nat) : getArr t n = getArr s n :=
  congrFun (congrArg Prod.fst h) n

theorem vecs_of_hardware {s t : State} (h : hardware t = hardware s) : t.vecs = s.vecs := (congrArg (fun x => x.2.1) h :)
theorem fencing_of_hardware {s t : State} (h : hardware t = hardware s) : t.fencing = s.fencing := (congrArg (fun x => x.2.2.1) h :)
theorem cores_of_hardware {s t : State} (h : hardware t = hardware s) : t.cores = s.cores := (congrArg (fun x => x.2.2.2.1) h :)
theorem mem_of_hardware {s t : State} (h : hardware t = hardware s) : t.mem = s.mem := (congrArg (fun x => x.2.2.2.2) h :)

theorem vecs_of_benches {s t : State} (h : benches t = benches s) : t.vecs = s.vecs := (congrArg (fun x => x.2.1) h :)

theorem hardware_of_benches {s t : State} (h : benches t = benches s) (hmem : t.mem = s.mem) : hardware t = hardware s := by
  unfold hardware
  rw [funext (getArr_of_benches h), fencing_of_benches h, cores_of_benches h, hmem, vecs_of_benches h]

@[simp] theorem hardware_modStall (s : State) (i : Nat) (f : Stall → Stall) : hardware (modStall s i f) = hardware s := rfl
@[simp] theorem hardware_modCarrier (s : State) (c : Nat) (f : Carrier → Carrier) : hardware (modCarrier s c f) = hardware s := rfl
@[simp] theorem hardware_setEntry (s : State) (i q : Nat) (seq : W32) (f : JEntry → JEntry) : hardware (setEntry s i q seq f) = hardware s := rfl

@[simp] theorem hardware_modRun (s : State) (o : Owner) (f : Run → Run) : hardware (modRun s o f) = hardware s := by
  cases o <;> rfl

@[simp] theorem hardware_leaveArray (s : State) (o : Owner) : hardware (leaveArray s o) = hardware s := hardware_modRun ..

@[simp] theorem hardware_charge (s : State) (i : Nat) (o : Owner) (k : ChargeKind) (pool : Bool) (ns : Nat) :
    hardware (charge s i o k pool ns) = hardware s := hardware_of_benches (benches_charge ..) (mem_charge ..)

@[simp] theorem hardware_report (s : State) (e : Event) : hardware (report s e) = hardware s :=
  hardware_of_benches (benches_report ..) (report_mem ..)

@[simp] theorem hardware_emit (s : State) (o : Out) : hardware (emit s o) = hardware s := by
  unfold hardware
  rw [funext (getArr_of_arrays (emit_arrays s o)), emit_vecs, emit_fencing, emit_cores, emit_mem]

@[simp] theorem hardware_refreshBacklog (s : State) : hardware (refreshBacklog s) = hardware s := by
  refine foldl_keep hardware _ (fun s i => ?_) _ _
  rfl

@[simp] theorem hardware_dropWork (s : State) (i q : Nat) (seq : W32) : hardware (dropWork s i q seq) = hardware s :=
  by
  refine hardware_of_benches (benches_dropWork ..) ?_
  rw [dropWork, modStall_mem, mem_dropXfers]

@[simp] theorem hardware_toCommitting (s : State) (i q : Nat) (seq : W32) (status : W16) :
    hardware (toCommitting s i q seq status) = hardware s := by
  simp [toCommitting]

@[simp] theorem hardware_displaceRun (s : State) (i q : Nat) (seq : W32) : hardware (displaceRun s i q seq) = hardware s := by
  unfold displaceRun
  split
  · rfl
  · simp

@[simp] theorem hardware_failInv (s : State) (c cause : Nat) : hardware (failInv s c cause) = hardware s := by
  unfold failInv
  split <;> rfl

/-- A task that fails on an uncorrectable word changes its run or its slot alone (R84, R193). -/
@[simp] theorem hardware_failOwner (s : State) (o : Owner) (t : Nat) (avoid : Option Nat) : hardware (failOwner s o t avoid) = hardware s := by
  cases o with
  | net c => exact hardware_failInv ..
  | job i q seq =>
    show hardware (eccFail s i q seq t avoid) = hardware s
    unfold eccFail
    split
    · rfl
    · split <;> simp

@[simp] theorem hardware_finishRun (s : State) (o : Owner) : hardware (finishRun s o) = hardware s := by
  unfold finishRun
  split
  · rfl
  · split
    · rfl
    · cases o <;> simp

@[simp] theorem hardware_markSat (s : State) (o : Owner) (sat : Bool) : hardware (markSat s o sat) = hardware s := by
  unfold markSat
  split
  · split <;> rfl
  · rfl

/-! ### What leaves an array's contents as they are -/

/-- An array without what events, a change of its clock, a park and a stabling move. -/
def contents (a : ArrayU) : ArrayU := { a with freq := 0, parked := false, transit := 0, events := [] }

/-- Arrays of the same contents run the same task, hold the same bytes, slots and tokens, and count the same. -/
theorem contents_keeps {a b : ArrayU} (h : contents a = contents b) :
    a.run = b.run ∧ a.main = b.main ∧ a.rsv = b.rsv ∧ a.acc = b.acc ∧ a.tokens = b.tokens ∧ a.cycles = b.cycles ∧ a.tasks = b.tasks :=
  ⟨(congrArg ArrayU.run h :), (congrArg ArrayU.main h :), (congrArg ArrayU.rsv h :), (congrArg ArrayU.acc h :), (congrArg ArrayU.tokens h :),
    (congrArg ArrayU.cycles h :), (congrArg ArrayU.tasks h :)⟩

/-- Arrays of the same contents show the same errors and list the same failed words. -/
theorem contents_errors {a b : ArrayU} (h : contents a = contents b) :
    a.errCode = b.errCode ∧ a.ueSeen = b.ueSeen ∧ a.eccUe = b.eccUe ∧ a.ueAcc = b.ueAcc ∧ a.ueRsv = b.ueRsv ∧ a.ueMain = b.ueMain :=
  ⟨(congrArg ArrayU.errCode h :), (congrArg ArrayU.ueSeen h :), (congrArg ArrayU.eccUe h :), (congrArg ArrayU.ueAcc h :),
    (congrArg ArrayU.ueRsv h :), (congrArg ArrayU.ueMain h :)⟩

/-- What of the units stays when entries end and held changes are made: the arrays' contents and all the rest. -/
def holdings (s : State) : (Nat → ArrayU) × Table VecU × Fencing × Table PCore × Mem :=
  (fun n => contents (getArr s n), s.vecs, s.fencing, s.cores, s.mem)

theorem contents_of_holdings {s t : State} (h : holdings t = holdings s) (n : Nat) : contents (getArr t n) = contents (getArr s n) :=
  congrFun (congrArg Prod.fst h) n

theorem getVec_of_holdings {s t : State} (h : holdings t = holdings s) (n : Nat) : getVec t n = getVec s n :=
  (congrArg (fun x => tget {} x.2.1 n) h :)

theorem fencing_of_holdings {s t : State} (h : holdings t = holdings s) : t.fencing = s.fencing := (congrArg (fun x => x.2.2.1) h :)
theorem cores_of_holdings {s t : State} (h : holdings t = holdings s) : t.cores = s.cores := (congrArg (fun x => x.2.2.2.1) h :)
theorem mem_of_holdings {s t : State} (h : holdings t = holdings s) : t.mem = s.mem := (congrArg (fun x => x.2.2.2.2) h :)

theorem holdings_of_hardware {s t : State} (h : hardware t = hardware s) : holdings t = holdings s :=
  (congrArg (fun x => (fun n => contents (x.1 n), x.2)) h :)

theorem holdings_modArr (s : State) (n : Nat) (f : ArrayU → ArrayU) (h : ∀ a, contents (f a) = contents a) :
    holdings (modArr s n f) = holdings s := by
  refine Prod.ext (funext fun m => ?_) rfl
  show contents (getArr (modArr s n f) m) = contents (getArr s m)
  by_cases hm : n = m
  · subst hm
    rw [getArr_modArr, h]
  · rw [getArr_modArr_ne _ _ hm]

/-- An entry that ends sets its flags, and changes its run (R303). -/
theorem holdings_endEntry (s : State) (o : Owner) (n t : Nat) (d : List Byte) : holdings (endEntry s o n t d) = holdings s := by
  unfold endEntry
  split
  · rfl
  · split
    · rfl
    · dsimp only
      rw [holdings_of_hardware (hardware_finishRun ..), holdings_of_hardware (hardware_modRun ..)]
      exact holdings_modArr _ _ _ fun _ => rfl

theorem hardware_settleRails (s : State) : hardware (settleRails s) = hardware s := by
  unfold settleRails
  dsimp only
  split
  · split
    · rfl
    · exact hardware_emit ..
  · split
    · exact hardware_emit ..
    · exact (hardware_emit ..).trans (hardware_emit ..)

/-- An array whose clock is set, parked or not. -/
def clocked (f : BitVec 5) (park : Bool) (a : ArrayU) : ArrayU := { a with freq := f, parked := park }

/-- A change held for an array is made on its clock and its park (R56, R600). -/
theorem holdings_settleUnit (s : State) (n : Nat) : holdings (settleUnit s 1 n) = holdings s := by
  unfold settleUnit
  split
  · unfold applyUnit
    dsimp only
    rw [if_pos rfl, holdings_of_hardware (hardware_settleRails _)]
    exact holdings_modArr s n (clocked _ _) fun _ => rfl
  · rfl

theorem holdings_settleMoves (s : State) : holdings (settleMoves s) = holdings s := by
  refine foldl_keep holdings _ (fun s n => ?_) _ _
  unfold settleMove
  split
  · rfl
  · split
    · rfl
    · exact holdings_modArr _ _ _ fun _ => rfl

/-- What follows the end of a task on an array: held changes, stablings that waited for it, and the backlogs. -/
theorem holdings_settled (s : State) (n : Nat) : holdings (refreshBacklog (settleMoves (settleUnit s 1 n))) = holdings s := by
  rw [holdings_of_hardware (hardware_refreshBacklog _), holdings_settleMoves, holdings_settleUnit]

end Sys2Proof.Machine
end

section
/-!
PROOFS. Chapter 06, tile tasks: their end, clean or on an uncorrectable word (R212, R218, R231, R240).
-/
namespace Sys2Proof.Machine

/-! ### Computing a tile task leaves what runs (R212) -/

theorem run_scrPut (a : ArrayU) (w : Window) (b : Nat) (v : Byte) : (scrPut a w b v).run = a.run := by
  unfold scrPut
  split <;> rfl

theorem run_scrWrite (a : ArrayU) (w : Window) (b : Nat) (bs : List Byte) : (scrWrite a w b bs).run = a.run := by
  induction bs generalizing a b with
  | nil => rfl
  | cons v vs ih => exact (ih ..).trans (run_scrPut ..)

theorem run_matmulTile (a : ArrayU) (w : Window) (d : TileDesc) (t : Nat) : (matmulTile a w d t).1.run = a.run := by
  unfold matmulTile
  extract_lets slot r c rows cols old a1 cells out a2 a3
  have h1 : a1.run = a.run := by
    unfold a1
    split <;> rfl
  have h2 : a2.run = a1.run := foldl_keep (fun x : ArrayU × Bool => x.1.run) _ (by intro x c; rfl) cells (a1, false)
  have h3 : a3.run = a2.run := by
    unfold a3
    split <;> rfl
  exact h3.trans (h2.trans h1)

theorem run_drainOne (w : Window) (d : TileDesc) (seed : W64) (t slot : Nat) (o : DrainOut) (ij : Nat × Nat) :
    (drainOne w d seed t slot o ij).arr.run = o.arr.run := by
  unfold drainOne
  extract_lets i j r c v was o1 base u rho q o2 at_ nib b
  have h1 : o1.arr.run = o.arr.run := by
    unfold o1
    split <;> rfl
  have h2 : o2.arr.run = o1.arr.run := by
    unfold o2
    split <;> rfl
  split
  · exact h1
  · split
    · exact (run_scrWrite ..).trans h1
    · split
      · exact (run_scrPut ..).trans (h2.trans h1)
      · exact (run_scrPut ..).trans (h2.trans h1)

theorem run_drainTile (w : Window) (d : TileDesc) (seed : W64) (o : DrainOut) (t : Nat) : (drainTile w d seed o t).arr.run = o.arr.run := by
  unfold drainTile
  extract_lets slot r c rows cols o1 o2
  exact foldl_keep (fun x : DrainOut => x.arr.run) _ (run_drainOne w d seed t slot) _ o1

theorem run_runTile (a : ArrayU) (w : Window) (d : TileDesc) (seed : W64) : (runTile a w d seed).arr.run = a.run := by
  unfold runTile
  extract_lets ts drainAll gated m a1
  have hdrain : ∀ b sat, (drainAll b sat).arr.run = b.run := fun b sat =>
    foldl_keep (fun x : DrainOut => x.arr.run) _ (run_drainTile w d seed) ts { arr := b, sat := sat }
  have hmul : a1.run = a.run :=
    foldl_keep (fun x : ArrayU × Bool => x.1.run) _ (by intro x t; exact run_matmulTile x.1 w d t) ts (a, false)
  split
  · split
    · exact (hdrain ..).trans hmul
    · exact hmul
  · exact hdrain ..
  · exact foldl_keep ArrayU.run _ (by intro b t; rfl) ts a
  · rfl

@[simp] theorem getArr_modVec (s : State) (n : Nat) (f : VecU → VecU) (m : Nat) : getArr (modVec s n f) m = getArr s m := rfl
@[simp] theorem getVec_modArr (s : State) (n : Nat) (f : ArrayU → ArrayU) (m : Nat) : getVec (modArr s n f) m = getVec s m := rfl

/-! ### The end of a task that met no uncorrectable word (R218, R231) -/

/-- An array idle again, with its task and the task's cycles counted. -/
def taskCounted (d : TileDesc) (a : ArrayU) : ArrayU :=
  { a with run := none, cycles := a.cycles + BitVec.ofNat 64 (tileCycles d), tasks := a.tasks + 1 }

/-- What the array's task computes. -/
def taskOut (a : ArrayU) (task : Task) : DrainOut :=
  runTile (taskCounted (tileDesc task.desc) a) (windowOf a task.stall task.reserve) (tileDesc task.desc) task.seed

/-- The words that a task's writes clear are marks beside the array's memories. -/
theorem clearUe_eq (a : ArrayU) (reserve : Bool) (ws : List Nat) :
    clearUe a reserve ws = { a with ueMain := (clearUe a reserve ws).ueMain, ueRsv := (clearUe a reserve ws).ueRsv } := by
  unfold clearUe
  split <;> rfl

/-- An array once its task's results are drained: failed words written whole are cleared, saturations and clamps are counted. -/
def drained (w : Window) (d : TileDesc) (reserve : Bool) (o : DrainOut) : ArrayU :=
  let a := clearUe o.arr reserve ((tileWrites d w).flatMap (fun r => bankWords w r.1 r.2))
  { a with
    ueAcc := a.ueAcc.filter (fun x => !(accWrites d w).contains x), satSeen := a.satSeen || o.sat, clampCnt := satAdd a.clampCnt o.clamps }

/-- What a task computes is the memories of its array, and draining keeps them. -/
theorem drained_keeps (w : Window) (d : TileDesc) (reserve : Bool) (o : DrainOut) :
    (drained w d reserve o).run = o.arr.run ∧ (drained w d reserve o).main = o.arr.main ∧ (drained w d reserve o).rsv = o.arr.rsv
      ∧ (drained w d reserve o).acc = o.arr.acc ∧ (drained w d reserve o).cycles = o.arr.cycles
      ∧ (drained w d reserve o).tasks = o.arr.tasks := by
  have h := clearUe_eq o.arr reserve ((tileWrites d w).flatMap (fun r => bankWords w r.1 r.2))
  exact ⟨(congrArg ArrayU.run h :), (congrArg ArrayU.main h :), (congrArg ArrayU.rsv h :), (congrArg ArrayU.acc h :),
    (congrArg ArrayU.cycles h :), (congrArg ArrayU.tasks h :)⟩

/-- An engine whose tile buffers a task has written. -/
def bufferOut (o : DrainOut) (v : VecU) : VecU :=
  clearTb { v with tb := o.tb.foldl (fun t x => tset 0 t x.1 x.2) v.tb } (o.tb.map (·.1))

/-- A clean end: the array's banks, slots and counts, and its engine's tile buffers, are what the task computed; other arrays, memory
and the cores stay. -/
theorem endTile_clean {s : State} {n : Nat} {task : Task} {read : TaskRead} {o : DrainOut} (ho : taskOut (getArr s n) task = o)
    (hue : taskUe (getArr s n) (windowOf (getArr s n) task.stall task.reserve) (tileDesc task.desc) task.reserve read = none) :
    ∃ u, holdings (endTile s n task read) = holdings u
      ∧ ((getArr u n).run = none ∧ (getArr u n).main = o.arr.main ∧ (getArr u n).rsv = o.arr.rsv ∧ (getArr u n).acc = o.arr.acc
        ∧ (getArr u n).cycles = o.arr.cycles ∧ (getArr u n).tasks = o.arr.tasks)
      ∧ (getVec u n).tb = o.tb.foldl (fun b x => tset 0 b x.1 x.2) (getVec s n).tb
      ∧ (∀ m, m ≠ n → getArr u m = getArr s m) ∧ u.mem = s.mem ∧ u.cores = s.cores := by
  unfold endTile
  extract_lets d c a w s1 s2 o' _ _ s4
  have hcharge : hardware s2 = hardware (modArr s n (taskCounted d)) := hardware_charge ..
  have hself : getArr s2 n = taskCounted d a := (getArr_of_hardware hcharge n).trans (getArr_modArr ..)
  have hout : o' = o := (congrArg (fun x => runTile x w d task.seed) hself).trans ho
  have hs4 : s4 = modVec (modArr s2 n (fun _ => drained w d task.reserve o)) n (bufferOut o) := by
    rw [← hout]
    rfl
  have hrun : o.arr.run = none := by
    rw [← hout]
    exact (run_runTile ..).trans (congrArg ArrayU.run hself)
  rw [hue]
  refine ⟨s4, ?_, ?_, ?_, fun m hm => ?_, ?_, ?_⟩
  · rw [holdings_endEntry, holdings_of_hardware (hardware_markSat ..)]
  · rw [hs4, getArr_modVec, getArr_modArr, ← hrun]
    exact drained_keeps ..
  · rw [hs4, getVec_modVec, getVec_modArr, getVec, vecs_of_hardware hcharge]
    rfl
  · rw [hs4, getArr_modVec, getArr_modArr_ne _ _ hm.symm, getArr_of_hardware hcharge, getArr_modArr_ne _ _ hm.symm]
  · rw [hs4]
    exact (mem_of_hardware hcharge :)
  · rw [hs4]
    exact (cores_of_hardware hcharge :)

/-! ### The end of a task that met one (R240) -/

/-- An uncorrectable word as the array's error registers take it. -/
def latchUe (code : Byte) (i : Nat) (bank : Bool) (addr now : Nat) (a : ArrayU) : ArrayU :=
  { a with
    errCode := code, errStall := BitVec.ofNat 4 i, errBank := bank, errAddr := BitVec.ofNat 18 addr, ueSeen := true, eccUe := satInc a.eccUe,
    lastUe := some now }

/-- The first uncorrectable word in 10 s is latched, and fails its task alone (R80, R240). -/
theorem arrUe_first {s : State} {n : Nat} (h : within10s (getArr s n).lastUe s.now = false) (o : Owner) (t i : Nat) (bank : Bool) (code : Byte)
    (addr : Nat) : hardware (arrUe s n o t i bank code addr) = hardware (modArr s n (latchUe code i bank addr s.now)) := by
  unfold arrUe
  extract_lets again s1 s2 s3
  rw [if_neg (by rw [show again = false from h]; decide)]
  exact (hardware_failOwner ..).trans (hardware_report ..)

/-- The failed word is listed where its code says, and nothing else of the array changes. -/
theorem listUe_eq (a : ArrayU) (reserve : Bool) (code : Byte) (x : Nat) :
    listUe a reserve code x = { a with
      ueAcc := (listUe a reserve code x).ueAcc, ueRsv := (listUe a reserve code x).ueRsv, ueMain := (listUe a reserve code x).ueMain } := by
  unfold listUe
  split
  · rfl
  · split <;> rfl

theorem contains_added (l : List Nat) (x : Nat) : (if l.contains x then l else x :: l).contains x = true := by
  split
  next h => exact h
  · simp

theorem listUe_lists (a : ArrayU) (reserve : Bool) (code : Byte) (x : Nat) :
    (code = 0x11 → (listUe a reserve code x).ueAcc.contains x = true)
      ∧ (code ≠ 0x11 → (if reserve then (listUe a reserve code x).ueRsv else (listUe a reserve code x).ueMain).contains x = true) := by
  unfold listUe
  refine ⟨fun hc => ?_, fun hc => ?_⟩
  · rw [if_pos hc]
    exact contains_added ..
  · rw [if_neg hc]
    cases reserve <;> exact contains_added ..

/-- What a task that met an uncorrectable word leaves of its array. -/
structure FailedOn (a b : ArrayU) (reserve : Bool) (code : Byte) (x : Nat) : Prop where
  run : b.run = none
  err : b.errCode = code
  seen : b.ueSeen = true
  count : b.eccUe = satInc a.eccUe
  acc : code = 0x11 → b.ueAcc.contains x = true
  scr : code ≠ 0x11 → (if reserve then b.ueRsv else b.ueMain).contains x = true
  main : b.main = a.main
  slots : b.acc = a.acc

theorem FailedOn.of_contents {a b c : ArrayU} {reserve : Bool} {code : Byte} {x : Nat} (h : FailedOn a b reserve code x)
    (hc : contents c = contents b) : FailedOn a c reserve code x := by
  obtain ⟨hrun, hmain, -, hacc, -⟩ := contents_keeps hc
  obtain ⟨herr, hseen, hcount, huacc, hursv, humain⟩ := contents_errors hc
  exact ⟨hrun.trans h.run, herr.trans h.err, hseen.trans h.seen, hcount.trans h.count, by rw [huacc]; exact h.acc,
    by rw [hursv, humain]; exact h.scr, hmain.trans h.main, hacc.trans h.slots⟩

theorem failedOn_latched {a b : ArrayU} (hrun : b.run = none) (hcount : b.eccUe = a.eccUe) (hmain : b.main = a.main) (hacc : b.acc = a.acc)
    (reserve : Bool) (code : Byte) (x i addr now : Nat) : FailedOn a (latchUe code i reserve addr now (listUe b reserve code x)) reserve code x := by
  have hkeep := listUe_eq b reserve code x
  obtain ⟨hlacc, hlscr⟩ := listUe_lists b reserve code x
  exact ⟨(congrArg ArrayU.run hkeep :).trans hrun, rfl, rfl,
    (congrArg (fun l => satInc l.eccUe) hkeep :).trans (congrArg satInc hcount), hlacc, hlscr, (congrArg ArrayU.main hkeep :).trans hmain,
    (congrArg ArrayU.acc hkeep :).trans hacc⟩

theorem now_charge (s : State) (i : Nat) (o : Owner) (k : ChargeKind) (pool : Bool) (ns : Nat) : (charge s i o k pool ns).now = s.now := by
  unfold charge
  dsimp only
  split <;> rfl

/-- DPU-cycles of a task that did not end well: any number. -/
def gatedBy (g : Nat) (a : ArrayU) : ArrayU :=
  { a with gated := a.gated + BitVec.ofNat 64 ((a.gatedRem + g) / 1024), gatedRem := (a.gatedRem + g) % 1024 }

theorem endTile_fails {s : State} {n : Nat} {task : Task} {read : TaskRead} {code : Byte} {x : Nat}
    (hue : taskUe (getArr s n) (windowOf (getArr s n) task.stall task.reserve) (tileDesc task.desc) task.reserve read = some (code, x))
    (hlast : within10s (getArr s n).lastUe s.now = false) :
    FailedOn (getArr s n) (getArr (endTile s n task read) n) task.reserve code x ∧ (endTile s n task read).fencing = s.fencing
      ∧ (endTile s n task read).mem = s.mem := by
  unfold endTile
  extract_lets d c a w s1 s2
  have hcharge : hardware s2 = hardware (modArr s n (taskCounted d)) := hardware_charge ..
  have hself : getArr s2 n = taskCounted d a := (getArr_of_hardware hcharge n).trans (getArr_modArr ..)
  have hnow : s2.now = s.now := now_charge ..
  rw [hue]
  dsimp only
  generalize hs3 : modArr (gatedFree s2 n c) n (fun a => listUe a task.reserve code x) = s3
  have harr : getArr s3 n = listUe (gatedBy (ranCycles s2 (1024 * c)) (taskCounted d a)) task.reserve code x := by
    rw [← hs3, getArr_modArr, ← hself]
    exact congrArg (fun b => listUe b task.reserve code x) (getArr_modArr (drew s2) n (gatedBy (ranCycles s2 (1024 * c))))
  have hlast' : within10s (getArr s3 n).lastUe s3.now = false := by
    have hthen : (getArr s3 n).lastUe = a.lastUe := by
      rw [harr, listUe_eq]
      rfl
    have hnow' : s3.now = s2.now := by
      rw [← hs3]
      rfl
    rw [hthen, hnow', hnow]
    exact hlast
  have hend := arrUe_first hlast' task.owner task.tile task.stall task.reserve code (if code = 0x11 then x / 512 else x / 8)
  have hbase : s3.fencing = s2.fencing ∧ s3.mem = s2.mem := by
    rw [← hs3]
    exact ⟨rfl, rfl⟩
  refine ⟨?_, (fencing_of_hardware hend).trans (hbase.1.trans (fencing_of_hardware hcharge :)),
    (mem_of_hardware hend).trans (hbase.2.trans (mem_of_hardware hcharge :))⟩
  rw [getArr_of_hardware hend, getArr_modArr, harr]
  exact failedOn_latched (a := getArr s n) (b := gatedBy (ranCycles s2 (1024 * c)) (taskCounted d a)) rfl rfl rfl rfl ..

section
variable {s : State} {arr : Fin 8} {task : Task} (hrun : (getArr s arr.val).run = some task) (hbatch : (getArr s arr.val).batch = [])
include hrun hbatch

/-- The end of a tile task, once a corrected word is counted. -/
theorem exec_tileTaskEnd {read : TaskRead} (mem : MemRead) :
    exec (.tileTaskEnd arr read mem) s
      = .next (refreshBacklog (settleMoves (settleUnit (endTile (if read = .corrected then arrCe s arr.val else s) arr.val task read) 1 arr.val))) := by
  have hkeep : (getArr (if read = .corrected then arrCe s arr.val else s) arr.val).batch = [] := by
    split
    · rw [arrCe, getArr_modArr]
      exact hbatch
    · exact hbatch
  show execTileTaskEnd arr read s mem = _
  unfold execTileTaskEnd
  dsimp only
  rw [hrun]
  dsimp only
  rw [hkeep]

/-- R212, R218, R231: the third part of O19. -/
theorem tileTaskEnd_clean (mem : MemRead)
    (hue : taskUe (getArr s arr.val) (windowOf (getArr s arr.val) task.stall task.reserve) (tileDesc task.desc) task.reserve .clean = none) :
    ∃ t a o, exec (.tileTaskEnd arr .clean mem) s = .next t
      ∧ a = { getArr s arr.val with
          run := none, cycles := (getArr s arr.val).cycles + BitVec.ofNat 64 (tileCycles (tileDesc task.desc)), tasks := (getArr s arr.val).tasks + 1 }
      ∧ o = runTile a (windowOf (getArr s arr.val) task.stall task.reserve) (tileDesc task.desc) task.seed
      ∧ (getArr t arr.val).run = none ∧ (getArr t arr.val).main = o.arr.main ∧ (getArr t arr.val).rsv = o.arr.rsv
      ∧ (getArr t arr.val).acc = o.arr.acc ∧ (getArr t arr.val).cycles = o.arr.cycles ∧ (getArr t arr.val).tasks = o.arr.tasks
      ∧ (getVec t arr.val).tb = o.tb.foldl (fun b x => tset 0 b x.1 x.2) (getVec s arr.val).tb
      ∧ (∀ m, m ≠ arr.val → (getArr t m).main = (getArr s m).main ∧ (getArr t m).rsv = (getArr s m).rsv ∧ (getArr t m).acc = (getArr s m).acc
          ∧ (getArr t m).run = (getArr s m).run ∧ (getArr t m).tokens = (getArr s m).tokens)
      ∧ t.mem = s.mem ∧ t.cores = s.cores := by
  obtain ⟨u, hu, ⟨hidle, hmain, hrsv, hacc, hcycles, htasks⟩, htb, hothers, hmem, hcores⟩ := endTile_clean rfl hue
  have ht := (holdings_settled (endTile s arr.val task .clean) arr.val).trans hu
  obtain ⟨hrun', hmain', hrsv', hacc', -, hcycles', htasks'⟩ := contents_keeps (contents_of_holdings ht arr.val)
  have hex := exec_tileTaskEnd (read := .clean) hrun hbatch mem
  rw [if_neg nofun] at hex
  refine ⟨_, taskCounted (tileDesc task.desc) (getArr s arr.val), taskOut (getArr s arr.val) task, hex, rfl, rfl, hrun'.trans hidle,
    hmain'.trans hmain, hrsv'.trans hrsv, hacc'.trans hacc, hcycles'.trans hcycles, htasks'.trans htasks,
    (congrArg VecU.tb (getVec_of_holdings ht _)).trans htb, fun m hm => ?_, (mem_of_holdings ht).trans hmem, (cores_of_holdings ht).trans hcores⟩
  have hother := contents_keeps (contents_of_holdings ht m)
  rw [hothers m hm] at hother
  obtain ⟨hr, hm, hv, ha, ht, -⟩ := hother
  exact ⟨hm, hv, ha, hr, ht⟩

/-- R193, R240: the fourth part of O19. -/
theorem tileTaskEnd_fails {read : TaskRead} (mem : MemRead) {code : Byte} {x : Nat}
    (hlast : within10s (getArr s arr.val).lastUe s.now = false)
    (hue : taskUe (getArr s arr.val) (windowOf (getArr s arr.val) task.stall task.reserve) (tileDesc task.desc) task.reserve read
      = some (code, x)) :
    ∃ t, exec (.tileTaskEnd arr read mem) s = .next t ∧ (getArr t arr.val).run = none ∧ (getArr t arr.val).errCode = code
      ∧ (getArr t arr.val).ueSeen = true ∧ (getArr t arr.val).eccUe = satInc (getArr s arr.val).eccUe
      ∧ (code = 0x11 → (getArr t arr.val).ueAcc.contains x = true)
      ∧ (code ≠ 0x11 → (if task.reserve then (getArr t arr.val).ueRsv else (getArr t arr.val).ueMain).contains x = true)
      ∧ (getArr t arr.val).main = (getArr s arr.val).main ∧ (getArr t arr.val).acc = (getArr s arr.val).acc
      ∧ t.fencing = s.fencing ∧ t.mem.hbm = s.mem.hbm := by
  have hex := exec_tileTaskEnd (read := read) hrun hbatch mem
  obtain ⟨u, hu, hce⟩ : ∃ u, (if read = .corrected then arrCe s arr.val else s) = u ∧ (u = s ∨ u = arrCe s arr.val) :=
    ⟨_, rfl, by split <;> simp⟩
  rw [hu] at hex
  have hfails : FailedOn (getArr s arr.val) (getArr (endTile u arr.val task read) arr.val) task.reserve code x
      ∧ (endTile u arr.val task read).fencing = s.fencing ∧ (endTile u arr.val task read).mem = s.mem := by
    obtain rfl | rfl := hce
    · exact endTile_fails hue hlast
    · have hself : getArr (arrCe s arr.val) arr.val
          = { getArr s arr.val with ceSeen := true, eccCe := satInc (getArr s arr.val).eccCe } := getArr_modArr ..
      have h := endTile_fails (s := arrCe s arr.val) (n := arr.val) (task := task) (read := read) (code := code) (x := x)
        (by rw [hself]; exact hue) (by rw [hself]; exact hlast)
      rw [hself] at h
      obtain ⟨⟨hr, he, hs, hc, ha, hl, hm, hsl⟩, hfen, hmem⟩ := h
      exact ⟨⟨hr, he, hs, hc, ha, hl, hm, hsl⟩, hfen, hmem⟩
  obtain ⟨hfailed, hfen, hmem⟩ := hfails
  have hsettled := holdings_settled (endTile u arr.val task read) arr.val
  obtain ⟨hr, he, hs, hc, ha, hl, hm, hsl⟩ := hfailed.of_contents (contents_of_holdings hsettled arr.val)
  exact ⟨_, hex, hr, he, hs, hc, ha, hl, hm, hsl, (fencing_of_holdings hsettled).trans hfen,
    congrArg Mem.hbm ((mem_of_holdings hsettled).trans hmem)⟩

end

end Sys2Proof.Machine
end

section
/-!
PROOFS. Chapter 06, tile tasks: their dispatch, taken or refused, and that of batches in array form (R206, R225, R227, R287, R303, R323).
-/
namespace Sys2Proof.Machine

/-! ### The run of an entry that is dispatched (R303) -/

theorem getRun_of_nextEntry {s : State} {o : Owner} {r : Run} {d : List Byte} (h : nextEntry s o = some (r, d)) : getRun s o = some r := by
  unfold nextEntry at h
  split at h
  · cases h
  next r' hr =>
    split at h
    · cases h
    · dsimp only at h
      rw [Option.ite_none_right_eq_some] at h
      obtain ⟨-, h⟩ := h
      cases h
      exact hr

/-- A run whose next entry, waiting for the flags `wait`, is dispatched. -/
def entryBegun (wait : W16) (x : Run) : Run :=
  { x with
    nextTile := x.nextTile + 1, running := x.running ++ [x.nextTile], marks := if wait = 0 then (x.nextTile, x.nextXfer) :: x.marks else x.marks }

theorem getRun_beginEntry {s : State} {o : Owner} {r : Run} (h : getRun s o = some r) (n : Nat) (d : List Byte) :
    getRun (beginEntry s o r n d) o = some (entryBegun (entryWait d) r) := by
  cases o with
  | job i q seq =>
    refine (getRun_of_benches (benches_setEntry ..) i q seq).trans ?_
    exact getRun_modRun (s := evMod s n _ _) (entryBegun (entryWait d)) (fun _ => rfl) (fun _ => rfl) h
  | net c =>
    unfold getRun at h ⊢
    dsimp only at h ⊢
    obtain ⟨v, hv, rfl⟩ := Option.map_eq_some_iff.1 h
    simp only [beginEntry, modRun, getCarrier_modCarrier]
    rw [show (getCarrier (evMod s n (evKey (.net c) v.run) fun ev => ev &&& ~~~entryWait d) c).inv = some v from hv]
    rfl

theorem getRun_refreshBacklog (s : State) (o : Owner) : getRun (refreshBacklog s) o = getRun s o := by
  cases o with
  | job i q seq => exact getRun_of_benches (benches_refreshBacklog s) i q seq
  | net c =>
    have h : (refreshBacklog s).carriers = s.carriers := foldl_keep State.carriers _ (by intro s i; rfl) _ _
    have hc : getCarrier (refreshBacklog s) c = getCarrier s c := by
      unfold getCarrier
      rw [h]
    unfold getRun
    dsimp only
    rw [hc]

theorem evGet_evMod (s : State) (n k : Nat) (f : W16 → W16) : evGet (evMod s n k f) n k = f (evGet s n k) := by
  simp [evGet, evMod]

/-- Dispatch of an entry consumes its flags in the array's event set, and moves nothing else of the units. -/
theorem hardware_beginEntry (s : State) (o : Owner) (r : Run) (n : Nat) (d : List Byte) :
    hardware (beginEntry s o r n d) = hardware (evMod s n (evKey o r) (fun ev => ev &&& ~~~ entryWait d)) := by
  unfold beginEntry
  dsimp only
  split
  · rw [hardware_setEntry, hardware_modRun]
  · rw [hardware_modRun]

@[simp] theorem offUnits_beginEntry (s : State) (o : Owner) (r : Run) (n : Nat) (d : List Byte) : offUnits (beginEntry s o r n d) = offUnits s := by
  unfold beginEntry
  dsimp only
  split
  · rw [offUnits_setEntry, offUnits_modRun, evMod, offUnits_modArr]
  · rw [offUnits_modRun, evMod, offUnits_modArr]

@[simp] theorem getRun_modArr (s : State) (n : Nat) (f : ArrayU → ArrayU) (o : Owner) : getRun (modArr s n f) o = getRun s o := by
  cases o <;> rfl

/-! ### A stall that stops is FAULTED (R155) -/

theorem condition_charge (s : State) (i : Nat) (o : Owner) (k : ChargeKind) (pool : Bool) (ns j : Nat) :
    condition (getStall (charge s i o k pool ns) j) = condition (getStall s j) := by
  unfold charge
  extract_lets s1
  have h1 : condition (getStall s1 j) = condition (getStall s j) := condition_modStall _ _ _ (by intro x; cases k <;> rfl) j
  split
  · exact (condition_modStall _ _ _ (by intro x; rfl) j).trans h1
  · exact (condition_modStall _ _ _ (by intro x; rfl) j).trans h1
  · exact h1

theorem condition_chargeContribs (s : State) (cs : List Contrib) (k : ChargeKind) (pool : Bool) (ns j : Nat) :
    condition (getStall (chargeContribs s cs k pool ns) j) = condition (getStall s j) :=
  foldl_keep (fun s => condition (getStall s j)) _ (fun _ _ => condition_charge ..) _ _

theorem condition_abortTile (s : State) (n j : Nat) : condition (getStall (abortTile s n) j) = condition (getStall s j) := by
  unfold abortTile abortTileAfter
  split
  · rfl
  · split
    · rfl
    · dsimp only
      split
      · exact condition_charge ..
      · exact condition_chargeContribs ..

theorem condition_abortVec (s : State) (n j : Nat) : condition (getStall (abortVec s n) j) = condition (getStall s j) := by
  unfold abortVec abortVecAfter
  split
  · rfl
  · split
    · rfl
    · exact condition_charge ..

theorem condition_abortPath (s : State) (m i j : Nat) : condition (getStall (abortPath s m i) j) = condition (getStall s j) := by
  unfold abortPath abortPathRun
  split
  · split
    · rfl
    · exact condition_chargeContribs ..
  · rfl

theorem getStall_nextPiece (s : State) (f j : Nat) : getStall (nextPiece s f) j = getStall s j := by
  unfold nextPiece
  split
  · rfl
  · split
    · rfl
    · split <;> rfl

theorem getStall_dropXfers (s : State) (p : Xfer → Bool) (j : Nat) : getStall (dropXfers s p) j = getStall s j := by
  refine foldl_keep (fun s => getStall s j) _ (fun s n => ?_) _ _
  unfold abortFeeder
  rw [getStall_nextPiece]
  rfl

theorem condition_stopOn (i : Nat) (s : State) (n j : Nat) : condition (getStall (stopOn i s n) j) = condition (getStall s j) := by
  unfold stopOn
  dsimp only
  split <;> split <;> simp only [condition_abortVec, condition_abortTile]

theorem condition_abortStall (s : State) (i j : Nat) : condition (getStall (abortStall s i) j) = condition (getStall s j) := by
  rw [abortStall_eq, condition_modStall _ _ _ (by intro x; rfl), getStall_dropXfers,
    foldl_keep (fun s => condition (getStall s j)) _ (fun s m => condition_abortPath s m i j),
    foldl_keep (fun s => condition (getStall s j)) _ (fun s n => condition_stopOn i s n j)]

theorem getStall_failStallSlots (s : State) (i : Nat) (reset : Bool) (j : Nat) : getStall (failStallSlots s i reset) j = getStall s j := by
  refine foldl_keep (fun s => getStall s j) _ (fun s c => ?_) _ _
  split
  · exact getStall_of_offSlots ((offSlots_modCarrier ..).trans (offSlots_touchNow ..)) j
  · rfl

theorem getStall_cacheFlushStall (s : State) (i j : Nat) : getStall (cacheFlushStall s i) j = getStall s j := rfl

theorem state_of_condition {x y : Stall} (h : condition x = condition y) : x.state = y.state := congrArg Prod.fst h

theorem stallFault_faults {s : State} {i : Nat} (h : (getStall s i).state = .active) (code : W16) (kind : BitVec 4) (unit : Nat)
    (data : List Byte) (job : Option (Nat × W32)) : (getStall (stallFault s i code kind unit data job) i).state = .faulted := by
  unfold stallFault
  dsimp only
  rw [h]
  dsimp only
  rw [report_stall_state]
  generalize hs1 : modStall s i _ = s1
  have h1 : (getStall s1 i).state = .faulted := by
    rw [← hs1, getStall_modStall]
  rw [getStall_cacheFlushStall, getStall_failStallSlots]
  exact (state_of_condition (condition_abortStall s1 i i)).trans h1

/-! ### An entry that is refused (R225, R240) -/

theorem descFault_eq (s : State) (o : Owner) (code : Byte) (index : Nat) (kind : BitVec 4) (unit : Nat) :
    ∃ data job, descFault s o code index kind unit = stallFault s (ownerStall s o) 0x2001 kind unit data job := by
  cases o <;> exact ⟨_, _, rfl⟩

/-- A refusal as the array's error registers take it. -/
def latchRefusal (code : Byte) (i : Nat) (bank : Bool) (addr : BitVec 18) (a : ArrayU) : ArrayU :=
  { a with errCode := code, errStall := BitVec.ofNat 4 i, errBank := bank, errAddr := addr }

theorem ownerStall_latched (s : State) (n : Nat) (f : ArrayU → ArrayU) (o : Owner) : ownerStall (modArr s n f) o = ownerStall s o := by
  cases o <;> rfl

/-- A refusal is latched on its array, with one free value where the spec states no address, and faults its stall. -/
theorem refuseArr_eq (s : State) (o : Owner) (code : Byte) (t n : Nat) (bank : Bool) (addr : Option Nat) :
    ∃ u a, (u = s ∨ u = drew s) ∧ refuseArr s o code t n bank addr = descFault (modArr u n (latchRefusal code (ownerStall u o) bank a)) o code t 1 n := by
  cases addr with
  | none => exact ⟨drew s, _, .inr rfl, rfl⟩
  | some x => exact ⟨s, _, .inl rfl, rfl⟩

theorem refuseArr_faults {s : State} {o : Owner} {n : Nat} (hrun : (getArr s n).run = none) (hactive : (getStall s (ownerStall s o)).state = .active)
    (code : Byte) (t : Nat) (bank : Bool) (addr : Option Nat) :
    (getArr (refuseArr s o code t n bank addr) n).errCode = code
      ∧ (getStall (refuseArr s o code t n bank addr) (ownerStall s o)).state = .faulted := by
  obtain ⟨u, a, hu, hrefuse⟩ := refuseArr_eq s o code t n bank addr
  have hsame : getArr u n = getArr s n ∧ getStall u (ownerStall s o) = getStall s (ownerStall s o) ∧ ownerStall u o = ownerStall s o := by
    obtain rfl | rfl := hu
    · exact ⟨rfl, rfl, rfl⟩
    · exact ⟨rfl, rfl, by cases o <;> rfl⟩
  obtain ⟨harr, hstall, howner⟩ := hsame
  obtain ⟨data, job, hfault⟩ := descFault_eq (modArr u n (latchRefusal code (ownerStall u o) bank a)) o code t 1 n
  rw [ownerStall_latched, howner] at hfault
  rw [hrefuse, howner, hfault]
  have hself : getArr (modArr u n (latchRefusal code (ownerStall s o) bank a)) n = latchRefusal code (ownerStall s o) bank a (getArr s n) := by
    rw [getArr_modArr, harr]
  refine ⟨?_, stallFault_faults (by rw [← hactive, ← hstall]; rfl) ..⟩
  rw [(workStops_stallFault ..).arr n (by rw [hself]; exact hrun), hself]
  rfl

/-! ### What the command does (R227, R323) -/

/-- Whether an owner is a job. -/
def ofJob : Owner → Bool
  | .job .. => true
  | .net _ => false

/-- The check of an entry at its array (R225). -/
def entryRefusal (s : State) (n : Nat) (o : Owner) (d : List Byte) : Option Byte :=
  tileRefusal (tileDesc d) (getArr s n) (windowOf (getArr s n) (ownerStall s o) (tileDesc d).bank) (ofJob o) (ownsReserve s (ownerStall s o) n)

/-- The task of an owner's next entry. -/
def entryTask (s : State) (n : Nat) (o : Owner) (r : Run) (d : List Byte) : Task :=
  { desc := d, owner := o, stall := ownerStall s o, tile := r.nextTile, reserve := (tileDesc d).bank, seed := entrySeed s o r.nextTile,
    freq := arrMHz s n }

/-- An array that takes a task: with it the slots that its context holds and, in the main context, whose it is. -/
def taking (t : Task) (slots : List Nat) (a : ArrayU) : ArrayU :=
  if t.reserve then { a with run := some t, lastRsv := slots } else { a with run := some t, lastMain := slots, lastOwner := some t.owner }

theorem taking_keeps (t : Task) (slots : List Nat) (a : ArrayU) : (taking t slots a).run = some t ∧ (taking t slots a).events = a.events := by
  unfold taking
  split <;> exact ⟨rfl, rfl⟩

/-- Whether an entry is served next in the context that it names (R323, R335). -/
def entryServed (s : State) (n : Nat) (o : Owner) (d : List Byte) : Bool :=
  ctxAdmits (getArr s n) (tileDesc d).bank && ((tileDesc d).bank || decide (pickArr s n = some (ownerStall s o)))

theorem entryServed_of {s : State} {n : Nat} {o : Owner} {d : List Byte} (hctx : ctxAdmits (getArr s n) (tileDesc d).bank = true)
    (hturn : (tileDesc d).bank = true ∨ pickArr s n = some (ownerStall s o)) : entryServed s n o d = true := by
  unfold entryServed
  rw [hctx, Bool.true_and, Bool.or_eq_true, decide_eq_true_eq]
  exact hturn

/-- The entry once it is checked: refused, running, or still waiting. -/
def tileServed (s : State) (n : Nat) (o : Owner) (r : Run) (d : List Byte) : Option Byte → State
  | some code => refuseArr s o code r.nextTile n (tileDesc d).bank
      (refusalAddr (tileDesc d) (windowOf (getArr s n) (ownerStall s o) (tileDesc d).bank) code)
  | none => if entryServed s n o d then
      refreshBacklog (modArr (beginEntry s o r n d) n
        (taking (entryTask s n o r d) (tileSlots (tileDesc d) (windowOf (getArr s n) (ownerStall s o) (tileDesc d).bank))))
    else s

section
variable {s : State} {arr : Fin 8} {work : Work} {r : Run} {d : List Byte} (hgate : dispatchGated s = false)
  (hrun : (getArr s arr.val).run = none) (hentry : nextEntry s (workOwner work) = some (r, d))
  (hready : arrReady s arr.val 1 (ownerStall s (workOwner work)) = true) (harr : r.array = some arr.val) (hd : d ≠ [])
  (hthin : opIsThin (entryOp d) = false) (hvec : opIsVec (entryOp d) = false)
  (hbatch : ∀ i q seq, work = .job i q seq → batchOf s i.val q.val seq = none)
include hgate hrun hentry hready harr hd hthin hvec hbatch

/-- The command checks the entry, and runs it where it passes and is served next (R225, R323). -/
theorem exec_tileDispatch : exec (.tileDispatch arr work) s
    = .next (tileServed s arr.val (workOwner work) r d (entryRefusal s arr.val (workOwner work) d)) := by
  show execTileDispatch arr work s = _
  unfold execTileDispatch
  rw [if_neg (by rw [hgate]; decide)]
  extract_lets n o i ready turn batch
  have hnone : batch = none := by
    unfold batch
    cases work with
    | net c => rfl
    | job k q seq => exact congrArg (Option.bind · _) (hbatch k q seq rfl)
  rw [hnone]
  dsimp only
  rw [show nextEntry s o = some (r, d) from hentry]
  dsimp only
  rw [if_neg (by simp [ready, n, i, o, hready, hrun, harr]), if_neg (by simp [hd]), if_neg (by simp [hthin]), if_neg (by simp [hvec])]
  split
  next code href =>
    rw [show entryRefusal s arr.val (workOwner work) d = some code from href]
    rfl
  next href =>
    rw [show entryRefusal s arr.val (workOwner work) d = none from href]
    dsimp only [tileServed]
    split
    next hserved =>
      rw [if_pos (show entryServed s arr.val (workOwner work) d = true from hserved)]
      rfl
    next hwaits =>
      rw [if_neg (show ¬ entryServed s arr.val (workOwner work) d = true from hwaits)]

theorem tileDispatch_runs (href : entryRefusal s arr.val (workOwner work) d = none) (hserved : entryServed s arr.val (workOwner work) d = true) :
    ∃ t task r', exec (.tileDispatch arr work) s = .next t ∧ (getArr t arr.val).run = some task
      ∧ task.desc = d ∧ task.owner = workOwner work ∧ task.tile = r.nextTile ∧ task.reserve = (tileDesc d).bank
      ∧ task.seed = entrySeed s (workOwner work) r.nextTile
      ∧ getRun t (workOwner work) = some r' ∧ r'.nextTile = r.nextTile + 1 ∧ r'.running = r.running ++ [r.nextTile]
      ∧ evGet t arr.val (evKey (workOwner work) r) = evGet s arr.val (evKey (workOwner work) r) &&& ~~~ entryWait d
      ∧ (∀ m, m ≠ arr.val → getArr t m = getArr s m) ∧ t.mem = s.mem ∧ t.vecs = s.vecs ∧ t.cores = s.cores ∧ PartKept s t := by
  have hex := exec_tileDispatch hgate hrun hentry hready harr hd hthin hvec hbatch
  rw [href, tileServed, if_pos hserved] at hex
  generalize hslots : tileSlots (tileDesc d) _ = slots at hex
  generalize workOwner work = o at *
  generalize htask : entryTask s arr.val o r d = task at hex
  have hbegun := hardware_beginEntry s o r arr.val d
  have hend := hardware_refreshBacklog (modArr (beginEntry s o r arr.val d) arr.val (taking task slots))
  have harr' := getArr_of_hardware hend
  have hself : getArr (refreshBacklog (modArr (beginEntry s o r arr.val d) arr.val (taking task slots))) arr.val
      = taking task slots (getArr (beginEntry s o r arr.val d) arr.val) := (harr' _).trans (getArr_modArr ..)
  obtain ⟨htrun, htevents⟩ := taking_keeps task slots (getArr (beginEntry s o r arr.val d) arr.val)
  refine ⟨_, task, entryBegun (entryWait d) r, hex, (congrArg ArrayU.run hself).trans htrun, ?_, ?_, ?_, ?_, ?_, ?_, rfl, rfl, ?_,
    fun m hm => ?_, ?_, ?_, ?_, ?_⟩
  · rw [← htask]; rfl
  · rw [← htask]; rfl
  · rw [← htask]; rfl
  · rw [← htask]; rfl
  · rw [← htask]; rfl
  · rw [getRun_refreshBacklog, getRun_modArr, getRun_beginEntry (getRun_of_nextEntry hentry)]
  · rw [evGet, hself, htevents, getArr_of_hardware hbegun]
    exact evGet_evMod ..
  · rw [harr', getArr_modArr_ne _ _ hm.symm, getArr_of_hardware hbegun, evMod, getArr_modArr_ne _ _ hm.symm]
  · exact (mem_of_hardware hend).trans (mem_of_hardware hbegun :)
  · exact (vecs_of_hardware hend).trans (vecs_of_hardware hbegun :)
  · exact (cores_of_hardware hend).trans (cores_of_hardware hbegun :)
  · refine partKept_of_offUnits ?_
    rw [offUnits_refreshBacklog, offUnits_modArr, offUnits_beginEntry]

theorem tileDispatch_refused {code : Byte} (href : entryRefusal s arr.val (workOwner work) d = some code)
    (hactive : (getStall s (ownerStall s (workOwner work))).state = .active) :
    ∃ t, exec (.tileDispatch arr work) s = .next t ∧ (getArr t arr.val).errCode = code
      ∧ (getStall t (ownerStall s (workOwner work))).state = .faulted ∧ t.mem.hbm = s.mem.hbm := by
  have hex := exec_tileDispatch hgate hrun hentry hready harr hd hthin hvec hbatch
  rw [href, tileServed] at hex
  obtain ⟨herr, hfault⟩ := refuseArr_faults hrun hactive code r.nextTile (tileDesc d).bank
    (refusalAddr (tileDesc d) (windowOf (getArr s arr.val) (ownerStall s (workOwner work)) (tileDesc d).bank) code)
  exact ⟨_, hex, herr, hfault, hbm_of_next rfl hex⟩

end

/-! ### Batches in array form (R287) -/

/-- An array that starts on a batch's contributors. -/
def gathering (t : Task) (cs : List Contrib) (o : Owner) (a : ArrayU) : ArrayU := { a with run := some t, batch := cs, lastOwner := some o }

/-- A stall with one more batch counted in array form. -/
def batchCounted (x : Stall) : Stall := { x with gthArray := x.gthArray + 1 }

theorem dispatchBatch_starts {s : State} {n i : Nat} {c : Contrib} (hc : c.stall = i)
    (hstage : inHalf (windowOf (getArr s n) i false) ((thinDesc c.desc).stage % 2 ^ 17) 262144 = true) (o : Owner) (cs : List Contrib) :
    ∃ t, t.desc = c.desc ∧ dispatchBatch s n o (c :: cs) true = modArr (modStall s i batchCounted) n (gathering t (c :: cs) o) := by
  subst hc
  refine ⟨{ desc := c.desc, owner := o, stall := c.stall, tile := c.tile, reserve := false, seed := c.seed, freq := arrMHz s n }, rfl, ?_⟩
  unfold dispatchBatch
  dsimp only
  rw [hstage]
  rfl

theorem gthArray_refreshBacklog (s : State) (j : Nat) : (getStall (refreshBacklog s) j).gthArray = (getStall s j).gthArray := by
  refine foldl_keep (fun s => (getStall s j).gthArray) _ (fun s i => ?_) _ _
  dsimp only
  by_cases h : i = j
  · subst h
    rw [getStall_modStall]
  · rw [getStall_modStall_ne _ _ h]

section
variable {s : State} {arr : Fin 8} {stall : Fin 16} {q : Fin 8} {seq : W32} {b : Batch} (hgate : dispatchGated s = false)
  (hrun : (getArr s arr.val).run = none) (hb : batchOf s stall.val q.val seq = some b)
  (hcontains : (batchesFor s stall.val false).contains b = true) (hready : arrReady s arr.val 1 stall.val = true)
  (hruns : stallRuns s stall.val = true) (hwindow : hasWindowOn s stall.val arr.val = true) (hctx : (getArr s arr.val).ctx = .main)
  (hpick : pickArr s arr.val = some stall.val)
include hgate hrun hb hcontains hready hruns hwindow hctx hpick

theorem exec_tileDispatch_batch : exec (.tileDispatch arr (.job stall q seq)) s
    = .next (refreshBacklog (dispatchBatch (dropBatch s stall.val b) arr.val (.job stall.val q.val seq) (b.tasks.map (toContrib stall.val)) true)) := by
  show execTileDispatch arr (.job stall q seq) s = _
  unfold execTileDispatch
  rw [if_neg (by rw [hgate]; decide)]
  extract_lets n o i ready turn batch
  have hsome : batch = some b := by
    show (batchOf s stall.val q.val seq).bind (fun b => if (batchesFor s stall.val false).contains b then some b else none) = some b
    rw [hb, Option.bind_some, if_pos hcontains]
  have hturn : (ready && stallRuns s i && hasWindowOn s i n && turn false) = true := by
    show ((arrReady s arr.val 1 stall.val && (getArr s arr.val).run.isNone) && stallRuns s stall.val && hasWindowOn s stall.val arr.val
      && (ctxAdmits (getArr s arr.val) false && (false || decide (pickArr s arr.val = some stall.val)))) = true
    rw [hready, hrun, hruns, hwindow, ctxAdmits, hctx, hpick]
    simp
  rw [hsome]
  dsimp only
  rw [if_pos hturn]
  rfl

theorem tileDispatch_batch {g : GatherTask} {rest : List GatherTask} (htasks : b.tasks = g :: rest)
    (hstage : inHalf (windowOf (getArr s arr.val) stall.val false) ((thinDesc g.desc).stage % 2 ^ 17) 262144 = true) :
    ∃ t task, exec (.tileDispatch arr (.job stall q seq)) s = .next t ∧ (getArr t arr.val).run = some task ∧ task.desc = g.desc
      ∧ (getArr t arr.val).batch = b.tasks.map (toContrib stall.val) ∧ (getStall t stall.val).gthArray = (getStall s stall.val).gthArray + 1
      ∧ (getArr t arr.val).main = (getArr s arr.val).main ∧ (∀ m, m ≠ arr.val → getArr t m = getArr s m) ∧ t.mem = s.mem ∧ PartKept s t := by
  have hex := exec_tileDispatch_batch hgate hrun hb hcontains hready hruns hwindow hctx hpick
  obtain ⟨task, hdesc, hstart⟩ := dispatchBatch_starts (s := dropBatch s stall.val b) (n := arr.val) (i := stall.val)
    (c := toContrib stall.val g) rfl hstage
    (.job stall.val q.val seq) (rest.map (toContrib stall.val))
  rw [htasks, List.map_cons, hstart] at hex
  rw [htasks, List.map_cons]
  generalize toContrib stall.val g :: rest.map (toContrib stall.val) = cs at *
  generalize hu : modStall (dropBatch s stall.val b) stall.val batchCounted = u at hex
  have hkeep : hardware u = hardware s := by
    rw [← hu, hardware_modStall, dropBatch, hardware_modStall]
  have hcount : (getStall u stall.val).gthArray = (getStall s stall.val).gthArray + 1 := by
    rw [← hu, getStall_modStall, dropBatch, getStall_modStall]
    rfl
  have hpart : offUnits u = offUnits s := by
    rw [← hu, offUnits_modStall, dropBatch, offUnits_modStall]
  have hend := hardware_refreshBacklog (modArr u arr.val (gathering task cs (.job stall.val q.val seq)))
  have hself := (getArr_of_hardware hend arr.val).trans (getArr_modArr ..)
  rw [getArr_of_hardware hkeep] at hself
  refine ⟨_, task, hex, congrArg ArrayU.run hself, hdesc, congrArg ArrayU.batch hself, ?_, (congrArg ArrayU.main hself :), fun m hm => ?_, ?_, ?_⟩
  · exact (gthArray_refreshBacklog ..).trans hcount
  · rw [getArr_of_hardware hend, getArr_modArr_ne _ _ hm.symm, getArr_of_hardware hkeep]
  · exact (mem_of_hardware hend).trans (mem_of_hardware hkeep :)
  · refine partKept_of_offUnits ?_
    rw [offUnits_refreshBacklog, offUnits_modArr, hpart]

end

/-! ### Tile tasks -/

/-- Settles O19: an entry by its check, a batch, and the two ends of a task, each by its rule above. -/
theorem tileTasksRun : Obligations.TileTasksRun :=
  ⟨fun _ _ hgate hrun =>
    ⟨fun _ _ _ hentry hready harr hd hthin hvec hbatch =>
      ⟨fun href hctx hturn => tileDispatch_runs hgate hrun hentry hready harr hd hthin hvec hbatch href (entryServed_of hctx hturn),
        fun _ href hactive => tileDispatch_refused hgate hrun hentry hready harr hd hthin hvec hbatch href hactive⟩,
      fun _ _ _ _ _ _ hb htasks hcontains hready hruns hwindow hctx hpick hstage =>
        tileDispatch_batch hgate hrun hb hcontains hready hruns hwindow hctx hpick htasks hstage⟩,
    fun _ _ _ mem hrun hbatch hue => tileTaskEnd_clean hrun hbatch mem hue,
    fun _ _ _ _ mem _ _ hrun hbatch hlast hue => tileTaskEnd_fails hrun hbatch mem hlast hue⟩

end Sys2Proof.Machine
end

section
/-!
PROOFS. Chapter 06, the end of a self-test: what a fence never takes back, and what the test leaves of each array (R80, R241).
-/
namespace Sys2Proof.Machine

/-! ### What a fence leaves of every array -/

/-- An array's marks of a self-test and of a fence sequence under way. -/
def testMarks (a : ArrayU) : Bool × Option (BitVec 4) := (a.selfTest, a.fencing)

/-- The marks of every array. -/
def marks (s : State) : Nat → Bool × Option (BitVec 4) := fun n => testMarks (getArr s n)

theorem marks_of_benches {s t : State} (h : benches t = benches s) : marks t = marks s :=
  funext fun n => congrArg testMarks (getArr_of_benches h n)

theorem marks_of_hardware {s t : State} (h : hardware t = hardware s) : marks t = marks s :=
  funext fun n => congrArg testMarks (getArr_of_hardware h n)

theorem marks_modStall (s : State) (i : Nat) (f : Stall → Stall) : marks (modStall s i f) = marks s := rfl

theorem marks_modArr (s : State) (n : Nat) (f : ArrayU → ArrayU) (h : ∀ a, testMarks (f a) = testMarks a) : marks (modArr s n f) = marks s := by
  funext m
  unfold marks
  by_cases hm : n = m
  · subst hm
    rw [getArr_modArr, h]
  · rw [getArr_modArr_ne _ _ hm]

theorem marks_abortTile (s : State) (n : Nat) : marks (abortTile s n) = marks s := by
  unfold abortTile
  split
  · rfl
  next hbusy =>
    have hrun : (getArr (drew s) n).run ≠ none := fun hidle => hbusy (Option.isNone_iff_eq_none.2 hidle)
    rw [marks_of_benches (benches_abortTileAfter _ hrun), marks_modArr _ _ (abortedArr _ _) fun _ => rfl]
    rfl

theorem marks_abortVec (s : State) (n : Nat) : marks (abortVec s n) = marks s :=
  funext fun m => congrArg testMarks (getArr_abortVec s n m)

theorem marks_stopOn (i : Nat) (s : State) (n : Nat) : marks (stopOn i s n) = marks s := by
  unfold stopOn
  dsimp only
  split <;> split <;> simp only [marks_abortVec, marks_abortTile]

theorem marks_abortStall (s : State) (i : Nat) : marks (abortStall s i) = marks s := by
  rw [abortStall_eq, marks_modStall, marks_of_benches (benches_dropXfers ..),
    marks_of_benches (foldl_keep benches _ (fun s m => benches_abortPath s m i) _ _), foldl_keep marks _ (marks_stopOn i)]

theorem marks_stallFault (s : State) (i : Nat) (code : W16) (kind : BitVec 4) (unit : Nat) (data : List Byte) (job : Option (Nat × W32)) :
    marks (stallFault s i code kind unit data job) = marks s := by
  unfold stallFault
  dsimp only
  split
  · rfl
  · exact marks_of_benches (benches_pushEvent ..)
  · exact marks_of_hardware ((hardware_report ..).trans (hardware_modStall ..))
  · rw [marks_of_benches ((benches_report ..).trans ((benches_cacheFlushStall ..).trans (benches_failStallSlots ..))), marks_abortStall]
    rfl

theorem marks_checkNoArray (s : State) (n : Nat) : marks (checkNoArray s n) = marks s := by
  refine foldl_keep marks _ (fun s i => ?_) _ _
  split
  · exact marks_stallFault ..
  · rfl

/-- A fence keeps every array's marks. -/
theorem marks_fenceOp (s : State) (n : Nat) (cause : BitVec 4) : marks (fenceOp s n cause) = marks s := by
  unfold fenceOp
  split
  · rfl
  · extract_lets batch lowered pw s0 s1 fen s2 s3 s4 dest s5 s6 s7 s8
    have h1 : marks s1 = marks s := (marks_abortVec ..).trans (marks_abortTile ..)
    have h4 : marks s4 = marks s2 := marks_of_benches ((benches_regather ..).trans (benches_report ..))
    have h5 : marks s5 = marks s4 := foldl_keep marks _ (fun s x =>
      marks_of_hardware ((hardware_modRun ..).trans (hardware_displaceRun ..))) _ _
    have h6 : marks s6 = marks s5 := marks_modArr _ _ _ fun _ => rfl
    have h7 : marks s7 = marks s6 := by
      refine foldl_keep marks _ (fun s c => ?_) _ _
      dsimp only
      split
      · exact marks_of_benches (benches_failInv ..)
      · rfl
    have h8 : marks s8 = marks s7 := foldl_keep marks _ (fun s i => marks_of_benches (benches_loseUnit s i 1 n)) _ _
    rw [marks_of_benches ((benches_refreshBacklog _).trans (benches_wakeFeeders _)), marks_checkNoArray,
      marks_of_benches (benches_schoolLost ..), h8, h7, h6, h5, h4]
    exact h1

theorem fenceOp_marks (s : State) (n : Nat) (cause : BitVec 4) (m : Nat) :
    (getArr (fenceOp s n cause) m).selfTest = (getArr s m).selfTest ∧ (getArr (fenceOp s n cause) m).fencing = (getArr s m).fencing :=
  Prod.mk.inj (congrFun (marks_fenceOp s n cause) m)

/-- What a fence never takes back: marks, fence records and memories already lost. -/
theorem fenceOp_keeps (s : State) (n : Nat) (cause : BitVec 4) :
    (fenceOp s n cause).fencing.persisted = s.fencing.persisted
      ∧ (∀ m, s.fencing.fenced.getLsbD m = true → (fenceOp s n cause).fencing.fenced.getLsbD m = true)
      ∧ (∀ m, (getArr s m).main = [] → (getArr (fenceOp s n cause) m).main = []) := by
  cases hu : arrUsable s n with
  | false =>
    rw [fenceOp_outOfService cause hu]
    exact ⟨rfl, fun _ h => h, fun _ h => h⟩
  | true =>
    obtain ⟨-, -, -, -, -, -, -, hmain, -, -, -, hothers, -⟩ := fenceOp_fences cause hu
    rw [fenceOp_fencing cause hu]
    refine ⟨rfl, fun m hm => setBit_mono _ _ _ hm, fun m hm => ?_⟩
    by_cases hmn : m = n
    · rw [hmn]
      exact hmain
    · exact (hothers m hmn).1.trans hm

/-! ### A fence leaves the test port alone -/

@[simp] theorem offUnits_regather (s : State) (cs : List Contrib) : offUnits (regather s cs) = offUnits s := by
  unfold regather
  split <;> rfl

@[simp] theorem offUnits_failInv (s : State) (c cause : Nat) : offUnits (failInv s c cause) = offUnits s := by
  unfold failInv
  split <;> rfl

@[simp] theorem offUnits_schoolLost (s : State) (n : Nat) : offUnits (schoolLost s n) = offUnits s := by
  have h1 : ∀ l : List Nat, offUnits (l.foldl (fun s r =>
      if (s.hns.schoolNets[r]?).any (fun cfg => s.hns.nets.any (fun x => x.net == cfg.net && (getCarrier s x.carrier).array == n)) then
        modNet s r lostNet
      else s) s) = offUnits s :=
    fun l => offUnits_foldl _ (fun s r => by split <;> rfl) l s
  unfold schoolLost
  dsimp only
  split
  · rw [offUnits_withSchool, h1]
  · exact h1 _

@[simp] theorem offUnits_wakeFeeders (s : State) : offUnits (wakeFeeders s) = offUnits s := offUnits_foldl _ offUnits_nextPiece _ _

@[simp] theorem offUnits_checkNoArray (s : State) (n : Nat) : offUnits (checkNoArray s n) = offUnits s := by
  refine offUnits_foldl _ (fun s i => ?_) _ _
  split
  · exact offUnits_stallFault ..
  · rfl

theorem taps_of_offUnits {s t : State} (h : offUnits t = offUnits s) : t.taps = s.taps := (congrArg State.taps h :)

theorem taps_fenceOp (s : State) (n : Nat) (cause : BitVec 4) : (fenceOp s n cause).taps = s.taps := by
  unfold fenceOp
  split
  · rfl
  · extract_lets batch lowered pw s0 s1 fen s2 s3 s4 dest s5 s6 s7 s8
    have h1 : s1.taps = s.taps := taps_of_offUnits (s := s0) ((offUnits_abortVec ..).trans (offUnits_abortTile ..))
    have h4 : offUnits s4 = offUnits s2 := (offUnits_regather ..).trans (offUnits_report ..)
    have h6 : offUnits s6 = offUnits s4 := (offUnits_modArr ..).trans
      (offUnits_foldl _ (fun s x => (offUnits_modRun ..).trans (offUnits_displaceRun ..)) _ _)
    have h7 : offUnits s7 = offUnits s6 := by
      refine offUnits_foldl _ (fun s c => ?_) _ _
      dsimp only
      split
      · exact offUnits_failInv ..
      · rfl
    have h8 : offUnits s8 = offUnits s7 := offUnits_foldl _ (fun s i => offUnits_loseUnit s i 1 n) _ _
    have hend : offUnits (refreshBacklog (wakeFeeders (checkNoArray (schoolLost s8 n) n))) = offUnits s2 := by
      rw [offUnits_refreshBacklog, offUnits_wakeFeeders, offUnits_checkNoArray, offUnits_schoolLost, h8, h7, h6, h4]
    exact (taps_of_offUnits hend).trans h1

/-! ### The end of a self-test (R241) -/

/-- An array whose self-test has ended, zeroed where it was tested. -/
def tested (zero : Bool) (a : ArrayU) : ArrayU :=
  if zero then { a with selfTest := false, main := [], rsv := [], acc := [], sat := [], fold := [], ueMain := [], ueRsv := [], ueAcc := [] }
  else { a with selfTest := false }

theorem tested_keeps (zero : Bool) (a : ArrayU) : (tested zero a).selfTest = false ∧ (tested zero a).fencing = a.fencing
    ∧ (zero = true ∨ a.main = [] → (tested zero a).main = []) := by
  cases zero with
  | false => exact ⟨rfl, rfl, fun h => h.resolve_left nofun⟩
  | true => exact ⟨rfl, rfl, fun _ => rfl⟩

/-- Array `n` once tested. -/
def testEnded (s : State) (n : Nat) : State := modArr s n (tested (arrPresent s n && !s.fencing.persisted.getLsbD n))

/-- The step of the self-test's end at array `n`. -/
def selfTestEnd (failed : BitVec 8) (s : State) (n : Nat) : State :=
  if failed.getLsbD n && arrUsable (testEnded s n) n then fenceOp (testEnded s n) n 5 else testEnded s n

theorem selfTestDone_eq (s : State) (failed : BitVec 8) : selfTestDone s failed = (List.range 8).foldl (selfTestEnd failed) s := rfl

theorem arrPresent_congr {s t : State} (h : t.fuses.arrEn = s.fuses.arrEn) (n : Nat) : arrPresent t n = arrPresent s n := by
  rw [arrPresent, h, arrPresent]

/-- What the end of a self-test keeps of the state in which it began: the arrays there are, the fence records kept for the next power-on,
and the fence sequences under way. -/
structure TestKeeps (s u : State) : Prop where
  present : u.fuses.arrEn = s.fuses.arrEn
  persisted : u.fencing.persisted = s.fencing.persisted
  fencing : ∀ m, (getArr u m).fencing = (getArr s m).fencing

/-- What the end of a self-test makes of array `n` of `s`. -/
structure TestEnds (s : State) (failed : BitVec 8) (n : Nat) (u : State) : Prop where
  test : (getArr u n).selfTest = false
  zero : arrPresent s n = true → s.fencing.persisted.getLsbD n = false → (getArr u n).main = []
  fenced : failed.getLsbD n = true → arrUsable s n = true → u.fencing.fenced.getLsbD n = true

theorem testEnded_keeps (s : State) (n : Nat) : TestKeeps s (testEnded s n) := by
  refine ⟨rfl, rfl, fun m => ?_⟩
  by_cases hm : n = m
  · subst hm
    rw [testEnded, getArr_modArr]
    exact (tested_keeps ..).2.1
  · rw [testEnded, getArr_modArr_ne _ _ hm]

theorem testKeeps_fenceOp {s u : State} (h : TestKeeps s u) (n : Nat) (cause : BitVec 4) : TestKeeps s (fenceOp u n cause) where
  present := (congrArg (fun x => x.present.1) (still_fenceOp u n cause) :).trans h.present
  persisted := (fenceOp_keeps u n cause).1.trans h.persisted
  fencing m := (fenceOp_marks u n cause m).2.trans (h.fencing m)

theorem TestKeeps.trans {s u v : State} (h : TestKeeps s u) (k : TestKeeps u v) : TestKeeps s v :=
  ⟨k.present.trans h.present, k.persisted.trans h.persisted, fun m => (k.fencing m).trans (h.fencing m)⟩

theorem selfTestEnd_keeps (failed : BitVec 8) (s : State) (n : Nat) : TestKeeps s (selfTestEnd failed s n) := by
  unfold selfTestEnd
  split
  · exact testKeeps_fenceOp (testEnded_keeps s n) n 5
  · exact testEnded_keeps s n

theorem testEnds_fenceOp {s u : State} {failed : BitVec 8} {k : Nat} (h : TestEnds s failed k u) (n : Nat) (cause : BitVec 4) :
    TestEnds s failed k (fenceOp u n cause) := by
  obtain ⟨-, hfenced, hmain⟩ := fenceOp_keeps u n cause
  exact ⟨(fenceOp_marks u n cause k).1.trans h.test, fun hp hq => hmain k (h.zero hp hq),
    fun hf hu => hfenced k (h.fenced hf hu)⟩

theorem testEnds_testEnded {s u : State} {failed : BitVec 8} {k : Nat} (h : TestEnds s failed k u) (n : Nat) :
    TestEnds s failed k (testEnded u n) := by
  by_cases hk : n = k
  · subst hk
    obtain ⟨htest, -, hmain⟩ := tested_keeps (arrPresent u n && !u.fencing.persisted.getLsbD n) (getArr u n)
    exact ⟨by rw [testEnded, getArr_modArr]; exact htest,
      fun hp hq => by rw [testEnded, getArr_modArr]; exact hmain (.inr (h.zero hp hq)), h.fenced⟩
  · have hother : getArr (testEnded u n) k = getArr u k := getArr_modArr_ne _ _ hk
    exact ⟨by rw [hother]; exact h.test, by rw [hother]; exact h.zero, h.fenced⟩

theorem testEnds_selfTestEnd {s u : State} {failed : BitVec 8} {k : Nat} (h : TestEnds s failed k u) (n : Nat) :
    TestEnds s failed k (selfTestEnd failed u n) := by
  unfold selfTestEnd
  split
  · exact testEnds_fenceOp (testEnds_testEnded h n) n 5
  · exact testEnds_testEnded h n

/-- An array's own step ends its test: one that failed is fenced, unless it was fenced meanwhile. -/
theorem selfTestEnd_ends {s u : State} (h : TestKeeps s u) (failed : BitVec 8) (k : Nat) : TestEnds s failed k (selfTestEnd failed u k) := by
  have hkeep := h.trans (testEnded_keeps u k)
  obtain ⟨htest, -, hmain⟩ := tested_keeps (arrPresent u k && !u.fencing.persisted.getLsbD k) (getArr u k)
  have hself : getArr (testEnded u k) k = tested (arrPresent u k && !u.fencing.persisted.getLsbD k) (getArr u k) := getArr_modArr ..
  have hzero : arrPresent s k = true → s.fencing.persisted.getLsbD k = false → (getArr (testEnded u k) k).main = [] := fun hp hq => by
    rw [hself]
    exact hmain (.inl (by rw [arrPresent_congr h.present, hp, h.persisted, hq]; rfl))
  unfold selfTestEnd
  split
  next hfail =>
    rw [Bool.and_eq_true] at hfail
    obtain ⟨-, hu⟩ := hfail
    obtain ⟨-, -, hlost⟩ := fenceOp_keeps (testEnded u k) k 5
    refine ⟨(fenceOp_marks (testEnded u k) k 5 k).1.trans (by rw [hself]; exact htest),
      fun hp hq => hlost k (hzero hp hq), fun _ _ => ?_⟩
    rw [fenceOp_fencing 5 hu]
    exact setBit_same _ (arrUsable_lt hu)
  next hpass =>
    refine ⟨by rw [hself]; exact htest, hzero, fun hf hu => ?_⟩
    rw [hf, Bool.true_and] at hpass
    simp only [arrUsable, Bool.and_eq_true, Bool.not_eq_true'] at hu
    obtain ⟨⟨hp, -⟩, hnone⟩ := hu
    by_contra hfenced
    refine hpass ?_
    rw [arrUsable, arrPresent_congr hkeep.present, hp, hkeep.fencing, hnone, Bool.eq_false_iff.2 hfenced]
    rfl

/-- The self-test ends on every array. -/
theorem selfTestDone_ends (s : State) (failed : BitVec 8) {n : Nat} (hn : n < 8) : TestEnds s failed n (selfTestDone s failed) := by
  rw [selfTestDone_eq]
  exact foldl_reaches (selfTestEnd failed) (TestKeeps s) (TestEnds s failed n) (fun u k h => h.trans (selfTestEnd_keeps failed u k))
    (fun u k _ h => testEnds_selfTestEnd h k) (fun u h => selfTestEnd_ends h failed n) (List.mem_range.2 hn) ⟨rfl, rfl, fun _ => rfl⟩

theorem taps_selfTestDone (s : State) (failed : BitVec 8) : (selfTestDone s failed).taps = s.taps := by
  rw [selfTestDone_eq]
  refine foldl_keep State.taps _ (fun s n => ?_) _ _
  unfold selfTestEnd
  split
  · exact taps_fenceOp ..
  · rfl

end Sys2Proof.Machine
end

section
/-!
PROOFS. Chapter 06, the test port: what an instruction loads, drives and shifts out, and the self-test that it can run (R241, R567, R568,
Table 15-14).
-/
namespace Sys2Proof.Machine

/-! ### Instructions of a die (R567) -/

/-- A die's register once an instruction is loaded, with its covered balls driven or released. -/
def tapLoaded (ir : Byte) (driven highz : Bool) (x : Tap) : Tap := { x with ir := ir, driven := driven, highz := highz }

section
variable {s : State} {d : Nat}

theorem tapAt_absent (h : inChain s d = false) (f : State → State) : tapAt s d f = .next s :=
  if_neg (by rw [h]; decide)

theorem tapAt_present (h : inChain s d = true) (f : State → State) : tapAt s d f = .next (f s) := if_pos h

theorem tapPrivate_public (h : s.testEn = false ∨ d ≠ 0) (f : State → State) : tapPrivate s d f = tapAt s d (fun s => tapBypass s d) := by
  have hoff : (s.testEn && decide (d = 0)) = false := by
    obtain h | h := h <;> simp [h]
  unfold tapPrivate tapAt
  dsimp only
  rw [hoff]
  rfl

theorem tapPrivate_absent (h : inChain s d = false) (f : State → State) : tapPrivate s d f = .next s := tapAt_absent h _

theorem tapPrivate_test (h : s.testEn = true) (f : State → State) : tapPrivate s 0 f = .next (f s) := by
  unfold tapPrivate tapAt
  dsimp only
  rw [h]
  rfl

theorem getJtag_tapLoad (s : State) (d : Nat) (ir : Byte) (driven highz : Bool) :
    getJtag (tapLoad s d ir driven highz) d = tapLoaded ir driven highz (getJtag s d) := getJtag_modJtag ..

theorem getJtag_tapLoad_ne (s : State) {d k : Nat} (ir : Byte) (driven highz : Bool) (h : k ≠ d) :
    getJtag (tapLoad s d ir driven highz) k = getJtag s k := getJtag_modJtag_ne _ _ h.symm

/-- An instruction that shifts out `bits` of what its die holds. -/
theorem tap_shifts {c : Instr} (h : inChain s d = true) {ir : Byte} {driven highz : Bool} {bits : List Bool}
    (hc : exec c s = tapAt s d (fun s => emit (tapLoad s d ir driven highz) (.tdo d bits))) :
    ∃ t, exec c s = .next t ∧ getJtag t d = tapLoaded ir driven highz (getJtag s d) ∧ (∀ k, k ≠ d → getJtag t k = getJtag s k)
      ∧ t = { s with taps := t.taps, sent := t.sent } ∧ t.sent = .tdo d bits :: s.sent :=
  ⟨_, hc.trans (tapAt_present h _), getJtag_tapLoad .., fun _ hk => getJtag_tapLoad_ne _ _ _ _ hk, rfl, rfl⟩

end

theorem exec_idcode (s : State) (die : Fin 3) : exec (.idcode die) s = tapAt s die.val (fun s =>
    if die.val = 0 then emit (tapLoad s 0 0x01 false false) (.tdo 0 (bitsOf idcodeWord))
    else emit (drew (tapLoad s die.val 0x01 false false)) (.tdo die.val (bitsOf ((draw s).setWidth 32 : W32)))) := rfl

/-- IDCODE shifts out the compute die's code, or an I/O die's, which is a free value. -/
theorem idcode_shifts {s : State} {die : Fin 3} (h : inChain s die.val = true) :
    ∃ t, exec (.idcode die) s = .next t ∧ getJtag t die.val = tapLoaded 0x01 false false (getJtag s die.val)
      ∧ (∀ k, k ≠ die.val → getJtag t k = getJtag s k) ∧ t = { s with taps := t.taps, sent := t.sent, free := t.free } := by
  rw [exec_idcode, tapAt_present h]
  split
  next hd =>
    rw [hd]
    exact ⟨_, rfl, getJtag_tapLoad .., fun _ hk => getJtag_tapLoad_ne _ _ _ _ hk, rfl⟩
  next => exact ⟨_, rfl, getJtag_tapLoad .., fun _ hk => getJtag_tapLoad_ne _ _ _ _ hk, rfl⟩

/-! ### Test-Logic-Reset -/

/-- The step of Test-Logic-Reset at one die. -/
def tapIdle (s : State) (d : Nat) : State := if inChain s d then tapLoad s d 0x01 false false else s

theorem tapIdle_eq (s : State) (d : Nat) : ({ tapIdle s d with taps := [] } : State) = { s with taps := [] } := by
  unfold tapIdle
  split <;> rfl

theorem tapReset_idles (s : State) :
    ∃ t, exec .tapReset s = .next t ∧ (∀ d, d < 3 → inChain s d = true → (getJtag t d).ir = 0x01 ∧ (getJtag t d).driven = false
      ∧ (getJtag t d).highz = false) ∧ (∀ d, inChain s d = false → getJtag t d = getJtag s d) ∧ t = { s with taps := t.taps } := by
  have hinv : ∀ (u : State) k, u.fuses = s.fuses → (tapIdle u k).fuses = s.fuses := fun u k h =>
    (congrArg State.fuses (tapIdle_eq u k) :).trans h
  have hchain : ∀ u : State, u.fuses = s.fuses → ∀ d, inChain u d = inChain s d := fun u h d => by rw [inChain, h, inChain]
  refine ⟨(List.range 3).foldl tapIdle s, rfl, fun d hd hin => ?_, fun d hout => ?_, ?_⟩
  · refine foldl_reaches tapIdle (fun u => u.fuses = s.fuses)
      (fun u => (getJtag u d).ir = 0x01 ∧ (getJtag u d).driven = false ∧ (getJtag u d).highz = false) hinv (fun u k _ hu => ?_)
      (fun u hu => ?_) (List.mem_range.2 hd) rfl
    · unfold tapIdle
      split
      · by_cases hk : d = k
        · subst hk
          rw [getJtag_tapLoad]
          exact ⟨rfl, rfl, rfl⟩
        · rwa [getJtag_tapLoad_ne _ _ _ _ hk]
      · exact hu
    · rw [tapIdle, if_pos ((hchain u hu d).trans hin), getJtag_tapLoad]
      exact ⟨rfl, rfl, rfl⟩
  · refine (List.foldlRecOn (motive := fun u : State => u.fuses = s.fuses ∧ getJtag u d = getJtag s d) _ tapIdle ⟨rfl, rfl⟩
      fun u hu k _ => ⟨hinv u k hu.1, ?_⟩).2
    unfold tapIdle
    split
    next hk =>
      rw [getJtag_tapLoad_ne _ _ _ _ (by rintro rfl; rw [hchain u hu.1, hout] at hk; cases hk), hu.2]
    next => exact hu.2
  · have hsame := foldl_keep (fun u : State => ({ u with taps := [] } : State)) tapIdle tapIdle_eq (List.range 3) s
    exact (congrArg (fun u : State => { u with taps := ((List.range 3).foldl tapIdle s).taps }) hsame :)

/-! ### Each instruction at its die (Table 15-14) -/

/-- A die's register with new values for its balls. -/
def preloaded (values : List Bool) (x : Tap) : Tap := { x with bsr := values }

section
variable (s : State) (die : Fin 3)

theorem exec_extest : exec (.extest die) s = tapAt s die.val (fun s => tapLoad s die.val 0x00 true false) := rfl
theorem exec_clamp : exec (.clamp die) s = tapAt s die.val (fun s => emit (tapLoad s die.val 0x03 true false) (.tdo die.val [false])) := rfl
theorem exec_highz : exec (.highz die) s = tapAt s die.val (fun s => emit (tapLoad s die.val 0x04 false true) (.tdo die.val [false])) := rfl
theorem exec_bypass : exec (.bypass die) s = tapAt s die.val (fun s => tapBypass s die.val) := rfl

theorem exec_samplePreload (balls preload : List Bool) : exec (.samplePreload die balls preload) s = tapAt s die.val (fun s =>
    emit (modJtag (tapLoad s die.val 0x02 false false) die.val (preloaded preload)) (.tdo die.val balls)) := rfl

theorem exec_fuseRead : exec (.fuseRead die) s = tapPrivate s die.val (fun s => emit (tapLoad s 0 0x20 false false) (.tdo 0
    (bitsOf (bootDesig s.fuses) ++ bitsOf (bootDies s.fuses) ++ bitsOf (s.fuses.pcrEn.setWidth 64) ++ bitsOf (s.fuses.decEn.setWidth 32)))) := rfl

theorem exec_bistRun (failed : BitVec 8) :
    exec (.bistRun die failed) s = tapPrivate s die.val (fun s => selfTestDone (tapLoad s 0 0x21 false false) failed) := rfl

theorem exec_bistSts : exec (.bistSts die) s = tapPrivate s die.val (fun s =>
    emit (tapLoad s 0 0x22 false false) (.tdo 0 ((List.range 8).flatMap (fun n => bitsOf (arrSts s n))))) := rfl

end

/-! ### Private instructions (R241, R568) -/

/-- BIST_RUN, once it is loaded: the self-test of R241 ends on every array. -/
theorem bistRun_tests {s : State} (h : s.testEn = true) (failed : BitVec 8) :
    ∃ t, exec (.bistRun 0 failed) s = .next t ∧ (getJtag t 0).ir = 0x21
      ∧ (∀ n, n < 8 → (getArr t n).selfTest = false ∧ (arrPresent s n = true → s.fencing.persisted.getLsbD n = false → (getArr t n).main = [])
        ∧ (failed.getLsbD n = true → arrUsable s n = true → t.fencing.fenced.getLsbD n = true))
      ∧ t.mem.hbm = s.mem.hbm := by
  rw [exec_bistRun, show ((0 : Fin 3).val) = 0 from rfl, tapPrivate_test h]
  refine ⟨_, rfl, ?_, fun n hn => ?_, ?_⟩
  · rw [getJtag, taps_selfTestDone]
    exact congrArg Tap.ir (getJtag_tapLoad s 0 0x21 false false)
  · obtain ⟨htest, hzero, hfenced⟩ := selfTestDone_ends (tapLoad s 0 0x21 false false) failed hn
    exact ⟨htest, hzero, hfenced⟩
  · exact (congrArg Lasting.hbm (still_selfTestDone (tapLoad s 0 0x21 false false) failed) :)

/-- FUSE_READ and BIST_STS, and every instruction like them: the code is loaded and what it reads is shifted out. -/
theorem private_shifts {s : State} (h : s.testEn = true) {c : Instr} {ir : Byte} {bits : State → List Bool}
    (hc : exec c s = tapPrivate s 0 (fun s => emit (tapLoad s 0 ir false false) (.tdo 0 (bits s)))) :
    ∃ t, exec c s = .next t ∧ (getJtag t 0).ir = ir ∧ t.sent = .tdo 0 (bits s) :: s.sent ∧ t = { s with taps := t.taps, sent := t.sent } :=
  ⟨_, hc.trans (tapPrivate_test h _), congrArg Tap.ir (getJtag_tapLoad ..), rfl, rfl⟩

/-- An instruction that needs TEST_EN acts as BYPASS without it, and on an I/O die. -/
theorem private_bypasses {s : State} {die : Fin 3} (hin : inChain s die.val = true) (h : s.testEn = false ∨ die.val ≠ 0) {c : Instr}
    {f : State → State} (hc : exec c s = tapPrivate s die.val f) : ∃ t, exec (.bypass die) s = .next t ∧ exec c s = .next t :=
  ⟨tapBypass s die.val, (exec_bypass s die).trans (tapAt_present hin _), hc.trans ((tapPrivate_public h f).trans (tapAt_present hin _))⟩

/-- SAMPLE/PRELOAD shifts the balls out and the new values in. -/
theorem samplePreload_shifts {s : State} {die : Fin 3} (hin : inChain s die.val = true) (balls preload : List Bool) :
    ∃ t, exec (.samplePreload die balls preload) s = .next t
      ∧ getJtag t die.val = { ir := 0x02, driven := false, highz := false, bsr := preload } ∧ t.sent = .tdo die.val balls :: s.sent
      ∧ (∀ d, d ≠ die.val → getJtag t d = getJtag s d) ∧ t = { s with taps := t.taps, sent := t.sent } := by
  rw [exec_samplePreload, tapAt_present hin]
  refine ⟨_, rfl, ?_, rfl, fun d hd => ?_, rfl⟩
  · exact (getJtag_modJtag _ _ (preloaded preload)).trans (congrArg (preloaded preload) (getJtag_tapLoad s die.val 0x02 false false))
  · exact (getJtag_modJtag_ne _ (preloaded preload) hd.symm).trans (getJtag_tapLoad_ne s 0x02 false false hd)

/-- A die that is not in the chain does nothing. -/
theorem outOfChain_nothing {s : State} {die : Fin 3} (hout : inChain s die.val = false) :
    ∀ c ∈ [Instr.extest die, .idcode die, .clamp die, .highz die, .fuseRead die, .bistSts die, .bypass die], exec c s = .next s := by
  intro c hc
  fin_cases hc
  · exact (exec_extest s die).trans (tapAt_absent hout _)
  · exact (exec_idcode s die).trans (tapAt_absent hout _)
  · exact (exec_clamp s die).trans (tapAt_absent hout _)
  · exact (exec_highz s die).trans (tapAt_absent hout _)
  · exact (exec_fuseRead s die).trans (tapPrivate_absent hout _)
  · exact (exec_bistSts s die).trans (tapPrivate_absent hout _)
  · exact (exec_bypass s die).trans (tapAt_absent hout _)

/-- Settles O56: a die out of the chain, then each instruction of one in it, those that need TEST_EN, and Test-Logic-Reset, by the rules above. -/
theorem testPortInstructions : Obligations.TestPortInstructions := by
  intro s die
  refine ⟨outOfChain_nothing, fun hin => ⟨?_, idcode_shifts hin, tap_shifts hin (exec_clamp s die), tap_shifts hin (exec_highz s die),
    tap_shifts hin (exec_bypass s die), samplePreload_shifts hin, fun hdie => ?_, fun hpub failed c hc => ?_⟩, fun htest hdie => ?_,
    tapReset_idles s⟩
  · exact ⟨_, (exec_extest s die).trans (tapAt_present hin _), getJtag_tapLoad .., fun _ hk => getJtag_tapLoad_ne _ _ _ _ hk, rfl⟩
  · subst hdie
    exact ⟨_, (exec_idcode s 0).trans (tapAt_present hin _), rfl⟩
  · have hpub' : s.testEn = false ∨ die.val ≠ 0 := hpub.imp_right fun hne hv => hne (Fin.ext hv)
    fin_cases hc
    · exact private_bypasses hin hpub' (exec_fuseRead s die)
    · exact private_bypasses hin hpub' (exec_bistSts s die)
    · exact private_bypasses hin hpub' (exec_bistRun s die failed)
  · subst hdie
    exact ⟨private_shifts htest (exec_fuseRead s 0), private_shifts htest (exec_bistSts s 0), bistRun_tests htest⟩

end Sys2Proof.Machine
end

section
/-!
PROOFS. Chapter 08, the gatherer: a thin task that joins its stall's batches, and the end of the gather window (R286).
-/
namespace Sys2Proof.Machine

/-! ### What the backlogs leave of a stall (R330) -/

theorem keeps_modStall {β : Type} (p : Stall → β) (s : State) (i : Nat) (f : Stall → Stall) (h : ∀ x, p (f x) = p x) (k : Nat) :
    p (getStall (modStall s i f) k) = p (getStall s k) := by
  by_cases hk : i = k
  · subst hk
    rw [getStall_modStall, h]
  · rw [getStall_modStall_ne _ _ hk]

theorem keeps_refreshBacklog {β : Type} (p : Stall → β)
    (h : ∀ (x : Stall) (ba bm : Bool) (va vp : W64), p { x with backlogArr := ba, backlogMvp := bm, va := va, vp := vp } = p x)
    (s : State) (k : Nat) : p (getStall (refreshBacklog s) k) = p (getStall s k) :=
  foldl_keep (fun s => p (getStall s k)) _ (fun s i => keeps_modStall p s i _ (fun x => h x _ _ _ _) k) _ _

theorem refreshBacklog_eq (s : State) : ∃ ss, refreshBacklog s = { s with stalls := ss } := by
  refine List.foldlRecOn (motive := fun t : State => ∃ ss, t = { s with stalls := ss }) _ _ ⟨s.stalls, rfl⟩ ?_
  rintro _ ⟨ss, rfl⟩ i -
  exact ⟨_, rfl⟩

/-! ### Joining a batch -/

/-- A contributor stands in an open or a closed batch of a stall. -/
def InBatch (g : GatherTask) (x : Stall) : Prop := (∃ b ∈ x.openBatches, g ∈ b) ∨ ∃ b ∈ x.closedBatches, g ∈ b.tasks

/-- A batch that 32 rows close, or that stays open. -/
def putBatch (thinRows : Nat) (x : Stall) (b : List GatherTask) : Stall :=
  if 32 ≤ batchRows b then closeBatch thinRows x b else { x with openBatches := x.openBatches ++ [b] }

/-- A contributor ends a batch: a new one, or the open one of its key. -/
theorem joinBatch_eq (thinRows : Nat) (x : Stall) (g : GatherTask) : ∃ y b, joinBatch thinRows x g = putBatch thinRows y (b ++ [g]) := by
  unfold joinBatch
  dsimp only
  split
  · exact ⟨x, [], rfl⟩
  next b _ =>
    split
    · exact ⟨{ x with openBatches := x.openBatches.erase b }, b, rfl⟩
    · exact ⟨closeBatch thinRows { x with openBatches := x.openBatches.erase b } b, [], rfl⟩

theorem inBatch_putBatch (thinRows : Nat) (x : Stall) {b : List GatherTask} {g : GatherTask} (h : g ∈ b) : InBatch g (putBatch thinRows x b) := by
  unfold putBatch
  split
  · exact .inr ⟨_, List.mem_append_right _ (List.mem_singleton_self _), h⟩
  · exact .inl ⟨b, List.mem_append_right _ (List.mem_singleton_self _), h⟩

theorem inBatch_joinBatch (thinRows : Nat) (x : Stall) (g : GatherTask) : InBatch g (joinBatch thinRows x g) := by
  obtain ⟨y, b, hjoin⟩ := joinBatch_eq thinRows x g
  rw [hjoin]
  exact inBatch_putBatch _ _ (List.mem_append_right _ (List.mem_singleton_self g))

theorem inBatch_refreshBacklog (g : GatherTask) (s : State) (i : Nat) :
    InBatch g (getStall (refreshBacklog s) i) = InBatch g (getStall s i) := keeps_refreshBacklog (InBatch g) (fun _ _ _ _ _ => rfl) s i

/-! ### The end of the gather window -/

/-- Whether a batch's window has passed since one of its contributors was ready. -/
def windowPassed (s : State) (i : Nat) (b : List GatherTask) : Bool := b.any (fun g => decide (g.ready + gatherTicks s i ≤ s.now))

theorem windowPassed_iff (s : State) (i : Nat) (b : List GatherTask) :
    windowPassed s i b = true ↔ ∃ g ∈ b, g.ready + gatherTicks s i ≤ s.now := by simp [windowPassed]

/-- The open batches that hold a contributor. -/
def filled (x : Stall) : List (List GatherTask) := x.openBatches.filter (fun b => !b.isEmpty)

theorem expireBatches_eq (s : State) (i : Nat) : expireBatches s i false = modStall s i (fun x =>
    ((filled (getStall s i)).filter (windowPassed s i)).foldl (closeBatch (thinRowsOf s i))
      { x with openBatches := (filled (getStall s i)).filter (fun b => !windowPassed s i b) }) := rfl

theorem openBatches_closeAll (thinRows : Nat) (l : List (List GatherTask)) (x : Stall) :
    (l.foldl (closeBatch thinRows) x).openBatches = x.openBatches := foldl_keep Stall.openBatches _ (by intro x b; rfl) _ _

theorem runs_closeAll (thinRows : Nat) (l : List (List GatherTask)) (x : Stall) : (l.foldl (closeBatch thinRows) x).runs = x.runs :=
  foldl_keep Stall.runs _ (by intro x b; rfl) _ _

theorem closeAll_closes (thinRows : Nat) {l : List (List GatherTask)} {b : List GatherTask} (h : b ∈ l) (x : Stall) :
    ∃ c ∈ (l.foldl (closeBatch thinRows) x).closedBatches, c.tasks = b := by
  refine foldl_reaches (closeBatch thinRows) (fun _ => True) (fun y => ∃ c ∈ y.closedBatches, c.tasks = b) (fun _ _ _ => trivial) ?_ ?_ h trivial
  · rintro y b' - ⟨c, hc, hb⟩
    exact ⟨c, List.mem_append_left _ hc, hb⟩
  · exact fun y _ => ⟨_, List.mem_append_right _ (List.mem_singleton_self _), rfl⟩

@[simp] theorem benches_expireBatches (s : State) (i : Nat) : benches (expireBatches s i false) = benches s := by
  rw [expireBatches_eq]
  exact benches_modStall _ _ _ (by intro x; exact runs_closeAll ..)

/-- What stays open is not due. -/
theorem mem_openBatches_expired {s : State} {i : Nat} {b : List GatherTask} (h : b ∈ (getStall (expireBatches s i false) i).openBatches) :
    b ∈ (getStall s i).openBatches ∧ ∀ g ∈ b, s.now < g.ready + gatherTicks s i := by
  rw [expireBatches_eq, getStall_modStall, openBatches_closeAll, List.mem_filter, filled, List.mem_filter] at h
  obtain ⟨⟨hb, -⟩, hwaits⟩ := h
  refine ⟨hb, fun g hg => Nat.lt_of_not_le fun hdue => ?_⟩
  rw [(windowPassed_iff s i b).2 ⟨g, hg, hdue⟩] at hwaits
  cases hwaits

theorem expired_closes {s : State} {i : Nat} {b : List GatherTask} (hb : b ∈ (getStall s i).openBatches)
    (hdue : ∃ g ∈ b, g.ready + gatherTicks s i ≤ s.now) :
    ∃ c ∈ (getStall (expireBatches s i false) i).closedBatches, c.tasks = b := by
  obtain ⟨g, hg, -⟩ := id hdue
  have hfilled : (!b.isEmpty) = true := by simpa using List.ne_nil_of_mem hg
  rw [expireBatches_eq, getStall_modStall]
  exact closeAll_closes _ (List.mem_filter.2 ⟨List.mem_filter.2 ⟨hb, hfilled⟩, (windowPassed_iff s i b).2 hdue⟩) _

/-! ### The commands of the gatherer -/

/-- The state in which a thin task joins its batch: those that are due have closed, and its run counts it as dispatched. -/
def thinBegun (s : State) (i q : Nat) (seq : W32) (r : Run) (d : List Byte) : State :=
  beginEntry (expireBatches s i false) (.job i q seq) r (r.array.getD 0) d

/-- A run's next thin task as its stall's gatherer takes it. -/
def contributor (s : State) (q : Nat) (seq : W32) (r : Run) (d : List Byte) : GatherTask :=
  { queue := q, seq := seq, tile := r.nextTile, desc := d, ready := s.now }

theorem beginEntry_job_eq (s : State) (i q : Nat) (seq : W32) (r : Run) (n : Nat) (d : List Byte) :
    ∃ as ss, beginEntry s (.job i q seq) r n d = { s with arrays := as, stalls := ss } := by
  dsimp only [beginEntry, setEntry, modRun, evMod, modStall, modArr]
  exact ⟨_, _, rfl⟩

theorem thinBegun_eq (s : State) (i q : Nat) (seq : W32) (r : Run) (d : List Byte) :
    ∃ as ss, thinBegun s i q seq r d = { s with arrays := as, stalls := ss } := by
  obtain ⟨as, ss, hbegun⟩ := beginEntry_job_eq (expireBatches s i false) i q seq r (r.array.getD 0) d
  exact ⟨as, ss, hbegun.trans rfl⟩

section
variable {s : State} {stall : Fin 16} {q : Fin 8} {seq : W32} {r : Run} {d : List Byte}
  (hentry : nextEntry s (.job stall.val q.val seq) = some (r, d)) (hthin : opIsThin (entryOp d) = true)
  (hgather : gathers s stall.val (thinDesc d) = true) (hfirst : entersBefore s stall.val q.val seq = false)
  (hcheck : jobThinRefusal s (.job stall.val q.val seq) (thinDesc d) = none)
include hentry hthin hgather hfirst hcheck

theorem exec_gatherEnter {u : State} (hu : thinBegun s stall.val q.val seq r d = u) : exec (.gatherEnter stall q seq) s
    = .next (refreshBacklog (modStall u stall.val (fun x => joinBatch (thinRowsOf u stall.val) x (contributor u q.val seq r d)))) := by
  subst hu
  show execGatherEnter stall q seq s = _
  unfold execGatherEnter
  dsimp only
  rw [hentry]
  dsimp only
  rw [hthin, hgather, hfirst, if_pos (show (true && true && !false) = true from rfl), hcheck]
  rfl

/-- R286: the first part of O21. -/
theorem gatherEnter_joins : ∃ t g r', exec (.gatherEnter stall q seq) s = .next t
    ∧ ((∃ b ∈ (getStall t stall.val).openBatches, g ∈ b) ∨ (∃ b ∈ (getStall t stall.val).closedBatches, g ∈ b.tasks))
    ∧ g.queue = q.val ∧ g.seq = seq ∧ g.tile = r.nextTile ∧ g.desc = d ∧ g.ready = s.now
    ∧ getRun t (.job stall.val q.val seq) = some r' ∧ r'.nextTile = r.nextTile + 1
    ∧ t = { s with arrays := t.arrays, stalls := t.stalls } := by
  obtain ⟨u, hu⟩ : ∃ u, thinBegun s stall.val q.val seq r d = u := ⟨_, rfl⟩
  have hrun : getRun u (.job stall.val q.val seq) = some (entryBegun (entryWait d) r) := by
    rw [← hu]
    exact getRun_beginEntry ((getRun_of_benches (benches_expireBatches ..) ..).trans (getRun_of_nextEntry hentry)) ..
  obtain ⟨as, ss, hbegun⟩ := thinBegun_eq s stall.val q.val seq r d
  rw [hu] at hbegun
  refine ⟨_, contributor u q.val seq r d, entryBegun (entryWait d) r, exec_gatherEnter hentry hthin hgather hfirst hcheck hu, ?_,
    rfl, rfl, rfl, rfl, ?_, ?_, rfl, ?_⟩
  · change InBatch _ _
    rw [inBatch_refreshBacklog, getStall_modStall]
    exact inBatch_joinBatch ..
  · rw [hbegun]
    rfl
  · rw [getRun_refreshBacklog, getRun_of_benches (benches_modStall _ _ _ (by intro x; exact runs_joinBatch ..)), hrun]
  · obtain ⟨ss', hss⟩ := refreshBacklog_eq (modStall u stall.val (fun x => joinBatch (thinRowsOf u stall.val) x (contributor u q.val seq r d)))
    rw [hss, hbegun]
    rfl

end

/-- R286: the second part of O21. -/
theorem batchWindowExpiry_closes (s : State) (stall : Fin 16) : ∃ t, exec (.batchWindowExpiry stall) s = .next t
    ∧ (∀ b ∈ (getStall t stall.val).openBatches,
        b ∈ (getStall s stall.val).openBatches ∧ ∀ g ∈ b, s.now < g.ready + gatherTicks s stall.val)
    ∧ (∀ b ∈ (getStall s stall.val).openBatches, (∃ g ∈ b, g.ready + gatherTicks s stall.val ≤ s.now) →
        ∃ c ∈ (getStall t stall.val).closedBatches, c.tasks = b)
    ∧ t = { s with stalls := t.stalls } := by
  refine ⟨refreshBacklog (expireBatches s stall.val false), rfl, fun b hb => ?_, fun b hb hdue => ?_, ?_⟩
  · rw [keeps_refreshBacklog Stall.openBatches fun _ _ _ _ _ => rfl] at hb
    exact mem_openBatches_expired hb
  · rw [keeps_refreshBacklog Stall.closedBatches fun _ _ _ _ _ => rfl]
    exact expired_closes hb hdue
  · obtain ⟨ss, hss⟩ := refreshBacklog_eq (expireBatches s stall.val false)
    rw [hss]
    rfl

/-- Settles O21: a thin task enters its stall's gatherer, and the end of the window closes what is due, each by its rule above. -/
theorem gathererCollects : Obligations.GathererCollects := fun s =>
  ⟨fun _ _ _ _ _ _ hentry _ hthin hgather hfirst hcheck => gatherEnter_joins hentry hthin hgather hfirst hcheck, batchWindowExpiry_closes s⟩

end Sys2Proof.Machine
end

section
/-!
PROOFS. Chapter 08, what the bookkeeping of tasks and runs leaves of the matrix-vector paths, the pacer cores and all else that is no
array, engine, stall, feeder or memory (R189, R193, R268, R303, R312, R327).
-/
namespace Sys2Proof.Machine

/-! ### A state without what tasks move -/

/-- A state without its arrays, their engines, the stalls, the feeders and memory. -/
def offTasks (s : State) : State := { s with arrays := [], vecs := [], stalls := [], feeders := [], mem := {} }

theorem eq_of_offTasks {s t : State} (h : offTasks t = offTasks s) :
    t = { s with arrays := t.arrays, vecs := t.vecs, stalls := t.stalls, feeders := t.feeders, mem := t.mem } :=
  (congrArg (fun x => { x with arrays := t.arrays, vecs := t.vecs, stalls := t.stalls, feeders := t.feeders, mem := t.mem }) h :)

@[simp] theorem offTasks_modStall (s : State) (i : Nat) (f : Stall → Stall) : offTasks (modStall s i f) = offTasks s := rfl
@[simp] theorem offTasks_modArr (s : State) (n : Nat) (f : ArrayU → ArrayU) : offTasks (modArr s n f) = offTasks s := rfl
@[simp] theorem offTasks_modFdr (s : State) (n : Nat) (f : Feeder → Feeder) : offTasks (modFdr s n f) = offTasks s := rfl

@[simp] theorem offTasks_modRun_job (s : State) (i q : Nat) (seq : W32) (f : Run → Run) :
    offTasks (modRun s (.job i q seq) f) = offTasks s := rfl

@[simp] theorem offTasks_setEntry (s : State) (i q : Nat) (seq : W32) (f : JEntry → JEntry) : offTasks (setEntry s i q seq f) = offTasks s := rfl

@[simp] theorem offTasks_charge (s : State) (i : Nat) (o : Owner) (k : ChargeKind) (pool : Bool) (ns : Nat) :
    offTasks (charge s i o k pool ns) = offTasks s := by
  unfold charge
  extract_lets s1
  have h1 : offTasks s1 = offTasks s := offTasks_modStall ..
  split
  · exact (offTasks_modStall ..).trans h1
  · exact (offTasks_modStall ..).trans h1
  · exact h1

@[simp] theorem offTasks_chargeContribs (s : State) (cs : List Contrib) (k : ChargeKind) (pool : Bool) (ns : Nat) :
    offTasks (chargeContribs s cs k pool ns) = offTasks s := foldl_keep offTasks _ (fun _ _ => offTasks_charge ..) _ _

@[simp] theorem offTasks_nextPiece (s : State) (f : Nat) : offTasks (nextPiece s f) = offTasks s := by
  unfold nextPiece
  split
  · rfl
  · split
    · rfl
    · split <;> rfl

@[simp] theorem offTasks_wakeFeeders (s : State) : offTasks (wakeFeeders s) = offTasks s := foldl_keep offTasks _ offTasks_nextPiece _ _

@[simp] theorem offTasks_dropXfers (s : State) (p : Xfer → Bool) : offTasks (dropXfers s p) = offTasks s :=
  foldl_keep offTasks _ (fun _ _ => (offTasks_nextPiece ..).trans (offTasks_modFdr ..)) _ _

@[simp] theorem offTasks_dropWork (s : State) (i q : Nat) (seq : W32) : offTasks (dropWork s i q seq) = offTasks s := by
  rw [dropWork, offTasks_modStall, offTasks_dropXfers]

@[simp] theorem offTasks_toCommitting (s : State) (i q : Nat) (seq : W32) (status : W16) :
    offTasks (toCommitting s i q seq status) = offTasks s := by
  simp [toCommitting, leaveArray]

@[simp] theorem offTasks_displaceRun (s : State) (i q : Nat) (seq : W32) : offTasks (displaceRun s i q seq) = offTasks s := by
  unfold displaceRun
  split
  · rfl
  · simp [leaveArray]

@[simp] theorem offTasks_refreshBacklog (s : State) : offTasks (refreshBacklog s) = offTasks s := foldl_keep offTasks _ (by intro s i; rfl) _ _

@[simp] theorem offTasks_settleMoves (s : State) : offTasks (settleMoves s) = offTasks s := by
  refine foldl_keep offTasks _ (fun s n => ?_) _ _
  unfold settleMove
  split
  · rfl
  · split <;> rfl

@[simp] theorem offTasks_cacheAccess (s : State) (i a n : Nat) (write alloc : Bool) : offTasks (cacheAccess s i a n write alloc) = offTasks s := by
  obtain ⟨lines, ss, hcache⟩ := cacheAccess_eq s i a n write alloc
  rw [hcache]
  rfl

@[simp] theorem offTasks_regionWrite (s : State) (i x : Nat) (bs : List Byte) (alloc : Bool) :
    offTasks (regionWrite s i x bs alloc) = offTasks s := offTasks_cacheAccess ..

@[simp] theorem offTasks_countDev (s : State) (i xfers rd wr : Nat) : offTasks (countDev s i xfers rd wr) = offTasks s := by
  unfold countDev
  dsimp only
  rw [offTasks_modStall]
  split <;> rfl

@[simp] theorem offTasks_mergeAccess (s : State) (i win : Nat) (write : Bool) : offTasks (mergeAccess s i win write).1 = offTasks s := by
  unfold mergeAccess
  dsimp only
  split <;> rfl

/-! ### The paths and the pacer cores -/

/-- The matrix-vector paths and the pacer cores. -/
def lanes (s : State) : Table PathU × Table PCore := (s.paths, s.cores)

theorem lanes_of_offTasks {s t : State} (h : offTasks t = offTasks s) : lanes t = lanes s := (congrArg lanes h :)

theorem paths_of_lanes {s t : State} (h : lanes t = lanes s) : t.paths = s.paths := congrArg Prod.fst h
theorem cores_of_lanes {s t : State} (h : lanes t = lanes s) : t.cores = s.cores := congrArg Prod.snd h

theorem getPath_of_lanes {s t : State} (h : lanes t = lanes s) (m : Nat) : getPath t m = getPath s m :=
  congrArg (fun x => tget ({} : PathU) x m) (paths_of_lanes h)

theorem lanes_modStall (s : State) (i : Nat) (f : Stall → Stall) : lanes (modStall s i f) = lanes s := rfl

theorem lanes_report (s : State) (e : Event) : lanes (report s e) = lanes s := Prod.ext (report_paths ..) (report_cores ..)

theorem lanes_emit (s : State) (o : Out) : lanes (emit s o) = lanes s := Prod.ext (emit_paths ..) (emit_cores ..)

theorem lanes_modRun (s : State) (o : Owner) (f : Run → Run) : lanes (modRun s o f) = lanes s := by
  cases o <;> rfl

theorem lanes_failInv (s : State) (c cause : Nat) : lanes (failInv s c cause) = lanes s := by
  unfold failInv
  split <;> rfl

theorem lanes_failOwner (s : State) (o : Owner) (t : Nat) (avoid : Option Nat) : lanes (failOwner s o t avoid) = lanes s := by
  cases o with
  | net c => exact lanes_failInv ..
  | job i q seq =>
    show lanes (eccFail s i q seq t avoid) = lanes s
    refine lanes_of_offTasks ?_
    unfold eccFail
    split
    · rfl
    · split <;> simp

theorem lanes_finishRun (s : State) (o : Owner) : lanes (finishRun s o) = lanes s := by
  unfold finishRun
  split
  · rfl
  · split
    · rfl
    · cases o with
      | job i q seq => exact lanes_of_offTasks (offTasks_toCommitting ..)
      | net c => rfl

theorem lanes_endEntry (s : State) (o : Owner) (n t : Nat) (d : List Byte) : lanes (endEntry s o n t d) = lanes s := by
  unfold endEntry
  split
  · rfl
  · split
    · rfl
    · dsimp only
      rw [lanes_finishRun, lanes_modRun]
      rfl

theorem lanes_settleRails (s : State) : lanes (settleRails s) = lanes s := by
  unfold settleRails
  dsimp only
  split
  · split
    · rfl
    · exact lanes_emit ..
  · split
    · exact lanes_emit ..
    · exact (lanes_emit ..).trans (lanes_emit ..)

/-! ### Work that stops leaves an idle path as it is (R82, R155) -/

theorem lanes_abortTile (s : State) (n : Nat) : lanes (abortTile s n) = lanes s := by
  unfold abortTile abortTileAfter
  split
  · rfl
  · split
    · rfl
    · dsimp only
      split
      · exact (lanes_of_offTasks (offTasks_charge ..)).trans rfl
      · exact (lanes_of_offTasks (offTasks_chargeContribs ..)).trans rfl

theorem lanes_abortVec (s : State) (n : Nat) : lanes (abortVec s n) = lanes s := by
  unfold abortVec abortVecAfter
  split
  · rfl
  · split
    · rfl
    · exact (lanes_of_offTasks (offTasks_charge ..)).trans rfl

theorem lanes_regather (s : State) (cs : List Contrib) : lanes (regather s cs) = lanes s := by
  unfold regather
  split <;> rfl

theorem lanes_loseUnit (s : State) (i kind failed : Nat) : lanes (loseUnit s i kind failed) = lanes s := by
  have hone : ∀ s f, lanes (loseOne s i kind f) = lanes s := by
    intro s f
    unfold loseOne
    split
    · exact lanes_modStall ..
    · exact (lanes_modStall ..).trans (lanes_modStall ..)
  unfold loseUnit
  dsimp only
  rw [foldl_keep lanes _ hone, hone]
  rfl

theorem lanes_withSchool (s : State) (x : School) : lanes { s with school := x } = lanes s := rfl

theorem lanes_schoolLost (s : State) (n : Nat) : lanes (schoolLost s n) = lanes s := by
  have h1 : ∀ l : List Nat, lanes (l.foldl (fun s r =>
      if (s.hns.schoolNets[r]?).any (fun cfg => s.hns.nets.any (fun x => x.net == cfg.net && (getCarrier s x.carrier).array == n)) then
        modNet s r lostNet
      else s) s) = lanes s :=
    fun l => foldl_keep lanes _ (fun s r => by split <;> rfl) l s
  unfold schoolLost
  dsimp only
  split
  · rw [lanes_withSchool, h1]
  · exact h1 _

/-- Path `m`, where it is idle in `s`, is in `t` as it was. -/
structure IdleStays (m : Nat) (s t : State) : Prop where
  path : (getPath s m).run = [] → getPath t m = getPath s m

theorem IdleStays.of_lanes {m : Nat} {s t : State} (h : lanes t = lanes s) : IdleStays m s t := ⟨fun _ => getPath_of_lanes h m⟩

theorem IdleStays.trans {m : Nat} {s t u : State} (h : IdleStays m s t) (k : IdleStays m t u) : IdleStays m s u :=
  ⟨fun hidle => (k.path (by rwa [h.path hidle])).trans (h.path hidle)⟩

theorem IdleStays.foldl {m : Nat} {α : Type} (g : State → α → State) (h : ∀ s a, IdleStays m s (g s a)) (l : List α) (s : State) :
    IdleStays m s (l.foldl g s) :=
  List.foldlRecOn (motive := IdleStays m s) l g (.of_lanes rfl) fun t ht a _ => ht.trans (h t a)

theorem idleStays_ite {m : Nat} {s t : State} {c : Prop} [Decidable c] (h : IdleStays m s t) : IdleStays m s (if c then t else s) := by
  split
  · exact h
  · exact .of_lanes rfl

theorem idleStays_abortPath (m : Nat) (s : State) (k i : Nat) : IdleStays m s (abortPath s k i) := by
  refine ⟨fun hidle => ?_⟩
  unfold abortPath
  split
  next hwork =>
    have hk : k ≠ m := by
      rintro rfl
      rw [hidle] at hwork
      cases hwork
    unfold abortPathRun
    split
    · rfl
    · rw [getPath_of_lanes (lanes_of_offTasks (offTasks_chargeContribs ..)), getPath_modPath_ne _ _ hk]
      rfl
  · rfl

theorem lanes_stopOn (i : Nat) (s : State) (n : Nat) : lanes (stopOn i s n) = lanes s := by
  unfold stopOn
  dsimp only
  split <;> split <;> simp only [lanes_abortVec, lanes_abortTile]

theorem lanes_cacheFlushStall (s : State) (i : Nat) : lanes (cacheFlushStall s i) = lanes s := rfl

theorem lanes_of_offSlots {s t : State} (h : offSlots t = offSlots s) : lanes t = lanes s := (congrArg lanes h :)

theorem lanes_failStallSlots (s : State) (i : Nat) (reset : Bool) : lanes (failStallSlots s i reset) = lanes s :=
  lanes_of_offSlots (offSlots_failStallSlots ..)

theorem idleStays_abortStall (m : Nat) (s : State) (i : Nat) : IdleStays m s (abortStall s i) := by
  rw [abortStall_eq]
  have h1 : lanes ((List.range 8).foldl (stopOn i) s) = lanes s := foldl_keep lanes _ (lanes_stopOn i) _ _
  have h2 := IdleStays.foldl (m := m) (fun s k => abortPath s k i) (fun s k => idleStays_abortPath m s k i) (List.range 4)
    ((List.range 8).foldl (stopOn i) s)
  refine ((IdleStays.of_lanes h1).trans h2).trans (.of_lanes (lanes_of_offTasks ?_))
  rw [offTasks_modStall, offTasks_dropXfers]

theorem idleStays_stallFault (m : Nat) (s : State) (i : Nat) (code : W16) (kind : BitVec 4) (unit : Nat) (data : List Byte)
    (job : Option (Nat × W32)) : IdleStays m s (stallFault s i code kind unit data job) := by
  unfold stallFault
  dsimp only
  split
  · exact .of_lanes rfl
  · exact .of_lanes (Prod.ext (pushEvent_paths ..) (pushEvent_cores ..))
  · exact .of_lanes (lanes_report ..)
  · generalize hs1 : modStall s i _ = s1
    have h1 : lanes s1 = lanes s := by
      rw [← hs1]
      rfl
    refine ((IdleStays.of_lanes h1).trans (idleStays_abortStall m s1 i)).trans (.of_lanes ?_)
    rw [lanes_report, lanes_cacheFlushStall, lanes_failStallSlots]

theorem idleStays_fenceOp (m : Nat) (s : State) (n : Nat) (cause : BitVec 4) : IdleStays m s (fenceOp s n cause) := by
  unfold fenceOp
  split
  · exact .of_lanes rfl
  · extract_lets batch lowered pw s0 s1 fen s2 s3 s4 dest s5 s6 s7 s8
    have h1 : lanes s1 = lanes s := (lanes_abortVec ..).trans (lanes_abortTile ..)
    have h4 : lanes s4 = lanes s1 := (lanes_regather ..).trans (lanes_report ..)
    have h5 : lanes s5 = lanes s4 :=
      foldl_keep lanes (displaceTo dest) (fun s x => lanes_of_offTasks (offTasks_displaceRun s x.1 x.2.1 x.2.2)) _ _
    have h7 : lanes s7 = lanes s6 := by
      refine foldl_keep lanes _ (fun s c => ?_) _ _
      dsimp only
      split
      · exact lanes_failInv ..
      · rfl
    have h8 : lanes s8 = lanes s7 := foldl_keep lanes _ (fun s i => lanes_loseUnit s i 1 n) _ _
    have hbefore : lanes (schoolLost s8 n) = lanes s :=
      (lanes_schoolLost ..).trans (h8.trans (h7.trans (h5.trans (h4.trans h1))))
    have hstops : IdleStays m (schoolLost s8 n) (checkNoArray (schoolLost s8 n) n) :=
      .foldl _ (fun _ _ => idleStays_ite (idleStays_stallFault ..)) _ _
    refine ((IdleStays.of_lanes hbefore).trans hstops).trans (.of_lanes (lanes_of_offTasks ?_))
    rw [offTasks_refreshBacklog, offTasks_wakeFeeders]

end Sys2Proof.Machine
end

section
/-!
PROOFS. Chapter 08, thin tasks: their dispatch to a matrix-vector path, and their end (R283, R285, R287, R323, R326).
-/
namespace Sys2Proof.Machine

/-! ### A path that starts (R283, R287, R323, R326) -/

/-- A path that runs contributors, with their rows in its row buffer. -/
def pathStarted (cs : List Contrib) (rows : List Byte) (p : PathU) : PathU :=
  { p with run := cs, rows := BitVec.ofNat 6 (contribRows cs), rowBuf := mwrite [] 0 rows }

theorem getPath_startPath (s : State) (m : Nat) (cs : List Contrib) (rows : List Byte) :
    getPath (startPath s m cs rows) m = pathStarted cs rows (getPath s m) ∧ ∀ k, k ≠ m → getPath (startPath s m cs rows) k = getPath s k :=
  ⟨getPath_modPath .., fun _ hk => getPath_modPath_ne _ _ hk.symm⟩

@[simp] theorem offUnits_startPath (s : State) (m : Nat) (cs : List Contrib) (rows : List Byte) : offUnits (startPath s m cs rows) = offUnits s :=
  rfl

theorem lanes_beginEntry (s : State) (o : Owner) (r : Run) (n : Nat) (d : List Byte) : lanes (beginEntry s o r n d) = lanes s := by
  have hflags : lanes (evMod s n (evKey o r) (fun ev => ev &&& ~~~ entryWait d)) = lanes s := rfl
  unfold beginEntry
  dsimp only
  split
  · exact (lanes_of_offTasks (offTasks_setEntry ..)).trans ((lanes_modRun ..).trans hflags)
  · exact (lanes_modRun ..).trans hflags

/-- An invocation's thin task as a path takes it. -/
def netContrib (s : State) (c : Nat) (r : Run) (d : List Byte) : Contrib :=
  { owner := .net c, stall := ownerStall s (.net c), tile := r.nextTile, desc := d, seed := entrySeed s (.net c) r.nextTile, ready := s.now }

/-- Its rows of A, of the array's reserve bank (R419). -/
def netRows (a : ArrayU) (d : ThinDesc) : List Byte :=
  (List.range d.m).flatMap (fun j => mread a.rsv (d.a + j * d.aStride) (thinARow d))

section
variable {s : State} {path : Fin 4} (hgate : dispatchGated s = false) (hidle : (getPath s path.val).run = [])
  (hin : (getPath s path.val).out = false) (hhold : dvfsHold s 3 path.val = false)
include hgate hidle hin hhold

theorem exec_thinDispatch_batch {stall : Fin 16} {q : Fin 8} {seq : W32} {b : Batch} (hnet : netNext s path.val = none)
    (huse : mayUseMvp s stall.val path.val = true) (hpick : pickPath s path.val = some stall.val)
    (hb : batchOf s stall.val q.val seq = some b) (hruns : stallRuns s stall.val = true)
    (hcontains : (batchesFor s stall.val true).contains b = true) :
    exec (.thinDispatch path (.job stall q seq)) s = .next (refreshBacklog (startPath (dropBatch s stall.val b) path.val
      (b.tasks.map (toContrib stall.val)) ((b.tasks.map (toContrib stall.val)).flatMap (rowsOf s)))) := by
  show execThinDispatch path (.job stall q seq) s = _
  unfold execThinDispatch
  rw [if_neg (by rw [hgate]; decide)]
  dsimp only [workOwner, ownerStall]
  rw [hidle, hin, hhold, hnet, huse, hpick, if_neg (by simp), hb]
  dsimp only
  rw [hruns, hcontains]
  rfl

/-- R287, R323: the first part of O22, a batch. -/
theorem thinDispatch_batch (stall : Fin 16) (q : Fin 8) (seq : W32) (b : Batch) (hnet : netNext s path.val = none)
    (huse : mayUseMvp s stall.val path.val = true) (hpick : pickPath s path.val = some stall.val)
    (hb : batchOf s stall.val q.val seq = some b) (hruns : stallRuns s stall.val = true)
    (hcontains : (batchesFor s stall.val true).contains b = true) :
    ∃ t, exec (.thinDispatch path (.job stall q seq)) s = .next t ∧ (getPath t path.val).run = b.tasks.map (toContrib stall.val)
      ∧ (getPath t path.val).rows = BitVec.ofNat 6 (contribRows (b.tasks.map (toContrib stall.val)))
      ∧ (getPath t path.val).rowBuf = mwrite [] 0 ((b.tasks.map (toContrib stall.val)).flatMap (rowsOf s))
      ∧ (∀ m, m ≠ path.val → getPath t m = getPath s m) ∧ t.mem = s.mem ∧ t.arrays = s.arrays ∧ PartKept s t := by
  have hex := exec_thinDispatch_batch hgate hidle hin hhold hnet huse hpick hb hruns hcontains
  generalize b.tasks.map (toContrib stall.val) = cs at *
  obtain ⟨hself, hothers⟩ := getPath_startPath (dropBatch s stall.val b) path.val cs (cs.flatMap (rowsOf s))
  have hmem : (startPath (dropBatch s stall.val b) path.val cs (cs.flatMap (rowsOf s))).mem = s.mem := by
    rw [startPath, modPath_mem, dropBatch, modStall_mem]
  have harrays : (startPath (dropBatch s stall.val b) path.val cs (cs.flatMap (rowsOf s))).arrays = s.arrays := by
    rw [startPath, modPath_arrays, dropBatch, modStall_arrays]
  have hoff : offUnits (startPath (dropBatch s stall.val b) path.val cs (cs.flatMap (rowsOf s))) = offUnits s := by
    rw [offUnits_startPath, dropBatch, offUnits_modStall]
  generalize startPath (dropBatch s stall.val b) path.val cs (cs.flatMap (rowsOf s)) = u at *
  obtain ⟨ss, hend⟩ := refreshBacklog_eq u
  rw [hend] at hex
  exact ⟨_, hex, (congrArg PathU.run hself :), (congrArg PathU.rows hself :), (congrArg PathU.rowBuf hself :), hothers, hmem, harrays,
    partKept_of_offUnits hoff⟩

theorem exec_thinDispatch_net {carrier : Fin 8} {r : Run} {d : List Byte} (hentry : nextEntry s (.net carrier.val) = some (r, d))
    (hthin : opIsThin (entryOp d) = true) (hnet : netNext s path.val = some carrier.val)
    (hcheck : thinRefusal (thinDesc d) false (fun _ _ => true) (fun _ _ => true) = none) :
    exec (.thinDispatch path (.net carrier)) s
      = .next (startPath (beginEntry s (.net carrier.val) r (getCarrier s carrier.val).array d) path.val [netContrib s carrier.val r d]
          (netRows (getArr s (getCarrier s carrier.val).array) (thinDesc d))) := by
  show execThinDispatch path (.net carrier) s = _
  unfold execThinDispatch
  rw [if_neg (by rw [hgate]; decide)]
  dsimp only [workOwner]
  rw [hentry]
  dsimp only
  rw [hidle, hin, hhold, hthin, hnet, if_pos (by simp), hcheck]
  rfl

/-- R326: the first part of O22, an invocation's thin task. -/
theorem thinDispatch_net (carrier : Fin 8) (r : Run) (d : List Byte) (hentry : nextEntry s (.net carrier.val) = some (r, d))
    (hthin : opIsThin (entryOp d) = true) (hnet : netNext s path.val = some carrier.val)
    (hcheck : thinRefusal (thinDesc d) false (fun _ _ => true) (fun _ _ => true) = none) :
    ∃ t c, exec (.thinDispatch path (.net carrier)) s = .next t ∧ (getPath t path.val).run = [c] ∧ c.owner = .net carrier.val
      ∧ c.tile = r.nextTile ∧ c.desc = d ∧ (∀ m, m ≠ path.val → getPath t m = getPath s m) ∧ t.mem = s.mem ∧ PartKept s t := by
  have hex := exec_thinDispatch_net hgate hidle hin hhold hentry hthin hnet hcheck
  have hlanes := lanes_beginEntry s (.net carrier.val) r (getCarrier s carrier.val).array d
  have hmem := mem_of_hardware (hardware_beginEntry s (.net carrier.val) r (getCarrier s carrier.val).array d)
  have hoff := offUnits_beginEntry s (.net carrier.val) r (getCarrier s carrier.val).array d
  generalize beginEntry s (.net carrier.val) r (getCarrier s carrier.val).array d = u at *
  obtain ⟨hself, hothers⟩ := getPath_startPath u path.val [netContrib s carrier.val r d]
    (netRows (getArr s (getCarrier s carrier.val).array) (thinDesc d))
  exact ⟨_, netContrib s carrier.val r d, hex, congrArg PathU.run hself, rfl, rfl, rfl,
    fun m hm => (hothers m hm).trans (getPath_of_lanes hlanes m), hmem, partKept_of_offUnits hoff⟩

end

/-! ### The end of contributors leaves an idle path as it is -/

/-- No word of a reserve bank is listed as failed. -/
def BanksSound (s : State) : Prop := ∀ n, (getArr s n).ueRsv = []

theorem BanksSound.of_holdings {s t : State} (hs : BanksSound s) (h : holdings t = holdings s) : BanksSound t := fun n => by
  obtain ⟨-, -, -, -, hrsv, -⟩ := contents_errors (contents_of_holdings h n)
  rw [hrsv]
  exact hs n

theorem BanksSound.of_arrays {s t : State} (hs : BanksSound s) (h : t.arrays = s.arrays) : BanksSound t := fun n => by
  rw [getArr_of_arrays h]
  exact hs n

/-- `t` is `s` once a thin task's contributors ended: path `m` stays idle, the pacer cores stay, and while the reserve banks are sound so
does every other path. -/
structure PathEnds (m : Nat) (s t : State) : Prop extends IdleStays m s t where
  cores : t.cores = s.cores
  sound : BanksSound s → BanksSound t ∧ t.paths = s.paths

theorem PathEnds.of_lanes {m : Nat} {s t : State} (h : lanes t = lanes s) (hs : BanksSound s → BanksSound t) : PathEnds m s t :=
  ⟨.of_lanes h, cores_of_lanes h, fun hb => ⟨hs hb, paths_of_lanes h⟩⟩

theorem PathEnds.of_holdings {m : Nat} {s t : State} (h : lanes t = lanes s) (hh : holdings t = holdings s) : PathEnds m s t :=
  .of_lanes h fun hb => hb.of_holdings hh

theorem PathEnds.trans {m : Nat} {s t u : State} (h : PathEnds m s t) (k : PathEnds m t u) : PathEnds m s u where
  toIdleStays := h.toIdleStays.trans k.toIdleStays
  cores := k.cores.trans h.cores
  sound hb := by
    obtain ⟨ht, hpt⟩ := h.sound hb
    obtain ⟨hu, hpu⟩ := k.sound ht
    exact ⟨hu, hpu.trans hpt⟩

theorem PathEnds.foldl {m : Nat} {α : Type} (g : State → α → State) (h : ∀ s a, PathEnds m s (g s a)) (l : List α) (s : State) :
    PathEnds m s (l.foldl g s) :=
  List.foldlRecOn (motive := PathEnds m s) l g (.of_holdings rfl rfl) fun t ht a _ => ht.trans (h t a)

theorem pathEnds_endEntry (m : Nat) (s : State) (o : Owner) (n t : Nat) (d : List Byte) : PathEnds m s (endEntry s o n t d) :=
  .of_holdings (lanes_endEntry ..) (holdings_endEntry ..)

theorem pathEnds_failOwner (m : Nat) (s : State) (o : Owner) (t : Nat) (avoid : Option Nat) : PathEnds m s (failOwner s o t avoid) :=
  .of_holdings (lanes_failOwner ..) (holdings_of_hardware (hardware_failOwner ..))

theorem pathEnds_thinWrite (m : Nat) (s : State) (i : Nat) (d : ThinDesc) (seed : W64) : PathEnds m s (thinWrite s i d seed) := by
  refine .foldl _ (fun t r => ?_) _ _
  exact .of_lanes (lanes_of_offTasks (offTasks_regionWrite ..)) fun hb => hb.of_arrays (arrays_regionWrite ..)

/-- A write to a reserve bank fails no word. -/
theorem ueRsv_rsvWrite {a : ArrayU} (h : a.ueRsv = []) (off : Nat) (bs : List Byte) : (rsvWrite a off bs).ueRsv = [] := by
  simp [rsvWrite, h]

theorem pathEnds_thinWriteNet (m : Nat) (s : State) (i n : Nat) (d : ThinDesc) (seed : W64) : PathEnds m s (thinWriteNet s i n d seed) := by
  unfold thinWriteNet
  extract_lets bank rows
  refine .of_lanes rfl fun hb k => ?_
  by_cases hk : n = k
  · subst hk
    rw [getArr_modArr]
    exact List.foldlRecOn (motive := fun a : ArrayU => a.ueRsv = []) _ _ (hb n) fun a ha x _ => ueRsv_rsvWrite ha ..
  · rw [getArr_modArr_ne _ _ hk]
    exact hb k

theorem pathEnds_endContrib (m : Nat) (s : State) (c : Contrib) : PathEnds m s (endContrib s c) := by
  unfold endContrib
  split
  · exact .of_holdings rfl rfl
  · split
    · exact (pathEnds_thinWrite ..).trans (pathEnds_endEntry ..)
    · exact (pathEnds_thinWriteNet ..).trans (pathEnds_endEntry ..)

theorem cores_fenceOp (s : State) (n : Nat) (cause : BitVec 4) : (fenceOp s n cause).cores = s.cores := by
  by_cases h : arrUsable s n = true
  · obtain ⟨-, -, -, -, -, -, -, -, -, -, -, -, -, hcores⟩ := fenceOp_fences cause h
    exact hcores
  · rw [fenceOp_outOfService cause (Bool.eq_false_iff.2 h)]

theorem arrUe_idle (m : Nat) (s : State) (n : Nat) (o : Owner) (t i : Nat) (bank : Bool) (code : Byte) (addr : Nat) :
    IdleStays m s (arrUe s n o t i bank code addr) ∧ (arrUe s n o t i bank code addr).cores = s.cores := by
  unfold arrUe
  extract_lets again s1 s2 s3
  have h3 : lanes s3 = lanes s := (lanes_failOwner ..).trans (lanes_report ..)
  split
  · exact ⟨(IdleStays.of_lanes h3).trans (idleStays_fenceOp ..), (cores_fenceOp ..).trans (cores_of_lanes h3)⟩
  · exact ⟨.of_lanes h3, cores_of_lanes h3⟩

/-- A failed word that a network's thin task reads is one of those listed, as nothing new is met. -/
theorem netBad_unsound {s : State} {n x : Nat} {d : ThinDesc} (h : netBad (getArr s n) d .clean = some x) : ¬ BanksSound s := fun hb => by
  have hx := List.find?_some h
  rw [hb n] at hx
  cases hx

theorem pathEnds_scrUe (m : Nat) {s : State} (h : ¬ BanksSound s) (n : Nat) (o : Owner) (t i : Nat) (bank : Bool) (x : Nat) :
    PathEnds m s (scrUe s n o t i bank x) := by
  have hlisted : lanes (modArr s n (fun a => listUe a bank 0x10 x)) = lanes s := rfl
  obtain ⟨hidle, hcores⟩ := arrUe_idle m (modArr s n (fun a => listUe a bank 0x10 x)) n o t i bank 0x10 (x / 8)
  exact ⟨(IdleStays.of_lanes hlisted).trans hidle, hcores.trans (cores_of_lanes hlisted), fun hb => absurd hb h⟩

theorem pathEnds_contribEnd (m : Nat) (s : State) (c : Contrib) (avoid : Option Nat) : PathEnds m s (contribEnd s c false .clean avoid) := by
  unfold contribEnd
  split
  · exact .of_holdings rfl rfl
  · split
    · exact pathEnds_failOwner ..
    · split
      · exact pathEnds_endContrib ..
      · dsimp only
        split
        next x hbad => exact pathEnds_scrUe m (netBad_unsound hbad) ..
        · exact pathEnds_endContrib ..

theorem pathEnds_touchRuns (m : Nat) (s : State) (i : Nat) (runs : List (Nat × Nat)) : PathEnds m s (touchRuns s i runs) := by
  refine .foldl _ (fun s x => ?_) _ _
  extract_lets s1 s2
  obtain ⟨lines, ss, hcache⟩ := cacheAccess_eq s i (regionAddr s i x.1) x.2 false true
  have h1 : lanes s1 = lanes s ∧ s1.arrays = s.arrays := by
    rw [show s1 = _ from hcache]
    exact ⟨rfl, rfl⟩
  have h2 : PathEnds m s s2 := .of_lanes h1.1 fun hb => hb.of_arrays h1.2
  refine h2.trans (.foldl _ (fun s p => .of_lanes (lanes_of_offTasks (offTasks_mergeAccess ..)) fun hb => hb.of_arrays ?_) _ _)
  unfold mergeAccess
  dsimp only
  split <;> rfl

/-! ### The end of a thin task (R285) -/

/-- A path that is free again, its task, cycles and bytes counted. -/
def pathFreed (n : Nat) (c : Contrib) (p : PathU) : PathU :=
  { p with
    run := [], rows := 0, cycles := p.cycles + BitVec.ofNat 64 n, tasks := p.tasks + 1,
    bytes := p.bytes + BitVec.ofNat 64 (thinBytes (thinDesc c.desc)) }

/-- The state once a clean task's contributors have ended. -/
def contribsEnded (s : State) (m n : Nat) (c : Contrib) (cs : List Contrib) : State :=
  let s := modPath s m (pathFreed n c)
  let s := chargeContribs s cs .mvp (poolMvp s m) (cyclesNs n (mvpMHz s m))
  cs.foldl (fun s x => contribEnd (match x.owner with | .job .. => countOut s x | .net _ => s) x false .clean none)
    (touchRuns s c.stall (memRuns cs))

theorem pathEnds_contribsEnded (s : State) (m n : Nat) (c : Contrib) (cs : List Contrib) :
    PathEnds m (modPath s m (pathFreed n c)) (contribsEnded s m n c cs) := by
  unfold contribsEnded
  extract_lets s1 s2
  have hcharge : PathEnds m s1 s2 := .of_lanes (lanes_of_offTasks (offTasks_chargeContribs ..)) fun hb =>
    hb.of_holdings (holdings_of_hardware (hardware_of_benches (benches_chargeContribs ..) (mem_chargeContribs ..)))
  refine (hcharge.trans (pathEnds_touchRuns ..)).trans (.foldl _ (fun s x => ?_) _ _)
  refine .trans ?_ (pathEnds_contribEnd ..)
  split <;> exact .of_holdings rfl rfl

/-- A path whose clock is set. -/
def pathClocked (f : BitVec 6) (p : PathU) : PathU := { p with freq := f }

/-- A change held for a path is made on its clock (R56). -/
theorem settleUnit_path (s : State) (m : Nat) :
    lanes (settleUnit s 3 m) = lanes s ∨ ∃ f, lanes (settleUnit s 3 m) = lanes (modPath s m (pathClocked f)) := by
  unfold settleUnit
  split
  · exact .inr ⟨_, lanes_settleRails _⟩
  · exact .inl rfl

/-- What follows the end of a thin task: held changes, stablings that waited for it, and the backlogs. -/
theorem thinSettled (s : State) (m : Nat) : ∃ f, getPath (refreshBacklog (settleMoves (settleUnit s 3 m))) m = pathClocked f (getPath s m)
    ∧ (∀ k, k ≠ m → getPath (refreshBacklog (settleMoves (settleUnit s 3 m))) k = getPath s k)
    ∧ (refreshBacklog (settleMoves (settleUnit s 3 m))).cores = s.cores := by
  have h : lanes (refreshBacklog (settleMoves (settleUnit s 3 m))) = lanes (settleUnit s 3 m) :=
    lanes_of_offTasks (by rw [offTasks_refreshBacklog, offTasks_settleMoves])
  obtain hsame | ⟨f, hset⟩ := settleUnit_path s m
  · have ht := h.trans hsame
    exact ⟨(getPath s m).freq, getPath_of_lanes ht m, fun k _ => getPath_of_lanes ht k, cores_of_lanes ht⟩
  · have ht := h.trans hset
    exact ⟨f, (getPath_of_lanes ht m).trans (getPath_modPath ..), fun k hk => (getPath_of_lanes ht k).trans (getPath_modPath_ne _ _ hk.symm),
      (cores_of_lanes ht).trans rfl⟩

theorem exec_thinTaskEnd {s : State} {path : Fin 4} {c : Contrib} {rest : List Contrib} (hrun : (getPath s path.val).run = c :: rest) (cycles : W32) :
    exec (.thinTaskEnd path cycles .clean .clean .clean) s = .next (refreshBacklog (settleMoves (settleUnit
      (contribsEnded s path.val (thinTaskCycles (c :: rest) cycles.toNat) c (c :: rest)) 3 path.val))) := by
  show execThinTaskEnd path cycles .clean s .clean .clean = _
  unfold execThinTaskEnd
  dsimp only
  rw [hrun]
  dsimp only [memMet]
  simp only [Bool.false_and, Bool.false_eq_true, if_false, regather, List.contains_nil, Bool.not_false, List.filter_true]
  rfl

/-- R285: the second part of O22. -/
theorem thinTaskEnd_frees (s : State) (path : Fin 4) (cycles : W32) (c : Contrib) (rest : List Contrib)
    (hrun : (getPath s path.val).run = c :: rest) :
    ∃ t, exec (.thinTaskEnd path cycles .clean .clean .clean) s = .next t ∧ (getPath t path.val).run = [] ∧ (getPath t path.val).rows = 0
      ∧ (getPath t path.val).tasks = (getPath s path.val).tasks + 1
      ∧ (getPath t path.val).bytes = (getPath s path.val).bytes + BitVec.ofNat 64 (thinBytes (thinDesc c.desc))
      ∧ ((∀ n, (getArr s n).ueRsv = []) → ∀ m, m ≠ path.val → getPath t m = getPath s m) ∧ t.cores = s.cores := by
  have hex := exec_thinTaskEnd hrun cycles
  have hends := pathEnds_contribsEnded s path.val (thinTaskCycles (c :: rest) cycles.toNat) c (c :: rest)
  generalize thinTaskCycles (c :: rest) cycles.toNat = n at *
  have hfreed : getPath (modPath s path.val (pathFreed n c)) path.val = pathFreed n c (getPath s path.val) := getPath_modPath ..
  have hidle := (hends.path (by rw [hfreed]; rfl)).trans hfreed
  obtain ⟨f, hself, hothers, hcores⟩ := thinSettled (contribsEnded s path.val n c (c :: rest)) path.val
  rw [hidle] at hself
  refine ⟨_, hex, (congrArg PathU.run hself).trans rfl, (congrArg PathU.rows hself).trans rfl, (congrArg PathU.tasks hself).trans rfl,
    (congrArg PathU.bytes hself).trans rfl, fun hsound m hm => ?_, hcores.trans hends.cores⟩
  obtain ⟨-, hpaths⟩ := hends.sound hsound
  rw [hothers m hm, getPath, hpaths]
  exact getPath_modPath_ne _ _ hm.symm

end Sys2Proof.Machine
end

section
/-!
PROOFS. Chapter 10, the quick dismount and the return from it (R335 to R339, R353).
-/
namespace Sys2Proof.Machine

/-! ### The request (Table 10-3 step 1) -/

/-- R335: the third part of O22, its request. -/
theorem quickDismount_requests (s : State) (arr : Fin 8) (husable : arrUsable s arr.val = true) (hctx : (getArr s arr.val).ctx = .main)
    (hreserve : hasReserve s arr.val = true) (howner : (getArr s arr.val).rsvStall.isSome = true) :
    ∃ t, exec (.quickDismount arr) s = .next t ∧ (getArr t arr.val).ctx = .requested ∧ (getArr t arr.val).main = (getArr s arr.val).main
      ∧ (∀ m, m ≠ arr.val → getArr t m = getArr s m) ∧ t = { s with arrays := t.arrays } := by
  have hex : exec (.quickDismount arr) s = .next (modArr s arr.val (fun a => { a with ctx := .requested })) := by
    show execQuickDismount arr s = _
    unfold execQuickDismount
    dsimp only
    rw [husable, hctx, hreserve, howner]
    rfl
  refine ⟨_, hex, ?_, ?_, fun m hm => getArr_modArr_ne _ _ hm.symm, rfl⟩ <;> rw [getArr_modArr]

/-! ### The switch (steps 3 to 6) -/

theorem modArr_modVec_eq (s : State) (n : Nat) (g : VecU → VecU) (f : ArrayU → ArrayU) :
    ∃ as, modArr (modVec s n g) n f = { s with arrays := as, vecs := (modVec s n g).vecs } := ⟨_, rfl⟩

/-- An engine that saves its tile buffers and head flags. -/
def engineSaved (v : VecU) : VecU := { v with saveTb := v.tb, saveHf := v.hf, ueSaveTb := v.ueTb, ueSaveHf := v.ueHf }

/-- An array whose reserve context is selected, after a dismount of `took` ns. -/
def toReserve (took : Nat) (a : ArrayU) : ArrayU :=
  { a with
    ctx := .reserve, parkedMain := a.lastMain, parkedRsv := [], dismounts := a.dismounts + 1,
    dismountMax := if a.dismountMax.toNat < took then BitVec.ofNat 16 (min took 0xFFFF) else a.dismountMax }

/-- The switch changes the array and its engine, and charges the reserve context's stall. -/
theorem exec_dismountSwitch {s : State} {arr : Fin 8} (ns : W16) (hctx : (getArr s arr.val).ctx = .requested) (hidle : bothIdle s arr.val = true) :
    ∃ took ss, exec (.dismountSwitch arr ns) s
      = .next { modArr (modVec s arr.val engineSaved) arr.val (toReserve took) with stalls := ss } := by
  refine ⟨max ns.toNat (switchNs s arr.val), ?_⟩
  show ∃ ss, execDismountSwitch arr ns s = _
  unfold execDismountSwitch
  dsimp only
  rw [hctx, hidle, if_pos (show (decide (CtxPhase.requested = .requested) && true) = true from rfl)]
  split <;> exact ⟨_, rfl⟩

/-- R337: the third part of O22, its switch. -/
theorem dismountSwitch_switches (s : State) (arr : Fin 8) (ns : W16) (hctx : (getArr s arr.val).ctx = .requested)
    (hidle : bothIdle s arr.val = true) :
    ∃ t, exec (.dismountSwitch arr ns) s = .next t ∧ (getArr t arr.val).ctx = .reserve
      ∧ (getArr t arr.val).dismounts = (getArr s arr.val).dismounts + 1
      ∧ (getArr t arr.val).parkedMain = (getArr s arr.val).lastMain
      ∧ (getVec t arr.val).saveTb = (getVec s arr.val).tb ∧ (getVec t arr.val).saveHf = (getVec s arr.val).hf
      ∧ (getArr t arr.val).main = (getArr s arr.val).main ∧ t = { s with arrays := t.arrays, vecs := t.vecs, stalls := t.stalls } := by
  obtain ⟨took, ss, hex⟩ := exec_dismountSwitch ns hctx hidle
  have harr := getArr_modArr (modVec s arr.val engineSaved) arr.val (toReserve took)
  have hvec := getVec_modVec s arr.val engineSaved
  obtain ⟨as, hunits⟩ := modArr_modVec_eq s arr.val engineSaved (toReserve took)
  rw [getArr_modVec, hunits] at harr
  rw [hunits] at hex
  exact ⟨_, hex, (congrArg ArrayU.ctx harr :), (congrArg ArrayU.dismounts harr :), (congrArg ArrayU.parkedMain harr :),
    (congrArg VecU.saveTb hvec :), (congrArg VecU.saveHf hvec :), (congrArg ArrayU.main harr :), rfl⟩

/-! ### A switch that overruns (R353) -/

theorem benches_failCarriersOn (s : State) (n cause : Nat) : benches (failCarriersOn s n cause) = benches s := by
  refine foldl_keep benches _ (fun s c => ?_) _ _
  split
  · split
    · exact benches_failInv ..
    · rfl
  · rfl

/-- R353: the third part of O22, its fault. -/
theorem dismountFault_fences (s : State) (arr : Fin 8) (hctx : (getArr s arr.val).ctx = .requested) (hidle : bothIdle s arr.val = true)
    (husable : arrUsable s arr.val = true) :
    ∃ t, exec (.dismountFault arr) s = .next t ∧ t.fencing.fenced = setBit s.fencing.fenced arr.val true ∧ t.fencing.lastCause = 2
      ∧ t.mem.hbm = s.mem.hbm := by
  let e : Event := { code := 0x100C, kind := 1, unit := BitVec.ofNat 8 arr.val, data := [2] }
  have hex : exec (.dismountFault arr) s = .next (fenceOp (failCarriersOn (report s e) arr.val 0x11) arr.val 2) := by
    show execDismountFault arr s = _
    unfold execDismountFault
    dsimp only
    rw [hctx, hidle]
    rfl
  have hbenches : benches (failCarriersOn (report s e) arr.val 0x11) = benches s := (benches_failCarriersOn ..).trans (benches_report ..)
  have husable' : arrUsable (failCarriersOn (report s e) arr.val 0x11) arr.val = true := by
    rw [arrUsable_of_eq ((still_failCarriersOn ..).trans (still_report ..)) (fencing_of_benches hbenches)
      (congrArg ArrayU.fencing (getArr_of_benches hbenches arr.val)), husable]
  have hfen := fenceOp_fencing 2 husable'
  rw [fencing_of_benches hbenches] at hfen
  exact ⟨_, hex, congrArg Fencing.fenced hfen, congrArg Fencing.lastCause hfen, hbm_of_next rfl hex⟩

/-! ### The return (R339) -/

/-- An engine that takes back what it saved. -/
def engineRestored (v : VecU) : VecU := { v with tb := v.saveTb, hf := v.saveHf, ueTb := v.ueSaveTb, ueHf := v.ueSaveHf }

/-- An array whose main context resumes. -/
def toMain (a : ArrayU) : ArrayU := { a with ctx := .main, parkedRsv := a.lastRsv, parkedMain := [] }

theorem exec_contextReturn {s : State} {arr : Fin 8} (hctx : (getArr s arr.val).ctx = .reserve) (hidle : bothIdle s arr.val = true)
    (hreserve : hasReserve s arr.val = false) :
    ∃ ss, exec (.contextReturn arr .clean) s = .next { modArr (modVec s arr.val engineRestored) arr.val toMain with stalls := ss } := by
  show ∃ ss, execContextReturn arr s .clean = _
  unfold execContextReturn
  dsimp only
  rw [hctx, hidle, hreserve, if_pos (show (decide (CtxPhase.reserve = .reserve) && true && !false) = true from rfl)]
  split
  next i _ =>
    obtain ⟨ss, hss⟩ := refreshBacklog_eq (modStall (modArr (modVec s arr.val engineRestored) arr.val toMain) i
      (fun st => chargeStall st .switch false (returnNs s arr.val)))
    exact ⟨ss, congrArg Host.Outcome.next hss⟩
  next =>
    obtain ⟨ss, hss⟩ := refreshBacklog_eq (modArr (modVec s arr.val engineRestored) arr.val toMain)
    exact ⟨ss, congrArg Host.Outcome.next hss⟩

/-- R339: the third part of O22, its return. -/
theorem contextReturn_returns (s : State) (arr : Fin 8) (hctx : (getArr s arr.val).ctx = .reserve) (hidle : bothIdle s arr.val = true)
    (hreserve : hasReserve s arr.val = false) :
    ∃ t, exec (.contextReturn arr .clean) s = .next t ∧ (getArr t arr.val).ctx = .main ∧ (getVec t arr.val).tb = (getVec s arr.val).saveTb
      ∧ (getVec t arr.val).hf = (getVec s arr.val).saveHf ∧ (getArr t arr.val).parkedRsv = (getArr s arr.val).lastRsv
      ∧ (getArr t arr.val).main = (getArr s arr.val).main ∧ t = { s with arrays := t.arrays, vecs := t.vecs, stalls := t.stalls } := by
  obtain ⟨ss, hex⟩ := exec_contextReturn hctx hidle hreserve
  have harr := getArr_modArr (modVec s arr.val engineRestored) arr.val toMain
  have hvec := getVec_modVec s arr.val engineRestored
  obtain ⟨as, hunits⟩ := modArr_modVec_eq s arr.val engineRestored toMain
  rw [getArr_modVec, hunits] at harr
  rw [hunits] at hex
  exact ⟨_, hex, (congrArg ArrayU.ctx harr :), (congrArg VecU.tb hvec :), (congrArg VecU.hf hvec :), (congrArg ArrayU.parkedRsv harr :),
    (congrArg ArrayU.main harr :), rfl⟩

end Sys2Proof.Machine
end

section
/-!
PROOFS. Chapter 10, stabling, restore, and the migration off an array to be parked (R340 to R343, R600).
-/
namespace Sys2Proof.Machine

/-! ### What the operations of a stabling leave alone -/

theorem regionAddr_of_offTasks {s t : State} (h : offTasks t = offTasks s) (i x : Nat) : regionAddr t i x = regionAddr s i x :=
  (congrArg (fun u => regionAddr u i x) h :)

theorem stableSlotAt_of_offTasks {s t : State} (h : offTasks t = offTasks s) (i n : Nat) : stableSlotAt t i n = stableSlotAt s i n :=
  (congrArg (fun u => stableSlotAt u i n) h :)

theorem power_of_offTasks {s t : State} (h : offTasks t = offTasks s) : t.power = s.power := (congrArg State.power h :)

theorem hardware_countDev (s : State) (i xfers rd wr : Nat) : hardware (countDev s i xfers rd wr) = hardware s := by
  unfold countDev
  dsimp only
  split <;> rfl

theorem benches_countDev (s : State) (i xfers rd wr : Nat) : benches (countDev s i xfers rd wr) = benches s := by
  unfold countDev
  dsimp only
  rw [benches_modStall _ _ _ (by intro x; rfl)]
  split <;> rfl

theorem benches_regionWrite (s : State) (i x : Nat) (bs : List Byte) (alloc : Bool) : benches (regionWrite s i x bs alloc) = benches s := by
  have hcache : benches (cacheAccess s i (regionAddr s i x) bs.length true alloc) = benches s := by
    refine foldl_keep benches _ (fun s l => ?_) _ _
    exact (benches_modStall _ _ _ (by intro x; split <;> rfl)).trans rfl
  exact hcache

/-- Feeders that look again leave the stalls and the units as they are. -/
theorem hardware_wakeFeeders (s : State) : hardware (wakeFeeders s) = hardware s := by
  refine foldl_keep hardware _ (fun s f => ?_) _ _
  exact hardware_of_benches (benches_nextPiece ..) (mem_nextPiece ..)

theorem getStall_wakeFeeders (s : State) (k : Nat) : getStall (wakeFeeders s) k = getStall s k :=
  foldl_keep (fun s => getStall s k) _ (fun s f => getStall_nextPiece s f k) _ _

/-- What follows a stabling or a restore leaves the units as they are. -/
theorem hardware_woken (s : State) : hardware (refreshBacklog (wakeFeeders s)) = hardware s :=
  (hardware_refreshBacklog _).trans (hardware_wakeFeeders s)

theorem offTasks_woken (s : State) : offTasks (refreshBacklog (wakeFeeders s)) = offTasks s :=
  (offTasks_refreshBacklog _).trans (offTasks_wakeFeeders s)

theorem keeps_woken {β : Type} (p : Stall → β)
    (h : ∀ (x : Stall) (ba bm : Bool) (va vp : W64), p { x with backlogArr := ba, backlogMvp := bm, va := va, vp := vp } = p x)
    (s : State) (k : Nat) : p (getStall (refreshBacklog (wakeFeeders s)) k) = p (getStall s k) := by
  rw [keeps_refreshBacklog p h, getStall_wakeFeeders]

/-! ### The runs of a stall that move out (R268, R343) -/

/-- A run leaves its array, to wait for a restore. -/
def moveOut (i : Nat) (s : State) (r : Run) : State :=
  modRun (displaceRun s i r.queue r.seq) (.job i r.queue r.seq) (fun r => { r with stabled := true })

theorem offTasks_moveOut (i : Nat) (s : State) (r : Run) : offTasks (moveOut i s r) = offTasks s := by
  rw [moveOut, offTasks_modRun_job, offTasks_displaceRun]

theorem hardware_moveOut (i : Nat) (s : State) (r : Run) : hardware (moveOut i s r) = hardware s := by
  rw [moveOut, hardware_modRun, hardware_displaceRun]

theorem workStops_stabled (s : State) (i q : Nat) (seq : W32) : WorkStops s (modRun s (.job i q seq) (fun r => { r with stabled := true })) :=
  workStops_modRun _ _ _ _ _ (fun _ => rfl) (fun _ => rfl) fun _ _ h => h

theorem workStops_moveOut (i : Nat) (s : State) (r : Run) : WorkStops s (moveOut i s r) :=
  (workStops_displaceRun s i r.queue r.seq).trans (workStops_stabled ..)

/-- Once a stall's runs on an array have moved out, none is placed there. -/
theorem moveOutAll_unplaces (s : State) (i n : Nat) : ∀ r ∈ (getStall ((stallRunsOn s i n).foldl (moveOut i) s) i).runs, r.array ≠ some n := by
  intro r hr hn
  have hstops : WorkStops s ((stallRunsOn s i n).foldl (moveOut i) s) := .foldl _ (workStops_moveOut i) _ _
  obtain ⟨r', hr', hq, hseq, hn'⟩ := hstops.runs i r hr n hn
  have hmem : r' ∈ stallRunsOn s i n := List.mem_filter.2 ⟨hr', by rw [hn']; exact beq_self_eq_true _⟩
  have hall : Unplaced i r'.queue r'.seq ((stallRunsOn s i n).foldl (moveOut i) s) :=
    foldl_reaches (moveOut i) (fun _ => True) (Unplaced i r'.queue r'.seq) (fun _ _ _ => trivial)
      (fun t x _ ht => ht.of_stops (workStops_moveOut i t x))
      (fun t _ => (unplaced_displaceRun t i r'.queue r'.seq).of_stops (workStops_stabled ..)) hmem trivial
  rw [hall r hr hq.symm hseq.symm] at hn
  cases hn

/-! ### The end of a stabling (R343) -/

/-- An array whose tokens `ts` read zero and are free, with no stabling under way. -/
def tokensFreed (ts : List Nat) (a : ArrayU) : ArrayU := { dropTokens (zeroTokens a ts) ts with moving := none, granting := none }

theorem tget_dropped (ts : List Nat) (tokens : Table (Option Nat)) (k : Nat) :
    tget none (ts.foldl (fun t k => tset none t k none) tokens) k = if k ∈ ts then none else tget none tokens k := by
  induction ts generalizing tokens with
  | nil => rfl
  | cons x ts ih =>
    rw [List.foldl_cons, ih, tget_tset]
    by_cases hx : x = k
    · subst hx
      simp
    · simp [hx, Ne.symm hx]

/-- A stall that gave up the tokens it held holds none. -/
theorem heldTokens_freed (a : ArrayU) (i : Nat) : heldTokens (tokensFreed (heldTokens a i) a) i = [] := by
  refine List.filter_eq_nil_iff.2 fun k hk hheld => ?_
  have htokens : (tokensFreed (heldTokens a i) a).tokens = (heldTokens a i).foldl (fun t k => tset none t k none) a.tokens := rfl
  rw [htokens, tget_dropped, decide_eq_true_eq] at hheld
  split at hheld
  · cases hheld
  next hnot => exact hnot (List.mem_filter.2 ⟨hk, decide_eq_true hheld⟩)

/-- The image written to the stable slot and listed with its stall. -/
def imageStored (s : State) (i n : Nat) (img : StableImage) : State :=
  modStall (regionWrite s i (stableSlotAt s i n) (imageData img) false) i (fun st => { st with images := tset none st.images n (some img) })

theorem offTasks_imageStored (s : State) (i n : Nat) (img : StableImage) : offTasks (imageStored s i n img) = offTasks s :=
  (offTasks_modStall ..).trans (offTasks_regionWrite ..)

/-- The stall charged for a stabling whose image holds `size` bytes, the transfer counted (R328, R343). -/
def stablingCharged (s : State) (i ns size : Nat) : State :=
  countDev (modStall s i (fun st => chargeStall st .stable false (max ns (ceilDiv size (384 * max 1 (stallFeeders s i)))))) i 1 0 size

/-- The state in which the image is written: the stall is charged, and its runs on the array have moved out. -/
def movedOut (s : State) (n i ns : Nat) : State :=
  (stallRunsOn s i n).foldl (moveOut i) (stablingCharged s i ns (imageBytes (heldTokens (getArr s n) i).length))

theorem offTasks_stablingCharged (s : State) (i ns size : Nat) : offTasks (stablingCharged s i ns size) = offTasks s :=
  (offTasks_countDev ..).trans (offTasks_modStall ..)

theorem hardware_stablingCharged (s : State) (i ns size : Nat) : hardware (stablingCharged s i ns size) = hardware s :=
  (hardware_countDev ..).trans (hardware_modStall ..)

theorem benches_stablingCharged (s : State) (i ns size : Nat) : benches (stablingCharged s i ns size) = benches s :=
  (benches_countDev ..).trans (benches_modStall _ _ _ (by intro x; rfl))

theorem offTasks_movedOut (s : State) (n i ns : Nat) : offTasks (movedOut s n i ns) = offTasks s :=
  (foldl_keep offTasks _ (offTasks_moveOut i) _ _).trans (offTasks_stablingCharged ..)

theorem hardware_movedOut (s : State) (n i ns : Nat) : hardware (movedOut s n i ns) = hardware s :=
  (foldl_keep hardware _ (hardware_moveOut i) _ _).trans (hardware_stablingCharged ..)

theorem movedOut_unplaces (s : State) (n i ns : Nat) : ∀ r ∈ (getStall (movedOut s n i ns) i).runs, r.array ≠ some n := by
  have hruns : stallRunsOn s i n = stallRunsOn (stablingCharged s i ns (imageBytes (heldTokens (getArr s n) i).length)) i n := by
    rw [stallRunsOn, stallRunsOn, runs_of_benches (benches_stablingCharged ..)]
  rw [movedOut, hruns]
  exact moveOutAll_unplaces _ i n

/-- `v` is `s` once a stall's image on array `n` is written and listed, its runs moved out. -/
structure ImageWritten (n i : Nat) (img : StableImage) (s v : State) : Prop where
  off : offTasks v = offTasks s
  arr : ∀ m, getArr v m = getArr s m
  vecs : v.vecs = s.vecs
  hbm : v.mem.hbm = devPut s.mem.hbm (regionAddr s i (stableSlotAt s i n)) (imageData img)
  image : tget none (getStall v i).images n = some img
  runs : ∀ r ∈ (getStall v i).runs, r.array ≠ some n

theorem imageWritten_movedOut (s : State) (n i ns : Nat) (img : StableImage) : ImageWritten n i img s (imageStored (movedOut s n i ns) i n img) := by
  have hout := offTasks_movedOut s n i ns
  have hkept := hardware_movedOut s n i ns
  have hunplaced := movedOut_unplaces s n i ns
  generalize movedOut s n i ns = w at *
  have hstored : benches (imageStored w i n img) = benches w :=
    (benches_modStall _ _ _ (by intro x; rfl)).trans (benches_regionWrite ..)
  refine ⟨(offTasks_imageStored ..).trans hout, fun m => (getArr_of_benches hstored m).trans (getArr_of_hardware hkept m),
    (vecs_of_benches hstored).trans (vecs_of_hardware hkept), ?_, ?_, ?_⟩
  · rw [imageStored, modStall_mem, regionWrite_hbm, mem_of_hardware hkept, regionAddr_of_offTasks hout, stableSlotAt_of_offTasks hout]
  · rw [imageStored, getStall_modStall, tget_tset_same]
  · rw [runs_of_benches hstored]
    exact hunplaced

theorem stablingDone_eq {s : State} {n i : Nat} (ns : Nat) (hue : imageUe s n (heldTokens (getArr s n) i) = false)
    (hpark : s.power.toPark.getLsbD n = false) :
    stablingDone s n i ns false none = wakeFeeders (modArr (imageStored (movedOut s n i ns) i n (makeImage s n i (heldTokens (getArr s n) i))) n
      (tokensFreed (heldTokens (getArr s n) i))) := by
  have hpower : (imageStored (movedOut s n i ns) i n (makeImage s n i (heldTokens (getArr s n) i))).power = s.power :=
    power_of_offTasks ((offTasks_imageStored ..).trans (offTasks_movedOut ..))
  unfold stablingDone
  extract_lets ts img size bad rs s1 s2 s3 s4 s5 s6 s7
  have hbad : bad = false := by
    show (false || imageUe s n ts) = false
    rw [hue]
    rfl
  have h3 : s3 = movedOut s n i ns := by
    show rs.foldl _ s2 = rs.foldl (moveOut i) s2
    rw [hbad]
    rfl
  have h5 : s5 = modArr (imageStored (movedOut s n i ns) i n img) n (tokensFreed ts) := by
    show modArr s4 n _ = _
    rw [show s4 = imageStored (movedOut s n i ns) i n img by
      show (if bad = true then s3 else _) = _
      rw [hbad, h3]
      rfl]
    rfl
  have h7 : s7 = s5 := if_neg (show ¬ s5.power.toPark.getLsbD n = true by rw [h5, modArr_power, hpower, hpark]; decide)
  rw [h7, h5]

section
variable {s : State} {arr : Fin 8} {stall : Fin 16}

theorem exec_stablingDone (ns : W32) (hmoving : (getArr s arr.val).moving = some { holder := stall.val, grantee := none })
    (hbusy : stallBusyOn s arr.val stall.val = false) (hctx : (getArr s arr.val).ctx = .main) (hdev : (devFeeder s stall.val).isSome = true) :
    exec (.stablingDone arr stall ns false) s = .next (refreshBacklog (stablingDone s arr.val stall.val ns.toNat false none)) := by
  show execStablingDone arr stall ns false s = _
  unfold execStablingDone
  rw [hmoving]
  dsimp only
  rw [if_pos ⟨rfl, hbusy, hctx, hdev⟩]

/-- R343: the last part of O22, a stabling's end. -/
theorem stablingDone_writes (stall : Fin 16) (ns : W32) (hmoving : (getArr s arr.val).moving = some { holder := stall.val, grantee := none })
    (hbusy : stallBusyOn s arr.val stall.val = false) (hctx : (getArr s arr.val).ctx = .main) (hdev : (devFeeder s stall.val).isSome = true)
    (hpark : s.power.toPark.getLsbD arr.val = false) (hue : imageUe s arr.val (heldTokens (getArr s arr.val) stall.val) = false) :
    ∃ t img, exec (.stablingDone arr stall ns false) s = .next t
      ∧ img = makeImage s arr.val stall.val (heldTokens (getArr s arr.val) stall.val)
      ∧ tget none (getStall t stall.val).images arr.val = some img
      ∧ t.mem.hbm = devPut s.mem.hbm (regionAddr s stall.val (stableSlotAt s stall.val arr.val)) (imageData img)
      ∧ (getArr t arr.val).moving = none ∧ heldTokens (getArr t arr.val) stall.val = []
      ∧ (∀ r ∈ (getStall t stall.val).runs, r.array ≠ some arr.val)
      ∧ (∀ m, m ≠ arr.val → getArr t m = getArr s m)
      ∧ t = { s with arrays := t.arrays, stalls := t.stalls, feeders := t.feeders, mem := t.mem } := by
  have hex := exec_stablingDone ns hmoving hbusy hctx hdev
  rw [stablingDone_eq ns.toNat hue hpark] at hex
  generalize makeImage s arr.val stall.val (heldTokens (getArr s arr.val) stall.val) = img at *
  obtain ⟨hoff, harr, hvecs, hhbm, himage, hruns⟩ := imageWritten_movedOut s arr.val stall.val ns.toNat img
  generalize imageStored (movedOut s arr.val stall.val ns.toNat) stall.val arr.val img = v at *
  have hwoken := hardware_woken (modArr v arr.val (tokensFreed (heldTokens (getArr s arr.val) stall.val)))
  have hself := getArr_of_hardware hwoken arr.val
  rw [getArr_modArr, harr] at hself
  refine ⟨_, img, hex, rfl, ?_, ?_, (congrArg ArrayU.moving hself).trans rfl, ?_, ?_, fun m hm => ?_, ?_⟩
  · rw [keeps_woken Stall.images fun _ _ _ _ _ => rfl]
    exact himage
  · rw [mem_of_hardware hwoken, modArr_mem, hhbm]
  · rw [hself, heldTokens_freed]
  · rw [keeps_woken Stall.runs fun _ _ _ _ _ => rfl]
    exact hruns
  · rw [getArr_of_hardware hwoken, getArr_modArr_ne _ _ hm.symm, harr]
  · have heq := eq_of_offTasks ((offTasks_woken (modArr v arr.val (tokensFreed (heldTokens (getArr s arr.val) stall.val)))).trans hoff)
    rw [(vecs_of_hardware hwoken).trans hvecs] at heq
    exact heq

end

/-! ### The runs of an image go on (R303, R343) -/

/-- A run that is placed again on array `n`, with event set `k`. -/
def runPlaced (n k now : Nat) (r : Run) : Run := { r with array := some n, evSet := k, stabled := false, idleSince := now }

/-- An array that takes back the slots that a run of an image has parked. -/
def slotsBack (ts : List Nat) (e : StabledRun) (a : ArrayU) : ArrayU :=
  { a with parkedMain := a.parkedMain ++ e.parked.map (fun p => 32 * ts.getD (p / 32) 0 + p % 32) }

/-- The step of `resumeImage` at a run that waits. -/
def runResumed (n i : Nat) (ts : List Nat) (s : State) (e : StabledRun) : State :=
  modRun (modArr (evMod s n (freeSet s n) (fun _ => e.events)) n (slotsBack ts e)) (.job i e.queue e.seq) (runPlaced n (freeSet s n) s.now)

/-- A run of an image goes on where it waits for it. -/
def resumeRun (n i : Nat) (ts : List Nat) (s : State) (e : StabledRun) : State :=
  if (getRun s (.job i e.queue e.seq)).any (·.stabled) then runResumed n i ts s e else s

theorem resumeImage_eq (s : State) (n i : Nat) (img : StableImage) (ts : List Nat) :
    resumeImage s n i img ts = img.runs.foldl (resumeRun n i ts) s := by
  unfold resumeImage
  congr 1
  funext s e
  unfold resumeRun
  cases getRun s (.job i e.queue e.seq) with
  | none => rfl
  | some r =>
    dsimp only [Option.any_some]
    by_cases hwaits : r.stabled = true
    · rw [if_neg (by rw [hwaits]; decide), if_pos hwaits]
      rfl
    · rw [if_pos (by simpa using hwaits), if_neg hwaits]

/-- The run of an image's entry no longer waits. -/
def Resumed (i : Nat) (e : StabledRun) (s : State) : Prop := ∀ r, getRun s (.job i e.queue e.seq) = some r → r.stabled = false

theorem getRun_modRun_map (s : State) (i q q' : Nat) (seq seq' : W32) (f : Run → Run) (hq : ∀ r, (f r).queue = r.queue)
    (hs : ∀ r, (f r).seq = r.seq) : getRun (modRun s (.job i q' seq') f) (.job i q seq)
      = (getRun s (.job i q seq)).map (fun r => if isRun q' seq' r then f r else r) := by
  have hsame : isRun q seq ∘ (fun r => if isRun q' seq' r then f r else r) = isRun q seq := by
    funext x
    simp only [Function.comp_apply]
    split
    · simp only [isRun, hq, hs]
    · rfl
  unfold getRun
  dsimp only
  rw [runs_modRun, if_pos rfl, List.find?_map, hsame]

theorem getRun_runResumed (n i : Nat) (ts : List Nat) (s : State) (e e' : StabledRun) :
    getRun (runResumed n i ts s e') (.job i e.queue e.seq) = (getRun s (.job i e.queue e.seq)).map
      (fun r => if isRun e'.queue e'.seq r then runPlaced n (freeSet s n) s.now r else r) :=
  getRun_modRun_map _ i _ _ _ _ (runPlaced n (freeSet s n) s.now) (fun _ => rfl) fun _ => rfl

theorem Resumed.resumeRun {i : Nat} {e : StabledRun} {s : State} (h : Resumed i e s) (n : Nat) (ts : List Nat) (e' : StabledRun) :
    Resumed i e (resumeRun n i ts s e') := by
  unfold Machine.resumeRun
  split
  · intro r hr
    rw [getRun_runResumed] at hr
    obtain ⟨r', hr', rfl⟩ := Option.map_eq_some_iff.1 hr
    split
    · rfl
    · exact h r' hr'
  · exact h

theorem resumed_resumeRun (n i : Nat) (ts : List Nat) (s : State) (e : StabledRun) : Resumed i e (resumeRun n i ts s e) := by
  unfold resumeRun
  split
  · intro r hr
    rw [getRun_runResumed] at hr
    obtain ⟨r', hr', rfl⟩ := Option.map_eq_some_iff.1 hr
    have hfound : isRun e.queue e.seq r' = true := List.find?_some hr'
    rw [if_pos hfound]
    rfl
  next hwaits =>
    intro r hr
    rw [hr] at hwaits
    simpa using hwaits

/-- What the end of a restore leaves alone: the memory, the other arrays, and the images listed with the stall. -/
structure RestoreKeeps (n i : Nat) (s t : State) : Prop where
  off : offTasks t = offTasks s
  mem : t.mem = s.mem
  others : ∀ m, m ≠ n → getArr t m = getArr s m
  images : (getStall t i).images = (getStall s i).images

theorem RestoreKeeps.refl {n i : Nat} (s : State) : RestoreKeeps n i s s := ⟨rfl, rfl, fun _ _ => rfl, rfl⟩

theorem RestoreKeeps.trans {n i : Nat} {s t u : State} (h : RestoreKeeps n i s t) (k : RestoreKeeps n i t u) : RestoreKeeps n i s u :=
  ⟨k.off.trans h.off, k.mem.trans h.mem, fun m hm => (k.others m hm).trans (h.others m hm), k.images.trans h.images⟩

theorem restoreKeeps_modArr (n i : Nat) (s : State) (f : ArrayU → ArrayU) : RestoreKeeps n i s (modArr s n f) :=
  ⟨rfl, rfl, fun _ hm => getArr_modArr_ne _ _ hm.symm, rfl⟩

theorem restoreKeeps_modVec (n i : Nat) (s : State) (f : VecU → VecU) : RestoreKeeps n i s (modVec s n f) := ⟨rfl, rfl, fun _ _ => rfl, rfl⟩

theorem restoreKeeps_modRun (n i q : Nat) (s : State) (seq : W32) (f : Run → Run) : RestoreKeeps n i s (modRun s (.job i q seq) f) :=
  ⟨rfl, rfl, fun _ _ => rfl, keeps_modStall Stall.images s i _ (by intro x; rfl) i⟩

theorem restoreKeeps_resumeRun (n i : Nat) (ts : List Nat) (s : State) (e : StabledRun) : RestoreKeeps n i s (resumeRun n i ts s e) := by
  unfold resumeRun
  split
  · unfold runResumed evMod
    exact ((restoreKeeps_modArr ..).trans (restoreKeeps_modArr ..)).trans (restoreKeeps_modRun ..)
  · exact .refl s

theorem restoreKeeps_resumeRuns (n i : Nat) (ts : List Nat) (l : List StabledRun) (s : State) :
    RestoreKeeps n i s (l.foldl (resumeRun n i ts) s) :=
  List.foldlRecOn (motive := RestoreKeeps n i s) l _ (.refl s) fun t ht e _ => ht.trans (restoreKeeps_resumeRun n i ts t e)

/-! ### The end of a restore (R343) -/

/-- The stall charged for a restore, its image no longer listed (R328, R343). -/
def restoreCharged (s : State) (i ns : Nat) (img : StableImage) : State :=
  countDev (modStall s i (fun st => { chargeStall st .stable false (max ns (ceilDiv (imageBytes img.tokens) 320)) with
    images := tset none st.images img.array none })) i 1 (imageBytes img.tokens) 0

theorem offTasks_restoreCharged (s : State) (i ns : Nat) (img : StableImage) : offTasks (restoreCharged s i ns img) = offTasks s :=
  (offTasks_countDev ..).trans (offTasks_modStall ..)

theorem hardware_restoreCharged (s : State) (i ns : Nat) (img : StableImage) : hardware (restoreCharged s i ns img) = hardware s :=
  (hardware_countDev ..).trans (hardware_modStall ..)

theorem images_restoreCharged (s : State) (i ns : Nat) (img : StableImage) :
    tget none (getStall (restoreCharged s i ns img) i).images img.array = none := by
  have hcount : ∀ s xfers rd wr, (getStall (countDev s i xfers rd wr) i).images = (getStall s i).images := by
    intro s xfers rd wr
    unfold countDev
    dsimp only
    rw [keeps_modStall Stall.images _ _ _ (by intro x; rfl)]
    split <;> rfl
  rw [restoreCharged, hcount, getStall_modStall, tget_tset_same]

/-- A good image's tokens and engine are written back before its runs go on. -/
theorem restoreDone_parts {s : State} {n i : Nat} (ns : Nat) {img : StableImage}
    (hgood : regionBad s i (stableSlotAt s i img.array) (imageBytes img.tokens) = false) :
    ∃ u ts, restoreDone s n i ns false img = wakeFeeders (img.runs.foldl (resumeRun n i ts) u)
      ∧ RestoreKeeps n i (restoreCharged s i ns img) u := by
  unfold restoreDone
  extract_lets size bad s1 s2 s3 ts s4 reserve s5
  have hbad : ¬ bad = true := by
    show ¬ (false || regionBad s i (stableSlotAt s i img.array) (imageBytes img.tokens)) = true
    rw [hgood]
    decide
  rw [if_neg hbad, resumeImage_eq]
  refine ⟨s5, ts, rfl, ?_⟩
  have h3 : RestoreKeeps n i s2 s3 := by
    unfold s3
    split
    · exact restoreKeeps_modArr ..
    · exact .refl s2
  exact (h3.trans (restoreKeeps_modArr ..)).trans (restoreKeeps_modVec ..)

section
variable {s : State} {arr : Fin 8} {stall : Fin 16} {img : StableImage} (hpick : pickImage (getStall s stall.val) arr.val = some img)
  (husable : arrUsable s arr.val = true) (huse : mayUseArr s stall.val arr.val = true) (hmoving : (getArr s arr.val).moving = none)
  (hparked : (getArr s arr.val).parked = false) (hruns : stallRuns s stall.val = true) (hdev : (devFeeder s stall.val).isSome = true)
  (hpark : s.power.toPark.getLsbD arr.val = false)
  (htokens : (heldTokens (getArr s arr.val) stall.val).length = img.tokens ∨
    (groomUp s 1 = true ∧ heldTokens (getArr s arr.val) stall.val = [] ∧ img.tokens ≤ (freeTokens (getArr s arr.val)).length))
  (hroom : (runsOn s arr.val).length + img.runs.length ≤ 15)
include hpick husable huse hmoving hparked hruns hdev hpark htokens hroom

theorem exec_restoreDone (ns : W32) : exec (.restoreDone arr stall ns false) s
    = .next (refreshBacklog (restoreDone s arr.val stall.val ns.toNat false img)) := by
  have htok : ((heldTokens (getArr s arr.val) stall.val).length == img.tokens || (groomUp s 1
      && (heldTokens (getArr s arr.val) stall.val).length == 0 && decide (img.tokens ≤ (freeTokens (getArr s arr.val)).length))) = true := by
    obtain hheld | ⟨hup, hnone, hfree⟩ := htokens
    · simp [hheld]
    · simp [hup, hnone, hfree]
  show execRestoreDone arr stall ns false s = _
  unfold execRestoreDone
  dsimp only
  rw [hpick]
  dsimp only
  rw [if_pos (by rw [htok, husable, huse, hmoving, hparked, hruns, hdev, hpark, decide_eq_true hroom]; rfl)]

/-- R343: the last part of O22, a restore. -/
theorem restoreDone_restores (ns : W32)
    (hgood : regionBad s stall.val (stableSlotAt s stall.val img.array) (imageBytes img.tokens) = false) :
    ∃ t, exec (.restoreDone arr stall ns false) s = .next t ∧ tget none (getStall t stall.val).images img.array = none
      ∧ (∀ e ∈ img.runs, ∀ r, getRun t (.job stall.val e.queue e.seq) = some r → r.stabled = false)
      ∧ (∀ m, m ≠ arr.val → getArr t m = getArr s m)
      ∧ t = { s with arrays := t.arrays, vecs := t.vecs, stalls := t.stalls, feeders := t.feeders } := by
  obtain ⟨u, ts, hdone, hu⟩ := restoreDone_parts (n := arr.val) ns.toNat hgood
  have hex := exec_restoreDone hpick husable huse hmoving hparked hruns hdev hpark htokens hroom ns
  rw [hdone] at hex
  have hkeep := hu.trans (restoreKeeps_resumeRuns arr.val stall.val ts img.runs u)
  have hresumed : ∀ e ∈ img.runs, Resumed stall.val e (img.runs.foldl (resumeRun arr.val stall.val ts) u) := fun e he =>
    foldl_reaches _ (fun _ => True) (Resumed stall.val e) (fun _ _ _ => trivial) (fun s e' _ h => h.resumeRun arr.val ts e')
      (fun s _ => resumed_resumeRun arr.val stall.val ts s e) he trivial
  generalize img.runs.foldl (resumeRun arr.val stall.val ts) u = v at *
  have hcharged := hardware_restoreCharged s stall.val ns.toNat img
  have hwoken := hardware_woken v
  refine ⟨_, hex, ?_, fun e he r hr => ?_, fun m hm => ?_, ?_⟩
  · rw [keeps_woken Stall.images fun _ _ _ _ _ => rfl, hkeep.images]
    exact images_restoreCharged ..
  · rw [getRun_refreshBacklog, getRun_of_benches (benches_wakeFeeders v)] at hr
    exact hresumed e he r hr
  · rw [getArr_of_hardware hwoken, hkeep.others m hm, getArr_of_hardware hcharged]
  · have hmem := (mem_of_hardware hwoken).trans (hkeep.mem.trans (mem_of_hardware hcharged))
    have heq := eq_of_offTasks ((offTasks_woken v).trans (hkeep.off.trans (offTasks_restoreCharged ..)))
    rw [hmem] at heq
    exact heq

end

/-! ### The migration off an array to be parked (R600) -/

/-- An array on which the tokens of a stall that moves are in transit. -/
def inTransit (holder : Nat) (a : ArrayU) : ArrayU :=
  { a with transit := (heldTokens a holder).foldl (fun t k => setBit t k true) a.transit }

theorem settleMove_eq (s : State) (n : Nat) : settleMove s n = s ∨ ∃ holder, settleMove s n = modArr s n (inTransit holder) := by
  unfold settleMove
  split
  · exact .inl rfl
  next m _ =>
    split
    · exact .inl rfl
    · exact .inr ⟨m.holder, rfl⟩

/-- An array from which a stall begins to move. -/
def movingFrom (holder : Nat) (grantee : Option Nat) (a : ArrayU) : ArrayU := { a with moving := some { holder := holder, grantee := grantee } }

theorem beginMove_begins (s : State) (n holder : Nat) (grantee : Option Nat) :
    (getArr (beginMove s n holder grantee) n).moving = some { holder := holder, grantee := grantee }
      ∧ ∃ as, beginMove s n holder grantee = { s with arrays := as } := by
  have hbegun := getArr_modArr s n (movingFrom holder grantee)
  obtain hsame | ⟨k, hset⟩ := settleMove_eq (modArr s n (movingFrom holder grantee)) n
  · rw [show beginMove s n holder grantee = _ from hsame, hbegun]
    exact ⟨rfl, _, rfl⟩
  · rw [show beginMove s n holder grantee = _ from hset, getArr_modArr, hbegun]
    exact ⟨rfl, _, rfl⟩

/-- R600: the last part of O22, a migration. -/
theorem migrationForPark_begins (s : State) (arr : Fin 8) (i : Nat) (hnext : nextMigrant s arr.val = some i)
    (hpark : s.power.toPark.getLsbD arr.val = true) (hup : groomUp s 1 = true) (hmoving : (getArr s arr.val).moving = none) :
    ∃ t, exec (.migrationForPark arr) s = .next t ∧ (getArr t arr.val).moving = some { holder := i, grantee := none }
      ∧ t = { s with arrays := t.arrays } := by
  have hex : exec (.migrationForPark arr) s = .next (beginMove s arr.val i none) := by
    show execMigrationForPark arr s = _
    unfold execMigrationForPark
    dsimp only
    rw [hnext]
    dsimp only
    rw [hpark, hup, hmoving]
    rfl
  obtain ⟨hmove, as, heq⟩ := beginMove_begins s arr.val i none
  rw [heq] at hex hmove
  exact ⟨_, hex, hmove, rfl⟩

/-! ### Thin tasks, the contexts and the images -/

/-- Settles O22: thin tasks, then the contexts of an array, then its images, each by its rule above. -/
theorem thinTasksAndContexts : Obligations.ThinTasksAndContexts :=
  ⟨fun s path =>
    ⟨fun hgate hidle hin hhold => ⟨thinDispatch_batch hgate hidle hin hhold, thinDispatch_net hgate hidle hin hhold⟩,
      thinTaskEnd_frees s path⟩,
    fun s arr => ⟨quickDismount_requests s arr, dismountSwitch_switches s arr, dismountFault_fences s arr, contextReturn_returns s arr⟩,
    fun s arr => ⟨stablingDone_writes,
      fun _ ns _ hpick husable huse hmoving hparked hruns hdev hpark htokens hroom hgood =>
        restoreDone_restores hpick husable huse hmoving hparked hruns hdev hpark htokens hroom ns hgood,
      migrationForPark_begins s arr⟩⟩

end Sys2Proof.Machine
end

section
/-!
PROOFS. Chapter 09, feeders: what taking the next piece, queueing a transfer and ending one change of a feeder, and what they leave of
all else (R300, R303, R315, R319).
-/
namespace Sys2Proof.Machine

/-! ### A feeder's work, and a feeder without it -/

/-- What a feeder moves and what waits for it, in order. -/
def fdrJobs (x : Feeder) : List FdrJob := x.run.toList ++ x.queue

/-- A feeder without the transfers it has and their order: its counters, errors and service. -/
def offWork (x : Feeder) : Feeder := { x with run := none, issued := false, queue := [], turn := 0, group := [], groupAt := 0, groupHold := 0 }

theorem keeps_modFdr {β : Type} (p : Feeder → β) (s : State) (n : Nat) (f : Feeder → Feeder) (h : ∀ x, p (f x) = p x) (k : Nat) :
    p (getFdr (modFdr s n f) k) = p (getFdr s k) := by
  by_cases hk : n = k
  · subst hk
    rw [getFdr_modFdr, h]
  · rw [getFdr_modFdr_ne _ _ hk]

theorem offWork_counts {x y : Feeder} (h : offWork x = offWork y) : x.xfers = y.xfers ∧ x.bytes = y.bytes :=
  ⟨(congrArg Feeder.xfers h :), (congrArg Feeder.bytes h :)⟩

theorem getFdr_of_feeders {s t : State} (h : t.feeders = s.feeders) (n : Nat) : getFdr t n = getFdr s n :=
  congrArg (fun x => tget ({} : Feeder) x n) h

theorem partKept_of_offTasks {s t : State} (h : offTasks t = offTasks s) : PartKept s t := by
  have hk : PartKept (offTasks s) (offTasks t) := by rw [h]; exact ⟨rfl, rfl, rfl, rfl, rfl, rfl, rfl, rfl, rfl, rfl, rfl, rfl⟩
  exact hk

theorem offUnits_of_offTasks {s t : State} (h : offTasks t = offTasks s) : offUnits t = offUnits s := (congrArg offUnits h :)

theorem feeders_refreshBacklog (s : State) : (refreshBacklog s).feeders = s.feeders := by
  obtain ⟨ss, heq⟩ := refreshBacklog_eq s
  rw [heq]

theorem settleMoves_eq (s : State) : ∃ as, settleMoves s = { s with arrays := as } := by
  refine List.foldlRecOn (motive := fun t : State => ∃ as, t = { s with arrays := as }) _ _ ⟨s.arrays, rfl⟩ ?_
  rintro _ ⟨as, rfl⟩ n -
  obtain hsame | ⟨k, hset⟩ := settleMove_eq { s with arrays := as } n
  · exact ⟨as, hsame⟩
  · exact ⟨_, hset⟩

theorem feeders_settleMoves (s : State) : (settleMoves s).feeders = s.feeders := by
  obtain ⟨as, heq⟩ := settleMoves_eq s
  rw [heq]

/-! ### The next piece (R300, R315) -/

/-- A feeder that takes a job from its queue: the stall whose turn it is, and whether its piece is issued. -/
def jobTaken (j : FdrJob) (turn : Nat) (issued : Bool) (x : Feeder) : Feeder :=
  { x with run := some j, queue := x.queue.erase j, turn := turn, issued := issued }

/-- A feeder goes on as it is, or, free and in service, takes a job from its queue. -/
theorem nextPiece_cases (s : State) (f : Nat) : nextPiece s f = s ∨ (getFdr s f).run = none ∧ (getFdr s f).out = false
    ∧ ∃ j turn issued, nextPiece s f = modFdr s f (jobTaken j turn issued) := by
  unfold nextPiece
  split
  · exact .inl rfl
  next hfree =>
    rw [Bool.or_eq_true, not_or, Bool.not_eq_true, Bool.not_eq_true, Option.isSome_eq_false_iff, Option.isNone_iff_eq_none] at hfree
    split
    · exact .inl rfl
    · split
      · exact .inl rfl
      · exact .inr ⟨hfree.1, hfree.2, _, _, _, rfl⟩

theorem nextPiece_eq (s : State) (f : Nat) : ∃ fs, nextPiece s f = { s with feeders := fs } := by
  obtain hsame | ⟨-, -, j, turn, issued, htaken⟩ := nextPiece_cases s f
  · exact ⟨s.feeders, hsame⟩
  · exact ⟨_, htaken⟩

theorem getFdr_nextPiece_ne (s : State) {f g : Nat} (h : g ≠ f) : getFdr (nextPiece s f) g = getFdr s g := by
  obtain hsame | ⟨-, -, j, turn, issued, htaken⟩ := nextPiece_cases s f
  · rw [hsame]
  · rw [htaken, getFdr_modFdr_ne _ _ h.symm]

@[simp] theorem offWork_nextPiece (s : State) (f k : Nat) : offWork (getFdr (nextPiece s f) k) = offWork (getFdr s k) := by
  obtain hsame | ⟨-, -, j, turn, issued, htaken⟩ := nextPiece_cases s f
  · rw [hsame]
  · rw [htaken]
    exact keeps_modFdr offWork _ _ _ (by intro x; rfl) k

theorem group_nextPiece (s : State) (f : Nat) : (getFdr (nextPiece s f) f).group = (getFdr s f).group := by
  obtain hsame | ⟨-, -, j, turn, issued, htaken⟩ := nextPiece_cases s f
  · rw [hsame]
  · rw [htaken, getFdr_modFdr]
    rfl

/-- A job stays with its feeder: it waits on, or is the one that the feeder takes. -/
theorem mem_fdrJobs_nextPiece {s : State} {f : Nat} {j : FdrJob} (h : j ∈ fdrJobs (getFdr s f)) : j ∈ fdrJobs (getFdr (nextPiece s f) f) := by
  obtain hsame | ⟨hrun, -, j', turn, issued, htaken⟩ := nextPiece_cases s f
  · rwa [hsame]
  · rw [fdrJobs, hrun] at h
    have hqueue : j ∈ (getFdr s f).queue := h
    rw [htaken, getFdr_modFdr]
    show j ∈ j' :: (getFdr s f).queue.erase j'
    by_cases hj : j = j'
    · exact hj ▸ List.mem_cons_self
    · exact List.mem_cons_of_mem _ ((List.mem_erase_of_ne hj).2 hqueue)

/-! ### A transfer or group that is queued (R300, R309) -/

/-- A feeder with a transfer or group at the end of its queue. -/
def jobQueued (g : List Xfer) (x : Feeder) : Feeder := { x with queue := x.queue ++ [{ members := g }] }

theorem enqueue_def (s : State) (f : Nat) (g : List Xfer) : enqueue s f g = nextPiece (modFdr s f (jobQueued g)) f := rfl

theorem enqueue_eq (s : State) (f : Nat) (g : List Xfer) : ∃ fs, enqueue s f g = { s with feeders := fs } := by
  obtain ⟨fs, heq⟩ := nextPiece_eq (modFdr s f (jobQueued g)) f
  exact ⟨fs, heq⟩

theorem getFdr_enqueue_ne (s : State) {f k : Nat} (g : List Xfer) (h : k ≠ f) : getFdr (enqueue s f g) k = getFdr s k := by
  rw [enqueue_def, getFdr_nextPiece_ne _ h, getFdr_modFdr_ne _ _ h.symm]

theorem offTasks_enqueue (s : State) (f : Nat) (g : List Xfer) : offTasks (enqueue s f g) = offTasks s :=
  (offTasks_nextPiece ..).trans (offTasks_modFdr ..)

theorem hardware_enqueue (s : State) (f : Nat) (g : List Xfer) : hardware (enqueue s f g) = hardware s := by
  obtain ⟨fs, heq⟩ := enqueue_eq s f g
  rw [heq]
  rfl

theorem getRun_enqueue (s : State) (f : Nat) (g : List Xfer) (i q : Nat) (seq : W32) :
    getRun (enqueue s f g) (.job i q seq) = getRun s (.job i q seq) := by
  obtain ⟨fs, heq⟩ := enqueue_eq s f g
  rw [heq]
  rfl

theorem mem_fdrJobs_enqueue (s : State) (f : Nat) (g : List Xfer) : { members := g } ∈ fdrJobs (getFdr (enqueue s f g) f) := by
  refine mem_fdrJobs_nextPiece ?_
  rw [getFdr_modFdr]
  exact List.mem_append_right _ (List.mem_append_right _ (List.mem_singleton.2 rfl))

/-- What is queued is among what its feeder moves or waits for, with no piece moved. -/
theorem enqueue_queues (s : State) (f : Nat) (g : List Xfer) :
    ∃ j ∈ (getFdr (enqueue s f g) f).run.toList ++ (getFdr (enqueue s f g) f).queue, j.piece = 0 ∧ j.members = g :=
  ⟨_, mem_fdrJobs_enqueue s f g, rfl, rfl⟩

/-! ### The flags and the run of a transfer (R303) -/

theorem offTasks_evMod (s : State) (n k : Nat) (f : W16 → W16) : offTasks (evMod s n k f) = offTasks s := rfl

theorem feeders_modRun (s : State) (o : Owner) (f : Run → Run) : (modRun s o f).feeders = s.feeders := by
  cases o <;> rfl

/-- A run whose next transfer is dispatched. -/
def xferBegun (y : Run) : Run := { y with nextXfer := y.nextXfer + 1, runningX := y.runningX ++ [y.nextXfer] }

theorem beginXfer_eq (s : State) (o : Owner) (r : Run) (n : Nat) (x : XferDesc) :
    beginXfer s o r n x = modRun (evMod s n (evKey o r) (fun ev => ev &&& ~~~ x.waitEv)) o xferBegun := rfl

theorem getRun_beginXfer {s : State} {i q : Nat} {seq : W32} {r : Run} (h : getRun s (.job i q seq) = some r) (n : Nat) (x : XferDesc) :
    getRun (beginXfer s (.job i q seq) r n x) (.job i q seq) = some (xferBegun r) :=
  getRun_modRun (s := evMod s n (evKey (.job i q seq) r) (fun ev => ev &&& ~~~ x.waitEv)) xferBegun (fun _ => rfl) (fun _ => rfl) h

theorem feeders_beginXfer (s : State) (o : Owner) (r : Run) (n : Nat) (x : XferDesc) : (beginXfer s o r n x).feeders = s.feeders :=
  feeders_modRun ..

theorem now_beginXfer (s : State) (o : Owner) (r : Run) (n : Nat) (x : XferDesc) : (beginXfer s o r n x).now = s.now := by
  cases o <;> rfl

theorem hardware_beginXfer (s : State) (o : Owner) (r : Run) (n : Nat) (x : XferDesc) :
    hardware (beginXfer s o r n x) = hardware (evMod s n (evKey o r) (fun ev => ev &&& ~~~ x.waitEv)) := by
  rw [beginXfer_eq, hardware_modRun]

theorem offTasks_beginXfer_job (s : State) (i q : Nat) (seq : W32) (r : Run) (n : Nat) (x : XferDesc) :
    offTasks (beginXfer s (.job i q seq) r n x) = offTasks s := by
  rw [beginXfer_eq, offTasks_modRun_job, offTasks_evMod]

/-! ### What ends a transfer leaves alone (R189, R303, R319) -/

theorem offWork_dropXfers (s : State) (p : Xfer → Bool) (k : Nat) : offWork (getFdr (dropXfers s p) k) = offWork (getFdr s k) := by
  refine foldl_keep (fun s => offWork (getFdr s k)) _ (fun s n => ?_) _ _
  exact (offWork_nextPiece ..).trans (keeps_modFdr offWork _ _ _ (by intro x; rfl) k)

theorem feeders_toCommitting (s : State) (i q : Nat) (seq : W32) (status : W16) :
    (toCommitting s i q seq status).feeders = (dropXfers s (fun x => x.owner == .job i q seq)).feeders := by
  rw [toCommitting, setEntry, modStall_feeders, feeders_modRun, leaveArray, feeders_modRun, dropWork, modStall_feeders]

theorem offWork_toCommitting (s : State) (i q : Nat) (seq : W32) (status : W16) (k : Nat) :
    offWork (getFdr (toCommitting s i q seq status) k) = offWork (getFdr s k) := by
  rw [getFdr_of_feeders (feeders_toCommitting ..), offWork_dropXfers]

theorem offWork_finishRun (s : State) (o : Owner) (k : Nat) : offWork (getFdr (finishRun s o) k) = offWork (getFdr s k) := by
  unfold finishRun
  split
  · rfl
  · split
    · rfl
    · cases o with
      | job i q seq => exact offWork_toCommitting ..
      | net c => rfl

/-- A run one of whose transfers has ended. -/
def xferOver (index now : Nat) (y : Run) : Run := { y with runningX := y.runningX.filter (· != index), idleSince := now }

/-- The end of a transfer that no run waits for changes nothing; any other sets its flag, and its run goes on or is over. -/
theorem endXfer_cases (s : State) (x : Xfer) : endXfer s x = s
    ∨ ∃ u, (u = s ∨ ∃ n k f, u = evMod s n k f) ∧ endXfer s x = finishRun (modRun u x.owner (xferOver x.index u.now)) x.owner := by
  unfold endXfer
  split
  · exact .inl rfl
  · split
    · exact .inl rfl
    · refine .inr ⟨_, ?_, rfl⟩
      split
      · exact .inr ⟨_, _, _, rfl⟩
      · exact .inl rfl

theorem offWork_endXfer (s : State) (x : Xfer) (k : Nat) : offWork (getFdr (endXfer s x) k) = offWork (getFdr s k) := by
  obtain hsame | ⟨u, hu, hend⟩ := endXfer_cases s x
  · rw [hsame]
  · rw [hend, offWork_finishRun, getFdr_of_feeders (feeders_modRun ..)]
    obtain rfl | ⟨n, key, f, rfl⟩ := hu
    · rfl
    · rfl

theorem lanes_endXfer (s : State) (x : Xfer) : lanes (endXfer s x) = lanes s := by
  obtain hsame | ⟨u, hu, hend⟩ := endXfer_cases s x
  · rw [hsame]
  · rw [hend, lanes_finishRun, lanes_modRun]
    obtain rfl | ⟨n, key, f, rfl⟩ := hu
    · rfl
    · rfl

end Sys2Proof.Machine
end

section
/-!
PROOFS. Chapter 09, transfers: their dispatch, the hold of a multicast group, and the two watches (R300, R303, R306, R309, R320).
-/
namespace Sys2Proof.Machine

/-! ### Dispatch (R300, R303, R309) -/

theorem getRun_of_nextXferOf {s : State} {o : Owner} {r : Run} {n : Nat} {d : List Byte} (h : nextXferOf s o = some (r, n, d)) :
    getRun s o = some r := by
  unfold nextXferOf at h
  split at h
  · cases h
  next r' hr =>
    split at h
    · cases h
    · dsimp only at h
      rw [Option.ite_none_right_eq_some] at h
      obtain ⟨-, h⟩ := h
      cases h
      exact hr

/-- The transfer that a run's next descriptor asks for. -/
def xferOf (s : State) (o : Owner) (i : Nat) (r : Run) (d : List Byte) : Xfer :=
  { desc := d, owner := o, stall := i, index := r.nextXfer, ready := s.now }

/-- Where a dispatched transfer goes: a SIGNAL ends, a multicast LOAD joins a group, and any other is queued. -/
def xferPlaced (s : State) (f : Nat) (e : Xfer) : State :=
  if (xferDesc e.desc).kind = 5 then endXfer (modFdr s f (fun y => { y with xfers := y.xfers + 1 })) e
  else if (xferDesc e.desc).mcast then joinGroup s f e else enqueue s f [e]

/-- A feeder whose group a LOAD opens. -/
def groupOpened (now : Nat) (e : Xfer) (y : Feeder) : Feeder :=
  { y with group := y.group ++ [e], groupAt := now, groupHold := (xferDesc e.desc).hold }

/-- The first member opens the group, and does not close it. -/
theorem joinGroup_opens {s : State} {f : Nat} (e : Xfer) (h : (getFdr s f).group = []) :
    joinGroup s f e = modFdr s f (groupOpened s.now e) := by
  have hfirst : (getFdr s f).group.isEmpty = true := by rw [h]; rfl
  have hsize : ¬ 8 ≤ (getFdr (modFdr s f (groupOpened s.now e)) f).group.length := by
    rw [getFdr_modFdr, groupOpened, h, List.nil_append, List.length_singleton]
    decide
  unfold joinGroup
  rw [hfirst]
  exact if_neg hsize

section
variable {s : State} {fdr stall : Fin 16} {q : Fin 8} {seq : W32} {r : Run} {n : Nat} {d : List Byte} (hgate : dispatchGated s = false)
  (hnext : nextXferOf s (.job stall.val q.val seq) = some (r, n, d)) (hd : d ≠ []) (hout : (getFdr s fdr.val).out = false)
  (huse : mayUseFdr s stall.val fdr.val = true) (hroom : queuedXfers (getFdr s fdr.val) + (getFdr s fdr.val).group.length < 32)
  (hmoving : (getArr s n).moving = none) (hlist : xferListBad s (.job stall.val q.val seq) = false)
  (href : xferRefusal (xferDesc d) (xferWindow s stall.val n (xferDesc d)) (inRegion s stall.val) (inWork s (.job stall.val q.val seq)) = none)
  (hbank : (xferDesc d).bank = true → ownsReserve s stall.val n = true)
include hgate hnext hd hout huse hroom hmoving hlist href hbank

/-- An eligible transfer that no check refuses is dispatched: its flags are consumed, and it goes where its kind says. -/
theorem exec_transferDispatch (hgroup : (xferDesc d).mcast = true → (getFdr s fdr.val).group = []) :
    exec (.transferDispatch fdr stall q seq) s = .next (refreshBacklog (xferPlaced (beginXfer s (.job stall.val q.val seq) r n (xferDesc d)) fdr.val
      (xferOf s (.job stall.val q.val seq) stall.val r d))) := by
  show execTransferDispatch fdr stall q seq s = _
  unfold execTransferDispatch
  rw [if_neg (by rw [hgate]; decide)]
  extract_lets f i o fe
  rw [show nextXferOf s o = some (r, n, d) from hnext]
  dsimp -zeta only
  extract_lets x scr code e
  have hcode : code = none := by
    have hreserve : (scr && x.bank && !ownsReserve s i n) = false := by
      cases hb : x.bank with
      | false => rw [Bool.and_false, Bool.false_and]
      | true => rw [show ownsReserve s i n = true from hbank hb, Bool.not_true, Bool.and_false]
    unfold code
    rw [show xferListBad s o = false from hlist, show xferRefusal x (xferWindow s i n x) (inRegion s i) (inWork s o) = none from href]
    dsimp only
    rw [hreserve]
    rfl
  have hfree : (fe.out || !mayUseFdr s i f || decide (32 ≤ queuedXfers fe + fe.group.length)
      || (scr && (getArr s n).moving.any (fun m => m.holder == i))) = false := by
    simp only [show fe.out = false from hout, show mayUseFdr s i f = true from huse, hmoving, Option.any_none, Bool.and_false, Bool.or_false,
      Bool.not_true, Bool.false_or, decide_eq_false_iff_not, not_le]
    exact hroom
  have hjoin : (x.mcast && !(fe.group.isEmpty || fe.group.any (sameGroup e))) = false := by
    cases hm : x.mcast with
    | false => rfl
    | true => rw [show fe.group = [] from hgroup hm]; rfl
  rw [hcode]
  dsimp only
  rw [if_neg (by rw [hfree]; decide), if_neg (by simpa using hd), if_neg (by rw [hjoin]; decide)]
  rfl

/-- A transfer that is neither a SIGNAL nor multicast: its feeder runs it or queues it (R300). -/
theorem transferDispatch_queues (hkind : (xferDesc d).kind ≠ 5) (hsingle : (xferDesc d).mcast = false) :
    ∃ t, exec (.transferDispatch fdr stall q seq) s = .next t
      ∧ evGet t n (evKey (.job stall.val q.val seq) r) = evGet s n (evKey (.job stall.val q.val seq) r) &&& ~~~ (xferDesc d).waitEv
      ∧ getRun t (.job stall.val q.val seq) = some { r with nextXfer := r.nextXfer + 1, runningX := r.runningX ++ [r.nextXfer] }
      ∧ (∃ j ∈ (getFdr t fdr.val).run.toList ++ (getFdr t fdr.val).queue, j.piece = 0 ∧ j.members =
          [{ desc := d, owner := .job stall.val q.val seq, stall := stall.val, index := r.nextXfer, ready := s.now }])
      ∧ t.mem = s.mem ∧ t.vecs = s.vecs ∧ t.paths = s.paths ∧ t.cores = s.cores ∧ PartKept s t := by
  have hex := exec_transferDispatch hgate hnext hd hout huse hroom hmoving hlist href hbank (by rw [hsingle]; exact fun h => nomatch h)
  generalize he : xferOf s (.job stall.val q.val seq) stall.val r d = e at hex
  have hdesc : e.desc = d := by rw [← he]; rfl
  rw [xferPlaced, hdesc, if_neg hkind, hsingle, if_neg Bool.false_ne_true] at hex
  generalize ho : Owner.job stall.val q.val seq = o at *
  have hunits : hardware (refreshBacklog (enqueue (beginXfer s o r n (xferDesc d)) fdr.val [e]))
      = hardware (evMod s n (evKey o r) (fun ev => ev &&& ~~~ (xferDesc d).waitEv)) := by
    rw [hardware_refreshBacklog, hardware_enqueue, hardware_beginXfer]
  have hoff : offTasks (refreshBacklog (enqueue (beginXfer s o r n (xferDesc d)) fdr.val [e])) = offTasks s := by
    rw [offTasks_refreshBacklog, offTasks_enqueue, ← ho, offTasks_beginXfer_job]
  refine ⟨_, hex, ?_, ?_, ?_, (mem_of_hardware hunits).trans rfl, (vecs_of_hardware hunits).trans rfl, paths_of_lanes (lanes_of_offTasks hoff),
    cores_of_lanes (lanes_of_offTasks hoff), partKept_of_offTasks hoff⟩
  · rw [evGet, getArr_of_hardware hunits]
    exact evGet_evMod ..
  · rw [getRun_refreshBacklog]
    subst ho
    rw [getRun_enqueue]
    exact getRun_beginXfer (getRun_of_nextXferOf hnext) ..
  · rw [getFdr_of_feeders (feeders_refreshBacklog _), ← he]
    exact enqueue_queues ..

/-- A multicast LOAD opens the group of a feeder that has none (R309). -/
theorem transferDispatch_opensGroup (hkind : (xferDesc d).kind ≠ 5) (hmcast : (xferDesc d).mcast = true) (hgroup : (getFdr s fdr.val).group = []) :
    ∃ t, exec (.transferDispatch fdr stall q seq) s = .next t
      ∧ (getFdr t fdr.val).group = [{ desc := d, owner := .job stall.val q.val seq, stall := stall.val, index := r.nextXfer, ready := s.now }]
      ∧ (getFdr t fdr.val).groupAt = s.now ∧ (getFdr t fdr.val).groupHold = (xferDesc d).hold
      ∧ (getFdr t fdr.val).run = (getFdr s fdr.val).run ∧ (getFdr t fdr.val).queue = (getFdr s fdr.val).queue ∧ t.mem = s.mem ∧ PartKept s t := by
  have hex := exec_transferDispatch hgate hnext hd hout huse hroom hmoving hlist href hbank (fun _ => hgroup)
  have hbegun := getFdr_of_feeders (feeders_beginXfer s (.job stall.val q.val seq) r n (xferDesc d)) fdr.val
  rw [xferPlaced, show (xferOf s (.job stall.val q.val seq) stall.val r d).desc = d from rfl, if_neg hkind, if_pos hmcast,
    joinGroup_opens _ (by rw [hbegun, hgroup]), now_beginXfer] at hex
  have hself := getFdr_of_feeders (feeders_refreshBacklog (modFdr (beginXfer s (.job stall.val q.val seq) r n (xferDesc d)) fdr.val
    (groupOpened s.now (xferOf s (.job stall.val q.val seq) stall.val r d)))) fdr.val
  rw [getFdr_modFdr, hbegun] at hself
  refine ⟨_, hex, ?_, congrArg Feeder.groupAt hself, congrArg Feeder.groupHold hself, (congrArg Feeder.run hself :), (congrArg Feeder.queue hself :),
    ?_, ?_⟩
  · rw [hself, groupOpened, hgroup]
    rfl
  · exact (mem_of_hardware (hardware_refreshBacklog _)).trans ((mem_of_hardware (hardware_beginXfer ..)).trans rfl)
  · refine partKept_of_offTasks ?_
    rw [offTasks_refreshBacklog, offTasks_modFdr, offTasks_beginXfer_job]

/-- A SIGNAL ends at its dispatch, and is counted (R300). -/
theorem transferDispatch_signals (hkind : (xferDesc d).kind = 5) (hsingle : (xferDesc d).mcast = false) :
    ∃ t, exec (.transferDispatch fdr stall q seq) s = .next t
      ∧ (getFdr t fdr.val).xfers = (getFdr s fdr.val).xfers + 1 ∧ t.mem.hbm = s.mem.hbm ∧ t.cores = s.cores := by
  have hex := exec_transferDispatch hgate hnext hd hout huse hroom hmoving hlist href hbank (by rw [hsingle]; exact fun h => nomatch h)
  refine ⟨_, hex, ?_, hbm_of_next rfl hex, cores_of_lanes ?_⟩
  · rw [getFdr_of_feeders (feeders_refreshBacklog _), xferPlaced, show (xferOf s (.job stall.val q.val seq) stall.val r d).desc = d from rfl,
      if_pos hkind, (offWork_counts (offWork_endXfer ..)).1, getFdr_modFdr, getFdr_of_feeders (feeders_beginXfer ..)]
  · rw [lanes_of_offTasks (offTasks_refreshBacklog _), xferPlaced, show (xferOf s (.job stall.val q.val seq) stall.val r d).desc = d from rfl,
      if_pos hkind, lanes_endXfer, lanes_of_offTasks (offTasks_modFdr ..), lanes_of_offTasks (offTasks_beginXfer_job ..)]

end

/-! ### The hold of a multicast group (R309) -/

/-- A feeder whose group has closed. -/
def groupClosed (x : Feeder) : Feeder := { x with group := [] }

theorem mcastHoldExpiry_closes (s : State) (fdr : Fin 16) (e : Xfer) (rest : List Xfer) (hgroup : (getFdr s fdr.val).group = e :: rest)
    (hhold : (getFdr s fdr.val).groupHold * 12288 ≤ (s.now - (getFdr s fdr.val).groupAt) * 100000) :
    ∃ t, exec (.mcastHoldExpiry fdr) s = .next t ∧ (getFdr t fdr.val).group = []
      ∧ (∃ j ∈ (getFdr t fdr.val).run.toList ++ (getFdr t fdr.val).queue, j.piece = 0 ∧ j.members = e :: rest)
      ∧ (∀ g, g ≠ fdr.val → getFdr t g = getFdr s g) ∧ t = { s with feeders := t.feeders } := by
  have hclose : closeGroup s fdr.val = enqueue (modFdr s fdr.val groupClosed) fdr.val (e :: rest) := by
    unfold closeGroup
    rw [hgroup]
    rfl
  have hex : exec (.mcastHoldExpiry fdr) s = .next (enqueue (modFdr s fdr.val groupClosed) fdr.val (e :: rest)) := by
    show execMcastHoldExpiry fdr s = _
    unfold execMcastHoldExpiry
    dsimp only
    rw [if_pos (hhold.trans (Nat.mul_le_mul_right _ (Nat.le_succ _))), hclose]
  refine ⟨_, hex, ?_, enqueue_queues .., fun g hg => ?_, ?_⟩
  · rw [enqueue_def, group_nextPiece, getFdr_modFdr, getFdr_modFdr]
    rfl
  · rw [getFdr_enqueue_ne _ _ hg, getFdr_modFdr_ne _ _ hg.symm]
  · obtain ⟨fs, heq⟩ := enqueue_eq (modFdr s fdr.val groupClosed) fdr.val (e :: rest)
    rw [heq]
    rfl

/-! ### A job run that gets no further (R306) -/

theorem faultCode_of_condition {x y : Stall} (h : condition x = condition y) : x.faultCode = y.faultCode := (congrArg (fun c => c.2.2.1) h :)

theorem stallFault_latches {s : State} {i : Nat} (h : (getStall s i).state = .active) (code : W16) (kind : BitVec 4) (unit : Nat)
    (data : List Byte) (job : Option (Nat × W32)) : (getStall (stallFault s i code kind unit data job) i).faultCode = code := by
  unfold stallFault
  dsimp only
  rw [h]
  dsimp only
  rw [report_stall_faultCode]
  generalize hs1 : modStall s i _ = s1
  have h1 : (getStall s1 i).faultCode = code := by
    rw [← hs1, getStall_modStall]
  rw [getStall_cacheFlushStall, getStall_failStallSlots]
  exact (faultCode_of_condition (condition_abortStall s1 i i)).trans h1

theorem runStallDetect_faults (s : State) (stall : Fin 16) (q : Fin 8) (seq : W32) (r : Run) (hrun : getRun s (.job stall.val q.val seq) = some r)
    (harr : r.array.isSome = true) (hcommit : r.committing = false) (hfail : r.fail = none) (hstabled : r.stabled = false)
    (hidle : r.running = []) (hidleX : r.runningX = [])
    (hleft : r.nextTile < graphLen s (.job stall.val q.val seq) ∨ r.nextXfer < xferCount s (.job stall.val q.val seq))
    (hentry : nextEntry s (.job stall.val q.val seq) = none) (hxfer : nextXferOf s (.job stall.val q.val seq) = none)
    (hactive : (getStall s stall.val).state = .active) (htrip : s.power.tripped = false) (hsince : r.idleSince + 122880 ≤ s.now) :
    ∃ t, exec (.runStallDetect stall q seq) s = .next t ∧ (getStall t stall.val).state = .faulted ∧ (getStall t stall.val).faultCode = 0x2001
      ∧ t.mem.hbm = s.mem.hbm := by
  have hruns : stallRuns s stall.val = true := by
    unfold stallRuns
    rw [hactive, htrip]
    rfl
  have hex : exec (.runStallDetect stall q seq) s = .next (refreshBacklog (descFault s (.job stall.val q.val seq) 0x05 r.nextXfer 4 0)) := by
    show execRunStallDetect stall q seq s = _
    unfold execRunStallDetect
    dsimp only
    rw [hrun]
    dsimp only
    refine if_pos ?_
    simp only [harr, hcommit, hfail, hstabled, hidle, hidleX, hentry, hxfer, hruns, hsince, hleft, decide_true, Bool.and_true, Bool.not_false,
      Option.isNone_none, List.isEmpty_nil, Bool.true_and, Bool.or_eq_true, decide_eq_true_eq]
  obtain ⟨data, job, hfault⟩ := descFault_eq s (.job stall.val q.val seq) 0x05 r.nextXfer 4 0
  have hcond := condition_refreshBacklog (descFault s (.job stall.val q.val seq) 0x05 r.nextXfer 4 0) stall.val
  rw [hfault] at hcond
  refine ⟨_, hex, ?_, ?_, hbm_of_next rfl hex⟩
  · rw [hfault, state_of_condition hcond]
    exact stallFault_faults hactive ..
  · rw [hfault, faultCode_of_condition hcond]
    exact stallFault_latches hactive ..

/-! ### A feeder that leaves service (R320, Table 2-11) -/

/-- A feeder out of service, with nothing to move. -/
def stopped (x : Feeder) : Feeder := { x with out := true, run := none, queue := [], group := [] }

/-- Where a job of feeder `f`, out of service, is issued again: on another feeder of its stall, or it waits where it was. -/
def reissue (f : Nat) (s : State) (j : FdrJob) : State :=
  match devFeeder s (jobStall j) with
  | some k => enqueue s k (j.members.map (fun x => { x with ready := s.now }))
  | none => modFdr s f (jobQueued j.members)

theorem feederOut_eq (s : State) (f : Nat) (last : Byte) :
    ∃ js : List FdrJob, feederOut s f last = js.foldl (reissue f) (outOfService (modFdr s f stopped) 4 f last) := ⟨_, rfl⟩

/-- A feeder is out of service with nothing under way, and shows an error. -/
structure Stuck (f : Nat) (code : Byte) (s : State) : Prop where
  out : (getFdr s f).out = true
  run : (getFdr s f).run = none
  code : (getFdr s f).errCode = code

/-- A transfer is issued again on a feeder in service, which is another. -/
theorem Stuck.reissue {f : Nat} {code : Byte} {s : State} (h : Stuck f code s) (j : FdrJob) : Stuck f code (Machine.reissue f s j) := by
  unfold Machine.reissue
  split
  next k hk =>
    have hserves : (getFdr s k).out = false := by
      have hfound := List.find?_some hk
      rw [Bool.and_eq_true, Bool.not_eq_true'] at hfound
      exact hfound.2
    have hne : f ≠ k := by
      rintro rfl
      rw [h.out] at hserves
      cases hserves
    have hsame := getFdr_enqueue_ne s (j.members.map (fun x => { x with ready := s.now })) hne
    exact ⟨by rw [hsame, h.out], by rw [hsame, h.run], by rw [hsame, h.code]⟩
  · have hself := getFdr_modFdr s f (jobQueued j.members)
    exact ⟨by rw [hself]; exact h.out, by rw [hself]; exact h.run, by rw [hself]; exact h.code⟩

theorem stuck_feederOut {s : State} {f : Nat} {code : Byte} (h : (getFdr s f).errCode = code) (last : Byte) :
    Stuck f code (feederOut s f last) := by
  obtain ⟨js, heq⟩ := feederOut_eq s f last
  have hself : getFdr (outOfService (modFdr s f stopped) 4 f last) f = stopped (getFdr s f) :=
    (getFdr_of_feeders (outOfService_feeders ..) f).trans (getFdr_modFdr ..)
  rw [heq]
  refine List.foldlRecOn (motive := Stuck f code) js _ ⟨?_, ?_, ?_⟩ fun t ht j _ => ht.reissue j
  · rw [hself]; rfl
  · rw [hself]; rfl
  · rw [hself]; exact h

theorem offTasks_reissue (f : Nat) (s : State) (j : FdrJob) : offTasks (reissue f s j) = offTasks s := by
  unfold reissue
  split
  · exact offTasks_enqueue ..
  · rfl

/-- A feeder that leaves service reports it and hands its work on: the paths, the cores and all but the units stay as they are. -/
theorem feederOut_keeps (s : State) (f : Nat) (last : Byte) :
    lanes (feederOut s f last) = lanes s ∧ offUnits (feederOut s f last) = offUnits s := by
  obtain ⟨js, heq⟩ := feederOut_eq s f last
  have hoff : offTasks (feederOut s f last) = offTasks (outOfService (modFdr s f stopped) 4 f last) := by
    rw [heq]
    exact foldl_keep offTasks _ (offTasks_reissue f) _ _
  refine ⟨?_, ?_⟩
  · rw [lanes_of_offTasks hoff, outOfService, lanes_report]
    rfl
  · rw [offUnits_of_offTasks hoff, outOfService, offUnits_report, offUnits_modFdr]

theorem pieceFault_keeps (s : State) (f i : Nat) (code : Byte) (a : Nat) :
    (getFdr (pieceFault s f i code a) f).errCode = code ∧ lanes (pieceFault s f i code a) = lanes s
      ∧ offUnits (pieceFault s f i code a) = offUnits s := by
  unfold pieceFault
  refine ⟨?_, ?_, ?_⟩
  · rw [getFdr_of_feeders (report_feeders ..), getFdr_modFdr]
  · rw [lanes_report]
    rfl
  · rw [offUnits_report, offUnits_modFdr]

theorem transferStuck_stops (s : State) (fdr : Fin 16)
    (hold : ∃ j ∈ (getFdr s fdr.val).run.toList ++ (getFdr s fdr.val).queue, ∃ x ∈ j.members, x.ready + 122880 ≤ s.now)
    (hout : (getFdr s fdr.val).out = false) :
    ∃ t, exec (.transferStuck fdr) s = .next t ∧ (getFdr t fdr.val).out = true ∧ (getFdr t fdr.val).run = none
      ∧ (getFdr t fdr.val).errCode = 0x20 ∧ t.mem.hbm = s.mem.hbm ∧ t.cores = s.cores ∧ PartKept s t := by
  obtain ⟨j, hj, x, hx, hready⟩ := hold
  obtain ⟨y, hfound⟩ : ∃ y, (((getFdr s fdr.val).run.toList ++ (getFdr s fdr.val).queue).flatMap (·.members)).find?
      (fun x => decide (x.ready + 122880 ≤ s.now)) = some y :=
    Option.isSome_iff_exists.1 (List.find?_isSome.2 ⟨x, List.mem_flatMap.2 ⟨j, hj, hx⟩, decide_eq_true hready⟩)
  obtain ⟨a, hex⟩ : ∃ a, exec (.transferStuck fdr) s
      = .next (refreshBacklog (settleMoves (feederOut (pieceFault s fdr.val y.stall 0x20 a) fdr.val 0x20))) := by
    show ∃ a, execTransferStuck fdr s = _
    unfold execTransferStuck
    dsimp only
    rw [hfound]
    dsimp only
    rw [if_neg (by rw [hout]; decide)]
    exact ⟨_, rfl⟩
  obtain ⟨hcode, hlanes, hunits⟩ := pieceFault_keeps s fdr.val y.stall 0x20 a
  obtain ⟨hlanes', hunits'⟩ := feederOut_keeps (pieceFault s fdr.val y.stall 0x20 a) fdr.val 0x20
  obtain ⟨hstop, hrun, herr⟩ := stuck_feederOut hcode 0x20
  generalize feederOut (pieceFault s fdr.val y.stall 0x20 a) fdr.val 0x20 = u at *
  have hfdr : getFdr (refreshBacklog (settleMoves u)) fdr.val = getFdr u fdr.val :=
    getFdr_of_feeders ((feeders_refreshBacklog _).trans (feeders_settleMoves u)) _
  have hoff : offTasks (refreshBacklog (settleMoves u)) = offTasks u := (offTasks_refreshBacklog _).trans (offTasks_settleMoves u)
  refine ⟨_, hex, by rw [hfdr, hstop], by rw [hfdr, hrun], by rw [hfdr, herr], hbm_of_next rfl hex, ?_, ?_⟩
  · exact cores_of_lanes ((lanes_of_offTasks hoff).trans (hlanes'.trans hlanes))
  · exact partKept_of_offUnits ((offUnits_of_offTasks hoff).trans (hunits'.trans hunits))

/-! ### Transfers are dispatched and watched -/

/-- Settles O14: the dispatch of a transfer by its kind, then the hold of a group, then the two watches, each by its rule above. -/
theorem transfersDispatchAndWatch : Obligations.TransfersDispatchAndWatch :=
  ⟨fun _ _ _ _ _ _ _ _ hgate hnext hd hout huse hroom hmoving hlist href hbank =>
    ⟨transferDispatch_queues hgate hnext hd hout huse hroom hmoving hlist href hbank,
      transferDispatch_opensGroup hgate hnext hd hout huse hroom hmoving hlist href hbank,
      transferDispatch_signals hgate hnext hd hout huse hroom hmoving hlist href hbank⟩,
    mcastHoldExpiry_closes, fun s => ⟨runStallDetect_faults s, transferStuck_stops s⟩⟩

end Sys2Proof.Machine
end

section
/-!
PROOFS. Chapter 09, the pieces of a STORE and of a LOAD (R300, R304, R308, R312, R316).
-/
namespace Sys2Proof.Machine

/-! ### What a piece counts (R308, R312, R316) -/

/-- `t` is `s` but for what counts a piece: the cache's lines, the open channel accesses, the stalls' counters, and the feeders' MERGED. -/
structure Counted (s t : State) : Prop where
  eq : t = { s with mem := { s.mem with cache := t.mem.cache, merge := t.mem.merge }, stalls := t.stalls, feeders := t.feeders }
  runs : ∀ i, (getStall t i).runs = (getStall s i).runs
  bytes : ∀ f, (getFdr t f).bytes = (getFdr s f).bytes

theorem Counted.refl (s : State) : Counted s s := ⟨rfl, fun _ => rfl, fun _ => rfl⟩

theorem Counted.trans {s t u : State} (h : Counted s t) (k : Counted t u) : Counted s u := by
  refine ⟨?_, fun i => (k.runs i).trans (h.runs i), fun f => (k.bytes f).trans (h.bytes f)⟩
  rw [k.eq, h.eq]

theorem Counted.mem {s t : State} (h : Counted s t) : t.mem.hbm = s.mem.hbm ∧ t.mem.poison = s.mem.poison := by
  rw [h.eq]
  exact ⟨rfl, rfl⟩

theorem Counted.offTasks {s t : State} (h : Counted s t) : Machine.offTasks t = Machine.offTasks s := by
  rw [h.eq]
  rfl

theorem Counted.getArr {s t : State} (h : Counted s t) (n : Nat) : Machine.getArr t n = Machine.getArr s n := by
  rw [h.eq]
  rfl

/-- Counting moves no run, so a transfer's scratchpad stays that of its run's array. -/
theorem Counted.xferArray {s t : State} (h : Counted s t) (x : Xfer) : Machine.xferArray t x = Machine.xferArray s x := by
  have hrun : getRun t x.owner = getRun s x.owner := by
    cases x.owner with
    | job i q seq => exact congrArg (List.find? (isRun q seq)) (h.runs i)
    | net c => rw [h.eq]; rfl
  unfold Machine.xferArray
  rw [hrun]

theorem counted_modStall (s : State) (i : Nat) (f : Stall → Stall) (h : ∀ x, (f x).runs = x.runs) : Counted s (modStall s i f) :=
  ⟨rfl, keeps_modStall Stall.runs s i f h, fun _ => rfl⟩

theorem counted_regionTouch (s : State) (i x n : Nat) (alloc : Bool) : Counted s (regionTouch s i x n alloc) := by
  unfold regionTouch cacheAccess
  refine List.foldlRecOn (motive := Counted s) _ _ (.refl s) fun t ht l _ => ht.trans ?_
  exact .trans (t := { t with mem := { t.mem with cache := (cacheTouch t.mem.cache l (stallWays s i) false alloc).1 } })
    ⟨rfl, fun _ => rfl, fun _ => rfl⟩ (counted_modStall _ _ _ (by intro x; split <;> rfl))

theorem mergeAccess_eq (s : State) (i win : Nat) (write : Bool) :
    ∃ ws, (mergeAccess s i win write).1 = { s with mem := { s.mem with merge := ws } } := by
  unfold mergeAccess
  dsimp only
  split <;> exact ⟨_, rfl⟩

/-- The step of `pieceDone` at a memory side: the piece joins the channel access open there, or opens one. -/
def sideMerged (f i : Nat) (s : State) (side : Option Nat) (write : Bool) : State :=
  match side with
  | some a =>
    let m := mergeAccess s i (a / 4096) write
    if m.2 then modFdr m.1 f (fun y => { y with merged := y.merged + 1 }) else m.1
  | none => s

theorem counted_sideMerged (f i : Nat) (s : State) (side : Option Nat) (write : Bool) : Counted s (sideMerged f i s side write) := by
  unfold sideMerged
  split
  next a =>
    obtain ⟨ws, heq⟩ := mergeAccess_eq s i (a / 4096) write
    have haccess : Counted s (mergeAccess s i (a / 4096) write).1 := by
      rw [heq]
      exact ⟨rfl, fun _ => rfl, fun _ => rfl⟩
    dsimp only
    split
    · refine haccess.trans ⟨rfl, fun _ => rfl, fun k => ?_⟩
      exact keeps_modFdr Feeder.bytes _ _ _ (by intro x; rfl) k
    · exact haccess
  · exact .refl s

/-! ### A piece that moves -/

/-- The state in which a piece's bytes move: its channel accesses, its lines and its bytes are counted. -/
def pieceCounted (s : State) (f : Nat) (x : Xfer) (p : Nat × Nat × Nat) : State :=
  let d := xferDesc x.desc
  let s := sideMerged f x.stall (sideMerged f x.stall s (pieceSrc s x p) false) (pieceDst s x p) true
  let s := if xferSrcMem d.kind then regionTouch s x.stall (d.src + p.1 * d.srcStride + p.2.1) p.2.2 (!d.noAlloc) else s
  modStall s x.stall (fun st => { st with
    fdrRd := if xferSrcMem d.kind then st.fdrRd + BitVec.ofNat 64 p.2.2 else st.fdrRd,
    fdrWr := if xferDstMem d.kind then st.fdrWr + BitVec.ofNat 64 p.2.2 else st.fdrWr })

/-- The state in which a piece has moved for every member. -/
def pieceMoved (s : State) (f : Nat) (x : Xfer) (g : List Xfer) (p : Nat × Nat × Nat) : State :=
  g.foldl (fun s y => movePiece s y p) (pieceCounted s f x p)

/-- A feeder that counts bytes. -/
def bytesMoved (n : Nat) (y : Feeder) : Feeder := { y with bytes := y.bytes + BitVec.ofNat 64 n }

theorem pieceDone_eq (s : State) (f : Nat) (x : Xfer) (g : List Xfer) (p : Nat × Nat × Nat) :
    pieceDone s f x g p = modFdr (pieceMoved s f x g p) f (bytesMoved (p.2.2 * g.length)) := rfl

theorem counted_pieceCounted (s : State) (f : Nat) (x : Xfer) (p : Nat × Nat × Nat) : Counted s (pieceCounted s f x p) := by
  unfold pieceCounted
  extract_lets d s1 s2
  have h1 : Counted s s1 := (counted_sideMerged ..).trans (counted_sideMerged ..)
  have h2 : Counted s1 s2 := by
    unfold s2
    split
    · exact counted_regionTouch ..
    · exact .refl s1
  exact (h1.trans h2).trans (counted_modStall _ _ _ fun _ => rfl)

/-! ### A piece that is not the last of its transfer (R300, R315) -/

/-- A feeder whose transfer, at a piece that is not its last, waits for its turn. -/
def pieceQueued (j : FdrJob) (y : Feeder) : Feeder := { y with run := none, queue := { j with piece := j.piece + 1 } :: y.queue }

section
variable {s : State} {fdr : Fin 16} {j : FdrJob} {x : Xfer} {rest : List Xfer} {p : Nat × Nat × Nat} (hrun : (getFdr s fdr.val).run = some j)
  (hmembers : j.members = x :: rest) (hpiece : (piecesOf (xferDesc x.desc))[j.piece]? = some p)
  (hmore : j.piece + 1 < (piecesOf (xferDesc x.desc)).length) (hwaits : waitsMem s fdr.val = false) (hout : (getFdr s fdr.val).out = false)
  (hcode : pieceCode s s x p .none = none) (hscr : pieceScrBad s x p .none = none)
include hrun hmembers hpiece hmore hwaits hout hcode hscr

theorem exec_pieceEnd : exec (.pieceEnd fdr .none) s
    = .next (settleMoves (nextPiece (modFdr (pieceDone s fdr.val x (x :: rest) p) fdr.val (pieceQueued j)) fdr.val)) := by
  show execPieceEnd fdr .none s = _
  have hmet : pieceMet s fdr.val x p .none = s := rfl
  unfold execPieceEnd pieceQueued
  dsimp only
  rw [hrun]
  dsimp only
  rw [hmembers]
  dsimp only
  rw [if_neg (by rw [hwaits, hout]; decide), hpiece]
  dsimp only
  rw [hmet, hcode, hscr]
  dsimp only
  rw [if_pos hmore]

/-- What a clean piece leaves: its bytes moved and counted, and its transfer's next piece with the feeder. -/
theorem pieceEnd_moves : ∃ t, exec (.pieceEnd fdr .none) s = .next t ∧ t.mem = (pieceMoved s fdr.val x (x :: rest) p).mem
    ∧ offTasks t = offTasks (pieceMoved s fdr.val x (x :: rest) p)
    ∧ { j with piece := j.piece + 1 } ∈ (getFdr t fdr.val).run.toList ++ (getFdr t fdr.val).queue
    ∧ (getFdr t fdr.val).bytes = (getFdr (pieceMoved s fdr.val x (x :: rest) p) fdr.val).bytes + BitVec.ofNat 64 (p.2.2 * (rest.length + 1)) := by
  have hex := exec_pieceEnd hrun hmembers hpiece hmore hwaits hout hcode hscr
  rw [pieceDone_eq] at hex
  generalize pieceMoved s fdr.val x (x :: rest) p = u at *
  generalize hv : modFdr (modFdr u fdr.val (bytesMoved (p.2.2 * (x :: rest).length))) fdr.val (pieceQueued j) = v at hex
  have hself : getFdr v fdr.val = pieceQueued j (bytesMoved (p.2.2 * (x :: rest).length) (getFdr u fdr.val)) := by
    rw [← hv, getFdr_modFdr, getFdr_modFdr]
  have hend : getFdr (settleMoves (nextPiece v fdr.val)) fdr.val = getFdr (nextPiece v fdr.val) fdr.val :=
    getFdr_of_feeders (feeders_settleMoves _) _
  refine ⟨_, hex, ?_, ?_, ?_, ?_⟩
  · rw [mem_of_holdings (holdings_settleMoves _), mem_nextPiece, ← hv, modFdr_mem, modFdr_mem]
  · rw [offTasks_settleMoves, offTasks_nextPiece, ← hv, offTasks_modFdr, offTasks_modFdr]
  · rw [hend]
    refine mem_fdrJobs_nextPiece ?_
    rw [hself]
    exact List.mem_cons_self
  · rw [hend, (offWork_counts (offWork_nextPiece ..)).2, hself]
    rfl

end

/-! ### STORE (R304) -/

theorem feeders_regionWrite (s : State) (i x : Nat) (bs : List Byte) (alloc : Bool) : (regionWrite s i x bs alloc).feeders = s.feeders := by
  obtain ⟨lines, ss, hcache⟩ := cacheAccess_eq s i (regionAddr s i x) bs.length true alloc
  unfold regionWrite
  rw [hcache]
  rfl

/-- The bytes that a piece of a STORE reads of its window on the scratchpad. -/
def storeBytes (s : State) (x : Xfer) (p : Nat × Nat × Nat) : List Byte :=
  let d := xferDesc x.desc
  let n := (xferArray s x).getD 0
  scrRead (getArr s n) (xferWindow s x.stall n d) (scrSide (xferWindow s x.stall n d) d.src d.srcStride p.1 + p.2.1) p.2.2

theorem length_storeBytes (s : State) (x : Xfer) (p : Nat × Nat × Nat) : (storeBytes s x p).length = p.2.2 := by
  simp [storeBytes, scrRead]

theorem movePiece_store {s : State} {x : Xfer} (h : (xferDesc x.desc).kind = 2) (p : Nat × Nat × Nat) :
    movePiece s x p = regionWrite s x.stall ((xferDesc x.desc).dst + p.1 * (xferDesc x.desc).dstStride + p.2.1) (storeBytes s x p)
      (!(xferDesc x.desc).noAlloc) := by
  unfold movePiece
  dsimp only
  rw [h]
  rfl

theorem storeBytes_of_counted {s u : State} (h : Counted s u) (x : Xfer) (p : Nat × Nat × Nat) : storeBytes u x p = storeBytes s x p := by
  unfold storeBytes xferWindow
  rw [h.xferArray]
  dsimp only
  rw [h.getArr]

/-- A clean piece of a STORE reads no memory that could fail. -/
theorem pieceCode_store {s : State} {x : Xfer} (h : (xferDesc x.desc).kind = 2) (p : Nat × Nat × Nat) : pieceCode s s x p .none = none := by
  unfold pieceCode
  dsimp only
  rw [h]
  rfl

/-- A piece of a STORE changes its bytes of memory alone, is counted, and its transfer goes on (R300, R304, R316). -/
theorem pieceEnd_stores (s : State) (fdr : Fin 16) (j : FdrJob) (x : Xfer) (p : Nat × Nat × Nat) (d : XferDesc) (n a : Nat)
    (hrun : (getFdr s fdr.val).run = some j) (hmembers : j.members = [x]) (hd : d = xferDesc x.desc) (hkind : d.kind = 2)
    (hpiece : (piecesOf d)[j.piece]? = some p) (hmore : j.piece + 1 < (piecesOf d).length) (hwaits : waitsMem s fdr.val = false)
    (hout : (getFdr s fdr.val).out = false) (hscr : pieceScrBad s x p .none = none) (hn : n = (xferArray s x).getD 0)
    (ha : a = regionAddr s x.stall (d.dst + p.1 * d.dstStride + p.2.1)) :
    ∃ t, exec (.pieceEnd fdr .none) s = .next t
      ∧ t.mem.hbm = devPut s.mem.hbm a (scrRead (getArr s n) (xferWindow s x.stall n d)
          (scrSide (xferWindow s x.stall n d) d.src d.srcStride p.1 + p.2.1) p.2.2)
      ∧ (∀ k, (∀ b, b < p.2.2 → devKey (a + b) ≠ k) → tget 0 t.mem.hbm k = tget 0 s.mem.hbm k)
      ∧ { j with piece := j.piece + 1 } ∈ (getFdr t fdr.val).run.toList ++ (getFdr t fdr.val).queue
      ∧ (getFdr t fdr.val).bytes = (getFdr s fdr.val).bytes + BitVec.ofNat 64 p.2.2
      ∧ t.cores = s.cores ∧ t.paths = s.paths ∧ PartKept s t := by
  subst hd hn ha
  obtain ⟨t, hex, hmem, hoff, hjob, hbytes⟩ := pieceEnd_moves hrun hmembers hpiece hmore hwaits hout (pieceCode_store hkind p) hscr
  have hcounted := counted_pieceCounted s fdr.val x p
  rw [show pieceMoved s fdr.val x [x] p = movePiece (pieceCounted s fdr.val x p) x p from rfl, movePiece_store hkind,
    storeBytes_of_counted hcounted] at hmem hoff hbytes
  have hhbm := (congrArg Mem.hbm hmem).trans (regionWrite_hbm ..)
  rw [hcounted.mem.1, regionAddr_of_offTasks hcounted.offTasks] at hhbm
  have hkept : offTasks t = offTasks s := hoff.trans ((offTasks_regionWrite ..).trans hcounted.offTasks)
  refine ⟨t, hex, hhbm, fun k hk => ?_, hjob, ?_, cores_of_lanes (lanes_of_offTasks hkept), paths_of_lanes (lanes_of_offTasks hkept),
    partKept_of_offTasks hkept⟩
  · rw [hhbm]
    exact tget_devPut_other _ _ _ _ fun b hb => hk b (by rwa [length_storeBytes] at hb)
  · rw [hbytes, getFdr_of_feeders (feeders_regionWrite ..), hcounted.bytes, List.length_nil, Nat.zero_add, Nat.mul_one]

/-! ### LOAD (R304, R309) -/

/-- A piece of a LOAD writes an array's bank. -/
theorem movePiece_load {s : State} {x : Xfer} (h : (xferDesc x.desc).kind = 1) (p : Nat × Nat × Nat) :
    ∃ n f, movePiece s x p = modArr s n f := by
  unfold movePiece
  dsimp only
  rw [h]
  exact ⟨_, _, rfl⟩

theorem pieceMoved_load {g : List Xfer} (h : ∀ y ∈ g, (xferDesc y.desc).kind = 1) (s : State) (f : Nat) (x : Xfer) (p : Nat × Nat × Nat) :
    ∃ as, pieceMoved s f x g p = { pieceCounted s f x p with arrays := as } := by
  refine List.foldlRecOn (motive := fun t : State => ∃ as, t = { pieceCounted s f x p with arrays := as }) g _ ⟨_, rfl⟩ ?_
  rintro _ ⟨as, rfl⟩ y hy
  obtain ⟨n, write, hmove⟩ := movePiece_load (s := { pieceCounted s f x p with arrays := as }) (h y hy) p
  exact ⟨_, hmove⟩

/-- A clean piece of a LOAD reads memory that does not fail, and no word of a scratchpad. -/
theorem pieceCode_load {s : State} {x : Xfer} {p : Nat × Nat × Nat} (h : (xferDesc x.desc).kind = 1)
    (hgood : regionBad s x.stall ((xferDesc x.desc).src + p.1 * (xferDesc x.desc).srcStride + p.2.1) p.2.2 = false) :
    pieceCode s s x p .none = none ∧ pieceScrBad s x p .none = none := by
  constructor
  · unfold pieceCode
    dsimp only
    rw [hgood, Bool.and_false]
    rfl
  · have hwords : pieceScr s x p = [] := by
      unfold pieceScr
      dsimp only
      rw [h]
      rfl
    unfold pieceScrBad
    rw [hwords]
    rfl

/-- A piece of a LOAD changes no byte of memory, and its transfer goes on (R300, R304). -/
theorem pieceEnd_loads (s : State) (fdr : Fin 16) (j : FdrJob) (x : Xfer) (rest : List Xfer) (p : Nat × Nat × Nat)
    (hrun : (getFdr s fdr.val).run = some j) (hmembers : j.members = x :: rest) (hkind : ∀ y ∈ x :: rest, (xferDesc y.desc).kind = 1)
    (hpiece : (piecesOf (xferDesc x.desc))[j.piece]? = some p) (hmore : j.piece + 1 < (piecesOf (xferDesc x.desc)).length)
    (hwaits : waitsMem s fdr.val = false) (hout : (getFdr s fdr.val).out = false)
    (hgood : regionBad s x.stall ((xferDesc x.desc).src + p.1 * (xferDesc x.desc).srcStride + p.2.1) p.2.2 = false) :
    ∃ t, exec (.pieceEnd fdr .none) s = .next t ∧ t.mem.hbm = s.mem.hbm ∧ t.mem.poison = s.mem.poison
      ∧ { j with piece := j.piece + 1 } ∈ (getFdr t fdr.val).run.toList ++ (getFdr t fdr.val).queue ∧ t.cores = s.cores ∧ PartKept s t := by
  obtain ⟨hcode, hscr⟩ := pieceCode_load (hkind x List.mem_cons_self) hgood
  obtain ⟨t, hex, hmem, hoff, hjob, -⟩ := pieceEnd_moves hrun hmembers hpiece hmore hwaits hout hcode hscr
  obtain ⟨as, hmoved⟩ := pieceMoved_load hkind s fdr.val x p
  obtain ⟨hhbm, hpoison⟩ := (counted_pieceCounted s fdr.val x p).mem
  rw [hmoved] at hmem hoff
  have hkept : offTasks t = offTasks s := hoff.trans (counted_pieceCounted s fdr.val x p).offTasks
  exact ⟨t, hex, (congrArg Mem.hbm hmem).trans hhbm, (congrArg Mem.poison hmem).trans hpoison, hjob,
    cores_of_lanes (lanes_of_offTasks hkept), partKept_of_offTasks hkept⟩

/-! ### Pieces move -/

/-- Settles O15: a piece of a STORE, then one of a LOAD, each by its rule above. -/
theorem piecesMove : Obligations.PiecesMove := ⟨pieceEnd_stores, pieceEnd_loads⟩

end Sys2Proof.Machine
end

section
/-!
PROOFS. Chapter 11: the rotation of the data registers (R364), and the frame of the pacer instructions (R359, R371, R382).
-/
namespace Sys2Proof.Machine

/-! ### The data register that a number names (R364) -/

theorem physD_of_lt {c : PCore} {n : BitVec 6} (h : n.toNat < 32) : physD c n = n.toNat := if_pos h

/-- The model counts from 32 up so that no difference is negative; the floor modulo of R364 is the same number. -/
theorem physD_of_le {c : PCore} {n : BitVec 6} (h : 32 ≤ n.toNat) :
    physD c n = 32 + (((n.toNat : Int) - 32 - (c.rrb.toNat : Int)) % 32).toNat := by
  rw [physD, if_neg (by omega)]
  omega

/-- One rotation moves a register to the next number; rrb itself wraps at 32, which the modulo absorbs (R378). -/
theorem physD_succ_of_rrb_succ {c c' : PCore} {n : BitVec 6} (hrrb : c'.rrb = c.rrb + 1) (hlo : 32 ≤ n.toNat) (hhi : n.toNat ≤ 62) :
    physD c' (n + 1) = physD c n := by
  have hn : (n + 1).toNat = n.toNat + 1 := by bv_omega
  have hr : c'.rrb.toNat = (c.rrb.toNat + 1) % 32 := by rw [hrrb, BitVec.toNat_add]; rfl
  rw [physD_of_le hlo, physD_of_le (by omega), hn, hr]
  omega

/-- A read under another numbering gives the value written, where both numbers name one physical register. -/
theorem getD_of_physD_eq {c c' : PCore} {n m : BitVec 6} {v : BitVec 128} (hd : c'.d = (setD c n v).d) (h : physD c' m = physD c n) :
    getD c' m = v := by
  rw [getD, hd, h]
  exact tget_tset_same ..

/-- Settles O6: each clause is the read or write of the physical register that the number names. -/
theorem registersRotate : Obligations.RegistersRotate := fun c n v => by
  refine ⟨fun hlow => ?_, fun hhigh => ?_, fun hlo hhi => ?_⟩
  · rw [getD, setD, physD_of_lt hlow]
    exact ⟨rfl, rfl⟩
  · rw [getD, setD, physD_of_le hhigh]
    exact ⟨rfl, rfl⟩
  · exact getD_of_physD_eq (c := c) rfl (physD_succ_of_rrb_succ rfl hlo hhi)

/-! ### What an instruction leaves alone (R359, R371) -/

theorem coreOnly_refl (s : State) (n : Nat) : CoreOnly s s n := ⟨fun _ _ => rfl, rfl⟩

theorem coreOnly_modCore (s : State) (n : Nat) (f : PCore → PCore) : CoreOnly s (modCore s n f) n :=
  ⟨fun _ h => getCore_modCore_ne s f h.symm, rfl⟩

theorem coreOnly_modCore_drew (s : State) (n : Nat) (f : PCore → PCore) : CoreOnly s (modCore (drew s) n f) n :=
  ⟨fun _ h => getCore_modCore_ne (drew s) f h.symm, rfl⟩

/-- Whatever an instruction computes, its core alone takes it: the core does not issue, or the format is reserved, or the
instruction runs on the core with a free value. -/
theorem coreOnly_instr (s : State) (n : Nat) (f : W64 → PCore → PCore) : CoreOnly s (instr s n f) n := by
  unfold instr
  dsimp only
  split_ifs with hidle hreserved
  · exact coreOnly_refl s n
  · exact coreOnly_modCore s n _
  · exact coreOnly_modCore_drew s n _

/-- A command that is one instruction of a core touches that core only. -/
theorem coreOnly_of_exec_instr {i : Instr} {s : State} {n : Nat} {f : W64 → PCore → PCore} (h : exec i s = .next (instr s n f)) :
    ∃ t, exec i s = .next t ∧ CoreOnly s t n :=
  ⟨_, h, coreOnly_instr s n f⟩

theorem clearDetOvf_of_ne {dst : PcrReg} (h : ∀ det, dst ≠ .edOvf det) (s : State) (n : Nat) (src : PcrSource) :
    clearDetOvf s n dst src = s := by
  cases dst with
  | edOvf det => exact absurd rfl (h det)
  | _ => rfl

/-- Where the destination is no detector's flag, a scalar instruction is its instruction and nothing beside it (R382). -/
theorem exec_pcrScalar_of_ne {dst : PcrReg} (h : ∀ det, dst ≠ .edOvf det) (core : Fin 48) (src : PcrSource) (s : State) :
    exec (.pcrScalar core dst src) s = .next (instr s core.val (scalar s core.val dst src)) := by
  change execPcrScalar core dst src s = _
  simp only [execPcrScalar, clearDetOvf_of_ne h, ite_self]

/-- Settles O34: each command is one instruction of its core; only the scalar one has an effect beside it to rule out. -/
theorem pacerInstructionFrame : Obligations.PacerInstructionFrame := by
  intro s core i hi
  obtain ⟨_, _, _, _, rfl⟩ | ⟨_, _, _, _, _, _, _, _, rfl⟩ | ⟨_, _, _, rfl⟩ | ⟨_, _, _, _, rfl⟩ | ⟨_, _, _, _, rfl⟩ | ⟨_, _, hdst, rfl⟩
    | ⟨_, _, _, rfl⟩ | ⟨_, _, _, _, rfl⟩ | rfl | ⟨_, rfl⟩ | ⟨_, _, rfl⟩ | ⟨_, _, _, _, _, rfl⟩ | ⟨_, _, _, _, rfl⟩ | rfl | ⟨_, rfl⟩
    | ⟨_, _, _, _, rfl⟩ := hi
  on_goal 6 => exact coreOnly_of_exec_instr (exec_pcrScalar_of_ne hdst core _ s)
  all_goals exact coreOnly_of_exec_instr rfl

end Sys2Proof.Machine
end

section
/-!
PROOFS. Chapter 12, samples and gain: SAMP of a converter stream, and the ends of gain windows and freezes (R408 to R412, R443, R558).
-/
namespace Sys2Proof.Machine

theorem accepted_of_told {s t : State} (h : t = told s t) : t.accepted = s.accepted := by rw [h]; rfl

theorem getCore_of_told {s t : State} (h : t = told s t) (n : Nat) : getCore t n = getCore s n := by rw [h]; rfl

theorem hns_of_told {s t : State} (h : t = told s t) : t.hns = s.hns := by rw [h]; rfl

/-! ### What a late message and the mark of a slot leave alone (R442, R554) -/

theorem linkOk_of_told {s t : State} (h : t = told s t) (hg : ∀ g, (getGirth t g).state = (getGirth s g).state) (cfg : CarrierCfg) :
    linkOk t cfg = linkOk s cfg := by
  have hl : carrierLanes t cfg = carrierLanes s cfg := by rw [h]; rfl
  unfold linkOk
  dsimp only
  rw [hl, hg, getIod_of_told h]

theorem girthState_timLate (s : State) (g : Nat) (stamp : W64) (after k : Nat) :
    (getGirth (timLate s g stamp after) k).state = (getGirth s k).state := by
  unfold timLate
  dsimp only
  split
  · rfl
  · rw [report_girth_state]
    by_cases hk : g = k
    · subst hk
      rw [getGirth_modGirth]
    · rw [getGirth_modGirth_ne _ _ hk]

theorem carrier_timLate (s : State) (g : Nat) (opc : Byte) (stamp : W64) (after : Nat) :
    (aside (timLate (takeMsg s g opc) g stamp after)).carrier = (aside s).carrier := by
  refine Eq.trans ?_ (congrArg Aside.carrier (aside_takeMsg s g opc))
  generalize takeMsg s g opc = u
  unfold timLate
  dsimp only
  split
  · rfl
  · rw [aside_report_carrier]
    rfl

@[simp] theorem offSlots_markAt (s : State) (c : Nat) (cfg : CarrierCfg) (t : Nat) (f : SlotRec → SlotRec) :
    offSlots (markAt s c cfg t f) = offSlots s := by
  unfold markAt
  split
  · rw [offSlots_modSlots, offSlots_touchSlot]
  · rfl

theorem aside_modSlots (s : State) (c : Nat) (p : SlotRec → Bool) (f : SlotRec → SlotRec) : aside (modSlots s c p f) = aside s := by
  unfold modSlots
  exact aside_modCarrier _ _ _ fun _ => rfl

theorem swaps_markAt (s : State) (c : Nat) (cfg : CarrierCfg) (t : Nat) (f : SlotRec → SlotRec) (k : Nat) :
    (getCarrier (markAt s c cfg t f) k).swaps = (getCarrier s k).swaps := by
  have hmark : aside (markAt s c cfg t f) = aside s := by
    unfold markAt
    split
    · rw [aside_modSlots, aside_touchSlot]
    · rfl
  exact (congrArg Carrier.swaps (aside_carrier (congrArg Aside.carrier hmark) k) :)

/-- The detector moves the carriers alone (R411). -/
@[simp] theorem offSlots_detect (s : State) (c : Nat) (cfg : CarrierCfg) (t0 : Nat) : offSlots (detect s c cfg t0) = offSlots s := by
  have htick (s : State) (t : Nat) (holds : Bool) : offSlots (detectTick s c cfg t holds) = offSlots s := by
    unfold detectTick
    dsimp only
    split
    · split <;> simp
    · simp
  unfold detect
  dsimp only
  split
  · rfl
  · refine foldl_keep offSlots _ (fun s k => ?_) _ _
    split
    · exact htick ..
    · rfl

theorem getStream_of_aside {s t : State} (h : (aside t).carrier = (aside s).carrier) (c a : Nat) :
    getStream (getCarrier t c) a = getStream (getCarrier s c) a := by
  have hstreams : (getCarrier t c).streams = (getCarrier s c).streams := (congrArg Carrier.streams (aside_carrier h c) :)
  rw [getStream, hstreams, ← getStream]

/-! ### Ingest (R408, R412) -/

/-- A state without its cores, its carriers and what else reporting changes. -/
def offIngest (s : State) : State :=
  { s with cores := [], sent := [], stalls := [], girths := [], carriers := [], trail := {}, flt := {} }

/-- What stays while samples are ingested: the state beside the cores and reporting, and the carriers' replacements. -/
def ingestView (s : State) : State × (Nat → List (Nat × Nat × Nat)) := (offIngest s, fun c => (getCarrier s c).swaps)

theorem offIngest_of_told {s t : State} (h : t = told s t) : offIngest t = offIngest s := by rw [h]; rfl

theorem offIngest_of_offSlots {s t : State} (h : offSlots t = offSlots s) : offIngest t = offIngest s := (congrArg offIngest h :)

/-- States that agree beside the cores and reporting hold the same memory, the same arrays and the same part. -/
theorem kept_of_offIngest {s t : State} (h : offIngest t = offIngest s) : t.mem = s.mem ∧ t.arrays = s.arrays ∧ PartKept s t := by
  have hk : (offIngest t).mem = (offIngest s).mem ∧ (offIngest t).arrays = (offIngest s).arrays ∧ PartKept (offIngest s) (offIngest t) := by
    rw [h]
    exact ⟨rfl, rfl, rfl, rfl, rfl, rfl, rfl, rfl, rfl, rfl, rfl, rfl, rfl, rfl⟩
  exact hk

theorem ingestView_of_offSlots {s t : State} (h : offSlots t = offSlots s) (hw : ∀ c, (getCarrier t c).swaps = (getCarrier s c).swaps) :
    ingestView t = ingestView s :=
  Prod.ext (offIngest_of_offSlots h) (funext hw)

theorem ingestView_modCore (s : State) (n : Nat) (f : PCore → PCore) : ingestView (modCore s n f) = ingestView s := rfl

theorem ingestView_markAt (s : State) (c : Nat) (cfg : CarrierCfg) (t : Nat) (f : SlotRec → SlotRec) :
    ingestView (markAt s c cfg t f) = ingestView s :=
  ingestView_of_offSlots (offSlots_markAt ..) (swaps_markAt s c cfg t f)

/-- The symbol and the useful sample that lie at a tick, where a useful one lies there. -/
def usefulAtTick (s : State) (c : Nat) (cfg : CarrierCfg) (t : Nat) : Option (Nat × Nat) :=
  (sampleAt s c cfg t).bind (fun y => usefulAt cfg y.2.2)

theorem usefulAtTick_of_view {s t : State} (h : ingestView t = ingestView s) (c : Nat) (cfg : CarrierCfg) (tick : Nat) :
    usefulAtTick t c cfg tick = usefulAtTick s c cfg tick :=
  (congrArg (fun x => usefulAtTick x.1 c cfg tick) h :)

theorem carrierCores_of_view {s t : State} (h : ingestView t = ingestView s) (c : Nat) : carrierCores t c = carrierCores s c := by
  have hswaps : (getCarrier t c).swaps = (getCarrier s c).swaps := congrFun (congrArg Prod.snd h) c
  have hcfg : carrierCfg t c = carrierCfg s c := (congrArg (fun x => carrierCfg x.1 c) h :)
  unfold carrierCores
  rw [hcfg]
  split
  · simp only [swapped, hswaps]
  · rfl

/-- A slot in which a sample was gained by a code, with what it saturated. -/
def slotGained (g : Byte) (sat : Nat) (sl : SlotRec) : SlotRec :=
  { sl with
    gainMin := if g < sl.gainMin then g else sl.gainMin, gainMax := if sl.gainMax < g then g else sl.gainMax,
    gainSat := sl.gainSat || sat != 0 }

/-- What `sampOp` does with one gained sample: its slot is marked, and a useful one goes to the stream's core. -/
def ingestSample (c : Nat) (cfg : CarrierCfg) (a t0 : Nat) (g : Byte) (s : State) (x : (W32 × Nat) × Nat) : State :=
  let s := markAt s c cfg (t0 + x.2) (slotGained g x.1.2)
  match usefulAtTick s c cfg (t0 + x.2), (carrierCores s c)[a]? with
  | some (sym, pos), some n => modCore s n (fun p => ingest cfg p sym pos x.1.1)
  | _, _ => s

/-- The core of a stream after one of its gained samples, by where the sample lies in the state `s`. -/
def coreSampled (s : State) (c : Nat) (cfg : CarrierCfg) (t0 : Nat) (p : PCore) (x : (W32 × Nat) × Nat) : PCore :=
  match usefulAtTick s c cfg (t0 + x.2) with
  | some (sym, pos) => ingest cfg p sym pos x.1.1
  | none => p

theorem coreSampled_of_view {s t : State} (h : ingestView t = ingestView s) (c : Nat) (cfg : CarrierCfg) (t0 : Nat) :
    coreSampled t c cfg t0 = coreSampled s c cfg t0 := by
  funext p x
  unfold coreSampled
  rw [usefulAtTick_of_view h]

/-- The samples of a message: the stream and the carrier's count move, then each sample is taken in, then the detector runs. -/
theorem sampOp_eq (s : State) (c : Nat) (cfg : CarrierCfg) (a t0 : Nat) (samples : List W32) {g : Byte}
    (hg : (getStream (getCarrier s c) a).gain = g) :
    ∃ f : Carrier → Carrier, sampOp s c cfg a t0 samples
      = detect ((samples.map (gainSample g)).zipIdx.foldl (ingestSample c cfg a t0 g) (modCarrier s c f)) c cfg t0
      ∧ ∀ x, (f x).swaps = x.swaps := by
  subst hg
  exact ⟨_, rfl, fun _ => rfl⟩

section
variable {s u : State} {c n a : Nat} (cfg : CarrierCfg) (t0 : Nat) (g : Byte) (hview : ingestView u = ingestView s)
  (hn : (carrierCores s c)[a]? = some n)
include hview hn

/-- One sample: the stream's core takes it where it is useful, and no other core changes. -/
theorem ingestSample_cores (x : (W32 × Nat) × Nat) :
    ingestView (ingestSample c cfg a t0 g u x) = ingestView s
      ∧ getCore (ingestSample c cfg a t0 g u x) n = coreSampled s c cfg t0 (getCore u n) x
      ∧ ∀ m, m ≠ n → getCore (ingestSample c cfg a t0 g u x) m = getCore u m := by
  have hcores : ∀ m, getCore (markAt u c cfg (t0 + x.2) (slotGained g x.1.2)) m = getCore u m := fun m =>
    (congrArg (fun y => getCore y m) (offSlots_markAt u c cfg (t0 + x.2) (slotGained g x.1.2)) :)
  have hmark := (ingestView_markAt u c cfg (t0 + x.2) (slotGained g x.1.2)).trans hview
  unfold ingestSample coreSampled
  dsimp only
  generalize markAt u c cfg (t0 + x.2) (slotGained g x.1.2) = v at hcores hmark ⊢
  rw [usefulAtTick_of_view hmark, carrierCores_of_view hmark, hn]
  cases usefulAtTick s c cfg (t0 + x.2) with
  | none => exact ⟨hmark, hcores n, fun m _ => hcores m⟩
  | some y =>
    refine ⟨(ingestView_modCore ..).trans hmark, ?_, fun m hm => ?_⟩
    · dsimp only
      rw [getCore_modCore, hcores]
    · exact (getCore_modCore_ne v _ hm.symm).trans (hcores m)

/-- The samples of a message, one after the other. -/
theorem foldl_ingestSample_cores (xs : List ((W32 × Nat) × Nat)) :
    ingestView (xs.foldl (ingestSample c cfg a t0 g) u) = ingestView s
      ∧ getCore (xs.foldl (ingestSample c cfg a t0 g) u) n = xs.foldl (coreSampled s c cfg t0) (getCore u n)
      ∧ ∀ m, m ≠ n → getCore (xs.foldl (ingestSample c cfg a t0 g) u) m = getCore u m := by
  induction xs generalizing u with
  | nil => exact ⟨hview, rfl, fun _ _ => rfl⟩
  | cons x xs ih =>
    obtain ⟨hstep, hcore, hother⟩ := ingestSample_cores cfg t0 g hview hn x
    obtain ⟨hrest, hcore', hother'⟩ := ih hstep
    refine ⟨hrest, ?_, fun m hm => (hother' m hm).trans (hother m hm)⟩
    rw [List.foldl_cons, hcore', hcore, List.foldl_cons]

end

/-- The samples of a stream reach its core alone, gained and each in its place. -/
theorem sampOp_ingests {s : State} {c n a : Nat} {g : Byte} (cfg : CarrierCfg) (t0 : Nat) (samples : List W32)
    (hn : (carrierCores s c)[a]? = some n) (hg : (getStream (getCarrier s c) a).gain = g) :
    offIngest (sampOp s c cfg a t0 samples) = offIngest s
      ∧ getCore (sampOp s c cfg a t0 samples) n
        = samples.zipIdx.foldl (fun p x => coreSampled s c cfg t0 p (gainSample g x.1, x.2)) (getCore s n)
      ∧ ∀ m, m ≠ n → getCore (sampOp s c cfg a t0 samples) m = getCore s m := by
  obtain ⟨f, heq, hf⟩ := sampOp_eq s c cfg a t0 samples hg
  have htaken : ingestView (modCarrier s c f) = ingestView s := by
    refine ingestView_of_offSlots rfl fun k => ?_
    by_cases hk : c = k
    · subst hk
      rw [getCarrier_modCarrier, hf]
    · rw [getCarrier_modCarrier_ne _ _ hk]
  obtain ⟨hview, hcore, hother⟩ := foldl_ingestSample_cores cfg t0 g htaken hn (samples.map (gainSample g)).zipIdx
  rw [heq]
  generalize (samples.map (gainSample g)).zipIdx.foldl (ingestSample c cfg a t0 g) (modCarrier s c f) = u at hview hcore hother
  have hdetect := offSlots_detect u c cfg t0
  have hcores (m : Nat) : getCore (detect u c cfg t0) m = getCore u m := (congrArg (fun x => getCore x m) hdetect :)
  refine ⟨?_, ?_, fun m hm => (hcores m).trans (hother m hm)⟩
  · exact (offIngest_of_offSlots hdetect).trans (congrArg Prod.fst hview)
  · rw [hcores, hcore, List.zipIdx_map, List.foldl_map]
    rfl

/-! ### SAMP (R408, R412, R443, R558) -/

/-- The state in which a message's samples meet their carrier: the message has left the link, and a late one is reported. -/
def sampTaken (s : State) (iod : Nat) (stamp : W64) : State := timLate (takeMsg s iod 0x33) iod stamp 16

theorem sampTaken_told (s : State) (iod : Nat) (stamp : W64) : sampTaken s iod stamp = told s (sampTaken s iod stamp) :=
  timLate_takeMsg_told ..

theorem girthState_sampTaken (s : State) (iod : Nat) (stamp : W64) (g : Nat) :
    (getGirth (sampTaken s iod stamp) g).state = (getGirth s g).state :=
  (girthState_timLate ..).trans (takeMsg_girth_state ..)

theorem carrier_sampTaken (s : State) (iod : Nat) (stamp : W64) : (aside (sampTaken s iod stamp)).carrier = (aside s).carrier :=
  carrier_timLate ..

section
variable {s : State} {iod : Fin 2} {stream : Fin 16} (stamp : W64) (samples : List W32) (hb : msgBlocked s iod.val 0x33 = false)
include hb

/-- Before acceptance, samples are discarded. -/
theorem samp_discards (hacc : s.accepted = false) : ∃ t, exec (.samp iod stream stamp samples) s = .next t ∧ ToldOnly s t := by
  have htold := sampTaken_told s iod.val stamp
  exact ⟨_, (if_neg (by rw [hb]; decide)).trans (if_pos (by rw [← sampTaken, accepted_of_told htold, hacc]; decide)), htold⟩

theorem exec_samp_of_carrier {cfg : CarrierCfg} (hacc : (sampTaken s iod.val stamp).accepted = true)
    (hcfg : (sampTaken s iod.val stamp).hns.carriers.find? (fun r => decide (r.laneBase ≤ 16 * iod.val + stream.val)
      && decide (16 * iod.val + stream.val < r.laneBase + r.streams)) = some cfg) (hlink : linkOk (sampTaken s iod.val stamp) cfg = true) :
    exec (.samp iod stream stamp samples) s = .next (sampOp (sampTaken s iod.val stamp) cfg.carrier cfg
      (16 * iod.val + stream.val - cfg.laneBase) (stampAbs (sampTaken s iod.val stamp) stamp) samples) := by
  show execSamp iod stream stamp samples s = _
  unfold execSamp
  dsimp only
  rw [← sampTaken, if_neg (by rw [hb]; decide), if_neg (by rw [hacc]; decide), hcfg]
  exact if_pos hlink

/-- Samples of a stream whose carrier's link is up go to the stream's core, gained as they come in (log 29). -/
theorem samp_ingests {cfg : CarrierCfg} {n : Nat} (hacc : s.accepted = true)
    (hcfg : s.hns.carriers.find? (fun r => decide (r.laneBase ≤ 16 * iod.val + stream.val)
      && decide (16 * iod.val + stream.val < r.laneBase + r.streams)) = some cfg) (hlink : linkOk s cfg = true)
    (hn : (carrierCores s cfg.carrier)[16 * iod.val + stream.val - cfg.laneBase]? = some n) :
    ∃ t, exec (.samp iod stream stamp samples) s = .next t
      ∧ getCore t n = samples.zipIdx.foldl (fun p x => coreSampled s cfg.carrier cfg (stampAbs s stamp) p
          (gainSample (getStream (getCarrier s cfg.carrier) (16 * iod.val + stream.val - cfg.laneBase)).gain x.1, x.2)) (getCore s n)
      ∧ (∀ m, m ≠ n → getCore t m = getCore s m) ∧ t.mem = s.mem ∧ t.arrays = s.arrays ∧ PartKept s t := by
  have htold := sampTaken_told s iod.val stamp
  have hgirth := girthState_sampTaken s iod.val stamp
  have hcarrier := carrier_sampTaken s iod.val stamp
  have hexec := exec_samp_of_carrier (stream := stream) stamp samples hb (cfg := cfg)
  generalize sampTaken s iod.val stamp = u at htold hgirth hcarrier hexec
  generalize 16 * iod.val + stream.val - cfg.laneBase = a at hn hexec
  have hview : ingestView u = ingestView s :=
    Prod.ext (offIngest_of_told htold) (funext fun c => (congrArg Carrier.swaps (aside_carrier hcarrier c) :))
  have hstamp : stampAbs u stamp = stampAbs s stamp := by
    unfold stampAbs
    rw [air_of_told htold]
  have hgain := congrArg StreamRec.gain (getStream_of_aside hcarrier cfg.carrier a)
  have hcores (m : Nat) : getCore u m = getCore s m := getCore_of_told htold m
  rw [accepted_of_told htold, hns_of_told htold, linkOk_of_told htold hgirth, hstamp] at hexec
  rw [← carrierCores_of_view hview] at hn
  obtain ⟨hoff, hcore, hother⟩ := sampOp_ingests cfg (stampAbs s stamp) samples hn hgain
  refine ⟨_, hexec hacc hcfg hlink, ?_, fun m hm => (hother m hm).trans (hcores m), kept_of_offIngest (hoff.trans (offIngest_of_told htold))⟩
  rw [hcore, coreSampled_of_view hview, hcores]

end

/-! ### The end of a gain window (R409, R410) -/

theorem getStream_foldl_modStream (r : Nat → StreamRec) (l : List Nat) (ca : Carrier) (b : Nat) :
    getStream (l.foldl (fun x a => modStream x a (fun _ => r a)) ca) b = if b ∈ l then r b else getStream ca b := by
  induction l generalizing ca with
  | nil => rfl
  | cons a l ih =>
    rw [List.foldl_cons, ih]
    by_cases hl : b ∈ l
    · rw [if_pos hl, if_pos (List.mem_cons_of_mem a hl)]
    · rw [if_neg hl]
      by_cases hab : a = b
      · subst hab
        rw [if_pos List.mem_cons_self]
        exact tget_tmod_same {} ca.streams a (fun _ => r a)
      · rw [if_neg (by simpa [Ne.symm hab] using hl)]
        exact tget_tmod_ne {} ca.streams (fun _ => r a) hab

theorem slots_foldl_modStream (r : Nat → StreamRec) (l : List Nat) (ca : Carrier) :
    (l.foldl (fun x a => modStream x a (fun _ => r a)) ca).slots = ca.slots :=
  foldl_keep Carrier.slots _ (by intro x a; rfl) l ca

theorem agcStream_manual {cfg : CarrierCfg} (h : cfg.agcMode = 0) (ca : Carrier) (before a : Nat) :
    (agcStream cfg ca before a).gain = bits ca.gainSet (8 * a) 8 := by
  unfold agcStream
  rw [if_pos h]

/-- A window that ends gives every stream the gain of the carrier's mode, and moves nothing else but the carrier's streams. -/
theorem agcWindow_ends {s : State} {carrier : Fin 8} {cfg : CarrierCfg} (hcfg : carrierCfg s carrier.val = some cfg)
    (hend : (cfg.agcMode = 2 ∧ (∀ a, a < cfg.streams → 64 ≤ (getStream (getCarrier s carrier.val) a).count)) ∨
      (cfg.agcMode ≠ 2 ∧ (getCarrier s carrier.val).gainAt ≠ some (slotNow s carrier.val))) :
    ∃ t, exec (.agcWindow carrier) s = .next t
      ∧ (∀ a, a < cfg.streams → getStream (getCarrier t carrier.val) a = agcStream cfg (getCarrier s carrier.val) (slotBefore s carrier.val) a)
      ∧ (getCarrier t carrier.val).slots = (getCarrier s carrier.val).slots ∧ (∀ c, c ≠ carrier.val → getCarrier t c = getCarrier s c)
      ∧ t = { s with carriers := t.carriers } := by
  have hexec : exec (.agcWindow carrier) s = execAgcWindow carrier s := rfl
  unfold execAgcWindow at hexec
  dsimp only at hexec
  rw [hcfg] at hexec
  dsimp only at hexec
  rw [if_pos ?_] at hexec
  · refine ⟨_, hexec, fun a ha => ?_, ?_, fun c hc => getCarrier_modCarrier_ne _ _ hc.symm, rfl⟩
    · rw [getCarrier_modCarrier, getStream_foldl_modStream, if_pos (List.mem_range.2 ha)]
    · rw [getCarrier_modCarrier, slots_foldl_modStream]
  · obtain ⟨hburst, hfull⟩ | ⟨hslot, hat⟩ := hend
    · rw [if_pos hburst]
      simpa using hfull
    · rw [if_neg hslot]
      simpa using hat

/-- The end of a freeze (R409). -/
theorem agcFreezeEnd_thaws {s : State} {carrier : Fin 8} {at_ : Nat} (hend : (getCarrier s carrier.val).freezeEnd = some at_)
    (hdue : at_ ≤ s.air.abs.toNat) : ∃ t, exec (.agcFreezeEnd carrier) s = .next t
      ∧ (getCarrier t carrier.val).frozen = false ∧ (getCarrier t carrier.val).freezeEnd = none
      ∧ (∀ c, c ≠ carrier.val → getCarrier t c = getCarrier s c) ∧ t = { s with carriers := t.carriers } := by
  have hexec : exec (.agcFreezeEnd carrier) s = execAgcFreezeEnd carrier s := rfl
  unfold execAgcFreezeEnd at hexec
  rw [hend] at hexec
  dsimp only at hexec
  rw [if_pos hdue] at hexec
  refine ⟨_, hexec, ?_, ?_, fun c hc => getCarrier_modCarrier_ne _ _ hc.symm, rfl⟩ <;> rw [getCarrier_modCarrier]

/-- Settles O31: samples by whether the harness is accepted, then the ends of a gain window and of a freeze, each by its rule above. -/
theorem samplesAndGain : Obligations.SamplesAndGain := by
  refine ⟨fun s iod stream stamp samples hb => ⟨fun cfg n hacc hcfg hlink hn => ?_, samp_discards stamp samples hb⟩,
    fun s carrier => ⟨fun cfg hcfg hend => ?_, fun at_ => agcFreezeEnd_thaws⟩⟩
  · exact samp_ingests stamp samples hb hacc hcfg hlink hn
  · obtain ⟨t, hexec, hgains, hslots, hother, hrest⟩ := agcWindow_ends hcfg hend
    refine ⟨t, hexec, hgains, fun hmode a ha => ?_, hslots, hother, hrest⟩
    rw [hgains a ha, agcStream_manual hmode]

end Sys2Proof.Machine
end

section
/-!
PROOFS. Chapter 12, decoded blocks and reports: the end of a block, DEADLINE and REPORT_COMPLETE (R427, R428, R431 to R436).
-/
namespace Sys2Proof.Machine

/-! ### The report unit's figures (R433) -/

/-- A field without a word that cannot be read costs a measurement no word. -/
theorem userMeas_reads_all {a : ArrayU} (h : a.ueRsv = []) (cfg : CarrierCfg) (u : PlanUser) (fr : Nat) : (userMeas cfg a u fr).2.2 = [] := by
  unfold userMeas
  simp only [h, List.contains_nil, List.filter_false, List.map_nil, List.eraseDups_nil]
  split <;> rfl

/-- A slot with its figures. -/
def slotMeasured (ms : List (Nat × Nat)) (sl : SlotRec) : SlotRec := { sl with meas := some ms }

/-- A measurement that meets no unreadable word takes the slot's figures, and a free value, and does no more. -/
theorem measure_eq {s : State} {c : Nat} {sl : SlotRec} (i : Nat) (cfg : CarrierCfg)
    (h : (getArr s (getCarrier s c).array).ueRsv = [] ∨ sl.users = []) :
    ∃ ms, measure s c i cfg sl = modSlots (drew s) c (fun x => x.start == sl.start) (slotMeasured ms) := by
  have hwords : (sl.users.map (fun u => userMeas cfg (getArr s (getCarrier s c).array) u (draw s).toNat)).flatMap (·.2.2) = [] := by
    obtain hread | hnone := h
    · simp [List.flatMap_map, userMeas_reads_all hread]
    · rw [hnone]
      rfl
  unfold measure
  dsimp only
  rw [hwords]
  exact ⟨_, rfl⟩

theorem settleSlot_eq {s : State} {c : Nat} (i : Nat) (cfg : CarrierCfg) (start : Nat)
    (h : (getArr s (getCarrier s c).array).ueRsv = []) :
    ∃ cs fr, settleSlot s c i cfg start = { s with carriers := cs, free := fr } := by
  unfold settleSlot
  split
  · split
    next sl _ _ =>
      obtain ⟨ms, hms⟩ := measure_eq (sl := sl) i cfg (.inl h)
      rw [hms]
      exact ⟨_, _, rfl⟩
    · exact ⟨_, _, rfl⟩
  · exact ⟨_, _, rfl⟩

/-! ### The end of a block (R427, R428, R431) -/

theorem regionWrite_eq (s : State) (i x : Nat) (bs : List Byte) (alloc : Bool) :
    ∃ m ss, regionWrite s i x bs alloc = { s with mem := m, stalls := ss } ∧ m.hbm = devPut s.mem.hbm (regionAddr s i x) bs := by
  have hhbm := regionWrite_hbm s i x bs alloc
  obtain ⟨lines, ss, hcache⟩ := cacheAccess_eq s i (regionAddr s i x) bs.length true alloc
  have heq : regionWrite s i x bs alloc = { s with mem := (regionWrite s i x bs alloc).mem, stalls := ss } := by
    unfold regionWrite
    rw [hcache]
    rfl
  exact ⟨_, _, heq, hhbm⟩

theorem blocks_keepBits (s : State) (e : Nat) (k : Kept) : (getDec (keepBits s e k) e).blocks = (getDec s e).blocks := by
  rw [keepBits, getDec_modDec]
  split <;> rfl

/-- What an engine decodes of a block: the LLRs at its places in the reserve bank, as the model decodes them (log 30). -/
def blockDecoded (s : State) (c : Nat) (cfg : CarrierCfg) (u : PlanUser) (code : CodeCfg) (b : BlockRec) : BlockResult :=
  decodeBlock code ((blockPlaces cfg u (code.nb * code.z) b.block).map (rsvByte (getArr s (getCarrier s c).array)))

/-- The place of a block's payload in the stall's region. -/
def payloadAt (s : State) (c : Nat) (cfg : CarrierCfg) (sl : SlotRec) (u : PlanUser) (code : CodeCfg) (b : BlockRec) : Nat :=
  cfg.payOff + cfg.paySlot * ringEntry s c cfg sl + u.pay + b.block * blockBytes code

section
variable {s : State} {c i : Nat} {cfg : CarrierCfg} {sl : SlotRec} {b : BlockRec} {u : PlanUser} {code : CodeCfg}
  (hu : sl.users[b.user]? = some u) (hcode : codeOf s c u.code = some code) (hread : (getArr s (getCarrier s c).array).ueRsv = [])
include hu hcode hread

/-- A block whose LLRs are all read: its payload is written, the engine counts it, and its record is kept. -/
theorem blockEnd_eq (e : Nat) : ∃ ds f, blockEnd s e c i cfg sl b false
    = setBlock (regionWrite { s with decoders := ds } i (payloadAt s c cfg sl u code b) (blockDecoded s c cfg u code b).payload false) c sl b f
    ∧ (tget {} ds e).blocks = (getDec s e).blocks + 1 := by
  have hfind : (blockPlaces cfg u (code.nb * code.z) b.block).find? (fun x => (getArr s (getCarrier s c).array).ueRsv.contains (x / 8)) = none := by
    simp [hread]
  unfold blockEnd
  dsimp only
  rw [hu, Option.bind_some, hcode]
  dsimp only
  rw [hfind]
  dsimp only
  rw [if_neg Bool.false_ne_true]
  split
  · exact ⟨_, _, rfl, (blocks_keepBits ..).trans (congrArg Decoder.blocks (getDec_modDec s e _))⟩
  · exact ⟨_, _, rfl, by rw [tget_tmod_same]; rfl⟩

/-- An engine ends a block: the payload stands at its place, exactly its bytes of memory change, and the engine counts the block. -/
theorem decodeBlockEnd_writes {dec : Fin 24} (hb : engineBlock s dec.val = some (c, sl, b)) (hcfg : carrierCfg s c = some cfg)
    (hstall : carrierStall s c = some i) (hserves : decServes s dec.val = true) (hruns : stallRuns s i = true)
    (harr : arrUsable s (getCarrier s c).array = true) :
    ∃ t, exec (.decodeBlockEnd dec .clean) s = .next t
      ∧ t.mem.hbm = devPut s.mem.hbm (regionAddr s i (payloadAt s c cfg sl u code b)) (blockDecoded s c cfg u code b).payload
      ∧ (getDec t dec.val).blocks = (getDec s dec.val).blocks + 1 ∧ t.arrays = s.arrays ∧ t.cores = s.cores ∧ PartKept s t := by
  have hexec : exec (.decodeBlockEnd dec .clean) s = execDecodeBlockEnd dec .clean s := rfl
  unfold execDecodeBlockEnd at hexec
  dsimp only at hexec
  rw [hb] at hexec
  dsimp only at hexec
  rw [hcfg, hstall] at hexec
  dsimp only at hexec
  rw [if_pos (by rw [hserves, hruns, harr]; rfl)] at hexec
  obtain ⟨ds, f, hend, hblocks⟩ := blockEnd_eq (i := i) (cfg := cfg) hu hcode hread dec.val
  obtain ⟨m, ss, hwrite, hhbm⟩ := regionWrite_eq { s with decoders := ds } i (payloadAt s c cfg sl u code b)
    (blockDecoded s c cfg u code b).payload false
  rw [hwrite] at hend
  have harray : (getCarrier (setBlock { s with decoders := ds, mem := m, stalls := ss } c sl b f) c).array = (getCarrier s c).array := by
    rw [setBlock, modSlots, getCarrier_modCarrier]
    rfl
  obtain ⟨cs, fr, hsettle⟩ := settleSlot_eq (s := setBlock { s with decoders := ds, mem := m, stalls := ss } c sl b f) (c := c) i cfg sl.start
    (by rw [harray]; exact hread)
  refine ⟨_, hexec, ?_⟩
  rw [show decide (WordRead.clean = .bad) = false from rfl, hend, hsettle]
  exact ⟨hhbm, hblocks, rfl, rfl, rfl, rfl, rfl, rfl, rfl, rfl, rfl, rfl, rfl, rfl, rfl, rfl⟩

end

/-! ### What raises an interrupt leaves the carriers alone (R143, R149) -/

theorem carriers_sendMsg (s : State) (g vc : Nat) (m : List Byte) : (sendMsg s g vc m).carriers = s.carriers := by
  rw [sendMsg_girths]

theorem carriers_queueOut (s : State) (o : Out) : (queueOut s o).carriers = s.carriers := by
  have hwrite (s : State) (i : Nat) (a : W64) (d : List Byte) : (sendWrite s i a d).carriers = s.carriers :=
    foldl_keep State.carriers _ (fun _ _ => carriers_sendMsg ..) _ _
  cases o with
  | mwr | msix => exact hwrite ..
  | mrd | cpl | rwr | rrd | time | tact => exact carriers_sendMsg ..
  | _ => rfl

theorem carriers_raiseVector (s : State) (i : Nat) (v : BitVec 11) : (raiseVector s i v).carriers = s.carriers := by
  unfold raiseVector fireVector
  dsimp only
  split
  · rfl
  · split
    · exact carriers_queueOut ..
    · rfl

theorem carriers_pushEvent (s : State) (e : Event) : (pushEvent s e).carriers = s.carriers := by
  unfold pushEvent
  dsimp only
  split
  · rfl
  · split <;> rfl

theorem carriers_raiseSource (s : State) (src : W16) : (raiseSource s src).carriers = s.carriers := by
  unfold raiseSource
  dsimp only
  split
  · rfl
  · split
    · exact carriers_pushEvent ..
    · exact foldl_keep State.carriers _ (fun _ _ => carriers_raiseVector ..) _ _

/-- A carrier's fault takes GUARANTEE from no further slot (R346): its report leaves the carriers alone. -/
theorem carriers_report {e : Event} (h : e.code.toNat / 4096 = 3) (s : State) : (report s e).carriers = s.carriers := by
  have hvoid (s : State) : voidFor s e.code e.kind e.unit.toNat e.stall = s := by
    have hcalm : ¬(e.code = 0x5004 ∨ e.code = 0x6001) := by
      rintro (h5 | h6)
      · rw [h5] at h; exact absurd h (by decide)
      · rw [h6] at h; exact absurd h (by decide)
    unfold voidFor
    rw [if_neg (by omega), if_neg (by omega), if_neg hcalm]
  unfold report
  dsimp only
  rw [hvoid]
  split
  · exact (carriers_raiseSource ..).trans (carriers_pushEvent ..)
  · exact carriers_pushEvent ..

theorem statusCode_carrier {status : Nat} {code : W16} (h : statusCode status = some code) : code.toNat / 4096 = 3 := by
  unfold statusCode at h
  split at h <;> cases h <;> decide

/-! ### The slots of a carrier -/

/-- The record of the slot that begins at a tick. -/
def slotAt (s : State) (c start : Nat) : Option SlotRec := (getCarrier s c).slots.find? (fun sl => sl.start == start)

theorem start_of_slotAt {s : State} {c start : Nat} {sl : SlotRec} (h : slotAt s c start = some sl) : sl.start = start :=
  beq_iff_eq.1 (List.find?_some (p := fun x : SlotRec => x.start == start) h)

theorem slotAt_modSlots {f : SlotRec → SlotRec} (hf : ∀ x, (f x).start = x.start) {s : State} {c start : Nat} {sl : SlotRec}
    (h : slotAt s c start = some sl) : slotAt (modSlots s c (fun x => x.start == start) f) c start = some (f sl) := by
  have hkeep : (fun x : SlotRec => x.start == start) ∘ (fun x => if (x.start == start) = true then f x else x) = fun x => x.start == start := by
    funext x
    dsimp only [Function.comp]
    split
    · rw [hf]
    · rfl
  rw [slotAt, modSlots, getCarrier_modCarrier]
  dsimp only
  rw [List.find?_map, hkeep, ← slotAt, h, Option.map_some, if_pos (beq_iff_eq.2 (start_of_slotAt h))]

/-- What holds of a slot's record after a change of it holds of the changed record of its tick. -/
theorem forall_slots_modSlots {f : SlotRec → SlotRec} {s : State} {c start : Nat} {p q : SlotRec → Prop}
    (hs : ∀ x ∈ (getCarrier s c).slots, x.start = start → p x)
    (hp : ∀ x, p x → q (f x)) : ∀ x ∈ (getCarrier (modSlots s c (fun x => x.start == start) f) c).slots, x.start = start → q x := by
  rw [modSlots, getCarrier_modCarrier]
  intro y hy hstart
  obtain ⟨x, hx, rfl⟩ := List.mem_map.1 hy
  by_cases hxs : (x.start == start) = true
  · rw [if_pos hxs]
    exact hp x (hs x hx (beq_iff_eq.1 hxs))
  · rw [if_neg hxs] at hstart
    exact absurd (beq_iff_eq.2 hstart) hxs

/-! ### Writing a report (R431, R433 to R436) -/

/-- A state without what the writing of a report changes, and the taking of the entry that asks for it. -/
def offReport (s : State) : State :=
  { s with air := {}, sent := [], free := 0, stalls := [], girths := [], carriers := [], school := {}, mem := {}, trail := {}, flt := {} }

theorem offReport_of_told {s t : State} (h : t = told s t) : offReport t = offReport s := by rw [h]; rfl

theorem kept_of_offReport {s t : State} (h : offReport t = offReport s) : t.arrays = s.arrays ∧ t.cores = s.cores ∧ PartKept s t := by
  have hk : (offReport t).arrays = (offReport s).arrays ∧ (offReport t).cores = (offReport s).cores ∧ PartKept (offReport s) (offReport t) := by
    rw [h]
    exact ⟨rfl, rfl, rfl, rfl, rfl, rfl, rfl, rfl, rfl, rfl, rfl, rfl, rfl, rfl⟩
  exact hk

/-- What a carrier shows of its reports: LAST_STATUS, the next number, and the counts of slots and of missed DEADLINEs (R435). -/
def tallies (ca : Carrier) : Byte × W32 × W64 × W32 := (ca.lastStatus, ca.repSeq, ca.slotsCnt, ca.miss)

theorem tallies_modSlots (s : State) (c k : Nat) (p : SlotRec → Bool) (f : SlotRec → SlotRec) :
    tallies (getCarrier (modSlots s c p f) k) = tallies (getCarrier s k) :=
  (congrArg tallies (aside_carrier (congrArg Aside.carrier (aside_modSlots s c p f)) k) :)

theorem getCarrier_of_carriers {s t : State} (h : t.carriers = s.carriers) (c : Nat) : getCarrier t c = getCarrier s c := by
  rw [getCarrier, h, ← getCarrier]

/-- A slot's report is written with a status: the carrier counts it, and the slot is marked. -/
structure Reported (s t : State) (c start status : Nat) : Prop where
  off : offReport t = offReport s
  counts : tallies (getCarrier t c) = (BitVec.ofNat 8 status, (getCarrier s c).repSeq + 1, (getCarrier s c).slotsCnt + 1,
    if status = 0x10 then satInc (getCarrier s c).miss else (getCarrier s c).miss)
  issued : ∀ x ∈ (getCarrier t c).slots, x.start = start → x.issued = true

/-- A report written from a state that differs before it in nothing that it leaves or counts. -/
theorem Reported.of_prior {s u t : State} {c start status : Nat} (h : Reported u t c start status) (hoff : offReport u = offReport s)
    (hcounts : tallies (getCarrier u c) = tallies (getCarrier s c)) : Reported s t c start status := by
  simp only [tallies, Prod.mk.injEq] at hcounts
  obtain ⟨-, hseq, hslots, hmiss⟩ := hcounts
  obtain ⟨hoff', hcounts', hissued⟩ := h
  exact ⟨hoff'.trans hoff, by rw [hcounts', hseq, hslots, hmiss], hissued⟩

theorem tapReported_eq (s : State) (c start status : Nat) (us : List PlanUser) :
    ∃ sc, tapReported s c start status us = { s with school := sc } := by
  unfold tapReported
  refine List.foldlRecOn (motive := fun t : State => ∃ sc, t = { s with school := sc }) _ _ ⟨_, rfl⟩ ?_
  rintro _ ⟨sc, rfl⟩ r -
  exact ⟨_, rfl⟩

/-- A slot whose report is written. -/
def slotIssued (sl : SlotRec) : SlotRec := { sl with issued := true }

/-- The report of a slot with its figures: it is written, counted at the carrier and marked; a failed slot's is a carrier fault. -/
theorem issueReport_eq {s : State} {c start : Nat} {sl : SlotRec} (i : Nat) (cfg : CarrierCfg) (status : Nat)
    (hsl : slotAt s c start = some sl) (hmeas : sl.meas.isSome = true) :
    ∃ m ss sc fr w, w = modSlots (modCarrier { s with mem := m, stalls := ss, school := sc, free := fr } c (countReport cfg sl status)) c
        (fun y => y.start == start) slotIssued
      ∧ (issueReport s c i cfg start status = w
        ∨ ∃ e : Event, e.code.toNat / 4096 = 3 ∧ issueReport s c i cfg start status = report w e) := by
  have hfind : (getCarrier s c).slots.find? (fun sl => sl.start == start) = some sl := hsl
  have hnone : ¬sl.meas.isNone = true := by simpa [Option.isSome_iff_ne_none] using hmeas
  unfold issueReport
  rw [hfind]
  dsimp only
  rw [if_neg hnone, hfind]
  dsimp only
  obtain ⟨m1, ss1, husers, -⟩ := regionWrite_eq (drew s) i (cfg.repOff + 2048 * ringEntry s c cfg sl + 64)
    (sl.users.zipIdx.flatMap (fun x => userRecord s c sl x.2 x.1)) false
  rw [husers]
  obtain ⟨m2, ss2, hhead, -⟩ := regionWrite_eq { drew s with mem := m1, stalls := ss1 } i (cfg.repOff + 2048 * ringEntry s c cfg sl)
    (reportHeader s c cfg sl status (draw s) (sl.users.zipIdx.flatMap (fun x => userRecord s c sl x.2 x.1))) false
  rw [hhead]
  obtain ⟨sc, htap⟩ := tapReported_eq (modCarrier { drew s with mem := m2, stalls := ss2 } c (countReport cfg sl status)) c start status sl.users
  rw [htap]
  split
  next code hcode => exact ⟨m2, ss2, sc, s.free + 1, _, rfl, .inr ⟨_, statusCode_carrier hcode, rfl⟩⟩
  · exact ⟨m2, ss2, sc, s.free + 1, _, rfl, .inl rfl⟩

/-- A slot with figures is reported. -/
theorem reported_of_measured {s : State} {c start : Nat} {sl : SlotRec} (i : Nat) (cfg : CarrierCfg) (status : Nat)
    (hsl : slotAt s c start = some sl) (hmeas : sl.meas.isSome = true) : Reported s (issueReport s c i cfg start status) c start status := by
  obtain ⟨m, ss, sc, fr, w, hw, hissue⟩ := issueReport_eq i cfg status hsl hmeas
  have hcounts : tallies (getCarrier w c) = tallies (countReport cfg sl status (getCarrier s c)) := by
    rw [hw, tallies_modSlots, getCarrier_modCarrier]
    rfl
  have hmarked : ∀ x ∈ (getCarrier w c).slots, x.start = start → x.issued = true := by
    rw [hw]
    exact forall_slots_modSlots (p := fun _ => True) (fun _ _ _ => trivial) (fun _ _ => rfl)
  have hreported : Reported s w c start status := ⟨by rw [hw]; rfl, hcounts, hmarked⟩
  obtain hquiet | ⟨e, he, hfault⟩ := hissue
  · rw [hquiet]
    exact hreported
  · have hsame := getCarrier_of_carriers (carriers_report he w) c
    rw [hfault]
    exact ⟨(offReport_of_told (report_told w e)).trans hreported.off, by rw [hsame, hreported.counts], by rw [hsame]; exact hreported.issued⟩

/-- The report of a slot that has its figures, or has no user to take figures of. -/
theorem issueReport_reports {s : State} {c start : Nat} {sl : SlotRec} (i : Nat) (cfg : CarrierCfg) (status : Nat)
    (hsl : slotAt s c start = some sl) (h : sl.meas.isSome = true ∨ sl.users = []) :
    Reported s (issueReport s c i cfg start status) c start status := by
  by_cases hmeas : sl.meas.isSome = true
  · exact reported_of_measured i cfg status hsl hmeas
  · obtain ⟨ms, hms⟩ := measure_eq (s := s) (c := c) i cfg (.inr (h.resolve_left hmeas))
    have hdrew : slotAt (drew s) c start = some sl := hsl
    have hfound : slotAt (measure s c i cfg sl) c start = some (slotMeasured ms sl) := by
      rw [hms, start_of_slotAt hsl]
      exact slotAt_modSlots (f := slotMeasured ms) (fun _ => rfl) hdrew
    have hsame : issueReport s c i cfg start status = issueReport (measure s c i cfg sl) c i cfg start status := by
      unfold issueReport slotAt at *
      rw [hsl, hfound]
      dsimp only
      rw [if_pos (by simpa using hmeas), if_neg (by simp [slotMeasured])]
    rw [hsame]
    refine (reported_of_measured i cfg status hfound rfl).of_prior ?_ ?_
    · rw [hms]
      rfl
    · rw [hms, tallies_modSlots]
      rfl

/-! ### DEADLINE (R49, R50, R432, R434) -/

/-- The record of a slot is there already. -/
theorem touchPlace_of_slotAt {s : State} {c : Nat} {p : SlotPlace} {sl : SlotRec} (h : slotAt s c p.start = some sl) : touchPlace s c p = s := by
  have hany : (getCarrier s c).slots.any (fun sl => sl.start == p.start) = true :=
    List.any_eq_true.2 ⟨sl, List.mem_of_find?_eq_some h, beq_iff_eq.2 (start_of_slotAt h)⟩
  unfold touchPlace
  split
  · rfl
  · exact if_pos (.inr (.inr hany))

theorem start_addCause (cause : Nat) (sl : SlotRec) : (addCause cause sl).start = sl.start := by
  unfold addCause
  split <;> rfl

/-- A slot to which no cause applies is judged sound: but for RESET and GUARANTEE, its record stays. -/
theorem slotAt_judgeSlot {s : State} {c i start : Nat} {cfg : CarrierCfg} {sl : SlotRec} (h : slotAt s c start = some sl)
    (hcauses : slotCauses s i cfg = []) (hlost : lostCauses s c cfg sl = []) :
    ∃ r g, slotAt (judgeSlot s c i cfg start) c start = some { sl with reset := r, noGuarantee := g } := by
  unfold judgeSlot
  dsimp only
  rw [slotAt_modSlots (fun x => ?_) h, hcauses, hlost, ite_self]
  · exact ⟨_, _, rfl⟩
  · exact foldl_keep SlotRec.start _ (fun sl cause => start_addCause cause sl) _ _

/-- A slot that is not complete, and that nothing else has failed, is cut: its report says DEADLINE_MISS. -/
theorem cutSlot_reports {s : State} {c start : Nat} {sl : SlotRec} (i : Nat) (cfg : CarrierCfg) (hsl : slotAt s c start = some sl)
    (hissued : sl.issued = false) (hdone : sl.done = false) (hcauses : sl.causes = []) (hblocks : sl.blocks = [])
    (h : sl.meas.isSome = true ∨ sl.users = []) : Reported s (cutSlot s c i cfg start true) c start 0x10 := by
  have hstatus (s : State) : cutStatus (allCauses s c sl) = 0x10 := by
    rw [allCauses, hcauses, hblocks]
    rfl
  unfold cutSlot
  rw [slotAt] at hsl
  rw [hsl]
  dsimp only
  rw [if_neg (by rw [hissued, hdone]; decide), if_pos rfl, hstatus]
  refine (issueReport_reports i cfg 0x10 ?_ h).of_prior rfl ?_
  · rw [slotAt, getCarrier_modCarrier]
    exact hsl
  · rw [getCarrier_modCarrier]
    rfl

section
variable {s u : State} {carrier : Fin 8} {slot : BitVec 6} {prevFrame : Bool} {cfg : CarrierCfg} {i : Nat} {sl : SlotRec} {g : GaitAct}
  {p : SlotPlace}

/-- The DEADLINE of a slot that has begun, with no earlier one unreported, judges the slot and cuts it. -/
theorem exec_deadline_cuts {x : SlotRec}
    (htake : takeAct s 2 (BitVec.ofNat 8 carrier.val) (fun a => bits a 0 6 == slot && bit a 6 == prevFrame) = some (g, u))
    (hcfg : carrierCfg s carrier.val = some cfg) (hstall : carrierStall s carrier.val = some i)
    (hp : actPlace u carrier.val g slot.toNat prevFrame = p)
    (hfirst : (getCarrier u carrier.val).first.any (fun f => decide (f ≤ p.start)) = true)
    (hslot : slotAt u carrier.val p.start = some x) (hearlier : earlierSlots (getCarrier u carrier.val) p.start = [])
    (hjudged : slotAt (judgeSlot u carrier.val i cfg p.start) carrier.val p.start = some sl) (hdone : sl.done = false) (hbegun : sl.begun = true) :
    exec (.deadline carrier slot prevFrame) s = .next (cutSlot (judgeSlot u carrier.val i cfg p.start) carrier.val i cfg p.start true) := by
  show execDeadline carrier slot prevFrame s = _
  unfold execDeadline
  dsimp only
  rw [htake, hcfg, hstall]
  dsimp only
  rw [hp, if_pos hfirst, hearlier, List.foldl_nil, touchPlace_of_slotAt hslot, ← slotAt, hjudged]
  dsimp only
  rw [hdone, hbegun]
  rfl

/-- DEADLINE of a slot that is not complete and to which no other cause applies: the slot is cut with DEADLINE_MISS. -/
theorem deadline_reports (htake : takeAct s 2 (BitVec.ofNat 8 carrier.val) (fun a => bits a 0 6 == slot && bit a 6 == prevFrame) = some (g, u))
    (hp : p = actPlace s carrier.val g slot.toNat prevFrame) (hcfg : carrierCfg s carrier.val = some cfg)
    (hstall : carrierStall s carrier.val = some i) {f : Nat} (hfirst : (getCarrier s carrier.val).first = some f) (hf : f ≤ p.start)
    (hslot : slotAt s carrier.val p.start = some sl) (hearlier : earlierSlots (getCarrier s carrier.val) p.start = [])
    (hsound : slotCauses s i cfg = []) (hlost : lostCauses s carrier.val cfg sl = []) (hbegun : sl.begun = true) (hissued : sl.issued = false)
    (hdone : sl.done = false) (hcauses : sl.causes = []) (hblocks : sl.blocks = []) (h : sl.meas.isSome = true ∨ sl.users = []) :
    ∃ t, exec (.deadline carrier slot prevFrame) s = .next t ∧ Reported s t carrier.val p.start 0x10 := by
  obtain ⟨a, rfl⟩ : ∃ a, u = { s with air := a } := ⟨_, takeAct_air (by decide) (by decide) htake⟩
  obtain ⟨r, n, hjudged⟩ := slotAt_judgeSlot (s := { s with air := a }) (i := i) (cfg := cfg) hslot hsound hlost
  refine ⟨_, exec_deadline_cuts htake hcfg hstall hp.symm ?_ hslot hearlier hjudged hdone hbegun, ?_⟩
  · exact (congrArg (Option.any fun f => decide (f ≤ p.start)) hfirst).trans (decide_eq_true hf)
  · refine (cutSlot_reports i cfg hjudged hissued hdone hcauses hblocks h).of_prior rfl ?_
    rw [judgeSlot, tallies_modSlots]
    rfl

end

/-! ### REPORT_COMPLETE (R431, R435, R436) -/

theorem tallies_raiseSource (s : State) (src : W16) (c : Nat) : tallies (getCarrier (raiseSource s src) c) = tallies (getCarrier s c) :=
  congrArg tallies (getCarrier_of_carriers (carriers_raiseSource s src) c)

/-- A carrier without the slot that begins at a tick. -/
def slotForgotten (start : Nat) (ca : Carrier) : Carrier := { ca with slots := ca.slots.filter (fun x => x.start != start) }

/-- Where `u` changed only carriers and schooling, reporting adds only what reporting changes. -/
theorem told_of_schooled {s u t : State} (hu : u = { s with carriers := u.carriers, school := u.school }) (ht : t = told u t) :
    t = { told s t with school := t.school } :=
  calc t = { told u t with school := t.school } := (congrArg (fun x : State => { x with school := t.school }) ht :)
    _ = { told s t with school := t.school } := (congrArg (fun x => { told x t with school := t.school }) hu :)

/-- A slot whose report HBM3 acknowledged. -/
def slotAcknowledged (sl : SlotRec) : SlotRec := { sl with done := true }

section
variable {s : State} {carrier : Fin 8} {cfg : CarrierCfg} {i : Nat} {sl : SlotRec} (hcfg : carrierCfg s carrier.val = some cfg)
  (hstall : carrierStall s carrier.val = some i) (hdue : firstDue (getCarrier s carrier.val) = some sl)
include hcfg hstall hdue

theorem exec_reportComplete_forgets (hissued : sl.issued = true) : exec (.reportComplete carrier) s = .next
    (raiseSource (modCarrier (unquiet s (getCarrier s carrier.val).array) carrier.val (slotForgotten sl.start))
      (BitVec.ofNat 16 (0x0400 + carrier.val))) := by
  show execReportComplete carrier s = _
  unfold execReportComplete
  dsimp only
  rw [hcfg, hstall, hdue]
  exact if_pos hissued

/-- The slot of a report written at its DEADLINE is forgotten. -/
theorem reportComplete_forgets (hissued : sl.issued = true) : ∃ t, exec (.reportComplete carrier) s = .next t
    ∧ (∀ x ∈ (getCarrier t carrier.val).slots, x.start ≠ sl.start)
    ∧ (getCarrier t carrier.val).repSeq = (getCarrier s carrier.val).repSeq ∧ t = { told s t with school := t.school } := by
  refine ⟨_, exec_reportComplete_forgets hcfg hstall hdue hissued, ?_, ?_, told_of_schooled rfl (told_of_aside (aside_raiseSource ..))⟩
  all_goals rw [getCarrier_of_carriers (carriers_raiseSource ..), getCarrier_modCarrier]
  · intro x hx
    exact bne_iff_ne.1 (List.mem_filter.1 hx).2
  · rfl

theorem exec_reportComplete_reports (hissued : sl.issued = false) (hready : reportDue s carrier.val cfg sl = true) :
    exec (.reportComplete carrier) s = .next (raiseSource (modSlots
      (issueReport (unquiet s (getCarrier s carrier.val).array) carrier.val i cfg sl.start (okStatus sl)) carrier.val
      (fun x => x.start == sl.start) slotAcknowledged) (BitVec.ofNat 16 (0x0400 + carrier.val))) := by
  have hready' : reportDue (unquiet s (getCarrier s carrier.val).array) carrier.val cfg sl = true := hready
  show execReportComplete carrier s = _
  unfold execReportComplete
  dsimp only
  rw [hcfg, hstall, hdue]
  dsimp only
  rw [if_neg (by rw [hissued]; decide), if_pos hready']
  rfl

/-- The report of a slot whose blocks have all ended is written, counted and acknowledged. -/
theorem reportComplete_reports (hslot : slotAt s carrier.val sl.start = some sl) (h : sl.meas.isSome = true ∨ sl.users = [])
    (hissued : sl.issued = false) (hready : reportDue s carrier.val cfg sl = true) :
    ∃ t, exec (.reportComplete carrier) s = .next t ∧ Reported s t carrier.val sl.start (okStatus sl)
      ∧ ∀ x ∈ (getCarrier t carrier.val).slots, x.start = sl.start → x.done = true := by
  have hreported := issueReport_reports (s := unquiet s (getCarrier s carrier.val).array) i cfg (okStatus sl) hslot h
  have hexec := exec_reportComplete_reports hcfg hstall hdue hissued hready
  generalize issueReport (unquiet s (getCarrier s carrier.val).array) carrier.val i cfg sl.start (okStatus sl) = v at hreported hexec
  obtain ⟨hoff, hcounts, hmarked⟩ := hreported
  have hraised := getCarrier_of_carriers (carriers_raiseSource (modSlots v carrier.val (fun x => x.start == sl.start) slotAcknowledged)
    (BitVec.ofNat 16 (0x0400 + carrier.val))) carrier.val
  refine ⟨_, hexec, ⟨?_, ?_, ?_⟩, ?_⟩
  · exact (offReport_of_told (told_of_aside (aside_raiseSource ..))).trans hoff
  · rw [hraised, tallies_modSlots]
    exact hcounts
  · rw [hraised]
    exact forall_slots_modSlots hmarked fun _ hx => hx
  · rw [hraised]
    exact forall_slots_modSlots hmarked fun _ _ => rfl

end

/-- Settles O33: the end of a block, then a slot cut at its DEADLINE, then the two cases of a report that completes, each by its rule above. -/
theorem blocksAndReports : Obligations.BlocksAndReports := by
  refine ⟨fun s dec c sl b cfg i u code hb hcfg hstall hserves hruns harr hu hcode hread => ?_,
    fun s carrier slot prevFrame cfg i sl f g u p htake hp hcfg hstall hfirst hf hslot hearlier hsound hlost hbegun hissued hdone hcauses
      hblocks h => ?_,
    fun s carrier cfg i sl hcfg hstall hdue hslot h => ⟨fun hissued => ?_, fun hissued hready hok => ?_⟩⟩
  · obtain ⟨t, hexec, hhbm, hkept⟩ := decodeBlockEnd_writes hu hcode hread hb hcfg hstall hserves hruns harr
    refine ⟨t, _, hexec, rfl, hhbm, fun k hk => ?_, hkept⟩
    rw [hhbm]
    exact tget_devPut_other _ _ _ _ hk
  · obtain ⟨t, hexec, hoff, hcounts, hmarked⟩ := deadline_reports htake hp hcfg hstall hfirst hf hslot hearlier hsound hlost hbegun hissued hdone
      hcauses hblocks h
    simp only [tallies, Prod.mk.injEq] at hcounts
    obtain ⟨hstatus, hseq, hcount, hmiss⟩ := hcounts
    exact ⟨t, hexec, hstatus, hmiss, hseq, hcount, (start_of_slotAt hslot).symm ▸ hmarked, kept_of_offReport hoff⟩
  · exact reportComplete_forgets hcfg hstall hdue hissued
  · obtain ⟨t, hexec, ⟨hoff, hcounts, hmarked⟩, hacked⟩ := reportComplete_reports hcfg hstall hdue hslot h hissued hready
    rw [hok] at hcounts
    simp only [tallies, Prod.mk.injEq] at hcounts
    obtain ⟨hstatus, hseq, hcount, hmiss⟩ := hcounts
    exact ⟨t, hexec, hstatus, hseq, hcount, hmiss, fun x hx hstart => ⟨hmarked x hx hstart, hacked x hx hstart⟩, kept_of_offReport hoff⟩

end Sys2Proof.Machine
end
